-- ==== Sys2Proof/Word.lean ====
section
/-! DEFINITION. The word types of the Tarron module and the sparse table that holds memory and register files. -/

namespace Sys2Proof

/-- A byte of memory. -/
abbrev Byte := BitVec 8
/-- A half-word. -/
abbrev W16 := BitVec 16
/-- A 32-bit word. -/
abbrev W32 := BitVec 32
/-- A 64-bit word. -/
abbrev W64 := BitVec 64

/-- A sparse table: keys strictly rising, no entry equal to the value an unlisted key reads as. -/
abbrev Tab (α : Type) := List (Nat × α)

/-- A 64-byte descriptor slot (R254). -/
abbrev Slot := BitVec 512

end Sys2Proof
end

