-- ==== Sys2Proof/Syntax.lean ====
section
/-! DEFINITION. The commands of the block: one constructor of `Instr` per row of spec/opcode_table.json, with the row's operands. -/

namespace Sys2Proof

/-- Who writes a doorbell (R250). -/
inductive Agent where
  /-- The core monitor of a control core of heat `heat`. -/
  | core (heat : Nat)
  /-- A DMA command of heat `heat` (RAW, 4 bytes per row). -/
  | dma (heat : Nat)
  /-- A remote DMA command whose packet carries `tag`. -/
  | remote (tag : Nat)
  /-- The management processor. -/
  | mgmt
  /-- Any other agent: always refused. -/
  | other
deriving DecidableEq, Repr

/-- The path a dictionary request or heat control came by (R474). -/
inductive Path where
  | can (client : Nat)
  | udp (addr port : Nat)
  | starter (session req : Nat)
  | bench
deriving DecidableEq, Repr

/-- Symbol errors in one 64-byte sector of stack memory, as nature makes them: (symbol, value XORed in). -/
structure SectorErr where
  sector : Nat
  syms   : List (Nat × Byte)
deriving DecidableEq, Repr

/-- An error of the data path in a unit of the array (R427 to R431, R433). -/
structure Residue where
  /-- The outlier unit instead of an array cell. -/
  outlier : Bool
  row     : Nat
  col     : Nat
  /-- The K-block in whose addends it falls; one past the last is the drain or the requantiser. -/
  kblock  : Nat
  /-- What the error adds to the cell's value: to the window, or to the drained code. -/
  delta   : Int
deriving DecidableEq, Repr

/-- What another chip's memory answers where a repeat or a photo finish reads the row of a fill again: the core's number of the fill,
the bank, the row, its MX scales, and its side list, the header first. -/
structure Reread where
  fill   : Nat
  bank   : Nat
  data   : List Byte
  scales : List Byte
  list   : List Byte
deriving DecidableEq, Repr

/-- What nature and timing supply to one array pass. -/
structure Nature where
  /-- Idle beats from feed stalls (R66). -/
  feedStall : Nat := 0
  /-- Errors of the data path in this pass; the residue checks find those that are no multiple of 7 (R430). -/
  errors    : List Residue := []
  /-- The rows read again from other chips (R122). -/
  rereads   : List Reread := []
deriving DecidableEq, Repr

/-- An error of the data path in one element of a vector operation: what it adds to the significand of the result. -/
structure VecErr where
  lane  : Nat
  /-- The upper element of a packed lane. -/
  hi    : Bool
  delta : Int
deriving DecidableEq, Repr

/-- Errors in a vector operation, and in its second issue where a retire check fails (R437). -/
structure VecResidue where
  first  : List VecErr
  second : List VecErr
deriving DecidableEq, Repr

/-- A vector instruction whose path ends in one result: its core, and the errors in it, if any. -/
structure VecIssue where
  core : Nat
  res  : Option VecResidue := none
deriving DecidableEq, Repr

/-- A lap beacon's body, its pace domain apart (R280). -/
structure Beacon where
  lap    : Nat
  setter : Nat
  ticks  : Nat
  hop    : Nat
  corr   : Nat
deriving DecidableEq, Repr

/-- What has not come up as a wave begins: clusters of it, and before the first wave channels that did not complete PHY training
(R411, R412). -/
structure WaveFaults where
  clusters : List Nat := []
  channels : List Nat := []
deriving DecidableEq, Repr

/-- A record of a session as it arrives: its length, and its message's request number (R384). -/
structure RecordIn where
  len : Nat
  req : Nat
deriving DecidableEq, Repr

/-- A fabric packet: the header fields of R312 and the data. -/
structure Packet where
  dst      : Nat
  src      : Nat
  tag      : Nat
  kind     : Nat
  adaptive : Bool := false
  wrapped  : Bool := false
  hops     : Nat := 0
  dataLen  : Nat := 0
  memOp    : Nat := 0
  offset   : Nat := 0
  txn      : Nat := 0
  orderNo  : Nat := 0
  orderEn  : Bool := false
  orderLast : Bool := false
  gradLayer : Nat := 0
  gradKind : Nat := 0
  code     : Nat := 0
  data     : List Byte := []
deriving DecidableEq, Repr

/-- A job notice's body (R455). -/
structure Notice where
  tag       : Nat
  origin    : Nat
  kind      : Nat
  onBehalf  : Bool
  voidWard  : Bool
  seq       : Nat
  subject   : Nat
  lapA      : Nat
  lapB      : Nat
  restartNo : Nat
  cls       : Nat
  cause     : Nat
deriving DecidableEq, Repr

/-- A load that changes by a wake token (R415). -/
inductive WakeUnit where
  | stack (n : Nat) (up : Bool)
  | cluster (n : Nat) (up : Bool)
  | core (n : Nat) (up : Bool)
  | laser (n : Nat) (up : Bool)
deriving DecidableEq, Repr

/-- What REGISTER_WRITE reaches: a dictionary entry, or an engine register of a core that has no row of its own; a store or a load of
the core's command program at an address of R161's map, with its width in bytes. -/
inductive RegTarget where
  | dict (index sub : Nat)
  | avl (core : Nat)
  | rngBase (core : Nat)
  | rngKey (core : Nat)
  | rngDraw (core : Nat)
  | addr (core n : Nat)
  | store (core address bytes : Nat)
  | load (core address bytes : Nat)
deriving DecidableEq, Repr

/-- A section of a job plan (R387), its fields decoded. -/
structure PlanPort where
  port      : Nat
  role      : Nat
  dim       : Nat
  dir       : Nat
  dateline  : Bool
  optional  : Bool
  minWidth  : Nat
  peerChip  : Nat
  peerPort  : Nat
  digest    : Nat
  checkEpoch : Bool
  vc2       : Nat
deriving DecidableEq, Repr

/-- A route of a job plan (R316). -/
structure PlanRoute where
  dst : Nat
  dor : BitVec 32
  min : BitVec 32
deriving DecidableEq, Repr

/-- One dictionary write of a plan's DICT section. -/
structure PlanWrite where
  index : Nat
  sub   : Nat
  value : List Byte
deriving DecidableEq, Repr

/-- One image of a plan's IMAGES section. -/
structure PlanImage where
  dst    : Nat
  bytes  : Nat
  digest : List Byte
deriving DecidableEq, Repr

/-- One target of a plan's STORAGE section. -/
structure PlanTarget where
  slot : Nat
  nqn  : List Byte
  addr : Nat
  port : Nat
  eth  : Nat
deriving DecidableEq, Repr

/-- The digests that a storage target has answered it uses (R377). -/
structure Digests where
  head : Bool := false
  data : Bool := false
deriving DecidableEq, Repr

/-- A job plan (R387), as its bytes decode. -/
structure Plan where
  transit  : Bool
  heat     : Nat
  adaptive : Bool
  tag      : Nat
  epoch    : Nat
  tail     : Nat
  writes   : List PlanWrite
  ports    : List PlanPort
  routes   : List PlanRoute
  images   : List PlanImage
  targets  : List PlanTarget
deriving DecidableEq, Repr

/-- A USDO request (R475): `write` none is an upload. -/
structure UsdoReq where
  valid : Bool
  index : Nat
  sub   : Nat
  write : Option (List Byte)
  /-- The transfer's last segment (expedited transfers have one). -/
  last  : Bool
  /-- The segment's place in the transfer. -/
  offset : Nat
deriving DecidableEq, Repr

/-- A unit whose storage or data path its detector covers (R432, R472): by logical core, by logical cluster (a cache way by the granule
it holds), by fabric port, or the device's own. -/
inductive UpsetUnit where
  | coreBuffer (core : Nat)
  | vectorRegister (core : Nat)
  | controlSram (core : Nat)
  | dmaBuffer (cluster : Nat)
  | cacheWay (cluster granule : Nat)
  | scratchWay (cluster : Nat)
  | router (port : Nat)
  | network
  | sectorBuffer
  | updateEngine
  | collectiveEngine
  | managementSram
deriving DecidableEq, Repr

/-- An error that a unit's detector has found, and whether it was correctable. -/
structure Upset where
  unit  : UpsetUnit
  fixed : Bool
deriving DecidableEq, Repr

/-- One sample of every sensor (R491); none marks a failed sensor. -/
structure Readings where
  /-- 96 die temperatures, 0.1 °C. -/
  die     : List (Option Int)
  /-- 32 stack temperatures, 0.1 °C. -/
  stackT  : List (Option Int)
  railMv  : List (Option Nat)
  railMa10 : List (Option Nat)
  watts   : Nat
  inlet   : Option Int
  outlet  : Option Int
  optical : List (Option Int)
  /-- Input voltage in mV and input current in mA over this millisecond. -/
  inMv    : Nat
  inMa    : Nat
  /-- The slowdown of physical slots' ring oscillators since their latest sweep, in 0.01 %: those read anew (0x2800:06). -/
  drift   : List (Nat × Int) := []
  /-- Errors found since the last sample outside the array, the vector engines, stack memory and the links (R432). -/
  upsets  : List Upset := []
deriving DecidableEq, Repr

/-- A swept Vmin of a physical core slot (R502). -/
structure Sweep where
  slot : Nat
  bin  : Nat
  vmin : Nat
  ring : Nat
deriving DecidableEq, Repr

/-- The commands, one per row of the operations table. -/
inductive Instr where
  -- queues and completion
  | doorbell (agent : Agent) (queue value : Nat)
  | ring (core queue value : Nat)
  | commandReachesHead (queue : Nat)
  | commandStart (queue : Nat)
  | notBeforeTime (queue : Nat)
  | completionRecord (queue : Nat)
  | nop (queue : Nat)
  | waitQueue (queue : Nat)
  -- the opcodes of a queue's running command
  | gemmTile (queue : Nat) (nature : Nature)
  | diagEw (queue : Nat) (nature : Nature)
  | vecRun (queue : Nat)
  | dmaCopy (queue : Nat) (errs : List SectorErr)
  | quantStream (queue : Nat)
  | reduceScatter (queue : Nat)
  | allGather (queue : Nat)
  | batonExchange (queue : Nat)
  | relay (queue : Nat)
  | gradOpen (queue : Nat)
  | updCoefSet (queue : Nat)
  | updateLayer (queue : Nat)
  | normSet (queue : Nat)
  | policySet (queue : Nat)
  | stepEnd (queue : Nat)
  | layerSet (queue : Nat)
  | progLoad (queue : Nat)
  | cacheInv (queue : Nat)
  | addOrderOpen (queue : Nat)
  | queueSet (queue : Nat)
  | testWindow (queue : Nat)
  -- repeats, ordered regions, memory
  | tileRepeat (queue : Nat) (nature : Nature)
  | heldContributionTaken (heat region order : Nat)
  | stagedContributionAdd (heat region : Nat)
  | patrolScrub (sector : Nat) (errs : List (Nat × Byte)) (written : Bool)
  | inDieCountRead (total : Nat)
  | handoffRoom (core : Nat)
  -- control core and vector blocks
  | vrun (core : Nat) (value : W32)
  | vectorBlockStart (core : Nat)
  | blockDone (core : Nat)
  | completionRegister (core : Nat) (value : W64)
  | summaryValueStore (core reg : Nat) (value : W32)
  | lapLimit (core : Nat)
  -- vector instructions
  | vectorNop (core : Nat)
  | fadd (core : Nat) (res : Option VecResidue)
  | fsub (core : Nat) (res : Option VecResidue)
  | fmul (core : Nat) (res : Option VecResidue)
  | fma (core : Nat) (res : Option VecResidue)
  | fms (core : Nat) (res : Option VecResidue)
  | fnma (core : Nat) (res : Option VecResidue)
  | fmax (core : Nat)
  | fmin (core : Nat)
  | fabs (core : Nat)
  | fneg (core : Nat)
  | fcsgn (core : Nat)
  | frnd (issue : VecIssue)
  | fscale (issue : VecIssue)
  | frcp (issue : VecIssue)
  | frsqrt (issue : VecIssue)
  | fexp2 (issue : VecIssue)
  | flog2 (issue : VecIssue)
  | ftanh (issue : VecIssue)
  | fsqrt (issue : VecIssue)
  | iadd (core : Nat)
  | isub (core : Nat)
  | imul (core : Nat)
  | imax (core : Nat)
  | imin (core : Nat)
  | and (core : Nat)
  | or (core : Nat)
  | xor (core : Nat)
  | andn (core : Nat)
  | shl (core : Nat)
  | shr (core : Nat)
  | fcmp (core : Nat)
  | icmp (core : Nat)
  | vsel (core : Nat)
  | mand (core : Nat)
  | mor (core : Nat)
  | mxor (core : Nat)
  | mnot (core : Nat)
  | mset (core : Nat)
  | vmov (core : Nat)
  | vidx (core : Nat)
  | vtos (core : Nat)
  | cvtfi (issue : VecIssue)
  | cvtif (issue : VecIssue)
  | packb (issue : VecIssue)
  | unpkb (issue : VecIssue)
  | cvth (issue : VecIssue)
  | vld (issue : VecIssue)
  | vst (issue : VecIssue)
  | vldm (core : Nat)
  | vstm (core : Nat)
  | setvl (core : Nat)
  | rclr (core : Nat)
  | rtap (core : Nat)
  | rwait (core : Nat)
  | vrng (core : Nat)
  | vrngu (core : Nat)
  | vrngb (core : Nat)
  | vqh (core : Nat)
  | fence (core : Nat)
  | vend (core : Nat)
  | photoFinish (queue : Nat) (nature : Nature)
  -- heats
  | start (path : Path) (heat : Nat)
  | stop (path : Path) (heat : Nat)
  | resume (path : Path) (heat : Nat)
  | release (path : Path) (heat : Nat)
  | discoveryMatch (heat : Nat)
  | stopComplete (heat : Nat)
  | releaseComplete (heat : Nat)
  -- pace
  | lapStart
  | lapBeacon (port domain : Nat) (body : Beacon) (reception : Int)
  | delayRequest (port : Nat) (t2 t3 : Int)
  | delayResponse (port : Nat) (t1 t2 t3 t4 : Int)
  | holdoverTimeout
  | paceLossDeclared
  | paceInEdge
  | paceInStuck
  | paceInFrequencyCheck (edges : Nat) (span : Nat)
  | paceInRecovered
  -- ports and the link layer
  | portControl (path : Path) (port value : Nat)
  | portTraining (port : Nat)
  | laneLock (port : Nat) (own peer : BitVec 4)
  | trainingTimeout (port : Nat)
  | laneLockLoss (port : Nat) (lanes : BitVec 4)
  | flitGroup (port : Nat) (header : BitVec 2048) (flits : List (BitVec 2048))
  | readReq (port : Nat) (p : Packet) (errs : List SectorErr)
  | readResp (port : Nat) (p : Packet)
  | write (port : Nat) (p : Packet) (errs : List SectorErr)
  | memOp (port : Nat) (p : Packet) (errs : List SectorErr)
  | ack (port : Nat) (p : Packet)
  | nak (port : Nat) (p : Packet)
  | backoffExpiry (queue index : Nat)
  | restartRetryLimit (queue index : Nat)
  | remoteTimeout (txn : Nat)
  | discoveryRecord (port : Nat) (record : BitVec 256)
  | discoverySend (port : Nat)
  | discoveryTimeout (port : Nat)
  -- collectives
  | collReady (port : Nat) (p : Packet)
  | collCounts (port : Nat) (p : Packet)
  | collGrant (port : Nat) (p : Packet)
  | collData (port : Nat) (p : Packet)
  | collAck (port : Nat) (p : Packet)
  | collHeld (port : Nat) (p : Packet)
  | collResume (port : Nat) (p : Packet)
  | collBusy (port : Nat) (p : Packet)
  | collBusyResend (txn : Nat)
  | collRefuse (port : Nat) (p : Packet)
  | collEnd (port : Nat) (p : Packet)
  | collectiveWaitExpiry (heat coll : Nat)
  -- events, notices, restarts, snapshots
  | eventHandling
  | fault (port : Nat) (n : Notice)
  | inventory (port : Nat) (n : Notice)
  | restore (port : Nat) (n : Notice)
  | restored (port : Nat) (n : Notice)
  | noticeResume (port : Nat) (n : Notice)
  | noSnapshot (port : Nat) (n : Notice)
  | onBehalfTimeout (heat : Nat)
  | inventoryWaitExpiry (heat : Nat)
  | leadTimeout (heat : Nat)
  | restoreRepeat (heat : Nat)
  | restoreComplete (heat : Nat)
  | resumeLap (heat : Nat)
  | snapshotLap (heat : Nat)
  | snapshotOwnWritten (heat : Nat)
  | snapshotCommitCheck (heat : Nat)
  | snapshotBuddySend (heat : Nat)
  | snapshotBuddyWritten (heat : Nat)
  -- spares, tests, margins
  | spareRotation (cluster : Nat)
  | spareMove (cluster : Nat)
  | spareTakeover (cluster : Nat)
  | spareTestComplete (cluster : Nat) (pass : Bool) (sweep : Sweep)
  | testOverdue (cluster : Nat)
  | monitorFlag (slot : Nat)
  | marginPlanCheck
  -- boot
  | inputValid
  | inputInvalid
  | strapLatch (pins : BitVec 12)
  | resetN (low : Bool) (width : Nat)
  | watchdogExpiry
  | pwrEn (level : Bool) (width : Nat)
  | warmUpWave (failed : WaveFaults)
  | memoryTestComplete (failed : List Nat) (repaired : List (Nat × Nat × Nat))
  | selfTestComplete (failed : List Nat) (sweeps : List Sweep)
  | linkTrainingEnd
  | wakeTokenRequest (unit : WakeUnit)
  | wakeTokenGrant
  | coreIdleTimeout (core : Nat)
  | updateImage (path : Path) (bytes : List Byte)
  | verifyAndWrite (path : Path)
  | discard (path : Path)
  | updateWriteComplete (ok : Bool)
  | recoveryAnnounce
  -- dictionary
  | udpRead (addr port : Nat) (header : BitVec 256) (data : List Byte)
  | udpWrite (addr port : Nat) (header : BitVec 256) (data : List Byte)
  | udpTransferTimeout (addr port index sub : Nat)
  | usdo (client : Nat) (req : UsdoReq)
  | usdoTimeout (client : Nat)
  | nmt (command node : Nat)
  | heartbeat
  | registerWrite (path : Path) (target : RegTarget) (value : List Byte)
  | storeAll (path : Path) (value : W32) (ok : Bool)
  | restoreDefaults (path : Path) (value : W32)
  | chipNumber (path : Path) (value : Nat)
  | powerClass (path : Path) (value : Nat)
  | paceRole (path : Path) (value : Nat)
  | quoteNonce (path : Path) (nonce : List Byte)
  | quoteReady
  | unlockToken (path : Path) (token : List Byte)
  | relock (path : Path) (value : Nat)
  | bypass
  | idcode
  | samplePreload (pins : Nat)
  | extest
  -- Ethernet and Starter
  | ethernetFrame (port : Nat) (frame : List Byte)
  | tcpConnection (port tcpPort : Nat)
  | hello (session version : Nat) (nonce kem : List Byte) (rcd : RecordIn)
  | auth (session : Nat) (tagOk : Bool) (rcd : RecordIn) (key sig : List Byte)
  | ping (session req : Nat)
  | sessionSetupTimeout (session : Nat)
  | sessionIdleTimeout (session : Nat)
  | planSubmit (session req : Nat) (plan : List Byte)
  | imageData (session req image offset : Nat) (data : List Byte)
  | jobStart (session req heat : Nat) (seed : W64)
  | planRemove (session req tag : Nat)
  | statusReq (session req : Nat) (entries : List (Nat × Nat))
  | take (session req heat lap : Nat)
  | snapshotCancel (session req heat : Nat)
  | restart (session req heat : Nat)
  | abandon (session req heat : Nat)
  | period (session req heat lap : Nat)
  | serveReq (session req heat maxTokens : Nat) (params : BitVec 256) (tokens : List W32)
  | cancel (session req target : Nat)
  | close (session : Nat)
  -- storage and serving
  | storageRingPoll (heat : Nat)
  | nvmeCompletion (heat cmd status : Nat) (data : List Byte)
  | storageReconnect (heat slot : Nat) (ok : Option Digests)
  | storageTargetTimeout (heat slot : Nat)
  | outboxPoll (heat : Nat) (blocked : List Nat)
  -- power and thermal
  | sensorSample (r : Readings)
  | backstopTrip
  | thermalTermStep
  | throttleN (low : Bool) (width : Nat)
  | throttleHeldLog
  | canBusOffRecovery (busOff : Bool)
  | poweredTimeSave
  | channelLinkLoss (channel : Nat)
  | windowTestComplete (cluster : Nat) (pass : Bool) (sweep : Sweep)
  | ethernetLinkState (port : Nat) (up : Bool)
deriving DecidableEq, Repr

end Sys2Proof
end

