-- ==== Sys2Proof/WellFormed.lean ====
section
/-! DEFINITION. Commands whose operands lie in the ranges the spec gives them. -/

namespace Sys2Proof

/-- Queue identifiers: 64 clusters of 4,096 (R246). -/
def queueOk (q : Nat) : Bool := q < 2 ^ 18
/-- Logical core slots: 64 clusters of 9, the ninth unused (R237). -/
def coreOk (k : Nat) : Bool := k < 576 && k % 9 != 8
def clusterOk (c : Nat) : Bool := c < 64
def heatOk (h : Nat) : Bool := h < 16
/-- Fabric ports (R302). -/
def portOk (p : Nat) : Bool := p < 32

/-- Who waits for a back-off: a queue, or the transfers of a heat's restart or snapshot, numbered after the queues. -/
def senderOk (q : Nat) : Bool := q < 2 ^ 18 + 16

/-- What a command names, for its well-formedness. -/
inductive Names where
  | queue (q : Nat)
  | core (k : Nat)
  | cluster (c : Nat)
  | heat (h : Nat)
  | port (p : Nat)
  | sender (q : Nat)
  | other
deriving DecidableEq, Repr

def Names.ok : Names → Bool
  | .queue q => queueOk q
  | .core k => coreOk k
  | .cluster c => clusterOk c
  | .heat h => heatOk h
  | .port p => portOk p
  | .sender q => senderOk q
  | .other => true

/-- What a command names. -/
def Instr.names : Instr → Names
  | .doorbell _ x _ => .queue x
  | .ring x _ _ => .core x
  | .commandReachesHead x => .queue x
  | .commandStart x => .queue x
  | .notBeforeTime x => .queue x
  | .completionRecord x => .queue x
  | .nop x => .queue x
  | .waitQueue x => .queue x
  | .gemmTile x _ => .queue x
  | .diagEw x _ => .queue x
  | .vecRun x => .queue x
  | .dmaCopy x _ => .queue x
  | .quantStream x => .queue x
  | .reduceScatter x => .queue x
  | .allGather x => .queue x
  | .batonExchange x => .queue x
  | .relay x => .queue x
  | .gradOpen x => .queue x
  | .updCoefSet x => .queue x
  | .updateLayer x => .queue x
  | .normSet x => .queue x
  | .policySet x => .queue x
  | .stepEnd x => .queue x
  | .layerSet x => .queue x
  | .progLoad x => .queue x
  | .cacheInv x => .queue x
  | .addOrderOpen x => .queue x
  | .queueSet x => .queue x
  | .testWindow x => .queue x
  | .tileRepeat x _ => .queue x
  | .heldContributionTaken x _ _ => .heat x
  | .stagedContributionAdd x _ => .heat x
  | .patrolScrub _ _ _ => .other
  | .inDieCountRead _ => .other
  | .handoffRoom x => .core x
  | .vrun x _ => .core x
  | .vectorBlockStart x => .core x
  | .blockDone x => .core x
  | .completionRegister x _ => .core x
  | .summaryValueStore x _ _ => .core x
  | .lapLimit x => .core x
  | .vectorNop x => .core x
  | .fadd x _ => .core x
  | .fsub x _ => .core x
  | .fmul x _ => .core x
  | .fma x _ => .core x
  | .fms x _ => .core x
  | .fnma x _ => .core x
  | .fmax x => .core x
  | .fmin x => .core x
  | .fabs x => .core x
  | .fneg x => .core x
  | .fcsgn x => .core x
  | .frnd x => .core x.core
  | .fscale x => .core x.core
  | .frcp x => .core x.core
  | .frsqrt x => .core x.core
  | .fexp2 x => .core x.core
  | .flog2 x => .core x.core
  | .ftanh x => .core x.core
  | .fsqrt x => .core x.core
  | .iadd x => .core x
  | .isub x => .core x
  | .imul x => .core x
  | .imax x => .core x
  | .imin x => .core x
  | .and x => .core x
  | .or x => .core x
  | .xor x => .core x
  | .andn x => .core x
  | .shl x => .core x
  | .shr x => .core x
  | .fcmp x => .core x
  | .icmp x => .core x
  | .vsel x => .core x
  | .mand x => .core x
  | .mor x => .core x
  | .mxor x => .core x
  | .mnot x => .core x
  | .mset x => .core x
  | .vmov x => .core x
  | .vidx x => .core x
  | .vtos x => .core x
  | .cvtfi x => .core x.core
  | .cvtif x => .core x.core
  | .packb x => .core x.core
  | .unpkb x => .core x.core
  | .cvth x => .core x.core
  | .vld x => .core x.core
  | .vst x => .core x.core
  | .vldm x => .core x
  | .vstm x => .core x
  | .setvl x => .core x
  | .rclr x => .core x
  | .rtap x => .core x
  | .rwait x => .core x
  | .vrng x => .core x
  | .vrngu x => .core x
  | .vrngb x => .core x
  | .vqh x => .core x
  | .fence x => .core x
  | .vend x => .core x
  | .photoFinish x _ => .queue x
  | .start _ x => .heat x
  | .stop _ x => .heat x
  | .resume _ x => .heat x
  | .release _ x => .heat x
  | .discoveryMatch x => .heat x
  | .stopComplete x => .heat x
  | .releaseComplete x => .heat x
  | .lapStart => .other
  | .lapBeacon x _ _ _ => .port x
  | .delayRequest x _ _ => .port x
  | .delayResponse x _ _ _ _ => .port x
  | .holdoverTimeout => .other
  | .paceLossDeclared => .other
  | .paceInEdge => .other
  | .paceInStuck => .other
  | .paceInFrequencyCheck _ _ => .other
  | .paceInRecovered => .other
  | .portControl _ x _ => .port x
  | .portTraining x => .port x
  | .laneLock x _ _ => .port x
  | .trainingTimeout x => .port x
  | .laneLockLoss x _ => .port x
  | .flitGroup x _ _ => .port x
  | .readReq x _ _ => .port x
  | .readResp x _ => .port x
  | .write x _ _ => .port x
  | .memOp x _ _ => .port x
  | .ack x _ => .port x
  | .nak x _ => .port x
  | .backoffExpiry x _ => .sender x
  | .restartRetryLimit x _ => .queue x
  | .remoteTimeout _ => .other
  | .discoveryRecord x _ => .port x
  | .discoverySend x => .port x
  | .discoveryTimeout x => .port x
  | .collReady x _ => .port x
  | .collCounts x _ => .port x
  | .collGrant x _ => .port x
  | .collData x _ => .port x
  | .collAck x _ => .port x
  | .collHeld x _ => .port x
  | .collResume x _ => .port x
  | .collBusy x _ => .port x
  | .collBusyResend _ => .other
  | .collRefuse x _ => .port x
  | .collEnd x _ => .port x
  | .collectiveWaitExpiry x _ => .heat x
  | .eventHandling => .other
  | .fault x _ => .port x
  | .inventory x _ => .port x
  | .restore x _ => .port x
  | .restored x _ => .port x
  | .noticeResume x _ => .port x
  | .noSnapshot x _ => .port x
  | .onBehalfTimeout x => .heat x
  | .inventoryWaitExpiry x => .heat x
  | .leadTimeout x => .heat x
  | .restoreRepeat x => .heat x
  | .restoreComplete x => .heat x
  | .resumeLap x => .heat x
  | .snapshotLap x => .heat x
  | .snapshotOwnWritten x => .heat x
  | .snapshotCommitCheck x => .heat x
  | .snapshotBuddySend x => .heat x
  | .snapshotBuddyWritten x => .heat x
  | .spareRotation x => .cluster x
  | .spareMove x => .cluster x
  | .spareTakeover x => .cluster x
  | .spareTestComplete x _ _ => .cluster x
  | .testOverdue x => .cluster x
  | .monitorFlag _ => .other
  | .marginPlanCheck => .other
  | .inputValid => .other
  | .inputInvalid => .other
  | .strapLatch _ => .other
  | .resetN _ _ => .other
  | .watchdogExpiry => .other
  | .pwrEn _ _ => .other
  | .warmUpWave _ => .other
  | .memoryTestComplete _ _ => .other
  | .selfTestComplete _ _ => .other
  | .linkTrainingEnd => .other
  | .wakeTokenRequest _ => .other
  | .wakeTokenGrant => .other
  | .coreIdleTimeout x => .core x
  | .updateImage _ _ => .other
  | .verifyAndWrite _ => .other
  | .discard _ => .other
  | .updateWriteComplete _ => .other
  | .recoveryAnnounce => .other
  | .udpRead _ _ _ _ => .other
  | .udpWrite _ _ _ _ => .other
  | .udpTransferTimeout _ _ _ _ => .other
  | .usdo _ _ => .other
  | .usdoTimeout _ => .other
  | .nmt _ _ => .other
  | .heartbeat => .other
  | .registerWrite _ _ _ => .other
  | .storeAll _ _ _ => .other
  | .restoreDefaults _ _ => .other
  | .chipNumber _ _ => .other
  | .powerClass _ _ => .other
  | .paceRole _ _ => .other
  | .quoteNonce _ _ => .other
  | .quoteReady => .other
  | .unlockToken _ _ => .other
  | .relock _ _ => .other
  | .bypass => .other
  | .idcode => .other
  | .samplePreload _ => .other
  | .extest => .other
  | .ethernetFrame _ _ => .other
  | .tcpConnection _ _ => .other
  | .hello _ _ _ _ _ => .other
  | .auth _ _ _ _ _ => .other
  | .ping _ _ => .other
  | .sessionSetupTimeout _ => .other
  | .sessionIdleTimeout _ => .other
  | .planSubmit _ _ _ => .other
  | .imageData _ _ _ _ _ => .other
  | .jobStart _ _ x _ => .heat x
  | .planRemove _ _ _ => .other
  | .statusReq _ _ _ => .other
  | .take _ _ x _ => .heat x
  | .snapshotCancel _ _ x => .heat x
  | .restart _ _ x => .heat x
  | .abandon _ _ x => .heat x
  | .period _ _ x _ => .heat x
  | .serveReq _ _ x _ _ _ => .heat x
  | .cancel _ _ _ => .other
  | .close _ => .other
  | .storageRingPoll x => .heat x
  | .nvmeCompletion x _ _ _ => .heat x
  | .storageReconnect x _ _ => .heat x
  | .storageTargetTimeout x _ => .heat x
  | .outboxPoll x _ => .heat x
  | .sensorSample _ => .other
  | .backstopTrip => .other
  | .thermalTermStep => .other
  | .throttleN _ _ => .other
  | .throttleHeldLog => .other
  | .canBusOffRecovery _ => .other
  | .poweredTimeSave => .other
  | .channelLinkLoss _ => .other
  | .windowTestComplete x _ _ => .cluster x
  | .ethernetLinkState _ _ => .other

/-- A command is well formed where the unit it names exists. -/
def Instr.wf (i : Instr) : Bool := i.names.ok

end Sys2Proof
end

