-- ==== Sys2Proof/Config.lean ====
section
/-! DEFINITION. What an implementation fixes, and the free values: constants without a body, of which nothing can be proved but
that they are functions of their arguments. -/

namespace Sys2Proof

/-- A free value: the n-th value the spec leaves open, `n` being State's own counter. -/
opaque Config.free : Nat → Nat

/-- A byte of test data that a memory test leaves: by the test's own number and the address (R414). -/
opaque Config.testData : Nat → Nat → BitVec 8

/-- What FRCP, FRSQRT, FEXP2, FLOG2 and FTANH give on a binary32 pattern (first argument 0 to 4), inside R145's bounds:
a value outside them is replaced by the correctly rounded one. -/
opaque Config.transcendental : Nat → Nat → Nat

/-- SHAKE256 of a message to so many bytes (R386, R509). -/
opaque Config.shake256 : List Byte → Nat → List Byte
/-- Whether a Falcon-1024 signature over a message verifies under a key. -/
opaque Config.falconVerify : List Byte → List Byte → List Byte → Bool
/-- The device's Falcon signature of a message. -/
opaque Config.falconSign : List Byte → List Byte
/-- ML-KEM-1024 encapsulation under a key with given randomness: the ciphertext, and the shared secret (R385). -/
opaque Config.kemCiphertext : List Byte → Nat → List Byte
opaque Config.kemSecret : List Byte → Nat → List Byte
/-- The block size of a namespace, and the most bytes of one command, of the storage target at an address (R377, R380). -/
opaque Config.blockSize : Nat → Nat → Nat
opaque Config.mdts : Nat → Nat
/-- The I/O queues that the target at an address offers, and their depth (R377). -/
opaque Config.ioQueues : Nat → Nat
opaque Config.ioDepth : Nat → Nat
/-- AES-256-GCM under a key and a 96-bit nonce: the ciphertext and its 16-byte tag (R384). -/
opaque Config.aesGcm : List Byte → List Byte → List Byte → List Byte
/-- What the starting blocks hold of a firmware-signing key slot and of a service-key slot: the first 32 bytes of the SHAKE256
digest of the slot's public key (R406). -/
opaque Config.firmwareKey : Nat → List Byte
opaque Config.serviceKey : Nat → List Byte
/-- SHAKE256 over header and body of the image the part was shipped with, 32 bytes. -/
opaque Config.factoryDigest : List Byte
/-- The device's Falcon public key, and Xoino's signature over it and the serial number (R508). -/
opaque Config.identityKey : List Byte
opaque Config.manufactureSignature : List Byte
/-- Xoino's CiA vendor ID, and the IDCODE register's value (R489, R515). -/
opaque Config.vendorId : Nat
opaque Config.idcode : Nat
/-- The fastest that a digital observation point other than a core clock toggles, in MHz (R514). -/
opaque Config.pointMhz : Nat → Nat
/-- The module's boundary scan: its length in bits, and its bits for the levels of the pins (R515). -/
opaque Config.scanLength : Nat
opaque Config.scanBits : List Bool → Nat
/-- The event number, in subsystem 0x08, of a ring fault's C0 event, which the event table does not list (R379, R494). -/
opaque Config.ringFaultEvent : Nat
/-- What an entry reads, by its key, of something that has never happened on the device (the powered hours since a full memory
test that never ran). -/
opaque Config.unstated : Nat → Nat

end Sys2Proof
end

