-- ==== Sys2Proof/Machine/Table.lean ====
section
/-! DEFINITION. Sparse tables in canonical form: the one shape of memory and of every large register file. -/

namespace Sys2Proof

/-- What key `k` reads as: `d` where the table lists nothing. -/
def tabGet {α : Type} (d : α) : Tab α → Nat → α
  | [], _ => d
  | (j, v) :: t, k => if j = k then v else tabGet d t k

/-- The entries whose key satisfies `p`, dropped. -/
def tabDrop {α : Type} (p : Nat → Bool) (t : Tab α) : Tab α := t.filter fun kv => !p kv.1

/-- `k` set to `v`; an entry equal to the unlisted value `d` is removed. A read after it gives `v` at `k` and what it gave
before elsewhere, whatever the table. -/
def tabSet {α : Type} [DecidableEq α] (d : α) : Tab α → Nat → α → Tab α
  | [], k, v => if v = d then [] else [(k, v)]
  | (j, w) :: t, k, v =>
    if k < j then (if v = d then (j, w) :: tabDrop (· == k) t else (k, v) :: (j, w) :: t)
    else if k = j then (if v = d then tabDrop (· == k) t else (k, v) :: t)
    else (j, w) :: tabSet d t k v

/-- Every key of the table is above `lo` and the keys rise; no entry holds `d`. -/
def tabWfAbove {α : Type} [DecidableEq α] (d : α) : Nat → Tab α → Bool
  | _, [] => true
  | lo, (j, v) :: t => decide (lo ≤ j) && decide (v ≠ d) && tabWfAbove d (j + 1) t

/-- The canonical form: keys strictly rising, no entry equal to the unlisted value. -/
def tabWf {α : Type} [DecidableEq α] (d : α) (t : Tab α) : Bool := tabWfAbove d 0 t

/-- `f` applied to what `k` holds. -/
def tabMod {α : Type} [DecidableEq α] (d : α) (t : Tab α) (k : Nat) (f : α → α) : Tab α :=
  tabSet d t k (f (tabGet d t k))

/-- A list's element, or `d`. -/
def nth {α : Type} (d : α) : List α → Nat → α
  | [], _ => d
  | a :: _, 0 => a
  | _ :: l, n + 1 => nth d l n

/-- Element `n` of a list replaced; the list unchanged where it is shorter. -/
def setNth {α : Type} : List α → Nat → α → List α
  | [], _, _ => []
  | _ :: l, 0, v => v :: l
  | a :: l, n + 1, v => a :: setNth l n v

/-- Element `n` changed by `f`. -/
def modNth {α : Type} : List α → Nat → (α → α) → List α
  | [], _, _ => []
  | a :: l, 0, f => f a :: l
  | a :: l, n + 1, f => a :: modNth l n f

/-- The first element that satisfies `p`, changed by `f`; the list unchanged where none does. -/
def modFirst {α : Type} (p : α → Bool) (f : α → α) : List α → List α
  | [] => []
  | a :: l => if p a then f a :: l else a :: modFirst p f l

/-- The list without its first element that satisfies `p`. -/
def dropFirst {α : Type} (p : α → Bool) : List α → List α
  | [] => []
  | a :: l => if p a then l else a :: dropFirst p l

/-- The numbers of a range at which `p` holds. -/
def rangeWhere (n : Nat) (p : Nat → Bool) : List Nat := (List.range n).filter p

/-- The sum of `f` over 0 to n - 1. -/
def sumTo (n : Nat) (f : Nat → Nat) : Nat := (List.range n).foldl (fun a i => a + f i) 0

/-- Pieces of `n` elements; the last piece may be shorter. `fuel` bounds their number. -/
def chunk {α : Type} (n : Nat) : Nat → List α → List (List α)
  | 0, _ => []
  | _, [] => []
  | fuel + 1, l => l.take n :: chunk n fuel (l.drop n)

end Sys2Proof
end

