-- ==== Sys2Proof/Machine/Bits.lean ====
section
/-! DEFINITION. Bit fields, sign extension and byte order. -/

namespace Sys2Proof

/-- How far an index lies ahead of another, indices counting modulo 2^32. -/
def aheadOf (a b : Nat) : Nat := (a + 2 ^ 32 - b) % 2 ^ 32

/-- Bits hi to lo of a number. -/
def bitsOf (v hi lo : Nat) : Nat := (v >>> lo) % 2 ^ (hi + 1 - lo)

/-- One bit of a number. -/
def bitOf (v n : Nat) : Bool := (v >>> n) % 2 == 1

/-- Bits hi to lo of a word. -/
def fld {n : Nat} (d : BitVec n) (hi lo : Nat) : Nat := bitsOf d.toNat hi lo

/-- The signed value of a `w`-bit two's-complement field. -/
def sext (w v : Nat) : Int := if v < 2 ^ (w - 1) then (v : Int) else (v : Int) - (2 ^ w : Nat)

/-- The low `w` bits of an integer, two's complement. -/
def wrapInt (w : Nat) (v : Int) : Nat := (v % ((2 ^ w : Nat) : Int)).toNat

/-- An integer held to 0 to 2^w - 1. -/
def satNat (w v : Nat) : Nat := min v (2 ^ w - 1)

/-- `n` bytes of a number, the lowest first (R22). -/
def bytesOf : Nat → Nat → List Byte
  | 0, _ => []
  | n + 1, v => BitVec.ofNat 8 v :: bytesOf n (v / 256)

/-- The number little-endian bytes hold. -/
def natOfBytes : List Byte → Nat
  | [] => 0
  | b :: l => b.toNat + 256 * natOfBytes l

/-- `n` bytes of a number, the highest first. -/
def bytesBE (n v : Nat) : List Byte := (bytesOf n v).reverse

/-- The number big-endian bytes hold. -/
def natOfBytesBE (l : List Byte) : Nat := natOfBytes l.reverse

/-- A byte from a number. -/
def byte (v : Nat) : Byte := BitVec.ofNat 8 v

/-- `n` zero bytes. -/
def zeros (n : Nat) : List Byte := List.replicate n 0#8

/-- Bytes cut or filled with zeros to length `n`. -/
def fitBytes (n : Nat) (l : List Byte) : List Byte := (l ++ zeros (n - l.length)).take n

/-- Bytes `o` to `o + n - 1`, absent ones as zero. -/
def sliceBytes (l : List Byte) (o n : Nat) : List Byte := fitBytes n (l.drop o)

/-- The little-endian number at byte `o`. -/
def natAt (l : List Byte) (o n : Nat) : Nat := natOfBytes (sliceBytes l o n)

/-- The number of bits set among the low `w`. -/
def popCount (w v : Nat) : Nat := ((List.range w).filter (bitOf v)).length

/-- The bits set among the low `w`, lowest first. -/
def bitsSet (w v : Nat) : List Nat := (List.range w).filter (bitOf v)

/-- A number with the listed bits set. -/
def ofBits (l : List Nat) : Nat := l.foldl (fun a b => a ||| 2 ^ b) 0

/-- A number with bit `n` set or cleared. -/
def putBit (v n : Nat) (b : Bool) : Nat :=
  if bitOf v n then (if b then v else v - 2 ^ n) else (if b then v + 2 ^ n else v)

/-- A number with bits hi to lo replaced. -/
def putBits (v hi lo x : Nat) : Nat :=
  v - bitsOf v hi lo * 2 ^ lo + (x % 2 ^ (hi + 1 - lo)) * 2 ^ lo

/-- 1 for true. -/
def b2n (b : Bool) : Nat := if b then 1 else 0

/-- Ceiling division. -/
def ceilDiv (a b : Nat) : Nat := (a + b - 1) / b

/-- a / b to the nearest integer, ties to even (R14). -/
def divEven (a b : Nat) : Nat :=
  let q := a / b
  let r := a % b
  if 2 * r > b || (2 * r = b && q % 2 = 1) then q + 1 else q

/-- The same of a signed dividend. -/
def divEvenInt (a : Int) (b : Nat) : Int :=
  let q := (divEven a.natAbs b : Int)
  if a < 0 then -q else q

end Sys2Proof
end

