-- ==== Sys2Proof/Machine/DictTable.lean ====
section
/-! DEFINITION. The object dictionary's entries, as the tables of the spec's chapters give them: index, how many indices the
family has, sub-index, bytes (0 for DOMAIN and strings), access and numeric default. -/

namespace Sys2Proof

/-- Access of an entry (R474). -/
inductive Acc where
  | const
  | ro
  | rw
  | rws
  | wo
deriving DecidableEq, Repr

structure DictEntry where
  index : Nat
  count : Nat
  sub   : Nat
  size  : Nat
  acc   : Acc
  dflt  : Nat
deriving DecidableEq, Repr

def dictTable0 : List DictEntry := [
  ⟨0x1000, 1, 0, 4, .const, 0⟩,
  ⟨0x1001, 1, 0, 1, .ro, 0⟩,
  ⟨0x1008, 1, 0, 0, .const, 0⟩,
  ⟨0x1009, 1, 0, 0, .const, 0⟩,
  ⟨0x100A, 1, 0, 0, .ro, 0⟩,
  ⟨0x1010, 1, 0, 1, .const, 1⟩,
  ⟨0x1010, 1, 1, 4, .rw, 1⟩,
  ⟨0x1011, 1, 0, 1, .const, 1⟩,
  ⟨0x1011, 1, 1, 4, .rw, 1⟩,
  ⟨0x1017, 1, 0, 2, .rw, 1000⟩,
  ⟨0x1018, 1, 0, 1, .const, 4⟩,
  ⟨0x1018, 1, 1, 4, .const, 0⟩,
  ⟨0x1018, 1, 2, 4, .const, 0⟩,
  ⟨0x1018, 1, 3, 4, .ro, 0⟩,
  ⟨0x1018, 1, 4, 4, .const, 0⟩,
  ⟨0x2000, 1, 0, 1, .const, 7⟩,
  ⟨0x2000, 1, 1, 2, .ro, 0⟩,
  ⟨0x2000, 1, 2, 2, .ro, 0⟩,
  ⟨0x2000, 1, 3, 1, .ro, 64⟩,
  ⟨0x2000, 1, 4, 1, .ro, 1⟩,
  ⟨0x2000, 1, 5, 1, .ro, 0⟩,
  ⟨0x2000, 1, 6, 1, .rw, 0⟩,
  ⟨0x2000, 1, 7, 1, .ro, 0⟩,
  ⟨0x2010, 1, 0, 1, .const, 4⟩,
  ⟨0x2010, 1, 1, 1, .rw, 64⟩,
  ⟨0x2010, 1, 2, 1, .rw, 1⟩,
  ⟨0x2010, 1, 3, 0, .rw, 0⟩,
  ⟨0x2010, 1, 4, 0, .rw, 0⟩,
  ⟨0x2100, 1, 0, 1, .const, 13⟩,
  ⟨0x2100, 1, 1, 1, .rws, 0⟩,
  ⟨0x2100, 1, 2, 2, .ro, 5600⟩,
  ⟨0x2100, 1, 3, 2, .rw, 2000⟩,
  ⟨0x2100, 1, 4, 2, .ro, 5600⟩,
  ⟨0x2100, 1, 5, 1, .ro, 1⟩,
  ⟨0x2100, 1, 6, 2, .rw, 1050⟩,
  ⟨0x2100, 1, 7, 2, .rw, 950⟩,
  ⟨0x2100, 1, 8, 2, .rw, 400⟩,
  ⟨0x2100, 1, 9, 2, .rw, 450⟩,
  ⟨0x2100, 1, 10, 0, .ro, 0⟩,
  ⟨0x2100, 1, 11, 2, .ro, 65535⟩,
  ⟨0x2100, 1, 12, 4, .ro, 0⟩,
  ⟨0x2100, 1, 13, 1, .ro, 0⟩,
  ⟨0x2110, 1, 0, 1, .const, 9⟩,
  ⟨0x2110, 1, 1, 0, .ro, 0⟩,
  ⟨0x2110, 1, 2, 2, .ro, 0⟩,
  ⟨0x2110, 1, 3, 0, .ro, 0⟩,
  ⟨0x2110, 1, 4, 0, .ro, 0⟩,
  ⟨0x2110, 1, 5, 0, .ro, 0⟩,
  ⟨0x2110, 1, 6, 2, .ro, 0⟩,
  ⟨0x2110, 1, 7, 2, .ro, 0⟩,
  ⟨0x2110, 1, 8, 2, .ro, 0⟩,
  ⟨0x2110, 1, 9, 0, .ro, 0⟩]

def dictTable1 : List DictEntry := [
  ⟨0x2200, 1, 0, 1, .const, 14⟩,
  ⟨0x2200, 1, 1, 1, .rws, 0⟩,
  ⟨0x2200, 1, 2, 4, .rws, 0x2625a⟩,
  ⟨0x2200, 1, 3, 4, .ro, 0x2625a⟩,
  ⟨0x2200, 1, 4, 2, .rws, 0⟩,
  ⟨0x2200, 1, 5, 1, .ro, 0⟩,
  ⟨0x2200, 1, 6, 1, .rws, 0⟩,
  ⟨0x2200, 1, 7, 2, .ro, 0⟩,
  ⟨0x2200, 1, 8, 1, .ro, 0⟩,
  ⟨0x2200, 1, 9, 1, .ro, 255⟩,
  ⟨0x2200, 1, 10, 4, .ro, 0⟩,
  ⟨0x2200, 1, 11, 1, .ro, 0⟩,
  ⟨0x2200, 1, 12, 0, .rws, 0⟩,
  ⟨0x2200, 1, 13, 8, .ro, 0⟩,
  ⟨0x2200, 1, 14, 4, .ro, 0⟩,
  ⟨0x2300, 32, 0, 1, .const, 16⟩,
  ⟨0x2300, 32, 1, 1, .ro, 1⟩,
  ⟨0x2300, 32, 2, 1, .ro, 0⟩,
  ⟨0x2300, 32, 3, 1, .ro, 0⟩,
  ⟨0x2300, 32, 4, 2, .ro, 0⟩,
  ⟨0x2300, 32, 5, 1, .ro, 255⟩,
  ⟨0x2300, 32, 6, 4, .ro, 0⟩,
  ⟨0x2300, 32, 7, 8, .ro, 0⟩,
  ⟨0x2300, 32, 8, 1, .rw, 1⟩,
  ⟨0x2300, 32, 9, 4, .ro, 0⟩,
  ⟨0x2300, 32, 10, 8, .ro, 0⟩,
  ⟨0x2300, 32, 11, 8, .ro, 0⟩,
  ⟨0x2300, 32, 12, 4, .ro, 0⟩,
  ⟨0x2300, 32, 13, 8, .ro, 0⟩,
  ⟨0x2300, 32, 14, 8, .ro, 0⟩,
  ⟨0x2300, 32, 15, 8, .ro, 0⟩,
  ⟨0x2300, 32, 16, 8, .ro, 0⟩,
  ⟨0x2320, 1, 0, 1, .const, 8⟩,
  ⟨0x2320, 1, 1, 0, .ro, 0⟩,
  ⟨0x2320, 1, 2, 1, .rws, 48⟩,
  ⟨0x2320, 1, 3, 4, .rw, 5000⟩,
  ⟨0x2320, 1, 4, 4, .rw, 100⟩,
  ⟨0x2320, 1, 5, 4, .rw, 6400⟩,
  ⟨0x2320, 1, 6, 4, .rw, 30000⟩,
  ⟨0x2320, 1, 7, 0, .ro, 0⟩,
  ⟨0x2320, 1, 8, 2, .rws, 0⟩]

def dictTable2 : List DictEntry := [
  ⟨0x2400, 2, 0, 1, .const, 9⟩,
  ⟨0x2400, 2, 1, 8, .ro, 0⟩,
  ⟨0x2400, 2, 2, 1, .ro, 0⟩,
  ⟨0x2400, 2, 3, 2, .rws, 9000⟩,
  ⟨0x2400, 2, 4, 1, .rw, 1⟩,
  ⟨0x2400, 2, 5, 1, .rws, 1⟩,
  ⟨0x2400, 2, 6, 0, .rws, 0⟩,
  ⟨0x2400, 2, 7, 1, .rws, 1⟩,
  ⟨0x2400, 2, 8, 0, .rws, 0⟩,
  ⟨0x2400, 2, 9, 2, .rws, 0⟩,
  ⟨0x2402, 1, 0, 1, .const, 4⟩,
  ⟨0x2402, 1, 1, 1, .rw, 1⟩,
  ⟨0x2402, 1, 2, 0, .rw, 0⟩,
  ⟨0x2402, 1, 3, 1, .ro, 0⟩,
  ⟨0x2402, 1, 4, 2, .rw, 60⟩,
  ⟨0x2440, 16, 0, 1, .const, 11⟩,
  ⟨0x2440, 16, 1, 8, .rws, 0⟩,
  ⟨0x2440, 16, 2, 1, .rws, 0⟩,
  ⟨0x2440, 16, 3, 4, .rws, 0xffffffff⟩,
  ⟨0x2440, 16, 4, 8, .rws, 0⟩,
  ⟨0x2440, 16, 5, 1, .rws, 0⟩,
  ⟨0x2440, 16, 6, 8, .rws, 0⟩,
  ⟨0x2440, 16, 7, 8, .rws, 0⟩,
  ⟨0x2440, 16, 8, 8, .rws, 0⟩,
  ⟨0x2440, 16, 9, 4, .rws, 0xffffffff⟩,
  ⟨0x2440, 16, 10, 0, .ro, 0⟩,
  ⟨0x2440, 16, 11, 4, .rws, 30⟩,
  ⟨0x2500, 16, 0, 1, .const, 19⟩,
  ⟨0x2500, 16, 1, 1, .ro, 0⟩,
  ⟨0x2500, 16, 2, 1, .wo, 0⟩,
  ⟨0x2500, 16, 3, 8, .rws, 0⟩,
  ⟨0x2500, 16, 4, 0, .rws, 0⟩,
  ⟨0x2500, 16, 5, 1, .rws, 0⟩,
  ⟨0x2500, 16, 6, 1, .rws, 0⟩,
  ⟨0x2500, 16, 7, 1, .rws, 0⟩,
  ⟨0x2500, 16, 8, 4, .rws, 0⟩,
  ⟨0x2500, 16, 9, 1, .rws, 1⟩,
  ⟨0x2500, 16, 10, 8, .rws, 0⟩,
  ⟨0x2500, 16, 11, 4, .rws, 0⟩,
  ⟨0x2500, 16, 12, 8, .rws, 0⟩,
  ⟨0x2500, 16, 13, 4, .rws, 0⟩,
  ⟨0x2500, 16, 14, 8, .wo, 0⟩,
  ⟨0x2500, 16, 15, 8, .rws, 0⟩,
  ⟨0x2500, 16, 16, 4, .rws, 64⟩,
  ⟨0x2500, 16, 17, 8, .rws, 0⟩,
  ⟨0x2500, 16, 18, 2, .rws, 0⟩,
  ⟨0x2500, 16, 19, 4, .ro, 0⟩]

def dictTable3 : List DictEntry := [
  ⟨0x2510, 16, 0, 1, .const, 7⟩,
  ⟨0x2510, 16, 1, 8, .rws, 0⟩,
  ⟨0x2510, 16, 2, 8, .rws, 0⟩,
  ⟨0x2510, 16, 3, 8, .rws, 0⟩,
  ⟨0x2510, 16, 4, 8, .ro, 0⟩,
  ⟨0x2510, 16, 5, 8, .ro, 0⟩,
  ⟨0x2510, 16, 6, 8, .ro, 0⟩,
  ⟨0x2510, 16, 7, 8, .ro, 0⟩,
  ⟨0x2530, 16, 0, 1, .const, 18⟩,
  ⟨0x2530, 16, 1, 4, .rw, 0⟩,
  ⟨0x2530, 16, 2, 0, .rws, 0⟩,
  ⟨0x2530, 16, 3, 8, .rws, 0⟩,
  ⟨0x2530, 16, 4, 8, .rws, 0⟩,
  ⟨0x2530, 16, 5, 2, .rws, 0⟩,
  ⟨0x2530, 16, 6, 8, .rws, 0⟩,
  ⟨0x2530, 16, 7, 1, .rws, 1⟩,
  ⟨0x2530, 16, 8, 2, .rws, 0⟩,
  ⟨0x2530, 16, 9, 8, .rws, 0⟩,
  ⟨0x2530, 16, 10, 2, .rws, 16⟩,
  ⟨0x2530, 16, 11, 2, .rws, 0⟩,
  ⟨0x2530, 16, 12, 2, .rws, 1⟩,
  ⟨0x2530, 16, 13, 8, .rws, 0⟩,
  ⟨0x2530, 16, 14, 4, .rws, 0⟩,
  ⟨0x2530, 16, 15, 0, .ro, 0⟩,
  ⟨0x2530, 16, 16, 1, .ro, 0⟩,
  ⟨0x2530, 16, 17, 2, .rws, 64⟩,
  ⟨0x2530, 16, 18, 8, .rws, 0⟩,
  ⟨0x2610, 1, 0, 1, .const, 9⟩,
  ⟨0x2610, 1, 1, 2, .rw, 64⟩,
  ⟨0x2610, 1, 2, 2, .rw, 16⟩,
  ⟨0x2610, 1, 3, 2, .rw, 0⟩,
  ⟨0x2610, 1, 4, 2, .rw, 4096⟩,
  ⟨0x2610, 1, 5, 2, .rw, 0⟩,
  ⟨0x2610, 1, 6, 1, .rw, 2⟩,
  ⟨0x2610, 1, 7, 1, .rw, 64⟩,
  ⟨0x2610, 1, 8, 2, .rw, 20⟩,
  ⟨0x2610, 1, 9, 2, .rw, 200⟩,
  ⟨0x2700, 1, 0, 1, .const, 6⟩,
  ⟨0x2700, 1, 1, 8, .ro, 0⟩,
  ⟨0x2700, 1, 2, 8, .ro, 0⟩,
  ⟨0x2700, 1, 3, 8, .rw, 0⟩,
  ⟨0x2700, 1, 4, 0, .ro, 0⟩,
  ⟨0x2700, 1, 5, 1, .rw, 1⟩,
  ⟨0x2700, 1, 6, 8, .ro, 0⟩]

def dictTable4 : List DictEntry := [
  ⟨0x2710, 1, 0, 1, .const, 6⟩,
  ⟨0x2710, 1, 1, 1, .ro, 0⟩,
  ⟨0x2710, 1, 2, 1, .ro, 0⟩,
  ⟨0x2710, 1, 3, 2, .const, 720⟩,
  ⟨0x2710, 1, 4, 1, .const, 3⟩,
  ⟨0x2710, 1, 5, 0, .ro, 0⟩,
  ⟨0x2710, 1, 6, 4, .ro, 0⟩,
  ⟨0x2720, 1, 0, 1, .const, 3⟩,
  ⟨0x2720, 1, 1, 1, .rw, 0⟩,
  ⟨0x2720, 1, 2, 2, .rw, 24⟩,
  ⟨0x2720, 1, 3, 4, .rw, 4096⟩,
  ⟨0x2730, 1, 0, 1, .const, 5⟩,
  ⟨0x2730, 1, 1, 4, .ro, 0⟩,
  ⟨0x2730, 1, 2, 4, .ro, 0⟩,
  ⟨0x2730, 1, 3, 0, .ro, 0⟩,
  ⟨0x2730, 1, 4, 4, .rw, 0x11170⟩,
  ⟨0x2730, 1, 5, 1, .ro, 16⟩,
  ⟨0x2800, 1, 0, 1, .const, 8⟩,
  ⟨0x2800, 1, 1, 1, .rw, 25⟩,
  ⟨0x2800, 1, 2, 2, .const, 500⟩,
  ⟨0x2800, 1, 3, 0, .ro, 0⟩,
  ⟨0x2800, 1, 4, 0, .ro, 0⟩,
  ⟨0x2800, 1, 5, 0, .ro, 0⟩,
  ⟨0x2800, 1, 6, 0, .ro, 0⟩,
  ⟨0x2800, 1, 7, 0, .ro, 0⟩,
  ⟨0x2800, 1, 8, 4, .ro, 0⟩,
  ⟨0x2900, 1, 0, 1, .const, 9⟩,
  ⟨0x2900, 1, 1, 2, .rw, 24⟩,
  ⟨0x2900, 1, 2, 1, .rw, 30⟩,
  ⟨0x2900, 1, 3, 1, .rw, 30⟩,
  ⟨0x2900, 1, 4, 1, .rw, 1⟩,
  ⟨0x2900, 1, 5, 2, .rw, 72⟩,
  ⟨0x2900, 1, 6, 0, .ro, 0⟩,
  ⟨0x2900, 1, 7, 0, .ro, 0⟩,
  ⟨0x2900, 1, 8, 0, .ro, 0⟩,
  ⟨0x2900, 1, 9, 8, .ro, 0⟩,
  ⟨0x2A00, 1, 0, 1, .const, 8⟩,
  ⟨0x2A00, 1, 1, 0, .const, 0⟩,
  ⟨0x2A00, 1, 2, 0, .const, 0⟩,
  ⟨0x2A00, 1, 3, 8, .const, 0⟩,
  ⟨0x2A00, 1, 4, 0, .ro, 0⟩,
  ⟨0x2A00, 1, 5, 0, .wo, 0⟩,
  ⟨0x2A00, 1, 6, 0, .ro, 0⟩,
  ⟨0x2A00, 1, 7, 4, .ro, 0⟩,
  ⟨0x2A00, 1, 8, 4, .const, 0⟩]

def dictTable5 : List DictEntry := [
  ⟨0x2A10, 1, 0, 1, .const, 13⟩,
  ⟨0x2A10, 1, 1, 1, .ro, 0⟩,
  ⟨0x2A10, 1, 2, 1, .ro, 0⟩,
  ⟨0x2A10, 1, 3, 8, .ro, 0⟩,
  ⟨0x2A10, 1, 4, 2, .ro, 0⟩,
  ⟨0x2A10, 1, 5, 0, .wo, 0⟩,
  ⟨0x2A10, 1, 6, 1, .wo, 0⟩,
  ⟨0x2A10, 1, 7, 1, .ro, 0⟩,
  ⟨0x2A10, 1, 8, 1, .ro, 0⟩,
  ⟨0x2A10, 1, 9, 1, .ro, 0⟩,
  ⟨0x2A10, 1, 10, 4, .ro, 0⟩,
  ⟨0x2A10, 1, 11, 2, .ro, 0⟩,
  ⟨0x2A10, 1, 12, 2, .ro, 0⟩,
  ⟨0x2A10, 1, 13, 4, .ro, 0⟩,
  ⟨0x2B00, 1, 0, 1, .const, 8⟩,
  ⟨0x2B00, 1, 1, 1, .ro, 0⟩,
  ⟨0x2B00, 1, 2, 8, .ro, 0⟩,
  ⟨0x2B00, 1, 3, 0, .wo, 0⟩,
  ⟨0x2B00, 1, 4, 1, .wo, 0⟩,
  ⟨0x2B00, 1, 5, 0, .rw, 0⟩,
  ⟨0x2B00, 1, 6, 2, .rw, 65535⟩,
  ⟨0x2B00, 1, 7, 1, .rw, 0⟩,
  ⟨0x2B00, 1, 8, 4, .ro, 0⟩,
  ⟨0x2C00, 1, 0, 1, .const, 14⟩,
  ⟨0x2C00, 1, 1, 1, .ro, 0⟩,
  ⟨0x2C00, 1, 2, 0, .ro, 0⟩,
  ⟨0x2C00, 1, 3, 1, .ro, 0⟩,
  ⟨0x2C00, 1, 4, 0, .ro, 0⟩,
  ⟨0x2C00, 1, 5, 8, .ro, 0⟩,
  ⟨0x2C00, 1, 6, 0, .ro, 0⟩,
  ⟨0x2C00, 1, 7, 0, .ro, 0⟩,
  ⟨0x2C00, 1, 8, 0, .ro, 0⟩,
  ⟨0x2C00, 1, 9, 0, .ro, 0⟩,
  ⟨0x2C00, 1, 10, 8, .ro, 0⟩,
  ⟨0x2C00, 1, 11, 0, .ro, 0⟩,
  ⟨0x2C00, 1, 12, 4, .ro, 0⟩,
  ⟨0x2C00, 1, 13, 1, .ro, 0⟩,
  ⟨0x2C00, 1, 14, 1, .ro, 0⟩,
  ⟨0x2C10, 1, 0, 1, .const, 6⟩,
  ⟨0x2C10, 1, 1, 1, .ro, 32⟩,
  ⟨0x2C10, 1, 2, 2, .ro, 2048⟩,
  ⟨0x2C10, 1, 3, 2, .ro, 0⟩,
  ⟨0x2C10, 1, 4, 8, .ro, 0x2ffffffffff⟩,
  ⟨0x2C10, 1, 5, 0, .ro, 0⟩,
  ⟨0x2C10, 1, 6, 0, .ro, 0⟩]

def dictTable6 : List DictEntry := [
  ⟨0x2D10, 1, 0, 1, .const, 8⟩,
  ⟨0x2D10, 1, 1, 8, .ro, 0⟩,
  ⟨0x2D10, 1, 2, 8, .ro, 0⟩,
  ⟨0x2D10, 1, 3, 4, .ro, 0⟩,
  ⟨0x2D10, 1, 4, 8, .ro, 0⟩,
  ⟨0x2D10, 1, 5, 4, .ro, 0⟩,
  ⟨0x2D10, 1, 6, 0, .ro, 0⟩,
  ⟨0x2D10, 1, 7, 8, .ro, 0⟩,
  ⟨0x2D10, 1, 8, 8, .ro, 0⟩,
  ⟨0x2D20, 16, 0, 1, .const, 8⟩,
  ⟨0x2D20, 16, 1, 8, .ro, 0⟩,
  ⟨0x2D20, 16, 2, 8, .ro, 0⟩,
  ⟨0x2D20, 16, 3, 8, .ro, 0⟩,
  ⟨0x2D20, 16, 4, 8, .ro, 0⟩,
  ⟨0x2D20, 16, 5, 8, .ro, 0⟩,
  ⟨0x2D20, 16, 6, 8, .ro, 0⟩,
  ⟨0x2D20, 16, 7, 8, .ro, 0⟩,
  ⟨0x2D20, 16, 8, 8, .ro, 0⟩,
  ⟨0x2D30, 1, 0, 1, .const, 8⟩,
  ⟨0x2D30, 1, 1, 8, .ro, 0⟩,
  ⟨0x2D30, 1, 2, 8, .ro, 0⟩,
  ⟨0x2D30, 1, 3, 4, .ro, 0⟩,
  ⟨0x2D30, 1, 4, 4, .ro, 0⟩,
  ⟨0x2D30, 1, 5, 4, .ro, 0⟩,
  ⟨0x2D30, 1, 6, 8, .ro, 0⟩,
  ⟨0x2D30, 1, 7, 4, .ro, 0⟩,
  ⟨0x2D30, 1, 8, 4, .ro, 0⟩,
  ⟨0x2D40, 1, 0, 1, .const, 8⟩,
  ⟨0x2D40, 1, 1, 4, .ro, 0⟩,
  ⟨0x2D40, 1, 2, 4, .ro, 0⟩,
  ⟨0x2D40, 1, 3, 4, .ro, 0⟩,
  ⟨0x2D40, 1, 4, 8, .ro, 0⟩,
  ⟨0x2D40, 1, 5, 4, .ro, 0⟩,
  ⟨0x2D40, 1, 6, 8, .ro, 0⟩,
  ⟨0x2D40, 1, 7, 8, .ro, 0⟩,
  ⟨0x2D40, 1, 8, 8, .ro, 0⟩,
  ⟨0x2D50, 1, 0, 1, .const, 3⟩,
  ⟨0x2D50, 1, 1, 8, .ro, 0⟩,
  ⟨0x2D50, 1, 2, 8, .ro, 0⟩,
  ⟨0x2D50, 1, 3, 4, .ro, 0⟩]

def dictTable7 : List DictEntry := [
  ⟨0x2D60, 1, 0, 1, .const, 9⟩,
  ⟨0x2D60, 1, 1, 0, .ro, 0⟩,
  ⟨0x2D60, 1, 2, 8, .ro, 0⟩,
  ⟨0x2D60, 1, 3, 8, .ro, 0⟩,
  ⟨0x2D60, 1, 4, 4, .ro, 0⟩,
  ⟨0x2D60, 1, 5, 4, .ro, 0⟩,
  ⟨0x2D60, 1, 6, 4, .ro, 0⟩,
  ⟨0x2D60, 1, 7, 8, .ro, 0⟩,
  ⟨0x2D60, 1, 8, 0, .ro, 0⟩,
  ⟨0x2D60, 1, 9, 0, .ro, 0⟩,
  ⟨0x2D70, 1, 0, 1, .const, 7⟩,
  ⟨0x2D70, 1, 1, 8, .ro, 0⟩,
  ⟨0x2D70, 1, 2, 4, .ro, 0⟩,
  ⟨0x2D70, 1, 3, 4, .ro, 0⟩,
  ⟨0x2D70, 1, 4, 4, .ro, 0⟩,
  ⟨0x2D70, 1, 5, 4, .ro, 0⟩,
  ⟨0x2D70, 1, 6, 4, .ro, 0⟩,
  ⟨0x2D70, 1, 7, 8, .ro, 0⟩]

def dictTable : List DictEntry :=
  dictTable0 ++ dictTable1 ++ dictTable2 ++ dictTable3 ++ dictTable4 ++ dictTable5 ++ dictTable6 ++ dictTable7

/-- The entry at an index and sub-index. -/
def dictEntry (i s : Nat) : Option DictEntry :=
  dictTable.find? fun e => e.index ≤ i && i < e.index + e.count && e.sub == s

/-- Whether the dictionary has an index. -/
def dictHasIndex (i : Nat) : Bool := dictTable.any fun e => e.index ≤ i && i < e.index + e.count

/-- An entry's numeric default. -/
def dictDefault (i s : Nat) : Nat := match dictEntry i s with | some e => e.dflt | none => 0

/-- The key of an entry in the dictionary's tables. -/
def dkey (i s : Nat) : Nat := i * 256 + s

end Sys2Proof
end

