-- ==== Sys2Proof/Machine/Numbers.lean ====
section
/-! DEFINITION. Exact values, rounding and the number formats (chapter "Number formats"). -/

namespace Sys2Proof

/-- A value a unit computes with: NaN, an infinity, or an exact dyadic m × 2^e with a sign. -/
inductive FV where
  | nan
  | inf (neg : Bool)
  | fin (neg : Bool) (m : Nat) (e : Int)
deriving DecidableEq, Repr

/-- Event counts of a conversion (R45) with outlier overflow and window loss beside them. -/
structure Ev where
  sat : Nat := 0
  zblk : Nat := 0
  nanb : Nat := 0
  flush : Nat := 0
  outf : Nat := 0
  wloss : Nat := 0
deriving DecidableEq, Repr

def Ev.add (a b : Ev) : Ev :=
  ⟨a.sat + b.sat, a.zblk + b.zblk, a.nanb + b.nanb, a.flush + b.flush, a.outf + b.outf, a.wloss + b.wloss⟩

def evSat : Ev := { sat := 1 }
def evZblk : Ev := { zblk := 1 }
def evNanb : Ev := { nanb := 1 }
def evFlush : Ev := { flush := 1 }
def evSum (l : List Ev) : Ev := l.foldl Ev.add {}

/-- The numeric class of a heat (R43). -/
inductive Cls where
  | train
  | serve
deriving DecidableEq, Repr

namespace FV

def zero : FV := .fin false 0 0
def one : FV := .fin false 1 0

def isNan : FV → Bool | .nan => true | _ => false
def isInf : FV → Bool | .inf _ => true | _ => false
def isZero : FV → Bool | .fin _ m _ => m == 0 | _ => false
def isFin : FV → Bool | .fin .. => true | _ => false
/-- The sign; NaN carries none. -/
def signOf : FV → Bool | .nan => false | .inf s => s | .fin s _ _ => s
def neg : FV → FV | .nan => .nan | .inf s => .inf (!s) | .fin s m e => .fin (!s) m e
def abs : FV → FV | .nan => .nan | .inf _ => .inf false | .fin _ m e => .fin false m e
/-- The value times 2^k. -/
def scale (k : Int) : FV → FV | .fin s m e => .fin s m (e + k) | v => v

/-- An integer. -/
def ofInt (v : Int) : FV := .fin (decide (v < 0)) v.natAbs 0
/-- An integer times 2^e. -/
def ofIntE (v : Int) (e : Int) : FV := .fin (decide (v < 0)) v.natAbs e

end FV

/-- m × 2^e moved to exponent q, where q ≤ e. -/
def alignTo (q : Int) (m : Nat) (e : Int) : Nat := m <<< (e - q).toNat

/-- Whether m1 × 2^e1 ≤ m2 × 2^e2. -/
def dyLe (m1 : Nat) (e1 : Int) (m2 : Nat) (e2 : Int) : Bool :=
  let q := min e1 e2
  alignTo q m1 e1 ≤ alignTo q m2 e2

/-- Whether m1 × 2^e1 < m2 × 2^e2. -/
def dyLt (m1 : Nat) (e1 : Int) (m2 : Nat) (e2 : Int) : Bool := !dyLe m2 e2 m1 e1

/-- floor(log2 (m × 2^e)) for m above 0. -/
def floorLog2 (m : Nat) (e : Int) : Int := (Nat.log2 m : Int) + e

/-- m / 2^k to the nearest, ties to even (R14). -/
def rneShr (m k : Nat) : Nat :=
  let q := m >>> k
  let r := m - (q <<< k)
  let half := 2 ^ k / 2
  if k = 0 then m else if r > half || (r == half && q % 2 == 1) then q + 1 else q

/-- m × 2^e in units of 2^q, to the nearest, ties to even. -/
def rneAt (m : Nat) (e q : Int) : Nat :=
  if e ≥ q then m <<< (e - q).toNat else rneShr m (q - e).toNat

/-- A signed integer divided by 2^k, to the nearest, ties to even (R14). -/
def rneInt (v : Int) (k : Nat) : Int :=
  let m := (rneShr v.natAbs k : Int)
  if v < 0 then -m else m

/-- The signed value of a finite FV in units of 2^q, where q is at most its exponent. -/
def fvInt (q : Int) : FV → Int
  | .fin s m e => let v := (alignTo q m e : Int); if s then -v else v
  | _ => 0

/-- The exact sum. A zero sum of values that are not both negative zeros is +0. -/
def fvAdd : FV → FV → FV
  | .nan, _ => .nan
  | _, .nan => .nan
  | .inf a, .inf b => if a == b then .inf a else .nan
  | .inf a, _ => .inf a
  | _, .inf b => .inf b
  | .fin a m e, .fin b n f =>
    let q := min e f
    let v := fvInt q (.fin a m e) + fvInt q (.fin b n f)
    if v = 0 then .fin (m == 0 && n == 0 && a && b) 0 0 else .ofIntE v q

def fvSub (a b : FV) : FV := fvAdd a b.neg

/-- The exact product; an infinity times zero is NaN. -/
def fvMul : FV → FV → FV
  | .nan, _ => .nan
  | _, .nan => .nan
  | .inf a, .inf b => .inf (a != b)
  | .inf a, .fin b n _ => if n = 0 then .nan else .inf (a != b)
  | .fin a m _, .inf b => if m = 0 then .nan else .inf (a != b)
  | .fin a m e, .fin b n f => .fin (a != b) (m * n) (e + f)

/-- Numeric order for two values that are not NaN; +0 and -0 are equal. -/
def fvLt : FV → FV → Bool
  | .nan, _ => false
  | _, .nan => false
  | .inf a, .inf b => a && !b
  | .inf a, _ => a
  | _, .inf b => !b
  | .fin a m e, .fin b n f =>
    let q := min e f
    fvInt q (.fin a m e) < fvInt q (.fin b n f)

def fvEq : FV → FV → Bool
  | .nan, _ => false
  | _, .nan => false
  | .inf a, .inf b => a == b
  | .inf _, _ => false
  | _, .inf _ => false
  | .fin a m e, .fin b n f =>
    let q := min e f
    fvInt q (.fin a m e) == fvInt q (.fin b n f)

/-- A quotient of positive dyadics kept to 64 bits below its leading bit with the remainder as a last odd bit,
so that every later rounding of the device's formats is the rounding of the exact quotient. -/
def fvDiv : FV → FV → FV
  | .nan, _ => .nan
  | _, .nan => .nan
  | .inf _, .inf _ => .nan
  | .inf a, .fin b _ _ => .inf (a != b)
  | .fin a _ _, .inf b => .fin (a != b) 0 0
  | .fin a m e, .fin b n f =>
    if n = 0 then (if m = 0 then .nan else .inf (a != b))
    else
      let k := 66 + Nat.log2 n
      let num := m <<< k
      let q := num / n
      let st := if num % n = 0 then 0 else 1
      .fin (a != b) (2 * q + st) (e - f - (k : Int) - 1)

/-- floor(sqrt n) by halving, `fuel` bits deep. -/
def isqrtLoop : Nat → Nat → Nat → Nat
  | 0, _, r => r
  | k + 1, n, r =>
    let c := r + 2 ^ k
    if c * c ≤ n then isqrtLoop k n c else isqrtLoop k n r

def isqrt (n : Nat) : Nat := isqrtLoop (Nat.log2 n / 2 + 1) n 0

/-- The square root, kept to at least 60 bits with the remainder as a last odd bit. -/
def fvSqrt : FV → FV
  | .nan => .nan
  | .inf s => if s then .nan else .inf false
  | .fin s m e =>
    if m = 0 then .fin s 0 0
    else if s then .nan
    else
      let k : Nat := if e % 2 = 0 then 120 else 121
      let n := m <<< k
      let r := isqrt n
      let st := if r * r = n then 0 else 1
      .fin false (2 * r + st) ((e - (k : Int)) / 2 - 1)

/-- An element format with a sign, an exponent and a mantissa. -/
structure FloatFmt where
  expBits : Nat
  manBits : Nat
  bias : Nat
  /-- The code of the largest finite magnitude. -/
  maxCode : Nat
  /-- The code of infinity, where the format has one. -/
  infCode : Option Nat
  /-- The canonical NaN, where the format has one (R41). -/
  nanCode : Option Nat
  /-- Flushed in SERVE heats (R43). -/
  flushes : Bool
deriving DecidableEq, Repr

def fmtE2M1 : FloatFmt := ⟨2, 1, 1, 0x7, none, none, false⟩
def fmtE2M3 : FloatFmt := ⟨2, 3, 1, 0x1F, none, none, false⟩
def fmtE3M2 : FloatFmt := ⟨3, 2, 3, 0x1F, none, none, false⟩
def fmtE4M3 : FloatFmt := ⟨4, 3, 7, 0x7E, none, some 0x7F, true⟩
def fmtE5M2 : FloatFmt := ⟨5, 2, 15, 0x7B, some 0x7C, some 0x7E, true⟩
def fmtF16 : FloatFmt := ⟨5, 10, 15, 0x7BFF, some 0x7C00, some 0x7E00, true⟩
def fmtBF16 : FloatFmt := ⟨8, 7, 127, 0x7F7F, some 0x7F80, some 0x7FC0, true⟩
def fmtF32 : FloatFmt := ⟨8, 23, 127, 0x7F7FFFFF, some 0x7F800000, some 0x7FC00000, true⟩

/-- Bits of a code without the sign. -/
def FloatFmt.width (f : FloatFmt) : Nat := f.expBits + f.manBits
/-- The exponent of the smallest normal. -/
def FloatFmt.emin (f : FloatFmt) : Int := 1 - (f.bias : Int)

/-- The value of a magnitude code as m and e, the steps above the largest code continuing its binade (R38). -/
def FloatFmt.codeVal (f : FloatFmt) (c : Nat) : Nat × Int :=
  let x := c / 2 ^ f.manBits
  let man := c % 2 ^ f.manBits
  if x = 0 then (man, f.emin - f.manBits)
  else (2 ^ f.manBits + man, (x : Int) - 1 + f.emin - f.manBits)

/-- The sign bit of a code. -/
def FloatFmt.signBit (f : FloatFmt) : Nat := 2 ^ f.width

def FloatFmt.isSub (f : FloatFmt) (mag : Nat) : Bool := mag != 0 && mag < 2 ^ f.manBits

/-- The value a code has (R16, R17, R48), with no flush. -/
def FloatFmt.decode (f : FloatFmt) (c : Nat) : FV :=
  let mag := c % f.signBit
  let neg := bitOf c f.width
  if some mag = f.infCode then .inf neg
  else if mag > f.maxCode then .nan
  else let v := f.codeVal mag; .fin neg v.1 v.2

/-- A code read by a unit of a heat of class `c` (R43): a subnormal becomes zero of the same sign in SERVE. -/
def FloatFmt.read (f : FloatFmt) (cls : Cls) (c : Nat) : FV × Bool :=
  if cls = .serve && f.flushes && f.isSub (c % f.signBit) then (.fin (bitOf c f.width) 0 0, true)
  else (f.decode c, false)

/-- The magnitude code nearest m × 2^e, ties to even, continuing past the largest (R14, R38). -/
def FloatFmt.roundCode (f : FloatFmt) (m : Nat) (e : Int) : Nat :=
  if m = 0 then 0
  else
    let l := max (floorLog2 m e) f.emin
    let n := rneAt m e (l - f.manBits)
    (l - f.emin).toNat * 2 ^ f.manBits + n

/-- Whether a magnitude saturates: it lies at or above the half-way point past the largest finite value (R38). -/
def FloatFmt.overTop (f : FloatFmt) (m : Nat) (e : Int) : Bool :=
  let a := f.codeVal f.maxCode
  let b := f.codeVal (f.maxCode + 1)
  let q := min a.2 b.2
  dyLe (alignTo q a.1 a.2 + alignTo q b.1 b.2) q (2 * m) e

/-- A value written in a format by a conversion (R36 to R43): the code and its events. -/
def FloatFmt.encode (f : FloatFmt) (cls : Cls) (v : FV) : Nat × Ev :=
  let sg (s : Bool) := if s then f.signBit else 0
  match v with
  | .nan => (f.nanCode.getD 0, {})
  | .inf s =>
    match f.infCode, cls with
    | some c, .train => (sg s + c, {})
    | _, _ => (sg s + f.maxCode, evSat)
  | .fin s m e =>
    if f.overTop m e then (sg s + f.maxCode, evSat)
    else
      let c := f.roundCode m e
      if cls = .serve && f.flushes && f.isSub c then (sg s, evFlush) else (sg s + c, {})

/-- A value rounded to a format with no saturation, flush or event: the value, infinite past the largest (used for
values formed inside a unit). -/
def FloatFmt.roundVal (f : FloatFmt) (v : FV) : FV :=
  match v with
  | .fin s m e =>
    if f.overTop m e then .inf s
    else let x := f.codeVal (f.roundCode m e); .fin s x.1 x.2
  | w => w

/-- A binary32 pattern as a value, and back with IEEE overflow to infinity. -/
def f32 (w : Nat) : FV := fmtF32.decode w

def FloatFmt.encodeIeee (f : FloatFmt) (v : FV) : Nat :=
  match v with
  | .nan => f.nanCode.getD 0
  | .inf s => (if s then f.signBit else 0) + f.infCode.getD f.maxCode
  | .fin s m e =>
    (if s then f.signBit else 0) + (if f.overTop m e then f.infCode.getD f.maxCode else f.roundCode m e)

/-- An integer format's range. -/
structure IntFmt where
  bits : Nat
  signed : Bool
deriving DecidableEq, Repr

def IntFmt.lo (f : IntFmt) : Int := if f.signed then -((2 ^ (f.bits - 1) : Nat) : Int) else 0
def IntFmt.hi (f : IntFmt) : Int :=
  if f.signed then ((2 ^ (f.bits - 1) : Nat) : Int) - 1 else ((2 ^ f.bits : Nat) : Int) - 1

/-- An integer held to a format's range, with whether it saturated (R36). -/
def IntFmt.clamp (f : IntFmt) (v : Int) : Int × Bool :=
  if v > f.hi then (f.hi, true) else if v < f.lo then (f.lo, true) else (v, false)

/-- A value converted to an integer format (R36, R38, R39, R41). -/
def IntFmt.encode (f : IntFmt) (v : FV) : Int × Ev :=
  match v with
  | .nan => (0, evNanb)
  | .inf s => (if s then f.lo else f.hi, evSat)
  | .fin s m e =>
    let t := if s then (-f.lo).toNat else f.hi.toNat
    if dyLe (2 * t + 1) 0 (2 * m) e then (if s then f.lo else f.hi, evSat)
    else let n := (rneAt m e 0 : Int); (if s then -n else n, {})

/-- The drain requantiser's result (R55) and whether it saturated. -/
def requantise (f : IntFmt) (acc mult : Int) (shift : Nat) : Int × Bool :=
  f.clamp (rneInt (acc * mult) shift)

end Sys2Proof
end

