-- ==== Sys2Proof/Machine/Quant.lean ====
section
/-! DEFINITION. Block records, the quantiser and the conversion matrix (R20 to R51). -/

namespace Sys2Proof

/-- The element kind of a block. -/
inductive Elem where
  | e2m1
  | e4m3
  | e2m3
  | e3m2
  | e5m2
  | int8
deriving DecidableEq, Repr

/-- A block of 32 elements: scale code, four sub-block shifts (0 in MX blocks) and element codes. -/
structure Block where
  exp    : Nat
  shifts : List Nat
  codes  : List Nat
deriving DecidableEq, Repr

def zeroShifts : List Nat := [0, 0, 0, 0]
def zeroCodes : List Nat := List.replicate 32 0
/-- The zero block (R20, R29). -/
def zeroBlock : Block := ⟨0, zeroShifts, zeroCodes⟩
/-- The poisoned block (R40): exponent 0xFF, shifts written as 0 (R24). DESIGN CHOICE (log entry 99): its element codes, of which
R40 says nothing, are written as zeros. -/
def poisonBlock : Block := ⟨0xFF, zeroShifts, zeroCodes⟩

def Elem.float : Elem → FloatFmt
  | .e2m1 => fmtE2M1
  | .e4m3 => fmtE4M3
  | .e2m3 => fmtE2M3
  | .e3m2 => fmtE3M2
  | .e5m2 => fmtE5M2
  | .int8 => fmtE4M3

/-- R33's emax; for the other MX kinds the exponent of the largest code. -/
def Elem.emax : Elem → Int
  | .e2m1 => 2
  | .e4m3 => 8
  | .e2m3 => 2
  | .e3m2 => 4
  | .e5m2 => 15
  | .int8 => 0

/-- R33's limit as m × 2^e: the magnitude that would round above the largest code. -/
def Elem.limit : Elem → Nat × Int
  | .e2m1 => (7, 0)
  | .e4m3 => (464, 0)
  | .e2m3 => (31, -2)
  | .e3m2 => (30, 0)
  | .e5m2 => (61440, 0)
  | .int8 => (255, -7)

/-- The value of an element code, its scale not applied, and whether it was flushed (R16 to R18, R43, R47). `mx` marks
MX data, where a zero keeps its sign. -/
def Elem.read (el : Elem) (mx : Bool) (cls : Cls) (c : Nat) : FV × Bool :=
  match el with
  | .int8 => (.ofIntE (sext 8 (c % 256)) (-6), false)
  | _ =>
    let r := el.float.read cls c
    if !mx && r.1.isZero then (.zero, r.2) else r

/-- A scaled value written as an element code (R36 to R39, R41, R43). -/
def Elem.write (el : Elem) (mx : Bool) (cls : Cls) (v : FV) : Nat × Ev :=
  match el with
  | .int8 =>
    let r := (IntFmt.mk 8 true).encode (v.scale 6)
    (wrapInt 8 r.1, r.2)
  | _ =>
    let r := el.float.encode cls v
    if !mx && r.1 % el.float.signBit = 0 then (0, r.2) else r

/-- Whether an element code is a zero. -/
def Elem.isZeroCode (el : Elem) (c : Nat) : Bool :=
  match el with
  | .int8 => c == 0
  | _ => c % el.float.signBit == 0

/-- Whether the kind has a NaN code of its own in MX data (R40, R41). -/
def Elem.hasNan (el : Elem) (mx : Bool) : Bool := mx && (el == .e4m3 || el == .e5m2)

/-- The scale exponent of a block's code: R20 and R24, or R21 for MX. -/
def scaleExp (code : Nat) : Int := (code : Int) - 127

/-- What decoding a block gives: its 32 values, whether any source element was non-zero, the events of the read. -/
structure Decoded where
  vals : List FV
  had  : Bool
  ev   : Ev
deriving DecidableEq, Repr

/-- The values of a block (R19, R20, R21, R24, R26, R43). DEDUCED (log entry 112): an X8 record with exponent 0x00 is a zero block
whatever its element bits (R20), a NaN code among them included, and one with exponent 0xFF that also holds a NaN code counts no
NANB, since its blocks were poisoned before (R41). -/
def Block.decode (b : Block) (el : Elem) (mx : Bool) (cls : Cls) : Decoded :=
  if !mx && b.exp = 0 then ⟨List.replicate 32 .zero, false, {}⟩
  else if b.exp = 0xFF then ⟨List.replicate 32 .nan, true, {}⟩
  else if !mx && el = .e4m3 && b.codes.any (fun c => c % 128 == 127) then
    ⟨List.replicate 32 .nan, true, evNanb⟩
  else
    let r := (List.range 32).map fun j =>
      let x := el.read mx cls (nth 0 b.codes j)
      (x.1.scale (scaleExp b.exp - (nth 0 b.shifts (j / 8) : Nat)), x.2)
    ⟨r.map (·.1), r.any (fun x => x.2 || !x.1.isZero),
      { flush := (r.filter (·.2)).length }⟩

/-- The largest finite magnitude of a list as m × 2^e; m is 0 where all are zero or not finite. -/
def amaxOf : List FV → Nat × Int
  | [] => (0, 0)
  | .fin _ m e :: l =>
    let r := amaxOf l
    if m = 0 then r else if r.1 = 0 then (m, e) else if dyLe m e r.1 r.2 then r else (m, e)
  | _ :: l => amaxOf l

/-- The block exponent R33 chooses. -/
def chooseExp (el : Elem) (a : Nat × Int) : Nat :=
  if a.1 = 0 then 0xFE
  else
    let e := floorLog2 a.1 a.2 - el.emax + 127
    let lim := el.limit
    let e' := if dyLe lim.1 lim.2 a.1 (a.2 + 127 - e) then e + 1 else e
    (max 1 (min e' 0xFE)).toNat

/-- The shift R34 chooses for a sub-block under exponent e. -/
def chooseShift (el : Elem) (e : Nat) (sub : List FV) : Nat :=
  if sub.any FV.isInf then 0
  else
    let s := amaxOf sub
    let lim := el.limit
    let fits (k : Nat) := s.1 = 0 || dyLt s.1 (s.2 + 127 - e + k) lim.1 lim.2
    if fits 1 then (if fits 2 then (if fits 3 then 3 else 2) else 1) else 0

/-- 32 values rounded under a given exponent and shifts (R32 steps 7 and 8, R35, R44). -/
def roundBlock (el : Elem) (mx : Bool) (cls : Cls) (e : Nat) (shifts : List Nat) (vals : List FV)
    (had : Bool) : Block × Ev :=
  let r := (List.range 32).map fun j =>
    el.write mx cls ((nth .zero vals j).scale (127 - (e : Int) + (nth 0 shifts (j / 8) : Nat)))
  let ev := evSum (r.map (·.2))
  if r.all (fun x => el.isZeroCode x.1) then (zeroBlock, if had then ev.add evZblk else ev)
  else (⟨e, shifts, r.map (·.1)⟩, ev)

/-- The quantiser on one block (R32 to R35). `had`: the source held a non-zero element, before any flush at the read
(R44). -/
def quantiseBlock (el : Elem) (mx : Bool) (cls : Cls) (vals : List FV) (had : Bool) : Block × Ev :=
  if vals.any FV.isNan && !el.hasNan mx then (poisonBlock, evNanb)
  else
    let a := amaxOf vals
    let special := vals.any (fun v => v.isInf || v.isNan)
    if a.1 = 0 && !special then (zeroBlock, if had then evZblk else {})
    else
      let e := chooseExp el a
      let sh := if mx then zeroShifts
        else (List.range 4).map fun b => chooseShift el e ((vals.drop (8 * b)).take 8)
      roundBlock el mx cls e sh vals had

/-- Values written under an exponent with given shifts, kept also where every element is zero: a block of zeros that is no zero
block keeps its exponent and its shifts (R51). -/
def keepZeros (el : Elem) (mx : Bool) (cls : Cls) (e : Nat) (shifts : List Nat) (vals : List FV) : Block × Ev :=
  (⟨e, shifts, vals.map fun v => (el.write mx cls v).1⟩, {})

/-- A block moved under its own exponent (paths E and R of R49). Scale 0xFF carries over, the elements of a target with a NaN
code as canonical NaNs (R41). An X zero block becomes a zero block; scale 0x00 of an MX block becomes exponent 0x01 with shifts
of 1; an MX block of zeros becomes a zero block (R50). An X block whose exponent is not 0x00 and whose elements are all zero
keeps its exponent, as X4 to X8 keeps it with its shifts (R51; into MX: DEDUCED, log entry 112). DESIGN CHOICE (log entry 99): an
MX block of zeros into another MX format is written as scale 0x00 with +0 codes. -/
def carryBlock (el : Elem) (mx : Bool) (cls : Cls) (srcMx : Bool) (srcExp : Nat) (keepShifts : Option (List Nat))
    (d : Decoded) : Block × Ev :=
  if d.vals.any FV.isNan && !el.hasNan mx then (poisonBlock, evNanb)
  else if srcExp = 0xFF then
    (⟨0xFF, zeroShifts, d.vals.map fun v => if v.isNan then el.float.nanCode.getD 0 else 0⟩, {})
  else if !srcMx && srcExp = 0 then (zeroBlock, {})
  else if !d.had then (if srcMx then (zeroBlock, {}) else keepZeros el mx cls srcExp (keepShifts.getD zeroShifts) d.vals)
  else if srcMx && !mx && srcExp = 0 then roundBlock el mx cls 1 [1, 1, 1, 1] d.vals true
  else roundBlock el mx cls srcExp (keepShifts.getD zeroShifts) d.vals true

/-- The formats of the conversion matrix (R49). -/
inductive Fmt where
  | x4
  | x8
  | mxfp4
  | mxe2m3
  | mxe3m2
  | mxe4m3
  | mxe5m2
  | mxint8
  | fp32
  | bf16
  | fp16
  | int4
  | uint4
  | int8
  | uint8
  | int32
deriving DecidableEq, Repr

/-- Block formats: the element kind and whether the scale lies apart (MX). -/
def Fmt.block : Fmt → Option (Elem × Bool)
  | .x4 => some (.e2m1, false)
  | .x8 => some (.e4m3, false)
  | .mxfp4 => some (.e2m1, true)
  | .mxe2m3 => some (.e2m3, true)
  | .mxe3m2 => some (.e3m2, true)
  | .mxe4m3 => some (.e4m3, true)
  | .mxe5m2 => some (.e5m2, true)
  | .mxint8 => some (.int8, true)
  | _ => none

def Fmt.float : Fmt → Option FloatFmt
  | .fp32 => some fmtF32
  | .bf16 => some fmtBF16
  | .fp16 => some fmtF16
  | _ => none

def Fmt.int : Fmt → Option IntFmt
  | .int4 => some ⟨4, true⟩
  | .uint4 => some ⟨4, false⟩
  | .int8 => some ⟨8, true⟩
  | .uint8 => some ⟨8, false⟩
  | .int32 => some ⟨32, true⟩
  | _ => none

def Fmt.isMx (f : Fmt) : Bool := match f.block with | some (_, true) => true | _ => false
def Fmt.isX (f : Fmt) : Bool := f = .x4 || f = .x8

/-- A conversion path of the matrix. -/
inductive ConvPath where
  | same
  | exact
  | rounded
  | quantised
  | absent
deriving DecidableEq, Repr

/-- The matrix of R49, sources first. -/
def convPath (s t : Fmt) : ConvPath :=
  if s = t then .same
  else
    match s.block, t.block with
    | some (a, _), some _ =>
      match s, t with
      | .x4, .x8 | .x4, .mxe4m3 | .x4, .mxe5m2 => .exact
      | .x4, .mxfp4 | .x4, .mxe2m3 | .x4, .mxe3m2 => .rounded
      | .x8, .mxe4m3 | .x8, .mxe5m2 => .rounded
      | .mxfp4, .mxint8 => .quantised
      | .mxfp4, _ => .exact
      | .mxe2m3, .x8 | .mxe3m2, .x8 | .mxe2m3, .mxe4m3 | .mxe3m2, .mxe4m3 => .exact
      | .mxe2m3, .mxe5m2 | .mxe3m2, .mxe5m2 | .mxe2m3, .mxe3m2 | .mxe3m2, .mxe2m3 => .rounded
      | .mxe4m3, .x8 => .exact
      | .mxe4m3, .mxe5m2 | .mxe5m2, .mxe4m3 => .rounded
      | _, _ => let _ := a; .quantised
    | some _, none =>
      match t with
      | .fp32 | .bf16 => .exact
      | .fp16 => .rounded
      | _ => .absent
    | none, some _ => if s.float.isSome then .quantised else .absent
    | none, none =>
      match s, t with
      | .bf16, .fp32 | .fp16, .fp32 => .exact
      | .int32, _ => .rounded
      | .int4, .fp32 | .int4, .bf16 | .int4, .fp16 | .int4, .int32 => .exact
      | .uint4, .fp32 | .uint4, .bf16 | .uint4, .fp16 | .uint4, .int32 => .exact
      | .int8, .fp32 | .int8, .bf16 | .int8, .fp16 | .int8, .int32 => .exact
      | .uint8, .fp32 | .uint8, .bf16 | .uint8, .fp16 | .uint8, .int32 => .exact
      | _, _ => .rounded

/-- Bits of one element in its element array. -/
def Fmt.elemBits : Fmt → Nat
  | .x4 | .mxfp4 | .int4 | .uint4 => 4
  | .mxe2m3 | .mxe3m2 => 6
  | .fp32 | .int32 => 32
  | .bf16 | .fp16 => 16
  | _ => 8

/-- Bytes a row of n elements takes (R28, R46, R48): records of 36 bytes for X4 and X8. -/
def Fmt.rowBytes (f : Fmt) (n : Nat) : Nat :=
  match f with
  | .x4 => 36 * ceilDiv n 64
  | .x8 => 36 * ceilDiv n 32
  | .mxe2m3 | .mxe3m2 => 3 * ceilDiv n 4
  | _ => ceilDiv (n * f.elemBits) 8

/-- The element codes of a packed array (R46, R48). -/
def unpackElems (bits : Nat) (n : Nat) (l : List Byte) : List Nat :=
  if bits = 4 then (List.range n).map fun i => bitsOf (nth 0#8 l (i / 2)).toNat (4 * (i % 2) + 3) (4 * (i % 2))
  else if bits = 6 then (List.range n).map fun i =>
    let g := natAt l (3 * (i / 4)) 3
    bitsOf g (6 * (i % 4) + 5) (6 * (i % 4))
  else (List.range n).map fun i => natAt l (i * (bits / 8)) (bits / 8)

/-- The packed array of element codes. -/
def packElems (bits : Nat) (codes : List Nat) : List Byte :=
  let n := codes.length
  if bits = 4 then (List.range (ceilDiv n 2)).map fun i =>
    byte (nth 0 codes (2 * i) % 16 + 16 * (nth 0 codes (2 * i + 1) % 16))
  else if bits = 6 then (List.range (ceilDiv n 4)).flatMap fun g =>
    bytesOf 3 (nth 0 codes (4 * g) % 64 + 64 * (nth 0 codes (4 * g + 1) % 64) +
      4096 * (nth 0 codes (4 * g + 2) % 64) + 262144 * (nth 0 codes (4 * g + 3) % 64))
  else codes.flatMap (bytesOf (bits / 8))

/-- The two halves of an X4 record (R23). -/
def x4Half (r : List Byte) (h : Nat) : Block :=
  let sh := (nth 0#8 r (34 + h)).toNat
  ⟨(nth 0#8 r (32 + h)).toNat, [sh % 4, sh / 4 % 4, sh / 16 % 4, sh / 64],
    unpackElems 4 32 ((r.drop (16 * h)).take 16)⟩

/-- The block of an X8 record (R25). -/
def x8Block (r : List Byte) : Block :=
  let sh := (nth 0#8 r 33).toNat
  ⟨(nth 0#8 r 32).toNat, [sh % 4, sh / 4 % 4, sh / 16 % 4, sh / 64], (r.take 32).map BitVec.toNat⟩

def shiftByte (l : List Nat) : Byte :=
  byte (nth 0 l 0 % 4 + 4 * (nth 0 l 1 % 4) + 16 * (nth 0 l 2 % 4) + 64 * (nth 0 l 3 % 4))

def packX4 (a b : Block) : List Byte :=
  packElems 4 a.codes ++ packElems 4 b.codes ++ [byte a.exp, byte b.exp, shiftByte a.shifts, shiftByte b.shifts]

def packX8 (a : Block) : List Byte :=
  a.codes.map byte ++ [byte a.exp, shiftByte a.shifts, 0#8, 0#8]

/-- The blocks of a row of n elements; `scales` is the MX scale array. -/
def Fmt.rowBlocks (f : Fmt) (n : Nat) (l scales : List Byte) : List Block :=
  match f with
  | .x4 => (List.range (ceilDiv n 64)).flatMap fun i => let r := sliceBytes l (36 * i) 36; [x4Half r 0, x4Half r 1]
  | .x8 => (List.range (ceilDiv n 32)).map fun i => x8Block (sliceBytes l (36 * i) 36)
  | _ =>
    let codes := unpackElems f.elemBits n l
    (List.range (ceilDiv n 32)).map fun i =>
      let c := (codes.drop (32 * i)).take 32
      ⟨(nth 0#8 scales i).toNat, zeroShifts, c ++ List.replicate (32 - c.length) 0⟩

/-- The bytes and the MX scales of a row's blocks. -/
def Fmt.packRow (f : Fmt) (n : Nat) (bs : List Block) : List Byte × List Byte :=
  match f with
  | .x4 => ((List.range (ceilDiv n 64)).flatMap fun i =>
      packX4 (nth zeroBlock bs (2 * i)) (nth zeroBlock bs (2 * i + 1)), [])
  | .x8 => ((List.range (ceilDiv n 32)).flatMap fun i => packX8 (nth zeroBlock bs i), [])
  | _ =>
    (packElems f.elemBits (((List.range (ceilDiv n 32)).flatMap fun i => (nth zeroBlock bs i).codes).take n),
      (List.range (ceilDiv n 32)).map fun i => byte (nth zeroBlock bs i).exp)

/-- A row's values as a unit of a heat of class `cls` reads them, with which elements were non-zero before any flush. -/
structure RowVals where
  vals : List FV
  had  : List Bool
  ev   : Ev
deriving DecidableEq, Repr

def Fmt.decodeRow (f : Fmt) (cls : Cls) (n : Nat) (l scales : List Byte) : RowVals :=
  match f.block, f.float, f.int with
  | some (el, mx), _, _ =>
    let ds := (f.rowBlocks n l scales).map fun b => (b, b.decode el mx cls)
    let had := ds.flatMap fun d => (List.range 32).map fun j =>
      if d.2.had then !(nth .zero d.2.vals j).isZero || !(el.isZeroCode (nth 0 d.1.codes j)) else false
    ⟨(ds.flatMap (·.2.vals)).take n, had.take n, evSum (ds.map (·.2.ev))⟩
  | none, some fm, _ =>
    let r := (unpackElems f.elemBits n l).map fun c => (fm.read cls c, c % fm.signBit != 0)
    ⟨r.map (·.1.1), r.map (·.2), { flush := (r.filter (·.1.2)).length }⟩
  | none, none, some im =>
    let r := (unpackElems f.elemBits n l).map fun c => if im.signed then sext im.bits c else (c : Int)
    ⟨r.map .ofInt, r.map (· != 0), {}⟩
  | none, none, none => ⟨[], [], {}⟩

/-- A row of values written in a format through the quantiser or by rounding (R29, R31). -/
def Fmt.encodeRow (f : Fmt) (cls : Cls) (n : Nat) (v : List FV) (had : List Bool) :
    List Byte × List Byte × Ev :=
  match f.block, f.float, f.int with
  | some (el, mx), _, _ =>
    let r := (List.range (ceilDiv n 32)).map fun i =>
      let vs := (v.drop (32 * i)).take 32
      quantiseBlock el mx cls (vs ++ List.replicate (32 - vs.length) .zero)
        (((had.drop (32 * i)).take 32).any id)
    let p := f.packRow n (r.map (·.1))
    (p.1, p.2, evSum (r.map (·.2)))
  | none, some fm, _ =>
    let r := (v.take n).map (fm.encode cls)
    (packElems f.elemBits (r.map (·.1)), [], evSum (r.map (·.2)))
  | none, none, some im =>
    let r := (v.take n).map im.encode
    (packElems f.elemBits (r.map fun x => wrapInt im.bits x.1), [], evSum (r.map (·.2)))
  | none, none, none => ([], [], {})

/-- One row converted from one format to another (R49 to R51). -/
def convertRow (s t : Fmt) (cls : Cls) (n : Nat) (l scales : List Byte) : List Byte × List Byte × Ev :=
  match convPath s t with
  | .same => (l, scales, {})
  | .absent => ([], [], {})
  | p =>
    match s.block, t.block with
    | some (se, smx), some (te, tmx) =>
      let bs := s.rowBlocks n l scales
      let r := (List.range (ceilDiv n 32)).map fun i =>
        let b := nth zeroBlock bs i
        let d0 := b.decode se smx cls
        let keep := n - 32 * i
        let d := { d0 with vals := d0.vals.take keep ++ List.replicate (32 - keep) .zero }
        let q := if p = .quantised then quantiseBlock te tmx cls d.vals d.had
          else carryBlock te tmx cls smx b.exp (if s = .x4 && t = .x8 then some b.shifts else none) d
        (q.1, d.ev.add q.2)
      let pk := t.packRow n (r.map (·.1))
      (pk.1, pk.2, evSum (r.map (·.2)))
    | _, _ =>
      let d := s.decodeRow cls n l scales
      let e := t.encodeRow cls n d.vals d.had
      (e.1, e.2.1, d.ev.add e.2.2)

end Sys2Proof
end

