-- ==== Sys2Proof/Machine/Rotate.lean ====
section
/-! DEFINITION. The counter-based generator, Hadamard rotations and outlier selection (R100 to R105, R166). -/

namespace Sys2Proof

def rotl32 (x n : Nat) : Nat := ((x <<< n) ||| (x >>> (32 - n))) % 2 ^ 32

/-- One round of the generator (R166). -/
def genRound (k x : List Nat) (r : Nat) : List Nat :=
  let a := (List.range 4).map fun i => nth 0 x i ^^^ nth 0 k ((i + r) % 4)
  let b := a.map fun w => (w * 0x9FB21C65 + r) % 2 ^ 32
  (List.range 4).map fun i =>
    nth 0 b i ^^^ rotl32 (nth 0 b ((i + 1) % 4)) 13 ^^^ (nth 0 b ((i + 2) % 4) >>> 7)

/-- gen128 (R166): the four output words. -/
def gen128 (k c : List Nat) : List Nat := (List.range 8).foldl (genRound k) c

/-- The generator keyed by job seed, layer and tensor, counted by element index and draw number. -/
def genWords (seed layer tensor index draw : Nat) : List Nat :=
  gen128 [seed % 2 ^ 32, seed / 2 ^ 32 % 2 ^ 32, (tensor % 65536) * 65536 + layer % 65536, 0x3C6EF372]
    [index % 2 ^ 32, index / 2 ^ 32 % 2 ^ 32, draw % 2 ^ 32, 0]

/-- Whether element d_k of the sign vector is -1 (R102). -/
def signNeg (seed layer tensor k : Nat) : Bool :=
  let w := genWords seed layer tensor (k / 128) 0
  bitOf (nth 0 w (k % 128 / 32)) (k % 32)

/-- A value rounded to binary32 as IEEE arithmetic rounds it. -/
def r32 (v : FV) : FV := fmtF32.roundVal v

/-- One butterfly stage at distance h, each sum rounded to binary32 (R101). -/
def butterfly (h : Nat) (x : List FV) : List FV :=
  (List.range x.length).map fun i =>
    if i / h % 2 = 0 then r32 (fvAdd (nth .zero x i) (nth .zero x (i + h)))
    else r32 (fvSub (nth .zero x (i - h)) (nth .zero x i))

/-- The size 2^m of a rotation code (0 none; 1 to 5 for 16 to 256). -/
def rotN (code : Nat) : Nat := if code = 0 then 0 else 2 ^ (code + 3)

/-- The scale exponent of R100 for m stages on a side (0 = A, 1 = B). -/
def rotScale (m side : Nat) : Nat := (m + side) / 2

/-- One group rotated (R100, R101); k0 is its first absolute contraction index. -/
def rotateGroup (code side seed layer tensor k0 : Nat) (x : List FV) : List FV :=
  let m := code + 3
  let y := (List.range x.length).map fun i =>
    let v := nth .zero x i
    if signNeg seed layer tensor (k0 + i) then v.neg else v
  let z := (List.range m).foldl (fun z t => butterfly (2 ^ t) z) y
  z.map fun v => r32 (v.scale (-(rotScale m side : Nat)))

/-- The indices of a selection group that R105 lifts; `k8` is outlier_k. -/
def selectGroup (k8 : Nat) (x : List FV) : List Nat :=
  let g := x.length
  let sq := x.map fun v => if v.isFin then r32 (fvMul v v) else .zero
  let s := sq.foldl (fun a q => r32 (fvAdd a q)) .zero
  if k8 = 0 || !s.isFin then []
  else (List.range g).filter fun j =>
    let v := nth .zero x j
    let r := r32 (fvSqrt (r32 (fvDiv (r32 (fvSub s (nth .zero sq j))) (.ofInt ((g : Int) - 1)))))
    v.isFin && fvLt .zero r && fvLt (fvMul (.ofInt k8) r) (v.abs.scale 3)

/-- One lifted element of a row: absolute contraction index and BF16 code. -/
structure Lifted where
  k   : Nat
  val : Nat
deriving DecidableEq, Repr

/-- A row after rotation and selection: the values left for the quantiser, the lifted elements, and per 32-element
block the events so far and whether its source held a flushed element. -/
structure RowPrep where
  vals   : List FV
  lifted : List Lifted
  evs    : List Ev
  flushed : List Bool
deriving DecidableEq, Repr

/-- The parameters of a quantising fill that rotation and selection read (R118). -/
structure FillPar where
  rot    : Nat := 0
  side   : Nat := 0
  layer  : Nat := 0
  tensor : Nat := 0
  k8     : Nat := 0
deriving DecidableEq, Repr

/-- A row rotated and its outliers lifted (R100 to R105). `fl` marks elements flushed when the source was read; `doRot`
is false where the source carries its rotation (R547); `lift` is false where nothing is lifted (R106). -/
def prepRow (p : FillPar) (doRot lift : Bool) (cls : Cls) (seed k0 : Nat) (vals : List FV) (fl : List Bool) : RowPrep :=
  let n := vals.length
  let nb := ceilDiv n 32
  let gr := rotN p.rot
  let rotated := doRot && p.rot != 0
  let conv := vals.map fun v => if rotated then
      match v with
      | .fin .. => let r := fmtF32.encode .train v; (f32 r.1, r.2)
      | w => (w, {})
    else (v, {})
  let x0 := conv.map (·.1)
  let x1 := if rotated then
      (List.range (ceilDiv n gr)).flatMap fun g =>
        rotateGroup p.rot p.side seed p.layer p.tensor (k0 + g * gr) ((x0.drop (g * gr)).take gr)
    else x0
  let x2 := x1 ++ List.replicate (32 * nb - n) .zero
  let gs := if p.rot != 0 && gr ≥ 32 then gr else 32
  let picks := if lift then (List.range (ceilDiv (32 * nb) gs)).flatMap fun g =>
      (selectGroup p.k8 ((x2.drop (g * gs)).take gs)).map (· + g * gs)
    else []
  let lf := (picks.filter (· < n)).map fun i => (i, fmtBF16.encode cls (nth .zero x2 i))
  let flOf (m : Nat) : Bool :=
    let lo := if rotated then 32 * m - 32 * m % gr else 32 * m
    let hi := if rotated then ceilDiv (32 * m + 32) gr * gr else 32 * m + 32
    (List.range (hi - lo)).any fun i => nth false fl (lo + i)
  { vals := (List.range (32 * nb)).map fun i => if picks.contains i then .zero else nth .zero x2 i
    lifted := (lf.filter fun e => e.2.2.flush = 0).map fun e => ⟨k0 + e.1, e.2.1⟩
    evs := (List.range nb).map fun m =>
      (evSum (((conv.drop (32 * m)).take 32).map (·.2))).add
        (evSum ((lf.filter fun e => e.1 / 32 == m).map (·.2.2)))
    flushed := (List.range nb).map flOf }

/-- A prepared row quantised block by block (R32): the blocks and the events of each. -/
def quantiseRow (el : Elem) (cls : Cls) (r : RowPrep) : List (Block × Ev) :=
  (List.range r.evs.length).map fun m =>
    let vs := (r.vals.drop (32 * m)).take 32
    let q := quantiseBlock el false cls vs (nth false r.flushed m || vs.any fun v => !v.isZero)
    (q.1, (nth {} r.evs m).add q.2)

end Sys2Proof
end

