-- ==== Sys2Proof/Machine/Residue.lean ====
section
/-! DEFINITION. Residues modulo 7 carried beside the data of a unit (R427 to R430). -/

namespace Sys2Proof

/-- The residue of a signed integer (R427). -/
def res7 (v : Int) : Nat := (v % 7).toNat

/-- A value of a unit with the 3-bit residue it carries beside it (R427). -/
structure Chk where
  val : Int
  res : Nat
deriving DecidableEq, Repr

/-- A value that enters a unit: its residue is taken from it. -/
def Chk.of (v : Int) : Chk := ⟨v, res7 v⟩

/-- The check of a value against its residue (R429). -/
def Chk.ok (a : Chk) : Bool := res7 a.val = a.res

/-- 2^s modulo 7, and its inverse (R428). -/
def pow2Res (s : Nat) : Nat := nth 1 [1, 2, 4] (s % 3)
def invPow2Res (d : Nat) : Nat := nth 1 [1, 4, 2] (d % 3)

/-- A product (R428). -/
def Chk.mul (a b : Chk) : Chk := ⟨a.val * b.val, a.res * b.res % 7⟩
/-- A sum (R428). -/
def Chk.add (a b : Chk) : Chk := ⟨a.val + b.val, (a.res + b.res) % 7⟩
/-- A left shift (R428). -/
def Chk.shl (a : Chk) (s : Nat) : Chk := ⟨a.val * ((2 ^ s : Nat) : Int), a.res * pow2Res s % 7⟩
/-- The `d` lowest bits dropped with rounding to nearest even: the residue of the dropped bits is taken away, that of the rounding
increment is added, and what is left is multiplied by the inverse of 2^d (R428). -/
def Chk.drop (a : Chk) (d : Nat) : Chk :=
  let low := a.val % ((2 ^ d : Nat) : Int)
  let v := rneInt a.val d
  let inc := v * ((2 ^ d : Nat) : Int) - (a.val - low)
  ⟨v, (a.res + 7 - res7 low + res7 inc) * invPow2Res d % 7⟩
/-- An error of the data path, which its residue does not follow (R430). -/
def Chk.err (a : Chk) (e : Int) : Chk := { a with val := a.val + e }

/-- A sum of values. -/
def Chk.sum (l : List Chk) : Chk := l.foldl Chk.add (Chk.of 0)

end Sys2Proof
end

