-- ==== Sys2Proof/Machine/Accum.lean ====
section
/-! DEFINITION. The anchored long accumulator and the array's cell (R72 to R92), as functions of the operands alone. -/

namespace Sys2Proof

/-- A 96-bit window on an exact sum, its anchor and its window-loss events (R75 to R77), and the residue carried beside its
content (R427). -/
structure Window where
  acc    : Int := 0
  anchor : Option Int := none
  loss   : Nat := 0
  res    : Nat := 0
deriving DecidableEq, Repr

/-- The window's content with its residue. -/
def Window.chk (w : Window) : Chk := ⟨w.acc, w.res⟩
/-- The window with another content. -/
def Window.put (w : Window) (c : Chk) : Window := { w with acc := c.val, res := c.res }

/-- The addend I × 2^(x - f) added to the window (R75 to R77), the residues following the arithmetic (R428). -/
def Window.addChk (w : Window) (i : Chk) (x : Int) (f : Nat) : Window :=
  if i.val = 0 then w
  else
    let a := match w.anchor with | none => x | some b => max b x
    let d := match w.anchor with | none => 0 | some b => (a - b).toNat
    let lost := d > 0 && w.acc % ((2 ^ d : Nat) : Int) != 0
    let acc := if d > 0 then w.chk.drop d else w.chk
    let place : Int := 56 - f - (a - x)
    if place ≥ 0 then
      { w.put (acc.add (i.shl place.toNat)) with anchor := some a, loss := w.loss + b2n lost }
    else
      let k := (-place).toNat
      let low := i.val % ((2 ^ k : Nat) : Int) != 0
      { w.put (((acc.shl k).add i).drop k) with anchor := some a, loss := w.loss + b2n lost + b2n low }

/-- The addend of an integer that enters the unit. -/
def Window.addend (w : Window) (i x : Int) (f : Nat) : Window := w.addChk (Chk.of i) x f

/-- The value of the window: acc × 2^(A - 56). -/
def Window.val (w : Window) : FV :=
  match w.anchor with
  | none => .zero
  | some a => .ofIntE w.acc (a - 56)

/-- A finite value as an addend with its own exponent as x: a `p`-bit significand with `f` = p - 1 fraction bits. -/
def Window.addVal (w : Window) (f : Nat) (v : FV) : Window :=
  match v with
  | .fin s m e => w.addend (if s then -(m : Int) else m) (e + f) f
  | _ => w

/-- One factor of a product as a cell sees it: an integer with exponent and fraction bits, or a special value. -/
inductive Factor where
  | int (i x : Int) (f : Nat)
  | inf (neg : Bool)
  | nan
deriving DecidableEq, Repr

/-- A cell of a floating tile: its window and its three flags (R83). -/
structure Cell where
  win    : Window := {}
  nan    : Bool := false
  posInf : Bool := false
  negInf : Bool := false
deriving DecidableEq, Repr

/-- The cell after the product of two factors: an addend, or a flag (R83). -/
def Cell.product (c : Cell) : Factor → Factor → Cell
  | .nan, _ => { c with nan := true }
  | _, .nan => { c with nan := true }
  | .inf a, .inf b => if a != b then { c with negInf := true } else { c with posInf := true }
  | .inf a, .int i _ _ =>
    if i = 0 then { c with nan := true }
    else if a != decide (i < 0) then { c with negInf := true } else { c with posInf := true }
  | .int i _ _, .inf b =>
    if i = 0 then { c with nan := true }
    else if b != decide (i < 0) then { c with negInf := true } else { c with posInf := true }
  | .int i x f, .int j y g => { c with win := c.win.addChk ((Chk.of i).mul (Chk.of j)) (x + y) (f + g) }

/-- The BF16 factor of a code (the eA and significand of the addend table), with whether it was flushed. -/
def bf16Factor (cls : Cls) (c : Nat) : Factor × Bool :=
  match fmtBF16.read cls c with
  | (.nan, b) => (.nan, b)
  | (.inf s, b) => (.inf s, b)
  | (.fin s m e, b) => (.int (if s then -(m : Int) else m) (e + 7) 7, b)

/-- One K-block of an operand as the array reads it. -/
structure KBlk where
  /-- Scale entry (R62); 0x7F00-free for BF16 and integers. -/
  scale : Nat
  codes : List Nat
deriving DecidableEq, Repr

def KBlk.exp (b : KBlk) : Nat := b.scale % 256
def KBlk.shift (b : KBlk) (j : Nat) : Nat := bitsOf b.scale (9 + 2 * (j / 8)) (8 + 2 * (j / 8))

/-- A K-block that reads as NaN: exponent 0xFF, or a NaN code in X8 (R19, R20). -/
def KBlk.poisoned (b : KBlk) (f : Fmt) : Bool :=
  f.isX && (b.exp == 0xFF || (f == .x8 && b.exp != 0 && b.codes.any (fun c => c % 128 == 127)))

/-- Fraction bits of the element unit with the three shift bits: 4 for X4, 12 for X8. -/
def xFrac (f : Fmt) : Nat := if f = .x8 then 12 else 4

/-- The signed element in its unit (R72); whether it was flushed (R85). -/
def KBlk.elem (b : KBlk) (f : Fmt) (cls : Cls) (j : Nat) : Int × Bool :=
  let fm := if f = .x8 then fmtE4M3 else fmtE2M1
  let q : Int := if f = .x8 then -9 else -1
  if b.exp = 0 then (0, false)
  else let r := fm.read cls (nth 0 b.codes j); (fvInt q r.1, r.2)

/-- The element with its shift applied as 3 - shift bits to the left. -/
def KBlk.unit (b : KBlk) (f : Fmt) (cls : Cls) (j : Nat) : Int × Bool :=
  let e := b.elem f cls j
  (e.1 * ((2 ^ (3 - b.shift j) : Nat) : Int), e.2)

/-- Element j of a K-block as a factor of a direct product (R74), with whether it was flushed (R85). -/
def KBlk.factor (b : KBlk) (f : Fmt) (cls : Cls) (j : Nat) : Factor × Bool :=
  if f = .bf16 then bf16Factor cls (nth 0 b.codes j)
  else if b.poisoned f then (.nan, false)
  else let u := b.unit f cls j; (.int u.1 (scaleExp b.exp) (xFrac f), u.2)

/-- The flushes of reading a K-block once (R85). -/
def KBlk.flushes (b : KBlk) (f : Fmt) (cls : Cls) : Nat :=
  if f.isX && b.poisoned f then 0
  else ((List.range 32).filter fun j => (b.factor f cls j).2).length

/-- The block integer of two K-blocks (R72, R73), with its residue. -/
def blockInt (a b : KBlk) (fa fb : Fmt) (cls : Cls) : Chk :=
  Chk.sum ((List.range 32).map fun j =>
    ((Chk.of (a.elem fa cls j).1).mul (Chk.of (b.elem fb cls j).1)).shl (6 - (a.shift j + b.shift j)))

/-- An outlier correction at contraction index k: the A or B lifted value (BF16 code) for this cell. -/
structure Corr where
  k : Nat
  /-- A's lifted value at (i, k), if any. -/
  a : Option Nat
  /-- B's lifted value at (k, j), if any. -/
  b : Option Nat
deriving DecidableEq, Repr

/-- One correction (R81, R109): A's first. -/
def Cell.correct (c : Cell) (ka kb : KBlk) (fa fb : Fmt) (cls : Cls) (r : Corr) : Cell :=
  let j := r.k % 32
  let c := match r.a with
    | none => c
    | some ao =>
      let fbv := match r.b with
        | some bo => (bf16Factor cls bo).1
        | none => (kb.factor fb cls j).1
      c.product (bf16Factor cls ao).1 fbv
  match r.b with
  | none => c
  | some bo => if r.a.isSome then c else c.product (ka.factor fa cls j).1 (bf16Factor cls bo).1

/-- A cell of a floating tile after one K-block and its corrections (R73, R74, R81). -/
def Cell.kblock (c : Cell) (ka kb : KBlk) (fa fb : Fmt) (cls : Cls) (corr : List Corr) : Cell :=
  let c :=
    if fa = .bf16 || fb = .bf16 then
      (List.range 32).foldl (fun c j => c.product (ka.factor fa cls j).1 (kb.factor fb cls j).1) c
    else if ka.poisoned fa || kb.poisoned fb then { c with nan := true }
    else
      let w := c.win.addChk (blockInt ka kb fa fb cls) (scaleExp ka.exp + scaleExp kb.exp) (xFrac fa + xFrac fb)
      { c with win := w }
  corr.foldl (fun c r => c.correct ka kb fa fb cls r) c

/-- What a floating cell drains: a binary32 pattern and its events (R84, R90). -/
def Cell.drain (c : Cell) (cls : Cls) : Nat × Ev :=
  if c.nan || (c.posInf && c.negInf) then (0x7FC00000, {})
  else if c.posInf then fmtF32.encode cls (.inf false)
  else if c.negInf then fmtF32.encode cls (.inf true)
  else fmtF32.encode cls c.win.val

/-- The commit of a K-block (R81, R429): the addends as the data path formed them, an error among them. Where the check fails
the long accumulator keeps its previous content. -/
def Window.commit (old new : Window) (err : Int) : Window × Bool :=
  let w := new.put (new.chk.err err)
  if w.chk.ok then (w, true) else (old, false)

/-- A cell's commit of a K-block. -/
def Cell.commit (old new : Cell) (err : Int) : Cell × Bool :=
  let r := old.win.commit new.win err
  ({ new with win := r.1 }, r.2)

/-- The exact integer sum of a K-block (R80), with its residue. -/
def intBlock (a b : KBlk) (fa fb : IntFmt) : Chk :=
  let v (f : IntFmt) (c : Nat) : Int := if f.signed then sext f.bits c else c
  Chk.sum ((List.range 32).map fun j => (Chk.of (v fa (nth 0 a.codes j))).mul (Chk.of (v fb (nth 0 b.codes j))))

end Sys2Proof
end

