-- ==== Sys2Proof/Machine/VecAlu.lean ====
section
/-! DEFINITION. What one element of a vector instruction computes (R144 to R148), and the approximation bounds (R146). -/

namespace Sys2Proof

/-- A floating element read by the vector engine: its value and its FLUSH events (R43). -/
def vread (f : FloatFmt) (cls : Cls) (c : Nat) : FV × Ev :=
  let r := f.read cls c
  (r.1, if r.2 then evFlush else {})

/-- A floating result written by an arithmetic instruction: overflow to infinity, canonical NaN, SERVE flush (R144). -/
def vwrite (f : FloatFmt) (cls : Cls) (v : FV) : Nat × Ev :=
  let c := f.encodeIeee v
  if cls = .serve && f.flushes && f.isSub (c % f.signBit) then
    ((if bitOf c f.width then f.signBit else 0), evFlush)
  else (c, {})

/-- One operand, one result. -/
def vop1 (f : FloatFmt) (cls : Cls) (g : FV → FV) (a : Nat) : Nat × Ev :=
  let x := vread f cls a
  let r := vwrite f cls (g x.1)
  (r.1, x.2.add r.2)

/-- Two operands, one result. -/
def vop2 (f : FloatFmt) (cls : Cls) (g : FV → FV → FV) (a b : Nat) : Nat × Ev :=
  let x := vread f cls a
  let y := vread f cls b
  let r := vwrite f cls (g x.1 y.1)
  (r.1, (x.2.add y.2).add r.2)

/-- Three operands, one result, rounded once. -/
def vop3 (f : FloatFmt) (cls : Cls) (g : FV → FV → FV → FV) (a b d : Nat) : Nat × Ev :=
  let x := vread f cls a
  let y := vread f cls b
  let z := vread f cls d
  let r := vwrite f cls (g x.1 y.1 z.1)
  (r.1, ((x.2.add y.2).add z.2).add r.2)

/-! ## The significand path (R427, R428, R437) -/

/-- A significand with the residue beside it, and the exponent of its unit; none for a special value, which takes no part. -/
abbrev Sig := Option (Chk × Int)

/-- A factor or addend. -/
def sigOf : FV → Sig
  | .fin s m e => some (Chk.of (if s then -(m : Int) else m), e)
  | _ => none

/-- The multiplier. -/
def sigMul : Sig → Sig → Sig
  | some x, some y => some (x.1.mul y.1, x.2 + y.2)
  | _, _ => none

/-- The aligner and the adder. -/
def sigAdd : Sig → Sig → Sig
  | some x, some y =>
    let q := min x.2 y.2
    some ((x.1.shl (x.2 - q).toNat).add (y.1.shl (y.2 - q).toNat), q)
  | _, _ => none

/-- The significand aligned to the format's last place and rounded there. -/
def sigRound (f : FloatFmt) (x : Chk × Int) : Chk × Int :=
  let q := max (floorLog2 x.1.val.natAbs x.2) f.emin - f.manBits
  (if x.2 ≥ q then x.1.shl (x.2 - q).toNat else x.1.drop (q - x.2).toNat, q)

/-- A result with an error of its significand path: the pattern, its events, and whether the check at retirement passes. -/
def sigWrite (f : FloatFmt) (cls : Cls) (v : FV) (x : Sig) (err : Int) : (Nat × Ev) × Bool :=
  match x with
  | none => (vwrite f cls v, true)
  | some x =>
    let r := sigRound f x
    let c := r.1.err err
    (if err = 0 then vwrite f cls v else vwrite f cls (.ofIntE c.val r.2), c.ok)

/-- One of the operations whose path is checked: its value and its significand of va, vb and vd; vd is read where it takes part. -/
structure FmaOp where
  readsD : Bool
  val    : FV → FV → FV → FV
  sig    : Sig → Sig → Sig → Sig

def sigNeg : Sig → Sig
  | some x => some ((Chk.of (-1)).mul x.1, x.2)
  | none => none

/-- An element of it: its patterns read, the result with its error. -/
def FmaOp.elem (o : FmaOp) (f : FloatFmt) (cls : Cls) (a b d : Nat) (err : Int) : (Nat × Ev) × Bool :=
  let x := vread f cls a
  let y := vread f cls b
  let z := if o.readsD then vread f cls d else (.zero, {})
  let r := sigWrite f cls (o.val x.1 y.1 z.1) (o.sig (sigOf x.1) (sigOf y.1) (sigOf z.1)) err
  ((r.1.1, ((x.2.add y.2).add z.2).add r.1.2), r.2)

def vFma (a b d : FV) : FV := fvAdd (fvMul a b) d
def vFms (a b d : FV) : FV := fvSub (fvMul a b) d
def vFnma (a b d : FV) : FV := fvAdd d (fvMul a b).neg

def faddOp : FmaOp := ⟨false, fun a b _ => fvAdd a b, fun a b _ => sigAdd a b⟩
def fsubOp : FmaOp := ⟨false, fun a b _ => fvSub a b, fun a b _ => sigAdd a (sigNeg b)⟩
def fmulOp : FmaOp := ⟨false, fun a b _ => fvMul a b, fun a b _ => sigMul a b⟩
def fmaOp : FmaOp := ⟨true, vFma, fun a b d => sigAdd (sigMul a b) d⟩
def fmsOp : FmaOp := ⟨true, vFms, fun a b d => sigAdd (sigMul a b) (sigNeg d)⟩
def fnmaOp : FmaOp := ⟨true, vFnma, fun a b d => sigAdd d (sigNeg (sigMul a b))⟩

/-- FMAX: NaN when either is NaN; -0 below +0 (R145). -/
def vMax (a b : FV) : FV :=
  if a.isNan || b.isNan then .nan
  else if fvLt a b then b else if fvLt b a then a else if a.signOf then b else a

def vMin (a b : FV) : FV :=
  if a.isNan || b.isNan then .nan
  else if fvLt a b then a else if fvLt b a then b else if a.signOf then a else b

/-- |a| with the sign of b, b's sign bit taken from its pattern. -/
def vCsgn (neg : Bool) (a : FV) : FV := if neg then a.abs.neg else a.abs

/-- Nearest integral value, ties to even; the sign of a zero result is the source's. -/
def vRnd : FV → FV
  | .fin s m e => if e ≥ 0 then .fin s m e else .fin s (rneAt m e 0) 0
  | v => v

/-- va × 2^vb with vb an INT32 held to ±300. -/
def vScale (k : Int) (a : FV) : FV := a.scale (max (-300) (min 300 k))

/-- 2^(n / 2^64) for n below 2^64, in units of 2^-100: the product of the roots of 2 that n's bits select. -/
def exp2Frac (n : Nat) : Nat :=
  let st := (List.range 64).foldl (fun (acc : Nat × Nat) i =>
    let root := isqrt (acc.1 <<< 100)
    let p := if bitOf n (63 - i) then (acc.2 * root) >>> 100 else acc.2
    (root, p)) (2 * 2 ^ 100, 2 ^ 100)
  st.2

/-- 2^x of a finite value, held to 100 bits, as m × 2^e; x beyond ±2^12 is taken as the bound. -/
def exp2Approx (x : FV) : Nat × Int :=
  match x with
  | .fin s m e =>
    let v : Int := if e ≥ -64 then (alignTo (-64) m e : Nat) else (m >>> (-64 - e).toNat : Nat)
    let v := min v (2 ^ 76)
    let n : Int := if s then -v else v
    let q := n / (2 ^ 64 : Nat)
    let r := (n % ((2 ^ 64 : Nat) : Int)).toNat
    (exp2Frac r, q - 100)
  | _ => (0, 0)

/-- log2 of m × 2^e to 60 bits below the point, as a signed integer in units of 2^-60. -/
def log2Approx (m : Nat) (e : Int) : Int :=
  let l := Nat.log2 m
  let x0 := if l ≤ 100 then m <<< (100 - l) else m >>> (l - 100)
  let st := (List.range 60).foldl (fun (acc : Nat × Nat) _ =>
    let y := (acc.1 * acc.1) >>> 100
    if y ≥ 2 * 2 ^ 100 then (y >>> 1, 2 * acc.2 + 1) else (y, 2 * acc.2)) (x0, 0)
  ((l : Int) + e) * (2 ^ 60 : Nat) + (st.2 : Nat)

/-- log2 e in units of 2^-64. -/
def log2e64 : Nat := 26613026195688644984

/-- tanh of a finite value as a value held to about 55 bits below the point: below 2^-12 as x - x³ / 3, which leaves off less than
2^-60. -/
def tanhApprox (x : FV) : FV :=
  match x with
  | .fin s m e =>
    if m = 0 then .fin s 0 0
    else if floorLog2 m e < -12 then fvSub x (fvDiv (fvMul (fvMul x x) x) (.fin false 3 0))
    else if floorLog2 m e > 5 then .fin s 1 0
    else
      let t := exp2Approx (.fin false (m * log2e64) (e + 1 - 64))
      let tv := FV.fin false t.1 t.2
      let r := fvDiv (fvSub tv .one) (fvAdd tv .one)
      if s then r.neg else r
  | v => v

/-- Whether |a - b| ≤ bound. -/
def within (a b bound : FV) : Bool := !fvLt bound (fvSub a b).abs

/-- 2^-k, and that less a margin of 2^-50, within which the reference values lie about the exact ones: a pick inside it meets the
bound of 2^-k for certain. -/
def epsV (k : Nat) : FV := .fin false 1 (-(k : Int))
def epsM (k : Nat) : FV := fvSub (epsV k) (epsV 50)

/-- The correctly rounded result, or the pick of the implementation where it meets the bound (R146). Where the result is too small
for any pattern to meet a relative bound, it is the correctly rounded one (DEDUCED, log entry 18). -/
def pickOr (op a : Nat) (ok : FV → Bool) (exact : FV) : FV :=
  let p := f32 (Config.transcendental op a % 2 ^ 32)
  if p.isFin && ok p then p else exact

/-- FRCP. The infinities follow IEEE 754, as R144 has it. -/
def vRcp (a : Nat) (x : FV) : FV :=
  match x with
  | .nan => .nan
  | .inf s => .fin s 0 0
  | .fin s m _ =>
    if m = 0 then .inf s
    else pickOr 0 a (fun y => within (fvMul y x) .one (epsV 23)) (fvDiv .one x)

/-- FRSQRT. +∞ and -0 follow IEEE 754, as R144 has it. -/
def vRsqrt (a : Nat) (x : FV) : FV :=
  match x with
  | .nan => .nan
  | .inf s => if s then .nan else .zero
  | .fin s m _ =>
    if m = 0 then .inf s
    else if s then .nan
    else
      let lo := fvSub .one (epsV 23)
      let hi := fvAdd .one (epsV 23)
      pickOr 1 a (fun y => let q := fvMul (fvMul y y) x
        !y.signOf && !fvLt q (fvMul lo lo) && !fvLt (fvMul hi hi) q) (fvSqrt (fvDiv .one x))

def vExp2 (a : Nat) (x : FV) : FV :=
  match x with
  | .nan => .nan
  | .inf s => if s then .zero else .inf false
  | .fin .. =>
    let t := exp2Approx x
    let tv := FV.fin false t.1 t.2
    if dyLt t.1 t.2 1 (-149) then .zero
    else pickOr 2 a (fun y => !y.signOf && within y tv (fvMul tv (epsM 22))) tv

/-- FLOG2. -0 follows IEEE 754, as R144 has it. -/
def vLog2 (a : Nat) (x : FV) : FV :=
  match x with
  | .nan => .nan
  | .inf s => if s then .nan else .inf false
  | .fin s m e =>
    if m = 0 then .inf true
    else if s then .nan
    else
      let l := FV.ofIntE (log2Approx m e) (-60)
      let near := !fvLt x (.fin false 1 (-1)) && !fvLt (.fin false 2 0) x
      pickOr 3 a (fun y => within y l (if near then epsM 21 else fvMul l.abs (epsM 22))) l

def vTanh (a : Nat) (x : FV) : FV :=
  match x with
  | .nan => .nan
  | .inf s => .fin s 1 0
  | .fin .. => pickOr 4 a (fun y => within y (tanhApprox x) (epsM 20)) (tanhApprox x)

/-- A floating compare (FCMP): ordered compares are false for NaN, NE is true. -/
def fcond (c : Nat) (a b : FV) : Bool :=
  let nan := a.isNan || b.isNan
  match c with
  | 0 => !nan && fvEq a b
  | 1 => nan || !fvEq a b
  | 2 => !nan && fvLt a b
  | 3 => !nan && !fvLt b a
  | 4 => !nan && fvLt b a
  | 5 => !nan && !fvLt a b
  | 6 => nan
  | _ => !nan

/-- An integer compare (ICMP). -/
def icond (c a b : Nat) : Bool :=
  match c with
  | 0 => a == b
  | 1 => a != b
  | 2 => sext 32 a < sext 32 b
  | 3 => sext 32 a ≤ sext 32 b
  | 4 => sext 32 a > sext 32 b
  | 5 => sext 32 a ≥ sext 32 b
  | 6 => a < b
  | _ => a ≥ b

def imaxW (unsigned : Bool) (a b : Nat) : Nat :=
  if unsigned then max a b else if sext 32 a < sext 32 b then b else a

def iminW (unsigned : Bool) (a b : Nat) : Nat :=
  if unsigned then min a b else if sext 32 b < sext 32 a then b else a

/-- SHR, arithmetic where asked. -/
def shrW (arith : Bool) (a n : Nat) : Nat :=
  if arith then wrapInt 32 (sext 32 a / ((2 ^ n : Nat) : Int)) else a >>> n

/-- A conversion between floating formats by a vector instruction (R147). -/
def vconv (src dst : FloatFmt) (cls : Cls) (c : Nat) : Nat × Ev :=
  let x := vread src cls c
  let r := dst.encode cls x.1
  (r.1, x.2.add r.2)

/-- FP32 to INT32 or UINT32, saturating (CVTIF). -/
def vToInt (unsigned : Bool) (cls : Cls) (c : Nat) : Nat × Ev :=
  let x := vread fmtF32 cls c
  let r := (IntFmt.mk 32 (!unsigned)).encode x.1
  (wrapInt 32 r.1, x.2.add r.2)

/-- INT32 or UINT32 to FP32 (CVTFI). -/
def vFromInt (unsigned : Bool) (c : Nat) : Nat :=
  fmtF32.encodeIeee (.ofInt (if unsigned then (c : Int) else sext 32 c))

/-- A binary32 element as a SUM addend (R156). -/
def Window.addSum (w : Window) (v : FV) : Window :=
  match v with
  | .fin s m e => w.addend (if s then -(m : Int) else m) (e + 23) 23
  | _ => w

/-- A binary32 element's exact square as a SUMSQ addend (R156). -/
def Window.addSq (w : Window) (v : FV) : Window :=
  match v with
  | .fin _ m e => w.addend ((m * m : Nat) : Int) (2 * (e + 23)) 46
  | _ => w

/-- A partial window merged into another (R189): its content as an addend, its losses carried. -/
def Window.merge (w p : Window) : Window :=
  match p.anchor with
  | none => { w with loss := w.loss + p.loss }
  | some a => let r := w.addend p.acc a 56; { r with loss := r.loss + p.loss }

end Sys2Proof
end

