-- ==== Sys2Proof/Machine/UpdateMath.lean ====
section
/-! DEFINITION. The parameter update's arithmetic (R178 to R186, R195), as functions of the operands. -/

namespace Sys2Proof

def fmtF64 : FloatFmt :=
  ⟨11, 52, 1023, 0x7FEFFFFFFFFFFFFF, some 0x7FF0000000000000, some 0x7FF8000000000000, false⟩

/-- A coefficient row decoded (R178). -/
structure Coef where
  (eta lambda c1 c2 c3 c4 clip tauMin : FV)
  (frozen sparse : Bool)
deriving DecidableEq, Repr

/-- The row at heat creation: frozen, clip = +∞, everything else 0. -/
def coefDefault : Nat := 2 ^ 256 + 0x7F800000 * 2 ^ 192

def Coef.ofRow (r : Nat) : Coef :=
  let g (lo : Nat) := f32 (bitsOf r (lo + 31) lo)
  { eta := g 0, lambda := g 32, c1 := g 64, c2 := g 96, c3 := g 128, c4 := g 160, clip := g 192, tauMin := g 224
    frozen := bitOf r 256, sparse := bitOf r 257 }

/-- The bit position within a row of the lowest field that fails R179's range checks, if any. -/
def coefRowFault (r : Nat) : Option Nat :=
  let c := Coef.ofRow r
  if !c.eta.isFin then some 0 else if !c.lambda.isFin then some 32 else if !c.c1.isFin then some 64
  else if !c.c2.isFin then some 96 else if !c.c3.isFin then some 128 else if !c.c4.isFin then some 160
  else if c.clip.isNan || !fvLt .zero c.clip then some 192
  else if !c.tauMin.isFin || fvLt c.tauMin .zero then some 224
  else if c.sparse && c.tauMin.isZero then some 224
  else none

/-- A value rounded once to binary32: one past the format's range, an infinity among them, saturates and counts SAT (R182). -/
def sat32 (v : FV) : FV × Nat :=
  match v with
  | .inf s => (f32 (fmtF32.maxCode + if s then 2 ^ 31 else 0), 1)
  | _ =>
    let r := fmtF32.encode .train v
    (f32 r.1, r.2.sat)

/-- The counts of a pass. -/
structure UpdCounts where
  clipped : Nat := 0
  nonfinite : Nat := 0
  sat : Nat := 0
deriving DecidableEq, Repr

def UpdCounts.add (a b : UpdCounts) : UpdCounts := ⟨a.clipped + b.clipped, a.nonfinite + b.nonfinite, a.sat + b.sat⟩

/-- One element's new weight and moment codes and its counts. -/
structure UpdOut where
  w : Nat
  m : Nat
  n : UpdCounts
deriving DecidableEq, Repr

/-- R180 step 1: the clipped gradient and whether it changed. -/
def clipGrad (c : Coef) (g : FV) : FV × Bool :=
  if g.isNan then (g, false)
  else if fvLt c.clip g.abs then ((if g.signOf then c.clip.neg else c.clip), true)
  else (g, false)

/-- R180 and R181 for one element, `fw` and `fm` being the catch-up factors of R195 where they apply. -/
def updateElem (c : Coef) (s : FV) (catchUp : Option (FV × FV)) (wc mc gc : Nat) : UpdOut :=
  let w := f32 wc
  let m := fmtBF16.decode mc
  let g := clipGrad c (f32 gc)
  let k := b2n g.2
  if !w.isFin || !m.isFin || !g.1.isFin then ⟨wc, mc, ⟨k, 1, 0⟩⟩
  else
    let pre := match catchUp with
      | none => (w, m, 0)
      | some f =>
        let w1 := sat32 (fvMul w f.1)
        let m1 := fmtBF16.encode .train (fvMul m f.2)
        (w1.1, fmtBF16.decode m1.1, w1.2 + m1.2.sat)
    let w := pre.1
    let m := pre.2.1
    let t := fvAdd (fvMul c.c1 m) (fvMul c.c2 g.1)
    let d : FV := if t.isZero then .zero else if t.signOf then .fin true 1 0 else .one
    let v := sat32 (fvAdd d (fvMul c.lambda w))
    let w' := fmtF32.encode .train (fvSub w (fvMul s v.1))
    let m' := fmtBF16.encode .train (fvAdd (fvMul c.c3 m) (fvMul c.c4 g.1))
    ⟨w'.1, m'.1, ⟨k, 0, pre.2.2 + v.2 + w'.2.sat + m'.2.sat⟩⟩

/-- x^k by squaring and multiplying over the bits of k from the most significant, each product rounded (R195). -/
def powLoop (x : FV) : List Bool → FV × Nat → FV × Nat
  | [], acc => acc
  | b :: l, acc =>
    let q := sat32 (fvMul acc.1 acc.1)
    let r := if b then sat32 (fvMul q.1 x) else (q.1, 0)
    powLoop x l (r.1, acc.2 + q.2 + r.2)

def powK (x : FV) (k : Nat) : FV × Nat :=
  if k = 0 then (.one, 0)
  else powLoop x ((List.range (Nat.log2 k)).map fun i => bitOf k (Nat.log2 k - 1 - i)) (x, 0)

/-- The trust ratio and step size of a dense pass (R184): τ, s and SAT events. Like every value the engines round to binary32, τ
saturates (R182). -/
def trustStep (c : Coef) (sumsq : Window) (n : Nat) : FV × FV × Nat :=
  let s64 := fmtF64.roundVal sumsq.val
  let q := fmtF64.roundVal (fvDiv s64 (.ofInt n))
  let root := sat32 (fvSqrt q)
  let tau := if fvLt root.1 c.tauMin then c.tauMin else root.1
  let s := sat32 (fvMul c.eta tau)
  (tau, s.1, root.2 + s.2)

/-- A norm slot (R183). -/
structure NormSlot where
  win   : Window := {}
  valid : Bool := false
  fresh : Bool := false
deriving DecidableEq, Repr

/-- NORM_SET's value into a window (R186); none where the value is out of range. -/
def normWindow (c : Nat) : Option Window :=
  match fmtF64.decode c with
  | .fin s m e =>
    if m = 0 then some {}
    else if s then none
    else
      let x := floorLog2 m e
      if x ≥ 256 then none
      else if x ≥ -256 then
        -- the value is m × 2^e = (m × 2^(56 - (x - e))) × 2^(x - 56), exact for 53-bit m
        some (Window.put { anchor := some x } (Chk.of (alignTo (x - 56) m e : Nat)))
      else
        let r := rneAt m e (-256 - 56)
        let lost := !(dyLe r (-312) m e && dyLe m e r (-312))
        some (Window.put { anchor := some (-256), loss := b2n lost } (Chk.of (r : Nat)))
  | _ => none

/-- A binary64 pattern of an exact window (R197). -/
def window64 (w : Window) : Nat := fmtF64.encodeIeee w.val

end Sys2Proof
end

