-- ==== Sys2Proof/Machine/Types.lean ====
section
/-! DEFINITION. The parts of the state: cores, clusters, queues and heats (chapters 2 to 7 and 13). -/

namespace Sys2Proof.Machine

/-- A region of a core buffer: first line and length in lines (R60, R264). -/
structure Region where
  line : Nat
  len  : Nat
deriving DecidableEq, Repr

/-- A rotation stamp (R103); `rot` 0 is the unrotated stamp. -/
structure Stamp where
  rot    : Nat := 0
  side   : Nat := 0
  layer  : Nat := 0
  tensor : Nat := 0
deriving DecidableEq, Repr

/-- One row of a fill: its bank, the stream position of its first element, that element's contraction index, the
codes, the scale entries with the index of the first, the events, the lifted elements and the entries of the source's list. -/
structure FillRow where
  bank   : Nat
  pos    : Nat
  k0     : Nat
  codes  : List Nat
  scale0 : Nat
  scales : List Nat
  /-- The events, one entry for each `step` elements. -/
  evs    : List Ev
  step   : Nat
  lifted : List Lifted
  ents   : List Lifted
  /-- Which of the codes an entry of the buffer's log wrote, or a waiting fill has still to write: from `lo`, below `hi`. -/
  lo     : Nat
  hi     : Nat
  /-- Which of them the array has consumed: those below it (R66). -/
  used   : Nat := 0
deriving DecidableEq, Repr

/-- A fill as the device remembers it: where it wrote, its stamp, and what re-runs it (R121, R122, R434). -/
structure FillRec where
  /-- Its number on the core, and the command it belongs to. -/
  id      : Nat
  queue   : Nat
  index   : Nat
  elem    : Region
  scale   : Region
  width   : Nat
  /-- Source and target format, and the policy, as they stood at the fill's start. -/
  srcF    : Option Fmt
  fmt     : Option Fmt
  pol     : Nat
  rows    : List FillRow
  stamp   : Stamp
  heat    : Nat
  desc    : Slot
  ext     : Slot
  srcKind : Nat
  /-- The number of the held source, where the fill asked for one and got it (R126). -/
  hold    : Option Nat
  /-- The fill asked for hold-back. -/
  asked   : Bool
  /-- The source rows as they were read, in the order of `rows`. -/
  raw     : List (List Byte)
  /-- Their MX scales. -/
  scs     : List (List Byte)
deriving DecidableEq, Repr

/-- A write into a core buffer: a fill, or byte ranges (offset, length) written by any other agent. -/
inductive BufWrite where
  | fill (f : FillRec)
  | bytes (l : List (Nat × Nat))
deriving DecidableEq, Repr

/-- What the next chained tile is compared with and continues (R64, R65). -/
structure TileRef where
  fmtA : Fmt
  fmtB : Fmt
  aElem : Region
  bElem : Region
  aScale : Region
  bScale : Region
  /-- Stream position after the last contraction position, and the K-block number that follows. -/
  pos  : Nat
  kblk : Nat
deriving DecidableEq, Repr

/-- A summary register (R154 to R160). -/
structure Summary where
  op    : Nat := 0
  full  : Bool := false
  inf   : Bool := false
  nan   : Bool := false
  empty : Bool := true
  nElem : Nat := 0
  index : Nat := 0xFFFFFFFF
  value : Nat := 0
  win   : Window := {}
  posInf : Bool := false
  negInf : Bool := false
deriving DecidableEq, Repr

/-- The vector engine of a core (R136 to R171). -/
structure VecState where
  /-- Vector registers: key register × 64 + lane, 32-bit patterns. -/
  v      : Tab Nat := []
  /-- Mask registers, 512 bits each. -/
  m      : Tab Nat := []
  vl     : Nat := 0
  grp    : Nat := 0
  avl    : Nat := 0
  /-- Address registers, 64 bits. -/
  a      : Tab Nat := []
  sums   : Tab Summary := []
  /-- Tap t is bound to summary (value - 1); 0 is unbound. -/
  taps   : Tab Nat := []
  rngBase : Nat := 0
  rngKey  : Nat := 0
  rngDraw : Nat := 0
  /-- Blocks waiting, and the instruction number of the running block. -/
  blocks  : List Nat := []
  pc      : Option Nat := none
  /-- Fault cause and instruction (R170). -/
  fault   : Option (Nat × Nat) := none
  evSat   : Nat := 0
  evNanb  : Nat := 0
  evFlush : Nat := 0
  /-- VSTAT busy, and the block-done interrupt raised since the last write to VRUN (R162). -/
  busy      : Bool := false
  blockDone : Bool := false
  /-- A retire check has ended in a permanent or an escaped verdict: nothing more issues until the core is reset (R436, R437). -/
  condemned : Bool := false
deriving DecidableEq, Repr

/-- The running command program of a control core (R272, R273). -/
structure CtlRun where
  queue : Nat
  index : Nat
  desc  : Slot
  /-- The program counter: the entry point, until an instruction of the program has run. -/
  pc    : Nat
  /-- Lap beacons seen since the program started, in laps. -/
  laps  : Nat
  /-- What the program stored to its completion register, the record waiting for an idle vector engine. -/
  stored : Option (Nat × Nat)
deriving DecidableEq, Repr

/-- Power state of a unit (R415 to R418). -/
inductive UnitPower where
  | awake
  | idle
  | waking
  | off
deriving DecidableEq, Repr

/-- A core, by logical slot. -/
structure Core where
  /-- What the buffer's words were last written by, the newest write first. -/
  log    : List BufWrite := []
  /-- Fills that hold positions the array has first to consume others for (R66), oldest first. -/
  waiting : List FillRec := []
  nextFill : Nat := 0
  prev   : Option TileRef := none
  vec    : VecState := {}
  prog   : Tab Nat := []
  progLen : Nat := 0
  isram  : Tab Byte := []
  dsram  : Tab Byte := []
  ctl    : Option CtlRun := none
  /-- Completion interrupts raised and not yet taken by the core monitor (R260). -/
  irqs   : Nat := 0
  /-- What the last environment call returned in a0 (R250), and what the last load returned. -/
  a0     : Nat := 0
  loaded : Nat := 0
  /-- When an engine of the core last gave up a command (R417). -/
  quietAt : Nat := 0
deriving DecidableEq, Repr

/-- A held source (R126, R127). -/
structure Hold where
  id    : Nat
  bytes : List Byte
  /-- The fill's descriptor and extension. -/
  desc  : Slot
  ext   : Slot
  left  : Nat
  locked : Bool
deriving DecidableEq, Repr

/-- A hand-off stream (R167 to R169, R270). -/
structure Stream where
  queue : Nat
  index : Nat
  core  : Nat
  tag   : Nat
  fmt   : Fmt
  need  : Nat
  /-- Elements received, oldest first. -/
  elems : List Nat
  /-- Bytes in the engine's buffer (R168). -/
  buffered : Nat := 0
  /-- Closed short by its feeding command (R169). -/
  closed : Bool := false
deriving DecidableEq, Repr

/-- A cached granule (R234). -/
structure CacheLine where
  granule : Nat
  way     : Nat
  data    : List Byte
  used    : Nat
deriving DecidableEq, Repr

/-- A test window (R466). -/
structure TestWin where
  queue : Nat
  index : Nat
  lap   : Nat
  laps  : Nat
  begun : Bool
deriving DecidableEq, Repr

/-- A logical cluster. -/
structure Cluster where
  holds   : List Hold := []
  nextHold : Nat := 0
  lines   : List CacheLine := []
  clock   : Nat := 0
  /-- Stream prefetchers: the command (queue, index) that engages each. -/
  prefetch : List (Option (Nat × Nat)) := [none, none, none, none]
  streams : List (Option Stream) := [none, none, none, none]
  windows : List TestWin := []
  /-- A logical core under test in a window. -/
  underTest : Option Nat := none
  /-- A move of the spare waiting for its moment: the physical slot whose core moves (R463). -/
  movePending : Option Nat := none
  /-- Why the slot leaves service with that move; 0 for a rotation. -/
  moveCause : Nat := 0
  /-- A rotation whose lap came in pace loss (R293). -/
  rotHeld : Bool := false
  /-- The retired physical slot whose core waits for the spare's takeover (R440, R441). -/
  takeover : Option Nat := none
  /-- Slots retired after it, whose cores wait behind it. -/
  lost    : List Nat := []
  /-- The count of lap starts at which a takeover, or a move that is no rotation, was called for: it waits for the next one
  (R440, R441, R505). -/
  calledLap : Option Nat := none
  /-- The rotation interval in use, in laps; 0 before the boot sets it (R462). -/
  interval : Nat := 0
  /-- The count of lap starts at which a rotation was called for last. -/
  rotated : Option Nat := none
  /-- Slots whose overdue test has been reported (R467). -/
  overdue : List Nat := []
deriving DecidableEq, Repr

/-- An array tile between its start and its commit (R122, R133, R434). -/
structure TileRun where
  rungA : Nat
  rungB : Nat
  /-- Stream and K-block origins of the first pass. -/
  pos0  : Nat
  kblk0 : Nat
  repeats : Nat := 0
  pinReq : Bool := false
  ceilHit : Bool := false
  srcAbsent : Bool := false
  nanbX : Bool := false
  wlossX : Bool := false
  logged : Bool := false
  logIndex : Nat := 0
  trigA : Nat := 0
  trigB : Nat := 0
  /-- Which operands the next repeat widens. -/
  widenA : Bool := false
  widenB : Bool := false
  /-- A repeat is decided and has not run. -/
  again : Bool := false
  /-- A marked pass waits for its photo finish: the failed checks, and the outputs the marked pass wrote. -/
  marked : List Residue := []
  outs   : List (Nat × Nat × Nat) := []
  corrected : Nat := 0
  feedStall : Nat := 0
  drainSat : Nat := 0
  drainFlush : Nat := 0
  repeatBeats : Nat := 0
  /-- The policy entry as it stood at the start (R116). -/
  policy : Nat
  /-- The buffer's writes and the waiting fills as the first pass found them: the fills behind its operands. -/
  log    : List BufWrite := []
  waiting : List FillRec := []
deriving DecidableEq, Repr

/-- The remote side of a DMA command (R314, R331 to R334). -/
structure Remote where
  /-- Packets not yet sent, or to be sent again, in order, each with its place in the command. -/
  unsent   : List (Nat × Packet) := []
  /-- The reason of the first final NAK (R332), and the field that names the refused access (R544). -/
  refusal  : Option Nat := none
  refusedPos : Nat := 0
  /-- The back-off in use, in µs; 0 before the first HEAT_RESETTING. -/
  backoff  : Nat := 0
  firstNak : Option Nat := none
  /-- When the back-off has passed. -/
  retryAt  : Option Nat := none
  /-- Read data that has come, by place. -/
  got      : List (Nat × List Byte) := []
  /-- Everything has been asked for once. -/
  asked    : Bool := false
  /-- Packets answered with HEAT_RESETTING, and the chips that answered so: nothing else of the command goes out to them (R333). -/
  again    : List (Nat × Packet) := []
  holdChips : List Nat := []
deriving DecidableEq, Repr

/-- What a command stores on this device once its remote packets have been answered (R332): rows with their MX scales, its side list,
the FLUSH events, and the words and status it ends with. -/
structure LateStores where
  rows  : List (Nat × List Byte × List Byte)
  list  : List Byte
  flush : Nat
  elems : Nat
  word  : Nat
  st    : Nat
deriving DecidableEq, Repr

/-- What a fill reads once when it starts (R107, R546, R547). -/
structure ListHead where
  count  : Nat
  rows   : Nat
  rowLen : Nat
  tensor : Nat
  layer  : Nat
  rot    : Nat
  side   : Nat
deriving DecidableEq, Repr

/-- A layer table entry (R128). -/
structure LayerRow where
  rung : Nat := 0
  pin  : Nat := 0
  policy : Nat := 0
deriving DecidableEq, Repr

/-- A change of a heat's tables that other commands see once the completion record is written (R116, R129, R179). -/
inductive Late where
  | policy (n v : Nat)
  | coef (n v : Nat)
  | layer (n : Nat) (r : LayerRow)
  | step (n : Nat)
deriving DecidableEq, Repr

/-- A layer's counts as a STEP_END closed them: flagged tiles, tiles and the pin policy as it stood (R129, R130). -/
structure StepCount where
  layer   : Nat
  flagged : Nat
  tiles   : Nat
  policy  : Nat
deriving DecidableEq, Repr

/-- A marked DIAG_EW: its failed checks, and what it wrote: element and code (R433). -/
structure DiagMark where
  bad  : List Residue
  outs : List (Nat × Nat)
deriving DecidableEq, Repr

/-- A command of a queue that has started and whose record is not yet written. -/
structure Flight where
  index  : Nat
  opcode : Nat
  desc   : Slot
  ext    : Slot
  hasExt : Bool
  /-- Its work has been done; the record waits for earlier ones (R251). -/
  done   : Bool := false
  status : Nat := 0
  wordA  : Nat := 0
  wordB  : Nat := 0
  /-- The effect has been made and the command waits for something (acknowledgements, consumption, elements). -/
  acted  : Bool := false
  tile   : Option TileRun := none
  /-- Remote packets of the command not yet answered, sent or not. -/
  acks   : Nat := 0
  rem    : Remote := {}
  /-- The target format, the key-value format and the policy as they stood at the start (R116, R128, R244). -/
  srcF   : Option Fmt := none
  dstF   : Option Fmt := none
  pol    : Nat := 0
  lhead  : Option ListHead := none
  /-- The fill waits for the array before it writes its region (R66), or the add-into for its turn in a staging half (R222, R225). -/
  waits  : Bool := false
  /-- Held back by an ordered region after its start, and counted (R225). -/
  held   : Bool := false
  /-- The command has started; a failed validation has not (R245). -/
  started : Bool := true
  /-- What takes effect with the record. -/
  after  : List Late := []
  /-- The counts a STEP_END closed at its start. -/
  steps  : List StepCount := []
  /-- The image, or the row list, as the start checked it (R164, R194). -/
  words  : List Nat := []
  /-- The coefficient row as it stood at the start (R179). -/
  coef   : Nat := 0
  /-- Stores on this device that wait for the command's answers (R332). -/
  late   : Option LateStores := none
  /-- A marked DIAG_EW waits for its photo finish (R433). -/
  diag   : Option DiagMark := none
deriving DecidableEq, Repr

/-- A member-table entry (R339). -/
structure Member where
  chip  : Nat
  base  : Nat
  count : Nat
deriving DecidableEq, Repr

/-- A permutation entry (R365). -/
structure PermEntry where
  dst    : Nat
  srcOff : Nat
  dstOff : Nat
  bytes  : Nat
deriving DecidableEq, Repr

/-- The command at the head of a queue, read and past the static stage. -/
structure HeadCmd where
  index : Nat
  desc  : Slot
  ext   : Slot
  hasExt : Bool
  /-- An UPDATE_LAYER whose entry was neither OPEN nor COMPLETE when it reached the head (R191). -/
  badEntry : Bool := false
  /-- Held back by an ordered region, and counted (R225). -/
  held : Bool := false
  /-- A collective's member table, its CRC and its permutation table, as the static stage read them (R340). -/
  members : List Member := []
  crc : Nat := 0
  perms : List PermEntry := []
deriving DecidableEq, Repr

/-- A queue (R246 to R253). -/
structure Queue where
  enabled : Bool := false
  cls     : Nat := 0
  slot    : Nat := 0
  log2    : Nat := 6
  ring    : Nat := 0
  cpl     : Nat := 0
  head    : Nat := 0
  tail    : Nat := 0
  refused : Nat := 0
  /-- Index of the next command to reach the head. -/
  next    : Nat := 0
  headCmd : Option HeadCmd := none
  flights : List Flight := []
  /-- The head command's not-before time lay ahead when it was last looked at: its comparison is still to come (R254, R297). -/
  waitsTime : Bool := false
  /-- The head command is held to the next local lap start (R293). -/
  paceHeld  : Bool := false
deriving DecidableEq, Repr

/-- The states of a heat (R239). -/
inductive HState where
  | free
  | starting
  | running
  | stopping
  | stopped
  | restarting
  | releasing
deriving DecidableEq, Repr

def HState.code : HState → Nat
  | .free => 0
  | .starting => 1
  | .running => 2
  | .stopping => 3
  | .stopped => 4
  | .restarting => 5
  | .releasing => 6

inductive LedgerState where
  | idle
  | opened
  | complete
  | updating
  | released
deriving DecidableEq, Repr

def LedgerState.code : LedgerState → Nat
  | .idle => 0
  | .opened => 1
  | .complete => 2
  | .updating => 3
  | .released => 4

/-- A gradient ledger entry (R174 to R176). -/
structure Ledger where
  st       : LedgerState := .idle
  base     : Nat := 0
  elems    : Nat := 0
  expected : Nat := 0
  arrived  : Nat := 0
  mbWin    : Window := {}
  mbNonfinite : Bool := false
  mbContribs : Nat := 0
deriving DecidableEq, Repr

/-- Who sends a contribution (R225): a command of this device, a heat of another device, or a member of a collective. -/
inductive Sender where
  | here
  | remote (chip tag : Nat)
  | coll (id peer : Nat)
deriving DecidableEq, Repr

/-- A byte range of a contribution, the ledger entry and kind it carries, and the local command it belongs to (queue, index) or the
transaction of the peer's packet that brought it. -/
structure ContribSpan where
  addr  : Nat
  len   : Nat
  layer : Nat := 0
  kind  : Nat := 0
  cmd   : Option (Nat × Nat) := none
  txn   : Nat := 0
deriving DecidableEq, Repr

/-- One contribution to an ordered region (R225). -/
structure Contrib where
  order  : Nat
  owner  : Sender
  staged : Bool
  whole  : Bool
  /-- What of it has come, the last first. -/
  spans  : List ContribSpan
deriving DecidableEq, Repr

/-- An ordered region (R224). -/
structure OrdRegion where
  base    : Nat
  bytes   : Nat
  members : Nat
  bf16    : Bool
  stage   : Nat
  next    : Nat := 0
  contribs : List Contrib := []
  closed  : Bool := false
deriving DecidableEq, Repr

/-- An update record with where it goes (R197, R450). -/
structure UpdRec where
  word : Nat := 0
  stat : Nat := 0
deriving DecidableEq, Repr

/-- A snapshot in progress (R453). -/
structure Snap where
  lap   : Nat
  /-- Phase of R453: 1 copying, 3 own copy valid, 5 sending to the buddy, 6 done. -/
  phase : Nat
  number : Nat
  /-- The state block as captured: its bytes that are not 0, by offset. -/
  block : Tab Byte := []
  slot  : Nat := 0
  /-- Stores to the buddy not yet acknowledged, and what of them waits. -/
  acks  : Nat := 0
  rem   : Remote := {}
  /-- The check at the commit lap has been made. -/
  checked : Bool := false
deriving DecidableEq, Repr

/-- An INVENTORY report received (R456 to R458). -/
structure Report where
  /-- The restart it belongs to. -/
  no       : Nat
  subject  : Nat
  sender   : Nat
  onBehalf : Bool
  lapA     : Nat
  lapB     : Nat
deriving DecidableEq, Repr

/-- The restart a heat is in (R456 to R460). -/
structure Restart where
  /-- Restart number. -/
  no : Nat := 0
  /-- The count of lap starts at which it began, and at which RESTORE was sent last. -/
  startLap : Nat := 0
  reports : List Report := []
  /-- The lap chosen by RESTORE, and whether this member has begun and completed it. -/
  chosen  : Option Nat := none
  restoring : Bool := false
  restored : Bool := false
  fromBuddy : Bool := false
  /-- Members whose RESTORED this lead holds. -/
  done    : List Nat := []
  restoreSent : Option Nat := none
  resume  : Option Nat := none
  origin  : Nat := 0
  cls     : Nat := 0
  cause   : Nat := 0
  onBehalfSent : Bool := false
  /-- This device acts as lead though another is named (R458); it found no common lap. -/
  acting  : Bool := false
  noSnapshot : Bool := false
  /-- Reads from the buddy: 1 headers asked for, 2 the snapshot asked for; reads not yet answered. -/
  reading : Nat := 0
  acks    : Nat := 0
  rem     : Remote := {}
deriving DecidableEq, Repr

/-- A retained exchange partial (R369). -/
structure Retained where
  key   : Nat
  base  : Nat
  bytes : Nat
deriving DecidableEq, Repr

/-- The typed state of a heat; its configuration and statistics lie in the dictionary. -/
structure Heat where
  st       : HState := .free
  /-- A C2 or worse was detected and waits for its handling (R444). -/
  contained : Bool := false
  atFault  : HState := .free
  /-- Number of the Starter session that claimed the heat, and whether a plan claims it. -/
  policyInit : Nat := 0
  policies : Tab Nat := []
  layers   : Tab LayerRow := []
  coef     : Tab Nat := []
  ledger   : Tab Ledger := []
  norms    : Tab NormSlot := []
  recs     : Tab UpdRec := []
  troubleSeq : Nat := 0
  lastStep : Nat := 0
  regions  : List OrdRegion := []
  snap     : Option Snap := none
  snapCount : Nat := 0
  take     : Option Nat := none
  lastSnapLap : Option Nat := none
  restart  : Restart := {}
  fencedLap : Option Nat := none
  retained : List Retained := []
  /-- A snapshot lap that came in pace loss (R293). -/
  snapHeld : Bool := false
  /-- The session that claims the heat (R389), and the JOB_START that waits for RUNNING: session and request (R390). -/
  claim    : Option Nat := none
  starter  : Option (Nat × Nat) := none
  /-- The salt drawn at START (R509). -/
  salt     : List Byte := []
  /-- The storage ring, the inbox and the outbox are at fault (R379). -/
  ringBad  : List Bool := [false, false, false]
  /-- Index of the next storage completion; none: from the ring's `cons` (R378, R383). -/
  stDone   : Option Nat := none
deriving DecidableEq, Repr

/-- An installed job plan (R316, R317). -/
structure Installed where
  plan    : Plan
  /-- The heat of a HEAT plan has been started under it. -/
  started : Bool := false
  /-- Of each image, the byte ranges written so far, and whether its digest has matched (R390). -/
  spans   : List (List (Nat × Nat)) := []
  matched : List Bool := []
deriving DecidableEq, Repr

/-- An event waiting for the management processor (R445). -/
structure Event where
  code   : Nat
  cls    : Nat
  cause  : Nat := 0
  heat   : Option Nat := none
  unit   : Nat := 0
  unitKind : Nat := 0
  detail : List Byte := []
  /-- Restart number of the heat and device time at detection. -/
  restartNo : Nat := 0
  lap    : Nat := 0
  phase  : Nat := 0
  /-- Its heat was RESTARTING at detection (R459). -/
  inRestart : Bool := false
deriving DecidableEq, Repr

end Sys2Proof.Machine
end

