-- ==== Sys2Proof/Machine/TypesNet.lean ====
section
/-! DEFINITION. The parts of the state that face the fabric: ports, transactions, collectives (chapters 8 to 10). -/

namespace Sys2Proof.Machine

/-- A beacon seen on a port that is not the accepted one, for acquisition and R295. -/
structure BeaconSeen where
  lap    : Nat
  setter : Nat
  hop    : Nat
  ticks  : Nat
  /-- The implied lap start, in 0.1 ns of device clock time. -/
  start  : Int
  corr   : Nat := 0
deriving DecidableEq, Repr

/-- A group of the link layer (R306): its header and its payload flits. -/
structure Group where
  header : BitVec 2048
  flits  : List (BitVec 2048)
deriving DecidableEq, Repr

/-- A packet waiting at a port: its VC, the port and VC by which it entered, if it did not start here, and the packet as it came. -/
structure Queued where
  vc  : Nat
  ing : Option (Nat × Nat)
  pkt : Packet
deriving DecidableEq, Repr

/-- A TCP segment with payload as it leaves by an Ethernet port (R374): its VLAN ID (0: untagged), and the bytes it carries. It has DF
and an ECN-capable codepoint. -/
structure Segment where
  vlan : Nat
  df   : Bool
  ecn  : Bool
  data : List Byte
deriving DecidableEq, Repr

/-- What leaves the device by an interface other than the fabric. -/
inductive Out where
  /-- The answer to a dictionary request or heat control: abort code (0 for success) and the bytes read. -/
  | dict (path : Path) (abort : Nat) (value : List Byte)
  /-- A CANopen emergency message (R495, R425): its CAN identifier, error code and manufacturer bytes. -/
  | emcy (id code : Nat) (data : List Byte)
  /-- Another CAN message, by its identifier and kind. -/
  | can (id : Nat) (kind : String) (data : List Byte)
  /-- A USDO answer: its CAN identifier, the client, the abort code (0 for success), the whole value's length, and what of the value this
  message carries (R475). -/
  | usdo (id client abort total : Nat) (data : List Byte)
  /-- A UDP datagram of the management port: its own port and address, and where it goes. -/
  | udp (srcPort src addr port : Nat) (data : List Byte)
  /-- A Starter message: session, type, request number and body, and the segments of the record that carries it (R384). -/
  | starter (session kind req : Nat) (body : List Byte) (wire : List Segment)
  /-- A frame of the network engine. -/
  | net (port : Nat) (kind : String) (data : List Byte)
  /-- A TCP segment that opens or refuses a connection, by its kind. -/
  | tcp (port : Nat) (kind : String) (seg : Segment)
  /-- An NVMe/TCP PDU to a storage target: heat, target slot, its kind, command identifier, and its segments. -/
  | nvme (heat slot : Nat) (kind : String) (cmd : Nat) (wire : List Segment)
  /-- What the test port shifts out. -/
  | jtag (bits value : Nat)
deriving DecidableEq, Repr

/-- A fabric port (R300 to R336); its link state, width, neighbour and counters lie in 0x2300 + p. -/
structure Port where
  /-- When the training attempt under way began, if one is. -/
  attempt : Option Nat := none
  /-- When the port entered TRAINED. -/
  trainedAt : Nat := 0
  /-- The last 16 exchanges: (t4 - t1) - (t3 - t2), newest first. -/
  delays  : List Int := []
  /-- An exchange asked for in this lap. -/
  asked   : Bool := false
  record  : Option (BitVec 256) := none
  /-- A discovery record is owed (R318). -/
  owes    : Bool := false
  /-- Local lap starts since the port entered TRAINED. -/
  laps    : Nat := 0
  /-- Neighbours logged as extra (R319). -/
  extra   : List Nat := []
  seen    : List BeaconSeen := []
  /-- Groups received in order since link start, whether the receiver discards until a replay, and whether its next header asks for one. -/
  rxNext  : Nat := 0
  failing : Bool := false
  nakDue  : Bool := false
  /-- Packets under reassembly: by VC, the flits so far, last first. -/
  partials : List (Nat × List (BitVec 2048)) := []
  /-- Flits of each VC freed here since link start. -/
  freed   : List Nat := [0, 0, 0, 0]
  txNext  : Nat := 0
  /-- Groups sent, newest first, at most 128 (R308). -/
  retry   : List (Nat × Group) := []
  /-- The group replayed last and how often in a row. -/
  replays : Nat × Nat := (0, 0)
  /-- Flits of each VC sent since link start, and the neighbour's cumulative credit counts (modulo 4,096). -/
  sent    : List Nat := [0, 0, 0, 0]
  credit  : List Nat := [0, 0, 0, 0]
  /-- Packets waiting for the line, oldest first. -/
  queue   : List Queued := []
  /-- Control flits waiting for VC3: code and body. -/
  ctrl    : List (Nat × List Byte) := []
  /-- A packet of VC0, 1 or 2 partly sent: the VC and the flits that remain. -/
  sending : List (Nat × List (BitVec 2048)) := []
  /-- VC2 slots used in the last seven groups (R311). -/
  vc2use  : List Nat := []
  /-- The VC that round-robin serves next between 0 and 1. -/
  turn    : Nat := 0
  /-- Packets delivered to this device and not yet taken by their commands. -/
  delivered : List Packet := []
  ctrlIn  : List (Nat × List Byte) := []
  /-- A group to be sent again follows from a NAK. -/
  replayFrom : Option Nat := none
  /-- The lanes in use, and whether a record has been missing for 2 s (R304, R319). -/
  lanes   : Nat := 0
  late    : Bool := false
  gotRecord : Bool := false
  /-- Groups the neighbour has acknowledged, and packets not yet acknowledged, with the group of the last flit. -/
  acked   : Nat := 0
  unacked : List (Nat × Queued) := []
  /-- The group on the line. -/
  lastOut : Option Group := none
deriving DecidableEq, Repr

/-- Whose packet awaits an answer. -/
inductive TxnOwner where
  /-- A DMA command: queue, index, place in the command. -/
  | dma (queue index place : Nat)
  /-- A collective: heat, coll_id, peer. -/
  | coll (heat coll peer : Nat)
  /-- A heat's restore from its buddy, or its snapshot's way there: heat, place (R453, R459). -/
  | restore (heat place : Nat)
  | snap (heat place : Nat)
deriving DecidableEq, Repr

/-- A remote packet that awaits an answer (R334). -/
structure Txn where
  id    : Nat
  owner : TxnOwner
  pkt   : Packet
  since : Nat
  /-- Answered by COLL_HELD or COLL_BUSY: no timeout runs, and it is sent again. -/
  parked : Bool := false
deriving DecidableEq, Repr

/-- What a collective knows of one peer. -/
structure Peer where
  /-- COLL_READY, COLL_COUNTS, COLL_GRANT and COLL_END with their values, where they have come. -/
  ready  : Option Nat := none
  counts : Option Nat := none
  grant  : Option Nat := none
  ended  : Option Nat := none
  /-- Its data has been put on the way to it; tokens, bytes or elements. -/
  sentTo : Bool := false
  /-- Bytes of its contribution applied here, and whether it was admitted (R351). -/
  got    : Nat := 0
  spans  : List (Nat × Nat) := []
  admitted : Bool := false
  /-- Its contribution is held back (R352). -/
  held   : Bool := false
  /-- COLL_RESUME has come from it. -/
  resumed : Bool := false
deriving DecidableEq, Repr

/-- A collective in progress (R341). -/
structure Coll where
  heat  : Nat
  queue : Nat
  index : Nat
  id    : Nat
  form  : Nat
  self  : Nat
  crc   : Nat
  members : List Member
  /-- Baton: the exchange table's send counts as they stood at the start (R359). -/
  sends : List Nat := []
  perms : List PermEntry := []
  peers : List Peer
  /-- Whether it was refused: the reason. -/
  refused : Option Nat := none
  /-- Packets not yet sent, with the peer each goes to; those refused with HEAT_RESETTING, to be sent again; and the peers whose
  unsent packets wait until one of these is answered (R333). -/
  unsent : List (Nat × Packet) := []
  again  : List (Nat × Packet) := []
  holdTo : List Nat := []
  /-- Packets that wait for COLL_RESUME, by peer, and for the busy back-off. -/
  heldPk : List (Nat × Packet) := []
  /-- Baton: what was granted and where; the allocation is made. -/
  granted : List Nat := []
  alloc  : Option (Nat × Nat) := none
  /-- All-gather: REUSE hit. -/
  hit    : Bool := false
  /-- Relay: staged, or short. -/
  staged : Option Bool := none
  elemsSent : Nat := 0
  /-- Local lap starts since a packet of the collective came (R348). -/
  quiet  : Nat := 0
  backoff : Nat := 0
  firstNak : Option Nat := none
  retryAt : Option Nat := none
deriving DecidableEq, Repr

/-- An entry of the early table (R344). -/
structure Early where
  tag   : Nat
  pkt   : Packet
deriving DecidableEq, Repr

/-- A live baton allocation (R363). -/
structure Alloc where
  heat  : Nat
  coll  : Nat
  base  : Nat
  bytes : Nat
  /-- Released, and kept until every older one is. -/
  freed : Bool := false
deriving DecidableEq, Repr

/-- The `PACE_IN±` input (R296). -/
structure PaceIn where
  /-- The input may be used as the reference. -/
  valid : Bool := false
  last  : Option Nat := none
  /-- Consecutive accepted edges with none ignored. -/
  run   : Nat := 0
deriving DecidableEq, Repr

end Sys2Proof.Machine
end

