-- ==== Sys2Proof/Machine/TypesMgmt.lean ====
section
/-! DEFINITION. The parts of the state that management, the ordinary network and power sequencing hold (chapters 11 to 15). -/

namespace Sys2Proof.Machine

/-- A logged event (R492): its sequence number, its 2,048 bits, and whether it is in flash. -/
structure LogRec where
  seq   : Nat
  word  : Nat
  flash : Bool := true
deriving DecidableEq, Repr

/-- A history record (R497): its kind, what it holds, and its CRC-32. -/
structure HistRec where
  kind   : Nat
  fields : List Nat
  crc    : Nat
deriving DecidableEq, Repr

/-- A Starter session (R385); its number is its key. -/
structure Session where
  eth     : Nat
  /-- 0 connected, 1 HELLO answered, 2 set up. -/
  stage   : Nat := 0
  since   : Nat := 0
  last    : Nat := 0
  rights  : Nat := 0
  recsIn  : Nat := 0
  recsOut : Nat := 0
  /-- The digest over HELLO and HELLO_REPLY, and the keys and IV bases derived from it. -/
  transcript : List Byte := []
  secrets : List Byte := []
deriving DecidableEq, Repr

/-- An open serving request (R391 to R393): its place and size in the serve buffer. -/
structure Serve where
  heat    : Nat
  session : Nat
  req     : Nat
  base    : Nat
  bytes   : Nat
  cancelled : Bool := false
  /-- Tokens sent (SERVE_END). -/
  sent    : Nat := 0
  /-- Its CANCEL entry waits for a free inbox slot (R379, R393). -/
  owed    : Bool := false
  /-- Ended; its prompt space waits for older requests' (R363). -/
  ended   : Bool := false
deriving DecidableEq, Repr

/-- An NVMe command of a storage request. -/
structure Nvme where
  id    : Nat
  heat  : Nat
  slot  : Nat
  /-- The request's index in its ring. -/
  req   : Nat
  op    : Nat
  nsid  : Nat
  lba   : Nat
  blocks : Nat
  off   : Nat
  bytes : Nat
  sent  : Bool := false
  /-- The first command of its request. -/
  first : Bool := false
  /-- Sent before the heat entered RESTARTING: no completion record follows (R383). -/
  orphan : Bool := false
deriving DecidableEq, Repr

/-- A storage request taken up and not completed (R378 to R381). -/
structure StoreReq where
  heat  : Nat
  index : Nat
  word  : Nat
  left  : Nat
  /-- Its first failure: `st_status` and `nvme_status`. -/
  fail  : Option (Nat × Nat) := none
deriving DecidableEq, Repr

/-- A connection to a storage target (R377, R381). -/
structure Conn where
  heat : Nat
  slot : Nat
  up   : Bool := false
  /-- It has been up before: its next opening is a reconnect. -/
  was  : Bool := false
  /-- Since when it has been down, and when a Keep Alive was sent last. -/
  down : Nat := 0
  alive : Nat := 0
  /-- The target's answer to the digests asked for (R377). -/
  dig  : Digests := {}
deriving DecidableEq, Repr

/-- A dictionary transfer in segments (R475, R478): the client, the entry, what came, and when the last segment came. -/
structure Transfer where
  path  : Path
  index : Nat
  sub   : Nat
  data  : List Byte
  last  : Nat
deriving DecidableEq, Repr

/-- The copy a segmented read answers from (R479), or a kept reply (R480). -/
structure ReadCopy where
  path  : Path
  index : Nat
  sub   : Nat
  value : List Byte
  taken : Nat
  /-- The offset of the next segment of a USDO upload. -/
  next  : Nat := 0
deriving DecidableEq, Repr

structure KeptReply where
  addr  : Nat
  port  : Nat
  req   : Nat
  reply : List Byte
  taken : Nat
deriving DecidableEq, Repr

/-- A firmware image as the device keeps it in flash: the header's fields, and the first of R407's checks 2, 3, 4 and 7
that its bytes fail, 0 for none. -/
structure Firmware where
  version  : Nat := 0x1000000000000
  security : Nat := 0
  keySlot  : Nat := 0
  variants : Nat := 7
  bad      : Nat := 0
  /-- SHAKE256 over header and body, 32 bytes; none where the bytes are the factory's. -/
  digest   : List Byte := []
deriving DecidableEq, Repr

/-- Records of the update journal, 64 bytes each (R423). -/
inductive Journal where
  /-- The new header's digest and `image_bytes`. -/
  | begun (digest : List Byte) (bytes : Nat)
  /-- One 64 KiB sector programmed: its number. -/
  | sector (n : Nat)
  | commit
deriving DecidableEq, Repr

/-- A swept Vmin of a slot (R502): the powered hour, the bin, Vmin in mV and the ring oscillators' frequency. -/
structure SweepRec where
  hour : Nat
  bin  : Nat
  vmin : Nat
  ring : Nat
deriving DecidableEq, Repr

/-- A wake token asked for (R415). -/
structure WakeReq where
  unit  : WakeUnit
  since : Nat
deriving DecidableEq, Repr

/-- The power sequencer: requests in order, the steps granted in the last millisecond in 0.01 A, and the physical stacks,
physical clusters and ports' lasers that are on. -/
structure Sequencer where
  waiting : List WakeReq := []
  granted : List (Nat × Nat) := []
  /-- The governor's ramps in the last millisecond (R523). -/
  ramps   : List (Nat × Nat) := []
  stacksOn  : List Nat := []
  clusters : List Nat := []
  lasers  : List Nat := []
deriving DecidableEq, Repr

/-- Supply, thermal and coolant conditions as they stand (R520, R525): since when each has held, and whether it is in force. -/
structure PowerState where
  /-- Input outside 46.0 V to 56.0 V; above 58.0 V; current above 140 A; consecutive milliseconds each. -/
  rangeMs  : Nat := 0
  overMs   : Nat := 0
  currMs   : Nat := 0
  rangeOn  : Bool := false
  meanOn   : Bool := false
  /-- The last 100 input samples in mV and mA, newest first. -/
  inputs   : List (Nat × Nat) := []
  /-- The die or stack condition of the thermal term is in force. -/
  thermOn  : Bool := false
  /-- The thermal term in watts; none stands for the class limit. -/
  thermal  : Option Nat := none
  lastStep : Nat := 0
  inletMs  : Nat := 0
  inletOn  : Bool := false
  coolOn   : Bool := false
  coolMs   : Nat := 0
  flowMs   : Nat := 0
  flowOn   : Bool := false
  /-- A die sensor, a stack at or above its threshold in the last sample. -/
  dieHot   : Bool := false
  stackHot : Bool := false
  /-- What has brought the thermal term down since it was last at the class limit: die, stack. -/
  dieTerm  : Bool := false
  stackTerm : Bool := false
  /-- Sensors that have failed: kind and number. -/
  failed   : List (Nat × Nat) := []
  /-- Sensors whose failure has been reported, and the samples taken. -/
  reported : List (Nat × Nat) := []
  samples  : Nat := 0
  /-- Since when THROTTLE_N is accepted low, and whether the 60 s were logged. -/
  throttle : Option Nat := none
  throttleLogged : Bool := false
  overRun  : Nat := 0
deriving DecidableEq, Repr

/-- The slow pins and outputs (R530 to R534). -/
structure Pins where
  /-- The 52 V input is valid (R396). -/
  inputOn  : Bool := false
  resetLow : Bool := false
  pwrEn    : Bool := false
  /-- The filtered level of PWR_EN, and when a change was last accepted. -/
  pwrLevel : Bool := false
  pwrAt    : Option Nat := none
  throttleLow : Bool := false
  thermTrip : Bool := false
deriving DecidableEq, Repr

end Sys2Proof.Machine
end

