-- ==== Sys2Proof/Machine/State.lean ====
section
/-! DEFINITION. The state of the module, its faults and refusals, and the state right after reset. -/

namespace Sys2Proof.Machine

/-- Why a step stops with a fault. Every command of this block has an effect or, where its conditions do not hold, none:
no command raises this fault. -/
inductive Fault where
  /-- Raised by nobody. -/
  | none
deriving DecidableEq, Repr

/-- Why a command has no meaning. -/
inductive Refusal where
  /-- The command is not modelled: raised by a refused arm of `exec` only. Safe. -/
  | notModelled (mnemonic : String)
deriving DecidableEq, Repr

structure State where
  /-- Commands that wait, first in, first out. -/
  pending : List Instr := []
  /-- Time since the clock started, in 0.1 ns (R279: 64 to a tick). -/
  now     : Nat := 0
  lap     : Nat := 0
  phase   : Nat := 0
  /-- Local lap starts so far: what every rule that counts laps counts (R279). -/
  lapStarts : Nat := 0
  /-- Pace has been regained since the last lap start: what was held waits for the next (R293). -/
  regained : Bool := false
  /-- The model's own counter of free values taken. -/
  freeCtr : Nat := 0
  /-- Stack memory, core-buffer windows and scratch, by device offset (R200). -/
  mem     : Tab Byte := []
  /-- What an unlisted byte reads as, where it is not 0: ranges (first, end, seed), the newest first; seed 0 is zero. `mem` lists how a
  byte differs from it (R414). -/
  blank   : List (Nat × Nat × Nat) := []
  /-- Symbol errors lying in stack sectors: (symbol, value XORed in). -/
  errs    : Tab (List (Nat × Byte)) := []
  /-- Numeric dictionary entries that differ from their default, and domain entries. -/
  dict    : Tab Nat := []
  dom     : Tab (List Byte) := []
  heats   : Tab Heat := []
  queues  : Tab Queue := []
  /-- By engine: the queue after the one it served last (R252). -/
  served  : Tab Nat := []
  cores   : Tab Core := []
  clusters : Tab Cluster := []
  events  : List Event := []
  lostEvents : Nat := 0
  /-- Corrections of the last 24 h by channel: (channel, time, symbols). -/
  corrs   : List (Nat × Nat × Nat) := []
  failedChannels : List Nat := []
  /-- The patrol scrub's pass: the sectors it has read, and when it began (R215). -/
  scrubbed : List Nat := []
  scrubBegan : Nat := 0
  plans   : List Installed := []
  /-- Powered time before the clock started, in ms (R498). -/
  poweredBase : Nat := 0
  /-- Transients in the history: physical slot, unit, powered hour, lap (R439). -/
  transients : List (Nat × Nat × Nat × Nat) := []
  /-- Physical core slots retired for good (R441). -/
  retiredSlots : List Nat := []
  /-- Power states of logical core slots (R417). -/
  corePower : Tab UnitPower := []
  ports   : Tab Port := []
  txns    : List Txn := []
  nextTxn : Nat := 0
  colls   : List Coll := []
  early   : List Early := []
  /-- Baton allocations, oldest first, and the head of each heat's pool (R363). -/
  allocs  : List Alloc := []
  poolHead : Tab Nat := []
  /-- The local start of the current lap on the device's clock, in 0.1 ns, and the offset still to be slewed out (R287). -/
  lapStartAt : Int := 0
  slew    : Int := 0
  /-- What has been slewed since the lap start, and thousandths of a unit towards the next. -/
  slewed  : Int := 0
  slewFrac : Nat := 0
  /-- The lap for which a beacon was accepted last, and its body (R494). -/
  beaconLap : Option Nat := none
  beacon  : List Byte := []
  paceIn  : PaceIn := {}
  /-- Remote ordered add-intos held back (R225, R330): port and packet. -/
  heldMem : List (Nat × Packet) := []
  /-- What has left the device, oldest first. -/
  out     : List Out := []
  -- events, log and history
  log     : List LogRec := []
  /-- The sequence number of the next event, counted from manufacture. -/
  logNext : Nat := 1
  /-- When a C0 or C1 event was logged last (0x1001). -/
  lastMinor : Option Nat := none
  history : List HistRec := []
  /-- History sectors: the current one and the records in it. -/
  histSector : Nat := 0
  histUsed : Nat := 0
  /-- The sequence number of the current sector (R497). -/
  histSeq : Nat := 0
  /-- Powered time last saved, in ms, and the powered hour of the last C3 (R447, R498). -/
  powerSaved : Nat := 0
  lastC3  : Option Nat := none
  /-- C3 events between step 7 and READY since the cold start (R404). -/
  bootC3  : Nat := 0
  /-- 0x2700:03 by client (R496). -/
  readSeq : List (Path × Nat) := []
  -- notices
  noticeSeq : Nat := 0
  /-- Notices seen: origin, kind, sequence number and count of lap starts, newest first (R455). -/
  notices : List (Nat × Nat × Nat × Nat) := []
  -- boot
  flash   : Firmware := {}
  journal : List Journal := []
  /-- An image received by 0x2A10:05, and one being written. -/
  image   : List Byte := []
  writing : Option Firmware := none
  running : Firmware := {}
  strapped : Bool := false
  startedAt : Nat := 0
  /-- When the boot stage began. -/
  stageAt : Nat := 0
  /-- Entries that were not in flash when the log was lost, until the gap is logged (R493). -/
  logGap  : Nat := 0
  /-- Physical slots marked for retirement at the next boot (R441). -/
  markedSlots : List Nat := []
  /-- Next warm-up wave, and where POWERING_DOWN leads. -/
  wave    : Nat := 0
  downTo  : Nat := 2
  seq     : Sequencer := {}
  pins    : Pins := {}
  power   : PowerState := {}
  /-- Full memory test of the history: passed, powered hour, cold starts then; whether an event of R413 came since. -/
  fullTest : Option (Bool × Nat × Nat) := none
  sinceTest : Bool := false
  /-- Channels that did not complete PHY training in this boot's step 7 (R412). -/
  untrained : List Nat := []
  /-- Physical channels retired since manufacture (R206). -/
  retiredChannels : List Nat := []
  -- dictionary store and transfers
  /-- The dictionary store, and the half of its flash region that is current (R486). -/
  store   : List (Nat × List Byte) := []
  storeHalf : Nat := 0
  transfers : List Transfer := []
  copies  : List ReadCopy := []
  replies : List KeptReply := []
  /-- CAN communication (R475, R476): the NMT state (127 pre-operational, 5 operational, 4 stopped), the node-ID and bit-rate
  set in use, and when the last heartbeat was sent. -/
  canState : Nat := 127
  canNode : Nat := 64
  canRate : Nat := 1
  beatAt  : Nat := 0
  /-- The CAN controller is off the bus (R535). -/
  busOff  : Bool := false
  -- margins
  sweeps  : Tab (List SweepRec) := []
  trimRaise : List Nat := []
  planHour : Nat := 0
  -- identity
  measures : List (Nat × List Byte) := []
  nonce   : Option (List Byte) := none
  /-- The quote formed last (R510); `[]` before it is ready. -/
  quote   : List Byte := []
  token   : List Byte := []
  -- network
  sessions : Tab Session := []
  nextSession : Nat := 1
  serves  : List Serve := []
  /-- The head of each heat's serve buffer (R363). -/
  serveHead : Tab Nat := []
  nvmes   : List Nvme := []
  nextNvme : Nat := 0
  storeReqs : List StoreReq := []
  conns   : List Conn := []
  /-- IPv4 fragments discarded (R374). -/
  fragments : Nat := 0
  /-- By Ethernet port: until when it obeys a PAUSE, what waits for that to end, its DHCPv4 transaction, the IPv4 address leased and the
  IPv6 network advertised (R374). -/
  paused  : List Nat := [0, 0]
  pausedOut : List (Nat × Out) := []
  dhcpIds : List Nat := [0, 0]
  leases  : List (Option (List Byte)) := [none, none]
  prefixes : List (Option (List Byte)) := [none, none]
  /-- Boundary scan: the pins preloaded, and what EXTEST drives. -/
  preload : Nat := 0
  extest  : Option Nat := none
deriving DecidableEq, Repr

/-! ## The part as it is shipped -/

/-- The fuse map's numbers (R407, R409): a TAR-5080 with 64 clusters, its check, and ports 0 to 31. -/
def factoryDict : Tab Nat := [(dkey 0x2C00 3, 64), (dkey 0x2C00 0x0C, 0x5F0D796B)]

def countUp (n : Nat) : List Byte := (List.range n).map byte

/-- The fuse map's strings and maps: logical units on the physical units of the same numbers. -/
def factoryDom : Tab (List Byte) := [
  (dkey 0x2C00 2, [0x54, 0x41, 0x52, 0x2D, 0x35, 0x30, 0x38, 0x30]),
  (dkey 0x2C00 4, countUp 64),
  (dkey 0x2C00 6, (List.range 64).map fun i => byte (i / 16)),
  (dkey 0x2C00 7, countUp 32),
  (dkey 0x2C00 8, countUp 32),
  (dkey 0x2C00 9, [0x58, 0x4F, 0x30, 0x30, 0x30, 0x30, 0x30, 0x30, 0x30, 0x30, 0x30, 0x30, 0x30, 0x30, 0x30, 0x31]),
  (dkey 0x2C00 0x0B, zeros 4)]

/-- The machine right after reset: a part as it is shipped, before its input has ever been valid. -/
def State.reset : State := { dict := factoryDict, dom := factoryDom }

end Sys2Proof.Machine
end

