-- ==== Sys2Proof/Machine/Ops.lean ====
section
/-! DEFINITION. The named operations on the state that every meaning uses: dictionary, heats, queues, cores, memory with its
error correction, and events. -/

namespace Sys2Proof.Machine

/-! ## Dictionary -/

/-- The numeric value of an entry. -/
def dget (s : State) (i sub : Nat) : Nat := tabGet (dictDefault i sub) s.dict (dkey i sub)

def dset (s : State) (i sub v : Nat) : State :=
  { s with dict := tabSet (dictDefault i sub) s.dict (dkey i sub) v }

/-- The largest value an entry's type holds; DOMAIN entries are not numeric. -/
def dmax (i sub : Nat) : Nat := match dictEntry i sub with | some e => 2 ^ (8 * e.size) - 1 | none => 0

/-- A counter raised; it stops at its type's largest value. -/
def dadd (s : State) (i sub n : Nat) : State := dset s i sub (min (dget s i sub + n) (dmax i sub))

/-- A DOMAIN entry's bytes; `[]` until something writes them. -/
def domGet (s : State) (i sub : Nat) : List Byte := tabGet [] s.dom (dkey i sub)

def domSet (s : State) (i sub : Nat) (l : List Byte) : State :=
  { s with dom := tabSet [] s.dom (dkey i sub) l }

/-- The n-th little-endian number of `w` bytes in a DOMAIN entry. -/
def domNum (s : State) (i sub w n : Nat) : Nat := natAt (domGet s i sub) (w * n) w

/-- `total` bytes of a DOMAIN entry with the n-th number of `w` bytes replaced; absent bytes take `fill`. -/
def domPut (s : State) (i sub total w n v : Nat) (fill : Byte := 0#8) : State :=
  let l := domGet s i sub
  let l := (l ++ List.replicate (total - l.length) fill).take total
  domSet s i sub (l.take (w * n) ++ bytesOf w v ++ l.drop (w * n + w))

/-! ## Heats, queues, cores, clusters -/

def getHeat (s : State) (h : Nat) : Heat := tabGet {} s.heats h
def setHeat (s : State) (h : Nat) (x : Heat) : State := { s with heats := tabSet {} s.heats h x }
def modHeat (s : State) (h : Nat) (f : Heat → Heat) : State := setHeat s h (f (getHeat s h))

def getQueue (s : State) (q : Nat) : Queue := tabGet {} s.queues q
def setQueue (s : State) (q : Nat) (x : Queue) : State := { s with queues := tabSet {} s.queues q x }
def modQueue (s : State) (q : Nat) (f : Queue → Queue) : State := setQueue s q (f (getQueue s q))

def getCore (s : State) (k : Nat) : Core := tabGet {} s.cores k
def setCore (s : State) (k : Nat) (x : Core) : State := { s with cores := tabSet {} s.cores k x }
def modCore (s : State) (k : Nat) (f : Core → Core) : State := setCore s k (f (getCore s k))

def getCluster (s : State) (c : Nat) : Cluster := tabGet {} s.clusters c
def setCluster (s : State) (c : Nat) (x : Cluster) : State := { s with clusters := tabSet {} s.clusters c x }
def modCluster (s : State) (c : Nat) (f : Cluster → Cluster) : State := setCluster s c (f (getCluster s c))

/-- A heat's dictionary index of a family. -/
def hCfg (h : Nat) : Nat := 0x2500 + h
def hStat (h : Nat) : Nat := 0x2D20 + h
def hSnap (h : Nat) : Nat := 0x2530 + h
def hColl (h : Nat) : Nat := 0x2510 + h

def heatCount : Nat := 16

/-- The heats that are not FREE. -/
def liveHeats (s : State) : List Nat := rangeWhere heatCount fun h => (getHeat s h).st != .free

/-- The numeric class of a heat. -/
def heatCls (s : State) (h : Nat) : Cls := if dget s (hCfg h) 5 = 1 then .serve else .train

def heatSeed (s : State) (h : Nat) : Nat := dget s (hCfg h) 0x0E
def heatTag (s : State) (h : Nat) : Nat := dget s (hCfg h) 0x0D

/-- A heat's clusters, ascending. -/
def heatClusters (s : State) (h : Nat) : List Nat := bitsSet 64 (dget s (hCfg h) 3)

/-- The heat that owns a logical cluster (R237). -/
def clusterHeat (s : State) (c : Nat) : Option Nat :=
  (liveHeats s).find? fun h => bitOf (dget s (hCfg h) 3) c

/-- The memory ranges of a heat: (base, length), unused pairs left out. -/
def heatRanges (s : State) (h : Nat) : List (Nat × Nat) :=
  ((List.range 8).map fun i => (domNum s (hCfg h) 4 8 (2 * i), domNum s (hCfg h) 4 8 (2 * i + 1))).filter
    fun r => r.2 != 0

/-- Whether n bytes at a lie inside one or more adjoining ranges of a heat. -/
def coveredBy (fuel : Nat) (l : List (Nat × Nat)) (a n : Nat) : Bool :=
  match fuel with
  | 0 => n == 0
  | fuel + 1 =>
    if n = 0 then true
    else match l.find? fun r => r.1 ≤ a && a < r.1 + r.2 with
      | none => false
      | some r => let k := min n (r.1 + r.2 - a); coveredBy fuel l (a + k) (n - k)

def inHeat (s : State) (h a n : Nat) : Bool := coveredBy 9 (heatRanges s h) a n

/-- The heat whose ranges hold a device offset (R213). -/
def heatOfAddr (s : State) (a : Nat) : Option Nat :=
  (liveHeats s).find? fun h => inHeat s h a 1

def slotCluster (k : Nat) : Nat := k / 9
def queueCluster (q : Nat) : Nat := q / 4096

/-- The heat a queue belongs to. -/
def queueHeat (s : State) (q : Nat) : Option Nat := clusterHeat s (queueCluster q)

/-- The physical cluster of a logical cluster (0x2C00:04); 255 where it is fused off. -/
def physCluster (s : State) (c : Nat) : Nat := (nth 0xFF#8 (domGet s 0x2C00 4) c).toNat

/-- Logical clusters in use: present in the fuse map and not out of service (0x2C00:05, R411). -/
def clusterActive (s : State) (c : Nat) : Bool := c < 64 && physCluster s c != 255 && !bitOf (dget s 0x2C00 5) c

/-! ## Powered time -/

/-- Powered milliseconds, from the always-on domain (R498). -/
def poweredMs (s : State) : Nat := s.poweredBase + s.now / 10000000

/-- Powered hours. -/
def poweredHour (s : State) : Nat := poweredMs s / 3600000

/-! ## Boot stage (R397) -/

/-- The chip numbers a global address may name: 0 and the device's own are this device (R203). -/
def ownChip (s : State) : Nat := dget s 0x2320 8
def isLocal (s : State) (chip : Nat) : Bool := chip = 0 || chip = ownChip s

def bootStage (s : State) : Nat := dget s 0x2A10 1
def bsStartingBlocks : Nat := 0
def bsRecovery : Nat := 1
def bsStandby : Nat := 2
def bsMemoryPower : Nat := 3
def bsWarmUp : Nat := 4
def bsMemoryTest : Nat := 5
def bsSelfTest : Nat := 6
def bsLinkTraining : Nat := 7
def bsReady : Nat := 8
def bsPoweringDown : Nat := 9
def bsLost : Nat := 10

/-- The optics and the pace are up (R420). -/
def linksUp (s : State) : Bool := bootStage s = bsLinkTraining || bootStage s = bsReady

/-- The Ethernet port an output leaves by, if it leaves by one. -/
def outEth (s : State) : Out → Option Nat
  | .net p _ _ => some p
  | .tcp p _ _ => some p
  | .starter n _ _ _ _ => (s.sessions.find? (·.1 = n)).map (·.2.eth)
  | .nvme h slot _ _ _ => (s.plans.find? fun x => !x.plan.transit && x.plan.heat = h).bind fun x =>
      (x.plan.targets.find? (·.slot = slot)).map (·.eth)
  | _ => none

/-- A segment of an Ethernet port: tagged where it has a VLAN ID, never fragmented, ECN-capable (R374). -/
def segment (s : State) (e : Nat) (l : List Byte) : Segment :=
  { vlan := dget s (0x2400 + e) 9, df := true, ecn := true, data := l }

/-- Bytes sent on a TCP connection of a port, in segments that its MTU holds under either IP header, a TCP header and its timestamps,
72 bytes in all (PRESUMED, log entry 108). -/
def segments (s : State) (e : Nat) (l : List Byte) : List Segment :=
  let n := dget s (0x2400 + e) 3 - 72
  (chunk n (l.length / n + 1) l).map (segment s e)

/-- An Ethernet port that obeys a PAUSE (R374). -/
def portPaused (s : State) (e : Nat) : Bool := s.now < nth 0 s.paused e

/-- An output sent; on an Ethernet port that obeys a PAUSE it waits. -/
def emit (s : State) (o : Out) : State :=
  match outEth s o with
  | some e => if portPaused s e then { s with pausedOut := s.pausedOut ++ [(e, o)] } else { s with out := s.out ++ [o] }
  | none => { s with out := s.out ++ [o] }

/-- Whether two ranges of bytes overlap. -/
def overlaps (a n b m : Nat) : Bool := n != 0 && m != 0 && a < b + m && b < a + n

/-! ## Free values -/

/-- The next free value, of w bits. -/
def takeFree (s : State) (w : Nat) : Nat × State :=
  (Config.free s.freeCtr % 2 ^ w, { s with freeCtr := s.freeCtr + 1 })

/-- n bytes the spec leaves undefined. -/
def freeBytes (s : State) (n : Nat) : List Byte × State :=
  ((List.range n).map fun i => byte (Config.free (s.freeCtr + i)), { s with freeCtr := s.freeCtr + n })

/-! ## The address map (R200 to R203) -/

def coreBase : Nat := 0x400000000000
def scratchBase : Nat := 0x500000000000
def queueBase : Nat := 0x700000000000
def mirrorBase : Nat := 0x7F0000000000
def coreBytes : Nat := 0x200000
def scratchStep : Nat := 0x2000000
/-- Window offset of the first reserved line of the repeat area (R123). -/
def repeatByte : Nat := 0x1C0000

/-- The first offset above stack memory. -/
def stackTop (s : State) : Nat := dget s 0x2C10 4 + 1

inductive Place where
  | stack
  | coreBuf (k o : Nat)
  | scratch (c o : Nat)
  | queueReg (q o : Nat)
  | mirror (o : Nat)
  | illegal
deriving DecidableEq, Repr

/-- The scratch bytes of a cluster (R232). -/
def scratchBytes (s : State) (c : Nat) : Nat :=
  match clusterHeat s c with
  | some h => dget s (hCfg h) 7 * 0x200000
  | none => 0

/-- Where a device offset lies (R200, R201). -/
def place (s : State) (a : Nat) : Place :=
  if a < stackTop s then .stack
  else if coreBase ≤ a && a < coreBase + 576 * coreBytes then
    let k := (a - coreBase) / coreBytes
    if clusterActive s (slotCluster k) && k % 9 < 8 then .coreBuf k ((a - coreBase) % coreBytes) else .illegal
  else if scratchBase ≤ a && a < scratchBase + 64 * scratchStep then
    let c := (a - scratchBase) / scratchStep
    let o := (a - scratchBase) % scratchStep
    if clusterActive s c && o < scratchBytes s c then .scratch c o else .illegal
  else if queueBase ≤ a && a < queueBase + 0x1000000 then .queueReg ((a - queueBase) / 64) ((a - queueBase) % 64)
  else if mirrorBase ≤ a && a < 2 ^ 47 then .mirror (a - mirrorBase)
  else .illegal

/-- The address of byte o of logical core k's buffer. -/
def cbAddr (k o : Nat) : Nat := coreBase + k * coreBytes + o
def scratchAddr (c o : Nat) : Nat := scratchBase + c * scratchStep + o

/-! ## Memory -/

/-- The canonical form of memory: addresses strictly rising, and no entry for a byte that is what an unlisted one reads as, from which
`mem` lists the difference. -/
abbrev Memory.wf (m : Tab Byte) : Bool := tabWf 0#8 m

/-- What an unlisted byte reads as: 0, but free test data after a memory test, until it is written or zeroed (R242, R414). -/
def blankByte (s : State) (a : Nat) : Byte :=
  match s.blank.find? fun x => x.1 ≤ a && a < x.2.1 with
  | some x => if x.2.2 = 0 then 0#8 else Config.testData x.2.2 a
  | none => 0#8

/-- Unlisted bytes of a range that read as 0 from now on. -/
def clearBlank (l : List (Nat × Nat × Nat)) (a n : Nat) : List (Nat × Nat × Nat) :=
  if l.any fun x => x.1 < a + n && a < x.2.1 then (a, a + n, 0) :: l.filter fun x => !(a ≤ x.1 && x.2.1 ≤ a + n) else l

def getByte (s : State) (a : Nat) : Byte := tabGet 0#8 s.mem a ^^^ blankByte s a
def putByte (s : State) (a : Nat) (b : Byte) : State := { s with mem := tabSet 0#8 s.mem a (b ^^^ blankByte s a) }

def readBytes (s : State) (a : Nat) (n : Nat) : List Byte := (List.range n).map fun i => getByte s (a + i)

def writeBytes (s : State) : Nat → List Byte → State
  | _, [] => s
  | a, b :: l => writeBytes (putByte s a b) (a + 1) l

def readNat (s : State) (a n : Nat) : Nat := natOfBytes (readBytes s a n)
def writeNat (s : State) (a n v : Nat) : State := writeBytes s a (bytesOf n v)

/-- Bytes a to a + n - 1 set to zero. -/
def zeroRange (s : State) (a n : Nat) : State :=
  { s with mem := tabDrop (fun k => a ≤ k && k < a + n) s.mem, blank := clearBlank s.blank a n }

/-- Bytes of a core buffer from another agent than a fill: the fills' record remembers it (R103, R121). -/
def noteBufWrite (s : State) (k : Nat) (l : List (Nat × Nat)) : State :=
  if l.isEmpty then s else modCore s k fun c => { c with log := .bytes l :: c.log }

/-! ## Events (R442 to R446) -/

/-- Containment at detection (R444): a C2 stops its heat's commands, a C3 or C4 every heat's. -/
def contain (s : State) (e : Event) : State :=
  if e.cls ≥ 3 then
    (liveHeats s).foldl (fun s h => modHeat s h fun x => { x with contained := true }) s
  else if e.cls = 2 then
    match e.heat with
    | some h =>
      if (getHeat s h).st = .free || (getHeat s h).st = .restarting then s
      else modHeat s h fun x => { x with contained := true }
    | none => s
  else s

/-- An event with what it holds of its heat's restart and of device time (R492). -/
def stampEvent (s : State) (e : Event) : Event :=
  { e with
    restartNo := match e.heat with | some h => (getHeat s h).restart.no | none => 0
    inRestart := match e.heat with | some h => (getHeat s h).st = .restarting | none => false
    lap := if linksUp s then s.lap else 0, phase := if linksUp s then s.phase else 0 }

/-- The C3 event of an overflow (R446). -/
def overflowEvent : Event := { code := 0x010A, cls := 3, cause := 13 }

/-- Events that still wait keep a heat from starting commands (R444). -/
def stillContained (s : State) (h : Nat) : Bool :=
  s.lostEvents != 0 || s.events.any fun e => decide (e.cls ≥ 3) || (e.cls = 2 && e.heat = some h && !e.inRestart)

/-- An event detected (R444 to R446): contained at once and queued; a full queue counts it as lost and raises the C3 of
cause 13, which takes the place that frees first. -/
def raise (s : State) (e : Event) : State :=
  let e := stampEvent s e
  let s := contain s e
  if s.events.length < 64 then { s with events := s.events ++ [e] }
  else contain { s with lostEvents := s.lostEvents + 1 } overflowEvent

/-! ## Placement of granules (R198, R199, R204) -/

/-- The physical numbers of the present pseudo-channels, ascending. -/
def presentChannels (s : State) : List Nat :=
  let m := domGet s 0x2C10 5
  if m.isEmpty then List.range (dget s 0x2C10 2)
  else rangeWhere 2048 fun q => bitOf (nth 0#8 m (q / 8)).toNat (q % 8)

/-- The 32 low bits in reverse order. -/
def bitReverse32 (v : Nat) : Nat := ofBits ((bitsSet 32 v).map (31 - ·))

/-- R204: the physical channel of a stack offset and the byte within it. -/
def locate (offset n : Nat) (present : List Nat) : Nat × Nat :=
  let g := offset / 256
  let row := g / n
  let col := g % n
  let h := bitReverse32 row ^^^ (row * 512 % 2 ^ 32)
  let rot := h * n / 2 ^ 32
  (nth 0 present ((col + rot) % n), row * 256 + offset % 256)

def channelOf (s : State) (offset : Nat) : Nat :=
  let p := presentChannels s
  (locate offset p.length p).1

/-! ## The controller's code (R210 to R214) -/

/-- Multiplication by α in GF(2^8) with x^8 + x^4 + x^3 + x^2 + 1. -/
def gfAlpha (a : Nat) : Nat := if a < 128 then 2 * a else (2 * a) ^^^ 0x11D

def gfMulLoop : Nat → Nat → Nat → Nat
  | 0, _, _ => 0
  | k + 1, a, b => (if b % 2 = 1 then a else 0) ^^^ gfMulLoop k (gfAlpha a) (b / 2)

def gfMul (a b : Nat) : Nat := gfMulLoop 8 a b

def gfPow (n : Nat) : Nat := (List.range (n % 255)).foldl (fun a _ => gfAlpha a) 1

/-- a^254, the inverse. -/
def gfInv (a : Nat) : Nat := (List.range 253).foldl (fun r _ => gfMul r a) a

/-- The place of a symbol: symbol 0 is the highest power, symbol 67 the lowest. -/
def symPlace (i : Nat) : Nat := 67 - i

/-- Syndrome j of an error pattern. -/
def syndrome (j : Nat) (e : List (Nat × Byte)) : Nat :=
  e.foldl (fun a x => a ^^^ gfMul x.2.toNat (gfPow (j * symPlace x.1))) 0

inductive EccOut where
  /-- Zero syndrome. -/
  | clean
  /-- Symbols the decoder changes. -/
  | fixed (l : List (Nat × Byte))
  | bad
deriving DecidableEq, Repr

/-- The single symbol error that fits four syndromes, if one does. -/
def fitOne (sy : List Nat) : Option (List (Nat × Byte)) :=
  let s0 := nth 0 sy 0
  if s0 = 0 then none
  else ((List.range 68).find? fun i =>
    (List.range 4).all fun j => gfMul s0 (gfPow (j * symPlace i)) == nth 0 sy j).map fun i => [(i, byte s0)]

/-- The error values of symbols i and k that fit the first two syndromes, if they fit all four. -/
def fitPair (sy : List Nat) (i k : Nat) : Option (List (Nat × Byte)) :=
  let xi := gfPow (symPlace i)
  let xk := gfPow (symPlace k)
  let s0 := nth 0 sy 0
  let ek := gfMul (nth 0 sy 1 ^^^ gfMul xi s0) (gfInv (xi ^^^ xk))
  let ei := s0 ^^^ ek
  let ok := ei != 0 && ek != 0 && (List.range 4).all fun j =>
    (gfMul ei (gfPow (j * symPlace i)) ^^^ gfMul ek (gfPow (j * symPlace k))) == nth 0 sy j
  if ok then some [(i, byte ei), (k, byte ek)] else none

def fitTwo (sy : List Nat) : Option (List (Nat × Byte)) :=
  (List.range 68).findSome? fun i => (List.range (67 - i)).findSome? fun d => fitPair sy i (i + 1 + d)

/-- What the decoder does with an error pattern in a mode (R212). -/
def eccDecode (mode : Nat) (e : List (Nat × Byte)) : EccOut :=
  let sy := (List.range 4).map fun j => syndrome j e
  if sy.all (· == 0) then .clean
  else if mode = 2 then .bad
  else match fitOne sy with
    | some l => .fixed l
    | none =>
      if mode = 1 then .bad
      else match fitTwo sy with
        | some l => .fixed l
        | none => .bad

/-- Error patterns merged, values of one symbol XORed, zero ones dropped, symbols rising. -/
def mergeErrs (a b : List (Nat × Byte)) : List (Nat × Byte) :=
  ((List.range 68).map fun i =>
    (i, (a ++ b).foldl (fun (v : Byte) x => if x.1 = i then v ^^^ x.2 else v) 0#8)).filter fun x => x.2 != 0#8

/-- Nature's symbol errors laid into the stacks. -/
def injectErrs (s : State) (l : List SectorErr) : State :=
  { s with errs := l.foldl (fun t x => tabSet [] t x.sector (mergeErrs (tabGet [] t x.sector) x.syms)) s.errs }

/-- The data bytes of a sector XORed with the data symbols of a pattern. -/
def xorSector (s : State) (sec : Nat) (e : List (Nat × Byte)) : State :=
  e.foldl (fun s x => if x.1 < 64 then putByte s (sec * 64 + x.1) (getByte s (sec * 64 + x.1) ^^^ x.2) else s) s

/-- Corrected symbols of a channel in the last 24 h. -/
def corrIn24h (s : State) (q : Nat) : Nat :=
  (s.corrs.filter fun c => c.1 = q && s.now < c.2.1 + 864000000000000).foldl (fun a c => a + c.2.2) 0

/-- A channel marked for retirement at the next boot (R206); the next memory test is a full one (R413). -/
def markRetire (s : State) (q : Nat) : State :=
  let l := fitBytes 256 (domGet s 0x2C10 6)
  domSet { s with sinceTest := true } 0x2C10 6 (modNth l (q / 8) fun b => b ||| byte (2 ^ (q % 8)))

def retireMarked (s : State) (q : Nat) : Bool := bitOf (nth 0#8 (domGet s 0x2C10 6) (q / 8)).toNat (q % 8)

/-- The detail of a memory event: device offset, physical channel, symbols corrected. -/
def memDetail (off q n : Nat) : List Byte := bytesOf 8 off ++ bytesOf 2 q ++ bytesOf 1 n

/-- One sector read by anything (R212 to R214): whether its data may be consumed. -/
def readSector (s : State) (sec : Nat) : State × Bool :=
  let e := tabGet [] s.errs sec
  if e = [] then (s, true)
  else
    let q := channelOf s (sec * 64)
    match eccDecode (dget s 0x2720 1) e with
    | .clean => ({ xorSector s sec e with errs := tabSet [] s.errs sec [] }, true)
    | .fixed l =>
      let s := { xorSector s sec (mergeErrs e l) with errs := tabSet [] s.errs sec [] }
      let n := l.length
      let s := dadd (dadd s 0x2D10 1 1) 0x2D10 2 n
      let s := domPut s 0x2D10 6 8192 4 q (domNum s 0x2D10 6 4 q + n)
      let s := { s with corrs := (q, s.now, n) :: s.corrs }
      let s := raise s { code := 0x0201, cls := 1, heat := heatOfAddr s (sec * 64), unit := q, unitKind := 2
                         detail := memDetail (sec * 64) q n }
      if corrIn24h s q > dget s 0x2720 3 && !retireMarked s q then
        (raise (markRetire s q) { code := 0x0202, cls := 0, unit := q, unitKind := 2
                                  detail := memDetail (sec * 64) q n }, true)
      else (s, true)
    | .bad =>
      let s := dadd s 0x2D10 3 1
      let h := heatOfAddr s (sec * 64)
      let already := s.failedChannels.contains q
      let s := if already then s else { s with failedChannels := q :: s.failedChannels }
      let s := markRetire s q
      let c := if already then 3 else if h.isSome then 2 else 0
      (raise s { code := 0x0203, cls := c, cause := if c = 0 then 0 else 5, heat := h, unit := q, unitKind := 2
                 detail := memDetail (sec * 64) q 0 }, false)

/-- The sectors of a list read one after another; false at the first that fails. -/
def readSectors (s : State) : List Nat → State × Bool
  | [] => (s, true)
  | x :: l => let r := readSector s x; if r.2 then readSectors r.1 l else (r.1, false)

/-- The sectors with errors in n bytes at a. -/
def errSectors (s : State) (a n : Nat) : List Nat :=
  (s.errs.map (·.1)).filter fun x => overlaps (x * 64) 64 a n

/-- A read of n bytes of stack memory: false where a sector fails (R214). -/
def checkRead (s : State) (a n : Nat) : State × Bool := readSectors s (errSectors s a n)

/-- A store of bytes to stack memory: sectors written in part are read first, and where one fails nothing is stored; those written
whole are encoded afresh (R214). -/
def storeStack (s : State) (a : Nat) (l : List Byte) : State × Bool :=
  let n := l.length
  let isWhole (x : Nat) : Bool := a ≤ x * 64 && x * 64 + 64 ≤ a + n
  let r := readSectors s ((errSectors s a n).filter fun x => !isWhole x)
  if !r.2 then (r.1, false)
  else
    let e := ((errSectors s a n).filter isWhole).foldl (fun t x => tabSet [] t x []) r.1.errs
    (writeBytes { r.1 with errs := e } a l, true)

/-- Stack memory set to zero; the sectors set whole are encoded afresh (R210, R214). -/
def zeroStack (s : State) (a n : Nat) : State :=
  { zeroRange s a n with errs := tabDrop (fun x => decide (a ≤ x * 64) && decide (x * 64 + 64 ≤ a + n)) s.errs }

/-! ## Statistics -/

/-- FLUSH events added to a heat's statistics (R45). -/
def addFlush (s : State) (h n : Nat) : State := if n = 0 then s else dadd s (hStat h) 1 n

/-! ## Whether commands may start -/

/-- A heat in which commands start (R239, R444). -/
def heatRuns (s : State) (h : Nat) : Bool :=
  let x := getHeat s h
  x.st = .running && !x.contained

/-- The lap length in use. -/
def lapLen (s : State) : Nat := dget s 0x2200 3

/-- PACE_LOSS, the pace state of code 0 (R293). -/
def paceLost (s : State) : Bool := dget s 0x2200 5 == 0

/-- Internal events scheduled in device time are held: in pace loss, and after it until the next local lap start (R293). -/
def eventsHeld (s : State) : Bool := paceLost s || s.regained

/-- Whether device time has reached a lap and phase (R254). -/
def timeAtLeast (s : State) (lap phase : Nat) : Bool := s.lap > lap || (s.lap = lap && s.phase ≥ phase)

end Sys2Proof.Machine
end

