-- ==== Sys2Proof/Machine/Tokens.lean ====
section
/-! DEFINITION. The power sequencer's wake tokens (R415 to R418). -/

namespace Sys2Proof.Machine

/-! ## Steps (R415) -/

/-- The step of a load change, in 0.01 A. -/
def wakeStep : WakeUnit → Nat
  | .stack .. => 45
  | .cluster .. => 30
  | .core .. => 13
  | .laser .. => 5

/-- The steps granted in the last millisecond. -/
def stepsInMs (s : State) : Nat :=
  (s.seq.granted.filter fun g => s.now < g.1 + 10000000).foldl (fun a g => a + g.2) 0

/-- The governor's ramps of the last millisecond (R523). -/
def rampsInMs (s : State) : Nat :=
  (s.seq.ramps.filter fun g => s.now < g.1 + 10000000).foldl (fun a g => a + g.2) 0

/-- The clusters of a device that powers down go by waves, 50 ms apart, against the order of the warm-up (R399). -/
def waveCome (s : State) : WakeUnit → Bool
  | .cluster p false => bootStage s != bsPoweringDown || decide (s.stageAt + (7 - p % 8) * 500000000 ≤ s.now)
  | _ => true

/-- What the sequencer may grant now, within what the governor leaves. -/
def wakeFits (s : State) (u : WakeUnit) : Bool := waveCome s u && stepsInMs s + rampsInMs s + wakeStep u ≤ 1000

/-! ## Units -/

def setOn (l : List Nat) (n : Nat) (up : Bool) : List Nat :=
  if up then (if l.contains n then l else l ++ [n]) else l.filter (· != n)

/-- Whether a core is awake; core 9c + 8 stands for the spare of cluster c. -/
def coreAwake (s : State) (k : Nat) : Bool := tabGet UnitPower.awake s.corePower k = .awake

def setCorePower (s : State) (k : Nat) (p : UnitPower) : State :=
  { s with corePower := tabSet UnitPower.awake s.corePower k p }

/-- The logical cluster on a physical one. -/
def clusterAt (s : State) (p : Nat) : Option Nat := (List.range 64).find? fun c => physCluster s c = p

/-- The core slots of a cluster: in retention once it is up, off with it (R415, R416). -/
def clusterCores (s : State) (p : Nat) (x : UnitPower) : State :=
  match clusterAt s p with
  | some c => (List.range 9).foldl (fun s i => setCorePower s (9 * c + i) x) s
  | none => s

/-- A granted load change. -/
def applyWake (s : State) (u : WakeUnit) : State :=
  match u with
  | .stack n up => { s with seq := { s.seq with stacksOn := setOn s.seq.stacksOn n up } }
  | .cluster n up =>
    clusterCores { s with seq := { s.seq with clusters := setOn s.seq.clusters n up } } n (if up then .idle else .off)
  | .laser n up => { s with seq := { s.seq with lasers := setOn s.seq.lasers n up } }
  | .core k up => setCorePower s k (if up then .awake else .idle)

/-- A load change that would change nothing. -/
def wakeIdle (s : State) (u : WakeUnit) : Bool :=
  match u with
  | .stack n up => s.seq.stacksOn.contains n == up
  | .cluster n up => s.seq.clusters.contains n == up
  | .laser n up => s.seq.lasers.contains n == up
  | .core k up => coreAwake s k == up

/-! ## Requests and grants (R415, R418) -/

/-- A token granted: counted, remembered for a millisecond, its load changed. -/
def grantWake (s : State) (u : WakeUnit) : State :=
  let g := (s.now, wakeStep u) :: s.seq.granted.filter fun g => s.now < g.1 + 10000000
  applyWake (dadd { s with seq := { s.seq with granted := g } } 0x2D50 1 1) u

/-- A port's lasers may be on: the optics' stages, and an enabled port that is not fused; Ethernet port e is laser 32 + e (R301,
R305, R538). -/
def laserAllowed (s : State) (n : Nat) : Bool :=
  linksUp s && (if n < 32 then dget s (0x2300 + n) 8 = 1 && dget s (0x2300 + n) 1 != 0
    else n < 34 && dget s (0x2400 + (n - 32)) 4 = 1)

/-- A load change that the stage and the port allow: nothing comes on before step 7, in POWERING_DOWN or in LOST. -/
def mayChange (s : State) : WakeUnit → Bool
  | .laser n true => laserAllowed s n
  | .stack _ true | .cluster _ true | .core _ true => bsMemoryPower ≤ bootStage s && bootStage s ≤ bsReady
  | _ => true

/-- The load change that undoes one. -/
def undoes : WakeUnit → WakeUnit
  | .stack n up => .stack n !up
  | .cluster n up => .cluster n !up
  | .core k up => .core k !up
  | .laser n up => .laser n !up

/-- A request: granted on arrival where none waits before it and the budget allows, else it waits. One that undoes a request still
waiting withdraws that one, so that the unit's last wish stands (DESIGN CHOICE, log entry 121). -/
def requestWake (s : State) (u : WakeUnit) : State :=
  if !mayChange s u then s
  else
    let s := { s with seq := { s.seq with waiting := s.seq.waiting.filter (·.unit != undoes u) } }
    if wakeIdle s u || s.seq.waiting.any (·.unit = u) then s
    else if s.seq.waiting.isEmpty && wakeFits s u then grantWake s u
    else dadd { s with seq := { s.seq with waiting := s.seq.waiting ++ [{ unit := u, since := s.now }] } } 0x2D50 2 1

/-- WAKE_TOKEN_REQUEST. -/
def execWakeTokenRequest (unit : WakeUnit) (s : State) : Host.Outcome State Fault Refusal :=
  .next (requestWake s unit)

/-- The oldest request granted, where the budget allows; and the longest wait. -/
def grantNext (s : State) : State :=
  match s.seq.waiting with
  | [] => s
  | r :: l =>
    if !wakeFits s r.unit then s
    else
      let w := (s.now - r.since) / 10000
      let s := dset { s with seq := { s.seq with waiting := l } } 0x2D50 3 (max (dget s 0x2D50 3) (min w (2 ^ 32 - 1)))
      grantWake s r.unit

end Sys2Proof.Machine
end

