-- ==== Sys2Proof/Machine/Governor.lean ====
section
/-! DEFINITION. The limit in force and the power governor (R521 to R526). -/

namespace Sys2Proof.Machine

/-! ## The limit in force (R521) -/

def classWatts (c : Nat) : Nat := if c = 1 then 4000 else 5600
def classLimit (s : State) : Nat := dget s 0x2100 2

/-- The floor of every limit. -/
def floorWatts : Nat := 1500

/-- The sums of the input voltages (mV) and currents (mA) of the last 100 samples. -/
def sumMv (s : State) : Nat := s.power.inputs.foldl (fun a x => a + x.1) 0
def sumMa (s : State) : Nat := s.power.inputs.foldl (fun a x => a + x.2) 0

/-- 122 A times the mean input voltage, in W (R520, R14). -/
def currentTerm (s : State) : Nat := divEven (122 * sumMv s) (1000 * s.power.inputs.length)

/-- The terms in force beside the class limit, each with the reason bit it sets. -/
def limitTerms (s : State) : List (Nat × Nat) :=
  let p := s.power
  [(0, classLimit s)] ++
    (if s.pins.throttleLow then [(1, dget s 0x2100 3)] else []) ++
    (match p.thermal with
     | some v => (if p.dieTerm then [(2, v)] else []) ++ (if p.stackTerm then [(3, v)] else [])
     | none => []) ++
    (if p.coolOn then [(4, 4000)] else []) ++
    (if p.meanOn then [(5, currentTerm s)] else [])

def smallestTerm (s : State) : Nat := (limitTerms s).foldl (fun a x => min a x.2) (classLimit s)

/-- A quadrant whose 20 die sensors have all failed (R526). -/
def quadrantBlind (s : State) (q : Nat) : Bool :=
  (List.range 20).all fun i => s.power.failed.contains (0, 20 * q + i)

def anyBlind (s : State) : Bool := (List.range 4).any (quadrantBlind s)

/-- 0x2100:04 and :05 brought up to date. -/
def updateLimit (s : State) : State :=
  let m := smallestTerm s
  let r := ofBits (((limitTerms s).filter fun x => x.2 = m).map (·.1)) ||| (if anyBlind s then 64 else 0)
  dset (dset s 0x2100 4 (max floorWatts m)) 0x2100 5 r

/-! ## Duty caps (R522, R523, R526) -/

/-- A quadrant's duty cap, in sixteenths. -/
def dutyCap (s : State) (q : Nat) : Nat :=
  let l := domGet s 0x2100 0x0A
  if l.isEmpty then 16 else (nth 0#8 l q).toNat

/-- A cap after one ramp: one or more sixteenths towards the limit in force, how many the spec leaves to the governor; where the
power stands at the limit the cap stays. -/
def nextCap (s : State) (q free : Nat) : Nat :=
  let c := dutyCap s q
  let w := dget s 0x2110 6
  let v := dget s 0x2100 4
  let c := if w > v then c - (1 + free % max 1 c) else if w < v then min 16 (c + 1 + free % max 1 (16 - c)) else c
  if quadrantBlind s q then min 8 c else c

/-- One ramp of the governor: the caps towards the limit in force, its current from the budget of the millisecond. -/
def governorRamp (s : State) : State :=
  let room := min (900 - rampsInMs s) (1000 - (stepsInMs s + rampsInMs s))
  let f (i : Nat) : Nat := Config.free (s.freeCtr + i)
  let caps := (List.range 4).map fun q => byte (nextCap s q (f q))
  let amps := f 4 % (room + 1)
  if room = 0 || caps = (List.range 4).map (fun q => byte (dutyCap s q)) then s
  else
    domSet { s with
      freeCtr := s.freeCtr + 5
      seq := { s.seq with ramps := (s.now, amps) :: s.seq.ramps.filter fun g => s.now < g.1 + 10000000 } } 0x2100 0x0A caps

/-- The limit in force after one of its terms has changed, and the ramp towards it. -/
def governor (s : State) : State := governorRamp (updateLimit s)

/-- The power class taken up: the class limit, and the thermal term again at it where it stood above it (R524, R525). -/
def takeClass (s : State) (c : Nat) : State :=
  let s := dset (dset s 0x2100 1 c) 0x2100 2 (classWatts c)
  let keep := match s.power.thermal with | some v => decide (v < classWatts c) | none => false
  updateLimit { s with power := if keep then s.power else { s.power with thermal := none, dieTerm := false, stackTerm := false } }

end Sys2Proof.Machine
end

