-- ==== Sys2Proof/Machine/Operands.lean ====
section
/-! DEFINITION. The fields of every descriptor and its extension (R254, R264 to R274), and the status codes (R261). -/

namespace Sys2Proof.Machine

/-! ## Status codes (R261) -/

def stSuccess : Nat := 0x0000
def stBadOpcode : Nat := 0x0101
def stReserved : Nat := 0x0102
def stFieldRange : Nat := 0x0103
def stClassForbidden : Nat := 0x0104
def stConversion : Nat := 0x0105
def stAddress : Nat := 0x0106
def stOwnership : Nat := 0x0107
def stRegion : Nat := 0x0108
def stState : Nat := 0x0109
def stProgram : Nat := 0x010A
def stLedgerClosed : Nat := 0x010B
def stOrder : Nat := 0x010C
def stProgramFault : Nat := 0x010D
def stRemoteRefused : Nat := 0x010E
def stPinRequested : Nat := 0x0201
def stCeiling : Nat := 0x0202
def stEscalated : Nat := 0x0203
def stTrouble : Nat := 0x0204
def stFrozen : Nat := 0x0205
def stNonfinite : Nat := 0x0206
def stHandoffShort : Nat := 0x0207
def stCapacity : Nat := 0x0301
def stStagingShort : Nat := 0x0302
def stCorrArray : Nat := 0x0401
def stCorrOutlier : Nat := 0x0402
def stCorrVector : Nat := 0x0403
def stHeatRestarting : Nat := 0x0E01
def stPeerRestarting : Nat := 0x0E02
def stFenced : Nat := 0x0F01

/-- The rank of a status's class in R262's order. -/
def statusRank (st : Nat) : Nat :=
  match st / 256 with
  | 0x0F => 0
  | 0x0E => 1
  | 0x01 => 2
  | 0x03 => 3
  | 0x04 => 4
  | 0x02 => 5
  | _ => 6

/-- The status that stands when two apply (R262). -/
def pickStatus (a b : Nat) : Nat :=
  if statusRank a < statusRank b then a
  else if statusRank b < statusRank a then b
  else min a b

/-! ## Common header (R254) -/

def dTag (d : Slot) : Nat := fld d 159 96
def dLap (d : Slot) : Nat := fld d 95 48
def dPhase (d : Slot) : Nat := fld d 47 16
def dOpcode (d : Slot) : Nat := fld d 15 8
def dClass (d : Slot) : Nat := fld d 15 13
def dNb (d : Slot) : Bool := fld d 7 7 == 1
def dExt (d : Slot) : Bool := fld d 6 6 == 1
def dIrq (d : Slot) : Bool := fld d 5 5 == 1
def dFence (d : Slot) : Bool := fld d 4 4 == 1

/-- A 24-bit region field (R264). -/
def regionOf (v : Nat) : Region := ⟨bitsOf v 23 12, bitsOf v 11 0 + 1⟩

def regionAt (d : Slot) (lo : Nat) : Region := regionOf (fld d (lo + 23) lo)

/-- A region inside the buffer's 4,096 lines (R98). -/
def Region.fits (r : Region) : Bool := r.line + r.len ≤ 4096

/-- Two regions share a line. -/
def Region.meets (a b : Region) : Bool := overlaps a.line a.len b.line b.len

/-- A region that reaches the repeat area's lines (R123). -/
def Region.inRepeat (a : Region) : Bool := a.line + a.len > 3584

/-- Array operand formats (R263). -/
def arrayFmt : Nat → Option Fmt
  | 0 => some .x4
  | 1 => some .x8
  | 2 => some .bf16
  | 3 => some .int4
  | 4 => some .uint4
  | 5 => some .int8
  | 6 => some .uint8
  | _ => none

/-- Drain formats (R263). -/
def drainFmt : Nat → Option Fmt
  | 0 => some .fp32
  | 1 => some .int32
  | 3 => some .int4
  | 4 => some .uint4
  | 5 => some .int8
  | 6 => some .uint8
  | _ => none

def isIntFmt (f : Fmt) : Bool := f.int.isSome

/-- The rung of a floating operand; 3 for integers (R99, R133). -/
def rungOf : Fmt → Nat
  | .x4 => 0
  | .x8 => 1
  | .bf16 => 2
  | _ => 3

/-- The format of a rung. -/
def rungFmt : Nat → Fmt
  | 0 => .x4
  | 1 => .x8
  | _ => .bf16

/-- GEMM_TILE's parameters (R98, R264). -/
structure GemmPar where
  rowMask : Nat
  aElem : Region
  bElem : Region
  aScale : Region
  bScale : Region
  out : Region
  kBlocks : Nat
  cols : Nat
  chain : Bool
  fmtA : Nat
  fmtB : Nat
  drain : Nat
  rqTable : Nat
  rqEntries : Nat
  rqFirst : Nat
  policy : Nat
  layer : Nat
deriving DecidableEq, Repr

def GemmPar.ofDesc (d : Slot) : GemmPar :=
  { rowMask := fld d 511 384
    aElem := regionAt d 360
    bElem := regionAt d 336
    aScale := regionAt d 312
    bScale := regionAt d 288
    out := regionAt d 264
    kBlocks := fld d 263 248 + 1
    cols := fld d 247 241 + 1
    chain := fld d 240 240 == 1
    fmtA := fld d 239 237
    fmtB := fld d 236 234
    drain := fld d 233 231
    rqTable := fld d 230 213 * 8
    rqEntries := fld d 212 199 + 1
    rqFirst := fld d 198 185
    policy := fld d 184 179
    layer := fld d 178 167 }

def GemmPar.fA (g : GemmPar) : Fmt := (arrayFmt g.fmtA).getD .x4
def GemmPar.fB (g : GemmPar) : Fmt := (arrayFmt g.fmtB).getD .x4
def GemmPar.fD (g : GemmPar) : Fmt := (drainFmt g.drain).getD .fp32

/-- DIAG_EW's parameters (R265). -/
structure DiagPar where
  a : Region
  b : Region
  aScale : Region
  bScale : Region
  c : Region
  r : Region
  n : Nat
  fmtA : Nat
  fmtB : Nat
  fma : Bool
deriving DecidableEq, Repr

def DiagPar.ofDesc (d : Slot) : DiagPar :=
  { a := regionAt d 488, b := regionAt d 464, aScale := regionAt d 440, bScale := regionAt d 416
    c := regionAt d 392, r := regionAt d 368, n := (fld d 367 354 + 1) * 32
    fmtA := fld d 353 351, fmtB := fld d 350 348, fma := fld d 347 347 == 1 }

/-- DMA format codes (R269): RAW is 16 and KV 17. -/
def dmaFmt : Nat → Option Fmt
  | 0 => some .x4
  | 1 => some .x8
  | 2 => some .mxfp4
  | 3 => some .mxe2m3
  | 4 => some .mxe3m2
  | 5 => some .mxe4m3
  | 6 => some .mxe5m2
  | 7 => some .mxint8
  | 8 => some .fp32
  | 9 => some .bf16
  | 10 => some .fp16
  | 11 => some .int4
  | 12 => some .uint4
  | 13 => some .int8
  | 14 => some .uint8
  | 15 => some .int32
  | _ => none

def fmtRaw : Nat := 16
def fmtKv : Nat := 17

/-- The DMA payload and extension (R266 to R268). -/
structure DmaPar where
  src : Nat
  dst : Nat
  rows : Nat
  rowLen : Nat
  srcStride : Nat
  dstStride : Nat
  srcFmt : Nat
  dstFmt : Nat
  srcKind : Nat
  dstKind : Nat
  memOp : Nat
  cache : Bool
  gradLayer : Nat
  gradKind : Nat
  orderNo : Nat
  orderEn : Bool
  orderLast : Bool
  streamPos : Nat
  bankFirst : Nat
  kFirst : Nat
  rowMask : Nat
  pfEnable : Bool
  pfSlot : Nat
  pfAhead : Nat
  pfRuns : Nat
  pfStride : Nat
  pfLen : Nat
  listAddr : Nat
  rotTensor : Nat
  layer : Nat
  rung : Nat
  rot : Nat
  side : Nat
  policy : Nat
  holdBack : Bool
  consumers : Nat
  listCap : Nat
  listEn : Bool
  srcScale : Nat
  dstScale : Nat
deriving DecidableEq, Repr

/-- The extension of a command that has none (R268): the row mask is all ones, everything else 0. -/
def noExt : Slot := BitVec.ofNat 512 ((2 ^ 128 - 1) * 2 ^ 384)

def DmaPar.ofDesc (d e : Slot) : DmaPar :=
  { src := fld d 511 448, dst := fld d 447 384, rows := fld d 383 360, rowLen := fld d 359 336
    srcStride := fld d 335 304, dstStride := fld d 303 272, srcFmt := fld d 271 267, dstFmt := fld d 266 262
    srcKind := fld d 261 260, dstKind := fld d 259 258, memOp := fld d 257 255, cache := fld d 254 254 == 1
    gradLayer := fld d 253 242, gradKind := fld d 241 240, orderNo := fld d 239 224, orderEn := fld d 223 223 == 1
    orderLast := fld d 222 222 == 1, streamPos := fld d 221 198, bankFirst := fld d 197 191, kFirst := fld d 190 167
    rowMask := fld e 511 384
    pfEnable := fld e 383 383 == 1, pfSlot := fld e 382 381, pfAhead := fld e 375 360, pfRuns := fld e 351 320
    pfStride := fld e 319 288, pfLen := fld e 287 272
    listAddr := fld e 255 192, rotTensor := fld e 191 176, layer := fld e 175 164, rung := fld e 163 161
    rot := fld e 160 158, side := fld e 157 157, policy := fld e 156 151, holdBack := fld e 150 150 == 1
    consumers := fld e 149 134, listCap := fld e 133 110, listEn := fld e 109 109 == 1
    srcScale := fld e 108 61, dstScale := fld e 60 13 }

/-- A global address's chip number and device offset (R203). -/
def gChip (a : Nat) : Nat := bitsOf a 63 48
def gOff (a : Nat) : Nat := a % 2 ^ 48

/-- Core slot, element or output region and scale region of a region operand (R267). -/
def rgSlot (v : Nat) : Nat := bitsOf v 63 54
def rgElem (v : Nat) : Region := regionOf (bitsOf v 53 30)
def rgScale (v : Nat) : Region := regionOf (bitsOf v 29 6)

/-- The heat's KV format resolved (R244). -/
def resolveFmt (s : State) (h code : Nat) : Option Fmt :=
  if code = fmtKv then some (if dget s (hCfg h) 6 = 1 then .x8 else .x4) else dmaFmt code

/-- The target format of a DMA command: dst_fmt, or the rung the extension names (R118, R128, R268). None for RAW. A memory-side
operation fixes it, so no rung resolves it (R266). -/
def dmaTarget (s : State) (h : Nat) (p : DmaPar) : Option Fmt :=
  let lr := (tabGet {} (getHeat s h).layers p.layer).rung
  match if p.memOp = 0 then p.rung else 0 with
  | 1 => some .x4
  | 2 => some .x8
  | 3 => some .bf16
  | 4 => some (rungFmt lr)
  | 5 => some (rungFmt (max 1 lr))
  | _ => resolveFmt s h p.dstFmt

/-- Bytes of one row in memory. -/
def rowBytesOf (f : Option Fmt) (n : Nat) : Nat := match f with | some f => f.rowBytes n | none => n

/-- The policy entry in force (R114). -/
def getPolicy (s : State) (h n : Nat) : Nat := let x := getHeat s h; tabGet x.policyInit x.policies n

def polSat (p : Nat) : Nat := bitsOf p 15 0
def polZblk (p : Nat) : Nat := bitsOf p 31 16
def polOutf (p : Nat) : Nat := bitsOf p 47 32
def polWloss (p : Nat) : Nat := bitsOf p 63 48
def polNanb (p : Nat) : Nat := bitsOf p 79 64
def polK8 (p : Nat) : Nat := bitsOf p 95 88
def polCeiling (p : Nat) : Nat := bitsOf p 101 100
def polPermille (p : Nat) : Nat := bitsOf p 111 102
def polSteps (p : Nat) : Nat := bitsOf p 127 112

/-- A threshold crossed (R115): a count above it, 0xFFFF switching the counter off. -/
def crosses (count thr : Nat) : Bool := thr != 0xFFFF && count > thr

/-- Whether a target is X4 or X8. -/
def optX (f : Option Fmt) : Bool := match f with | some f => f.isX | none => false
def optMx (f : Option Fmt) : Bool := match f with | some f => f.isMx | none => false
def optInt (f : Option Fmt) : Bool := match f with | some f => isIntFmt f | none => false

end Sys2Proof.Machine
end

