-- ==== Sys2Proof/Machine/DictRead.lean ====
section
/-! DEFINITION. Reading the object dictionary: live values, and the mirror that DMA loads read (R482, R483). -/

namespace Sys2Proof.Machine

/-! ## Who answers (R397, R425, R474) -/

/-- The client of a path: a session's requests are one client's (R496). -/
def clientOf : Path → Path
  | .starter n _ => .starter n 0
  | p => p

/-- Another client's transfer is open for an entry (R478). -/
def entryBusy (s : State) (path : Path) (i sub : Nat) : Bool :=
  s.transfers.any fun t => t.index = i && t.sub = sub && t.path != clientOf path

/-- Something runs that serves the dictionary: the firmware, or the starting blocks in RECOVERY. -/
def dictAnswers (s : State) : Bool := s.pins.inputOn && !s.pins.resetLow && bootStage s != bsStartingBlocks

/-! ## Entries of fixed length (R484) -/

/-- DOMAIN entries of a fixed length: index, how many indices, sub-index, length, and the byte they hold at first. -/
def domShapes : List (Nat × Nat × Nat × Nat × Nat) := [
  (0x2010, 1, 3, 33, 0), (0x2010, 1, 4, 9, 0), (0x2100, 1, 0x0A, 4, 16), (0x2110, 1, 1, 192, 0), (0x2110, 1, 3, 64, 0),
  (0x2110, 1, 4, 32, 0), (0x2110, 1, 5, 32, 0), (0x2110, 1, 9, 272, 0), (0x2200, 1, 0x0C, 64, 0), (0x2320, 1, 7, 16, 0),
  (0x2400, 2, 6, 9, 0), (0x2400, 2, 8, 33, 0), (0x2500, 16, 4, 128, 0), (0x2530, 16, 0x0F, 24, 255), (0x2710, 1, 5, 576, 0),
  (0x2730, 1, 3, 64, 0), (0x2800, 1, 3, 4, 0), (0x2800, 1, 4, 1152, 0), (0x2800, 1, 5, 1152, 0), (0x2800, 1, 6, 1152, 0),
  (0x2800, 1, 7, 2304, 255), (0x2900, 1, 6, 576, 0), (0x2900, 1, 7, 2304, 0), (0x2900, 1, 8, 512, 0), (0x2B00, 1, 5, 8, 255),
  (0x2C10, 1, 5, 256, 255), (0x2C10, 1, 6, 256, 0), (0x2D10, 1, 6, 8192, 0), (0x2D60, 1, 1, 40, 0), (0x2D60, 1, 8, 8, 0),
  (0x2D60, 1, 9, 12, 0)]

/-- A DOMAIN entry as it reads: filled to its length where it has one. -/
def domRead (s : State) (i sub : Nat) : List Byte :=
  let l := domGet s i sub
  match domShapes.find? fun x => x.1 ≤ i && i < x.1 + x.2.1 && x.2.2.1 = sub with
  | some x => l ++ List.replicate (x.2.2.2.1 - l.length) (byte x.2.2.2.2)
  | none => l

/-! ## Values that lie in typed state -/

/-- The device's serial digest (R318, 0x2A00:03). -/
def serialDigest (s : State) : Nat := natOfBytes (fitBytes 8 (Config.shake256 (domGet s 0x2C00 9) 8))

/-- 0x1001 bit 0: a heat is RESTARTING, or the device is fenced. -/
def upset (s : State) : Bool := ((liveHeats s).any fun h => (getHeat s h).st = .restarting) || dget s 0x2710 1 = 1

/-- 0x1001 (R489). -/
def errorRegister (s : State) : Nat :=
  b2n (upset s) + 128 * b2n (match s.lastMinor with | some t => decide (s.now < t + 10000000000) | none => false)

/-- `ALERT_N` is driven (R534). -/
def alertDriven (s : State) : Bool :=
  let p := s.power
  p.rangeOn || p.inletOn || p.flowOn || p.dieHot || p.stackHot || !p.failed.isEmpty || upset s || bootStage s = bsRecovery ||
    bootStage s = bsLost

/-- 0x2100:0D (R541). -/
def pinStates (s : State) : Nat :=
  b2n s.pins.pwrLevel + 2 * b2n s.pins.throttleLow + 4 * b2n (alertDriven s) + 8 * b2n s.pins.thermTrip

/-- 0x2100:0C. -/
def throttleMs (s : State) : Nat := match s.power.throttle with | some t => (s.now - t) / 10000000 | none => 0

/-- Powered hours and cold starts since the last full memory test (R413). -/
def sinceFullTest (s : State) (sub now : Nat) : Nat :=
  match s.fullTest with
  | some (_, hour, starts) => now - (if sub = 0x0A then hour else starts)
  | none => Config.unstated (dkey 0x2A10 sub)

/-- Entries whose number lies in typed state. -/
def liveNumber (s : State) (i sub : Nat) : Option Nat :=
  if 0x2500 ≤ i && i < 0x2510 && sub = 1 then some (getHeat s (i - 0x2500)).st.code
  else match i, sub with
    | 0x1001, 0 => some (errorRegister s)
    | 0x1018, 1 => some Config.vendorId
    | 0x1018, 2 => some (dget s 0x2C00 1)
    | 0x1018, 3 => some (dget s 0x2A10 3 / 2 ^ 32)
    | 0x1018, 4 => some (serialDigest s)
    | 0x2100, 0x0C => some (throttleMs s)
    | 0x2100, 0x0D => some (pinStates s)
    | 0x2200, 0x0D => some (s.lap % 2 ^ 48)
    | 0x2200, 0x0E => some s.phase
    | 0x2402, 3 => some (s.sessions.filter fun x => x.2.stage = 2).length
    | 0x2700, 1 => some (match s.log with | r :: _ => r.seq | [] => 0)
    | 0x2700, 2 => some (match s.log.getLast? with | some r => r.seq | none => 0)
    | 0x2700, 3 => some (match s.log.getLast? with | some r => r.seq | none => 0)
    | 0x2710, 2 => some s.events.length
    | 0x2730, 1 => some (poweredHour s)
    | 0x2A00, 3 => some (serialDigest s)
    | 0x2A00, 8 => some Config.idcode
    | 0x2A10, 0x0A => some (sinceFullTest s 0x0A (poweredHour s))
    | 0x2A10, 0x0B => some (sinceFullTest s 0x0B (dget s 0x2730 2))
    | _, _ => none

/-- 0x2A10:01 to :0D, as boot events carry them (R494): the update image and its control, which cannot be read, take no byte and a
zero (DESIGN CHOICE, log entry 107). -/
def bootDetail (s : State) : List Byte :=
  let e (sub n : Nat) : List Byte := bytesOf n ((liveNumber s 0x2A10 sub).getD (dget s 0x2A10 sub))
  e 1 1 ++ e 2 1 ++ e 3 8 ++ e 4 2 ++ zeros 1 ++ e 7 1 ++ e 8 1 ++ e 9 1 ++ e 0x0A 4 ++ e 0x0B 2 ++ e 0x0C 2 ++ e 0x0D 4

/-- A boot event (R494). -/
def bootEvent (s : State) (e unit kind : Nat) : State :=
  raise s { code := e, cls := 0, unit := unit, unitKind := kind, detail := bootDetail s }

/-- The decimal digits of a number below 10^n, without leading zeros. -/
def decimal : Nat → Nat → List Byte
  | 0, _ => []
  | n + 1, v => (if v < 10 then [] else decimal n (v / 10)) ++ [byte (0x30 + v % 10)]

/-- `fw_version` as four dotted decimals. -/
def versionText (v : Nat) : List Byte :=
  let part (i : Nat) : List Byte := decimal 5 (v / 2 ^ (16 * i) % 65536)
  part 3 ++ [0x2E] ++ part 2 ++ [0x2E] ++ part 1 ++ [0x2E] ++ part 0

/-- A subject's measurement record; an all-zero digest where it has none (R509). -/
def measureOf (s : State) (subject : Nat) : List Byte :=
  ((s.measures.find? (·.1 = subject)).map (·.2)).getD (bytesOf 48 (subject * 2 ^ 40))

/-- 0x2A00:04: the records and the heats' salts. -/
def measureBytes (s : State) : List Byte :=
  (List.range 20).flatMap (measureOf s) ++ (List.range heatCount).flatMap fun h => fitBytes 32 (getHeat s h).salt

/-- The lap starts at which a cluster rotates, by the interval it holds (R462). -/
def rotationLap (s : State) (c lap : Nat) : Bool :=
  let i := (getCluster s c).interval
  i != 0 && ((lap : Int) - (c * (i / 64) : Nat)) % (i : Int) = 0

/-- The first lap after this one at which a cluster rotates; 0 while it holds no interval (0x2900:08; DESIGN CHOICE, log entry 130). -/
def nextRotationLap (s : State) (c : Nat) : Nat :=
  let i := (getCluster s c).interval
  if i = 0 then 0 else s.lap + i - (((s.lap : Int) - (c * (i / 64) : Nat)) % (i : Int)).toNat

/-- The quadrant of a logical cluster (0x2C00:06). -/
def quadrantOf (s : State) (c : Nat) : Nat := (nth 0#8 (domGet s 0x2C00 6) c).toNat

def quadrantBin (s : State) (q : Nat) : Nat := domNum s 0x2800 3 1 q
def slotBin (s : State) (p : Nat) : Nat := quadrantBin s (quadrantOf s (p / 9))

/-- The last 16 sweeps of a slot, newest first. -/
def slotSweeps (s : State) (p : Nat) : List SweepRec := tabGet [] s.sweeps p

/-- The latest Vmin of a slot at its quadrant's bin (0x2800:05), 0 before any sweep there. -/
def latestVmin (s : State) (p : Nat) : Nat :=
  match (slotSweeps s p).find? (·.bin = slotBin s p) with
  | some x => x.vmin
  | none => 0

/-- Transients of a slot within 720 powered hours (0x2710:05). -/
def recentTransients (s : State) (p : Nat) : Nat :=
  (s.transients.filter fun t => t.1 = p && poweredHour s ≤ t.2.2.1 + 720).length

/-- An event log entry's 256 bytes by its sequence number. -/
def logEntry (s : State) (seq : Nat) : List Byte :=
  match s.log.find? fun r => r.seq = seq with
  | some r => bytesOf 256 r.word
  | none => []

/-- Entries whose bytes lie in typed state or outside the dictionary's tables. -/
def liveBytes (s : State) (i sub : Nat) : List Byte :=
  match i, sub with
  | 0x1008, 0 => [0x54, 0x61, 0x72, 0x72, 0x6F, 0x6E]
  | 0x1009, 0 => domGet s 0x2C00 2
  | 0x100A, 0 => versionText (dget s 0x2A10 3)
  | 0x2700, 4 => match s.log.getLast? with | some r => bytesOf 256 r.word | none => []
  | 0x2710, 5 => (List.range 576).map fun p => byte (min 255 (recentTransients s p))
  | 0x2800, 5 => (List.range 576).flatMap fun p => bytesOf 2 (latestVmin s p)
  | 0x2900, 8 => (List.range 64).flatMap fun c => bytesOf 8 (nextRotationLap s c)
  | 0x2A00, 1 => fitBytes 1793 Config.identityKey
  | 0x2A00, 2 => bytesOf 2 Config.manufactureSignature.length ++ Config.manufactureSignature
  | 0x2A00, 4 => measureBytes s
  | 0x2A00, 6 => s.quote
  | _, _ => domRead s i sub

/-- The bytes of an entry that exists (R484). -/
def entryBytes (s : State) (e : DictEntry) (i : Nat) : List Byte :=
  if e.size = 0 then liveBytes s i e.sub
  else bytesOf e.size ((liveNumber s i e.sub).getD (dget s i e.sub))

/-- Whether an entry has data to read now (R488): a quote, a log entry. -/
def noDataYet (s : State) (i sub : Nat) : Bool :=
  match i, sub with
  | 0x2A00, 6 => s.quote.isEmpty
  | 0x2700, 4 => s.log.isEmpty
  | _, _ => false

/-- The heat of a per-heat index (R483). -/
def perHeat (i : Nat) : Option Nat :=
  if (0x2440 ≤ i && i < 0x2450) || (0x2500 ≤ i && i < 0x2520) || (0x2530 ≤ i && i < 0x2540) || (0x2D20 ≤ i && i < 0x2D30)
  then some (i % 16) else none

def abNoObject : Nat := 0x06020000
def abNoSub : Nat := 0x06090011
def abWriteOnly : Nat := 0x06010001
def abReadOnly : Nat := 0x06010002
def abLength : Nat := 0x06070010
def abRange : Nat := 0x06090030
def abOtherHeat : Nat := 0x08000039
def abState : Nat := 0x08000022
def abCommand : Nat := 0x05040001
def abTransfer : Nat := 0x05040000
def abLocked : Nat := 0x0800003D
def abBusy : Nat := 0x08000038
def abRequired : Nat := 0x0800003A
def abPlans : Nat := 0x0800003B
def abToken : Nat := 0x0800003C
def abNoData : Nat := 0x08000024
def abStore : Nat := 0x08000020

/-- The value the mirror shows heat h, or its abort code. -/
def mirrorValue (s : State) (h i sub : Nat) : Nat × List Byte :=
  if !dictHasIndex i then (abNoObject, [])
  else match dictEntry i sub with
    | none => (abNoSub, [])
    | some e =>
      if e.acc = .wo then (abWriteOnly, [])
      else if (perHeat i).any (· != h) then (abOtherHeat, [])
      else if noDataYet s i sub then (abNoData, [])
      else (0, (entryBytes s e i).take 65520)

/-- The 64 KiB window of an entry, as far as it holds anything. -/
def mirrorWindow (s : State) (h i sub : Nat) : List Byte :=
  let v := mirrorValue s h i sub
  bytesOf 4 v.2.length ++ bytesOf 4 v.1 ++ bytesOf 8 (s.lap % 2 ^ 48) ++ v.2

/-- n bytes of the mirror at offset o, read by heat h. -/
def mirrorRead (s : State) (h o n : Nat) : List Byte :=
  let one (o n : Nat) : List Byte := sliceBytes (mirrorWindow s h (o / 0x1000000) (o / 0x10000 % 256)) (o % 0x10000) n
  if n = 0 then []
  else
    let first := min n (0x10000 - o % 0x10000)
    let m := ceilDiv (n - first) 0x10000
    one o first ++ (List.range m).flatMap fun i =>
      one (o + first + i * 0x10000) (min 0x10000 (n - first - i * 0x10000))

/-- The not-before time in force: taken as the next lap's start where the lap has grown shorter (R254). -/
def dueTime (s : State) (d : Slot) : Nat × Nat :=
  if dPhase d ≥ lapLen s then (dLap d + 1, 0) else (dLap d, dPhase d)

def timeReached (s : State) (d : Slot) : Bool := let t := dueTime s d; timeAtLeast s t.1 t.2

/-- A queue whose head is held in pace loss (R254, R293). -/
def queueHeld (s : State) (x : Queue) : Bool :=
  x.paceHeld || (paceLost s && match x.headCmd with | some c => dNb c.desc | none => false)

/-- A queue whose head waits for its not-before time. -/
def headWaits (s : State) (x : Queue) : Bool :=
  match x.headCmd with | some c => dNb c.desc && !timeReached s c.desc | none => false

/-- The register block of a queue as a load sees it (R246). -/
def queueBlock (s : State) (x : Queue) : List Byte :=
  bytesOf 8 0 ++ bytesOf 8 x.head ++ bytesOf 8 x.tail ++
    bytesOf 8 (b2n x.enabled * 2 ^ 31 + x.cls * 2 ^ 28 + x.slot * 2 ^ 18 + b2n (headWaits s x) * 2 ^ 17 +
      b2n (queueHeld s x) * 2 ^ 16 + x.refused) ++
    bytesOf 8 ((x.log2 - 6) * 2 ^ 48 + x.ring) ++ bytesOf 8 x.cpl ++ bytesOf 16 0

end Sys2Proof.Machine
end

