-- ==== Sys2Proof/Machine/Fill.lean ====
section
/-! DEFINITION. What the DMA and quantise engine makes of one row: conversion, rotation, lifting and quantising (R100 to R110,
R266, R268, R547), as functions of the row's source bytes. -/

namespace Sys2Proof.Machine

/-- One converted row: its element codes, its blocks where the target has them, the events of each 32-element block, or of each
element where the target has no blocks, and the lifted elements. -/
structure ConvRow where
  codes  : List Nat := []
  blocks : List Block := []
  evs    : List Ev := []
  /-- Elements to an entry of `evs`. -/
  step   : Nat := 32
  lifted : List Lifted := []
deriving DecidableEq, Repr

/-- What the conversion of a row depends on beside its bytes. -/
structure ConvCtx where
  src  : Option Fmt
  dst  : Option Fmt
  cls  : Cls
  seed : Nat
  par  : FillPar
  k0   : Nat
  n    : Nat
  /-- Lifted elements have somewhere to go (R106). -/
  lift : Bool
  /-- The side list of the source applies (R547). -/
  list : Bool
  /-- The target lies in memory, where no outlier unit takes entries. -/
  mem  : Bool := false
deriving DecidableEq, Repr

/-- Blocks carried to a block target under their own exponents. -/
def carryRow (c : ConvCtx) (s t : Fmt) (l scales : List Byte) : List (Block × Ev) :=
  match s.block, t.block with
  | some (se, smx), some (te, tmx) =>
    let bs := s.rowBlocks c.n l scales
    (List.range (ceilDiv c.n 32)).map fun i =>
      let b := nth zeroBlock bs i
      let d0 := b.decode se smx c.cls
      let keep := c.n - 32 * i
      let d := { d0 with vals := d0.vals.take keep ++ List.replicate (32 - keep) .zero }
      if s = t then (b, { nanb := b2n (d0.vals.any FV.isNan && !te.hasNan tmx) })
      else
        let q := carryBlock te tmx c.cls smx b.exp (if s = .x4 && t = .x8 then some b.shifts else none) d
        (q.1, d.ev.add q.2)
  | _, _ => []

/-- The values of a row with lifted values restored into their elements (R547), each read as BF16 (R43). -/
def restoreLifts (cls : Cls) (k0 : Nat) (ents : List Lifted) (v : List FV) : List FV :=
  ents.foldl (fun v e => setNth v (e.k - k0) (fmtBF16.read cls e.val).1) v

/-- The elements of a row whose restored values were flushed as they were read. -/
def liftsFlushed (cls : Cls) (k0 : Nat) (ents : List Lifted) : List Nat :=
  (ents.filter fun e => (fmtBF16.read cls e.val).2).map fun e => e.k - k0

/-- A row of values encoded element by element: codes and events. -/
def encodePieces (c : ConvCtx) (t : Fmt) (v : List FV) : List Nat × List Ev :=
  let enc (x : FV) : Nat × Ev :=
    match t.float, t.int with
    | some f, _ => f.encode c.cls x
    | none, some i => let r := i.encode x; (wrapInt i.bits r.1, r.2)
    | none, none => (0, {})
  let r := v.map enc
  (r.map (·.1), r.map (·.2))

/-- Per-block sums of events of a read: the FLUSH and NANB events of decoding block m of the source. -/
def readEvs (c : ConvCtx) (s : Fmt) (l scales : List Byte) : List Ev :=
  let nb := ceilDiv c.n 32
  match s.block with
  | some (el, mx) =>
    let bs := s.rowBlocks c.n l scales
    (List.range nb).map fun i => ((nth zeroBlock bs i).decode el mx c.cls).ev
  | none =>
    (List.range nb).map fun i =>
      let lo := 32 * i * s.elemBits / 8
      (s.decodeRow c.cls (min 32 (c.n - 32 * i)) (l.drop lo) []).ev

/-- One source row converted (R31, R49, R100 to R106, R547). -/
def convRow (c : ConvCtx) (l scales : List Byte) (ents : List Lifted) : ConvRow :=
  match c.src, c.dst with
  | some s, some t =>
    let path := convPath s t
    let copies := (path = .same || path = .exact) && s.block.isSome && t.block.isSome
    let carried := (copies || path = .rounded) && s.block.isSome && t.block.isSome
    let useList := c.list && s.isX
    let rotates := c.par.rot != 0 && !useList
    if carried && !rotates then
      let r := carryRow c s t l scales
      { blocks := r.map (·.1), codes := r.flatMap (·.1.codes), evs := r.map (·.2)
        lifted := if useList then ents else [] }
    else
      let d := s.decodeRow c.cls c.n l scales
      let restores := useList && (path = .quantised || (c.mem && t.block.isNone))
      let lost := if restores then liftsFlushed c.cls c.k0 ents else []
      let rd := (readEvs c s l scales).mapIdx fun m e => e.add { flush := (lost.filter (· / 32 = m)).length }
      let vals := if restores then restoreLifts c.cls c.k0 ents d.vals else d.vals
      let fl := (List.range c.n).map fun i => (nth false d.had i || lost.contains i) && (nth .zero vals i).isZero
      match t.block with
      | some (el, false) =>
        let p := prepRow c.par rotates c.lift c.cls c.seed c.k0 vals fl
        let q := quantiseRow el c.cls p
        { blocks := q.map (·.1), codes := q.flatMap (·.1.codes), lifted := p.lifted
          evs := (List.range q.length).map fun m => (nth {} rd m).add (nth (zeroBlock, {}) q m).2 }
      | some (_, true) =>
        let r := convertRow s t c.cls c.n l scales
        let bs := t.rowBlocks c.n r.1 r.2.1
        { blocks := bs, codes := bs.flatMap (·.codes), evs := [r.2.2] }
      | none =>
        let p := prepRow c.par rotates false c.cls c.seed c.k0 vals fl
        let v := if rotates then p.vals.take c.n else vals
        let q := if s = t && !rotates then (unpackElems s.elemBits c.n l, []) else encodePieces c t v
        let blk (i : Nat) : Ev :=
          if i % 32 != 0 then {}
          else (if s = t && !rotates then {} else nth {} rd (i / 32)).add (if rotates then nth {} p.evs (i / 32) else {})
        { codes := q.1, lifted := if useList && path = .exact then ents else [], step := 1
          evs := (List.range c.n).map fun i => (blk i).add (nth {} q.2 i) }
  | _, _ => { codes := (l.take c.n).map BitVec.toNat }

/-- A scale entry (R62). -/
def scaleEntry (b : Block) : Nat := b.exp + (shiftByte b.shifts).toNat * 256

/-- A converted row as a fill records it (R268). Integer rows are padded to whole K-blocks (R53). -/
def toFillRow (p : DmaPar) (t : Option Fmt) (r : Nat) (ents : List Lifted) (c : ConvRow) : FillRow :=
  let pad := match t with
    | some f => if isIntFmt f then (32 - c.codes.length % 32) % 32 else 0
    | none => 0
  let x := match t with | some f => f.isX | none => false
  let codes := c.codes ++ List.replicate pad 0
  { bank := p.bankFirst + r
    pos := p.streamPos + p.bankFirst + r
    k0 := p.kFirst
    codes := codes
    scale0 := p.streamPos / 32
    scales := if x then c.blocks.map scaleEntry else []
    evs := c.evs
    step := c.step
    lifted := c.lifted
    ents := ents
    lo := 0
    hi := codes.length }

/-- The width of a fill's target in the stream (R268). -/
def fillWidth (t : Option Fmt) : Nat := match t with | some f => f.elemBits | none => 8

/-- A converted row as bytes and MX scales in memory. -/
def toBytes (t : Option Fmt) (n : Nat) (c : ConvRow) : List Byte × List Byte :=
  match t with
  | none => (c.codes.map byte, [])
  | some f => if f.block.isSome then f.packRow n c.blocks else (packElems f.elemBits c.codes, [])

/-- R110 on a memory target: lifted values past the list's capacity written into their elements; the row and the events. -/
def overflowRow (cls : Cls) (el : Elem) (k0 : Nat) (excess : List Lifted) (bs : List Block) : List Block × Ev :=
  excess.foldl (fun (acc : List Block × Ev) e =>
    let i := e.k - k0
    let m := i / 32
    let b := nth zeroBlock acc.1 m
    if b.exp = 0 || b.exp = 0xFF then (acc.1, acc.2.add { outf := 1 })
    else
      let x := fmtBF16.read cls e.val
      let w := el.write false cls (x.1.scale (127 - (b.exp : Int) + (nth 0 b.shifts (i % 32 / 8) : Nat)))
      (setNth acc.1 m { b with codes := setNth b.codes (i % 32) w.1 }, (acc.2.add { outf := 1, flush := b2n x.2 }).add w.2)) (bs, {})

/-! ## Rows and side lists of a command -/

/-- Whether row r takes part (R268). -/
def rowOn (p : DmaPar) (r : Nat) : Bool :=
  (p.dstKind != 1 || bitOf p.rowMask (p.bankFirst + r)) && (p.srcKind != 2 || bitOf p.rowMask r)

def activeDma (p : DmaPar) : List Nat := rangeWhere p.rows (rowOn p)

/-- The side-list header in 32 bytes (R107). -/
def parseHead (l : List Byte) : ListHead :=
  let w := natOfBytes l
  { count := bitsOf w 255 224, rows := bitsOf w 223 192, rowLen := bitsOf w 191 160, tensor := bitsOf w 159 144
    layer := bitsOf w 143 132, rot := bitsOf w 131 129, side := bitsOf w 128 128 }

/-- The source's side list applies (R546, R547). -/
def readsList (p : DmaPar) (sf : Option Fmt) : Bool := p.listEn && p.srcKind = 0 && optX sf

/-- A quantising write to memory that puts its lifted elements into a side list at `list_addr` (R106). A source's own list there
is read before (DEDUCED, log entry 40). -/
def writesList (p : DmaPar) (sf t : Option Fmt) : Bool :=
  let quantises := match sf, t with | some a, some b => convPath a b = .quantised | _, _ => false
  p.dstKind = 0 && p.listEn && optX t && (quantises || (p.rot != 0 && !readsList p sf))

/-- The tensor row of a transfer row (R546). -/
def tensorRow (p : DmaPar) (sf : Option Fmt) (hd : ListHead) (r : Nat) : Option Nat :=
  let pitch := (if sf = some .x4 then ceilDiv hd.rowLen 64 else ceilDiv hd.rowLen 32) * 36
  let a := gOff p.src + r * p.srcStride
  if pitch = 0 || a < p.srcScale || (a - p.srcScale) % pitch != 0 then none
  else
    let t := (a - p.srcScale) / pitch
    if t < hd.rows then some t else none

/-- A list entry (R107). -/
def parseEntry (l : List Byte) (i : Nat) : Nat × Lifted :=
  let w := natAt l (8 * i) 8
  (bitsOf w 63 40, ⟨bitsOf w 39 16, bitsOf w 15 0⟩)

/-- The entries of a transfer row. -/
def rowEntries (p : DmaPar) (sf : Option Fmt) (hd : ListHead) (l : List (Nat × Lifted)) (r : Nat) : List Lifted :=
  match tensorRow p sf hd r with
  | none => []
  | some t =>
    (l.filter fun e => e.1 = t && p.kFirst ≤ e.2.k && e.2.k < p.kFirst + p.rowLen).map (·.2)

end Sys2Proof.Machine
end

