-- ==== Sys2Proof/Machine/Stream.lean ====
section
/-! DEFINITION. Operand streams in a core buffer: reading and writing positions and the feed (R59 to R63, R66, R268). -/

namespace Sys2Proof.Machine

/-- The line of a region that holds position p of width w (R60). -/
def posLine (r : Region) (w p : Nat) : Nat := r.line + (p * w / 32) % r.len

/-- The bit within the buffer at which position p of bank b starts. -/
def posBit (r : Region) (w b p : Nat) : Nat := (posLine r w p * 512 + b * 4) * 8 + p * w % 32

/-- An element read from the buffer's bytes. -/
def getElem (s : State) (k : Nat) (r : Region) (w b p : Nat) : Nat :=
  let bit := posBit r w b p
  let v := readNat s (cbAddr k (bit / 8)) (if w < 8 then 1 else w / 8)
  bitsOf v (bit % 8 + w - 1) (bit % 8)

/-- An element written; the other bits of its byte stay (R67). -/
def putElem (s : State) (k : Nat) (r : Region) (w b p v : Nat) : State :=
  let bit := posBit r w b p
  let a := cbAddr k (bit / 8)
  if w < 8 then
    let old := (getByte s a).toNat
    putByte s a (byte (putBits old (bit % 8 + w - 1) (bit % 8) v))
  else writeNat s a (w / 8) v

def putElems (s : State) (k : Nat) (r : Region) (w b : Nat) : Nat → List Nat → State
  | _, [] => s
  | p, v :: l => putElems (putElem s k r w b p v) k r w b (p + 1) l

/-! ## What a word of the buffer holds -/

/-- Positions of a region's ring, per bank, at a width (R60). -/
def ringCap (r : Region) (w : Nat) : Nat := r.len * 32 / w

/-- What was last written where a position lies. -/
inductive Holder where
  /-- The position itself, by a row of a fill. -/
  | row (f : FillRec) (x : FillRow)
  /-- Another position of the same stream: another lap of the ring. -/
  | lap
  /-- Something else: another agent, or a fill of another region. -/
  | other
  /-- Nothing since the heat began. -/
  | never
deriving DecidableEq, Repr

/-- Whether the bits of position p of region r are among those that n positions from q on of another stream occupy. -/
def hitsStream (r : Region) (w b p : Nat) (r' : Region) (w' b' q n : Nat) : Bool :=
  r.meets r' && b == b' && (List.range n).any fun t => overlaps (posBit r w b p) w (posBit r' w' b' (q + t)) w'

/-- Whether one of the positions from `lo` to below `hi` lies where p lies in a ring of `cap` positions. -/
def sameSlot (cap p lo hi : Nat) : Bool := lo + (p + cap * (lo / cap + 1) - lo) % cap < hi

/-- The K-blocks of a row that its window holds: their scale entries go with them. -/
def FillRow.firstBlk (x : FillRow) : Nat := ceilDiv x.lo 32
def FillRow.endBlk (x : FillRow) : Nat := min x.scales.length (ceilDiv x.hi 32)

/-- What a fill's logged rows put where position p of a stream lies, if anything. -/
def fillHolds (f : FillRec) (r : Region) (w b p : Nat) : Option Holder :=
  let one (x : FillRow) : Option Holder :=
    if x.bank != b then none
    else if f.elem = r && f.width = w && x.pos + x.lo ≤ p && p < x.pos + x.hi then some (.row f x)
    else if f.elem = r && f.width = w && sameSlot (ringCap r w) p (x.pos + x.lo) (x.pos + x.hi) then some .lap
    else if !(f.elem = r && f.width = w) && hitsStream r w b p f.elem f.width b (x.pos + x.lo) (x.hi - x.lo) then some .other
    else if hitsStream r w b p f.scale 16 b (x.scale0 + x.firstBlk) (x.endBlk - x.firstBlk) then some .other
    else none
  f.rows.findSome? one

/-- What holds position p of bank b of a region's stream, the newest write first (R60, R121). -/
def holder (r : Region) (w b p : Nat) : List BufWrite → Holder
  | [] => .never
  | .bytes l :: rest =>
    let o := posBit r w b p / 8
    if l.any fun x => overlaps x.1 x.2 o (if w < 8 then 1 else w / 8) then .other else holder r w b p rest
  | .fill f :: rest =>
    match fillHolds f r w b p with
    | some x => x
    | none => holder r w b p rest

/-- The waiting fill, oldest first, that is to write position p of a region's stream (R66). -/
def waitingRow (r : Region) (w b p : Nat) (l : List FillRec) : Option (FillRec × FillRow) :=
  l.findSome? fun f =>
    if f.elem = r && f.width = w then
      (f.rows.find? fun x => x.bank = b && x.pos + x.lo ≤ p && p < x.pos + x.hi).map fun x => (f, x)
    else none

/-- The fill row behind position p: the one that wrote it, or that waits to write it as the array moves on; none where another
agent wrote it or nothing did. -/
def ownerRow (s : State) (k : Nat) (r : Region) (w b p : Nat) : Option (FillRec × FillRow) :=
  match holder r w b p (getCore s k).log with
  | .row f x => some (f, x)
  | .other => none
  | _ => waitingRow r w b p (getCore s k).waiting

/-- The element the array reads at position p: what the word holds, or what a waiting fill writes there as the array moves
on. -/
def streamElem (s : State) (k : Nat) (r : Region) (w b p : Nat) : Nat :=
  match holder r w b p (getCore s k).log with
  | .row _ _ | .other => getElem s k r w b p
  | _ =>
    match waitingRow r w b p (getCore s k).waiting with
    | some (_, x) => nth 0 x.codes (p - x.pos)
    | none => getElem s k r w b p

/-- A position that is not marked written (R66): nothing has written it, or its word holds another lap and no fill waits to write
it. Other agents than the DMA engine mark what they write as written (DEDUCED, log entry 100). -/
def notWritten (s : State) (k : Nat) (r : Region) (w b p : Nat) : Bool :=
  match holder r w b p (getCore s k).log with
  | .row _ _ | .other => false
  | _ => (waitingRow r w b p (getCore s k).waiting).isNone

/-- What holds scale entry i of bank b for the stream of a region: the fill's entry itself, another lap, or another write. -/
def scaleHolder (el sc : Region) (w b i : Nat) : List BufWrite → Option Nat
  | [] => none
  | .bytes l :: rest =>
    if l.any fun x => overlaps x.1 x.2 (posBit sc 16 b i / 8) 2 then none else scaleHolder el sc w b i rest
  | .fill f :: rest =>
    let mine (x : FillRow) : Bool := f.elem = el && f.width = w && f.scale = sc && x.bank = b
    let own (x : FillRow) : Bool := mine x && x.scale0 + x.firstBlk ≤ i && i < x.scale0 + x.endBlk
    match f.rows.find? own with
    | some x => some (nth 0 x.scales (i - x.scale0))
    | none =>
      if f.rows.any fun x => x.bank = b &&
          (hitsStream sc 16 b i f.elem f.width b (x.pos + x.lo) (x.hi - x.lo) ||
           hitsStream sc 16 b i f.scale 16 b (x.scale0 + x.firstBlk) (x.endBlk - x.firstBlk)) then none
      else scaleHolder el sc w b i rest

/-- The scale entry a waiting fill is to write. -/
def waitingScale (el sc : Region) (w b i : Nat) (l : List FillRec) : Option Nat :=
  l.findSome? fun f =>
    if f.elem = el && f.width = w && f.scale = sc then
      (f.rows.find? fun x => x.bank = b && x.scale0 + x.firstBlk ≤ i && i < x.scale0 + x.endBlk).map fun x =>
        nth 0 x.scales (i - x.scale0)
    else none

/-- The scale entry of K-block i of bank b (R62): what its half of the word holds, or what a waiting fill writes there. -/
def streamScale (s : State) (k : Nat) (el sc : Region) (w b i : Nat) : Nat :=
  match scaleHolder el sc w b i (getCore s k).log with
  | some v => v
  | none => (waitingScale el sc w b i (getCore s k).waiting).getD (getElem s k sc 16 b i)

/-- K-block m of an operand: bank b, stream origin p0 (R61, R62), K-block origin m0. -/
def streamKBlk (s : State) (k : Nat) (f : Fmt) (el sc : Region) (b p0 m0 m : Nat) : KBlk :=
  let w := f.elemBits
  { scale := if f.isX then streamScale s k el sc w b (m0 + m) else 0x7F
    codes := (List.range 32).map fun j => streamElem s k el w b (p0 + b + 32 * m + j) }

/-- Whether a fill of the region's stream has lifted elements in a bank. -/
def liftsIn (el : Region) (w b : Nat) (f : FillRec) : Bool :=
  f.elem = el && f.width = w && f.rows.any fun r => r.bank = b && !r.lifted.isEmpty

/-- The lifted entries of a bank in the contraction range of n elements from stream origin p0: relative index and BF16
code (R108). -/
def streamLifts (s : State) (k : Nat) (el : Region) (w b p0 n : Nat) : List (Nat × Nat) :=
  let c := getCore s k
  if (c.log.any fun x => match x with | .fill f => liftsIn el w b f | .bytes _ => false) || c.waiting.any (liftsIn el w b) then
    (List.range n).flatMap fun t =>
      match ownerRow s k el w b (p0 + b + t) with
      | some (_, r) =>
        (r.lifted.filter fun e => r.pos + (e.k - r.k0) = p0 + b + t && r.k0 ≤ e.k).map fun e => (t, e.val)
      | none => []
  else []

/-- The events a fill's row recorded at an element of it. -/
def FillRow.evAt (x : FillRow) (i : Nat) : Ev := if i % x.step = 0 then nth {} x.evs (i / x.step) else {}

/-- The events recorded for the K-block that starts at position p of bank b, of every fill that wrote part of it (R113). -/
def streamEv (s : State) (k : Nat) (el : Region) (w b p : Nat) : Ev :=
  evSum ((List.range 32).map fun j =>
    match ownerRow s k el w b (p + j) with
    | some (_, r) => r.evAt (p + j - r.pos)
    | none => {})

/-! ## The feed (R66, R268) -/

/-- Elements `lo` to below `hi` of a row written into the buffer, with the scale entries of the K-blocks that begin there. -/
def writeFillRow (s : State) (k : Nat) (f : FillRec) (x : FillRow) : State :=
  let s := putElems s k f.elem f.width x.bank (x.pos + x.lo) ((x.codes.drop x.lo).take (x.hi - x.lo))
  putElems s k f.scale 16 x.bank (x.scale0 + x.firstBlk) ((x.scales.drop x.firstBlk).take (x.endBlk - x.firstBlk))

/-- From which of its elements on a row still waits for the array (R66). -/
def FillRow.held (x : FillRow) : Nat := max x.lo x.used

/-- Whether n places from a on and m places from b on meet in a ring of `cap` places. -/
def ringHits (cap a n b m : Nat) : Bool :=
  let d := (b + cap * (a / cap + 1) - a) % cap
  n != 0 && m != 0 && (d < n || cap < d + m)

/-- The bits of a region's ring, in one bank, whose elements the array has not consumed yet: start and length. -/
def heldBits (el : Region) (b : Nat) (l : List BufWrite) : List (Nat × Nat) :=
  l.flatMap fun y => match y with
    | .bytes _ => []
    | .fill g => if g.elem != el then []
      else (g.rows.filter fun y => y.bank = b && y.held < y.hi).map fun y =>
        ((y.pos + y.held) * g.width, (y.hi - y.held) * g.width)

/-- The scale entries of a region's ring, in one bank, whose K-blocks the array has not consumed yet. -/
def heldScales (sc : Region) (b : Nat) (l : List BufWrite) : List (Nat × Nat) :=
  l.flatMap fun y => match y with
    | .bytes _ => []
    | .fill g => if g.scale != sc then []
      else (g.rows.filter fun y => y.bank = b && y.held < y.hi).map fun y =>
        let m := max y.firstBlk (y.held / 32)
        (y.scale0 + m, y.endBlk - m)

/-- How many elements of a row can be written (R60, R62, R66): each overwrites only what the array has consumed, and no fill
overtakes an earlier one of its region. What holds a position is an earlier fill of the same region or of the same scale region
(DEDUCED, log entry 100). -/
def rowRoom (s : State) (k : Nat) (f : FillRec) (x : FillRow) : Nat :=
  let c := getCore s k
  let behind := c.waiting.any fun g => g.elem = f.elem && g.rows.any (·.bank = x.bank)
  let held := heldBits f.elem x.bank c.log
  let heldS := heldScales f.scale x.bank c.log
  let full (i : Nat) : Bool :=
    x.used ≤ i && held.any fun h => ringHits (f.elem.len * 32) ((x.pos + i) * f.width) f.width h.1 h.2
  let fullS (m : Nat) : Bool :=
    x.used ≤ 32 * m && heldS.any fun h => ringHits (2 * f.scale.len) (x.scale0 + m) 1 h.1 h.2
  let n := match (List.range (x.hi - x.lo)).find? fun j => full (x.lo + j) with
    | some j => x.lo + j
    | none => x.hi
  let m := match (List.range (x.endBlk - x.firstBlk)).find? fun j => fullS (x.firstBlk + j) with
    | some j => 32 * (x.firstBlk + j)
    | none => x.hi
  let own := x.held + ringCap f.elem f.width
  let ownS := if x.scales.isEmpty then own else 32 * (ceilDiv x.held 32 + 2 * f.scale.len)
  if behind then x.lo else max x.lo (min x.hi (min (min n m) (min own ownS)))

/-- Of a row written up to `n`: what the ring holds in the end, where more than a lap went through it. -/
def rowDone (f : FillRec) (x : FillRow) (n : Nat) : FillRow :=
  { x with lo := max x.lo (n - ringCap f.elem f.width), hi := n }

/-- Whether a fill overwrites all that another wrote. -/
def shadows (f g : FillRec) : Bool :=
  g.elem = f.elem && g.width = f.width && g.scale = f.scale &&
    g.rows.all fun y => f.rows.any fun x => x.bank = y.bank && x.pos + x.lo ≤ y.pos + y.lo && y.pos + y.hi ≤ x.pos + x.hi

/-- What of a fill can be written is written and logged; the rest stays. Fills that it shadows whole are forgotten. -/
def advanceFill (s : State) (k : Nat) (f : FillRec) : State × Option FillRec :=
  let n (x : FillRow) : Nat := rowRoom s k f x
  let now := { f with rows := f.rows.filterMap fun x => if x.lo < n x then some (rowDone f x (n x)) else none }
  let rest := { f with rows := f.rows.filterMap fun x => if n x < x.hi then some { x with lo := n x } else none }
  let s := now.rows.foldl (fun s x => writeFillRow s k f x) s
  let keep (y : BufWrite) : Bool := match y with | .fill g => !shadows now g | .bytes _ => true
  let s := if now.rows.isEmpty then s else modCore s k fun c => { c with log := .fill now :: c.log.filter keep }
  (s, if rest.rows.isEmpty then none else some rest)

/-- The waiting fills of a core moved on, oldest first. -/
def advanceWaiting (s : State) (k : Nat) : State :=
  let l := (getCore s k).waiting
  l.foldl (fun s f =>
    let r := advanceFill s k f
    match r.2 with
    | some g => modCore r.1 k fun c => { c with waiting := c.waiting ++ [g] }
    | none => r.1) (modCore s k fun c => { c with waiting := [] })

/-- A new fill entered. -/
def writeFill (s : State) (k : Nat) (f : FillRec) : State :=
  let f := { f with id := (getCore s k).nextFill }
  let r := advanceFill (modCore s k fun c => { c with nextFill := c.nextFill + 1 }) k f
  match r.2 with
  | some g => modCore r.1 k fun c => { c with waiting := c.waiting ++ [g] }
  | none => r.1

/-- Whether part of a command's fill still waits for the array. -/
def fillWaits (s : State) (k q i : Nat) : Bool := (getCore s k).waiting.any fun f => f.queue = q && f.index = i

/-- The stamp a region carries (R103): that of its last write. -/
def regionStamp (el : Region) : List BufWrite → Stamp
  | [] => {}
  | .bytes l :: rest =>
    if l.any fun x => overlaps x.1 x.2 (el.line * 512) (el.len * 512) then {} else regionStamp el rest
  | .fill f :: rest => if f.elem.meets el then f.stamp else regionStamp el rest

end Sys2Proof.Machine
end

