-- ==== Sys2Proof/Machine/Array.lean ====
section
/-! DEFINITION. One pass of an array tile, and the diagonal mode (R57 to R113). -/

namespace Sys2Proof.Machine

/-- The operands of a pass, as K-blocks by row of A and by column of B, with their lifted entries (relative index, code)
and per-operand counters. -/
structure Operand where
  fmt    : Fmt
  banks  : List Nat
  blocks : List (List KBlk)
  /-- Admitted entries by bank. -/
  lifts  : List (Nat × List (Nat × Nat))
  ev     : Ev
  /-- Idle beats of the outlier unit (R111). -/
  stall  : Nat
  /-- Overflowed elements: bank, relative index, code (R110). -/
  excess   : List (Nat × Nat × Nat)
  /-- FLUSH events of the overflowed values, which are read as BF16 (R43). -/
  overFlush : Nat
deriving DecidableEq, Repr

/-- Capacity of a tile's list per operand (R108). -/
def outlierCap : Nat := 8192

/-- Entries in admission order: ascending contraction index, then bank (R108). -/
def admission (n : Nat) (l : List (Nat × List (Nat × Nat))) : List (Nat × Nat × Nat) :=
  (List.range n).flatMap fun t => l.flatMap fun b => (b.2.filter (·.1 = t)).map fun e => (t, b.1, e.2)

/-- An overflowed value, read as BF16 (R43), written under its K-block's exponent and shift (R110), or as it is into a BF16 operand:
the code and the events. -/
def overflowCode (f : Fmt) (cls : Cls) (b : KBlk) (t v : Nat) : Nat × Ev :=
  let el : Elem := if f = .x8 then .e4m3 else .e2m1
  let x := fmtBF16.read cls v
  if f = .bf16 then (if x.2 then v - v % fmtBF16.signBit else v, { outf := 1, flush := b2n x.2 })
  else if b.exp = 0 || b.exp = 0xFF then (0, { outf := 1 })
  else
    let r := el.write false cls (x.1.scale (127 - (b.exp : Int) + (b.shift (t % 32) : Nat)))
    (r.1, Ev.add { outf := 1, flush := b2n x.2 } r.2)

/-- The NANB count of an operand: each K-block once (R112); of an integer operand each element (R45). -/
def nanbCount (f : Fmt) (bs : List (KBlk × Ev)) : Nat :=
  if isIntFmt f then (bs.map fun x => x.2.nanb).sum
  else (bs.filter fun x => x.1.poisoned f || x.2.nanb > 0).length

/-- An operand assembled from its K-blocks, their fill events and its candidate entries (R108 to R113). -/
def mkOperand (f : Fmt) (cls : Cls) (kb : Nat) (banks : List Nat) (blk : Nat → Nat → KBlk) (evs : Nat → Nat → Ev)
    (cand : Nat → List (Nat × Nat)) : Operand :=
  let raw := banks.map fun b => (b, (List.range kb).map fun m => (blk b m, evs b m))
  let all := admission (32 * kb) (banks.map fun b => (b, cand b))
  let adm := all.take outlierCap
  let excess := (all.drop outlierCap).map fun x =>
    let b := ((raw.find? (·.1 = x.2.1)).map fun y => nth (⟨0, []⟩, {}) y.2 (x.1 / 32)).getD (⟨0, []⟩, {})
    ((x.2.1, x.1, (overflowCode f cls b.1 x.1 x.2.2).1), (overflowCode f cls b.1 x.1 x.2.2).2)
  let blocks := raw.map fun r => (List.range kb).map fun m =>
    let b := (nth (⟨0, []⟩, {}) r.2 m).1
    (excess.filter fun o => o.1.1 = r.1 && o.1.2.1 / 32 = m).foldl
      (fun b o => { b with codes := setNth b.codes (o.1.2.1 % 32) o.1.2.2 }) b
  let flat := raw.flatMap (·.2)
  let e := (evSum (flat.map (·.2))).add (evSum (excess.map (·.2)))
  { fmt := f, banks := banks, blocks := blocks
    lifts := banks.map fun b => (b, (adm.filter (·.2.1 = b)).map fun x => (x.1, x.2.2))
    ev := { e with nanb := nanbCount f flat }
    stall := sumTo kb fun m => (adm.filter fun x => x.1 / 32 = m).length - 4
    excess := excess.map (·.1)
    overFlush := (evSum (excess.map (·.2))).flush }

/-- What a pass produces. -/
structure PassOut where
  /-- Row, column and drained code. -/
  outs  : List (Nat × Nat × Nat)
  evA   : Ev
  evB   : Ev
  wloss : Nat
  drainSat : Nat
  drainFlush : Nat
  stall : Nat
  excess  : List (Nat × Nat × Nat)
  overB : List (Nat × Nat × Nat)
  /-- The residue checks, and the comparisons of the duplicated drain, that failed (R429, R431). -/
  bad   : List Residue
deriving DecidableEq, Repr

def entryAt (l : List (Nat × Nat)) (t : Nat) : Option Nat := (l.find? (·.1 = t)).map (·.2)

/-- The corrections of K-block m of a cell, in ascending contraction index (R81, R109). -/
def cellCorrs (la lb : List (Nat × Nat)) (m : Nat) : List Corr :=
  if la.isEmpty && lb.isEmpty then []
  else (List.range 32).filterMap fun j =>
    let t := 32 * m + j
    let a := entryAt la t
    let b := entryAt lb t
    if a.isSome || b.isSome then some ⟨t, a, b⟩ else none

/-- The errors of a pass in a cell, and what they add to K-block m. -/
def cellErrs (n : Nature) (i j : Nat) : List Residue := n.errors.filter fun r => r.row = i && r.col = j
def errAt (l : List Residue) (m : Nat) : Int := ((l.filter (·.kblock = m)).map (·.delta)).foldl (· + ·) 0

/-- A floating cell over its K-blocks, with the K-blocks whose checks failed (R429). -/
def cellRun (fa fb : Fmt) (cls : Cls) (la lb : List (Nat × Nat)) (errs : List Residue) :
    Nat → List KBlk → List KBlk → Cell × List Nat → Cell × List Nat
  | m, ka :: as, kb :: bs, c =>
    let r := c.1.commit (c.1.kblock ka kb fa fb cls (cellCorrs la lb m)) (errAt errs m)
    cellRun fa fb cls la lb errs (m + 1) as bs (r.1, if r.2 then c.2 else m :: c.2)
  | _, _, _, c => c

/-- An integer cell over its K-blocks (R80). -/
def intRun (fa fb : IntFmt) (errs : List Residue) :
    Nat → List KBlk → List KBlk → Chk × List Nat → Chk × List Nat
  | m, ka :: as, kb :: bs, c =>
    let v := (c.1.add (intBlock ka kb fa fb)).err (errAt errs m)
    intRun fa fb errs (m + 1) as bs (if v.ok then (v, c.2) else (c.1, m :: c.2))
  | _, _, _, c => c

/-- An output after the drain (R431): with an error of the conversion it differs from its duplicate. -/
def drained (w kb : Nat) (errs : List Residue) (v : Nat) : Nat × Bool :=
  let l := errs.filter (kb ≤ ·.kblock)
  let x := wrapInt w ((v : Int) + (l.map (·.delta)).foldl (· + ·) 0)
  (x, !l.isEmpty && x != v % 2 ^ w)

/-- The failed checks of a cell: of its K-blocks, and of its drain. -/
def failedChecks (kb : Nat) (errs : List Residue) (bad : List Nat) (drain : Bool) : List Residue :=
  errs.filter fun r => bad.contains r.kblock || (drain && kb ≤ r.kblock)

/-- The bfloat16 subnormals of an operand's side list, which the array flushes as it reads them (R85). -/
def Operand.listFlush (o : Operand) (cls : Cls) : Nat :=
  ((o.lifts.flatMap (·.2)).filter fun e => (bf16Factor cls e.2).2).length

/-- A floating pass (R72 to R91). -/
def floatPass (a b : Operand) (cls : Cls) (n : Nature) : PassOut :=
  let kb := (a.blocks.map List.length).foldl max 0
  let cells := (a.banks.zip (a.blocks.zip a.lifts)).flatMap fun x =>
    (b.banks.zip (b.blocks.zip b.lifts)).map fun y =>
      let errs := cellErrs n x.1 y.1
      let c := cellRun a.fmt b.fmt cls x.2.2.2 y.2.2.2 errs 0 x.2.1 y.2.1 ({}, [])
      let d := c.1.drain cls
      let o := drained 32 kb errs d.1
      (x.1, y.1, c.1, (o.1, d.2), failedChecks kb errs c.2 o.2)
  let fl (o : Operand) : Nat := (o.blocks.map fun l => (l.map fun k => k.flushes o.fmt cls).sum).sum + o.listFlush cls
  { outs := cells.map fun c => (c.1, c.2.1, c.2.2.2.1.1)
    evA := a.ev, evB := b.ev
    wloss := (cells.map fun c => c.2.2.1.win.loss).sum
    drainSat := (cells.map fun c => c.2.2.2.1.2.sat).sum
    drainFlush := (cells.map fun c => c.2.2.2.1.2.flush).sum + fl a + fl b + a.overFlush + b.overFlush
    stall := a.stall + b.stall
    excess := a.excess, overB := b.excess
    bad := cells.flatMap fun c => c.2.2.2.2 }

/-- The requantiser entry of an output column: multiplier and shift (R54, R92). -/
def rqEntry (s : State) (k : Nat) (g : GemmPar) (j : Nat) : Int × Nat :=
  let i := if g.rqEntries = 1 then 0 else g.rqFirst + j
  let v := readNat s (cbAddr k (g.rqTable + 8 * i)) 8
  (sext 32 (bitsOf v 31 0), bitsOf v 37 32)

/-- An integer pass (R80, R55). The counters of its operands are reported only (R99). -/
def intPass (s : State) (k : Nat) (g : GemmPar) (a b : Operand) (n : Nature) : PassOut :=
  let ia := (g.fA.int).getD ⟨8, true⟩
  let ib := (g.fB.int).getD ⟨8, true⟩
  let io := (g.fD.int).getD ⟨32, true⟩
  let cells := (a.banks.zip a.blocks).flatMap fun x => (b.banks.zip b.blocks).map fun y =>
    let errs := cellErrs n x.1 y.1
    let acc := intRun ia ib errs 0 x.2 y.2 (Chk.of 0, [])
    let e := rqEntry s k g y.1
    let r := requantise io acc.1.val e.1 e.2
    let o := drained io.bits g.kBlocks errs (wrapInt io.bits r.1)
    (x.1, y.1, o.1, b2n r.2, failedChecks g.kBlocks errs acc.2 o.2)
  { outs := cells.map fun c => (c.1, c.2.1, c.2.2.1)
    evA := a.ev, evB := b.ev, wloss := 0
    drainSat := (cells.map fun c => c.2.2.2.1).sum, drainFlush := 0, stall := 0, excess := [], overB := []
    bad := cells.flatMap fun c => c.2.2.2.2 }

/-- Active rows and columns (R87, R88). -/
def activeRows (g : GemmPar) : List Nat := bitsSet 128 g.rowMask

/-- An operand of the original pass, read from the core buffer. -/
def bufferOperand (s : State) (k : Nat) (cls : Cls) (f : Fmt) (el sc : Region) (banks : List Nat) (kb p0 m0 : Nat) :
    Operand :=
  mkOperand f cls kb banks (fun b m => streamKBlk s k f el sc b p0 m0 m)
    (fun b m => streamEv s k el f.elemBits b (p0 + b + 32 * m))
    (fun b => if isIntFmt f then [] else streamLifts s k el f.elemBits b p0 (32 * kb))

/-- An overflowed value written into its position: into the word that holds it, or into the waiting fill that has it. -/
def putOver (s : State) (k : Nat) (el : Region) (w b p v : Nat) : State :=
  match holder el w b p (getCore s k).log, waitingRow el w b p (getCore s k).waiting with
  | .lap, some o | .never, some o =>
    let put (x : FillRow) : FillRow := if x.bank = b then { x with codes := setNth x.codes (p - x.pos) v } else x
    modCore s k fun c => { c with waiting := c.waiting.map fun f => if f.id = o.1.id then { f with rows := f.rows.map put } else f }
  | _, _ => putElem s k el w b p v

/-- The overflowed values written into the buffer copy of an operand (R110). -/
def writeOver (s : State) (k : Nat) (el : Region) (w p0 : Nat) (l : List (Nat × Nat × Nat)) : State :=
  l.foldl (fun s x => putOver s k el w x.1 (p0 + x.1 + x.2.1) x.2.2) s

/-- Outputs written into the output region (R67). -/
def writeOuts (s : State) (k : Nat) (g : GemmPar) (l : List (Nat × Nat × Nat)) : State :=
  let w := g.fD.elemBits
  let s := l.foldl (fun s x => putElem s k g.out w x.2.1 x.1 x.2.2) s
  noteBufWrite s k (l.map fun x => (posBit g.out w x.2.1 x.1 / 8, if w < 8 then 1 else w / 8))

def runPass (s : State) (k : Nat) (g : GemmPar) (a b : Operand) (cls : Cls) (n : Nature) : PassOut :=
  if isIntFmt g.fA then intPass s k g a b n else floatPass a b cls n

/-- A list without the entries that repeat the one before by a key. -/
def dedupBy {α : Type} (key : α → Option (Nat × Nat)) : List α → List α
  | a :: b :: l => if key a = key b then dedupBy key (b :: l) else a :: dedupBy key (b :: l)
  | l => l

/-- The fill rows behind an operand part: of every element and of every scale entry the tile reads; none where something was
written otherwise (R121). Neighbours written by one fill row appear once. -/
def partOwners (s : State) (k : Nat) (f : Fmt) (el sc : Region) (banks : List Nat) (kb p0 m0 : Nat) :
    List (Option (FillRec × FillRow)) :=
  let w := f.elemBits
  let log := (getCore s k).log
  let elems := banks.flatMap fun b => (List.range (32 * kb)).map fun t => ownerRow s k el w b (p0 + b + t)
  let scale (b i : Nat) : Bool :=
    (scaleHolder el sc w b i log).isSome || (waitingScale el sc w b i (getCore s k).waiting).isSome
  let scales : List (Option (FillRec × FillRow)) :=
    if f.isX && banks.any fun b => (List.range kb).any fun m => !scale b (m0 + m) then [none] else []
  dedupBy (fun o => o.map fun x => (x.1.id, x.2.bank)) (elems ++ scales)

/-- Whether a hold is still there. -/
def holdLive (s : State) (k id : Nat) : Bool := (getCluster s (slotCluster k)).holds.any (·.id = id)

/-- R121 condition 2: written only by fills that asked for hold-back and whose source is still held, none of them a copy from an
output region. -/
def partHeld (s : State) (k : Nat) (l : List (Option (FillRec × FillRow))) : Bool :=
  l.all fun o => match o with
    | some (f, _) => f.asked && f.srcKind != 2 && (match f.hold with | some i => holdLive s k i | none => false)
    | none => false

/-- R121 condition 4: every part can be filled again under its original parameters. -/
def partRefills (s : State) (k : Nat) (l : List (Option (FillRec × FillRow))) : Bool :=
  l.all fun o => match o with
    | some (f, _) => f.srcKind == 0 || (f.srcKind == 3 && (match f.hold with | some i => holdLive s k i | none => false))
    | none => false

/-- An operand of a repeat: the fills that wrote its parts run again at the rung (R122), each position taken from its own. -/
def repeatOperand (s : State) (k : Nat) (cls : Cls) (f f' : Fmt) (el : Region) (banks : List Nat) (kb p0 : Nat)
    (rows : List (Nat × FillRow)) : Operand :=
  let row (b p : Nat) : Option FillRow :=
    (ownerRow s k el f.elemBits b p).bind fun o => (rows.find? fun y => y.1 = o.1.id && y.2.bank = b).map (·.2)
  mkOperand f' cls kb banks
    (fun b m =>
      let p := p0 + b + 32 * m
      { scale := match row b p with
          | some x => if f'.isX then nth 0 x.scales ((p - x.pos) / 32) else 0x7F
          | none => 0
        codes := (List.range 32).map fun j => match row b (p + j) with
          | some x => nth 0 x.codes (p + j - x.pos)
          | none => 0 })
    (fun b m => evSum ((List.range 32).map fun j =>
      let p := p0 + b + 32 * m + j
      match row b p with | some x => x.evAt (p - x.pos) | none => {}))
    (fun b => (List.range (32 * kb)).flatMap fun t =>
      match row b (p0 + b + t) with
      | some x => (x.lifted.filter fun e => x.k0 ≤ e.k && x.pos + (e.k - x.k0) = p0 + b + t).map fun e => (t, e.val)
      | none => [])

/-- The repeat area's regions (R123): elements and scales of A and of B. -/
def repeatElem (sideB : Bool) : Region := ⟨if sideB then 3840 else 3584, 224⟩
def repeatScale (sideB : Bool) : Region := ⟨if sideB then 4064 else 3808, 32⟩

/-- An operand of a repeat fed through its part of the repeat area as rings from stream origin 0 (R60, R66, R123): the lines hold
the last lap in the end. -/
def feedRepeat (s : State) (k : Nat) (sideB : Bool) (o : Operand) : State :=
  let w := o.fmt.elemBits
  let el := repeatElem sideB
  let sc := repeatScale sideB
  let s := (o.banks.zip o.blocks).foldl (fun s x =>
    let codes := x.2.flatMap (·.codes)
    let cut := codes.length - ringCap el w
    let s := putElems s k el w x.1 (x.1 + cut) (codes.drop cut)
    if !o.fmt.isX then s
    else
      let l := x.2.map (·.scale)
      let cut := l.length - 2 * sc.len
      putElems s k sc 16 x.1 cut (l.drop cut)) s
  noteBufWrite s k [(el.line * 512, el.len * 512), (sc.line * 512, sc.len * 512)]

/-! ## Diagonal mode (R94 to R97) -/

/-- A factor of a diagonal product: its value with the sign of a zero kept (R42, R43); whether it was flushed. -/
def diagVal (b : KBlk) (f : Fmt) (cls : Cls) (j : Nat) : FV × Bool :=
  if f = .bf16 then fmtBF16.read cls (nth 0 b.codes j)
  else match b.factor f cls j with
    | (.nan, b) => (.nan, b)
    | (.inf s, b) => (.inf s, b)
    | (.int i e q, b) => (.ofIntE i (e - q), b)

/-- A diagonal result rounded to binary32: an infinity stays one in every class (R96), where a conversion follows R39. -/
def diagCode (cls : Cls) : FV → Nat × Ev
  | .nan => (0x7FC00000, {})
  | .inf s => ((fmtF32.encode .train (.inf s)).1, {})
  | v => fmtF32.encode cls v

/-- A diagonal result with an error of its significand path (R427, R428), and whether its residue fits it (DEDUCED, log entry 115). -/
def diagWrite (cls : Cls) (v : FV) (x : Sig) (err : Int) : (Nat × Ev) × Bool :=
  match x with
  | none => (diagCode cls v, true)
  | some x =>
    let r := sigRound fmtF32 x
    let c := r.1.err err
    (if err = 0 then diagCode cls v else diagCode cls (.ofIntE c.val r.2), c.ok)

/-- One diagonal element: the exact product, or product plus c, rounded once; NaN and infinity as IEEE 754 has them. -/
def diagElem (f g : Fmt) (cls : Cls) (a b : KBlk) (j : Nat) (c : Option Nat) (err : Int) : (Nat × Ev) × Bool :=
  let x := diagVal a f cls j
  let y := diagVal b g cls j
  let p := fvMul x.1 y.1
  let q := sigMul (sigOf x.1) (sigOf y.1)
  let fl : Nat := b2n x.2 + b2n y.2
  match c with
  | none =>
    let r := diagWrite cls p q err
    ((r.1.1, r.1.2.add { flush := fl }), r.2)
  | some c =>
    let z := fmtF32.read cls c
    let r := diagWrite cls (fvAdd p z.1) (sigAdd q (sigOf z.1)) err
    ((r.1.1, r.1.2.add { flush := fl + b2n z.2 }), r.2)

/-- Where element e lies: bank and stream position (R95). -/
def diagBank (e : Nat) : Nat := e / 32 % 128
def diagPos (e : Nat) : Nat := 32 * (e / 4096) + e % 32

/-- K-block m of a diagonal operand. -/
def diagBlk (s : State) (k : Nat) (f : Fmt) (el sc : Region) (m : Nat) : KBlk :=
  let b := m % 128
  let i := m / 128
  { scale := if f.isX then streamScale s k el sc f.elemBits b i else 0x7F
    codes := (List.range 32).map fun j => streamElem s k el f.elemBits b (32 * i + j) }

/-- An input position of a DIAG_EW that is not written yet (R66). -/
def diagMissing (s : State) (k : Nat) (d : DiagPar) : Bool :=
  let fa := (arrayFmt d.fmtA).getD .x4
  let fb := (arrayFmt d.fmtB).getD .x4
  (List.range d.n).any fun e =>
    let b := diagBank e
    let p := diagPos e
    notWritten s k d.a fa.elemBits b p || notWritten s k d.b fb.elemBits b p || (d.fma && notWritten s k d.c 32 b p)

/-- What a DIAG_EW gives: (element, code), the events, and the errors that a check has found. -/
structure DiagOut where
  outs : List (Nat × Nat)
  ev   : Ev
  bad  : List Residue
deriving DecidableEq, Repr

/-- The errors of the data path in element e's cell and position. -/
def diagErrs (l : List Residue) (e : Nat) : List Residue :=
  l.filter fun r => !r.outlier && r.row = diagBank e && r.col = diagPos e

/-- All results of a DIAG_EW. -/
def diagRun (s : State) (k : Nat) (cls : Cls) (d : DiagPar) (errs : List Residue) : DiagOut :=
  let fa := (arrayFmt d.fmtA).getD .x4
  let fb := (arrayFmt d.fmtB).getD .x4
  let r := (List.range (d.n / 32)).flatMap fun m =>
    let a := diagBlk s k fa d.a d.aScale m
    let b := diagBlk s k fb d.b d.bScale m
    (List.range 32).map fun j =>
      let e := 32 * m + j
      let c := if d.fma then some (streamElem s k d.c 32 (diagBank e) (diagPos e)) else none
      (e, diagElem fa fb cls a b j c ((diagErrs errs e).map (·.delta)).sum)
  { outs := r.map fun x => (x.1, x.2.1.1), ev := evSum (r.map (·.2.1.2))
    bad := (r.filter fun x => !x.2.2).flatMap fun x => diagErrs errs x.1 }

end Sys2Proof.Machine
end

