-- ==== Sys2Proof/Machine/CollPar.lean ====
section
/-! DEFINITION. The payloads and tables of the collective commands and their static checks (R275, R339, R340, R349 to R366). -/

namespace Sys2Proof.Machine

/-! ## CRC-32 (R543) -/

def crcStep (r : Nat) : Nat := if r % 2 = 1 then (r / 2) ^^^ 0xEDB88320 else r / 2

def crcByte (r : Nat) (b : Byte) : Nat := crcStep (crcStep (crcStep (crcStep (crcStep (crcStep (crcStep (crcStep (r ^^^ b.toNat))))))))

/-- The frame check sequence of IEEE 802.3 over bytes in ascending order. -/
def crc32 (l : List Byte) : Nat := l.foldl crcByte 0xFFFFFFFF ^^^ 0xFFFFFFFF

/-! ## Payload -/

def opRs : Nat := 0x80
def opAg : Nat := 0x81
def opBx : Nat := 0x82
def opRl : Nat := 0x83

/-- The collective payload (R275, R340 and the forms' fields). -/
structure CollPar where
  table    : Nat
  members  : Nat
  self     : Nat
  id       : Nat
  wait     : Nat
  release  : Nat
  /-- src_base, send_base or perm_base. -/
  src      : Nat
  fmt      : Nat
  ordered  : Bool
  ledgerEn : Bool
  layer    : Nat
  unit     : Nat
  retain   : Nat
  key      : Nat
  words    : Nat
  xtab     : Nat
  entries  : Nat
  stage    : Nat
  stageLen : Nat
deriving DecidableEq, Repr

def CollPar.ofDesc (d : Slot) : CollPar :=
  { table := fld d 511 464, members := fld d 463 448 + 1, self := fld d 447 432, id := fld d 431 400
    wait := fld d 399 384, release := fld d 383 352, src := fld d 351 304, fmt := fld d 303 302
    ordered := fld d 301 301 == 1, ledgerEn := fld d 300 300 == 1, layer := fld d 299 288
    unit := fld d 303 292 + 1, retain := fld d 291 290, key := fld d 289 258
    words := fld d 303 288, xtab := fld d 287 240, entries := fld d 303 280, stage := fld d 279 232
    stageLen := fld d 231 192 }

/-- Bytes of a reduce-scatter element. -/
def collSize (p : CollPar) : Nat := if p.fmt = 1 then 2 else 4

/-- The memory-side addition of coll_fmt. -/
def collOp (p : CollPar) : Nat := p.fmt + 1

/-- The member table as it lies in memory (R339). -/
def readTable (s : State) (p : CollPar) : List Member :=
  (List.range p.members).map fun i =>
    let w := readNat s (p.table + 16 * i) 16
    { chip := bitsOf w 127 112, base := bitsOf w 111 64, count := bitsOf w 39 0 }

def tableReserved (s : State) (p : CollPar) (i : Nat) : Nat := bitsOf (readNat s (p.table + 16 * i) 16) 63 40

/-- The permutation table (R365). -/
def readPerms (s : State) (p : CollPar) : List PermEntry :=
  (List.range p.entries).map fun i =>
    let w := readNat s (p.src + 32 * i) 32
    { dst := bitsOf w 255 240, srcOff := bitsOf w 239 192, dstOff := bitsOf w 191 144, bytes := bitsOf w 143 104 }

def permReserved (s : State) (p : CollPar) (i : Nat) : Nat := bitsOf (readNat s (p.src + 32 * i) 32) 103 0

/-- off_i: the counts of the entries before i. -/
def offOf (l : List Member) (i : Nat) : Nat := (l.take i).foldl (fun a m => a + m.count) 0

def totalCount (l : List Member) : Nat := offOf l l.length

def dummyMember : Member := { chip := 0, base := 0, count := 0 }

/-- The staging a relay needs (R365). -/
def stagingNeed (l : List PermEntry) : Nat := l.foldl (fun a e => a + ceilDiv e.bytes 64 * 64) 0

def sumList (l : List Nat) : Nat := l.foldl (· + ·) 0

/-- Bytes of a token (R359). -/
def tokenBytes (p : CollPar) : Nat := 4 * p.words

/-- The exchange table's send counts as they lie in memory. -/
def readSends (s : State) (p : CollPar) : List Nat :=
  (List.range p.members).map fun j => bitsOf (readNat s (p.xtab + 32 * j) 32) 255 224

/-! ## Allocations of the baton pool (R363, R364) -/

def heatAllocs (s : State) (h : Nat) : List Alloc := s.allocs.filter (·.heat = h)

/-- Released allocations dropped as far as no older one is live, and the live bytes shown (0x2510:05, R364). -/
def settlePool (s : State) (h : Nat) : State :=
  let keep := (heatAllocs s h).dropWhile (·.freed)
  let s := { s with allocs := (s.allocs.filter (·.heat != h)) ++ keep }
  dset s (hColl h) 5 (sumList ((keep.filter (!·.freed)).map (·.bytes)))

/-- The allocation that a command releases as it completes, whatever its status (R364). -/
def releaseAlloc (s : State) (h : Nat) (p : CollPar) : State :=
  if p.release = 0 then s
  else settlePool { s with
    allocs := s.allocs.map fun a => if a.heat = h && a.coll = p.release then { a with freed := true } else a } h

/-! ## Static checks (R340) -/

/-- The tables are read where they lie inside the heat's ranges; elsewhere check 6 or 7 fails. -/
def tableThere (s : State) (h : Nat) (p : CollPar) : Bool := p.table % 16 = 0 && inHeat s h p.table (16 * p.members)
def permsThere (s : State) (h : Nat) (p : CollPar) : Bool := p.src % 32 = 0 && inHeat s h p.src (32 * p.entries)

/-- Bits of the member table that fail check 2, 3 or 7, counted from its base. -/
def tableFaults (s : State) (h check : Nat) (d : Slot) : List Nat :=
  let o := dOpcode d
  let p := CollPar.ofDesc d
  if !tableThere s h p then []
  else
    let l := readTable s p
    (List.range l.length).flatMap fun i =>
      let m := nth dummyMember l i
      let repeated := ((List.range l.length).zip l).any fun x => x.1 != i && x.2.chip = m.chip
      match check with
      | 2 => if tableReserved s p i != 0 then [128 * i + 40] else []
      | 3 =>
        (if m.chip = 0 || m.chip = 0xFFFF || repeated || (i = p.self && m.chip != dget s 0x2320 8) then [128 * i + 112] else []) ++
        (if o = opRs && m.count > 2 ^ 32 - 32 then [128 * i] else []) ++
        (if o = opRs && m.base % 64 != 0 then [128 * i + 64] else []) ++
        (if (o = opBx || o = opRl) && m.count != 0 then [128 * i] else []) ++
        (if (o = opBx || o = opRl) && m.base != 0 then [128 * i + 64] else [])
      | 7 =>
        let t := heatTag s h
        if i != p.self && !(t != 0 && s.plans.any fun x => x.plan.tag = t && !x.plan.transit && x.plan.routes.any (·.dst = m.chip))
        then [128 * i + 112] else []
      | _ => []

/-- Bits of the permutation table that fail check 2 or 3. -/
def permFaults (s : State) (h check : Nat) (d : Slot) : List Nat :=
  let p := CollPar.ofDesc d
  if dOpcode d != opRl || !permsThere s h p then []
  else
    let l := readPerms s p
    ((List.range l.length).zip l).flatMap fun x =>
      match check with
      | 2 => if permReserved s p x.1 != 0 then [256 * x.1] else []
      | 3 => (if x.2.dst ≥ p.members then [256 * x.1 + 240] else []) ++ (if x.2.bytes = 0 then [256 * x.1 + 104] else [])
      | _ => []

/-- The memory a collective reads and writes on this device: field, address, bytes, and whether it is written. A send buffer is as
long as the exchange table says when the command reaches the head (DEDUCED, log entry 104). -/
def collSpans (s : State) (d : Slot) (l : List Member) (perms : List PermEntry) : List (Nat × Nat × Nat × Bool) :=
  let o := dOpcode d
  let p := CollPar.ofDesc d
  let me := nth dummyMember l p.self
  (464, p.table, 16 * p.members, false) ::
  (if o = opRs then [(304, p.src, totalCount l * collSize p, false), (464, me.base, me.count * collSize p, true)]
  else if o = opAg then [(304, p.src, me.count * p.unit, false), (464, me.base, totalCount l * p.unit, true)]
  else if o = opBx then
    [(240, p.xtab, 32 * p.members, true), (304, p.src, sumList (readSends s p) * tokenBytes p, false)]
  else
    [(304, p.src, 32 * p.entries, false), (232, p.stage, p.stageLen, true)] ++
      perms.flatMap fun e =>
        (304, e.srcOff, e.bytes, false) :: (if e.dst = p.self then [(304, e.dstOff, e.bytes, true)] else []))

/-- Whether a range is stack memory whole. -/
def stackRange (s : State) (a n : Nat) : Bool := a + n ≤ stackTop s

/-- The lowest failing field of checks 2, 3, 5, 6, 7 or 8. -/
def collStatic (s : State) (h check : Nat) (d : Slot) : Option Nat :=
  let o := dOpcode d
  let p := CollPar.ofDesc d
  let low (l : List (Bool × Nat)) : Option Nat :=
    (l.filter (·.1)).foldl (fun (b : Option Nat) x => match b with | none => some x.2 | some y => some (min x.2 y)) none
  let l := if tableThere s h p then readTable s p else []
  let perms := if permsThere s h p then readPerms s p else []
  let mem := [(!(tableFaults s h check d).isEmpty, 464), (!(permFaults s h check d).isEmpty, 304)]
  match check with
  | 2 => low (mem ++ [
      (o = opRs && fld d 287 160 != 0, 160), (o = opRs && p.fmt = 3, 302),
      (o = opAg && fld d 257 160 != 0, 160), (o = opAg && p.retain = 3, 290),
      (o = opBx && fld d 239 160 != 0, 160), (o = opRl && fld d 191 160 != 0, 160)])
  | 3 =>
    let me := nth dummyMember l p.self
    low (mem ++ [
      (p.table % 16 != 0, 464), (p.members = 65536, 448), (p.self ≥ p.members, 432), (p.id = 0, 400),
      (o = opRs && p.src % 64 != 0, 304),
      (o = opRs && tableThere s h p && p.self < p.members && p.src + offOf l p.self * collSize p != me.base, 304),
      (o = opBx && p.words = 0, 288), (o = opBx && p.xtab % 32 != 0, 240),
      (o = opRl && p.src % 32 != 0, 304), (o = opRl && p.stage % 64 != 0, 232)])
  | 6 => low ((collSpans s d l perms).map fun x => (!stackRange s x.2.1 x.2.2.1, x.1))
  | 7 =>
    low (mem ++ (collSpans s d l perms).map (fun x => (!inHeat s h x.2.1 x.2.2.1, x.1)) ++
      [(o = opBx && !inHeat s h (dget s (hColl h) 1) (dget s (hColl h) 2), 0xFFFFFFFF)])
  | 8 =>
    if o != opRl then none
    else
      low [(perms.any fun e => overlaps p.stage p.stageLen e.srcOff e.bytes ||
        (e.dst = p.self && overlaps p.stage p.stageLen e.dstOff e.bytes), 232)]
  | _ => none

/-- word_b of a failing collective: the bit of the table at fault, where the field named holds its address (R544). -/
def collMemBit (s : State) (h st pos : Nat) (d : Slot) : Nat :=
  let check := if st = stReserved then 2 else if st = stFieldRange then 3 else if st = stOwnership then 7 else 0
  let p := CollPar.ofDesc d
  let l := if pos = 464 && tableThere s h p then tableFaults s h check d
    else if pos = 304 && permsThere s h p then permFaults s h check d else []
  (l.foldl (fun (b : Option Nat) x => match b with | none => some x | some y => some (min x y)) none).getD 0

end Sys2Proof.Machine
end

