-- ==== Sys2Proof/Machine/Checks.lean ====
section
/-! DEFINITION. Validation of a command: the static checks 1 to 8 and their field at fault (R257, R544). -/

namespace Sys2Proof.Machine

/-- The lowest position of a list of failing fields. -/
def lowest : List Nat → Option Nat
  | [] => none
  | a :: l => match lowest l with | none => some a | some b => some (min a b)

/-- Positions whose condition holds. -/
def failing (l : List (Bool × Nat)) : Option Nat := lowest ((l.filter (·.1)).map (·.2))

/-- Whether an opcode is one of R255's. -/
def knownOpcode (o : Nat) : Bool :=
  [0x00, 0x01, 0x20, 0x21, 0x40, 0x60, 0x61, 0x80, 0x81, 0x82, 0x83, 0xA0, 0xA1, 0xA2, 0xA3,
    0xC0, 0xC1, 0xC2, 0xC3, 0xC4, 0xC5, 0xC6, 0xC7].contains o

def opGemm : Nat := 0x20
def opDiag : Nat := 0x21
def opVec : Nat := 0x40
def opCopy : Nat := 0x60
def opStream : Nat := 0x61
def opGradOpen : Nat := 0xA0
def opCoef : Nat := 0xA1
def opUpdate : Nat := 0xA2
def opNorm : Nat := 0xA3
def opPolicy : Nat := 0xC0
def opStepEnd : Nat := 0xC1
def opLayer : Nat := 0xC2
def opProg : Nat := 0xC3
def opCache : Nat := 0xC4
def opOrder : Nat := 0xC5
def opQueue : Nat := 0xC6
def opTest : Nat := 0xC7

/-- Position in the descriptor plus extension of extension bit b. -/
def extPos (b : Nat) : Nat := 512 + b

/-- Check 1. -/
def check1 (cls : Nat) (d : Slot) : Option Nat :=
  let o := dOpcode d
  failing [(!knownOpcode o || (dClass d != 0 && dClass d != cls), 8), (dExt d && dClass d != 3, 6)]

/-- The number of reserved payload bits of an opcode: bits 160 up to this one are reserved. -/
def reservedTop (o : Nat) : Nat :=
  match o with
  | 0x00 => 512
  | 0x01 => 462
  | 0x20 => 167
  | 0x21 => 347
  | 0x40 => 225
  | 0x60 | 0x61 => 167
  | 0xA0 => 410
  | 0xA1 => 444
  | 0xA2 => 168
  | 0xA3 => 436
  | 0xC0 => 452
  | 0xC1 => 480
  | 0xC2 => 476
  | 0xC3 => 411
  | 0xC4 => 416
  | 0xC5 => 373
  | 0xC6 => 380
  | 0xC7 => 448
  | _ => 160

def isDma (o : Nat) : Bool := o = opCopy || o = opStream
def isColl (o : Nat) : Bool := 0x80 ≤ o && o ≤ 0x83

/-- Check 2: reserved bits and reserved codes. -/
def check2 (s : State) (h : Nat) (d e : Slot) (hasExt : Bool) : Option Nat :=
  let o := dOpcode d
  let top := reservedTop o
  let p := DmaPar.ofDesc d e
  let dma := isDma o
  if isColl o then
    match failing [(fld d 3 0 != 0, 0)], collStatic s h 2 d with
    | some a, _ => some a
    | none, r => r
  else failing [
    (fld d 3 0 != 0, 0),
    (top > 160 && fld d (top - 1) 160 != 0, 160),
    (dma && p.gradKind = 3, 240),
    (dma && p.srcFmt ≥ 18, 267),
    (dma && p.dstFmt ≥ 18, 262),
    (dma && p.srcKind = 2 && bitsOf p.src 5 0 != 0, 448),
    (dma && p.dstKind = 1 && bitsOf p.dst 5 0 != 0, 384),
    (dma && hasExt && fld e 12 0 != 0, extPos 0),
    (dma && hasExt && fld e 271 256 != 0, extPos 256),
    (dma && hasExt && fld e 359 352 != 0, extPos 352),
    (dma && hasExt && fld e 380 376 != 0, extPos 376)]

/-- Range rules of GEMM_TILE (R98, R92, R56). -/
def gemmRange (d : Slot) : Option Nat :=
  let g := GemmPar.ofDesc d
  let fa := arrayFmt g.fmtA
  let fb := arrayFmt g.fmtB
  let fd := drainFmt g.drain
  let isX (f : Option Fmt) : Bool := match f with | some f => f.isX | none => false
  let int := match fd with | some f => isIntFmt f | none => false
  failing [
    (fa.isNone, 237), (fb.isNone, 234), (fd.isNone, 231),
    (!g.aElem.fits, 360), (!g.bElem.fits, 336),
    (isX fa && !g.aScale.fits, 312), (isX fb && !g.bScale.fits, 288), (!g.out.fits, 264),
    (int && g.rqEntries = 1 && g.rqFirst != 0, 185),
    (int && g.rqEntries > 1 && g.rqFirst + g.cols > g.rqEntries, 185),
    (int && g.rqTable + 8 * g.rqEntries > coreBytes, 199)]

def diagRange (d : Slot) : Option Nat :=
  let p := DiagPar.ofDesc d
  failing [
    (p.fmtA > 2, 351), (p.fmtB > 2, 348),
    (!p.a.fits, 488), (!p.b.fits, 464), (p.fmtA < 2 && !p.aScale.fits, 440), (p.fmtB < 2 && !p.bScale.fits, 416),
    (p.fma && !p.c.fits, 392), (!p.r.fits, 368)]

/-- The field that names the target format: dst_fmt, or target_rung. -/
def targetPos (p : DmaPar) : Nat := if p.rung = 0 || p.memOp != 0 then 262 else extPos 161

/-- Range rules of the DMA payload and extension (R118, R228, R266 to R270). -/
def dmaRange (s : State) (h : Nat) (d e : Slot) (hasExt : Bool) : Option Nat :=
  let p := DmaPar.ofDesc d e
  let str := dOpcode d = opStream
  let t := dmaTarget s h p
  let sf := resolveFmt s h p.srcFmt
  failing [
    (p.rows = 0, 360), (p.rowLen = 0, 336),
    (if str then p.srcKind != 3 else p.srcKind = 1 || p.srcKind = 3, 260),
    (p.dstKind > 1, 258), (p.memOp = 7, 255),
    (p.memOp != 0 && p.dstKind = 1, 255),
    (p.dstKind = 0 && gChip p.dst != 0 && gChip p.dst != 0xFFFF && gChip p.dst != dget s 0x2320 8 && p.gradKind != 0, 240),
    (p.memOp = 4 && p.rowLen % 8 != 0, 336),
    (str && p.srcFmt != 8 && p.srcFmt != 9, 267),
    (p.dstKind = 1 && (optX t || optMx t) && p.streamPos % 32 != 0, 198),
    (p.dstKind = 1 && p.bankFirst + p.rows > 128, 191),
    (p.srcKind = 2 && p.rows > 128, 360), (p.srcKind = 2 && p.rowLen > 128, 336),
    (p.dstKind = 1 && !(rgElem p.dst).fits, 414),
    (p.dstKind = 1 && optX t && !(rgScale p.dst).fits, 390),
    (p.srcKind = 2 && !(rgElem p.src).fits, 478),
    ((optMx sf || optMx t) && !hasExt, 6),
    (p.rung > 5, extPos 161), (p.rot > 5, extPos 158),
    (p.holdBack && p.consumers = 0, extPos 134),
    (p.pfEnable && (p.pfAhead = 0 || p.pfAhead > 4096), extPos 360),
    (p.pfEnable && p.pfRuns = 0, extPos 320),
    (p.pfEnable && p.pfStride % 256 != 0, extPos 288),
    (p.pfEnable && p.pfLen = 0, extPos 272)]

/-- Check 3. -/
def check3 (s : State) (h : Nat) (d e : Slot) (hasExt : Bool) : Option Nat :=
  let o := dOpcode d
  let time := failing [(dNb d && dPhase d ≥ lapLen s, 16)]
  let own := match o with
    | 0x20 => gemmRange d
    | 0x21 => diagRange d
    | 0x60 | 0x61 => dmaRange s h d e hasExt
    | 0xA0 => failing [(fld d 457 426 = 0 || fld d 457 426 > 2 ^ 32 - 32, 426)]
    | 0xA1 => failing [(fld d 511 464 % 16 != 0, 464), (fld d 463 454 + fld d 453 444 + 1 > 1024, 444)]
    | 0xA2 => failing [(fld d 373 342 = 0 || fld d 373 342 > 2 ^ 32 - 32, 342),
        (fld d 341 294 = 0, 294), (fld d 341 294 < fld d 373 342, 294),
        ((Coef.ofRow (tabGet coefDefault (getHeat s h).coef (fld d 499 490))).sparse && fld d 292 280 + 1 > 8192, 280)]
    | 0xA3 => failing [((normWindow (fld d 499 436)).isNone, 436)]
    | 0xC0 => failing [(fld d 511 464 % 16 != 0, 464), (fld d 463 458 + fld d 457 452 + 1 > 64, 452)]
    | 0xC2 => failing [(fld d 499 498 = 3, 498)]
    | 0xC3 => failing [(fld d 448 435 + fld d 462 449 + 1 > 16384, 435), (!(regionAt d 411).fits, 411)]
    | 0xC4 => failing [(fld d 511 464 % 256 != 0, 464), (fld d 463 416 % 256 != 0, 416)]
    | 0xC5 => failing [(fld d 511 464 % 64 != 0, 464), (fld d 437 422 = 0xFFFF, 422), (fld d 420 373 % 64 != 0, 373)]
    | 0xC6 => failing [
        (fld d 492 490 = 0 || fld d 492 490 = 7, 490),
        (fld d 489 480 / 9 != fld d 511 494 / 4096 || fld d 489 480 % 9 = 8, 480),
        (fld d 479 476 > 10, 476), (fld d 475 428 % 64 != 0, 428), (fld d 427 380 % 64 != 0, 380)]
    | 0xC7 => failing [(fld d 463 448 = 0, 448)]
    | _ => if isColl o then collStatic s h 3 d else none
  match time, own with
  | some a, some b => some (min a b)
  | some a, none => some a
  | none, r => r

/-- Check 4: update-class commands other than GRAD_OPEN in a SERVE heat (R182). -/
def check4 (s : State) (h : Nat) (d : Slot) : Option Nat :=
  failing [(heatCls s h = .serve && dClass d = 5 && dOpcode d != opGradOpen, 8)]

/-- The operations of memory and the format each fixes (R266). -/
def memOpFmt : Nat → Nat
  | 1 => 8
  | 2 => 9
  | 4 => fmtRaw
  | _ => 15

/-- Check 5. -/
def check5 (s : State) (h : Nat) (d e : Slot) : Option Nat :=
  let o := dOpcode d
  if o = opGemm then
    let g := GemmPar.ofDesc d
    let ia := isIntFmt g.fA
    let ib := isIntFmt g.fB
    failing [(ia != ib, 234), (ia != ib || isIntFmt g.fD != ia, 231)]
  else if isDma o then
    let p := DmaPar.ofDesc d e
    let sf := resolveFmt s h p.srcFmt
    let t := dmaTarget s h p
    let raw (c : Nat) : Bool := c = fmtRaw
    let lowPath := min 267 (targetPos p)
    let noPath := match sf, t with
      | some a, some b => convPath a b = .absent
      | none, none => false
      | _, _ => true
    let n := rotN p.rot
    failing [
      (noPath, lowPath),
      (p.memOp != 0 && (p.dstFmt != memOpFmt p.memOp || (p.memOp = 4 && !raw p.srcFmt)), 255),
      (p.srcKind = 2 && (p.srcFmt = fmtKv || !([8, 11, 12, 13, 14, 15].contains p.srcFmt)), 260),
      (p.dstKind = 1 && optMx t, 258),
      (p.rot != 0 && p.rot ≤ 5 && p.kFirst % n != 0, 167),
      (p.rot != 0 && p.rot ≤ 5 && p.rowLen % n != 0, 336),
      (p.rot != 0 && (optInt t || t.isNone), targetPos p)]
  else if isColl o then collStatic s h 5 d
  else none

/-- What a transfer touches at one end: device offsets and lengths of its rows. -/
def rowSpans (a stride rows bytes : Nat) : List (Nat × Nat) :=
  if stride = bytes then [(a, rows * bytes)] else (List.range rows).map fun i => (a + i * stride, bytes)

inductive AccessKind where
  | load
  | store
  | memOp
deriving DecidableEq, Repr

/-- Whether n bytes at a lie wholly in one kind of place that the access may use; they may span its windows (R200, R201). -/
def accessLegal (s : State) (kind : AccessKind) (door : Bool) (a n : Nat) : Bool :=
  n = 0 ||
  match place s a with
  | .stack => a + n ≤ stackTop s
  | .coreBuf k o => kind != .memOp &&
      (o + n ≤ coreBytes || (List.range (ceilDiv n coreBytes + 1)).all fun i =>
        i * coreBytes ≥ o + n || (match place s (cbAddr (k + i) 0) with | .coreBuf .. => true | _ => false))
  | .scratch c o => kind != .memOp && (List.range (ceilDiv (o + n) scratchStep)).all fun i =>
      clusterActive s (c + i) && min (o + n - i * scratchStep) scratchStep ≤ scratchBytes s (c + i)
  | .queueReg q o => match kind with
      | .load => q * 64 + o + n ≤ 0x1000000
      | .store => door && o = 0 && n = 4
      | .memOp => false
  | .mirror o => kind = .load && o + n ≤ 2 ^ 40
  | .illegal => false

/-- Whether a heat owns what n bytes at a lie in (R243); the dictionary mirror belongs to everybody, and a doorbell's
owner is settled when it is rung (R250). -/
def accessOwned (s : State) (h a n : Nat) : Bool :=
  n = 0 ||
  match place s a with
  | .stack => inHeat s h a n
  | .coreBuf k o => (List.range (ceilDiv (o + n) coreBytes)).all fun i => clusterHeat s (slotCluster (k + i)) = some h
  | .scratch c o => (List.range (ceilDiv (o + n) scratchStep)).all fun i => clusterHeat s (c + i) = some h
  | _ => true

/-- Whether n bytes at a reach reserved lines or bytes (R123, R232). -/
def accessReserved (s : State) (h a n : Nat) : Bool :=
  n != 0 &&
  match place s a with
  | .coreBuf _ o => dget s (hCfg h) 9 = 1 &&
      (List.range (ceilDiv (o + n) coreBytes)).any fun i => overlaps (o % coreBytes) n (i * coreBytes + repeatByte) (coreBytes - repeatByte)
  | .scratch c o =>
      let hb := dget s (hCfg h) 8
      (List.range (ceilDiv (o + n) scratchStep)).any fun i => overlaps o n (i * scratchStep + scratchBytes s (c + i) - hb) hb
  | _ => false

/-- An access of a command: the field that names it, its kind, whether it may ring a doorbell, and its spans. -/
structure AccessSpec where
  pos   : Nat
  kind  : AccessKind
  door  : Bool := false
  chip  : Nat := 0
  spans : List (Nat × Nat)
deriving DecidableEq, Repr

/-- The accesses a DMA command makes by global address (R266, R267). -/
def dmaAccesses (s : State) (h : Nat) (d e : Slot) : List AccessSpec :=
  let p := DmaPar.ofDesc d e
  let sf := resolveFmt s h p.srcFmt
  let t := dmaTarget s h p
  let src := if p.srcKind = 0 then
      [{ pos := 448, kind := .load, chip := gChip p.src
         spans := rowSpans (gOff p.src) p.srcStride p.rows (rowBytesOf sf p.rowLen) : AccessSpec }] else []
  let dst := if p.dstKind = 0 then
      [{ pos := 384, kind := if p.memOp = 0 then .store else .memOp
         door := p.srcFmt = fmtRaw && p.rowLen = 4, chip := gChip p.dst
         spans := rowSpans (gOff p.dst) p.dstStride p.rows (rowBytesOf t p.rowLen) : AccessSpec }] else []
  let lst := if p.listEn then
      let n := if writesList p sf t then 32 + 8 * p.listCap else 32
      [{ pos := extPos 192, kind := if writesList p sf t then .store else .load, chip := gChip p.listAddr
         spans := [(gOff p.listAddr, n)] : AccessSpec }]
    else []
  let ss := if optMx sf then
      [{ pos := extPos 61, kind := .load, spans := [(p.srcScale, p.rows * ceilDiv p.rowLen 32)] : AccessSpec }] else []
  let ds := if optMx t then
      [{ pos := extPos 13, kind := .store, spans := [(p.dstScale, p.rows * ceilDiv p.rowLen 32)] : AccessSpec }] else []
  src ++ dst ++ lst ++ ss ++ ds

/-- The accesses other commands make (R545, R188, R193); the gradient buffer that GRAD_OPEN names counts as one (R257, check 7). -/
def otherAccesses (s : State) (h : Nat) (d : Slot) : List AccessSpec :=
  let one (pos a n : Nat) (k : AccessKind) : AccessSpec := { pos := pos, kind := k, spans := [(a, n)] }
  match dOpcode d with
  | 0xA0 => [one 458 (fld d 499 458 * 64) (4 * fld d 457 426) .load]
  | 0xA1 => [one 464 (fld d 511 464) (48 * (fld d 453 444 + 1)) .load]
  | 0xA2 =>
    let c := Coef.ofRow (tabGet coefDefault (getHeat s h).coef (fld d 499 490))
    let n := fld d 373 342
    let stat := one 168 (fld d 209 168 * 64) 64 .store
    if c.sparse then
      [one 374 (fld d 415 374 * 64) (4 * fld d 233 210 * (fld d 292 280 + 1)) .load,
        one 234 (fld d 279 234 * 4) (4 * fld d 233 210) .load, stat]
    else
      [one 416 (fld d 457 416 * 64) (192 * ceilDiv n 32) .store, one 374 (fld d 415 374 * 64) (4 * n) .load, stat]
  | 0xC0 => [one 464 (fld d 511 464) (16 * (fld d 457 452 + 1)) .load]
  | 0xC3 => [one 464 (fld d 511 464) (4 * (fld d 462 449 + 1)) .load]
  | _ => []

def commandAccesses (s : State) (h : Nat) (d e : Slot) : List AccessSpec :=
  if isDma (dOpcode d) then dmaAccesses s h d e else otherAccesses s h d

/-- Only stack memory serves these: MX scales, and what a command that is no DMA reads or writes, since every other window of R200 is
for DMA (R200, R483). -/
def stackOnly (d : Slot) (pos : Nat) : Bool := pos = extPos 61 || pos = extPos 13 || !isDma (dOpcode d)

/-- Bytes of an element of a memory-side operation (R218). -/
def memOpBytes (op : Nat) : Nat := if op = 2 then 2 else if op = 4 then 8 else 4

/-- An add-into whose elements are not aligned to their size (R218). -/
def addMisaligned (d e : Slot) : Bool :=
  let p := DmaPar.ofDesc d e
  let b := memOpBytes p.memOp
  isDma (dOpcode d) && p.memOp != 0 && (p.dst % b != 0 || (p.rows > 1 && p.dstStride % b != 0))

/-- A core slot whose core-buffer window can be accessed (R201, R202). -/
def slotHasWindow (s : State) (k : Nat) : Bool := k < 576 && k % 9 != 8 && clusterActive s (slotCluster k)

/-- Check 6 (R201, R203). -/
def check6 (s : State) (h : Nat) (d e : Slot) : Option Nat :=
  let p := DmaPar.ofDesc d e
  if isColl (dOpcode d) then collStatic s h 6 d
  else failing (((commandAccesses s h d e).map fun a =>
    (a.chip = 0xFFFF || (isLocal s a.chip && a.spans.any fun x =>
      !accessLegal s a.kind a.door x.1 x.2 || (stackOnly d a.pos && x.2 != 0 && place s x.1 != .stack)), a.pos))
    ++ [(addMisaligned d e, 384), (isDma (dOpcode d) && p.dstKind = 1 && !slotHasWindow s (rgSlot p.dst), 438),
        (isDma (dOpcode d) && p.srcKind = 2 && !slotHasWindow s (rgSlot p.src), 502)])

/-- Check 7 (R243, R246, R271). `admits`: the remote chips the job plan admits. -/
def check7 (s : State) (h q : Nat) (admits : Nat → Bool) (d e : Slot) : Option Nat :=
  let o := dOpcode d
  let own := failing ((commandAccesses s h d e).map fun a =>
    (if isLocal s a.chip then a.spans.any fun x => !accessOwned s h x.1 x.2 else !admits a.chip, a.pos))
  let slotOwned (k : Nat) : Bool := k < 576 && k % 9 != 8 && clusterHeat s (slotCluster k) = some h
  let p := DmaPar.ofDesc d e
  let more := match o with
    | 0x01 => failing [(queueHeat s (fld d 511 494) != some h, 494)]
    | 0x60 | 0x61 => failing [
        (p.dstKind = 1 && !slotOwned (rgSlot p.dst), 438),
        (p.srcKind = 2 && !slotOwned (rgSlot p.src), 502),
        (o = opStream && (!slotOwned (p.srcStride / 4 % 1024) ||
          slotCluster (p.srcStride / 4 % 1024) != queueCluster q), 306)]
    | 0xC5 => failing [
        (!inHeat s h (fld d 511 464) ((fld d 463 438 + 1) * 64), 464),
        (!inHeat s h (fld d 420 373) ((fld d 463 438 + 1) * 128), 373)]
    | 0xC6 =>
      let n := 2 ^ (fld d 479 476 + 6)
      failing [(queueHeat s (fld d 511 494) != some h, 494),
        (!inHeat s h (fld d 475 428) (64 * n), 428), (!inHeat s h (fld d 427 380) (16 * n), 380)]
    | _ => if isColl o then collStatic s h 7 d else none
  match own, more with
  | some a, some b => some (min a b)
  | some a, none => some a
  | none, r => r

/-- Check 8: overlaps (R68), reserved lines and bytes (R123, R232), and those a control command's source reaches (R545). A tile
of the core counts as still draining from its start until its work is over (DEDUCED, log entry 102). -/
def check8 (s : State) (h q : Nat) (d e : Slot) : Option Nat :=
  let o := dOpcode d
  let rep := dget s (hCfg h) 9 = 1
  if o = opGemm then
    let g := GemmPar.ofDesc d
    let k := (getQueue s q).slot
    let ax := g.fA.isX
    let bx := g.fB.isX
    let int := isIntFmt g.fD
    let draining := (s.queues.filter fun x => x.2.slot = k).any fun x => x.2.flights.any fun f =>
      f.opcode = opGemm && !f.done && (GemmPar.ofDesc f.desc).out.meets g.out
    failing [
      (g.out.meets g.aElem || g.out.meets g.bElem || (ax && g.out.meets g.aScale) || (bx && g.out.meets g.bScale), 264),
      (int && overlaps (g.out.line * 512) (g.out.len * 512) g.rqTable (8 * g.rqEntries), 213),
      (draining, 264),
      (rep && g.aElem.inRepeat, 360), (rep && g.bElem.inRepeat, 336), (rep && ax && g.aScale.inRepeat, 312),
      (rep && bx && g.bScale.inRepeat, 288), (rep && g.out.inRepeat, 264)]
  else if isDma o then
    let p := DmaPar.ofDesc d e
    let t := dmaTarget s h p
    let acc := (dmaAccesses s h d e).map fun a =>
      (isLocal s a.chip && a.spans.any fun x => accessReserved s h x.1 x.2, a.pos)
    failing (acc ++ [
      (rep && p.dstKind = 1 && (rgElem p.dst).inRepeat, 414),
      (rep && p.dstKind = 1 && optX t && (rgScale p.dst).inRepeat, 390),
      (rep && p.srcKind = 2 && (rgElem p.src).inRepeat, 478)])
  else if isColl o then collStatic s h 8 d
  else if o = opPolicy || o = opCoef || o = opProg then
    failing ((otherAccesses s h d).map fun a => (a.spans.any fun x => accessReserved s h x.1 x.2, a.pos))
  else none

/-- The first failing static check: status and field at fault. -/
def staticCheck (s : State) (h q : Nat) (admits : Nat → Bool) (d e : Slot) (hasExt : Bool) : Option (Nat × Nat) :=
  match check1 (getQueue s q).cls d with
  | some p => some (stBadOpcode, p)
  | none =>
  match check2 s h d e hasExt with
  | some p => some (stReserved, p)
  | none =>
  match check3 s h d e hasExt with
  | some p => some (stFieldRange, p)
  | none =>
  match check4 s h d with
  | some p => some (stClassForbidden, p)
  | none =>
  match check5 s h d e with
  | some p => some (stConversion, p)
  | none =>
  match check6 s h d e with
  | some p => some (stAddress, p)
  | none =>
  match check7 s h q admits d e with
  | some p => some (stOwnership, p)
  | none =>
  match check8 s h q d e with
  | some p => some (stRegion, p)
  | none => none

end Sys2Proof.Machine
end

