-- ==== Sys2Proof/Machine/Route.lean ====
section
/-! DEFINITION. Routing, virtual channels and the sending of packets (R313 to R325). -/

namespace Sys2Proof.Machine

/-! ## Ports -/

def getPort (s : State) (p : Nat) : Port := tabGet {} s.ports p
def setPort (s : State) (p : Nat) (x : Port) : State := { s with ports := tabSet {} s.ports p x }
def modPort (s : State) (p : Nat) (f : Port → Port) : State := setPort s p (f (getPort s p))

def portCount : Nat := 32
def pIdx (p : Nat) : Nat := 0x2300 + p

def linkFused : Nat := 0
def linkDown : Nat := 1
def linkTraining : Nat := 2
def linkTrained : Nat := 3

def linkState (s : State) (p : Nat) : Nat := dget s (pIdx p) 1
def trained (s : State) (p : Nat) : Bool := linkState s p = linkTrained
def planState (s : State) (p : Nat) : Nat := dget s (pIdx p) 3
/-- R319: VC0 to VC2 flow on ADMITTED ports, and on none while the device has no chip number (R338). -/
def admitted (s : State) (p : Nat) : Bool := trained s p && planState s p = 1 && ownChip s != 0

/-- The trained ports, ascending. -/
def trainedPorts (s : State) : List Nat := rangeWhere portCount (trained s)

/-! ## Plans (R316, R322) -/

/-- The plan that names a port for a tag, and its entry. -/
def planPort (s : State) (tag p : Nat) : Option PlanPort :=
  (s.plans.filter (·.plan.tag = tag)).findSome? fun x => x.plan.ports.find? (·.port = p)

/-- The HEAT plan of a tag. -/
def heatPlan (s : State) (tag : Nat) : Option Plan :=
  (s.plans.find? fun x => x.plan.tag = tag && !x.plan.transit).map (·.plan)

/-- The route entry for a tag and destination. -/
def routeOf (s : State) (tag dst : Nat) : Option PlanRoute :=
  (s.plans.filter (·.plan.tag = tag)).findSome? fun x => x.plan.routes.find? (·.dst = dst)

/-- Whether a tag's packets may be routed adaptively (R316). -/
def adaptiveOk (s : State) (tag : Nat) : Bool :=
  s.plans.any fun x => x.plan.tag = tag && x.plan.adaptive

/-- The heat that holds a tag and is not FREE (R327). -/
def tagHeat (s : State) (tag : Nat) : Option Nat :=
  if tag = 0 then none else (liveHeats s).find? fun h => heatTag s h = tag

/-! ## Port and channel of a packet (R323, R324) -/

def rolePort (s : State) (tag p : Nat) : PlanPort :=
  (planPort s tag p).getD
    { port := p, role := 0, dim := 3, dir := 0, dateline := false, optional := true, minWidth := 1, peerChip := 0
      peerPort := 0, digest := 0, checkEpoch := false, vc2 := 0 }

/-- Role codes of a plan's port (R387). -/
def roleWrap : Nat := 2
def roleTransit : Nat := 3

/-- The VC of a packet that leaves by port p, `ing` being the ingress port and VC, if it has one (R324). -/
def leaveVc (s : State) (k : Packet) (ing : Option (Nat × Nat)) (p : Nat) : Nat :=
  let r := rolePort s k.tag p
  if r.role = roleTransit || r.role = roleWrap then 2
  else match ing with
    | none => if r.dateline then 1 else 0
    | some (i, vc) =>
      let ri := rolePort s k.tag i
      if r.dateline then 1
      else if vc = 2 then 1
      else if vc = 1 && ri.dim = r.dim then 1
      else 0

/-- Flits of a packet (R312). -/
def packetFlits (k : Packet) : Nat := ceilDiv (32 + k.data.length) 256

def vcBuffer (vc : Nat) : Nat := if vc = 0 || vc = 1 then 1536 else if vc = 2 then 768 else 256

/-- Credits a port holds for a VC, waiting packets taken off (R309). -/
def freeCredits (s : State) (p vc : Nat) : Nat :=
  let x := getPort s p
  let used := (nth 0 x.sent vc + 4096 - nth 0 x.credit vc % 4096) % 4096
  let waiting := (x.queue.filter (·.vc = vc)).foldl (fun a k => a + packetFlits k.pkt) 0
  vcBuffer vc - used - waiting

/-- The port of a packet that is not routed adaptively. -/
def orderedPort (s : State) (k : Packet) (r : PlanRoute) : Option Nat :=
  let l := rangeWhere portCount fun p => bitOf r.dor.toNat p && admitted s p
  if l.isEmpty then none else some (nth 0 l (((k.offset / 4096) ^^^ k.dst) % l.length))

/-- The output port of a packet (R323); the lowest port among those with the most free credits. -/
def outPort (s : State) (k : Packet) (ing : Option (Nat × Nat)) (r : PlanRoute) : Option Nat :=
  if k.adaptive then
    let l := rangeWhere portCount fun p => bitOf r.min.toNat p && admitted s p
    let cr (p : Nat) : Nat := freeCredits s p (leaveVc s k ing p)
    let best := l.foldl (fun (b : Option Nat) p => match b with
      | none => if cr p > 0 then some p else none
      | some q => if cr p > cr q then some p else some q) none
    match best with
    | some p => some p
    | none => orderedPort s k r
  else orderedPort s k r

/-- A packet put on port p's line queue. -/
def enqueue (s : State) (k : Packet) (ing : Option (Nat × Nat)) (p : Nat) : State :=
  modPort s p fun x => { x with queue := x.queue ++ [{ vc := leaveVc s k ing p, ing := ing, pkt := k }] }

/-- A packet as it leaves by a port: a WRAP port marks it (R324). -/
def onLine (s : State) (p : Nat) (k : Packet) : Packet :=
  if (rolePort s k.tag p).role = roleWrap then { k with wrapped := true } else k

/-- A packet of this device sent on its way; one with no port to leave by is lost, and its requester runs into R334. -/
def sendPacket (s : State) (k : Packet) : State :=
  match routeOf s k.tag k.dst with
  | none => s
  | some r => match outPort s k none r with
    | none => s
    | some p => enqueue s k none p

/-- A control flit to the neighbour on a port (R315). -/
def sendCtrl (s : State) (p code : Nat) (body : List Byte) : State :=
  modPort s p fun x => { x with ctrl := x.ctrl ++ [(code, body)] }

/-! ## Link delay (R284) -/

/-- The asymmetry correction of a port (0x2200:0C). -/
def asymmetry (s : State) (p : Nat) : Int := sext 16 (domNum s 0x2200 0x0C 2 p)

/-- The mean of the exchanges kept, halved, with the correction, in 0.1 ns (R284). -/
def delayOf (s : State) (p : Nat) (l : List Int) : Int := divEvenInt (l.foldl (· + ·) 0) (2 * l.length) + asymmetry s p

/-- The link delay of a port shown, from the exchanges it has kept. -/
def showDelay (s : State) (p : Nat) : State :=
  let l := (getPort s p).delays
  if l.isEmpty then s else dset s (pIdx p) 9 (wrapInt 32 (delayOf s p l))

/-! ## Packet kinds (R313) -/

def kReadReq : Nat := 0x01
def kReadResp : Nat := 0x02
def kWrite : Nat := 0x03
def kMemOp : Nat := 0x04
def kAck : Nat := 0x05
def kNak : Nat := 0x06
def kReady : Nat := 0x10
def kCounts : Nat := 0x11
def kGrant : Nat := 0x12
def kData : Nat := 0x13
def kCollAck : Nat := 0x14
def kHeld : Nat := 0x15
def kResume : Nat := 0x16
def kBusy : Nat := 0x17
def kRefuse : Nat := 0x18
def kEnd : Nat := 0x19

def nakTag : Nat := 1
def nakResetting : Nat := 2
def nakAddress : Nat := 3
def nakMemory : Nat := 4
def nakOrder : Nat := 5
def nakRoute : Nat := 6

/-- Kinds that are not reserved (R313, R342). -/
def kindKnown (k : Nat) : Bool := (1 ≤ k && k ≤ 6) || (0x10 ≤ k && k ≤ 0x19) || k = 0x20

def ctrlKind : Nat := 0x20

/-- A packet that is discarded and counted as a CRC failure (R313, R315): a reserved kind, NAK reason or control code, no
destination, or a control packet that is not for the neighbour. Control code 5 is a job notice (R455). -/
def packetBad (k : Packet) : Bool :=
  !kindKnown k.kind || k.dst = 0 || decide (k.kind = ctrlKind) != decide (k.dst = 0xFFFF) ||
    (k.kind = kNak && !(1 ≤ k.code && k.code ≤ 6)) || (k.kind = ctrlKind && !(1 ≤ k.code && k.code ≤ 5))

/-- A packet of a heat to a chip, its kind's routing as R323 and R342 have it. -/
def mkPacket (s : State) (h dst kind : Nat) : Packet :=
  let tag := heatTag s h
  { dst := dst, src := ownChip s, tag := tag, kind := kind
    adaptive := (kind = kReadReq || kind = kReadResp || kind = kData) && adaptiveOk s tag }

/-- An answer to a packet: same transaction, back to its sender. -/
def answer (s : State) (k : Packet) (kind : Nat) : Packet :=
  { dst := k.src, src := ownChip s, tag := k.tag, kind := kind, txn := k.txn, offset := k.offset
    adaptive := kind = kReadResp && adaptiveOk s k.tag }

/-- A refused packet answered over the port it came by, whatever its kind (R322, R326). -/
def nakBack (s : State) (p : Nat) (k : Packet) (reason : Nat) : State :=
  enqueue (dadd s (pIdx p) 0x0D 1) { answer s k kNak with code := reason } none p

end Sys2Proof.Machine
end

