-- ==== Sys2Proof/Machine/Queues.lean ====
section
/-! DEFINITION. Queues: doorbells, the head of a queue, starting a command and writing its record (R246 to R262). -/

namespace Sys2Proof.Machine

/-! ## Doorbells (R249, R250) -/

/-- A refused doorbell, counted. -/
def refuseDoorbell (s : State) (q : Nat) : State :=
  let s := modQueue s q fun x => { x with refused := min (x.refused + 1) 0xFFFF }
  match queueHeat s q with
  | some h => dadd s (hStat h) 7 1
  | none => s

/-- Whether an agent may write a queue's doorbell (R250). -/
def agentAllowed (s : State) (h : Nat) : Agent → Bool
  | .core h' => h' = h
  | .dma h' => h' = h
  | .remote tag => tag != 0 && tag = heatTag s h
  | .mgmt => true
  | .other => false

/-- Whether a queue takes doorbells: enabled, in a heat that is RUNNING, STOPPING or STOPPED. -/
def doorbellOpen (s : State) (q h : Nat) : Bool :=
  (getQueue s q).enabled &&
    (match (getHeat s h).st with | .running | .stopping | .stopped => true | _ => false)

/-- A write of t to a doorbell (R249): the state and whether it was accepted. -/
def ringDoorbell (s : State) (a : Agent) (q t : Nat) : State × Bool :=
  match queueHeat s q with
  | none => (refuseDoorbell s q, false)
  | some h =>
    if agentAllowed s h a && doorbellOpen s q h then
      let x := getQueue s q
      let d := aheadOf t x.tail
      let f := aheadOf t x.head
      if d = 0 then (s, true)
      else if f ≤ 2 ^ x.log2 then (setQueue s q { x with tail := t }, true)
      else (refuseDoorbell s q, false)
    else (refuseDoorbell s q, false)

/-- DOORBELL. -/
def execDoorbell (a : Agent) (q v : Nat) (s : State) : Host.Outcome State Fault Refusal :=
  .next (ringDoorbell s a (q % 2 ^ 18) (v % 2 ^ 32)).1

/-- RING: the core monitor's environment call from the control core of a logical core slot. -/
def execRing (core q v : Nat) (s : State) : Host.Outcome State Fault Refusal :=
  match clusterHeat s (slotCluster core) with
  | none => .next s
  | some h =>
    let r := ringDoorbell s (.core h) (q % 2 ^ 18) (v % 2 ^ 32)
    .next (modCore r.1 core fun c => { c with a0 := if r.2 then 0 else 1 })

/-! ## Flights -/

def modFlight (s : State) (q i : Nat) (f : Flight → Flight) : State :=
  modQueue s q fun x => { x with flights := modFirst (fun y => y.index == i) f x.flights }

/-- A command's work finished: its status and words. -/
def finish (s : State) (q i st a b : Nat) : State :=
  modFlight s q i fun f => { f with done := true, status := pickStatus st f.status, wordA := a, wordB := b }

/-- The running command of an opcode: the oldest started and unfinished one of the queue. -/
def running (s : State) (q o : Nat) : Option Flight :=
  (getQueue s q).flights.find? fun f => f.opcode == o && !f.done && !f.acted

/-- The same, of a queue whose heat still runs what it has started (R241, R245). -/
def runningIn (s : State) (q o : Nat) : Option (Nat × Flight) :=
  match queueHeat s q, running s q o with
  | some h, some f => some (h, f)
  | _, _ => none

/-- A meaning over the running command of a queue; where none runs, nothing happens. -/
def withRunning (q o : Nat) (s : State) (f : Nat → Flight → State) : Host.Outcome State Fault Refusal :=
  match runningIn s q o with
  | some (h, x) => .next (f h x)
  | none => .next s

/-! ## The head of a queue (R251, R253, R257) -/

/-- Remote chips the job plan of a heat admits: those its routes name (R316). -/
def planAdmits (s : State) (h chip : Nat) : Bool :=
  let t := heatTag s h
  t != 0 && s.plans.any fun p => p.plan.tag = t && p.plan.routes.any (·.dst = chip)

def slotBytes (x : Queue) (i : Nat) : Nat := x.ring + (i % 2 ^ x.log2) * 64

def readSlot (s : State) (x : Queue) (i : Nat) : Slot := BitVec.ofNat 512 (readNat s (slotBytes x i) 64)

/-- How many slots a command takes. -/
def cmdSlots (d : Slot) : Nat := if dExt d && dClass d = 3 then 2 else 1

/-- A command whose validation failed, entered as finished with its status (R257, R259). -/
def failedFlight (i : Nat) (d e : Slot) (ext : Bool) (st a b : Nat) : Flight :=
  { index := i, opcode := dOpcode d, desc := d, ext := e, hasExt := ext, done := true, started := false, status := st, wordA := a, wordB := b }

/-- The tables a collective's static stage reads: false where a sector failed (R214, R340). -/
def readTables (s : State) (h : Nat) (d : Slot) : State × Bool :=
  let p := CollPar.ofDesc d
  if !isColl (dOpcode d) then (s, true)
  else
    let r := if tableThere s h p then checkRead s p.table (16 * p.members) else (s, true)
    if r.2 && dOpcode d = opRl && permsThere r.1 h p then checkRead r.1 p.src (32 * p.entries)
    else if r.2 && dOpcode d = opBx && inHeat r.1 h p.xtab (32 * p.members) then checkRead r.1 p.xtab (32 * p.members)
    else r

/-- What a command that fails its validation does all the same: a collective releases its allocation (R364). -/
def failedEffects (s : State) (h : Nat) (d : Slot) : State :=
  if isColl (dOpcode d) then releaseAlloc s h (CollPar.ofDesc d) else s

/-- The head command past its static stage, with the tables of a collective (R340). -/
def newHead (s : State) (h i : Nat) (d e : Slot) (ext : Bool) (bad : Bool) : HeadCmd :=
  let p := CollPar.ofDesc d
  let c : HeadCmd := { index := i, desc := d, ext := e, hasExt := ext, badEntry := bad }
  if !isColl (dOpcode d) || !tableThere s h p then c
  else { c with
    members := readTable s p, crc := crc32 (readBytes s p.table (16 * p.members))
    perms := if dOpcode d = opRl then readPerms s p else [] }

/-- An UPDATE_LAYER whose ledger entry is neither OPEN nor COMPLETE (R191). -/
def entryBad (s : State) (h : Nat) (d : Slot) : Bool :=
  dOpcode d = opUpdate &&
    match (tabGet {} (getHeat s h).ledger (fld d 511 500)).st with
    | .opened | .complete => false
    | _ => true

/-- COMMAND_REACHES_HEAD: the next command's slots are read and the static stage runs. -/
def execCommandReachesHead (q : Nat) (s : State) : Host.Outcome State Fault Refusal :=
  let x := getQueue s q
  match queueHeat s q with
  | none => .next s
  | some h =>
    let left := aheadOf x.tail x.next
    if !x.enabled || x.headCmd.isSome || left = 0 || !heatRuns s h then .next s
    else
      let r := checkRead s (slotBytes x x.next) 64
      if !r.2 then .next r.1
      else
        let s := r.1
        let d := readSlot s x x.next
        let n := cmdSlots d
        if left < n then .next s
        else
          let r := if n = 2 then checkRead s (slotBytes x (x.next + 1)) 64 else (s, true)
          if !r.2 then .next r.1
          else
            let r := readTables r.1 h d
            if !r.2 then .next r.1
            else
              let s := r.1
              let e := if n = 2 then readSlot s x (x.next + 1) else noExt
              let nxt := (x.next + n) % 2 ^ 32
              match staticCheck s h q (planAdmits s h) d e (n = 2) with
              | some (st, p) =>
                let b := if isColl (dOpcode d) then collMemBit s h st p d else 0
                .next (setQueue (failedEffects s h d) q { x with
                  next := nxt, flights := x.flights ++ [failedFlight x.next d e (n = 2) st p b] })
              | none =>
                .next (setQueue s q { x with
                  next := nxt, headCmd := some (newHead s h x.next d e (n = 2) (entryBad s h d))
                  waitsTime := dNb d && !timeReached s d })

/-! ## Completion records (R258 to R260) -/

/-- The record of a command at index i of a ring of 2^p slots. -/
def recordWord (st i p : Nat) (ext : Bool) (cls op a b : Nat) : Nat :=
  st * 2 ^ 112 + (1 - i / 2 ^ p % 2) * 2 ^ 111 + b2n ext * 2 ^ 110 + cls * 2 ^ 107 + op * 2 ^ 96 + a * 2 ^ 64 + b

def recordAddr (x : Queue) (i : Nat) : Nat := x.cpl + (i % 2 ^ x.log2) * 16

/-- One 16-byte record written. -/
def putRecord (s : State) (x : Queue) (i : Nat) (w : Nat) : State :=
  (storeStack s (recordAddr x i) (bytesOf 16 w)).1

/-- The completion record of a flight written, with the record of its extension slot (R253, R258). -/
def writeRecord (s : State) (x : Queue) (f : Flight) : State :=
  let c := dClass f.desc
  let s := putRecord s x f.index (recordWord f.status f.index x.log2 false c f.opcode (satNat 32 f.wordA) (satNat 64 f.wordB))
  if f.hasExt then
    let i := (f.index + 1) % 2 ^ 32
    putRecord s x i (recordWord 0 i x.log2 true c f.opcode 0 0)
  else s

/-- The statistics of a record (R247). -/
def countRecord (s : State) (h st : Nat) : State :=
  let s := dadd s (hStat h) 5 1
  if st / 256 = 1 then dadd s (hStat h) 6 1
  else if st / 256 = 4 then dadd s (hStat h) 8 1
  else s

/-- HEAD advanced past a flight, the flight gone. -/
def retire (x : Queue) (f : Flight) (l : List Flight) : Queue :=
  { x with flights := l, head := (f.index + (if f.hasExt then 2 else 1)) % 2 ^ 32 }

/-- A prefetcher that a command engaged is free again (R229). -/
def freePrefetch (s : State) (q i : Nat) : State :=
  modCluster s (queueCluster q) fun c =>
    { c with prefetch := c.prefetch.map fun p => if p = some (q, i) then none else p }

end Sys2Proof.Machine
end

