-- ==== Sys2Proof/Machine/Cache.lean ====
section
/-! DEFINITION. The cluster caches, and reads of this device's memory through them (R231 to R236). -/

namespace Sys2Proof.Machine

/-! ## Cluster caches (R231 to R236) -/

/-- Cache ways of a heat. -/
def cacheWays (s : State) (h : Nat) : Nat := 16 - dget s (hCfg h) 7

def granuleSet (g : Nat) : Nat := g % 8192

/-- Copies of granules that a range touches, updated with new bytes or dropped. -/
def CacheLine.update (y : CacheLine) (a : Nat) (l : List Byte) : CacheLine :=
  let b := y.granule * 256
  let n := l.length
  if overlaps b 256 a n then
    { y with data := (List.range 256).map fun i =>
        if a ≤ b + i && b + i < a + n then nth 0#8 l (b + i - a) else nth 0#8 y.data i }
  else y

def cacheUpdate (s : State) (c a : Nat) (l : List Byte) : State :=
  if (getCluster s c).lines.isEmpty then s
  else modCluster s c fun x => { x with lines := x.lines.map fun y => y.update a l }

def cacheInvalidate (s : State) (c a n : Nat) : State :=
  modCluster s c fun x => { x with lines := x.lines.filter fun y => !overlaps (y.granule * 256) 256 a n }

/-- Another copy's place in a set: a free way, or the least recently used line's. -/
def allocWay (ways : Nat) (l : List CacheLine) (g : Nat) : Nat :=
  let st := l.filter fun y => granuleSet y.granule = granuleSet g
  match (List.range ways).find? fun w => !st.any (·.way = w) with
  | some w => w
  | none =>
    ((st.foldl (fun (b : Option CacheLine) y => match b with
      | none => some y
      | some z => if y.used < z.used then some y else some z) none).map (·.way)).getD 0

/-- A granule of this device's memory brought into a cluster's cache ways; false where a sector failed. -/
def cacheFetch (s : State) (h c g : Nat) : State × Bool :=
  let x := getCluster s c
  if x.lines.any (·.granule = g) then
    (modCluster s c fun x => { x with
      clock := x.clock + 1
      lines := x.lines.map fun y => if y.granule = g then { y with used := x.clock + 1 } else y }, true)
  else
    let r := checkRead s (g * 256) 256
    if !r.2 then (r.1, false)
    else
      let d := readBytes r.1 (g * 256) 256
      (modCluster r.1 c fun x =>
        let w := allocWay (cacheWays s h) x.lines g
        let kept := x.lines.filter fun y => !(granuleSet y.granule = granuleSet g && y.way = w)
        { x with
          clock := x.clock + 1
          lines := { granule := g, way := w, data := d, used := x.clock + 1 } :: kept }, true)

/-- Bytes of stack memory read through a cluster's cache (R234). -/
def cachedRead (s : State) (h c a n : Nat) : State × Option (List Byte) :=
  if cacheWays s h = 0 then
    let r := checkRead s a n
    (r.1, if r.2 then some (readBytes r.1 a n) else none)
  else
    (List.range (if n = 0 then 0 else (a + n - 1) / 256 - a / 256 + 1)).foldl (fun (acc : State × Option (List Byte)) i =>
      match acc.2 with
      | none => acc
      | some l =>
        let g := a / 256 + i
        let f := cacheFetch acc.1 h c g
        if !f.2 then (f.1, none)
        else
          let d := (((getCluster f.1 c).lines.find? (·.granule = g)).map (·.data)).getD []
          let lo := max a (g * 256)
          let hi := min (a + n) (g * 256 + 256)
          (f.1, some (l ++ sliceBytes d (lo - g * 256) (hi - lo)))) (s, some [])

/-- n bytes of this device at a, read by a command of heat h in cluster c; none where a sector failed. -/
def loadLocal (s : State) (h c : Nat) (cache : Bool) (a n : Nat) : State × Option (List Byte) :=
  match place s a with
  | .stack =>
    if cache then cachedRead s h c a n
    else
      let r := checkRead s a n
      (r.1, if r.2 then some (readBytes r.1 a n) else none)
  | .queueReg q o =>
    (s, some (sliceBytes ((List.range (ceilDiv (o + n) 64)).flatMap fun i => queueBlock s (getQueue s (q + i))) o n))
  | .mirror o => (s, some (mirrorRead s h o n))
  | _ => (s, some (readBytes s a n))

end Sys2Proof.Machine
end

