-- ==== Sys2Proof/Machine/Ledger.lean ====
section
/-! DEFINITION. The gradient ledger (R174 to R177) and how a DMA command ends (R176, R332, R544). -/

namespace Sys2Proof.Machine

/-! ## Entries -/

def getLedger (s : State) (h l : Nat) : Ledger := tabGet {} (getHeat s h).ledger l
def setLedger (s : State) (h l : Nat) (e : Ledger) : State :=
  modHeat s h fun x => { x with ledger := tabSet {} x.ledger l e }

/-- A refusal counted (R177). -/
def countLedgerRefusal (s : State) (h : Nat) : State := dadd s (hStat h) 4 1

/-- The same where a status says so. -/
def countRefusal (s : State) (h st : Nat) : State := if st = stLedgerClosed then countLedgerRefusal s h else s

/-- A contribution counted in an OPEN entry, which the last one completes (R176); any other entry refuses it (R177). -/
def contribute (s : State) (h l kind : Nat) : State :=
  let e := getLedger s h l
  if e.st != .opened then countLedgerRefusal s h
  else
    let e := { e with
      arrived := e.arrived + 1
      mbContribs := if kind = 1 then (e.mbContribs + 1) % 2 ^ 32 else e.mbContribs }
    setLedger s h l { e with st := if e.arrived ≥ e.expected then .complete else e.st }

/-- A local command that names a ledger entry: a fill, or one whose destination lies in this device. -/
def isContribution (s : State) (p : DmaPar) : Bool := p.gradKind != 0 && (p.dstKind = 1 || isLocal s (gChip p.dst))

/-- A command's contribution counted as its work ends; the record may yet wait for earlier ones, R251 (DEDUCED, log entry 101). -/
def countContribution (s : State) (q : Nat) (p : DmaPar) : State :=
  match queueHeat s q with
  | some h => if isContribution s p then contribute s h p.gradLayer p.gradKind else s
  | none => s

/-! ## The end of a DMA command -/

/-- The status and field of a command that another device refused: the access refused, or what names the ordered region's
refusal (R332, R544). -/
def refusedDma (p : DmaPar) (reason pos : Nat) : Nat × Nat :=
  if reason = nakOrder then (stOrder, if pos = 384 && p.memOp != 0 && p.orderEn then 224 else pos)
  else (stRemoteRefused, pos)

/-- A command whose effect is made is done where nothing remains to wait for (R331, R332); its contribution counts then. -/
def settleDma (s : State) (q i : Nat) : State :=
  match (getQueue s q).flights.find? (·.index == i) with
  | none => s
  | some f =>
    if !(f.acted && f.acks = 0 && !f.waits && !f.done) then s
    else
      let p := DmaPar.ofDesc f.desc f.ext
      match f.rem.refusal with
      | none =>
        let s := modFlight s q i fun f => { f with done := true }
        if f.status / 256 = 1 then s else countContribution s q p
      | some r =>
        let x := refusedDma p r f.rem.refusedPos
        modFlight s q i fun f => { f with done := true, status := pickStatus x.1 f.status, wordA := x.2, wordB := 0 }

end Sys2Proof.Machine
end

