-- ==== Sys2Proof/Machine/History.lean ====
section
/-! DEFINITION. The always-on hour counter and the non-volatile history (R497 to R500). -/

namespace Sys2Proof.Machine

/-! ## Records and sectors (R497, R499) -/

def histPower : Nat := 1
def histBoot : Nat := 2
def histTransient : Nat := 3
def histRetired : Nat := 4
def histChannel : Nat := 5
def histRow : Nat := 6
def histFullTest : Nat := 7
def histSweep : Nat := 8
def histPlan : Nat := 9
def histC3 : Nat := 0x0A
def histSummary : Nat := 0x0B

/-- Records of a history sector after its header. -/
def sectorRecords : Nat := (65536 - 64) / 32
def eraseLimit : Nat := 80000

def eraseCount (s : State) (n : Nat) : Nat := domNum s 0x2730 3 4 n

/-- The sectors in use. -/
def liveSectors (s : State) : List Nat := rangeWhere 16 fun n => eraseCount s n < eraseLimit

/-- The erased sector with the lowest erase count. -/
def nextSector (s : State) : Nat :=
  (((liveSectors s).filter (· != s.histSector)).foldl (fun (b : Option Nat) n => match b with
    | none => some n
    | some m => if eraseCount s n < eraseCount s m then some n else some m) none).getD s.histSector

/-- A sector erased: counted; the wear warning where its count comes to it or to the limit. -/
def eraseSector (s : State) (n : Nat) : State :=
  let c := eraseCount s n + 1
  let s := domPut s 0x2730 3 64 4 n c
  let s := if c = dget s 0x2730 4 || c = eraseLimit then raise s { code := 0x0805, cls := 0, detail := bytesOf 1 s.storeHalf } else s
  dset s 0x2730 5 (liveSectors s).length

/-- A record's first 28 bytes, as far as the spec gives their layout: the kind, then what the record holds, four bytes each (DESIGN
CHOICE, log entry 107), and the CRC-32 that ends it (R497, R543). -/
def histBody (kind : Nat) (fields : List Nat) : List Byte :=
  fitBytes 28 (bytesOf 1 kind ++ zeros 3 ++ fields.flatMap (bytesOf 4))

def histRec (kind : Nat) (fields : List Nat) : HistRec := { kind := kind, fields := fields, crc := crc32 (histBody kind fields) }

/-- The header of a sector in flash (R497). -/
def histHeader (s : State) (n : Nat) : List Byte := bytesOf 4 0x48495354 ++ bytesOf 4 s.histSeq ++ bytesOf 4 (eraseCount s n) ++ zeros 52

/-- What a record says: of a summary, the fact it repeats (DESIGN CHOICE, log entry 107). -/
def factOf (r : HistRec) : Nat × List Nat :=
  if r.kind = histSummary then (r.fields.headD 0, r.fields.tail) else (r.kind, r.fields)

/-- A fact that a later record of the history, one of `newer`, puts in its place: of powered time, boots, full tests, plans and C3
events the newest is live, of sweeps the newest of each slot, of transients those within 720 powered hours; retirements and repairs
stay (DESIGN CHOICE, log entry 107). -/
def factGone (s : State) (newer : List (Nat × List Nat)) (f : Nat × List Nat) : Bool :=
  if f.1 = histPower || f.1 = histBoot || f.1 = histFullTest || f.1 = histPlan || f.1 = histC3 then newer.any (·.1 = f.1)
  else if f.1 = histSweep then newer.any fun g => g.1 = histSweep && g.2.headD 0 = f.2.headD 0
  else f.1 = histTransient && decide (nth 0 f.2 2 + 720 < poweredHour s)

/-- The live facts of the records, newest first. -/
def liveFacts (s : State) : List (Nat × List Nat) → List (Nat × List Nat) → List (Nat × List Nat)
  | _, [] => []
  | newer, f :: l => (if factGone s newer f then [] else [f]) ++ liveFacts s (f :: newer) l

/-- A full sector left: the next one begins with the summary of every live fact, and the old one is erased. -/
def turnSector (s : State) : State :=
  let l := (liveFacts s [] (s.history.map factOf)).map fun f => histRec histSummary (f.1 :: f.2)
  eraseSector { s with histSector := nextSector s, histSeq := s.histSeq + 1, histUsed := l.length, history := l } s.histSector

/-- The records that a boot finds sound (R497). -/
def soundHistory (s : State) : List HistRec := s.history.filter fun r => r.crc = crc32 (histBody r.kind r.fields)

/-- The history takes no POWER records with fewer than four sectors in use. -/
def powerStopped (s : State) : Bool := decide ((liveSectors s).length < 4)

/-- A record appended; no POWER record with fewer than four sectors in use. -/
def histAdd (s : State) (kind : Nat) (fields : List Nat) : State :=
  if kind = histPower && powerStopped s then s
  else
    let s := if s.histUsed < sectorRecords then s else turnSector s
    { s with history := histRec kind fields :: s.history, histUsed := s.histUsed + 1 }

/-- POWERED_TIME_SAVE: the always-on count saved every 0.1 powered hour (R498, R499). -/
def execPoweredTimeSave (s : State) : Host.Outcome State Fault Refusal :=
  .next (if powerStopped s then s else histAdd { s with powerSaved := poweredMs s } histPower [poweredMs s, dget s 0x2730 2])

end Sys2Proof.Machine
end

