-- ==== Sys2Proof/Machine/Spares.lean ====
section
/-! DEFINITION. Physical core slots, transients and retirement (R435 to R441, R462, R469). -/

namespace Sys2Proof.Machine

/-- A slot-state byte (0x2900:06): [7:4] state, [3:0] the logical core held. Before boot writes the map, slots 0 to 7 of a
cluster hold cores 0 to 7 and slot 8 is the spare. -/
def slotByte (s : State) (p : Nat) : Nat :=
  let l := domGet s 0x2900 6
  if l.isEmpty then (if p % 9 < 8 then p % 9 else 0x1F) else (nth 0#8 l p).toNat

def slotActive : Nat := 0
def slotSpareReady : Nat := 1
def slotSpareTesting : Nat := 2
def slotRetired : Nat := 3
def slotPending : Nat := 4

def slotState (s : State) (p : Nat) : Nat := slotByte s p / 16
def slotCore (s : State) (p : Nat) : Nat := slotByte s p % 16

/-- The whole map as bytes. -/
def slotMap (s : State) : List Byte := (List.range 576).map fun p => byte (slotByte s p)

def setSlot (s : State) (p st core : Nat) : State :=
  domSet s 0x2900 6 (setNth (slotMap s) p (byte (st * 16 + core)))

/-- The physical slots of a cluster. -/
def clusterSlots (c : Nat) : List Nat := (List.range 9).map fun i => c * 9 + i

/-- The physical slot that holds a logical core. -/
def physSlot (s : State) (k : Nat) : Nat :=
  ((clusterSlots (slotCluster k)).find? fun p =>
    (slotState s p = slotActive || slotState s p = slotPending) && slotCore s p = k % 9).getD k

/-- The cluster's spare, if it has one. -/
def spareOf (s : State) (c : Nat) : Option Nat :=
  (clusterSlots c).find? fun p => slotState s p = slotSpareReady || slotState s p = slotSpareTesting

/-- No takeover, and no move but a rotation, waits for the cluster's spare. -/
def spareFree (c : Cluster) : Bool := c.takeover.isNone && (c.movePending.isNone || c.moveCause = 0)

/-- The retired slots whose cores wait for a spare. -/
def lostSlots (c : Cluster) : List Nat := c.takeover.toList ++ c.lost

/-- What takes a slot out of service, as the history and the model's moves name it: the cause of R442 for a permanent or escaped
error, and the model's own numbers for the others. -/
def causeCount : Nat := 16
def causeTest : Nat := 17
def causeShort : Nat := 18
def causeBoot : Nat := 19

/-- A slot retired for good, with what took it out of service (R441). -/
def retireSlot (s : State) (p cause : Nat) : State :=
  let s := setSlot s p slotRetired 0xF
  let s := { s with retiredSlots := if s.retiredSlots.contains p then s.retiredSlots else p :: s.retiredSlots }
  histAdd s histRetired [p, cause]

/-- A slot marked for retirement at the next boot, in service until then (R441). -/
def markForBoot (s : State) (p : Nat) : State :=
  raise { setSlot s p slotPending (slotCore s p) with markedSlots := p :: s.markedSlots }
    { code := 0x0106, cls := 0, unit := p, unitKind := 1 }

/-- A slot whose transients reached the limit without a restart: its core moves to the spare, in place of a rotation that waits, or,
in a cluster whose spare is gone or taken, the slot waits for the next boot (R441; DEDUCED, log entry 67). It is declared once. -/
def permanentByCount (s : State) (p : Nat) : State :=
  let c := getCluster s (p / 9)
  if c.movePending = some p && c.moveCause = causeCount then s
  else
    let s := dadd s 0x2D60 4 1
    if (spareOf s (p / 9)).isSome && (spareFree c || (c.movePending = some p && c.takeover.isNone)) then
      modCluster s (p / 9) fun c => { c with movePending := some p, moveCause := causeCount, calledLap := some s.lapStarts }
    else markForBoot s p

/-- A transient recorded in the history (R439): `unit` is 0 array, 1 outlier unit, 2 vector engine. -/
def recordTransient (s : State) (p unit : Nat) (h : Option Nat) : State :=
  let hr := poweredHour s
  let s := histAdd { s with transients := (p, unit, hr, s.lap) :: s.transients } histTransient [p, unit, hr, s.lap]
  let s := dadd s 0x2D60 3 1
  let s := raise s { code := 0x0101, cls := 1, heat := h, unit := p, unitKind := 1 }
  if recentTransients s p ≥ 3 && slotState s p = slotActive then permanentByCount s p else s

/-- A core slot declared permanent by a photo finish (R436, R440): retired at once, its heat restarts, and its cluster's
spare takes over at the next lap start. -/
def retirePermanent (s : State) (p cause : Nat) (h : Option Nat) : State :=
  let s := dadd s 0x2D60 4 1
  let s := if cause = 2 then dadd s 0x2D60 5 1 else s
  let core := slotCore s p
  let s := setSlot (retireSlot s p cause) p slotRetired core
  let s := modCluster s (p / 9) fun c =>
    let c := if c.movePending = some p then { c with movePending := none, moveCause := 0 } else c
    let c := { c with calledLap := some s.lapStarts }
    if c.takeover.isSome then { c with lost := c.lost ++ [p] } else { c with takeover := some p }
  raise s { code := 0x0102, cls := 2, cause := cause, heat := h, unit := p, unitKind := 1 }

end Sys2Proof.Machine
end

