-- ==== Sys2Proof/Machine/Tile.lean ====
section
/-! DEFINITION. GEMM_TILE and DIAG_EW: passes, repeats, photo finishes and the commit (R120 to R135, R433 to R436). -/

namespace Sys2Proof.Machine

/-! ## Trouble log (R134) -/

/-- A 64-byte record written to the heat's trouble log: the state and the record's sequence number, if it was written. -/
def logTrouble (s : State) (h w : Nat) : State × Option Nat :=
  let n := dget s (hCfg h) 0x0B
  if n = 0 then (dadd s (hStat h) 3 1, none)
  else
    let q := (getHeat s h).troubleSeq
    let s := if q ≥ n then dadd s (hStat h) 3 1 else s
    let s := (storeStack s (dget s (hCfg h) 0x0A + q % n * 64) (bytesOf 64 w)).1
    (modHeat s h fun x => { x with troubleSeq := q + 1 }, some q)

/-- The escalation summary (R133). -/
def tileSummary (int : Bool) (t : TileRun) : Nat :=
  (if int then 3 else t.rungA) * 2 ^ 30 + (if int then 3 else t.rungB) * 2 ^ 28 + t.repeats * 2 ^ 26 +
    b2n t.pinReq * 2 ^ 25 + b2n t.ceilHit * 2 ^ 24 + b2n t.srcAbsent * 2 ^ 23 + b2n t.nanbX * 2 ^ 22 +
    b2n t.wlossX * 2 ^ 21 + b2n t.logged * 2 ^ 20 + t.trigA * 2 ^ 17 + t.trigB * 2 ^ 14 +
    (if t.logged then t.logIndex % 2 ^ 14 else 0)

/-- Counters stop at 24 bits (R112). -/
def cap24 (n : Nat) : Nat := satNat 24 n

/-- The trouble record of a pass (R134). -/
def troubleWord (s : State) (h k : Nat) (d : Slot) (g : GemmPar) (t : TileRun) (o : PassOut) : Nat :=
  dTag d * 2 ^ 448 + s.lap % 2 ^ 48 * 2 ^ 400 + s.phase % 2 ^ 32 * 2 ^ 368 + (getHeat s h).lastStep * 2 ^ 336 +
    g.layer * 2 ^ 324 + g.policy * 2 ^ 318 + k * 2 ^ 308 + h * 2 ^ 304 + tileSummary (isIntFmt g.fA) t * 2 ^ 272 +
    satNat 16 o.stall * 2 ^ 256 + cap24 o.evA.sat * 2 ^ 232 + cap24 o.evB.sat * 2 ^ 208 +
    cap24 o.evA.zblk * 2 ^ 184 + cap24 o.evB.zblk * 2 ^ 160 + cap24 o.evA.outf * 2 ^ 136 + cap24 o.evB.outf * 2 ^ 112 +
    cap24 o.evA.nanb * 2 ^ 88 + cap24 o.evB.nanb * 2 ^ 64 + cap24 o.wloss * 2 ^ 32 + t.repeats * 4

/-- Which of an operand's counters cross: SAT 4, ZBLK 2, OUTF 1 (R115, R120). -/
def trigBits (p : Nat) (e : Ev) : Nat :=
  4 * b2n (crosses (cap24 e.sat) (polSat p)) + 2 * b2n (crosses (cap24 e.zblk) (polZblk p)) +
    b2n (crosses (cap24 e.outf) (polOutf p))

/-- The heat's repeat area (R121 condition 3). -/
def repeatEnabled (s : State) (h : Nat) : Bool := dget s (hCfg h) 9 = 1

/-- The state with the core's writes and fills as the tile's first pass found them. -/
def atPass (s : State) (k : Nat) (t : TileRun) : State := modCore s k fun c => { c with log := t.log, waiting := t.waiting }

/-- The owners of an operand part of a tile. -/
def ownersA (s : State) (k : Nat) (g : GemmPar) (t : TileRun) : List (Option (FillRec × FillRow)) :=
  partOwners (atPass s k t) k g.fA g.aElem g.aScale (activeRows g) g.kBlocks t.pos0 t.kblk0
def ownersB (s : State) (k : Nat) (g : GemmPar) (t : TileRun) : List (Option (FillRec × FillRow)) :=
  partOwners (atPass s k t) k g.fB g.bElem g.bScale (List.range g.cols) g.kBlocks t.pos0 t.kblk0

/-- The holds behind a part. -/
def holdIds (l : List (Option (FillRec × FillRow))) : List Nat :=
  l.filterMap fun o => o.bind fun x => x.1.hold

def lockHolds (s : State) (k : Nat) (ids : List Nat) (b : Bool) : State :=
  modCluster s (slotCluster k) fun c =>
    { c with holds := c.holds.map fun x => if ids.contains x.id then { x with locked := b } else x }

/-- A tile's status without a residue correction: an integer tile's counters are reported only (R99, R132). -/
def tileStatus (int : Bool) (t : TileRun) : Nat :=
  if int then stSuccess else if t.pinReq then stPinRequested else if t.ceilHit then stCeiling else if t.repeats > 0 then stEscalated
  else if t.nanbX || t.wlossX then stTrouble else stSuccess

/-- The status with a photo finish's correction (R262). -/
def tileFinal (int : Bool) (t : TileRun) : Nat :=
  if t.corrected = 0 then tileStatus int t else pickStatus t.corrected (tileStatus int t)

/-- A tile finished: status and words (R259). -/
def finishTile (s : State) (q i : Nat) (int : Bool) (t : TileRun) : State :=
  modFlight s q i fun f =>
    { f with done := true, acted := true, tile := some t, status := tileFinal int t, wordA := tileSummary int t
             wordB := satNat 32 t.feedStall * 2 ^ 32 + satNat 16 t.drainSat * 2 ^ 16 + satNat 16 t.drainFlush }

def keepTile (s : State) (q i : Nat) (t : TileRun) : State :=
  modFlight s q i fun f => { f with acted := true, tile := some t }

/-- Whether an operand that crossed can be widened (R121): its own part held, the other operand's part filled again, the repeat
area enabled. Integer operands are never widened (R99). -/
def canWiden (s : State) (h k : Nat) (g : GemmPar) (own other : List (Option (FillRec × FillRow))) : Bool :=
  !isIntFmt g.fA && repeatEnabled s h && partHeld s k own && partRefills s k other

/-- The counters of a pass evaluated (R99, R120 to R122, R134): a repeat is decided, or the tile finishes. -/
def evaluatePass (s : State) (h q k : Nat) (f : Flight) (g : GemmPar) (t : TileRun) (o : PassOut) : State :=
  let int := isIntFmt g.fA
  let p := t.policy
  let ta := trigBits p o.evA
  let tb := trigBits p o.evB
  let nx := crosses (cap24 o.evA.nanb) (polNanb p) || crosses (cap24 o.evB.nanb) (polNanb p)
  let wx := crosses (cap24 o.wloss) (polWloss p)
  let oa := ownersA s k g t
  let ob := ownersB s k g t
  let ceilA := !int && ta != 0 && t.rungA ≥ polCeiling p
  let ceilB := !int && tb != 0 && t.rungB ≥ polCeiling p
  let wa := ta != 0 && !ceilA && canWiden s h k g oa ob
  let wb := tb != 0 && !ceilB && canWiden s h k g ob oa
  let pin := !int && ((ta != 0 && !ceilA && !wa) || (tb != 0 && !ceilB && !wb))
  let t := { t with
    trigA := if t.repeats = 0 then ta else t.trigA
    trigB := if t.repeats = 0 then tb else t.trigB
    nanbX := t.nanbX || nx
    wlossX := t.wlossX || wx
    ceilHit := t.ceilHit || ceilA || ceilB
    pinReq := t.pinReq || pin
    srcAbsent := t.srcAbsent || pin
    drainSat := o.drainSat
    drainFlush := o.drainFlush
    widenA := wa
    widenB := wb
    again := wa || wb }
  let crossed := ta != 0 || tb != 0 || nx || wx
  let seq := (getHeat s h).troubleSeq
  let has := dget s (hCfg h) 0x0B != 0
  let t := if crossed && has && !t.logged then { t with logged := true, logIndex := seq } else t
  let s := if crossed then (logTrouble s h (troubleWord s h k f.desc g t o)).1 else s
  if t.again then
    let s := if wa then lockHolds s k (holdIds oa) true else s
    let s := if wb then lockHolds s k (holdIds ob) true else s
    keepTile s q f.index t
  else finishTile s q f.index int t

/-- The failed checks lie in the outlier unit alone; beside one in an array cell the array's code and count stand (DEDUCED, log
entry 115). -/
def onlyOutlier (l : List Residue) : Bool := l.all (·.outlier)

/-- R435: whether a pass whose operand parts have these owners can be run again. -/
def canRerun (s : State) (h k : Nat) (owners : List (Option (FillRec × FillRow))) : Bool :=
  repeatEnabled s h && owners.all fun o => match o with
    | some (f, _) => !(f.srcKind == 2 || (f.srcKind == 3 && !(match f.hold with | some i => holdLive s k i | none => false)))
    | none => true

/-- A marked pass that cannot be run again (R435): a C2 of cause 3, and a transient. -/
def uncontained (s : State) (h k : Nat) (bad : List Residue) : State :=
  let p := physSlot s k
  raise (recordTransient s p (b2n (onlyOutlier bad)) (some h))
    { code := 0x0103, cls := 2, cause := 3, heat := some h, unit := p, unitKind := 1 }

/-- What follows a pass: one with a failed check is marked and waits for its photo finish, or is uncontained (R433, R435); any
other is evaluated. -/
def afterPass (s : State) (h q k : Nat) (f : Flight) (g : GemmPar) (t : TileRun) (o : PassOut) : State :=
  if o.bad.isEmpty then evaluatePass s h q k f g t o
  else if canRerun s h k (ownersA s k g t ++ ownersB s k g t) then
    keepTile s q f.index { t with marked := o.bad, outs := o.outs, again := false }
  else uncontained (keepTile s q f.index { t with again := false }) h k o.bad

/-- A row with its elements from position lo to below hi consumed. -/
def FillRow.consume (x : FillRow) (lo hi : Nat) : FillRow :=
  if lo ≤ x.pos + x.held then { x with used := max x.used (min x.codes.length (hi - x.pos)) } else x

/-- The array has consumed positions p0 to below p1 of an operand region, in bank b those b further along where the stream is
skewed (R61, R66): in the words that hold them, and of a waiting fill those that went through. -/
def consume (s : State) (k : Nat) (el : Region) (p0 p1 : Nat) (skew : Bool) : State :=
  modCore s k fun c =>
    let off (x : FillRow) : Nat := if skew then x.bank else 0
    let use (x : FillRow) : FillRow := x.consume (p0 + off x) (p1 + off x)
    let fed (f : FillRec) (x : FillRow) : Bool := match holder el f.width x.bank (x.pos + x.held) c.log with
      | .row _ _ | .other => false
      | _ => true
    { c with
      log := c.log.map fun y => match y with
        | .fill f => if f.elem = el then .fill { f with rows := f.rows.map use } else y
        | .bytes _ => y
      waiting := c.waiting.map fun f =>
        if f.elem = el then { f with rows := f.rows.map fun x => if fed f x then use x else x } else f }

/-- What waits for the array moves on; a fill that is whole is done (R66). -/
def moveFills (s : State) (k : Nat) : State :=
  let before := (getCore s k).waiting
  let s := advanceWaiting s k
  (before.filter fun f => !fillWaits s k f.queue f.index).foldl (fun s f =>
    settleDma (modFlight s f.queue f.index fun x => { x with waits := false }) f.queue f.index) s

/-- A position of a tile's operand that is not marked written: the array waits (R66). -/
def feedMissing (s : State) (k : Nat) (f : Fmt) (el : Region) (banks : List Nat) (kb p0 : Nat) : Bool :=
  banks.any fun b => (List.range (32 * kb)).any fun t => notWritten s k el f.elemBits b (p0 + b + t)

/-- GEMM_TILE: the first pass of the running tile. DEDUCED (log entry 20): a tile with an all-zero row_mask feeds nothing (R89), so
it marks no position consumed, and a fill that waits for them waits on (R66). -/
def gemmStep (q : Nat) (n : Nature) (h : Nat) (f : Flight) (s : State) : State :=
  let k := (getQueue s q).slot
  let g := GemmPar.ofDesc f.desc
  let cls := heatCls s h
  match f.tile with
  | none => s
  | some t =>
    let rows := activeRows g
    let cols := List.range g.cols
    let ref : TileRef :=
      { fmtA := g.fA, fmtB := g.fB, aElem := g.aElem, bElem := g.bElem, aScale := g.aScale, bScale := g.bScale
        pos := t.pos0 + 32 * g.kBlocks, kblk := t.kblk0 + g.kBlocks }
    let s1 := modCore s k fun c => { c with prev := some ref }
    if g.rowMask = 0 then finishTile s1 q f.index (isIntFmt g.fA) t
    else if feedMissing s k g.fA g.aElem rows g.kBlocks t.pos0 || feedMissing s k g.fB g.bElem cols g.kBlocks t.pos0 then s
    else
      let a := bufferOperand s k cls g.fA g.aElem g.aScale rows g.kBlocks t.pos0 t.kblk0
      let b := bufferOperand s k cls g.fB g.bElem g.bScale cols g.kBlocks t.pos0 t.kblk0
      let o := runPass s k g a b cls n
      let s := writeOver (writeOver s1 k g.aElem g.fA.elemBits t.pos0 o.excess) k g.bElem g.fB.elemBits t.pos0 o.overB
      let s := writeOuts s k g o.outs
      let s := consume (consume s k g.aElem t.pos0 ref.pos true) k g.bElem t.pos0 ref.pos true
      let s := addFlush s h o.drainFlush
      let c := getCore s1 k
      afterPass (moveFills s k) h q k f g { t with feedStall := n.feedStall, log := c.log, waiting := c.waiting } o

def execGemmTile (q : Nat) (n : Nature) (s : State) : Host.Outcome State Fault Refusal :=
  withRunning q opGemm s fun h f => gemmStep q n h f s

/-- A started tile that waits for a repeat or a photo finish. -/
def tileFlight (s : State) (q : Nat) (p : TileRun → Bool) : Option (Nat × Flight × TileRun) :=
  match queueHeat s q, (getQueue s q).flights.find? fun f =>
      f.opcode == opGemm && !f.done && (match f.tile with | some t => p t | none => false) with
  | some h, some f => f.tile.map fun t => (h, f, t)
  | _, _ => none

/-- The conversion context of a recorded fill at a target. -/
def recCtx (s : State) (h : Nat) (f : FillRec) (t : Option Fmt) : ConvCtx :=
  let p := DmaPar.ofDesc f.desc f.ext
  let k8 := polK8 f.pol
  { src := f.srcF, dst := t, cls := heatCls s h, seed := heatSeed s h
    par := { rot := p.rot, side := p.side, layer := p.layer, tensor := p.rotTensor, k8 := k8 }
    k0 := p.kFirst, n := p.rowLen
    lift := t = some .x4 || t = some .x8
    list := p.listEn && p.srcKind = 0 }

/-- A fill whose source is memory, which is read again when it is run again under its original parameters: not one that is
widened, which takes its held source (R122). -/
def rereads (f : FillRec) (p : DmaPar) (t : Option Fmt) : Bool := p.srcKind = 0 && t = f.fmt

/-- What another chip answers for a row read again; where the command brings nothing, the row as it was read before (DEDUCED, log
entry 117). -/
def rereadOf (n : Nature) (f : FillRec) (x : FillRow) : Option Reread := n.rereads.find? fun r => r.fill = f.id && r.bank = x.bank

/-- n bytes read again: through the caches where they lie on this device (R122, R234), else as given. -/
def reread (s : State) (h : Nat) (f : FillRec) (p : DmaPar) (again here : Bool) (a n : Nat) (old : List Byte) :
    State × Option (List Byte) :=
  if again && here then loadLocal s h (queueCluster f.queue) p.cache a n else (s, some old)

/-- The side-list entries of a recorded fill's row: read again with it where the list lies in memory, else as they came. -/
def refillEnts (s : State) (h : Nat) (f : FillRec) (x : FillRow) (p : DmaPar) (again : Bool) (far : Option Reread) :
    State × Option (List Lifted) :=
  let entries (l : List Byte) : List Lifted :=
    let hd := parseHead (l.take 32)
    rowEntries p f.srcF hd ((List.range hd.count).map (parseEntry (l.drop 32))) (x.bank - p.bankFirst)
  if !(again && readsList p f.srcF) then (s, some x.ents)
  else if isLocal s (gChip p.listAddr) then
    let r := loadLocal s h (queueCluster f.queue) p.cache (gOff p.listAddr) 32
    match r.2 with
    | none => (r.1, none)
    | some l =>
      let y := loadLocal r.1 h (queueCluster f.queue) p.cache (gOff p.listAddr) (32 + 8 * (parseHead l).count)
      (y.1, y.2.map entries)
  else (s, some (match far with | some r => entries r.list | none => x.ents))

/-- A recorded fill's row filled again at a target (R122, R434), from the entries of its source's list; none where a sector
failed (R214). What came from a held source or a stream is taken as it was read. -/
def refillRow (s : State) (h : Nat) (f : FillRec) (x : FillRow) (t : Option Fmt) (n : Nature) : State × Option FillRow :=
  let p := DmaPar.ofDesc f.desc f.ext
  let r := x.bank - p.bankFirst
  let again := rereads f p t
  let mx := match f.srcF with | some sf => sf.isMx | none => false
  let at' : Nat := ((activeDma p).findIdx? (· == r)).getD 0
  let far := if again then rereadOf n f x else none
  let old (b : List (List Byte)) (g : Reread → List Byte) : List Byte := match far with | some y => g y | none => nth [] b at'
  let y := reread s h f p again (isLocal s (gChip p.src)) (gOff p.src + r * p.srcStride) (rowBytesOf f.srcF p.rowLen)
    (old f.raw (·.data))
  let z := if y.2.isSome then
      reread y.1 h f p (again && mx) true (p.srcScale + r * ceilDiv p.rowLen 32) (ceilDiv p.rowLen 32) (old f.scs (·.scales))
    else (y.1, none)
  let e := if z.2.isSome then refillEnts z.1 h f x p again far else (z.1, none)
  match y.2, z.2, e.2 with
  | some src, some sc, some es => (e.1, some (toFillRow p t r es (convRow (recCtx s h f t) src sc es)))
  | _, _, _ => (e.1, none)

/-- The rows of a part filled again, each once, with the number of its fill; none where a sector failed. -/
def refillAll (s : State) (h : Nat) (t : Fmt) (n : Nature) (own : List (Option (FillRec × FillRow))) :
    State × Option (List (Nat × FillRow)) :=
  own.foldl (fun (acc : State × Option (List (Nat × FillRow))) o => match o, acc.2 with
    | some (f, x), some l =>
      if l.any fun y => y.1 = f.id && y.2.bank = x.bank then acc
      else
        let r := refillRow acc.1 h f x (some t) n
        (r.1, r.2.map fun y => l ++ [(f.id, y)])
    | _, _ => acc) (s, some [])

/-- The formats of a tile's operands at its rungs. -/
def runFmtA (g : GemmPar) (t : TileRun) : Fmt := if isIntFmt g.fA then g.fA else rungFmt t.rungA
def runFmtB (g : GemmPar) (t : TileRun) : Fmt := if isIntFmt g.fB then g.fB else rungFmt t.rungB

/-- A pass over operands filled again (R122, R434): what it produces, its operands, and the FLUSH events of its fills. -/
structure RepeatOut where
  out   : PassOut
  a     : Operand
  b     : Operand
  flush : Nat

/-- An operand of a pass run again, and the FLUSH events of its fills; none where a sector failed. One with a part that no fill
wrote is read as it stands. -/
def repeatPart (s : State) (h k : Nat) (g : GemmPar) (t : TileRun) (n : Nature) (f f' : Fmt) (el sc : Region) (banks : List Nat)
    (own : List (Option (FillRec × FillRow))) : State × Option (Operand × Nat) :=
  let cls := heatCls s h
  if own.all Option.isSome then
    let r := refillAll s h f' n own
    (r.1, r.2.map fun rows => (repeatOperand (atPass r.1 k t) k cls f f' el banks g.kBlocks t.pos0 rows,
      (rows.map fun x => (evSum x.2.evs).flush).sum))
  else (s, some (bufferOperand (atPass s k t) k cls f el sc banks g.kBlocks t.pos0 t.kblk0, 0))

/-- The pass at the tile's rungs; none where a sector failed as its operands were filled again. -/
def repeatPass (s : State) (h k : Nat) (g : GemmPar) (t : TileRun) (n : Nature) : State × Option RepeatOut :=
  let a := repeatPart s h k g t n g.fA (runFmtA g t) g.aElem g.aScale (activeRows g) (ownersA s k g t)
  match a.2 with
  | none => (a.1, none)
  | some x =>
    let b := repeatPart a.1 h k g t n g.fB (runFmtB g t) g.bElem g.bScale (List.range g.cols) (ownersB s k g t)
    (b.1, b.2.map fun y => ⟨runPass s k g x.1 y.1 (heatCls s h) n, x.1, y.1, x.2 + y.2⟩)

/-- A repeat's pass entered: its operands through the repeat area, its outputs over the earlier ones, its FLUSH events counted
(R45, R122, R123). -/
def enterRepeat (s : State) (h k : Nat) (g : GemmPar) (o : RepeatOut) : State :=
  let s := feedRepeat (feedRepeat s k false o.a) k true o.b
  addFlush (writeOuts s k g o.out.outs) h (o.out.drainFlush + o.flush)

/-- TILE_REPEAT: the repeat a pass decided (R122). -/
def execTileRepeat (q : Nat) (n : Nature) (s : State) : Host.Outcome State Fault Refusal :=
  match tileFlight s q (fun t => t.again && t.marked.isEmpty) with
  | none => .next s
  | some (h, f, t) =>
    let k := (getQueue s q).slot
    let g := GemmPar.ofDesc f.desc
    let t := { t with
      rungA := t.rungA + b2n t.widenA
      rungB := t.rungB + b2n t.widenB
      repeats := t.repeats + 1
      again := false
      widenA := false
      widenB := false }
    let r := repeatPass s h k g t n
    match r.2 with
    | none => .next r.1
    | some o =>
      let t := { t with repeatBeats := t.repeatBeats + 32 * g.kBlocks + 253 + o.out.stall }
      let s := enterRepeat r.1 h k g o
      let s := lockHolds s k (holdIds (ownersA s k g t ++ ownersB s k g t)) false
      .next (afterPass s h q k f g t o.out)

/-- The outputs of two passes compared at every cell that passed its checks in the marked one (R436). -/
def outsAgree (bad : List Residue) (a b : List (Nat × Nat × Nat)) : Bool :=
  (a.zip b).all fun x => bad.any (fun r => x.1.1 = r.row && x.1.2.1 = r.col) || x.1 = x.2

/-- What a DIAG_EW wrote lands in its result region; no later tile is chained to it (R97). -/
def writeDiag (s : State) (k : Nat) (d : DiagPar) (l : List (Nat × Nat)) : State :=
  let s := l.foldl (fun s x => putElem s k d.r 32 (diagBank x.1) (diagPos x.1) x.2) s
  let s := noteBufWrite s k (l.map fun x => (posBit d.r 32 (diagBank x.1) (diagPos x.1) / 8, 4))
  modCore s k fun c => { c with prev := none }

/-- A DIAG_EW that is over: its inputs consumed as a tile's are (R66), its events counted. -/
def endDiag (s : State) (h q k : Nat) (f : Flight) (d : DiagPar) (st : Nat) (e : Ev) : State :=
  let p := 32 * ceilDiv d.n 4096
  let s := consume (consume s k d.a 0 p false) k d.b 0 p false
  let s := moveFills (if d.fma then consume s k d.c 0 p false else s) k
  let s := addFlush s h e.flush
  finish s q f.index st d.n (satNat 16 e.sat * 2 ^ 16 + satNat 16 e.flush)

/-- The owners of a DIAG_EW's inputs. -/
def diagOwners (s : State) (k : Nat) (d : DiagPar) : List (Option (FillRec × FillRow)) :=
  let of_ (r : Region) (w : Nat) := (List.range d.n).map fun e => ownerRow s k r w (diagBank e) (diagPos e)
  of_ d.a ((arrayFmt d.fmtA).getD .x4).elemBits ++ of_ d.b ((arrayFmt d.fmtB).getD .x4).elemBits ++ (if d.fma then of_ d.c 32 else [])

/-- DIAG_EW (R94 to R97), which waits for its inputs and consumes them as a tile does (R66); one with a failed check is marked, its
inputs kept for the photo finish, or is uncontained (R433, R435; DEDUCED, log entry 115). -/
def execDiagEw (q : Nat) (n : Nature) (s : State) : Host.Outcome State Fault Refusal :=
  withRunning q opDiag s fun h f =>
    let k := (getQueue s q).slot
    let d := DiagPar.ofDesc f.desc
    if diagMissing s k d then s
    else
      let r := diagRun s k (heatCls s h) d n.errors
      let own := diagOwners s k d
      let s := writeDiag s k d r.outs
      if r.bad.isEmpty then endDiag s h q k f d stSuccess r.ev
      else if canRerun s h k own then
        modFlight s q f.index fun f => { f with acted := true, diag := some ⟨r.bad, r.outs⟩ }
      else uncontained (modFlight s q f.index fun f => { f with acted := true }) h k r.bad

/-- The outputs of two diagonal passes compared at every element that passed its checks in the marked one (R436). -/
def diagAgree (m : DiagMark) (l : List (Nat × Nat)) : Bool :=
  (m.outs.zip l).all fun x => m.bad.any (fun r => diagBank x.1.1 = r.row && diagPos x.1.1 = r.col) || x.1 = x.2

/-- A marked DIAG_EW of the queue. -/
def diagFlight (s : State) (q : Nat) : Option (Nat × Flight × DiagMark) :=
  match queueHeat s q, (getQueue s q).flights.find? fun f => !f.done && f.diag.isSome with
  | some h, some f => f.diag.map fun m => (h, f, m)
  | _, _ => none

/-- The photo finish of a DIAG_EW (R434, R436). -/
def diagFinish (s : State) (q : Nat) (n : Nature) (h : Nat) (f : Flight) (m : DiagMark) : State :=
  let k := (getQueue s q).slot
  let d := DiagPar.ofDesc f.desc
  let r := diagRun s k (heatCls s h) d n.errors
  let p := physSlot s k
  let s := writeDiag (modFlight (dadd s 0x2D60 2 1) q f.index fun f => { f with diag := none }) k d r.outs
  if !r.bad.isEmpty then retirePermanent s p 1 (some h)
  else if !diagAgree m r.outs then retirePermanent s p 2 (some h)
  else endDiag (recordTransient s p 0 (some h)) h q k f d stCorrArray r.ev

/-- PHOTO_FINISH: the marked pass run again on the same core (R434, R436). -/
def execPhotoFinish (q : Nat) (n : Nature) (s : State) : Host.Outcome State Fault Refusal :=
  match tileFlight s q (fun t => !t.marked.isEmpty) with
  | none => match diagFlight s q with
    | some (h, f, m) => .next (diagFinish s q n h f m)
    | none => .next s
  | some (h, f, t) =>
    let k := (getQueue s q).slot
    let g := GemmPar.ofDesc f.desc
    let c := repeatPass s h k g t n
    match c.2 with
    | none => .next c.1
    | some o =>
      let s := dadd c.1 0x2D60 2 1
      let p := physSlot s k
      let s := enterRepeat s h k g o
      let t' := { t with marked := [], outs := [] }
      if !o.out.bad.isEmpty then .next (retirePermanent (keepTile s q f.index t') p 1 (some h))
      else if !outsAgree t.marked t.outs o.out.outs then .next (retirePermanent (keepTile s q f.index t') p 2 (some h))
      else
        let s := recordTransient s p (b2n (onlyOutlier t.marked)) (some h)
        let t' := { t' with corrected := if onlyOutlier t.marked then stCorrOutlier else stCorrArray }
        .next (evaluatePass s h q k f g t' o.out)

/-! ## The commit (R126, R130, R135) -/

/-- One count of a layer statistics entry raised by an ADD_I32 or ADD_I64, which wraps (R218). -/
def bump (v hi lo n : Nat) : Nat := putBits v hi lo ((bitsOf v hi lo + n) % 2 ^ (hi + 1 - lo))

/-- A tile's entry in its layer's statistics: memory-side additions from its core's cluster, which loses its copy (R130, R135,
R234). -/
def commitStats (s : State) (h k : Nat) (g : GemmPar) (t : TileRun) : State :=
  let a := dget s (hCfg h) 0x0C + g.layer * 64
  let r := checkRead s a 64
  if !r.2 then r.1
  else
    let v := readNat r.1 a 64
    let v := bump v 511 480 1
    let v := if t.pinReq then bump v 447 416 1 else if t.repeats > 0 then bump v 479 448 1 else v
    let v := if t.ceilHit then bump v 415 384 1 else v
    let v := if t.repeats > 0 then bump v 191 128 1 else v
    let v := bump v 127 64 t.repeatBeats
    cacheInvalidate (writeNat r.1 a 64 v) (slotCluster k) a 64

/-- One consumer of each held source behind a tile's operands has committed (R126). -/
def releaseHolds (s : State) (k : Nat) (ids : List Nat) : State :=
  modCluster s (slotCluster k) fun c =>
    let l := c.holds.map fun x => if ids.contains x.id then { x with left := x.left - 1 } else x
    { c with holds := l.filter fun x => x.left != 0 }

/-- What a tile does when its record is written. -/
def commitTile (s : State) (h k : Nat) (f : Flight) : State :=
  match f.tile with
  | none => s
  | some t =>
    let g := GemmPar.ofDesc f.desc
    if g.rowMask = 0 then s
    else
      let ids := holdIds (ownersA s k g t ++ ownersB s k g t)
      releaseHolds (commitStats s h k g t) k ids

/-- A table change takes effect (R116, R129, R179). -/
def applyLate (s : State) (h : Nat) : Late → State
  | .policy n v => modHeat s h fun x => { x with policies := tabSet x.policyInit x.policies n v }
  | .coef n v => modHeat s h fun x => { x with coef := tabSet coefDefault x.coef n v }
  | .layer n r => modHeat s h fun x => { x with layers := tabSet {} x.layers n r }
  | .step n => modHeat s h fun x => { x with lastStep := n }

/-- COMPLETION_RECORD: the record of the oldest finished command of the queue (R251, R253, R258, R260). -/
def execCompletionRecord (q : Nat) (s : State) : Host.Outcome State Fault Refusal :=
  let x := getQueue s q
  match queueHeat s q, x.flights with
  | some h, f :: l =>
    if !f.done then .next s
    else
      let s := writeRecord s x f
      let s := if f.opcode = opGemm then commitTile s h x.slot f else s
      let s := if f.status / 256 = 1 then s else f.after.foldl (fun s a => applyLate s h a) s
      let s := countRecord s h f.status
      let s := freePrefetch s q f.index
      let s := modCore s x.slot fun c => { c with irqs := c.irqs + b2n (dIrq f.desc), quietAt := s.now }
      .next (setQueue s q (retire x f l))
  | _, _ => .next s

end Sys2Proof.Machine
end

