-- ==== Sys2Proof/Machine/Mem.lean ====
section
/-! DEFINITION. Memory as commands use it: memory-side operations, the cluster caches, the gradient ledger and ordered
regions (R172 to R177, R218 to R236). -/

namespace Sys2Proof.Machine

/-! ## Loads and stores of a local agent -/

/-- The pieces of a range of core-buffer windows by logical core: core, offset, length. -/
def windowPieces (k o n : Nat) : List (Nat × Nat × Nat) :=
  (List.range (ceilDiv (o + n) coreBytes)).filterMap fun i =>
    let lo := max o (i * coreBytes)
    let hi := min (o + n) ((i + 1) * coreBytes)
    if lo < hi then some (k + i, lo - i * coreBytes, hi - lo) else none

/-- A store by an agent, in cluster c where it is one of a cluster; false where a masked sector failed. -/
def storeLocal (s : State) (c : Option Nat) (a : Nat) (l : List Byte) : State × Bool :=
  match place s a with
  | .stack =>
    let r := storeStack s a l
    (match c with | some c => cacheUpdate r.1 c a l | none => r.1, r.2)
  | .coreBuf k o =>
    let s := writeBytes s a l
    ((windowPieces k o l.length).foldl (fun s x => noteBufWrite s x.1 [(x.2.1, x.2.2)]) s, true)
  | .scratch .. => (writeBytes s a l, true)
  | _ => (s, true)

/-! ## Memory-side operations (R218 to R220) -/

/-- One element: stored and payload to the result, with FLUSH events. -/
def memOpElem (op : Nat) (cls : Cls) (a b : Nat) : Nat × Nat :=
  match op with
  | 1 => let r := vop2 fmtF32 cls fvAdd a b; (r.1, r.2.flush)
  | 2 => let r := vop2 fmtBF16 cls fvAdd a b; (r.1, r.2.flush)
  | 3 => ((a + b) % 2 ^ 32, 0)
  | 4 => ((a + b) % 2 ^ 64, 0)
  | 5 => (if sext 32 b < sext 32 a then b else a, 0)
  | 6 => (if sext 32 a < sext 32 b then b else a, 0)
  | _ => (b, 0)

/-- A memory-side operation over a range of stack memory: the state, and false where a sector failed (R214). -/
def applyMemOp (s : State) (op a : Nat) (l : List Byte) : State × Bool :=
  let r := checkRead s a l.length
  if !r.2 then r
  else
    let b := memOpBytes op
    let s := r.1
    let own := heatOfAddr s a
    let cls := match own with | some h => heatCls s h | none => .train
    let x := (List.range (l.length / b)).foldl (fun (acc : State × Nat) i =>
      let at_ := a + i * b
      let v := memOpElem op cls (readNat acc.1 at_ b) (natAt l (i * b) b)
      (writeNat acc.1 at_ b v.1, acc.2 + v.2)) (s, 0)
    (match own with | some h => addFlush x.1 h x.2 | none => x.1, true)

/-! ## The micro-batch norm (R176, R197, R219) -/

/-- The squares of a MICRO payload of FP32 elements added to its entry's window, subnormals as the heat's class reads them; and
the FLUSH events of the reading. -/
def addSquares (s : State) (h l : Nat) (payload : List Byte) : State × Nat :=
  let cls := heatCls s h
  let e := getLedger s h l
  let r := (List.range (payload.length / 4)).foldl (fun (acc : Ledger × Nat) i =>
    let v := fmtF32.read cls (natAt payload (4 * i) 4)
    (if v.1.isFin then { acc.1 with mbWin := acc.1.mbWin.addSq v.1 } else { acc.1 with mbNonfinite := true },
      acc.2 + b2n v.2)) (e, 0)
  (setLedger s h l r.1, r.2)

/-- The same where an addition of the operation reads the payload too and counts its FLUSH events (R219). -/
def squaresOf (s : State) (h op : Nat) (p : ContribSpan) (l : List Byte) : State :=
  if p.kind = 1 && op = 1 then (addSquares s h p.layer l).1 else s

/-! ## Ordered regions (R224 to R227) -/

def modRegion (s : State) (h r : Nat) (f : OrdRegion → OrdRegion) : State :=
  modHeat s h fun x => { x with regions := modNth x.regions r f }

/-- The regions of a heat, open or closed, that a range touches, by number. -/
def regionsAt (s : State) (h a n : Nat) : List (Nat × OrdRegion) :=
  let l := (getHeat s h).regions
  ((List.range l.length).zip l).filter fun r => overlaps r.2.base r.2.bytes a n

/-- The first of them. -/
def regionAtAddr (s : State) (h a n : Nat) : Option (Nat × OrdRegion) := (regionsAt s h a n).head?

/-- Ranges cut at an address. -/
def cutAt (p : Nat) (l : List (Nat × Nat)) : List (Nat × Nat) :=
  l.flatMap fun x => if x.1 < p && p < x.1 + x.2 then [(x.1, p - x.1), (p, x.1 + x.2 - p)] else [x]

/-- A range cut where ordered regions begin and end: address, bytes, and the region each piece lies in. -/
def regionCuts (s : State) (h a n : Nat) : List (Nat × Nat × Option (Nat × OrdRegion)) :=
  let l := regionsAt s h a n
  (l.foldl (fun c r => cutAt (r.2.base + r.2.bytes) (cutAt r.2.base c)) [(a, n)]).map fun c =>
    (c.1, c.2, l.find? fun r => overlaps r.2.base r.2.bytes c.1 c.2)

/-- Where a contribution goes: into its staging half (true), directly (false), or nowhere yet (R225). -/
def ordPlace (r : OrdRegion) (order : Nat) : Option Bool :=
  match r.contribs.find? (·.order = order) with
  | some c => some c.staged
  | none =>
    if order = r.next then some false
    else if r.next < order && order ≤ r.next + 2 &&
        !r.contribs.any fun c => c.staged && c.order % 2 = order % 2 then some true
    else none

/-- Whether a sender's contribution of a number may still come: none is whole, and none of another sender has begun (R226). -/
def ordFresh (r : OrdRegion) (order : Nat) (who : Sender) : Bool :=
  order < r.members && r.next ≤ order && !r.contribs.any fun c => c.order = order && (c.whole || c.owner != who)

/-- A region's refusal of an operation; `op` 0 is a plain store (R226). -/
def OrdRegion.refuses (r : OrdRegion) (op : Nat) (en : Bool) (order : Nat) (who : Sender) : Bool :=
  if r.closed then op != 0
  else op = 0 || !en || op != (if r.bf16 then 2 else 1) || !ordFresh r order who

/-- R226 for an add-into or store to a range: whether a region it touches refuses it. -/
def ordViolates (s : State) (h a n op : Nat) (en : Bool) (order : Nat) (who : Sender) : Bool :=
  (regionsAt s h a n).any fun r => r.2.refuses op en order who

/-- A region that a range touches holds the contribution back (R225). -/
def ordHolds (s : State) (h a n order : Nat) : Bool :=
  (regionsAt s h a n).any fun r => !r.2.closed && (ordPlace r.2 order).isNone

/-- A number whose turn has passed: what is still held back under it can only be refused (R226). -/
def ordPast (r : OrdRegion) (order : Nat) : Bool := r.closed || order < r.next

/-- `next` risen past a contribution that is whole in the region; the last one closes it. -/
def riseNext (r : OrdRegion) (order : Nat) : OrdRegion :=
  let n := order + 1
  { r with next := n, contribs := r.contribs.filter (·.order != order), closed := n = r.members }

/-- A member's contribution whole in the region: counted in its ledger entry, of kind REDUCE (R176, R227). A local command counts
when it completes, a member of no collective nowhere. -/
def ordWhole (s : State) (h r : Nat) (c : Contrib) : State :=
  let s := modRegion s h r fun x => riseNext x c.order
  match c.owner, c.spans with
  | .coll .., p :: _ => if p.kind = 2 then contribute s h p.layer 2 else s
  | _, _ => s

/-- A region of no bytes, for a number that names none. -/
def noRegion : OrdRegion := { base := 0, bytes := 0, members := 0, bf16 := false, stage := 0 }

def getRegion (s : State) (h r : Nat) : OrdRegion := nth noRegion (getHeat s h).regions r

/-- A span of a contribution entered: in the contribution, or as its first. -/
def OrdRegion.enter (x : OrdRegion) (order : Nat) (who : Sender) (staged : Bool) (p : ContribSpan) : OrdRegion :=
  if x.contribs.any (·.order = order) then
    { x with contribs := x.contribs.map fun c => if c.order = order then { c with spans := p :: c.spans } else c }
  else
    { x with contribs := x.contribs ++ [{ order := order, owner := who, staged := staged, whole := false, spans := [p] }] }

/-- Where byte a of a region lies in the staging half of a contribution. -/
def OrdRegion.stagedAt (x : OrdRegion) (order a : Nat) : Nat := x.stage + order % 2 * x.bytes + (a - x.base)

/-- One piece of a contribution, whole in region r, applied or staged: the state, and false where a sector failed. -/
def ordApply (s : State) (h r op order : Nat) (who : Sender) (p : ContribSpan) (l : List Byte) : State × Bool :=
  let reg := getRegion s h r
  let staged := (ordPlace reg order).getD false
  let s := modRegion s h r fun x => x.enter order who staged p
  if staged then storeStack s (reg.stagedAt order p.addr) l
  else applyMemOp (squaresOf s h op p l) op p.addr l

/-- An add-into of bytes at a: each piece into the ordered region it lies in, the others straight into memory; a closed region
takes nothing. -/
def addInto (s : State) (h op order : Nat) (who : Sender) (p : ContribSpan) (l : List Byte) : State × Bool :=
  (regionCuts s h p.addr l.length).foldl (fun (acc : State × Bool) c =>
    let d := sliceBytes l (c.1 - p.addr) c.2.1
    let q := { p with addr := c.1, len := c.2.1 }
    if !acc.2 then acc
    else match c.2.2 with
      | none => applyMemOp (squaresOf acc.1 h op q d) op c.1 d
      | some r => if r.2.closed then acc else ordApply acc.1 h r.1 op order who q d) (s, true)

/-- A contribution's end in a region: one applied directly counts, a staged one waits for its turn. -/
def ordEnd (s : State) (h r order : Nat) : State :=
  match (getRegion s h r).contribs.find? (·.order = order) with
  | none => s
  | some c =>
    if c.staged then
      modRegion s h r fun x =>
        { x with contribs := x.contribs.map fun y => if y.order = order then { y with whole := true } else y }
    else ordWhole s h r c

/-- The same in every region that a list of ranges touches. -/
def ordEndAll (s : State) (h order : Nat) (l : List (Nat × Nat)) : State :=
  (rangeWhere (getHeat s h).regions.length fun r =>
    let x := getRegion s h r
    l.any fun y => overlaps x.base x.bytes y.1 y.2).foldl (fun s r => ordEnd s h r order) s

/-- A command has a part in a staging half, not yet added (R222, R225). -/
def stagedPart (s : State) (h q i : Nat) : Bool :=
  (getHeat s h).regions.any fun r => r.contribs.any fun c => c.staged && c.spans.any fun p => p.cmd = some (q, i)

/-! ## The patrol scrub and the in-die counts (R209, R215) -/

/-- Sectors of stack memory. -/
def sectorCount (s : State) : Nat := stackTop s / 64

/-- The patrol's pass is over: it has read every sector. -/
def passOver (s : State) : Bool := s.scrubbed.length ≥ sectorCount s

/-- A new pass begun, where the last one is over and its period (0x2720:02, in hours) has passed since it began. -/
def beginPass (s : State) : State :=
  if passOver s && s.scrubBegan + dget s 0x2720 2 * 36000000000000 ≤ s.now then { s with scrubbed := [], scrubBegan := s.now } else s

/-- PATROL_SCRUB: a sector that the pass has not read yet, its correction written back unless the sector was written meanwhile. A pass
reads every sector once, in an order of the device's own (R215). -/
def execPatrolScrub (sector : Nat) (errs : List (Nat × Byte)) (written : Bool) (s : State) :
    Host.Outcome State Fault Refusal :=
  let s := injectErrs (beginPass s) [⟨sector, errs⟩]
  if sectorCount s ≤ sector || s.scrubbed.contains sector then .next s
  else
    let r := (readSector s sector).1
    let r := if written then { r with mem := s.mem, blank := s.blank, errs := s.errs } else r
    let r := { r with scrubbed := sector :: r.scrubbed }
    .next (if passOver r then dadd r 0x2D10 5 1 else r)

/-- IN_DIE_COUNT_READ: the stacks' counts; new corrections are a C0 event. -/
def execInDieCountRead (total : Nat) (s : State) : Host.Outcome State Fault Refusal :=
  let n := min total (2 ^ 64 - 1)
  let t := dset s 0x2D10 4 n
  .next (if dget s 0x2D10 4 < n then raise t { code := 0x0201, cls := 0, detail := memDetail 0 0 0 } else t)

end Sys2Proof.Machine
end

