-- ==== Sys2Proof/Machine/Dma.lean ====
section
/-! DEFINITION. DMA_COPY and QUANT_STREAM: gathering the source rows, converting them, and writing the destination
(R100 to R110, R126, R127, R167 to R169, R218 to R230, R266 to R270, R331, R546, R547). -/

namespace Sys2Proof.Machine

/-! ## Remote packets of a DMA command -/

/-- A range cut where 4 KiB pages meet. -/
def pages (a n : Nat) : List (Nat × Nat) :=
  if n = 0 then []
  else
    (List.range ((a + n - 1) / 4096 - a / 4096 + 1)).map fun i =>
      let lo := max a ((a / 4096 + i) * 4096)
      (lo, min (a + n) ((a / 4096 + i + 1) * 4096) - lo)

/-- Remote transactions of a cluster's DMA engine in flight (R314). -/
def clusterTxns (s : State) (c : Nat) : Nat :=
  (s.txns.filter fun t => match t.owner with | .dma q _ _ => queueCluster q = c | _ => false).length

def freshTxn (s : State) : Nat × State := (s.nextTxn % 2 ^ 24, { s with nextTxn := (s.nextTxn + 1) % 2 ^ 24 })

/-- One packet sent and entered as outstanding. -/
def sendTxn (s : State) (o : TxnOwner) (k : Packet) : State :=
  let r := freshTxn s
  let k := { k with txn := r.1 }
  let s := { r.2 with txns := r.2.txns ++ [{ id := r.1, owner := o, pkt := k, since := r.2.now }] }
  sendPacket s k

/-- What of a command's or transfer's packets may go out now, at most n: in a back-off, those for other chips than the refusing ones;
after it, those to be sent again first (R333). None goes out once it was refused (R332). -/
def Remote.due (m : Remote) (n : Nat) : List (Nat × Packet) :=
  if m.refusal.isSome then []
  else
    let one := if m.retryAt.isSome then [] else m.again.take n
    one ++ (m.unsent.filter fun x => !m.holdChips.contains x.2.dst).take (n - one.length)

/-- The same with those packets gone out. -/
def Remote.sent (m : Remote) (l : List (Nat × Packet)) : Remote :=
  let gone (x : Nat × Packet) : Bool := l.any (·.1 = x.1)
  { m with again := m.again.filter (!gone ·), unsent := m.unsent.filter (!gone ·) }

/-- A chip has answered: outside a back-off it is held no more. -/
def Remote.heard (m : Remote) (chip : Nat) : Remote :=
  if m.retryAt.isSome then m else { m with holdChips := m.holdChips.filter (· != chip) }

/-- A command's unsent packets sent as far as there is room (R314). -/
def pumpDma (s : State) (q i : Nat) : State :=
  match (getQueue s q).flights.find? (·.index = i) with
  | none => s
  | some f =>
    let l := f.rem.due (1024 - clusterTxns s (queueCluster q))
    let s := modFlight s q i fun f => { f with rem := f.rem.sent l }
    l.foldl (fun s k => sendTxn s (.dma q i k.1) k.2) s

/-- The same for every command of a cluster, since a transaction that ends makes room for any of them (R314). -/
def pumpCluster (s : State) (c : Nat) : State :=
  (s.queues.filter fun x => queueCluster x.1 = c).foldl (fun s x =>
    x.2.flights.foldl (fun s f => pumpDma s x.1 f.index) s) s

/-- Packets added to a command's remote work. -/
def queuePackets (s : State) (q i : Nat) (l : List (Nat × Packet)) : State :=
  pumpDma (modFlight s q i fun f =>
    { f with acks := f.acks + l.length, rem := { f.rem with unsent := f.rem.unsent ++ l } }) q i

/-! ## Rows -/

/-- Where the pieces of a remote source lie in the order asked for: rows, then the list's header, then its entries. -/
def headPlace : Nat := 2 ^ 40
def entryPlace : Nat := 2 ^ 41

/-- The READ_REQ packets of a remote range. -/
def readPackets (s : State) (h chip base place0 n : Nat) : List (Nat × Packet) :=
  let l := pages base n
  ((List.range l.length).zip l).map fun x =>
    (place0 + x.1, { mkPacket s h chip kReadReq with offset := x.2.1, dataLen := x.2.2 })

/-- Place numbers of a row's pieces: 4096 to a row are enough for 2^24 bytes. -/
def rowPlace (r : Nat) : Nat := r * 2 ^ 16

/-- Bytes that came for the pieces from a place on. -/
def gotBytes (rem : Remote) (place0 n : Nat) : List Byte :=
  (List.range n).flatMap fun i => ((rem.got.find? (·.1 = place0 + i)).map (·.2)).getD []

/-- The status and field of a header that does not fit the command (R546, R547). -/
def headFault (p : DmaPar) (sf : Option Fmt) (hd : ListHead) : Option (Nat × Nat) :=
  if p.dstKind = 1 && (p.rot != hd.rot || p.layer != hd.layer || p.rotTensor != hd.tensor || p.side != hd.side) then
    (failing [(p.side != hd.side, extPos 157), (p.rot != hd.rot, extPos 158), (p.layer != hd.layer, extPos 164),
      (p.rotTensor != hd.tensor, extPos 176)]).map fun x => (stState, x)
  else if (activeDma p).any fun r => (tensorRow p sf hd r).isNone then some (stFieldRange, extPos 61)
  else none

/-! ## Gathering the source -/

/-- The bytes of output row r of a core's output region: element t lies at position r of bank t (R67). -/
def outputRow (s : State) (p : DmaPar) (f : Fmt) (r : Nat) : List Byte :=
  packElems f.elemBits ((List.range p.rowLen).map fun t => getElem s (rgSlot p.src) (rgElem p.src) f.elemBits t r)

/-- Granule number j of a prefetched stream, where its address is one (R228). -/
def prefetchGranule (p : DmaPar) (j : Nat) : Option Nat :=
  let a := ((gOff p.src / 256 * 256 : Nat) : Int) + (j / p.pfLen : Nat) * sext 32 p.pfStride + ((j % p.pfLen * 256 : Nat) : Int)
  if a < 0 then none else some (a / 256).toNat

/-- A prefetcher works for a command: it is engaged, and the source is this device's memory (R229). -/
def prefetching (s : State) (q i : Nat) (p : DmaPar) : Bool :=
  p.pfEnable && (getCluster s (queueCluster q)).prefetch.contains (some (q, i)) && p.srcKind = 0 && isLocal s (gChip p.src)

/-- An engaged prefetcher's fetches of granules `lo` to below `hi` of its stream: stack memory inside the heat's ranges. False
where a sector failed, which abandons the command (R213, R229). -/
def runPrefetch (s : State) (h q i : Nat) (p : DmaPar) (lo hi : Nat) : State × Bool :=
  if !prefetching s q i p then (s, true)
  else
    (List.range (min (p.pfRuns * p.pfLen) hi - lo)).foldl (fun (acc : State × Bool) j =>
      match prefetchGranule p (lo + j) with
      | none => acc
      | some g =>
        if acc.2 && g * 256 < stackTop acc.1 && inHeat acc.1 h (g * 256) 256 then cacheFetch acc.1 h (queueCluster q) g
        else acc) (s, true)

/-- Granules fetched when the engine stands before its row number n of b bytes: those it has read and `run_ahead` (R229). -/
def fetchedTo (p : DmaPar) (n b : Nat) : Nat := if n = 0 then 0 else (n - 1) * b / 256 + p.pfAhead

/-- Source rows read from this device: the rows with their bytes, none where a sector failed. -/
def gatherLocal (s : State) (h q i : Nat) (p : DmaPar) (sf : Option Fmt) : State × Option (List (Nat × List Byte)) :=
  let n := rowBytesOf sf p.rowLen
  (activeDma p).foldl (fun (acc : State × Option (List (Nat × List Byte))) r =>
    match acc.2 with
    | none => acc
    | some l =>
      if p.srcKind = 2 then
        (acc.1, some (l ++ [(r, match sf with | some f => outputRow acc.1 p f r | none => [])]))
      else
        let y := runPrefetch acc.1 h q i p (fetchedTo p l.length n) (fetchedTo p (l.length + 1) n)
        if !y.2 then (y.1, none)
        else
          let x := loadLocal y.1 h (queueCluster q) p.cache (gOff p.src + r * p.srcStride) n
          (x.1, x.2.map fun b => l ++ [(r, b)])) (s, some [])

/-- MX scale rows, which lie in this device's stack memory (R268). -/
def gatherScales (s : State) (h c : Nat) (p : DmaPar) (sf : Option Fmt) : State × Option (List (Nat × List Byte)) :=
  if !optMx sf then (s, some [])
  else
    let n := ceilDiv p.rowLen 32
    (activeDma p).foldl (fun (acc : State × Option (List (Nat × List Byte))) r =>
      match acc.2 with
      | none => acc
      | some l =>
        let x := loadLocal acc.1 h c p.cache (p.srcScale + r * n) n
        (x.1, x.2.map fun b => l ++ [(r, b)])) (s, some [])

/-! ## Holding a source back (R126, R127) -/

/-- Held sources evicted, oldest unlocked first, until `need` bytes fit: what stays and how many went. -/
def evict (cap need : Nat) : Nat → List Hold → List Hold × Nat
  | 0, l => (l, 0)
  | n + 1, l =>
    if (l.foldl (fun a x => a + x.bytes.length) 0) + need ≤ cap then (l, 0)
    else if l.any (!·.locked) then
      let r := evict cap need n (dropFirst (fun x => !x.locked) l)
      (r.1, r.2 + 1)
    else (l, 0)

/-- A fill's source, its scales with it, held if there is room: the hold's number. -/
def holdSource (s : State) (h c : Nat) (p : DmaPar) (d e : Slot) (src : List Byte) : State × Option Nat :=
  let cap := dget s (hCfg h) 8
  if !p.holdBack || p.dstKind != 1 || src.length > cap then (s, none)
  else
    let x := getCluster s c
    let r := evict cap src.length x.holds.length x.holds
    let s := dadd s (hStat h) 2 r.2
    if (r.1.foldl (fun a y => a + y.bytes.length) 0) + src.length ≤ cap then
      let n := x.nextHold
      (setCluster s c { x with
        nextHold := n + 1
        holds := r.1 ++ [{ id := n, bytes := src, desc := d, ext := e, left := p.consumers, locked := false }] }, some n)
    else (setCluster s c { x with holds := r.1 }, none)

/-! ## Writing -/

/-- The DMA words (R259). -/
def dmaWord (ev : Ev) : Nat :=
  satNat 16 ev.sat * 2 ^ 48 + satNat 16 ev.zblk * 2 ^ 32 + satNat 16 ev.nanb * 2 ^ 16 + satNat 16 ev.outf

/-- A command's effect made; it is done unless it waits for answers or for the array. -/
def actDma (s : State) (q i elems word st : Nat) (waits : Bool) : State :=
  settleDma (modFlight s q i fun f =>
    { f with acted := true, waits := waits, wordA := elems, wordB := word, status := pickStatus st f.status }) q i

/-- A started command that could not go on: its sector failed, and what follows is the heat's restart (R213, R214). -/
def abandonDma (s : State) (q i : Nat) : State := modFlight s q i fun f => { f with acted := true, waits := true }

/-- A MICRO payload that is stored and not added, in the norm of its entry (R176, R197). -/
def storeSquares (s : State) (h : Nat) (p : DmaPar) (t : Option Fmt) (l : List Byte) : State :=
  if p.gradKind = 1 && p.memOp = 0 && t = some .fp32 then
    let r := addSquares s h p.gradLayer l
    addFlush r.1 h r.2
  else s

/-- Bytes of a row of a command (q, i) written to this device. -/
def writeRowLocal (s : State) (h q i : Nat) (p : DmaPar) (t : Option Fmt) (a : Nat) (l : List Byte) : State × Bool :=
  match place s a with
  | .queueReg q' _ => ((ringDoorbell s (.dma h) q' (natOfBytes l)).1, true)
  | _ =>
    if p.memOp = 0 then storeLocal (storeSquares s h p t l) (some (queueCluster q)) a l
    else
      addInto (cacheInvalidate s (queueCluster q) a l.length) h p.memOp p.orderNo .here
        { addr := a, len := l.length, layer := p.gradLayer, kind := p.gradKind, cmd := some (q, i) } l

/-- The packets that store a row at another device. -/
def writePackets (s : State) (h : Nat) (p : DmaPar) (last : Bool) (r : Nat) (l : List Byte) : List (Nat × Packet) :=
  let a := gOff p.dst + r * p.dstStride
  let x := pages a l.length
  ((List.range x.length).zip x).map fun y =>
    (rowPlace r + y.1,
      { mkPacket s h (gChip p.dst) (if p.memOp = 0 then kWrite else kMemOp) with
        offset := y.2.1, data := sliceBytes l (y.2.1 - a) y.2.2, dataLen := y.2.2, memOp := p.memOp
        orderNo := p.orderNo, orderEn := p.orderEn
        orderLast := p.orderLast && last && y.1 + 1 = x.length })

/-- A converted row for memory: its bytes, its MX scales and its events. The values `extra` are written into their elements as
R110 writes those beyond a list's capacity; of a copy on path E they are the entries of its source's list, since memory has no
outlier unit that could take them (DEDUCED, log entry 40). -/
def memRow (cls : Cls) (sf t : Option Fmt) (p : DmaPar) (raw sc : List Byte) (extra : List Lifted) (c : ConvRow) :
    List Byte × List Byte × Ev :=
  let ev := evSum c.evs
  match t with
  | none => (raw, [], ev)
  | some f =>
    if sf = t && p.rot = 0 then (raw, sc, ev)
    else
      match f.block with
      | some (el, _) =>
        let r := overflowRow cls el p.kFirst extra c.blocks
        let b := f.packRow p.rowLen r.1
        (b.1, b.2, ev.add r.2)
      | none => let b := toBytes t p.rowLen c; (b.1, b.2, ev)

/-- A side list in memory: header and entries (R107). -/
def sideList (p : DmaPar) (k8 : Nat) (t : Option Fmt) (l : List (Nat × Lifted)) : List Byte :=
  bytesOf 32 (l.length * 2 ^ 224 + p.rows * 2 ^ 192 + p.rowLen * 2 ^ 160 + p.rotTensor * 2 ^ 144 + p.layer * 2 ^ 132 +
      p.rot * 2 ^ 129 + p.side * 2 ^ 128 + k8 * 2 ^ 120 + (if t = some .x8 then 1 else 0) * 2 ^ 118) ++
    l.flatMap fun e => bytesOf 8 (e.1 * 2 ^ 40 + e.2.k * 2 ^ 16 + e.2.val)

/-- The packets that store a side list at another device. -/
def listPackets (s : State) (h : Nat) (p : DmaPar) (l : List Byte) : List (Nat × Packet) :=
  let a := gOff p.listAddr
  let x := pages a l.length
  ((List.range x.length).zip x).map fun y =>
    (entryPlace + y.1, { mkPacket s h (gChip p.listAddr) kWrite with
      offset := y.2.1, data := sliceBytes l (y.2.1 - a) y.2.2, dataLen := y.2.2 })

/-- The rows a command writes by global address. -/
def targetSpans (p : DmaPar) (t : Option Fmt) : List (Nat × Nat) :=
  rowSpans (gOff p.dst) p.dstStride p.rows (rowBytesOf t p.rowLen)

/-- The packets of all rows to another device. -/
def rowPackets (s : State) (h : Nat) (p : DmaPar) (rows : List (Nat × List Byte)) : List (Nat × Packet) :=
  ((List.range rows.length).zip rows).flatMap fun x => writePackets s h p (x.1 + 1 = rows.length) x.2.1 x.2.2

/-- Rows written to this device's memory, where the destination is here, and their MX scales, which always are. -/
def writeMemory (s : State) (h q : Nat) (f : Flight) (p : DmaPar) (rows : List (Nat × List Byte × List Byte)) :
    State × Bool :=
  let here := isLocal s (gChip p.dst)
  let res := rows.foldl (fun (acc : State × Bool) x =>
    if !acc.2 then acc
    else
      let w := if here then writeRowLocal acc.1 h q f.index p f.dstF (gOff p.dst + x.1 * p.dstStride) x.2.1 else acc
      if !w.2 || x.2.2.isEmpty then w
      else storeLocal w.1 (some (queueCluster q)) (p.dstScale + x.1 * x.2.2.length) x.2.2) (s, true)
  if res.2 && here && p.memOp != 0 && p.orderEn && p.orderLast then
    (ordEndAll res.1 h p.orderNo (targetSpans p f.dstF), true)
  else res

/-- A command completed with a status of class 0x01 that its source showed after the start. -/
def failDma (s : State) (q i st pos : Nat) : State :=
  modFlight s q i fun f => { f with acted := true, done := true, waits := false, status := st, wordA := pos, wordB := 0 }

/-- The stores and additions a DMA command makes on this device: the field that names each, its range and operation. -/
def dmaStores (s : State) (p : DmaPar) (sf t : Option Fmt) : List (Nat × Nat × Nat × Nat) :=
  (if p.dstKind = 0 && isLocal s (gChip p.dst) then
    (targetSpans p t).map fun x => (if p.memOp = 0 || !p.orderEn then 384 else 224, x.1, x.2, p.memOp) else []) ++
  (if p.dstKind = 0 && optMx t then [(extPos 13, p.dstScale, p.rows * ceilDiv p.rowLen 32, 0)] else []) ++
  (if writesList p sf t && isLocal s (gChip p.listAddr) then [(extPos 192, gOff p.listAddr, 32 + 8 * p.listCap, 0)] else [])

/-- An open or closed region refuses what a command stores or adds (R226): the field that says so. -/
def regionFault (s : State) (h : Nat) (en : Bool) (order : Nat) (l : List (Nat × Nat × Nat × Nat)) : Option Nat :=
  failing (l.map fun x => (ordViolates s h x.2.1 x.2.2.1 x.2.2.2 en order .here, x.1))

/-- Whether a region holds back a command's local add-into (R225). -/
def orderHeld (s : State) (h : Nat) (p : DmaPar) (t : Option Fmt) : Bool :=
  p.dstKind = 0 && p.memOp != 0 && p.orderEn && isLocal s (gChip p.dst) &&
    (targetSpans p t).any fun x => ordHolds s h x.1 x.2 p.orderNo

/-- What refuses a command before it stores anything: its ledger entry (R177), or an ordered region (R226): status and field. -/
def refusedBy (s : State) (h : Nat) (p : DmaPar) (sf t : Option Fmt) : Option (Nat × Nat) :=
  if isContribution s p && (getLedger s h p.gradLayer).st != .opened then some (stLedgerClosed, 242)
  else (regionFault s h p.orderEn p.orderNo (dmaStores s p sf t)).map fun x => (stOrder, x)

/-- A command held back after its start, counted once (R225). -/
def holdDma (s : State) (q : Nat) (f : Flight) : State :=
  if f.held then s else dadd (modFlight s q f.index fun f => { f with held := true }) 0x2D10 8 1

/-- The stores that a command makes on this device, once nothing of it is outstanding and nothing was refused: "nothing else of the
command takes effect" after a refusal (R332). -/
def lateStep (s : State) (q i : Nat) : State :=
  match queueHeat s q, (getQueue s q).flights.find? (·.index = i) with
  | some h, some f => match f.late with
    | none => s
    | some l =>
      let p := DmaPar.ofDesc f.desc f.ext
      if f.acks != 0 || f.rem.refusal.isSome then s
      else match refusedBy s h p f.srcF f.dstF with
      | some x => failDma (countRefusal s h x.1) q i x.1 x.2
      | none =>
        if orderHeld s h p f.dstF then holdDma s q f
        else
          let r := writeMemory (modFlight s q i fun f => { f with late := none }) h q f p l.rows
          let r := if r.2 && !l.list.isEmpty then storeLocal r.1 (some (queueCluster q)) (gOff p.listAddr) l.list else r
          if !r.2 then abandonDma r.1 q i
          else actDma (addFlush r.1 h l.flush) q i l.elems l.word l.st (stagedPart r.1 h q i)
  | _, _ => s

/-- The stamp a fill leaves (R103, R547). -/
def fillStamp (p : DmaPar) : Stamp :=
  if p.rot = 0 then {} else { rot := p.rot, side := p.side, layer := p.layer, tensor := p.rotTensor }

/-- Everything after the source rows are at hand: conversion, lifting, quantising and writing. `short` is the status of
a stream that ended short. -/
def processRows (s : State) (h q : Nat) (f : Flight) (p : DmaPar) (raws scs : List (Nat × List Byte))
    (ents : List (Nat × Lifted)) (elems st : Nat) : State :=
  let sf := f.srcF
  let t := f.dstF
  let cls := heatCls s h
  let useList := readsList p sf && f.lhead.isSome
  let writes := writesList p sf t
  let ctx : ConvCtx :=
    { src := sf, dst := t, cls := cls, seed := heatSeed s h
      par := { rot := p.rot, side := p.side, layer := p.layer, tensor := p.rotTensor, k8 := polK8 f.pol }
      k0 := p.kFirst, n := p.rowLen, lift := optX t && (p.dstKind = 1 || writes), list := useList, mem := p.dstKind = 0 }
  let conv := raws.map fun x =>
    let sc := ((scs.find? (·.1 = x.1)).map (·.2)).getD []
    let es := match f.lhead with
      | some hd => if useList then rowEntries p sf hd ents x.1 else []
      | none => []
    (x.1, x.2, sc, es, convRow ctx x.2 sc es)
  if p.dstKind = 1 then
    let k := rgSlot p.dst
    let rows := conv.map fun x => toFillRow p t x.1 x.2.2.2.1 x.2.2.2.2
    let ev := evSum (rows.flatMap (·.evs))
    let hold := holdSource s h (slotCluster k) p f.desc f.ext (raws.flatMap (·.2) ++ scs.flatMap (·.2))
    let rec_ : FillRec :=
      { id := 0, queue := q, index := f.index
        elem := rgElem p.dst, scale := rgScale p.dst, width := fillWidth t, srcF := sf, fmt := t, pol := f.pol, rows := rows
        stamp := fillStamp p, heat := h, desc := f.desc, ext := f.ext, srcKind := p.srcKind
        hold := hold.2, asked := p.holdBack, raw := raws.map (·.2), scs := conv.map (·.2.2.1) }
    let s := writeFill hold.1 k rec_
    let s := conv.foldl (fun s x => storeSquares s h p t (toBytes t p.rowLen x.2.2.2.2).1) (addFlush s h ev.flush)
    actDma s q f.index elems (dmaWord ev) st (fillWaits s k q f.index)
  else
    let all := if writes then conv.flatMap fun x => x.2.2.2.2.lifted.map fun e => (x.1, e) else []
    let excess := all.drop p.listCap
    let rows := conv.map fun x =>
      let extra := if writes then (excess.filter (·.1 = x.1)).map (·.2) else x.2.2.2.2.lifted
      (x.1, memRow cls sf t p x.2.1 x.2.2.1 extra x.2.2.2.2)
    let ev := evSum (rows.map (·.2.2.2))
    let list := if writes then sideList p (polK8 f.pol) t (all.take p.listCap) else []
    let listHere := isLocal s (gChip p.listAddr)
    let out := (if isLocal s (gChip p.dst) then [] else rowPackets s h p (rows.map fun x => (x.1, x.2.1))) ++
      (if listHere then [] else listPackets s h p list)
    let late : LateStores :=
      { rows := rows.map fun x => (x.1, x.2.1, x.2.2.1), list := if listHere then list else [], flush := ev.flush
        elems := elems, word := dmaWord ev, st := st }
    lateStep (queuePackets (modFlight s q f.index fun f => { f with late := some late }) q f.index out) q f.index

/-! ## The rows -/

/-- The reads of a remote source asked for. -/
def askRemote (s : State) (h q : Nat) (f : Flight) (p : DmaPar) : State :=
  let n := rowBytesOf f.srcF p.rowLen
  let rows := if p.srcKind = 0 && !isLocal s (gChip p.src) then
      (activeDma p).flatMap fun r => readPackets s h (gChip p.src) (gOff p.src + r * p.srcStride) (rowPlace r) n
    else []
  let head := if readsList p f.srcF && !isLocal s (gChip p.listAddr) then
      readPackets s h (gChip p.listAddr) (gOff p.listAddr) headPlace 32
    else []
  let s := modFlight s q f.index fun f => { f with rem := { f.rem with asked := true } }
  queuePackets s q f.index (rows ++ head)

/-- The entries of a side list: from this device, or as they came. -/
def gatherEntries (s : State) (h c : Nat) (p : DmaPar) (f : Flight) : State × Option (List (Nat × Lifted)) :=
  match f.lhead with
  | none => (s, some [])
  | some hd =>
    if !readsList p f.srcF then (s, some [])
    else if isLocal s (gChip p.listAddr) then
      let r := loadLocal s h c p.cache (gOff p.listAddr + 32) (8 * hd.count)
      (r.1, r.2.map fun l => (List.range hd.count).map (parseEntry l))
    else
      let l := gotBytes f.rem entryPlace (pages (gOff p.listAddr + 32) (8 * hd.count)).length
      (s, some ((List.range hd.count).map (parseEntry l)))

/-- DMA_COPY's effect once its source is at hand. -/
def copyStep (s : State) (h q : Nat) (f : Flight) (p : DmaPar) : State :=
  let c := queueCluster q
  match refusedBy s h p f.srcF f.dstF with
  | some x => failDma (countRefusal s h x.1) q f.index x.1 x.2
  | none =>
  if orderHeld s h p f.dstF then holdDma s q f
  else
    let n := (pages 0 (rowBytesOf f.srcF p.rowLen + 4095)).length
    let g := if p.srcKind = 0 && !isLocal s (gChip p.src) then
        (s, some ((activeDma p).map fun r => (r, gotBytes f.rem (rowPlace r) n)))
      else gatherLocal s h q f.index p f.srcF
    match g.2 with
    | none => abandonDma g.1 q f.index
    | some raws =>
      let m := gatherScales g.1 h c p f.srcF
      match m.2 with
      | none => abandonDma m.1 q f.index
      | some scs =>
        let x := gatherEntries m.1 h c p f
        match x.2 with
        | none => abandonDma x.1 q f.index
        | some ents => processRows x.1 h q f p raws scs ents ((activeDma p).length * p.rowLen) stSuccess

/-- The next move of a running DMA_COPY: ask for remote data, wait for it, or act. -/
def dmaStep (s : State) (h q : Nat) (f : Flight) : State :=
  let p := DmaPar.ofDesc f.desc f.ext
  let needHead := readsList p f.srcF && !isLocal s (gChip p.listAddr)
  let needs := (p.srcKind = 0 && !isLocal s (gChip p.src)) || needHead
  if f.late.isSome then lateStep s q f.index
  else if !needs then copyStep s h q f p
  else if !f.rem.asked then askRemote s h q f p
  else if f.acks != 0 then s
  else if f.rem.refusal.isSome then settleDma (modFlight s q f.index fun f => { f with acted := true }) q f.index
  else if needHead && f.lhead.isNone then
    let hd := parseHead (gotBytes f.rem headPlace (pages (gOff p.listAddr) 32).length)
    match headFault p f.srcF hd with
    | some (st, pos) => failDma s q f.index st pos
    | none =>
      let s := modFlight s q f.index fun f => { f with lhead := some hd }
      queuePackets s q f.index (readPackets s h (gChip p.listAddr) (gOff p.listAddr + 32) entryPlace (8 * hd.count))
  else copyStep s h q f p

def execDmaCopy (q : Nat) (errs : List SectorErr) (s : State) : Host.Outcome State Fault Refusal :=
  withRunning q opCopy (injectErrs s errs) fun h f => dmaStep (injectErrs s errs) h q f

/-! ## Hand-off streams (R167 to R169, R270) -/

/-- The cluster and number of the stream a QUANT_STREAM names. -/
def streamOf (p : DmaPar) : Nat × Nat := (slotCluster (bitsOf p.srcStride 11 2), bitsOf p.srcStride 1 0)

def getStream (s : State) (c n : Nat) : Option Stream := nth none (getCluster s c).streams n

def setStream (s : State) (c n : Nat) (x : Option Stream) : State :=
  modCluster s c fun y => { y with streams := setNth y.streams n x }

/-- QUANT_STREAM: the rows of a stream that is whole, or that its feeding command left short (R169). The missing elements are
zeros of the source, so a rotation takes them in with the rest of their group (DEDUCED, log entry 112). -/
def quantStep (s : State) (h q : Nat) (f : Flight) : State :=
  let p := DmaPar.ofDesc f.desc f.ext
  let w := streamOf p
  if f.late.isSome then lateStep s q f.index
  else match getStream s w.1 w.2 with
  | none => s
  | some x =>
    if x.queue != q || x.index != f.index || (x.elems.length < x.need && !x.closed) then s
    else match refusedBy s h p f.srcF f.dstF with
    | some y => failDma (countRefusal (setStream s w.1 w.2 none) h y.1) q f.index y.1 y.2
    | none =>
    if orderHeld s h p f.dstF then holdDma s q f
    else
      let got := min x.need x.elems.length
      let all := x.elems.take x.need ++ List.replicate (x.need - got) 0
      let rows := (activeDma p).map fun r =>
        (r, packElems x.fmt.elemBits ((all.drop (r * p.rowLen)).take p.rowLen))
      processRows (setStream s w.1 w.2 none) h q f p rows [] [] got (if got < x.need then stHandoffShort else stSuccess)

def execQuantStream (q : Nat) (s : State) : Host.Outcome State Fault Refusal :=
  withRunning q opStream s fun h f => quantStep s h q f

end Sys2Proof.Machine
end

