-- ==== Sys2Proof/Machine/Coll.lean ====
section
/-! DEFINITION. Collectives: reduce-scatter, all-gather, baton exchange and relay (R339 to R370). -/

namespace Sys2Proof.Machine

/-! ## Packets -/

/-- The collective tag (R343). -/
def collTag (id sender m1 form crc v2 v : Nat) : List Byte :=
  bytesOf 32 (id * 2 ^ 224 + sender * 2 ^ 208 + m1 * 2 ^ 192 + form * 2 ^ 190 + crc * 2 ^ 128 + v2 * 2 ^ 64 + v * 2 ^ 32)

/-- A received tag's fields. -/
structure TagIn where
  id     : Nat
  sender : Nat
  m1     : Nat
  form   : Nat
  crc    : Nat
  value2 : Nat
  value  : Nat
deriving DecidableEq, Repr

def TagIn.ofPacket (k : Packet) : TagIn :=
  let w := natOfBytes (k.data.take 32)
  { id := bitsOf w 255 224, sender := bitsOf w 223 208, m1 := bitsOf w 207 192, form := bitsOf w 191 190
    crc := bitsOf w 159 128, value2 := bitsOf w 127 64, value := bitsOf w 63 32 }

def collTagOf (c : Coll) (v : Nat) : List Byte := collTag c.id c.self (c.members.length - 1) c.form c.crc 0 v

def Coll.member (c : Coll) (j : Nat) : Member := nth dummyMember c.members j
def Coll.peer (c : Coll) (j : Nat) : Peer := nth {} c.peers j
def Coll.others (c : Coll) : List Nat := rangeWhere c.members.length fun j => j != c.self
def Coll.me (c : Coll) : Member := c.member c.self

def findColl (s : State) (h id : Nat) : Option Coll := s.colls.find? fun c => c.heat = h && c.id = id

def modColl (s : State) (h id : Nat) (f : Coll → Coll) : State :=
  { s with colls := modFirst (fun c => c.heat = h && c.id = id) f s.colls }

def modPeer (s : State) (h id j : Nat) (f : Peer → Peer) : State :=
  modColl s h id fun c => { c with peers := modNth c.peers j f }

/-- A packet of the collective to peer j that awaits an answer: none once it was refused (R346); after a HEAT_RESETTING of that peer it
is held (R333). -/
def sendColl (s : State) (c : Coll) (j : Nat) (k : Packet) : State :=
  match findColl s c.heat c.id with
  | some x =>
    if x.refused.isSome then s
    else if x.holdTo.contains j then modColl s c.heat c.id fun x => { x with unsent := x.unsent ++ [(j, k)] }
    else sendTxn s (.coll c.heat c.id j) k
  | none => s

/-- A packet of a kind with a value to peer j. -/
def collMsg (s : State) (c : Coll) (j kind v : Nat) : Packet :=
  let d := collTagOf c v
  { mkPacket s c.heat (c.member j).chip kind with data := d, dataLen := d.length }

/-- A grant: the tokens granted, and where they land (R360). -/
def grantMsg (s : State) (c : Coll) (j v at_ : Nat) : Packet :=
  let d := collTag c.id c.self (c.members.length - 1) c.form c.crc at_ v
  { mkPacket s c.heat (c.member j).chip kGrant with data := d, dataLen := d.length }

/-- An answer to a collective packet: its transaction, and the tag of the member that answers (R343). A device on which the
collective has not started knows no index of its own: it echoes the tag under index 0 (DESIGN CHOICE, log entry 113). -/
def collAnswer (s : State) (c : Option Coll) (k : Packet) (kind v : Nat) : State :=
  let t := TagIn.ofPacket k
  let d := match c with
    | some c => collTagOf c v
    | none => collTag t.id 0 t.m1 t.form t.crc 0 v
  sendPacket s { answer s k kind with data := d, dataLen := d.length }

/-- The data packets of a run of bytes to peer j: at most 4,064 bytes each after the tag (R343). -/
def dataPackets (s : State) (c : Coll) (j dst op : Nat) (order : Option Nat) (layer kind : Nat) (l : List Byte) :
    List Packet :=
  let x := chunk 4064 (l.length / 4064 + 1) l
  ((List.range x.length).zip x).map fun y =>
    let d := collTagOf c 0 ++ y.2
    { mkPacket s c.heat (c.member j).chip kData with
      offset := dst + 4064 * y.1, memOp := op, data := d, dataLen := d.length
      orderNo := order.getD 0, orderEn := order.isSome, orderLast := order.isSome && y.1 + 1 = x.length
      gradLayer := layer, gradKind := kind }

/-- Bytes of memory sent to peer j; a failing sector leaves the rest to the heat's restart. -/
def sendRun (s : State) (c : Coll) (j src n dst op : Nat) (order : Option Nat) (layer kind : Nat) : State :=
  let r := checkRead s src n
  if !r.2 then r.1
  else
    let s := modPeer r.1 c.heat c.id j fun p => { p with sentTo := true }
    (dataPackets s c j dst op order layer kind (readBytes s src n)).foldl (fun s k => sendColl s c j k) s

/-- Peer j has answered: outside a back-off, what was held for it goes out (R333). -/
def collHeard (s : State) (c : Coll) (j : Nat) : State :=
  match findColl s c.heat c.id with
  | some x =>
    if x.retryAt.isSome || !x.holdTo.contains j then s
    else
      let s := modColl s c.heat c.id fun x => { x with holdTo := x.holdTo.filter (· != j), unsent := x.unsent.filter (·.1 != j) }
      (x.unsent.filter (·.1 = j)).foldl (fun s y => sendColl s c y.1 y.2) s
  | none => s

/-- Packets of a collective that it has sent and that still count for it: not yet answered, or answered with COLL_BUSY. -/
def collTxns (s : State) (c : Coll) : List Txn :=
  s.txns.filter fun t => match t.owner with | .coll h i _ => h = c.heat && i = c.id | _ => false

def collPar (s : State) (c : Coll) : CollPar :=
  match (getQueue s c.queue).flights.find? (·.index = c.index) with
  | some f => CollPar.ofDesc f.desc
  | none => CollPar.ofDesc 0#512

/-! ## The baton pool (R360 to R364) -/

/-- Bytes from the head to the pool's end or the oldest live allocation. -/
def poolRoom (s : State) (h head : Nat) : Nat :=
  let size := dget s (hColl h) 2
  match heatAllocs s h with
  | [] => size - head
  | a :: _ => if head ≤ a.base then a.base - head else size - head

/-- The head an allocation of `need` bytes starts from: the pool's base where the bytes to its end do not hold it. -/
def poolStart (s : State) (h need : Nat) : Nat :=
  let head := tabGet 0 s.poolHead h
  let size := dget s (hColl h) 2
  let wrapped := match heatAllocs s h with
    | [] => true
    | a :: _ => head > a.base
  if wrapped && size - head < need then 0 else head

/-- The largest q with Σ min(c, q) within the room; q never passes the largest offer. -/
def grantLevel (offered : List Nat) (cap : Nat) : Nat → Nat
  | 0 => 0
  | q + 1 => if sumList (offered.map fun c => min c (q + 1)) ≤ cap then q + 1 else grantLevel offered cap q

/-- `grant` of R360. -/
def grants (offered : List Nat) (cap : Nat) : List Nat :=
  if sumList offered ≤ cap then offered
  else
    let q := grantLevel offered cap (offered.foldl max 0)
    let g := offered.map fun c => min c q
    let left := cap - sumList g
    let above := (List.range offered.length).filter fun i => nth 0 offered i > q
    let lucky := above.take left
    (List.range g.length).map fun i => nth 0 g i + (if lucky.contains i then 1 else 0)

/-- Tokens offered to member j. -/
def sendCount (c : Coll) (j : Nat) : Nat := nth 0 c.sends j

/-- Where member j's tokens start in the send buffer (R359). -/
def sendStart (p : CollPar) (c : Coll) (j : Nat) : Nat := p.src + sumTo j (sendCount c) * tokenBytes p

/-! ## Completion -/

def ownedByColl (h id : Nat) : TxnOwner → Bool
  | .coll h' i' _ => h' = h && i' = id
  | _ => false

/-- The transactions that `p` names, forgotten. -/
def dropTxns (s : State) (p : TxnOwner → Bool) : State := { s with txns := s.txns.filter fun t => !p t.owner }

/-- The status and word of a refused collective (R346, R345). -/
def refuseStatus (c : Coll) (r : Nat) : Nat × Nat :=
  if r = 18 then (stLedgerClosed, if c.form = 0 then 288 else 464)
  else if r = 19 || r = 5 then (stOrder, 464)
  else (stRemoteRefused, 464)

/-- A collective ended: its record, and the allocation it releases (R364). -/
def endColl (s : State) (c : Coll) (st a b : Nat) : State :=
  let p := collPar s c
  let s := dropTxns s (ownedByColl c.heat c.id)
  let s := { s with colls := dropFirst (fun x => x.heat = c.heat && x.id = c.id) s.colls }
  releaseAlloc (finish s c.queue c.index st a b) c.heat p

/-- Contributions that are whole (R353); a member with no shard receives none. -/
def rsReceived (p : CollPar) (c : Coll) : Nat :=
  if c.me.count = 0 then 0 else (c.others.filter fun j => (c.peer j).got ≥ c.me.count * collSize p).length

def rsDone (s : State) (p : CollPar) (c : Coll) : Bool :=
  (c.others.all fun j => (c.member j).count = 0 || (c.peer j).sentTo) &&
    (c.me.count = 0 || (rsReceived p c = c.others.length &&
      (!p.ordered || (match regionAtAddr s c.heat c.me.base 1 with | some (_, r) => r.closed | none => true))))

/-- Kept ranges after a completed all-gather with KEEP (R355): the list, and whether the range was kept. -/
def keepRange (s : State) (h key base n : Nat) : State × Bool :=
  let l := (getHeat s h).retained.filter fun r => !overlaps r.base r.bytes base n
  let used := sumList (l.map (·.bytes))
  let ok := used + n ≤ dget s (hColl h) 3 && l.length < 1024
  let l := if ok then l ++ [⟨key, base, n⟩] else l
  let s := modHeat s h fun x => { x with retained := l }
  let s := dset s (hColl h) 4 (sumList (l.map (·.bytes)))
  (if ok then s else dadd s (hColl h) 6 1, ok)

def agNeeds (c : Coll) : Bool := !c.hit

def agDone (p : CollPar) (c : Coll) : Bool :=
  (c.me.count = 0 || c.others.all fun j => match (c.peer j).ready with
    | none => false
    | some v => v != 1 || (c.peer j).sentTo) &&
  (!agNeeds c || c.others.all fun j => (c.peer j).got ≥ (c.member j).count * p.unit)

/-- An all-gather's words (R358); `kept`: the range was kept, or the keep declined. -/
def agWords (p : CollPar) (c : Coll) (kept declined : Bool) : Nat × Nat :=
  let got := if agNeeds c then
      sumList ((c.others.filter fun j => (c.peer j).got ≥ (c.member j).count * p.unit).map fun j => (c.member j).count) else 0
  let sent := (c.others.filter fun j => (c.peer j).sentTo).length * c.me.count
  (got, satNat 32 sent * 2 ^ 32 + b2n declined * 4 + b2n kept * 2 + b2n c.hit)

/-- An all-gather's end: KEEP and its words (R355, R358). -/
def agEnd (s : State) (p : CollPar) (c : Coll) : State :=
  let n := totalCount c.members * p.unit
  let k := if p.retain = 1 then keepRange s c.heat p.key c.me.base n else (s, false)
  let w := agWords p c (p.retain = 1 && k.2) (p.retain = 1 && !k.2)
  endColl k.1 c stSuccess w.1 w.2

/-- A grant's place: the tokens of the senders before it (R360). -/
def recvOffset (p : CollPar) (c : Coll) (j : Nat) : Nat :=
  match c.alloc with
  | some (b, _) => b + sumList (c.granted.take j) * tokenBytes p
  | none => 0

def bxDone (p : CollPar) (c : Coll) : Bool :=
  c.granted != [] &&
    c.others.all fun j => (c.peer j).grant.isSome && ((c.peer j).grant = some 0 || (c.peer j).sentTo) &&
      (c.peer j).got ≥ nth 0 c.granted j * tokenBytes p

/-- What member j granted this one, itself included. -/
def grantOf (c : Coll) (j : Nat) : Nat := if j = c.self then nth 0 c.granted j else ((c.peer j).grant).getD 0

def offeredBy (c : Coll) (j : Nat) : Nat := ((c.peer j).counts).getD 0

/-- An exchange's words (R361): tokens received; own tokens not sent, and tokens refused to others. -/
def bxWords (c : Coll) : Nat × Nat :=
  let n := c.members.length
  (sumList c.granted,
    satNat 32 (sumTo n fun j => sendCount c j - grantOf c j) * 2 ^ 32 +
      satNat 32 (sumList (c.others.map fun j => offeredBy c j - nth 0 c.granted j)))

/-- Tokens left over, or fewer granted than offered, the member's own among them. -/
def bxShort (c : Coll) : Bool :=
  (List.range c.members.length).any fun j => sendCount c j > grantOf c j || offeredBy c j > nth 0 c.granted j

/-- An exchange's end: the table's read-only fields, the status and the words (R359, R361). -/
def bxEnd (s : State) (p : CollPar) (c : Coll) : State :=
  let s := (List.range c.members.length).foldl (fun s j =>
    (storeStack s (p.xtab + 32 * j + 10) (bytesOf 18
      (grantOf c j * 2 ^ 112 + offeredBy c j * 2 ^ 80 + nth 0 c.granted j * 2 ^ 48 + recvOffset p c j))).1) s
  let w := bxWords c
  if bxShort c then endColl (dadd s (hColl c.heat) 7 1) c stCapacity w.1 w.2
  else endColl s c stSuccess w.1 w.2

def rlShort (c : Coll) : Bool := c.staged = some false || c.others.any fun j => (c.peer j).ready = some 0
def rlAllReady (c : Coll) : Bool := c.staged.isSome && c.others.all fun j => (c.peer j).ready.isSome

def rlDone (c : Coll) : Bool :=
  rlAllReady c && c.others.all fun j =>
    (c.peer j).sentTo && (match (c.peer j).ended with | some v => (c.peer j).got % 2 ^ 32 = v | none => false)

/-- A relay's words (R367). -/
def rlWords (c : Coll) : Nat × Nat :=
  ((if (c.peer c.self).sentTo then c.perms.length else 0), satNat 64 (sumList (c.others.map fun j => (c.peer j).got)))

/-- The words of a collective that ends with none of class 0x01's statuses, as far as it has come (R347, R353, R358, R361, R367). -/
def collWords (s : State) (c : Coll) : Nat × Nat :=
  let p := collPar s c
  match c.form with
  | 0 => (rsReceived p c, c.elemsSent)
  | 1 => agWords p c false false
  | 2 => bxWords c
  | _ => rlWords c

/-- A relay that is short somewhere: staging memory is left undefined (R366). -/
def rlFail (s : State) (p : CollPar) (c : Coll) : State :=
  let b := freeBytes s p.stageLen
  endColl (storeStack b.2 p.stage b.1).1 c stStagingShort 0 0

/-- A collective looked at for its end: refused and everything answered, COLL_BUSY counting as an answer (R345, R346); or everything
sent, acknowledged and received. -/
def settleColl (s : State) (h id : Nat) : State :=
  match findColl s h id with
  | none => s
  | some c =>
    let p := collPar s c
    if (collTxns s c).any (!·.parked) then s
    else match c.refused with
      | some r => let x := refuseStatus c r; endColl s c x.1 x.2 0
      | none =>
        if !(collTxns s c).isEmpty || !c.unsent.isEmpty || !c.again.isEmpty || !c.heldPk.isEmpty then s
        else match c.form with
          | 0 => if rsDone s p c then endColl s c stSuccess (rsReceived p c) c.elemsSent else s
          | 1 => if agDone p c then agEnd s p c else s
          | 2 => if bxDone p c then bxEnd s p c else s
          | _ =>
            if rlAllReady c && rlShort c then rlFail s p c
            else if rlDone c then let w := rlWords c; endColl s c stSuccess w.1 w.2
            else s

/-! ## Sending what is due -/

/-- Reduce-scatter: member j's segment, once it is ready (R349, R352). -/
def rsSend (s : State) (p : CollPar) (c : Coll) (j : Nat) : State :=
  let m := c.member j
  if j = c.self || m.count = 0 || (c.peer j).ready.isNone || (c.peer j).sentTo then s
  else
    let z := collSize p
    let order := if p.ordered then some (if c.self < j then c.self else c.self - 1) else none
    let s := sendRun s c j (p.src + offOf c.members j * z) (m.count * z) m.base (collOp p) order
      (if p.ledgerEn then p.layer else 0) (if p.ledgerEn then 2 else 0)
    modColl s c.heat c.id fun c => { c with elemsSent := c.elemsSent + m.count }

/-- All-gather: the own shard to a member that needs it (R354). -/
def agSend (s : State) (p : CollPar) (c : Coll) (j : Nat) : State :=
  if j = c.self || c.me.count = 0 || (c.peer j).ready != some 1 || (c.peer j).sentTo then s
  else sendRun s c j p.src (c.me.count * p.unit) ((c.member j).base + offOf c.members c.self * p.unit) 0 none 0 0

/-- Baton: the grants, once every count is known (R360). -/
def bxGrant (s : State) (p : CollPar) (c : Coll) : State :=
  if c.granted != [] || !(List.range c.members.length).all fun j => (c.peer j).counts.isSome then s
  else
    let offered := (List.range c.members.length).map fun j => ((c.peer j).counts).getD 0
    let tb := tokenBytes p
    let head := poolStart s c.heat (ceilDiv (sumList offered * tb) 256 * 256)
    let g := grants offered (poolRoom s c.heat head / tb)
    let n := ceilDiv (sumList g * tb) 256 * 256
    let base := dget s (hColl c.heat) 1 + head
    let s := if n = 0 then s else
      settlePool { s with
        allocs := s.allocs ++ [{ heat := c.heat, coll := c.id, base := head, bytes := n }]
        poolHead := tabSet 0 s.poolHead c.heat (head + n) } c.heat
    let s := modColl s c.heat c.id fun c => { c with granted := g, alloc := some (base, n) }
    let c' := { c with granted := g, alloc := some (base, n) }
    let s := c.others.foldl (fun s j => sendColl s c j (grantMsg s c j (nth 0 g j) (recvOffset p c' j))) s
    -- the own tokens move inside the device
    let own := nth 0 g c.self * tb
    let r := checkRead s (sendStart p c c.self) own
    if r.2 then (storeStack r.1 (recvOffset p c' c.self) (readBytes r.1 (sendStart p c c.self) own)).1 else r.1

/-- Baton: the tokens a receiver granted (R361); it wrote where they go into its grant's second value. -/
def bxSend (s : State) (p : CollPar) (c : Coll) (j dst : Nat) : State :=
  match (c.peer j).grant with
  | some g =>
    if j = c.self || g = 0 || (c.peer j).sentTo then s
    else sendRun s c j (sendStart p c j) (g * tokenBytes p) dst 0 none 0 0
  | none => s

/-- A collective refused here: no further packet, and the refusal kept in 0x2320:07 (R332, R346). -/
def keepRefusal (s : State) (chip reason h tag : Nat) : State :=
  domSet s 0x2320 7 (bytesOf 2 chip ++ bytesOf 1 reason ++ bytesOf 1 h ++ bytesOf 4 tag ++ bytesOf 8 s.lap)

def refuseColl (s : State) (c : Coll) (reason : Nat) : State :=
  modColl s c.heat c.id fun x =>
    { x with refused := some (x.refused.getD reason), unsent := [], again := [], retryAt := none, heldPk := [] }

/-- The pieces of a relay with where each lies in staging. -/
def stagedPieces (p : CollPar) : Nat → List PermEntry → List (Nat × PermEntry)
  | _, [] => []
  | o, e :: l => (p.stage + o, e) :: stagedPieces p (o + ceilDiv e.bytes 64 * 64) l

/-- Relay: every member has staged, so the pieces go out, and the ends after them (R366). -/
def rlSend (s : State) (p : CollPar) (c : Coll) : State :=
  if !rlAllReady c || rlShort c || (c.peer c.self).sentTo then s
  else
    let l := stagedPieces p 0 c.perms
    let s := modPeer s c.heat c.id c.self fun x => { x with sentTo := true }
    let s := l.foldl (fun s x =>
      if x.2.dst = c.self then
        if !inHeat s c.heat x.2.dstOff x.2.bytes then refuseColl s c nakAddress
        else
        let r := checkRead s x.1 x.2.bytes
        if r.2 then (storeLocal r.1 none x.2.dstOff (readBytes r.1 x.1 x.2.bytes)).1 else r.1
      else sendRun s c x.2.dst x.1 x.2.bytes x.2.dstOff 0 none 0 0) s
    c.others.foldl (fun s j =>
      let n := sumList ((c.perms.filter (·.dst = j)).map (·.bytes))
      let s := modPeer s c.heat c.id j fun x => { x with sentTo := true }
      sendColl s c j (collMsg s c j kEnd (n % 2 ^ 32))) s

/-- Everything a collective may send now. -/
def pumpColl (s : State) (h id : Nat) : State :=
  match findColl s h id with
  | none => s
  | some c =>
    if c.refused.isSome || !((getQueue s c.queue).flights.any fun f => f.index = c.index && f.acted) then s
    else
      let p := collPar s c
      match c.form with
      | 0 => c.others.foldl (fun s j => rsSend s p c j) s
      | 1 => c.others.foldl (fun s j => agSend s p c j) s
      | 2 => bxGrant s p c
      | _ => rlSend s p c

/-- Refuses a packet of a collective, with a reason of R346. -/
def answerRefuse (s : State) (c : Coll) (k : Packet) (v : Nat) : State :=
  let s := keepRefusal (collAnswer s (some c) k kRefuse v) (ownChip s) (16 + v) c.heat k.tag
  settleColl (refuseColl s c (16 + v)) c.heat c.id

/-! ## Starting (R341, R344, R350 to R352) -/

/-- Check 9 and check 11 of a collective at its start: status and field. -/
def collStartCheck (s : State) (h : Nat) (d : Slot) (l : List Member) : Option (Nat × Nat) :=
  let p := CollPar.ofDesc d
  let o := dOpcode d
  let me := nth dummyMember l p.self
  let e := getLedger s h p.layer
  let regionOk := match regionAtAddr s h me.base (me.count * collSize p) with
    | some (_, r) => !r.closed && r.base = me.base && r.bytes = me.count * collSize p && r.members = p.members - 1 &&
        r.bf16 = (p.fmt = 1) && p.fmt ≤ 1
    | none => false
  match failing [
      ((findColl s h p.id).isSome, 400),
      (o = opRs && p.ledgerEn && me.count != 0 && (e.base != me.base || e.elems != me.count), 288),
      (o = opRs && p.ordered && me.count != 0 && !regionOk, 301)] with
  | some x => some (stState, x)
  | none =>
    if o = opRs && p.ledgerEn && me.count != 0 && e.st != .opened then some (stLedgerClosed, 288) else none

/-- A collective that starts: entered, with the early packets of its number (R344). -/
def enterColl (s : State) (h q : Nat) (x : HeadCmd) : State :=
  let p := CollPar.ofDesc x.desc
  let c : Coll :=
    { heat := h, queue := q, index := x.index, id := p.id, form := dOpcode x.desc - opRs, self := p.self
      crc := x.crc, members := x.members, perms := x.perms, peers := x.members.map fun _ => {} }
  { s with colls := s.colls ++ [c] }

/-- What a READY, COUNTS or END says, entered for its sender; the reason where it is refused. -/
def takeMsg (s : State) (c : Coll) (k : Packet) : State × Option Nat :=
  let t := TagIn.ofPacket k
  let j := t.sender
  let set (f : Peer → Peer) : State := modPeer s c.heat c.id j f
  if k.kind = kReady then
    if c.form = 0 && t.value != (c.member j).count then (s, some 1)
    else (set fun p => { p with ready := some t.value }, none)
  else if k.kind = kCounts then (set fun p => { p with counts := some t.value }, none)
  else (set fun p => { p with ended := some t.value }, none)

/-- Whether a packet fits the collective it names (R344). -/
def tagFits (c : Coll) (k : Packet) : Bool :=
  let t := TagIn.ofPacket k
  t.form = c.form && t.m1 + 1 = c.members.length && t.crc = c.crc && t.sender < c.members.length &&
    t.sender != c.self && (c.member t.sender).chip = k.src

/-- The early packets of a collective consumed; one that does not fit is refused. -/
def consumeEarly (s : State) (h id : Nat) : State :=
  let tag := heatTag s h
  let mine := s.early.filter fun e => e.tag = tag && (TagIn.ofPacket e.pkt).id = id
  let s := { s with early := s.early.filter fun e => !(e.tag = tag && (TagIn.ofPacket e.pkt).id = id) }
  mine.foldl (fun s e => match findColl s h id with
    | none => s
    | some c =>
      if !tagFits c e.pkt then answerRefuse s c e.pkt 1
      else let r := takeMsg s c e.pkt
        match r.2 with
        | some v => answerRefuse r.1 c e.pkt v
        | none => r.1) s

/-- The running collective of a queue. -/
def withColl (q o : Nat) (s : State) (f : Nat → Flight → Coll → State) : Host.Outcome State Fault Refusal :=
  match runningIn s q o with
  | some (h, x) => match s.colls.find? fun c => c.queue = q && c.index = x.index with
    | some c => .next (f h x c)
    | none => .next s
  | none => .next s

/-- The first messages out, then whatever is due. -/
def openColl (s : State) (c : Coll) (kind : Nat) (v : Nat → Nat) : State :=
  let s := modFlight s c.queue c.index fun f => { f with acted := true }
  let s := c.others.foldl (fun s j => sendColl s c j (collMsg s c j kind (v j))) s
  settleColl (pumpColl s c.heat c.id) c.heat c.id

/-- REDUCE_SCATTER (R349, R350). -/
def execReduceScatter (q : Nat) (s : State) : Host.Outcome State Fault Refusal :=
  withColl q opRs s fun _ _ c => openColl s c kReady fun _ => c.me.count

/-- ALL_GATHER (R354, R356). -/
def execAllGather (q : Nat) (s : State) : Host.Outcome State Fault Refusal :=
  withColl q opAg s fun h _ c =>
    let p := collPar s c
    let n := totalCount c.members * p.unit
    let hit := p.retain = 2 && (getHeat s h).retained.any fun r => r.key = p.key && r.base = c.me.base && r.bytes = n
    let s := if hit then
        let l := (getHeat s h).retained.filter fun r => !(r.key = p.key && r.base = c.me.base && r.bytes = n)
        dset (modHeat s h fun x => { x with retained := l }) (hColl h) 4 (sumList (l.map (·.bytes)))
      else s
    let own := c.me.base + offOf c.members c.self * p.unit
    let m := c.me.count * p.unit
    let r := if hit || own = p.src then (s, true) else checkRead s p.src m
    let s := if hit || own = p.src || !r.2 then r.1 else (storeStack r.1 own (readBytes r.1 p.src m)).1
    let s := modColl s h c.id fun c => { c with hit := hit }
    openColl s { c with hit := hit } kReady fun _ => if hit then 0 else 1

/-- BATON_EXCHANGE (R359). -/
def execBatonExchange (q : Nat) (s : State) : Host.Outcome State Fault Refusal :=
  withColl q opBx s fun h _ c =>
    let p := collPar s c
    let r := checkRead s p.xtab (32 * c.members.length)
    if !r.2 then r.1
    else
      let c' := { c with sends := readSends r.1 p }
      let s := modColl r.1 h c.id fun c => { c with sends := readSends r.1 p }
      let s := modPeer s h c.id c.self fun x => { x with counts := some (sendCount c' c.self) }
      openColl s c' kCounts fun j => sendCount c' j

/-- RELAY (R366 steps 1 to 3). -/
def execRelay (q : Nat) (s : State) : Host.Outcome State Fault Refusal :=
  withColl q opRl s fun h _ c =>
    let p := collPar s c
    let ok := stagingNeed c.perms ≤ p.stageLen
    let x := if ok then (stagedPieces p 0 c.perms).foldl (fun (acc : State × Bool) e =>
        if !acc.2 then acc
        else
          let r := checkRead acc.1 e.2.srcOff e.2.bytes
          if !r.2 then r else storeLocal r.1 none e.1 (readBytes r.1 e.2.srcOff e.2.bytes)) (s, true)
      else (s, true)
    if !x.2 then x.1
    else
      let s := modColl x.1 h c.id fun c => { c with staged := some ok }
      openColl s { c with staged := some ok } kReady fun _ => b2n ok

/-! ## Receiving -/

/-- A packet that has come in on a port for this device: consumed from what the port delivered. One with a reserved code, and on a
port that does not carry VC0 to VC2 any packet, is discarded and counted (R313, R319); a FUSED port counts nothing (R301). -/
def arrive (s : State) (port : Nat) (k : Packet) : State × Bool :=
  let s := modPort s port fun x => { x with delivered := dropFirst (· = k) x.delivered }
  if linkState s port = linkFused then (s, false)
  else if packetBad k then (dadd s (pIdx port) 0x0A 1, false)
  else if admitted s port then (s, k.dst = ownChip s)
  else (dadd s (pIdx port) 0x0D 1, false)

def sendNak (s : State) (k : Packet) (reason : Nat) : State :=
  sendPacket s { answer s k kNak with code := reason }

/-- Kinds that nobody answers (R313). -/
def isAnswer (kind : Nat) : Bool := kind = kReadResp || kind = kAck || kind = kNak

/-- The heat that answers a packet (R326, R329); a packet it does not answer is NAKed. -/
def targetHeat (s : State) (port : Nat) (k : Packet) : State × Option Nat :=
  match tagHeat s k.tag with
  | none => (nakBack s port k nakTag, none)
  | some h => match (getHeat s h).st with
    | .running | .stopping | .stopped => (s, some h)
    | .starting | .restarting => (sendNak s k nakResetting, none)
    | _ => (nakBack s port k nakTag, none)

/-- The answered packet's transaction, taken away. -/
def takeTxn (s : State) (id : Nat) : State × Option Txn :=
  ({ s with txns := dropFirst (fun t => t.id = id) s.txns }, s.txns.find? (·.id = id))

/-- The reason a refused collective answers with: its own, or MISMATCH where a NAK has ended it, whose status is the same
(DEDUCED, log entry 103). -/
def refuseReason (c : Coll) : Nat :=
  match c.refused with
  | some r => if 16 < r then r - 16 else 1
  | none => 1

/-- A packet that opens or closes something: kept early, refused, or entered and acknowledged (R344). -/
def collIn (port : Nat) (k : Packet) (s : State) (f : State → Coll → State) : State :=
  let a := arrive s port k
  if !a.2 then a.1
  else
    let g := targetHeat a.1 port k
    match g.2 with
    | none => g.1
    | some h =>
      let s := g.1
      let id := (TagIn.ofPacket k).id
      match findColl s h id with
      | none =>
        if k.kind = kReady || k.kind = kCounts || k.kind = kEnd then
          if s.early.length < 16384 then
            collAnswer { s with early := s.early ++ [⟨k.tag, k⟩] } none k kCollAck 0
          else collAnswer s none k kBusy 0
        else collAnswer s none k kRefuse 1
      | some c =>
        let s := modColl s h id fun c => { c with quiet := 0 }
        if c.refused.isSome then collAnswer s (some c) k kRefuse (refuseReason c)
        else if !tagFits c k then answerRefuse s c k 1
        else f s c

/-- A message entered, acknowledged, and what follows from it sent. -/
def collMsgIn (port : Nat) (k : Packet) (s : State) : State :=
  collIn port k s fun s c =>
    let r := takeMsg s c k
    match r.2 with
    | some v => answerRefuse r.1 c k v
    | none => settleColl (pumpColl (collAnswer r.1 (some c) k kCollAck 0) c.heat c.id) c.heat c.id

def execCollReady (port : Nat) (p : Packet) (s : State) : Host.Outcome State Fault Refusal :=
  .next (collMsgIn port { p with kind := kReady } s)

def execCollCounts (port : Nat) (p : Packet) (s : State) : Host.Outcome State Fault Refusal :=
  .next (collMsgIn port { p with kind := kCounts } s)

def execCollEnd (port : Nat) (p : Packet) (s : State) : Host.Outcome State Fault Refusal :=
  .next (collMsgIn port { p with kind := kEnd } s)

/-- COLL_GRANT: the tokens granted go out (R361). -/
def execCollGrant (port : Nat) (p : Packet) (s : State) : Host.Outcome State Fault Refusal :=
  let k := { p with kind := kGrant }
  .next (collIn port k s fun s c =>
    let t := TagIn.ofPacket k
    let s := modPeer s c.heat c.id t.sender fun x => { x with grant := some t.value }
    let s := collAnswer s (some c) k kCollAck 0
    match findColl s c.heat c.id with
    | some c => settleColl (bxSend s (collPar s c) c t.sender t.value2) c.heat c.id
    | none => s)

/-- The range a receiver expects data from sender j in: base and bytes; none for a relay (R346, R366). -/
def expectRange (p : CollPar) (c : Coll) (j : Nat) : Option (Nat × Nat) :=
  match c.form with
  | 0 => some (c.me.base, c.me.count * collSize p)
  | 1 => some (c.me.base + offOf c.members j * p.unit, (c.member j).count * p.unit)
  | 2 => some (recvOffset p c j, nth 0 c.granted j * tokenBytes p)
  | _ => none

/-- A contribution of a peer that has been admitted and neither counted nor refused: it is not whole, or waits in a staging
half (R351). -/
def pendingFrom (s : State) (p : CollPar) (c : Coll) (j : Nat) : Bool :=
  (c.peer j).admitted && ((c.peer j).got < c.me.count * collSize p ||
    (getHeat s c.heat).regions.any fun r => r.contribs.any (·.owner = .coll c.id j))

/-- Contributions to a ledger entry admitted and not yet counted, of whatever collective (R351). -/
def admittedOpen (s : State) (h l : Nat) : Nat :=
  sumList (s.colls.map fun c =>
    let p := collPar s c
    if c.heat = h && c.form = 0 && p.ledgerEn && p.layer = l then (c.others.filter (pendingFrom s p c)).length else 0)

/-- Data applied: the packet acknowledged, its bytes counted. -/
def dataApplied (s : State) (c : Coll) (k : Packet) (j n : Nat) : State :=
  let s := modPeer s c.heat c.id j fun x => { x with got := x.got + n }
  collAnswer s (some c) k kCollAck 0

/-- The kind a reduce-scatter's contributions carry to the ledger. -/
def rsKind (p : CollPar) : Nat := if p.ledgerEn then 2 else 0

/-- A packet's memory-side operation takes whole, aligned elements (R218, R342); 0 stores. -/
def dataFits (k : Packet) : Bool :=
  k.memOp = 0 || (k.memOp ≤ 6 && k.offset % memOpBytes k.memOp = 0 && (k.data.length - 32) % memOpBytes k.memOp = 0)

/-- The data of a packet taken into memory with the packet's own operation (R342). -/
def takeData (s : State) (k : Packet) (d : List Byte) : State × Bool :=
  if k.memOp = 0 then storeLocal s none k.offset d else applyMemOp s k.memOp k.offset d

/-- One packet of a contribution taken, to a region where `r` names one (R349, R351). -/
def rsApply (s : State) (p : CollPar) (c : Coll) (r : Option Nat) (k : Packet) (j : Nat) (d : List Byte) : State :=
  let whole := (c.peer j).got + d.length ≥ c.me.count * collSize p
  let x := match r with
    | some r => ordApply s c.heat r k.memOp k.orderNo (.coll c.id j)
        { addr := k.offset, len := d.length, layer := p.layer, kind := rsKind p, txn := k.txn } d
    | none => takeData s k d
  if !x.2 then sendNak x.1 k nakMemory
  else
    let s := if !whole then x.1
      else match r with
        | some r => ordEnd x.1 c.heat r k.orderNo
        | none => if p.ledgerEn then contribute x.1 c.heat p.layer 2 else x.1
    dataApplied s c k j d.length

/-- The region that an ordered contribution's packet lies in whole; none where R226 refuses the packet. -/
def rsRegion (s : State) (c : Coll) (k : Packet) (j n : Nat) : Option (Nat × OrdRegion) :=
  match regionAtAddr s c.heat k.offset n with
  | some (i, r) =>
    if r.closed || r.refuses k.memOp k.orderEn k.orderNo (.coll c.id j) || k.offset < r.base ||
        r.base + r.bytes < k.offset + n then none
    else some (i, r)
  | none => none

/-- The ledger refuses a packet of a contribution: its entry is not OPEN (R177), or would take one too many (R351). -/
def ledgerRefuses (s : State) (p : CollPar) (c : Coll) (j : Nat) : Bool :=
  let e := getLedger s c.heat p.layer
  p.ledgerEn && (e.st != .opened ||
    (!(c.peer j).admitted && !(decide (e.arrived + admittedOpen s c.heat p.layer < e.expected))))

/-- A packet of a reduce-scatter: refused, held back, or added (R351, R352). Once held back, a contribution stays so until the
receiver has sent COLL_RESUME. -/
def rsData (s : State) (p : CollPar) (c : Coll) (k : Packet) (j : Nat) (d : List Byte) : State :=
  if ledgerRefuses s p c j then
    answerRefuse (countLedgerRefusal s c.heat) c k 2
  else
    let entered (s : State) (held : Bool) : State := modPeer s c.heat c.id j fun x => { x with admitted := true, held := held }
    if !p.ordered then
      if ordViolates s c.heat k.offset d.length k.memOp false 0 (.coll c.id j) then answerRefuse s c k 3
      else rsApply (entered s false) p c none k j d
    else match rsRegion s c k j d.length with
      | none => answerRefuse s c k 3
      | some (i, r) =>
        if (c.peer j).held || (ordPlace r k.orderNo).isNone then
          let s := if (c.peer j).held then s else dadd s 0x2D10 8 1
          collAnswer (entered s true) (some c) k kHeld 0
        else rsApply (entered s false) p c (some i) k j d

/-- Data taken into the peer's range, and into no ordered region that refuses it (R226, R342, R366 step 6). -/
def storeData (s : State) (c : Coll) (k : Packet) (j : Nat) (d : List Byte) : State :=
  if c.form = 3 && !inHeat s c.heat k.offset d.length then sendNak s k nakAddress
  else if ordViolates s c.heat k.offset d.length k.memOp false 0 (.coll c.id j) then answerRefuse s c k 3
  else
    let x := takeData s k d
    if x.2 then dataApplied x.1 c k j d.length else sendNak x.1 k nakMemory

/-- COLL_DATA. -/
def execCollData (port : Nat) (p : Packet) (s : State) : Host.Outcome State Fault Refusal :=
  let k := { p with kind := kData }
  .next (collIn port k s fun s c =>
    let par := collPar s c
    let j := (TagIn.ofPacket k).sender
    let d := k.data.drop 32
    let fits := match expectRange par c j with
      | some (b, n) => b ≤ k.offset && k.offset + d.length ≤ b + n
      | none => true
    if !fits then answerRefuse s c k 4
    else if !dataFits k then sendNak s k nakAddress
    else
      let s := if c.form = 0 then rsData s par c k j d else storeData s c k j d
      settleColl (pumpColl s c.heat c.id) c.heat c.id)

/-- An answer on a port, for this device. One whose tag no heat holds is itself answered with a NAK (R326). -/
def answerIn (s : State) (port : Nat) (k : Packet) : State × Bool :=
  let a := arrive s port k
  if !a.2 then a
  else if (tagHeat a.1 k.tag).isNone then (nakBack a.1 port k nakTag, false)
  else a

/-- The transaction that an answer ends, where one is outstanding. -/
def takeAnswer (s : State) (port : Nat) (k : Packet) : State × Option Txn :=
  let a := answerIn s port k
  if a.2 then takeTxn a.1 k.txn else (a.1, none)

/-- The collective, the peer and the packet that an answer is for. -/
def answeredColl (s : State) (k : Packet) : Option (Coll × Nat × Packet) :=
  match s.txns.find? (·.id = k.txn) with
  | some { owner := .coll h id j, pkt := x, .. } => (findColl s h id).map fun c => (c, j, x)
  | _ => none

/-- The collective whose packet an answer answers: its transaction over, and its peer heard. -/
def collAnswered (port : Nat) (k : Packet) (s : State) (f : State → Coll → Nat → Packet → State) : State :=
  let a := answerIn s port k
  if !a.2 then a.1
  else match answeredColl a.1 k with
    | some (c, j, x) =>
      let s := modColl (takeTxn a.1 k.txn).1 c.heat c.id fun c => { c with quiet := 0 }
      f (collHeard s c j) c j x
    | none => a.1

/-- COLL_ACK. -/
def execCollAck (port : Nat) (p : Packet) (s : State) : Host.Outcome State Fault Refusal :=
  .next (collAnswered port { p with kind := kCollAck } s fun s c _ _ => settleColl s c.heat c.id)

/-- COLL_HELD: the packet waits for COLL_RESUME (R352). -/
def execCollHeld (port : Nat) (p : Packet) (s : State) : Host.Outcome State Fault Refusal :=
  .next (collAnswered port { p with kind := kHeld } s fun s c j x =>
    if c.refused.isSome then settleColl s c.heat c.id
    else if (c.peer j).resumed then sendColl s c j x
    else modColl s c.heat c.id fun c => { c with heldPk := c.heldPk ++ [(j, x)] })

/-- COLL_RESUME: every held packet again. -/
def execCollResume (port : Nat) (p : Packet) (s : State) : Host.Outcome State Fault Refusal :=
  let k := { p with kind := kResume }
  .next (collIn port k s fun s c =>
    let j := (TagIn.ofPacket k).sender
    let mine := c.heldPk.filter (·.1 = j)
    let s := modColl s c.heat c.id fun c => { c with heldPk := c.heldPk.filter (·.1 != j) }
    let s := modPeer s c.heat c.id j fun x => { x with resumed := true }
    mine.foldl (fun s x => sendColl s c j x.2) (collAnswer s (some c) k kCollAck 0))

/-- COLL_BUSY: an answer; the packet is parked until COLL_BUSY_RESEND (R344, R345). -/
def execCollBusy (port : Nat) (p : Packet) (s : State) : Host.Outcome State Fault Refusal :=
  let k := { p with kind := kBusy }
  let a := answerIn s port k
  if !a.2 then .next a.1
  else match answeredColl a.1 k with
    | some (c, j, _) =>
      let s := modColl a.1 c.heat c.id fun c => { c with quiet := 0 }
      let s := { s with txns := s.txns.map fun t => if t.id = k.txn then { t with parked := true, since := s.now } else t }
      .next (settleColl (collHeard s c j) c.heat c.id)
    | none => .next a.1

/-- Microseconds in 0.1 ns. -/
def usec (n : Nat) : Nat := n * 10000

/-- COLL_BUSY_RESEND: the initial back-off has passed (R344). -/
def execCollBusyResend (txn : Nat) (s : State) : Host.Outcome State Fault Refusal :=
  match s.txns.find? fun t => t.id = txn && t.parked with
  | some { owner := .coll h id j, pkt := x, since := t, .. } =>
    if s.now < t + usec (dget s 0x2320 4) then .next s
    else
      let s := (takeTxn s txn).1
      match findColl s h id with
      | some c => .next (if c.refused.isSome then settleColl s h id else sendColl s c j x)
      | none => .next s
  | _ => .next s

/-- COLL_REFUSE: no further packet; the collective ends once everything is answered (R346). -/
def execCollRefuse (port : Nat) (p : Packet) (s : State) : Host.Outcome State Fault Refusal :=
  let k := { p with kind := kRefuse }
  let a := answerIn s port k
  if !a.2 then .next a.1
  else
    let t := TagIn.ofPacket k
    let s := if (answeredColl a.1 k).isSome then (takeTxn a.1 k.txn).1 else a.1
    match tagHeat s k.tag with
    | none => .next s
    | some h => match findColl s h t.id with
      | none => .next s
      | some c =>
        let s := modColl (keepRefusal s k.src (16 + t.value) h k.tag) h t.id fun c => { c with quiet := 0 }
        .next (settleColl (refuseColl s c (16 + t.value)) h t.id)

/-! ## Staged contributions (R222, R225, R227) -/

/-- A span of a staged contribution added from its half: the state, whether every sector was good, and the spans whose ledger
entry has closed meanwhile, of which nothing is added (R177). -/
def addStaged (h : Nat) (g : OrdRegion) (c : Contrib) (acc : State × Bool × List ContribSpan) (p : ContribSpan) :
    State × Bool × List ContribSpan :=
  if !acc.2.1 then acc
  else if p.kind != 0 && (getLedger acc.1 h p.layer).st != .opened then (acc.1, true, p :: acc.2.2)
  else
    let src := g.stagedAt c.order p.addr
    let r := checkRead acc.1 src p.len
    if !r.2 then (r.1, false, acc.2.2)
    else
      let op := if g.bf16 then 2 else 1
      let l := readBytes r.1 src p.len
      let x := applyMemOp (squaresOf r.1 h op p l) op p.addr l
      (x.1, x.2, acc.2.2)

/-- The local commands of a contribution that has been added: done where no other part of theirs waits in a half. -/
def settleStaged (s : State) (h : Nat) (c : Contrib) (refused : List ContribSpan) : State :=
  ((c.spans.filterMap (·.cmd)).eraseDups).foldl (fun s x =>
    if refused.any (·.cmd = some x) then failDma (countLedgerRefusal s h) x.1 x.2 stLedgerClosed 242
    else if stagedPart s h x.1 x.2 then s
    else settleDma (modFlight s x.1 x.2 fun f => { f with waits := false }) x.1 x.2) s

/-- A peer's staged contribution whose ledger entry has closed: the collective is refused with LEDGER, and its sender told, under the
transaction of the contribution's last packet, which was acknowledged when it was staged (R177, R346; DEDUCED, log entry 123). -/
def refuseStaged (s : State) (h : Nat) (c : Contrib) (refused : List ContribSpan) : State :=
  match c.owner, refused with
  | .coll id j, p :: _ => match findColl s h id with
    | some x =>
      let s := sendPacket s { collMsg s x j kRefuse 2 with txn := p.txn }
      settleColl (refuseColl (keepRefusal s (ownChip s) 18 h (heatTag s h)) x 18) h id
    | none => s
  | _, _ => s

/-- The reduce-scatters of a heat looked at for their end. -/
def settleReduces (s : State) (h : Nat) : State :=
  (s.colls.filter fun c => c.heat = h && c.form = 0).foldl (fun s c =>
    if (findColl s h c.id).any (·.form = 0) then settleColl s h c.id else s) s

/-- STAGED_CONTRIBUTION_ADD: contribution `next`, whole in its staging half, added from it, and its half freed (R225). -/
def execStagedContributionAdd (h r : Nat) (s : State) : Host.Outcome State Fault Refusal :=
  match (getHeat s h).regions[r]? with
  | none => .next s
  | some g =>
    match g.contribs.find? fun c => c.order = g.next && c.staged && c.whole with
    | none => .next s
    | some c =>
      if g.closed then .next s
      else
        let x := c.spans.reverse.foldl (addStaged h g c) (s, true, [])
        .next (if x.2.1 then settleReduces (refuseStaged (settleStaged (ordWhole x.1 h r c) h c x.2.2) h c x.2.2) h else x.1)

/-- Whether a member waits for one of R348's messages from a peer. -/
def waitsForPeer (c : Coll) : Bool :=
  c.others.any fun j =>
    match c.form with
    | 0 => ((c.member j).count != 0 && (c.peer j).ready.isNone) || c.heldPk.any (·.1 = j)
    | 1 => c.me.count != 0 && (c.peer j).ready.isNone
    | 2 => (c.peer j).counts.isNone || (c.peer j).grant.isNone
    | _ => (c.peer j).ready.isNone || (c.peer j).ended.isNone

/-- COLLECTIVE_WAIT_EXPIRY (R348); a refused collective waits for answers only. -/
def execCollectiveWaitExpiry (heat coll : Nat) (s : State) : Host.Outcome State Fault Refusal :=
  match findColl s heat coll with
  | none => .next s
  | some c =>
    let w := (collPar s c).wait
    if w = 0 || c.quiet < w || c.refused.isSome || !waitsForPeer c then .next s
    else .next (raise (modColl s heat coll fun c => { c with quiet := 0 })
      { code := 0x010D, cls := 2, cause := 8, heat := some heat })

end Sys2Proof.Machine
end

