-- ==== Sys2Proof/Machine/Start.lean ====
section
/-! DEFINITION. Starting a command: its conditions (R251, R252, R254, R256), the start checks 9 to 11 (R257, R545), and what
it captures at its start. -/

namespace Sys2Proof.Machine

/-- A failing start check: status, word_a and word_b. -/
abbrev StartFail := Nat × Nat × Nat

/-! ## Waiting -/

/-- WAIT_QUEUE's condition (R256). -/
def waitOver (s : State) (d : Slot) : Bool :=
  let hd := (getQueue s (fld d 511 494)).head
  aheadOf hd (fld d 493 462) < 2 ^ 31

/-- Queues bound to a core. -/
def coreFlights (s : State) (k : Nat) : List Flight :=
  (s.queues.filter fun x => x.2.slot = k).flatMap (·.2.flights)

/-- An array command of the core whose array work is not over (R97, R124). -/
def arrayBusy (s : State) (k : Nat) : Bool :=
  (coreFlights s k).any fun f => (f.opcode = opGemm || f.opcode = opDiag) && !f.done

/-- A vector command of the core that has not ended. -/
def controlBusy (s : State) (k : Nat) : Bool :=
  (coreFlights s k).any fun f => f.opcode = opVec && !f.done

/-- A core that takes no new command: under test in a window, or waiting for its spare (R440, R466). -/
def coreHeld (s : State) (k : Nat) : Bool :=
  let c := getCluster s (slotCluster k)
  c.underTest = some k ||
    (lostSlots c).any fun p => slotCore s p = k % 9

/-- The queue's commands run on the engines of its core (R252). -/
def onCore (x : Queue) : Bool := x.cls != 3 && x.cls != 4 && x.cls != 5

/-- A command that has reached an idle core makes it ask for its idle exit (R417). -/
def wakeFor (s : State) (x : Queue) : State :=
  if onCore x then requestWake s (.core x.slot true) else s

/-- PROG_LOAD's wait (R165). -/
def progWaits (s : State) (k : Nat) (isram : Bool) : Bool :=
  let c := getCore s k
  if isram then c.ctl.isSome || controlBusy s k else c.vec.pc.isSome || !c.vec.blocks.isEmpty

/-- The held-back test of a local ordered add-into (R225): one that a region refuses is not held back. -/
def heldBack (s : State) (h : Nat) (d e : Slot) : Bool :=
  let p := DmaPar.ofDesc d e
  let t := dmaTarget s h p
  isDma (dOpcode d) && orderHeld s h p t && (regionFault s h p.orderEn p.orderNo (dmaStores s p (resolveFmt s h p.srcFmt) t)).isNone

/-- Whether the engine takes the command and its waiting conditions are met (R251). -/
def ready (s : State) (h : Nat) (x : Queue) (c : HeadCmd) : Bool :=
  let d := c.desc
  let k := x.slot
  (!dFence d || x.flights.isEmpty) && (!onCore x || !coreHeld s k && coreAwake s k) &&
  match dOpcode d with
  | 0x01 => waitOver s d
  | 0x20 | 0x21 => !arrayBusy s k
  | 0x40 => !controlBusy s k
  | 0x60 | 0x61 => !heldBack s h d c.ext
  | 0x80 | 0x81 | 0x82 | 0x83 => s.colls.length < 64
  | 0xA2 =>
    let st := (getLedger s h (fld d 511 500)).st
    st != .opened && !(st = .complete && (match (getHeat s h).snap with | some n => n.phase ≤ 1 | none => false))
  | 0xC3 => !progWaits s k (fld d 463 463 = 1)
  | _ => true

/-! ## Round-robin (R252) -/

/-- The engine a queue's commands run on: its core's for array, vector and control queues, its cluster's for DMA queues, the
device's for the rest. -/
def engineOf (q : Nat) (x : Queue) : Nat :=
  1024 * x.cls + if x.cls = 3 then queueCluster q else if x.cls = 4 || x.cls = 5 then 0 else x.slot

/-- A queue whose head command's engine takes it and whose waiting conditions are met. -/
def startable (s : State) (q : Nat) : Bool :=
  let x := getQueue s q
  match queueHeat s q, x.headCmd with
  | some h, some c =>
    x.enabled && heatRuns s h && !x.paceHeld && !(dNb c.desc && (paceLost s || !timeReached s c.desc)) && ready s h x c
  | _, _ => false

/-- How far a queue lies behind the one that an engine served last, in ascending order and round. -/
def turnRank (n q : Nat) : Nat := if n ≤ q then q - n else q + 2 ^ 18 - n

/-- No startable queue of the same engine comes before this one. -/
def queueTurn (s : State) (q : Nat) : Bool :=
  let e := engineOf q (getQueue s q)
  let n := tabGet 0 s.served e
  s.queues.all fun y => engineOf y.1 y.2 != e || !startable s y.1 || turnRank n q ≤ turnRank n y.1

/-- The engine has served the queue. -/
def serve (s : State) (q : Nat) : State := { s with served := tabSet 0 s.served (engineOf q (getQueue s q)) (q + 1) }

/-! ## Check 9 (R257) -/

/-- R65 and R103 for a GEMM_TILE. -/
def gemmState (s : State) (k : Nat) (d : Slot) : Option Nat :=
  let g := GemmPar.ofDesc d
  let chain := match (getCore s k).prev with
    | none => [(g.chain, 240)]
    | some r => [
        (g.chain && r.fmtA != g.fA, 237), (g.chain && r.fmtB != g.fB, 234),
        (g.chain && r.aElem != g.aElem, 360), (g.chain && r.bElem != g.bElem, 336),
        (g.chain && g.fA.isX && r.aScale != g.aScale, 312), (g.chain && g.fB.isX && r.bScale != g.bScale, 288)]
  let log := (getCore s k).log
  let a := regionStamp g.aElem log
  let b := regionStamp g.bElem log
  let ra := a.rot != 0
  let rb := b.rot != 0
  let differ := ra && rb && (a.rot != b.rot || a.layer != b.layer || a.tensor != b.tensor)
  failing (chain ++ [
    (ra && rb && a.side != 0, 360), (ra && rb && b.side != 1, 336),
    ((ra != rb) || differ, 336)])

/-- The header of a source's side list as its cluster reads it, from a cached copy in cache mode CACHE (R234). -/
def listHeadBytes (s : State) (h q : Nat) (p : DmaPar) : List Byte :=
  if place s (gOff p.listAddr) != .stack then (loadLocal s h (queueCluster q) p.cache (gOff p.listAddr) 32).2.getD []
  else
  let lines := (getCluster s (queueCluster q)).lines
  (List.range 32).map fun i =>
    let a := gOff p.listAddr + i
    match if p.cache && place s a = .stack then lines.find? (·.granule = a / 256) else none with
    | some y => nth 0#8 y.data (a % 256)
    | none => getByte s a

/-- A fill's source header, and the status it fails with (R546, R547). -/
def startList (s : State) (h q : Nat) (d e : Slot) : Option ListHead × Option (Nat × Nat) :=
  let p := DmaPar.ofDesc d e
  let sf := resolveFmt s h p.srcFmt
  if readsList p sf && isLocal s (gChip p.listAddr) then
    let hd := parseHead (listHeadBytes s h q p)
    (some hd, headFault p sf hd)
  else (none, none)

/-- Overlap of a new ordered region and its staging with what is open, or with itself (R224): the fields at fault. -/
def orderState (s : State) (h : Nat) (d : Slot) : Option Nat :=
  let base := fld d 511 464
  let n := (fld d 463 438 + 1) * 64
  let stage := fld d 420 373
  let l := (getHeat s h).regions.filter (!·.closed)
  let hit (a m : Nat) : Bool := l.any fun r => overlaps a m r.base r.bytes || overlaps a m r.stage (2 * r.bytes)
  failing [(l.length ≥ 16, 464), (hit base n, 464), (hit stage (2 * n), 373), (overlaps base n stage (2 * n), 373)]

/-- The state rules of check 9: status and field. -/
def check9 (s : State) (h q : Nat) (c : HeadCmd) : Option Nat :=
  let d := c.desc
  let k := (getQueue s q).slot
  match dOpcode d with
  | 0x20 => gemmState s k d
  | 0x60 | 0x61 =>
    let p := DmaPar.ofDesc d c.ext
    let w := streamOf p
    let lf := match (startList s h q d c.ext).2 with | some (st, x) => (st = stState, x) | none => (false, 0)
    failing [lf, (dOpcode d = opStream && (getStream s w.1 w.2).isSome, 304)]
  | 0xA0 =>
    let st := (getLedger s h (fld d 511 500)).st
    failing [(st != .idle && st != .released, 500)]
  | 0xA2 =>
    let e := getLedger s h (fld d 511 500)
    let row := Coef.ofRow (tabGet coefDefault (getHeat s h).coef (fld d 499 490))
    let slot := tabGet {} (getHeat s h).norms (fld d 511 500)
    if c.badEntry || e.st != .complete then some 500
    else failing [
      (fld d 415 374 * 64 != e.base, 374),
      (!row.sparse && fld d 373 342 != e.elems, 342),
      (fld d 293 293 = 1 && !row.frozen && !slot.fresh, 293)]
  | 0xC5 => orderState s h d
  | 0xC6 =>
    let t := getQueue s (fld d 511 494)
    failing [(fld d 511 494 = q || (t.enabled && (t.head != t.tail || !t.flights.isEmpty)), 494)]
  | _ => none

/-! ## Contents in memory (R545) -/

/-- A 16-byte policy entry's failing bit: reserved first (R114). -/
def policyReserved (v : Nat) : Option Nat := failing [(bitsOf v 87 80 != 0, 80), (bitsOf v 99 96 != 0, 96)]
def policyRange (v : Nat) : Option Nat :=
  failing [(polCeiling v = 3, 100), (polPermille v > 1000, 102), (polSteps v = 0, 112)]

/-- The first failing entry of a run of entries: the bit counted from the run's base. -/
def firstFault (w n : Nat) (bad : Nat → Option Nat) : Option Nat :=
  (List.range n).findSome? fun i => (bad i).map fun b => w * i + b

/-- A vector instruction word that R164 refuses. DEDUCED (log entry 29): a mod value that the table of R148 neither lists for the
instruction nor marks as reserved is illegal like a reserved one. -/
def badVecWord (w : Nat) : Bool :=
  let op := bitsOf w 31 26
  let m := bitsOf w 2 0
  let tap := bitsOf w 5 3
  let bsel := bitsOf w 10 10 = 1
  let modOk := match op with
    | 0x01 | 0x02 | 0x03 | 0x04 | 0x05 | 0x06 | 0x07 | 0x08 | 0x09 | 0x0A | 0x0B => m ≤ 1
    | 0x17 | 0x18 | 0x1E | 0x26 | 0x2A | 0x2B | 0x2D | 0x2E | 0x3D => m ≤ 1
    | 0x1F | 0x20 | 0x21 => true
    | 0x32 | 0x33 => m ≤ 4
    | 0x36 => m ≤ 3
    | 0x3A | 0x3B | 0x3C => true
    | _ => m = 0
  let opOk := op ≤ 0x2E || (0x32 ≤ op && op ≤ 0x3E)
  let writesReg := (1 ≤ op && op ≤ 0x28) || (0x2A ≤ op && op ≤ 0x2E) || op = 0x32 || op = 0x33 || op = 0x34 || op = 0x35 ||
    op = 0x3A || op = 0x3B || op = 0x3C
  if w = 0xFFFFFFFF then false
  else if op = 0x3F || !opOk || !modOk then true
  else (bsel && bitsOf w 15 15 = 1) || (tap != 0 && !writesReg) || (op = 0x3D && bitsOf w 9 9 = 1) ||
    (op = 0x38 && bitsOf w 23 21 = 0) || (op = 0x37 && bitsOf w 18 16 = 7)

/-- The contents of a command's source at its start: status, field and bit. -/
def contentFault (s : State) (d : Slot) : Option StartFail :=
  let src := fld d 511 464
  match dOpcode d with
  | 0xC0 =>
    let n := fld d 457 452 + 1
    let v (i : Nat) := readNat s (src + 16 * i) 16
    match firstFault 128 n fun i => policyReserved (v i) with
    | some b => some (stReserved, 464, b)
    | none => (firstFault 128 n fun i => policyRange (v i)).map fun b => (stFieldRange, 464, b)
  | 0xA1 =>
    let n := fld d 453 444 + 1
    let v (i : Nat) := readNat s (src + 48 * i) 48
    match firstFault 384 n fun i => if bitsOf (v i) 383 258 != 0 then some 258 else none with
    | some b => some (stReserved, 464, b)
    | none => (firstFault 384 n fun i => coefRowFault (v i)).map fun b => (stFieldRange, 464, b)
  | 0xC3 =>
    let n := fld d 462 449 + 1
    if fld d 463 463 = 1 then none
    else (firstFault 32 n fun i => if badVecWord (readNat s (src + 4 * i) 4) then some 0 else none).map
      fun b => (stProgram, 464, b)
  | _ => none

/-- An UPDATE_LAYER of a group that is sparse and not frozen. -/
def sparsePass (s : State) (h : Nat) (d : Slot) : Bool :=
  let row := Coef.ofRow (tabGet coefDefault (getHeat s h).coef (fld d 499 490))
  dOpcode d = opUpdate && row.sparse && !row.frozen

/-- R194: the row list of a sparse group. -/
def sparseFault (s : State) (h : Nat) (d : Slot) : Option StartFail :=
    if !sparsePass s h d then none
    else
      let n := fld d 233 210
      let a := fld d 279 234 * 4
      let v (i : Nat) := readNat s (a + 4 * i) 4
      if n * (fld d 292 280 + 1) != (getLedger s h (fld d 511 500)).elems then some (stFieldRange, 210, 0)
      else (firstFault 32 n fun i => if i != 0 && v i ≤ v (i - 1) then some 0 else none).map
        fun b => (stFieldRange, 234, b)

/-- The memory a command reads at its start. -/
def startSpan (s : State) (h : Nat) (d : Slot) : Nat × Nat :=
  match dOpcode d with
  | 0xC0 => (fld d 511 464, 16 * (fld d 457 452 + 1))
  | 0xA1 => (fld d 511 464, 48 * (fld d 453 444 + 1))
  | 0xC3 => (fld d 511 464, 4 * (fld d 462 449 + 1))
  | 0xC1 => (dget s (hCfg h) 0x0C, 64 * 4096)
  | 0xA2 => if sparsePass s h d then (fld d 279 234 * 4, 4 * fld d 233 210) else (0, 0)
  | _ => (0, 0)

/-- What a command reads at its start; a failing sector there (false) abandons the command, which has started (R213, R214, R245). -/
def startReads (s : State) (h q : Nat) (c : HeadCmd) : State × Bool :=
  let p := DmaPar.ofDesc c.desc c.ext
  if dOpcode c.desc = opCopy then
    if readsList p (resolveFmt s h p.srcFmt) && isLocal s (gChip p.listAddr) then
      let r := loadLocal s h (queueCluster q) p.cache (gOff p.listAddr) 32
      (r.1, r.2.isSome)
    else (s, true)
  else let sp := startSpan s h c.desc; checkRead s sp.1 sp.2

/-- The image of a PROG_LOAD, or the row list of a sparse update. -/
def wordsOf (s : State) (h : Nat) (d : Slot) : List Nat :=
  match dOpcode d with
  | 0xC3 => (List.range (fld d 462 449 + 1)).map fun i => readNat s (fld d 511 464 + 4 * i) 4
  | 0xA2 => if sparsePass s h d then (List.range (fld d 233 210)).map fun i => readNat s (fld d 279 234 * 4 + 4 * i) 4 else []
  | _ => []

/-! ## Check 11 (R177, R226) -/

/-- What a command that is no DMA transfer stores or adds on this device: the field that names it, its range, its operation. What the
device writes of its own accord (completion records, statistics, the trouble log, a snapshot) is no store of a command (DEDUCED, log
entry 35). -/
def otherStores (s : State) (h : Nat) (c : HeadCmd) : List (Nat × Nat × Nat × Nat) :=
  let d := c.desc
  if isColl (dOpcode d) then
    let p := CollPar.ofDesc d
    let rs := dOpcode d = opRs
    (if rs && p.ordered then []
      else ((collSpans s d c.members c.perms).filter (·.2.2.2)).map fun x => (x.1, x.2.1, x.2.2.1, if rs then collOp p else 0)) ++
    (if dOpcode d = opBx then [(0xFFFFFFFF, dget s (hColl h) 1, dget s (hColl h) 2, 0)] else [])
  else if dOpcode d = opUpdate then
    let row := Coef.ofRow (tabGet coefDefault (getHeat s h).coef (fld d 499 490))
    let rec_ := fld d 457 416 * 64
    let stride := 64 + 192 * ceilDiv (fld d 292 280 + 1) 32
    (168, fld d 209 168 * 64, 64, 0) ::
      (if row.frozen then []
      else if row.sparse then (wordsOf s h d).map fun r => (416, rec_ + r * stride, stride, 0)
      else [(416, rec_, 192 * ceilDiv (fld d 373 342) 32, 0)])
  else []

/-- Check 11: status and field. -/
def check11 (s : State) (h : Nat) (c : HeadCmd) : Option (Nat × Nat) :=
  let p := DmaPar.ofDesc c.desc c.ext
  if isDma (dOpcode c.desc) then refusedBy s h p (resolveFmt s h p.srcFmt) (dmaTarget s h p)
  else (regionFault s h false 0 (otherStores s h c)).map fun x => (stOrder, x)

/-- Every start check in order: the first that fails. -/
def startChecks (s : State) (h q : Nat) (c : HeadCmd) : Option StartFail :=
  let d := c.desc
  match check9 s h q c with
  | some x => some (stState, x, 0)
  | none =>
    match if isColl (dOpcode d) then collStartCheck s h d c.members else none with
    | some (st, x) => some (st, x, 0)
    | none =>
      match (startList s h q d c.ext).2 with
      | some (st, x) => some (st, x, 0)
      | none =>
        match contentFault s d with
        | some x => some x
        | none =>
          match sparseFault s h d with
          | some x => some x
          | none => (check11 s h c).map fun x => (x.1, x.2, 0)

/-! ## What a start does -/

/-- The tile state of a GEMM_TILE at its start (R64, R116). -/
def newTile (s : State) (h k : Nat) (d : Slot) : TileRun :=
  let g := GemmPar.ofDesc d
  let o := match (getCore s k).prev with
    | some r => if g.chain then (r.pos, r.kblk) else (0, 0)
    | none => (0, 0)
  { rungA := rungOf g.fA, rungB := rungOf g.fB, pos0 := o.1, kblk0 := o.2, policy := getPolicy s h g.policy }

/-- A prefetcher engaged, or declined and counted (R229, R230). -/
def engagePrefetch (s : State) (h q i : Nat) (d e : Slot) : State :=
  let p := DmaPar.ofDesc d e
  if !isDma (dOpcode d) || !p.pfEnable then s
  else
    let c := getCluster s (queueCluster q)
    if cacheWays s h = 0 || (nth none c.prefetch p.pfSlot).isSome then dadd s 0x2D10 7 1
    else setCluster s (queueCluster q) { c with prefetch := setNth c.prefetch p.pfSlot (some (q, i)) }

/-- The entries a POLICY_SET or the rows a UPD_COEF_SET writes (R114, R179). -/
def lateOf (s : State) (d : Slot) : List Late :=
  let src := fld d 511 464
  match dOpcode d with
  | 0xC0 => (List.range (fld d 457 452 + 1)).map fun i => .policy (fld d 463 458 + i) (readNat s (src + 16 * i) 16)
  | 0xA1 => (List.range (fld d 453 444 + 1)).map fun i => .coef (fld d 463 454 + i) (readNat s (src + 48 * i) 48)
  | _ => []

/-- A layer's statistics entry, by its address. -/
def statAddr (s : State) (h n : Nat) : Nat := dget s (hCfg h) 0x0C + 64 * n

/-- The count a STEP_END closes for a layer. -/
def closedCount (s : State) (h n : Nat) : StepCount :=
  let v := readNat s (statAddr s h n) 64
  ⟨n, (bitsOf v 479 448 + bitsOf v 447 416) % 2 ^ 32, bitsOf v 511 480,
    getPolicy s h (tabGet {} (getHeat s h).layers n).policy⟩

/-- A closed count written: the step's counts at zero, the last step's kept (R130). -/
def writeClosed (s : State) (h : Nat) (c : StepCount) : State :=
  let v := putBits (readNat s (statAddr s h c.layer) 64) 511 384 0
  writeNat s (statAddr s h c.layer) 64 (putBits (putBits v 383 352 c.tiles) 351 320 c.flagged)

/-- The counts of every layer closed (R129, R130). -/
def closeStep (s : State) (h : Nat) : State × List StepCount :=
  let l := (List.range 4096).map (closedCount s h)
  (l.foldl (fun s c => writeClosed s h c) s, l)

/-- The flight of a command that starts, with what it captures (R116, R128, R244). -/
def newFlight (s : State) (h q k : Nat) (c : HeadCmd) : Flight :=
  let d := c.desc
  let p := DmaPar.ofDesc d c.ext
  let dma := isDma (dOpcode d)
  { index := c.index, opcode := dOpcode d, desc := d, ext := c.ext, hasExt := c.hasExt
    tile := if dOpcode d = opGemm then some (newTile s h k d) else none
    srcF := if dma then resolveFmt s h p.srcFmt else none
    dstF := if dma then dmaTarget s h p else none
    pol := if dma then getPolicy s h p.policy else 0
    after := lateOf s d
    words := wordsOf s h d
    coef := if dOpcode d = opUpdate then tabGet coefDefault (getHeat s h).coef (fld d 499 490) else 0
    lhead := if dma then (startList s h q d c.ext).1 else none }

/-- Effects that come with the start itself. -/
def startEffects (s : State) (h q : Nat) (c : HeadCmd) : State :=
  let d := c.desc
  let s := engagePrefetch s h q c.index d c.ext
  match dOpcode d with
  | 0x61 =>
    let p := DmaPar.ofDesc d c.ext
    let w := streamOf p
    setStream s w.1 w.2 (some
      { queue := q, index := c.index, core := bitsOf p.srcStride 11 2, tag := p.src, fmt := if p.srcFmt = 9 then .bf16 else .fp32
        need := p.rows * p.rowLen, elems := [] })
  | 0xC1 =>
    let r := closeStep s h
    modFlight r.1 q c.index fun f => { f with steps := r.2 }
  | 0xA2 => setLedger s h (fld d 511 500) { getLedger s h (fld d 511 500) with st := .updating }
  | 0x80 | 0x81 | 0x82 | 0x83 => consumeEarly (enterColl s h q c) h (CollPar.ofDesc d).id
  | _ => s

/-- The staging lines a PROG_LOAD has used: undefined afterwards (R164). -/
def stageProgram (s : State) (k : Nat) (d : Slot) : State :=
  let r := regionAt d 411
  let b := freeBytes s (r.len * 512)
  noteBufWrite (writeBytes b.2 (cbAddr k (r.line * 512)) b.1) k [(r.line * 512, r.len * 512)]

/-- The head command started, or completed by a start check, or left waiting. -/
def startHead (s : State) (q : Nat) : State :=
  let x := getQueue s q
  match queueHeat s q, x.headCmd with
  | some h, some c =>
    if !x.enabled || !heatRuns s h then s
    else if dNb c.desc && paceLost s then setQueue s q { x with paceHeld := true }
    else if x.paceHeld then s
    else if dNb c.desc && !timeReached s c.desc then setQueue s q { x with waitsTime := true }
    else
      let x := { x with waitsTime := false }
      let s := wakeFor (setQueue s q x) x
      if heldBack s h c.desc c.ext && !c.held then
        dadd (setQueue s q { x with headCmd := some { c with held := true } }) 0x2D10 8 1
      else if !ready s h x c || !queueTurn s q then s
      else
        let r := startReads (serve s q) h q c
        if !r.2 then
          setQueue r.1 q { x with
            headCmd := none
            flights := x.flights ++ [{ newFlight r.1 h q x.slot c with acted := true, waits := true }] }
        else
          let s := r.1
          match startChecks s h q c with
          | some (st, a, b) =>
            let s := if st = stProgram then stageProgram s x.slot c.desc else s
            setQueue (failedEffects (countRefusal s h st) h c.desc) q { x with
              headCmd := none
              flights := x.flights ++ [failedFlight c.index c.desc c.ext c.hasExt st a b] }
          | none =>
            let f := newFlight s h q x.slot c
            let s := setQueue s q { x with headCmd := none, flights := x.flights ++ [f] }
            startEffects s h q c
  | _, _ => s

/-- COMMAND_START (R251, R257). -/
def execCommandStart (q : Nat) (s : State) : Host.Outcome State Fault Refusal := .next (startHead s q)

/-- The queues of a heat. -/
def heatQueues (s : State) (h : Nat) : List Nat :=
  (s.queues.map (·.1)).filter fun q => bitOf (dget s (hCfg h) 3) (queueCluster q)

/-- A heat of which snapshots are taken. -/
def snapState (s : State) (h : Nat) : Bool :=
  match (getHeat s h).st with
  | .running | .stopping | .stopped => true
  | _ => false

/-- A periodic snapshot lap, or the lap of a TAKE, not taken yet. -/
def snapDue (s : State) (h : Nat) : Bool :=
  let p := dget s (hSnap h) 1
  let x := getHeat s h
  x.lastSnapLap != some s.lap && (x.snapHeld || (p != 0 && s.lap % p = 0) || x.take = some s.lap)

/-- A command of a heat whose not-before time has come and that has not been compared yet: of the events scheduled for a
tick it comes first (R297). -/
def commandsDue (s : State) (h : Nat) : Bool :=
  heatRuns s h && !paceLost s && (heatQueues s h).any fun q =>
    let x := getQueue s q
    x.enabled && x.waitsTime && !x.paceHeld &&
      (match x.headCmd with | some c => timeReached s c.desc | none => false)

/-- The same, of any heat. -/
def anyCommandDue (s : State) : Bool := (List.range heatCount).any (commandsDue s)

/-- Commands and snapshots due at this tick, in any heat (R297). -/
def heatEventsDue (s : State) : Bool :=
  anyCommandDue s || (List.range heatCount).any fun h => snapState s h && snapDue s h

/-- NOT_BEFORE_TIME: the head command's time has come and it is compared (R254). -/
def execNotBeforeTime (q : Nat) (s : State) : Host.Outcome State Fault Refusal :=
  match (getQueue s q).headCmd with
  | some c => if dNb c.desc then .next (startHead s q) else .next s
  | none => .next s

/-- NOP (R256). -/
def execNop (q : Nat) (s : State) : Host.Outcome State Fault Refusal :=
  withRunning q 0x00 s fun _ f => finish s q f.index stSuccess 0 0

/-- WAIT_QUEUE: started, so over (R256). -/
def execWaitQueue (q : Nat) (s : State) : Host.Outcome State Fault Refusal :=
  withRunning q 0x01 s fun _ f => finish s q f.index stSuccess 0 0

end Sys2Proof.Machine
end

