-- ==== Sys2Proof/Machine/Control.lean ====
section
/-! DEFINITION. The control-class commands (R114, R129 to R131, R164, R224, R236, R271, R466). -/

namespace Sys2Proof.Machine

/-- A command done with success and no words. -/
def done0 (s : State) (q : Nat) (f : Flight) : State := finish s q f.index stSuccess 0 0

/-- POLICY_SET: its entries take effect with its record (R116). -/
def execPolicySet (q : Nat) (s : State) : Host.Outcome State Fault Refusal :=
  withRunning q opPolicy s fun _ f => done0 s q f

/-! ## Layers (R128 to R131, R134, R135) -/

/-- The copies of a layer's table entry in its statistics (R135). -/
def copyLayer (s : State) (h n : Nat) (r : LayerRow) : State :=
  let v := readNat s (statAddr s h n) 64
  writeNat s (statAddr s h n) 64 (putBits (putBits (putBits v 319 304 r.pin) 303 302 r.rung) 301 296 r.policy)

/-- LAYER_SET (R131). -/
def execLayerSet (q : Nat) (s : State) : Host.Outcome State Fault Refusal :=
  withRunning q opLayer s fun h f =>
    let n := fld f.desc 511 500
    let row : LayerRow := { rung := fld f.desc 499 498, pin := fld f.desc 497 482, policy := fld f.desc 481 476 }
    let s := modHeat s h fun x => { x with layers := tabSet {} x.layers n row }
    let r := checkRead s (statAddr s h n) 64
    if r.2 then done0 (copyLayer r.1 h n row) q f else abandonDma r.1 q f.index

/-- A layer record of the trouble log: kind 1 pinned, 2 returned, 3 raised (R134). -/
def layerTrouble (s : State) (h n step kind : Nat) (r : LayerRow) : State :=
  (logTrouble s h
    (s.lap % 2 ^ 48 * 2 ^ 400 + s.phase % 2 ^ 32 * 2 ^ 368 + step * 2 ^ 336 + n * 2 ^ 324 + r.policy * 2 ^ 318 +
      h * 2 ^ 304 + r.rung * 2 ^ 302 + kind)).1

/-- What R130 does to a layer entry: the new row, how it changed (0 not at all, else a record kind), and whether
`last_change_step` is written. -/
def stepRow (r : LayerRow) (c : StepCount) : LayerRow × Nat × Bool :=
  let p := c.policy
  let excess := polPermille p > 0 && c.flagged * 1000 > polPermille p * c.tiles
  if excess && polCeiling p > 0 then
    if r.rung < polCeiling p then
      ({ r with rung := r.rung + 1, pin := polSteps p }, if r.rung = 0 then 1 else 3, true)
    else ({ r with pin := polSteps p }, 0, true)
  else if r.pin > 0 then
    if r.pin = 1 then ({ r with pin := 0, rung := 0 }, 2, true) else ({ r with pin := r.pin - 1 }, 0, false)
  else (r, 0, false)

/-- One layer at STEP_END. -/
def stepLayer (s : State) (h step : Nat) (c : StepCount) : State × Option Late :=
  let r := tabGet {} (getHeat s h).layers c.layer
  let n := stepRow r c
  let a := statAddr s h c.layer
  let v := readNat s a 64
  let v := if n.2.1 = 1 || n.2.1 = 3 then bump v 287 256 1 else if n.2.1 = 2 then bump v 255 224 1 else v
  let v := if n.2.2 then putBits v 223 192 step else v
  let s := copyLayer (writeNat s a 64 v) h c.layer n.1
  let s := if n.2.1 = 0 then s else layerTrouble s h c.layer step n.2.1 n.1
  (s, if n.1 = r then none else some (.layer c.layer n.1))

/-- STEP_END (R129, R130): the new rungs come with its record. -/
def execStepEnd (q : Nat) (s : State) : Host.Outcome State Fault Refusal :=
  withRunning q opStepEnd s fun h f =>
    let step := fld f.desc 511 480
    let r := f.steps.foldl (fun (acc : State × List Late) c =>
      let x := stepLayer acc.1 h step c
      (x.1, match x.2 with | some l => l :: acc.2 | none => acc.2)) (s, [])
    done0 (modFlight r.1 q f.index fun f => { f with after := r.2 ++ [.step step] }) q f

/-! ## Programs, caches, regions, queues -/

/-- PROG_LOAD: the checked image into vector program memory or instruction SRAM, the staging lines undefined (R164); it waits while the
target's contents are in use (R165). -/
def execProgLoad (q : Nat) (s : State) : Host.Outcome State Fault Refusal :=
  withRunning q opProg s fun _ f =>
    let k := (getQueue s q).slot
    if progWaits s k (fld f.desc 463 463 = 1) then s else
    let w := fld f.desc 448 435
    let n := f.words.length
    let x := (List.range n).zip f.words
    let s := stageProgram s k f.desc
    let s := if fld f.desc 463 463 = 1 then
        modCore s k fun c => { c with
          isram := x.foldl (fun t y => ((List.range 4).zip (bytesOf 4 y.2)).foldl
            (fun t z => tabSet 0#8 t (4 * (w + y.1) + z.1) z.2) t) c.isram }
      else
        modCore s k fun c => { c with
          prog := x.foldl (fun t y => tabSet 0 t (w + y.1) y.2) c.prog
          progLen := max c.progLen (w + n) }
    done0 s q f

/-- CACHE_INV (R236). -/
def execCacheInv (q : Nat) (s : State) : Host.Outcome State Fault Refusal :=
  withRunning q opCache s fun h f =>
    let a := fld f.desc 511 464
    let n := fld f.desc 463 416
    let s := (heatClusters s h).foldl (fun s c =>
      if n = 0 then modCluster s c fun x => { x with lines := [] } else cacheInvalidate s c a n) s
    done0 s q f

/-- ADD_ORDER_OPEN (R224): a new region, in place of closed ones it overlaps. -/
def execAddOrderOpen (q : Nat) (s : State) : Host.Outcome State Fault Refusal :=
  withRunning q opOrder s fun h f =>
    let d := f.desc
    match orderState s h d with
    | some x => finish s q f.index stState x 0
    | none =>
      let r : OrdRegion :=
        { base := fld d 511 464, bytes := (fld d 463 438 + 1) * 64, members := fld d 437 422 + 1
          bf16 := fld d 421 421 = 1, stage := fld d 420 373 }
      let s := modHeat s h fun x => { x with
        regions := (x.regions.filter fun y => !(y.closed && overlaps y.base y.bytes r.base r.bytes)) ++ [r] }
      done0 s q f

/-- Whether a queue may be set up anew (R271). -/
def queueQuiet (x : Queue) : Bool := !x.enabled || (x.head = x.tail && x.flights.isEmpty)

/-- QUEUE_SET (R271). -/
def execQueueSet (q : Nat) (s : State) : Host.Outcome State Fault Refusal :=
  withRunning q opQueue s fun _ f =>
    let d := f.desc
    let t := fld d 511 494
    if !queueQuiet (getQueue s t) then finish s q f.index stState 494 0
    else
      let s := setQueue s t
        { enabled := fld d 493 493 = 1, cls := fld d 492 490, slot := fld d 489 480, log2 := fld d 479 476 + 6
          ring := fld d 475 428, cpl := fld d 427 380 }
      done0 s q f

/-- TEST_WINDOW (R466): over at once where the cluster has a spare or the window has passed; else it waits for the
window's end. -/
def execTestWindow (q : Nat) (s : State) : Host.Outcome State Fault Refusal :=
  withRunning q opTest s fun _ f =>
    let c := queueCluster q
    let lap := fld f.desc 511 464
    let n := fld f.desc 463 448
    if (spareOf s c).isSome || s.lap ≥ lap + n then done0 s q f
    else
      let s := modFlight s q f.index fun f => { f with acted := true }
      modCluster s c fun x => { x with
        windows := x.windows ++ [{ queue := q, index := f.index, lap := lap, laps := n, begun := lap ≤ s.lap && !eventsHeld s }] }

/-- LAP_LIMIT: a command program still running after `lap_limit` lap beacons ends with PROGRAM_FAULT, cause 9 (R273). -/
def limitReached (r : CtlRun) : Bool := let n := fld r.desc 240 225; n != 0 && r.laps ≥ n

end Sys2Proof.Machine
end

