-- ==== Sys2Proof/Machine/Update.lean ====
section
/-! DEFINITION. The update-class commands (R172 to R197). -/

namespace Sys2Proof.Machine

/-- GRAD_OPEN (R175). -/
def execGradOpen (q : Nat) (s : State) : Host.Outcome State Fault Refusal :=
  withRunning q opGradOpen s fun h f =>
    let d := f.desc
    let l := fld d 511 500
    let st := (getLedger s h l).st
    if st != .idle && st != .released then finish s q f.index stState 500 0
    else
      let n := fld d 425 410
      let s := setLedger s h l
        { st := if n = 0 then .complete else .opened, base := fld d 499 458 * 64, elems := fld d 457 426, expected := n }
      done0 s q f

/-- UPD_COEF_SET: its rows take effect with its record (R179). -/
def execUpdCoefSet (q : Nat) (s : State) : Host.Outcome State Fault Refusal :=
  withRunning q opCoef s fun _ f => done0 s q f

/-- NORM_SET (R186). -/
def execNormSet (q : Nat) (s : State) : Host.Outcome State Fault Refusal :=
  withRunning q opNorm s fun h f =>
    match normWindow (fld f.desc 499 436) with
    | none => finish s q f.index stFieldRange 436 0
    | some w =>
      let s := modHeat s h fun x => { x with
        norms := tabSet {} x.norms (fld f.desc 511 500) { win := w, valid := true, fresh := true } }
      done0 s q f

/-! ## UPDATE_LAYER (R187 to R197) -/

structure UpdPar where
  layer  : Nat
  step   : Nat
  rec_   : Nat
  grad   : Nat
  shard  : Nat
  elems  : Nat
  supplied : Bool
  rowLen : Nat
  stat   : Nat
deriving DecidableEq, Repr

def UpdPar.ofDesc (d : Slot) : UpdPar :=
  { layer := fld d 511 500, step := fld d 489 458, rec_ := fld d 457 416 * 64, grad := fld d 415 374 * 64
    shard := fld d 373 342, elems := fld d 341 294, supplied := fld d 293 293 = 1, rowLen := fld d 292 280 + 1
    stat := fld d 209 168 * 64 }

/-- What the engines gather in a pass: each engine's windows, and the counts. -/
structure PassSums where
  w : List Window
  g : List Window
  redBad : Bool := false
  n : UpdCounts := {}
deriving DecidableEq, Repr

def PassSums.start (engines : Nat) : PassSums := { w := List.replicate engines {}, g := List.replicate engines {} }

/-- The windows merged in engine order (R189). -/
def mergeAll (l : List Window) : Window := l.foldl Window.merge {}

/-- The addresses of an element's weight and moment within its record group (R187). -/
def weightAddr (group j : Nat) : Nat := group + 4 * j
def momentAddr (group j : Nat) : Nat := group + 128 + 2 * j

/-- One element of group number `q` updated: `base` its group's address, `j` its place, `ga` its gradient's address. -/
def updateOne (c : Coef) (sz : FV) (catchUp : Option (FV × FV)) (q base j ga : Nat) (acc : State × PassSums) :
    State × PassSums :=
  let s := acc.1
  let p := acc.2
  let wa := weightAddr base j
  let ma := momentAddr base j
  let gc := readNat s ga 4
  let o := updateElem c sz catchUp (readNat s wa 4) (readNat s ma 2) gc
  let s := writeNat (writeNat s wa 4 o.w) ma 2 o.m
  let e := q % p.w.length
  let g := f32 gc
  let w := f32 o.w
  (s, { w := if w.isFin then modNth p.w e (·.addSq w) else p.w
        g := if g.isFin then modNth p.g e (·.addSq g) else p.g
        redBad := p.redBad || !g.isFin
        n := p.n.add o.n })

/-- The elements of a run of record groups at `base`, with gradients at `grad`: the run's first group has number q0. -/
def updateRun (c : Coef) (sz : FV) (catchUp : Option (FV × FV)) (q0 base grad n : Nat) (acc : State × PassSums) :
    State × PassSums :=
  (List.range n).foldl (fun acc i =>
    updateOne c sz catchUp (q0 + i / 32) (base + 192 * (i / 32)) (i % 32) (grad + 4 * i) acc) acc

/-- The norm pre-pass of a shard (R186). -/
def prePass (s : State) (engines base n : Nat) : Window :=
  mergeAll ((List.range n).foldl (fun l i =>
    let w := f32 (readNat s (weightAddr (base + 192 * (i / 32)) (i % 32)) 4)
    if w.isFin then modNth l (i / 32 % engines) (·.addSq w) else l) (List.replicate engines {}))

/-- The update record (R197). -/
def updateRecord (p : UpdPar) (e : Ledger) (red wsum : Window) (redBad : Bool) (tau sz : FV) (rows skew : Nat)
    (n : UpdCounts) (pre frozen : Bool) : Nat :=
  window64 e.mbWin * 2 ^ 448 + window64 red * 2 ^ 384 + window64 wsum * 2 ^ 320 + p.step * 2 ^ 288 +
    e.mbContribs * 2 ^ 256 + fmtF32.encodeIeee tau * 2 ^ 224 + fmtF32.encodeIeee sz * 2 ^ 192 + rows * 2 ^ 160 +
    satNat 24 n.clipped * 2 ^ 136 + satNat 24 n.nonfinite * 2 ^ 112 + satNat 24 n.sat * 2 ^ 88 + satNat 24 skew * 2 ^ 64 +
    b2n e.mbNonfinite * 2 ^ 9 + b2n redBad * 2 ^ 8 + b2n (e.mbWin.loss != 0) * 2 ^ 7 + b2n (red.loss != 0) * 2 ^ 6 +
    b2n (wsum.loss != 0) * 2 ^ 5 + b2n pre * 2 ^ 4 + b2n frozen * 2 ^ 3

/-- A pass over: its record written, its entry released, the command done. -/
def endUpdate (s : State) (h q : Nat) (f : Flight) (p : UpdPar) (word elems st : Nat) : State :=
  let s := (storeStack s p.stat (bytesOf 64 word)).1
  let s := modHeat s h fun x => { x with recs := tabSet {} x.recs p.layer { word := word, stat := p.stat } }
  let s := setLedger s h p.layer { getLedger s h p.layer with st := .released }
  finish s q f.index st elems 0

def passStatus (n : UpdCounts) : Nat := if n.nonfinite > 0 then stNonfinite else stSuccess

/-- A dense pass (R184 to R190). -/
def densePass (s : State) (h q : Nat) (f : Flight) (p : UpdPar) (c : Coef) (engines : Nat) : State :=
  let a := checkRead s p.rec_ (192 * ceilDiv p.shard 32)
  let b := if a.2 then checkRead a.1 p.grad (4 * p.shard) else a
  if !b.2 then abandonDma b.1 q f.index
  else
    let s := b.1
    let slot := tabGet {} (getHeat s h).norms p.layer
    let pre := !p.supplied && !slot.valid
    let t := trustStep c (if pre then prePass s engines p.rec_ p.shard else slot.win) p.elems
    let r := updateRun c t.2.1 none 0 p.rec_ p.grad p.shard (s, PassSums.start engines)
    let w := mergeAll r.2.w
    let n := r.2.n.add ⟨0, 0, t.2.2⟩
    let s := modHeat r.1 h fun x => { x with norms := tabSet {} x.norms p.layer { win := w, valid := true, fresh := false } }
    endUpdate s h q f p (updateRecord p (getLedger s h p.layer) (mergeAll r.2.g) w r.2.redBad t.1 t.2.1 0 0 n pre false)
      p.shard (passStatus n)

/-- The stride of a sparse table's rows (R193). -/
def rowStride (n : Nat) : Nat := 64 + 192 * ceilDiv n 32

/-- The sums of a sparse pass: the engines', the rows updated and the skews. -/
structure SparseSums where
  sums : PassSums
  rows : Nat := 0
  skew : Nat := 0
deriving DecidableEq, Repr

/-- One listed row (R195). -/
def sparseRow (h : Nat) (p : UpdPar) (c : Coef) (sz : FV) (acc : State × SparseSums) (x : Nat × Nat) : State × SparseSums :=
  let s := acc.1
  let a := p.rec_ + x.2 * rowStride p.rowLen
  if !inHeat s h a (rowStride p.rowLen) then acc
  else
    let r := checkRead s a (rowStride p.rowLen)
    let s := r.1
    let k := (p.step + 2 ^ 33 - readNat s a 4 - 1) % 2 ^ 32
    let skew := k > 2 ^ 31
    let one := sat32 (fvSub .one (fvMul sz c.lambda))
    let pw := powK one.1 k
    let pm := powK c.c3 k
    let up := k != 0 && !skew
    let t := updateRun c sz (if up then some (pw.1, pm.1) else none) (x.1 * ceilDiv p.rowLen 32) (a + 64)
      (p.grad + 4 * x.1 * p.rowLen) p.rowLen (s, acc.2.sums)
    let n := t.2.n.add ⟨0, 0, if up then one.2 + pw.2 + pm.2 else 0⟩
    (writeBytes t.1 a (bytesOf 64 p.step), ⟨{ t.2 with n := n }, acc.2.rows + 1, acc.2.skew + b2n skew⟩)

/-- A sparse pass (R193 to R195). -/
def sparseUpdate (s : State) (h q : Nat) (f : Flight) (p : UpdPar) (c : Coef) (engines : Nat) : State :=
  let n := f.words.length
  let rows := (List.range n).zip f.words
  let g := checkRead s p.grad (4 * n * p.rowLen)
  let g := rows.foldl (fun (acc : State × Bool) x =>
    if acc.2 then checkRead acc.1 (p.rec_ + x.2 * rowStride p.rowLen) (rowStride p.rowLen) else acc) g
  if !g.2 then abandonDma g.1 q f.index
  else
    let sz := sat32 (fvMul c.eta c.tauMin)
    let r := rows.foldl (sparseRow h p c sz.1) (g.1, ⟨PassSums.start engines, 0, 0⟩)
    let m := r.2.sums.n.add ⟨0, 0, sz.2⟩
    endUpdate r.1 h q f p
      (updateRecord p (getLedger r.1 h p.layer) (mergeAll r.2.sums.g) {} r.2.sums.redBad c.tauMin sz.1 r.2.rows r.2.skew m
        false false) (n * p.rowLen) (passStatus m)

/-- UPDATE_LAYER's pass (R188, R196). -/
def updateStep (s : State) (h q : Nat) (f : Flight) : State :=
  let p := UpdPar.ofDesc f.desc
  let c := Coef.ofRow f.coef
  let engines := max 1 (dget s 0x2C10 1)
  if c.frozen then
    endUpdate s h q f p (updateRecord p (getLedger s h p.layer) {} {} false .zero .zero 0 0 {} false true) 0 stFrozen
  else if c.sparse then sparseUpdate s h q f p c engines
  else densePass s h q f p c engines

def execUpdateLayer (q : Nat) (s : State) : Host.Outcome State Fault Refusal :=
  withRunning q opUpdate s fun h f => updateStep s h q f

end Sys2Proof.Machine
end

