-- ==== Sys2Proof/Machine/Vector.lean ====
section
/-! DEFINITION. The vector engine, the reduction unit and the control core's registers (R136 to R171, R272, R273, R437). -/

namespace Sys2Proof.Machine

/-! ## The instruction word (R140) -/

def vOp (w : Nat) : Nat := bitsOf w 31 26
def vVd (w : Nat) : Nat := bitsOf w 25 21
def vVa (w : Nat) : Nat := bitsOf w 20 16
def vVb (w : Nat) : Nat := bitsOf w 15 11
def vBsel (w : Nat) : Bool := bitOf w 10
def vMk (w : Nat) : Bool := bitOf w 9
def vMreg (w : Nat) : Nat := bitsOf w 8 6
def vTap (w : Nat) : Nat := bitsOf w 5 3
def vMod (w : Nat) : Nat := bitsOf w 2 0
def vPacked (w : Nat) : Bool := bitOf w 0

def vEnd : Nat := 0xFFFFFFFF
def opSetvl : Nat := 0x36

/-! ## Registers -/

def getVec (s : State) (k : Nat) : VecState := (getCore s k).vec
def modVec (s : State) (k : Nat) (f : VecState → VecState) : State := modCore s k fun c => { c with vec := f c.vec }

/-- Lane e of the group that starts at register r (R137). -/
def VecState.lane (v : VecState) (r e : Nat) : Nat := tabGet 0 v.v (r * 64 + e)
def VecState.mask (v : VecState) (m : Nat) : Nat := tabGet 0 v.m m
def VecState.sum (v : VecState) (n : Nat) : Summary := tabGet {} v.sums n
def VecState.group (v : VecState) : Nat := 2 ^ v.grp

/-- Whether element (or lane) e is active (R141). -/
def VecState.active (v : VecState) (w e : Nat) : Bool := e < v.vl && (!vMk w || bitOf (v.mask (vMreg w)) e)

/-- The active elements, ascending. -/
def VecState.actives (v : VecState) (w : Nat) : List Nat := rangeWhere v.vl (v.active w)

/-- The second operand of element e: a lane, or a summary's value broadcast. -/
def VecState.second (v : VecState) (w e : Nat) : Nat :=
  if vBsel w then (v.sum (vVb w % 16)).value else v.lane (vVb w) e

/-- The second operand of half `hi` of lane e under the packed modifier. A broadcast value is converted to bfloat16 (R31, R36) for
each element that takes it, and each conversion counts its events (DEDUCED, log entry 112). -/
def VecState.secondHalf (v : VecState) (cls : Cls) (w e : Nat) (hi : Bool) : Nat × Ev :=
  if vBsel w then vconv fmtF32 fmtBF16 cls (v.sum (vVb w % 16)).value
  else (if hi then v.lane (vVb w) e / 65536 else v.lane (vVb w) e % 65536, {})

def halfOf (c : Nat) (hi : Bool) : Nat := if hi then c / 65536 else c % 65536

/-! ## Reductions (R154 to R160) -/

def sumOp : Nat := 0
def sumSq : Nat := 1
def sumMax : Nat := 2
def sumMin : Nat := 3
def sumArgMax : Nat := 4
def sumArgMin : Nat := 5
def sumCount : Nat := 6
def sumConst : Nat := 7

/-- An operation's identity (R157). -/
def Summary.clear (op : Nat) : Summary :=
  { op := op, value := if op = sumMax || op = sumArgMax then 0xFF800000
                       else if op = sumMin || op = sumArgMin then 0x7F800000 else 0 }

def Summary.const (v : Nat) : Summary := { op := sumConst, value := v, empty := false }

/-- `a` larger than `b`, -0 below +0: for MAX by its table row, for MIN, ARGMAX and ARGMIN in the same order (R155; DEDUCED, log entry
112). -/
def fvAbove (a b : FV) : Bool := fvLt b a || (!fvLt a b && b.isZero && a.isZero && b.signOf && !a.signOf)

/-- The value of SUM and SUMSQ (R156). What this conversion saturates or flushes counts no event: the value is formed anew with each
contribution, and no command converts it (DESIGN CHOICE, log entry 99). -/
def Summary.settle (x : Summary) (cls : Cls) : Summary :=
  let c : Cell := { win := x.win, nan := x.nan, posInf := x.posInf, negInf := x.negInf }
  { x with value := (c.drain cls).1, nan := x.nan || (x.posInf && x.negInf) }

/-- One element, a binary32 pattern with its index, contributed; the unit reads it under R43. -/
def Summary.contribute (x : Summary) (cls : Cls) (idx c : Nat) : Summary :=
  let r := fmtF32.read cls c
  let v := r.1
  let c := if r.2 then c / 2 ^ 31 * 2 ^ 31 else c
  let x := { x with empty := false, inf := x.inf || (match v with | .inf _ => true | _ => false) }
  if x.op = sumOp || x.op = sumSq then
    let x := match v with
      | .nan => { x with nan := true }
      | .inf s => if s && x.op = sumOp then { x with negInf := true } else { x with posInf := true }
      | .fin .. => { x with win := if x.op = sumOp then x.win.addSum v else x.win.addSq v }
    x.settle cls
  else if x.op = sumCount then { x with value := if v.isZero then x.value else x.value + 1 }
  else if v.isNan then { x with nan := true }
  else
    let cur := f32 x.value
    let better := if x.op = sumMax || x.op = sumArgMax then fvAbove v cur else fvAbove cur v
    if x.op = sumMax || x.op = sumMin then (if better then { x with value := c } else x)
    else if better || x.index = 0xFFFFFFFF then { x with value := c, index := idx }
    else x

/-- An instruction's contribution: its elements with their places, and how far the index advances (R155). -/
def Summary.take (x : Summary) (cls : Cls) (l : List (Nat × Nat)) (n : Nat) : Summary :=
  if x.op = sumConst then x
  else if x.nElem + n > 0xFFFFFFFF then { x with full := true }
  else
    let b := x.nElem
    { l.foldl (fun x e => x.contribute cls (b + e.1) e.2) x with nElem := b + n }

/-- The FLUSH events of what an instruction sends to its tap (R43). -/
def VecState.tapFlush (v : VecState) (cls : Cls) (w : Nat) (l : List (Nat × Nat)) (n : Nat) : Ev :=
  let b := tabGet 0 v.taps (vTap w)
  let x := v.sum (b - 1)
  if vTap w = 0 || b = 0 || x.op = sumConst || x.nElem + n > 0xFFFFFFFF then {}
  else { flush := (l.filter fun e => (fmtF32.read cls e.2).2).length }

/-- A copy of a result sent to the tap the word names. -/
def VecState.tap (v : VecState) (cls : Cls) (w : Nat) (l : List (Nat × Nat)) (n : Nat) : VecState :=
  let b := tabGet 0 v.taps (vTap w)
  if vTap w = 0 || b = 0 then v
  else { v with sums := tabSet {} v.sums (b - 1) ((v.sum (b - 1)).take cls l n) }

/-- What lanes send: the pattern, or under the packed modifier both halves widened. Instructions without that modifier send one
pattern to a lane, PACKB and CVTH among them (R154; DEDUCED, log entry 112). -/
def tapList (packed : Bool) (l : List (Nat × Nat)) : List (Nat × Nat) :=
  if packed then l.flatMap fun x =>
    [(2 * x.1, x.2 % 65536 * 65536), (2 * x.1 + 1, x.2 / 65536 * 65536)]
  else l

def bitPattern (b : Bool) : Nat := if b then 0x3F800000 else 0

/-! ## Running an instruction -/

/-- What an instruction comes to: it waits, it faults (R170), or it has had its effect. -/
inductive VecRes where
  | stall (s : State)
  | fault (s : State) (cause : Nat)
  | ok (s : State)
deriving DecidableEq, Repr

/-- The fault of R170: the engine stops, queued blocks with it; VSTAT keeps the cause and the instruction. -/
def vecFault (s : State) (k cause i : Nat) : State :=
  modVec s k fun v => { v with pc := none, blocks := [], busy := false, fault := some (cause, i) }

/-- The next instruction of the block, or a fault: execution that runs on past the loaded image is at a word beyond it, as a block
that starts there is (R163; DEDUCED, log entry 112). -/
def vecNext (s : State) (k pc : Nat) : State :=
  if pc + 1 ≥ (getCore s k).progLen then vecFault s k 6 (pc + 1)
  else modVec s k fun v => { v with pc := some (pc + 1) }

/-- One vector instruction: the word at the running block's place, where its opcode is the row's. While `vl` is 0 every
instruction but SETVL issues without effect (R143). -/
def vecRow (op k : Nat) (s : State) (f : Nat → Nat → State → VecRes) : Host.Outcome State Fault Refusal :=
  match clusterHeat s (slotCluster k), (getVec s k).pc with
  | some h, some pc =>
    let w := tabGet 0 (getCore s k).prog pc
    if (getHeat s h).st != .running && (getHeat s h).st != .stopping then .next s
    else if vOp w != op || w = vEnd || (getVec s k).condemned then .next s
    else if pc = 16383 then .next (vecFault s k 6 pc)
    else if (getVec s k).vl = 0 && op != opSetvl then .next (vecNext s k pc)
    else match f h w s with
      | .stall s => .next s
      | .fault s c => .next (vecFault s k c pc)
      | .ok s => .next (vecNext s k pc)
  | _, _ => .next s

/-- R137: every register named must start a group. -/
def VecState.aligned (v : VecState) (l : List Nat) : Bool := l.all fun r => r % v.group = 0

/-- The registers an instruction with two sources names. -/
def regs3 (w : Nat) : List Nat := if vBsel w then [vVd w, vVa w] else [vVd w, vVa w, vVb w]
def regs2 (w : Nat) : List Nat := [vVd w, vVa w]

/-- Conversion events added to the core's counters and the heat's statistics (R45, R147). -/
def vecEvents (s : State) (k h : Nat) (e : Ev) : State :=
  addFlush (modVec s k fun v =>
    { v with evSat := v.evSat + e.sat, evNanb := v.evNanb + e.nanb, evFlush := v.evFlush + e.flush }) h e.flush

/-- The results of an instruction, lane by lane with their events, written to `vd` and sent to the tap. -/
def vecPut (k : Nat) (packed : Bool) (r : List (Nat × Nat × Ev)) (h w : Nat) (s : State) : State :=
  let v := getVec s k
  let cls := heatCls s h
  let l := tapList packed (r.map fun x => (x.1, x.2.1))
  let n := if packed then 2 * v.vl else v.vl
  let s := modVec s k fun v =>
    let v : VecState := { v with v := r.foldl (fun t x => tabSet 0 t (vVd w * 64 + x.1) x.2.1) v.v }
    v.tap cls w l n
  vecEvents s k h ((evSum (r.map fun x => x.2.2)).add (v.tapFlush cls w l n))

/-- A vector result written: pattern and events of each active lane by `g`. -/
def vecWrite (k : Nat) (packed : Bool) (l : List Nat) (g : VecState → Cls → Nat → Nat × Ev) (h w : Nat) (s : State) : VecRes :=
  let v := getVec s k
  if !v.aligned l then .fault s 1
  else
    let cls := heatCls s h
    let r : List (Nat × Nat × Ev) := (v.actives w).map fun e => (e, g v cls e)
    .ok (vecPut k packed r h w s)

/-- A mask result written: the bit of each active element. -/
def maskWrite (k : Nat) (l : List Nat) (g : VecState → Cls → Nat → Bool × Ev) (h w : Nat) (s : State) : VecRes :=
  let v := getVec s k
  if !v.aligned l then .fault s 1
  else
    let cls := heatCls s h
    let r : List (Nat × Bool × Ev) := (v.actives w).map fun e => (e, g v cls e)
    let d := vVd w % 8
    let s := modVec s k fun v =>
      let v : VecState := { v with m := tabSet 0 v.m d (r.foldl (fun m x => putBit m x.1 x.2.1) (v.mask d)) }
      v.tap cls w (r.map fun x => (x.1, bitPattern x.2.1)) v.vl
    .ok (vecEvents s k h (evSum (r.map fun x => x.2.2)))

/-! ## Arithmetic -/

/-- Two floating operands, FP32 or packed (R138, R144). -/
def floatTwo (g : FV → FV → FV) (w : Nat) (v : VecState) (cls : Cls) (e : Nat) : Nat × Ev :=
  let a := v.lane (vVa w) e
  if vPacked w then
    let b (hi : Bool) : Nat × Ev := v.secondHalf cls w e hi
    let lo := vop2 fmtBF16 cls g (halfOf a false) (b false).1
    let hi := vop2 fmtBF16 cls g (halfOf a true) (b true).1
    (hi.1 * 65536 + lo.1, ((b false).2.add lo.2).add ((b true).2.add hi.2))
  else vop2 fmtF32 cls g a (v.second w e)

def floatThree (g : FV → FV → FV → FV) (w : Nat) (v : VecState) (cls : Cls) (e : Nat) : Nat × Ev :=
  let a := v.lane (vVa w) e
  let d := v.lane (vVd w) e
  if vPacked w then
    let b (hi : Bool) : Nat × Ev := v.secondHalf cls w e hi
    let lo := vop3 fmtBF16 cls g (halfOf a false) (b false).1 (halfOf d false)
    let hi := vop3 fmtBF16 cls g (halfOf a true) (b true).1 (halfOf d true)
    (hi.1 * 65536 + lo.1, ((b false).2.add lo.2).add ((b true).2.add hi.2))
  else vop3 fmtF32 cls g a (v.second w e) d

def floatOne (packed : Bool) (g : FV → FV) (w : Nat) (v : VecState) (cls : Cls) (e : Nat) : Nat × Ev :=
  let a := v.lane (vVa w) e
  if packed then
    let lo := vop1 fmtBF16 cls g (halfOf a false)
    let hi := vop1 fmtBF16 cls g (halfOf a true)
    (hi.1 * 65536 + lo.1, lo.2.add hi.2)
  else vop1 fmtF32 cls g a

/-- FCSGN: the sign is that of the second operand's pattern. -/
def signCopy (w : Nat) (v : VecState) (cls : Cls) (e : Nat) : Nat × Ev :=
  let a := v.lane (vVa w) e
  if vPacked w then
    let one (hi : Bool) : Nat × Ev :=
      let b := v.secondHalf cls w e hi
      let r := vop1 fmtBF16 cls (vCsgn (bitOf b.1 15)) (halfOf a hi)
      (r.1, b.2.add r.2)
    ((one true).1 * 65536 + (one false).1, (one false).2.add (one true).2)
  else vop1 fmtF32 cls (vCsgn (bitOf (v.second w e) 31)) a

/-- A function of the pattern and its value (R146). -/
def approxOne (g : Nat → FV → FV) (w : Nat) (v : VecState) (cls : Cls) (e : Nat) : Nat × Ev :=
  let a := v.lane (vVa w) e
  vop1 fmtF32 cls (g a) a

/-- Two integer operands. -/
def intTwo (g : Nat → Nat → Nat) (w : Nat) (v : VecState) (_ : Cls) (e : Nat) : Nat × Ev :=
  (g (v.lane (vVa w) e % 2 ^ 32) (v.second w e % 2 ^ 32) % 2 ^ 32, {})

/-- The error of an element of a lane: the sum of what falls on it. -/
def laneErr (l : List VecErr) (e : Nat) (hi : Bool) : Int :=
  ((l.filter fun x => x.lane = e && x.hi = hi).map (·.delta)).foldl (· + ·) 0

/-- A lane of a checked operation with the errors of one issue: its pattern, its events, and whether its checks pass. -/
def checkedLane (o : FmaOp) (errs : List VecErr) (w : Nat) (v : VecState) (cls : Cls) (e : Nat) : (Nat × Ev) × Bool :=
  let a := v.lane (vVa w) e
  let d := v.lane (vVd w) e
  if vPacked w then
    let half (hi : Bool) : (Nat × Ev) × Bool :=
      let b := v.secondHalf cls w e hi
      let r := o.elem fmtBF16 cls (halfOf a hi) b.1 (halfOf d hi) (laneErr errs e hi)
      ((r.1.1, b.2.add r.1.2), r.2)
    (((half true).1.1 * 65536 + (half false).1.1, (half false).1.2.add (half true).1.2), (half false).2 && (half true).2)
  else o.elem fmtF32 cls a (v.second w e) d (laneErr errs e false)

/-- One issue of a checked operation: lane, pattern and events, and whether its checks passed. -/
abbrev Issue := List (Nat × (Nat × Ev) × Bool)

/-- The results of an issue, for `vecPut`. -/
def issued (l : Issue) : List (Nat × Nat × Ev) := l.map fun x => (x.1, x.2.1.1, x.2.1.2)

/-- The retire checks of an operation (R429, R437): its results, once every check has passed. An operation whose check fails writes
nothing and issues once more; the lanes that passed both times are compared, and the outcomes are those of R436: after a permanent
or an escaped verdict nothing is written and the engine issues nothing more. -/
def vecVerdict (k : Nat) (issue : List VecErr → Issue) (r : VecResidue) (h : Nat) (s : State) :
    State × Option (List (Nat × Nat × Ev)) :=
  let a := issue r.first
  if a.all (·.2.2) then (s, some (issued a))
  else
    let b := issue r.second
    let p := physSlot s k
    let s := dadd s 0x2D60 2 1
    let stop (cause : Nat) : State := modVec (retirePermanent s p cause (some h)) k fun v => { v with condemned := true }
    if b.any fun x => !x.2.2 then (stop 1, none)
    else if (a.zip b).any fun x => x.1.2.2 && x.1.2.1.1 != x.2.2.1.1 then (stop 2, none)
    else
      let s := recordTransient s p 2 (some h)
      (match (getCore s k).ctl with
        | some c => modFlight s c.queue c.index fun f => { f with status := pickStatus stCorrVector f.status }
        | none => s, some (issued b))

/-- A checked operation that writes `vd`: each active lane of an issue by `g`. -/
def vecRetire (k : Nat) (packed : Bool) (l : List Nat) (g : List VecErr → VecState → Cls → Nat → (Nat × Ev) × Bool) (r : VecResidue)
    (h w : Nat) (s : State) : VecRes :=
  let v := getVec s k
  if !v.aligned l then .fault s 1
  else
    let x := vecVerdict k (fun errs => (v.actives w).map fun e => (e, g errs v (heatCls s h) e)) r h s
    match x.2 with
    | some y => .ok (vecPut k packed y h w x.1)
    | none => .stall x.1

/-- A checked operation over va, vb and vd (R147). -/
def vecChecked (k : Nat) (o : FmaOp) (r : VecResidue) (h w : Nat) (s : State) : VecRes :=
  vecRetire k (vPacked w) (regs3 w) (fun errs v cls e => checkedLane o errs w v cls e) r h w s

/-- What a path ends in: a floating format, two BF16 halves, an integer, or data moved as it stands, with no arithmetic to check. -/
inductive PathEnd where
  | float (f : FloatFmt)
  | pair
  | int (bits : Nat)
  | moved

/-- A result with an error of its path, which strikes its significand, or the integer, before the check (R427 to R430; DEDUCED, log
entry 115). -/
def pathErr (f : FloatFmt) (cls : Cls) (c : Nat) (err : Int) : Nat × Bool :=
  if err = 0 then (c, true)
  else match f.decode c with
    | .fin s m e => let x := (Chk.of (if s then -(m : Int) else m)).err err; ((vwrite f cls (.ofIntE x.val e)).1, x.ok)
    | _ => (c, true)

/-- A lane's result with the errors of one issue. -/
def errLane (p : PathEnd) (cls : Cls) (errs : List VecErr) (e : Nat) (r : Nat × Ev) : (Nat × Ev) × Bool :=
  let d := laneErr errs e false
  match p with
  | .float f => let x := pathErr f cls r.1 d; ((x.1, r.2), x.2)
  | .pair =>
    let x := pathErr fmtBF16 cls (halfOf r.1 false) d
    let y := pathErr fmtBF16 cls (halfOf r.1 true) (laneErr errs e true)
    ((y.1 * 65536 + x.1, r.2), x.2 && y.2)
  | .int n => let x := (Chk.of (sext n r.1)).err d; ((wrapInt n x.val, r.2), x.ok)
  | .moved => (r, true)

/-- A result written lane by lane, its path checked where the command brings errors. -/
def vecIssue (k : Nat) (l : List Nat) (p : PathEnd) (g : VecState → Cls → Nat → Nat × Ev) (r : Option VecResidue) (h w : Nat)
    (s : State) : VecRes :=
  match r with
  | none => vecWrite k false l g h w s
  | some r => vecRetire k false l (fun errs v cls e => errLane p cls errs e (g v cls e)) r h w s

/-- A row over two sources; with errors of its significand path, where it names them. -/
def execTwo (op k : Nat) (res : Option VecResidue) (o : FmaOp) (g : FV → FV → FV) (s : State) :
    Host.Outcome State Fault Refusal :=
  vecRow op k s fun h w s => match res with
    | none => vecWrite k (vPacked w) (regs3 w) (floatTwo g w) h w s
    | some r => vecChecked k o r h w s

def execThree (op k : Nat) (res : Option VecResidue) (o : FmaOp) (g : FV → FV → FV → FV) (s : State) :
    Host.Outcome State Fault Refusal :=
  vecRow op k s fun h w s => match res with
    | none => vecWrite k (vPacked w) (regs3 w) (floatThree g w) h w s
    | some r => vecChecked k o r h w s

/-- FABS and FNEG: a sign changed, which no significand path takes part in. -/
def execOne (op k : Nat) (g : FV → FV) (s : State) : Host.Outcome State Fault Refusal :=
  vecRow op k s fun h w s => vecWrite k (vPacked w) (regs2 w) (floatOne (vPacked w) g w) h w s

def execRound (op : Nat) (x : VecIssue) (g : FV → FV) (s : State) : Host.Outcome State Fault Refusal :=
  vecRow op x.core s fun h w s => vecIssue x.core (regs2 w) (.float fmtF32) (floatOne false g w) x.res h w s

def execApprox (op : Nat) (x : VecIssue) (g : Nat → FV → FV) (s : State) : Host.Outcome State Fault Refusal :=
  vecRow op x.core s fun h w s => vecIssue x.core (regs2 w) (.float fmtF32) (approxOne g w) x.res h w s

def execInt (op k : Nat) (g : Nat → Nat → Nat → Nat) (s : State) : Host.Outcome State Fault Refusal :=
  vecRow op k s fun h w s => vecWrite k false (regs3 w) (intTwo (g w) w) h w s

/-- NOP: nothing. -/
def execVectorNop (core : Nat) (s : State) : Host.Outcome State Fault Refusal :=
  vecRow 0x00 core s fun _ _ s => .ok s

/-- FADD: va + vb. -/
def execFadd (core : Nat) (res : Option VecResidue) (s : State) : Host.Outcome State Fault Refusal :=
  execTwo 0x01 core res faddOp fvAdd s

/-- FSUB: va - vb. -/
def execFsub (core : Nat) (res : Option VecResidue) (s : State) : Host.Outcome State Fault Refusal :=
  execTwo 0x02 core res fsubOp fvSub s

/-- FMUL: va × vb. -/
def execFmul (core : Nat) (res : Option VecResidue) (s : State) : Host.Outcome State Fault Refusal :=
  execTwo 0x03 core res fmulOp fvMul s

/-- FMA: va × vb + vd, rounded once. -/
def execFma (core : Nat) (res : Option VecResidue) (s : State) : Host.Outcome State Fault Refusal :=
  execThree 0x04 core res fmaOp vFma s

/-- FMS: va × vb - vd, rounded once. -/
def execFms (core : Nat) (res : Option VecResidue) (s : State) : Host.Outcome State Fault Refusal :=
  execThree 0x05 core res fmsOp vFms s

/-- FNMA: vd - va × vb, rounded once. -/
def execFnma (core : Nat) (res : Option VecResidue) (s : State) : Host.Outcome State Fault Refusal :=
  execThree 0x06 core res fnmaOp vFnma s

/-- FMAX (R145). -/
def execFmax (core : Nat) (s : State) : Host.Outcome State Fault Refusal :=
  vecRow 0x07 core s fun h w s => vecWrite core (vPacked w) (regs3 w) (floatTwo vMax w) h w s

/-- FMIN (R145). -/
def execFmin (core : Nat) (s : State) : Host.Outcome State Fault Refusal :=
  vecRow 0x08 core s fun h w s => vecWrite core (vPacked w) (regs3 w) (floatTwo vMin w) h w s

/-- FABS. -/
def execFabs (core : Nat) (s : State) : Host.Outcome State Fault Refusal :=
  execOne 0x09 core FV.abs s

/-- FNEG. -/
def execFneg (core : Nat) (s : State) : Host.Outcome State Fault Refusal :=
  execOne 0x0A core FV.neg s

/-- FCSGN. -/
def execFcsgn (core : Nat) (s : State) : Host.Outcome State Fault Refusal :=
  vecRow 0x0B core s fun h w s => vecWrite core (vPacked w) (regs3 w) (signCopy w) h w s

/-- FRND. -/
def execFrnd (issue : VecIssue) (s : State) : Host.Outcome State Fault Refusal :=
  execRound 0x0C issue vRnd s

/-- FSCALE. -/
def execFscale (issue : VecIssue) (s : State) : Host.Outcome State Fault Refusal :=
  vecRow 0x0D issue.core s fun h w s => vecIssue issue.core (regs3 w) (.float fmtF32) (fun v cls e =>
    vop1 fmtF32 cls (vScale (sext 32 (v.second w e))) (v.lane (vVa w) e)) issue.res h w s

/-- FRCP (R146). -/
def execFrcp (issue : VecIssue) (s : State) : Host.Outcome State Fault Refusal :=
  execApprox 0x0E issue vRcp s

/-- FRSQRT (R146). -/
def execFrsqrt (issue : VecIssue) (s : State) : Host.Outcome State Fault Refusal :=
  execApprox 0x0F issue vRsqrt s

/-- FEXP2 (R146). -/
def execFexp2 (issue : VecIssue) (s : State) : Host.Outcome State Fault Refusal :=
  execApprox 0x10 issue vExp2 s

/-- FLOG2 (R146). -/
def execFlog2 (issue : VecIssue) (s : State) : Host.Outcome State Fault Refusal :=
  execApprox 0x11 issue vLog2 s

/-- FTANH (R146). -/
def execFtanh (issue : VecIssue) (s : State) : Host.Outcome State Fault Refusal :=
  execApprox 0x12 issue vTanh s

/-- FSQRT, correctly rounded. -/
def execFsqrt (issue : VecIssue) (s : State) : Host.Outcome State Fault Refusal :=
  execRound 0x13 issue fvSqrt s

/-- IADD. -/
def execIadd (core : Nat) (s : State) : Host.Outcome State Fault Refusal :=
  execInt 0x14 core (fun _ a b => a + b) s

/-- ISUB. -/
def execIsub (core : Nat) (s : State) : Host.Outcome State Fault Refusal :=
  execInt 0x15 core (fun _ a b => a + 2 ^ 32 - b) s

/-- IMUL. -/
def execImul (core : Nat) (s : State) : Host.Outcome State Fault Refusal :=
  execInt 0x16 core (fun _ a b => a * b) s

/-- IMAX. -/
def execImax (core : Nat) (s : State) : Host.Outcome State Fault Refusal :=
  execInt 0x17 core (fun w a b => imaxW (bitOf w 0) a b) s

/-- IMIN. -/
def execImin (core : Nat) (s : State) : Host.Outcome State Fault Refusal :=
  execInt 0x18 core (fun w a b => iminW (bitOf w 0) a b) s

/-- AND. -/
def execAnd (core : Nat) (s : State) : Host.Outcome State Fault Refusal :=
  execInt 0x19 core (fun _ a b => a &&& b) s

/-- OR. -/
def execOr (core : Nat) (s : State) : Host.Outcome State Fault Refusal :=
  execInt 0x1A core (fun _ a b => a ||| b) s

/-- XOR. -/
def execXor (core : Nat) (s : State) : Host.Outcome State Fault Refusal :=
  execInt 0x1B core (fun _ a b => a ^^^ b) s

/-- ANDN. -/
def execAndn (core : Nat) (s : State) : Host.Outcome State Fault Refusal :=
  execInt 0x1C core (fun _ a b => a &&& (b ^^^ (2 ^ 32 - 1))) s

/-- SHL. -/
def execShl (core : Nat) (s : State) : Host.Outcome State Fault Refusal :=
  execInt 0x1D core (fun _ a b => a <<< (b % 32)) s

/-- SHR. -/
def execShr (core : Nat) (s : State) : Host.Outcome State Fault Refusal :=
  execInt 0x1E core (fun w a b => shrW (bitOf w 0) a (b % 32)) s

/-! ## Masks, moves and conversions -/

def cmpRegs (w : Nat) : List Nat := if vBsel w then [vVa w] else [vVa w, vVb w]

/-- FCMP: NaN makes every ordered compare false. -/
def execFcmp (core : Nat) (s : State) : Host.Outcome State Fault Refusal :=
  vecRow 0x1F core s fun h w s => maskWrite core (cmpRegs w) (fun v cls e =>
    let a := vread fmtF32 cls (v.lane (vVa w) e)
    let b := vread fmtF32 cls (v.second w e)
    (fcond (vMod w) a.1 b.1, a.2.add b.2)) h w s

/-- ICMP. -/
def execIcmp (core : Nat) (s : State) : Host.Outcome State Fault Refusal :=
  vecRow 0x20 core s fun h w s => maskWrite core (cmpRegs w) (fun v _ e =>
    (icond (vMod w) (v.lane (vVa w) e) (v.second w e), {})) h w s

/-- VSEL. -/
def execVsel (core : Nat) (s : State) : Host.Outcome State Fault Refusal :=
  vecRow 0x21 core s fun h w s => vecWrite core false (regs3 w) (fun v _ e =>
    (if bitOf (v.mask (vMod w)) e then v.lane (vVa w) e else v.second w e, {})) h w s

/-- MAND. -/
def execMand (core : Nat) (s : State) : Host.Outcome State Fault Refusal :=
  vecRow 0x22 core s fun h w s => maskWrite core [] (fun v _ e =>
    let a := bitOf (v.mask (vVa w % 8)) e
    let b := bitOf (v.mask (vVb w % 8)) e
    (a && b, {})) h w s

/-- MOR. -/
def execMor (core : Nat) (s : State) : Host.Outcome State Fault Refusal :=
  vecRow 0x23 core s fun h w s => maskWrite core [] (fun v _ e =>
    let a := bitOf (v.mask (vVa w % 8)) e
    let b := bitOf (v.mask (vVb w % 8)) e
    (a || b, {})) h w s

/-- MXOR. -/
def execMxor (core : Nat) (s : State) : Host.Outcome State Fault Refusal :=
  vecRow 0x24 core s fun h w s => maskWrite core [] (fun v _ e =>
    let a := bitOf (v.mask (vVa w % 8)) e
    let b := bitOf (v.mask (vVb w % 8)) e
    (a != b, {})) h w s

/-- MNOT. -/
def execMnot (core : Nat) (s : State) : Host.Outcome State Fault Refusal :=
  vecRow 0x25 core s fun h w s => maskWrite core [] (fun v _ e => (!bitOf (v.mask (vVa w % 8)) e, {})) h w s

/-- MSET: all 512 bits, under predication those whose mask bit is 1. -/
def execMset (core : Nat) (s : State) : Host.Outcome State Fault Refusal :=
  vecRow 0x26 core s fun h w s =>
    let v := getVec s core
    let d := vVd w % 8
    let l := rangeWhere 512 fun e => !vMk w || bitOf (v.mask (vMreg w)) e
    let on := bitOf w 0
    let cls := heatCls s h
    .ok (modVec s core fun v =>
      let v : VecState := { v with m := tabSet 0 v.m d (l.foldl (fun m e => putBit m e on) (v.mask d)) }
      v.tap cls w ((l.filter (· < v.vl)).map fun e => (e, bitPattern on)) v.vl)

/-- VMOV. -/
def execVmov (core : Nat) (s : State) : Host.Outcome State Fault Refusal :=
  vecRow 0x27 core s fun h w s =>
    vecWrite core false (if vBsel w then [vVd w] else [vVd w, vVb w]) (fun v _ e => (v.second w e, {})) h w s

/-- VIDX. -/
def execVidx (core : Nat) (s : State) : Host.Outcome State Fault Refusal :=
  vecRow 0x28 core s fun h w s => vecWrite core false [vVd w] (fun _ _ e => (e, {})) h w s

/-- VTOS: element 0, where it is active (R160). -/
def execVtos (core : Nat) (s : State) : Host.Outcome State Fault Refusal :=
  vecRow 0x29 core s fun _ w s =>
    let v := getVec s core
    if !v.aligned [vVa w] then .fault s 1
    else if !v.active w 0 then .ok s
    else .ok (modVec s core fun v => { v with sums := tabSet {} v.sums (vVd w % 16) (Summary.const (v.lane (vVa w) 0)) })

/-- CVTFI. -/
def execCvtfi (issue : VecIssue) (s : State) : Host.Outcome State Fault Refusal :=
  vecRow 0x2A issue.core s fun h w s => vecIssue issue.core (regs2 w) (.float fmtF32) (fun v _ e =>
    (vFromInt (bitOf w 0) (v.lane (vVa w) e), {})) issue.res h w s

/-- CVTIF. -/
def execCvtif (issue : VecIssue) (s : State) : Host.Outcome State Fault Refusal :=
  vecRow 0x2B issue.core s fun h w s => vecIssue issue.core (regs2 w) (.int 32) (fun v cls e =>
    vToInt (bitOf w 0) cls (v.lane (vVa w) e)) issue.res h w s

/-- PACKB. A tap takes the lane as one pattern (DEDUCED, log entry 112). -/
def execPackb (issue : VecIssue) (s : State) : Host.Outcome State Fault Refusal :=
  vecRow 0x2C issue.core s fun h w s => vecIssue issue.core (regs3 w) (.pair) (fun v cls e =>
    let a := vconv fmtF32 fmtBF16 cls (v.lane (vVa w) e)
    let b := vconv fmtF32 fmtBF16 cls (v.second w e)
    (b.1 * 65536 + a.1, a.2.add b.2)) issue.res h w s

/-- UNPKB. -/
def execUnpkb (issue : VecIssue) (s : State) : Host.Outcome State Fault Refusal :=
  vecRow 0x2D issue.core s fun h w s => vecIssue issue.core (regs2 w) (.float fmtF32) (fun v cls e =>
    vconv fmtBF16 fmtF32 cls (halfOf (v.lane (vVa w) e) (bitOf w 0))) issue.res h w s

/-- CVTH. The table gives a binary16 result bits [15:0] of the lane; the others are written as 0, and a tap takes the lane as it stands
(DEDUCED, log entry 112). -/
def execCvth (issue : VecIssue) (s : State) : Host.Outcome State Fault Refusal :=
  vecRow 0x2E issue.core s fun h w s => vecIssue issue.core (regs2 w) (.float (if bitOf w 0 then fmtF32 else fmtF16)) (fun v cls e =>
    let a := v.lane (vVa w) e
    if bitOf w 0 then vconv fmtF16 fmtF32 cls (a % 65536) else vconv fmtF32 fmtF16 cls a) issue.res h w s

/-! ## Loads and stores (R150, R151) -/

def addrBase (a : Nat) : Nat := bitsOf a 20 0
def addrStride (a : Nat) : Int := sext 16 (bitsOf a 47 32)

/-- Element bytes of a load or store format. -/
def memWidth (m : Nat) : Nat := if m = 0 then 4 else if m ≤ 2 then 2 else 1

/-- The buffer offset of element e. -/
def elemOff (a e : Nat) : Int := (addrBase a : Int) + e * addrStride a

/-- The fault of an access to the offsets of its active elements, if any (R151). -/
def accessFault (s : State) (h a n : Nat) (l : List Int) : Option Nat :=
  let bad (o : Int) : Bool := o < 0 || o + n > coreBytes || (dget s (hCfg h) 9 = 1 && o + n > repeatByte)
  if l.any bad then some 2
  else if addrBase a % n != 0 || addrStride a % n != 0 then some 3
  else none

/-- The address register after an access: `base` moved on, where `autoinc` is set. -/
def advance (v : VecState) (r : Nat) (by_ : Int) : VecState :=
  let a := tabGet 0 v.a r
  if bitOf a 63 then
    { v with a := tabSet 0 v.a r (putBits a 20 0 (((addrBase a : Int) + by_) % ((2 ^ 21 : Nat) : Int)).toNat) }
  else v

/-- A loaded element widened (R148). -/
def widen (m : Nat) (cls : Cls) (c : Nat) : Nat × Ev :=
  match m with
  | 0 => (c, {})
  | 1 => vconv fmtBF16 fmtF32 cls c
  | 2 => vconv fmtF16 fmtF32 cls c
  | 3 => (wrapInt 32 (sext 8 c), {})
  | _ => (c, {})

/-- A stored element narrowed: its code, its events, and the value sent to a tap. -/
def narrow (m : Nat) (cls : Cls) (c : Nat) : Nat × Ev × Nat :=
  match m with
  | 0 => (c, {}, c)
  | 1 => let r := vconv fmtF32 fmtBF16 cls c; (r.1, r.2, r.1 * 65536)
  | 2 => let r := vconv fmtF32 fmtF16 cls c; (r.1, r.2, (vconv fmtF16 fmtF32 cls r.1).1)
  | 3 => let r := (IntFmt.mk 8 true).encode (.ofInt (sext 32 c)); (wrapInt 8 r.1, r.2, wrapInt 32 r.1)
  | _ => let r := (IntFmt.mk 8 false).encode (.ofInt (sext 32 c)); (wrapInt 8 r.1, r.2, wrapInt 32 r.1)

/-- Where a load's conversion ends, and where a narrowing store's does. -/
def loadEnd (m : Nat) : PathEnd := if m = 1 || m = 2 then .float fmtF32 else .moved
def storeEnd : Nat → PathEnd
  | 1 => .float fmtBF16
  | 2 => .float fmtF16
  | 3 | 4 => .int 8
  | _ => .moved

/-- VLD. -/
def execVld (issue : VecIssue) (s : State) : Host.Outcome State Fault Refusal :=
  let core := issue.core
  vecRow 0x32 core s fun h w s =>
    let v := getVec s core
    let r := vVa w % 8
    let a := tabGet 0 v.a r
    let n := memWidth (vMod w)
    if !v.aligned [vVd w] then .fault s 1
    else match accessFault s h a n ((v.actives w).map (elemOff a)) with
      | some c => .fault s c
      | none =>
        match vecIssue core [vVd w] (loadEnd (vMod w)) (fun _ cls e =>
            widen (vMod w) cls (readNat s (cbAddr core (elemOff a e).toNat) n)) issue.res h w s with
        | .ok s => .ok (modVec s core fun v => advance v r (v.vl * addrStride a))
        | x => x

/-- The value a tap takes of a stored code. -/
def storedValue (m : Nat) (cls : Cls) (c : Nat) : Nat :=
  match m with
  | 1 => c * 65536
  | 2 => (vconv fmtF16 fmtF32 cls c).1
  | 3 => wrapInt 32 (sext 8 c)
  | _ => c

/-- The stores of a VST: lane, code, events and what a tap takes; where the command brings errors, once its narrowing paths pass
their checks, none after a verdict against the core. -/
def narrowed (k : Nat) (res : Option VecResidue) (h w : Nat) (s : State) : State × Option (List (Nat × Nat × Ev × Nat)) :=
  let v := getVec s k
  let cls := heatCls s h
  let l := (v.actives w).map fun e => (e, narrow (vMod w) cls (v.lane (vVa w) e))
  match res with
  | none => (s, some l)
  | some r =>
    let x := vecVerdict k (fun errs => l.map fun y => (y.1, errLane (storeEnd (vMod w)) cls errs y.1 (y.2.1, y.2.2.1))) r h s
    (x.1, x.2.map fun b => b.map fun y => (y.1, y.2.1, y.2.2, storedValue (vMod w) cls y.2.1))

/-- VST. -/
def execVst (issue : VecIssue) (s : State) : Host.Outcome State Fault Refusal :=
  let core := issue.core
  vecRow 0x33 core s fun h w s =>
    let v := getVec s core
    let r := vVd w % 8
    let a := tabGet 0 v.a r
    let n := memWidth (vMod w)
    if !v.aligned [vVa w] then .fault s 1
    else match accessFault s h a n ((v.actives w).map (elemOff a)) with
      | some c => .fault s c
      | none =>
        let cls := heatCls s h
        let y := narrowed core issue.res h w s
        match y.2 with
        | none => .stall y.1
        | some l =>
        let s := l.foldl (fun s x => writeNat s (cbAddr core (elemOff a x.1).toNat) n x.2.1) y.1
        let s := noteBufWrite s core (l.map fun x => ((elemOff a x.1).toNat, n))
        let tl := l.map fun x => (x.1, x.2.2.2)
        let s := modVec s core fun v => (advance v r (v.vl * addrStride a)).tap cls w tl v.vl
        .ok (vecEvents s core h ((evSum (l.map fun x => x.2.2.1)).add (v.tapFlush cls w tl v.vl)))

/-- The fault of a 64-byte mask access. -/
def maskAccessFault (s : State) (h a : Nat) (l : List Nat) : Option Nat :=
  accessFault s h (addrBase a) 1 (l.map fun e => ((addrBase a + e / 8 : Nat) : Int))

/-- VLDM. -/
def execVldm (core : Nat) (s : State) : Host.Outcome State Fault Refusal :=
  vecRow 0x34 core s fun h w s =>
    let v := getVec s core
    let r := vVa w % 8
    let a := tabGet 0 v.a r
    match maskAccessFault s h a (v.actives w) with
    | some c => .fault s c
    | none =>
      match maskWrite core [] (fun _ _ e =>
          (bitOf (getByte s (cbAddr core (addrBase a + e / 8))).toNat (e % 8), {})) h w s with
      | .ok s => .ok (modVec s core fun v => advance v r 64)
      | x => x

/-- VSTM. -/
def execVstm (core : Nat) (s : State) : Host.Outcome State Fault Refusal :=
  vecRow 0x35 core s fun h w s =>
    let v := getVec s core
    let r := vVd w % 8
    let a := tabGet 0 v.a r
    let l := v.actives w
    match maskAccessFault s h a l with
    | some c => .fault s c
    | none =>
      let m := v.mask (vVa w % 8)
      let at_ (e : Nat) : Nat := addrBase a + e / 8
      let s := l.foldl (fun s e =>
        putByte s (cbAddr core (at_ e)) (byte (putBit (getByte s (cbAddr core (at_ e))).toNat (e % 8) (bitOf m e)))) s
      let s := noteBufWrite s core (l.map fun e => (at_ e, 1))
      let cls := heatCls s h
      .ok (modVec s core fun v =>
        (advance v r 64).tap cls w (l.map fun e => (e, bitPattern (bitOf m e))) v.vl)

/-! ## Length, summaries, generator -/

/-- SETVL (R142). -/
def execSetvl (core : Nat) (s : State) : Host.Outcome State Fault Refusal :=
  vecRow opSetvl core s fun _ w s => .ok (modVec s core fun v =>
    let g := vMod w % 4
    let n := min v.avl (64 * 2 ^ g)
    { v with grp := g, vl := n, avl := v.avl - n })

/-- RCLR (R157). -/
def execRclr (core : Nat) (s : State) : Host.Outcome State Fault Refusal :=
  vecRow 0x37 core s fun _ w s => .ok (modVec s core fun v =>
    { v with sums := tabSet {} v.sums (vVb w % 16) (Summary.clear (vVa w % 8)) })

/-- RTAP. -/
def execRtap (core : Nat) (s : State) : Host.Outcome State Fault Refusal :=
  vecRow 0x38 core s fun _ w s => .ok (modVec s core fun v =>
    { v with taps := tabSet 0 v.taps (vVd w % 8) (vVb w % 16 + 1) })

/-- RWAIT: every contribution has been applied when its instruction retired (R159). -/
def execRwait (core : Nat) (s : State) : Host.Outcome State Fault Refusal :=
  vecRow 0x39 core s fun _ _ s => .ok s

/-- Word q of the generator for element e (R166). -/
def genWord (s : State) (h : Nat) (v : VecState) (w e : Nat) : Nat :=
  nth 0 (genWords (heatSeed s h) (bitsOf v.rngKey 15 0) (bitsOf v.rngKey 31 16) ((v.rngBase + e) % 2 ^ 64) v.rngDraw) (vMod w % 4)

/-- RNG_BASE raised by `vl` where `mod`[2] asks for it. -/
def advanceRng (k w : Nat) : VecRes → VecRes
  | .ok s => .ok (modVec s k fun v => if bitOf w 2 then { v with rngBase := (v.rngBase + v.vl) % 2 ^ 64 } else v)
  | x => x

/-- VRNG. -/
def execVrng (core : Nat) (s : State) : Host.Outcome State Fault Refusal :=
  vecRow 0x3A core s fun h w s =>
    advanceRng core w (vecWrite core false [vVd w] (fun v _ e => (genWord s h v w e, {})) h w s)

/-- VRNGU. -/
def execVrngu (core : Nat) (s : State) : Host.Outcome State Fault Refusal :=
  vecRow 0x3B core s fun h w s =>
    advanceRng core w (vecWrite core false [vVd w] (fun v _ e =>
      (fmtF32.encodeIeee (.ofIntE ((genWord s h v w e / 256 : Nat) : Int) (-24)), {})) h w s)

/-- VRNGB. -/
def execVrngb (core : Nat) (s : State) : Host.Outcome State Fault Refusal :=
  vecRow 0x3C core s fun h w s =>
    advanceRng core w (maskWrite core [] (fun v _ e =>
      (decide (genWord s h v w e / 256 ≥ (v.sum (vVb w % 16)).value % 2 ^ 24), {})) h w s)

/-! ## Hand-off (R167 to R169) -/

/-- The elements a VQH sends, as codes of the stream's format, with the events of converting them (R31, R41, R43). -/
def handElems (v : VecState) (cls : Cls) (w : Nat) (f : Fmt) : List (Nat × Ev) :=
  (v.actives w).flatMap fun e =>
    let a := v.lane (vVa w) e
    if vPacked w then
      (if f = .bf16 then [(a % 65536, {}), (a / 65536, {})]
       else [vconv fmtBF16 fmtF32 cls (halfOf a false), vconv fmtBF16 fmtF32 cls (halfOf a true)])
    else if f = .bf16 then [vconv fmtF32 fmtBF16 cls a] else [(a, {})]

/-- The open stream a VQH of core k names: the one its command feeds, until its last element has arrived (R169, R270). -/
def streamFor (s : State) (k w : Nat) : Option Stream :=
  match getStream s (slotCluster k) (vVd w % 4), (getCore s k).ctl with
  | some x, some c => if x.core = k && x.tag = dTag c.desc && !x.closed && x.elems.length < x.need then some x else none
  | _, _ => none

def streamBuffer : Nat := 16384

/-- VQH; with `room` the engine has emptied the stream's buffer first. An overrun sends what fits and faults (R169). -/
def handOff (room : Bool) (k h w : Nat) (s : State) : VecRes :=
  let v := getVec s k
  if !v.aligned [vVa w] then .fault s 1
  else match streamFor s k w with
    | none => .fault s 4
    | some x =>
      let l := handElems v (heatCls s h) w x.fmt
      let fit := l.take (x.need - x.elems.length)
      let n := fit.length * (x.fmt.elemBits / 8)
      let held := if room then 0 else x.buffered
      if held + n > streamBuffer then .stall s
      else
        let s := setStream s (slotCluster k) (vVd w % 4)
          (some { x with elems := x.elems ++ fit.map (·.1), buffered := held + n })
        let s := vecEvents s k h (evSum (fit.map (·.2)))
        if fit.length < l.length then .fault s 5 else .ok s

/-- VQH; it stalls while the stream's buffer lacks room (R168). -/
def execVqh (core : Nat) (s : State) : Host.Outcome State Fault Refusal :=
  vecRow 0x3D core s (handOff false core)

/-- Whether the running instruction of a core is a VQH that waits for room. -/
def handStalled (core h w : Nat) (s : State) : Bool :=
  match handOff false core h w s with
  | .stall _ => true
  | _ => false

/-- HANDOFF_ROOM: the engine has taken what the stream's buffer held, and the stalled VQH issues. -/
def execHandoffRoom (core : Nat) (s : State) : Host.Outcome State Fault Refusal :=
  if (getVec s core).vl = 0 then .next s
  else vecRow 0x3D core s fun h w s => if handStalled core h w s then handOff true core h w s else .stall s

/-- FENCE: earlier stores and hand-offs have been accepted when their instructions issued. -/
def execFence (core : Nat) (s : State) : Host.Outcome State Fault Refusal :=
  vecRow 0x3E core s fun _ _ s => .ok s

/-- END: the block is over (R136). -/
def execVend (core : Nat) (s : State) : Host.Outcome State Fault Refusal :=
  match (getVec s core).pc with
  | some pc =>
    if tabGet 0 (getCore s core).prog pc = vEnd && !(getVec s core).condemned then .next (modVec s core fun v => { v with pc := none }) else .next s
  | none => .next s

/-! ## Blocks and command programs (R162, R171, R272, R273) -/

/-- The command program of a core that still runs: started and its completion not stored. -/
def program (s : State) (k : Nat) : Option CtlRun :=
  match (getCore s k).ctl with
  | some c => if c.stored.isNone then some c else none
  | none => none

/-- VRUN: a block queued; with four waiting the store stalls. -/
def execVrun (core : Nat) (value : W32) (s : State) : Host.Outcome State Fault Refusal :=
  let v := getVec s core
  if (program s core).isNone || v.fault.isSome || v.blocks.length ≥ 4 then .next s
  else .next (modVec s core fun v =>
    { v with blocks := v.blocks ++ [value.toNat % 2 ^ 14], busy := true, blockDone := false })

/-- VECTOR_BLOCK_START: the block at the head of the queue (R162, R163). -/
def execVectorBlockStart (core : Nat) (s : State) : Host.Outcome State Fault Refusal :=
  let v := getVec s core
  match v.pc, v.blocks with
  | none, b :: l =>
    if b ≥ (getCore s core).progLen then .next (vecFault s core 6 b)
    else .next (modVec s core fun v => { v with pc := some b, blocks := l })
  | _, _ => .next s

/-- The streams a command feeds, closed: no element comes any more (R169). -/
def closeStreams (s : State) (k tag : Nat) : State :=
  modCluster s (slotCluster k) fun c => { c with
    streams := c.streams.map fun x => match x with
      | some y => if y.core = k && y.tag = tag then some { y with closed := true } else some y
      | none => none }

/-- A VEC_RUN completed with a status and its words. -/
def endProgram (s : State) (k : Nat) (c : CtlRun) (st a b : Nat) : State :=
  let s := closeStreams s k (dTag c.desc)
  let s := modCore s k fun x => { x with ctl := none }
  finish s c.queue c.index st a b

/-- The event word of a VEC_RUN (R259). -/
def vecWord (v : VecState) : Nat := satNat 16 v.evSat * 2 ^ 48 + satNat 16 v.evNanb * 2 ^ 32 + satNat 16 v.evFlush * 2 ^ 16

/-- A stored completion takes effect once the engine is idle (R273). -/
def settleProgram (s : State) (k : Nat) : State :=
  match (getCore s k).ctl with
  | some c =>
    let v := getVec s k
    if v.busy || v.fault.isSome then s
    else match c.stored with
      | some (st, ret) => endProgram s k c st ret (vecWord v)
      | none => s
  | none => s

/-- A program fault: the core monitor completes the command and resets the vector engine (R139, R171). -/
def faultProgram (s : State) (k : Nat) (c : CtlRun) (cause i : Nat) : State :=
  modVec (endProgram s k c stProgramFault cause i) k fun _ => {}

/-- The program counter of a command program once instructions of its own have run: they are no rows of the table, so where it
stands is a free value, an even offset of instruction SRAM (R161, log entry 11). -/
def ranOn (s : State) (k : Nat) (c : CtlRun) : CtlRun × State :=
  let x := takeFree s 15
  let c := { c with pc := 2 * x.1 }
  (c, modCore x.2 k fun y => { y with ctl := some c })

/-- A fault of the control core's program, with its program counter (R171). -/
def faultAtPc (s : State) (k : Nat) (c : CtlRun) (cause : Nat) : State :=
  let r := ranOn s k c
  faultProgram r.2 k r.1 cause r.1.pc

/-- BLOCK_DONE: busy clears and the interrupt is raised (R162). -/
def execBlockDone (core : Nat) (s : State) : Host.Outcome State Fault Refusal :=
  let v := getVec s core
  if !v.busy || v.pc.isSome || !v.blocks.isEmpty then .next s
  else .next (settleProgram (modVec s core fun v => { v with busy := false, blockDone := true }) core)

/-- VEC_RUN: the command program starts at its entry point; or the monitor ends it after a vector fault (R171, R272). -/
def vecRunStep (s : State) (k q : Nat) (f : Flight) : State :=
  let s := modFlight s q f.index fun f => { f with acted := true }
  let s := modVec s k fun v => { v with evSat := 0, evNanb := 0, evFlush := 0 }
  modCore s k fun c => { c with
    ctl := some { queue := q, index := f.index, desc := f.desc, pc := 2 * fld f.desc 255 241, laps := 0, stored := none } }

def execVecRun (q : Nat) (s : State) : Host.Outcome State Fault Refusal :=
  let k := (getQueue s q).slot
  match (getCore s k).ctl, (getVec s k).fault with
  | some c, some (cause, i) => if c.queue = q then .next (faultProgram s k c cause i) else .next s
  | some _, none => .next s
  | none, _ => withRunning q opVec s fun _ f => vecRunStep s k q f

/-- The statuses a command program may store (R273). -/
def programStatus (st : Nat) : Bool := st = 0 || (0x0280 ≤ st && st ≤ 0x028F)

/-- COMPLETION_REGISTER: the program's store that ends it. -/
def execCompletionRegister (core : Nat) (value : W64) (s : State) : Host.Outcome State Fault Refusal :=
  match program s core with
  | none => .next s
  | some c =>
    let st := fld value 63 48
    if programStatus st then
      .next (settleProgram (modCore s core fun x =>
        { x with ctl := some { c with stored := some (st, fld value 31 0) } }) core)
    else .next (faultAtPc s core c 8)

/-- Blocks queued or running, whose contributions a load or a store of a summary waits for (R159). -/
def VecState.contributes (v : VecState) : Bool := v.pc.isSome || !v.blocks.isEmpty

/-- SUMMARY_VALUE_STORE: a CONST register (R160), once the contributions of earlier instructions have been applied. -/
def execSummaryValueStore (core reg : Nat) (value : W32) (s : State) : Host.Outcome State Fault Refusal :=
  if (program s core).isNone || reg ≥ 16 || (getVec s core).contributes then .next s
  else .next (modVec s core fun v => { v with sums := tabSet {} v.sums reg (Summary.const value.toNat) })

/-! ## The control core's address map (R161) -/

/-- A user-mode access of a command program: where it lies. -/
inductive CtlPlace where
  | data (off : Nat)
  | engine (off : Nat)
  | summary (reg off : Nat)
  | desc (off : Nat)
  | completion
  | time (off : Nat)
  | buffer (off : Nat)
deriving DecidableEq, Repr

/-- Where `n` bytes at an address lie; none where the map has nothing for user-mode loads and stores, or the access is not naturally
aligned (DESIGN CHOICE, log entry 114: the map speaks of no such access). -/
def ctlPlace (a n : Nat) : Option CtlPlace :=
  let in_ (lo len : Nat) : Bool := lo ≤ a && a + n ≤ lo + len
  if !(n = 1 || n = 2 || n = 4 || n = 8) || a % n != 0 then none
  else if in_ 0x10000 0x10000 then some (.data (a - 0x10000))
  else if in_ 0x200000 0x100 then some (.engine (a - 0x200000))
  else if in_ 0x201000 0x100 then some (.summary ((a - 0x201000) / 16) ((a - 0x201000) % 16))
  else if in_ 0x202000 64 then some (.desc (a - 0x202000))
  else if a = 0x202040 && n = 8 then some .completion
  else if in_ 0x203000 16 then some (.time (a - 0x203000))
  else if in_ 0x400000 coreBytes then some (.buffer (a - 0x400000))
  else none

/-- VSTAT (R161, R170). -/
def VecState.stat (v : VecState) : Nat :=
  b2n v.busy * 2 ^ 31 + v.blocks.length % 8 * 2 ^ 28 +
    match v.fault with
    | some (c, i) => 2 ^ 27 + c % 8 * 2 ^ 24 + i % 2 ^ 14
    | none => 0

/-- The engine's 64-bit registers by number; the write-only VRUN and numbers without a register read 0 (DESIGN CHOICE, log entry 114). -/
def VecState.reg (v : VecState) : Nat → Nat
  | 1 => v.stat
  | 2 => v.avl
  | 3 => v.grp * 2 ^ 10 + v.vl
  | 4 => v.rngBase
  | 5 => v.rngKey
  | 6 => v.rngDraw
  | n => if 8 ≤ n && n < 16 then tabGet 0 v.a (n - 8) else 0

/-- A register written; VSTAT and VLEN are read-only, and numbers without a register take nothing. -/
def VecState.setReg (v : VecState) (n x : Nat) : VecState :=
  if n = 2 then { v with avl := x % 2 ^ 32 }
  else if n = 4 then { v with rngBase := x % 2 ^ 64 }
  else if n = 5 then { v with rngKey := x % 2 ^ 32 }
  else if n = 6 then { v with rngDraw := x % 2 ^ 32 }
  else if 8 ≤ n && n < 16 then { v with a := tabSet 0 v.a (n - 8) (x % 2 ^ 64) }
  else v

/-- A summary register as the control core reads it, 128 bits. -/
def Summary.word (x : Summary) : Nat :=
  x.op * 2 ^ 101 + b2n x.full * 2 ^ 100 + b2n (x.win.loss != 0) * 2 ^ 99 + b2n x.inf * 2 ^ 98 + b2n x.nan * 2 ^ 97 +
    b2n x.empty * 2 ^ 96 + x.nElem % 2 ^ 32 * 2 ^ 64 + x.index % 2 ^ 32 * 2 ^ 32 + x.value % 2 ^ 32

/-- The bytes of a number that an access touches. -/
def bytesIn (v off n : Nat) : Nat := v / 2 ^ (8 * off) % 2 ^ (8 * n)
/-- A number with the bytes of an access replaced. -/
def putBytesIn (v off n x : Nat) : Nat := putBits v (8 * (off + n) - 1) (8 * off) x

/-- An access of the core buffer outside what R151 allows. -/
def ctlBufferBad (s : State) (k off n : Nat) : Bool :=
  match clusterHeat s (slotCluster k) with
  | some h => dget s (hCfg h) 9 = 1 && off + n > repeatByte
  | none => true

/-- A user-mode exception ends the running command (R161, R171). -/
def ctlException (s : State) (k : Nat) (c : CtlRun) : State := faultAtPc s k c 7

/-- A store of a command program. A store to VRUN queues a block, and waits while four do. A store narrower than a summary's `value`
or than the completion register is an access outside the map (DESIGN CHOICE, log entry 114). -/
def ctlStore (k a n x : Nat) (s : State) : Host.Outcome State Fault Refusal :=
  match program s k with
  | none => .next s
  | some c => match ctlPlace a n with
    | some (.data o) =>
      .next (modCore s k fun y => { y with
        dsram := ((List.range n).zip (bytesOf n x)).foldl (fun t z => tabSet 0#8 t (o + z.1) z.2) y.dsram })
    | some (.engine o) =>
      if o = 0 then execVrun k (BitVec.ofNat 32 x) s
      else .next (modVec s k fun v => v.setReg (o / 8) (putBytesIn (v.reg (o / 8)) (o % 8) n x))
    | some (.summary r 0) => if n = 4 then execSummaryValueStore k r (BitVec.ofNat 32 x) s else .next (ctlException s k c)
    | some .completion => execCompletionRegister k (BitVec.ofNat 64 x) s
    | some (.buffer o) =>
      if ctlBufferBad s k o n then .next (ctlException s k c)
      else .next (noteBufWrite (writeNat s (cbAddr k o) n x) k [(o, n)])
    | _ => .next (ctlException s k c)

/-- What a load of a command program reads; none where the map gives it nothing to read. -/
def ctlRead (s : State) (k : Nat) (c : CtlRun) (a n : Nat) : Option Nat :=
  match ctlPlace a n with
  | some (.data o) => some (natOfBytes ((List.range n).map fun i => tabGet 0#8 (getCore s k).dsram (o + i)))
  | some (.engine o) => some (bytesIn ((getVec s k).reg (o / 8)) (o % 8) n)
  | some (.summary r o) => some (bytesIn ((getVec s k).sum r).word o n)
  | some (.desc o) => some (bytesIn c.desc.toNat o n)
  | some (.time o) => some (bytesIn (s.phase % 2 ^ 32 * 2 ^ 64 + s.lap % 2 ^ 48) o n)
  | some (.buffer o) => if ctlBufferBad s k o n then none else some (readNat s (cbAddr k o) n)
  | _ => none

/-- A load of a summary register while blocks are queued or running (R159). -/
def summaryWaits (s : State) (k a n : Nat) : Bool :=
  match ctlPlace a n with
  | some (.summary _ _) => (getVec s k).contributes
  | _ => false

/-- A load of a command program; the value is kept as what the program read last. One of a summary waits as R159 says. -/
def ctlLoad (k a n : Nat) (s : State) : State :=
  match program s k with
  | none => s
  | some c => if summaryWaits s k a n then s else match ctlRead s k c a n with
    | some v => modCore s k fun y => { y with loaded := v }
    | none => ctlException s k c

end Sys2Proof.Machine
end

