-- ==== Sys2Proof/Machine/Margins.lean ====
section
/-! DEFINITION. The rotating spare, in-field tests and the margin plan (R440, R441, R462 to R467, R501 to R507). -/

namespace Sys2Proof.Machine

/-! ## Slots and quadrants -/

def slotTrim (s : State) (p : Nat) : Nat := domNum s 0x2800 4 2 p
def setTrim (s : State) (p v : Nat) : State := domPut s 0x2800 4 1152 2 p v

/-- Slots that are not retired. -/
def usableSlots (s : State) (c : Nat) : List Nat := (clusterSlots c).filter fun p => slotState s p != slotRetired

/-- Slots that hold a core. -/
def activeSlots (s : State) (c : Nat) : List Nat :=
  (clusterSlots c).filter fun p => slotState s p = slotActive || slotState s p = slotPending

/-- The logical core that an active slot holds. -/
def coreOfSlot (s : State) (p : Nat) : Nat := p / 9 * 9 + slotCore s p

def slotEvent (s : State) (p code cls cause : Nat) (h : Option Nat) : State :=
  raise s { code := code, cls := cls, cause := cause, heat := h, unit := p, unitKind := 1
            detail := bytesOf 2 (slotTrim s p) ++ bytesOf 2 (latestVmin s p) ++ bytesOf 1 (slotBin s p) }

/-- A cluster out of service until the next boot (R411). -/
def clusterOut (s : State) (c : Nat) : State :=
  bootEvent (dset s 0x2C00 5 (putBit (dget s 0x2C00 5) c true)) 0x0603 (physCluster s c) 6

/-! ## Sweeps and trims (R502, R505, R507) -/

def minTrim : Nat := 650
def maxTrim : Nat := 780

/-- A voltage held to the trim's range (R501). -/
def holdTrim (v : Nat) : Nat := max minTrim (min maxTrim v)

/-- A sweep kept, in the history as well (R502): its Vmin is a step of the trim. -/
def addSweep (s : State) (p : Nat) (w : Sweep) : State :=
  let v := holdTrim (ceilDiv w.vmin 5 * 5)
  let r : SweepRec := { hour := poweredHour s, bin := w.bin, vmin := v, ring := w.ring }
  let s := { s with sweeps := tabSet [] s.sweeps p ((r :: slotSweeps s p).take 16) }
  let s := histAdd s histSweep [p, w.bin, v, w.ring]
  domPut s 0x2800 6 1152 2 p 0

/-- The smallest step at or above a voltage in 0.1 mV. -/
def trimOf (v10 : Nat) : Nat := max minTrim (ceilDiv v10 50 * 5)

/-- The powered hour of the latest start. -/
def startHour (s : State) : Nat := (s.poweredBase + s.startedAt / 10000000) / 3600000

/-- A slot's Vmin in 0.1 mV at a bin, for the plan: its latest sweep there, plus 2 mV for each 0.1 % of slowdown that its ring
oscillators show (0x2800:06) where the sweep is older than the last pass or the boot. At a bin never swept, Vmin is a step of the trim
that the spec does not state (DESIGN CHOICE, log entry 119). -/
def planVmin (s : State) (p bin : Nat) : State × Nat :=
  match (slotSweeps s p).find? (·.bin = bin) with
  | none => let r := takeFree s 16; (r.2, 10 * (minTrim + 5 * (r.1 % 27)))
  | some w =>
    (s, 10 * w.vmin +
      (if w.hour < domNum s 0x2900 7 4 p || w.hour < startHour s then 2 * (sext 16 (domNum s 0x2800 6 2 p)).toNat else 0))

/-- The plan trim of a slot at a bin. -/
def planTrim (s : State) (p bin : Nat) : State × Nat :=
  let r := planVmin s p bin
  (r.1, trimOf (r.2 + 10 * dget s 0x2800 1))

/-- Powered hours until a slot's plan trim passes 0.780 V: the line through the oldest and the newest of its last sweeps at the
quadrant's bin. -/
def slotLife (s : State) (p : Nat) : Nat :=
  let l := (slotSweeps s p).filter (·.bin = slotBin s p)
  match l, l.getLast? with
  | a :: _ :: _, some z =>
    if a.vmin ≤ z.vmin || a.hour ≤ z.hour then 2 ^ 32 - 1
    else
      let left := maxTrim - dget s 0x2800 1 - a.vmin
      min (2 ^ 32 - 1) (divEven (left * (a.hour - z.hour)) (a.vmin - z.vmin) - (poweredHour s - a.hour))
  | _, _ => 2 ^ 32 - 1

/-- The second-smallest of a list. -/
def secondSmallest (l : List Nat) : Nat :=
  let m := l.foldl min (2 ^ 32 - 1)
  (dropFirst (· == m) l).foldl min (2 ^ 32 - 1)

/-- 0x2800:07 and :08 brought up to date. -/
def updateLife (s : State) : State :=
  let s := domSet s 0x2800 7 ((List.range 576).flatMap fun p => bytesOf 4 (slotLife s p))
  dset s 0x2800 8 (((rangeWhere 64 (clusterActive s)).map fun c => secondSmallest ((usableSlots s c).map (slotLife s))).foldl min (2 ^ 32 - 1))

/-! ## Moves and retirement (R440, R441, R463) -/

/-- A core, with its slot retired, that no spare can take: its cluster goes out of service and its heat restarts (R505). -/
def retireAndLose (s : State) (p cause : Nat) : State :=
  let h := clusterHeat s (p / 9)
  let s := slotEvent (setTrim (retireSlot s p cause) p 0) p 0x0102 2 1 h
  clusterOut s (p / 9)

/-- The spare of a cluster that can take a core now. -/
def readySpare (s : State) (c : Nat) : Option Nat :=
  match spareOf s c with
  | some p => if slotState s p = slotSpareReady && spareFree (getCluster s c) then some p else none
  | none => none

/-- A quadrant one bin down (R506). -/
def stepDown (s : State) (q : Nat) : State :=
  raise (domPut s 0x2800 3 4 1 q (quadrantBin s q + 1))
    { code := 0x0503, cls := 0, unit := q, unitKind := 9, detail := bytesOf 1 (quadrantBin s q + 1) }

/-- What becomes of a short slot (R505): true where its quadrant stepped down and the plan is made again. -/
def handleShort (s : State) (p : Nat) : State × Bool :=
  let c := p / 9
  let q := quadrantOf s c
  if (readySpare s c).isSome then
    (modCluster s c fun x => { x with movePending := some p, moveCause := causeShort, calledLap := some s.lapStarts }, false)
  else if quadrantBin s q < 5 then (stepDown s q, true)
  else (retireAndLose s p causeShort, false)

/-- The clusters of a quadrant that are in service. -/
def quadrantClusters (s : State) (q : Nat) : List Nat := (rangeWhere 64 (clusterActive s)).filter fun c => quadrantOf s c = q

/-- The trims of a quadrant's active slots planned at its bin, short ones handled; true where it stepped down on the way. -/
def planSlots (s : State) (q : Nat) : List Nat → State × Bool
  | [] => (s, false)
  | p :: l =>
    let r := planTrim s p (quadrantBin s q)
    if r.2 ≤ maxTrim then planSlots (setTrim r.1 p r.2) q l
    else
      let x := handleShort r.1 p
      if x.2 then x else planSlots x.1 q l

/-- The plan of a quadrant in service, made again at each bin it steps down to (R505). -/
def replanQuadrant : Nat → State → Nat → State
  | 0, s, _ => s
  | n + 1, s, q =>
    let r := planSlots s q ((quadrantClusters s q).flatMap (activeSlots s))
    if r.2 then replanQuadrant n r.1 q else r.1

/-- MONITOR_FLAG: the trim rises at the next lap start (R504). -/
def execMonitorFlag (slot : Nat) (s : State) : Host.Outcome State Fault Refusal :=
  if slotState s slot != slotActive && slotState s slot != slotPending then .next s
  else .next { s with trimRaise := if s.trimRaise.contains slot then s.trimRaise else s.trimRaise ++ [slot] }

/-- One trim raised at a lap start; a slot that has no step left is short. -/
def raiseTrim (s : State) (p : Nat) : State :=
  let v := slotTrim s p + 5
  if v ≤ maxTrim then slotEvent (setTrim s p v) p 0x0502 0 0 none
  else
    let r := handleShort s p
    if r.2 then replanQuadrant 6 r.1 (quadrantOf s (p / 9)) else r.1

def raiseTrims (s : State) : State := s.trimRaise.foldl raiseTrim { s with trimRaise := [] }

/-! ## Rotation and moves (R462, R463) -/

/-- Rotation interval I, in laps: a ninth of the test period, in ticks of 6.4 ns. -/
def rotationInterval (s : State) : Nat := max 1 (ceilDiv (dget s 0x2900 1 * 62500000000) (lapLen s))

/-- A cluster's interval computed anew. -/
def setInterval (s : State) (c : Nat) : State := modCluster s c fun x => { x with interval := rotationInterval s }

/-- The next usable physical slot after the spare, in cyclic order. -/
def slotAfter (s : State) (p : Nat) : Option Nat :=
  ((List.range 8).map fun i => p / 9 * 9 + (p % 9 + 1 + i) % 9).find? fun x =>
    slotState s x = slotActive || slotState s x = slotPending

/-- SPARE_ROTATION: held in pace loss; behind the commands and snapshots of its tick (R297). -/
def execSpareRotation (cluster : Nat) (s : State) : Host.Outcome State Fault Refusal :=
  let x := getCluster s cluster
  if dget s 0x2900 4 != 1 || !clusterActive s cluster || !linksUp s || s.phase != 0 || !(rotationLap s cluster s.lap || x.rotHeld) then
    .next s
  else if eventsHeld s then .next (modCluster s cluster fun x => { x with rotHeld := true })
  else if heatEventsDue s || x.rotated = some s.lapStarts then .next s
  else
    let s := modCluster s cluster fun x => { x with rotHeld := false, rotated := some s.lapStarts }
    match readySpare s cluster with
    | none => .next s
    | some p => match slotAfter s p with
      | none => .next s
      | some o =>
        .next (modCluster (setInterval s cluster) cluster fun x => { x with movePending := some o, moveCause := 0, calledLap := none })

/-- Nothing of the core is in flight in its array or its vector engine (R463). -/
def coreQuiet (s : State) (k : Nat) : Bool :=
  !arrayBusy s k && (getCore s k).vec.pc.isNone && (getCore s k).vec.blocks.isEmpty && !(getCore s k).vec.busy

/-- The number under which the sequencer knows a cluster's spare. -/
def spareUnit (c : Nat) : Nat := 9 * c + 8

/-- Counts of rotations, tests passed, tests failed (R471). -/
def countTest (s : State) (n : Nat) : State :=
  domPut s 0x2D60 9 12 4 n (min (2 ^ 32 - 1) (domNum s 0x2D60 9 4 n + 1))

/-- A core moved from a slot to the spare: the slot becomes the spare under test, or is retired (R441, R462). -/
def moveCore (s : State) (c o p : Nat) : State :=
  let x := getCluster s c
  let core := slotCore s o
  let r := planTrim (setSlot s p slotActive core) p (slotBin s p)
  let s := setTrim (setTrim r.1 o 0) p (min r.2 maxTrim)
  let s := modCluster s c fun x => { x with movePending := none, moveCause := 0 }
  if x.moveCause = 0 then countTest (setSlot s o slotSpareTesting 0xF) 0
  else slotEvent (retireSlot s o x.moveCause) o 0x0106 1 0 (clusterHeat s c)

/-- What was called for in this local lap waits for the next lap start (R440, R441, R505). -/
def lapAwaited (s : State) (c : Nat) : Bool := (getCluster s c).calledLap = some s.lapStarts

/-- A pending move without a spare to move to: a slot that reached its count waits for the next boot instead (R441). -/
def dropMove (s : State) (c : Nat) : State :=
  let x := getCluster s c
  let s := modCluster s c fun x => { x with movePending := none, moveCause := 0 }
  match x.movePending with
  | some o => if x.moveCause = causeCount && slotState s o = slotActive then markForBoot s o else s
  | none => s

/-- SPARE_MOVE: once the core is quiet and the spare is awake (R417, R463); held in pace loss (R293), and behind a takeover. A
rotation is dropped where rotations have been stopped since (R469). -/
def execSpareMove (cluster : Nat) (s : State) : Host.Outcome State Fault Refusal :=
  match (getCluster s cluster).movePending, spareOf s cluster with
  | some o, some p =>
    if (getCluster s cluster).moveCause = 0 && dget s 0x2900 4 != 1 then .next (dropMove s cluster)
    else if eventsHeld s || lapAwaited s cluster || (getCluster s cluster).takeover.isSome || slotState s p != slotSpareReady ||
        !coreQuiet s (coreOfSlot s o) then .next s
    else if !coreAwake s (spareUnit cluster) then .next (requestWake s (.core (spareUnit cluster) true))
    else .next (moveCore s cluster o p)
  | some _, none => .next (dropMove s cluster)
  | none, _ => .next s

/-! ## A core whose state is lost (R440, R466) -/

/-- n bytes at a whose values the spec leaves undefined. -/
def scrambleBytes (s : State) (a n : Nat) : State :=
  let b := freeBytes s n
  { b.2 with
    mem := (s.mem.filter fun x => x.1 < a) ++
      (((List.range n).zip b.1).filterMap fun x => if x.2 = 0#8 then none else some (a + x.1, x.2)) ++
      s.mem.filter fun x => a + n ≤ x.1
    blank := clearBlank s.blank a n }

/-- n undefined numbers of w bits, by index. -/
def freeTab (s : State) (n w : Nat) : Tab Nat :=
  ((List.range n).map fun i => (i, Config.free (s.freeCtr + i) % 2 ^ w)).filter fun x => x.2 != 0

/-- Summary registers with undefined values. -/
def freeSums (s : State) : Tab Summary :=
  (List.range 16).foldl (fun t i =>
    let f (j w : Nat) : Nat := Config.free (s.freeCtr + 16 * i + j) % 2 ^ w
    tabSet {} t i
      { op := f 0 3 % 7, full := f 1 1 = 1, inf := f 2 1 = 1, nan := f 3 1 = 1, empty := f 4 1 = 1, nElem := f 5 32
        index := f 6 32, value := f 7 32, win := { acc := sext 96 (f 8 96), anchor := some (sext 10 (f 9 10)), loss := f 10 1 }
        posInf := f 11 1 = 1, negInf := f 12 1 = 1 }) []

/-- The vector state undefined. -/
def scrambleVec (s : State) : VecState × State :=
  let f (j w : Nat) : Nat := Config.free (s.freeCtr + j) % 2 ^ w
  let at_ (n : Nat) : State := { s with freeCtr := s.freeCtr + n }
  ({ vl := f 0 10 % 513, grp := f 1 2, avl := f 2 32, rngBase := f 3 64, rngKey := f 4 32, rngDraw := f 5 32
     v := freeTab (at_ 8) 2048 32, m := freeTab (at_ 2056) 8 512, a := freeTab (at_ 2064) 8 64
     taps := freeTab (at_ 2072) 8 4, sums := freeSums (at_ 2080) }, at_ 2400)

/-- Bytes of a control core's SRAM, undefined. -/
def scrambleSram (s : State) (n : Nat) : Tab Byte × State :=
  (((List.range n).map fun i => (i, byte (Config.free (s.freeCtr + i)))).filter fun x => x.2 != 0#8, { s with freeCtr := s.freeCtr + n })

def sramBytes : Nat := 65536

/-- A core after its test in a window, or in the slot of a spare: its buffer, vector state and SRAMs are undefined, and
nothing of its earlier fills is remembered. -/
def scrambleCore (s : State) (k : Nat) : State :=
  let s := scrambleBytes s (cbAddr k 0) coreBytes
  let v := scrambleVec s
  let i := scrambleSram v.2 sramBytes
  let d := scrambleSram i.2 sramBytes
  modCore d.2 k fun c => { c with log := [], waiting := [], prev := none, vec := v.1, isram := i.1, dsram := d.1 }

/-! ## Takeover (R440) -/

/-- SPARE_TAKEOVER: the spare takes the retired slot's core; without one the cluster is out of service. -/
def execSpareTakeover (cluster : Nat) (s : State) : Host.Outcome State Fault Refusal :=
  match (getCluster s cluster).takeover with
  | none => .next s
  | some o => if lapAwaited s cluster then .next s else
    let s := modCluster (dropMove s cluster) cluster fun x => { x with takeover := x.lost.head?, lost := x.lost.tail }
    let core := slotCore s o
    match spareOf s cluster with
    | some p =>
      let s := setTrim (setSlot (setSlot s o slotRetired 0xF) p slotActive core) o 0
      let r := planTrim s p (slotBin s p)
      .next (scrambleCore (setTrim r.1 p (min r.2 maxTrim)) (cluster * 9 + core))
    | none => .next (clusterOut (setSlot s o slotRetired 0xF) cluster)

/-! ## Tests (R464 to R467) -/

/-- A test passed or failed, logged and counted (R442, R471). -/
def testOutcome (s : State) (p : Nat) (pass : Bool) : State :=
  let s := slotEvent s p (if pass then 0x0107 else 0x0108) 0 0 none
  countTest s (if pass then 1 else 2)

/-- The powered hour of a pass. -/
def notePass (s : State) (p : Nat) : State := domPut s 0x2900 7 2304 4 p (poweredHour s)

/-- SPARE_TEST_COMPLETE (R465, R502): no test of a spare runs, or ends, while 0x2900:04 stops them (R469). -/
def execSpareTestComplete (cluster : Nat) (pass : Bool) (sweep : Sweep) (s : State) : Host.Outcome State Fault Refusal :=
  match spareOf s cluster with
  | none => .next s
  | some p =>
    if slotState s p != slotSpareTesting || dget s 0x2900 4 != 1 then .next s
    else
      let s := testOutcome (addSweep s p { sweep with bin := slotBin s p }) p pass
      if pass then .next (updateLife (notePass (setSlot s p slotSpareReady 0xF) p))
      else .next (updateLife (slotEvent (retireSlot s p causeTest) p 0x0106 0 0 none))

/-- A slot's test is due, by so many hours more (R467). -/
def testDue (s : State) (p more : Nat) : Bool := domNum s 0x2900 7 4 p + dget s 0x2900 1 + more ≤ poweredHour s

/-- Five seconds, in ticks. -/
def testTicks : Nat := 781250000

/-- A window that has begun and leaves time for one more test. -/
def windowOpen (s : State) (c : Nat) : Bool :=
  (getCluster s c).windows.any fun w =>
    w.begun && s.lap < w.lap + w.laps && testTicks + s.phase ≤ (w.lap + w.laps - s.lap) * lapLen s

/-- The next due core of a window put under test: ascending slot order, one at a time, once it is quiet (R466); none in pace loss (R293). -/
def beginTest (s : State) (c : Nat) : State :=
  if eventsHeld s || (getCluster s c).underTest.isSome || (spareOf s c).isSome || !windowOpen s c then s
  else match (activeSlots s c).find? fun p => testDue s p 0 with
    | none => s
    | some p =>
      let k := coreOfSlot s p
      if coreQuiet s k && !controlBusy s k then modCluster s c fun x => { x with underTest := some k } else s

/-- Slots whose test is overdue no more may be reported again; a cluster of which none is overdue leaves 0x2900:09. -/
def clearOverdue (s : State) (c : Nat) : State :=
  let l := (activeSlots s c).filter fun p => testDue s p (dget s 0x2900 5)
  let s := modCluster s c fun x => { x with overdue := x.overdue.filter l.contains }
  if l.isEmpty then dset s 0x2900 9 (putBit (dget s 0x2900 9) c false) else s

/-- WINDOW_TEST_COMPLETE: the core's outcome and sweep; what it held is undefined; the next due core is tested. -/
def execWindowTestComplete (cluster : Nat) (pass : Bool) (sweep : Sweep) (s : State) : Host.Outcome State Fault Refusal :=
  match (getCluster s cluster).underTest with
  | none => .next s
  | some k =>
    let p := physSlot s k
    let s := modCluster s cluster fun x => { x with underTest := none }
    let s := scrambleCore (testOutcome (addSweep s p { sweep with bin := slotBin s p }) p pass) k
    if pass then .next (beginTest (clearOverdue (updateLife (notePass s p)) cluster) cluster)
    else .next (updateLife (retireAndLose s p causeTest))

/-- TEST_OVERDUE: a due test of a cluster without a spare, for longer than the limit and with no window granted: each slot's once. -/
def execTestOverdue (cluster : Nat) (s : State) : Host.Outcome State Fault Refusal :=
  let x := getCluster s cluster
  let due := (activeSlots s cluster).find? fun p => testDue s p (dget s 0x2900 5 + 1) && !x.overdue.contains p
  if (spareOf s cluster).isSome || !clusterActive s cluster || !x.windows.isEmpty then .next s
  else match due with
    | none => .next s
    | some p =>
      let s := modCluster s cluster fun x => { x with overdue := p :: x.overdue }
      .next (slotEvent (dset s 0x2900 9 (putBit (dget s 0x2900 9) cluster true)) p 0x0109 0 0 none)

/-! ## The order of a tick's events (R297) -/

/-- A TEST_WINDOW whose end has come completes; one whose first lap has come begins (R466). -/
def lapWindows (s : State) (c : Nat) : State :=
  let l := (getCluster s c).windows
  let excess := l.filter fun w => w.lap + w.laps ≤ s.lap
  let s := modCluster s c fun x => { x with
    windows := (l.filter fun w => s.lap < w.lap + w.laps).map fun w => { w with begun := w.begun || w.lap ≤ s.lap } }
  beginTest (excess.foldl (fun s w => finish s w.queue w.index stSuccess 0 0) s) c

/-- The windows that end or begin at a local lap start, after that tick's commands, snapshots and rotations; held in pace loss. -/
def openWindows (s : State) : State :=
  if s.phase = 0 && !eventsHeld s then (s.clusters.map (·.1)).foldl lapWindows s else s

/-- A rotation due at this lap start that has not been called for yet. -/
def rotationDue (s : State) (c : Nat) : Bool :=
  dget s 0x2900 4 = 1 && clusterActive s c && s.phase = 0 &&
    ((getCluster s c).rotHeld || rotationLap s c s.lap) && (getCluster s c).rotated != some s.lapStarts &&
    (match readySpare s c with | some p => (slotAfter s p).isSome | none => false)

def anyRotationDue (s : State) : Bool := (List.range 64).any (rotationDue s)

/-- A margin check is due. -/
def planDue (s : State) : Bool := s.planHour < poweredHour s / 500

/-- MARGIN_PLAN_CHECK: at the first local lap start after every 500 powered hours, behind that tick's commands, snapshots,
rotations and test windows (R297, R505). -/
def execMarginPlanCheck (s : State) : Host.Outcome State Fault Refusal :=
  if !linksUp s || eventsHeld s || s.phase != 0 || !planDue s || heatEventsDue s || anyRotationDue s then .next s
  else
    let s := openWindows s
    let s := (List.range 4).foldl (replanQuadrant 6) { s with planHour := poweredHour s / 500 }
    .next (updateLife (histAdd s histPlan ((List.range 4).map (quadrantBin s))))

/-- What comes before the lap limit of a program at this tick. -/
def beforeLimit (s : State) : Bool := s.phase = 0 && !eventsHeld s && (heatEventsDue s || anyRotationDue s || planDue s)

/-- LAP_LIMIT: a command program still running after `lap_limit` local lap starts, behind that tick's other events (R273, R297). -/
def execLapLimit (core : Nat) (s : State) : Host.Outcome State Fault Refusal :=
  match program s core with
  | some c => if limitReached c && !beforeLimit s then .next (faultAtPc (openWindows s) core c 9) else .next s
  | none => .next s

end Sys2Proof.Machine
end

