-- ==== Sys2Proof/Machine/Pace.lean ====
section
/-! DEFINITION. Pace: device time, lap beacons, link delays, holdover and the PACE_IN pair (R276 to R299). -/

namespace Sys2Proof.Machine

/-! ## States (R288) -/

def psLoss : Nat := 0
def psLocked : Nat := 1
def psHoldover : Nat := 2
def psSetter : Nat := 3
def psSetterFree : Nat := 4

def paceState (s : State) : Nat := dget s 0x2200 5
def isSetter (s : State) : Bool := paceState s = psSetter || paceState s = psSetterFree
/-- The reference is PACE_IN (0x2200:06). -/
def usesPaceIn (s : State) : Bool := dget s 0x2200 6 = 1
def sourcePort (s : State) : Nat := dget s 0x2200 9

/-- A pace event, with the body of the last accepted beacon (R494); none where no beacon has been accepted. -/
def paceEvent (s : State) (e : Nat) : State := raise s { code := e, cls := 0, detail := s.beacon }

/-- PACE_LOSS entered: no source, and nothing heard before it counts (R289). -/
def enterLoss (s : State) : State :=
  dset (dset { s with ports := s.ports.map fun x => (x.1, { x.2 with seen := [] }) } 0x2200 5 psLoss) 0x2200 9 0xFF

/-- Pace loss declared (R292, R295). -/
def declareLoss (s : State) : State := paceEvent (enterLoss (dadd s 0x2D30 5 1)) 0x0401

/-- HOLDOVER entered (R290). -/
def enterHoldover (s : State) : State := dset (dset (dadd s 0x2D30 4 1) 0x2200 5 psHoldover) 0x2200 0x0B 0

/-- Commands held in PACE_LOSS, to be compared again (R254, R293). -/
def releaseHeld (s : State) : State :=
  { s with
    regained := false
    queues := s.queues.map fun q => (q.1, { q.2 with paceHeld := false, waitsTime := q.2.waitsTime || q.2.paceHeld }) }

/-- A setter begins (R294, R298): at lap 0, phase 0, on PACE_IN where that is its reference and valid. -/
def startSetter (s : State) : State :=
  let s := dset s 0x2200 5 (if usesPaceIn s && s.paceIn.valid then psSetter else psSetterFree)
  let s := dset (dset (dset s 0x2200 7 (ownChip s)) 0x2200 8 0) 0x2200 9 0xFF
  let s := dset s 0x2200 3 (dget s 0x2200 2)
  releaseHeld { s with lap := 0, phase := 0, lapStartAt := s.now, slew := 0, slewed := 0 }

/-! ## Link delay (R284) -/

def linkDelay (s : State) (p : Nat) : Int := sext 32 (dget s (pIdx p) 9)

/-- A port that can be a pace source (R284). -/
def hasDelay (s : State) (p : Nat) : Bool := trained s p && (getPort s p).delays != []

/-- `PACE_OUT`'s level (R294): 10 MHz from the pace, rising at every local lap start, which a lap length of whole 100 ns periods
keeps (R278). -/
def paceOut (s : State) : Bool := linksUp s && s.phase * 64 % 1000 < 500

/-! ## Control bodies (R280, R315) -/

def ctlBeacon : Nat := 1
def ctlRequest : Nat := 2
def ctlResponse : Nat := 3
def ctlRecord : Nat := 4

/-- A beacon's body on the line (R280). -/
def beaconBody (domain : Nat) (b : Beacon) : List Byte :=
  bytesOf 24 (b.lap % 2 ^ 48 * 2 ^ 144 + b.setter % 2 ^ 16 * 2 ^ 128 + domain % 2 ^ 16 * 2 ^ 112 + b.ticks % 2 ^ 28 * 2 ^ 84 +
    b.hop % 64 * 2 ^ 78 + b.corr % 2 ^ 32 * 2 ^ 32)

/-- The beacon that a port has seen. -/
def BeaconSeen.beacon (x : BeaconSeen) : Beacon := { lap := x.lap, setter := x.setter, ticks := x.ticks, hop := x.hop, corr := x.corr }

/-- `corr` of a beacon that waits for the line: the time since its lap start less the device clock, which its transmission adds
(`stampCtrl`, R280, R282). -/
def corrFrom (start : Int) : Nat := wrapInt 32 (-start)

/-- A control flit of the neighbour taken by its command. -/
def takeCtrl (s : State) (p code : Nat) : State :=
  modPort s p fun x => { x with ctrlIn := dropFirst (fun y => y.1 = code) x.ctrlIn }

/-! ## Lap starts (R279, R280, R293, R297) -/

/-- What LAP_START does on a trained port: a delay exchange, a beacon of a setter, a discovery record every 1,024th lap. -/
def lapPort (s : State) (p : Nat) : State :=
  let s := modPort s p fun x => { x with
    laps := x.laps + 1, asked := true, owes := x.owes || (x.laps + 1) % 1024 = 0 }
  let s := sendCtrl s p ctlRequest []
  if isSetter s && ownChip s != 0 then
    sendCtrl s p ctlBeacon (beaconBody (dget s 0x2200 4)
      { lap := s.lap, setter := ownChip s, ticks := lapLen s, hop := 0
        corr := corrFrom s.lapStartAt })
  else s

/-- Lap counts of running programs and collectives (R273, R348). -/
def lapCounts (s : State) : State :=
  { s with
    cores := s.cores.map fun k => (k.1, { k.2 with ctl := k.2.ctl.map fun c => { c with laps := c.laps + 1 } })
    colls := s.colls.map fun c => { c with quiet := c.quiet + 1 } }

/-- A tick of the device's time as its clock measures it: 64 units of 0.1 ns, and of an offset still to be taken up at most one
unit in every 1,000 (R287). -/
def passTick (s : State) : State :=
  if s.slew = 0 then { s with now := s.now + 64 }
  else if s.slewFrac + 64 < 1000 then { s with now := s.now + 64, slewFrac := s.slewFrac + 64 }
  else
    let d : Int := if s.slew < 0 then -1 else 1
    { s with
      now := if s.slew < 0 then s.now + 63 else s.now + 65
      slewFrac := s.slewFrac + 64 - 1000, slew := s.slew - d, slewed := s.slewed + d }

/-- The tick that starts a lap. -/
def startLap (s : State) : State :=
  let n := lapLen s
  let s := passTick s
  let s := { s with
    lap := (s.lap + 1) % 2 ^ 48, phase := 0, lapStarts := s.lapStarts + 1
    lapStartAt := s.lapStartAt + (n * 64 : Nat) + s.slewed, slewed := 0 }
  let s := if isSetter s then dset s 0x2200 3 (dget s 0x2200 2) else s
  let s := if paceState s = psHoldover then dset s 0x2200 0x0B (min 255 (dget s 0x2200 0x0B + 1)) else s
  let s := lapCounts s
  let s := if paceLost s then s else releaseHeld s
  raiseTrims ((trainedPorts s).foldl lapPort s)

/-- LAP_START: after the last phase of a lap. -/
def execLapStart (s : State) : Host.Outcome State Fault Refusal :=
  if linksUp s && s.phase + 1 ≥ lapLen s then .next (startLap s) else .next s

/-! ## Beacons (R281 to R283, R287, R289, R291, R295) -/

/-- The implied lap start of a beacon (R283). -/
def impliedStart (s : State) (p : Nat) (b : Beacon) (rx : Int) : Int := rx - (b.corr : Int) - linkDelay s p

/-- The local lap start nearest to a time: how many laps from the current one, and the offset from it; a lap start to come lies
later by what has been slewed since (R287). -/
def nearestStart (s : State) (t : Int) : Int × Int :=
  let n : Int := (lapLen s * 64 : Nat)
  let k := (t - s.lapStartAt + n / 2) / n
  (k, t - s.lapStartAt - k * n - (if k > 0 then s.slewed else 0))

/-- One microsecond, and 20 ns, in 0.1 ns. -/
def window1us : Int := 10000
def window20ns : Int := 200

/-- Where a beacon stands to the device's own time. -/
inductive BeaconFit where
  | outside
  | wrongLap
  | mismatch
  | fits (offset : Int)
deriving DecidableEq, Repr

def beaconFit (s : State) (b : BeaconSeen) : BeaconFit :=
  let x := nearestStart s b.start
  if x.2 > window1us || x.2 < -window1us then .outside
  else if ((s.lap : Int) + x.1) % ((2 ^ 48 : Nat) : Int) != (b.lap : Int) then .wrongLap
  else if b.ticks != lapLen s || b.setter != dget s 0x2200 7 then .mismatch
  else .fits x.2

/-- Three beacons in a row on a port that agree with one another (R289): newest first. -/
def threeAgree (l : List BeaconSeen) : Bool :=
  match l with
  | a :: b :: c :: _ =>
    let near (x y : BeaconSeen) : Bool :=
      let d := x.start - y.start - (x.ticks * 64 : Nat)
      d ≤ window20ns && -window20ns ≤ d
    a.lap = (b.lap + 1) % 2 ^ 48 && b.lap = (c.lap + 1) % 2 ^ 48 && a.setter = b.setter && b.setter = c.setter &&
      a.ticks = b.ticks && b.ticks = c.ticks && near a b && near b c
  | _ => false

def seenOf (b : Beacon) (start : Int) : BeaconSeen :=
  { lap := b.lap, setter := b.setter, hop := b.hop, ticks := b.ticks, start := start, corr := b.corr }

/-- A beacon that disagrees with the device's time in its lap, lap length or setter, wherever its lap start falls (R295). -/
def disagrees (s : State) (b : BeaconSeen) : Bool :=
  ((s.lap : Int) + (nearestStart s b.start).1) % ((2 ^ 48 : Nat) : Int) != (b.lap : Int) ||
    b.ticks != lapLen s || b.setter != dget s 0x2200 7

def remember (s : State) (p : Nat) (x : BeaconSeen) : State :=
  modPort s p fun y => { y with seen := (x :: y.seen).take 3 }

/-- What a port last heard, while it is no older than two of its laps (DESIGN CHOICE, log entry 105). -/
def heard (s : State) (rx : Int) (p : Nat) : Option BeaconSeen :=
  match (getPort s p).seen with
  | b :: _ => if hasDelay s p && rx - b.start ≤ (2 * b.ticks * 64 : Nat) then some b else none
  | [] => none

/-- R289's order: setter, then hop, then port. -/
def rankBefore (a b : BeaconSeen) (p q : Nat) : Bool :=
  a.setter < b.setter || (a.setter = b.setter && (a.hop < b.hop || (a.hop = b.hop && p < q)))

/-- The port acquisition chooses. -/
def acquirePort (s : State) (rx : Int) : Option Nat :=
  (List.range portCount).foldl (fun (best : Option Nat) p =>
    match heard s rx p with
    | none => best
    | some a => match best with
      | none => some p
      | some q => match heard s rx q with
        | some b => if rankBefore a b p q then some p else best
        | none => some p) none

/-- A port whose latest beacon fits the device's time and comes before another port's in R289's order. -/
def rivalBefore (s : State) (rx : Int) (p : Nat) (b : BeaconSeen) : Bool :=
  (List.range portCount).any fun q => q != p && match heard s rx q with
    | some a => rankBefore a b q p && (match beaconFit s a with | .fits _ => true | _ => false)
    | none => false

/-- Snapshots and rotations of the laps that a step of device time passes over: they have come in pace loss, and are held (R293). -/
def holdJumped (s : State) (lap : Nat) : State :=
  if lap ≤ s.lap then s
  else
    let s := (List.range heatCount).foldl (fun s h =>
      let p := dget s (hSnap h) 1
      let due := (p != 0 && decide (s.lap / p < lap / p)) ||
        (match (getHeat s h).take with | some t => decide (s.lap < t) && decide (t ≤ lap) | none => false)
      if snapState s h && due then modHeat s h fun x => { x with snapHeld := true } else s) s
    (rangeWhere 64 fun c => clusterActive s c && dget s 0x2900 4 = 1 && (getCluster s c).interval != 0 &&
      nextRotationLap s c ≤ lap).foldl (fun s c => modCluster s c fun x => { x with rotHeld := true }) s

/-- Head commands whose not-before time has passed are held to the next lap start; the others wait as usual (R293). -/
def regain (s : State) : State :=
  { s with
    regained := true
    queues := s.queues.map fun q => (q.1, { q.2 with
      paceHeld := match q.2.headCmd with
        | some c => dNb c.desc && timeReached s c.desc
        | none => false }) }

/-- A follower locks to a port (R289): device time set from its last beacon. -/
def lockTo (s : State) (p : Nat) (b : BeaconSeen) : State :=
  let s := dset (dset (dset s 0x2200 3 b.ticks) 0x2200 7 b.setter) 0x2200 8 b.hop
  let s := dset (dset (dset (dadd s 0x2D30 8 1) 0x2200 9 p) 0x2200 5 psLocked) 0x2200 0x0A 0
  let ph := (((s.now : Int) - b.start) / 64).toNat
  let lap := (b.lap + ph / b.ticks) % 2 ^ 48
  let s := { holdJumped s lap with
    lap := lap, phase := ph % b.ticks, beaconLap := some b.lap, beacon := beaconBody (dget s 0x2200 4) b.beacon
    lapStartAt := b.start + (ph / b.ticks * b.ticks * 64 : Nat), slew := 0, slewed := 0 }
  paceEvent (regain s) 0x0401

/-- Acquisition after a beacon (R289). -/
def acquire (s : State) (rx : Int) : State :=
  match acquirePort s rx with
  | none => s
  | some p =>
    if threeAgree (getPort s p).seen then
      match (getPort s p).seen with
      | b :: _ => if b.ticks = 0 then s else lockTo s p b
      | [] => s
    else s

/-- A beacon accepted: the offset shown, and what of it is not slewed out yet (R283, R287). -/
def acceptBeacon (s : State) (p : Nat) (b : Beacon) (start off : Int) : State :=
  let s := dset (dset s 0x2200 0x0A (wrapInt 32 off)) 0x2200 8 b.hop
  let s := modPort s p fun x => { x with seen := [] }
  { s with slew := if (nearestStart s start).1 > 0 then off else off - s.slewed, beaconLap := some b.lap
           beacon := beaconBody (dget s 0x2200 4) b }

/-- An accepted beacon forwarded on every other trained port (R282), its reference the lap start it implies; none is sent without a
chip number (R338). -/
def forwardBeacon (s : State) (p : Nat) (b : Beacon) (start : Int) : State :=
  if b.hop ≥ 63 || ownChip s = 0 then s
  else
    let n : Beacon := { b with hop := b.hop + 1, corr := corrFrom start }
    ((trainedPorts s).filter (· != p)).foldl (fun s q => sendCtrl s q ctlBeacon (beaconBody (dget s 0x2200 4) n)) s

/-- A beacon of a setter lower than the device's own (R295). -/
def conflict (s : State) (b : Beacon) : Bool :=
  if isSetter s then b.setter < ownChip s
  else (paceState s = psLocked || paceState s = psHoldover) && b.setter < dget s 0x2200 7

/-- A beacon not accepted: counted; three in a row on the source port that agree with one another and disagree with the device's
time declare pace loss (R283, R295). -/
def strayBeacon (s : State) (p : Nat) (f : BeaconFit) (x : BeaconSeen) : State :=
  let s := match f with
    | .outside => dadd s 0x2D30 1 1
    | .wrongLap => dadd s 0x2D30 2 1
    | _ => s
  if p != sourcePort s then s
  else if !disagrees s x then modPort s p fun y => { y with seen := [] }
  else
    let s := remember s p x
    if threeAgree (getPort s p).seen then declareLoss s else s

/-- A locked follower's beacon: taken from its source port; those of other ports that fit are remembered for R291's choice. -/
def lockedBeacon (s : State) (p : Nat) (b : Beacon) (x : BeaconSeen) : State :=
  match beaconFit s x with
  | .fits off =>
    if p = sourcePort s then forwardBeacon (acceptBeacon s p b x.start off) p b x.start else remember s p x
  | f => if p = sourcePort s then strayBeacon s p f x else s

/-- A beacon in HOLDOVER: the first that fits, of a port that no other comes before, locks again (R291). -/
def holdoverBeacon (s : State) (p : Nat) (b : Beacon) (x : BeaconSeen) (rx : Int) : State :=
  match beaconFit s x with
  | .fits off =>
    if !hasDelay s p then s
    else if rivalBefore s rx p x then remember s p x
    else
      let s := if p = sourcePort s then s else dset (dadd s 0x2D30 8 1) 0x2200 9 p
      forwardBeacon (acceptBeacon (dset s 0x2200 5 psLocked) p b x.start off) p b x.start
  | f => strayBeacon s p f x

/-- A beacon of the device's pace domain on a trained port. -/
def takeBeacon (s : State) (p : Nat) (b : Beacon) (rx : Int) : State :=
  let c := conflict s b
  let s := if c then dadd s 0x2D30 3 1 else s
  let x := seenOf b (impliedStart s p b rx)
  if isSetter s then
    if c then remember (paceEvent (enterLoss (dset s 0x2200 1 0)) 0x0404) p x else s
  else if paceState s = psLoss then acquire (remember s p x) rx
  else if paceState s = psLocked then lockedBeacon s p b x
  else holdoverBeacon s p b x rx

/-- LAP_BEACON: a beacon received on a port; one of another pace domain is ignored (R281). -/
def execLapBeacon (port domain : Nat) (body : Beacon) (reception : Int) (s : State) : Host.Outcome State Fault Refusal :=
  let s := takeCtrl s port ctlBeacon
  if !trained s port || domain != dget s 0x2200 4 then .next s
  else .next (takeBeacon s port body reception)

/-! ## Delay exchanges (R284) -/

/-- DELAY_REQUEST: answered with its reception and the answer's transmission. R284 and R315 give these flits no body: the request's is
empty, and the response's holds t2 and t3, 8 bytes each, the lowest byte first (DESIGN CHOICE, log entry 122). -/
def execDelayRequest (port : Nat) (t2 t3 : Int) (s : State) : Host.Outcome State Fault Refusal :=
  let s := takeCtrl s port ctlRequest
  if !trained s port then .next s
  else .next (sendCtrl s port ctlResponse (bytesOf 8 (wrapInt 64 t2) ++ bytesOf 8 (wrapInt 64 t3)))

/-- DELAY_RESPONSE: one more exchange; the mean of the last 16 is the link delay. -/
def execDelayResponse (port : Nat) (t1 t2 t3 t4 : Int) (s : State) : Host.Outcome State Fault Refusal :=
  let s := takeCtrl s port ctlResponse
  if !trained s port || !(getPort s port).asked then .next s
  else
    let l := (((t4 - t1) - (t3 - t2)) :: (getPort s port).delays).take 16
    let s := modPort s port fun x => { x with delays := l, asked := false }
    .next (showDelay s port)

/-! ## Holdover and loss (R290, R292) -/

/-- HOLDOVER_TIMEOUT: no beacon of the lap accepted by an eighth of it. -/
def execHoldoverTimeout (s : State) : Host.Outcome State Fault Refusal :=
  if paceState s = psLocked && s.phase ≥ lapLen s / 8 && s.beaconLap != some s.lap then .next (enterHoldover s) else .next s

/-- PACE_LOSS_DECLARED: 64 local lap starts in HOLDOVER. -/
def execPaceLossDeclared (s : State) : Host.Outcome State Fault Refusal :=
  if paceState s = psHoldover && dget s 0x2200 0x0B ≥ 64 then .next (declareLoss s) else .next s

/-! ## PACE_IN (R296) -/

/-- The input fails: counted, and a setter on it falls back to its own oscillator (R294). -/
def failPaceIn (s : State) : State :=
  let s := dadd { s with paceIn := { s.paceIn with valid := false, run := 0 } } 0x2D30 7 1
  if paceState s = psSetter then paceEvent (dset s 0x2200 5 psSetterFree) 0x0403 else s

/-- PACE_IN_EDGE: accepted, or early. -/
def execPaceInEdge (s : State) : Host.Outcome State Fault Refusal :=
  let early : Bool := match s.paceIn.last with
    | some t => decide (s.now < t + 900)
    | none => false
  if early then .next (dadd { s with paceIn := { s.paceIn with run := 0 } } 0x2D30 6 1)
  else .next { s with paceIn := { s.paceIn with last := some s.now, run := s.paceIn.run + 1 } }

/-- PACE_IN_STUCK: no edge accepted for more than 1 µs. -/
def execPaceInStuck (s : State) : Host.Outcome State Fault Refusal :=
  match s.paceIn.last with
  | some t => if s.paceIn.valid && s.now > t + 10000 then .next (failPaceIn s) else .next s
  | none => .next s

/-- PACE_IN_FREQUENCY_CHECK: so many accepted edges in a span of 0.1 ns units. -/
def execPaceInFrequencyCheck (edges span : Nat) (s : State) : Host.Outcome State Fault Refusal :=
  let d := if edges * 1000 ≥ span then edges * 1000 - span else span - edges * 1000
  if s.paceIn.valid && d * 1000000 > 50 * span then .next (failPaceIn s) else .next s

/-- PACE_IN_RECOVERED: 100,000 edges accepted with none ignored. -/
def execPaceInRecovered (s : State) : Host.Outcome State Fault Refusal :=
  if s.paceIn.valid || s.paceIn.run < 100000 then .next s
  else
    let s := { s with paceIn := { s.paceIn with valid := true } }
    .next (if paceState s = psSetterFree && usesPaceIn s then dset s 0x2200 5 psSetter else s)

end Sys2Proof.Machine
end

