-- ==== Sys2Proof/Machine/Link.lean ====
section
/-! DEFINITION. Fabric ports: training, discovery and plan states, and the link layer's flit groups (R300 to R325). -/

namespace Sys2Proof.Machine

/-! ## Plan states (R319 to R321) -/

/-- The installed plans that name a port, each with its entry for it. -/
def namingPlans (s : State) (p : Nat) : List (Plan × PlanPort) :=
  s.plans.filterMap fun x => (x.plan.ports.find? (·.port = p)).map fun e => (x.plan, e)

/-- The plan state of a port (R319). -/
def planStateOf (s : State) (p : Nat) : Nat :=
  let l := namingPlans s p
  let x := getPort s p
  let chip := dget s (pIdx p) 4
  let peer := dget s (pIdx p) 5
  let digest := dget s (pIdx p) 7
  let tag := match x.record with | some r => fld r 199 168 | none => 0
  if l.isEmpty then 0
  else if !trained s p || x.late then 3
  else if l.any fun y => dget s (pIdx p) 2 < y.2.minWidth then 2
  else if l.any fun y => chip != y.2.peerChip || peer != y.2.peerPort || (y.2.digest != 0 && digest != y.2.digest) then 4
  else if l.any fun y => !y.1.transit && y.2.checkEpoch && (tag != y.1.tag || dget s (pIdx p) 6 != y.1.epoch) then 5
  else 1

/-- The record last received on a port, with the naming plan's tag and epoch, as fabric events carry them (R494). -/
def portDetail (s : State) (p : Nat) : List Byte :=
  (match (getPort s p).record with | some r => bytesOf 32 r.toNat | none => zeros 32) ++
    (match namingPlans s p with
     | (q, _) :: _ => bytesOf 4 q.tag ++ bytesOf 4 q.epoch
     | [] => [])

/-- The physical number of a logical port (0x2C00:08), as events have it (R408, R492). -/
def physPort (s : State) (p : Nat) : Nat := (nth 0xFF#8 (domGet s 0x2C00 8) p).toNat

def portEvent (s : State) (p code cls cause : Nat) (h : Option Nat) : State :=
  raise s { code := code, cls := cls, cause := cause, heat := h, unit := physPort s p, unitKind := 4, detail := portDetail s p }

/-- What a heat that is RUNNING, STOPPING or STOPPED makes of a port that leaves ADMITTED (R321). -/
def heatLoses (s : State) (p h : Nat) : State :=
  match heatPlan s (heatTag s h) with
  | some q => match q.ports.find? (·.port = p) with
    | some e =>
      match (getHeat s h).st with
      | .running | .stopping | .stopped =>
        if e.optional then portEvent s p 0x0301 1 0 (some h) else portEvent s p 0x0301 2 6 (some h)
      | _ => s
    | none => s
  | none => s

/-- Packets of a port that has left ADMITTED, sent another way in their order (R321): unacknowledged ones, then those
that wait; one with no other port is discarded. -/
def reroute (s : State) (p : Nat) : State :=
  let x := getPort s p
  let l := x.unacked.map (·.2) ++ x.queue
  let required (k : Packet) : Bool := match heatPlan s k.tag with
    | some q => q.ports.any fun e => e.port = p && !e.optional
    | none => false
  let s := modPort s p fun x => { x with unacked := [], queue := [], sending := [] }
  (l.filter fun k => !required k.pkt).foldl (fun s k => match routeOf s k.pkt.tag k.pkt.dst with
    | some r => match outPort s k.pkt k.ing r with
      | some q => enqueue s k.pkt k.ing q
      | none => s
    | none => s) s

/-- A port's plan state brought up to date; every change is logged (R319, R321). -/
def updatePlan (s : State) (p : Nat) : State :=
  let old := planState s p
  let new := planStateOf s p
  if new = old then s
  else
    let s := portEvent (dset s (pIdx p) 3 new) p 0x0301 0 0 none
    if old != 1 then s
    else reroute ((liveHeats s).foldl (fun s h => heatLoses s p h) s) p

def updatePlans (s : State) : State := (List.range portCount).foldl updatePlan s

/-! ## Training (R303 to R305) -/

def ms (n : Nat) : Nat := n * 10000000

def portEnabled (s : State) (p : Nat) : Bool := dget s (pIdx p) 8 = 1

/-- A link that starts: sequence numbers at 0, the whole buffers granted (R303 step 5, R309). -/
def Port.start (x : Port) (now lanes : Nat) : Port :=
  { record := x.record, extra := x.extra, queue := x.queue, delivered := x.delivered
    trainedAt := now, owes := true, lanes := lanes }

/-- A port no longer TRAINED: what depended on it (R290, R319). -/
def leaveTrained (s : State) (p link : Nat) : State :=
  let was := trained s p
  let s := dset (dset s (pIdx p) 1 link) (pIdx p) 2 0
  let s := modPort s p fun x => { x with seen := [], lanes := 0 }
  let s := if was && paceState s = psLocked && sourcePort s = p then enterHoldover s else s
  updatePlan s p

/-- A TRAINED port retrains from step 1 (R305). -/
def retrain (s : State) (p : Nat) (count : Bool) : State :=
  let s := if count then portEvent (dadd s (pIdx p) 0x0C 1) p 0x0304 0 0 none else s
  modPort (leaveTrained s p linkTraining) p fun x => { x with attempt := some s.now }

/-- A laser is on, and the optical engines have settled: 4 s from the start of step 11 (R420). -/
def laserReady (s : State) (n : Nat) : Bool :=
  s.seq.lasers.contains n && (bootStage s = bsReady || decide (s.stageAt + ms 4000 ≤ s.now))

/-- PORT_TRAINING: an enabled port that is DOWN starts an attempt; after a failed one, 1 s after it began. -/
def execPortTraining (port : Nat) (s : State) : Host.Outcome State Fault Refusal :=
  let due := match (getPort s port).attempt with
    | none => true
    | some t => decide (t + ms 1000 ≤ s.now)
  if port < portCount && linksUp s && laserReady s port && portEnabled s port && linkState s port = linkDown && due then
    .next (modPort (dset s (pIdx port) 1 linkTraining) port fun x => { x with attempt := some s.now })
  else .next s

/-- The lanes a port uses and its width, of the lanes both ends have locked (R304). -/
def chooseWidth (common : Nat) : Option (Nat × Nat) :=
  if common % 16 = 15 then some (15, 4)
  else if common % 4 = 3 then some (3, 2)
  else if common / 4 % 4 = 3 then some (12, 2)
  else match (bitsSet 4 common) with
    | l :: _ => some (2 ^ l, 1)
    | [] => none

/-- LANE_LOCK: the width, and the port TRAINED; with no common lane the attempt fails. -/
def execLaneLock (port : Nat) (own peer : BitVec 4) (s : State) : Host.Outcome State Fault Refusal :=
  let inTime := match (getPort s port).attempt with
    | some t => decide (s.now ≤ t + ms 500)
    | none => false
  if linkState s port != linkTraining || !inTime then .next s
  else match chooseWidth (own.toNat &&& peer.toNat) with
    | none => .next (dset s (pIdx port) 1 linkDown)
    | some (lanes, w) =>
      let s := dset (dset s (pIdx port) 1 linkTrained) (pIdx port) 2 w
      let s := dset s (pIdx port) 9 0
      .next (updatePlan (modPort s port fun x => x.start s.now lanes) port)

/-- TRAINING_TIMEOUT: an attempt that has not come to TRAINED within 500 ms. -/
def execTrainingTimeout (port : Nat) (s : State) : Host.Outcome State Fault Refusal :=
  match (getPort s port).attempt with
  | some t => if linkState s port = linkTraining && t + ms 500 ≤ s.now then .next (dset s (pIdx port) 1 linkDown) else .next s
  | none => .next s

/-- LANE_LOCK_LOSS: a lane in use lost its lock. -/
def execLaneLockLoss (port : Nat) (lanes : BitVec 4) (s : State) : Host.Outcome State Fault Refusal :=
  if trained s port && (lanes.toNat &&& (getPort s port).lanes) != 0 then .next (retrain s port true) else .next s

/-! ## Port control (R305, R336) -/

/-- The port is REQUIRED by the HEAT plan of a heat that is RUNNING, STOPPING or STOPPED. -/
def portRequired (s : State) (p : Nat) : Bool :=
  (liveHeats s).any fun h =>
    (match (getHeat s h).st with | .running | .stopping | .stopped => true | _ => false) &&
      match heatPlan s (heatTag s h) with
      | some q => q.ports.any fun e => e.port = p && !e.optional
      | none => false

/-- A write of a port's control: the state and the abort code. -/
def writePortControl (s : State) (p v : Nat) : State × Nat :=
  if v > 1 then (s, abRange)
  else if v = 0 && portRequired s p then (s, abRequired)
  else
    let s := dset s (pIdx p) 8 v
    if linkState s p = linkFused then (s, 0)
    else if v = 0 then
      let s := if linkState s p = linkDown then s else leaveTrained s p linkDown
      (modPort s p fun x => { x with attempt := none }, 0)
    else (s, 0)

/-! ## Discovery (R318, R319) -/

/-- The HEAT plan that names a port. -/
def portHeatPlan (s : State) (p : Nat) : Option Plan :=
  ((namingPlans s p).find? fun x => !x.1.transit).map (·.1)

/-- A discovery record of a port. -/
def discoveryRecord (s : State) (p : Nat) : BitVec 256 :=
  let q := portHeatPlan s p
  let e := match q with | some q => q.epoch | none => 0
  let t := match q with | some q => q.tag | none => 0
  BitVec.ofNat 256
    (ownChip s * 2 ^ 240 + p * 2 ^ 232 + e * 2 ^ 200 + t * 2 ^ 168 + serialDigest s * 2 ^ 104 + dget s (pIdx p) 2 * 2 ^ 100 +
      dget s 0x2C00 1 * 2 ^ 96 + dget s 0x2200 4 * 2 ^ 80)

/-- DISCOVERY_SEND: a record that is owed goes out. -/
def execDiscoverySend (port : Nat) (s : State) : Host.Outcome State Fault Refusal :=
  if trained s port && (getPort s port).owes then
    let s := sendCtrl s port ctlRecord (bytesOf 32 (discoveryRecord s port).toNat)
    .next (modPort s port fun x => { x with owes := false })
  else .next s

/-- DISCOVERY_RECORD: the neighbour fields and the plan state; an extra neighbour is logged once. -/
def execDiscoveryRecord (port : Nat) (record : BitVec 256) (s : State) : Host.Outcome State Fault Refusal :=
  let s := takeCtrl s port ctlRecord
  if !trained s port then .next s
  else
    let chip := fld record 255 240
    let s := dset (dset s (pIdx port) 4 chip) (pIdx port) 5 (fld record 239 232)
    let s := dset (dset s (pIdx port) 6 (fld record 231 200)) (pIdx port) 7 (fld record 167 104)
    let s := modPort s port fun x => { x with record := some record, gotRecord := true, late := false }
    let s := updatePlan s port
    if planState s port = 0 && !(getPort s port).extra.contains chip then
      .next (portEvent (modPort s port fun x => { x with extra := chip :: x.extra }) port 0x0302 0 0 none)
    else .next s

/-- DISCOVERY_TIMEOUT: no record within 2 s of TRAINED. -/
def execDiscoveryTimeout (port : Nat) (s : State) : Host.Outcome State Fault Refusal :=
  let x := getPort s port
  if trained s port && !x.gotRecord && x.trainedAt + ms 2000 ≤ s.now then
    .next (updatePlan (modPort s port fun x => { x with late := true }) port)
  else .next s

/-! ## Packets as flits (R306, R312) -/

def packetHeader (k : Packet) : Nat :=
  k.dst * 2 ^ 240 + k.src * 2 ^ 224 + k.tag * 2 ^ 192 + k.kind * 2 ^ 186 + b2n k.adaptive * 2 ^ 185 + b2n k.wrapped * 2 ^ 184 +
    k.hops * 2 ^ 178 + k.dataLen * 2 ^ 165 + k.memOp * 2 ^ 162 + k.offset * 2 ^ 114 + k.txn * 2 ^ 90 + k.orderNo * 2 ^ 74 +
    b2n k.orderEn * 2 ^ 73 + b2n k.orderLast * 2 ^ 72 + k.gradLayer * 2 ^ 60 + k.gradKind * 2 ^ 58 + k.code * 2 ^ 50

def flitOfBytes (l : List Byte) : BitVec 2048 := BitVec.ofNat 2048 (natOfBytes l)
def bytesOfFlit (f : BitVec 2048) : List Byte := bytesOf 256 f.toNat

/-- The flits of a packet. -/
def flitsOf (k : Packet) : List (BitVec 2048) :=
  let l := bytesOf 32 (packetHeader k) ++ k.data
  (chunk 256 (l.length / 256 + 1) l).map fun x => flitOfBytes (fitBytes 256 x)

/-- A packet from its flits, in order. -/
def packetOf (l : List (BitVec 2048)) : Packet :=
  let b := l.flatMap bytesOfFlit
  let w := natOfBytes (b.take 32)
  let kind := bitsOf w 191 186
  let n := bitsOf w 177 165
  { dst := bitsOf w 255 240, src := bitsOf w 239 224, tag := bitsOf w 223 192, kind := kind, adaptive := bitOf w 185
    wrapped := bitOf w 184, hops := bitsOf w 183 178, dataLen := n, memOp := bitsOf w 164 162, offset := bitsOf w 161 114
    txn := bitsOf w 113 90, orderNo := bitsOf w 89 74, orderEn := bitOf w 73, orderLast := bitOf w 72
    gradLayer := bitsOf w 71 60, gradKind := bitsOf w 59 58, code := bitsOf w 57 50
    data := if kind = kReadReq then [] else sliceBytes b 32 (if kind = 0x20 then 224 else n) }

/-- A control flit (R315). -/
def ctrlPacket (s : State) (code : Nat) (body : List Byte) : Packet :=
  { dst := 0xFFFF, src := ownChip s, tag := 0, kind := ctrlKind, dataLen := body.length, code := code, data := body }

/-! ## Receiving packets (R313, R315, R319, R322, R325, R326) -/

/-- A plan of the packet's tag that names both ports. -/
def planNames (s : State) (tag p q : Nat) : Bool :=
  s.plans.any fun x => x.plan.tag = tag && x.plan.ports.any (·.port = p) && x.plan.ports.any (·.port = q)

/-- A packet in transit: its tag is checked first (R326), then its route (R322). One whose entry leads to no ADMITTED port is lost and
counted in 0x2300:0D (DESIGN CHOICE, log entry 122). -/
def forward (s : State) (p vc : Nat) (k : Packet) : State :=
  if !planNames s k.tag p p then nakBack s p k nakTag
  else if k.hops ≥ 63 then dadd s (pIdx p) 0x0D 1
  else match routeOf s k.tag k.dst with
    | none => nakBack s p k nakRoute
    | some r =>
      let k := { k with hops := k.hops + 1 }
      match outPort s k (some (p, vc)) r with
      | none => dadd s (pIdx p) 0x0D 1
      | some q => if planNames s k.tag p q then enqueue s k (some (p, vc)) q else nakBack s p k nakTag

/-- A packet whole at a port. -/
def receivePacket (s : State) (p vc : Nat) (k : Packet) : State :=
  if packetBad k then dadd s (pIdx p) 0x0A 1
  else if k.kind = ctrlKind then modPort s p fun x => { x with ctrlIn := x.ctrlIn ++ [(k.code, k.data)] }
  else if !admitted s p then dadd s (pIdx p) 0x0D 1
  else if k.dst = ownChip s then modPort s p fun x => { x with delivered := x.delivered ++ [k] }
  else forward s p vc k

/-- Valid flits accepted: counted, freed, and joined to packets (R307). -/
def receiveFlit (s : State) (p : Nat) (x : Nat × BitVec 2048) : State :=
  let vc := bitsOf x.1 62 61
  let s := dadd s (pIdx p) 0x0F 1
  let s := modPort s p fun y => { y with freed := modNth y.freed vc fun n => (n + 1) % 4096 }
  let so := ((getPort s p).partials.find? (·.1 = vc)).map (·.2)
  let l := if bitOf x.1 60 then some [x.2] else so.map fun l => x.2 :: l
  match l with
  | none => s
  | some l =>
    let rest := (getPort s p).partials.filter (·.1 != vc)
    if bitOf x.1 59 then receivePacket (modPort s p fun y => { y with partials := rest }) p vc (packetOf l.reverse)
    else modPort s p fun y => { y with partials := (vc, l) :: rest }

/-! ## Sending (R306 to R311) -/

/-- The header of a group. Before any group is accepted `ack_seq` is 0xFFFFFFFF, one before the first (DESIGN CHOICE, log entry 122). -/
def groupHeader (x : Port) (seq : Nat) (slots : List Nat) : BitVec 2048 :=
  let c (i : Nat) : Nat := nth 0 x.freed i % 4096
  let v := seq % 2 ^ 32 * 2 ^ 2016 + (x.rxNext + 2 ^ 32 - 1) % 2 ^ 32 * 2 ^ 1984 + b2n x.nakDue * 2 ^ 1983 +
    c 0 * 2 ^ 1968 + c 1 * 2 ^ 1956 + c 2 * 2 ^ 1944 + c 3 * 2 ^ 1932 +
    ((List.range 24).foldl (fun a i => a + nth 0 slots i * 2 ^ (64 * i)) 0)
  BitVec.ofNat 2048 (v + crc32 (bytesOf 256 v) * 2 ^ 1900)

/-- A slot header. -/
def slotHeader (vc : Nat) (sop eop : Bool) (f : BitVec 2048) : Nat :=
  2 ^ 63 + vc * 2 ^ 61 + b2n sop * 2 ^ 60 + b2n eop * 2 ^ 59 + crc32 (bytesOfFlit f)

/-- Credits a sender holds for a VC. -/
def credits (x : Port) (vc : Nat) : Nat :=
  vcBuffer vc - (nth 0 x.sent vc + 4096 - nth 0 x.credit vc % 4096) % 4096

/-- The first waiting packet of a VC. -/
def firstOf (x : Port) (vc : Nat) : Option Queued := x.queue.find? (·.vc = vc)

/-- A VC whose first packet may start: it has the credits for all its flits. -/
def canStart (x : Port) (vc : Nat) : Bool := match firstOf x vc with
  | some k => decide (packetFlits k.pkt ≤ credits x vc)
  | none => false

/-- A flit of a VC may leave: there is a credit, and VC2 stays under its cap (R309, R311). -/
def maySend (x : Port) (vc used cap : Nat) : Bool := credits x vc > 0 && (vc != 2 || used < cap)

/-- The VC that sends its next packet (R311); `used` is VC2's share of the window so far, `cap` its limit. VC2 starts a packet only
where it ends under the cap; in its guaranteed share it starts with one credit. -/
def nextVc (x : Port) (used cap : Nat) : Option Nat :=
  let ends2 := match firstOf x 2 with
    | some k => used + packetFlits k.pkt ≤ cap
    | none => false
  if !x.ctrl.isEmpty && credits x 3 > 0 then some 3
  else if ends2 && credits x 2 > 0 && used < 24 then some 2
  else if canStart x x.turn then some x.turn
  else if canStart x (1 - x.turn) then some (1 - x.turn)
  else if ends2 && canStart x 2 then some 2
  else none

/-- What a group under construction holds: its slot headers and flits so far, newest first, and VC2's slots. -/
structure Filling where
  slots : List Nat := []
  flits : List (BitVec 2048) := []
  vc2   : Nat := 0
deriving DecidableEq, Repr

/-- A control flit as it leaves: a beacon's `corr` runs to its transmission (R280, R282). -/
def stampCtrl (s : State) (code : Nat) (body : List Byte) : List Byte :=
  if code = ctlBeacon then
    let v := natOfBytes body
    bytesOf 24 (putBits v 63 32 (bitsOf v 63 32 + s.now))
  else body

/-- The packet sent last stands in group n, as far as it has come. -/
def markLast (n : Nat) (l : List (Nat × Queued)) : List (Nat × Queued) :=
  match l.getLast? with
  | some u => l.dropLast ++ [(n, u.2)]
  | none => []

/-- The packet on the line passes through this device: it came in by a port. -/
def passesThrough (x : Port) : Bool := match x.unacked.getLast? with
  | some u => u.2.ing.isSome
  | none => false

/-- One payload slot filled: the next flit of the packet on the line, or the first of the next packet; a packet that may not go on
leaves the slot idle, since no other packet comes between its flits (R307). -/
def fillSlot (p used cap : Nat) (acc : State × Filling) : State × Filling :=
  let s0 := acc.1
  let x := getPort s0 p
  let start : State × Option (Nat × Bool × List (BitVec 2048)) :=
    match x.sending with
    | (vc, l) :: _ => if maySend x vc (used + acc.2.vc2) cap then (s0, some (vc, false, l)) else (s0, none)
    | [] => match nextVc x (used + acc.2.vc2) cap with
      | none => (s0, none)
      | some 3 => match x.ctrl with
        | (code, body) :: rest =>
          (modPort s0 p fun y => { y with ctrl := rest }, some (3, true, flitsOf (ctrlPacket s0 code (stampCtrl s0 code body))))
        | [] => (s0, none)
      | some vc => match firstOf x vc with
        | some k =>
          (modPort s0 p fun y => { y with
            queue := dropFirst (fun z => z.vc = vc) y.queue
            unacked := y.unacked ++ [(y.txNext, k)]
            turn := if vc ≤ 1 then 1 - vc else y.turn }, some (vc, true, flitsOf (onLine s0 p k.pkt)))
        | none => (s0, none)
  match start.2 with
  | some (vc, sop, f :: l) =>
    let s1 := modPort start.1 p fun y => { y with
      sending := if l.isEmpty then [] else [(vc, l)]
      sent := modNth y.sent vc fun n => (n + 1) % 4096
      unacked := if vc = 3 then y.unacked else markLast y.txNext y.unacked }
    let s1 := dadd s1 (pIdx p) 0x0E 1
    let s1 := if vc = 2 && passesThrough (getPort s1 p) then dadd s1 (pIdx p) 0x10 1 else s1
    (s1, { acc.2 with
      slots := slotHeader vc sop l.isEmpty f :: acc.2.slots, flits := f :: acc.2.flits
      vc2 := acc.2.vc2 + b2n (vc = 2) })
  | _ => (start.1, { acc.2 with slots := 0 :: acc.2.slots, flits := 0#2048 :: acc.2.flits })

/-- A fresh group put on the line and into the retry buffer; a packet that has not ended in it is unacknowledged at least to the
next. -/
def sendFresh (s : State) (p : Nat) : State :=
  let cap := dget s 0x2320 2
  let used := ((getPort s p).vc2use.take 7).foldl (· + ·) 0
  let r := (List.range 24).foldl (fun acc _ => fillSlot p used cap acc) (s, {})
  modPort r.1 p fun x =>
    let g : Group := { header := groupHeader x x.txNext r.2.slots.reverse, flits := r.2.flits.reverse }
    { x with
      txNext := x.txNext + 1
      nakDue := false
      retry := ((x.txNext, g) :: x.retry).take 128
      vc2use := (r.2.vc2 :: x.vc2use).take 7
      unacked := if x.sending.isEmpty then x.unacked else markLast (x.txNext + 1) x.unacked
      lastOut := some g }

/-- The group sent in answer to a received one: a replay where one is due, else a fresh group. A replayed group has its own number,
slots and flits under a header with the `nak`, `ack_seq` and credit counts of the moment (DESIGN CHOICE, log entry 122). -/
def sendGroup (s : State) (p : Nat) : State :=
  let x := getPort s p
  match x.replayFrom with
  | none => sendFresh s p
  | some n => match x.retry.find? (·.1 = n) with
    | none => sendFresh (modPort s p fun y => { y with replayFrom := none }) p
    | some (_, g) =>
      let slots := (List.range 24).map fun i => fld g.header (64 * i + 63) (64 * i)
      let g : Group := { g with header := groupHeader x n slots }
      modPort s p fun y => { y with
        nakDue := false
        replayFrom := if n + 1 < y.txNext then some (n + 1) else none
        lastOut := some g }

/-! ## FLIT_GROUP -/

/-- The header's CRC (R306). -/
def headerOk (h : BitVec 2048) : Bool :=
  crc32 (bytesOf 256 (putBits h.toNat 1931 1900 0)) = fld h 1931 1900

def flitAt (l : List (BitVec 2048)) (i : Nat) : BitVec 2048 := nth 0#2048 l i

/-- Every valid flit's CRC. -/
def flitsOk (h : BitVec 2048) (l : List (BitVec 2048)) : Bool :=
  (List.range 24).all fun i =>
    fld h (64 * i + 63) (64 * i + 63) = 0 || crc32 (bytesOfFlit (flitAt l i)) = fld h (64 * i + 31) (64 * i)

/-- Credits returned and groups acknowledged by an accepted header; none where they break R308 or R310. The eighth `nak` of one
group retrains at once: that replay is neither sent nor counted in 0x2300:0B (DESIGN CHOICE, log entry 122). -/
def takeHeader (s : State) (p : Nat) (h : BitVec 2048) : Option State :=
  let x := getPort s p
  let got := [fld h 1979 1968, fld h 1967 1956, fld h 1955 1944, fld h 1943 1932]
  let okCredit := (List.range 4).all fun i =>
    let old := nth 0 x.credit i % 4096
    (nth 0 got i + 4096 - old) % 4096 ≤ (nth 0 x.sent i + 4096 - old) % 4096
  let ackNext := (fld h 2015 1984 + 1) % 2 ^ 32
  let back := aheadOf x.txNext ackNext
  if !okCredit || back > x.txNext - x.acked then none
  else
    let a := x.txNext - back
    let s := modPort s p fun y => { y with
      credit := got, acked := a, unacked := y.unacked.filter fun u => a ≤ u.1 }
    if fld h 1983 1983 = 0 || a = x.txNext then some s
    else if !x.retry.any (·.1 = a) then none
    else
      let n := if x.replays.1 = a && x.replays.2 != 0 then x.replays.2 + 1 else 1
      if n ≥ 8 then none
      else some (dadd (modPort s p fun y => { y with replayFrom := some a, replays := (a, n) }) (pIdx p) 0x0B 1)

/-- A group accepted: its header, then its flits. -/
def acceptGroup (s : State) (p : Nat) (h : BitVec 2048) (l : List (BitVec 2048)) : State :=
  let s := modPort s p fun x => { x with rxNext := x.rxNext + 1, failing := false, nakDue := false }
  match takeHeader s p h with
  | none => retrain s p true
  | some s =>
    let valid := (List.range 24).filter fun i => fld h (64 * i + 63) (64 * i + 63) = 1
    sendGroup (valid.foldl (fun s i => receiveFlit s p (fld h (64 * i + 63) (64 * i), flitAt l i)) s) p

/-- FLIT_GROUP: a group received, and the group the port sends meanwhile (R307, R308). A group whose CRC fails, and the first that
is out of sequence, are answered by a `nak` in the next header; what follows until the replay is discarded in silence (DEDUCED, log
entry 106). -/
def execFlitGroup (port : Nat) (header : BitVec 2048) (flits : List (BitVec 2048)) (s : State) :
    Host.Outcome State Fault Refusal :=
  if !trained s port then .next s
  else
    let x := getPort s port
    if !headerOk header || !flitsOk header flits then
      .next (sendGroup (modPort (dadd s (pIdx port) 0x0A 1) port fun x => { x with failing := true, nakDue := true }) port)
    else if fld header 2047 2016 = x.rxNext % 2 ^ 32 then .next (acceptGroup s port header flits)
    else .next (sendGroup (modPort s port fun x => { x with failing := true, nakDue := x.nakDue || !x.failing }) port)

end Sys2Proof.Machine
end

