-- ==== Sys2Proof/Machine/SnapLayout.lean ====
section
/-! DEFINITION. What a snapshot is made of: its header, its state block and its regions (R450, R451), as bytes at their places. -/

namespace Sys2Proof.Machine

/-! ## Ranges of bytes by offset -/

/-- The bytes of a number that are not 0, by place. -/
def placeNum (o w v : Nat) : Tab Byte :=
  ((List.range w).zip (bytesOf w v)).filterMap fun x => if x.2 = 0#8 then none else some (o + x.1, x.2)

/-- Numbers of w bytes from place o on, of the entries a table lists. -/
def placeTab {α : Type} (o w : Nat) (t : Tab α) (f : α → Nat) : Tab Byte := t.flatMap fun x => placeNum (o + w * x.1) w (f x.2)

/-- The bytes of a range, counted from its first. -/
def sliceTab (t : Tab Byte) (a n : Nat) : Tab Byte :=
  (t.filter fun x => a ≤ x.1 && x.1 < a + n).map fun x => (x.1 - a, x.2)

/-- The bytes of memory in a range, counted from its first. -/
def sliceMem (s : State) (a n : Nat) : Tab Byte :=
  if s.blank.isEmpty then sliceTab s.mem a n
  else (List.range n).filterMap fun i => let b := getByte s (a + i); if b = 0#8 then none else some (i, b)

/-- A list of bytes by offset, zeros left out. -/
def tabOfBytes (l : List Byte) : Tab Byte :=
  ((List.range l.length).zip l).filter fun x => x.2 != 0#8

def bytesOfTab (t : Tab Byte) (n : Nat) : List Byte := (List.range n).map fun i => tabGet 0#8 t i

/-- n bytes at a replaced by those of a table counted from its first; sectors written whole are encoded afresh. -/
def replaceRange (s : State) (a n : Nat) (t : Tab Byte) : State :=
  { s with
    mem := (t.filter fun x => x.1 < n).foldl (fun m x => tabSet 0#8 m (a + x.1) x.2) (tabDrop (fun x => a ≤ x && x < a + n) s.mem)
    blank := clearBlank s.blank a n
    errs := tabDrop (fun x => a ≤ x * 64 && x * 64 + 64 ≤ a + n) s.errs }

/-- The w-byte numbers that bytes by offset make up: index and value, those that are not 0, indices rising. -/
def gatherNums (w : Nat) (t : Tab Byte) : Tab Nat :=
  (t.foldl (fun (l : List (Nat × Nat)) x =>
    let d := x.2.toNat * 256 ^ (x.1 % w)
    match l with
    | (i, v) :: r => if i = x.1 / w then (i, v + d) :: r else (x.1 / w, d) :: l
    | [] => [(x.1 / w, d)]) []).reverse

/-! ## The state block (R450) -/

def blockBytes : Nat := 2 ^ 20
def headBytes : Nat := 64

def ledgerNum (e : Ledger) : Nat := e.st.code * 2 ^ 120 + e.base % 2 ^ 48 * 2 ^ 64 + e.elems % 2 ^ 32

/-- A ledger entry as a restore reads it: what was OPEN or COMPLETE is RELEASED (R459). -/
def ledgerOf (v : Nat) : Ledger :=
  { st := if bitsOf v 127 120 = 0 then .idle else .released, base := bitsOf v 111 64, elems := bitsOf v 31 0 }

def normNum (x : NormSlot) : Nat :=
  wrapInt 96 x.win.acc +
    (match x.win.anchor with | some a => 2 ^ 112 + wrapInt 16 a * 2 ^ 96 | none => 0) +
    b2n (x.win.loss != 0) * 2 ^ 113 + b2n x.valid * 2 ^ 114 + b2n x.fresh * 2 ^ 115

def normOf (v : Nat) : NormSlot :=
  { win :=
      { acc := sext 96 (bitsOf v 95 0), anchor := if bitOf v 112 then some (sext 16 (bitsOf v 111 96)) else none
        loss := b2n (bitOf v 113) }
    valid := bitOf v 114, fresh := bitOf v 115 }

def layerNum (r : LayerRow) : Nat := r.rung % 4 * 2 ^ 30 + r.pin % 2 ^ 16 * 2 ^ 14 + r.policy % 64 * 2 ^ 8
def layerOf (v : Nat) : LayerRow := { rung := bitsOf v 31 30, pin := bitsOf v 29 14, policy := bitsOf v 13 8 }

def recNum (r : UpdRec) : Nat := r.word % 2 ^ 512 + r.stat % 2 ^ 64 * 2 ^ 512
def recOf (v : Nat) : UpdRec := { word := v % 2 ^ 512, stat := bitsOf v 575 512 }

def statBase (s : State) (h : Nat) : Nat := dget s (hCfg h) 0x0C
def statBytes : Nat := 64 * 4096

/-- The state block of a heat as it stands. -/
def stateBlock (s : State) (h : Nat) : Tab Byte :=
  let x := getHeat s h
  ((List.range 64).flatMap fun i => placeNum (16 * i) 16 (tabGet x.policyInit x.policies i)) ++
    placeTab 0x400 4 x.layers layerNum ++
    ((List.range 1024).flatMap fun i => placeNum (0x4400 + 48 * i) 48 (tabGet coefDefault x.coef i)) ++
    placeTab 0x10400 16 x.ledger ledgerNum ++ placeTab 0x20400 16 x.norms normNum ++ placeTab 0x30400 128 x.recs recNum ++
    (sliceMem s (statBase s h) statBytes).map fun y => (0xB0400 + y.1, y.2)

/-- A table filled from the numbers of a part of the block. -/
def fillTab {α : Type} [DecidableEq α] (d : α) (t : Tab Byte) (o w n : Nat) (f : Nat → α) : Tab α :=
  (gatherNums w (sliceTab t o (w * n))).foldl (fun t x => tabSet d t x.1 (f x.2)) []

/-- The same, of a part whose entries are all written, zeros as well. -/
def fillAll (d : Nat) (t : Tab Byte) (o w n : Nat) : Tab Nat :=
  let l := gatherNums w (sliceTab t o (w * n))
  (List.range n).foldl (fun t i => tabSet d t i (tabGet 0 l i)) []

/-- A state block written back into a heat (R459): its tables, its update records at their places, its layer statistics. -/
def restoreBlock (s : State) (h : Nat) (t : Tab Byte) : State :=
  let s := modHeat s h fun x => { x with
    policies := fillAll x.policyInit t 0 16 64
    layers := fillTab {} t 0x400 4 4096 layerOf
    coef := fillAll coefDefault t 0x4400 48 1024
    ledger := fillTab {} t 0x10400 16 4096 ledgerOf
    norms := fillTab {} t 0x20400 16 4096 normOf
    recs := fillTab {} t 0x30400 128 4096 recOf }
  let s := replaceRange s (statBase s h) statBytes (sliceTab t 0xB0400 statBytes)
  (getHeat s h).recs.foldl (fun s r => replaceRange s r.2.stat 64 (placeNum 0 64 r.2.word)) s

/-! ## Regions and header (R451, R468) -/

/-- The snapshot regions of a heat. -/
def snapRegions (s : State) (h : Nat) : List (Nat × Nat) :=
  let l := domGet s (hSnap h) 2
  (List.range (min 64 (l.length / 16))).map fun i => (natAt l (16 * i) 8, natAt l (16 * i + 8) 8)

/-- Bytes of a region in a snapshot. -/
def up256 (n : Nat) : Nat := (n + 255) / 256 * 256

/-- Bytes of a snapshot after its header. -/
def snapBytes (s : State) (h : Nat) : Nat := (snapRegions s h).foldl (fun a r => a + up256 r.2) blockBytes

/-- The regions with their places after the header. -/
def regionPlaces (s : State) (h : Nat) : List (Nat × Nat × Nat) :=
  ((snapRegions s h).foldl (fun (acc : Nat × List (Nat × Nat × Nat)) r =>
    (acc.1 + up256 r.2, acc.2 ++ [(acc.1, r.1, r.2)])) (blockBytes, [])).2

def snapMagic : Nat := 0x534E4150
def noLap : Nat := 2 ^ 48 - 1

/-- A snapshot header. -/
def snapHeader (s : State) (h lap : Nat) (valid : Bool) : Nat :=
  snapMagic * 2 ^ 480 + lap % 2 ^ 48 * 2 ^ 432 + ownChip s * 2 ^ 416 + dget s (hSnap h) 7 * 2 ^ 400 +
    snapBytes s h % 2 ^ 40 * 2 ^ 360 + (snapRegions s h).length * 2 ^ 352 + b2n valid

/-- The lap of a header that says its slot is whole. -/
def headerLap (v : Nat) : Option Nat :=
  if bitsOf v 511 480 = snapMagic && bitOf v 0 then some (bitsOf v 479 432) else none

def ownArea (s : State) (h : Nat) : Nat := dget s (hSnap h) 3
def ownBytes (s : State) (h : Nat) : Nat := dget s (hSnap h) 4
def buddyChip (s : State) (h : Nat) : Nat := dget s (hSnap h) 5
def buddySlots (s : State) (h : Nat) : Nat := max 1 (dget s (hSnap h) 7)
/-- Where buddy slot k begins at the buddy (R451). -/
def buddyAddr (s : State) (h k : Nat) : Nat := (dget s (hSnap h) 6 + k * ownBytes s h) % 2 ^ 48

/-- 0x2530 + h:0F: own valid lap, own lap in progress, buddy slots 0 and 1. -/
def snapLap (s : State) (h i : Nat) : Option Nat :=
  let v := domNum s (hSnap h) 0x0F 6 i
  if v = noLap || (domGet s (hSnap h) 0x0F).isEmpty then none else some v

def setSnapLap (s : State) (h i : Nat) (lap : Option Nat) : State :=
  domPut s (hSnap h) 0x0F 24 6 i (lap.getD noLap) 0xFF#8

/-! ## A snapshot read from its buddy (R459) -/

/-- Places of the packets: the headers of the slots, then the snapshot's pieces. -/
def dataPlace : Nat := 16

/-- The READ_REQ packets of both slots' headers. -/
def headerReads (s : State) (h : Nat) : List (Nat × Packet) :=
  (List.range (buddySlots s h)).flatMap fun k => readPackets s h (buddyChip s h) (buddyAddr s h k) k 64

/-- The slot whose header names a lap. -/
def slotWith (s : State) (h lap : Nat) : Option Nat :=
  (List.range (buddySlots s h)).find? fun k =>
    headerLap (natOfBytes (gotBytes (getHeat s h).restart.rem k 1)) = some lap

/-- The READ_REQ packets of what follows the header of a slot. -/
def dataReads (s : State) (h k : Nat) : List (Nat × Packet) :=
  readPackets s h (buddyChip s h) (buddyAddr s h k + headBytes) dataPlace (snapBytes s h)

/-- What came, by offset after the header. -/
def gotSnapshot (s : State) (h : Nat) : Tab Byte :=
  let m := (getHeat s h).restart.rem
  tabOfBytes (gotBytes m dataPlace (m.got.length))

/-- A snapshot's contents written back: block and regions (R459). -/
def applySnapshot (s : State) (h : Nat) (t : Tab Byte) : State :=
  (regionPlaces s h).foldl (fun s r => replaceRange s r.2.1 r.2.2 (sliceTab t r.1 r.2.2)) (restoreBlock s h (sliceTab t 0 blockBytes))

/-- The own copy, by offset after its header. -/
def ownSnapshot (s : State) (h : Nat) : Tab Byte := sliceMem s (ownArea s h + headBytes) (snapBytes s h)

end Sys2Proof.Machine
end

