-- ==== Sys2Proof/Machine/Remote.lean ====
section
/-! DEFINITION. Remote operations: what this device answers as a target, and what it makes of answers as a requester
(R313, R314, R329 to R335). -/

namespace Sys2Proof.Machine

/-! ## The target (R329, R330) -/

/-- An answer to a packet, sent. -/
def sendAck (s : State) (k : Packet) : State := sendPacket s (answer s k kAck)

/-- R201, R243 and R123 for a packet of the heat that holds its tag. -/
def remoteLegal (s : State) (h : Nat) (kind : AccessKind) (a n : Nat) : Bool :=
  accessLegal s kind true a n && accessOwned s h a n && !accessReserved s h a n

/-- A packet for this device that a heat answers. -/
def asTarget (s : State) (port : Nat) (k : Packet) (f : State → Nat → State) : State :=
  let a := arrive s port k
  if !a.2 then a.1
  else
    let g := targetHeat a.1 port k
    match g.2 with
    | none => g.1
    | some h => f g.1 h

/-- READ_REQ: the bytes read, or a NAK. -/
def execReadReq (port : Nat) (p : Packet) (errs : List SectorErr) (s : State) : Host.Outcome State Fault Refusal :=
  let k := { p with kind := kReadReq }
  .next (asTarget (injectErrs s errs) port k fun s h =>
    if !remoteLegal s h .load k.offset k.dataLen then sendNak s k nakAddress
    else
      let r := loadLocal s h 0 false k.offset k.dataLen
      match r.2 with
      | none => sendNak r.1 k nakMemory
      | some l => sendPacket r.1 { answer r.1 k kReadResp with data := l, dataLen := l.length })

/-- A remote store, or a doorbell. -/
def remoteStore (s : State) (h : Nat) (k : Packet) : State :=
  if !remoteLegal s h .store k.offset k.data.length then sendNak s k nakAddress
  else match place s k.offset with
    | .queueReg q _ =>
      let r := ringDoorbell s (.remote k.tag) q (natOfBytes k.data)
      if r.2 then sendAck r.1 k else sendNak r.1 k nakAddress
    | _ =>
      if ordViolates s h k.offset k.data.length 0 false 0 (.remote k.src k.tag) then sendNak s k nakOrder
      else
        let r := storeLocal s none k.offset k.data
        if r.2 then sendAck r.1 k else sendNak r.1 k nakMemory

/-- WRITE. -/
def execWrite (port : Nat) (p : Packet) (errs : List SectorErr) (s : State) : Host.Outcome State Fault Refusal :=
  let k := { p with kind := kWrite }
  .next (asTarget (injectErrs s errs) port k fun s h => remoteStore s h k)

/-- A memory-side operation whose elements are whole and aligned (R218). -/
def memOpFits (k : Packet) : Bool :=
  let b := memOpBytes k.memOp
  1 ≤ k.memOp && k.memOp ≤ 6 && k.offset % b = 0 && k.data.length % b = 0

/-- A packet that no region refuses or holds back, applied and acknowledged. -/
def remoteApply (s : State) (h : Nat) (k : Packet) : State :=
  let n := k.data.length
  let r := addInto s h k.memOp k.orderNo (.remote k.src k.tag) { addr := k.offset, len := n } k.data
  if !r.2 then sendNak r.1 k nakMemory
  else sendAck (if k.orderEn && k.orderLast then ordEndAll r.1 h k.orderNo [(k.offset, n)] else r.1) k

/-- Whether R226 refuses a packet. -/
def remoteRefused (s : State) (h : Nat) (k : Packet) : Bool :=
  ordViolates s h k.offset k.data.length k.memOp k.orderEn k.orderNo (.remote k.src k.tag)

/-- A packet of the same contribution to a region that this one touches is held back already. -/
def alreadyHeld (s : State) (h : Nat) (k : Packet) : Bool :=
  let mine := (regionsAt s h k.offset k.data.length).map (·.1)
  s.heldMem.any fun x => x.2.src = k.src && x.2.tag = k.tag && x.2.orderNo = k.orderNo &&
    (regionsAt s h x.2.offset x.2.data.length).any fun r => mine.contains r.1

/-- A remote memory-side operation: refused, held back without an answer (R225), or applied. -/
def remoteMemOp (s : State) (h port : Nat) (k : Packet) : State :=
  if !memOpFits k || !remoteLegal s h .memOp k.offset k.data.length then sendNak s k nakAddress
  else if remoteRefused s h k then sendNak s k nakOrder
  else if !alreadyHeld s h k && !ordHolds s h k.offset k.data.length k.orderNo then remoteApply s h k
  else
    let s := if alreadyHeld s h k then s else dadd s 0x2D10 8 1
    { s with heldMem := s.heldMem ++ [(port, k)] }

/-- MEM_OP. -/
def execMemOp (port : Nat) (p : Packet) (errs : List SectorErr) (s : State) : Host.Outcome State Fault Refusal :=
  let k := { p with kind := kMemOp }
  .next (asTarget (injectErrs s errs) port k fun s h => remoteMemOp s h port k)

/-- A packet held back for a contribution of a region, that every region it touches can take now, or one of them refuses. -/
def heldFor (s : State) (h r order : Nat) (x : Nat × Packet) : Bool :=
  tagHeat s x.2.tag = some h && x.2.orderNo = order &&
    ((regionsAt s h x.2.offset x.2.data.length).any fun y => y.1 = r) &&
    (remoteRefused s h x.2 || !ordHolds s h x.2.offset x.2.data.length order)

/-- The queue whose head is held back by a region for a contribution. -/
def heldQueue (s : State) (h r order : Nat) : Option Nat :=
  (s.queues.find? fun x =>
    queueHeat s x.1 = some h &&
      match x.2.headCmd with
      | some c =>
        let p := DmaPar.ofDesc c.desc c.ext
        c.held && p.orderNo = order &&
          (targetSpans p (dmaTarget s h p)).any fun y => (regionsAt s h y.1 y.2).any fun z => z.1 = r
      | none => false).map (·.1)

/-- A packet that was held back taken: refused if a region refuses it by now (R226). -/
def takeHeld (s : State) (h : Nat) (k : Packet) : State :=
  if remoteRefused s h k then sendNak s k nakOrder else remoteApply s h k

/-- HELD_CONTRIBUTION_TAKEN: a contribution that its region can take now (R225, R352). -/
def execHeldContributionTaken (heat region order : Nat) (s : State) : Host.Outcome State Fault Refusal :=
  match (getHeat s heat).regions[region]? with
  | none => .next s
  | some r =>
    if (ordPlace r order).isNone && !ordPast r order then .next s
    else match heldQueue s heat region order with
      | some q => .next (startHead s q)
      | none =>
        if s.heldMem.any (heldFor s heat region order) then
          let s1 := { s with heldMem := s.heldMem.filter fun x => !heldFor s heat region order x }
          .next ((s.heldMem.filter (heldFor s heat region order)).foldl (fun s x => takeHeld s heat x.2) s1)
        else
        match s.colls.find? fun c => c.heat = heat && c.form = 0 && c.me.base = r.base && c.refused.isNone &&
            (c.others.any fun j => (c.peer j).held && (if j < c.self then j else j - 1) = order) with
        | none => .next s
        | some c =>
          let j := if order < c.self then order else order + 1
          let s := modPeer s heat c.id j fun x => { x with held := false }
          .next (sendColl s c j (collMsg s c j kResume 0))

/-! ## The requester (R331 to R334) -/

/-- A command whose remote side is over: one that was refused completes once nothing is outstanding; another makes the stores that
waited (R332). -/
def closeRemote (s : State) (q i : Nat) : State :=
  let s := lateStep s q i
  let s := modFlight s q i fun f =>
    if f.rem.refusal.isSome && f.acks = 0 && !f.waits then { f with acted := true } else f
  settleDma s q i

/-- One packet of a command answered by a chip. -/
def answered (s : State) (q i chip : Nat) : State :=
  let s := modFlight s q i fun f => { f with acks := f.acks - 1, rem := f.rem.heard chip }
  closeRemote (pumpCluster (pumpDma s q i) (queueCluster q)) q i

/-! ## Transfers of a heat: its restore from the buddy, and its snapshot's way there (R453, R459) -/

/-- A heat's own remote work: of its restore, or of its snapshot, with the packets not yet answered. -/
def heatRem (s : State) (h : Nat) (snap : Bool) : Remote × Nat :=
  let x := getHeat s h
  if snap then (match x.snap with | some n => (n.rem, n.acks) | none => ({}, 0)) else (x.restart.rem, x.restart.acks)

def setHeatRem (s : State) (h : Nat) (snap : Bool) (m : Remote) (acks : Nat) : State :=
  modHeat s h fun x =>
    if snap then { x with snap := x.snap.map fun n => { n with rem := m, acks := acks } }
    else { x with restart := { x.restart with rem := m, acks := acks } }

def heatOwner (h : Nat) (snap : Bool) (pl : Nat) : TxnOwner := if snap then .snap h pl else .restore h pl

/-- What may be sent of a heat's transfer, sent. -/
def pumpHeat (s : State) (h : Nat) (snap : Bool) : State :=
  let r := heatRem s h snap
  let l := r.1.due (r.1.again.length + r.1.unsent.length)
  l.foldl (fun s k => sendTxn s (heatOwner h snap k.1) k.2) (setHeatRem s h snap (r.1.sent l) r.2)

/-- Packets added to a heat's transfer. -/
def queueHeatPackets (s : State) (h : Nat) (snap : Bool) (l : List (Nat × Packet)) : State :=
  let r := heatRem s h snap
  pumpHeat (setHeatRem s h snap { r.1 with unsent := r.1.unsent ++ l } (r.2 + l.length)) h snap

/-- One packet of a heat's transfer answered. -/
def heatAnswered (s : State) (h : Nat) (snap : Bool) (chip : Nat) (f : Remote → Remote) : State :=
  let r := heatRem s h snap
  pumpHeat (setHeatRem s h snap ((f r.1).heard chip) (r.2 - 1)) h snap

/-- The restore cannot go on: no copy of the lap can be read (R459). -/
def restoreStuck (s : State) (h : Nat) : State :=
  let s := modHeat s h fun x => { x with restart := { x.restart with restoring := false } }
  raise (dset s (hSnap h) 0x10 5) { code := 0x010C, cls := 0, heat := some h }

/-- The headers of the buddy's slots have come: the slot that holds the chosen lap is read (R459). -/
def afterHeaders (s : State) (h : Nat) : State :=
  let r := (getHeat s h).restart
  if r.reading != 1 || r.acks != 0 then s
  else match slotWith s h (r.chosen.getD noLap) with
    | some k =>
      queueHeatPackets (modHeat s h fun x => { x with restart := { x.restart with reading := 2 } }) h false (dataReads s h k)
    | none => restoreStuck (modHeat s h fun x => { x with restart := { x.restart with reading := 0 } }) h

/-! ## Answers -/

/-- READ_RESP. -/
def execReadResp (port : Nat) (p : Packet) (s : State) : Host.Outcome State Fault Refusal :=
  let r := takeAnswer s port { p with kind := kReadResp }
  match r.2 with
  | none => .next r.1
  | some t => match t.owner with
    | .dma q i pl =>
      .next (answered (modFlight r.1 q i fun f => { f with rem := { f.rem with got := (pl, p.data) :: f.rem.got } }) q i t.pkt.dst)
    | .restore h pl =>
      .next (afterHeaders (heatAnswered r.1 h false t.pkt.dst fun m => { m with got := (pl, p.data) :: m.got }) h)
    | .coll .. | .snap .. => .next r.1

/-- ACK. -/
def execAck (port : Nat) (p : Packet) (s : State) : Host.Outcome State Fault Refusal :=
  let r := takeAnswer s port { p with kind := kAck }
  match r.2 with
  | none => .next r.1
  | some t => match t.owner with
    | .dma q i _ => .next (answered r.1 q i t.pkt.dst)
    | .coll h id _ => .next (settleColl r.1 h id)
    | .snap h _ => .next (heatAnswered r.1 h true t.pkt.dst id)
    | .restore .. => .next r.1

/-- The back-off after another HEAT_RESETTING (R333). -/
def nextBackoff (s : State) (b : Nat) : Nat :=
  if b = 0 then dget s 0x2320 4 else min (2 * b) (dget s 0x2320 5)

/-- A packet put back among those to be sent again, in the command's order. -/
def putBack (l : List (Nat × Packet)) (x : Nat × Packet) : List (Nat × Packet) :=
  (l.filter (·.1 < x.1)) ++ [x] ++ l.filter (x.1 < ·.1)

/-- A packet answered with HEAT_RESETTING: kept for another try, with one back-off for each round. -/
def Remote.reset (m : Remote) (s : State) (pl : Nat) (k : Packet) : Remote :=
  let b := if m.retryAt.isSome then m.backoff else nextBackoff s m.backoff
  { m with
    again := putBack m.again (pl, k), holdChips := k.dst :: m.holdChips.filter (· != k.dst), backoff := b
    firstNak := some (m.firstNak.getD s.now), retryAt := some (m.retryAt.getD (s.now + usec b)) }

/-- The timeouts of the transactions that `p` names, begun afresh. -/
def restartTimeouts (s : State) (p : TxnOwner → Bool) : State :=
  { s with txns := s.txns.map fun t => if p t.owner then { t with since := s.now } else t }

def ownedBy (q i : Nat) : TxnOwner → Bool
  | .dma q' i' _ => q' = q && i' = i
  | _ => false

def ownedByHeat (h : Nat) : TxnOwner → Bool
  | .restore h' _ | .snap h' _ => h' = h
  | _ => false

/-- HEAT_RESETTING for a packet of a DMA command. -/
def resetDma (s : State) (q i pl : Nat) (k : Packet) : State :=
  pumpCluster (restartTimeouts (modFlight s q i fun f => { f with rem := f.rem.reset s pl k }) (ownedBy q i)) (queueCluster q)

/-- The same for a packet of a collective. -/
def resetColl (s : State) (h id j : Nat) (k : Packet) : State :=
  let s := modColl s h id fun c =>
    let b := if c.retryAt.isSome then c.backoff else nextBackoff s c.backoff
    { c with
      again := c.again ++ [(j, k)], holdTo := j :: c.holdTo.filter (· != j), backoff := b, firstNak := some (c.firstNak.getD s.now)
      retryAt := some (c.retryAt.getD (s.now + usec b)) }
  restartTimeouts s (ownedByColl h id)

/-- The same for a heat's transfer. -/
def resetHeatPacket (s : State) (h : Nat) (snap : Bool) (pl : Nat) (k : Packet) : State :=
  let r := heatRem s h snap
  restartTimeouts (setHeatRem s h snap (r.1.reset s pl k) r.2) (ownedByHeat h)

/-- A refusing NAK: no further packet is sent (R332). -/
def Remote.refuse (m : Remote) (reason pos : Nat) : Remote :=
  { m with
    refusal := some (m.refusal.getD reason), refusedPos := if m.refusal.isSome then m.refusedPos else pos
    again := [], unsent := [], retryAt := none }

/-- The field that names an access of a DMA command: its list, its source or its destination (R259, R544). -/
def accessPos (pl : Nat) (k : Packet) : Nat :=
  if headPlace ≤ pl then extPos 192 else if k.kind = kReadReq then 448 else 384

/-- A refusing NAK for a DMA command. -/
def refuseDma (s : State) (q i pl reason : Nat) (k : Packet) : State :=
  let s := modFlight s q i fun f =>
    { f with acks := f.acks - 1 - f.rem.again.length - f.rem.unsent.length, rem := f.rem.refuse reason (accessPos pl k) }
  closeRemote (pumpCluster (keepRefusal s k.dst reason ((queueHeat s q).getD 0) k.tag) (queueCluster q)) q i

/-- A NAK for a heat's transfer. -/
def nakHeat (s : State) (h : Nat) (snap : Bool) (pl code : Nat) (k : Packet) : State :=
  if code = nakResetting then resetHeatPacket s h snap pl k
  else
    let r := heatRem s h snap
    setHeatRem (keepRefusal s k.dst code h k.tag) h snap (r.1.refuse code 0)
      (r.2 - 1 - r.1.again.length - r.1.unsent.length)

/-- A NAK for a packet of a collective. -/
def nakColl (s : State) (h id j code : Nat) (k : Packet) : State :=
  match findColl s h id with
  | none => s
  | some c =>
    if code = nakResetting && c.refused.isNone then resetColl s h id j k
    else if code = nakResetting then settleColl s h id
    else settleColl (refuseColl (keepRefusal s k.dst code h k.tag) c code) h id

/-- A NAK for a packet of a DMA command. -/
def nakDma (s : State) (q i pl code : Nat) (k : Packet) : State :=
  match (getQueue s q).flights.find? (·.index = i) with
  | none => s
  | some f =>
    if code != nakResetting then refuseDma s q i pl code k
    else if f.rem.refusal.isSome then answered s q i k.dst
    else resetDma s q i pl k

/-- NAK (R332, R333). -/
def execNak (port : Nat) (p : Packet) (s : State) : Host.Outcome State Fault Refusal :=
  let r := takeAnswer s port { p with kind := kNak }
  match r.2 with
  | none => .next r.1
  | some t => match t.owner with
    | .dma q i pl => .next (nakDma r.1 q i pl p.code t.pkt)
    | .coll h id j => .next (nakColl r.1 h id j p.code t.pkt)
    | .restore h pl => .next (nakHeat r.1 h false pl p.code t.pkt)
    | .snap h pl => .next (nakHeat r.1 h true pl p.code t.pkt)

/-! ## Back-off and timeouts -/

/-- The queue number under which BACKOFF_EXPIRY names a heat's transfer: index 0 its restore, 1 its snapshot. -/
def heatQueueBase : Nat := 2 ^ 18

/-- A back-off of a heat's transfer has passed. -/
def heatBackoff (s : State) (h : Nat) (snap : Bool) : State :=
  let r := heatRem s h snap
  match r.1.retryAt with
  | some t => if s.now < t then s else pumpHeat (setHeatRem s h snap { r.1 with retryAt := none } r.2) h snap
  | none => s

/-- A back-off of a collective has passed: the refused packets again, those after them once one is answered. -/
def collBackoff (s : State) (c : Coll) : State :=
  match c.retryAt with
  | some t =>
    if s.now < t then s
    else
      let s := modColl s c.heat c.id fun c => { c with retryAt := none, again := [] }
      settleColl (c.again.foldl (fun s x => sendTxn s (.coll c.heat c.id x.1) x.2) s) c.heat c.id
  | none => s

/-- A back-off of a DMA command has passed: the refused packets again, those after them once one is answered. -/
def dmaBackoff (s : State) (q i : Nat) : State :=
  match (getQueue s q).flights.find? (·.index = i) with
  | none => s
  | some f => match f.rem.retryAt with
    | some t =>
      if s.now < t then s
      else pumpDma (modFlight s q i fun f => { f with rem := { f.rem with retryAt := none } }) q i
    | none => s

/-- BACKOFF_EXPIRY (R333). -/
def execBackoffExpiry (q i : Nat) (s : State) : Host.Outcome State Fault Refusal :=
  if heatQueueBase ≤ q then .next (heatBackoff s (q - heatQueueBase) (i = 1))
  else match s.colls.find? fun c => c.queue = q && c.index = i with
    | some c => .next (collBackoff s c)
    | none => .next (dmaBackoff s q i)

/-- The retry limit has passed since the first HEAT_RESETTING. -/
def retryOver (s : State) (t : Nat) : Bool := decide (t + ms (dget s 0x2320 6) ≤ s.now)

/-- RESTART_RETRY_LIMIT (R333). -/
def execRestartRetryLimit (q i : Nat) (s : State) : Host.Outcome State Fault Refusal :=
  match s.colls.find? fun c => c.queue = q && c.index = i with
  | some c => match c.firstNak with
    | some t =>
      if retryOver s t then
        let w := collWords s c
        .next (endColl (dropTxns s (ownedByColl c.heat c.id)) c stPeerRestarting w.1 w.2)
      else .next s
    | none => .next s
  | none => match (getQueue s q).flights.find? (·.index = i) with
    | none => .next s
    | some f => match f.rem.firstNak with
      | none => .next s
      | some t =>
        if f.done || !retryOver s t then .next s
        else
          let s := modFlight (dropTxns s (ownedBy q i)) q i fun f =>
            { f with acted := true, acks := 0, late := none, rem := { f.rem with again := [], unsent := [], retryAt := none } }
          .next (finish (pumpCluster s (queueCluster q)) q i stPeerRestarting 0 0)

/-- The heat that sent a transaction's packet. -/
def ownerHeat (s : State) : TxnOwner → Option Nat
  | .dma q _ _ => queueHeat s q
  | .coll h _ _ | .restore h _ | .snap h _ => some h

/-- The room that a transaction of a cluster's DMA engine leaves, used (R314). -/
def pumpOwner (s : State) : TxnOwner → State
  | .dma q _ _ => pumpCluster s (queueCluster q)
  | _ => s

/-- REMOTE_TIMEOUT: a packet with no answer within the remote timeout (R334). -/
def execRemoteTimeout (txn : Nat) (s : State) : Host.Outcome State Fault Refusal :=
  match s.txns.find? fun t => t.id = txn && !t.parked with
  | none => .next s
  | some t =>
    if s.now < t.since + usec (dget s 0x2320 3) then .next s
    else
      .next (raise (pumpOwner { s with txns := dropFirst (fun x => x.id = txn) s.txns } t.owner)
        { code := 0x010D, cls := 2, cause := 7, heat := ownerHeat s t.owner })

end Sys2Proof.Machine
end

