-- ==== Sys2Proof/Machine/Log.lean ====
section
/-! DEFINITION. The event log, EMCY messages and Starter messages of the device (R445, R446, R461, R492 to R496). -/

namespace Sys2Proof.Machine

/-! ## The event log (R492, R493, R495) -/

/-- Bits [2047:32] of an entry as bytes, lowest first. -/
def logBody (s : State) (e : Event) (seq flags : Nat) : List Byte :=
  let d := fitBytes 220 e.detail
  d ++ bytesOf 32 (flags * 2 ^ 8 + e.unitKind * 2 ^ 16 + e.unit % 2 ^ 16 * 2 ^ 24 + (e.heat.getD 0xFF) * 2 ^ 40 +
      e.code * 2 ^ 48 + e.cause * 2 ^ 64 + e.cls * 2 ^ 72 + poweredHour s % 2 ^ 32 * 2 ^ 80 +
      e.phase % 2 ^ 32 * 2 ^ 112 + e.lap % 2 ^ 48 * 2 ^ 144 + seq * 2 ^ 192)

/-- An entry's 2,048 bits. -/
def logWord (s : State) (e : Event) (seq flags : Nat) : Nat :=
  let b := logBody s e seq flags
  natOfBytes b * 2 ^ 32 + crc32 b

/-- A default CAN identifier of CiA 1301: a service's base with the node-ID (PRESUMED, log entry 125). -/
def canId (s : State) (base : Nat) : Nat := base + s.canNode

/-- A CAN message sent, which a node in bus-off cannot (R535). -/
def sendCan (s : State) (base : Nat) (kind : String) (data : List Byte) : State :=
  if s.busOff then s else emit s (.can (canId s base) kind data)

/-- The boot-up message (R475). -/
def bootUp (s : State) : State := sendCan s 0x700 "boot-up" [0#8]

/-- One EMCY message (R495), where CAN communication is not stopped. -/
def emcy (s : State) (e : Event) (seq : Nat) : State :=
  if dget s 0x2700 5 ≤ e.cls && s.canState != 4 && !s.busOff then
    emit s (.emcy (canId s 0x80) (0xFF00 + e.cls) (bytesOf 2 e.code ++ bytesOf 1 e.cause ++ bytesOf 1 (e.heat.getD 0xFF) ++ bytesOf 4 (seq % 2 ^ 32)))
  else s

/-- Events since the last full memory test that rule out the abbreviated one (R413). -/
def spoilsTest (e : Event) : Bool := e.code = 0x0203 || e.code = 0x0202

/-- An event logged and counted; `flags` are bits [1:0] of the entry's. -/
def logEvent (s : State) (e : Event) (flags : Nat) : State :=
  let held := s.writing.isSome
  let seq := s.logNext
  let w := logWord s e seq (flags + 4 * b2n held)
  let s := { s with
    log := ({ seq := seq, word := w, flash := !held } :: s.log).take 65536
    logNext := seq + 1
    lastMinor := if e.cls ≤ 1 then some s.now else s.lastMinor
    sinceTest := s.sinceTest || spoilsTest e }
  let s := domPut s 0x2D60 1 40 8 e.cls (min (domNum s 0x2D60 1 8 e.cls + 1) (2 ^ 64 - 1))
  emcy s e seq

/-- An event logged as it is detected, where its handling is the step itself. -/
def logNow (s : State) (e : Event) (flags : Nat) : State := logEvent s (stampEvent s e) flags

def newestSeq (s : State) : Nat := match s.log with | r :: _ => r.seq | [] => 0
def oldestSeq (s : State) : Nat := match s.log.getLast? with | some r => r.seq | none => 0

/-! ## Starter messages -/

def rightSubmit : Nat := 0
def rightStatus : Nat := 1
def rightSnapshot : Nat := 2
def rightServe : Nat := 3
def rightPlan : Nat := 4

def getSession (s : State) (n : Nat) : Option Session := (s.sessions.find? (·.1 = n)).map (·.2)

/-- A message: type, no flags, request number, body (R384). -/
def messageOf (kind req : Nat) (body : List Byte) : List Byte := bytesOf 2 kind ++ zeros 2 ++ bytesOf 4 req ++ body

/-- The nonce of a record: the IV base XOR the record's sequence number under R22 (R384). -/
def nonceOf (iv : List Byte) (seq : Nat) : List Byte := List.zipWith (· ^^^ ·) (fitBytes 12 iv) (bytesOf 12 seq)

/-- The record that carries a message of the device: HELLO_REPLY in clear, every later one sealed (R384); the secrets hold the two
keys and then the two IV bases, client to device first (DEDUCED, log entry 109). -/
def recordOf (x : Session) (kind : Nat) (m : List Byte) : List Byte :=
  let b := if kind = 2 then m
    else Config.aesGcm (sliceBytes x.secrets 32 32) (nonceOf (sliceBytes x.secrets 76 12) x.recsOut) m
  bytesOf 4 b.length ++ b

/-- Records of a session in one direction. -/
def maxRecords : Nat := 2 ^ 32

/-- A message of the device on a session: one more record, while any is left (R384). -/
def sendStarter (s : State) (n kind req : Nat) (body : List Byte) : State :=
  match getSession s n with
  | none => s
  | some x =>
    if x.recsOut ≥ maxRecords then s
    else
      emit { s with sessions := tabSet { eth := 2 } s.sessions n { x with recsOut := x.recsOut + 1 } }
        (.starter n kind req body (segments s x.eth (recordOf x kind (messageOf kind req body))))

/-- A record of the client taken: the session is not idle (R384, R385). -/
def touchSession (s : State) (n : Nat) : State :=
  match getSession s n with
  | some x => { s with sessions := tabSet { eth := 2 } s.sessions n { x with last := s.now, recsIn := x.recsIn + 1 } }
  | none => s

def msgStatus : Nat := 0x21
def msgJobEvent : Nat := 0x31
def msgTokens : Nat := 0x41
def msgServeEnd : Nat := 0x42
def msgClose : Nat := 0x7E
def msgResult : Nat := 0x7F

/-- RESULT (R386). -/
def sendResult (s : State) (n req result detail : Nat) : State :=
  sendStarter s n msgResult req (bytesOf 1 result ++ bytesOf 4 detail)

def resOk : Nat := 0
def resPlanRejected : Nat := 1
def resDictAbort : Nat := 2
def resRights : Nat := 3
def resBusy : Nat := 4
def resBadMessage : Nat := 5
def resImageDigest : Nat := 6
def resStartFailed : Nat := 7
def resMemoryError : Nat := 8

/-- The open sessions with a right. -/
def sessionsWith (s : State) (right : Nat) : List Nat :=
  (s.sessions.filter fun x => x.2.stage = 2 && bitOf x.2.rights right).map (·.1)

/-- JOB_EVENT on every session whose key holds the STATUS right (R461). -/
def jobEvent (s : State) (h event chip : Nat) (lap : Nat) : State :=
  let b := bytesOf 4 (heatTag s h) ++ bytesOf 1 event ++ bytesOf 2 chip ++ bytesOf 2 (getHeat s h).restart.no ++ bytesOf 6 lap
  (sessionsWith s rightStatus).foldl (fun s n => sendStarter s n msgJobEvent 0 b) s

def jeBegun : Nat := 1
def jeSpare : Nat := 2
def jeRestored : Nat := 3
def jeNoSnapshot : Nat := 4
def jeResumed : Nat := 5

/-- The answer to a request that a path carried (R474). -/
def reply (s : State) (path : Path) (abort : Nat) (value : List Byte) : State :=
  match path with
  | .starter n req => sendResult s n req (if abort = 0 then resOk else resDictAbort) abort
  | .can c => emit s (.usdo (canId s 0x580) c abort value.length value)
  | _ => emit s (.dict path abort value)

end Sys2Proof.Machine
end

