-- ==== Sys2Proof/Machine/Measure.lean ====
section
/-! DEFINITION. Measurement records (R509): what the device attests of its firmware, fuses, straps, test access and heats. -/

namespace Sys2Proof.Machine

/-- Random bytes: free values. -/
def drawBytes (s : State) (n : Nat) : List Byte × State := freeBytes s n

/-- The first 32 bytes of a SHAKE256 digest. -/
def digest32 (l : List Byte) : List Byte := fitBytes 32 (Config.shake256 l 32)

/-- A measurement record's 48 bytes. -/
def measureRecord (s : State) (subject change : Nat) (d : List Byte) : List Byte :=
  bytesOf 48 (natOfBytes d * 2 ^ 128 + (if linksUp s then s.lap % 2 ^ 48 else 0) * 2 ^ 80 + change % 2 ^ 32 * 2 ^ 48 +
    subject * 2 ^ 40)

/-- A subject's record replaced: the change count rises by 1. -/
def putMeasure (s : State) (subject : Nat) (d : List Byte) : State :=
  let c := (dget s 0x2A00 7 + 1) % 2 ^ 32
  let s := dset s 0x2A00 7 c
  { s with measures := (s.measures.filter (·.1 != subject)) ++ [(subject, measureRecord s subject c d)] }

def measure (s : State) (subject : Nat) (l : List Byte) : State := putMeasure s subject (digest32 l)

/-- The entries of an index with an access, in sub-index order, as bytes. -/
def entriesOf (s : State) (i : Nat) (a : Acc) : List Byte :=
  (dictTable.filter fun e => e.index ≤ i && i < e.index + e.count && e.acc = a).flatMap fun e => entryBytes s e i

/-- Everything measured of a heat but its salt. -/
def heatConfigBytes (s : State) (h : Nat) : List Byte :=
  [hCfg h, hColl h, hSnap h, 0x2440 + h].flatMap fun i => entriesOf s i .rws

/-- The image digests of a heat's plan. -/
def planDigests (s : State) (h : Nat) : List Byte :=
  match heatPlan s (heatTag s h) with
  | some p => p.images.flatMap fun x => fitBytes 32 x.digest
  | none => []

/-- A heat measured at START, with a salt drawn (R509). -/
def measureHeat (s : State) (h : Nat) : State :=
  let r := drawBytes s 32
  let s := modHeat r.2 h fun x => { x with salt := r.1 }
  measure s (4 + h) (heatConfigBytes s h ++ planDigests s h ++ r.1 ++ bytesOf 8 (heatSeed s h))

/-- A heat that is gone: all zeros. -/
def unmeasureHeat (s : State) (h : Nat) : State :=
  putMeasure (modHeat s h fun x => { x with salt := [] }) (4 + h) (zeros 32)

/-- Every fuse-map entry, in sub-index order (subject 1). -/
def fuseBytes (s : State) : List Byte :=
  (dictTable.filter fun e => e.index = 0x2C00 && e.sub != 0).flatMap fun e => entryBytes s e 0x2C00

/-- Test access: lock state, selects and the accepted token's body (subject 3). -/
def measureTest (s : State) : State :=
  measure s 3 (bytesOf 1 (dget s 0x2B00 1) ++ domRead s 0x2B00 5 ++ bytesOf 2 (dget s 0x2B00 6) ++ s.token.take 64)

end Sys2Proof.Machine
end

