-- ==== Sys2Proof/Machine/Heats.lean ====
section
/-! DEFINITION. Heats: creation, stop, resume and release (R237 to R245, R320, R327). -/

namespace Sys2Proof.Machine

/-! ## States (R239) -/

/-- A heat's state changed and logged (R494). -/
def setHState (s : State) (h : Nat) (st : HState) : State :=
  let old := (getHeat s h).st
  raise (modHeat s h fun x => { x with st := st })
    { code := 0x0701, cls := 0, heat := some h, detail := bytesOf 1 h ++ bytesOf 1 old.code ++ bytesOf 1 st.code ++ bytesOf 4 0 }

/-! ## Creation checks (R240) -/

/-- Check 1. -/
def clustersFree (s : State) (h : Nat) : Bool :=
  (heatClusters s h).all fun c => clusterActive s c && (match clusterHeat s c with | none => true | some k => k == h)

/-- Ranges of a list, pairwise apart. -/
def apart : List (Nat × Nat) → Bool
  | [] => true
  | r :: l => l.all (fun q => !overlaps r.1 r.2 q.1 q.2) && apart l

/-- Check 2, against the heats that `other` names. -/
def rangesFit (s : State) (h : Nat) (l : List (Nat × Nat)) (other : Nat → Bool) : Bool :=
  (l.all fun r => r.1 + r.2 ≤ stackTop s) && apart l &&
    (List.range heatCount).all fun k => k = h || !other k ||
      (heatRanges s k).all fun q => l.all fun r => !overlaps r.1 r.2 q.1 q.2

/-- Check 3. -/
def holdFits (s : State) (h : Nat) : Bool := dget s (hCfg h) 8 ≤ dget s (hCfg h) 7 * 0x200000

/-- Check 4. -/
def areasFit (s : State) (h : Nat) : Bool :=
  let c := hCfg h
  let k := dget s c 0x12
  let n := dget s c 0x10
  inHeat s h (dget s c 0x0A) (64 * dget s c 0x0B) && inHeat s h (dget s c 0x0C) (64 * 4096) &&
    inHeat s h (dget s c 0x0F) (64 * n) && inHeat s h (dget s c 0x11) (16 * n) &&
    decide (k < 576) && decide (k % 9 < 8) && bitOf (dget s c 3) (slotCluster k) &&
    (match tagHeat s (heatTag s h) with | none => true | some x => x == h)

/-- Check 5 (R320): every port that the heat's plan names REQUIRED is ADMITTED. -/
def discoveryOk (s : State) (h : Nat) : Bool :=
  heatTag s h = 0 ||
    match heatPlan s (heatTag s h) with
    | none => false
    | some p => p.ports.all fun x => x.optional || planState s x.port = 1

def abCreation (n : Nat) : Nat := 0x08000030 + n

/-- Checks 1 to 4: the abort code of the first that fails, or 0; check 1 is left out of ABANDON (R461). -/
def creationFault (s : State) (h : Nat) (first : Bool) : Nat :=
  if first && !clustersFree s h then abCreation 1
  else if !rangesFit s h (heatRanges s h) (fun _ => true) then abCreation 2
  else if !holdFits s h then abCreation 3
  else if !areasFit s h then abCreation 4
  else 0

/-! ## Setting a heat up (R139, R233, R240, R247, R369) -/

/-- The default trouble policy as an entry (R114, R117). -/
def defaultPolicy (s : State) : Nat :=
  let d (i : Nat) : Nat := dget s 0x2610 i
  d 9 * 2 ^ 112 + d 8 * 2 ^ 102 + d 6 * 2 ^ 100 + d 7 * 2 ^ 88 + d 5 * 2 ^ 64 + d 4 * 2 ^ 48 + d 3 * 2 ^ 32 + d 2 * 2 ^ 16 + d 1

/-- The logical cores of a heat. -/
def heatCores (s : State) (h : Nat) : List Nat :=
  (heatClusters s h).flatMap fun c => (List.range 8).map fun i => 9 * c + i

/-- A core with all vector state zero, nothing running and nothing of earlier fills remembered (R139). -/
def freshCore (c : Core) : Core :=
  { c with log := [], waiting := [], prev := none, vec := {}, ctl := none, irqs := 0, a0 := 0, loaded := 0 }

/-- The caches invalid, the scratch zero, the cluster's engines empty (R233). -/
def freshCluster (s : State) (h c : Nat) : State :=
  let s := modCluster s c fun x => { x with
    holds := [], lines := [], prefetch := [none, none, none, none], streams := [none, none, none, none], windows := [] }
  zeroRange s (scratchAddr c 0) (dget s (hCfg h) 7 * 0x200000)

def freshUnits (s : State) (h : Nat) : State :=
  let s := (heatCores s h).foldl (fun s k => modCore s k freshCore) s
  (heatClusters s h).foldl (fun s c => freshCluster s h c) s

/-- Every queue of a heat gone to its disabled state. -/
def dropQueues (s : State) (h : Nat) : State :=
  { s with queues := s.queues.filter fun x => !bitOf (dget s (hCfg h) 3) (queueCluster x.1) }

/-- The queue that a heat begins with. -/
def initialQueue (s : State) (h : Nat) : Nat := ((heatClusters s h).headD 0) * 4096

/-- The initial queue configured (R240). -/
def setInitialQueue (s : State) (h : Nat) : State :=
  setQueue s (initialQueue s h)
    { enabled := true, cls := 6, slot := dget s (hCfg h) 0x12, log2 := Nat.log2 (dget s (hCfg h) 0x10)
      ring := dget s (hCfg h) 0x0F, cpl := dget s (hCfg h) 0x11 }

/-- The collective engine's state of a heat emptied (R363, R369). -/
def freshCollective (s : State) (h : Nat) : State :=
  let s := { s with
    colls := s.colls.filter (·.heat != h), early := s.early.filter (·.tag != heatTag s h)
    allocs := s.allocs.filter (·.heat != h), poolHead := tabSet 0 s.poolHead h 0 }
  dset (dset (modHeat s h fun x => { x with retained := [] }) (hColl h) 4 0) (hColl h) 5 0

/-- The statistics and snapshot entries that begin at the heat's start. -/
def freshStats (s : State) (h : Nat) : State :=
  let s := (List.range 8).foldl (fun s i => dset s (hStat h) (i + 1) 0) s
  let s := dset (dset (dset s (hColl h) 6 0) (hColl h) 7 0) (hCfg h) 0x13 0
  dset (domSet s (hSnap h) 0x0F (List.replicate 24 0xFF#8)) (hSnap h) 0x10 0

/-- The layer statistics area at zero: its counts run from the heat's creation (R135). -/
def freshLayers (s : State) (h : Nat) : State := zeroStack s (dget s (hCfg h) 0x0C) (64 * 4096)

/-- What creation sets up, and ABANDON again, queues apart (R240). -/
def setUpHeat (s : State) (h : Nat) : State :=
  let s := modHeat s h fun x => { x with
    contained := stillContained s h, policyInit := defaultPolicy s, policies := [], layers := [], coef := [], ledger := [], norms := []
    recs := [], troubleSeq := 0, lastStep := 0, regions := [], snap := none, snapHeld := false, lastSnapLap := none
    take := none, snapCount := 0, fencedLap := none, restart := {}, ringBad := [false, false, false], stDone := none }
  freshLayers (freshStats (freshCollective (dropQueues (freshUnits s h) h) h) h) h

/-- The plan's `initial_tail` rung and the JOB_START answered, once the heat is RUNNING (R390). -/
def afterStart (s : State) (h : Nat) : State :=
  match (getHeat s h).starter with
  | none => s
  | some (n, req) =>
    let tail := match heatPlan s (heatTag s h) with
      | some p => p.tail
      | none => ((s.plans.find? fun x => !x.plan.transit && x.plan.heat = h).map (·.plan.tail)).getD 0
    let s := (ringDoorbell s .mgmt (initialQueue s h) tail).1
    sendResult (modHeat s h fun x => { x with starter := none }) n req resOk 0

/-- A creation that passes: the heat is set up and RUNNING. -/
def createHeat (s : State) (h : Nat) : State :=
  afterStart (setHState (setInitialQueue (setUpHeat s h) h) h .running) h

/-- START: the state and the abort code (R240, R403). -/
def startHeat (s : State) (h : Nat) : State × Nat :=
  if (getHeat s h).st != .free || bootStage s != bsReady then (s, abState)
  else
    let ab := creationFault s h true
    if ab != 0 then
      (raise s { code := 0x0702, cls := 0, heat := some h, detail := bytesOf 1 h ++ bytesOf 1 0 ++ bytesOf 1 0 ++ bytesOf 4 ab }, ab)
    else
      let s := measureHeat (setHState (modHeat { s with extest := none } h fun x => { x with claim := none }) h .starting) h
      let s := { s with plans := s.plans.map fun x =>
        if !x.plan.transit && x.plan.heat = h then { x with started := true } else x }
      (if discoveryOk s h then createHeat s h else s, 0)

/-! ## STOP, RESUME, RELEASE -/

def stopHeat (s : State) (h : Nat) : State × Nat :=
  if (getHeat s h).st = .running then (setHState s h .stopping, 0) else (s, abState)

def resumeHeat (s : State) (h : Nat) : State × Nat :=
  if (getHeat s h).st = .stopped then (setHState s h .running, 0) else (s, abState)

/-- RELEASE: queues disabled, caches invalid; the zeroing goes on until RELEASE_COMPLETE (R242). -/
def releaseHeat (s : State) (h : Nat) : State × Nat :=
  if (getHeat s h).st != .stopped then (s, abState)
  else
    let s := dropQueues s h
    let s := (heatClusters s h).foldl (fun s c => modCluster s c fun x => { x with lines := [] }) s
    (unmeasureHeat (setHState s h .releasing) h, 0)

/-- A heat control value (0x2500 + h:02). -/
def heatControl (s : State) (h v : Nat) : State × Nat :=
  match v with
  | 1 => startHeat s h
  | 2 => stopHeat s h
  | 3 => resumeHeat s h
  | 4 => releaseHeat s h
  | _ => (s, abRange)

/-- R386 and R389 for HEAT_CONTROL on a session: the result and detail of a refusal. -/
def sessionRefusal (s : State) (path : Path) (h right : Nat) : Option (Nat × Nat) :=
  match path with
  | .starter n _ => match getSession s n with
    | some x =>
      if !bitOf x.rights right then some (resRights, 0)
      else match (getHeat s h).claim with
        | some m => if m = n then none else some (resBusy, 1)
        | none => none
    | none => some (resRights, 0)
  | _ => none

/-- A heat control by any path, answered. -/
def controlBy (path : Path) (h v : Nat) (s : State) : State :=
  let s := match path with | .starter n _ => touchSession s n | _ => s
  match sessionRefusal s path h rightSubmit, path with
  | some (r, d), .starter n req => sendResult s n req r d
  | _, _ =>
    if !dictAnswers s then s
    else if heatCount ≤ h || bootStage s = bsRecovery then reply s path abNoObject []
    else
      let r := heatControl s h v
      if entryBusy s path (hCfg h) 2 && r.2 != abRange then reply s path abBusy [] else reply r.1 path r.2 []

/-- START. -/
def execStart (path : Path) (heat : Nat) (s : State) : Host.Outcome State Fault Refusal :=
  .next (controlBy path heat 1 s)

/-- STOP. -/
def execStop (path : Path) (heat : Nat) (s : State) : Host.Outcome State Fault Refusal :=
  .next (controlBy path heat 2 s)

/-- RESUME. -/
def execResume (path : Path) (heat : Nat) (s : State) : Host.Outcome State Fault Refusal :=
  .next (controlBy path heat 3 s)

/-- RELEASE. -/
def execRelease (path : Path) (heat : Nat) (s : State) : Host.Outcome State Fault Refusal :=
  .next (controlBy path heat 4 s)

/-- DISCOVERY_MATCH: a heat that waits in STARTING finds its plan's ports ADMITTED (R320). -/
def execDiscoveryMatch (heat : Nat) (s : State) : Host.Outcome State Fault Refusal :=
  .next (if (getHeat s heat).st = .starting && discoveryOk s heat then createHeat s heat else s)

/-- Commands of a heat that have started and have no record yet. -/
def inFlight (s : State) (h : Nat) : Bool :=
  s.queues.any fun x => bitOf (dget s (hCfg h) 3) (queueCluster x.1) && x.2.flights.any (·.started)

/-- STOP_COMPLETE: the last command in flight has completed. -/
def execStopComplete (heat : Nat) (s : State) : Host.Outcome State Fault Refusal :=
  .next (if (getHeat s heat).st = .stopping && !inFlight s heat then setHState s heat .stopped else s)

/-! ## Installed plans -/

/-- The ports that plans named send a record within a lap (R318), and every port's plan state follows (R319). -/
def plansChanged (s : State) (l : List PlanPort) : State :=
  updatePlans (l.foldl (fun s x => modPort s x.port fun y => { y with owes := true }) s)

/-- 0x2320:01. -/
def plansRecord (s : State) : State :=
  domSet s 0x2320 1 (s.plans.flatMap fun x =>
    bytesOf 4 x.plan.tag ++ bytesOf 4 x.plan.epoch ++ bytesOf 1 (b2n x.plan.transit) ++ zeros 3)

/-- The connections and storage work of a heat, dropped with its targets. -/
def dropStorage (s : State) (h : Nat) : State :=
  domSet { s with
    conns := s.conns.filter (·.heat != h), nvmes := s.nvmes.filter (·.heat != h)
    storeReqs := s.storeReqs.filter (·.heat != h), serves := s.serves.filter (·.heat != h) } (0x2440 + h) 0x0A []

/-- What heats lose with HEAT plans that go: their storage targets, and the section that names them (R394). -/
def dropTargets (s : State) (l : List Installed) : State :=
  (l.filter fun x => !x.plan.transit).foldl (fun s x => dropStorage s x.plan.heat) s

/-- The plans that `p` names, removed. -/
def removePlans (s : State) (p : Installed → Bool) : State :=
  let gone := s.plans.filter p
  plansChanged (plansRecord (dropTargets { s with plans := s.plans.filter fun x => !p x } gone)) (gone.flatMap fun x => x.plan.ports)

/-- The HEAT plan of a heat removed with it. -/
def removeHeatPlan (s : State) (h : Nat) : State :=
  dropStorage (removePlans s fun x => !x.plan.transit && x.plan.heat = h) h

/-- RELEASE_COMPLETE: every byte of the ranges and the scratch is zero; the heat is FREE (R242). -/
def execReleaseComplete (heat : Nat) (s : State) : Host.Outcome State Fault Refusal :=
  if (getHeat s heat).st != .releasing then .next s
  else
    let s := (heatRanges s heat).foldl (fun s r => zeroStack s r.1 r.2) s
    let s := freshUnits s heat
    let s := modHeat (setHState s heat .free) heat fun x => { st := x.st }
    .next (removeHeatPlan s heat)

end Sys2Proof.Machine
end

