-- ==== Sys2Proof/Machine/Notices.lean ====
section
/-! DEFINITION. Job notices and what a heat does when it enters RESTARTING (R245, R369, R383, R455 to R458). -/

namespace Sys2Proof.Machine

/-! ## Notices (R455) -/

def ctlNotice : Nat := 5

def nkFault : Nat := 1
def nkInventory : Nat := 2
def nkRestore : Nat := 3
def nkRestored : Nat := 4
def nkResume : Nat := 5
def nkNoSnapshot : Nat := 6

def noticeBody (n : Notice) : List Byte :=
  bytesOf 32 (n.tag % 2 ^ 32 * 2 ^ 224 + n.origin % 2 ^ 16 * 2 ^ 208 + n.kind % 2 ^ 8 * 2 ^ 200 +
    (b2n n.onBehalf + 2 * b2n n.voidWard) * 2 ^ 192 + n.seq % 2 ^ 16 * 2 ^ 176 + n.subject % 2 ^ 16 * 2 ^ 160 +
    n.lapA % 2 ^ 48 * 2 ^ 112 + n.lapB % 2 ^ 48 * 2 ^ 64 + n.restartNo % 2 ^ 16 * 2 ^ 48 + n.cls % 2 ^ 8 * 2 ^ 40 +
    n.cause % 2 ^ 8 * 2 ^ 32)

/-- A notice on every admitted port that a plan of its tag names, but the one it came by. -/
def spread (s : State) (n : Notice) (from_ : Option Nat) : State :=
  ((List.range portCount).filter fun p => some p != from_ && (planPort s n.tag p).isSome && trained s p && planState s p = 1).foldl
    (fun s p => sendCtrl s p ctlNotice (noticeBody n)) s

/-- Whether a notice was seen in the last 1,024 laps. -/
def noticeSeen (s : State) (n : Notice) : Bool :=
  s.notices.any fun x => x.1 = n.origin && x.2.1 = n.kind && x.2.2.1 = n.seq && s.lapStarts ≤ x.2.2.2 + 1024

def seeNotice (s : State) (n : Notice) : State :=
  { s with notices := ((n.origin, n.kind, n.seq, s.lapStarts) :: s.notices).take 4096 }

def modRestart (s : State) (h : Nat) (f : Restart → Restart) : State :=
  modHeat s h fun x => { x with restart := f x.restart }

/-- A notice of this device for a heat, counted, remembered and spread. -/
def sendNotice (s : State) (h : Nat) (n : Notice) : State × Notice :=
  let n := { n with tag := heatTag s h, origin := ownChip s, seq := (s.noticeSeq + 1) % 2 ^ 16 }
  let s := { s with noticeSeq := s.noticeSeq + 1 }
  (spread (seeNotice s n) n none, n)

/-- A notice of a kind with nothing filled in. -/
def blankNotice (s : State) (h kind : Nat) : Notice :=
  { tag := 0, origin := 0, kind := kind, onBehalf := false, voidWard := false, seq := 0, subject := ownChip s, lapA := 0, lapB := 0
    restartNo := (getHeat s h).restart.no, cls := 0, cause := 0 }

/-! ## The lead (R458) -/

/-- This device leads the restart: it is named, or it acts for the one named. -/
def leads (s : State) (h : Nat) : Bool :=
  ownChip s = dget s (hSnap h) 0x0B || (getHeat s h).restart.acting

def jobMembers (s : State) (h : Nat) : Nat := dget s (hSnap h) 0x0C

/-- An INVENTORY report kept. -/
def addReport (s : State) (h : Nat) (n : Notice) : State :=
  modRestart s h fun r => { r with
    reports := r.reports ++ [{ no := n.restartNo, subject := n.subject, sender := n.origin, onBehalf := n.onBehalf
                               lapA := n.lapA, lapB := n.lapB }] }

/-- The members a report stands for. -/
def subjects (r : Restart) : List Nat := (r.reports.map (·.subject)).eraseDups

/-- Whether a lap is reported for a member. -/
def holdsLap (r : Restart) (m lap : Nat) : Bool :=
  r.reports.any fun x => x.subject = m && (x.lapA = lap || x.lapB = lap)

/-- The largest lap that every member holds. -/
def commonLap (r : Restart) : Option Nat :=
  ((r.reports.flatMap fun x => [x.lapA, x.lapB]).filter fun l => l != noLap && (subjects r).all fun m => holdsLap r m l).foldl
    (fun b l => some (match b with | some m => max m l | none => l)) none

/-- Members reported by their holders alone. -/
def lostMembers (r : Restart) : List Nat :=
  (subjects r).filter fun m => r.reports.all fun x => x.subject != m || x.onBehalf

/-! ## Entering RESTARTING (R245, R369, R383) -/

/-- The words of a command abandoned: a collective's as far as it has come (R347), none of any other (R259). -/
def abandonedWords (s : State) (q : Nat) (f : Flight) : Nat × Nat :=
  if !isColl f.opcode then (0, 0)
  else match s.colls.find? fun c => c.queue = q && c.index = f.index with
    | some c => collWords s c
    | none => (f.wordA, f.wordB)

/-- The flights of a queue abandoned: those that have started get a record, and `HEAD` passes them. -/
def abandonQueue (s : State) (h st q : Nat) : State :=
  let x := getQueue s q
  let l := x.flights.filter (·.started)
  let s := l.foldl (fun s f =>
    let w := abandonedWords s q f
    let f := { f with status := pickStatus st f.status, wordA := w.1, wordB := w.2 }
    countRecord (writeRecord s x f) h f.status) s
  let s := modCore s x.slot fun c => { c with irqs := c.irqs + (l.filter fun f => dIrq f.desc).length }
  let x := l.foldl (fun x f => retire x f []) x
  setQueue s q { x with enabled := false, headCmd := none, flights := [], waitsTime := false, paceHeld := false }

/-- A core whose program and vector engine stop. -/
def haltCore (c : Core) : Core :=
  { c with prev := none, ctl := none, vec := { c.vec with blocks := [], pc := none, busy := false } }

/-- The engines of a cluster without the heat's commands. -/
def haltCluster (c : Cluster) : Cluster :=
  { c with prefetch := [none, none, none, none], streams := [none, none, none, none], windows := [], underTest := none }

/-- Remote packets of a heat's transactions forgotten. -/
def ownerIs (s : State) (h : Nat) (o : TxnOwner) : Bool := ownerHeat s o = some h

/-- Held contributions of other devices, answered and discarded (R227, R335). -/
def refuseHeld (s : State) (h : Nat) : State :=
  let mine (x : Nat × Packet) : Bool := x.2.tag = heatTag s h
  let l := s.heldMem.filter mine
  l.foldl (fun s x => sendNak s x.2 nakResetting) { s with heldMem := s.heldMem.filter fun x => !mine x }

/-- What a heat abandons (R245). `st` is the status of what has started. -/
def abandonHeatWork (s : State) (h st : Nat) : State :=
  let s := (heatQueues s h).foldl (fun s q => abandonQueue s h st q) s
  let s := (heatCores s h).foldl (fun s k => modCore s k haltCore) s
  let s := (heatClusters s h).foldl (fun s c => modCluster s c haltCluster) s
  let s := { s with txns := s.txns.filter fun t => !ownerIs s h t.owner }
  let s := refuseHeld s h
  let s := freshCollective s h
  let s := { s with
    nvmes := (s.nvmes.filter fun n => n.heat != h || n.sent).map fun n => if n.heat = h then { n with orphan := true } else n
    storeReqs := s.storeReqs.filter (·.heat != h) }
  let s := setSnapLap s h 1 none
  modHeat s h fun x => { x with
    contained := false, stDone := none, regions := x.regions.map fun r => { r with closed := true, contribs := [] }, snap := none }

/-- A heat gone to RESTARTING with a restart number (R456); what faulted first is kept. -/
def enterRestarting (s : State) (h no origin cls cause : Nat) (fenced : Bool) : State :=
  let x := getHeat s h
  let s := abandonHeatWork s h (if fenced then stFenced else stHeatRestarting)
  let s := if x.st = .restarting then s
    else setHState (modHeat s h fun y => { y with atFault := y.st }) h .restarting
  let s := modHeat s h fun y => { y with
    restart :=
      { no := no % 2 ^ 16, startLap := s.lapStarts, origin := origin, cls := cls, cause := cause
        reports := x.restart.reports.filter (·.no = no % 2 ^ 16) } }
  dset s (hSnap h) 0x10 1

/-- The laps a member can restore, newest first (R456): its own copy's, unless the device was fenced since, and its buddy
slots'. -/
def ownLaps (s : State) (h : Nat) : List Nat :=
  let f := (getHeat s h).fencedLap
  let own := match snapLap s h 0 with
    | some l => if (match f with | some g => decide (l ≤ g) | none => false) then [] else [l]
    | none => []
  own ++ (snapLap s h 2).toList ++ (snapLap s h 3).toList

/-- Two newest of a list, `noLap` where there are fewer. -/
def newestTwo (l : List Nat) : Nat × Nat :=
  let a := l.foldl (fun b x => if b = noLap || x > b then x else b) noLap
  let l := l.filter (· != a)
  (a, l.foldl (fun b x => if b = noLap || x > b then x else b) noLap)

/-! ## Ward slots (R457) -/

/-- Bytes of one ward slot: the ward area shared among the slots that the first slot's header names. -/
def wardSlotBytes (s : State) (h : Nat) : Nat :=
  let v := readNat s (dget s (hSnap h) 9) 64
  dget s (hSnap h) 0x12 / (if bitsOf v 511 480 = snapMagic then max 1 (bitsOf v 415 400) else 1)

/-- The laps of the ward's whole slots, of which none was written before a fence of this device. -/
def wardLaps (s : State) (h : Nat) : List Nat :=
  let n := wardSlotBytes s h
  let f := (getHeat s h).fencedLap
  (List.range 2).filterMap fun k =>
    if n = 0 || dget s (hSnap h) 0x12 < (k + 1) * n then none
    else match headerLap (readNat s (dget s (hSnap h) 9 + k * n) 64) with
      | some l => if (match f with | some g => decide (l ≤ g) | none => false) then none else some l
      | none => none

end Sys2Proof.Machine
end

