-- ==== Sys2Proof/Machine/Faults.lean ====
section
/-! DEFINITION. Job restarts, fences, lost devices and the event queue's handling (R442 to R449, R455 to R461). -/

namespace Sys2Proof.Machine

/-! ## The restore (R459) -/

/-- The own copy stands for a lap: its header says so and no fence came since. -/
def ownHolds (s : State) (h lap : Nat) : Bool :=
  headerLap (readNat s (ownArea s h) 64) = some lap &&
    (match (getHeat s h).fencedLap with | some g => decide (g < lap) | none => true)

/-- Reading from the buddy begins with the headers of its slots; a heat without a buddy is stuck. -/
def restoreFromBuddy (s : State) (h : Nat) : State :=
  if buddyChip s h = 0 then restoreStuck s h
  else
    let s := modRestart s h fun r => { r with fromBuddy := true, reading := 1 }
    queueHeatPackets s h false (headerReads s h)

/-- A member told to restore a lap: from its own area, or from its buddy (R459). -/
def beginRestore (s : State) (h lap : Nat) : State :=
  let s := modRestart (dset s (hSnap h) 0x10 2) h fun r => { r with chosen := some lap, restoring := true }
  if !ownHolds s h lap then restoreFromBuddy s h
  else
    let r := checkRead s (ownArea s h) (headBytes + snapBytes s h)
    if r.2 then r.1 else restoreFromBuddy r.1 h

/-- What a notice has a heat do, in states that a restart can begin from. -/
def canRestart (s : State) (h : Nat) : Bool :=
  match (getHeat s h).st with
  | .running | .stopping | .stopped | .restarting => true
  | _ => false

/-- RESTORE at a member (R459): a heat that has not joined the restart joins it. -/
def actRestore (s : State) (h : Nat) (n : Notice) : State :=
  let r := (getHeat s h).restart
  if !canRestart s h || n.restartNo < r.no then s
  else if r.no = n.restartNo then
    if (getHeat s h).st = .restarting && r.chosen.isNone then beginRestore s h n.lapA else s
  else beginRestore (enterRestarting s h n.restartNo n.origin n.cls n.cause false) h n.lapA

/-! ## The lead's decisions (R458) -/

/-- RESTORE sent by the lead, with SPARE_NEEDED for members that only their holders report. -/
def sendRestore (s : State) (h lap : Nat) : State :=
  let s := modRestart s h fun r => { r with restoreSent := some s.lapStarts }
  let s := (lostMembers (getHeat s h).restart).foldl (fun s m => jobEvent s h jeSpare m lap) s
  let r := sendNotice s h { blankNotice s h nkRestore with lapA := lap }
  actRestore r.1 h r.2

/-- The restart stays where it is, for want of a common lap. -/
def noSnapshotState (s : State) (h : Nat) : State :=
  modRestart (dset s (hSnap h) 0x10 5) h fun r => { r with noSnapshot := true }

def sendNoSnapshot (s : State) (h : Nat) : State :=
  let s := jobEvent s h jeNoSnapshot (ownChip s) 0
  noSnapshotState (sendNotice s h (blankNotice s h nkNoSnapshot)).1 h

/-- The lead's decision once it can be made: with every report, or with the wait over. -/
def decideRestore (s : State) (h : Nat) (waitOver : Bool) : State :=
  let r := (getHeat s h).restart
  if (getHeat s h).st != .restarting || r.restoreSent.isSome || r.chosen.isSome || r.noSnapshot then s
  else
    let all := decide (jobMembers s h ≤ (subjects r).length)
    match (if all then commonLap r else none) with
    | some l => sendRestore s h l
    | none => if all || waitOver then sendNoSnapshot s h else s

/-- An INVENTORY seen by a member. -/
def actInventory (s : State) (h : Nat) (n : Notice) : State :=
  let s := addReport s h n
  if leads s h && n.restartNo = (getHeat s h).restart.no then decideRestore s h false else s

/-- INVENTORY of this member for itself (R456). -/
def sendInventory (s : State) (h : Nat) : State :=
  let l := newestTwo (ownLaps s h)
  let r := sendNotice s h { blankNotice s h nkInventory with lapA := l.1, lapB := l.2 }
  actInventory r.1 h r.2

/-- RESTORED seen by a member: the lead that holds every one sends RESUME for 8 laps on (R460). -/
def actResume (s : State) (h : Nat) (n : Notice) : State :=
  if n.restartNo = (getHeat s h).restart.no then modRestart s h fun r => { r with resume := some n.lapA } else s

def actRestored (s : State) (h : Nat) (n : Notice) : State :=
  let r := (getHeat s h).restart
  if n.restartNo != r.no then s
  else
    let s := modRestart s h fun r => { r with done := if r.done.contains n.origin then r.done else n.origin :: r.done }
    let d := (getHeat s h).restart.done.length
    if leads s h && r.done.length < d && d = jobMembers s h then
      let s := jobEvent s h jeRestored (ownChip s) n.lapA
      let x := sendNotice s h { blankNotice s h nkResume with lapA := (s.lap + 8) % 2 ^ 48, lapB := n.lapA }
      actResume x.1 h x.2
    else s

/-! ## Restarts (R456) -/

/-- What follows the entry into RESTARTING: the member's INVENTORY, and the lead's JOB_EVENT. -/
def announceRestart (s : State) (h : Nat) : State :=
  let s := if leads s h then jobEvent s h jeBegun (getHeat s h).restart.origin s.lap else s
  sendInventory s h

/-- FAULT of this device for a heat. -/
def sendFault (s : State) (h cls cause lap : Nat) (void : Bool) : State :=
  (sendNotice s h { blankNotice s h nkFault with voidWard := void, lapA := lap, cls := cls, cause := cause }).1

/-- A heat restarts by a fault of its own device. -/
def restartOwn (s : State) (h cls cause lap : Nat) (fenced : Bool) : State :=
  let n := (getHeat s h).restart.no
  let s := sendFault s h cls cause lap fenced
  announceRestart (enterRestarting s h (n + 1) (ownChip s) cls cause fenced) h

/-- The buddy's slots are void: it was fenced (R456). -/
def voidBuddy (s : State) (h : Nat) (n : Notice) : State :=
  if n.voidWard && n.origin = buddyChip s h then setSnapLap (setSnapLap s h 2 none) h 3 none else s

/-- FAULT of another member: the next restart begins where its number is the heat's. -/
def actFault (s : State) (h : Nat) (n : Notice) : State :=
  let s := voidBuddy s h n
  let no := (getHeat s h).restart.no
  if !canRestart s h || n.restartNo != no then s
  else
    let s := logNow s { code := 0x010D, cls := 2, cause := 11, heat := some h, detail := noticeBody n } 0
    announceRestart (enterRestarting s h (no + 1) n.origin n.cls n.cause false) h

/-! ## Notices received (R455, R456) -/

/-- A notice received: forgotten where no plan of its tag names the port or it was seen; else acted on where a heat holds
its tag, and forwarded. -/
def takeNotice (s : State) (port : Nat) (n : Notice) (act : State → Nat → Notice → State) : State :=
  let s := takeCtrl s port ctlNotice
  if !trained s port || (planPort s n.tag port).isNone || noticeSeen s n then s
  else
    let s := spread (seeNotice s n) n (some port)
    match tagHeat s n.tag with
    | none => s
    | some h =>
      if n.restartNo < (getHeat s h).restart.no then
        raise s { code := 0x010D, cls := 0, heat := some h, detail := noticeBody n }
      else act s h n

/-- FAULT. -/
def execFault (port : Nat) (n : Notice) (s : State) : Host.Outcome State Fault Refusal :=
  .next (takeNotice s port { n with kind := nkFault } actFault)

/-- INVENTORY. -/
def execInventory (port : Nat) (n : Notice) (s : State) : Host.Outcome State Fault Refusal :=
  .next (takeNotice s port { n with kind := nkInventory } actInventory)

/-- RESTORE. -/
def execRestore (port : Nat) (n : Notice) (s : State) : Host.Outcome State Fault Refusal :=
  .next (takeNotice s port { n with kind := nkRestore } actRestore)

/-- RESTORED. -/
def execRestored (port : Nat) (n : Notice) (s : State) : Host.Outcome State Fault Refusal :=
  .next (takeNotice s port { n with kind := nkRestored } actRestored)

/-- RESUME, the notice. -/
def execNoticeResume (port : Nat) (n : Notice) (s : State) : Host.Outcome State Fault Refusal :=
  .next (takeNotice s port { n with kind := nkResume } actResume)

/-- NO_SNAPSHOT. -/
def execNoSnapshot (port : Nat) (n : Notice) (s : State) : Host.Outcome State Fault Refusal :=
  .next (takeNotice s port { n with kind := nkNoSnapshot } fun s h n =>
    if n.restartNo = (getHeat s h).restart.no && (getHeat s h).st = .restarting then noSnapshotState s h else s)

/-! ## Timeouts of a restart (R457, R458) -/

/-- ON_BEHALF_TIMEOUT: no INVENTORY from the ward within 16 laps. -/
def execOnBehalfTimeout (heat : Nat) (s : State) : Host.Outcome State Fault Refusal :=
  let x := getHeat s heat
  let ward := dget s (hSnap heat) 8
  let heard := x.restart.reports.any fun r => r.subject = ward && !r.onBehalf
  if x.st != .restarting || ward = 0 || heard || x.restart.onBehalfSent || s.lapStarts < x.restart.startLap + 16 then .next s
  else
    let l := newestTwo (wardLaps s heat)
    let s := modRestart s heat fun r => { r with onBehalfSent := true }
    let r := sendNotice s heat { blankNotice s heat nkInventory with onBehalf := true, subject := ward, lapA := l.1, lapB := l.2 }
    .next (actInventory r.1 heat r.2)

/-- INVENTORY_WAIT_EXPIRY: the lead decides with what it holds. -/
def execInventoryWaitExpiry (heat : Nat) (s : State) : Host.Outcome State Fault Refusal :=
  let x := getHeat s heat
  if leads s heat && x.restart.startLap + dget s (hSnap heat) 0x11 ≤ s.lapStarts then .next (decideRestore s heat true) else .next s

/-- The lowest chip among the members that sent their own INVENTORY. -/
def actingLead (r : Restart) : Option Nat :=
  (r.reports.filter (!·.onBehalf)).foldl (fun b x => some (match b with | some m => min m x.sender | none => x.sender)) none

/-- LEAD_TIMEOUT: no RESTORE within twice the inventory wait. -/
def execLeadTimeout (heat : Nat) (s : State) : Host.Outcome State Fault Refusal :=
  let x := getHeat s heat
  let due := decide (x.restart.startLap + 2 * dget s (hSnap heat) 0x11 ≤ s.lapStarts)
  if x.st = .restarting && due && x.restart.chosen.isNone && !x.restart.noSnapshot && actingLead x.restart = some (ownChip s) then
    .next (decideRestore (modRestart s heat fun r => { r with acting := true }) heat true)
  else .next s

/-- RESTORE_REPEAT: every 64 laps until every member has restored. -/
def execRestoreRepeat (heat : Nat) (s : State) : Host.Outcome State Fault Refusal :=
  let r := (getHeat s heat).restart
  match r.restoreSent, r.chosen with
  | some t, some l =>
    if leads s heat && t + 64 ≤ s.lapStarts && r.done.length < jobMembers s heat then
      let s := modRestart s heat fun r => { r with restoreSent := some s.lapStarts }
      .next (sendNotice s heat { blankNotice s heat nkRestore with lapA := l }).1
    else .next s
  | _, _ => .next s

/-! ## The end of a restore, and the resume (R459, R460) -/

/-- The snapshot to be written back is at hand. -/
def restoreReady (s : State) (h : Nat) : Bool :=
  let r := (getHeat s h).restart
  r.restoring && !r.restored &&
    (if r.fromBuddy then decide (r.reading = 2) && decide (r.acks = 0) && r.rem.refusal.isNone else ownHolds s h (r.chosen.getD noLap))

/-- No heat is left in RESTARTING: the fence ends (R447). -/
def endFence (s : State) : State :=
  if (liveHeats s).any fun h => (getHeat s h).st = .restarting then s else dset s 0x2710 1 0

/-- One more restore from the own area or from the buddy (R471). -/
def countRestore (s : State) (buddy : Bool) : State :=
  domPut s 0x2D60 8 8 4 (b2n buddy) (min (2 ^ 32 - 1) (domNum s 0x2D60 8 4 (b2n buddy) + 1))

/-- The queues after a restore: the initial one as at START, the others disabled. -/
def restoredQueues (s : State) (h : Nat) : State := setInitialQueue (dropQueues s h) h

/-- The heat as the restore leaves it (R459). -/
def finishRestore (s : State) (h : Nat) : State :=
  let r := (getHeat s h).restart
  let s := applySnapshot s h (if r.fromBuddy then gotSnapshot s h else ownSnapshot s h)
  let s := restoredQueues (freshCollective (freshUnits s h) h) h
  let s := countRestore s r.fromBuddy
  let s := modHeat s h fun x => { x with
    contained := stillContained s h, snap := none, take := none
    restart := { x.restart with restored := true, restoring := false, rem := {}, reading := 0 } }
  let s := setHState s h (if (getHeat s h).atFault = .running then .running else .stopped)
  let s := endFence (dset s (hSnap h) 0x10 3)
  let n := sendNotice s h { blankNotice s h nkRestored with lapA := r.chosen.getD noLap }
  actRestored n.1 h n.2

/-- A cluster of the heat still waits for its spare to take over a retired slot's core (R202, R440). -/
def takeoverAwaited (s : State) (h : Nat) : Bool := (heatClusters s h).any fun c => !(lostSlots (getCluster s c)).isEmpty

/-- RESTORE_COMPLETE: complete once every retired slot's core has its spare, every cluster is in service and the plan's
REQUIRED ports are ADMITTED. -/
def execRestoreComplete (heat : Nat) (s : State) : Host.Outcome State Fault Refusal :=
  if (getHeat s heat).st != .restarting || !restoreReady s heat || takeoverAwaited s heat then .next s
  else if !(heatClusters s heat).all (clusterActive s) then .next (dset s (hSnap heat) 0x10 4)
  else if !discoveryOk s heat then .next s
  else .next (finishRestore s heat)

/-- The restart record (R460). -/
def restartRecord (r : Restart) (resume : Nat) : Nat :=
  r.no * 2 ^ 496 + (r.chosen.getD noLap) % 2 ^ 48 * 2 ^ 448 + resume % 2 ^ 48 * 2 ^ 400 + r.origin % 2 ^ 16 * 2 ^ 384 +
    r.cls % 2 ^ 8 * 2 ^ 376 + r.cause % 2 ^ 8 * 2 ^ 368 + b2n r.fromBuddy * 2 ^ 367

/-- The record in memory, or a C0 event where it would lie outside the heat's ranges. -/
def writeRestartRecord (s : State) (h resume : Nat) : State :=
  let a := dget s (hSnap h) 0x0D
  if inHeat s h a 64 then (storeStack s a (bytesOf 64 (restartRecord (getHeat s h).restart resume))).1
  else raise s { code := 0x010D, cls := 0, heat := some h }

/-- RESUME_LAP: the restart record, the restart tail, the counter. -/
def execResumeLap (heat : Nat) (s : State) : Host.Outcome State Fault Refusal :=
  let x := getHeat s heat
  match x.restart.resume with
  | none => .next s
  | some l =>
    if s.lap < l || eventsHeld s || !x.restart.restored || (x.st != .running && x.st != .stopped) then .next s
    else
      let s := writeRestartRecord s heat l
      let s := (ringDoorbell s .mgmt (initialQueue s heat) (dget s (hSnap heat) 0x0E)).1
      let s := dset (dadd s (hCfg heat) 0x13 1) (hSnap heat) 0x10 0
      let s := modRestart s heat fun r => { r with resume := none }
      .next (if leads s heat then jobEvent s heat jeResumed (ownChip s) l else s)

/-- ABANDON (R461): the heat set up as START does, every queue disabled, without check 1; the abort code. -/
def abandonRestart (s : State) (h : Nat) : State × Nat :=
  if (getHeat s h).st != .restarting then (s, abState)
  else
    let ab := creationFault s h false
    if ab != 0 then (s, ab)
    else if !discoveryOk s h then (s, abState)
    else
      let s := dropTxns s (ownedByHeat h)
      (endFence (setHState (setUpHeat s h) h .running), 0)

/-! ## Lost heats and lost devices (R448, R449) -/

/-- Every entry of an index back at its default. -/
def defaultIndex (s : State) (i : Nat) : State :=
  { s with dict := tabDrop (fun k => k / 256 = i) s.dict, dom := tabDrop (fun k => k / 256 = i) s.dom }

/-- A heat lost (R449): FREE, with its configuration at the defaults. -/
def loseHeat (s : State) (h : Nat) : State :=
  let s := abandonHeatWork s h stFenced
  let s := unmeasureHeat (dropQueues (setHState s h .free) h) h
  let s := removeHeatPlan (modHeat s h fun x => { st := x.st }) h
  [hCfg h, hColl h, hSnap h, 0x2440 + h].foldl defaultIndex s

/-- The heats of a device that leaves READY. -/
def loseHeats (s : State) : State := endFence ((liveHeats s).foldl loseHeat s)

/-- A boot stage entered. -/
def setStage (s : State) (n : Nat) : State := dset { s with stageAt := s.now } 0x2A10 1 n

/-- A cluster that goes down: first the idle entry of its awake cores, then the cluster (R415). -/
def clusterDown (s : State) (p : Nat) : List WakeUnit :=
  (match clusterAt s p with
   | some c => (rangeWhere 9 fun i => coreAwake s (9 * c + i)).map fun i => .core (9 * c + i) false
   | none => []) ++ [.cluster p false]

/-- The token requests of a device that powers down: lasers, then clusters against the order of the warm-up waves, then
stacks (R399, R415). -/
def downUnits (s : State) : List WakeUnit :=
  s.seq.lasers.map (.laser · false) ++
    ((List.range 8).reverse.flatMap fun w => (s.seq.clusters.filter fun p => p % 8 = w).flatMap (clusterDown s)) ++
    s.seq.stacksOn.map (.stack · false)

/-- POWERING_DOWN entered, on the way to a stage (R399). -/
def powerDown (s : State) (dest : Nat) : State :=
  let s := loseHeats s
  let s := setStage { s with downTo := dest, wave := 0, seq := { s.seq with waiting := [] } } bsPoweringDown
  (downUnits s).foldl requestWake s

/-! ## Handling (R445, R447, R448) -/

/-- A C2 (R445): merged where its heat restarts already, else the heat restarts. -/
def handleC2 (s : State) (e : Event) : State :=
  match e.heat with
  | none => logEvent s e 0
  | some h =>
    let x := getHeat s h
    if x.st = .restarting || e.inRestart || e.restartNo < x.restart.no then
      logEvent (modHeat s h fun x => { x with contained := stillContained s h }) e 1
    else if canRestart s h then restartOwn (logEvent s e 0) h 2 e.cause e.lap false
    else logEvent s e 0

/-- Every covered event logged as merged and taken from the queue. -/
def mergeCovered (s : State) (p : Event → Bool) : State :=
  (s.events.filter p).foldl (fun s e => logEvent s e 1) { s with events := s.events.filter fun e => !p e }

/-- A C3's record (R447): the powered hour in the history. -/
def recordC3 (s : State) (e : Event) : State :=
  histAdd (dset { s with lastC3 := some (poweredHour s) } 0x2710 6 (poweredHour s)) histC3 [poweredHour s, e.cause]

/-- A fence (R447): every heat restarts without its own copies; the router's ports retrain where the cause lies there. -/
def fenceDevice (s : State) (e : Event) : State :=
  let l := (liveHeats s).filter fun h => canRestart s h
  let s := if l.isEmpty then s else dset s 0x2710 1 1
  let s := l.foldl (fun s h =>
    let s := modHeat s h fun x => { x with fencedLap := some s.lap }
    restartOwn s h 3 e.cause e.lap true) s
  if e.cause = 12 && e.unitKind = 4 then (trainedPorts s).foldl (fun s p => retrain s p true) s else s

/-- A C3 (R404, R447): the device fences itself; a second within 24 powered hours loses it, and one during the boot powers
down. -/
def handleC3 (s : State) (e : Event) : State :=
  let second := match s.lastC3 with | some t => decide (poweredHour s ≤ t + 24) | none => false
  let s := mergeCovered (recordC3 (logEvent s e 0) e) fun x => x.cls = 2
  let st := bootStage s
  if second then raise s { code := 0x010B, cls := 4, cause := 15 }
  else if st = bsReady then fenceDevice s e
  else if bsMemoryPower ≤ st && st ≤ bsLinkTraining && e.cause != 14 then
    let s := { s with bootC3 := s.bootC3 + 1 }
    if s.bootC3 ≥ 2 then raise s { code := 0x010B, cls := 4, cause := 15 }
    else powerDown (dset s 0x2A10 2 4) bsStandby
  else s

/-- A C4 (R448): notices, then compute and stacks down, then LOST. -/
def handleC4 (s : State) (e : Event) : State :=
  let s := mergeCovered (logEvent s e 0) fun _ => true
  let s := ((liveHeats s).filter fun h => canRestart s h).foldl (fun s h => sendFault s h 4 e.cause e.lap false) s
  let s := dset s 0x2710 1 0
  if bootStage s = bsLost then s
  else if bsMemoryPower ≤ bootStage s then powerDown s bsLost
  else setStage (loseHeats s) bsLost

def handleEvent (s : State) (e : Event) : State :=
  match e.cls with
  | 2 => handleC2 s e
  | 3 => handleC3 s e
  | 4 => handleC4 s e
  | _ => logEvent s e 0

/-- The event handled next: the first of the highest class. -/
def nextEvent (l : List Event) : Option Event :=
  l.foldl (fun b e => match b with
    | none => some e
    | some x => if e.cls > x.cls then some e else some x) none

/-- The overflow's record and its C3, once a place is free (R446). -/
def reportOverflow (s : State) : State :=
  if s.lostEvents = 0 then s
  else
    let n := s.lostEvents
    let s := dadd { s with lostEvents := 0 } 0x2D60 6 n
    let s := logNow s { code := 0x010A, cls := 0, detail := bytesOf 4 n } 2
    raise s overflowEvent

/-- EVENT_HANDLING (R445). -/
def execEventHandling (s : State) : Host.Outcome State Fault Refusal :=
  match nextEvent s.events with
  | none => .next s
  | some e =>
    let s := { s with events := dropFirst (fun x => x == e) s.events }
    .next (handleEvent (reportOverflow s) e)

end Sys2Proof.Machine
end

