-- ==== Sys2Proof/Machine/Frames.lean ====
section
/-! DEFINITION. What the network engine puts on Ethernet and reads of it below TCP: frames, IPv4 and IPv6 packets, ARP, ICMP, NDP,
DHCPv4 and SLAAC (R374). The layouts are those of the IEEE and IETF standards that R374 names (PRESUMED, log entry 108). -/

namespace Sys2Proof.Machine

/-! ## Addresses -/

def vlanId (s : State) (e : Nat) : Nat := dget s (0x2400 + e) 9
def macOf (s : State) (e : Nat) : List Byte := bytesBE 6 (dget s (0x2400 + e) 1)
def broadcastMac : List Byte := List.replicate 6 0xFF#8
def hexBytes (l : List Nat) : List Byte := l.map byte

/-- The last eight bytes of an address formed from a MAC address. -/
def eui64 (m : List Byte) : List Byte := (nth 0#8 m 0 ^^^ 2#8) :: (m.drop 1).take 2 ++ hexBytes [0xFF, 0xFE] ++ m.drop 3

/-- The IPv6 link-local address of a MAC address. -/
def linkLocal (m : List Byte) : List Byte := hexBytes [0xFE, 0x80] ++ zeros 6 ++ eui64 m

/-- An Ethernet port's IPv4 address, if it has one: leased, or static. -/
def ipv4Of (s : State) (e : Nat) : Option (List Byte) :=
  match dget s (0x2400 + e) 5 with
  | 1 => nth none s.leases e
  | 2 => some (sliceBytes (domRead s (0x2400 + e) 6) 0 4)
  | _ => none

/-- Its global IPv6 address: by SLAAC, or static. -/
def ipv6Of (s : State) (e : Nat) : Option (List Byte) :=
  match dget s (0x2400 + e) 7 with
  | 1 => (nth none s.prefixes e).map (· ++ eui64 (macOf s e))
  | 2 => some (sliceBytes (domRead s (0x2400 + e) 8) 0 16)
  | _ => none

/-- An IPv6 address of the port: its global one, or its link-local one while IPv6 is on. -/
def ownIpv6 (s : State) (e : Nat) (a : List Byte) : Bool :=
  some a = ipv6Of s e || (dget s (0x2400 + e) 7 != 0 && a = linkLocal (macOf s e))

/-! ## The management port's addresses (R477) -/

/-- Its MAC address (0x2C00:0A). -/
def mgmtMac (s : State) : List Byte := bytesBE 6 (dget s 0x2C00 0x0A + 2)

/-- Its UDP port for dictionary requests. -/
def mgmtPort : Nat := 7341

/-- Its link-local IPv6 address. -/
def mgmtLocal (s : State) : Nat := natOfBytesBE (linkLocal (mgmtMac s))

/-- A static address of 0x2010 as far as it is set and the firmware runs: n bytes of entry `sub`. -/
def mgmtStatic (s : State) (sub n : Nat) : Option Nat :=
  let a := natOfBytesBE (fitBytes n (domRead s 0x2010 sub))
  if a = 0 || bootStage s = bsRecovery then none else some a

/-- IPv4 addresses stand in an IPv6 address under the prefix ::ffff:0:0/96. -/
def mapped (a : Nat) : Nat := 0xFFFF * 2 ^ 32 + a

/-- The address that the port answers a client from: its IPv4 address to an IPv4 client, the link-local one to a link-local client, else
its static IPv6 address where one is set (DEDUCED, log entry 127). -/
def mgmtSource (s : State) (client : Nat) : Option Nat :=
  if client / 2 ^ 32 = 0xFFFF then (mgmtStatic s 4 4).map mapped
  else if client / 2 ^ 118 = 0x3FA then some (mgmtLocal s)
  else some ((mgmtStatic s 3 16).getD (mgmtLocal s))

/-! ## Frames and packets -/

def typeAt (l : List Byte) (o : Nat) : Nat := natOfBytesBE (sliceBytes l o 2)

/-- A frame: one 802.1Q tag where the port has a VLAN ID. -/
def ethFrame (s : State) (e : Nat) (dst : List Byte) (type : Nat) (body : List Byte) : List Byte :=
  fitBytes 6 dst ++ macOf s e ++ (if vlanId s e = 0 then [] else bytesBE 2 0x8100 ++ bytesBE 2 (vlanId s e)) ++ bytesBE 2 type ++ body

def sendFrame (s : State) (e : Nat) (dst : List Byte) (type : Nat) (body : List Byte) : State :=
  emit s (.net e "frame" (ethFrame s e dst type body))

/-- The Internet checksum. -/
def inetSum (l : List Byte) : Nat :=
  let n := sumTo ((l.length + 1) / 2) fun i => typeAt l (2 * i)
  let n := n % 65536 + n / 65536
  0xFFFF - (n % 65536 + n / 65536)

/-- An IPv4 packet; it carries DF and is never fragmented. -/
def ipv4Packet (src dst : List Byte) (proto : Nat) (body : List Byte) : List Byte :=
  let head (sum : Nat) : List Byte :=
    hexBytes [0x45, 0] ++ bytesBE 2 (20 + body.length) ++ bytesBE 2 0 ++ bytesBE 2 0x4000 ++ hexBytes [64, proto] ++ bytesBE 2 sum ++
      fitBytes 4 src ++ fitBytes 4 dst
  head (inetSum (head 0)) ++ body

def ipv6Packet (src dst : List Byte) (next : Nat) (body : List Byte) : List Byte :=
  hexBytes [0x60, 0, 0, 0] ++ bytesBE 2 body.length ++ hexBytes [next, 255] ++ fitBytes 16 src ++ fitBytes 16 dst ++ body

/-- An ICMP message with its checksum: its type and code, then the rest. -/
def icmp (kind : Nat) (rest : List Byte) : List Byte :=
  hexBytes [kind, 0] ++ bytesBE 2 (inetSum (hexBytes [kind, 0, 0, 0] ++ rest)) ++ rest

/-- An ICMPv6 message with its checksum over the addresses. -/
def icmpv6 (src dst : List Byte) (kind : Nat) (rest : List Byte) : List Byte :=
  let n := 4 + rest.length
  let sum := inetSum (fitBytes 16 src ++ fitBytes 16 dst ++ bytesBE 4 n ++ bytesBE 4 58 ++ hexBytes [kind, 0, 0, 0] ++ rest)
  hexBytes [kind, 0] ++ bytesBE 2 sum ++ rest

/-- A frame whose destination the port takes: its own address, broadcast, or an IPv6 multicast group. -/
def frameForPort (s : State) (e : Nat) (l : List Byte) : Bool :=
  let d := sliceBytes l 0 6
  d = macOf s e || d = broadcastMac || d.take 2 = hexBytes [0x33, 0x33]

/-! ## DHCPv4 and SLAAC -/

/-- A DHCP message of the client: the address it asks for and the server, in a request. -/
def dhcpMessage (s : State) (e xid kind : Nat) (more : List Byte) : List Byte :=
  let p := hexBytes [1, 1, 6, 0] ++ bytesBE 4 xid ++ zeros 20 ++ fitBytes 16 (macOf s e) ++ zeros 192 ++ hexBytes [0x63, 0x82, 0x53, 0x63] ++
    hexBytes [53, 1, kind] ++ more ++ hexBytes [255]
  bytesBE 2 68 ++ bytesBE 2 67 ++ bytesBE 2 (8 + p.length) ++ bytesBE 2 0 ++ p

def sendDhcp (s : State) (e xid kind : Nat) (more : List Byte) : State :=
  sendFrame s e broadcastMac 0x0800 (ipv4Packet (zeros 4) (List.replicate 4 0xFF#8) 17 (dhcpMessage s e xid kind more))

/-- An option of a DHCP message; `fuel` bounds their number. -/
def dhcpOption : Nat → Nat → List Byte → Option (List Byte)
  | 0, _, _ => none
  | _ + 1, _, [] => none
  | _ + 1, _, [_] => none
  | fuel + 1, o, c :: n :: l =>
    if c = 255#8 then none
    else if c = 0#8 then dhcpOption fuel o (n :: l)
    else if c.toNat = o then some (l.take n.toNat) else dhcpOption fuel o (l.drop n.toNat)

/-- A link that has come up asks for its addresses. -/
def askAddresses (s : State) (e : Nat) : State :=
  let s := { s with leases := setNth s.leases e none, prefixes := setNth s.prefixes e none }
  let s :=
    if dget s (0x2400 + e) 5 != 1 then s
    else
      let r := takeFree s 32
      sendDhcp { r.2 with dhcpIds := setNth r.2.dhcpIds e r.1 } e r.1 1 []
  if dget s (0x2400 + e) 7 != 1 then s
  else
    let src := linkLocal (macOf s e)
    let dst := hexBytes [0xFF, 2] ++ zeros 13 ++ [2#8]
    sendFrame s e (hexBytes [0x33, 0x33, 0, 0, 0, 2]) 0x86DD (ipv6Packet src dst 58 (icmpv6 src dst 133 (zeros 4)))

/-- A DHCP answer to the port's client: an offer is asked for, an acknowledgement is the lease. -/
def takeDhcp (s : State) (e : Nat) (l : List Byte) : State :=
  let opts := l.drop 240
  let ip := sliceBytes l 16 4
  let opt (o : Nat) : List Byte := (dhcpOption 312 o opts).getD []
  if dget s (0x2400 + e) 5 != 1 || natOfBytesBE (sliceBytes l 4 4) != nth 0 s.dhcpIds e || nth 0#8 l 0 != 2#8 then s
  else if opt 53 = [2#8] then
    sendDhcp s e (nth 0 s.dhcpIds e) 3 (hexBytes [50, 4] ++ ip ++ hexBytes [54, 4] ++ fitBytes 4 (opt 54))
  else if opt 53 = [5#8] then { s with leases := setNth s.leases e (some ip) }
  else s

/-- The network of a router advertisement that addresses may be formed from. -/
def advertised : Nat → List Byte → Option (List Byte)
  | 0, _ => none
  | _ + 1, [] => none
  | fuel + 1, l =>
    let n := 8 * (nth 0#8 l 1).toNat
    if nth 0#8 l 0 = 3#8 && nth 0#8 l 2 = 64#8 && bitOf (nth 0#8 l 3).toNat 6 then some (sliceBytes l 16 8)
    else if n = 0 then none else advertised fuel (l.drop n)

/-! ## Packets received -/

/-- An IPv4 packet: fragments are discarded and counted, an echo request and the DHCP client's messages are taken. -/
def takeIpv4 (s : State) (e : Nat) (from_ : List Byte) (l : List Byte) : State :=
  let frag := typeAt l 6
  let h := 4 * ((nth 0#8 l 0).toNat % 16)
  let mine : Bool := some (sliceBytes l 16 4) = ipv4Of s e
  if frag / 8192 % 2 = 1 || frag % 8192 != 0 then { s with fragments := s.fragments + 1 }
  else if mine && nth 0#8 l 9 = 1#8 && nth 0#8 l h = 8#8 then
    sendFrame s e from_ 0x0800 (ipv4Packet (sliceBytes l 16 4) (sliceBytes l 12 4) 1 (icmp 0 ((l.take (typeAt l 2)).drop (h + 4))))
  else if nth 0#8 l 9 = 17#8 && typeAt l h = 67 && typeAt l (h + 2) = 68 then takeDhcp s e (l.drop (h + 8))
  else s

/-- An IPv6 packet: an echo request, a neighbour solicitation and a router advertisement are taken. -/
def takeIpv6 (s : State) (e : Nat) (from_ : List Byte) (l : List Byte) : State :=
  let src := sliceBytes l 8 16
  let dst := sliceBytes l 24 16
  let kind := (nth 0#8 l 40).toNat
  let target := sliceBytes l 48 16
  if nth 0#8 l 6 != 58#8 then s
  else if kind = 128 && ownIpv6 s e dst then
    sendFrame s e from_ 0x86DD (ipv6Packet dst src 58 (icmpv6 dst src 129 ((l.take (40 + typeAt l 4)).drop 44)))
  else if kind = 135 && ownIpv6 s e target then
    sendFrame s e from_ 0x86DD (ipv6Packet target src 58
      (icmpv6 target src 136 (hexBytes [0x60, 0, 0, 0] ++ target ++ hexBytes [2, 1] ++ macOf s e)))
  else if kind = 134 && dget s (0x2400 + e) 7 = 1 then
    match advertised 32 (l.drop 56) with
    | some p => { s with prefixes := setNth s.prefixes e (some p) }
    | none => s
  else s

/-- An ARP request for the port's address, answered. -/
def takeArp (s : State) (e : Nat) (l : List Byte) : State :=
  if typeAt l 6 = 1 && some (sliceBytes l 24 4) = ipv4Of s e then
    sendFrame s e (sliceBytes l 8 6) 0x0806
      (hexBytes [0, 1, 8, 0, 6, 4, 0, 2] ++ macOf s e ++ sliceBytes l 24 4 ++ sliceBytes l 8 10)
  else s

/-! ## PAUSE -/

/-- The pause of a PAUSE frame in 0.1 ns: quanta of 512 bit times at 800 Gb/s; none for another frame. -/
def pauseOf (l : List Byte) : Option Nat :=
  if typeAt l 12 = 0x8808 && typeAt l 14 = 1 then some (typeAt l 16 * 64 / 10) else none

/-- The frames that waited for a pause to end, sent in their order. -/
def releasePaused (s : State) : State :=
  let goes (x : Nat × Out) : Bool := !portPaused s x.1
  { s with out := s.out ++ (s.pausedOut.filter goes).map (·.2), pausedOut := s.pausedOut.filter fun x => !goes x }

end Sys2Proof.Machine
end

