-- ==== Sys2Proof/Machine/Sessions.lean ====
section
/-! DEFINITION. The rings that a heat shares with the network engine, Starter sessions that end, and Ethernet links (R378 to
R393). -/

namespace Sys2Proof.Machine

def netIdx (h : Nat) : Nat := 0x2440 + h

/-! ## Ring headers (R378, R379) -/

/-- The storage ring, the inbox and the outbox, as `ringBad` numbers them. -/
def ringStorage : Nat := 0
def ringInbox : Nat := 1
def ringOutbox : Nat := 2

/-- A ring's two indices, where the ring lies inside its heat's ranges and its header can be read: `prod` and `cons`. -/
def ringHeader (s : State) (h base bytes : Nat) : State × Option (Nat × Nat) :=
  if !inHeat s h base bytes then (s, none)
  else
    let r := checkRead s base 8
    (r.1, if r.2 then some (readNat r.1 base 4, readNat r.1 (base + 4) 4) else none)

/-- `prod` - `cons` modulo 2^32. -/
def ringDepth (x : Nat × Nat) : Nat := aheadOf x.1 x.2

/-- A ring read with more entries than slots: counted and reported at the first such read; a good read ends the fault. -/
def noteRing (s : State) (h which : Nat) (bad : Bool) : State :=
  let was := nth false (getHeat s h).ringBad which
  let s := modHeat s h fun x => { x with ringBad := setNth x.ringBad which bad }
  if bad && !was then raise (dadd s 0x2D40 8 1) { code := 0x0800 + Config.ringFaultEvent % 256, cls := 0, heat := some h }
  else s

/-- The notify queue of an entry rung, TAIL + 1, by the management processor, which may ring any enabled queue of a heat that runs
(R250, R382). -/
def ringNotify (s : State) (h sub : Nat) : State :=
  let q := dget s (netIdx h) sub
  if q = 0xFFFFFFFF then s
  else
    let r := ringDoorbell s .mgmt q (((getQueue s q).tail + 1) % 2 ^ 32)
    if r.2 then r.1 else dadd r.1 0x2D40 7 1

/-! ## The inbox (R391, R393) -/

def inboxLog (s : State) (h : Nat) : Nat := dget s (netIdx h) 5
def inboxBase (s : State) (h : Nat) : Nat := dget s (netIdx h) 4

/-- `prod` of the inbox, where it has a free slot. -/
def inboxFree (s : State) (h : Nat) : State × Option Nat :=
  let n := 2 ^ inboxLog s h
  if inboxLog s h = 0 then (s, none)
  else
    let r := ringHeader s h (inboxBase s h) (64 + 64 * n)
    match r.2 with
    | none => (r.1, none)
    | some x => (noteRing r.1 h ringInbox (decide (ringDepth x > n)), if ringDepth x < n then some x.1 else none)

def serveId (session req : Nat) : Nat := session * 2 ^ 32 + req % 2 ^ 32

def inboxRequest : Nat := 1
def inboxCancel : Nat := 2

/-- An inbox entry's 512 bits. -/
def inboxEntry (id offset tokens maxTokens kind params : Nat) : Nat :=
  id * 2 ^ 448 + offset % 2 ^ 48 * 2 ^ 400 + tokens % 2 ^ 32 * 2 ^ 368 + maxTokens % 2 ^ 32 * 2 ^ 336 + kind * 2 ^ 328 + params * 2 ^ 72

/-- An entry written at `prod`, `prod` raised, the serve notify queue rung. -/
def inboxPut (s : State) (h prod entry : Nat) : State :=
  let b := inboxBase s h
  let s := (storeStack s (b + 64 + 64 * (prod % 2 ^ inboxLog s h)) (bytesOf 64 entry)).1
  let s := (storeStack s b (bytesOf 4 ((prod + 1) % 2 ^ 32))).1
  ringNotify s h 9

/-- The CANCEL entry of a request. -/
def cancelEntry (x : Serve) : Nat := inboxEntry (serveId x.session x.req) 0 0 0 inboxCancel 0

/-- A request marked as cancelled; its entry is written where the inbox has room and the heat is RUNNING, else it is owed. -/
def cancelServe (s : State) (x : Serve) : State :=
  let mark (s : State) (owed : Bool) : State := { s with
    serves := s.serves.map fun y =>
      if y.heat = x.heat && y.session = x.session && y.req = x.req then { y with cancelled := true, owed := owed } else y }
  if (getHeat s x.heat).st != .running then mark s true
  else
    let r := inboxFree s x.heat
    match r.2 with
    | some p => inboxPut (mark r.1 false) x.heat p (cancelEntry x)
    | none => mark r.1 true

/-- The CANCEL entries that are owed to a heat's inbox, while it has room. -/
def payCancels (s : State) (h : Nat) : State :=
  (s.serves.filter fun x => x.heat = h && x.owed).foldl cancelServe s

/-! ## Sessions that end (R385, R389, R393) -/

/-- A plan withdrawn with its claim: the heat's entries at their defaults, its fabric part and targets gone (R389). -/
def withdrawPlan (s : State) (h : Nat) : State :=
  let s := removeHeatPlan (modHeat s h fun x => { x with claim := none }) h
  [hCfg h, hColl h, netIdx h].foldl defaultIndex s

/-- A session closed, whoever closes it. -/
def closeSession (s : State) (n : Nat) : State :=
  match getSession s n with
  | none => s
  | some x =>
    let s := { s with sessions := s.sessions.filter (·.1 != n) }
    let s := emit s (.net x.eth "close" (bytesOf 4 n))
    let s := ((List.range heatCount).filter fun h => (getHeat s h).claim = some n).foldl withdrawPlan s
    (s.serves.filter fun y => y.session = n && !y.cancelled && !y.ended).foldl cancelServe s

/-! ## Ethernet links (R374, R381, R420) -/

/-- The Ethernet port of a connection's target. -/
def connEth (s : State) (c : Conn) : Option Nat :=
  (s.plans.find? fun x => !x.plan.transit && x.plan.heat = c.heat).bind fun x =>
    (x.plan.targets.find? (·.slot = c.slot)).map (·.eth)

/-- An Ethernet port's link up or down: coming up it asks for its addresses; with it goes the reach of the targets behind it. -/
def setEthernet (s : State) (e : Nat) (up : Bool) : State :=
  let was := dget s (0x2400 + e) 2 = 1
  let s := dset s (0x2400 + e) 2 (b2n up)
  if up then (if was then s else askAddresses s e)
  else { s with conns := s.conns.map fun c => if c.up && connEth s c = some e then { c with up := false, down := s.now } else c }

end Sys2Proof.Machine
end

