-- ==== Sys2Proof/Machine/Snapshots.lean ====
section
/-! DEFINITION. Snapshots (R450 to R454, R548). -/

namespace Sys2Proof.Machine

/-! ## Whether a snapshot can be taken (R452) -/

/-- The areas of R452: the regions, the own area, and the ward area where there is one. -/
def snapAreas (s : State) (h : Nat) : List (Nat × Nat) :=
  let w := dget s (hSnap h) 0x12
  snapRegions s h ++ [(ownArea s h, ownBytes s h)] ++ (if w = 0 then [] else [(dget s (hSnap h) 9, w)])

def snapPossible (s : State) (h : Nat) : Bool :=
  apart (snapAreas s h) && ((snapAreas s h).all fun r => inHeat s h r.1 r.2) &&
    decide (headBytes + snapBytes s h ≤ ownBytes s h)

/-- A snapshot not taken, or late (R452, R453, R548). -/
def snapEvent (s : State) (h cls : Nat) : State :=
  raise s { code := 0x010C, cls := cls, cause := if cls = 2 then 9 else 0, heat := some h
            detail := bytesOf 64 (snapHeader s h s.lap false) }

/-- Update passes of the heat in flight (R192). -/
def passRuns (s : State) (h : Nat) : Bool :=
  (heatQueues s h).any fun q => (getQueue s q).flights.any fun f => f.opcode = opUpdate && !f.done

/-- The state block taken, once no update pass is in flight. -/
def captureBlock (s : State) (h : Nat) : State :=
  match (getHeat s h).snap with
  | some n =>
    if n.phase = 0 && !passRuns s h then
      let b := stateBlock s h
      modHeat s h fun x => { x with snap := some { n with phase := 1, block := b } }
    else s
  | none => s

/-- The own header written. -/
def writeOwnHeader (s : State) (h lap : Nat) (valid : Bool) : State :=
  replaceRange s (ownArea s h) headBytes (placeNum 0 headBytes (snapHeader s h lap valid))

/-- A snapshot begins (R453 step 1): the own slot is no longer whole. -/
def beginSnapshot (s : State) (h : Nat) : State :=
  let s := dropTxns s (ownedByHeat h)
  let s := modHeat s h fun x => { x with
    snap := some { lap := s.lap, phase := 0, number := x.snapCount, slot := x.snapCount % buddySlots s h }
    snapCount := x.snapCount + 1 }
  captureBlock (writeOwnHeader (setSnapLap (setSnapLap s h 0 none) h 1 (some s.lap)) h s.lap false) h

/-- The earlier snapshot of a heat that has not finished: what its lap finds at the next snapshot lap (R453 step 7, R548). -/
def unfinished (s : State) (h : Nat) : Option Nat :=
  match (getHeat s h).snap with
  | none => none
  | some n =>
    if buddyChip s h != 0 then (if n.phase < 6 then some 2 else none)
    else if n.phase ≤ 1 then some 0 else none

/-- SNAPSHOT_LAP: at a snapshot lap, after the commands due at that tick (R297); held in pace loss (R293). -/
def execSnapshotLap (heat : Nat) (s : State) : Host.Outcome State Fault Refusal :=
  if !snapState s heat || s.phase != 0 || !snapDue s heat then .next s
  else if eventsHeld s then .next (modHeat s heat fun x => { x with snapHeld := true, lastSnapLap := some s.lap })
  else if anyCommandDue s then .next s
  else
    let s := modHeat s heat fun x => { x with
      snapHeld := false, lastSnapLap := some s.lap
      take := match x.take with | some t => if t ≤ s.lap then none else some t | none => none }
    match unfinished s heat with
    | some c => .next (snapEvent s heat c)
    | none => if snapPossible s heat then .next (beginSnapshot s heat) else .next (snapEvent s heat 0)

/-- The state block and the regions in the own area; false where a sector could not be read. -/
def copyOwn (s : State) (h : Nat) (block : Tab Byte) : State × Bool :=
  let a := ownArea s h + headBytes
  let s := replaceRange s a blockBytes block
  (regionPlaces s h).foldl (fun (acc : State × Bool) r =>
    if !acc.2 then acc
    else
      let c := checkRead acc.1 r.2.1 r.2.2
      if c.2 then (replaceRange c.1 (a + r.1) (up256 r.2.2) (sliceMem c.1 r.2.1 r.2.2), true) else c) (s, true)

/-- SNAPSHOT_OWN_WRITTEN: the copy is whole, its header valid; passes go on (R453 step 3). -/
def execSnapshotOwnWritten (heat : Nat) (s : State) : Host.Outcome State Fault Refusal :=
  let s := captureBlock s heat
  match (getHeat s heat).snap with
  | none => .next s
  | some n =>
    if n.phase != 1 then .next s
    else
      let r := copyOwn s heat n.block
      if !r.2 then .next r.1
      else
        let s := writeOwnHeader r.1 heat n.lap true
        let s := dadd (setSnapLap (setSnapLap s heat 0 (some n.lap)) heat 1 none) 0x2D60 7 1
        .next (modHeat s heat fun x => { x with snap := some { n with phase := 3, block := [] } })

def commitLaps (s : State) (h : Nat) : Nat := dget s (hSnap h) 0x0A

/-- SNAPSHOT_COMMIT_CHECK: at lap L + c the own copy must be valid (R453 step 4). -/
def execSnapshotCommitCheck (heat : Nat) (s : State) : Host.Outcome State Fault Refusal :=
  match (getHeat s heat).snap with
  | none => .next s
  | some n =>
    if n.checked || eventsHeld s || s.lap < n.lap + commitLaps s heat then .next s
    else
      let s := modHeat s heat fun x => { x with snap := some { n with checked := true } }
      if snapLap s heat 0 != some n.lap then .next (snapEvent s heat 2)
      else if buddyChip s heat = 0 then .next (modHeat s heat fun x => { x with snap := none })
      else .next s

/-- The WRITE packets that put bytes at the buddy. -/
def buddyWrites (s : State) (h a place0 : Nat) (l : List Byte) : List (Nat × Packet) :=
  let x := pages a l.length
  ((List.range x.length).zip x).map fun y =>
    (place0 + y.1,
      { mkPacket s h (buddyChip s h) kWrite with
        offset := y.2.1, data := sliceBytes l (y.2.1 - a) y.2.2, dataLen := y.2.2 })

def headerWrite (s : State) (h : Nat) (n : Snap) (valid : Bool) (place : Nat) : List (Nat × Packet) :=
  buddyWrites s h (buddyAddr s h n.slot) place (bytesOf headBytes (snapHeader s h n.lap valid))

/-- SNAPSHOT_BUDDY_SEND: at lap L + 2c the own copy goes to the buddy's slot (R453 step 5). -/
def execSnapshotBuddySend (heat : Nat) (s : State) : Host.Outcome State Fault Refusal :=
  match (getHeat s heat).snap with
  | none => .next s
  | some n =>
    if n.phase != 3 || buddyChip s heat = 0 || eventsHeld s || s.lap < n.lap + 2 * commitLaps s heat then .next s
    else
      let a := ownArea s heat + headBytes
      let r := checkRead s a (snapBytes s heat)
      if !r.2 then .next r.1
      else
        let s := setSnapLap r.1 heat (2 + n.slot) none
        let s := modHeat s heat fun x => { x with snap := some { n with phase := 5 } }
        let l := headerWrite s heat n false 0 ++
          buddyWrites s heat (buddyAddr s heat n.slot + headBytes) dataPlace (readBytes s a (snapBytes s heat))
        .next (queueHeatPackets s heat true l)

/-- SNAPSHOT_BUDDY_WRITTEN: every store is acknowledged, so the buddy's header is marked valid (R453 step 6). -/
def execSnapshotBuddyWritten (heat : Nat) (s : State) : Host.Outcome State Fault Refusal :=
  match (getHeat s heat).snap with
  | none => .next s
  | some n =>
    if n.phase != 5 || n.acks != 0 || n.rem.refusal.isSome then .next s
    else
      let s := setSnapLap s heat (2 + n.slot) (some n.lap)
      let s := modHeat s heat fun x => { x with snap := some { n with phase := 6 } }
      .next (queueHeatPackets s heat true (headerWrite s heat n true 1))

end Sys2Proof.Machine
end

