-- ==== Sys2Proof/Machine/Firmware.lean ====
section
/-! DEFINITION. Firmware images, the fuse map's check, and what a start keeps (R396 to R411, R421 to R426, R486, R487). -/

namespace Sys2Proof.Machine

/-! ## Images (R405 to R407) -/

/-- Whether a key slot is revoked: firmware slots first, then service slots (0x2C00:0E). -/
def keyRevoked (s : State) (n : Nat) : Bool := bitOf (dget s 0x2C00 0x0E) n

/-- The fields of an image's header (R405). -/
def imgField (l : List Byte) (o n : Nat) : Nat := natAt l o n
def imgSlot (l : List Byte) : Nat := imgField l 14 1
def imgSecurity (l : List Byte) : Nat := imgField l 12 2
def imgVersion (l : List Byte) : Nat := imgField l 16 8
def imgMask (l : List Byte) : Nat := imgField l 15 1
def imgSigLen (l : List Byte) : Nat := imgField l 88 2
def imgBytes (l : List Byte) : Nat := imgField l 8 4
def imgKey (l : List Byte) : List Byte := sliceBytes l 1632 1793
def imgBody (l : List Byte) : List Byte := l.drop 4096

/-- Check 2. -/
def imgFormOk (l : List Byte) : Bool :=
  decide (imgField l 0 4 = 0x54415246) && decide (imgField l 4 4 = 1) && decide (1 ≤ imgBytes l) && decide (imgBytes l ≤ 0x7FF000) &&
    decide (1 ≤ imgSigLen l) && decide (imgSigLen l ≤ 1536) && (sliceBytes l 90 6).all (· == 0#8) &&
    (sliceBytes l 3432 664).all (· == 0#8) && decide (l.length = 4096 + imgBytes l)

/-- Check 3. -/
def imgKeyOk (s : State) (l : List Byte) : Bool :=
  decide (imgSlot l ≤ 1) && !keyRevoked s (imgSlot l) && digest32 (imgKey l) == Config.firmwareKey (imgSlot l)

/-- Check 4. -/
def imgSignedOk (l : List Byte) : Bool :=
  Config.falconVerify (imgKey l) (Config.shake256 (l.take 96) 64) (sliceBytes l 96 (imgSigLen l))

/-- Check 6, and check 5. -/
def variantOk (s : State) (mask : Nat) : Bool := bitOf mask (dget s 0x2C00 1)
def securityOk (s : State) (v : Nat) : Bool := decide (dget s 0x2C00 0x0D ≤ v)

/-- Checks 2 to 7 on an image's bytes: the first that fails, or 0. -/
def imageFault (s : State) (l : List Byte) : Nat :=
  if !imgFormOk l then 2
  else if !imgKeyOk s l then 3
  else if !imgSignedOk l then 4
  else if !securityOk s (imgSecurity l) then 5
  else if !variantOk s (imgMask l) then 6
  else if Config.shake256 (imgBody l) 64 != sliceBytes l 24 64 then 7
  else 0

/-- A verified image as the device keeps it. -/
def firmwareOf (l : List Byte) : Firmware :=
  { version := imgVersion l, security := imgSecurity l, keySlot := imgSlot l, variants := imgMask l, digest := digest32 l }

/-- Records that the journal's ring holds: 64 bytes each in the 1 MiB of flash that R406 gives it. -/
def journalSize : Nat := 16384

/-- Records written to the journal's ring: the oldest make room. -/
def addJournal (s : State) (l : List Journal) : State :=
  let j := s.journal ++ l
  { s with journal := j.drop (j.length - journalSize) }

/-- `image_bytes` of the BEGIN record that a journal ends with. -/
def begunBytes (l : List Journal) : Nat :=
  match l.getLast? with
  | some (.begun _ n) => n
  | _ => 0

/-- 64 KiB sectors of an image with so many body bytes (R423). -/
def imageSectors (bytes : Nat) : Nat := ceilDiv (4096 + bytes) 65536

/-- A flash write that ends before its COMMIT: the sectors programmed until then have their records; their number is a free value
(DESIGN CHOICE, log entry 126). -/
def cutWrite (s : State) : State :=
  if s.writing.isNone then s
  else
    let r := takeFree s 8
    addJournal { r.2 with writing := none } ((List.range (min (imageSectors (begunBytes s.journal)) r.1)).map .sector)

/-- A journal whose last record is not COMMIT (R423). -/
def journalOpen (l : List Journal) : Bool :=
  match l.getLast? with
  | some .commit => false
  | some _ => true
  | none => false

/-- R407's checks on the image in flash. -/
def flashFault (s : State) : Nat :=
  let f := s.flash
  if journalOpen s.journal then 1
  else if f.bad = 2 then 2
  else if f.bad = 3 || keyRevoked s f.keySlot then 3
  else if f.bad = 4 then 4
  else if !securityOk s f.security then 5
  else if !variantOk s f.variants then 6
  else if f.bad = 7 then 7
  else 0

/-! ## The fuse map (R6, R410) -/

/-- Units of the ordering code: clusters, stacks, near ports, far ports. -/
def codeUnits (i : Nat) : Option (Nat × Nat × Nat × Nat) :=
  match i with
  | 0 => some (64, 32, 24, 8)
  | 1 => some (56, 28, 24, 8)
  | 2 => some (48, 24, 12, 4)
  | _ => none

/-- The logical numbers of a map that are present are those of a list. -/
def presentAre (l : List Byte) (n : Nat) (f : Nat → Bool) : Bool :=
  (List.range n).all fun i => (nth 0xFF#8 l i != 0xFF#8) == f i

/-- No physical unit twice; the unit in the low bits. -/
def noRepeat (l : List Byte) (mask : Nat) : Bool :=
  let x := (l.filter (· != 0xFF#8)).map fun b => b.toNat % mask
  decide x.Nodup

/-- The bytes that 0x2C00:0C covers. -/
def fuseCovered (s : State) : List Byte :=
  bytesOf 1 (dget s 0x2C00 1) ++ domGet s 0x2C00 2 ++ bytesOf 1 (dget s 0x2C00 3) ++ domGet s 0x2C00 4 ++ domGet s 0x2C00 6 ++
    domGet s 0x2C00 7 ++ domGet s 0x2C00 8 ++ domGet s 0x2C00 9 ++ bytesOf 8 (dget s 0x2C00 0x0A) ++ domGet s 0x2C00 0x0B

def fuseMapOk (s : State) : Bool :=
  match codeUnits (dget s 0x2C00 1) with
  | none => false
  | some (c, k, near, far) =>
    crc32 (fuseCovered s) == dget s 0x2C00 0x0C && dget s 0x2C00 3 == c &&
      presentAre (domGet s 0x2C00 4) 64 (fun i => decide (i < c)) &&
      presentAre (domGet s 0x2C00 7) 32 (fun i => decide (i < k)) &&
      presentAre (domGet s 0x2C00 8) 32 (fun i => decide (i < near) || (decide (24 ≤ i) && decide (i < 24 + far))) &&
      noRepeat (domGet s 0x2C00 4) 256 && noRepeat (domGet s 0x2C00 7) 32 && noRepeat (domGet s 0x2C00 8) 256

/-! ## What a start keeps (R398, R486, R487, R498) -/

/-- Entries that outlive every start: the fuse map, the history's, the log's and the manufacturer's. -/
def keptAlways (i sub : Nat) : Bool :=
  match i with
  | 0x2C00 => sub != 5
  | 0x2730 => sub != 4
  | 0x2710 => sub = 5 || sub = 6
  | 0x2900 => sub = 7
  | 0x2800 => sub = 5
  | 0x2C10 => sub = 3 || sub = 6
  | 0x2700 => sub = 6
  | 0x2B00 => sub = 8
  | _ => false

/-- Counters from the cold start, and the straps' latch: what a warm start keeps as well. -/
def keptWarm (i sub : Nat) : Bool :=
  (0x2D10 ≤ i && i < 0x2D80 && !(0x2D20 ≤ i && i < 0x2D30)) || (0x2300 ≤ i && i < 0x2320 && 0x0A ≤ sub) ||
    (i = 0x2000 && sub != 6)

def keptKey (cold : Bool) (k : Nat) : Bool := keptAlways (k / 256) (k % 256) || (!cold && keptWarm (k / 256) (k % 256))

/-- Log entries that have reached flash. -/
def flashLog (s : State) : List LogRec := s.log.filter (·.flash)

/-- The state after the loss of everything a cold or warm start loses. -/
def restartState (s : State) (cold : Bool) : State :=
  let s := cutWrite s
  { pending := s.pending, freeCtr := s.freeCtr, out := s.out
    now := if cold then 0 else s.now
    poweredBase := if cold then s.powerSaved else s.poweredBase
    startedAt := if cold then 0 else s.now
    stageAt := if cold then 0 else s.now
    dict := tabDrop (fun k => !keptKey cold k) s.dict
    dom := tabDrop (fun k => !keptKey cold k) s.dom
    transients := s.transients, retiredSlots := s.retiredSlots, markedSlots := s.markedSlots
    log := flashLog s, logNext := s.logNext, logGap := s.logGap + (s.log.length - (flashLog s).length)
    history := soundHistory s, histSector := s.histSector, histUsed := s.histUsed, histSeq := s.histSeq
    powerSaved := s.powerSaved, lastC3 := s.lastC3
    bootC3 := if cold then 0 else s.bootC3
    flash := s.flash, journal := s.journal, strapped := !cold && s.strapped
    pins :=
      if cold then {}
      else { inputOn := s.pins.inputOn, pwrEn := s.pins.pwrEn, pwrLevel := s.pins.pwrLevel, pwrAt := s.pins.pwrAt
             throttleLow := s.pins.throttleLow, thermTrip := s.pins.thermTrip }
    power := if cold then {} else { throttle := s.power.throttle, throttleLogged := s.power.throttleLogged }
    seq := if cold then {} else { s.seq with waiting := [] }
    corePower := if cold then [] else s.corePower
    fullTest := s.fullTest, sinceTest := s.sinceTest, retiredChannels := s.retiredChannels, store := s.store, storeHalf := s.storeHalf
    sweeps := s.sweeps
    canNode := if cold then 64 else s.canNode, canRate := if cold then 1 else s.canRate }

/-! ## Stored values and straps (R401, R487) -/

def storedKey (s : State) (k : Nat) : Bool := s.store.any (·.1 = k)

/-- A stored value in its entry. -/
def putStored (s : State) (x : Nat × List Byte) : State :=
  match dictEntry (x.1 / 256) (x.1 % 256) with
  | some e => if e.size = 0 then domSet s (x.1 / 256) (x.1 % 256) x.2 else dset s (x.1 / 256) (x.1 % 256) (natOfBytes x.2)
  | none => s

/-- A strap's value in the entry it feeds, where no stored value stands. -/
def feed (s : State) (i sub v : Nat) : State := if storedKey s (dkey i sub) then s else dset s i sub v

/-- The entries that the latched straps feed (R400, R401). -/
def feedStraps (s : State) : State :=
  let p := dget s 0x2000 1
  let node := if p % 128 = 0 then 64 else p % 128
  let rate := if p / 128 % 4 = 3 then 1 else p / 128 % 4
  let s := dset (dset (dset (dset s 0x2000 3 node) 0x2000 4 rate) 0x2000 5 (p / 512 % 2)) 0x2000 7 (p / 2048 % 2)
  let s := feed (feed (feed (feed s 0x2010 1 node) 0x2010 2 rate) 0x2200 1 (p / 512 % 2)) 0x2000 6 (p / 1024 % 2)
  let s := feed s 0x2100 1 (p / 2048 % 2)
  takeClass s (dget s 0x2100 1)

/-! ## Starting the firmware (R402 steps 3 to 6, R509) -/

/-- The measurements of a start. -/
def measureStart (s : State) : State :=
  let s := { s with measures := [] }
  let s := putMeasure s 0 (fitBytes 32 (if s.running.digest.isEmpty then Config.factoryDigest else s.running.digest))
  let s := measure s 1 (fuseBytes s)
  let s := if s.strapped then measure s 2 (bytesOf 2 (dget s 0x2000 1)) else s
  measureTest s

/-- Entries that the fuse map gives: MAC addresses, fused ports, the stacks. -/
def applyFuses (s : State) : State :=
  let s := (List.range 2).foldl (fun s e => dset s (0x2400 + e) 1 ((dget s 0x2C00 0x0A + e) % 2 ^ 48)) s
  let s := (List.range portCount).foldl (fun s p =>
    if nth 0xFF#8 (domGet s 0x2C00 8) p = 0xFF#8 then dset s (pIdx p) 1 linkFused else s) s
  dset s 0x2C10 1 ((domGet s 0x2C00 7).filter (· != 0xFF#8)).length

/-- The stacks of the fuse map: physical number, and whether half is absent. -/
def stackUnits (s : State) : List (Nat × Bool) :=
  ((domGet s 0x2C00 7).filter (· != 0xFF#8)).map fun b => (b.toNat % 32, bitOf b.toNat 7)

/-- Physical pseudo-channels that the fuse map has and that are not retired: 64 to a stack, the upper 32 absent with a half. -/
def fusedChannels (s : State) : List Nat :=
  rangeWhere 2048 fun q => (stackUnits s).any fun x => x.1 = q / 64 && (!x.2 || q % 64 < 32)

/-- A new challenge for unlock tokens (R512). -/
def drawChallenge (s : State) : State := let r := takeFree s 64; dset r.2 0x2B00 2 r.1

/-- The gap that entries not in flash have left, logged (R493). -/
def reportGap (s : State) : State :=
  if s.logGap = 0 then s
  else bootEvent (dadd { s with logGap := 0 } 0x2700 6 s.logGap) 0x0607 0 0

/-- MEMORY_POWER entered: the stacks ask for their tokens in ascending physical order (R416). -/
def enterMemoryPower (s : State) : State :=
  let s := setStage { s with wave := 0 } bsMemoryPower
  ((List.range 32).filter fun p => (stackUnits s).any (·.1 = p)).foldl (fun s p => requestWake s (.stack p true)) s

/-- Nothing that takes tokens is on. -/
def allOff (s : State) : Bool := s.seq.stacksOn.isEmpty && s.seq.clusters.isEmpty && s.seq.lasers.isEmpty

/-- STANDBY left where `PWR_EN` is high and what a warm start found powered is off (R397); an image from RECOVERY is
first written to flash (R399, R426). -/
def sampleStandby (s : State) : State :=
  if bootStage s = bsStandby && s.strapped && s.pins.pwrLevel && allOff s && !(dget s 0x2A10 2 = 3 && journalOpen s.journal) then
    enterMemoryPower s
  else s

/-- The node-ID and bit-rate set of 0x2010 taken up, and those of the straps (R425, R476). -/
def applyCan (s : State) : State := { s with canNode := dget s 0x2010 1, canRate := dget s 0x2010 2 }
def strapCan (s : State) : State := { s with canNode := dget s 0x2000 3, canRate := dget s 0x2000 4 }

/-- The management processor runs an image: the fuse map is checked, and the device stands by. -/
def runFirmware (s : State) (f : Firmware) (reason : Nat) : State :=
  let s := { s with running := f }
  let s := dset (dset (dset s 0x2A10 2 reason) 0x2A10 3 f.version) 0x2A10 4 f.security
  let s := applyFuses (s.store.foldl putStored s)
  let s := if s.strapped then feedStraps s else takeClass s (dget s 0x2100 1)
  let s := if reason = 0 || reason = 3 then applyCan s else s
  let s := measureStart (drawChallenge s)
  if !fuseMapOk s then raise (setStage s bsLost) { code := 0x010B, cls := 4 }
  else sampleStandby (reportGap (bootUp (setStage s bsStandby)))

/-- The starting blocks (R407): the image in flash runs, or the device recovers. -/
def startingBlocks (s : State) (reason : Nat) : State :=
  let n := flashFault s
  let s := dset (dset s 0x2A10 8 n) 0x2A10 2 reason
  if n = 0 then runFirmware s s.flash reason
  else
    let s := s.store.foldl putStored s
    let s := if s.strapped then feedStraps s else s
    bootUp (setStage (strapCan s) bsRecovery)

end Sys2Proof.Machine
end

