-- ==== Sys2Proof/Machine/Boot.lean ====
section
/-! DEFINITION. Input, straps, resets and the boot sequence (R396 to R420, R424, R425, R473, R503, R531, R532). -/

namespace Sys2Proof.Machine

/-! ## Input and straps (R396, R400, R401) -/

/-- INPUT_VALID: a cold start; the sequence goes on when the straps are latched (R402). -/
def execInputValid (s : State) : Host.Outcome State Fault Refusal :=
  if s.pins.inputOn then .next s
  else
    let s := restartState s true
    .next (dadd { s with pins := { s.pins with inputOn := true } } 0x2730 2 1)

/-- INPUT_INVALID: nothing is left but what flash and fuses hold. -/
def execInputInvalid (s : State) : Host.Outcome State Fault Refusal :=
  if s.pins.inputOn then .next (restartState s true) else .next s

/-- What the latch makes of a device whose sequence was reset before it (R398). -/
def lateStraps (s : State) (v : Nat) : State :=
  let s := feedStraps s
  if bootStage s = bsRecovery then strapCan s else applyCan (measure s 2 (bytesOf 2 v))

/-- STRAP_LATCH: once after a cold start, and with it the starting blocks (R402 steps 2 and 3); later it shows the pins as they read
now (R401). -/
def execStrapLatch (pins : BitVec 12) (s : State) : Host.Outcome State Fault Refusal :=
  let v := pins.toNat
  if !s.pins.inputOn then .next s
  else if s.strapped then .next (dset s 0x2000 2 v)
  else
    let s := dset (dset { s with strapped := true } 0x2000 1 v) 0x2000 2 v
    let s := if bootStage s = bsStartingBlocks && !s.pins.resetLow then startingBlocks s 0 else lateStraps s v
    let s := if v / 128 % 4 = 3 then bootEvent s 0x0602 0 0 else s
    .next (sampleStandby s)

/-! ## Slow inputs (R531, R532) -/

/-- Whether a filter takes a pulse of a width in ns: shorter than `reject` it ignores and counts it, from `accept` on it takes it, and
between them the outcome is either. -/
def filterTakes (s : State) (width reject accept : Nat) : State × Bool :=
  if width < reject then (dadd s 0x2D70 7 1, false)
  else if accept ≤ width then (s, true)
  else let r := takeFree s 1; if r.1 = 1 then (r.2, true) else (dadd r.2 0x2D70 7 1, false)

/-- A warm start; LOST is left by a cold start only (R398, R404). What was powered goes down through the sequencer, which is not reset
(R415; DEDUCED, log entry 111). -/
def warmStart (s : State) : State :=
  if bootStage s = bsLost then s
  else let s := restartState s false; (downUnits s).foldl requestWake s

/-- RESET_N: an accepted low is a warm start that holds; its end runs the starting blocks. -/
def execResetN (low : Bool) (width : Nat) (s : State) : Host.Outcome State Fault Refusal :=
  if !s.pins.inputOn || s.pins.resetLow = low then .next s
  else
    let r := filterTakes s width 1000 10000
    if !r.2 then .next r.1
    else if low then
      let s := warmStart r.1
      .next { s with pins := { s.pins with resetLow := true } }
    else
      let s := { r.1 with pins := { r.1.pins with resetLow := false } }
      .next (if bootStage s = bsLost then s else startingBlocks { s with startedAt := s.now } 1)

/-- WATCHDOG_EXPIRY: a warm start. -/
def execWatchdogExpiry (s : State) : Host.Outcome State Fault Refusal :=
  if !s.pins.inputOn || s.pins.resetLow || bootStage s = bsLost then .next s
  else .next (startingBlocks (warmStart s) 2)

/-- `PWR_EN` accepted low (R399): a C3 where a heat is not FREE, with its notices, and then power goes down. -/
def powerOff (s : State) : State :=
  if bsMemoryPower ≤ bootStage s && bootStage s ≤ bsReady then
    let s := if (liveHeats s).isEmpty then s
      else
        let s := raise s { code := 0x010A, cls := 3, cause := 14 }
        ((liveHeats s).filter fun h => canRestart s h).foldl (fun s h => sendFault s h 3 14 s.lap true) s
    powerDown s bsStandby
  else s

/-- A level of `PWR_EN` accepted. -/
def acceptPower (s : State) (level : Bool) : State :=
  let s := { s with pins := { s.pins with pwrLevel := level, pwrAt := some s.now } }
  if level then sampleStandby s else powerOff s

/-- PWR_EN: a filtered change, accepted 100 ms after the last accepted one at the earliest. -/
def execPwrEn (level : Bool) (width : Nat) (s : State) : Host.Outcome State Fault Refusal :=
  if !s.pins.inputOn then .next s
  else
    let r := filterTakes s width 100000 1000000
    if !r.2 then .next r.1
    else
      let changed := r.1.pins.pwrEn != level
      let soon := match r.1.pins.pwrAt with | some t => decide (r.1.now < t + ms 100) | none => false
      let s := { r.1 with pins := { r.1.pins with pwrEn := level } }
      if soon then .next (if changed then dadd s 0x2D70 3 1 else s)
      else if level = s.pins.pwrLevel then .next s
      else .next (acceptPower s level)

/-! ## Memory test (R206, R208, R411 to R414, R416) -/

/-- Whether the abbreviated memory test may run (R413). -/
def shortTestAllowed (s : State) : Bool :=
  match s.fullTest with
  | some (pass, hour, starts) =>
    pass && decide (poweredHour s ≤ hour + 168) && decide (dget s 0x2730 2 ≤ starts + 8) && !s.sinceTest
  | none => false

/-- MEMORY_TEST entered: which test runs. -/
def enterMemoryTest (s : State) : State :=
  let s := setStage s bsMemoryTest
  if dget s 0x2000 6 != 1 then dset s 0x2A10 9 0
  else if shortTestAllowed s then dset s 0x2A10 9 1
  else bootEvent (dset s 0x2A10 9 2) 0x0604 0 0

/-- The token requests of a warm-up wave (R416). -/
def waveUnits (s : State) (w : Nat) : List WakeUnit :=
  ((List.range 64).filter fun p => p % 8 = w && (clusterAt s p).isSome).map (.cluster · true)

/-- WARM_UP_WAVE: the next wave; clusters that do not come up are out of service (R411). The first ends step 7, in which the channels
named did not complete PHY training: they fail the memory test, and no abbreviated one may run (R412, R413). -/
def execWarmUpWave (failed : WaveFaults) (s : State) : Host.Outcome State Fault Refusal :=
  let st := bootStage s
  let stacksOn := (stackUnits s).all fun x => s.seq.stacksOn.contains x.1
  if !(st = bsWarmUp || (st = bsMemoryPower && stacksOn)) then .next s
  else
    let w := s.wave
    let s := if st = bsMemoryPower then
        setStage { s with untrained := failed.channels, sinceTest := s.sinceTest || !failed.channels.isEmpty } bsWarmUp
      else s
    let s := (waveUnits s w).foldl requestWake s
    let s := ((List.range 64).filter fun c => failed.clusters.contains c && clusterActive s c && physCluster s c % 8 = w).foldl clusterOut s
    let s := { s with wave := w + 1 }
    .next (if w = 7 then enterMemoryTest s else s)

/-- One channel retired (R206, R414). -/
def retireChannel (s : State) (q : Nat) : State :=
  let s := dadd { s with retiredChannels := q :: s.retiredChannels } 0x2C10 3 1
  raise (histAdd s histChannel [q]) { code := 0x0204, cls := 0, unit := q, unitKind := 2, detail := memDetail 0 q 0 }

/-- One row repaired (R414). -/
def repairRow (s : State) (r : Nat × Nat × Nat) : State :=
  raise (histAdd s histRow [r.1, r.2.1, r.2.2]) { code := 0x0206, cls := 0, unit := r.1, unitKind := 2, detail := memDetail 0 r.1 0 }

/-- A list of channels as a map of bits. -/
def channelMap (l : List Nat) : List Byte := (List.range 256).map fun i => byte (ofBits ((l.filter fun q => q / 8 = i).map (· % 8)))

/-- N, the placement and the top of memory (R204, R208). -/
def fixMemory (s : State) : State :=
  let l := (fusedChannels s).filter fun q => !s.retiredChannels.contains q
  let s := domSet (dset (dset s 0x2C10 2 l.length) 0x2C10 4 (l.length * 0x60000000 - 1)) 0x2C10 5 (channelMap l)
  dset (domSet s 0x2C10 6 []) 0x2C10 1 ((List.range 32).filter fun k => l.any fun q => q / 64 = k).length

/-- What the history keeps of a test (R413). -/
def recordTest (s : State) (failed : Bool) : State :=
  if dget s 0x2A10 9 = 1 then { s with sinceTest := s.sinceTest || failed }
  else
    let s := { s with fullTest := some (!failed, poweredHour s, dget s 0x2730 2), sinceTest := false }
    histAdd s histFullTest [b2n (!failed), poweredHour s, dget s 0x2730 2]

/-- MEMORY_TEST_COMPLETE: repairs and retirements, and N; stack memory holds test data that nobody knows, and the counts of the last
24 h begin anew (0x2720:03; DESIGN CHOICE, log entry 120). -/
def execMemoryTestComplete (failed : List Nat) (repaired : List (Nat × Nat × Nat)) (s : State) :
    Host.Outcome State Fault Refusal :=
  if bootStage s != bsMemoryTest then .next s
  else
    let s := repaired.foldl repairRow s
    let present := (fusedChannels s).filter fun q => !s.retiredChannels.contains q
    let bad := present.filter fun q => failed.contains q || s.untrained.contains q
    let gone := present.filter fun q => bad.contains q || retireMarked s q
    let s := recordTest s (!bad.isEmpty)
    let s := fixMemory (gone.foldl retireChannel { s with failedChannels := [] })
    let s := raise (dset s 0x2A10 0x0C bad.length) { code := 0x0205, cls := 0, detail := bytesOf 2 bad.length }
    .next (setStage { s with
      mem := [], blank := [(0, stackTop s, s.freeCtr + 1)], freeCtr := s.freeCtr + 1
      errs := [], corrs := [], scrubbed := [], scrubBegan := s.now } bsSelfTest)

/-! ## Self-test and margin plan (R411, R419, R502, R503) -/

def factoryBin (s : State) (q : Nat) : Nat := (nth 0#8 (domGet s 0x2C00 0x0B) q).toNat

/-- The slots of a quadrant that are not retired. -/
def quadrantSlots (s : State) (q : Nat) : List Nat :=
  (quadrantClusters s q).flatMap fun c => (clusterSlots c).filter fun p => !s.retiredSlots.contains p

/-- The plan trims of slots at a bin: each slot with its trim. -/
def trimsAt (s : State) (bin : Nat) (l : List Nat) : State × List (Nat × Nat) :=
  l.foldl (fun (a : State × List (Nat × Nat)) p => let r := planTrim a.1 p bin; (r.1, a.2 ++ [(p, r.2)])) (s, [])

/-- Every cluster absorbs its short slots with its own spare. -/
def absorbs (s : State) (q : Nat) (short : List Nat) : Bool :=
  (quadrantClusters s q).all fun c =>
    (short.filter fun p => p / 9 = c).length ≤
      (if ((clusterSlots c).filter fun p => !s.retiredSlots.contains p).length = 9 then 1 else 0)

/-- A bin and its short slots, for a quadrant at boot. -/
def chooseBin (q : Nat) : Nat → State → Nat → State × Nat × List Nat
  | 0, s, k => (s, k, [])
  | n + 1, s, k =>
    let r := trimsAt s k (quadrantSlots s q)
    let short := (r.2.filter fun x => x.2 > maxTrim).map (·.1)
    if absorbs r.1 q short || k ≥ 5 then (r.1, k, short) else chooseBin q n r.1 (k + 1)

/-- A slot retired at boot. -/
def retireAtBoot (s : State) (p cause : Nat) : State := slotEvent (retireSlot s p cause) p 0x0106 0 0 none

/-- The plan of a quadrant at boot (R503). -/
def bootPlan (s : State) (q : Nat) : State :=
  let r := chooseBin q 6 s (factoryBin s q)
  let s := domPut r.1 0x2800 3 4 1 q r.2.1
  r.2.2.foldl (fun s p => retireAtBoot s p causeShort) s

/-- The slot map of a cluster: usable slots in ascending order hold cores 0 to 7, the next is the spare. -/
def assignSlots (s : State) (c : Nat) : State :=
  let l := (clusterSlots c).filter fun p => !s.retiredSlots.contains p
  let s := ((clusterSlots c).filter fun p => s.retiredSlots.contains p).foldl (fun s p => setSlot s p slotRetired 0xF) s
  let s := ((List.range l.length).zip l).foldl (fun s x =>
    if x.1 < 8 then setSlot s x.2 slotActive x.1 else setSlot s x.2 slotSpareReady 0xF) s
  if l.length < 8 && clusterActive s c then clusterOut s c else s

/-- The trims of a quadrant's active slots at its bin. -/
def bootTrims (s : State) (q : Nat) : State :=
  let r := trimsAt s (quadrantBin s q) ((quadrantClusters s q).flatMap (activeSlots s))
  r.2.foldl (fun s x => setTrim s x.1 (min x.2 maxTrim)) r.1

/-- Lasers of every enabled port that is not fused; Ethernet port e is laser 32 + e (R420). -/
def laserUnits (s : State) : List WakeUnit :=
  (((List.range portCount).filter fun p => linkState s p != linkFused && portEnabled s p).map (.laser · true)) ++
    (((List.range 2).filter fun e => dget s (0x2400 + e) 4 = 1).map fun e => .laser (32 + e) true)

/-- LINK_TRAINING entered: lasers, and the pace. -/
def enterLinkTraining (s : State) : State :=
  let s := setStage { s with lap := 0, phase := 0, lapStartAt := s.now, slew := 0, slewed := 0 } bsLinkTraining
  let s := (laserUnits s).foldl requestWake s
  if dget s 0x2200 1 = 1 then startSetter s else s

/-- SELF_TEST_COMPLETE: failing slots retired, sweeps kept, the margin plan made. -/
def execSelfTestComplete (failed : List Nat) (sweeps : List Sweep) (s : State) : Host.Outcome State Fault Refusal :=
  if bootStage s != bsSelfTest then .next s
  else
    let s := s.markedSlots.foldl (fun s p => retireAtBoot s p causeCount) { s with markedSlots := [] }
    let s := ((List.range 576).filter fun p => failed.contains p && clusterActive s (p / 9)).foldl (fun s p => retireAtBoot s p causeBoot) s
    let s := sweeps.foldl (fun s w => if w.slot < 576 then addSweep s w.slot w else s) s
    let s := (List.range 4).foldl bootPlan s
    let s := (rangeWhere 64 (clusterActive s)).foldl assignSlots s
    let s := (List.range 4).foldl bootTrims s
    let s := histAdd { s with planHour := poweredHour s / 500 } histPlan ((List.range 4).map (quadrantBin s))
    let s := raise s { code := 0x0504, cls := 0, detail := domGet s 0x2800 3 }
    let s := updateLife s
    let s := enterLinkTraining s
    .next ((rangeWhere 64 (clusterActive s)).foldl setInterval s)

/-! ## READY (R420, R424) -/

/-- Every enabled port that is not fused is TRAINED or has its link up. -/
def portsUp (s : State) : Bool :=
  ((List.range portCount).all fun p => linkState s p = linkFused || !portEnabled s p || trained s p) &&
    ((List.range 2).all fun e => dget s (0x2400 + e) 4 != 1 || dget s (0x2400 + e) 2 = 1)

/-- The anti-rollback counter raised to the running image's version (R424). -/
def raiseAntiRollback (s : State) : State :=
  if s.running.security ≤ dget s 0x2C00 0x0D then s
  else
    let s := bootEvent (dset s 0x2C00 0x0D (min 64 s.running.security)) 0x0606 0 0
    measure s 1 (fuseBytes s)

/-- READY entered. -/
def enterReady (s : State) : State :=
  let s := dset (setStage s bsReady) 0x2A10 0x0D (min (2 ^ 32 - 1) ((s.now - s.startedAt) / 10000000))
  let s := histAdd s histBoot [dget s 0x2A10 2, dget s 0x2A10 9, dget s 0x2A10 0x0C]
  raiseAntiRollback (bootEvent s 0x0601 0 0)

/-- LINK_TRAINING_END: every port is up, or 20 s have passed. -/
def execLinkTrainingEnd (s : State) : Host.Outcome State Fault Refusal :=
  if bootStage s = bsLinkTraining && (portsUp s || decide (s.stageAt + ms 20000 ≤ s.now)) then .next (enterReady s) else .next s

/-! ## Tokens and powering down (R399, R415, R417) -/

/-- A port whose lasers have gone off is down. -/
def darkPorts (s : State) : State :=
  let s := ((List.range 2).filter fun e => !s.seq.lasers.contains (32 + e)).foldl (fun s e => setEthernet s e false) s
  ((List.range portCount).filter fun p => !s.seq.lasers.contains p && linkState s p != linkFused && linkState s p != linkDown).foldl
    (fun s p => leaveTrained s p linkDown) s

/-- POWERING_DOWN over: the stage it leads to. -/
def endPowerDown (s : State) : State :=
  if bootStage s = bsPoweringDown && allOff s then
    let s := { enterLoss s with lap := 0, phase := 0, mem := [], blank := [], errs := [] }
    let s := setStage s s.downTo
    sampleStandby (if s.downTo = bsStandby then bootUp s else s)
  else s

/-- WAKE_TOKEN_GRANT: the oldest request, once the window has room. -/
def execWakeTokenGrant (s : State) : Host.Outcome State Fault Refusal :=
  let s := grantNext s
  let s := if bootStage s = bsPoweringDown then darkPorts s else s
  .next (sampleStandby (endPowerDown s))

/-- CORE_IDLE_TIMEOUT: a core whose engines have held no command for 20 µs (R417). -/
def execCoreIdleTimeout (core : Nat) (s : State) : Host.Outcome State Fault Refusal :=
  let busy := !coreQuiet s core || controlBusy s core || (getCore s core).ctl.isSome
  if !linksUp s || !coreAwake s core || busy || s.now < (getCore s core).quietAt + 200000 then .next s
  else .next (requestWake s (.core core false))

/-- RECOVERY_ANNOUNCE: on CAN and to every node of the management link (R425). -/
def execRecoveryAnnounce (s : State) : Host.Outcome State Fault Refusal :=
  if bootStage s != bsRecovery then .next s
  else
    let s := if s.canState = 4 || s.busOff then s else emit s (.emcy (canId s 0x80) 0xFF10 (bytesOf 1 (dget s 0x2A10 8)))
    .next (emit s (.udp mgmtPort (mgmtLocal s) 0xFF020000000000000000000000000001 7341
      (domGet s 0x2C00 9 ++ bytesOf 1 (dget s 0x2A10 8))))

end Sys2Proof.Machine
end

