-- ==== Sys2Proof/Machine/Dict.lean ====
section
/-! DEFINITION. Writes to the object dictionary, and the paths that reach it: CAN FD, UDP, the test port (R338, R421 to R426,
R472 to R490, R508 to R515). -/

namespace Sys2Proof.Machine

/-! ## Who answers (R397, R425, R474) -/

/-- Indices that the starting blocks serve. -/
def recoveryHas (i : Nat) : Bool := i = 0x2000 || i = 0x2A10 || i = 0x2C00

/-- 0x2700:03 of a client. -/
def ownSeq (s : State) (p : Path) : Nat :=
  match s.readSeq.find? (·.1 = clientOf p) with
  | some x => x.2
  | none => oldestSeq s

/-! ## Reads (R488) -/

/-- What a read gives: an abort code, or 0 and the value. -/
def dictRead (s : State) (path : Path) (i sub : Nat) : Nat × List Byte :=
  if bootStage s = bsRecovery && !recoveryHas i then (abNoObject, [])
  else if !dictHasIndex i then (abNoObject, [])
  else match dictEntry i sub with
    | none => (abNoSub, [])
    | some e =>
      if e.acc = .wo then (abWriteOnly, [])
      else if i = 0x2700 && sub = 3 then (0, bytesOf 8 (ownSeq s path))
      else if i = 0x2700 && sub = 4 then
        let l := logEntry s (ownSeq s path)
        if l.isEmpty then (abNoData, []) else (0, l)
      else if noDataYet s i sub then (abNoData, [])
      else (0, entryBytes s e i)

/-! ## Ranges (R484) -/

/-- A numeric range: index, how many indices, sub-index, least, greatest, and what the value is a multiple of. -/
structure DictRange where
  index : Nat
  count : Nat
  sub   : Nat
  lo    : Nat
  hi    : Nat
  step  : Nat
deriving DecidableEq, Repr

def top64 : Nat := 2 ^ 64 - 1

def dictRanges : List DictRange := [
  ⟨0x2000, 1, 6, 0, 1, 1⟩, ⟨0x2010, 1, 1, 1, 127, 1⟩, ⟨0x2010, 1, 2, 0, 2, 1⟩, ⟨0x2100, 1, 1, 0, 1, 1⟩,
  ⟨0x2100, 1, 3, 1500, 4000, 1⟩, ⟨0x2100, 1, 6, 900, 1100, 1⟩, ⟨0x2100, 1, 7, 850, 1000, 1⟩, ⟨0x2100, 1, 8, 200, 450, 1⟩,
  ⟨0x2100, 1, 9, 400, 500, 1⟩, ⟨0x2200, 1, 1, 0, 1, 1⟩, ⟨0x2200, 1, 2, 15625, 156250000, 125⟩, ⟨0x2200, 1, 6, 0, 1, 1⟩,
  ⟨0x2300, 32, 8, 0, 1, 1⟩, ⟨0x2320, 1, 2, 24, 96, 1⟩, ⟨0x2320, 1, 3, 1000, 1000000, 1⟩, ⟨0x2320, 1, 4, 10, 10000, 1⟩,
  ⟨0x2320, 1, 5, 0, 100000, 1⟩, ⟨0x2320, 1, 6, 1000, 600000, 1⟩, ⟨0x2320, 1, 8, 0, 0xFFFE, 1⟩, ⟨0x2400, 2, 3, 1500, 9000, 1⟩,
  ⟨0x2400, 2, 4, 0, 1, 1⟩, ⟨0x2400, 2, 5, 0, 2, 1⟩, ⟨0x2400, 2, 7, 0, 2, 1⟩, ⟨0x2400, 2, 9, 0, 4094, 1⟩, ⟨0x2402, 1, 1, 0, 1, 1⟩,
  ⟨0x2402, 1, 4, 5, 3600, 1⟩, ⟨0x2440, 16, 1, 0, top64, 64⟩, ⟨0x2440, 16, 4, 0, top64, 64⟩, ⟨0x2440, 16, 6, 0, top64, 64⟩,
  ⟨0x2440, 16, 7, 0, top64, 256⟩, ⟨0x2440, 16, 8, 0, top64, 256⟩, ⟨0x2440, 16, 11, 1, 600, 1⟩]

def dictRangesHeat : List DictRange := [
  ⟨0x2500, 16, 2, 1, 4, 1⟩, ⟨0x2500, 16, 5, 0, 1, 1⟩, ⟨0x2500, 16, 6, 0, 1, 1⟩, ⟨0x2500, 16, 7, 0, 16, 1⟩,
  ⟨0x2500, 16, 8, 0, top64, 256⟩, ⟨0x2500, 16, 9, 0, 1, 1⟩, ⟨0x2500, 16, 10, 0, top64, 64⟩, ⟨0x2500, 16, 12, 0, top64, 64⟩,
  ⟨0x2500, 16, 15, 0, top64, 64⟩, ⟨0x2500, 16, 16, 64, 65536, 64⟩, ⟨0x2500, 16, 17, 0, top64, 64⟩, ⟨0x2510, 16, 1, 0, top64, 256⟩,
  ⟨0x2510, 16, 2, 0, top64, 256⟩, ⟨0x2530, 16, 3, 0, top64, 256⟩, ⟨0x2530, 16, 4, 0, top64, 256⟩, ⟨0x2530, 16, 7, 1, 2, 1⟩,
  ⟨0x2530, 16, 10, 4, 65535, 1⟩, ⟨0x2530, 16, 12, 1, 65534, 1⟩, ⟨0x2530, 16, 13, 0, top64, 64⟩, ⟨0x2530, 16, 17, 16, 65535, 1⟩,
  ⟨0x2530, 16, 18, 0, top64, 256⟩, ⟨0x2610, 1, 6, 0, 2, 1⟩, ⟨0x2610, 1, 8, 0, 1000, 1⟩, ⟨0x2610, 1, 9, 1, 65535, 1⟩,
  ⟨0x2700, 1, 5, 0, 5, 1⟩, ⟨0x2720, 1, 1, 0, 2, 1⟩, ⟨0x2720, 1, 2, 1, 168, 1⟩, ⟨0x2720, 1, 3, 1, 2 ^ 32 - 1, 1⟩,
  ⟨0x2730, 1, 4, 1000, 80000, 1⟩, ⟨0x2800, 1, 1, 15, 60, 1⟩, ⟨0x2900, 1, 1, 9, 720, 1⟩, ⟨0x2900, 1, 2, 0, 60, 1⟩,
  ⟨0x2900, 1, 3, 0, 60, 1⟩, ⟨0x2900, 1, 4, 0, 1, 1⟩, ⟨0x2900, 1, 5, 24, 720, 1⟩, ⟨0x2A10, 1, 6, 1, 2, 1⟩, ⟨0x2B00, 1, 4, 1, 1, 1⟩,
  ⟨0x2B00, 1, 7, 0, 7, 1⟩]

/-- A value inside the range that the tables give its entry, if they do. -/
def inTable (i sub v : Nat) : Bool :=
  match (dictRanges ++ dictRangesHeat).find? fun r => r.index ≤ i && i < r.index + r.count && r.sub = sub with
  | some r => decide (r.lo ≤ v) && decide (v ≤ r.hi) && v % r.step == 0
  | none => true

/-- The first index of an entry's family. -/
def familyOf (i : Nat) : Nat :=
  if 0x2300 ≤ i && i < 0x2320 then 0x2300
  else if i = 0x2401 then 0x2400
  else if 0x2440 ≤ i && i < 0x2450 then 0x2440
  else if 0x2500 ≤ i && i < 0x2510 then 0x2500
  else if 0x2510 ≤ i && i < 0x2520 then 0x2510
  else if 0x2530 ≤ i && i < 0x2540 then 0x2530
  else i

/-- The accepted token's body (R512). -/
def tokenBody (l : List Byte) : Nat := natOfBytes (l.take 64)
def tokFirst (b : Nat) : Nat := bitsOf b 383 372
def tokLast (b : Nat) : Nat := bitsOf b 371 360
def tokAnalogue (b : Nat) : Bool := bitOf b 359
def tokExtest (b : Nat) : Bool := bitOf b 358

def testUnlocked (s : State) : Bool := dget s 0x2B00 1 = 1

/-- A digital point that may be selected: off, or one that exists and that the accepted token allows (R513). -/
def pointOk (s : State) (p : Nat) : Bool :=
  let b := tokenBody s.token
  p = 0xFFFF || (decide (p ≤ 0x99A) && (!testUnlocked s || (decide (tokFirst b ≤ p) && decide (p ≤ tokLast b))))

/-- An analogue point that may be selected. -/
def analogueOk (s : State) (p : Nat) : Bool :=
  p = 0xFFFF || (decide (p ≤ 0x70) && (!testUnlocked s || tokAnalogue (tokenBody s.token)))

/-- Numbers of `w` bytes in a list. -/
def numbersOf (w : Nat) (l : List Byte) : List Nat := (List.range (l.length / w)).map fun n => natAt l (w * n) w

/-- An authorised-key entry's six zero bytes. -/
def keyEntryOk (l : List Byte) : Bool := (sliceBytes l 1 6).all (· == 0#8)

/-- A value inside its entry's stated range. -/
def valueOk (s : State) (i sub : Nat) (l : List Byte) : Bool :=
  let v := natOfBytes l
  inTable i sub v && match familyOf i, sub with
    | 0x2320, 5 => decide (dget s 0x2320 4 ≤ v)
    | 0x2440, 2 => v = 0 || (decide (6 ≤ v) && decide (v ≤ 16))
    | 0x2440, 5 => v = 0 || (decide (6 ≤ v) && decide (v ≤ 16))
    | 0x2440, 3 => decide (v < 2 ^ 18) || v = 0xFFFFFFFF
    | 0x2440, 9 => decide (v < 2 ^ 18) || v = 0xFFFFFFFF
    | 0x2500, 4 => (numbersOf 8 l).all fun x => x % 0x10000000 == 0
    | 0x2500, 0x10 => v == 2 ^ Nat.log2 v
    | 0x2530, 2 => (numbersOf 8 l).all fun x => x % 256 == 0
    | 0x2402, 2 => (chunk 1800 32 l).all keyEntryOk
    | 0x2B00, 5 => (numbersOf 2 l).all (pointOk s)
    | 0x2B00, 6 => analogueOk s v
    | _, _ => true

/-- A length that an entry allows. -/
def lengthOk (e : DictEntry) (i n : Nat) : Bool :=
  if e.size != 0 then n == e.size
  else match i, e.sub with
    | 0x2402, 2 => n % 1800 == 0 && decide (n ≤ 57600)
    | 0x2A00, 5 => n == 32
    | 0x2A10, 5 => decide (n ≤ 0x800000)
    | 0x2B00, 3 => true
    | _, _ =>
      if familyOf i = 0x2530 then n % 16 == 0 && decide (n ≤ 1024)
      else match domShapes.find? fun x => x.1 ≤ i && i < x.1 + x.2.1 && x.2.2.1 = e.sub with
        | some x => n == x.2.2.2.1
        | none => true

/-! ## States that forbid a write (R238, R298, R337, R338, R394, R421, R524) -/

/-- Every heat is in one of two states. -/
def heatsQuiet (s : State) (stopped : Bool) : Bool :=
  (liveHeats s).all fun h => stopped && (getHeat s h).st = .stopped

/-- A per-heat entry may be written. -/
def heatWritable (s : State) (h : Nat) (freeOnly : Bool) : Bool :=
  let st := (getHeat s h).st
  st = .free || (!freeOnly && st = .stopped)

def freeOnlyEntry (i sub : Nat) : Bool :=
  familyOf i = 0x2500 && (sub = 3 || sub = 4 || sub = 7 || sub = 8 || sub = 0x0D || sub = 0x0E)

/-- The device or the heat is in a state in which an entry may be written. -/
def stateAllows (s : State) (e : DictEntry) (i : Nat) : Bool :=
  match perHeat i with
  | some h => if e.acc = .rws || e.sub = 0x0E && familyOf i = 0x2500 then heatWritable s h (freeOnlyEntry i e.sub) else true
  | none =>
    if e.acc = .rws then
      if familyOf i = 0x2400 then dget s i 4 = 0
      else if i = 0x2320 && e.sub = 8 then heatsQuiet s false
      else heatsQuiet s true
    else if i = 0x2A10 then dget s 0x2A10 7 != 2 && dget s 0x2A10 7 != 3
    else true

/-- The pass-through that plans declare on every port fits under a VC2 cap (R317). -/
def vc2Fits (cap : Nat) (l : List Plan) : Bool :=
  (List.range portCount).all fun p =>
    decide (2 * l.foldl (fun a x => a + (x.ports.filter (·.port = p)).foldl (fun a y => a + y.vc2) 0) 0 ≤ cap)

/-- The abort code of a write that is rejected before anything is done, or 0 (R488). -/
def writeFault (s : State) (path : Path) (i sub : Nat) (l : List Byte) : Nat :=
  if (bootStage s = bsRecovery && !(i = 0x2A10 && (sub = 5 || sub = 6))) || !dictHasIndex i then abNoObject
  else match dictEntry i sub with
    | none => abNoSub
    | some e =>
      if e.acc = .ro || e.acc = .const then abReadOnly
      else if !lengthOk e i l.length then abLength
      else if !valueOk s i sub l then abRange
      else if i = 0x2B00 && 5 ≤ sub && !testUnlocked s then abLocked
      else if entryBusy s path i sub then abBusy
      else if !stateAllows s e i then abState
      else if familyOf i = 0x2300 && sub = 8 && natOfBytes l = 0 && portRequired s (i - 0x2300) then abRequired
      else if i = 0x2320 && sub = 2 && !vc2Fits (natOfBytes l) (s.plans.map (·.plan)) then abPlans
      else 0

/-! ## The dictionary store (R486) -/

def saveWord : Nat := 0x65766173
def loadWord : Nat := 0x64616F6C

def storable (e : DictEntry) (i : Nat) : Bool :=
  (e.acc = .rw || e.acc = .rws) && (perHeat i).isNone && i != 0x2B00 && !(i = 0x2700 && e.sub = 3)

/-- The current value of every storable entry. -/
def storeOf (s : State) : List (Nat × List Byte) :=
  dictTable.flatMap fun e => ((List.range e.count).map (e.index + ·)).filterMap fun i =>
    if storable e i then some (dkey i e.sub, entryBytes s e i) else none

/-- A save (the other half is written and becomes the current one), and an erasure; each is logged. -/
def saveStore (s : State) : State :=
  raise { s with store := storeOf s, storeHalf := 1 - s.storeHalf } { code := 0x0804, cls := 0, detail := bytesOf 1 (1 - s.storeHalf) }

def eraseStore (s : State) : State :=
  raise { s with store := [] } { code := 0x0804, cls := 0, detail := bytesOf 1 s.storeHalf }

/-- A write of 0x1010:01; `ok` false: the flash failed. -/
def writeStore (s : State) (v : Nat) (ok : Bool) : State × Nat :=
  if v != saveWord || !ok then (s, abStore) else (saveStore s, 0)

/-- A write of 0x1011:01. -/
def writeDefaults (s : State) (v : Nat) : State × Nat := if v != loadWord then (s, abStore) else (eraseStore s, 0)

/-! ## Entries with effects of their own -/

/-- The chip number (R338): every plan is removed, and every TRAINED port sends a new record. -/
def writeChip (s : State) (v : Nat) : State :=
  let s := dset s 0x2320 8 v
  let s := removePlans s fun _ => true
  let s := (trainedPorts s).foldl (fun s p => modPort s p fun x => { x with owes := true }) s
  if isSetter s then dset s 0x2200 7 v else s

/-- The pace role (R298). -/
def writeRole (s : State) (v : Nat) : State :=
  let old := dget s 0x2200 1
  let s := dset s 0x2200 1 v
  if v = old || !linksUp s then s
  else if v = 1 then paceEvent (startSetter s) 0x0401
  else paceEvent (enterLoss s) 0x0401

/-- The frequency reference (R298): a setter takes it up at once. -/
def writeReference (s : State) (v : Nat) : State :=
  let s := dset s 0x2200 6 v
  if isSetter s then dset s 0x2200 5 (if usesPaceIn s && s.paceIn.valid then psSetter else psSetterFree) else s

/-- A storage ring moved, resized or enabled anew begins its completion records again (R378). -/
def restartRing (s : State) (h : Nat) : State := modHeat s h fun x => { x with stDone := none }

/-- Lasers follow a port's control once the optics are on (R420, R538). -/
def portLaser (s : State) (unit v : Nat) : State := if linksUp s then requestWake s (.laser unit (v == 1)) else s

/-- The control of an Ethernet port. -/
def writeEthControl (s : State) (e v : Nat) : State :=
  let s := portLaser (dset s (0x2400 + e) 4 v) (32 + e) v
  if v = 0 then setEthernet s e false else s

/-- The power class, and the governor's way to its limit (R523, R524). -/
def writeClass (s : State) (v : Nat) : State := governor (takeClass s v)

/-! ## Test access (R511 to R513) -/

/-- What a `TMUX` pin drives (R511 to R514). -/
inductive TmuxOut where
  | low
  /-- A digital point, divided by 2 to this power. -/
  | point (p divider : Nat)
  /-- The same, too fast for the pin: its output is undefined. -/
  | undefinedRate (p divider : Nat)
deriving DecidableEq, Repr

/-- The rate of a digital point, in MHz: a core clock's is its quadrant's (R501, R514). -/
def pointMhz (s : State) (p : Nat) : Nat :=
  if p < 0x900 && p % 4 = 0 then 4000 - 80 * quadrantBin s (quadrantOf s (slotCluster (p / 4))) else Config.pointMhz p

/-- `TMUX` pin n: low while locked or off. -/
def tmuxOut (s : State) (n : Nat) : TmuxOut :=
  let p := natAt (domRead s 0x2B00 5) (2 * n) 2
  let d := dget s 0x2B00 7
  if !testUnlocked s || p = 0xFFFF then .low
  else if pointMhz s p > 250 * 2 ^ d then .undefinedRate p d
  else .point p d

/-- `TMUX_ANA`: the analogue point it shows; none is high impedance. -/
def tmuxAna (s : State) : Option Nat :=
  let p := dget s 0x2B00 6
  if !testUnlocked s || p = 0xFFFF then none else some p

/-- The levels of `TMUX[3:0]` at an instant: of a pin that shows a point, a free value (DESIGN CHOICE, log entry 128). -/
def tmuxLevels (s : State) : List Bool × State :=
  (List.range 4).foldl (fun (acc : List Bool × State) n => match tmuxOut s n with
    | .low => (acc.1 ++ [false], acc.2)
    | _ => let r := takeFree acc.2 1; (acc.1 ++ [r.1 == 1], r.2)) ([], s)

/-- The levels of the module's other digital pins: `PWR_EN`, `RESET_N`, `THROTTLE_N`, `ALERT_N`, `THERMTRIP_N`, `STRAP[11:0]` as latched
(R530). -/
def pinLevels (s : State) : List Bool :=
  [s.pins.pwrEn, !s.pins.resetLow, !s.pins.throttleLow, !alertDriven s, !s.pins.thermTrip] ++
    (List.range 12).map fun i => bitOf (dget s 0x2000 1) i

/-- Test access locked: no pin shows anything. -/
def lockTest (s : State) : State :=
  let s := dset (dset { s with token := [], extest := none } 0x2B00 1 0) 0x2B00 6 0xFFFF
  dset (domSet s 0x2B00 5 []) 0x2B00 7 0

/-- Whether a token unlocks (R512). -/
def tokenOk (s : State) (l : List Byte) : Bool :=
  let b := tokenBody l
  let n := bitsOf b 343 328
  let slot := bitsOf b 351 344
  let key := sliceBytes l 64 1793
  decide (bitsOf b 511 448 = serialDigest s) && decide (bitsOf b 447 384 = dget s 0x2B00 2) && decide (1 ≤ n) && decide (n ≤ 1536) &&
    decide (l.length = 1857 + n) && decide (slot ≤ 1) && !keyRevoked s (2 + slot) && digest32 key == Config.serviceKey slot &&
    Config.falconVerify key (Config.shake256 (l.take 64) 64) (sliceBytes l 1857 n)

/-- A write of an unlock token: the state and the abort code. -/
def writeToken (s : State) (l : List Byte) : State × Nat :=
  if tokenOk s l then
    let keep := if tokExtest (tokenBody l) then s.extest else none
    let s := drawChallenge (dadd (dset { s with token := l, extest := keep } 0x2B00 1 1) 0x2B00 8 1)
    (measureTest (raise s { code := 0x0801, cls := 0, detail := l.take 64 }), 0)
  else (raise (drawChallenge s) { code := 0x0803, cls := 0, detail := l.take 64 }, abToken)

/-- Relocked by a write of 1. -/
def relockTest (s : State) : State :=
  let b := s.token.take 64
  measureTest (raise (lockTest s) { code := 0x0802, cls := 0, detail := b })

/-! ## Firmware updates (R421 to R423, R426) -/

def upIdle : Nat := 0
def upReceiving : Nat := 1
def upWriting : Nat := 3
def upWritten : Nat := 4
def upFailed : Nat := 5

/-- The outcome of an update, logged (R494); the starting blocks keep no log. -/
def updateEvent (s : State) : State :=
  if bootStage s = bsRecovery then s else bootEvent s 0x0605 0 0

/-- The received image verified, and its flash write begun; in RECOVERY it runs first. -/
def verifyImage (s : State) : State :=
  let n := imageFault s s.image
  let f := firmwareOf s.image
  let head := s.image.take 4096
  let s := dset { s with image := [] } 0x2A10 8 n
  if n != 0 then updateEvent (dset s 0x2A10 7 upFailed)
  else
    let rec_ := bootStage s = bsRecovery
    let s := dset (addJournal { s with writing := some f } [.begun (digest32 head) (imgBytes head)]) 0x2A10 7 upWriting
    if rec_ then runFirmware s f 3 else s

/-- A write of 0x2A10:06. -/
def writeUpdateControl (s : State) (v : Nat) : State × Nat :=
  if v = 2 then ((if dget s 0x2A10 7 = upReceiving then dset { s with image := [] } 0x2A10 7 upIdle else s), 0)
  else if dget s 0x2A10 7 != upReceiving then (s, abState)
  else (verifyImage s, 0)

/-! ## One write (R474, R485) -/

/-- A write of 0x2700:03 for its client. -/
def writeSeq (s : State) (path : Path) (v : Nat) : State :=
  { s with readSeq := (clientOf path, v) :: s.readSeq.filter (·.1 != clientOf path) }

/-- A value in its entry. -/
def putEntry (s : State) (e : DictEntry) (i : Nat) (l : List Byte) : State :=
  if e.size = 0 then domSet s i e.sub l else dset s i e.sub (natOfBytes l)

/-- A write that nothing rejects beforehand: the state and the abort code. -/
def applyWrite (s : State) (path : Path) (e : DictEntry) (i : Nat) (l : List Byte) : State × Nat :=
  let v := natOfBytes l
  match familyOf i, e.sub with
  | 0x1010, _ => writeStore s v true
  | 0x1011, _ => writeDefaults s v
  | 0x2100, 1 => (writeClass s v, 0)
  | 0x2100, 3 => (governor (dset s 0x2100 3 v), 0)
  | 0x2200, 1 => (writeRole s v, 0)
  | 0x2200, 6 => (writeReference s v, 0)
  | 0x2200, 0x0C => ((List.range portCount).foldl showDelay (putEntry s e i l), 0)
  | 0x2300, _ =>
    let r := writePortControl s (i - 0x2300) v
    (if r.2 = 0 && linkState s (i - 0x2300) != linkFused then portLaser r.1 (i - 0x2300) v else r.1, r.2)
  | 0x2440, 1 | 0x2440, 2 => (restartRing (putEntry s e i l) (i - 0x2440), 0)
  | 0x2320, 8 => (writeChip s v, 0)
  | 0x2400, 4 => (writeEthControl s (i - 0x2400) v, 0)
  | 0x2500, 2 => heatControl s (i - 0x2500) v
  | 0x2700, 3 => (writeSeq s path v, 0)
  | 0x2A00, 5 => ({ s with nonce := some l, quote := [] }, 0)
  | 0x2A10, 5 => (dset { s with image := l } 0x2A10 7 upReceiving, 0)
  | 0x2A10, 6 => writeUpdateControl s v
  | 0x2B00, 3 => writeToken s l
  | 0x2B00, 4 => (relockTest s, 0)
  | 0x2B00, 7 => (putEntry s e i l, 0)
  | 0x2B00, _ => (measureTest (putEntry s e i l), 0)
  | _, _ => (putEntry s e i l, 0)

/-- One write by a path. -/
def dictWrite (s : State) (path : Path) (i sub : Nat) (l : List Byte) : State × Nat :=
  let ab := writeFault s path i sub l
  if ab != 0 then (s, ab)
  else match dictEntry i sub with
    | some e => applyWrite s path e i l
    | none => (s, abNoSub)

/-- A number as a client sends it: in its type's length, or longer where that does not hold it (R484). -/
def sentBytes (n v : Nat) : List Byte := bytesOf (if v < 256 ^ n then n else n + 1) v

/-- A write answered on its path; Starter carries none. -/
def writeBy (path : Path) (i sub : Nat) (l : List Byte) (s : State) : State :=
  match path with
  | .starter _ _ => s
  | _ =>
    if !dictAnswers s then s
    else
      let r := dictWrite s path i sub l
      reply r.1 path r.2 []

/-! ## Rows that write one entry -/

/-- PORT_CONTROL. -/
def execPortControl (path : Path) (port value : Nat) (s : State) : Host.Outcome State Fault Refusal :=
  .next (if port < portCount then writeBy path (0x2300 + port) 8 (sentBytes 1 value) s else s)

/-- CHIP_NUMBER. -/
def execChipNumber (path : Path) (value : Nat) (s : State) : Host.Outcome State Fault Refusal :=
  .next (writeBy path 0x2320 8 (sentBytes 2 value) s)

/-- POWER_CLASS. -/
def execPowerClass (path : Path) (value : Nat) (s : State) : Host.Outcome State Fault Refusal :=
  .next (writeBy path 0x2100 1 (sentBytes 1 value) s)

/-- PACE_ROLE. -/
def execPaceRole (path : Path) (value : Nat) (s : State) : Host.Outcome State Fault Refusal :=
  .next (writeBy path 0x2200 1 (sentBytes 1 value) s)

/-- QUOTE_NONCE. -/
def execQuoteNonce (path : Path) (nonce : List Byte) (s : State) : Host.Outcome State Fault Refusal :=
  .next (writeBy path 0x2A00 5 nonce s)

/-- UNLOCK_TOKEN. -/
def execUnlockToken (path : Path) (token : List Byte) (s : State) : Host.Outcome State Fault Refusal :=
  .next (writeBy path 0x2B00 3 token s)

/-- RELOCK. -/
def execRelock (path : Path) (value : Nat) (s : State) : Host.Outcome State Fault Refusal :=
  .next (writeBy path 0x2B00 4 (sentBytes 1 value) s)

/-- UPDATE_IMAGE. -/
def execUpdateImage (path : Path) (bytes : List Byte) (s : State) : Host.Outcome State Fault Refusal :=
  .next (writeBy path 0x2A10 5 bytes s)

/-- VERIFY_AND_WRITE. -/
def execVerifyAndWrite (path : Path) (s : State) : Host.Outcome State Fault Refusal :=
  .next (writeBy path 0x2A10 6 [1] s)

/-- DISCARD. -/
def execDiscard (path : Path) (s : State) : Host.Outcome State Fault Refusal :=
  .next (writeBy path 0x2A10 6 [2] s)

/-- RESTORE_DEFAULTS. -/
def execRestoreDefaults (path : Path) (value : W32) (s : State) : Host.Outcome State Fault Refusal :=
  .next (writeBy path 0x1011 1 (bytesOf 4 value.toNat) s)

/-- STORE_ALL: answered once the save has finished or failed. -/
def execStoreAll (path : Path) (value : W32) (ok : Bool) (s : State) : Host.Outcome State Fault Refusal :=
  match path with
  | .starter _ _ => .next s
  | _ =>
    if !dictAnswers s then .next s
    else
      let ab := writeFault s path 0x1010 1 (bytesOf 4 value.toNat)
      let r := if ab != 0 then (s, ab) else writeStore s value.toNat ok
      .next (reply r.1 path r.2 [])

/-- A vector engine register written by its core's command program (R161). -/
def writeVecReg (core : Nat) (f : VecState → VecState) (s : State) : State :=
  if (program s core).isSome then modVec s core f else s

/-- REGISTER_WRITE: an entry, or a vector engine register, that has no row of its own; or an access of a core's command program at an
address of its map (R161). -/
def execRegisterWrite (path : Path) (target : RegTarget) (value : List Byte) (s : State) : Host.Outcome State Fault Refusal :=
  let v := natOfBytes value
  match target with
  | .dict i sub => .next (writeBy path i sub value s)
  | .avl k => .next (writeVecReg k (fun x => { x with avl := v % 2 ^ 32 }) s)
  | .rngBase k => .next (writeVecReg k (fun x => { x with rngBase := v % 2 ^ 64 }) s)
  | .rngKey k => .next (writeVecReg k (fun x => { x with rngKey := v % 2 ^ 32 }) s)
  | .rngDraw k => .next (writeVecReg k (fun x => { x with rngDraw := v % 2 ^ 32 }) s)
  | .addr k n => .next (writeVecReg k (fun x => if n < 8 then { x with a := tabSet 0 x.a n (v % 2 ^ 64) } else x) s)
  | .store k a n => ctlStore k a n v s
  | .load k a n => .next (ctlLoad k a n s)

/-- UPDATE_WRITE_COMPLETE: the journal's SECTOR records and COMMIT, or a failed write that leaves a bad image (R422, R423). -/
def execUpdateWriteComplete (ok : Bool) (s : State) : Host.Outcome State Fault Refusal :=
  match s.writing with
  | none => .next s
  | some f =>
    let s := { s with log := s.log.map fun r => { r with flash := true } }
    if ok then
      let n := imageSectors (begunBytes s.journal)
      let s := addJournal { s with writing := none, flash := f } ((List.range n).map .sector ++ [.commit])
      .next (sampleStandby (updateEvent (dset (dset s 0x2A10 7 upWritten) 0x2A10 8 0)))
    else
      let s := cutWrite s
      .next (updateEvent (dset (dset s 0x2A10 7 upFailed) 0x2A10 8 8))

/-- The message that a quote signs (R510). -/
def quoteBody (s : State) (n : List Byte) : List Byte :=
  n ++ bytesOf 2 (ownChip s) ++ bytesOf 6 (s.lap % 2 ^ 48) ++ bytesOf 4 (dget s 0x2A00 7)

/-- QUOTE_READY: the latest nonce's quote. -/
def execQuoteReady (s : State) : Host.Outcome State Fault Refusal :=
  match s.nonce with
  | none => .next s
  | some n =>
    if !dictAnswers s || bootStage s = bsRecovery then .next s
    else
      let g := Config.falconSign (Config.shake256 (quoteBody s n ++ measureBytes s) 64)
      .next { s with nonce := none, quote := quoteBody s n ++ bytesOf 2 g.length ++ g }

/-! ## UDP (R477 to R480) -/

def udpMagic : Nat := 0x58444943

/-- A request datagram that is answered: its header's form and its length, from a client that the port has an address for. -/
def udpForm (s : State) (addr : Nat) (d : BitVec 256) (data : List Byte) : Bool :=
  (mgmtSource s addr).isSome &&
    decide (fld d 255 224 = udpMagic) && decide (fld d 223 216 = 1) && decide (fld d 207 201 = 0) &&
    decide (fld d 199 192 = 0) && decide (fld d 167 160 = 0) && decide (fld d 95 64 = data.length) && decide (data.length ≤ 1024)

/-- A reply's 32-byte header and its bytes. -/
def udpReply (d : BitVec 256) (op total abort : Nat) (value : List Byte) : List Byte :=
  bytesOf 32 (udpMagic * 2 ^ 224 + 2 ^ 216 + op * 2 ^ 208 + fld d 191 176 * 2 ^ 176 + fld d 175 168 * 2 ^ 168 +
    fld d 159 128 * 2 ^ 128 + fld d 127 96 * 2 ^ 96 + value.length * 2 ^ 64 + total % 2 ^ 32 * 2 ^ 32 + abort) ++ value

/-- The operations of a request, and those of a reply, which no request has: one that names them is answered with 0x0504_0001 (R477,
R488; that this reply is of the row's kind is a DESIGN CHOICE, log entry 129). -/
def udpOp (d : BitVec 256) : Nat := fld d 215 208
def udpReplyOp (d : BitVec 256) : Bool := udpOp d = 3 || udpOp d = 4

def oneSecond : Nat := 10000000000

/-- The reply kept for a repeated request (R480). -/
def keptReply (s : State) (a p req : Nat) : Option (List Byte) :=
  (s.replies.find? fun r => r.addr = a && r.port = p && r.req = req && decide (s.now < r.taken + oneSecond)).map (·.reply)

/-- A datagram to a client, from the address that serves it. -/
def sendUdpBytes (s : State) (a p : Nat) (l : List Byte) : State :=
  emit s (.udp mgmtPort ((mgmtSource s a).getD 0) a p l)

/-- A reply sent and kept. -/
def sendUdp (s : State) (a p req : Nat) (l : List Byte) : State :=
  sendUdpBytes { s with replies := ({ addr := a, port := p, req := req, reply := l, taken := s.now } :: s.replies).take 64 } a p l

/-- A READ segment: a copy is taken at offset 0, and later segments come from it (R479). -/
def udpRead (s : State) (a p : Nat) (d : BitVec 256) : State :=
  let i := fld d 191 176
  let sub := fld d 175 168
  let o := fld d 127 96
  let path := Path.udp a p
  let mine (c : ReadCopy) : Bool := c.path = path && c.index = i && c.sub = sub
  let send (s : State) (ab : Nat) (v : List Byte) : State :=
    sendUdp s a p (fld d 159 128)
      (if ab = 0 then udpReply d 3 v.length 0 ((v.drop o).take 1024) else udpReply d 3 0 ab [])
  if o = 0 then
    let r := dictRead s path i sub
    let s := { s with copies := s.copies.filter fun c => !mine c }
    if r.1 != 0 then send s r.1 []
    else send { s with copies := { path := path, index := i, sub := sub, value := r.2, taken := s.now } :: s.copies } 0 r.2
  else match s.copies.find? fun c => mine c && decide (s.now < c.taken + oneSecond) with
    | some c => send s 0 c.value
    | none => send s abTransfer []

/-- UDP_READ. -/
def execUdpRead (addr port : Nat) (header : BitVec 256) (data : List Byte) (s : State) : Host.Outcome State Fault Refusal :=
  if !dictAnswers s || !udpForm s addr header data || !(udpOp header = 1 || udpReplyOp header) then .next s
  else match keptReply s addr port (fld header 159 128) with
    | some l => .next (sendUdpBytes s addr port l)
    | none =>
      if udpReplyOp header then .next (sendUdp s addr port (fld header 159 128) (udpReply header 3 0 abCommand []))
      else .next (udpRead s addr port header)

/-- A client's open transfer for an entry. -/
def openTransfer (s : State) (path : Path) (i sub : Nat) : Option Transfer :=
  s.transfers.find? fun t => t.path = path && t.index = i && t.sub = sub

def dropTransfer (s : State) (path : Path) (i sub : Nat) : State :=
  { s with transfers := s.transfers.filter fun t => !(t.path = path && t.index = i && t.sub = sub) }

/-- What rejects a transfer as it opens: an entry that is not there, not written, or another client's now. -/
def openFault (s : State) (path : Path) (i sub : Nat) : Nat :=
  if (bootStage s = bsRecovery && !(i = 0x2A10 && (sub = 5 || sub = 6))) || !dictHasIndex i then abNoObject
  else match dictEntry i sub with
    | none => abNoSub
    | some e =>
      if e.acc = .ro || e.acc = .const then abReadOnly
      else if entryBusy s path i sub then abBusy
      else 0

/-- One segment of a write by a client (R475, R478): the state, the abort code and how many bytes have come. -/
def writeSegment (s : State) (path : Path) (i sub o : Nat) (l : List Byte) (last : Bool) : State × Nat × Nat :=
  let old := openTransfer s path i sub
  let s := dropTransfer s path i sub
  let start : Option (List Byte) := if o = 0 then some [] else
    match old with
    | some t => if t.data.length = o && decide (s.now ≤ t.last + oneSecond) then some t.data else none
    | none => none
  match start with
  | none => (s, abTransfer, 0)
  | some b =>
    let v := b ++ l
    if last then
      let r := dictWrite s path i sub v
      (r.1, r.2, if r.2 = 0 then v.length else 0)
    else
      let ab := openFault s path i sub
      if ab != 0 then (s, ab, 0)
      else ({ s with transfers := { path := path, index := i, sub := sub, data := v, last := s.now } :: s.transfers }, 0, v.length)

/-- UDP_WRITE. -/
def execUdpWrite (addr port : Nat) (header : BitVec 256) (data : List Byte) (s : State) : Host.Outcome State Fault Refusal :=
  if !dictAnswers s || !udpForm s addr header data || !(udpOp header = 2 || udpReplyOp header) then .next s
  else match keptReply s addr port (fld header 159 128) with
    | some l => .next (sendUdpBytes s addr port l)
    | none =>
      if udpReplyOp header then .next (sendUdp s addr port (fld header 159 128) (udpReply header 4 0 abCommand []))
      else
      let r := writeSegment s (.udp addr port) (fld header 191 176) (fld header 175 168) (fld header 127 96) data (fld header 200 200 == 1)
      .next (sendUdp r.1 addr port (fld header 159 128) (udpReply header 4 r.2.2 r.2.1 []))

/-- UDP_TRANSFER_TIMEOUT: nothing is written. -/
def execUdpTransferTimeout (addr port index sub : Nat) (s : State) : Host.Outcome State Fault Refusal :=
  match openTransfer s (.udp addr port) index sub with
  | some t => if t.last + oneSecond < s.now then .next (dropTransfer s (.udp addr port) index sub) else .next s
  | none => .next s

/-! ## CAN FD (R475, R476) -/

/-- CAN communication runs and is not stopped. -/
def canServes (s : State) : Bool := dictAnswers s && s.canState != 4 && !s.busOff

/-- A client's transfers dropped: it has one at a time. -/
def dropClient (s : State) (path : Path) : State :=
  { s with transfers := s.transfers.filter (·.path != path), copies := s.copies.filter (·.path != path) }

/-- Bytes of a value that one USDO message carries (PRESUMED, log entry 125). -/
def usdoBytes : Nat := 56

/-- What a USDO upload sends of a value from an offset on. -/
def usdoPart (s : State) (client o : Nat) (v : List Byte) : State :=
  emit s (.usdo (canId s 0x580) client 0 v.length ((v.drop o).take usdoBytes))

/-- A USDO upload: expedited, or its first segment; each later one continues it in order, within 1 s of the one before (R475). -/
def usdoUpload (s : State) (client i sub o : Nat) : State :=
  let path := Path.can client
  let c : ReadCopy := { path := path, index := i, sub := sub, value := [], taken := s.now, next := o + usdoBytes }
  let old := s.copies.find? fun c => c.path = path && c.index = i && c.sub = sub && c.next = o && decide (s.now ≤ c.taken + oneSecond)
  let t := dropClient s path
  let keep (v : List Byte) : State := if v.length ≤ o + usdoBytes then t else { t with copies := { c with value := v } :: t.copies }
  if o = 0 then
    let r := dictRead s path i sub
    if r.1 != 0 then reply t path r.1 [] else usdoPart (keep r.2) client 0 r.2
  else match old with
    | some x => usdoPart (keep x.value) client o x.value
    | none => reply t path abTransfer []

/-- USDO. -/
def execUsdo (client : Nat) (req : UsdoReq) (s : State) : Host.Outcome State Fault Refusal :=
  let path := Path.can client
  if !canServes s then .next s
  else if !req.valid then .next (reply (dropClient s path) path abCommand [])
  else match req.write with
    | none => .next (usdoUpload s client req.index req.sub req.offset)
    | some l =>
      let keep := match openTransfer s path req.index req.sub with
        | some t => [t]
        | none => []
      let s := dropClient s path
      let r := writeSegment { s with transfers := keep ++ s.transfers } path req.index req.sub req.offset l req.last
      .next (reply r.1 path r.2.1 [])

/-- USDO_TIMEOUT. -/
def execUsdoTimeout (client : Nat) (s : State) : Host.Outcome State Fault Refusal :=
  let path := Path.can client
  if ((s.transfers.any fun t => t.path = path && decide (t.last + oneSecond ≤ s.now)) ||
      s.copies.any fun c => c.path = path && decide (c.taken + oneSecond ≤ s.now)) && canServes s then
    .next (reply (dropClient s path) path abTransfer [])
  else .next s

/-- NMT: start, stop, pre-operational, and the two resets, which begin CAN communication afresh and touch nothing else. -/
def execNmt (command node : Nat) (s : State) : Host.Outcome State Fault Refusal :=
  if !dictAnswers s || s.busOff || !(node = 0 || node = s.canNode) then .next s
  else match command with
    | 1 => .next { s with canState := 5 }
    | 2 => .next { s with canState := 4 }
    | 128 => .next { s with canState := 127 }
    | 129 | 130 =>
      let s := { s with canState := 127, transfers := s.transfers.filter fun t => match t.path with | .can _ => false | _ => true }
      let s := { s with copies := s.copies.filter fun c => match c.path with | .can _ => false | _ => true }
      .next (bootUp (if bootStage s = bsRecovery then strapCan s else applyCan s))
    | _ => .next s

/-- HEARTBEAT: each period of 0x1017. -/
def execHeartbeat (s : State) : Host.Outcome State Fault Refusal :=
  let n := dget s 0x1017 0
  if !dictAnswers s || s.busOff || n = 0 || s.now < s.beatAt + ms n then .next s
  else .next (emit { s with beatAt := s.now } (.can (canId s 0x700) "heartbeat" [byte s.canState]))

/-! ## The test access port (R515) -/

/-- BYPASS: one bit. -/
def execBypass (s : State) : Host.Outcome State Fault Refusal :=
  .next (emit { s with extest := none } (.jtag 1 0))

/-- IDCODE. -/
def execIdcode (s : State) : Host.Outcome State Fault Refusal :=
  .next (emit { s with extest := none } (.jtag 32 (Config.idcode % 2 ^ 32)))

/-- SAMPLE/PRELOAD: the pins' levels are shifted out while the outputs that EXTEST will drive are shifted in. -/
def execSamplePreload (pins : Nat) (s : State) : Host.Outcome State Fault Refusal :=
  let r := tmuxLevels s
  .next (emit { r.2 with preload := pins, extest := none } (.jtag Config.scanLength (Config.scanBits (pinLevels s ++ r.1))))

/-- EXTEST: the preloaded outputs are driven where a token allows it and every heat is FREE, else BYPASS. -/
def execExtest (s : State) : Host.Outcome State Fault Refusal :=
  if testUnlocked s && tokExtest (tokenBody s.token) && (liveHeats s).isEmpty then .next { s with extest := some s.preload }
  else .next (emit { s with extest := none } (.jtag 1 0))

end Sys2Proof.Machine
end

