-- ==== Sys2Proof/Machine/PlanCode.lean ====
section
/-! DEFINITION. Job plans as bytes, and the checks on them (R316, R317, R338, R387, R388). -/

namespace Sys2Proof.Machine

/-! ## Sections (R387) -/

/-- A section: its type, where its contents begin in the plan, and the contents. -/
structure PlanSec where
  kind : Nat
  pos  : Nat
  data : List Byte
deriving DecidableEq, Repr

/-- The sections of a plan; the offset of the first one whose header breaks R387 otherwise. -/
def sectionsOf : Nat → Nat → List Byte → Except Nat (List PlanSec)
  | 0, _, _ => .ok []
  | fuel + 1, pos, l =>
    if l.isEmpty then .ok []
    else
      let k := natAt l 0 2
      let n := natAt l 4 4
      if l.length < 8 || natAt l 2 2 != 0 || k = 0 || k > 6 || l.length < 8 + n then .error pos
      else match sectionsOf fuel (pos + 8 + n) (l.drop (8 + n)) with
        | .ok t => .ok ({ kind := k, pos := pos + 8, data := (l.drop 8).take n } :: t)
        | .error e => .error e

/-- Where a section's header begins. -/
def PlanSec.head (x : PlanSec) : Nat := x.pos - 8

def secHeader : Nat := 1
def secDict : Nat := 2
def secPorts : Nat := 3
def secRoutes : Nat := 4
def secImages : Nat := 5
def secStorage : Nat := 6

/-- The DICT section's entries, each with its place; the offset of a broken one otherwise. -/
def dictWritesOf : Nat → Nat → Nat → List Byte → Except Nat (List (Nat × PlanWrite))
  | 0, _, _, _ => .ok []
  | fuel + 1, index, pos, l =>
    if l.isEmpty then .ok []
    else
      let n := natAt l 1 3
      if l.length < 4 + n then .error pos
      else match dictWritesOf fuel index (pos + 4 + n) (l.drop (4 + n)) with
        | .ok t => .ok ((pos, { index := index, sub := natAt l 0 1, value := (l.drop 4).take n }) :: t)
        | .error e => .error e

def portOfBytes (l : List Byte) : PlanPort :=
  let v := natOfBytes l
  { port := bitsOf v 7 0, role := bitsOf v 15 8, dim := bitsOf v 23 16, dir := bitsOf v 24 24, dateline := bitOf v 25
    optional := bitOf v 26, checkEpoch := bitOf v 27, minWidth := bitsOf v 31 28, peerChip := bitsOf v 47 32
    peerPort := bitsOf v 55 48, vc2 := bitsOf v 63 56, digest := bitsOf v 127 64 }

def routeOfBytes (l : List Byte) : PlanRoute :=
  let v := natOfBytes l
  { dst := bitsOf v 15 0, dor := BitVec.ofNat 32 (bitsOf v 47 16), min := BitVec.ofNat 32 (bitsOf v 79 48) }

def imageOfBytes (l : List Byte) : PlanImage := { dst := natAt l 0 6, bytes := natAt l 8 8, digest := sliceBytes l 16 32 }

/-- A target slot's bytes; a slot whose NQN is empty names no target. -/
def targetOfBytes (slot : Nat) (l : List Byte) : PlanTarget :=
  { slot := slot, nqn := sliceBytes l 0 223, addr := natOfBytesBE (sliceBytes l 224 16)
    port := if natAt l 240 2 = 0 then 4420 else natAt l 240 2, eth := natAt l 242 1 }

/-- Pieces of a section's contents, each with its offset in the plan. -/
def piecesOf (x : PlanSec) (n : Nat) : List (Nat × List Byte) :=
  (List.range (x.data.length / n)).map fun i => (x.pos + n * i, sliceBytes x.data (n * i) n)

/-! ## Items (R316, R387) -/

/-- A decoded plan with the place of every item. -/
structure RawPlan where
  plan   : Plan
  writes : List (Nat × PlanWrite)
  ports  : List (Nat × PlanPort)
  routes : List (Nat × PlanRoute)
  images : List (Nat × PlanImage)
deriving DecidableEq, Repr

def emptyPlan : Plan :=
  { transit := false, heat := 0, adaptive := false, tag := 0, epoch := 0, tail := 0, writes := [], ports := [], routes := []
    images := [], targets := [] }

/-- The first offset of a list at which a check fails. -/
def firstBad {α : Type} (ok : α → Bool) (l : List (Nat × α)) : Option Nat := (l.find? fun x => !ok x.2).map (·.1)

def reservedOk (kind : Nat) (l : List Byte) : Bool :=
  if kind = secRoutes then natAt l 10 2 == 0
  else if kind = secImages then natAt l 6 2 == 0
  else if kind = secStorage then natAt l 223 1 == 0 && natAt l 243 1 == 0 && decide (natAt l 242 1 ≤ 1)
  else true

/-- Bytes of an item of a section. -/
def itemBytes (kind : Nat) : Nat :=
  if kind = secPorts then 16 else if kind = secRoutes then 12 else if kind = secImages then 48 else 244

/-- A section of items of fixed size: whole items, reserved fields zero; four targets in STORAGE. -/
def sectionFault (x : PlanSec) : Option Nat :=
  if x.data.length % itemBytes x.kind != 0 || (x.kind = secStorage && x.data.length != 976) then some x.head
  else firstBad (reservedOk x.kind) (piecesOf x (itemBytes x.kind))

/-- The rules on which sections may stand, and how often. -/
def orderFault (transit : Bool) (heat : Nat) (l : List PlanSec) : Option Nat :=
  let count (k : Nat) : Nat := (l.filter (·.kind = k)).length
  let index (x : PlanSec) : Nat := natAt x.data 0 2
  (l.find? fun x =>
    x.kind = secHeader || (transit && x.kind != secPorts && x.kind != secRoutes) || (x.kind != secDict && count x.kind > 1) ||
      (x.kind = secDict && (decide (x.data.length < 2) || !(index x = hCfg heat || index x = hColl heat || index x = 0x2440 + heat) ||
        decide ((l.filter fun y => y.kind = secDict && index y = index x).length > 1)))).map PlanSec.head

/-- The HEADER's fields in their ranges. -/
def planHeadOk (l : List Byte) : Bool :=
  decide (l.length = 16) && decide (natAt l 0 1 ≤ 1) && (if natAt l 0 1 = 1 then natAt l 1 1 == 0xFF else decide (natAt l 1 1 < 16)) &&
    decide (natAt l 2 1 ≤ 1) && natAt l 3 1 == 0 && natAt l 4 4 != 0

def itemsOf (l : List PlanSec) (kind n : Nat) : List (Nat × List Byte) := (l.filter (·.kind = kind)).flatMap fun x => piecesOf x n

/-- Every write of the DICT sections. -/
def allWrites : List PlanSec → Except Nat (List (Nat × PlanWrite))
  | [] => .ok []
  | x :: l =>
    if x.kind != secDict then allWrites l
    else match dictWritesOf x.data.length (natAt x.data 0 2) (x.pos + 2) (x.data.drop 2), allWrites l with
      | .ok a, .ok b => .ok (a ++ b)
      | .error e, _ => .error e
      | _, .error e => .error e

/-- Where the header's fields lie in a plan: one out of its range is rejected there (R316, R317). -/
def planHeadAt : Nat := 8

/-- A plan's bytes decoded, or the offset of the first item that breaks R387. -/
def decodePlan (b : List Byte) : Except Nat RawPlan :=
  match sectionsOf b.length 0 b with
  | .error e => .error e
  | .ok [] => .error 0
  | .ok (h :: l) =>
    if h.kind != secHeader || h.data.length != 16 then .error 0
    else if !planHeadOk h.data then .error planHeadAt
    else
      let transit := natAt h.data 0 1 = 1
      let heat := natAt h.data 1 1
      match orderFault transit heat l, (l.filter (·.kind != secDict)).findSome? sectionFault, allWrites l with
      | some e, _, _ => .error e
      | none, some e, _ => .error e
      | none, none, .error e => .error e
      | none, none, .ok w =>
        let ports := (itemsOf l secPorts 16).map fun x => (x.1, portOfBytes x.2)
        let routes := (itemsOf l secRoutes 12).map fun x => (x.1, routeOfBytes x.2)
        let images := (itemsOf l secImages 48).map fun x => (x.1, imageOfBytes x.2)
        let slots := itemsOf l secStorage 244
        let targets := ((List.range slots.length).zip slots).filterMap fun x =>
          let t := targetOfBytes x.1 x.2.2
          if t.nqn.all (· == 0#8) then none else some t
        .ok {
          plan := { transit := transit, heat := heat, adaptive := natAt h.data 2 1 = 1, tag := natAt h.data 4 4
                    epoch := natAt h.data 8 4, tail := natAt h.data 12 4, writes := w.map (·.2), ports := ports.map (·.2)
                    routes := routes.map (·.2), images := images.map (·.2), targets := targets }
          writes := w, ports := ports, routes := routes, images := images }

/-! ## The fabric part (R316, R317, R338) -/

/-- A port entry's fields in their ranges; the port is not FUSED. -/
def portEntryOk (s : State) (transit : Bool) (x : PlanPort) : Bool :=
  decide (x.port < 32) && linkState s x.port != linkFused && decide (x.role ≤ 3) && ((x.role == roleTransit) == transit) &&
    (decide (x.dim ≤ 2) || x.dim = 0xFF) && (x.minWidth = 1 || x.minWidth = 2 || x.minWidth = 4) && decide (1 ≤ x.peerChip) &&
    decide (x.peerChip ≤ 0xFFFE) && decide (x.peerPort < 32) && decide (x.vc2 ≤ 48)

/-- A route's fields in their ranges, its masks naming ports of the plan that are not FUSED. -/
def routeEntryOk (s : State) (p : Plan) (x : PlanRoute) : Bool :=
  decide (1 ≤ x.dst) && decide (x.dst ≤ 0xFFFE) && decide (x.dor &&& x.min = x.dor) &&
    (bitsSet 32 (x.dor ||| x.min).toNat).all fun q => linkState s q != linkFused && p.ports.any (·.port = q)

/-- The plans that a new one replaces: the holder of its tag, and an earlier plan of its heat. -/
def replaces (p : Plan) (x : Installed) : Bool :=
  x.plan.tag = p.tag || (!p.transit && !x.plan.transit && x.plan.heat = p.heat)

/-- A port that another installed plan names otherwise. -/
def portTaken (s : State) (p : Plan) (x : PlanPort) : Bool :=
  (s.plans.filter fun y => !replaces p y).any fun y => y.plan.ports.any fun z =>
    z.port = x.port && ((!y.plan.transit && z.role != roleTransit) || z.peerChip != x.peerChip || z.peerPort != x.peerPort)

def maxPlans : Nat := 64
def maxRoutes : Nat := 262144

/-- What rejects the whole plan. -/
def wholeFault (s : State) (p : Plan) : Bool :=
  let rest := s.plans.filter fun y => !replaces p y
  (ownChip s = 0 && !(p.ports.isEmpty && p.routes.isEmpty)) ||
    (s.plans.any fun x => x.plan.tag = p.tag && decide (p.epoch ≤ x.plan.epoch)) ||
    (s.plans.any fun x => !x.plan.transit && replaces p x && (liveHeats s).any fun h =>
      heatTag s h = x.plan.tag && ((getHeat s h).st = .running || (getHeat s h).st = .stopping)) ||
    decide (rest.length ≥ maxPlans) || decide ((rest.flatMap fun x => x.plan.routes).length + p.routes.length > maxRoutes) ||
    !vc2Fits (dget s 0x2320 2) (p :: rest.map (·.plan)) ||
    (!p.transit && decide (((rest.flatMap fun x => x.plan.targets) ++ p.targets).length > 16))

/-- The first item of the fabric part that fails. -/
def fabricFault (s : State) (r : RawPlan) : Option Nat :=
  match firstBad (portEntryOk s r.plan.transit) r.ports, firstBad (routeEntryOk s r.plan) r.routes,
      firstBad (fun x => !portTaken s r.plan x) r.ports with
  | some e, _, _ => some e
  | none, some e, _ => some e
  | none, none, some e => some e
  | none, none, none => none

/-! ## The heat's part (R388) -/

/-- DICT writes made one after another; the abort code of the first that is rejected. -/
def tryWrites (s : State) (path : Path) : List PlanWrite → Except Nat State
  | [] => .ok s
  | w :: l =>
    if familyOf w.index = 0x2500 && w.sub = 2 then .error abState
    else
      let r := dictWrite s path w.index w.sub w.value
      if r.2 != 0 then .error r.2 else tryWrites r.1 path l

/-- The memory ranges that a plan gives its heat, and the place of that write. -/
def planRanges (r : RawPlan) : Option (Nat × List (Nat × Nat)) :=
  (r.writes.reverse.find? fun x => x.2.index = hCfg r.plan.heat && x.2.sub = 4).map fun x =>
    (x.1, ((List.range 8).map fun i => (natAt x.2.value (16 * i) 8, natAt x.2.value (16 * i + 8) 8)).filter fun y => y.2 != 0)

/-- The image that lies outside the plan's ranges, or the ranges that clash with another heat's. -/
def rangeFault (s : State) (r : RawPlan) (session : Nat) : Option Nat :=
  let l := match planRanges r with | some x => x.2 | none => []
  let other (k : Nat) : Bool := (getHeat s k).st != .free || (match (getHeat s k).claim with | some n => n != session | none => false)
  match firstBad (fun x => coveredBy 9 l x.dst x.bytes) r.images, planRanges r with
  | some e, _ => some e
  | none, some x => if rangesFit s r.plan.heat x.2 other then none else some x.1
  | none, none => none

end Sys2Proof.Machine
end

