-- ==== Sys2Proof/Machine/Net.lean ====
section
/-! DEFINITION. Ethernet ports and the Starter protocol (R374, R375, R384 to R393, R461, R549). -/

namespace Sys2Proof.Machine

/-! ## Ethernet frames (R374) -/

def ethLinkUp (s : State) (e : Nat) : Bool := dget s (0x2400 + e) 2 = 1

/-- EtherType and payload of a frame that the port's VLAN setting admits and whose payload its MTU holds. -/
def admitFrame (s : State) (e : Nat) (l : List Byte) : Option (Nat × List Byte) :=
  let tagged := typeAt l 12 = 0x8100
  let v := vlanId s e
  let body := if tagged then l.drop 18 else l.drop 14
  if body.length > dget s (0x2400 + e) 3 then none
  else if tagged then (if v != 0 && typeAt l 14 % 4096 = v then some (typeAt l 16, body) else none)
  else if v = 0 then some (typeAt l 12, body) else none

/-- ETHERNET_FRAME. TCP segments reach Starter and storage as their own commands. -/
def execEthernetFrame (port : Nat) (frame : List Byte) (s : State) : Host.Outcome State Fault Refusal :=
  if !(port < 2 && ethLinkUp s port) then .next s
  else match pauseOf frame with
    | some t => .next (releasePaused { s with paused := setNth s.paused port (s.now + t) })
    | none => match if frameForPort s port frame then admitFrame s port frame else none with
      | none => .next s
      | some (t, l) =>
        let from_ := sliceBytes frame 6 6
        if t = 0x0800 then .next (takeIpv4 s port from_ l)
        else if t = 0x86DD then .next (takeIpv6 s port from_ l)
        else if t = 0x0806 then .next (takeArp s port l)
        else .next s

/-- ETHERNET_LINK_STATE: the link of an enabled port comes up once the optics are on, and goes down at any time. -/
def execEthernetLinkState (port : Nat) (up : Bool) (s : State) : Host.Outcome State Fault Refusal :=
  if port < 2 && (!up || (linksUp s && laserReady s (32 + port) && dget s (0x2400 + port) 4 = 1)) then .next (setEthernet s port up) else .next s

/-! ## Sessions (R375, R384, R385) -/

def starterPort : Nat := 7340
def maxSessions : Nat := 64

/-- What the device offers on a TCP connection: ECN by the flags of its SYN, ECE and CWR, or of its SYN-ACK, ECE; and the kinds of the
options window scaling, SACK and timestamps (R374; laid out as PRESUMED in log entry 108). -/
def synOffer : List Byte := hexBytes [0xC2, 3, 4, 8]
def tcpOptions : List Byte := hexBytes [0x52, 3, 4, 8]

/-- TCP_CONNECTION: accepted for Starter while it is open for business, else answered with RST. -/
def execTcpConnection (port tcpPort : Nat) (s : State) : Host.Outcome State Fault Refusal :=
  if !(port < 2 && ethLinkUp s port) then .next s
  else if tcpPort != starterPort || bootStage s != bsReady || dget s 0x2402 1 = 0 || s.sessions.length ≥ maxSessions then
    .next (emit s (.tcp port "rst" (segment s port (bytesOf 2 tcpPort))))
  else
    let n := s.nextSession
    let s := { s with
      sessions := tabSet { eth := 2 } s.sessions n { eth := port, since := s.now, last := s.now }
      nextSession := n + 1 }
    .next (emit s (.tcp port "accept" (segment s port (bytesOf 4 n ++ tcpOptions))))

/-- The longest record (R384). -/
def maxRecord : Nat := 16 * 1048576 + 24

def setSession (s : State) (n : Nat) (x : Session) : State := { s with sessions := tabSet { eth := 2 } s.sessions n x }

/-- A record that is rejected closes its session. -/
def rejectRecord (s : State) (n : Nat) : State := closeSession (dadd s 0x2D40 3 1) n

/-- A set-up that fails closes its session. -/
def failSetUp (s : State) (n : Nat) : State := closeSession (dadd s 0x2D40 2 1) n

/-- HELLO_REPLY up to its signature, and what SHAKE256 covers of both messages. -/
def helloReply (s : State) (nonce cipher : List Byte) : List Byte := nonce ++ cipher ++ bytesOf 2 (ownChip s)

def transcriptOf (req version : Nat) (nonce kem reply : List Byte) : List Byte :=
  Config.shake256 (messageOf 1 req (bytesOf 4 version ++ nonce ++ kem) ++ messageOf 2 req reply) 64

/-- HELLO (R385 steps 2 and 3). -/
def execHello (session version : Nat) (nonce kem : List Byte) (rcd : RecordIn) (s : State) :
    Host.Outcome State Fault Refusal :=
  match getSession s session with
  | none => .next s
  | some x =>
    if rcd.len > maxRecord then .next (rejectRecord s session)
    else if x.stage != 0 || version != 1 || nonce.length != 32 || kem.length != 1568 then .next (failSetUp s session)
    else
      let r := freeBytes s 32
      let seed := takeFree r.2 256
      let body := helloReply s r.1 (Config.kemCiphertext kem seed.1)
      let t := transcriptOf rcd.req version nonce kem body
      let k := Config.shake256 (Config.kemSecret kem seed.1 ++ t) 88
      let s := setSession seed.2 session { x with stage := 1, last := s.now, recsIn := 1, transcript := t, secrets := k }
      .next (sendStarter s session 2 rcd.req (body ++ Config.falconSign t))

/-- The rights byte of an authorised key (0x2402:02). -/
def keyRights (s : State) (key : List Byte) : Option Nat :=
  ((chunk 1800 32 (domGet s 0x2402 2)).find? fun l => sliceBytes l 7 1793 == fitBytes 1793 key).map fun l => (nth 0#8 l 0).toNat

/-- AUTH (R385 step 5). A record whose tag fails holds no message: the command with `tagOk` false stands for any such record, at every
stage of its session (R384). -/
def execAuth (session : Nat) (tagOk : Bool) (rcd : RecordIn) (key sig : List Byte) (s : State) :
    Host.Outcome State Fault Refusal :=
  match getSession s session with
  | none => .next s
  | some x =>
    if !tagOk || rcd.len > maxRecord then .next (rejectRecord s session)
    else if x.stage != 1 then .next (failSetUp s session)
    else match keyRights s key with
      | none => .next (failSetUp s session)
      | some r =>
        if !Config.falconVerify key x.transcript sig then .next (failSetUp s session)
        else
          let s := dadd (setSession s session { x with stage := 2, rights := r, last := s.now, recsIn := x.recsIn + 1 }) 0x2D40 1 1
          .next (sendStarter s session 4 rcd.req [byte r])

/-- SESSION_SETUP_TIMEOUT: 5 s. -/
def execSessionSetupTimeout (session : Nat) (s : State) : Host.Outcome State Fault Refusal :=
  match getSession s session with
  | some x => if x.stage < 2 && x.since + ms 5000 ≤ s.now then .next (failSetUp s session) else .next s
  | none => .next s

/-- SESSION_IDLE_TIMEOUT: idle for longer than 0x2402:04. -/
def execSessionIdleTimeout (session : Nat) (s : State) : Host.Outcome State Fault Refusal :=
  match getSession s session with
  | some x => if x.stage = 2 && x.last + ms (1000 * dget s 0x2402 4) < s.now then .next (closeSession s session) else .next s
  | none => .next s

/-- A session that has used up its records in one direction closes (R384). -/
def closeSpent (s : State) (n : Nat) : State :=
  match getSession s n with
  | some x => if x.recsIn ≥ maxRecords || x.recsOut ≥ maxRecords then closeSession s n else s
  | none => s

/-- Every session that has used up its records closed. -/
def closeAllSpent (s : State) : State := (s.sessions.map (·.1)).foldl closeSpent s

/-- A message on an open session whose link is up: counted, checked for a right, and acted on. -/
def onMessage (s : State) (n req : Nat) (right : Nat → Bool) (f : State → State) : State :=
  match getSession s n with
  | some x =>
    if x.stage != 2 || !ethLinkUp s x.eth then s
    else
      let s := touchSession s n
      closeSpent (if right x.rights then f s else sendResult s n req resRights 0) n
  | none => s

def needs (right : Nat) (r : Nat) : Bool := bitOf r right

/-- PING. -/
def execPing (session req : Nat) (s : State) : Host.Outcome State Fault Refusal :=
  .next (onMessage s session req (fun _ => true) fun s => sendResult s session req resOk 0)

/-- CLOSE. -/
def execClose (session : Nat) (s : State) : Host.Outcome State Fault Refusal := .next (closeSession s session)

/-- STATUS_REQ: every entry's abort code, length and value. -/
def execStatusReq (session req : Nat) (entries : List (Nat × Nat)) (s : State) : Host.Outcome State Fault Refusal :=
  .next (onMessage s session req (needs rightStatus) fun s =>
    if entries.length > 256 then sendResult s session req resBadMessage (8 + 3 * 256)
    else sendStarter s session msgStatus req (entries.flatMap fun e =>
      let r := dictRead s (.starter session req) e.1 e.2
      bytesOf 4 r.1 ++ bytesOf 4 r.2.length ++ r.2))

/-! ## Plans (R388, R389, R549) -/

def wholePlan : Nat := 0xFFFFFFFF

/-- The heat is claimed by another session. -/
def claimedElse (s : State) (h n : Nat) : Bool := match (getHeat s h).claim with | some m => m != n | none => false

/-- A rejected plan; one that the fabric part rejects is logged (R317) with its tag and epoch, as far as they are known, behind a
discovery record of zeros, since none was received for it (R494). -/
def rejectPlan (s : State) (n req detail : Nat) (log : Option (List Byte)) : State :=
  let s := match log with
    | some l => raise s { code := 0x0303, cls := 0, detail := zeros 32 ++ l }
    | none => s
  sendResult s n req resPlanRejected detail

/-- A plan's tag and epoch. -/
def planId (p : Plan) : List Byte := bytesOf 4 p.tag ++ bytesOf 4 p.epoch

/-- Connections to a plan's targets, to be opened. -/
def addConns (s : State) (p : Plan) : State :=
  { s with conns := (s.conns.filter (·.heat != p.heat)) ++ p.targets.map fun t => { heat := p.heat, slot := t.slot, down := s.now } }

/-- 0x2440 + h:0A: the STORAGE section in force. -/
def targetBytes (t : PlanTarget) : List Byte :=
  fitBytes 223 t.nqn ++ [0] ++ bytesBE 16 t.addr ++ bytesOf 2 t.port ++ bytesOf 1 t.eth ++ [0]

def storageSection (p : Plan) : List Byte :=
  if p.targets.isEmpty then []
  else (List.range 4).flatMap fun i => match p.targets.find? (·.slot = i) with
    | some t => targetBytes t
    | none => zeros 244

/-- A plan installed in the place of those it replaces. -/
def installPlan (s : State) (p : Plan) : State :=
  let gone := s.plans.filter (replaces p)
  let new : Installed := { plan := p, spans := p.images.map fun _ => [], matched := p.images.map fun i => decide (i.bytes = 0) }
  let s := dropTargets s (gone.filter fun x => p.transit || x.plan.heat != p.heat)
  let s := plansRecord { s with plans := (s.plans.filter fun x => !replaces p x) ++ [new] }
  plansChanged s ((gone.flatMap fun x => x.plan.ports) ++ p.ports)

/-- A HEAT plan that passes: its writes are made, it is installed, its targets named, the heat claimed. -/
def installHeatPlan (s : State) (p : Plan) (n : Nat) : State :=
  let s := addConns (installPlan s p) p
  let s := domSet s (netIdx p.heat) 0x0A (storageSection p)
  if (getHeat s p.heat).st = .free then modHeat s p.heat fun x => { x with claim := some n } else s

/-- A decoded plan checked and installed. -/
def submitPlan (s : State) (n req : Nat) (r : RawPlan) : State :=
  let p := r.plan
  if !p.transit && claimedElse s p.heat n then sendResult s n req resBusy 1
  else match fabricFault s r with
    | some e => rejectPlan s n req e (some (planId p))
    | none =>
      if wholeFault s p then rejectPlan s n req wholePlan (some (planId p))
      else if p.transit then sendResult (installPlan s p) n req resOk 0
      else match tryWrites s (.starter n req) p.writes, rangeFault s r n with
        | .error a, _ => sendResult s n req resDictAbort a
        | .ok _, some e => rejectPlan s n req e none
        | .ok s', none => sendResult (installHeatPlan s' p n) n req resOk 0

/-- PLAN_SUBMIT. -/
def execPlanSubmit (session req : Nat) (plan : List Byte) (s : State) : Host.Outcome State Fault Refusal :=
  .next (onMessage s session req (fun r => needs rightSubmit r || needs rightPlan r) fun s =>
    match decodePlan plan with
    | .error e => rejectPlan s session req e (if e = planHeadAt then some [] else none)
    | .ok r => submitPlan s session req r)

/-- PLAN_REMOVE. -/
def execPlanRemove (session req tag : Nat) (s : State) : Host.Outcome State Fault Refusal :=
  let hit (x : Installed) : Bool := x.plan.transit && x.plan.tag = tag
  .next (onMessage s session req (needs rightPlan) fun s =>
    if s.plans.any hit then sendResult (removePlans s hit) session req resOk 0
    else sendResult s session req resPlanRejected wholePlan)

/-! ## Images and the start of a job (R390) -/

/-- The plan whose heat a session claims: the one submitted last. -/
def claimedPlan (s : State) (n : Nat) : Option Installed :=
  s.plans.reverse.find? fun x => !x.plan.transit && (getHeat s x.plan.heat).claim = some n

def modPlan (s : State) (tag : Nat) (f : Installed → Installed) : State :=
  { s with plans := s.plans.map fun x => if !x.plan.transit && x.plan.tag = tag then f x else x }

/-- The first byte from `a` on that no span covers. -/
def coverEnd (spans : List (Nat × Nat)) : Nat → Nat → Nat
  | 0, a => a
  | fuel + 1, a => match spans.find? fun r => r.1 ≤ a && a < r.1 + r.2 with
    | some r => coverEnd spans fuel (r.1 + r.2)
    | none => a

/-- Every byte of an image has been written. -/
def imageWhole (spans : List (Nat × Nat)) (bytes : Nat) : Bool := bytes ≤ coverEnd spans (spans.length + 1) 0

/-- An image counts as not written. -/
def forgetImage (s : State) (tag i : Nat) : State :=
  modPlan s tag fun x => { x with spans := setNth x.spans i [], matched := setNth x.matched i false }

/-- The digest of an image that has come whole. -/
def checkImage (s : State) (n req tag i : Nat) (m : PlanImage) : State :=
  let r := checkRead s m.dst m.bytes
  if !r.2 then sendResult (forgetImage r.1 tag i) n req resMemoryError i
  else
    let ok := digest32 (readBytes r.1 m.dst m.bytes) == m.digest
    let s := modPlan r.1 tag fun x => { x with matched := setNth x.matched i ok }
    if ok then sendResult s n req resOk 0 else sendResult s n req resImageDigest i

/-- Image bytes taken; what lies outside the image is the offset's fault, or that of the first byte too many. -/
def takeImage (s : State) (n req : Nat) (x : Installed) (i o : Nat) (l : List Byte) : State :=
  match x.plan.images[i]? with
  | none => sendResult s n req resBadMessage 8
  | some m =>
    if o + l.length > m.bytes then sendResult s n req resBadMessage (if m.bytes ≤ o then 10 else 16 + (m.bytes - o))
    else
      let tag := x.plan.tag
      let r := storeStack s (m.dst + o) l
      if !r.2 then sendResult (forgetImage r.1 tag i) n req resMemoryError i
      else
        let spans := (o, l.length) :: nth [] x.spans i
        let s := modPlan r.1 tag fun y => { y with spans := setNth y.spans i spans, matched := setNth y.matched i false }
        if imageWhole spans m.bytes then checkImage s n req tag i m else sendResult s n req resOk 0

/-- IMAGE_DATA. -/
def execImageData (session req image offset : Nat) (data : List Byte) (s : State) : Host.Outcome State Fault Refusal :=
  .next (onMessage s session req (needs rightSubmit) fun s =>
    match claimedPlan s session with
    | none => sendResult s session req resDictAbort abState
    | some x => takeImage s session req x image offset data)

/-- JOB_START: answered when the heat is RUNNING, or at once where it is refused. -/
def startJob (s : State) (n req h : Nat) (seed : Nat) : State :=
  if heatCount ≤ h then sendResult s n req resBadMessage 8
  else if claimedElse s h n then sendResult s n req resBusy 1
  else
    let ready := (getHeat s h).claim = some n && (s.plans.any fun x => !x.plan.transit && x.plan.heat = h && x.matched.all id)
    if !ready || (getHeat s h).st != .free then sendResult s n req resDictAbort abState
    else if bootStage s != bsReady then sendResult s n req resDictAbort abState
    else
      let t := modHeat (dset s (hCfg h) 0x0E seed) h fun x => { x with starter := some (n, req) }
      let r := startHeat t h
      if r.2 = 0 then r.1
      else sendResult (modHeat r.1 h fun x => { x with starter := none }) n req resStartFailed r.2

/-- JOB_START. -/
def execJobStart (session req heat : Nat) (seed : W64) (s : State) : Host.Outcome State Fault Refusal :=
  .next (onMessage s session req (needs rightSubmit) fun s => startJob s session req heat seed.toNat)

/-! ## SNAPSHOT_CTL (R461) -/

/-- An action on a heat: refused where the heat's state does not allow it. -/
def snapAction (session req heat : Nat) (ok : HState → Bool) (f : State → State × Nat) (s : State) : State :=
  onMessage s session req (needs rightSnapshot) fun s =>
    if heatCount ≤ heat || !ok (getHeat s heat).st then sendResult s session req resDictAbort abState
    else
      let r := f s
      sendResult r.1 session req (if r.2 = 0 then resOk else resDictAbort) r.2

/-- TAKE. -/
def execTake (session req heat lap : Nat) (s : State) : Host.Outcome State Fault Refusal :=
  .next (snapAction session req heat (fun st => st = .running || st = .stopping || st = .stopped)
    (fun s => if lap ≤ s.lap then (s, abRange) else (modHeat s heat fun x => { x with take := some lap }, 0)) s)

/-- SNAPSHOT_CANCEL. -/
def execSnapshotCancel (session req heat : Nat) (s : State) : Host.Outcome State Fault Refusal :=
  .next (snapAction session req heat (· != .free) (fun s => (modHeat s heat fun x => { x with take := none }, 0)) s)

/-- RESTART: a C2 of cause 10. -/
def execRestart (session req heat : Nat) (s : State) : Host.Outcome State Fault Refusal :=
  .next (snapAction session req heat (fun st => st = .running || st = .stopped)
    (fun s => (raise s { code := 0x010D, cls := 2, cause := 10, heat := some heat }, 0)) s)

/-- ABANDON. -/
def execAbandon (session req heat : Nat) (s : State) : Host.Outcome State Fault Refusal :=
  .next (snapAction session req heat (· = .restarting) (fun s => abandonRestart s heat) s)

/-- PERIOD. -/
def execPeriod (session req heat lap : Nat) (s : State) : Host.Outcome State Fault Refusal :=
  .next (snapAction session req heat (· != .free)
    (fun s => if lap < 2 ^ 32 then (dset s (hSnap heat) 1 lap, 0) else (s, abRange)) s)

/-! ## Serving (R391 to R393) -/

def heatServes (s : State) (h : Nat) : List Serve := s.serves.filter (·.heat = h)

/-- Where an allocation of `need` bytes goes in a ring of `size` bytes with this head and oldest live allocation (R363). -/
def ringPlace (size head : Nat) (oldest : Option Nat) (need : Nat) : Option Nat :=
  match oldest with
  | none => if head + need ≤ size then some head else if need ≤ size then some 0 else none
  | some b =>
    if head > b then (if head + need ≤ size then some head else if need ≤ b then some 0 else none)
    else if head + need ≤ b then some head else none

/-- The place of a prompt in the serve buffer; a prompt of no bytes takes none of it. -/
def promptPlace (s : State) (h need : Nat) : Option Nat :=
  let size := dget s (netIdx h) 8
  if !inHeat s h (dget s (netIdx h) 7) size then none
  else ringPlace size (tabGet 0 s.serveHead h) (((heatServes s h).find? (·.bytes != 0)).map (·.base)) need

/-- Requests of a session that have not ended. -/
def openRequests (s : State) (n : Nat) : Nat := (s.serves.filter fun x => x.session = n && !x.ended).length

/-- SERVE_REQ's admission. -/
def admitServe (s : State) (n req h maxTokens params : Nat) (tokens : List W32) : State :=
  if heatCount ≤ h || (getHeat s h).st != .running then sendResult s n req resDictAbort abState
  else
    let r := inboxFree s h
    let s := r.1
    match r.2, promptPlace s h (4 * tokens.length) with
    | none, _ => sendResult s n req resBusy 4
    | some _, none => sendResult s n req resBusy 2
    | some prod, some o =>
      if openRequests s n ≥ 256 then sendResult s n req resBusy 3
      else
        let a := dget s (netIdx h) 7 + o
        let s := { s with
          serves := s.serves ++ [{ heat := h, session := n, req := req, base := o, bytes := 4 * tokens.length }]
          serveHead := tabSet 0 s.serveHead h (o + 4 * tokens.length) }
        let s := (storeStack s a (tokens.flatMap fun t => bytesOf 4 t.toNat)).1
        inboxPut s h prod (inboxEntry (serveId n req) a tokens.length maxTokens inboxRequest params)

/-- SERVE_REQ. -/
def execServeReq (session req heat maxTokens : Nat) (params : BitVec 256) (tokens : List W32) (s : State) :
    Host.Outcome State Fault Refusal :=
  .next (onMessage s session req (needs rightServe) fun s => admitServe s session req heat maxTokens params.toNat tokens)

/-- CANCEL: its entry is written, or waits for its heat to run; with no slot free it is refused. -/
def execCancel (session req target : Nat) (s : State) : Host.Outcome State Fault Refusal :=
  .next (onMessage s session req (needs rightServe) fun s =>
    match s.serves.find? fun x => x.session = session && x.req = target && !x.ended && !x.cancelled with
    | none => sendResult s session req resBadMessage 8
    | some x =>
      let r := inboxFree s x.heat
      if (getHeat s x.heat).st = .running && r.2.isNone then sendResult r.1 session req resBusy 4
      else sendResult (cancelServe s x) session req resOk 0)

/-! ## The outbox (R392) -/

/-- Entries of the outbox read one after another, up to a session that can take no more: how many, and what they hold. -/
def readOutbox (h base p : Nat) (blocked : List Nat) : Nat → Nat → State → State × List Nat
  | 0, _, s => (s, [])
  | k + 1, c, s =>
    let a := base + 64 + 16 * (c % 2 ^ p)
    let r := checkRead s a 16
    let v := readNat r.1 a 16
    if !r.2 || blocked.contains (v / 2 ^ 96) then (r.1, [])
    else
      let t := readOutbox h base p blocked k (c + 1) r.1
      (t.1, v :: t.2)

/-- The tokens gathered for a request sent as one TOKENS message. -/
def flushTokens (s : State) (acc : List (Nat × List Nat)) (id : Nat) : State :=
  match acc.find? (·.1 = id) with
  | none => s
  | some x =>
    let l := x.2.reverse
    let s := { s with serves := s.serves.map fun y => if serveId y.session y.req = id then { y with sent := y.sent + l.length } else y }
    sendStarter s (id / 2 ^ 32) msgTokens (id % 2 ^ 32) (bytesOf 4 l.length ++ l.flatMap (bytesOf 4))

/-- Ended requests at the head of a heat's buffer give their space back (R363). -/
def settleServes (s : State) (h : Nat) : State :=
  let mine := heatServes s h
  { s with serves := (s.serves.filter (·.heat != h)) ++ mine.dropWhile (·.ended) }

/-- A request ended by END or ERROR. -/
def endServe (s : State) (h id kind : Nat) : State :=
  match (heatServes s h).find? fun x => serveId x.session x.req = id && !x.ended with
  | none => s
  | some x =>
    let s := if x.cancelled then s
      else sendStarter s x.session msgServeEnd x.req (bytesOf 1 kind ++ bytesOf 4 x.sent)
    settleServes { s with
      serves := s.serves.map fun y => if y.heat = h && serveId y.session y.req = id then { y with ended := true, owed := false } else y } h

/-- One entry of the outbox: the state and the tokens gathered so far, by request. -/
def takeOutbox (h : Nat) (a : State × List (Nat × List Nat)) (v : Nat) : State × List (Nat × List Nat) :=
  let id := v / 2 ^ 64
  let kind := bitsOf v 31 30
  let isOpen := (heatServes a.1 h).any fun x => serveId x.session x.req = id && !x.ended
  if kind = 0 then
    if !isOpen then (dadd a.1 0x2D40 6 1, a.2)
    else match a.2.find? (·.1 = id) with
      | some x => (a.1, a.2.map fun y => if y.1 = id then (id, bitsOf v 63 32 :: x.2) else y)
      | none => (a.1, a.2 ++ [(id, [bitsOf v 63 32])])
  else if kind = 3 then (dadd a.1 0x2D40 6 1, a.2)
  else (endServe (flushTokens a.1 a.2 id) h id kind, a.2.filter (·.1 != id))

/-- `n` entries of the outbox taken from its tail on, in order, and its `cons` moved past those read (R393). -/
def drainOutbox (heat base p : Nat) (blocked : List Nat) (n tail : Nat) (s : State) : State :=
  let e := readOutbox heat base p blocked n tail s
  let t := e.2.foldl (takeOutbox heat) (e.1, [])
  let s := (t.2.map (·.1)).foldl (fun s id => flushTokens s t.2 id) t.1
  (storeStack s (base + 4) (bytesOf 4 (tail + e.2.length))).1

/-- OUTBOX_POLL: every entry given is taken, unless its session cannot take more. -/
def execOutboxPoll (heat : Nat) (blocked : List Nat) (s : State) : Host.Outcome State Fault Refusal :=
  let p := dget s (netIdx heat) 5
  let base := dget s (netIdx heat) 6
  if heatCount ≤ heat || p = 0 || (getHeat s heat).st != .running then .next s
  else
    let s := payCancels s heat
    let r := ringHeader s heat base (64 + 16 * 2 ^ p)
    match r.2 with
    | none => .next r.1
    | some x =>
      let s := noteRing r.1 heat ringOutbox (decide (ringDepth x > 2 ^ p))
      if ringDepth x > 2 ^ p || ringDepth x = 0 then .next s
      else
        .next (closeAllSpent (drainOutbox heat base p blocked (ringDepth x) x.2 s))

end Sys2Proof.Machine
end

