-- ==== Sys2Proof/Machine/Storage.lean ====
section
/-! DEFINITION. Storage by NVMe/TCP: the storage ring and its NVMe commands (R377 to R383). -/

namespace Sys2Proof.Machine

/-! ## The ring (R378) -/

def stLog (s : State) (h : Nat) : Nat := dget s (netIdx h) 2
def stBase (s : State) (h : Nat) : Nat := dget s (netIdx h) 1

/-- The header, the request slots and the completion ring. -/
def stRingBytes (p : Nat) : Nat := 64 + 80 * 2 ^ p

def reqTag (w : Nat) : Nat := w / 2 ^ 448
def reqMem (w : Nat) : Nat := bitsOf w 447 400
def reqLba (w : Nat) : Nat := bitsOf w 399 336
def reqBlocks (w : Nat) : Nat := bitsOf w 335 304
def reqNsid (w : Nat) : Nat := bitsOf w 303 272
def reqTarget (w : Nat) : Nat := bitsOf w 271 268
def reqOp (w : Nat) : Nat := bitsOf w 267 264
def reqNotify (w : Nat) : Bool := bitOf w 263

def opRead : Nat := 1
def opWrite : Nat := 2
def opFlush : Nat := 3

def stOk : Nat := 0
def stBadRequest : Nat := 1
def stRange : Nat := 2
def stNvmeError : Nat := 3
def stTargetLost : Nat := 4
def stMemory : Nat := 5

/-- A completion's 128 bits. -/
def stRecord (w k p status nvme : Nat) : Nat :=
  status * 2 ^ 120 + (1 - k / 2 ^ p % 2) * 2 ^ 119 + nvme % 2 ^ 16 * 2 ^ 80 + reqTag w

/-- A request completed: its record, the count, its notify doorbell (R381, R382). -/
def completeStore (s : State) (h w status nvme : Nat) : State :=
  let p := stLog s h
  let k := ((getHeat s h).stDone).getD 0
  let a := stBase s h + 64 + 64 * 2 ^ p + 16 * (k % 2 ^ p)
  let s := (storeStack s a (bytesOf 16 (stRecord w k p status nvme))).1
  let s := dadd (modHeat s h fun x => { x with stDone := some (k + 1) }) 0x2D40 4 1
  if reqNotify w then ringNotify s h 3 else s

/-! ## Requests (R380, R381) -/

/-- The target that a slot of a heat names. -/
def targetOf (s : State) (h slot : Nat) : Option PlanTarget :=
  (s.plans.find? fun x => !x.plan.transit && x.plan.heat = h).bind fun x => x.plan.targets.find? (·.slot = slot)

def badRequest (w : Nat) : Bool :=
  w % 2 ^ 263 != 0 || reqMem w % 64 != 0 || (match reqOp w with
    | 1 | 2 => reqBlocks w = 0 || decide (reqBlocks w > 65536)
    | 3 => reqBlocks w != 0
    | _ => true)

/-- Blocks that one NVMe command moves at most (R377). -/
def blocksPer (bs mdts : Nat) : Nat := max 1 (min 0x100000 mdts / bs)

/-- The NVMe commands of a request: from block b on, at most `per` blocks each. -/
def splitRequest (h index w bs per : Nat) : Nat → Nat → Nat → List Nvme
  | 0, _, _ => []
  | k + 1, id, b =>
    let n := min per (reqBlocks w - b)
    { id := id, heat := h, slot := reqTarget w, req := index, op := reqOp w, nsid := reqNsid w, lba := reqLba w + b, blocks := n
      off := reqMem w + b * bs, bytes := n * bs, first := b = 0 } :: splitRequest h index w bs per k (id + 1) (b + n)

/-- A request taken up: completed at once where nothing can be moved, else split into NVMe commands. -/
def takeRequest (s : State) (h index w : Nat) : State :=
  if badRequest w then completeStore s h w stBadRequest 0
  else match targetOf s h (reqTarget w) with
    | none => completeStore s h w stRange 0
    | some t =>
      let bs := Config.blockSize t.addr (reqNsid w)
      if reqOp w != opFlush && !inHeat s h (reqMem w) (reqBlocks w * bs) then completeStore s h w stRange 0
      else
        let per := blocksPer bs (Config.mdts t.addr)
        let n := if reqOp w = opFlush then 1 else ceilDiv (reqBlocks w) per
        { s with
          nvmes := s.nvmes ++ splitRequest h index w bs per n s.nextNvme 0
          nextNvme := s.nextNvme + n
          storeReqs := s.storeReqs ++ [{ heat := h, index := index, word := w, left := n }] }

/-- A request's first failure kept. -/
def failRequest (s : State) (h index status nvme : Nat) : State :=
  { s with storeReqs := s.storeReqs.map fun x =>
      if x.heat = h && x.index = index then { x with fail := some (x.fail.getD (status, nvme)) } else x }

/-- The memory of a failed READ: undefined. -/
def spoilRead (s : State) (h w : Nat) : State :=
  match targetOf s h (reqTarget w) with
  | none => s
  | some t =>
    let r := freeBytes s (reqBlocks w * Config.blockSize t.addr (reqNsid w))
    (storeStack r.2 (reqMem w) r.1).1

/-- One NVMe command of a request over; with the last the request completes. -/
def endNvme (s : State) (n : Nvme) : State :=
  let s := { s with nvmes := s.nvmes.filter (·.id != n.id) }
  match s.storeReqs.find? fun x => x.heat = n.heat && x.index = n.req with
  | none => s
  | some x =>
    let mine (y : StoreReq) : Bool := y.heat = n.heat && y.index = n.req
    if x.left > 1 then { s with storeReqs := s.storeReqs.map fun y => if mine y then { y with left := y.left - 1 } else y }
    else
      let s := { s with storeReqs := s.storeReqs.filter fun y => !mine y }
      match x.fail with
      | none => completeStore s n.heat x.word stOk 0
      | some f =>
        let s := if reqOp x.word = opRead then spoilRead s n.heat x.word else s
        completeStore s n.heat x.word f.1 f.2

/-! ## Sending (R377, R380, R381) -/

/-! PDUs of NVMe/TCP, laid out as NVM Express has them (PRESUMED, log entry 124). -/

/-- CRC32C, reflected, over bytes in ascending order. -/
def crc32cStep (r : Nat) : Nat := if r % 2 = 1 then (r / 2) ^^^ 0x82F63B78 else r / 2

def crc32c (l : List Byte) : Nat :=
  l.foldl (fun r b => (List.range 8).foldl (fun r _ => crc32cStep r) (r ^^^ b.toNat)) 0xFFFFFFFF ^^^ 0xFFFFFFFF

/-- A PDU: common header, the rest of its header, and its data, with the digests that the target has answered. -/
def pdu (d : Digests) (type flags : Nat) (head data : List Byte) : List Byte :=
  let n := 8 + head.length
  let hd := d.head
  let dd := d.data && !data.isEmpty
  let o := n + 4 * b2n hd
  let h := bytesOf 1 type ++ bytesOf 1 (flags + b2n hd + 2 * b2n dd) ++ bytesOf 1 n ++ bytesOf 1 (if data.isEmpty then 0 else o) ++
    bytesOf 4 (o + data.length + 4 * b2n dd) ++ head
  h ++ (if hd then bytesOf 4 (crc32c h) else []) ++ data ++ (if dd then bytesOf 4 (crc32c data) else [])

/-- A submission queue entry: opcode, command identifier, namespace, bytes of data with whether they lie in the capsule, and what
follows the data pointer. -/
def sqe (op cid nsid bytes : Nat) (capsule : Bool) (rest : List Byte) : List Byte :=
  bytesOf 1 op ++ bytesOf 1 0x40 ++ bytesOf 2 cid ++ bytesOf 4 nsid ++ zeros 16 ++ zeros 8 ++ bytesOf 4 bytes ++ zeros 3 ++
    bytesOf 1 (if capsule then 0x01 else 0x5A) ++ fitBytes 24 rest

/-- A command capsule. -/
def capsule (d : Digests) (e data : List Byte) : List Byte := pdu d 4 0 e data

/-- ICReq: both digests asked for (R377). It bears none itself. -/
def icReq : List Byte := pdu {} 0 0 (bytesOf 2 0 ++ bytesOf 1 0 ++ bytesOf 1 3 ++ zeros 116) []

/-- Connect of a queue: its number, depth and the Keep Alive timeout, and the subsystem's name in its data. -/
def connectPdu (d : Digests) (q depth kato : Nat) (nqn : List Byte) : List Byte :=
  capsule d
    (fitBytes 40 (sqe 0x7F 0 1 1024 true []) ++ bytesOf 2 0 ++ bytesOf 2 q ++ bytesOf 2 (depth - 1) ++ zeros 2 ++ bytesOf 4 kato ++ zeros 12)
    (zeros 16 ++ bytesOf 2 0xFFFF ++ zeros 238 ++ fitBytes 256 nqn ++ zeros 512)

/-- The capsule of a read, write or flush, its data where it goes with it. -/
def ioCapsule (d : Digests) (n : Nvme) (data : List Byte) : List Byte :=
  let op := if n.op = opRead then 2 else if n.op = opWrite then 1 else 0
  capsule d (sqe op n.id n.nsid n.bytes (!data.isEmpty) (bytesOf 8 n.lba ++ bytesOf 4 (n.blocks - 1))) data

/-- A write's data sent after its command. -/
def h2cData (d : Digests) (n : Nvme) (data : List Byte) : List Byte :=
  pdu d 6 4 (bytesOf 2 n.id ++ bytesOf 2 0 ++ bytesOf 4 0 ++ bytesOf 4 data.length ++ zeros 4) data

/-- A PDU sent to a target. -/
def sendPdu (s : State) (h slot : Nat) (kind : String) (cmd : Nat) (l : List Byte) : State :=
  let e := ((targetOf s h slot).map (·.eth)).getD 0
  emit s (.nvme h slot kind cmd (segments s e l))

/-- The digests of a connection. -/
def connDigests (s : State) (h slot : Nat) : Digests :=
  ((s.conns.find? fun c => c.heat = h && c.slot = slot).map (·.dig)).getD {}

/-- The connection to a target is up. -/
def connUp (s : State) (h slot : Nat) : Bool := s.conns.any fun c => c.heat = h && c.slot = slot && c.up

/-- A WRITE whose data goes with its command (R377). -/
def inCapsule (n : Nvme) : Bool := n.bytes ≤ 8192

/-- An NVMe command sent; one whose data cannot be read fails its request. -/
def sendNvme (s : State) (n : Nvme) : State :=
  let d := connDigests s n.heat n.slot
  if n.op != opWrite then sendPdu s n.heat n.slot "command" n.id (ioCapsule d n [])
  else
    let r := checkRead s n.off n.bytes
    let l := readBytes r.1 n.off n.bytes
    if r.2 then
      if inCapsule n then sendPdu r.1 n.heat n.slot "command" n.id (ioCapsule d n l)
      else sendPdu (sendPdu r.1 n.heat n.slot "command" n.id (ioCapsule d n [])) n.heat n.slot "data" n.id (h2cData d n l)
    else endNvme (failRequest r.1 n.heat n.req stMemory 0) n

/-- NVMe commands of a heat at the targets. -/
def outstanding (s : State) (h : Nat) : Nat := (s.nvmes.filter fun n => n.heat = h && n.sent).length

/-- What the queues of a connection hold at once: at most 16 of depth 128, lowered to what the target offers (R377). -/
def queueRoom (s : State) (h slot : Nat) : Nat :=
  match targetOf s h slot with
  | some t => min 16 (max 1 (Config.ioQueues t.addr)) * min 128 (max 1 (Config.ioDepth t.addr))
  | none => 0

/-- NVMe commands of a heat at one target. -/
def outstandingAt (s : State) (h slot : Nat) : Nat := (s.nvmes.filter fun n => n.heat = h && n.slot = slot && n.sent).length

/-- A FLUSH waits for every earlier WRITE of its ring to the same target. -/
def flushWaits (s : State) (n : Nvme) : Bool :=
  n.op = opFlush && s.nvmes.any fun m => m.heat = n.heat && m.slot = n.slot && m.op = opWrite && m.id < n.id && !m.orphan

/-- Requests start in index order: a command waits until the first command of its own request and of every earlier one is sent
(R380). -/
def startWaits (s : State) (n : Nvme) : Bool :=
  s.nvmes.any fun m => m.heat = n.heat && m.first && !m.sent && !m.orphan && m.id < n.id

/-- A command sent where its connection, the limit of 4,096 and the order allow it. -/
def trySend (s : State) (id : Nat) : State :=
  match s.nvmes.find? (·.id = id) with
  | none => s
  | some n =>
    if n.sent || !connUp s n.heat n.slot || outstanding s n.heat ≥ 4096 ||
        outstandingAt s n.heat n.slot ≥ queueRoom s n.heat n.slot || flushWaits s n || startWaits s n then s
    else sendNvme { s with nvmes := s.nvmes.map fun m => if m.id = id then { m with sent := true } else m } n

/-- Everything of a heat that may be sent. -/
def pumpNvme (s : State) (h : Nat) : State := ((s.nvmes.filter (·.heat = h)).map (·.id)).foldl trySend s

/-! ## Rows -/

/-- Requests read and taken up one after another; `cons` follows each. -/
def takeRequests (h base p : Nat) : Nat → Nat → State → State
  | 0, _, s => s
  | k + 1, c, s =>
    let a := base + 64 + 64 * (c % 2 ^ p)
    let r := checkRead s a 64
    if !r.2 then r.1
    else
      let s := (storeStack r.1 (base + 4) (bytesOf 4 ((c + 1) % 2 ^ 32))).1
      takeRequests h base p k (c + 1) (takeRequest s h c (readNat r.1 a 64))

/-- STORAGE_RING_POLL. -/
def execStorageRingPoll (heat : Nat) (s : State) : Host.Outcome State Fault Refusal :=
  let p := stLog s heat
  let base := stBase s heat
  if heatCount ≤ heat || p = 0 || (getHeat s heat).st != .running then .next s
  else
    let r := ringHeader s heat base (stRingBytes p)
    match r.2 with
    | none => .next r.1
    | some x =>
      let s := noteRing r.1 heat ringStorage (decide (ringDepth x > 2 ^ p))
      if ringDepth x > 2 ^ p then .next s
      else
        let s := modHeat s heat fun y => { y with stDone := some (y.stDone.getD x.2) }
        .next (pumpNvme (takeRequests heat base p (ringDepth x) x.2 s) heat)

/-- NVME_COMPLETION: no record follows a command sent before a restart (R383). -/
def execNvmeCompletion (heat cmd status : Nat) (data : List Byte) (s : State) : Host.Outcome State Fault Refusal :=
  match s.nvmes.find? fun n => n.heat = heat && n.id = cmd && n.sent with
  | none => .next s
  | some n =>
    if n.orphan then .next { s with nvmes := s.nvmes.filter (·.id != n.id) }
    else
      let s :=
        if status != 0 then failRequest s heat n.req stNvmeError status
        else if n.op = opRead then
          let r := storeStack s n.off (fitBytes n.bytes data)
          if r.2 then r.1 else failRequest r.1 heat n.req stMemory 0
        else s
      .next (pumpNvme (endNvme s n) heat)

/-- A connection changed. -/
def modConn (s : State) (h slot : Nat) (f : Conn → Conn) : State :=
  { s with conns := s.conns.map fun c => if c.heat = h && c.slot = slot then f c else c }

/-- The Keep Alive timeout, in ms; one is sent at half of it (DESIGN CHOICE, log entry 110). -/
def keepAliveMs : Nat := 10000

/-- What opens a connection (R377): TCP, both digests asked for, the admin queue connected with the Keep Alive timeout, the
controller identified, and the I/O queues connected. -/
def openConnection (s : State) (h slot : Nat) : State :=
  match targetOf s h slot with
  | none => s
  | some t =>
    let d := connDigests s h slot
    let connect (s : State) (q depth : Nat) : State := sendPdu s h slot "connect" 0 (connectPdu d q depth keepAliveMs t.nqn)
    let s := emit s (.tcp t.eth "syn" (segment s t.eth (bytesBE 16 t.addr ++ bytesOf 2 t.port ++ synOffer)))
    let s := connect (sendPdu s h slot "icreq" 0 icReq) 0 32
    let s := sendPdu s h slot "identify" 0 (capsule d (sqe 6 0 0 4096 false (bytesOf 4 1)) [])
    (List.range (min 16 (max 1 (Config.ioQueues t.addr)))).foldl
      (fun s i => connect s (i + 1) (min 128 (max 1 (Config.ioDepth t.addr)))) s

/-- Keep Alive on every connection that has had none for half the timeout. -/
def keepAlive (s : State) : State :=
  let due (c : Conn) : Bool := c.up && c.alive + ms (keepAliveMs / 2) ≤ s.now
  (s.conns.filter due).foldl (fun s c => sendPdu s c.heat c.slot "keep-alive" 0 (capsule c.dig (sqe 0x18 0 0 0 false []) []))
    { s with conns := s.conns.map fun c => if due c then { c with alive := s.now } else c }

/-- STORAGE_RECONNECT: a connection reopened with the digests that the target has answered, its outstanding commands issued again;
`ok` none: it fails. -/
def execStorageReconnect (heat slot : Nat) (ok : Option Digests) (s : State) : Host.Outcome State Fault Refusal :=
  match s.conns.find? fun c => c.heat = heat && c.slot = slot with
  | none => .next s
  | some c =>
    match ok with
    | none =>
      if c.up then
        let s := modConn s heat slot fun c => { c with up := false, down := s.now }
        .next { s with nvmes := s.nvmes.filter fun n => !(n.heat = heat && n.slot = slot && n.orphan) }
      else .next s
    | some d =>
    if c.up || !(match connEth s c with | some e => ethLinkUp s e | none => false) then .next s
    else
      let s := modConn (if c.was then dadd s 0x2D40 5 1 else s) heat slot fun c =>
        { c with up := true, was := true, alive := s.now, dig := d }
      let s := openConnection s heat slot
      let again := s.nvmes.filter fun n => n.heat = heat && n.slot = slot && n.sent && !n.orphan
      .next (pumpNvme (again.foldl sendNvme s) heat)

/-- STORAGE_TARGET_TIMEOUT: the requests of a target that has stayed away fail. -/
def execStorageTargetTimeout (heat slot : Nat) (s : State) : Host.Outcome State Fault Refusal :=
  match s.conns.find? fun c => c.heat = heat && c.slot = slot with
  | none => .next s
  | some c =>
    if c.up || s.now < c.down + ms (1000 * dget s (netIdx heat) 0x0B) then .next s
    else
      let l := s.nvmes.filter fun n => n.heat = heat && n.slot = slot && !n.orphan
      .next (l.foldl (fun s n => endNvme (failRequest s heat n.req stTargetLost 0) n) s)

end Sys2Proof.Machine
end

