-- ==== Sys2Proof/Machine/Power.lean ====
section
/-! DEFINITION. Sensors, supply, thermal and coolant conditions, trips and the slow power pins (R491, R520 to R527, R529, R531,
R533, R535, R213). -/

namespace Sys2Proof.Machine

/-! ## Sensors (R491) -/

/-- The kinds of sensor: die, stack, rail voltage, rail current, inlet, outlet, optical power. -/
def skDie : Nat := 0
def skStack : Nat := 1
def skVolt : Nat := 2
def skAmp : Nat := 3
def skInlet : Nat := 4
def skOutlet : Nat := 5
def skOptical : Nat := 6

/-- An INTEGER16 field and an UNSIGNED16 field of a sensor; a failed one reads 0x8000 or 0xFFFF. -/
def signedField : Option Int → List Byte
  | some v => bytesOf 2 (wrapInt 16 v)
  | none => bytesOf 2 0x8000

def plainField : Option Nat → List Byte
  | some v => bytesOf 2 (v % 2 ^ 16)
  | none => bytesOf 2 0xFFFF

/-- A coolant reading below -40 °C or above 150 °C is a failed sensor's (R529). -/
def coolantOf : Option Int → Option Int
  | some v => if v < -400 || v > 1500 then none else some v
  | none => none

/-- The failed sensors of a list. -/
def failedIn {α : Type} (kind n : Nat) (l : List (Option α)) : List (Nat × Nat) :=
  (List.range n).filterMap fun i => match nth none l i with | some _ => none | none => some (kind, i)

/-- Stacks and coolant sensors have slower rates than the die's. -/
def stackTurn (s : State) : Bool := s.power.samples % 32 = 0
def slowTurn (s : State) : Bool := s.power.samples % 100 = 0

/-- The first failure of a sensor raises a C0 event; its unit number is the kind × 256 + the sensor. -/
def reportFailed (s : State) (l : List (Nat × Nat)) : State :=
  (l.filter fun x => !s.power.reported.contains x).foldl (fun s x =>
    raise { s with power := { s.power with reported := x :: s.power.reported } }
      { code := 0x0501, cls := 0, unit := x.1 * 256 + x.2, unitKind := 8
        detail := bytesOf 2 (if x.1 = skVolt || x.1 = skAmp then 0xFFFF else 0x8000) }) s

/-- The failed sensors after a sample: kinds that were not sampled keep theirs. -/
def failedNow (s : State) (r : Readings) : List (Nat × Nat) :=
  let keep (kinds : List Nat) : List (Nat × Nat) := s.power.failed.filter fun x => kinds.contains x.1
  failedIn skDie 96 r.die ++ failedIn skVolt 16 r.railMv ++ failedIn skAmp 16 r.railMa10 ++
    (if stackTurn s then (failedIn skStack 32 r.stackT).filter fun x => s.seq.stacksOn.contains x.2 else keep [skStack]) ++
    (if slowTurn s then
      (if (coolantOf r.inlet).isNone then [(skInlet, 0)] else []) ++ (if (coolantOf r.outlet).isNone then [(skOutlet, 0)] else []) ++
        failedIn skOptical 136 r.optical
     else keep [skInlet, skOutlet, skOptical])

def hottest (l : List (Option Int)) : Option Int :=
  l.foldl (fun a x => match a, x with
    | some a, some x => some (max a x)
    | some a, none => some a
    | none, x => x) none

def fieldNum (l : List Byte) : Nat := natOfBytes l

/-- The entries of 0x2110 after a sample. -/
def showSample (s : State) (r : Readings) : State :=
  let pad {α : Type} (n : Nat) (l : List (Option α)) : List (Option α) := (List.range n).map fun i => nth none l i
  let s := domSet s 0x2110 1 ((pad 96 r.die).flatMap signedField)
  let s := dset s 0x2110 2 (fieldNum (signedField (hottest (pad 96 r.die))))
  let s := domSet (domSet s 0x2110 4 ((pad 16 r.railMv).flatMap plainField)) 0x2110 5 ((pad 16 r.railMa10).flatMap plainField)
  let s := dset s 0x2110 6 (min r.watts 0xFFFF)
  let s := if stackTurn s then domSet s 0x2110 3 ((pad 32 r.stackT).flatMap signedField) else s
  if slowTurn s then
    let s := dset s 0x2110 7 (fieldNum (signedField (coolantOf r.inlet)))
    let s := dset s 0x2110 8 (fieldNum (signedField (coolantOf r.outlet)))
    domSet s 0x2110 9 ((pad 136 r.optical).flatMap signedField)
  else s

/-- A temperature entry, where its sensor has not failed. -/
def shownTemp (v : Nat) : Option Int := if v = 0x8000 then none else some (sext 16 v)

def dieTemp (s : State) : Option Int := shownTemp (dget s 0x2110 2)
def stackTemps (s : State) : List (Option Int) :=
  (s.seq.stacksOn.map fun k => shownTemp (domNum s 0x2110 3 2 k))
def inletTemp (s : State) : Option Int := shownTemp (dget s 0x2110 7)
def outletTemp (s : State) : Option Int := shownTemp (dget s 0x2110 8)

def atLeast (t : Option Int) (v : Int) : Bool := match t with | some x => decide (v ≤ x) | none => false
def atMost (t : Option Int) (v : Int) : Bool := match t with | some x => decide (x ≤ v) | none => true

/-- A signed threshold of 0x2100. -/
def threshold (s : State) (sub : Nat) : Int := sext 16 (dget s 0x2100 sub)

def setPower (s : State) (f : PowerState → PowerState) : State := { s with power := f s.power }

/-! ## Trips (R520, R525, R527, R448) -/

/-- The device is in LOST, or on its way there. -/
def losing (s : State) : Bool := bootStage s = bsLost || (bootStage s = bsPoweringDown && s.downTo = bsLost)

/-- A trip: `THERMTRIP_N` where it is thermal, and a C4 of cause 16, unless one waits or the device is lost already. -/
def trip (s : State) (thermal : Bool) : State :=
  let s := if thermal then { s with pins := { s.pins with thermTrip := true } } else s
  if losing s || (s.events.any fun e => e.cls = 4 && e.cause = 16) then s
  else raise s { code := 0x0505, cls := 4, cause := 16 }

/-- An entry into a condition of R520, counted. -/
def countSupply (s : State) : State := dadd s 0x2D70 5 1

/-- Event 0x0507 with what entered the condition. -/
def conditionEvent (s : State) (detail : List Byte) : State := raise s { code := 0x0507, cls := 0, detail := detail }

/-! ## Supply (R520) -/

/-- Consecutive milliseconds of a condition. -/
def runMs (holds : Bool) (n : Nat) : Nat := if holds then n + 1 else 0

def supply (s : State) (r : Readings) : State :=
  let p := s.power
  let out := r.inMv < 46000 || r.inMv > 56000
  let rangeMs := runMs out p.rangeMs
  let overMs := runMs (decide (r.inMv > 58000)) p.overMs
  let currMs := runMs (decide (r.inMa > 140000)) p.currMs
  let inputs := ((r.inMv, r.inMa) :: p.inputs).take 100
  let s := setPower s fun p => { p with rangeMs := rangeMs, overMs := overMs, currMs := currMs, inputs := inputs }
  let mean := decide (inputs.length = 100) && decide (sumMa s > 122000 * 100)
  let entered := out && decide (rangeMs ≥ 10) && !p.rangeOn
  let s := setPower s fun x => { x with rangeOn := out && (p.rangeOn || decide (rangeMs ≥ 10)), meanOn := mean }
  let s := if entered then conditionEvent (countSupply s) (bytesOf 4 r.inMv ++ bytesOf 4 r.inMa) else s
  let s := if mean && !p.meanOn then countSupply s else s
  let s := if overMs = 1 then countSupply s else s
  let s := if currMs = 10 then countSupply s else s
  if overMs ≥ 1 || currMs ≥ 10 then trip s false else s

/-! ## Temperatures (R525, R526) -/

def thermal (s : State) : State :=
  let die := atLeast (dieTemp s) (threshold s 6)
  let stack := (stackTemps s).any fun t => atLeast t (threshold s 7)
  let first := (die || stack) && !s.power.thermOn
  let below := atMost (dieTemp s) (threshold s 6 - 20) && (stackTemps s).all fun t => atMost t (threshold s 7 - 20)
  let s := setPower s fun p => { p with dieHot := die, stackHot := stack, thermOn := (p.thermOn || die || stack) && !below }
  let s := if first then raise s { code := 0x0506, cls := 0, detail := bytesOf 2 (dget s 0x2110 2) ++ domGet s 0x2110 3 } else s
  if atLeast (dieTemp s) 1150 || (stackTemps s).any (fun t => atLeast t 1050) then trip s true else s

/-! ## Coolant (R525, R526) -/

/-- The inlet's warning and its limit; suspended while the inlet sensor has failed. -/
def inletRules (s : State) : State :=
  match inletTemp s with
  | none => s
  | some t =>
    let p := s.power
    let warm := decide (t > threshold s 8)
    let inletMs := runMs warm p.inletMs
    let warnOn := warm && (p.inletOn || decide (inletMs ≥ 10000))
    let hot := decide (threshold s 9 ≤ t)
    let coolMs := runMs (decide (t ≤ threshold s 9 - 20)) p.coolMs
    let coolOn := hot || (p.coolOn && !decide (coolMs ≥ 10000))
    let s := setPower s fun p => { p with inletMs := inletMs, inletOn := warnOn, coolMs := coolMs, coolOn := coolOn }
    let d := bytesOf 2 (dget s 0x2110 7) ++ bytesOf 2 (dget s 0x2110 8)
    let s := if warnOn && !p.inletOn then conditionEvent s d else s
    if coolOn && !p.coolOn then conditionEvent s d else s

/-- The flow estimate in 0.1 L/min, rounded as everything is (R14, R525): none where it is not valid. -/
def flowEstimate (s : State) : Option Nat :=
  match inletTemp s, outletTemp s with
  | some a, some b =>
    if b - a < 20 || dget s 0x2110 6 < 2000 then none
    else some (divEven (dget s 0x2110 6 * 6000) (3950 * (b - a).toNat))
  | _, _ => none

/-- The flow of each class below which the device warns. -/
def lowFlow (s : State) : Nat := if dget s 0x2100 1 = 1 then 43 else 60

def flowRule (s : State) : State :=
  let r := if slowTurn s then flowEstimate s else if dget s 0x2100 0x0B = 0xFFFF then none else some (dget s 0x2100 0x0B)
  let p := s.power
  let s := dset s 0x2100 0x0B (r.getD 0xFFFF)
  let low := match r with | some f => decide (f < lowFlow s) | none => false
  let flowMs := runMs low p.flowMs
  let on := low && (p.flowOn || decide (flowMs ≥ 10000))
  let s := setPower s fun p => { p with flowMs := flowMs, flowOn := on }
  if on && !p.flowOn then conditionEvent s (bytesOf 2 (dget s 0x2100 0x0B)) else s

/-! ## Rows -/

/-- The counts of a millisecond (R522, R542). -/
def countMs (s : State) : State :=
  let excess := decide (dget s 0x2110 6 > dget s 0x2100 4)
  let n := s.power.overRun
  let s := setPower s fun p => { p with overRun := runMs excess p.overRun }
  let s := if excess && n = 0 then dadd s 0x2D70 4 1 else s
  if dget s 0x2100 4 < dget s 0x2100 2 then dadd s 0x2D70 1 1 else s

/-! ## Errors of storage and of shared units (R432, R442, R443, R472) -/

/-- The heat whose data an error of a unit could have reached: the owner of its cluster; none where the unit is the device's. -/
def upsetCluster : UpsetUnit → Option Nat
  | .coreBuffer k | .vectorRegister k | .controlSram k => some (slotCluster k)
  | .dmaBuffer c | .cacheWay c _ | .scratchWay c => some c
  | _ => none

/-- The unit as events number it: number and kind (R492). -/
def upsetNumber (s : State) : UpsetUnit → Nat × Nat
  | .coreBuffer k | .vectorRegister k | .controlSram k => (physSlot s k, 1)
  | .dmaBuffer c | .cacheWay c _ | .scratchWay c => (physCluster s c, 6)
  | .router p => (physPort s p, 4)
  | _ => (0, 0)

/-- An error that a detector has found (R432): corrected, it is a C1; uncorrectable, a cache way's line is dropped and fetched again
from memory, another unit of a cluster takes the cluster's heat with it, and a unit that every heat shares fences the device. An
uncorrectable error of the management SRAM is the row WATCHDOG_EXPIRY (DEDUCED, log entry 118). -/
def takeUpset (s : State) (u : Upset) : State :=
  let n := upsetNumber s u.unit
  let h := (upsetCluster u.unit).bind (clusterHeat s)
  let event (code cls cause : Nat) (h : Option Nat) : Event :=
    { code := code, cls := cls, cause := cause, heat := h, unit := n.1, unitKind := n.2 }
  if u.fixed then raise s (event 0x0104 1 0 h)
  else match u.unit with
    | .cacheWay c g =>
      raise (modCluster s c fun x => { x with lines := x.lines.filter (·.granule != g) }) (event 0x0105 1 0 h)
    | .managementSram => s
    | v => match upsetCluster v, h with
      | some _, some h => raise s (event 0x0105 2 4 (some h))
      | some _, none => raise s (event 0x0105 0 0 none)
      | none, _ => raise s (event 0x010A 3 12 none)

/-- The slowdowns read anew, in 0x2800:06. -/
def showDrift (s : State) (l : List (Nat × Int)) : State :=
  (l.filter (·.1 < 576)).foldl (fun s x => domPut s 0x2800 6 1152 2 x.1 (wrapInt 16 x.2)) s

/-- SENSOR_SAMPLE: one millisecond's sample, shown, and every condition evaluated. -/
def execSensorSample (r : Readings) (s : State) : Host.Outcome State Fault Refusal :=
  if !dictAnswers s || bootStage s = bsRecovery then .next s
  else
    let f := failedNow s r
    let s := r.upsets.foldl takeUpset (showDrift (showSample s r) r.drift)
    let s := reportFailed (setPower s fun p => { p with failed := f }) f
    let s := flowRule (inletRules (thermal (supply s r)))
    let s := countMs (governor s)
    .next (setPower s fun p => { p with samples := p.samples + 1 })

/-- BACKSTOP_TRIP: in the always-on domain's hardware; no notice is sent (R527). -/
def execBackstopTrip (s : State) : Host.Outcome State Fault Refusal :=
  if !s.pins.inputOn then .next s
  else if bootStage s = bsLost then .next { s with pins := { s.pins with thermTrip := true } }
  else
    let s := raise { s with pins := { s.pins with thermTrip := true } } { code := 0x0505, cls := 4, cause := 16 }
    .next (if bsMemoryPower ≤ bootStage s then powerDown s bsLost else setStage (loseHeats s) bsLost)

/-- Every sensor that has not failed is 2.0 K or more below its threshold. -/
def allCool (s : State) : Bool :=
  atMost (dieTemp s) (threshold s 6 - 20) && (stackTemps s).all fun t => atMost t (threshold s 7 - 20)

/-- THERMAL_TERM_STEP: every 10 ms; a term above the limit in force does not move (R525). -/
def execThermalTermStep (s : State) : Host.Outcome State Fault Refusal :=
  let p := s.power
  let v := p.thermal.getD (classLimit s)
  if !dictAnswers s || bootStage s = bsRecovery || s.now < p.lastStep + ms 10 then .next s
  else
    let s := setPower s fun p => { p with lastStep := s.now }
    if v > dget s 0x2100 4 then .next s
    else if p.dieHot || p.stackHot then
      .next (governor (setPower s fun p => { p with
        thermal := some (max floorWatts (v - 100)), dieTerm := p.dieTerm || p.dieHot, stackTerm := p.stackTerm || p.stackHot }))
    else if allCool s && p.thermal.isSome then
      .next (governor (setPower s fun p =>
        if v + 100 ≥ classLimit s then { p with thermal := none, dieTerm := false, stackTerm := false }
        else { p with thermal := some (v + 100) }))
    else .next s

/-- THROTTLE_N: an accepted edge moves the throttle term (R521, R531, R533). -/
def execThrottleN (low : Bool) (width : Nat) (s : State) : Host.Outcome State Fault Refusal :=
  if !s.pins.inputOn || s.pins.throttleLow = low then .next s
  else
    let r := filterTakes s width 1000 10000
    if !r.2 then .next r.1
    else
      let s := { r.1 with pins := { r.1.pins with throttleLow := low } }
      let s := setPower s fun p => { p with throttle := if low then some s.now else none, throttleLogged := false }
      .next (governor (if low then dadd s 0x2D70 2 1 else s))

/-- THROTTLE_HELD_LOG: once an assertion has lasted 60 s (R533). -/
def execThrottleHeldLog (s : State) : Host.Outcome State Fault Refusal :=
  match s.power.throttle with
  | some t =>
    if s.power.throttleLogged || s.now < t + ms 60000 || !dictAnswers s || bootStage s = bsRecovery then .next s
    else
      .next (raise (setPower s fun p => { p with throttleLogged := true })
        { code := 0x0506, cls := 0, detail := bytesOf 4 ((s.now - t) / 10000000) })
  | none => .next s

/-- CAN_BUS_OFF_RECOVERY: a bus-off, counted, and the way back to the bus (R535). -/
def execCanBusOffRecovery (busOff : Bool) (s : State) : Host.Outcome State Fault Refusal :=
  if !dictAnswers s || s.busOff = busOff then .next s
  else .next { (if busOff then dadd s 0x2D70 6 1 else s) with busOff := busOff }

/-- CHANNEL_LINK_LOSS: the device is lost; the channel is retired at the next boot (R213). -/
def execChannelLinkLoss (channel : Nat) (s : State) : Host.Outcome State Fault Refusal :=
  if bootStage s < bsMemoryPower || bsReady < bootStage s || !(fusedChannels s).contains channel then .next s
  else
    let s := { markRetire s channel with sinceTest := true }
    .next (raise s { code := 0x010B, cls := 4, cause := 17, unit := channel, unitKind := 2, detail := memDetail 0 channel 0 })

end Sys2Proof.Machine
end

