-- ==== Sys2Proof/Machine/Dispatch.lean ====
section
/-! DEFINITION. One arm per command: the meaning it calls, or its rejection by name. -/

namespace Sys2Proof.Machine

def exec (i : Instr) (s : State) : Host.Outcome State Fault Refusal :=
  match i with
  | .doorbell agent queue value => Sys2Proof.Machine.execDoorbell agent queue value s
  | .ring core queue value => Sys2Proof.Machine.execRing core queue value s
  | .commandReachesHead queue => Sys2Proof.Machine.execCommandReachesHead queue s
  | .commandStart queue => Sys2Proof.Machine.execCommandStart queue s
  | .notBeforeTime queue => Sys2Proof.Machine.execNotBeforeTime queue s
  | .completionRecord queue => Sys2Proof.Machine.execCompletionRecord queue s
  | .nop queue => Sys2Proof.Machine.execNop queue s
  | .waitQueue queue => Sys2Proof.Machine.execWaitQueue queue s
  | .gemmTile queue nature => Sys2Proof.Machine.execGemmTile queue nature s
  | .diagEw queue nature => Sys2Proof.Machine.execDiagEw queue nature s
  | .vecRun queue => Sys2Proof.Machine.execVecRun queue s
  | .dmaCopy queue errs => Sys2Proof.Machine.execDmaCopy queue errs s
  | .quantStream queue => Sys2Proof.Machine.execQuantStream queue s
  | .reduceScatter queue => Sys2Proof.Machine.execReduceScatter queue s
  | .allGather queue => Sys2Proof.Machine.execAllGather queue s
  | .batonExchange queue => Sys2Proof.Machine.execBatonExchange queue s
  | .relay queue => Sys2Proof.Machine.execRelay queue s
  | .gradOpen queue => Sys2Proof.Machine.execGradOpen queue s
  | .updCoefSet queue => Sys2Proof.Machine.execUpdCoefSet queue s
  | .updateLayer queue => Sys2Proof.Machine.execUpdateLayer queue s
  | .normSet queue => Sys2Proof.Machine.execNormSet queue s
  | .policySet queue => Sys2Proof.Machine.execPolicySet queue s
  | .stepEnd queue => Sys2Proof.Machine.execStepEnd queue s
  | .layerSet queue => Sys2Proof.Machine.execLayerSet queue s
  | .progLoad queue => Sys2Proof.Machine.execProgLoad queue s
  | .cacheInv queue => Sys2Proof.Machine.execCacheInv queue s
  | .addOrderOpen queue => Sys2Proof.Machine.execAddOrderOpen queue s
  | .queueSet queue => Sys2Proof.Machine.execQueueSet queue s
  | .testWindow queue => Sys2Proof.Machine.execTestWindow queue s
  | .tileRepeat queue nature => Sys2Proof.Machine.execTileRepeat queue nature s
  | .heldContributionTaken heat region order => Sys2Proof.Machine.execHeldContributionTaken heat region order s
  | .stagedContributionAdd heat region => Sys2Proof.Machine.execStagedContributionAdd heat region s
  | .patrolScrub sector errs written => Sys2Proof.Machine.execPatrolScrub sector errs written s
  | .inDieCountRead total => Sys2Proof.Machine.execInDieCountRead total s
  | .handoffRoom core => Sys2Proof.Machine.execHandoffRoom core s
  | .vrun core value => Sys2Proof.Machine.execVrun core value s
  | .vectorBlockStart core => Sys2Proof.Machine.execVectorBlockStart core s
  | .blockDone core => Sys2Proof.Machine.execBlockDone core s
  | .completionRegister core value => Sys2Proof.Machine.execCompletionRegister core value s
  | .summaryValueStore core reg value => Sys2Proof.Machine.execSummaryValueStore core reg value s
  | .lapLimit core => Sys2Proof.Machine.execLapLimit core s
  | .vectorNop core => Sys2Proof.Machine.execVectorNop core s
  | .fadd core res => Sys2Proof.Machine.execFadd core res s
  | .fsub core res => Sys2Proof.Machine.execFsub core res s
  | .fmul core res => Sys2Proof.Machine.execFmul core res s
  | .fma core res => Sys2Proof.Machine.execFma core res s
  | .fms core res => Sys2Proof.Machine.execFms core res s
  | .fnma core res => Sys2Proof.Machine.execFnma core res s
  | .fmax core => Sys2Proof.Machine.execFmax core s
  | .fmin core => Sys2Proof.Machine.execFmin core s
  | .fabs core => Sys2Proof.Machine.execFabs core s
  | .fneg core => Sys2Proof.Machine.execFneg core s
  | .fcsgn core => Sys2Proof.Machine.execFcsgn core s
  | .frnd issue => Sys2Proof.Machine.execFrnd issue s
  | .fscale issue => Sys2Proof.Machine.execFscale issue s
  | .frcp issue => Sys2Proof.Machine.execFrcp issue s
  | .frsqrt issue => Sys2Proof.Machine.execFrsqrt issue s
  | .fexp2 issue => Sys2Proof.Machine.execFexp2 issue s
  | .flog2 issue => Sys2Proof.Machine.execFlog2 issue s
  | .ftanh issue => Sys2Proof.Machine.execFtanh issue s
  | .fsqrt issue => Sys2Proof.Machine.execFsqrt issue s
  | .iadd core => Sys2Proof.Machine.execIadd core s
  | .isub core => Sys2Proof.Machine.execIsub core s
  | .imul core => Sys2Proof.Machine.execImul core s
  | .imax core => Sys2Proof.Machine.execImax core s
  | .imin core => Sys2Proof.Machine.execImin core s
  | .and core => Sys2Proof.Machine.execAnd core s
  | .or core => Sys2Proof.Machine.execOr core s
  | .xor core => Sys2Proof.Machine.execXor core s
  | .andn core => Sys2Proof.Machine.execAndn core s
  | .shl core => Sys2Proof.Machine.execShl core s
  | .shr core => Sys2Proof.Machine.execShr core s
  | .fcmp core => Sys2Proof.Machine.execFcmp core s
  | .icmp core => Sys2Proof.Machine.execIcmp core s
  | .vsel core => Sys2Proof.Machine.execVsel core s
  | .mand core => Sys2Proof.Machine.execMand core s
  | .mor core => Sys2Proof.Machine.execMor core s
  | .mxor core => Sys2Proof.Machine.execMxor core s
  | .mnot core => Sys2Proof.Machine.execMnot core s
  | .mset core => Sys2Proof.Machine.execMset core s
  | .vmov core => Sys2Proof.Machine.execVmov core s
  | .vidx core => Sys2Proof.Machine.execVidx core s
  | .vtos core => Sys2Proof.Machine.execVtos core s
  | .cvtfi issue => Sys2Proof.Machine.execCvtfi issue s
  | .cvtif issue => Sys2Proof.Machine.execCvtif issue s
  | .packb issue => Sys2Proof.Machine.execPackb issue s
  | .unpkb issue => Sys2Proof.Machine.execUnpkb issue s
  | .cvth issue => Sys2Proof.Machine.execCvth issue s
  | .vld issue => Sys2Proof.Machine.execVld issue s
  | .vst issue => Sys2Proof.Machine.execVst issue s
  | .vldm core => Sys2Proof.Machine.execVldm core s
  | .vstm core => Sys2Proof.Machine.execVstm core s
  | .setvl core => Sys2Proof.Machine.execSetvl core s
  | .rclr core => Sys2Proof.Machine.execRclr core s
  | .rtap core => Sys2Proof.Machine.execRtap core s
  | .rwait core => Sys2Proof.Machine.execRwait core s
  | .vrng core => Sys2Proof.Machine.execVrng core s
  | .vrngu core => Sys2Proof.Machine.execVrngu core s
  | .vrngb core => Sys2Proof.Machine.execVrngb core s
  | .vqh core => Sys2Proof.Machine.execVqh core s
  | .fence core => Sys2Proof.Machine.execFence core s
  | .vend core => Sys2Proof.Machine.execVend core s
  | .photoFinish queue nature => Sys2Proof.Machine.execPhotoFinish queue nature s
  | .start path heat => Sys2Proof.Machine.execStart path heat s
  | .stop path heat => Sys2Proof.Machine.execStop path heat s
  | .resume path heat => Sys2Proof.Machine.execResume path heat s
  | .release path heat => Sys2Proof.Machine.execRelease path heat s
  | .discoveryMatch heat => Sys2Proof.Machine.execDiscoveryMatch heat s
  | .stopComplete heat => Sys2Proof.Machine.execStopComplete heat s
  | .releaseComplete heat => Sys2Proof.Machine.execReleaseComplete heat s
  | .lapStart => Sys2Proof.Machine.execLapStart s
  | .lapBeacon port domain body reception => Sys2Proof.Machine.execLapBeacon port domain body reception s
  | .delayRequest port t2 t3 => Sys2Proof.Machine.execDelayRequest port t2 t3 s
  | .delayResponse port t1 t2 t3 t4 => Sys2Proof.Machine.execDelayResponse port t1 t2 t3 t4 s
  | .holdoverTimeout => Sys2Proof.Machine.execHoldoverTimeout s
  | .paceLossDeclared => Sys2Proof.Machine.execPaceLossDeclared s
  | .paceInEdge => Sys2Proof.Machine.execPaceInEdge s
  | .paceInStuck => Sys2Proof.Machine.execPaceInStuck s
  | .paceInFrequencyCheck edges span => Sys2Proof.Machine.execPaceInFrequencyCheck edges span s
  | .paceInRecovered => Sys2Proof.Machine.execPaceInRecovered s
  | .portControl path port value => Sys2Proof.Machine.execPortControl path port value s
  | .portTraining port => Sys2Proof.Machine.execPortTraining port s
  | .laneLock port own peer => Sys2Proof.Machine.execLaneLock port own peer s
  | .trainingTimeout port => Sys2Proof.Machine.execTrainingTimeout port s
  | .laneLockLoss port lanes => Sys2Proof.Machine.execLaneLockLoss port lanes s
  | .flitGroup port header flits => Sys2Proof.Machine.execFlitGroup port header flits s
  | .readReq port p errs => Sys2Proof.Machine.execReadReq port p errs s
  | .readResp port p => Sys2Proof.Machine.execReadResp port p s
  | .write port p errs => Sys2Proof.Machine.execWrite port p errs s
  | .memOp port p errs => Sys2Proof.Machine.execMemOp port p errs s
  | .ack port p => Sys2Proof.Machine.execAck port p s
  | .nak port p => Sys2Proof.Machine.execNak port p s
  | .backoffExpiry queue index => Sys2Proof.Machine.execBackoffExpiry queue index s
  | .restartRetryLimit queue index => Sys2Proof.Machine.execRestartRetryLimit queue index s
  | .remoteTimeout txn => Sys2Proof.Machine.execRemoteTimeout txn s
  | .discoveryRecord port record => Sys2Proof.Machine.execDiscoveryRecord port record s
  | .discoverySend port => Sys2Proof.Machine.execDiscoverySend port s
  | .discoveryTimeout port => Sys2Proof.Machine.execDiscoveryTimeout port s
  | .collReady port p => Sys2Proof.Machine.execCollReady port p s
  | .collCounts port p => Sys2Proof.Machine.execCollCounts port p s
  | .collGrant port p => Sys2Proof.Machine.execCollGrant port p s
  | .collData port p => Sys2Proof.Machine.execCollData port p s
  | .collAck port p => Sys2Proof.Machine.execCollAck port p s
  | .collHeld port p => Sys2Proof.Machine.execCollHeld port p s
  | .collResume port p => Sys2Proof.Machine.execCollResume port p s
  | .collBusy port p => Sys2Proof.Machine.execCollBusy port p s
  | .collBusyResend txn => Sys2Proof.Machine.execCollBusyResend txn s
  | .collRefuse port p => Sys2Proof.Machine.execCollRefuse port p s
  | .collEnd port p => Sys2Proof.Machine.execCollEnd port p s
  | .collectiveWaitExpiry heat coll => Sys2Proof.Machine.execCollectiveWaitExpiry heat coll s
  | .eventHandling => Sys2Proof.Machine.execEventHandling s
  | .fault port n => Sys2Proof.Machine.execFault port n s
  | .inventory port n => Sys2Proof.Machine.execInventory port n s
  | .restore port n => Sys2Proof.Machine.execRestore port n s
  | .restored port n => Sys2Proof.Machine.execRestored port n s
  | .noticeResume port n => Sys2Proof.Machine.execNoticeResume port n s
  | .noSnapshot port n => Sys2Proof.Machine.execNoSnapshot port n s
  | .onBehalfTimeout heat => Sys2Proof.Machine.execOnBehalfTimeout heat s
  | .inventoryWaitExpiry heat => Sys2Proof.Machine.execInventoryWaitExpiry heat s
  | .leadTimeout heat => Sys2Proof.Machine.execLeadTimeout heat s
  | .restoreRepeat heat => Sys2Proof.Machine.execRestoreRepeat heat s
  | .restoreComplete heat => Sys2Proof.Machine.execRestoreComplete heat s
  | .resumeLap heat => Sys2Proof.Machine.execResumeLap heat s
  | .snapshotLap heat => Sys2Proof.Machine.execSnapshotLap heat s
  | .snapshotOwnWritten heat => Sys2Proof.Machine.execSnapshotOwnWritten heat s
  | .snapshotCommitCheck heat => Sys2Proof.Machine.execSnapshotCommitCheck heat s
  | .snapshotBuddySend heat => Sys2Proof.Machine.execSnapshotBuddySend heat s
  | .snapshotBuddyWritten heat => Sys2Proof.Machine.execSnapshotBuddyWritten heat s
  | .spareRotation cluster => Sys2Proof.Machine.execSpareRotation cluster s
  | .spareMove cluster => Sys2Proof.Machine.execSpareMove cluster s
  | .spareTakeover cluster => Sys2Proof.Machine.execSpareTakeover cluster s
  | .spareTestComplete cluster pass sweep => Sys2Proof.Machine.execSpareTestComplete cluster pass sweep s
  | .testOverdue cluster => Sys2Proof.Machine.execTestOverdue cluster s
  | .monitorFlag slot => Sys2Proof.Machine.execMonitorFlag slot s
  | .marginPlanCheck => Sys2Proof.Machine.execMarginPlanCheck s
  | .inputValid => Sys2Proof.Machine.execInputValid s
  | .inputInvalid => Sys2Proof.Machine.execInputInvalid s
  | .strapLatch pins => Sys2Proof.Machine.execStrapLatch pins s
  | .resetN low width => Sys2Proof.Machine.execResetN low width s
  | .watchdogExpiry => Sys2Proof.Machine.execWatchdogExpiry s
  | .pwrEn level width => Sys2Proof.Machine.execPwrEn level width s
  | .warmUpWave failed => Sys2Proof.Machine.execWarmUpWave failed s
  | .memoryTestComplete failed repaired => Sys2Proof.Machine.execMemoryTestComplete failed repaired s
  | .selfTestComplete failed sweeps => Sys2Proof.Machine.execSelfTestComplete failed sweeps s
  | .linkTrainingEnd => Sys2Proof.Machine.execLinkTrainingEnd s
  | .wakeTokenRequest unit => Sys2Proof.Machine.execWakeTokenRequest unit s
  | .wakeTokenGrant => Sys2Proof.Machine.execWakeTokenGrant s
  | .coreIdleTimeout core => Sys2Proof.Machine.execCoreIdleTimeout core s
  | .updateImage path bytes => Sys2Proof.Machine.execUpdateImage path bytes s
  | .verifyAndWrite path => Sys2Proof.Machine.execVerifyAndWrite path s
  | .discard path => Sys2Proof.Machine.execDiscard path s
  | .updateWriteComplete ok => Sys2Proof.Machine.execUpdateWriteComplete ok s
  | .recoveryAnnounce => Sys2Proof.Machine.execRecoveryAnnounce s
  | .udpRead addr port header data => Sys2Proof.Machine.execUdpRead addr port header data s
  | .udpWrite addr port header data => Sys2Proof.Machine.execUdpWrite addr port header data s
  | .udpTransferTimeout addr port index sub => Sys2Proof.Machine.execUdpTransferTimeout addr port index sub s
  | .usdo client req => Sys2Proof.Machine.execUsdo client req s
  | .usdoTimeout client => Sys2Proof.Machine.execUsdoTimeout client s
  | .nmt command node => Sys2Proof.Machine.execNmt command node s
  | .heartbeat => Sys2Proof.Machine.execHeartbeat s
  | .registerWrite path target value => Sys2Proof.Machine.execRegisterWrite path target value s
  | .storeAll path value ok => Sys2Proof.Machine.execStoreAll path value ok s
  | .restoreDefaults path value => Sys2Proof.Machine.execRestoreDefaults path value s
  | .chipNumber path value => Sys2Proof.Machine.execChipNumber path value s
  | .powerClass path value => Sys2Proof.Machine.execPowerClass path value s
  | .paceRole path value => Sys2Proof.Machine.execPaceRole path value s
  | .quoteNonce path nonce => Sys2Proof.Machine.execQuoteNonce path nonce s
  | .quoteReady => Sys2Proof.Machine.execQuoteReady s
  | .unlockToken path token => Sys2Proof.Machine.execUnlockToken path token s
  | .relock path value => Sys2Proof.Machine.execRelock path value s
  | .bypass => Sys2Proof.Machine.execBypass s
  | .idcode => Sys2Proof.Machine.execIdcode s
  | .samplePreload pins => Sys2Proof.Machine.execSamplePreload pins s
  | .extest => Sys2Proof.Machine.execExtest s
  | .ethernetFrame port frame => Sys2Proof.Machine.execEthernetFrame port frame s
  | .tcpConnection port tcpPort => Sys2Proof.Machine.execTcpConnection port tcpPort s
  | .hello session version nonce kem rcd => Sys2Proof.Machine.execHello session version nonce kem rcd s
  | .auth session tagOk rcd key sig => Sys2Proof.Machine.execAuth session tagOk rcd key sig s
  | .ping session req => Sys2Proof.Machine.execPing session req s
  | .sessionSetupTimeout session => Sys2Proof.Machine.execSessionSetupTimeout session s
  | .sessionIdleTimeout session => Sys2Proof.Machine.execSessionIdleTimeout session s
  | .planSubmit session req plan => Sys2Proof.Machine.execPlanSubmit session req plan s
  | .imageData session req image offset data => Sys2Proof.Machine.execImageData session req image offset data s
  | .jobStart session req heat seed => Sys2Proof.Machine.execJobStart session req heat seed s
  | .planRemove session req tag => Sys2Proof.Machine.execPlanRemove session req tag s
  | .statusReq session req entries => Sys2Proof.Machine.execStatusReq session req entries s
  | .take session req heat lap => Sys2Proof.Machine.execTake session req heat lap s
  | .snapshotCancel session req heat => Sys2Proof.Machine.execSnapshotCancel session req heat s
  | .restart session req heat => Sys2Proof.Machine.execRestart session req heat s
  | .abandon session req heat => Sys2Proof.Machine.execAbandon session req heat s
  | .period session req heat lap => Sys2Proof.Machine.execPeriod session req heat lap s
  | .serveReq session req heat maxTokens params tokens => Sys2Proof.Machine.execServeReq session req heat maxTokens params tokens s
  | .cancel session req target => Sys2Proof.Machine.execCancel session req target s
  | .close session => Sys2Proof.Machine.execClose session s
  | .storageRingPoll heat => Sys2Proof.Machine.execStorageRingPoll heat s
  | .nvmeCompletion heat cmd status data => Sys2Proof.Machine.execNvmeCompletion heat cmd status data s
  | .storageReconnect heat slot ok => Sys2Proof.Machine.execStorageReconnect heat slot ok s
  | .storageTargetTimeout heat slot => Sys2Proof.Machine.execStorageTargetTimeout heat slot s
  | .outboxPoll heat blocked => Sys2Proof.Machine.execOutboxPoll heat blocked s
  | .sensorSample r => Sys2Proof.Machine.execSensorSample r s
  | .backstopTrip => Sys2Proof.Machine.execBackstopTrip s
  | .thermalTermStep => Sys2Proof.Machine.execThermalTermStep s
  | .throttleN low width => Sys2Proof.Machine.execThrottleN low width s
  | .throttleHeldLog => Sys2Proof.Machine.execThrottleHeldLog s
  | .canBusOffRecovery busOff => Sys2Proof.Machine.execCanBusOffRecovery busOff s
  | .poweredTimeSave => Sys2Proof.Machine.execPoweredTimeSave s
  | .channelLinkLoss channel => Sys2Proof.Machine.execChannelLinkLoss channel s
  | .windowTestComplete cluster pass sweep => Sys2Proof.Machine.execWindowTestComplete cluster pass sweep s
  | .ethernetLinkState port up => Sys2Proof.Machine.execEthernetLinkState port up s

end Sys2Proof.Machine
end

