-- ==== Sys2Proof/Machine/Tick.lean ====
section
/-! DEFINITION. What a step does when no command waits: one tick of device time (R13, R279, R532). -/

namespace Sys2Proof.Machine

/-- A `PWR_EN` change that came too soon: once 100 ms have passed since the last accepted change, the filtered level is
compared again (R532). -/
def settlePower (s : State) : State :=
  match s.pins.pwrAt with
  | some t =>
    if s.pins.inputOn && s.pins.pwrEn != s.pins.pwrLevel && t + ms 100 ≤ s.now then acceptPower s s.pins.pwrEn else s
  | none => s

/-- What the passing of time lets leave on Ethernet: frames held by a PAUSE that is over, Keep Alives, the end of sessions that have
used up their records. -/
def settleNetwork (s : State) : State := closeAllSpent (keepAlive (releasePaused s))

/-- A tick of 6.4 ns. Device time runs once the pace has started (R420): the phase counts up to the last phase of the lap,
which LAP_START ends. The test windows of a lap start come behind everything else of its tick (R297). -/
def tick (s : State) : State :=
  if !linksUp s then settleNetwork (settlePower { s with now := s.now + 64 })
  else if s.phase + 1 < lapLen s then
    let s := passTick (openWindows s)
    settleNetwork (settlePower { s with phase := s.phase + 1 })
  else s

end Sys2Proof.Machine
end

