-- ==== Sys2Proof/Safety.lean ====
section
/-! DEFINITION. What the statements call a sound state: memory in its canonical form, every sparse table sorted. -/

namespace Sys2Proof

/-- The keys of a table rise strictly, from `lo` on. -/
def tabRisesFrom {α : Type} : Nat → Tab α → Bool
  | _, [] => true
  | lo, (j, _) :: t => decide (lo ≤ j) && tabRisesFrom (j + 1) t

/-- The keys of a table rise strictly: what makes a read after a write give the value written. -/
def tabRises {α : Type} (t : Tab α) : Bool := tabRisesFrom 0 t

namespace Machine

/-- Memory is in its one canonical form. -/
def State.memOk (s : State) : Bool := Memory.wf s.mem

/-- Memory is in its canonical form, and every other sparse table that is itself a field of the state is sorted by key. -/
def State.tablesOk (s : State) : Bool :=
  Memory.wf s.mem && tabRises s.errs && tabRises s.dict && tabRises s.dom && tabRises s.heats && tabRises s.queues &&
    tabRises s.cores && tabRises s.clusters && tabRises s.corePower && tabRises s.ports && tabRises s.poolHead &&
    tabRises s.sweeps && tabRises s.sessions && tabRises s.serveHead && tabRises s.served

/-! ## Vector instructions -/

/-- The block that runs on core `k`, of heat `h`, stands at instruction `pc`, whose word is `w`: no END, and neither the last
word of the image nor of the instruction memory (R163). -/
def State.atWord (s : State) (k h pc w : Nat) : Bool :=
  clusterHeat s (slotCluster k) == some h && ((getHeat s h).st == .running || (getHeat s h).st == .stopping) &&
    (getVec s k).pc == some pc && !(getVec s k).condemned && tabGet 0 (getCore s k).prog pc == w && w != vEnd &&
    decide (pc + 1 < (getCore s k).progLen) && pc != 16383

/-- Whether place `i` of the vector register file is an active lane of the word's destination group (R137, R141). -/
def VecState.writes (v : VecState) (w i : Nat) : Bool := decide (vVd w * 64 ≤ i) && v.active w (i - vVd w * 64)

/-- What an instruction of core `k`, of heat `h`, leaves alone: everything but that core's vector engine and the heat's count of
FLUSH events. -/
def VecFrame (s t : State) (k h : Nat) : Prop :=
  t = { s with cores := t.cores, dict := t.dict } ∧
  (∀ j, j ≠ k → getCore t j = getCore s j) ∧
  getCore t k = { getCore s k with vec := getVec t k } ∧
  (∀ i sub, sub < 256 → (i ≠ hStat h ∨ sub ≠ 1) → dget t i sub = dget s i sub)

/-- What a vector store of core `k`, of heat `h`, leaves alone: everything but memory, that core's vector engine and record of writes to
its buffer, and the heat's count of FLUSH events. -/
def StoreFrame (s t : State) (k h : Nat) : Prop :=
  t = { s with cores := t.cores, dict := t.dict, mem := t.mem } ∧
  (∀ j, j ≠ k → getCore t j = getCore s j) ∧
  getCore t k = { getCore s k with vec := getVec t k, log := (getCore t k).log } ∧
  (∀ i sub, sub < 256 → (i ≠ hStat h ∨ sub ≠ 1) → dget t i sub = dget s i sub)

/-- An engine that has gone on from `pc` past the word `w`: only its event counts, and with a tap its summaries, have changed. -/
def EngineMoves (v v' : VecState) (pc w : Nat) : Prop :=
  v' = { v with sums := v'.sums, pc := some (pc + 1), evSat := v'.evSat, evNanb := v'.evNanb, evFlush := v'.evFlush } ∧
  (vTap w = 0 → v'.sums = v.sums)

/-- An instruction that writes lanes of `vd`: its row, opcode, the registers that must start a group, and the pattern it gives
each active lane. -/
structure LaneRow where
  row  : Nat → Instr
  op   : Nat
  regs : Nat → List Nat
  lane : Nat → VecState → Cls → Nat → Nat

/-- The row completes: each active lane of `vd` holds the pattern given, every other lane what it held, and the engine stands at
the next word; masks, address registers, lengths, taps and generator are as before, and without a tap the summaries too. -/
def LaneRow.Completes (r : LaneRow) : Prop :=
  ∀ (s : State) (k h pc w : Nat), s.atWord k h pc w = true → vOp w = r.op → (getVec s k).aligned (r.regs w) = true →
    ∃ t, exec (r.row k) s = .next t ∧ VecFrame s t k h ∧
      (∀ i, tabGet 0 (getVec t k).v i =
        if (getVec s k).writes w i then r.lane w (getVec s k) (heatCls s h) (i - vVd w * 64) else tabGet 0 (getVec s k).v i) ∧
      getVec t k = { getVec s k with
        v := (getVec t k).v, sums := (getVec t k).sums, pc := some (pc + 1), evSat := (getVec t k).evSat
        evNanb := (getVec t k).evNanb, evFlush := (getVec t k).evFlush } ∧
      (vTap w = 0 → (getVec t k).sums = (getVec s k).sums)

/-- The rows of floating arithmetic (R144 to R146): the value of each lane, rounded once. -/
def floatRows : List LaneRow := [
  ⟨fun k => .fadd k none, 0x01, regs3, fun w v c e => (floatTwo fvAdd w v c e).1⟩,
  ⟨fun k => .fsub k none, 0x02, regs3, fun w v c e => (floatTwo fvSub w v c e).1⟩,
  ⟨fun k => .fmul k none, 0x03, regs3, fun w v c e => (floatTwo fvMul w v c e).1⟩,
  ⟨fun k => .fma k none, 0x04, regs3, fun w v c e => (floatThree (fun a b d => fvAdd (fvMul a b) d) w v c e).1⟩,
  ⟨fun k => .fms k none, 0x05, regs3, fun w v c e => (floatThree (fun a b d => fvSub (fvMul a b) d) w v c e).1⟩,
  ⟨fun k => .fnma k none, 0x06, regs3, fun w v c e => (floatThree (fun a b d => fvAdd d (fvMul a b).neg) w v c e).1⟩,
  ⟨.fmax, 0x07, regs3, fun w v c e => (floatTwo vMax w v c e).1⟩,
  ⟨.fmin, 0x08, regs3, fun w v c e => (floatTwo vMin w v c e).1⟩,
  ⟨.fabs, 0x09, regs2, fun w v c e => (floatOne (vPacked w) FV.abs w v c e).1⟩,
  ⟨.fneg, 0x0A, regs2, fun w v c e => (floatOne (vPacked w) FV.neg w v c e).1⟩,
  ⟨.fcsgn, 0x0B, regs3, fun w v c e => (signCopy w v c e).1⟩,
  ⟨fun k => .frnd ⟨k, none⟩, 0x0C, regs2, fun w v c e => (vop1 fmtF32 c vRnd (v.lane (vVa w) e)).1⟩,
  ⟨fun k => .fscale ⟨k, none⟩, 0x0D, regs3, fun w v c e => (vop1 fmtF32 c (vScale (sext 32 (v.second w e))) (v.lane (vVa w) e)).1⟩,
  ⟨fun k => .frcp ⟨k, none⟩, 0x0E, regs2, fun w v c e => (vop1 fmtF32 c (vRcp (v.lane (vVa w) e)) (v.lane (vVa w) e)).1⟩,
  ⟨fun k => .frsqrt ⟨k, none⟩, 0x0F, regs2, fun w v c e => (vop1 fmtF32 c (vRsqrt (v.lane (vVa w) e)) (v.lane (vVa w) e)).1⟩,
  ⟨fun k => .fexp2 ⟨k, none⟩, 0x10, regs2, fun w v c e => (vop1 fmtF32 c (vExp2 (v.lane (vVa w) e)) (v.lane (vVa w) e)).1⟩,
  ⟨fun k => .flog2 ⟨k, none⟩, 0x11, regs2, fun w v c e => (vop1 fmtF32 c (vLog2 (v.lane (vVa w) e)) (v.lane (vVa w) e)).1⟩,
  ⟨fun k => .ftanh ⟨k, none⟩, 0x12, regs2, fun w v c e => (vop1 fmtF32 c (vTanh (v.lane (vVa w) e)) (v.lane (vVa w) e)).1⟩,
  ⟨fun k => .fsqrt ⟨k, none⟩, 0x13, regs2, fun w v c e => (vop1 fmtF32 c fvSqrt (v.lane (vVa w) e)).1⟩]

/-- An instruction whose retire checks see the errors of its operation: its row, opcode, and the operation (R147, R429). -/
structure CheckedRow where
  row  : Nat → VecResidue → Instr
  op   : Nat
  path : FmaOp

/-- The multiply-add rows. -/
def checkedRows : List CheckedRow := [
  ⟨fun k e => .fadd k (some e), 0x01, faddOp⟩, ⟨fun k e => .fsub k (some e), 0x02, fsubOp⟩, ⟨fun k e => .fmul k (some e), 0x03, fmulOp⟩,
  ⟨fun k e => .fma k (some e), 0x04, fmaOp⟩, ⟨fun k e => .fms k (some e), 0x05, fmsOp⟩, ⟨fun k e => .fnma k (some e), 0x06, fnmaOp⟩]

/-- A lane as a 32-bit word. -/
def VecState.w32 (v : VecState) (r e : Nat) : BitVec 32 := BitVec.ofNat 32 (v.lane r e)
/-- The second operand as a 32-bit word. -/
def VecState.b32 (v : VecState) (w e : Nat) : BitVec 32 := BitVec.ofNat 32 (v.second w e)

/-- An integer row over 32-bit words; the flag is the word's modifier bit 0. -/
def intRow (row : Nat → Instr) (op : Nat) (g : Bool → BitVec 32 → BitVec 32 → BitVec 32) : LaneRow :=
  ⟨row, op, regs3, fun w v _ e => (g (bitOf w 0) (v.w32 (vVa w) e) (v.b32 w e)).toNat⟩

/-- The rows of integer arithmetic and logic (R144): words modulo 2^32, IMAX, IMIN and SHR signed or not by the modifier. -/
def intRows : List LaneRow := [
  intRow .iadd 0x14 fun _ a b => a + b,
  intRow .isub 0x15 fun _ a b => a - b,
  intRow .imul 0x16 fun _ a b => a * b,
  intRow .imax 0x17 fun u a b => if u then (if a.ult b then b else a) else (if a.slt b then b else a),
  intRow .imin 0x18 fun u a b => if u then (if b.ult a then b else a) else (if b.slt a then b else a),
  intRow .and 0x19 fun _ a b => a &&& b,
  intRow .or 0x1A fun _ a b => a ||| b,
  intRow .xor 0x1B fun _ a b => a ^^^ b,
  intRow .andn 0x1C fun _ a b => a &&& ~~~b,
  intRow .shl 0x1D fun _ a b => a <<< (b.toNat % 32),
  intRow .shr 0x1E fun r a b => if r then a.sshiftRight (b.toNat % 32) else a >>> (b.toNat % 32)]

/-- The rows that select, move and convert (R147, R148): lanes as they are, or converted from one format to
another. -/
def moveRows : List LaneRow := [
  ⟨.vsel, 0x21, regs3, fun w v _ e => if bitOf (v.mask (vMod w)) e then v.lane (vVa w) e else v.second w e⟩,
  ⟨.vmov, 0x27, fun w => if vBsel w then [vVd w] else [vVd w, vVb w], fun w v _ e => v.second w e⟩,
  ⟨.vidx, 0x28, fun w => [vVd w], fun _ _ _ e => e⟩,
  ⟨fun k => .cvtfi ⟨k, none⟩, 0x2A, regs2, fun w v _ e => vFromInt (bitOf w 0) (v.lane (vVa w) e)⟩,
  ⟨fun k => .cvtif ⟨k, none⟩, 0x2B, regs2, fun w v c e => (vToInt (bitOf w 0) c (v.lane (vVa w) e)).1⟩,
  ⟨fun k => .packb ⟨k, none⟩, 0x2C, regs3, fun w v c e =>
    (vconv fmtF32 fmtBF16 c (v.second w e)).1 * 65536 + (vconv fmtF32 fmtBF16 c (v.lane (vVa w) e)).1⟩,
  ⟨fun k => .unpkb ⟨k, none⟩, 0x2D, regs2, fun w v c e => (vconv fmtBF16 fmtF32 c (halfOf (v.lane (vVa w) e) (bitOf w 0))).1⟩,
  ⟨fun k => .cvth ⟨k, none⟩, 0x2E, regs2, fun w v c e =>
    if bitOf w 0 then (vconv fmtF16 fmtF32 c (v.lane (vVa w) e % 65536)).1 else (vconv fmtF32 fmtF16 c (v.lane (vVa w) e)).1⟩]

/-- An instruction that writes bits of mask register `vd`: its row, opcode, the registers that must start a group, which bits it
writes, and what it gives each. -/
structure MaskRow where
  row  : Nat → Instr
  op   : Nat
  regs : Nat → List Nat
  on   : Nat → VecState → Nat → Bool
  bit  : Nat → VecState → Cls → Nat → Bool

/-- The row completes: the bits it writes hold what it gives, every other bit of every mask register what it held; lanes, address
registers, lengths, taps and generator are as before, and without a tap the summaries too. -/
def MaskRow.Completes (r : MaskRow) : Prop :=
  ∀ (s : State) (k h pc w : Nat), s.atWord k h pc w = true → vOp w = r.op → (getVec s k).aligned (r.regs w) = true →
    ∃ t, exec (r.row k) s = .next t ∧ VecFrame s t k h ∧
      (∀ e, bitOf ((getVec t k).mask (vVd w % 8)) e =
        if r.on w (getVec s k) e then r.bit w (getVec s k) (heatCls s h) e else bitOf ((getVec s k).mask (vVd w % 8)) e) ∧
      (∀ n, n ≠ vVd w % 8 → (getVec t k).mask n = (getVec s k).mask n) ∧
      getVec t k = { getVec s k with
        m := (getVec t k).m, sums := (getVec t k).sums, pc := some (pc + 1), evSat := (getVec t k).evSat
        evNanb := (getVec t k).evNanb, evFlush := (getVec t k).evFlush } ∧
      (vTap w = 0 → (getVec t k).sums = (getVec s k).sums)

/-- The rows that compare, combine and set masks (R143, R145). -/
def maskRows : List MaskRow := [
  ⟨.fcmp, 0x1F, cmpRegs, fun w v => v.active w, fun w v c e =>
    fcond (vMod w) (vread fmtF32 c (v.lane (vVa w) e)).1 (vread fmtF32 c (v.second w e)).1⟩,
  ⟨.icmp, 0x20, cmpRegs, fun w v => v.active w, fun w v _ e => icond (vMod w) (v.lane (vVa w) e) (v.second w e)⟩,
  ⟨.mand, 0x22, fun _ => [], fun w v => v.active w, fun w v _ e =>
    bitOf (v.mask (vVa w % 8)) e && bitOf (v.mask (vVb w % 8)) e⟩,
  ⟨.mor, 0x23, fun _ => [], fun w v => v.active w, fun w v _ e =>
    bitOf (v.mask (vVa w % 8)) e || bitOf (v.mask (vVb w % 8)) e⟩,
  ⟨.mxor, 0x24, fun _ => [], fun w v => v.active w, fun w v _ e =>
    bitOf (v.mask (vVa w % 8)) e ^^ bitOf (v.mask (vVb w % 8)) e⟩,
  ⟨.mnot, 0x25, fun _ => [], fun w v => v.active w, fun w v _ e => !bitOf (v.mask (vVa w % 8)) e⟩,
  ⟨.mset, 0x26, fun _ => [], fun w v e => v.vl != 0 && decide (e < 512) && (!vMk w || bitOf (v.mask (vMreg w)) e),
    fun w _ _ _ => bitOf w 0⟩]

/-! ## Changes of one thing alone -/

/-- The command completes, and the one thing that changes is the vector engine of core `k`, which becomes `v`. -/
def EngineStep (i : Instr) (s : State) (k : Nat) (v : VecState) : Prop :=
  ∃ t, exec i s = .next t ∧ t = { s with cores := t.cores } ∧ (∀ j, j ≠ k → getCore t j = getCore s j) ∧
    getCore t k = { getCore s k with vec := v }

/-- The command completes, and the one thing that changes is queue `q`, which becomes `x`. -/
def QueueStep (i : Instr) (s : State) (q : Nat) (x : Queue) : Prop :=
  ∃ t, exec i s = .next t ∧ t = { s with queues := t.queues } ∧ (∀ j, j ≠ q → getQueue t j = getQueue s j) ∧ getQueue t q = x

/-- A command's work is over: the flight of index `i` in queue `q` is done, with a status and its words. -/
def Queue.ended (x : Queue) (i st a b : Nat) : Queue :=
  let endOf (f : Flight) : Flight := { f with done := true, status := pickStatus st f.status, wordA := a, wordB := b }
  { x with flights := modFirst (fun f => f.index == i) endOf x.flights }

/-- Every vector instruction but SETVL and END, by its opcode. -/
def vectorRows (k : Nat) : List (Nat × Instr) :=
  (floatRows ++ intRows ++ moveRows).map (fun r => (r.op, r.row k)) ++ maskRows.map (fun r => (r.op, r.row k)) ++
    [(0x00, .vectorNop k), (0x29, .vtos k), (0x32, .vld ⟨k, none⟩), (0x33, .vst ⟨k, none⟩), (0x34, .vldm k), (0x35, .vstm k), (0x37, .rclr k),
     (0x38, .rtap k), (0x39, .rwait k), (0x3A, .vrng k), (0x3B, .vrngu k), (0x3C, .vrngb k), (0x3D, .vqh k), (0x3E, .fence k)]

/-- The bytes of a range hold a list, every other byte of memory what it held. -/
def Stored (s t : State) (a : Nat) (l : List Byte) : Prop :=
  readBytes t a l.length = l ∧ ∀ b, (b < a ∨ a + l.length ≤ b) → getByte t b = getByte s b

/-- The first started command of index `i` in queue `q`. -/
def flightOf (s : State) (q i : Nat) : Option Flight := (getQueue s q).flights.find? fun f => f.index == i

/-- The command of index `i` in queue `q` is over, with its status and words. -/
def Ended (s : State) (q i st a b : Nat) : Prop :=
  ∃ f, flightOf s q i = some f ∧ f.done = true ∧ f.status = st ∧ f.wordA = a ∧ f.wordB = b

/-- None of a pass's counters crosses its threshold (R115, R120). -/
def crossesNothing (p : Nat) (o : PassOut) : Bool :=
  trigBits p o.evA == 0 && trigBits p o.evB == 0 && !crosses (cap24 o.evA.nanb) (polNanb p) &&
    !crosses (cap24 o.evB.nanb) (polNanb p) && !crosses (cap24 o.wloss) (polWloss p)

/-- A repeat as a pass decided it: one more, each operand that widens one rung higher (R122). -/
def TileRun.raised (r : TileRun) : TileRun :=
  { r with
    rungA := r.rungA + b2n r.widenA, rungB := r.rungB + b2n r.widenB, repeats := r.repeats + 1
    again := false, widenA := false, widenB := false }

/-- The rows of a transfer lie in stack memory of this device, one after another without overlap. -/
def plainRows (s : State) (a stride rows n : Nat) : Prop :=
  n ≤ stride ∧ ∀ r, r < rows → place s (a + r * stride) = .stack

/-- A RAW copy between memories of this device that no ordered region refuses or stages, with nothing of a ledger, a cache or a
prefetcher. -/
def plainCopy (s : State) (q h : Nat) (f : Flight) (p : DmaPar) : Prop :=
  runningIn s q 0x60 = some (h, f) ∧ flightOf s q f.index = some f ∧ p = DmaPar.ofDesc f.desc f.ext ∧ s.errs = [] ∧
    p.srcKind = 0 ∧ p.dstKind = 0 ∧ isLocal s (gChip p.src) = true ∧ isLocal s (gChip p.dst) = true ∧ f.srcF = none ∧
    f.dstF = none ∧ p.gradKind = 0 ∧ p.pfEnable = false ∧ p.cache = false ∧ f.acks = 0 ∧ f.rem.refusal = none ∧ f.status = 0 ∧
    refusedBy s h p none none = none ∧ stagedPart s h q f.index = false

/-- A heat control by this path is answered and not refused (R386, R389, R474). -/
def controlOpen (s : State) (path : Path) (h : Nat) : Prop :=
  sessionRefusal s path h rightSubmit = none ∧ dictAnswers s = true ∧ h < 16 ∧ bootStage s ≠ bsRecovery

/-- A path whose answers leave the device directly, not as a message of a session. -/
def directPath (path : Path) : Prop := ∀ n r, path ≠ .starter n r

/-- The answer on such a path: an abort code and a value; on CAN it is a USDO message (R475). -/
def directOut (s : State) (path : Path) (ab : Nat) (v : List Byte) : Out :=
  match path with
  | .can c => .usdo (canId s 0x580) c ab v.length v
  | _ => .dict path ab v

/-- Counter `sub` of index `i` rose by one, stopping at its type's largest value. -/
def Counted (s t : State) (i sub : Nat) : Prop := dget t i sub = min (dget s i sub + 1) (dmax i sub)

/-- The group that a port has to send again next, if any and if it is still held (R308). -/
def replayNo (s : State) (p : Nat) : Option Nat := (getPort s p).replayFrom.filter fun n => (getPort s p).retry.any (·.1 = n)

/-- In the step from `s` to `t` port `p` has sent a group of its own (R307, R308): the group `again`, or a fresh one under the port's
next number, which its retry buffer then holds; its header acknowledges what the port has accepted, returns what it has freed, and asks
for a replay where `nak` says so. -/
def GroupSent (s t : State) (p : Nat) (again : Option Nat) (nak : Bool) : Prop :=
  ∃ o x l, (getPort t p).lastOut = some o ∧ o.header = groupHeader x (again.getD (getPort s p).txNext) l ∧
    x.rxNext = (getPort t p).rxNext ∧ x.freed = (getPort t p).freed ∧ x.nakDue = nak ∧ (getPort t p).nakDue = false ∧
    (again = none → (getPort t p).txNext = (getPort s p).txNext + 1 ∧
      (getPort t p).retry.head? = some ((getPort s p).txNext, o)) ∧
    (again.isSome = true → (getPort t p).txNext = (getPort s p).txNext)

/-- A packet without a reserved code has come to this device on a port that carries packets, and heat `h` answers it (R313, R319,
R326). -/
def comesTo (s : State) (port : Nat) (k : Packet) (h : Nat) : Prop :=
  admitted s port = true ∧ packetBad k = false ∧ k.dst = ownChip s ∧ tagHeat s k.tag = some h ∧
    ((getHeat s h).st = .running ∨ (getHeat s h).st = .stopping ∨ (getHeat s h).st = .stopped)

/-- The state with that packet taken from what its port delivered. -/
def taken (s : State) (port : Nat) (k : Packet) : State :=
  modPort s port fun x => { x with delivered := dropFirst (fun y => y = k) x.delivered }

/-- A packet of a member of the one collective of its number, which is not refused (R344). -/
def collKnown (s : State) (port : Nat) (k : Packet) (h : Nat) (c : Coll) : Prop :=
  comesTo s port k h ∧ s.colls.filter (fun x => x.heat = h && x.id = (TagIn.ofPacket k).id) = [c] ∧ c.refused = none ∧
    tagFits c k = true ∧ c.peers.length = c.members.length

/-- A packet of a collective awaits its answer, as it does until the peer has sent one. -/
def collWaits (s : State) (h id : Nat) : Prop := ∃ y ∈ s.txns, y.parked = false ∧ ∃ j, y.owner = .coll h id j

/-- The collective `c` of the state before goes on and is as said, as it does while a packet of it awaits an answer (`waits`); or it is
over, its command done with its record. -/
def CollHas (t : State) (c : Coll) (waits : Prop) (P : Coll → Prop) : Prop :=
  (waits → ∃ c', findColl t c.heat c.id = some c' ∧ P c') ∧
  ((∃ c', findColl t c.heat c.id = some c' ∧ P c') ∨
    (findColl t c.heat c.id = none ∧ ∃ g, flightOf t c.queue c.index = some g ∧ g.done = true))

/-- A packet to peer `j` of a collective awaits its answer. -/
def Awaited (t : State) (h id j : Nat) (P : Packet → Prop) : Prop :=
  ∃ x ∈ t.txns, x.owner = .coll h id j ∧ P x.pkt

/-- A notice that counts for heat `h`: from a TRAINED port that a plan of its tag names, not seen before, with the heat's restart
number (R455). -/
def noticed (s : State) (port : Nat) (n : Notice) (h : Nat) : Prop :=
  trained s port = true ∧ (planPort s n.tag port).isSome = true ∧ noticeSeen s n = false ∧ tagHeat s n.tag = some h ∧
    n.restartNo = (getHeat s h).restart.no

/-- The lead of a restart that has sent no RESTORE and found no lap wanting (R458). -/
def undecided (s : State) (h : Nat) : Prop :=
  (getHeat s h).st = .restarting ∧ (getHeat s h).restart.restoreSent = none ∧ (getHeat s h).restart.chosen = none ∧
    (getHeat s h).restart.noSnapshot = false

/-- What the wait of the lead ends in: the common lap of all members, chosen and restored, or none. -/
def Decided (s t : State) (h : Nat) : Prop :=
  let r := (getHeat s h).restart
  match (if jobMembers s h ≤ (subjects r).length then commonLap r else none) with
  | some l => (getHeat t h).restart.chosen = some l ∧ (getHeat t h).restart.restoreSent = some s.lapStarts
  | none => (getHeat t h).restart.noSnapshot = true ∧ dget t (hSnap h) 0x10 = 5

/-- A session is open with a right, its link up and its records not used up (R384 to R386). -/
def sessionOpen (s : State) (n right : Nat) : Prop :=
  ∃ x, getSession s n = some x ∧ x.stage = 2 ∧ ethLinkUp s x.eth = true ∧ bitOf x.rights right = true ∧ x.recsIn + 1 < 2 ^ 32 ∧
    x.recsOut + 1 < 2 ^ 32

/-- The last thing sent, or the last that waits while its Ethernet port obeys a PAUSE (R374). -/
def LastSent (t : State) (o : Out) : Prop := t.out.getLast? = some o ∨ (t.pausedOut.getLast?.map (·.2)) = some o

/-- The last thing sent is the RESULT of a request, in some record. -/
def Told (t : State) (n req result detail : Nat) : Prop :=
  ∃ wire, LastSent t (.starter n msgResult req (bytesOf 1 result ++ bytesOf 4 detail) wire)

/-- The messages of a session that need one right, with that right (R386). -/
def rightRows (n req h a : Nat) (d : List Byte) (l : List (Nat × Nat)) (p : BitVec 256) (w : W64) : List (Instr × Nat) := [
  (.imageData n req h a d, rightSubmit), (.jobStart n req h w, rightSubmit), (.planRemove n req h, rightPlan),
  (.statusReq n req l, rightStatus), (.take n req h a, rightSnapshot), (.snapshotCancel n req h, rightSnapshot),
  (.restart n req h, rightSnapshot), (.abandon n req h, rightSnapshot), (.period n req h a, rightSnapshot),
  (.serveReq n req h a p [], rightServe), (.cancel n req a, rightServe)]

/-- The rows that write one dictionary entry: the row, its index and sub-index, and the bytes it writes. -/
def entryRows (path : Path) (v : Nat) (l : List Byte) (w : W32) (ok : Bool) : List (Instr × Nat × Nat × List Byte) := [
  (.chipNumber path v, 0x2320, 8, sentBytes 2 v), (.powerClass path v, 0x2100, 1, sentBytes 1 v),
  (.paceRole path v, 0x2200, 1, sentBytes 1 v), (.quoteNonce path l, 0x2A00, 5, l), (.unlockToken path l, 0x2B00, 3, l),
  (.relock path v, 0x2B00, 4, sentBytes 1 v), (.updateImage path l, 0x2A10, 5, l), (.verifyAndWrite path, 0x2A10, 6, [1#8]),
  (.discard path, 0x2A10, 6, [2#8]), (.restoreDefaults path w, 0x1011, 1, bytesOf 4 w.toNat),
  (.storeAll path w ok, 0x1010, 1, bytesOf 4 w.toNat)]

/-- A write of an entry by a path is answered and no check rejects it (R488). -/
def writeOpen (s : State) (path : Path) (i sub : Nat) (l : List Byte) : Prop :=
  directPath path ∧ dictAnswers s = true ∧ writeFault s path i sub l = 0

/-- The last thing sent is a dictionary answer with this abort code. -/
def Answered (t : State) (path : Path) (ab : Nat) : Prop := t.out.getLast? = some (directOut t path ab [])

end Machine

end Sys2Proof
end

