-- ==== Sys2Proof/Certificates/Slice0/Obligations.lean ====
section
/-! DEFINITION. The statements for the provers. -/

open Sys2Proof Sys2Proof.Machine

/-! ## The machine -/

/-- A step runs the command at the front of the queue on the queue's rest. -/
def Obligations.StepRunsFrontCommand : Prop :=
  ∀ (s : State) (c : Instr) (l : List Instr), s.pending = c :: l → step s = exec c { s with pending := l }

/-- The model's own choice (log entries 2 and 46): with no command waiting, a step lets one tick of device time pass; the last phase of
a lap waits for LAP_START. Of an offset still to be slewed out the clock takes up at most one part in 1,000 (R287); that it takes up
one unit each time the thousandths of the ticks are full is the model's choice too (log entry 46). -/
def Obligations.StepTicksWhenIdle : Prop :=
  ∀ s : State, s.pending = [] →
    (linksUp s = false ∨ s.phase + 1 < lapLen s → ∃ t, step s = .next t ∧ t.pending = [] ∧
      (s.pins.pwrEn = s.pins.pwrLevel ∨ s.pins.pwrAt = none →
        t.lap = s.lap ∧ t.phase = (if linksUp s then s.phase + 1 else s.phase) ∧
        t.now = (if linksUp s = true ∧ s.slew ≠ 0 ∧ 1000 ≤ s.slewFrac + 64 then (if s.slew < 0 then s.now + 63 else s.now + 65)
          else s.now + 64) ∧
        (s.pausedOut = [] → s.sessions = [] → s.conns = [] → (linksUp s = true → s.slew = 0 ∧ s.phase ≠ 0) →
          t = { s with now := s.now + 64, phase := if linksUp s then s.phase + 1 else s.phase }))) ∧
    (linksUp s = true → lapLen s ≤ s.phase + 1 → step s = .next s)

/-- Every command completes: no step ends in a fault or a refusal, and what waits is the queue's rest. That a command out of its time
completes without effect is the model's own choice (log entry 1). -/
def Obligations.EveryStepCompletes : Prop :=
  ∀ s : State, ∃ t, step s = .next t ∧ t.pending = s.pending.tail

/-- Memory keeps its canonical form, and the sparse tables that are themselves fields of the state (sector errors, dictionary numbers
and bytes, heats, queues, engines' turns, cores, clusters, core power, ports, pool heads, sweeps, sessions, prompt heads) stay sorted,
along every step. -/
def Obligations.StepKeepsTables : Prop :=
  ∀ s t : State, s.tablesOk = true → step s = .next t → t.tablesOk = true

/-- Slots retired from service and pseudo-channels retired for good stay so along every step (R441, R206).
Event numbers, free values and what has left the device are never taken back along any step: that the model counts and keeps them at
all is its own choice (log entries 8, 94 and 95), and the statement holds for every value of those fields. -/
def Obligations.StepNeverTakesBack : Prop :=
  (∀ s t : State, step s = .next t →
     (∀ p ∈ s.retiredSlots, p ∈ t.retiredSlots) ∧ (∀ q ∈ s.retiredChannels, q ∈ t.retiredChannels)) ∧
  (∀ s t : State, step s = .next t → s.logNext ≤ t.logNext ∧ s.freeCtr ≤ t.freeCtr ∧ s.out <+: t.out)

/-- The state after reset: sound, with no command waiting; heats FREE, nothing retired, the input not valid, lap 0 and phase 0; the
vector state zero; every dictionary entry but the fuse map's (0x2C00) at its default. The model's own choices (log entries 3, 4
and 5): queues disabled with their registers at zero, memory that reads as zero, a fuse map as the part is shipped. -/
def Obligations.ResetSound : Prop :=
  (State.reset.tablesOk = true ∧ State.reset.pending = [] ∧ State.reset.memOk = true) ∧
  (State.reset.lap = 0 ∧ State.reset.phase = 0 ∧ State.reset.pins.inputOn = false ∧ State.reset.retiredSlots = [] ∧
    State.reset.retiredChannels = [] ∧ State.reset.plans = []) ∧
  (∀ h, (getHeat State.reset h).st = .free) ∧
  (∀ q, (getQueue State.reset q).enabled = false ∧ (getQueue State.reset q).head = 0 ∧ (getQueue State.reset q).tail = 0) ∧
  (∀ k, getVec State.reset k = {}) ∧
  (∀ a, getByte State.reset a = 0#8) ∧
  (∀ i sub, i ≠ 0x2C00 → sub < 256 → dget State.reset i sub = dictDefault i sub)

/-! ## Vector instructions -/

/-- Arithmetic, selection and conversion, 38 rows (R137, R141, R144 to R148): floating arithmetic, integer arithmetic and logic,
select, move and convert.
FADD, FSUB, FMUL, FMA, FMS and FNMA that errors strike (R429, R437): with every retire check passed the results are written as they
came; with one failed the instruction issues once more, and its second results are written where no check fails and the lanes that
passed both times agree; where the second issue fails too, nothing is written and the engine issues nothing more.
The model's own choices: zeros above a binary16 (log entry 112), the value within the bound of R146 (log entries 17 and 18), and a
packed scalar rounded to BF16 (log entry 27). -/
def Obligations.VectorLaneRows : Prop :=
  (∀ r ∈ floatRows ++ intRows ++ moveRows, r.Completes) ∧
  (∀ r ∈ checkedRows, ∀ (s : State) (k h pc w : Nat) (e : VecResidue), s.atWord k h pc w = true → vOp w = r.op →
     (getVec s k).vl ≠ 0 → (getVec s k).aligned (regs3 w) = true →
     let v := getVec s k
     let on (l : List VecErr) (i : Nat) : (Nat × Ev) × Bool := checkedLane r.path l w v (heatCls s h) i
     let pass (l : List VecErr) : Prop := ∀ i, v.active w i = true → (on l i).2 = true
     let writes (t : State) (l : List VecErr) : Prop := (getVec t k).pc = some (pc + 1) ∧ (getVec t k).condemned = false ∧
       ∀ i, tabGet 0 (getVec t k).v i = if v.writes w i then (on l (i - vVd w * 64)).1.1 else tabGet 0 v.v i
     (pass e.first → ∃ t, exec (r.row k e) s = .next t ∧ VecFrame s t k h ∧ writes t e.first) ∧
     (¬pass e.first → pass e.second →
       (∀ i, v.active w i = true → (on e.first i).2 = true → (on e.first i).1.1 = (on e.second i).1.1) →
       ∃ t, exec (r.row k e) s = .next t ∧ writes t e.second ∧ Counted s t 0x2D60 2 ∧ Counted s t 0x2D60 3) ∧
     (¬pass e.first → ¬pass e.second → ∃ t, exec (r.row k e) s = .next t ∧ getVec t k = { v with condemned := true } ∧
       Counted s t 0x2D60 2 ∧ physSlot s k ∈ t.retiredSlots))

/-- Compares and mask logic, 7 rows. -/
def Obligations.VectorMaskRows : Prop := ∀ r ∈ maskRows, r.Completes

/-- The generator (R166): VRNG gives each active lane its word, VRNGU the word's upper 24 bits as a fraction, VRNGB a mask bit by
comparison with a summary; `mod`[2] moves the generator's base on by `vl`.
NOP, RWAIT and FENCE only go on; SETVL takes the group and the strip's length; RCLR clears a summary to an operation's identity,
RTAP binds a tap, VTOS makes a summary a constant; END ends the block. -/
def Obligations.VectorControlRows : Prop :=
  (∀ (s : State) (k h pc w : Nat), s.atWord k h pc w = true →
     let v := getVec s k
     let base := if bitOf w 2 && v.vl != 0 then (v.rngBase + v.vl) % 2 ^ 64 else v.rngBase
     let onward (t : State) : Prop := VecFrame s t k h ∧ EngineMoves v { getVec t k with m := v.m, v := v.v, rngBase := v.rngBase } pc w ∧
       (getVec t k).rngBase = base
     (vOp w = 0x3A → v.aligned [vVd w] = true → ∃ t, exec (.vrng k) s = .next t ∧ onward t ∧ (getVec t k).m = v.m ∧
       ∀ i, tabGet 0 (getVec t k).v i = if v.writes w i then genWord s h v w (i - vVd w * 64) else tabGet 0 v.v i) ∧
     (vOp w = 0x3B → v.aligned [vVd w] = true → ∃ t, exec (.vrngu k) s = .next t ∧ onward t ∧ (getVec t k).m = v.m ∧
       ∀ i, tabGet 0 (getVec t k).v i =
         if v.writes w i then fmtF32.encodeIeee (.ofIntE ((genWord s h v w (i - vVd w * 64) / 256 : Nat) : Int) (-24))
         else tabGet 0 v.v i) ∧
     (vOp w = 0x3C → ∃ t, exec (.vrngb k) s = .next t ∧ onward t ∧ (getVec t k).v = v.v ∧
       (∀ n, n ≠ vVd w % 8 → (getVec t k).mask n = v.mask n) ∧
       ∀ e, bitOf ((getVec t k).mask (vVd w % 8)) e =
         if v.active w e then decide (genWord s h v w e / 256 ≥ (v.sum (vVb w % 16)).value % 2 ^ 24)
         else bitOf (v.mask (vVd w % 8)) e)) ∧
  (∀ (s : State) (k h pc w : Nat),
     let v := getVec s k
     (s.atWord k h pc w = true →
       (vOp w = 0x00 → EngineStep (.vectorNop k) s k { v with pc := some (pc + 1) }) ∧
       (vOp w = 0x39 → EngineStep (.rwait k) s k { v with pc := some (pc + 1) }) ∧
       (vOp w = 0x3E → EngineStep (.fence k) s k { v with pc := some (pc + 1) }) ∧
       (vOp w = 0x36 → EngineStep (.setvl k) s k { v with
         pc := some (pc + 1), grp := vMod w % 4, vl := min v.avl (64 * 2 ^ (vMod w % 4))
         avl := v.avl - min v.avl (64 * 2 ^ (vMod w % 4)) }) ∧
       (vOp w = 0x37 → v.vl ≠ 0 → EngineStep (.rclr k) s k { v with
         pc := some (pc + 1), sums := tabSet {} v.sums (vVb w % 16) (Summary.clear (vVa w % 8)) }) ∧
       (vOp w = 0x38 → v.vl ≠ 0 → EngineStep (.rtap k) s k { v with
         pc := some (pc + 1), taps := tabSet 0 v.taps (vVd w % 8) (vVb w % 16 + 1) }) ∧
       (vOp w = 0x29 → v.aligned [vVa w] = true →
         (v.active w 0 = true → EngineStep (.vtos k) s k { v with
           pc := some (pc + 1)
           sums := tabSet {} v.sums (vVd w % 16) { op := 7, value := v.lane (vVa w) 0, empty := false } }) ∧
         (v.active w 0 = false → EngineStep (.vtos k) s k { v with pc := some (pc + 1) }))) ∧
     (v.pc = some pc → v.condemned = false → tabGet 0 (getCore s k).prog pc = vEnd → EngineStep (.vend k) s k { v with pc := none }))

/-- While `vl` is 0, every instruction but SETVL and END issues and changes nothing but its place (R143).
A register that starts no group faults the instruction (R137, R170): cause 1, the block and the queued ones gone. -/
def Obligations.VectorZeroOrMisaligned : Prop :=
  (∀ (s : State) (k h pc w : Nat), s.atWord k h pc w = true → (getVec s k).vl = 0 →
     ∀ r ∈ vectorRows k, vOp w = r.1 → EngineStep r.2 s k { getVec s k with pc := some (pc + 1) }) ∧
  (∀ r ∈ floatRows ++ intRows ++ moveRows, ∀ (s : State) (k h pc w : Nat), s.atWord k h pc w = true → vOp w = r.op →
     (getVec s k).vl ≠ 0 → (getVec s k).aligned (r.regs w) = false →
       EngineStep (r.row k) s k { getVec s k with pc := none, blocks := [], busy := false, fault := some (1, pc) })

/-- VLD and VST (R148, R150, R151): each active element moves between its lane and the core buffer at base + e × stride, in the
format of the modifier; VST changes no other byte; the base moves on by `vl` strides where the register says so.
VLDM and VSTM: 64 bytes of the core buffer against a mask register, bit by bit of the active elements; the base moves on by
64. The model's own choices (log entry 27): a base that wraps in 21 bits, the vector length as the measure of autoincrement, and masks
that move bit by bit under their predicate. -/
def Obligations.VectorLoadStore : Prop :=
  (∀ (s : State) (k h pc w : Nat), s.atWord k h pc w = true → (getVec s k).vl ≠ 0 →
     let v := getVec s k
     let n := memWidth (vMod w)
     (vOp w = 0x32 → v.aligned [vVd w] = true →
       let a := tabGet 0 v.a (vVa w % 8)
       accessFault s h a n ((v.actives w).map (elemOff a)) = none →
       ∃ t, exec (.vld ⟨k, none⟩) s = .next t ∧ VecFrame s t k h ∧
         EngineMoves v { getVec t k with v := v.v, a := v.a } pc w ∧ (∀ n, n ≠ vVa w % 8 → tabGet 0 (getVec t k).a n = tabGet 0 v.a n) ∧
         (∀ i, tabGet 0 (getVec t k).v i =
           if v.writes w i then (widen (vMod w) (heatCls s h) (readNat s (cbAddr k (elemOff a (i - vVd w * 64)).toNat) n)).1
           else tabGet 0 v.v i) ∧
         tabGet 0 (getVec t k).a (vVa w % 8) =
           if bitOf a 63 then putBits a 20 0 (((addrBase a : Int) + v.vl * addrStride a) % ((2 ^ 21 : Nat) : Int)).toNat else a) ∧
     (vOp w = 0x33 → v.aligned [vVa w] = true →
       let a := tabGet 0 v.a (vVd w % 8)
       let at_ (e : Nat) : Nat := cbAddr k (elemOff a e).toNat
       accessFault s h a n ((v.actives w).map (elemOff a)) = none →
       ∃ t, exec (.vst ⟨k, none⟩) s = .next t ∧ StoreFrame s t k h ∧
         EngineMoves v { getVec t k with a := v.a } pc w ∧ (∀ n, n ≠ vVd w % 8 → tabGet 0 (getVec t k).a n = tabGet 0 v.a n) ∧
         (∀ b, (∀ e, v.active w e = true → b < at_ e ∨ at_ e + n ≤ b) → getByte t b = getByte s b) ∧
         ((n : Int) ≤ addrStride a → ∀ e, v.active w e = true →
           readBytes t (at_ e) n = bytesOf n (narrow (vMod w) (heatCls s h) (v.lane (vVa w) e)).1) ∧
         tabGet 0 (getVec t k).a (vVd w % 8) =
           if bitOf a 63 then putBits a 20 0 (((addrBase a : Int) + v.vl * addrStride a) % ((2 ^ 21 : Nat) : Int)).toNat else a)) ∧
  (∀ (s : State) (k h pc w : Nat), s.atWord k h pc w = true → (getVec s k).vl ≠ 0 →
     let v := getVec s k
     (vOp w = 0x34 →
       let a := tabGet 0 v.a (vVa w % 8)
       maskAccessFault s h a (v.actives w) = none →
       ∃ t, exec (.vldm k) s = .next t ∧ VecFrame s t k h ∧
         EngineMoves v { getVec t k with m := v.m, a := v.a } pc w ∧
         (∀ n, n ≠ vVa w % 8 → tabGet 0 (getVec t k).a n = tabGet 0 v.a n) ∧
         tabGet 0 (getVec t k).a (vVa w % 8) = (if bitOf a 63 then putBits a 20 0 ((addrBase a + 64) % 2 ^ 21) else a) ∧
         (∀ n, n ≠ vVd w % 8 → (getVec t k).mask n = v.mask n) ∧
         ∀ e, bitOf ((getVec t k).mask (vVd w % 8)) e =
           if v.active w e then bitOf (getByte s (cbAddr k (addrBase a + e / 8))).toNat (e % 8) else bitOf (v.mask (vVd w % 8)) e) ∧
     (vOp w = 0x35 →
       let a := tabGet 0 v.a (vVd w % 8)
       maskAccessFault s h a (v.actives w) = none →
       ∃ t, exec (.vstm k) s = .next t ∧ StoreFrame s t k h ∧
         EngineMoves v { getVec t k with a := v.a } pc w ∧
         (∀ n, n ≠ vVd w % 8 → tabGet 0 (getVec t k).a n = tabGet 0 v.a n) ∧
         tabGet 0 (getVec t k).a (vVd w % 8) = (if bitOf a 63 then putBits a 20 0 ((addrBase a + 64) % 2 ^ 21) else a) ∧
         (∀ e, bitOf (getByte t (cbAddr k (addrBase a + e / 8))).toNat (e % 8) =
           if v.active w e then bitOf (v.mask (vVa w % 8)) e
           else bitOf (getByte s (cbAddr k (addrBase a + e / 8))).toNat (e % 8)) ∧
         (∀ b, (∀ e, v.active w e = true → b ≠ cbAddr k (addrBase a + e / 8)) → getByte t b = getByte s b)))

/-- What the rows that load, store, draw and steer leave in the summary registers (R148, R153 to R160): VLD, VST, VLDM, VSTM, VRNG,
VRNGU and VRNGB complete, and what they load, store or draw is contributed, in its order, to the summary register of the tap that
they name; NOP, RWAIT, FENCE, SETVL, RTAP and END complete and leave every summary register, and RCLR and VTOS every one but their
own. -/
def Obligations.VectorRowsTap : Prop :=
  ∀ (s : State) (k h pc w : Nat), s.atWord k h pc w = true → (getVec s k).vl ≠ 0 →
    let v := getVec s k
    let c := heatCls s h
    let on (t : State) : Prop := (getVec t k).pc = some (pc + 1)
    let taps (t : State) (g : Nat → Nat) : Prop :=
      on t ∧ (getVec t k).sums = (v.tap c w ((v.actives w).map fun e => (e, g e)) v.vl).sums
    let n := memWidth (vMod w)
    (vOp w = 0x32 → v.aligned [vVd w] = true →
      let a := tabGet 0 v.a (vVa w % 8)
      accessFault s h a n ((v.actives w).map (elemOff a)) = none →
      ∃ t, exec (.vld ⟨k, none⟩) s = .next t ∧ taps t fun e => (widen (vMod w) c (readNat s (cbAddr k (elemOff a e).toNat) n)).1) ∧
    (vOp w = 0x33 → v.aligned [vVa w] = true →
      let a := tabGet 0 v.a (vVd w % 8)
      accessFault s h a n ((v.actives w).map (elemOff a)) = none →
      ∃ t, exec (.vst ⟨k, none⟩) s = .next t ∧ taps t fun e => (narrow (vMod w) c (v.lane (vVa w) e)).2.2) ∧
    (vOp w = 0x34 →
      let a := tabGet 0 v.a (vVa w % 8)
      maskAccessFault s h a (v.actives w) = none →
      ∃ t, exec (.vldm k) s = .next t ∧
        taps t fun e => bitPattern (bitOf (getByte s (cbAddr k (addrBase a + e / 8))).toNat (e % 8))) ∧
    (vOp w = 0x35 → maskAccessFault s h (tabGet 0 v.a (vVd w % 8)) (v.actives w) = none →
      ∃ t, exec (.vstm k) s = .next t ∧ taps t fun e => bitPattern (bitOf (v.mask (vVa w % 8)) e)) ∧
    (vOp w = 0x3A → v.aligned [vVd w] = true → ∃ t, exec (.vrng k) s = .next t ∧ taps t (genWord s h v w)) ∧
    (vOp w = 0x3B → v.aligned [vVd w] = true → ∃ t, exec (.vrngu k) s = .next t ∧
      taps t fun e => fmtF32.encodeIeee (.ofIntE ((genWord s h v w e / 256 : Nat) : Int) (-24))) ∧
    (vOp w = 0x3C → ∃ t, exec (.vrngb k) s = .next t ∧
      taps t fun e => bitPattern (decide (genWord s h v w e / 256 ≥ (v.sum (vVb w % 16)).value % 2 ^ 24))) ∧
    (vOp w = 0x00 → ∃ t, exec (.vectorNop k) s = .next t ∧ on t ∧ (getVec t k).sums = v.sums) ∧
    (vOp w = 0x39 → ∃ t, exec (.rwait k) s = .next t ∧ on t ∧ (getVec t k).sums = v.sums) ∧
    (vOp w = 0x3E → ∃ t, exec (.fence k) s = .next t ∧ on t ∧ (getVec t k).sums = v.sums) ∧
    (vOp w = 0x36 → ∃ t, exec (.setvl k) s = .next t ∧ on t ∧ (getVec t k).sums = v.sums ∧
      (getVec t k).vl + (getVec t k).avl = v.avl ∧ (getVec t k).vl ≤ 64 * (getVec t k).group) ∧
    (vOp w = 0x38 → ∃ t, exec (.rtap k) s = .next t ∧ on t ∧ (getVec t k).sums = v.sums ∧
      ∀ i, tabGet 0 (getVec t k).taps i = if i = vVd w % 8 then vVb w % 16 + 1 else tabGet 0 v.taps i) ∧
    (vOp w = 0x37 → ∃ t, exec (.rclr k) s = .next t ∧ on t ∧
      ∀ i, (getVec t k).sum i = if i = vVb w % 16 then Summary.clear (vVa w % 8) else v.sum i) ∧
    (vOp w = 0x29 → v.aligned [vVa w] = true → v.active w 0 = true → ∃ t, exec (.vtos k) s = .next t ∧ on t ∧
      ∀ i, (getVec t k).sum i = if i = vVd w % 16 then Summary.const (v.lane (vVa w) 0) else v.sum i) ∧
    ∀ u, (getVec u k).pc = some pc → (getVec u k).condemned = false → tabGet 0 (getCore u k).prog pc = vEnd →
      ∃ t, exec (.vend k) u = .next t ∧ (getVec t k).pc = none ∧ (getVec t k).sums = (getVec u k).sums

/-- The hand-off (R167, R168): VQH sends its elements to the open stream it names where the stream's buffer has room; HANDOFF_ROOM
issues a VQH that waited for room, the buffer being emptied first. That the stream is this core's own, and that the engine has then
taken all that the buffer held, are the model's own choices (log entry 30). -/
def Obligations.VectorHandOff : Prop :=
  ∀ (s : State) (k h pc w : Nat) (x : Stream), s.atWord k h pc w = true → vOp w = 0x3D → (getVec s k).vl ≠ 0 →
    (getVec s k).aligned [vVa w] = true → streamFor s k w = some x →
    let l := handElems (getVec s k) (heatCls s h) w x.fmt
    let n := l.length * (x.fmt.elemBits / 8)
    x.elems.length + l.length ≤ x.need →
    (x.buffered + n ≤ 16384 → ∃ t, exec (.vqh k) s = .next t ∧ (getVec t k).pc = some (pc + 1) ∧
      getStream t (slotCluster k) (vVd w % 4) = some { x with elems := x.elems ++ l.map (·.1), buffered := x.buffered + n }) ∧
    (16384 < x.buffered + n → n ≤ 16384 → ∃ t, exec (.handoffRoom k) s = .next t ∧ (getVec t k).pc = some (pc + 1) ∧
      getStream t (slotCluster k) (vVd w % 4) = some { x with elems := x.elems ++ l.map (·.1), buffered := n })

/-- Blocks and command programs (R160, R162, R163): VRUN queues a block while fewer than four wait, VECTOR_BLOCK_START starts the
oldest, a start beyond the image faults with cause 6, BLOCK_DONE clears busy and raises the interrupt, and a store to a summary
makes it a constant, once no block is queued or runs whose contributions it waits for (R159, R160).
A command program (R259, R272, R273): VEC_RUN starts one on an idle core; a legal store to its completion register ends it once
the engine is idle, with that status, the stored word and the engine's event counts; its lap limit ends it with PROGRAM_FAULT,
cause 9, and the vector engine reset. -/
def Obligations.ProgramsAndBlocks : Prop :=
  (∀ (s : State) (k : Nat),
     let v := getVec s k
     (∀ value : W32, (program s k).isSome = true → v.fault = none → v.blocks.length < 4 →
       EngineStep (.vrun k value) s k { v with blocks := v.blocks ++ [value.toNat % 2 ^ 14], busy := true, blockDone := false }) ∧
     (∀ b l, v.pc = none → v.blocks = b :: l →
       EngineStep (.vectorBlockStart k) s k
         (if b < (getCore s k).progLen then { v with pc := some b, blocks := l }
          else { v with blocks := [], busy := false, fault := some (6, b) })) ∧
     (v.busy = true → v.pc = none → v.blocks = [] → (∀ c, (getCore s k).ctl = some c → c.stored = none) →
       EngineStep (.blockDone k) s k { v with busy := false, blockDone := true }) ∧
     (∀ (reg : Nat) (value : W32), (program s k).isSome = true → reg < 16 →
       (v.contributes = false → EngineStep (.summaryValueStore k reg value) s k { v with
         sums := tabSet {} v.sums reg { op := 7, value := value.toNat, empty := false } }) ∧
       (v.contributes = true → exec (.summaryValueStore k reg value) s = .next s))) ∧
  (∀ (s : State) (k : Nat),
     (∀ q h f, k = (getQueue s q).slot → (getCore s k).ctl = none → runningIn s q 0x40 = some (h, f) →
       ∃ t, exec (.vecRun q) s = .next t ∧
         (getCore t k).ctl = some { queue := q, index := f.index, desc := f.desc, pc := 2 * fld f.desc 255 241, laps := 0, stored := none } ∧
         getVec t k = { getVec s k with evSat := 0, evNanb := 0, evFlush := 0 } ∧
         t = { s with cores := t.cores, queues := t.queues }) ∧
     (∀ c (value : W64), program s k = some c → (getVec s k).busy = false → (getVec s k).fault = none →
       (fld value 63 48 = 0 ∨ 0x0280 ≤ fld value 63 48 ∧ fld value 63 48 ≤ 0x028F) →
       ∃ t, exec (.completionRegister k value) s = .next t ∧ (getCore t k).ctl = none ∧
         getQueue t c.queue = (getQueue s c.queue).ended c.index (fld value 63 48) (fld value 31 0) (vecWord (getVec s k))) ∧
     (∀ c, program s k = some c → limitReached c = true → beforeLimit s = false →
       ∃ t a, exec (.lapLimit k) s = .next t ∧ (getCore t k).ctl = none ∧ getVec t k = {} ∧
         getQueue t c.queue = (getQueue (openWindows s) c.queue).ended c.index stProgramFault 9 a))

/-- R163: a block that reaches the last word of vector program memory, and finds no END there, faults with cause 6; so does a start
at a word beyond the loaded image. That VSTAT then names the word the block stood or was to start at is the model's own choice (log
entry 29). -/
def Obligations.VectorRunsOff : Prop :=
  (∀ (s : State) (k h w : Nat), clusterHeat s (slotCluster k) = some h →
    ((getHeat s h).st = .running ∨ (getHeat s h).st = .stopping) → (getVec s k).pc = some 16383 →
    (getVec s k).condemned = false → tabGet 0 (getCore s k).prog 16383 = w → w ≠ vEnd →
    ∀ r ∈ (0x36, Instr.setvl k) :: vectorRows k, vOp w = r.1 →
      EngineStep r.2 s k { getVec s k with pc := none, blocks := [], busy := false, fault := some (6, 16383) }) ∧
  (∀ (s : State) (k b : Nat) (l : List Nat), (getVec s k).pc = none → (getVec s k).blocks = b :: l →
    (getCore s k).progLen ≤ b →
      EngineStep (.vectorBlockStart k) s k
        { getVec s k with pc := none, blocks := [], busy := false, fault := some (6, b) })

/-! ## Queues -/

/-- DOORBELL (R249, R250): from an agent that may write it, to an open queue, the value becomes TAIL where it lies ahead of TAIL and
at most a ring ahead of HEAD; the same value has no effect; any other is refused and counted. -/
def Obligations.DoorbellMovesTail : Prop :=
  ∀ (s : State) (a : Agent) (q v h : Nat), q < 2 ^ 18 → v < 2 ^ 32 → queueHeat s q = some h → agentAllowed s h a = true →
    doorbellOpen s q h = true →
    let x := getQueue s q
    (aheadOf v x.tail = 0 → exec (.doorbell a q v) s = .next s) ∧
    (aheadOf v x.tail ≠ 0 → aheadOf v x.head ≤ 2 ^ x.log2 → QueueStep (.doorbell a q v) s q { x with tail := v }) ∧
    (aheadOf v x.tail ≠ 0 → 2 ^ x.log2 < aheadOf v x.head →
      ∃ t, exec (.doorbell a q v) s = .next t ∧ t = { s with queues := t.queues, dict := t.dict } ∧
        getQueue t q = { x with refused := min (x.refused + 1) 0xFFFF } ∧ (∀ j, j ≠ q → getQueue t j = getQueue s j) ∧
        dget t (hStat h) 7 = min (dget s (hStat h) 7 + 1) (dmax (hStat h) 7) ∧
        (∀ i sub, sub < 256 → (i ≠ hStat h ∨ sub ≠ 7) → dget t i sub = dget s i sub))

/-- A doorbell that its agent may not write, or to a queue that takes none, is refused and counted (R250).
RING (R250): the environment call's doorbell, with a0 = 0 where it is accepted and 1 where it is refused. -/
def Obligations.DoorbellsRefused : Prop :=
  (∀ (s : State) (a : Agent) (q v h : Nat), q < 2 ^ 18 → queueHeat s q = some h →
     (agentAllowed s h a = false ∨ doorbellOpen s q h = false) →
     ∃ t, exec (.doorbell a q v) s = .next t ∧ t = { s with queues := t.queues, dict := t.dict } ∧
       getQueue t q = { getQueue s q with refused := min ((getQueue s q).refused + 1) 0xFFFF } ∧
       dget t (hStat h) 7 = min (dget s (hStat h) 7 + 1) (dmax (hStat h) 7)) ∧
  (∀ (s : State) (k q v h : Nat), q < 2 ^ 18 → v < 2 ^ 32 → clusterHeat s (slotCluster k) = some h → queueHeat s q = some h →
     doorbellOpen s q h = true →
     let x := getQueue s q
     (aheadOf v x.tail ≠ 0 → aheadOf v x.head ≤ 2 ^ x.log2 →
       ∃ t, exec (.ring k q v) s = .next t ∧ getQueue t q = { x with tail := v } ∧ (getCore t k).a0 = 0) ∧
     (aheadOf v x.tail ≠ 0 → 2 ^ x.log2 < aheadOf v x.head →
       ∃ t, exec (.ring k q v) s = .next t ∧ (getCore t k).a0 = 1 ∧ (getQueue t q).tail = x.tail))

/-- The head of a queue (R257): a command of one slot whose slot reads without error is validated; one that passes the static stage
stands at the head, one that fails is entered as finished with the status and the field at fault.
COMMAND_START and NOT_BEFORE_TIME (R251, R252, R254, R417): a NOP at the head starts once its time has come, nothing before it holds
it back, its core, where it needs one, is awake and free for commands, and it is its queue's turn on the engine; a timed command whose
time has not come is compared and waits. -/
def Obligations.HeadOfQueue : Prop :=
  (∀ (s : State) (q h : Nat), queueHeat s q = some h → heatRuns s h = true → s.errs = [] →
     let x := getQueue s q
     let d := readSlot s x x.next
     x.enabled = true → x.headCmd = none → 1 ≤ aheadOf x.tail x.next → cmdSlots d = 1 →
     (staticCheck s h q (planAdmits s h) d noExt false = none →
       QueueStep (.commandReachesHead q) s q { x with
         next := (x.next + 1) % 2 ^ 32
         headCmd := some { index := x.next, desc := d, ext := noExt, hasExt := false, badEntry := entryBad s h d }
         waitsTime := dNb d && !timeReached s d }) ∧
     (∀ st p, staticCheck s h q (planAdmits s h) d noExt false = some (st, p) → isColl (dOpcode d) = false →
       QueueStep (.commandReachesHead q) s q { x with
         next := (x.next + 1) % 2 ^ 32
         flights := x.flights ++ [failedFlight x.next d noExt false st p 0] })) ∧
  (∀ (s : State) (q h : Nat) (c : HeadCmd), queueHeat s q = some h → heatRuns s h = true →
     let x := getQueue s q
     x.enabled = true → x.headCmd = some c → x.paceHeld = false → paceLost s = false → dOpcode c.desc = 0x00 →
     (onCore x = true → coreHeld s x.slot = false ∧ coreAwake s x.slot = true ∧
       s.seq.waiting.any (·.unit = .core x.slot false) = false) →
     (dNb c.desc = true → timeReached s c.desc = false →
       QueueStep (.notBeforeTime q) s q { x with waitsTime := true } ∧ QueueStep (.commandStart q) s q { x with waitsTime := true }) ∧
     ((dNb c.desc = true → timeReached s c.desc = true) → queueTurn s q = false →
       QueueStep (.commandStart q) s q { x with waitsTime := false }) ∧
     ((dNb c.desc = true → timeReached s c.desc = true) → (dFence c.desc = true → x.flights = []) → queueTurn s q = true →
       c.ext = noExt → ∃ t f, exec (.commandStart q) s = .next t ∧ (dNb c.desc = true → exec (.notBeforeTime q) s = .next t) ∧
         f.index = c.index ∧ f.opcode = 0 ∧ f.done = false ∧
         (getQueue t q).headCmd = none ∧ (getQueue t q).flights = x.flights ++ [f]))

/-- COMPLETION_RECORD (R251, R258): the record of the oldest finished command is written, HEAD passes it, and the next may follow;
of a plain command without extension its 16 bytes are the record of R258 and no other byte changes. -/
def Obligations.RecordWritten : Prop :=
  ∀ (s : State) (q h : Nat) (f : Flight) (l : List Flight), queueHeat s q = some h → (getQueue s q).flights = f :: l → f.done = true →
    let x := getQueue s q
    ∃ t, exec (.completionRecord q) s = .next t ∧
      getQueue t q = { x with flights := l, head := (f.index + if f.hasExt then 2 else 1) % 2 ^ 32 } ∧
      (s.errs = [] → f.opcode ≠ 0x20 → f.after = [] → f.hasExt = false →
        Stored s t (recordAddr x f.index)
          (bytesOf 16 (recordWord f.status f.index x.log2 false (dClass f.desc) f.opcode (satNat 32 f.wordA) (satNat 64 f.wordB))))

/-- NOP, WAIT_QUEUE, POLICY_SET and UPD_COEF_SET (R114, R179, R256): started, each is done with success and nothing else changes.
GRAD_OPEN, NORM_SET, ADD_ORDER_OPEN (R175, R186, R224): the entry, slot or region is set up as the descriptor says, and the
command is done with success; a ledger entry that is in use answers STATE_CONFLICT.
LAYER_SET, STEP_END (R129, R131): LAYER_SET writes the layer's entry; STEP_END is done with the step's number to take effect with
its record. -/
def Obligations.SettingCommands : Prop :=
  (∀ (s : State) (q h : Nat) (f : Flight),
     (runningIn s q 0x00 = some (h, f) → QueueStep (.nop q) s q ((getQueue s q).ended f.index 0 0 0)) ∧
     (runningIn s q 0x01 = some (h, f) → QueueStep (.waitQueue q) s q ((getQueue s q).ended f.index 0 0 0)) ∧
     (runningIn s q 0xC0 = some (h, f) → QueueStep (.policySet q) s q ((getQueue s q).ended f.index 0 0 0)) ∧
     (runningIn s q 0xA1 = some (h, f) → QueueStep (.updCoefSet q) s q ((getQueue s q).ended f.index 0 0 0))) ∧
  (∀ (s : State) (q h : Nat) (f : Flight),
     let d := f.desc
     (runningIn s q 0xA0 = some (h, f) →
       let old := (getLedger s h (fld d 511 500)).st
       ∃ t, exec (.gradOpen q) s = .next t ∧
         (old = .idle ∨ old = .released → getQueue t q = (getQueue s q).ended f.index 0 0 0 ∧
           getLedger t h (fld d 511 500) =
             { st := if fld d 425 410 = 0 then .complete else .opened, base := fld d 499 458 * 64, elems := fld d 457 426
               expected := fld d 425 410 }) ∧
         (old ≠ .idle → old ≠ .released → getQueue t q = (getQueue s q).ended f.index stState 500 0 ∧ t.heats = s.heats)) ∧
     (∀ w, runningIn s q 0xA3 = some (h, f) → normWindow (fld d 499 436) = some w →
       ∃ t, exec (.normSet q) s = .next t ∧ getQueue t q = (getQueue s q).ended f.index 0 0 0 ∧
         tabGet {} (getHeat t h).norms (fld d 511 500) = { win := w, valid := true, fresh := true }) ∧
     (runningIn s q 0xC5 = some (h, f) → orderState s h d = none →
       ∃ t, exec (.addOrderOpen q) s = .next t ∧ getQueue t q = (getQueue s q).ended f.index 0 0 0 ∧
         (getHeat t h).regions.getLast? = some
           { base := fld d 511 464, bytes := (fld d 463 438 + 1) * 64, members := fld d 437 422 + 1
             bf16 := decide (fld d 421 421 = 1), stage := fld d 420 373 })) ∧
  (∀ (s : State) (q h : Nat) (f : Flight),
     let d := f.desc
     (runningIn s q 0xC2 = some (h, f) → s.errs = [] →
       ∃ t, exec (.layerSet q) s = .next t ∧ getQueue t q = (getQueue s q).ended f.index 0 0 0 ∧
         tabGet {} (getHeat t h).layers (fld d 511 500) =
           { rung := fld d 499 498, pin := fld d 497 482, policy := fld d 481 476 }) ∧
     (runningIn s q 0xC1 = some (h, f) → ∃ t g, exec (.stepEnd q) s = .next t ∧
       ((getQueue t q).flights.find? fun g => g.index == f.index) = some g ∧ g.done = true ∧
       g.after.getLast? = some (.step (fld d 511 480))))

/-- POLICY_SET and UPD_COEF_SET (R114, R116, R179): started, with the entries read from memory at its start, the command completes
with success, and the completion record that follows puts them into the policy or coefficient table of its heat, whose other
entries stay. -/
def Obligations.SettingsTakeEffect : Prop :=
  ∀ (s s₀ : State) (q h : Nat) (f : Flight) (l : List Flight),
    (getQueue s q).flights = f :: l → s.errs = [] → f.status = 0 → f.after = lateOf s₀ f.desc → dOpcode f.desc = f.opcode →
    let src := fld f.desc 511 464
    (runningIn s q 0xC0 = some (h, f) →
      let a := fld f.desc 463 458
      let n := fld f.desc 457 452 + 1
      ∃ t u, exec (.policySet q) s = .next t ∧ exec (.completionRecord q) t = .next u ∧
        getQueue u q = { getQueue s q with flights := l, head := (f.index + if f.hasExt then 2 else 1) % 2 ^ 32 } ∧
        ∀ i, getPolicy u h i = if a ≤ i ∧ i < a + n then readNat s₀ (src + 16 * (i - a)) 16 else getPolicy s h i) ∧
    (runningIn s q 0xA1 = some (h, f) →
      let a := fld f.desc 463 454
      let n := fld f.desc 453 444 + 1
      ∃ t u, exec (.updCoefSet q) s = .next t ∧ exec (.completionRecord q) t = .next u ∧
        getQueue u q = { getQueue s q with flights := l, head := (f.index + if f.hasExt then 2 else 1) % 2 ^ 32 } ∧
        ∀ i, tabGet coefDefault (getHeat u h).coef i =
          if a ≤ i ∧ i < a + n then readNat s₀ (src + 48 * (i - a)) 48 else tabGet coefDefault (getHeat s h).coef i)

/-- QUEUE_SET, CACHE_INV and TEST_WINDOW (R236, R271, R466): the target queue is set up anew; a whole invalidation empties every cache
of the heat; a window is granted where the cluster has no spare, and over at once where it has one.
PROG_LOAD (R164, R165): the checked image stands in the core's vector program memory at the words named, and the command is done,
once no block uses that memory.
The model's own choices: QUEUE_SET looks at its target again when its row runs (log entry 32), the image is the one read at the
command's start (log entry 43), and its length reaches to the highest word loaded (log entry 29). -/
def Obligations.ControlCommands : Prop :=
  (∀ (s : State) (q h : Nat) (f : Flight),
     let d := f.desc
     (runningIn s q 0xC6 = some (h, f) → fld d 511 494 ≠ q → queueQuiet (getQueue s (fld d 511 494)) = true →
       ∃ t, exec (.queueSet q) s = .next t ∧ getQueue t q = (getQueue s q).ended f.index 0 0 0 ∧
         getQueue t (fld d 511 494) =
           { enabled := decide (fld d 493 493 = 1), cls := fld d 492 490, slot := fld d 489 480, log2 := fld d 479 476 + 6
             ring := fld d 475 428, cpl := fld d 427 380 }) ∧
     (runningIn s q 0xC4 = some (h, f) → fld d 463 416 = 0 →
       ∃ t, exec (.cacheInv q) s = .next t ∧ getQueue t q = (getQueue s q).ended f.index 0 0 0 ∧
         ∀ c ∈ heatClusters s h, (getCluster t c).lines = []) ∧
     (runningIn s q 0xC7 = some (h, f) →
       let c := queueCluster q
       let lap := fld d 511 464
       let n := fld d 463 448
       ((spareOf s c).isSome = true ∨ lap + n ≤ s.lap → QueueStep (.testWindow q) s q ((getQueue s q).ended f.index 0 0 0)) ∧
       ((spareOf s c).isSome = false → s.lap < lap + n → ∃ t, exec (.testWindow q) s = .next t ∧
         (getCluster t c).windows = (getCluster s c).windows ++
           [{ queue := q, index := f.index, lap := lap, laps := n, begun := decide (lap ≤ s.lap) && !eventsHeld s }]))) ∧
  (∀ (s : State) (q h : Nat) (f : Flight), runningIn s q 0xC3 = some (h, f) → fld f.desc 463 463 = 0 →
     let k := (getQueue s q).slot
     (progWaits s k false = true → exec (.progLoad q) s = .next s) ∧
     let w := fld f.desc 448 435
     progWaits s k false = false → ∃ t, exec (.progLoad q) s = .next t ∧ getQueue t q = (getQueue s q).ended f.index 0 0 0 ∧
       (∀ i, tabGet 0 (getCore t k).prog i =
         if w ≤ i ∧ i < w + f.words.length then f.words[i - w]! else tabGet 0 (getCore s k).prog i) ∧
       (getCore t k).progLen = max (getCore s k).progLen (w + f.words.length))

/-! ## The matrix array -/

/-- R89: a tile whose `row_mask` is all zeros reads and writes nothing, counts nothing and completes with success; its positions
count towards the origin of a chained tile. -/
def Obligations.EmptyRowMask : Prop :=
  ∀ (s : State) (q h : Nat) (f : Flight) (n : Nature), runningIn s q 0x20 = some (h, f) →
    let k := (getQueue s q).slot
    let g := GemmPar.ofDesc f.desc
    let r := newTile s h k f.desc
    f.tile = some r → g.rowMask = 0 →
    ∃ t, exec (.gemmTile q n) s = .next t ∧ Ended t q f.index 0 (tileSummary (isIntFmt g.fA) r) 0 ∧
      t = { s with queues := t.queues, cores := t.cores } ∧
      (getCore t k).log = (getCore s k).log ∧
      (getCore t k).prev = some
        { fmtA := g.fA, fmtB := g.fB, aElem := g.aElem, bElem := g.bElem, aScale := g.aScale, bScale := g.bScale
          pos := r.pos0 + 32 * g.kBlocks, kblk := r.kblk0 + g.kBlocks }

/-- GEMM_TILE (R66, R67, R72 to R92, R133): a tile whose operands are in place and whose counters cross nothing is over after one
pass that no check finds wrong, while no fill waits for the array; a pass of one cell leaves its drained code at row and column of
the output region, and nothing outside that region. -/
def Obligations.TilePass : Prop :=
  ∀ (s : State) (q h : Nat) (f : Flight) (n : Nature) (ra rb p b pol : Nat), runningIn s q 0x20 = some (h, f) →
    let r : TileRun := { rungA := ra, rungB := rb, pos0 := p, kblk0 := b, policy := pol }
    let k := (getQueue s q).slot
    let g := GemmPar.ofDesc f.desc
    let c := heatCls s h
    let w := g.fD.elemBits
    let o := runPass s k g (bufferOperand s k c g.fA g.aElem g.aScale (activeRows g) g.kBlocks p b)
      (bufferOperand s k c g.fB g.bElem g.bScale (List.range g.cols) g.kBlocks p b) c n
    f.tile = some r → g.rowMask ≠ 0 → feedMissing s k g.fA g.aElem (activeRows g) g.kBlocks p = false →
    feedMissing s k g.fB g.bElem (List.range g.cols) g.kBlocks p = false → (getCore s k).waiting = [] →
    o.bad = [] → crossesNothing pol o = true → o.excess = [] → o.overB = [] →
    ∃ t, exec (.gemmTile q n) s = .next t ∧
      Ended t q f.index 0 (tileSummary (isIntFmt g.fA) r)
        (satNat 32 n.feedStall * 2 ^ 32 + satNat 16 o.drainSat * 2 ^ 16 + satNat 16 o.drainFlush) ∧
      t = { s with mem := t.mem, cores := t.cores, queues := t.queues, dict := t.dict } ∧
      (∀ i j v, o.outs = [(i, j, v)] → getElem t k g.out w j i = v % 2 ^ w) ∧
      ∀ a, (a < cbAddr k (g.out.line * 512) ∨ cbAddr k ((g.out.line + g.out.len) * 512) ≤ a) → getByte t a = getByte s a

/-- TILE_REPEAT (R122): one more pass over the operands filled again, each that widens one rung higher; where no check finds it
wrong, its beats and drain events are the tile's, which is over or has another repeat decided; one whose counters cross nothing ends
the tile, and its output of one cell stands in the output region.
PHOTO_FINISH (R434, R436): a marked pass run again that no check finds wrong, whose other outputs agree, is corrected, with the
status of its unit; a second failed check retires the physical slot for good. -/
def Obligations.TileRepeats : Prop :=
  (∀ (s : State) (q h : Nat) (f : Flight) (r : TileRun) (n : Nature),
     tileFlight s q (fun x => x.again && x.marked.isEmpty) = some (h, f, r) → s.errs = [] →
     let k := (getQueue s q).slot
     let g := GemmPar.ofDesc f.desc
     ∀ u z, repeatPass s h k g r.raised n = (u, some z) →
     let o := z.out
     o.bad = [] →
     ∃ t f' r', exec (.tileRepeat q n) s = .next t ∧ flightOf t q f.index = some f' ∧ f'.tile = some r' ∧
       r'.repeats = r.repeats + 1 ∧ r'.rungA = r.rungA + b2n r.widenA ∧ r'.rungB = r.rungB + b2n r.widenB ∧
       r'.repeatBeats = r.repeatBeats + 32 * g.kBlocks + 253 + o.stall ∧
       r'.drainSat = o.drainSat ∧ r'.drainFlush = o.drainFlush ∧ (f'.done = true ∨ r'.again = true) ∧
       (crossesNothing r.policy o = true → f'.done = true ∧
         ∀ i j v, o.outs = [(i, j, v)] → getElem t k g.out g.fD.elemBits j i = v % 2 ^ g.fD.elemBits)) ∧
  (∀ (s : State) (q h : Nat) (f : Flight) (r : TileRun) (n : Nature),
     tileFlight s q (fun x => !x.marked.isEmpty) = some (h, f, r) → s.errs = [] →
     let k := (getQueue s q).slot
     ∀ u z, repeatPass s h k (GemmPar.ofDesc f.desc) r n = (u, some z) →
     let o := z.out
     (o.bad = [] → outsAgree r.marked r.outs o.outs = true →
       ∃ t f' r', exec (.photoFinish q n) s = .next t ∧ flightOf t q f.index = some f' ∧ f'.tile = some r' ∧ r'.marked = [] ∧
         r'.corrected = if onlyOutlier r.marked then 0x0402 else 0x0401) ∧
     (o.bad ≠ [] → ∃ t, exec (.photoFinish q n) s = .next t ∧ physSlot s k ∈ t.retiredSlots ∧
       physSlot s k ∈ lostSlots (getCluster t (physSlot s k / 9))))

/-- DIAG_EW (R94 to R97): each result stands in the result region at its element's place, and the command is done with the element
count and its events; no byte outside the result region changes.
One with a failed check whose inputs can be had again is marked with what it wrote and waits for its photo finish (R433), which ends
it with the same results, corrected, where no check fails again and the results agree (R436). That DIAG_EW is marked and run again as
a tile is, is the model's own choice (log entry 115). -/
def Obligations.DiagonalPass : Prop :=
  ∀ (s : State) (q h : Nat) (f : Flight) (n : Nature), f.status = 0 → flightOf s q f.index = some f →
    let k := (getQueue s q).slot
    let d := DiagPar.ofDesc f.desc
    let o := diagRun s k (heatCls s h) d n.errors
    32 * ((d.n + 4095) / 4096) ≤ d.r.len → (getCore s k).waiting = [] →
    let writes (t : State) : Prop :=
      (∀ x ∈ o.outs, getElem t k d.r 32 (diagBank x.1) (diagPos x.1) = x.2 % 2 ^ 32) ∧
      ∀ a, (a < cbAddr k (d.r.line * 512) ∨ cbAddr k ((d.r.line + d.r.len) * 512) ≤ a) → getByte t a = getByte s a
    (runningIn s q 0x21 = some (h, f) → diagMissing s k d = false → o.bad = [] → ∃ t, exec (.diagEw q n) s = .next t ∧
      Ended t q f.index 0 d.n (satNat 16 o.ev.sat * 2 ^ 16 + satNat 16 o.ev.flush) ∧
      t = { s with mem := t.mem, cores := t.cores, queues := t.queues, dict := t.dict } ∧ writes t) ∧
    (runningIn s q 0x21 = some (h, f) → diagMissing s k d = false → o.bad ≠ [] →
      canRerun (writeDiag s k d o.outs) h k (diagOwners s k d) = true →
      ∃ t g, exec (.diagEw q n) s = .next t ∧ writes t ∧ flightOf t q f.index = some g ∧ g.done = f.done ∧
        g.diag = some { bad := o.bad, outs := o.outs }) ∧
    (∀ m, tileFlight s q (fun x => !x.marked.isEmpty) = none → diagFlight s q = some (h, f, m) → o.bad = [] →
      diagAgree m o.outs = true → ∃ t g, exec (.photoFinish q n) s = .next t ∧ writes t ∧ flightOf t q f.index = some g ∧
        g.done = true ∧ g.status = 0x0401 ∧ g.wordA = d.n ∧ g.diag = none)

/-! ## DMA -/

/-- DMA_COPY between memories of this device (R218, R266): a RAW copy moves every row; an INT32 add-into adds element by element
modulo 2^32. Every other byte of memory is as before. -/
def Obligations.CopyRows : Prop :=
  ∀ (s : State) (q h : Nat) (f : Flight) (p : DmaPar), plainCopy s q h f p →
    (p.memOp = 0 → (∀ r, r < p.rows → place s (gOff p.src + r * p.srcStride) = .stack) →
      plainRows s (gOff p.dst) p.dstStride p.rows p.rowLen →
      ∃ t, exec (.dmaCopy q []) s = .next t ∧ Ended t q f.index 0 (p.rows * p.rowLen) 0 ∧
        (∀ r, r < p.rows →
          readBytes t (gOff p.dst + r * p.dstStride) p.rowLen = readBytes s (gOff p.src + r * p.srcStride) p.rowLen) ∧
        ∀ a, (∀ r, r < p.rows → a < gOff p.dst + r * p.dstStride ∨ gOff p.dst + r * p.dstStride + p.rowLen ≤ a) →
          getByte t a = getByte s a) ∧
    (p.memOp = 3 → p.rows = 1 → place s (gOff p.src) = .stack → place s (gOff p.dst) = .stack →
      regionsAt s h (gOff p.dst) p.rowLen = [] →
      ∃ t, exec (.dmaCopy q []) s = .next t ∧ Ended t q f.index 0 p.rowLen 0 ∧
        (∀ i, i < p.rowLen / 4 → readNat t (gOff p.dst + i * 4) 4 =
          (readNat s (gOff p.dst + i * 4) 4 + readNat s (gOff p.src + i * 4) 4) % 2 ^ 32) ∧
        ∀ a, (a < gOff p.dst ∨ gOff p.dst + p.rowLen ≤ a) → getByte t a = getByte s a)

/-- A fill (R60, R268): after a one-row INT8 fill the array reads, at each position of the bank's stream, the byte that memory
holds; the fill is over where the ring has room for it and nothing of an earlier fill is left in it (R66). -/
def Obligations.FillFeedsArray : Prop :=
  ∀ (s : State) (q h : Nat) (f : Flight) (p : DmaPar), runningIn s q 0x60 = some (h, f) → flightOf s q f.index = some f →
    p = DmaPar.ofDesc f.desc f.ext → s.errs = [] → p.srcKind = 0 → p.dstKind = 1 → isLocal s (gChip p.src) = true →
    f.srcF = some .int8 → f.dstF = some .int8 → p.rot = 0 → p.gradKind = 0 → p.pfEnable = false → p.cache = false → p.rows = 1 →
    bitOf p.rowMask p.bankFirst = true → place s (gOff p.src) = .stack →
    p.streamPos + p.bankFirst + 32 * ((p.rowLen + 31) / 32) ≤ (rgElem p.dst).len * 4 →
    (getCore s (rgSlot p.dst)).waiting = [] → heldBits (rgElem p.dst) p.bankFirst (getCore s (rgSlot p.dst)).log = [] →
    refusedBy s h p f.srcF f.dstF = none → f.acks = 0 → f.rem.refusal = none →
    ∃ t g, exec (.dmaCopy q []) s = .next t ∧ flightOf t q f.index = some g ∧ g.done = true ∧ g.wordA = p.rowLen ∧
      ∀ i, i < p.rowLen →
        streamElem t (rgSlot p.dst) (rgElem p.dst) 8 p.bankFirst (p.streamPos + p.bankFirst + i) =
          (getByte s (gOff p.src + i)).toNat

/-- QUANT_STREAM (R167 to R169): a stream that is whole, or that its feeding command closed short, goes to its destination; the
command is done with the elements received, and HANDOFF_SHORT where some are missing. -/
def Obligations.StreamLands : Prop :=
  ∀ (s : State) (q h : Nat) (f : Flight) (p : DmaPar) (x : Stream), runningIn s q 0x61 = some (h, f) →
    flightOf s q f.index = some f → p = DmaPar.ofDesc f.desc f.ext → s.errs = [] →
    getStream s (streamOf p).1 (streamOf p).2 = some x → x.queue = q → x.index = f.index →
    (x.need ≤ x.elems.length ∨ x.closed = true) → p.dstKind = 0 → isLocal s (gChip p.dst) = true → p.memOp = 0 → p.gradKind = 0 →
    p.listEn = false → f.acks = 0 → f.rem.refusal = none → f.status = 0 → refusedBy s h p f.srcF f.dstF = none →
    stagedPart s h q f.index = false →
    ∃ t b, exec (.quantStream q) s = .next t ∧
      Ended t q f.index (if x.elems.length < x.need then 0x0207 else 0) (min x.need x.elems.length) b ∧
      getStream t (streamOf p).1 (streamOf p).2 = none ∧
      (p.srcKind ≠ 2 → f.srcF = some .fp32 → f.dstF = some .fp32 → x.fmt = .fp32 → p.rot = 0 → p.rows = 1 → x.need = p.rowLen →
        x.need ≤ x.elems.length → place s (gOff p.dst) = .stack →
        Stored s t (gOff p.dst) (packElems 32 (x.elems.take x.need)))

/-! ## The update engine and memory -/

/-- UPDATE_LAYER of a frozen group (R196): nothing but the update record and the entry's release, with status FROZEN_SKIPPED. That its
record carries tau and s as 0 is the model's own choice (log entry 31). -/
def Obligations.FrozenGroup : Prop :=
  ∀ (s : State) (q h : Nat) (f : Flight), runningIn s q 0xA2 = some (h, f) → flightOf s q f.index = some f → f.status = 0 →
    s.errs = [] → (Coef.ofRow f.coef).frozen = true →
    let p := UpdPar.ofDesc f.desc
    let e := getLedger s h p.layer
    let word := updateRecord p e {} {} false .zero .zero 0 0 {} false true
    ∃ t, exec (.updateLayer q) s = .next t ∧ Ended t q f.index 0x0205 0 0 ∧ Stored s t p.stat (bytesOf 64 word) ∧
      t = { s with mem := t.mem, heats := t.heats, queues := t.queues } ∧
      getHeat t h = { getHeat s h with
        ledger := tabSet {} (getHeat s h).ledger p.layer { e with st := .released }
        recs := tabSet {} (getHeat s h).recs p.layer { word := word, stat := p.stat } }

/-- UPDATE_LAYER, dense (R184 to R190): every weight and moment of the shard becomes what the update of that element gives, with the
step taken from the layer's norm slot; the slot is used up and the entry released. -/
def Obligations.DenseUpdate : Prop :=
  ∀ (s : State) (q h : Nat) (f : Flight), runningIn s q 0xA2 = some (h, f) → flightOf s q f.index = some f → s.errs = [] →
    let c := Coef.ofRow f.coef
    let p := UpdPar.ofDesc f.desc
    let slot := tabGet {} (getHeat s h).norms p.layer
    let z := (trustStep c slot.win p.elems).2.1
    let last := p.rec_ + 192 * ((p.shard + 31) / 32)
    let wa (i : Nat) : Nat := p.rec_ + 192 * (i / 32) + 4 * (i % 32)
    let ma (i : Nat) : Nat := p.rec_ + 192 * (i / 32) + 128 + 2 * (i % 32)
    let o (i : Nat) : UpdOut := updateElem c z none (readNat s (wa i) 4) (readNat s (ma i) 2) (readNat s (p.grad + 4 * i) 4)
    c.frozen = false → c.sparse = false → slot.valid = true → f.status = 0 →
    (p.grad + 4 * p.shard ≤ p.rec_ ∨ last ≤ p.grad) → (p.stat + 64 ≤ p.rec_ ∨ last ≤ p.stat) →
    ∃ t st, exec (.updateLayer q) s = .next t ∧ Ended t q f.index st p.shard 0 ∧ (st = 0 ∨ st = 0x0206) ∧
      (∀ i, i < p.shard → readNat t (wa i) 4 = (o i).w % 2 ^ 32 ∧ readNat t (ma i) 2 = (o i).m % 2 ^ 16) ∧
      (getLedger t h p.layer).st = .released ∧ (tabGet {} (getHeat t h).norms p.layer).fresh = false

/-- STAGED_CONTRIBUTION_ADD (R225): contribution `next`, whole in its staging half, is added and `next` rises, the last one closing
the region; an FP32 contribution of one piece adds element by element.
HELD_CONTRIBUTION_TAKEN (R225): of a contribution that its region can take now, or can only refuse, the packets held back go on
together, and none of them stays held; where the head of a queue was held back instead, that head starts. -/
def Obligations.OrderedContributions : Prop :=
  (∀ (s : State) (h r : Nat) (g : OrdRegion) (c : Contrib), (getHeat s h).regions[r]? = some g →
     g.contribs.find? (fun c => c.order = g.next && c.staged && c.whole) = some c → g.closed = false → s.errs = [] →
     ∃ t, exec (.stagedContributionAdd h r) s = .next t ∧
       (getHeat t h).regions[r]? = some { g with
         next := g.next + 1, contribs := g.contribs.filter (·.order != g.next), closed := decide (g.next + 1 = g.members) } ∧
       (∀ p, c.spans = [p] → g.bf16 = false → (p.kind = 0 ∨ (getLedger s h p.layer).st = .opened) →
         let a := p.addr
         let src := g.stage + g.next % 2 * g.bytes + (a - g.base)
         let cls := match heatOfAddr s a with | some h => heatCls s h | none => .train
         (∀ i, i < p.len / 4 → readNat t (a + i * 4) 4 =
           (vop2 fmtF32 cls fvAdd (readNat s (a + i * 4) 4) (readNat s (src + i * 4) 4)).1 % 2 ^ 32) ∧
         ∀ b, (b < a ∨ a + p.len ≤ b) → getByte t b = getByte s b)) ∧
  (∀ (s : State) (h r order : Nat) (g : OrdRegion), (getHeat s h).regions[r]? = some g →
     ((ordPlace g order).isSome = true ∨ ordPast g order = true) →
     (heldQueue s h r order = none → s.heldMem.any (heldFor s h r order) = true →
       ∃ t, exec (.heldContributionTaken h r order) s = .next t ∧
         t.heldMem = s.heldMem.filter fun x => !heldFor s h r order x) ∧
     (∀ q, heldQueue s h r order = some q → exec (.heldContributionTaken h r order) s = exec (.commandStart q) s))

/-- PATROL_SCRUB and IN_DIE_COUNT_READ (R209, R215): a sound sector stays as it is; errors the decoder finds are taken out and
counted, memory's data being as before; the pass ends once every sector has been read. The in-die counts are the stacks'. -/
def Obligations.ScrubAndCounts : Prop :=
  (∀ (s : State) (n : Nat), n < sectorCount s → tabGet [] s.errs n = [] →
     let u := beginPass s
     u.scrubbed.contains n = false →
     ∃ t, exec (.patrolScrub n [] false) s = .next t ∧ t.scrubbed = n :: u.scrubbed ∧
       t.mem = s.mem ∧ (∀ k, tabGet [] t.errs k = tabGet [] s.errs k) ∧ t.events = s.events ∧
       dget t 0x2D10 5 =
         if sectorCount s ≤ u.scrubbed.length + 1 then min (dget s 0x2D10 5 + 1) (dmax 0x2D10 5) else dget s 0x2D10 5) ∧
  (∀ (s : State) (n : Nat) (e : List (Nat × Byte)), n < sectorCount s → s.errs = [] → (beginPass s).scrubbed.contains n = false →
    mergeErrs [] e ≠ [] → eccDecode (dget s 0x2720 1) (mergeErrs [] e) = .fixed (mergeErrs [] e) →
    ∃ t, exec (.patrolScrub n e false) s = .next t ∧ (∀ a, getByte t a = getByte s a) ∧ tabGet [] t.errs n = [] ∧
      dget t 0x2D10 1 = min (dget s 0x2D10 1 + 1) (dmax 0x2D10 1) ∧
      dget t 0x2D10 2 = min (dget s 0x2D10 2 + (mergeErrs [] e).length) (dmax 0x2D10 2)) ∧
  (∀ (s : State) (n : Nat), ∃ t, exec (.inDieCountRead n) s = .next t ∧ dget t 0x2D10 4 = min n (2 ^ 64 - 1) ∧ t.mem = s.mem ∧
    t.queues = s.queues ∧ (n ≤ dget s 0x2D10 4 → t.events = s.events ∧ t.lostEvents = s.lostEvents))

/-! ## Heats -/

/-- START, STOP, RESUME and RELEASE (R239, R240, R242): each in its state, with what it sets up or gives up; a creation check that
fails is answered by its abort code, and nothing starts.
A heat control in a state that does not allow it changes nothing; it is answered with the abort code of a wrong state (R239). -/
def Obligations.HeatControl : Prop :=
  (∀ (s : State) (path : Path) (h : Nat), controlOpen s path h →
     let q := initialQueue s h
     ((getHeat s h).st = .free → bootStage s = bsReady → creationFault s h true = 0 → heatTag s h = 0 →
       (getHeat s h).starter = none →
       ∃ t, exec (.start path h) s = .next t ∧ (getHeat t h).st = .running ∧
         getQueue t q = { enabled := true, cls := 6, slot := dget s (hCfg h) 0x12, log2 := Nat.log2 (dget s (hCfg h) 0x10)
                          ring := dget s (hCfg h) 0x0F, cpl := dget s (hCfg h) 0x11 } ∧
         (∀ k ∈ heatCores s h, getVec t k = {}) ∧ (directPath path → t.out = s.out ++ [directOut s path 0 []])) ∧
     ((getHeat s h).st = .free → bootStage s = bsReady → creationFault s h true ≠ 0 →
       ∃ t, exec (.start path h) s = .next t ∧ (getHeat t h).st = .free ∧ t.queues = s.queues ∧
         (directPath path → t.out = s.out ++ [directOut s path (creationFault s h true) []])) ∧
     ((getHeat s h).st = .running → ∃ t, exec (.stop path h) s = .next t ∧ (getHeat t h).st = .stopping ∧ t.queues = s.queues ∧
       t.mem = s.mem ∧ (directPath path → t.out = s.out ++ [directOut s path 0 []])) ∧
     ((getHeat s h).st = .stopped → ∃ t, exec (.resume path h) s = .next t ∧ (getHeat t h).st = .running ∧ t.queues = s.queues ∧
       t.mem = s.mem ∧ (directPath path → t.out = s.out ++ [directOut s path 0 []])) ∧
     ((getHeat s h).st = .stopped → ∃ t, exec (.release path h) s = .next t ∧ (getHeat t h).st = .releasing ∧ t.mem = s.mem ∧
       (∀ j, bitOf (dget s (hCfg h) 3) (queueCluster j) = true → getQueue t j = {}) ∧
       (∀ c ∈ heatClusters s h, (getCluster t c).lines = []) ∧ (directPath path → t.out = s.out ++ [directOut s path 0 []]))) ∧
  (∀ (s : State) (path : Path) (h : Nat), directPath path → dictAnswers s = true → h < 16 → bootStage s ≠ bsRecovery →
     let no := emit s (directOut s path abState [])
     ((getHeat s h).st ≠ .free ∨ bootStage s ≠ bsReady → exec (.start path h) s = .next no) ∧
     ((getHeat s h).st ≠ .running → exec (.stop path h) s = .next no) ∧
     ((getHeat s h).st ≠ .stopped → exec (.resume path h) s = .next no ∧ exec (.release path h) s = .next no))

/-- DISCOVERY_MATCH, STOP_COMPLETE and RELEASE_COMPLETE (R320, R241, R242): a heat that waits for its plan's ports runs once they are
ADMITTED; one that stops is STOPPED once nothing is in flight; one that is released is FREE with its ranges zero. -/
def Obligations.HeatCompletions : Prop :=
  ∀ (s : State) (h : Nat),
    ((getHeat s h).st = .starting → discoveryOk s h = true →
      ∃ t, exec (.discoveryMatch h) s = .next t ∧ (getHeat t h).st = .running) ∧
    ((getHeat s h).st = .stopping → inFlight s h = false →
      ∃ t, exec (.stopComplete h) s = .next t ∧ (getHeat t h).st = .stopped ∧ t.queues = s.queues ∧ t.mem = s.mem) ∧
    ((getHeat s h).st = .releasing →
      ∃ t, exec (.releaseComplete h) s = .next t ∧ (getHeat t h).st = .free ∧
        ∀ r ∈ heatRanges s h, ∀ a, r.1 ≤ a → a < r.1 + r.2 → getByte t a = 0#8)

/-! ## Pace -/

/-- LAP_START (R279, R280, R284, R287): the next lap at phase 0, begun a lap length and what was slewed after the last, and on every
TRAINED port a delay request; a setter with a chip number also sends its beacon.
LAP_BEACON (R281 to R283, R287): a locked follower takes an accepted beacon's offset to be slewed out and forwards the beacon on
every other TRAINED port, one hop further; one of a wrong lap is counted; one of another pace domain is ignored.
DELAY_REQUEST and DELAY_RESPONSE (R284): a request is answered with its reception and the answer's transmission; a response gives
the mean of the last 16 exchanges as the port's link delay.
The model's own choices: the rate of slewing and the lap start an offset is taken against (log entry 46), and the bodies of delay
flits (log entry 122). -/
def Obligations.LapExchange : Prop :=
  (∀ s : State, linksUp s = true → lapLen s ≤ s.phase + 1 →
     let start := s.lapStartAt + (lapLen s * 64 : Nat) + (passTick s).slewed
     ∃ t, exec .lapStart s = .next t ∧ t.lap = (s.lap + 1) % 2 ^ 48 ∧ t.phase = 0 ∧ t.lapStartAt = start ∧ t.slewed = 0 ∧
       t.slew = (passTick s).slew ∧ (s.slew = 0 → t.now = s.now + 64) ∧ t.mem = s.mem ∧
       ∀ p, p < 32 → trained s p = true → (getPort t p).ctrl = (getPort s p).ctrl ++ (ctlRequest, []) ::
         (if isSetter s && ownChip s != 0 then
           [(ctlBeacon, beaconBody (dget s 0x2200 4)
             { lap := (s.lap + 1) % 2 ^ 48, setter := ownChip s, ticks := dget s 0x2200 2, hop := 0, corr := corrFrom start })]
          else [])) ∧
  ((∀ (s : State) (p domain : Nat) (b : Beacon) (rx : Int), trained s p = true →
      let start := impliedStart s p b rx
      let fit := beaconFit s (seenOf b start)
      (domain = dget s 0x2200 4 → paceState s = psLocked → p = sourcePort s →
        (∀ off, fit = .fits off → ∃ t, exec (.lapBeacon p domain b rx) s = .next t ∧ t.beaconLap = some b.lap ∧
          t.slew = (if (nearestStart s start).1 > 0 then off else off - s.slewed) ∧
          t.lap = s.lap ∧ dget t 0x2200 0x0A = wrapInt 32 off ∧
          ∀ j, j < 32 → j ≠ p → trained s j = true → b.hop < 63 → ownChip s ≠ 0 →
            (getPort t j).ctrl = (getPort s j).ctrl ++
              [(ctlBeacon, beaconBody domain { b with hop := b.hop + 1, corr := corrFrom start })]) ∧
        (fit = .wrongLap → ∃ t, exec (.lapBeacon p domain b rx) s = .next t ∧ Counted s t 0x2D30 2 ∧ t.slew = s.slew ∧
          t.lap = s.lap)) ∧
      (domain ≠ dget s 0x2200 4 → ∃ t, exec (.lapBeacon p domain b rx) s = .next t ∧ t = { s with ports := t.ports })) ∧
   (∀ (s : State) (p : Nat), trained s p = true →
      (∀ t2 t3 : Int, ∃ t, exec (.delayRequest p t2 t3) s = .next t ∧ t = { s with ports := t.ports } ∧
        (getPort t p).ctrl = (getPort s p).ctrl ++ [(ctlResponse, bytesOf 8 (wrapInt 64 t2) ++ bytesOf 8 (wrapInt 64 t3))]) ∧
      (∀ t1 t2 t3 t4 : Int, (getPort s p).asked = true →
        let l := (((t4 - t1) - (t3 - t2)) :: (getPort s p).delays).take 16
        ∃ t, exec (.delayResponse p t1 t2 t3 t4) s = .next t ∧ t = { s with ports := t.ports, dict := t.dict } ∧
          (getPort t p).delays = l ∧ dget t (pIdx p) 9 = wrapInt 32 (delayOf s p l))))

/-- HOLDOVER_TIMEOUT and PACE_LOSS_DECLARED (R290, R292): a locked device without the lap's beacon by an eighth of the lap holds over;
after 64 local lap starts it loses the pace.
The PACE_IN pair (R294, R296): an edge sooner than 90 ns is ignored and counted; a stuck or off-frequency input fails, and a setter
on it falls back; 100,000 accepted edges in a row bring it back. -/
def Obligations.PaceKept : Prop :=
  (∀ s : State,
     (paceState s = psLocked → lapLen s / 8 ≤ s.phase → s.beaconLap ≠ some s.lap →
       ∃ t, exec .holdoverTimeout s = .next t ∧ t = { s with dict := t.dict } ∧ paceState t = psHoldover ∧
         dget t 0x2200 0x0B = 0 ∧ Counted s t 0x2D30 4) ∧
     (paceState s = psHoldover → 64 ≤ dget s 0x2200 0x0B →
       ∃ t, exec .paceLossDeclared s = .next t ∧ paceState t = psLoss ∧ dget t 0x2200 9 = 0xFF ∧ Counted s t 0x2D30 5 ∧
         t.lap = s.lap ∧ t.queues = s.queues) ∧
     (paceState s ≠ psLocked → exec .holdoverTimeout s = .next s) ∧
     (paceState s ≠ psHoldover → exec .paceLossDeclared s = .next s)) ∧
  (∀ s : State,
     ((∀ x, s.paceIn.last = some x → x + 900 ≤ s.now) → exec .paceInEdge s =
       .next { s with paceIn := { s.paceIn with last := some s.now, run := s.paceIn.run + 1 } }) ∧
     (∀ x, s.paceIn.last = some x → s.now < x + 900 → ∃ t, exec .paceInEdge s = .next t ∧
       t = { s with paceIn := { s.paceIn with run := 0 }, dict := t.dict } ∧ Counted s t 0x2D30 6) ∧
     (∀ i, s.paceIn.valid = true →
       (i = .paceInStuck ∧ (∃ x, s.paceIn.last = some x ∧ x + 10000 < s.now) ∨
         ∃ edges span, i = .paceInFrequencyCheck edges span ∧
           (span / 20000 < span - edges * 1000 ∨ span / 20000 < edges * 1000 - span)) →
       ∃ t, exec i s = .next t ∧ t.paceIn = { s.paceIn with valid := false, run := 0 } ∧ Counted s t 0x2D30 7 ∧
         paceState t = if paceState s = psSetter then psSetterFree else paceState s) ∧
     (s.paceIn.valid = false → 100000 ≤ s.paceIn.run → ∃ t, exec .paceInRecovered s = .next t ∧
       t = { s with paceIn := { s.paceIn with valid := true }, dict := t.dict } ∧
       paceState t = if paceState s = psSetterFree ∧ usesPaceIn s = true then psSetter else paceState s))

/-! ## Fabric ports -/

/-- PORT_TRAINING, LANE_LOCK, TRAINING_TIMEOUT, LANE_LOCK_LOSS (R303 to R305, R420): an attempt begins on an enabled port that is
DOWN, its laser on and settled; lanes both ends have locked in time bring it to TRAINED with their width, none or no time bring it
back to DOWN; a lane in use that loses its lock retrains. -/
def Obligations.PortTrains : Prop :=
  ∀ (s : State) (p : Nat),
    (p < 32 → linksUp s = true → laserReady s p = true → portEnabled s p = true → linkState s p = linkDown →
      (∀ x, (getPort s p).attempt = some x → x + ms 1000 ≤ s.now) →
      ∃ t, exec (.portTraining p) s = .next t ∧ t = { s with ports := t.ports, dict := t.dict } ∧
        linkState t p = linkTraining ∧ (getPort t p).attempt = some s.now) ∧
    (∀ x, (getPort s p).attempt = some x → linkState s p = linkTraining →
      (s.now ≤ x + ms 500 → ∀ own peer : BitVec 4,
        (∀ lanes w, chooseWidth (own.toNat &&& peer.toNat) = some (lanes, w) →
          ∃ t, exec (.laneLock p own peer) s = .next t ∧ linkState t p = linkTrained ∧ dget t (pIdx p) 2 = w ∧
            (getPort t p).lanes = lanes ∧ (getPort t p).trainedAt = s.now) ∧
        (own &&& peer = 0 → ∃ t, exec (.laneLock p own peer) s = .next t ∧ linkState t p = linkDown)) ∧
      (x + ms 500 ≤ s.now → ∃ t, exec (.trainingTimeout p) s = .next t ∧ t = { s with dict := t.dict } ∧
        linkState t p = linkDown)) ∧
    (∀ lanes : BitVec 4, trained s p = true → lanes.toNat &&& (getPort s p).lanes ≠ 0 →
      ∃ t, exec (.laneLockLoss p lanes) s = .next t ∧ linkState t p = linkTraining ∧ Counted s t (pIdx p) 0x0C ∧
        (getPort t p).attempt = some s.now)

/-- FLIT_GROUP (R305 to R308): a broken group is counted and asked for again in the header of the next group sent; one in its order,
whose credits and acknowledgement hold, is accepted, else the port retrains; one out of order is thrown away and asked for again once.
A port that stays up sends a group of its own: the one it has to send again, or a fresh one. The model's own choices: that only the
first group out of order is asked for again, and what follows it in silence is thrown away (log entry 106), and that a group sent again
has the acknowledgement and credits of the moment in its header (log entry 122). -/
def Obligations.FlitGroups : Prop :=
  ∀ (s : State) (p : Nat) (g : BitVec 2048) (l : List (BitVec 2048)), trained s p = true →
    let x := getPort s p
    let up := modPort s p fun x => { x with rxNext := x.rxNext + 1, failing := false, nakDue := false }
    (headerOk g = false ∨ flitsOk g l = false → ∃ t, exec (.flitGroup p g l) s = .next t ∧ Counted s t (pIdx p) 0x0A ∧
      (getPort t p).failing = true ∧ (getPort t p).rxNext = x.rxNext ∧ GroupSent s t p (replayNo s p) true) ∧
    (headerOk g = true → flitsOk g l = true →
      (∀ v, fld g 2047 2016 = x.rxNext % 2 ^ 32 → takeHeader up p g = some v → ∃ t, exec (.flitGroup p g l) s = .next t ∧
        (getPort t p).failing = false ∧ (getPort t p).rxNext = x.rxNext + 1 ∧ GroupSent s t p (replayNo v p) false) ∧
      (fld g 2047 2016 = x.rxNext % 2 ^ 32 → takeHeader up p g = none → ∃ t, exec (.flitGroup p g l) s = .next t ∧
        linkState t p = linkTraining ∧ Counted s t (pIdx p) 0x0C) ∧
      (fld g 2047 2016 ≠ x.rxNext % 2 ^ 32 → ∃ t, exec (.flitGroup p g l) s = .next t ∧
        (getPort t p).failing = true ∧ (getPort t p).rxNext = x.rxNext ∧
        GroupSent s t p (replayNo s p) (x.nakDue || !x.failing)))

/-- DISCOVERY_SEND, DISCOVERY_RECORD and DISCOVERY_TIMEOUT (R318, R319): an owed record goes out once; a received one gives the neighbour's
entries; a plan's port with none within 2 s is MISSING. -/
def Obligations.Discovery : Prop :=
  ∀ (s : State) (p : Nat), trained s p = true →
    ((getPort s p).owes = true → ∃ t, exec (.discoverySend p) s = .next t ∧ t = { s with ports := t.ports } ∧
      getPort t p = { getPort s p with
        owes := false, ctrl := (getPort s p).ctrl ++ [(ctlRecord, bytesOf 32 (discoveryRecord s p).toNat)] }) ∧
    (∀ r : BitVec 256, ∃ t, exec (.discoveryRecord p r) s = .next t ∧ dget t (pIdx p) 4 = fld r 255 240 ∧
      dget t (pIdx p) 5 = fld r 239 232 ∧ dget t (pIdx p) 6 = fld r 231 200 ∧ dget t (pIdx p) 7 = fld r 167 104 ∧
      (getPort t p).record = some r ∧ (getPort t p).late = false) ∧
    ((getPort s p).gotRecord = false → (getPort s p).trainedAt + ms 2000 ≤ s.now →
      ∃ t, exec (.discoveryTimeout p) s = .next t ∧ (getPort t p).late = true ∧
        planState t p = if (namingPlans s p).isEmpty then 0 else 3)

/-! ## Remote operations -/

/-- READ_REQ, WRITE and MEM_OP at their target (R329, R330): a legal read is answered with memory's bytes, a legal store or unordered
INT32 add-into makes its change and is acknowledged, an illegal one is answered ADDRESS_ILLEGAL and changes no memory. -/
def Obligations.RemoteTarget : Prop :=
  ∀ (s : State) (port : Nat) (p : Packet) (h : Nat), s.errs = [] →
    (let k := { p with kind := kReadReq }
     let u := taken s port k
     comesTo s port k h →
      (remoteLegal s h .load k.offset k.dataLen = true → place s k.offset = .stack → exec (.readReq port p []) s =
        .next (sendPacket u { answer u k kReadResp with data := readBytes s k.offset k.dataLen, dataLen := k.dataLen })) ∧
      (remoteLegal s h .load k.offset k.dataLen = false → exec (.readReq port p []) s =
        .next (sendPacket u { answer u k kNak with code := nakAddress }))) ∧
    (let k := { p with kind := kWrite }
     comesTo s port k h →
      (remoteLegal s h .store k.offset k.data.length = true → place s k.offset = .stack →
        ordViolates s h k.offset k.data.length 0 false 0 (.remote k.src k.tag) = false →
        ∃ t u, exec (.write port p []) s = .next t ∧ t = sendPacket u (answer u k kAck) ∧ Stored s t k.offset k.data) ∧
      (remoteLegal s h .store k.offset k.data.length = false →
        ∃ t u, exec (.write port p []) s = .next t ∧ t = sendPacket u { answer u k kNak with code := nakAddress } ∧
          t.mem = s.mem)) ∧
    (let k := { p with kind := kMemOp }
     comesTo s port k h → k.memOp = 3 → memOpFits k = true → remoteLegal s h .memOp k.offset k.data.length = true →
      regionsAt s h k.offset k.data.length = [] →
      ∃ t u, exec (.memOp port p []) s = .next t ∧ t = sendPacket u (answer u k kAck) ∧
        (∀ i, i < k.data.length / 4 → readNat t (k.offset + i * 4) 4 =
          (readNat s (k.offset + i * 4) 4 + natAt k.data (i * 4) 4) % 2 ^ 32) ∧
        ∀ a, (a < k.offset ∨ k.offset + k.data.length ≤ a) → getByte t a = getByte s a)

/-- READ_RESP, ACK and NAK at the requester (R331 to R334): an answer ends its packet, read data is kept by its place, the last answer
ends a command whose effect is made; a refusing NAK keeps its reason, HEAT_RESETTING begins a back-off.
BACKOFF_EXPIRY, RESTART_RETRY_LIMIT and REMOTE_TIMEOUT (R333, R334): a back-off that has passed is over; past the retry limit the
command is done with PEER_RESTARTING; a packet without its answer in time is given up and its heat contained, and the room it leaves may
be used at once (R314). -/
def Obligations.RemoteAnswers : Prop :=
  (∀ (s u : State) (port : Nat) (p : Packet) (x : Txn) (q i pl : Nat) (f : Flight), x.owner = .dma q i pl → flightOf u q i = some f →
     (takeAnswer s port { p with kind := kAck } = (u, some x) → ∃ t g, exec (.ack port p) s = .next t ∧
       flightOf t q i = some g ∧ g.acks = f.acks - 1 ∧
       (f.acks = 1 → f.acted = true → f.waits = false → f.late = none → f.rem.refusal = none → g.done = true)) ∧
     (takeAnswer s port { p with kind := kReadResp } = (u, some x) → ∃ t g, exec (.readResp port p) s = .next t ∧
       flightOf t q i = some g ∧ g.acks = f.acks - 1 ∧ g.rem.got = (pl, p.data) :: f.rem.got) ∧
     (takeAnswer s port { p with kind := kNak } = (u, some x) →
       (p.code ≠ nakResetting → ∃ t g, exec (.nak port p) s = .next t ∧ flightOf t q i = some g ∧
         g.rem.refusal = some (f.rem.refusal.getD p.code) ∧ g.rem.unsent = []) ∧
       (p.code = nakResetting → f.rem.refusal = none → f.rem.retryAt = none → ∃ t g, exec (.nak port p) s = .next t ∧
         flightOf t q i = some g ∧ x.pkt.dst ∈ g.rem.holdChips ∧ g.rem.retryAt = some (u.now + usec (nextBackoff u f.rem.backoff))))) ∧
  (∀ (s : State),
     (∀ q i f, q < 2 ^ 18 → flightOf s q i = some f → s.colls.find? (fun c => c.queue = q && c.index = i) = none →
       (∀ x, f.rem.retryAt = some x → x ≤ s.now →
         ∃ t g, exec (.backoffExpiry q i) s = .next t ∧ flightOf t q i = some g ∧ g.rem.retryAt = none ∧ g.acks = f.acks) ∧
       (∀ x, f.rem.retryAt = some x → s.now < x → exec (.backoffExpiry q i) s = .next s) ∧
       (∀ x, f.rem.firstNak = some x → f.done = false → f.status = 0 → retryOver s x = true →
         ∃ t, exec (.restartRetryLimit q i) s = .next t ∧ Ended t q i 0x0E02 0 0)) ∧
     (∀ n x h, s.txns.find? (fun x => x.id = n && !x.parked) = some x → x.since + usec (dget s 0x2320 3) ≤ s.now →
       ownerHeat s x.owner = some h → (getHeat s h).st = .running →
       ∃ t l, exec (.remoteTimeout n) s = .next t ∧ t.txns = dropFirst (fun y => y.id = n) s.txns ++ l ∧
         ((∀ q i pl, x.owner ≠ .dma q i pl) → l = []) ∧ (getHeat t h).contained = true ∧ t.mem = s.mem))

/-! ## Collectives -/

/-- REDUCE_SCATTER, ALL_GATHER, BATON_EXCHANGE and RELAY (R349, R354, R356, R359, R366): the started command has been acted on, and its
first message awaits an answer of every other member: the own segment's count, whether a gather is needed, the tokens offered, whether
the pieces fit the staging area. -/
def Obligations.CollectivesOpen : Prop :=
  ∀ (s : State) (q h : Nat) (f : Flight) (c : Coll), s.colls.find? (fun c => c.queue = q && c.index = f.index) = some c →
    findColl s c.heat c.id = some c → c.refused = none → c.holdTo = [] → s.errs = [] →
    let p := collPar s c
    let tells (i : Instr) (kind : Nat) (v : Nat → Nat) : Prop :=
      ∃ t g, exec i s = .next t ∧ flightOf t q f.index = some g ∧ g.acted = true ∧
        ∀ j ∈ c.others, Awaited t c.heat c.id j fun k => k.kind = kind ∧ k.dst = (c.member j).chip ∧ k.data = collTagOf c (v j)
    let hit := p.retain == 2 && (getHeat s h).retained.any fun r =>
      r.key == p.key && r.base == c.me.base && r.bytes == totalCount c.members * p.unit
    (runningIn s q 0x80 = some (h, f) → tells (.reduceScatter q) kReady fun _ => c.me.count) ∧
    (runningIn s q 0x81 = some (h, f) → tells (.allGather q) kReady fun _ => if hit then 0 else 1) ∧
    (runningIn s q 0x82 = some (h, f) → tells (.batonExchange q) kCounts fun j => sendCount { c with sends := readSends s p } j) ∧
    (runningIn s q 0x83 = some (h, f) → tells (.relay q) kReady fun _ => b2n (decide (stagingNeed c.perms ≤ p.stageLen)))

/-- COLL_READY, COLL_COUNTS, COLL_GRANT and COLL_END (R344): what a member says is entered for it; a reduce-scatter's COLL_READY of another
count is refused. The collective goes on while a packet of it awaits its answer; it is over only with its command's record.
COLL_DATA (R342, R346, R349, R354): data inside the range expected of its sender, which no ordered region refuses, is stored by an
all-gather, and added element by element by an unordered INT32 reduce-scatter without a ledger entry; no other byte changes, and its
bytes are counted for its sender. -/
def Obligations.CollectiveMessages : Prop :=
  ∀ (s : State) (port h : Nat) (p : Packet) (c : Coll), (flightOf s c.queue c.index).isSome = true → c.heat = h →
    c.id = (TagIn.ofPacket p).id →
    let t0 := TagIn.ofPacket p
    let has (i : Instr) (P : Coll → Prop) : Prop := ∃ t, exec i s = .next t ∧ CollHas t c (collWaits s h c.id) P
    ((collKnown s port { p with kind := kReady } h c →
       (c.form = 0 → t0.value = (c.member t0.sender).count) →
       has (.collReady port p) fun c' => (c'.peer t0.sender).ready = some t0.value) ∧
     (collKnown s port { p with kind := kReady } h c → c.form = 0 → t0.value ≠ (c.member t0.sender).count →
       has (.collReady port p) fun c' => c'.refused = some 17) ∧
     (collKnown s port { p with kind := kCounts } h c →
       has (.collCounts port p) fun c' => (c'.peer t0.sender).counts = some t0.value) ∧
     (collKnown s port { p with kind := kEnd } h c → has (.collEnd port p) fun c' => (c'.peer t0.sender).ended = some t0.value) ∧
     (collKnown s port { p with kind := kGrant } h c →
       has (.collGrant port p) fun c' => (c'.peer t0.sender).grant = some t0.value)) ∧
    ∀ b n, collKnown s port { p with kind := kData } h c →
      let d := p.data.drop 32
      let par := collPar s c
      let counted (t : State) : Prop := CollHas t c (collWaits s h c.id) fun c' =>
        (c'.peer t0.sender).got = (c.peer t0.sender).got + d.length
      expectRange par c t0.sender = some (b, n) → b ≤ p.offset → p.offset + d.length ≤ b + n → s.errs = [] →
      dataFits { p with kind := kData } = true → place s p.offset = .stack →
      (c.form = 1 → p.memOp = 0 → ordViolates s h p.offset d.length 0 false 0 (.coll c.id t0.sender) = false →
        ∃ t, exec (.collData port p) s = .next t ∧ Stored s t p.offset d ∧ counted t) ∧
      (c.form = 0 → par.ordered = false → par.ledgerEn = false → p.memOp = 3 → regionsAt s h p.offset d.length = [] →
        ∃ t, exec (.collData port p) s = .next t ∧ counted t ∧
          (∀ i, i < d.length / 4 → readNat t (p.offset + i * 4) 4 =
            (readNat s (p.offset + i * 4) 4 + natAt d (i * 4) 4) % 2 ^ 32) ∧
          ∀ a, (a < p.offset ∨ p.offset + d.length ≤ a) → getByte t a = getByte s a)

/-- The answers of a collective (R344 to R346, R352): COLL_ACK ends its packet, COLL_HELD keeps it for COLL_RESUME, which sends it again,
COLL_BUSY parks it for COLL_BUSY_RESEND, COLL_REFUSE ends the sending; a peer silent for the collective's wait contains the heat, unless
the collective is refused and waits for answers only (R348). -/
def Obligations.CollectiveAnswers : Prop :=
  ∀ (s : State) (port h id j : Nat) (p : Packet) (x : Txn) (c : Coll), x.owner = .coll h id j → c.heat = h → c.id = id →
    s.colls.filter (fun x => x.heat = h && x.id = id) = [c] → c.holdTo = [] →
    (admitted s port = true → p.dst = ownChip s → p.dst ≠ 0xFFFF → p.dst ≠ 0 → tagHeat s p.tag = some h →
      s.txns.find? (fun y => y.id = p.txn) = some x →
      (c.refused = none → ∃ t, exec (.collAck port p) s = .next t ∧ t.txns = dropFirst (fun y => y.id = p.txn) s.txns) ∧
      ((c.peer j).resumed = false → c.refused = none → ∃ t, exec (.collHeld port p) s = .next t ∧
        t.txns = dropFirst (fun y => y.id = p.txn) s.txns ∧
        findColl t h id = some { c with quiet := 0, heldPk := c.heldPk ++ [(j, x.pkt)] }) ∧
      (c.refused = none → ∃ t, exec (.collBusy port p) s = .next t ∧ t = { s with ports := t.ports, txns := t.txns, colls := t.colls } ∧
        findColl t h id = some { c with quiet := 0 } ∧
        t.txns = s.txns.map fun y => if y.id = p.txn then { y with parked := true, since := s.now } else y) ∧
      ((TagIn.ofPacket p).id = id → (flightOf s c.queue c.index).isSome = true → ∃ t, exec (.collRefuse port p) s = .next t ∧
        CollHas t c (collWaits { s with txns := dropFirst (fun y => y.id = p.txn) s.txns } h id) fun c' =>
          c'.refused = some (c.refused.getD (16 + (TagIn.ofPacket p).value)) ∧ c'.heldPk = [] ∧ c'.unsent = [] ∧ c'.again = [] ∧
          c'.quiet = 0)) ∧
    (∀ n, s.txns.find? (fun y => y.id = n && y.parked) = some x → x.since + usec (dget s 0x2320 4) ≤ s.now → c.refused = none →
      ∃ t, exec (.collBusyResend n) s = .next t ∧ t.txns = dropFirst (fun y => y.id = n) s.txns ++
        [{ id := s.nextTxn % 2 ^ 24, owner := .coll h id j, pkt := { x.pkt with txn := s.nextTxn % 2 ^ 24 }, since := s.now }]) ∧
    (collKnown s port { p with kind := kResume } h c → (TagIn.ofPacket p).id = id → ∃ t, exec (.collResume port p) s = .next t ∧
      ∀ y ∈ c.heldPk, y.1 = (TagIn.ofPacket p).sender →
        Awaited t h id y.1 fun k => k.data = y.2.data ∧ k.kind = y.2.kind ∧ k.dst = y.2.dst) ∧
    ((collPar s c).wait ≠ 0 → (collPar s c).wait ≤ c.quiet → c.refused = none → waitsForPeer c = true →
      (getHeat s h).st = .running →
      ∃ t, exec (.collectiveWaitExpiry h id) s = .next t ∧ findColl t h id = some { c with quiet := 0 } ∧
        (getHeat t h).contained = true)

/-! ## Faults and restarts -/

/-- EVENT_HANDLING (R445): the first event of the highest class leaves the queue; one of class C0 or C1 is logged, one of class C2
restarts its RUNNING heat under the next number and gives up its queues; with none the row does nothing.
A C3 event in READY (R447): the device fences itself, every heat that can restart is in RESTARTING by class C3, with the lap of the
fence, and the powered hour is kept; a second within 24 powered hours of the first raises class C4. A C4 event (R448): the fence ends
and every heat is gone; the device powers down on its way to LOST, or is LOST at once where nothing is powered. -/
def Obligations.EventsHandled : Prop :=
  ∀ s : State,
    (s.events = [] → exec .eventHandling s = .next s) ∧
    (∀ e, nextEvent s.events = some e → s.lostEvents = 0 → e.cls ≤ 1 → ∃ t, exec .eventHandling s = .next t ∧
      t.events = dropFirst (fun x => x == e) s.events ∧ t.logNext = s.logNext + 1 ∧ (t.log.head?).map (·.seq) = some s.logNext ∧
      t.heats = s.heats ∧ t.queues = s.queues ∧ t.mem = s.mem) ∧
    (∀ e h, nextEvent s.events = some e → s.lostEvents = 0 → e.cls = 2 → e.heat = some h → (getHeat s h).st = .running →
      (getHeat s h).restart.no ≤ e.restartNo → e.inRestart = false → ∃ t, exec .eventHandling s = .next t ∧ (getHeat t h).st = .restarting ∧
        (getHeat t h).atFault = .running ∧ (getHeat t h).restart.no = ((getHeat s h).restart.no + 1) % 2 ^ 16 ∧
        ∀ q, queueHeat s q = some h → (getQueue t q).enabled = false ∧ (getQueue t q).flights = []) ∧
    (∀ e, nextEvent s.events = some e → s.lostEvents = 0 → e.cls = 3 →
      let again := ∃ x, s.lastC3 = some x ∧ poweredHour s ≤ x + 24
      (bootStage s = bsReady → ¬again → ∃ t, exec .eventHandling s = .next t ∧ t.lastC3 = some (poweredHour s) ∧
        dget t 0x2710 6 = poweredHour s ∧
        ∀ h ∈ liveHeats s, canRestart s h = true → dget t 0x2710 1 = 1 ∧ (getHeat t h).st = .restarting ∧
          (getHeat t h).fencedLap = some s.lap ∧ (getHeat t h).restart.cls = 3) ∧
      (again → s.events.length ≤ 64 → ∃ t, exec .eventHandling s = .next t ∧ ∃ x ∈ t.events, x.cls = 4 ∧ x.cause = 15)) ∧
    (∀ e, nextEvent s.events = some e → s.lostEvents = 0 → e.cls = 4 → ∃ t, exec .eventHandling s = .next t ∧
      dget t 0x2710 1 = 0 ∧
      (bsMemoryPower ≤ bootStage s → bootStage s ≠ bsLost → bootStage t = bsPoweringDown ∧ t.downTo = bsLost) ∧
      (bootStage s < bsMemoryPower ∨ bootStage s = bsLost → bootStage t = bsLost) ∧
      (bootStage s ≠ bsLost → ∀ h, h < 16 → (getHeat t h).st = .free))

/-- The notices FAULT, INVENTORY, RESTORE, RESTORED, RESUME and NO_SNAPSHOT (R455 to R460) at a member that is not the lead. -/
def Obligations.NoticesAct : Prop :=
  ∀ (s : State) (port h : Nat) (n : Notice),
    let r := (getHeat s h).restart
    let to_ (k : Nat) : Notice := { n with kind := k }
    (noticed s port (to_ nkFault) h → (getHeat s h).st = .running → ∃ t, exec (.fault port n) s = .next t ∧
      (getHeat t h).st = .restarting ∧ (getHeat t h).restart.no = (r.no + 1) % 2 ^ 16 ∧
      (getHeat t h).restart.origin = n.origin) ∧
    (noticed s port (to_ nkInventory) h → leads s h = false → ∃ t, exec (.inventory port n) s = .next t ∧
      (getHeat t h).restart.reports = r.reports ++ [{ no := n.restartNo, subject := n.subject, sender := n.origin
                                                      onBehalf := n.onBehalf, lapA := n.lapA, lapB := n.lapB }]) ∧
    (noticed s port (to_ nkRestore) h → (getHeat s h).st = .restarting → r.chosen = none →
      ∃ t, exec (.restore port n) s = .next t ∧ (getHeat t h).restart.chosen = some n.lapA ∧
        (getHeat t h).st = .restarting) ∧
    (noticed s port (to_ nkRestored) h → leads s h = false → ∃ t, exec (.restored port n) s = .next t ∧
      n.origin ∈ (getHeat t h).restart.done ∧ (getHeat t h).restart.resume = r.resume) ∧
    (noticed s port (to_ nkResume) h → ∃ t, exec (.noticeResume port n) s = .next t ∧
      (getHeat t h).restart = { r with resume := some n.lapA }) ∧
    (noticed s port (to_ nkNoSnapshot) h → (getHeat s h).st = .restarting → ∃ t, exec (.noSnapshot port n) s = .next t ∧
      (getHeat t h).restart = { r with noSnapshot := true } ∧ dget t (hSnap h) 0x10 = 5)

/-- The waits of a restart (R457, R458): INVENTORY on behalf of a silent ward, the lead's decision at the end of its wait, the acting
lead's, and RESTORE repeated every 64 laps, all counted in local lap starts (R279).
RESTORE_COMPLETE and RESUME_LAP (R459, R460): a restored heat stands as it stood at the fault, its initial queue set up as at START;
at the resume lap the restart is counted and the heat's restart status cleared. A cluster out of service holds the restore up. -/
def Obligations.RestartWaits : Prop :=
  (∀ (s : State) (h : Nat),
     let r := (getHeat s h).restart
     let ward := dget s (hSnap h) 8
     let wait := dget s (hSnap h) 0x11
     ((getHeat s h).st = .restarting → ward ≠ 0 → (∀ x ∈ r.reports, x.subject = ward → x.onBehalf = true) →
       r.onBehalfSent = false → r.startLap + 16 ≤ s.lapStarts → leads s h = false →
       ∃ t, exec (.onBehalfTimeout h) s = .next t ∧ (getHeat t h).restart.onBehalfSent = true ∧
         (getHeat t h).restart.reports = r.reports ++ [{ no := r.no, subject := ward, sender := ownChip s, onBehalf := true
                                                         lapA := (newestTwo (wardLaps s h)).1
                                                         lapB := (newestTwo (wardLaps s h)).2 }]) ∧
     (undecided s h → leads s h = true → r.startLap + wait ≤ s.lapStarts →
       ∃ t, exec (.inventoryWaitExpiry h) s = .next t ∧ Decided s t h) ∧
     (undecided s h → actingLead r = some (ownChip s) → r.startLap + 2 * wait ≤ s.lapStarts →
       ∃ t, exec (.leadTimeout h) s = .next t ∧ Decided s t h ∧ (getHeat t h).restart.acting = true) ∧
     (∀ x l, r.restoreSent = some x → r.chosen = some l → leads s h = true → x + 64 ≤ s.lapStarts → r.done.length < jobMembers s h →
       ∃ t, exec (.restoreRepeat h) s = .next t ∧ (getHeat t h).restart = { r with restoreSent := some s.lapStarts } ∧
         t.noticeSeq = s.noticeSeq + 1)) ∧
  (∀ (s : State) (h : Nat),
     ((getHeat s h).st = .restarting → restoreReady s h = true → takeoverAwaited s h = false →
       ((heatClusters s h).all (clusterActive s) = true → discoveryOk s h = true →
         ∃ t, exec (.restoreComplete h) s = .next t ∧
           (getHeat t h).st = (if (getHeat s h).atFault = .running then .running else .stopped) ∧
           (getHeat t h).restart.restored = true ∧ dget t (hSnap h) 0x10 = 3 ∧
           (getQueue t (initialQueue s h)).enabled = true ∧ (getQueue t (initialQueue s h)).tail = 0) ∧
       ((heatClusters s h).all (clusterActive s) = false → ∃ t, exec (.restoreComplete h) s = .next t ∧
         t = { s with dict := t.dict } ∧ dget t (hSnap h) 0x10 = 4)) ∧
     (∀ l, (getHeat s h).restart.resume = some l → l ≤ s.lap → eventsHeld s = false → (getHeat s h).restart.restored = true →
       ((getHeat s h).st = .running ∨ (getHeat s h).st = .stopped) →
       ∃ t, exec (.resumeLap h) s = .next t ∧ (getHeat t h).restart.resume = none ∧ Counted s t (hCfg h) 0x13 ∧
         dget t (hSnap h) 0x10 = 0))

/-- Snapshots (R452, R453): SNAPSHOT_LAP begins one, whose own copy is no longer whole; SNAPSHOT_OWN_WRITTEN makes it whole;
SNAPSHOT_COMMIT_CHECK contains the heat of a late one; SNAPSHOT_BUDDY_SEND and SNAPSHOT_BUDDY_WRITTEN bring it to the buddy. -/
def Obligations.SnapshotSteps : Prop :=
  ∀ (s : State) (h : Nat),
    let c := dget s (hSnap h) 0x0A
    (s.phase = 0 → snapState s h = true → snapDue s h = true → eventsHeld s = false → anyCommandDue s = false → unfinished s h = none →
      snapPossible s h = true →
      ∃ t n, exec (.snapshotLap h) s = .next t ∧ (getHeat t h).snap = some n ∧ n.lap = s.lap ∧ n.phase ≤ 1 ∧
        n.number = (getHeat s h).snapCount ∧ snapLap t h 0 = none ∧ (getHeat t h).lastSnapLap = some s.lap) ∧
    (∀ n, (getHeat s h).snap = some n → n.lap < noLap →
      (n.phase = 1 → s.errs = [] → ∃ t, exec (.snapshotOwnWritten h) s = .next t ∧ snapLap t h 0 = some n.lap ∧
        (getHeat t h).snap = some { n with phase := 3, block := [] }) ∧
      (n.checked = false → eventsHeld s = false → n.lap + c ≤ s.lap →
        (snapLap s h 0 = some n.lap → ∃ t, exec (.snapshotCommitCheck h) s = .next t ∧
          (getHeat t h).snap = if buddyChip s h = 0 then none else some { n with checked := true }) ∧
        (snapLap s h 0 ≠ some n.lap → (getHeat s h).st = .running → ∃ t, exec (.snapshotCommitCheck h) s = .next t ∧
          (getHeat t h).contained = true)) ∧
      (n.phase = 3 → buddyChip s h ≠ 0 → eventsHeld s = false → n.lap + 2 * c ≤ s.lap → s.errs = [] →
        ∃ t n', exec (.snapshotBuddySend h) s = .next t ∧ (getHeat t h).snap = some n' ∧ n'.phase = 5 ∧ n.acks < n'.acks) ∧
      (n.phase = 5 → n.acks = 0 → n.rem.refusal = none → n.slot < 2 →
        ∃ t n', exec (.snapshotBuddyWritten h) s = .next t ∧ (getHeat t h).snap = some n' ∧ n'.phase = 6 ∧
          snapLap t h (2 + n.slot) = some n.lap))

/-! ## The rotating spare and in-field tests -/

/-- SPARE_ROTATION, SPARE_MOVE, SPARE_TAKEOVER (R440, R462, R463): a rotation calls for the next usable slot's core; the move gives that
core to the spare and tests the slot it leaves; a takeover gives a retired slot's core to the spare, and a cluster without one is
out of service. -/
def Obligations.SparesMove : Prop :=
  ∀ (s : State) (c o p : Nat), c < 64 → o < 576 → o ≠ p →
    (s.phase = 0 → dget s 0x2900 4 = 1 → clusterActive s c = true → linksUp s = true → rotationLap s c s.lap = true →
      eventsHeld s = false → heatEventsDue s = false → (getCluster s c).rotated ≠ some s.lapStarts → readySpare s c = some p →
        slotAfter s p = some o →
      ∃ t, exec (.spareRotation c) s = .next t ∧ (getCluster t c).movePending = some o ∧ (getCluster t c).moveCause = 0) ∧
    ((getCluster s c).movePending = some o → spareOf s c = some p → eventsHeld s = false → (getCluster s c).takeover = none →
      ((getCluster s c).moveCause = 0 → dget s 0x2900 4 = 1) → lapAwaited s c = false →
      slotState s p = 1 → coreQuiet s (coreOfSlot s o) = true → coreAwake s (spareUnit c) = true →
      ∃ t, exec (.spareMove c) s = .next t ∧ slotState t p = 0 ∧ slotCore t p = slotCore s o ∧
        slotState t o = (if (getCluster s c).moveCause = 0 then 2 else 3) ∧ (getCluster t c).movePending = none) ∧
    ((getCluster s c).takeover = some o → lapAwaited s c = false → (getCluster s c).movePending = none →
      (spareOf s c = some p → ∃ t, exec (.spareTakeover c) s = .next t ∧ slotState t p = 0 ∧ slotCore t p = slotCore s o ∧
        slotState t o = 3 ∧ (getCluster t c).takeover = (getCluster s c).lost.head?) ∧
      (spareOf s c = none → ∃ t, exec (.spareTakeover c) s = .next t ∧ bitOf (dget t 0x2C00 5) c = true))

/-- In-field tests (R465 to R467, R502 to R505): a passed test of a spare makes it ready and notes the hour, a failed one retires it for
good; so with a core tested in a window, whose cluster then goes out of service; an overdue test is shown; a monitor's flag calls for a
trim; the margin plan is made every 500 powered hours, at a lap start behind its commands, snapshots and rotations. The model's own
choices: what a failed window test does besides retiring the slot (log entry 67), and that the plan's row waits for what comes before
it at its tick (log entry 44). -/
def Obligations.FieldTests : Prop :=
  ∀ (s : State) (c p : Nat) (w : Sweep), c < 64 → p < 576 →
    (spareOf s c = some p → slotState s p = 2 → dget s 0x2900 4 = 1 →
      (∃ t, exec (.spareTestComplete c true w) s = .next t ∧ slotState t p = 1 ∧
        domNum t 0x2900 7 4 p = poweredHour s % 2 ^ 32) ∧
      (∃ t, exec (.spareTestComplete c false w) s = .next t ∧ slotState t p = 3 ∧ p ∈ t.retiredSlots)) ∧
    (∀ k, (getCluster s c).underTest = some k → physSlot s k = p →
      (∃ t, exec (.windowTestComplete c true w) s = .next t ∧ domNum t 0x2900 7 4 p = poweredHour s % 2 ^ 32) ∧
      (∃ t, exec (.windowTestComplete c false w) s = .next t ∧ p ∈ t.retiredSlots ∧ bitOf (dget t 0x2C00 5) (p / 9) = true)) ∧
    (spareOf s c = none → clusterActive s c = true → (getCluster s c).windows = [] → p ∈ activeSlots s c →
      testDue s p (dget s 0x2900 5 + 1) = true → p ∉ (getCluster s c).overdue →
      ∃ t o, exec (.testOverdue c) s = .next t ∧ bitOf (dget t 0x2900 9) c = true ∧ o ∉ (getCluster s c).overdue ∧
        (getCluster t c).overdue = o :: (getCluster s c).overdue) ∧
    (slotState s p = 0 → ∃ t, exec (.monitorFlag p) s = .next t ∧ t = { s with trimRaise := t.trimRaise } ∧ p ∈ t.trimRaise) ∧
    (linksUp s = true → eventsHeld s = false →
      (s.phase = 0 → heatEventsDue s = false → anyRotationDue s = false →
        s.planHour < poweredHour s / 500 → ∃ t, exec .marginPlanCheck s = .next t ∧ t.planHour = poweredHour s / 500) ∧
      (poweredHour s / 500 ≤ s.planHour → exec .marginPlanCheck s = .next s))

/-! ## Starting and powering -/

/-- INPUT_VALID, INPUT_INVALID, STRAP_LATCH, RESET_N, WATCHDOG_EXPIRY and PWR_EN (R396 to R404, R407, R531): a cold or warm start loses
memory and queues and keeps what outlives it; the first latch of the straps leads to STANDBY, and where the image fails its checks to
RECOVERY; a later one shows the pins only; a short pulse is ignored and counted; PWR_EN low powers down. The model's own choices:
memory then lists nothing until the memory test (log entry 3), a cold start sets the clock to 0 (log entry 70), and the straps'
latch takes the starting blocks with it (log entry 71). -/
def Obligations.StartsAndResets : Prop :=
  ∀ s : State,
    (s.pins.inputOn = false → ∃ t, exec .inputValid s = .next t ∧ t.pins.inputOn = true ∧ t.mem = [] ∧ t.queues = [] ∧
      t.strapped = false ∧ bootStage t = bsStartingBlocks ∧ Counted s t 0x2730 2 ∧
      t.retiredSlots = s.retiredSlots ∧ t.flash = s.flash ∧ t.pending = s.pending) ∧
    (s.pins.inputOn = true → ∃ t, exec .inputInvalid s = .next t ∧ t.pins.inputOn = false ∧ t.mem = [] ∧ t.queues = [] ∧
      t.now = 0 ∧ t.flash = s.flash ∧ t.store = s.store ∧ t.history = s.history) ∧
    (∀ pins : BitVec 12, s.pins.inputOn = true →
      (s.strapped = false → (∀ x ∈ s.store, x.1 / 256 ≠ 0x2000) → ∃ t, exec (.strapLatch pins) s = .next t ∧
        t.strapped = true ∧ dget t 0x2000 1 = pins.toNat ∧
        dget t 0x2000 3 = (if pins.toNat % 128 = 0 then 64 else pins.toNat % 128) ∧
        (bootStage s = bsStartingBlocks → s.pins.resetLow = false →
          (flashFault s ≠ 0 → bootStage t = bsRecovery ∧ dget t 0x2A10 8 = flashFault s) ∧
          (flashFault s = 0 → s.store = [] → bootStage t =
            if fuseMapOk s then (if s.pins.pwrLevel && allOff s then bsMemoryPower else bsStandby) else bsLost))) ∧
      (s.strapped = true → ∃ t, exec (.strapLatch pins) s = .next t ∧ t = { s with dict := t.dict } ∧
        dget t 0x2000 2 = pins.toNat ∧ dget t 0x2000 1 = dget s 0x2000 1)) ∧
    (∀ low width, s.pins.inputOn = true → s.pins.resetLow ≠ low →
      (10000 ≤ width → bootStage s ≠ bsLost → ∃ t, exec (.resetN low width) s = .next t ∧ t.pins.resetLow = low ∧
        (low = true → t.mem = [] ∧ t.queues = [] ∧ t.retiredChannels = s.retiredChannels) ∧
        (low = false → s.store = [] → dget t 0x2A10 2 = 1)) ∧
      (width < 1000 → ∃ t, exec (.resetN low width) s = .next t ∧ t = { s with dict := t.dict } ∧ Counted s t 0x2D70 7)) ∧
    (s.pins.inputOn = true → s.pins.resetLow = false → bootStage s ≠ bsLost → ∃ t, exec .watchdogExpiry s = .next t ∧
      t.mem = [] ∧ t.queues = [] ∧ (s.store = [] → dget t 0x2A10 2 = 2)) ∧
    (∀ level width, s.pins.inputOn = true → level ≠ s.pins.pwrLevel → 1000000 ≤ width →
      ((∀ x, s.pins.pwrAt = some x → x + ms 100 ≤ s.now) → ∃ t, exec (.pwrEn level width) s = .next t ∧
        t.pins.pwrLevel = level ∧ t.pins.pwrAt = some s.now ∧
        (level = false → bsMemoryPower ≤ bootStage s → bootStage s ≤ bsReady → bootStage t = bsPoweringDown)) ∧
      (∀ x, s.pins.pwrAt = some x → s.now < x + ms 100 → ∃ t, exec (.pwrEn level width) s = .next t ∧
        t.pins.pwrLevel = s.pins.pwrLevel ∧ t.pins.pwrEn = level ∧ (s.pins.pwrEn ≠ level → Counted s t 0x2D70 3)))

/-- The boot's stages and the wake tokens (R411 to R420): WARM_UP_WAVE, MEMORY_TEST_COMPLETE, SELF_TEST_COMPLETE and LINK_TRAINING_END lead
from one stage to the next; a load changes with its token, and waits where none is free; an idle core goes to retention. After the
memory test every byte of stack memory holds a value that nobody knows (R414).
The model's own choices: a request that the stage or the port forbids does nothing, and one that undoes a waiting request withdraws it
(log entry 121); ports stay TRAINED until their laser's token is granted (log entry 69). -/
def Obligations.BootSteps : Prop :=
  ∀ s : State,
    (∀ failed : WaveFaults,
      bootStage s = bsWarmUp ∨ bootStage s = bsMemoryPower ∧ (∀ x ∈ stackUnits s, x.1 ∈ s.seq.stacksOn) →
      ∃ t, exec (.warmUpWave failed) s = .next t ∧ t.wave = s.wave + 1 ∧
        bootStage t = (if s.wave = 7 then bsMemoryTest else bsWarmUp) ∧
        (bootStage s = bsMemoryPower → t.untrained = failed.channels ∧ (failed.channels ≠ [] → t.sinceTest = true)) ∧
        ∀ c ∈ failed.clusters, clusterActive s c = true → physCluster s c % 8 = s.wave → bitOf (dget t 0x2C00 5) c = true) ∧
    (∀ failed repaired, bootStage s = bsMemoryTest → ∃ t, exec (.memoryTestComplete failed repaired) s = .next t ∧
      bootStage t = bsSelfTest ∧ t.errs = [] ∧ (∃ n, ∀ a, a < stackTop t → getByte t a = Config.testData n a) ∧
      ∀ q ∈ failed ++ s.untrained, q ∈ fusedChannels s → q ∈ t.retiredChannels) ∧
    (∀ failed sweeps, bootStage s = bsSelfTest → ∃ t, exec (.selfTestComplete failed sweeps) s = .next t ∧
      bootStage t = bsLinkTraining ∧ t.lap = 0 ∧ t.phase = 0 ∧
      ∀ p ∈ failed, p < 576 → clusterActive s (p / 9) = true → p ∈ t.retiredSlots) ∧
    (bootStage s = bsLinkTraining →
      (portsUp s = true ∨ s.stageAt + ms 20000 ≤ s.now → ∃ t, exec .linkTrainingEnd s = .next t ∧ bootStage t = bsReady) ∧
      (portsUp s = false → s.now < s.stageAt + ms 20000 → exec .linkTrainingEnd s = .next s)) ∧
    (∀ u : WakeUnit, mayChange s u = false → exec (.wakeTokenRequest u) s = .next s) ∧
    (∀ u : WakeUnit, mayChange s u = true → wakeIdle s u = true → ∃ t, exec (.wakeTokenRequest u) s = .next t ∧
      t = { s with seq := t.seq } ∧ t.seq.waiting = s.seq.waiting.filter (·.unit != undoes u)) ∧
    (∀ u : WakeUnit, mayChange s u = true → wakeIdle s u = false → s.seq.waiting.any (·.unit = u) = false →
      s.seq.waiting.any (·.unit = undoes u) = false →
      (s.seq.waiting = [] → wakeFits s u = true → ∃ t, exec (.wakeTokenRequest u) s = .next t ∧ wakeIdle t u = true ∧
        t.seq.waiting = [] ∧ Counted s t 0x2D50 1) ∧
      (s.seq.waiting ≠ [] ∨ wakeFits s u = false → ∃ t, exec (.wakeTokenRequest u) s = .next t ∧
        t.seq = { s.seq with waiting := s.seq.waiting ++ [{ unit := u, since := s.now }] } ∧ t.corePower = s.corePower ∧
        Counted s t 0x2D50 2)) ∧
    (∀ r l, s.seq.waiting = r :: l → bootStage s ≠ bsPoweringDown → bootStage s ≠ bsStandby ∨ s.pins.pwrLevel = false →
      (wakeFits s r.unit = true → ∃ t, exec .wakeTokenGrant s = .next t ∧ wakeIdle t r.unit = true ∧ t.seq.waiting = l) ∧
      (wakeFits s r.unit = false → exec .wakeTokenGrant s = .next s)) ∧
    (bootStage s = bsPoweringDown → s.seq.waiting = [] → allOff s = true →
      s.downTo = bsLost ∨ s.downTo = bsStandby ∧ s.pins.pwrLevel = false →
      ∃ t, exec .wakeTokenGrant s = .next t ∧ bootStage t = s.downTo ∧ t.mem = []) ∧
    (∀ k, linksUp s = true → coreAwake s k = true → coreQuiet s k = true → controlBusy s k = false → (getCore s k).ctl = none →
      (getCore s k).quietAt + 200000 ≤ s.now → s.seq.waiting = [] → wakeFits s (.core k false) = true →
      ∃ t, exec (.coreIdleTimeout k) s = .next t ∧ coreAwake t k = false)

/-- Supply and temperature (R498, R521 to R527, R533, R213): a sample is shown; the trip, the lowered term, the throttle input and the loss
of a channel's link act at once; the powered time is saved, unless the history takes no more records (R499). -/
def Obligations.PowerConditions : Prop :=
  ∀ s : State,
    (∀ r, dictAnswers s = true → bootStage s ≠ bsRecovery → ∃ t, exec (.sensorSample r) s = .next t ∧
      t.power.samples = s.power.samples + 1 ∧ dget t 0x2110 6 = min r.watts 0xFFFF ∧ t.mem = s.mem ∧ t.queues = s.queues) ∧
    (s.pins.inputOn = true → bootStage s ≠ bsLost → ∃ t, exec .backstopTrip s = .next t ∧ t.pins.thermTrip = true ∧
      bootStage t = if bsMemoryPower ≤ bootStage s then bsPoweringDown else bsLost) ∧
    (s.pins.inputOn = true → bootStage s = bsLost →
      exec .backstopTrip s = .next { s with pins := { s.pins with thermTrip := true } }) ∧
    (dictAnswers s = true → bootStage s ≠ bsRecovery → s.power.lastStep + ms 10 ≤ s.now →
      let v := s.power.thermal.getD (classLimit s)
      (v ≤ dget s 0x2100 4 → s.power.dieHot = true ∨ s.power.stackHot = true → ∃ t, exec .thermalTermStep s = .next t ∧
        t.power.thermal = some (max 1500 (v - 100)) ∧ t.power.lastStep = s.now) ∧
      (dget s 0x2100 4 < v → exec .thermalTermStep s = .next { s with power := { s.power with lastStep := s.now } })) ∧
    (∀ low width, s.pins.inputOn = true → s.pins.throttleLow ≠ low → 10000 ≤ width →
      ∃ t, exec (.throttleN low width) s = .next t ∧ t.pins.throttleLow = low ∧
        t.power.throttle = (if low then some s.now else none) ∧ (low = true → Counted s t 0x2D70 2)) ∧
    (∀ x, s.power.throttle = some x → s.power.throttleLogged = false → x + ms 60000 ≤ s.now → dictAnswers s = true →
      bootStage s ≠ bsRecovery → ∃ t, exec .throttleHeldLog s = .next t ∧ t.power = { s.power with throttleLogged := true } ∧
        t.queues = s.queues) ∧
    (powerStopped s = true → exec .poweredTimeSave s = .next s) ∧
    (powerStopped s = false → ∃ t, exec .poweredTimeSave s = .next t ∧ t.powerSaved = poweredMs s ∧ t.mem = s.mem ∧ t.queues = s.queues) ∧
    (∀ q, q < 2048 → bsMemoryPower ≤ bootStage s → bootStage s ≤ bsReady → q ∈ fusedChannels s →
      ∃ t, exec (.channelLinkLoss q) s = .next t ∧ retireMarked t q = true ∧ t.sinceTest = true ∧
        ∀ h ∈ liveHeats s, (getHeat t h).contained = true)

/-! ## The object dictionary -/

/-- Writes of one entry (R484 to R488, R298, R338, R400, R421, R486, R510 to R512): a write that a check rejects is answered with its abort
code and changes nothing; each row's accepted write does what its entry says and is answered. The model's own choices: what 0x2A10:06
does where nothing has been received (log entry 77), that a save by another path than STORE_ALL succeeds (log entry 78), and that a
chip number on a setter is its setter's chip too (log entry 79). -/
def Obligations.DictionaryWrites : Prop :=
  ∀ (s : State) (path : Path) (v : Nat) (l : List Byte) (w : W32) (ok : Bool), directPath path →
    let did (t : State) (ab : Nat) : Prop :=
      Answered t path ab ∧ t.mem = s.mem ∧ t.cores = s.cores ∧ t.clusters = s.clusters ∧ t.transfers = s.transfers
    (∀ r ∈ entryRows path v l w ok, dictAnswers s = true → writeFault s path r.2.1 r.2.2.1 r.2.2.2 ≠ 0 →
      exec r.1 s = .next (emit s (directOut s path (writeFault s path r.2.1 r.2.2.1 r.2.2.2) []))) ∧
    (∀ p, p < 32 → writeOpen s path (0x2300 + p) 8 (sentBytes 1 v) →
      ∃ t, exec (.portControl path p v) s = .next t ∧ did t 0 ∧ dget t (0x2300 + p) 8 = v) ∧
    (writeOpen s path 0x2320 8 (sentBytes 2 v) → ∃ t, exec (.chipNumber path v) s = .next t ∧ did t 0 ∧
      dget t 0x2320 8 = v ∧ t.plans = [] ∧ ∀ p ∈ trainedPorts s, (getPort t p).owes = true) ∧
    (writeOpen s path 0x2100 1 (sentBytes 1 v) → ∃ t, exec (.powerClass path v) s = .next t ∧ did t 0 ∧
      dget t 0x2100 1 = v ∧ dget t 0x2100 2 = (if v = 1 then 4000 else 5600) ∧
      t = { s with dict := t.dict, dom := t.dom, power := t.power, seq := t.seq, freeCtr := t.freeCtr, out := t.out }) ∧
    (writeOpen s path 0x2200 1 (sentBytes 1 v) → ∃ t, exec (.paceRole path v) s = .next t ∧ did t 0 ∧ dget t 0x2200 1 = v) ∧
    (writeOpen s path 0x2A00 5 l → ∃ t, exec (.quoteNonce path l) s = .next t ∧ did t 0 ∧
      t = { s with nonce := some l, quote := [], out := t.out }) ∧
    (writeOpen s path 0x2B00 3 l → ∃ t, exec (.unlockToken path l) s = .next t ∧ did t (if tokenOk s l then 0 else abToken) ∧
      dget t 0x2B00 1 = (if tokenOk s l then 1 else dget s 0x2B00 1) ∧ t.token = (if tokenOk s l then l else s.token) ∧
      t.extest = if tokenOk s l && !tokExtest (tokenBody l) then none else s.extest) ∧
    (writeOpen s path 0x2B00 4 (sentBytes 1 v) → ∃ t, exec (.relock path v) s = .next t ∧ did t 0 ∧ dget t 0x2B00 1 = 0 ∧
      t.token = [] ∧ t.extest = none) ∧
    (writeOpen s path 0x2A10 5 l → ∃ t, exec (.updateImage path l) s = .next t ∧ did t 0 ∧ t.image = l ∧
      dget t 0x2A10 7 = upReceiving ∧ t = { s with image := l, dict := t.dict, out := t.out }) ∧
    (writeOpen s path 0x2A10 6 [1#8] →
      (dget s 0x2A10 7 = upReceiving → bootStage s ≠ bsRecovery ∨ s.store = [] →
        ∃ t, exec (.verifyAndWrite path) s = .next t ∧ did t 0 ∧ t.image = [] ∧
        dget t 0x2A10 8 = imageFault s s.image ∧
        dget t 0x2A10 7 = (if imageFault s s.image = 0 then upWriting else upFailed) ∧
        t.writing = (if imageFault s s.image = 0 then some (firmwareOf s.image) else s.writing) ∧
        (bootStage s = bsRecovery → imageFault s s.image = 0 →
          t.running = firmwareOf s.image ∧ bootStage t = if fuseMapOk s then bsStandby else bsLost)) ∧
      (dget s 0x2A10 7 ≠ upReceiving → exec (.verifyAndWrite path) s = .next (emit s (directOut s path abState [])))) ∧
    (writeOpen s path 0x2A10 6 [2#8] →
      (dget s 0x2A10 7 = upReceiving → ∃ t, exec (.discard path) s = .next t ∧ did t 0 ∧ dget t 0x2A10 7 = upIdle ∧
        t = { s with image := [], dict := t.dict, out := t.out }) ∧
      (dget s 0x2A10 7 ≠ upReceiving → exec (.discard path) s = .next (emit s (directOut s path 0 [])))) ∧
    (writeOpen s path 0x1011 1 (bytesOf 4 w.toNat) →
      ∃ t, exec (.restoreDefaults path w) s = .next t ∧ did t (if w.toNat = 0x64616F6C then 0 else abStore) ∧
        t.store = if w.toNat = 0x64616F6C then [] else s.store) ∧
    (writeOpen s path 0x1010 1 (bytesOf 4 w.toNat) →
      ∃ t, exec (.storeAll path w ok) s = .next t ∧ did t (if w.toNat = 0x65766173 ∧ ok = true then 0 else abStore) ∧
        t.store = if w.toNat = 0x65766173 ∧ ok = true then storeOf s else s.store) ∧
    (∀ i sub e, familyOf i ∈ [0x2010, 0x2402, 0x2440, 0x2510, 0x2530, 0x2610, 0x2720, 0x2800, 0x2900] → dictEntry i sub = some e →
      e.size ≠ 0 → writeOpen s path i sub l → ∃ t, exec (.registerWrite path (.dict i sub) l) s = .next t ∧ did t 0 ∧
        dget t i sub = natOfBytes l ∧ t = { s with dict := t.dict, out := t.out, heats := t.heats } ∧
        (familyOf i ≠ 0x2440 → t.heats = s.heats)) ∧
    (∀ k n, (program s k).isSome = true → n < 8 →
      let x := getVec s k
      let m := natOfBytes l
      EngineStep (.registerWrite path (.avl k) l) s k { x with avl := m % 2 ^ 32 } ∧
      EngineStep (.registerWrite path (.rngBase k) l) s k { x with rngBase := m % 2 ^ 64 } ∧
      EngineStep (.registerWrite path (.rngKey k) l) s k { x with rngKey := m % 2 ^ 32 } ∧
      EngineStep (.registerWrite path (.rngDraw k) l) s k { x with rngDraw := m % 2 ^ 32 } ∧
      EngineStep (.registerWrite path (.addr k n) l) s k { x with a := tabSet 0 x.a n (m % 2 ^ 64) }) ∧
    (∀ k c a n x, program s k = some c → ctlRead s k c a n = some x →
      ∃ t, exec (.registerWrite path (.load k a n) l) s = .next t ∧ t = { s with cores := t.cores } ∧ (getCore t k).loaded = x)

/-- UDP, CAN FD, the test port and what firmware does by itself (R422, R423, R425, R475 to R480, R510, R515, R535). A datagram is answered
from the management port's address for its client, a CAN message under the node's identifiers, and nothing leaves a node that is
bus-off.
The model's own choices: what WRITE_REPLY counts and what a new USDO write takes the place of (log entry 76), a journal that a failed
write leaves open with some of its SECTOR records (log entries 77 and 126), NMT reset node as a reset of communication (log entry 80),
BYPASS's bit (log entry 81), CAN identifiers and what one USDO message carries (log entry 125), which own address serves a client (log
entry 127), the levels that SAMPLE shifts out and their order (log entry 128), and that an operation of a reply is answered by its row's
kind (log entry 129). -/
def Obligations.ManagementPaths : Prop :=
  ∀ s : State,
    (∀ a p d l src, dictAnswers s = true → udpForm s a d l = true → mgmtSource s a = some src →
      let req := fld d 159 128
      let i := fld d 191 176
      let sub := fld d 175 168
      let u := dropTransfer s (.udp a p) i sub
      let sent (r : List Byte) : Out := .udp 7341 src a p r
      (udpOp d = 1 → keptReply s a p req = none → fld d 127 96 = 0 → (dictRead s (.udp a p) i sub).1 = 0 →
        ∃ t, exec (.udpRead a p d l) s = .next t ∧ t = { s with copies := t.copies, replies := t.replies, out := s.out ++ [sent
          (udpReply d 3 (dictRead s (.udp a p) i sub).2.length 0 ((dictRead s (.udp a p) i sub).2.take 1024))] }) ∧
      (udpOp d = 2 → keptReply s a p req = none → fld d 127 96 = 0 → fld d 200 200 = 1 →
        let ab := (dictWrite u (.udp a p) i sub l).2
        ∃ t, exec (.udpWrite a p d l) s = .next t ∧ t.out.getLast? =
          some (.udp 7341 ((mgmtSource t a).getD 0) a p (udpReply d 4 (if ab = 0 then l.length else 0) ab []))) ∧
      (udpOp d = 3 ∨ udpOp d = 4 → keptReply s a p req = none →
        (∃ t, exec (.udpRead a p d l) s = .next t ∧ t = { s with replies := t.replies, out := s.out ++ [sent (udpReply d 3 0 abCommand [])] }) ∧
        (∃ t, exec (.udpWrite a p d l) s = .next t ∧
          t = { s with replies := t.replies, out := s.out ++ [sent (udpReply d 4 0 abCommand [])] })) ∧
      (∀ r, keptReply s a p req = some r →
        (udpOp d = 1 → exec (.udpRead a p d l) s = .next (emit s (sent r))) ∧
        (udpOp d = 2 → exec (.udpWrite a p d l) s = .next (emit s (sent r))))) ∧
    (∀ a p d l, udpForm s a d l = false → exec (.udpRead a p d l) s = .next s ∧ exec (.udpWrite a p d l) s = .next s) ∧
    (∀ a p i sub x, openTransfer s (.udp a p) i sub = some x → x.last + oneSecond < s.now →
      ∃ t, exec (.udpTransferTimeout a p i sub) s = .next t ∧ openTransfer t (.udp a p) i sub = none ∧
        t = { s with transfers := t.transfers }) ∧
    (canServes s = true → ∀ c r,
      let path := Path.can c
      let got (ab n : Nat) (l : List Byte) : Out := .usdo (0x580 + s.canNode) c ab n l
      (r.valid = true → r.write = none → r.offset = 0 → ∃ t, exec (.usdo c r) s = .next t ∧
        t = { s with transfers := t.transfers, copies := t.copies, out := t.out } ∧
        let x := dictRead s path r.index r.sub
        (x.1 ≠ 0 → t.out = s.out ++ [got x.1 0 []]) ∧
        (x.1 = 0 → t.out = s.out ++ [got 0 x.2.length (x.2.take 56)] ∧
          (56 < x.2.length → ∀ s', s' = { t with now := s'.now } → s'.now ≤ s.now + oneSecond → canServes s' = true → ∀ r',
            r'.valid = true → r'.write = none → r'.index = r.index → r'.sub = r.sub → r'.offset = 56 →
            ∃ t', exec (.usdo c r') s' = .next t' ∧ t'.out = s'.out ++ [got 0 x.2.length ((x.2.drop 56).take 56)]))) ∧
      (r.valid = false → ∃ t, exec (.usdo c r) s = .next t ∧ Answered t path abCommand ∧
        t = { s with transfers := t.transfers, copies := t.copies, out := t.out }) ∧
      ((∃ x ∈ s.transfers, x.path = path ∧ x.last + oneSecond ≤ s.now) ∨ (∃ x ∈ s.copies, x.path = path ∧ x.taken + oneSecond ≤ s.now) →
        ∃ t, exec (.usdoTimeout c) s = .next t ∧ Answered t path abTransfer ∧ (∀ y ∈ t.transfers, y.path ≠ path) ∧
          ∀ y ∈ t.copies, y.path ≠ path)) ∧
    (dictAnswers s = true → s.busOff = false →
      (∀ node, node = 0 ∨ node = s.canNode → exec (.nmt 1 node) s = .next { s with canState := 5 } ∧
        exec (.nmt 2 node) s = .next { s with canState := 4 } ∧ exec (.nmt 128 node) s = .next { s with canState := 127 } ∧
        ∀ x, x = 129 ∨ x = 130 → ∃ t, exec (.nmt x node) s = .next t ∧ t.canState = 127 ∧ t.heats = s.heats ∧
          t.out = s.out ++ [.can (0x700 + t.canNode) "boot-up" [0#8]]) ∧
      (dget s 0x1017 0 ≠ 0 → s.beatAt + ms (dget s 0x1017 0) ≤ s.now →
        exec .heartbeat s = .next (emit { s with beatAt := s.now } (.can (0x700 + s.canNode) "heartbeat" [byte s.canState])))) ∧
    (s.busOff = true → exec .heartbeat s = .next s ∧ (∀ x node, exec (.nmt x node) s = .next s) ∧
      ∀ c r, exec (.usdo c r) s = .next s) ∧
    (∀ x, dictAnswers s = true → s.busOff ≠ x → ∃ t, exec (.canBusOffRecovery x) s = .next t ∧ t.busOff = x ∧
      t = { s with busOff := t.busOff, dict := t.dict } ∧ (x = true → Counted s t 0x2D70 6)) ∧
    (∀ f, s.writing = some f →
      (∃ t, exec (.updateWriteComplete true) s = .next t ∧ t.flash = f ∧ t.writing = none ∧ journalOpen t.journal = false ∧
        dget t 0x2A10 7 = upWritten) ∧
      (∃ t, exec (.updateWriteComplete false) s = .next t ∧ t.flash = s.flash ∧ t.writing = none ∧
        (journalOpen s.journal = true → journalOpen t.journal = true) ∧ dget t 0x2A10 7 = upFailed ∧ dget t 0x2A10 8 = 8)) ∧
    (∀ n, s.nonce = some n → dictAnswers s = true → bootStage s ≠ bsRecovery → ∃ t, exec .quoteReady s = .next t ∧
      t.nonce = none ∧ t.quote.take (n.length + 12) = n ++ bytesOf 2 (ownChip s) ++ bytesOf 6 (s.lap % 2 ^ 48) ++
        bytesOf 4 (dget s 0x2A00 7)) ∧
    (bootStage s = bsRecovery →
      let note : Out := .udp 7341 (mgmtLocal s) 0xFF020000000000000000000000000001 7341 (domGet s 0x2C00 9 ++ bytesOf 1 (dget s 0x2A10 8))
      (s.canState ≠ 4 → s.busOff = false → exec .recoveryAnnounce s =
        .next { s with out := s.out ++ [.emcy (0x80 + s.canNode) 0xFF10 (bytesOf 1 (dget s 0x2A10 8)), note] }) ∧
      (s.canState = 4 ∨ s.busOff = true → exec .recoveryAnnounce s = .next { s with out := s.out ++ [note] })) ∧
    (exec .bypass s = .next (emit { s with extest := none } (.jtag 1 0)) ∧
      (∃ v, exec .idcode s = .next (emit { s with extest := none } (.jtag 32 v))) ∧
      (∀ x, ∃ t v, exec (.samplePreload x) s = .next t ∧
        t = { s with preload := x, extest := none, freeCtr := t.freeCtr, out := s.out ++ [.jtag Config.scanLength v] }) ∧
      (testUnlocked s = true → tokExtest (tokenBody s.token) = true → liveHeats s = [] →
        exec .extest s = .next { s with extest := some s.preload }) ∧
      (testUnlocked s = false ∨ tokExtest (tokenBody s.token) = false ∨ liveHeats s ≠ [] → exec .extest s = exec .bypass s))

/-! ## Ethernet, Starter and storage -/

/-- Ethernet frames and links, and how sessions begin and end (R374, R384, R385): PAUSE and ARP, the link's state, the connection, HELLO,
AUTH, PING, CLOSE and the two time limits. The model's own choices: which frames are taken and answered, and how a PAUSE is measured
(log entries 90 and 108), what closes a session at HELLO or AUTH (log entry 84), and that a lost link leaves sessions open (log entry
85). -/
def Obligations.SessionsBeginAndEnd : Prop :=
  ∀ (s : State) (e : Nat), e < 2 →
    (ethLinkUp s e = true → ∀ f,
      (∀ x, pauseOf f = some x → ∃ t, exec (.ethernetFrame e f) s = .next t ∧ t.paused = setNth s.paused e (s.now + x) ∧
        t.out = s.out ++ (s.pausedOut.filter fun y => !portPaused t y.1).map (·.2) ∧
        t.pausedOut = (s.pausedOut.filter fun y => portPaused t y.1) ∧
        t = { s with paused := t.paused, out := t.out, pausedOut := t.pausedOut }) ∧
      (∀ b, pauseOf f = none → frameForPort s e f = true → admitFrame s e f = some (0x0806, b) → typeAt b 6 = 1 →
        some (sliceBytes b 24 4) = ipv4Of s e → ∃ t, exec (.ethernetFrame e f) s = .next t ∧
          t = { s with out := t.out, pausedOut := t.pausedOut } ∧ (portPaused s e = true → t.out = s.out) ∧
          LastSent t (.net e "frame" (ethFrame s e (sliceBytes b 8 6) 0x0806
            (hexBytes [0, 1, 8, 0, 6, 4, 0, 2] ++ macOf s e ++ sliceBytes b 24 4 ++ sliceBytes b 8 10)))) ∧
      (pauseOf f = none → frameForPort s e f = false ∨ admitFrame s e f = none → exec (.ethernetFrame e f) s = .next s)) ∧
    (linksUp s = true → laserReady s (32 + e) = true → dget s (0x2400 + e) 4 = 1 →
      ∃ t, exec (.ethernetLinkState e true) s = .next t ∧ ethLinkUp t e = true ∧
        t = { s with dict := t.dict, leases := t.leases, prefixes := t.prefixes, dhcpIds := t.dhcpIds, freeCtr := t.freeCtr,
                     out := t.out, pausedOut := t.pausedOut }) ∧
    (∃ t, exec (.ethernetLinkState e false) s = .next t ∧ ethLinkUp t e = false ∧
      t = { s with dict := t.dict, conns := t.conns } ∧ ∀ c ∈ t.conns, connEth s c = some e → c.up = false) ∧
    (ethLinkUp s e = true →
      (bootStage s = bsReady → dget s 0x2402 1 ≠ 0 → s.sessions.length < 64 → ∃ t, exec (.tcpConnection e 7340) s = .next t ∧
        getSession t s.nextSession = some { eth := e, since := s.now, last := s.now } ∧ t.nextSession = s.nextSession + 1) ∧
      (∀ p, p ≠ 7340 → exec (.tcpConnection e p) s = .next (emit s (.tcp e "rst" (segment s e (bytesOf 2 p)))))) ∧
    (∀ n x, getSession s n = some x →
      (∀ v nonce kem rcd, rcd.len ≤ maxRecord →
        (x.stage = 0 → v = 1 → nonce.length = 32 → kem.length = 1568 → x.recsOut < maxRecords →
          ∃ t, exec (.hello n v nonce kem rcd) s = .next t ∧ (∃ b wire, LastSent t (.starter n 2 rcd.req b wire)) ∧
            ∃ y, getSession t n = some y ∧ y.stage = 1 ∧ y.eth = x.eth ∧ y.recsOut = x.recsOut + 1) ∧
        (x.stage ≠ 0 ∨ v ≠ 1 → ∃ t, exec (.hello n v nonce kem rcd) s = .next t ∧ getSession t n = none)) ∧
      (∀ key sig rcd, rcd.len ≤ maxRecord → x.stage = 1 → x.recsOut < maxRecords → ∃ t, exec (.auth n true rcd key sig) s = .next t ∧
        getSession t n = match keyRights s key with
          | some r => if Config.falconVerify key x.transcript sig = true
            then some { x with stage := 2, rights := r, last := s.now, recsIn := x.recsIn + 1, recsOut := x.recsOut + 1 } else none
          | none => none) ∧
      (∀ key sig rcd, ∃ t, exec (.auth n false rcd key sig) s = .next t ∧ getSession t n = none) ∧
      (∃ t, exec (.close n) s = .next t ∧ getSession t n = none) ∧
      (x.stage < 2 → x.since + ms 5000 ≤ s.now → ∃ t, exec (.sessionSetupTimeout n) s = .next t ∧ getSession t n = none) ∧
      (x.stage = 2 → x.last + ms (1000 * dget s 0x2402 4) < s.now →
        ∃ t, exec (.sessionIdleTimeout n) s = .next t ∧ getSession t n = none) ∧
      (∀ req, x.stage = 2 → ethLinkUp s x.eth = true → x.recsIn + 1 < 2 ^ 32 → x.recsOut + 1 < 2 ^ 32 →
        ∃ t, exec (.ping n req) s = .next t ∧ Told t n req resOk 0 ∧
          t = { s with sessions := t.sessions, out := t.out, pausedOut := t.pausedOut }))

/-- R549: PLAN_REMOVE removes the installed TRANSIT plan that holds the given tag; where no TRANSIT plan holds it, it is answered with
PLAN_REJECTED and 0xFFFFFFFF, and nothing changes. -/
def Obligations.PlanRemoved : Prop :=
  ∀ (s : State) (n req tag : Nat), sessionOpen s n rightPlan →
    let hit (x : Installed) : Bool := x.plan.transit && x.plan.tag = tag
    (s.plans.any hit = true → ∃ t, exec (.planRemove n req tag) s = .next t ∧ t.plans = s.plans.filter (fun x => !hit x) ∧
      Told t n req resOk 0) ∧
    (s.plans.any hit = false → ∃ t, exec (.planRemove n req tag) s = .next t ∧ Told t n req resPlanRejected 0xFFFFFFFF ∧
      t = { s with sessions := t.sessions, out := t.out, pausedOut := t.pausedOut })

/-- Requests of a session (R386, R388 to R393, R461): without its right a message changes nothing; PLAN_SUBMIT of a TRANSIT plan and of
a HEAT plan (its refusals, its DICT writes, its claim), IMAGE_DATA, JOB_START, STATUS_REQ, the snapshot controls, SERVE_REQ and CANCEL do
what they ask and are answered. The model's own choices: the detail of each answer and the byte at which a plan is rejected (log entries
83 and 85), what a plan replaces (log entry 86), which prompt space is free (log entry 88), and the messages that are answered although
their request has ended (log entry 98). -/
def Obligations.StarterRequests : Prop :=
  ∀ (s : State) (n req h a : Nat) (d : List Byte) (l : List (Nat × Nat)) (p : BitVec 256) (w : W64),
    let kept (t : State) : Prop := t = { s with sessions := t.sessions, out := t.out, pausedOut := t.pausedOut }
    (∀ r ∈ rightRows n req h a d l p w, ∀ x, getSession s n = some x → x.stage = 2 → ethLinkUp s x.eth = true →
      x.recsIn + 1 < 2 ^ 32 → x.recsOut + 1 < 2 ^ 32 → bitOf x.rights r.2 = false →
      ∃ t, exec r.1 s = .next t ∧ kept t ∧ Told t n req resRights 0) ∧
    (sessionOpen s n rightSubmit ∨ sessionOpen s n rightPlan →
      (∀ e, decodePlan d = .error e → ∃ t, exec (.planSubmit n req d) s = .next t ∧ (e ≠ planHeadAt → kept t) ∧
        t.plans = s.plans ∧ t.mem = s.mem ∧ t.dict = s.dict ∧ t.conns = s.conns ∧ Told t n req resPlanRejected e) ∧
      (∀ r, decodePlan d = .ok r → r.plan.transit = false →
        let g := r.plan.heat
        let v := touchSession s n
        (claimedElse s g n = true → ∃ t, exec (.planSubmit n req d) s = .next t ∧ kept t ∧ Told t n req resBusy 1) ∧
        (claimedElse s g n = false → fabricFault v r = none → wholeFault v r.plan = false →
          (∀ e, tryWrites v (.starter n req) r.plan.writes = .error e →
            ∃ t, exec (.planSubmit n req d) s = .next t ∧ kept t ∧ Told t n req resDictAbort e) ∧
          (∀ u, tryWrites v (.starter n req) r.plan.writes = .ok u →
            (∀ e, rangeFault v r n = some e →
              ∃ t, exec (.planSubmit n req d) s = .next t ∧ kept t ∧ Told t n req resPlanRejected e) ∧
            (rangeFault v r n = none → getSession u n = getSession v n →
              ∃ t, exec (.planSubmit n req d) s = .next t ∧ Told t n req resOk 0 ∧
                (t.plans.getLast?).map (·.plan) = some r.plan ∧ (∀ j, dget t (hCfg g) j = dget u (hCfg g) j) ∧
                ((getHeat u g).st = .free → (getHeat t g).claim = some n))))) ∧
      (∀ r, decodePlan d = .ok r → r.plan.transit = true → fabricFault s r = none → wholeFault s r.plan = false →
        ∃ t, exec (.planSubmit n req d) s = .next t ∧ Told t n req resOk 0 ∧
          (t.plans.getLast?).map (·.plan) = some r.plan)) ∧
    (sessionOpen s n rightSubmit →
      (claimedPlan s n = none → ∃ t, exec (.imageData n req h a d) s = .next t ∧ kept t ∧ Told t n req resDictAbort abState) ∧
      (∀ x m, claimedPlan s n = some x → x.plan.images[h]? = some m → a + d.length ≤ m.bytes → s.errs = [] →
        imageWhole ((a, d.length) :: nth [] x.spans h) m.bytes = false →
        ∃ t, exec (.imageData n req h a d) s = .next t ∧ Told t n req resOk 0 ∧ Stored s t (m.dst + a) d) ∧
      (h < 16 → (getHeat s h).claim = none → ∃ t, exec (.jobStart n req h w) s = .next t ∧ kept t ∧
        Told t n req resDictAbort abState) ∧
      (h < 16 → (getHeat s h).claim = some n → (s.plans.any fun x => !x.plan.transit && x.plan.heat = h && x.matched.all id) = true →
        (getHeat s h).st = .free → bootStage s = bsReady → creationFault s h true = 0 →
        ∃ t, exec (.jobStart n req h w) s = .next t ∧ ((getHeat t h).st = .starting ∨ (getHeat t h).st = .running) ∧
          dget t (hCfg h) 0x0E = w.toNat)) ∧
    (sessionOpen s n rightStatus → l.length ≤ 256 → ∃ t b wire, exec (.statusReq n req l) s = .next t ∧ kept t ∧
      LastSent t (.starter n msgStatus req b wire)) ∧
    (sessionOpen s n rightSnapshot → h < 16 →
      ((getHeat s h).st = .running → s.lap < a → ∃ t, exec (.take n req h a) s = .next t ∧ (getHeat t h).take = some a ∧
        Told t n req resOk 0) ∧
      ((getHeat s h).st ≠ .free → ∃ t, exec (.snapshotCancel n req h) s = .next t ∧ (getHeat t h).take = none ∧
        Told t n req resOk 0) ∧
      ((getHeat s h).st = .running → ∃ t, exec (.restart n req h) s = .next t ∧ (getHeat t h).contained = true ∧
        Told t n req resOk 0) ∧
      ((getHeat s h).st = .restarting → creationFault s h false = 0 → discoveryOk s h = true →
        ∃ t, exec (.abandon n req h) s = .next t ∧ (getHeat t h).st = .running ∧ Told t n req resOk 0) ∧
      ((getHeat s h).st ≠ .free → a < 2 ^ 32 → ∃ t, exec (.period n req h a) s = .next t ∧ dget t (hSnap h) 1 = a ∧
        Told t n req resOk 0)) ∧
    (sessionOpen s n rightServe →
      (∀ prod o tokens, h < 16 → (getHeat s h).st = .running → s.errs = [] → (inboxFree s h).2 = some prod →
        promptPlace (inboxFree s h).1 h (4 * tokens.length) = some o → openRequests s n < 256 →
        ∃ t, exec (.serveReq n req h a p tokens) s = .next t ∧
          t.serves = s.serves ++ [{ heat := h, session := n, req := req, base := o, bytes := 4 * tokens.length }] ∧
          readNat t (inboxBase s h) 4 = (prod + 1) % 2 ^ 32 ∧
          readBytes t (inboxBase s h + 64 + 64 * (prod % 2 ^ inboxLog s h)) 64 =
            bytesOf 64 (inboxEntry (serveId n req) (dget s (netIdx h) 7 + o) tokens.length a inboxRequest p.toNat) ∧
          (dget s (netIdx h) 7 + o + 4 * tokens.length ≤ inboxBase s h →
            readBytes t (dget s (netIdx h) 7 + o) (4 * tokens.length) = tokens.flatMap fun x => bytesOf 4 x.toNat)) ∧
      (∀ x, (s.serves.find? fun x => x.session = n && x.req = a && !x.ended && !x.cancelled) = some x →
        (getHeat s x.heat).st ≠ .running → ∃ t, exec (.cancel n req a) s = .next t ∧ Told t n req resOk 0 ∧
          ∀ y ∈ t.serves, y.heat = x.heat → y.session = n → y.req = a → y.cancelled = true ∧ y.owed = true) ∧
      ((s.serves.find? fun x => x.session = n && x.req = a && !x.ended && !x.cancelled) = none →
        ∃ t, exec (.cancel n req a) s = .next t ∧ kept t ∧ Told t n req resBadMessage 8))

/-- The storage ring and the outbox (R377 to R383, R392): a request taken up is answered at once where it is bad or its target absent,
else carried as NVMe commands; a READ's data lands in memory; the completion record's sixteen bytes; a connection comes back, or its
target's work fails with ST_TARGET_LOST; the outbox's tokens go out as one TOKENS message and END and ERROR as SERVE_END. The model's own
choices: the answers the storage rules leave open (log entry 82), the outbox's gathering of tokens (log entry 89), the work of a
connection (log entry 110) and the PDUs that carry a command (log entry 124). -/
def Obligations.StorageAndOutbox : Prop :=
  ∀ (s : State) (h : Nat), s.errs = [] →
    let doneAt := (getHeat s h).stDone.getD 0
    let recorded (t : State) (k w status nvme : Nat) : Prop :=
      readBytes t (stBase s h + 64 + 64 * 2 ^ stLog s h + 16 * (k % 2 ^ stLog s h)) 16 =
        bytesOf 16 (stRecord w k (stLog s h) status nvme) ∧
      (getHeat t h).stDone = some (k + 1) ∧ Counted s t 0x2D40 4
    let noneWaits := ∀ y ∈ s.nvmes, y.heat = h → y.sent = true
    (∀ prod cons, h < 16 → stLog s h ≠ 0 → (getHeat s h).st = .running → inHeat s h (stBase s h) (stRingBytes (stLog s h)) = true →
      readNat s (stBase s h) 4 = prod → readNat s (stBase s h + 4) 4 = cons → aheadOf prod cons = 1 →
      let w := readNat s (stBase s h + 64 + 64 * (cons % 2 ^ stLog s h)) 64
      (badRequest w = true → noneWaits → ∃ t, exec (.storageRingPoll h) s = .next t ∧
        readNat t (stBase s h + 4) 4 = (cons + 1) % 2 ^ 32 ∧ recorded t ((getHeat s h).stDone.getD cons) w stBadRequest 0) ∧
      (badRequest w = false → noneWaits → targetOf s h (reqTarget w) = none → ∃ t, exec (.storageRingPoll h) s = .next t ∧
        readNat t (stBase s h + 4) 4 = (cons + 1) % 2 ^ 32 ∧ recorded t ((getHeat s h).stDone.getD cons) w stRange 0) ∧
      (∀ x, badRequest w = false → targetOf s h (reqTarget w) = some x → reqOp w = opFlush →
        ∃ t, exec (.storageRingPoll h) s = .next t ∧ readNat t (stBase s h + 4) 4 = (cons + 1) % 2 ^ 32 ∧
          t.storeReqs = s.storeReqs ++ [{ heat := h, index := cons, word := w, left := 1 }] ∧ t.nextNvme = s.nextNvme + 1)) ∧
    (∀ cmd x r data, (s.nvmes.find? fun y => y.heat = h && y.id = cmd && y.sent) = some x → x.orphan = false →
      (s.storeReqs.find? fun y => y.heat = h && y.index = x.req) = some r → x.op = opRead → 1 < r.left →
      ∃ t, exec (.nvmeCompletion h cmd 0 data) s = .next t ∧ Stored s t x.off (fitBytes x.bytes data) ∧
        ∀ y ∈ t.nvmes, y.id ≠ cmd) ∧
    (∀ cmd x r data status, (s.nvmes.find? fun y => y.heat = h && y.id = cmd && y.sent) = some x → x.orphan = false → noneWaits →
      (s.storeReqs.find? fun y => y.heat = h && y.index = x.req) = some r → r.left ≤ 1 → r.fail = none →
      ∃ t, exec (.nvmeCompletion h cmd status data) s = .next t ∧
        (status = 0 → recorded t doneAt r.word stOk 0) ∧ (status ≠ 0 → recorded t doneAt r.word stNvmeError status)) ∧
    (∀ slot c, (s.conns.find? fun c => c.heat = h && c.slot = slot) = some c →
      (c.up = false → ∀ e, connEth s c = some e → ethLinkUp s e = true →
        ∀ d, ∃ t, exec (.storageReconnect h slot (some d)) s = .next t ∧ connUp t h slot = true ∧ (c.was = true → Counted s t 0x2D40 5)) ∧
      (c.up = true → ∃ t, exec (.storageReconnect h slot none) s = .next t ∧ connUp t h slot = false) ∧
      (c.up = false → c.down + ms (1000 * dget s (netIdx h) 0x0B) ≤ s.now →
        ∃ t, exec (.storageTargetTimeout h slot) s = .next t ∧
          (∀ y ∈ t.nvmes, y.heat = h → y.slot = slot → y.orphan = true) ∧
          ∀ x r, (s.nvmes.filter fun y => y.heat = h && y.slot = slot && !y.orphan) = [x] →
            (s.storeReqs.find? fun y => y.heat = h && y.index = x.req) = some r → r.left ≤ 1 → r.fail = none →
            recorded t doneAt r.word stTargetLost 0)) ∧
    (∀ prod cons, h < 16 → dget s (netIdx h) 5 ≠ 0 → (getHeat s h).st = .running →
      (s.serves.any fun x => x.heat = h && x.owed) = false →
      let p := dget s (netIdx h) 5
      let base := dget s (netIdx h) 6
      inHeat s h base (64 + 16 * 2 ^ p) = true → readNat s base 4 = prod → readNat s (base + 4) 4 = cons →
      let entry (k : Nat) : Nat := readNat s (base + 64 + 16 * ((cons + k) % 2 ^ p)) 16
      let live (id : Nat) (x : Serve) : Prop :=
        ((heatServes s h).find? fun x => serveId x.session x.req = id && !x.ended) = some x ∧
        (∃ y, getSession s x.session = some y) ∧ ∀ y ∈ s.sessions, y.2.recsIn < maxRecords ∧ y.2.recsOut + 1 < maxRecords
      (0 < aheadOf prod cons → aheadOf prod cons ≤ 2 ^ p → ∃ t, exec (.outboxPoll h []) s = .next t ∧
        readNat t (base + 4) 4 = (cons + aheadOf prod cons) % 2 ^ 32 ∧
        (∀ id x, live id x → (∀ k < aheadOf prod cons, entry k / 2 ^ 64 = id ∧ bitsOf (entry k) 31 30 = 0) →
          (∃ wire, LastSent t (.starter (id / 2 ^ 32) msgTokens (id % 2 ^ 32) (bytesOf 4 (aheadOf prod cons) ++
            (List.range (aheadOf prod cons)).flatMap fun k => bytesOf 4 (bitsOf (entry k) 63 32)) wire)) ∧
          ∀ y ∈ t.serves, serveId y.session y.req = id →
            ∃ z ∈ s.serves, y = { z with sent := z.sent + aheadOf prod cons }) ∧
        (∀ id x kind, live id x → aheadOf prod cons = 1 → entry 0 / 2 ^ 64 = id → bitsOf (entry 0) 31 30 = kind →
          kind = 1 ∨ kind = 2 → x.cancelled = false →
          (∃ wire, LastSent t (.starter x.session msgServeEnd x.req (bytesOf 1 kind ++ bytesOf 4 x.sent) wire)) ∧
          ∀ y ∈ t.serves, y.heat = h → serveId y.session y.req = id → y.ended = true)) ∧
      (aheadOf prod cons = 0 → ∃ t, exec (.outboxPoll h []) s = .next t ∧ t.serves = s.serves ∧ t.mem = s.mem))
end

