-- ==== Sys2Proof/Laws/Tables.lean ====
section
/-! SUPPORT. Laws of sparse tables: every operation keeps the canonical form, and a read after a write gives what was written. -/

namespace Sys2Proof

variable {α β : Type}

theorem tabRisesFrom_mono {lo lo' : Nat} {t : Tab α} (h : tabRisesFrom lo t = true) (l : lo' ≤ lo) : tabRisesFrom lo' t = true := by
  cases t with
  | nil => rfl
  | cons e t => obtain ⟨j, v⟩ := e; simp [tabRisesFrom] at *; exact ⟨by omega, h.2⟩

theorem tabWfAbove_rises [DecidableEq α] {d : α} {lo : Nat} {t : Tab α} (h : tabWfAbove d lo t = true) : tabRisesFrom lo t = true := by
  induction t generalizing lo with
  | nil => rfl
  | cons e t ih => obtain ⟨j, v⟩ := e; simp [tabWfAbove, tabRisesFrom] at *; exact ⟨h.1.1, ih h.2⟩

theorem tabWf_rises [DecidableEq α] {d : α} {t : Tab α} (h : tabWf d t = true) : tabRises t = true := tabWfAbove_rises h

theorem tabWfAbove_mono [DecidableEq α] {d : α} {lo lo' : Nat} {t : Tab α} (h : tabWfAbove d lo t = true) (l : lo' ≤ lo) :
    tabWfAbove d lo' t = true := by
  cases t with
  | nil => rfl
  | cons e t => obtain ⟨j, v⟩ := e; simp [tabWfAbove] at *; exact ⟨⟨by omega, h.1.2⟩, h.2⟩

theorem filter_wfAbove [DecidableEq α] {d : α} {lo : Nat} {t : Tab α} (p : Nat × α → Bool) (h : tabWfAbove d lo t = true) :
    tabWfAbove d lo (t.filter p) = true := by
  induction t generalizing lo with
  | nil => rfl
  | cons e t ih =>
    obtain ⟨j, w⟩ := e
    simp only [tabWfAbove, Bool.and_eq_true, decide_eq_true_eq] at h
    simp only [List.filter_cons]
    split
    · simp only [tabWfAbove, Bool.and_eq_true, decide_eq_true_eq]; exact ⟨h.1, ih h.2⟩
    · exact tabWfAbove_mono (ih h.2) (by omega)

theorem filter_risesFrom {lo : Nat} {t : Tab α} (p : Nat × α → Bool) (h : tabRisesFrom lo t = true) :
    tabRisesFrom lo (t.filter p) = true := by
  induction t generalizing lo with
  | nil => rfl
  | cons e t ih =>
    obtain ⟨j, w⟩ := e
    simp only [tabRisesFrom, Bool.and_eq_true, decide_eq_true_eq] at h
    simp only [List.filter_cons]
    split
    · simp only [tabRisesFrom, Bool.and_eq_true, decide_eq_true_eq]; exact ⟨h.1, ih h.2⟩
    · exact tabRisesFrom_mono (ih h.2) (by omega)

theorem tabSet_wfAbove [DecidableEq α] {d : α} {lo k : Nat} {t : Tab α} {v : α} (h : tabWfAbove d lo t = true) (l : lo ≤ k) :
    tabWfAbove d lo (tabSet d t k v) = true := by
  induction t generalizing lo with
  | nil => by_cases e : v = d <;> simp [tabSet, tabWfAbove, e, l]
  | cons e t ih =>
    obtain ⟨j, w⟩ := e
    simp only [tabWfAbove, Bool.and_eq_true, decide_eq_true_eq] at h
    obtain ⟨⟨h1, h2⟩, h3⟩ := h
    simp only [tabSet]
    split
    · split
      · simp only [tabWfAbove, h1, h2, filter_wfAbove _ h3, tabDrop, decide_true, ne_eq, not_false_eq_true, Bool.and_self]
      · simp_all [tabWfAbove]
    · split
      · subst k
        split
        · exact tabWfAbove_mono (filter_wfAbove _ h3) (by omega)
        · simp_all [tabWfAbove]
      · simp only [tabWfAbove, Bool.and_eq_true, decide_eq_true_eq]
        exact ⟨⟨h1, h2⟩, ih h3 (by omega)⟩

theorem tabSet_risesFrom [DecidableEq α] {d : α} {lo k : Nat} {t : Tab α} {v : α} (h : tabRisesFrom lo t = true) (l : lo ≤ k) :
    tabRisesFrom lo (tabSet d t k v) = true := by
  induction t generalizing lo with
  | nil => by_cases e : v = d <;> simp [tabSet, tabRisesFrom, e, l]
  | cons e t ih =>
    obtain ⟨j, w⟩ := e
    simp only [tabRisesFrom, Bool.and_eq_true, decide_eq_true_eq] at h
    obtain ⟨h1, h3⟩ := h
    simp only [tabSet]
    split
    · split
      · simp only [tabRisesFrom, h1, filter_risesFrom _ h3, tabDrop, decide_true, Bool.and_self]
      · simp_all [tabRisesFrom]
    · split
      · subst k
        split
        · exact tabRisesFrom_mono (filter_risesFrom _ h3) (by omega)
        · simp_all [tabRisesFrom]
      · simp only [tabRisesFrom, Bool.and_eq_true, decide_eq_true_eq]
        exact ⟨h1, ih h3 (by omega)⟩

theorem tabSet_wf [DecidableEq α] {d : α} {t : Tab α} (h : tabWf d t = true) (k : Nat) (v : α) : tabWf d (tabSet d t k v) = true :=
  tabSet_wfAbove h (Nat.zero_le _)

theorem tabSet_rises [DecidableEq α] {t : Tab α} (d : α) (h : tabRises t = true) (k : Nat) (v : α) :
    tabRises (tabSet d t k v) = true :=
  tabSet_risesFrom h (Nat.zero_le _)

theorem filter_wf [DecidableEq α] {d : α} {t : Tab α} (p : Nat × α → Bool) (h : tabWf d t = true) : tabWf d (t.filter p) = true :=
  filter_wfAbove p h

theorem filter_rises {t : Tab α} (p : Nat × α → Bool) (h : tabRises t = true) : tabRises (t.filter p) = true :=
  filter_risesFrom p h

theorem tabDrop_wf [DecidableEq α] {d : α} {t : Tab α} (p : Nat → Bool) (h : tabWf d t = true) : tabWf d (tabDrop p t) = true :=
  filter_wf _ h

theorem tabDrop_rises {t : Tab α} (p : Nat → Bool) (h : tabRises t = true) : tabRises (tabDrop p t) = true := filter_rises _ h

theorem mapValues_risesFrom {lo : Nat} {t : Tab α} (f : Nat × α → β) (h : tabRisesFrom lo t = true) :
    tabRisesFrom lo (t.map fun x => (x.1, f x)) = true := by
  induction t generalizing lo with
  | nil => rfl
  | cons e t ih =>
    obtain ⟨j, w⟩ := e
    simp only [tabRisesFrom, List.map_cons, Bool.and_eq_true, decide_eq_true_eq] at *
    exact ⟨h.1, ih h.2⟩

theorem mapValues_rises {t : Tab α} (f : Nat × α → β) (h : tabRises t = true) : tabRises (t.map fun x => (x.1, f x)) = true :=
  mapValues_risesFrom f h

/-- Two tables one after the other, the keys of the second all at or above `mid`. -/
theorem append_wfAbove [DecidableEq α] {d : α} {lo mid : Nat} {t u : Tab α} (h : tabWfAbove d lo t = true)
    (k : ∀ x ∈ t, x.1 < mid) (g : tabWfAbove d mid u = true) (l : lo ≤ mid) : tabWfAbove d lo (t ++ u) = true := by
  induction t generalizing lo with
  | nil => exact tabWfAbove_mono g l
  | cons e t ih =>
    obtain ⟨j, w⟩ := e
    simp only [tabWfAbove, Bool.and_eq_true, decide_eq_true_eq, List.cons_append] at *
    refine ⟨h.1, ih h.2 (fun x hx => k x (List.mem_cons_of_mem _ hx)) ?_⟩
    exact k (j, w) List.mem_cons_self

theorem wfAbove_of_filter [DecidableEq α] {d : α} {lo m : Nat} {t : Tab α} (h : tabWfAbove d lo t = true) :
    tabWfAbove d m (t.filter fun x => decide (m ≤ x.1)) = true := by
  induction t generalizing lo with
  | nil => rfl
  | cons e t ih =>
    obtain ⟨j, w⟩ := e
    simp only [tabWfAbove, Bool.and_eq_true, decide_eq_true_eq] at h
    simp only [List.filter_cons]
    split
    · rename_i hm
      simp only [decide_eq_true_eq] at hm
      simp only [tabWfAbove, Bool.and_eq_true, decide_eq_true_eq]
      exact ⟨⟨hm, h.1.2⟩, filter_wfAbove _ h.2⟩
    · exact ih h.2

/-- The entries of a list of values from key `a` on, values `d` left out. -/
theorem filled_wfAbove [DecidableEq α] {d : α} {a k n : Nat} {l : List α} :
    tabWfAbove d (a + k) (((List.range' k n).zip l).filterMap fun x => if x.2 = d then none else some (a + x.1, x.2)) = true := by
  induction l generalizing k n with
  | nil => simp [tabWfAbove]
  | cons v l ih =>
    cases n with
    | zero => simp [tabWfAbove]
    | succ n =>
      have h := @ih (k + 1) n
      simp only [List.range'_succ, List.zip_cons_cons, List.filterMap_cons]
      by_cases e : v = d
      · simp only [e, if_true]
        exact tabWfAbove_mono h (by omega)
      · simp only [e, if_false, tabWfAbove, Bool.and_eq_true, decide_eq_true_eq]
        exact ⟨⟨Nat.le_refl _, by simpa using e⟩, by rw [Nat.add_assoc]; exact h⟩

/-- A range of keys replaced by a list of values. -/
theorem splice_wf [DecidableEq α] {d : α} {a n : Nat} {m : Tab α} {l : List α} (h : tabWf d m = true) :
    tabWf d ((m.filter fun x => x.1 < a) ++
      (((List.range n).zip l).filterMap fun x => if x.2 = d then none else some (a + x.1, x.2)) ++
      m.filter fun x => a + n ≤ x.1) = true := by
  unfold tabWf at *
  refine append_wfAbove (mid := a + n) ?_ ?_ (wfAbove_of_filter h) (Nat.zero_le _)
  · refine append_wfAbove (mid := a) (filter_wfAbove _ h) (fun x hx => ?_) ?_ (Nat.zero_le _)
    · simpa using (List.mem_filter.1 hx).2
    · rw [List.range_eq_range']; exact filled_wfAbove (k := 0)
  · intro x hx
    rcases List.mem_append.1 hx with hx | hx
    · have := (List.mem_filter.1 hx).2
      simp only [decide_eq_true_eq] at this
      omega
    · obtain ⟨y, hy, e⟩ := List.mem_filterMap.1 hx
      have := (List.of_mem_zip hy).1
      rw [List.mem_range] at this
      split at e
      · cases e
      · cases e; dsimp only; omega

/-! ## Reading after writing -/

@[simp] theorem tabGet_nil (d : α) (k : Nat) : tabGet d [] k = d := rfl

theorem tabGet_drop (d : α) (p : Nat → Bool) (t : Tab α) (k : Nat) : tabGet d (tabDrop p t) k = if p k then d else tabGet d t k := by
  induction t with
  | nil => simp [tabDrop]
  | cons e t ih =>
    obtain ⟨j, w⟩ := e
    simp only [tabDrop, List.filter_cons] at *
    by_cases c : p j
    · simp only [c, Bool.not_true, Bool.false_eq_true, if_false, ih, tabGet]
      by_cases f : j = k
      · subst f; simp [c]
      · simp [f]
    · simp only [c, Bool.not_false, if_true, tabGet, ih]
      by_cases f : j = k
      · subst f; simp [c]
      · simp [f]

/-- A read after a write. -/
theorem tabGet_tabSet [DecidableEq α] (d : α) (t : Tab α) (k i : Nat) (v : α) :
    tabGet d (tabSet d t k v) i = if i = k then v else tabGet d t i := by
  induction t with
  | nil => by_cases f : i = k <;> by_cases e : v = d <;> simp [tabSet, tabGet, e, f, Ne.symm]
  | cons e t ih =>
    obtain ⟨j, w⟩ := e
    have drop : tabGet d (tabDrop (· == k) t) i = if i = k then d else tabGet d t i := by
      rw [tabGet_drop]; simp
    simp only [tabSet]
    by_cases c : k < j
    · simp only [if_pos c]
      by_cases e : v = d
      · simp only [if_pos e, tabGet, drop]
        by_cases f : j = i
        · rw [if_pos f, if_neg (by omega), if_pos f]
        · simp only [if_neg f, e]
      · simp only [if_neg e, tabGet]
        by_cases f : i = k
        · rw [if_pos f.symm, if_pos f]
        · rw [if_neg (Ne.symm f), if_neg f]
    · simp only [if_neg c]
      by_cases g : k = j
      · subst g
        simp only [if_pos]
        by_cases e : v = d
        · simp only [if_pos e, drop, tabGet]
          by_cases f : i = k
          · rw [if_pos f, if_pos f, e]
          · rw [if_neg f, if_neg f, if_neg (Ne.symm f)]
        · simp only [if_neg e, tabGet]
          by_cases f : i = k
          · rw [if_pos f.symm, if_pos f]
          · rw [if_neg (Ne.symm f), if_neg f, if_neg (Ne.symm f)]
      · simp only [if_neg g, tabGet, ih]
        by_cases f : j = i
        · subst f; simp [Ne.symm g]
        · simp [f]

@[simp] theorem tabGet_tabSet_same [DecidableEq α] (d : α) (t : Tab α) (k : Nat) (v : α) : tabGet d (tabSet d t k v) k = v := by
  rw [tabGet_tabSet, if_pos rfl]

theorem tabGet_tabSet_ne [DecidableEq α] (d : α) (t : Tab α) {k i : Nat} (n : i ≠ k) (v : α) :
    tabGet d (tabSet d t k v) i = tabGet d t i := by rw [tabGet_tabSet, if_neg n]

end Sys2Proof
end

