-- ==== Sys2Proof/Laws/Keeps.lean ====
section
/-! SUPPORT. What every operation of the model keeps, as one relation between the state before and the state after. -/

namespace Sys2Proof.Machine

/-- What the machine never gives up: the commands that wait, sound tables, free values taken once, retired slots and channels,
sequence numbers of the log given once, and what has left the device. -/
structure Keeps (s t : State) : Prop where
  pending : t.pending = s.pending
  tables : s.tablesOk = true → t.tablesOk = true
  freeCtr : s.freeCtr ≤ t.freeCtr
  slots : ∀ p ∈ s.retiredSlots, p ∈ t.retiredSlots
  channels : ∀ q ∈ s.retiredChannels, q ∈ t.retiredChannels
  logNext : s.logNext ≤ t.logNext
  out : s.out <+: t.out

theorem Keeps.refl (s : State) : Keeps s s :=
  ⟨rfl, id, Nat.le_refl _, fun _ h => h, fun _ h => h, Nat.le_refl _, List.prefix_refl _⟩

theorem Keeps.trans {s t u : State} (h : Keeps s t) (g : Keeps t u) : Keeps s u :=
  ⟨g.pending.trans h.pending, fun x => g.tables (h.tables x), Nat.le_trans h.freeCtr g.freeCtr,
    fun p x => g.slots p (h.slots p x), fun p x => g.channels p (h.channels p x), Nat.le_trans h.logNext g.logNext,
    h.out.trans g.out⟩

/-- The tables of a sound state. -/
structure State.Tables (s : State) : Prop where
  mem : tabWf 0#8 s.mem = true
  errs : tabRises s.errs = true
  dict : tabRises s.dict = true
  dom : tabRises s.dom = true
  heats : tabRises s.heats = true
  queues : tabRises s.queues = true
  cores : tabRises s.cores = true
  clusters : tabRises s.clusters = true
  corePower : tabRises s.corePower = true
  ports : tabRises s.ports = true
  poolHead : tabRises s.poolHead = true
  sweeps : tabRises s.sweeps = true
  sessions : tabRises s.sessions = true
  serveHead : tabRises s.serveHead = true
  served : tabRises s.served = true

theorem State.tablesOk_iff (s : State) : s.tablesOk = true ↔ s.Tables := by
  simp only [State.tablesOk, Bool.and_eq_true, Memory.wf]
  constructor
  · rintro ⟨⟨⟨⟨⟨⟨⟨⟨⟨⟨⟨⟨⟨⟨m, h0⟩, h1⟩, h2⟩, h3⟩, h4⟩, h5⟩, h6⟩, h7⟩, h8⟩, h9⟩, h10⟩, h11⟩, h12⟩, h13⟩
    exact ⟨m, h0, h1, h2, h3, h4, h5, h6, h7, h8, h9, h10, h11, h12, h13⟩
  · intro h
    exact ⟨⟨⟨⟨⟨⟨⟨⟨⟨⟨⟨⟨⟨⟨h.mem, h.errs⟩, h.dict⟩, h.dom⟩, h.heats⟩, h.queues⟩, h.cores⟩, h.clusters⟩, h.corePower⟩, h.ports⟩, h.poolHead⟩, h.sweeps⟩, h.sessions⟩, h.serveHead⟩, h.served⟩

/-- A change of nothing that is kept. -/
theorem Keeps.upd {s t : State}
    {now' lap' phase' lapStarts' regained' blank' events' lostEvents' corrs' failedChannels' scrubbed' scrubBegan' plans'
     poweredBase' transients' txns' nextTxn' colls' early' allocs' lapStartAt' slew' slewed' slewFrac' beaconLap' beacon'
     paceIn' heldMem' log' lastMinor' history' histSector' histUsed' histSeq' powerSaved' lastC3' bootC3' readSeq'
     noticeSeq' notices' flash' journal' image' writing' running' strapped' startedAt' stageAt' logGap' markedSlots' wave'
     downTo' seq' pins' power' fullTest' sinceTest' untrained' store' storeHalf' transfers' copies' replies' canState'
     canNode' canRate' beatAt' busOff' trimRaise' planHour' measures' nonce' quote' token' nextSession' serves' nvmes'
     nextNvme' storeReqs' conns' fragments' paused' pausedOut' dhcpIds' leases' prefixes' preload' extest'}
    (h : Keeps s t) :
    Keeps s (State.mk
      t.pending now' lap' phase' lapStarts' regained' t.freeCtr t.mem blank' t.errs t.dict t.dom t.heats t.queues t.served
      t.cores t.clusters events' lostEvents' corrs' failedChannels' scrubbed' scrubBegan' plans' poweredBase' transients'
      t.retiredSlots t.corePower t.ports txns' nextTxn' colls' early' allocs' t.poolHead lapStartAt' slew' slewed'
      slewFrac' beaconLap' beacon' paceIn' heldMem' t.out log' t.logNext lastMinor' history' histSector' histUsed' histSeq'
      powerSaved' lastC3' bootC3' readSeq' noticeSeq' notices' flash' journal' image' writing' running' strapped'
      startedAt' stageAt' logGap' markedSlots' wave' downTo' seq' pins' power' fullTest' sinceTest' untrained'
      t.retiredChannels store' storeHalf' transfers' copies' replies' canState' canNode' canRate' beatAt' busOff' t.sweeps
      trimRaise' planHour' measures' nonce' quote' token' t.sessions nextSession' serves' t.serveHead nvmes' nextNvme'
      storeReqs' conns' fragments' paused' pausedOut' dhcpIds' leases' prefixes' preload' extest') :=
  h.trans ⟨rfl, id, Nat.le_refl _, fun _ h => h, fun _ h => h, Nat.le_refl _, List.prefix_refl _⟩

/-- More sent to the outside. -/
theorem Keeps.updOut {s t : State}
    {now' lap' phase' lapStarts' regained' blank' events' lostEvents' corrs' failedChannels' scrubbed' scrubBegan' plans'
     poweredBase' transients' txns' nextTxn' colls' early' allocs' lapStartAt' slew' slewed' slewFrac' beaconLap' beacon'
     paceIn' heldMem' out' log' lastMinor' history' histSector' histUsed' histSeq' powerSaved' lastC3' bootC3' readSeq'
     noticeSeq' notices' flash' journal' image' writing' running' strapped' startedAt' stageAt' logGap' markedSlots' wave'
     downTo' seq' pins' power' fullTest' sinceTest' untrained' store' storeHalf' transfers' copies' replies' canState'
     canNode' canRate' beatAt' busOff' trimRaise' planHour' measures' nonce' quote' token' nextSession' serves' nvmes'
     nextNvme' storeReqs' conns' fragments' paused' pausedOut' dhcpIds' leases' prefixes' preload' extest'}
    (h : Keeps s t)
    (e : t.out <+: out') :
    Keeps s (State.mk
      t.pending now' lap' phase' lapStarts' regained' t.freeCtr t.mem blank' t.errs t.dict t.dom t.heats t.queues t.served
      t.cores t.clusters events' lostEvents' corrs' failedChannels' scrubbed' scrubBegan' plans' poweredBase' transients'
      t.retiredSlots t.corePower t.ports txns' nextTxn' colls' early' allocs' t.poolHead lapStartAt' slew' slewed'
      slewFrac' beaconLap' beacon' paceIn' heldMem' out' log' t.logNext lastMinor' history' histSector' histUsed' histSeq'
      powerSaved' lastC3' bootC3' readSeq' noticeSeq' notices' flash' journal' image' writing' running' strapped'
      startedAt' stageAt' logGap' markedSlots' wave' downTo' seq' pins' power' fullTest' sinceTest' untrained'
      t.retiredChannels store' storeHalf' transfers' copies' replies' canState' canNode' canRate' beatAt' busOff' t.sweeps
      trimRaise' planHour' measures' nonce' quote' token' t.sessions nextSession' serves' t.serveHead nvmes' nextNvme'
      storeReqs' conns' fragments' paused' pausedOut' dhcpIds' leases' prefixes' preload' extest') :=
  h.trans ⟨rfl, id, Nat.le_refl _, fun _ h => h, fun _ h => h, Nat.le_refl _, e⟩

/-- Free values taken. -/
theorem Keeps.updFree {s t : State}
    {now' lap' phase' lapStarts' regained' freeCtr' blank' events' lostEvents' corrs' failedChannels' scrubbed' scrubBegan'
     plans' poweredBase' transients' txns' nextTxn' colls' early' allocs' lapStartAt' slew' slewed' slewFrac' beaconLap'
     beacon' paceIn' heldMem' log' lastMinor' history' histSector' histUsed' histSeq' powerSaved' lastC3' bootC3' readSeq'
     noticeSeq' notices' flash' journal' image' writing' running' strapped' startedAt' stageAt' logGap' markedSlots' wave'
     downTo' seq' pins' power' fullTest' sinceTest' untrained' store' storeHalf' transfers' copies' replies' canState'
     canNode' canRate' beatAt' busOff' trimRaise' planHour' measures' nonce' quote' token' nextSession' serves' nvmes'
     nextNvme' storeReqs' conns' fragments' paused' pausedOut' dhcpIds' leases' prefixes' preload' extest'}
    (h : Keeps s t)
    (e : t.freeCtr ≤ freeCtr') :
    Keeps s (State.mk
      t.pending now' lap' phase' lapStarts' regained' freeCtr' t.mem blank' t.errs t.dict t.dom t.heats t.queues t.served
      t.cores t.clusters events' lostEvents' corrs' failedChannels' scrubbed' scrubBegan' plans' poweredBase' transients'
      t.retiredSlots t.corePower t.ports txns' nextTxn' colls' early' allocs' t.poolHead lapStartAt' slew' slewed'
      slewFrac' beaconLap' beacon' paceIn' heldMem' t.out log' t.logNext lastMinor' history' histSector' histUsed' histSeq'
      powerSaved' lastC3' bootC3' readSeq' noticeSeq' notices' flash' journal' image' writing' running' strapped'
      startedAt' stageAt' logGap' markedSlots' wave' downTo' seq' pins' power' fullTest' sinceTest' untrained'
      t.retiredChannels store' storeHalf' transfers' copies' replies' canState' canNode' canRate' beatAt' busOff' t.sweeps
      trimRaise' planHour' measures' nonce' quote' token' t.sessions nextSession' serves' t.serveHead nvmes' nextNvme'
      storeReqs' conns' fragments' paused' pausedOut' dhcpIds' leases' prefixes' preload' extest') :=
  h.trans ⟨rfl, id, e, fun _ h => h, fun _ h => h, Nat.le_refl _, List.prefix_refl _⟩

/-- A change of `mem`. -/
theorem Keeps.updMem {s t : State}
    {now' lap' phase' lapStarts' regained' mem' blank' events' lostEvents' corrs' failedChannels' scrubbed' scrubBegan'
     plans' poweredBase' transients' txns' nextTxn' colls' early' allocs' lapStartAt' slew' slewed' slewFrac' beaconLap'
     beacon' paceIn' heldMem' log' lastMinor' history' histSector' histUsed' histSeq' powerSaved' lastC3' bootC3' readSeq'
     noticeSeq' notices' flash' journal' image' writing' running' strapped' startedAt' stageAt' logGap' markedSlots' wave'
     downTo' seq' pins' power' fullTest' sinceTest' untrained' store' storeHalf' transfers' copies' replies' canState'
     canNode' canRate' beatAt' busOff' trimRaise' planHour' measures' nonce' quote' token' nextSession' serves' nvmes'
     nextNvme' storeReqs' conns' fragments' paused' pausedOut' dhcpIds' leases' prefixes' preload' extest'}
    (h : Keeps s t)
    (e : tabWf 0#8 t.mem = true → tabWf 0#8 mem' = true) :
    Keeps s (State.mk
      t.pending now' lap' phase' lapStarts' regained' t.freeCtr mem' blank' t.errs t.dict t.dom t.heats t.queues t.served
      t.cores t.clusters events' lostEvents' corrs' failedChannels' scrubbed' scrubBegan' plans' poweredBase' transients'
      t.retiredSlots t.corePower t.ports txns' nextTxn' colls' early' allocs' t.poolHead lapStartAt' slew' slewed'
      slewFrac' beaconLap' beacon' paceIn' heldMem' t.out log' t.logNext lastMinor' history' histSector' histUsed' histSeq'
      powerSaved' lastC3' bootC3' readSeq' noticeSeq' notices' flash' journal' image' writing' running' strapped'
      startedAt' stageAt' logGap' markedSlots' wave' downTo' seq' pins' power' fullTest' sinceTest' untrained'
      t.retiredChannels store' storeHalf' transfers' copies' replies' canState' canNode' canRate' beatAt' busOff' t.sweeps
      trimRaise' planHour' measures' nonce' quote' token' t.sessions nextSession' serves' t.serveHead nvmes' nextNvme'
      storeReqs' conns' fragments' paused' pausedOut' dhcpIds' leases' prefixes' preload' extest') :=
  h.trans ⟨rfl, fun x => (State.tablesOk_iff _).2 (let y := (State.tablesOk_iff _).1 x; by exact ⟨e y.mem, y.errs, y.dict, y.dom, y.heats, y.queues, y.cores, y.clusters, y.corePower, y.ports, y.poolHead, y.sweeps, y.sessions, y.serveHead, y.served⟩),
    Nat.le_refl _, fun _ h => h, fun _ h => h, Nat.le_refl _, List.prefix_refl _⟩

/-- A change of `errs`. -/
theorem Keeps.updErrs {s t : State}
    {now' lap' phase' lapStarts' regained' blank' errs' events' lostEvents' corrs' failedChannels' scrubbed' scrubBegan'
     plans' poweredBase' transients' txns' nextTxn' colls' early' allocs' lapStartAt' slew' slewed' slewFrac' beaconLap'
     beacon' paceIn' heldMem' log' lastMinor' history' histSector' histUsed' histSeq' powerSaved' lastC3' bootC3' readSeq'
     noticeSeq' notices' flash' journal' image' writing' running' strapped' startedAt' stageAt' logGap' markedSlots' wave'
     downTo' seq' pins' power' fullTest' sinceTest' untrained' store' storeHalf' transfers' copies' replies' canState'
     canNode' canRate' beatAt' busOff' trimRaise' planHour' measures' nonce' quote' token' nextSession' serves' nvmes'
     nextNvme' storeReqs' conns' fragments' paused' pausedOut' dhcpIds' leases' prefixes' preload' extest'}
    (h : Keeps s t)
    (e : tabRises t.errs = true → tabRises errs' = true) :
    Keeps s (State.mk
      t.pending now' lap' phase' lapStarts' regained' t.freeCtr t.mem blank' errs' t.dict t.dom t.heats t.queues t.served
      t.cores t.clusters events' lostEvents' corrs' failedChannels' scrubbed' scrubBegan' plans' poweredBase' transients'
      t.retiredSlots t.corePower t.ports txns' nextTxn' colls' early' allocs' t.poolHead lapStartAt' slew' slewed'
      slewFrac' beaconLap' beacon' paceIn' heldMem' t.out log' t.logNext lastMinor' history' histSector' histUsed' histSeq'
      powerSaved' lastC3' bootC3' readSeq' noticeSeq' notices' flash' journal' image' writing' running' strapped'
      startedAt' stageAt' logGap' markedSlots' wave' downTo' seq' pins' power' fullTest' sinceTest' untrained'
      t.retiredChannels store' storeHalf' transfers' copies' replies' canState' canNode' canRate' beatAt' busOff' t.sweeps
      trimRaise' planHour' measures' nonce' quote' token' t.sessions nextSession' serves' t.serveHead nvmes' nextNvme'
      storeReqs' conns' fragments' paused' pausedOut' dhcpIds' leases' prefixes' preload' extest') :=
  h.trans ⟨rfl, fun x => (State.tablesOk_iff _).2 (let y := (State.tablesOk_iff _).1 x; by exact ⟨y.mem, e y.errs, y.dict, y.dom, y.heats, y.queues, y.cores, y.clusters, y.corePower, y.ports, y.poolHead, y.sweeps, y.sessions, y.serveHead, y.served⟩),
    Nat.le_refl _, fun _ h => h, fun _ h => h, Nat.le_refl _, List.prefix_refl _⟩

/-- A change of `dict`. -/
theorem Keeps.updDict {s t : State}
    {now' lap' phase' lapStarts' regained' blank' dict' events' lostEvents' corrs' failedChannels' scrubbed' scrubBegan'
     plans' poweredBase' transients' txns' nextTxn' colls' early' allocs' lapStartAt' slew' slewed' slewFrac' beaconLap'
     beacon' paceIn' heldMem' log' lastMinor' history' histSector' histUsed' histSeq' powerSaved' lastC3' bootC3' readSeq'
     noticeSeq' notices' flash' journal' image' writing' running' strapped' startedAt' stageAt' logGap' markedSlots' wave'
     downTo' seq' pins' power' fullTest' sinceTest' untrained' store' storeHalf' transfers' copies' replies' canState'
     canNode' canRate' beatAt' busOff' trimRaise' planHour' measures' nonce' quote' token' nextSession' serves' nvmes'
     nextNvme' storeReqs' conns' fragments' paused' pausedOut' dhcpIds' leases' prefixes' preload' extest'}
    (h : Keeps s t)
    (e : tabRises t.dict = true → tabRises dict' = true) :
    Keeps s (State.mk
      t.pending now' lap' phase' lapStarts' regained' t.freeCtr t.mem blank' t.errs dict' t.dom t.heats t.queues t.served
      t.cores t.clusters events' lostEvents' corrs' failedChannels' scrubbed' scrubBegan' plans' poweredBase' transients'
      t.retiredSlots t.corePower t.ports txns' nextTxn' colls' early' allocs' t.poolHead lapStartAt' slew' slewed'
      slewFrac' beaconLap' beacon' paceIn' heldMem' t.out log' t.logNext lastMinor' history' histSector' histUsed' histSeq'
      powerSaved' lastC3' bootC3' readSeq' noticeSeq' notices' flash' journal' image' writing' running' strapped'
      startedAt' stageAt' logGap' markedSlots' wave' downTo' seq' pins' power' fullTest' sinceTest' untrained'
      t.retiredChannels store' storeHalf' transfers' copies' replies' canState' canNode' canRate' beatAt' busOff' t.sweeps
      trimRaise' planHour' measures' nonce' quote' token' t.sessions nextSession' serves' t.serveHead nvmes' nextNvme'
      storeReqs' conns' fragments' paused' pausedOut' dhcpIds' leases' prefixes' preload' extest') :=
  h.trans ⟨rfl, fun x => (State.tablesOk_iff _).2 (let y := (State.tablesOk_iff _).1 x; by exact ⟨y.mem, y.errs, e y.dict, y.dom, y.heats, y.queues, y.cores, y.clusters, y.corePower, y.ports, y.poolHead, y.sweeps, y.sessions, y.serveHead, y.served⟩),
    Nat.le_refl _, fun _ h => h, fun _ h => h, Nat.le_refl _, List.prefix_refl _⟩

/-- A change of `dom`. -/
theorem Keeps.updDom {s t : State}
    {now' lap' phase' lapStarts' regained' blank' dom' events' lostEvents' corrs' failedChannels' scrubbed' scrubBegan'
     plans' poweredBase' transients' txns' nextTxn' colls' early' allocs' lapStartAt' slew' slewed' slewFrac' beaconLap'
     beacon' paceIn' heldMem' log' lastMinor' history' histSector' histUsed' histSeq' powerSaved' lastC3' bootC3' readSeq'
     noticeSeq' notices' flash' journal' image' writing' running' strapped' startedAt' stageAt' logGap' markedSlots' wave'
     downTo' seq' pins' power' fullTest' sinceTest' untrained' store' storeHalf' transfers' copies' replies' canState'
     canNode' canRate' beatAt' busOff' trimRaise' planHour' measures' nonce' quote' token' nextSession' serves' nvmes'
     nextNvme' storeReqs' conns' fragments' paused' pausedOut' dhcpIds' leases' prefixes' preload' extest'}
    (h : Keeps s t)
    (e : tabRises t.dom = true → tabRises dom' = true) :
    Keeps s (State.mk
      t.pending now' lap' phase' lapStarts' regained' t.freeCtr t.mem blank' t.errs t.dict dom' t.heats t.queues t.served
      t.cores t.clusters events' lostEvents' corrs' failedChannels' scrubbed' scrubBegan' plans' poweredBase' transients'
      t.retiredSlots t.corePower t.ports txns' nextTxn' colls' early' allocs' t.poolHead lapStartAt' slew' slewed'
      slewFrac' beaconLap' beacon' paceIn' heldMem' t.out log' t.logNext lastMinor' history' histSector' histUsed' histSeq'
      powerSaved' lastC3' bootC3' readSeq' noticeSeq' notices' flash' journal' image' writing' running' strapped'
      startedAt' stageAt' logGap' markedSlots' wave' downTo' seq' pins' power' fullTest' sinceTest' untrained'
      t.retiredChannels store' storeHalf' transfers' copies' replies' canState' canNode' canRate' beatAt' busOff' t.sweeps
      trimRaise' planHour' measures' nonce' quote' token' t.sessions nextSession' serves' t.serveHead nvmes' nextNvme'
      storeReqs' conns' fragments' paused' pausedOut' dhcpIds' leases' prefixes' preload' extest') :=
  h.trans ⟨rfl, fun x => (State.tablesOk_iff _).2 (let y := (State.tablesOk_iff _).1 x; by exact ⟨y.mem, y.errs, y.dict, e y.dom, y.heats, y.queues, y.cores, y.clusters, y.corePower, y.ports, y.poolHead, y.sweeps, y.sessions, y.serveHead, y.served⟩),
    Nat.le_refl _, fun _ h => h, fun _ h => h, Nat.le_refl _, List.prefix_refl _⟩

/-- A change of `heats`. -/
theorem Keeps.updHeats {s t : State}
    {now' lap' phase' lapStarts' regained' blank' heats' events' lostEvents' corrs' failedChannels' scrubbed' scrubBegan'
     plans' poweredBase' transients' txns' nextTxn' colls' early' allocs' lapStartAt' slew' slewed' slewFrac' beaconLap'
     beacon' paceIn' heldMem' log' lastMinor' history' histSector' histUsed' histSeq' powerSaved' lastC3' bootC3' readSeq'
     noticeSeq' notices' flash' journal' image' writing' running' strapped' startedAt' stageAt' logGap' markedSlots' wave'
     downTo' seq' pins' power' fullTest' sinceTest' untrained' store' storeHalf' transfers' copies' replies' canState'
     canNode' canRate' beatAt' busOff' trimRaise' planHour' measures' nonce' quote' token' nextSession' serves' nvmes'
     nextNvme' storeReqs' conns' fragments' paused' pausedOut' dhcpIds' leases' prefixes' preload' extest'}
    (h : Keeps s t)
    (e : tabRises t.heats = true → tabRises heats' = true) :
    Keeps s (State.mk
      t.pending now' lap' phase' lapStarts' regained' t.freeCtr t.mem blank' t.errs t.dict t.dom heats' t.queues t.served
      t.cores t.clusters events' lostEvents' corrs' failedChannels' scrubbed' scrubBegan' plans' poweredBase' transients'
      t.retiredSlots t.corePower t.ports txns' nextTxn' colls' early' allocs' t.poolHead lapStartAt' slew' slewed'
      slewFrac' beaconLap' beacon' paceIn' heldMem' t.out log' t.logNext lastMinor' history' histSector' histUsed' histSeq'
      powerSaved' lastC3' bootC3' readSeq' noticeSeq' notices' flash' journal' image' writing' running' strapped'
      startedAt' stageAt' logGap' markedSlots' wave' downTo' seq' pins' power' fullTest' sinceTest' untrained'
      t.retiredChannels store' storeHalf' transfers' copies' replies' canState' canNode' canRate' beatAt' busOff' t.sweeps
      trimRaise' planHour' measures' nonce' quote' token' t.sessions nextSession' serves' t.serveHead nvmes' nextNvme'
      storeReqs' conns' fragments' paused' pausedOut' dhcpIds' leases' prefixes' preload' extest') :=
  h.trans ⟨rfl, fun x => (State.tablesOk_iff _).2 (let y := (State.tablesOk_iff _).1 x; by exact ⟨y.mem, y.errs, y.dict, y.dom, e y.heats, y.queues, y.cores, y.clusters, y.corePower, y.ports, y.poolHead, y.sweeps, y.sessions, y.serveHead, y.served⟩),
    Nat.le_refl _, fun _ h => h, fun _ h => h, Nat.le_refl _, List.prefix_refl _⟩

/-- A change of `queues`. -/
theorem Keeps.updQueues {s t : State}
    {now' lap' phase' lapStarts' regained' blank' queues' events' lostEvents' corrs' failedChannels' scrubbed' scrubBegan'
     plans' poweredBase' transients' txns' nextTxn' colls' early' allocs' lapStartAt' slew' slewed' slewFrac' beaconLap'
     beacon' paceIn' heldMem' log' lastMinor' history' histSector' histUsed' histSeq' powerSaved' lastC3' bootC3' readSeq'
     noticeSeq' notices' flash' journal' image' writing' running' strapped' startedAt' stageAt' logGap' markedSlots' wave'
     downTo' seq' pins' power' fullTest' sinceTest' untrained' store' storeHalf' transfers' copies' replies' canState'
     canNode' canRate' beatAt' busOff' trimRaise' planHour' measures' nonce' quote' token' nextSession' serves' nvmes'
     nextNvme' storeReqs' conns' fragments' paused' pausedOut' dhcpIds' leases' prefixes' preload' extest'}
    (h : Keeps s t)
    (e : tabRises t.queues = true → tabRises queues' = true) :
    Keeps s (State.mk
      t.pending now' lap' phase' lapStarts' regained' t.freeCtr t.mem blank' t.errs t.dict t.dom t.heats queues' t.served
      t.cores t.clusters events' lostEvents' corrs' failedChannels' scrubbed' scrubBegan' plans' poweredBase' transients'
      t.retiredSlots t.corePower t.ports txns' nextTxn' colls' early' allocs' t.poolHead lapStartAt' slew' slewed'
      slewFrac' beaconLap' beacon' paceIn' heldMem' t.out log' t.logNext lastMinor' history' histSector' histUsed' histSeq'
      powerSaved' lastC3' bootC3' readSeq' noticeSeq' notices' flash' journal' image' writing' running' strapped'
      startedAt' stageAt' logGap' markedSlots' wave' downTo' seq' pins' power' fullTest' sinceTest' untrained'
      t.retiredChannels store' storeHalf' transfers' copies' replies' canState' canNode' canRate' beatAt' busOff' t.sweeps
      trimRaise' planHour' measures' nonce' quote' token' t.sessions nextSession' serves' t.serveHead nvmes' nextNvme'
      storeReqs' conns' fragments' paused' pausedOut' dhcpIds' leases' prefixes' preload' extest') :=
  h.trans ⟨rfl, fun x => (State.tablesOk_iff _).2 (let y := (State.tablesOk_iff _).1 x; by exact ⟨y.mem, y.errs, y.dict, y.dom, y.heats, e y.queues, y.cores, y.clusters, y.corePower, y.ports, y.poolHead, y.sweeps, y.sessions, y.serveHead, y.served⟩),
    Nat.le_refl _, fun _ h => h, fun _ h => h, Nat.le_refl _, List.prefix_refl _⟩

/-- A change of `cores`. -/
theorem Keeps.updCores {s t : State}
    {now' lap' phase' lapStarts' regained' blank' cores' events' lostEvents' corrs' failedChannels' scrubbed' scrubBegan'
     plans' poweredBase' transients' txns' nextTxn' colls' early' allocs' lapStartAt' slew' slewed' slewFrac' beaconLap'
     beacon' paceIn' heldMem' log' lastMinor' history' histSector' histUsed' histSeq' powerSaved' lastC3' bootC3' readSeq'
     noticeSeq' notices' flash' journal' image' writing' running' strapped' startedAt' stageAt' logGap' markedSlots' wave'
     downTo' seq' pins' power' fullTest' sinceTest' untrained' store' storeHalf' transfers' copies' replies' canState'
     canNode' canRate' beatAt' busOff' trimRaise' planHour' measures' nonce' quote' token' nextSession' serves' nvmes'
     nextNvme' storeReqs' conns' fragments' paused' pausedOut' dhcpIds' leases' prefixes' preload' extest'}
    (h : Keeps s t)
    (e : tabRises t.cores = true → tabRises cores' = true) :
    Keeps s (State.mk
      t.pending now' lap' phase' lapStarts' regained' t.freeCtr t.mem blank' t.errs t.dict t.dom t.heats t.queues t.served
      cores' t.clusters events' lostEvents' corrs' failedChannels' scrubbed' scrubBegan' plans' poweredBase' transients'
      t.retiredSlots t.corePower t.ports txns' nextTxn' colls' early' allocs' t.poolHead lapStartAt' slew' slewed'
      slewFrac' beaconLap' beacon' paceIn' heldMem' t.out log' t.logNext lastMinor' history' histSector' histUsed' histSeq'
      powerSaved' lastC3' bootC3' readSeq' noticeSeq' notices' flash' journal' image' writing' running' strapped'
      startedAt' stageAt' logGap' markedSlots' wave' downTo' seq' pins' power' fullTest' sinceTest' untrained'
      t.retiredChannels store' storeHalf' transfers' copies' replies' canState' canNode' canRate' beatAt' busOff' t.sweeps
      trimRaise' planHour' measures' nonce' quote' token' t.sessions nextSession' serves' t.serveHead nvmes' nextNvme'
      storeReqs' conns' fragments' paused' pausedOut' dhcpIds' leases' prefixes' preload' extest') :=
  h.trans ⟨rfl, fun x => (State.tablesOk_iff _).2 (let y := (State.tablesOk_iff _).1 x; by exact ⟨y.mem, y.errs, y.dict, y.dom, y.heats, y.queues, e y.cores, y.clusters, y.corePower, y.ports, y.poolHead, y.sweeps, y.sessions, y.serveHead, y.served⟩),
    Nat.le_refl _, fun _ h => h, fun _ h => h, Nat.le_refl _, List.prefix_refl _⟩

/-- A change of `clusters`. -/
theorem Keeps.updClusters {s t : State}
    {now' lap' phase' lapStarts' regained' blank' clusters' events' lostEvents' corrs' failedChannels' scrubbed'
     scrubBegan' plans' poweredBase' transients' txns' nextTxn' colls' early' allocs' lapStartAt' slew' slewed' slewFrac'
     beaconLap' beacon' paceIn' heldMem' log' lastMinor' history' histSector' histUsed' histSeq' powerSaved' lastC3'
     bootC3' readSeq' noticeSeq' notices' flash' journal' image' writing' running' strapped' startedAt' stageAt' logGap'
     markedSlots' wave' downTo' seq' pins' power' fullTest' sinceTest' untrained' store' storeHalf' transfers' copies'
     replies' canState' canNode' canRate' beatAt' busOff' trimRaise' planHour' measures' nonce' quote' token' nextSession'
     serves' nvmes' nextNvme' storeReqs' conns' fragments' paused' pausedOut' dhcpIds' leases' prefixes' preload' extest'}
    (h : Keeps s t)
    (e : tabRises t.clusters = true → tabRises clusters' = true) :
    Keeps s (State.mk
      t.pending now' lap' phase' lapStarts' regained' t.freeCtr t.mem blank' t.errs t.dict t.dom t.heats t.queues t.served
      t.cores clusters' events' lostEvents' corrs' failedChannels' scrubbed' scrubBegan' plans' poweredBase' transients'
      t.retiredSlots t.corePower t.ports txns' nextTxn' colls' early' allocs' t.poolHead lapStartAt' slew' slewed'
      slewFrac' beaconLap' beacon' paceIn' heldMem' t.out log' t.logNext lastMinor' history' histSector' histUsed' histSeq'
      powerSaved' lastC3' bootC3' readSeq' noticeSeq' notices' flash' journal' image' writing' running' strapped'
      startedAt' stageAt' logGap' markedSlots' wave' downTo' seq' pins' power' fullTest' sinceTest' untrained'
      t.retiredChannels store' storeHalf' transfers' copies' replies' canState' canNode' canRate' beatAt' busOff' t.sweeps
      trimRaise' planHour' measures' nonce' quote' token' t.sessions nextSession' serves' t.serveHead nvmes' nextNvme'
      storeReqs' conns' fragments' paused' pausedOut' dhcpIds' leases' prefixes' preload' extest') :=
  h.trans ⟨rfl, fun x => (State.tablesOk_iff _).2 (let y := (State.tablesOk_iff _).1 x; by exact ⟨y.mem, y.errs, y.dict, y.dom, y.heats, y.queues, y.cores, e y.clusters, y.corePower, y.ports, y.poolHead, y.sweeps, y.sessions, y.serveHead, y.served⟩),
    Nat.le_refl _, fun _ h => h, fun _ h => h, Nat.le_refl _, List.prefix_refl _⟩

/-- A change of `corePower`. -/
theorem Keeps.updCorePower {s t : State}
    {now' lap' phase' lapStarts' regained' blank' events' lostEvents' corrs' failedChannels' scrubbed' scrubBegan' plans'
     poweredBase' transients' corePower' txns' nextTxn' colls' early' allocs' lapStartAt' slew' slewed' slewFrac'
     beaconLap' beacon' paceIn' heldMem' log' lastMinor' history' histSector' histUsed' histSeq' powerSaved' lastC3'
     bootC3' readSeq' noticeSeq' notices' flash' journal' image' writing' running' strapped' startedAt' stageAt' logGap'
     markedSlots' wave' downTo' seq' pins' power' fullTest' sinceTest' untrained' store' storeHalf' transfers' copies'
     replies' canState' canNode' canRate' beatAt' busOff' trimRaise' planHour' measures' nonce' quote' token' nextSession'
     serves' nvmes' nextNvme' storeReqs' conns' fragments' paused' pausedOut' dhcpIds' leases' prefixes' preload' extest'}
    (h : Keeps s t)
    (e : tabRises t.corePower = true → tabRises corePower' = true) :
    Keeps s (State.mk
      t.pending now' lap' phase' lapStarts' regained' t.freeCtr t.mem blank' t.errs t.dict t.dom t.heats t.queues t.served
      t.cores t.clusters events' lostEvents' corrs' failedChannels' scrubbed' scrubBegan' plans' poweredBase' transients'
      t.retiredSlots corePower' t.ports txns' nextTxn' colls' early' allocs' t.poolHead lapStartAt' slew' slewed' slewFrac'
      beaconLap' beacon' paceIn' heldMem' t.out log' t.logNext lastMinor' history' histSector' histUsed' histSeq'
      powerSaved' lastC3' bootC3' readSeq' noticeSeq' notices' flash' journal' image' writing' running' strapped'
      startedAt' stageAt' logGap' markedSlots' wave' downTo' seq' pins' power' fullTest' sinceTest' untrained'
      t.retiredChannels store' storeHalf' transfers' copies' replies' canState' canNode' canRate' beatAt' busOff' t.sweeps
      trimRaise' planHour' measures' nonce' quote' token' t.sessions nextSession' serves' t.serveHead nvmes' nextNvme'
      storeReqs' conns' fragments' paused' pausedOut' dhcpIds' leases' prefixes' preload' extest') :=
  h.trans ⟨rfl, fun x => (State.tablesOk_iff _).2 (let y := (State.tablesOk_iff _).1 x; by exact ⟨y.mem, y.errs, y.dict, y.dom, y.heats, y.queues, y.cores, y.clusters, e y.corePower, y.ports, y.poolHead, y.sweeps, y.sessions, y.serveHead, y.served⟩),
    Nat.le_refl _, fun _ h => h, fun _ h => h, Nat.le_refl _, List.prefix_refl _⟩

/-- A change of `ports`. -/
theorem Keeps.updPorts {s t : State}
    {now' lap' phase' lapStarts' regained' blank' events' lostEvents' corrs' failedChannels' scrubbed' scrubBegan' plans'
     poweredBase' transients' ports' txns' nextTxn' colls' early' allocs' lapStartAt' slew' slewed' slewFrac' beaconLap'
     beacon' paceIn' heldMem' log' lastMinor' history' histSector' histUsed' histSeq' powerSaved' lastC3' bootC3' readSeq'
     noticeSeq' notices' flash' journal' image' writing' running' strapped' startedAt' stageAt' logGap' markedSlots' wave'
     downTo' seq' pins' power' fullTest' sinceTest' untrained' store' storeHalf' transfers' copies' replies' canState'
     canNode' canRate' beatAt' busOff' trimRaise' planHour' measures' nonce' quote' token' nextSession' serves' nvmes'
     nextNvme' storeReqs' conns' fragments' paused' pausedOut' dhcpIds' leases' prefixes' preload' extest'}
    (h : Keeps s t)
    (e : tabRises t.ports = true → tabRises ports' = true) :
    Keeps s (State.mk
      t.pending now' lap' phase' lapStarts' regained' t.freeCtr t.mem blank' t.errs t.dict t.dom t.heats t.queues t.served
      t.cores t.clusters events' lostEvents' corrs' failedChannels' scrubbed' scrubBegan' plans' poweredBase' transients'
      t.retiredSlots t.corePower ports' txns' nextTxn' colls' early' allocs' t.poolHead lapStartAt' slew' slewed' slewFrac'
      beaconLap' beacon' paceIn' heldMem' t.out log' t.logNext lastMinor' history' histSector' histUsed' histSeq'
      powerSaved' lastC3' bootC3' readSeq' noticeSeq' notices' flash' journal' image' writing' running' strapped'
      startedAt' stageAt' logGap' markedSlots' wave' downTo' seq' pins' power' fullTest' sinceTest' untrained'
      t.retiredChannels store' storeHalf' transfers' copies' replies' canState' canNode' canRate' beatAt' busOff' t.sweeps
      trimRaise' planHour' measures' nonce' quote' token' t.sessions nextSession' serves' t.serveHead nvmes' nextNvme'
      storeReqs' conns' fragments' paused' pausedOut' dhcpIds' leases' prefixes' preload' extest') :=
  h.trans ⟨rfl, fun x => (State.tablesOk_iff _).2 (let y := (State.tablesOk_iff _).1 x; by exact ⟨y.mem, y.errs, y.dict, y.dom, y.heats, y.queues, y.cores, y.clusters, y.corePower, e y.ports, y.poolHead, y.sweeps, y.sessions, y.serveHead, y.served⟩),
    Nat.le_refl _, fun _ h => h, fun _ h => h, Nat.le_refl _, List.prefix_refl _⟩

/-- A change of `poolHead`. -/
theorem Keeps.updPoolHead {s t : State}
    {now' lap' phase' lapStarts' regained' blank' events' lostEvents' corrs' failedChannels' scrubbed' scrubBegan' plans'
     poweredBase' transients' txns' nextTxn' colls' early' allocs' poolHead' lapStartAt' slew' slewed' slewFrac' beaconLap'
     beacon' paceIn' heldMem' log' lastMinor' history' histSector' histUsed' histSeq' powerSaved' lastC3' bootC3' readSeq'
     noticeSeq' notices' flash' journal' image' writing' running' strapped' startedAt' stageAt' logGap' markedSlots' wave'
     downTo' seq' pins' power' fullTest' sinceTest' untrained' store' storeHalf' transfers' copies' replies' canState'
     canNode' canRate' beatAt' busOff' trimRaise' planHour' measures' nonce' quote' token' nextSession' serves' nvmes'
     nextNvme' storeReqs' conns' fragments' paused' pausedOut' dhcpIds' leases' prefixes' preload' extest'}
    (h : Keeps s t)
    (e : tabRises t.poolHead = true → tabRises poolHead' = true) :
    Keeps s (State.mk
      t.pending now' lap' phase' lapStarts' regained' t.freeCtr t.mem blank' t.errs t.dict t.dom t.heats t.queues t.served
      t.cores t.clusters events' lostEvents' corrs' failedChannels' scrubbed' scrubBegan' plans' poweredBase' transients'
      t.retiredSlots t.corePower t.ports txns' nextTxn' colls' early' allocs' poolHead' lapStartAt' slew' slewed' slewFrac'
      beaconLap' beacon' paceIn' heldMem' t.out log' t.logNext lastMinor' history' histSector' histUsed' histSeq'
      powerSaved' lastC3' bootC3' readSeq' noticeSeq' notices' flash' journal' image' writing' running' strapped'
      startedAt' stageAt' logGap' markedSlots' wave' downTo' seq' pins' power' fullTest' sinceTest' untrained'
      t.retiredChannels store' storeHalf' transfers' copies' replies' canState' canNode' canRate' beatAt' busOff' t.sweeps
      trimRaise' planHour' measures' nonce' quote' token' t.sessions nextSession' serves' t.serveHead nvmes' nextNvme'
      storeReqs' conns' fragments' paused' pausedOut' dhcpIds' leases' prefixes' preload' extest') :=
  h.trans ⟨rfl, fun x => (State.tablesOk_iff _).2 (let y := (State.tablesOk_iff _).1 x; by exact ⟨y.mem, y.errs, y.dict, y.dom, y.heats, y.queues, y.cores, y.clusters, y.corePower, y.ports, e y.poolHead, y.sweeps, y.sessions, y.serveHead, y.served⟩),
    Nat.le_refl _, fun _ h => h, fun _ h => h, Nat.le_refl _, List.prefix_refl _⟩

/-- A change of `sweeps`. -/
theorem Keeps.updSweeps {s t : State}
    {now' lap' phase' lapStarts' regained' blank' events' lostEvents' corrs' failedChannels' scrubbed' scrubBegan' plans'
     poweredBase' transients' txns' nextTxn' colls' early' allocs' lapStartAt' slew' slewed' slewFrac' beaconLap' beacon'
     paceIn' heldMem' log' lastMinor' history' histSector' histUsed' histSeq' powerSaved' lastC3' bootC3' readSeq'
     noticeSeq' notices' flash' journal' image' writing' running' strapped' startedAt' stageAt' logGap' markedSlots' wave'
     downTo' seq' pins' power' fullTest' sinceTest' untrained' store' storeHalf' transfers' copies' replies' canState'
     canNode' canRate' beatAt' busOff' sweeps' trimRaise' planHour' measures' nonce' quote' token' nextSession' serves'
     nvmes' nextNvme' storeReqs' conns' fragments' paused' pausedOut' dhcpIds' leases' prefixes' preload' extest'}
    (h : Keeps s t)
    (e : tabRises t.sweeps = true → tabRises sweeps' = true) :
    Keeps s (State.mk
      t.pending now' lap' phase' lapStarts' regained' t.freeCtr t.mem blank' t.errs t.dict t.dom t.heats t.queues t.served
      t.cores t.clusters events' lostEvents' corrs' failedChannels' scrubbed' scrubBegan' plans' poweredBase' transients'
      t.retiredSlots t.corePower t.ports txns' nextTxn' colls' early' allocs' t.poolHead lapStartAt' slew' slewed'
      slewFrac' beaconLap' beacon' paceIn' heldMem' t.out log' t.logNext lastMinor' history' histSector' histUsed' histSeq'
      powerSaved' lastC3' bootC3' readSeq' noticeSeq' notices' flash' journal' image' writing' running' strapped'
      startedAt' stageAt' logGap' markedSlots' wave' downTo' seq' pins' power' fullTest' sinceTest' untrained'
      t.retiredChannels store' storeHalf' transfers' copies' replies' canState' canNode' canRate' beatAt' busOff' sweeps'
      trimRaise' planHour' measures' nonce' quote' token' t.sessions nextSession' serves' t.serveHead nvmes' nextNvme'
      storeReqs' conns' fragments' paused' pausedOut' dhcpIds' leases' prefixes' preload' extest') :=
  h.trans ⟨rfl, fun x => (State.tablesOk_iff _).2 (let y := (State.tablesOk_iff _).1 x; by exact ⟨y.mem, y.errs, y.dict, y.dom, y.heats, y.queues, y.cores, y.clusters, y.corePower, y.ports, y.poolHead, e y.sweeps, y.sessions, y.serveHead, y.served⟩),
    Nat.le_refl _, fun _ h => h, fun _ h => h, Nat.le_refl _, List.prefix_refl _⟩

/-- A change of `sessions`. -/
theorem Keeps.updSessions {s t : State}
    {now' lap' phase' lapStarts' regained' blank' events' lostEvents' corrs' failedChannels' scrubbed' scrubBegan' plans'
     poweredBase' transients' txns' nextTxn' colls' early' allocs' lapStartAt' slew' slewed' slewFrac' beaconLap' beacon'
     paceIn' heldMem' log' lastMinor' history' histSector' histUsed' histSeq' powerSaved' lastC3' bootC3' readSeq'
     noticeSeq' notices' flash' journal' image' writing' running' strapped' startedAt' stageAt' logGap' markedSlots' wave'
     downTo' seq' pins' power' fullTest' sinceTest' untrained' store' storeHalf' transfers' copies' replies' canState'
     canNode' canRate' beatAt' busOff' trimRaise' planHour' measures' nonce' quote' token' sessions' nextSession' serves'
     nvmes' nextNvme' storeReqs' conns' fragments' paused' pausedOut' dhcpIds' leases' prefixes' preload' extest'}
    (h : Keeps s t)
    (e : tabRises t.sessions = true → tabRises sessions' = true) :
    Keeps s (State.mk
      t.pending now' lap' phase' lapStarts' regained' t.freeCtr t.mem blank' t.errs t.dict t.dom t.heats t.queues t.served
      t.cores t.clusters events' lostEvents' corrs' failedChannels' scrubbed' scrubBegan' plans' poweredBase' transients'
      t.retiredSlots t.corePower t.ports txns' nextTxn' colls' early' allocs' t.poolHead lapStartAt' slew' slewed'
      slewFrac' beaconLap' beacon' paceIn' heldMem' t.out log' t.logNext lastMinor' history' histSector' histUsed' histSeq'
      powerSaved' lastC3' bootC3' readSeq' noticeSeq' notices' flash' journal' image' writing' running' strapped'
      startedAt' stageAt' logGap' markedSlots' wave' downTo' seq' pins' power' fullTest' sinceTest' untrained'
      t.retiredChannels store' storeHalf' transfers' copies' replies' canState' canNode' canRate' beatAt' busOff' t.sweeps
      trimRaise' planHour' measures' nonce' quote' token' sessions' nextSession' serves' t.serveHead nvmes' nextNvme'
      storeReqs' conns' fragments' paused' pausedOut' dhcpIds' leases' prefixes' preload' extest') :=
  h.trans ⟨rfl, fun x => (State.tablesOk_iff _).2 (let y := (State.tablesOk_iff _).1 x; by exact ⟨y.mem, y.errs, y.dict, y.dom, y.heats, y.queues, y.cores, y.clusters, y.corePower, y.ports, y.poolHead, y.sweeps, e y.sessions, y.serveHead, y.served⟩),
    Nat.le_refl _, fun _ h => h, fun _ h => h, Nat.le_refl _, List.prefix_refl _⟩

/-- A change of `serveHead`. -/
theorem Keeps.updServeHead {s t : State}
    {now' lap' phase' lapStarts' regained' blank' events' lostEvents' corrs' failedChannels' scrubbed' scrubBegan' plans'
     poweredBase' transients' txns' nextTxn' colls' early' allocs' lapStartAt' slew' slewed' slewFrac' beaconLap' beacon'
     paceIn' heldMem' log' lastMinor' history' histSector' histUsed' histSeq' powerSaved' lastC3' bootC3' readSeq'
     noticeSeq' notices' flash' journal' image' writing' running' strapped' startedAt' stageAt' logGap' markedSlots' wave'
     downTo' seq' pins' power' fullTest' sinceTest' untrained' store' storeHalf' transfers' copies' replies' canState'
     canNode' canRate' beatAt' busOff' trimRaise' planHour' measures' nonce' quote' token' nextSession' serves' serveHead'
     nvmes' nextNvme' storeReqs' conns' fragments' paused' pausedOut' dhcpIds' leases' prefixes' preload' extest'}
    (h : Keeps s t)
    (e : tabRises t.serveHead = true → tabRises serveHead' = true) :
    Keeps s (State.mk
      t.pending now' lap' phase' lapStarts' regained' t.freeCtr t.mem blank' t.errs t.dict t.dom t.heats t.queues t.served
      t.cores t.clusters events' lostEvents' corrs' failedChannels' scrubbed' scrubBegan' plans' poweredBase' transients'
      t.retiredSlots t.corePower t.ports txns' nextTxn' colls' early' allocs' t.poolHead lapStartAt' slew' slewed'
      slewFrac' beaconLap' beacon' paceIn' heldMem' t.out log' t.logNext lastMinor' history' histSector' histUsed' histSeq'
      powerSaved' lastC3' bootC3' readSeq' noticeSeq' notices' flash' journal' image' writing' running' strapped'
      startedAt' stageAt' logGap' markedSlots' wave' downTo' seq' pins' power' fullTest' sinceTest' untrained'
      t.retiredChannels store' storeHalf' transfers' copies' replies' canState' canNode' canRate' beatAt' busOff' t.sweeps
      trimRaise' planHour' measures' nonce' quote' token' t.sessions nextSession' serves' serveHead' nvmes' nextNvme'
      storeReqs' conns' fragments' paused' pausedOut' dhcpIds' leases' prefixes' preload' extest') :=
  h.trans ⟨rfl, fun x => (State.tablesOk_iff _).2 (let y := (State.tablesOk_iff _).1 x; by exact ⟨y.mem, y.errs, y.dict, y.dom, y.heats, y.queues, y.cores, y.clusters, y.corePower, y.ports, y.poolHead, y.sweeps, y.sessions, e y.serveHead, y.served⟩),
    Nat.le_refl _, fun _ h => h, fun _ h => h, Nat.le_refl _, List.prefix_refl _⟩

/-- A change of `served`. -/
theorem Keeps.updServed {s t : State}
    {now' lap' phase' lapStarts' regained' blank' served' events' lostEvents' corrs' failedChannels' scrubbed' scrubBegan'
     plans' poweredBase' transients' txns' nextTxn' colls' early' allocs' lapStartAt' slew' slewed' slewFrac' beaconLap'
     beacon' paceIn' heldMem' log' lastMinor' history' histSector' histUsed' histSeq' powerSaved' lastC3' bootC3' readSeq'
     noticeSeq' notices' flash' journal' image' writing' running' strapped' startedAt' stageAt' logGap' markedSlots' wave'
     downTo' seq' pins' power' fullTest' sinceTest' untrained' store' storeHalf' transfers' copies' replies' canState'
     canNode' canRate' beatAt' busOff' trimRaise' planHour' measures' nonce' quote' token' nextSession' serves' nvmes'
     nextNvme' storeReqs' conns' fragments' paused' pausedOut' dhcpIds' leases' prefixes' preload' extest'}
    (h : Keeps s t)
    (e : tabRises t.served = true → tabRises served' = true) :
    Keeps s (State.mk
      t.pending now' lap' phase' lapStarts' regained' t.freeCtr t.mem blank' t.errs t.dict t.dom t.heats t.queues served'
      t.cores t.clusters events' lostEvents' corrs' failedChannels' scrubbed' scrubBegan' plans' poweredBase' transients'
      t.retiredSlots t.corePower t.ports txns' nextTxn' colls' early' allocs' t.poolHead lapStartAt' slew' slewed'
      slewFrac' beaconLap' beacon' paceIn' heldMem' t.out log' t.logNext lastMinor' history' histSector' histUsed' histSeq'
      powerSaved' lastC3' bootC3' readSeq' noticeSeq' notices' flash' journal' image' writing' running' strapped'
      startedAt' stageAt' logGap' markedSlots' wave' downTo' seq' pins' power' fullTest' sinceTest' untrained'
      t.retiredChannels store' storeHalf' transfers' copies' replies' canState' canNode' canRate' beatAt' busOff' t.sweeps
      trimRaise' planHour' measures' nonce' quote' token' t.sessions nextSession' serves' t.serveHead nvmes' nextNvme'
      storeReqs' conns' fragments' paused' pausedOut' dhcpIds' leases' prefixes' preload' extest') :=
  h.trans ⟨rfl, fun x => (State.tablesOk_iff _).2 (let y := (State.tablesOk_iff _).1 x; by exact ⟨y.mem, y.errs, y.dict, y.dom, y.heats, y.queues, y.cores, y.clusters, y.corePower, y.ports, y.poolHead, y.sweeps, y.sessions, y.serveHead, e y.served⟩),
    Nat.le_refl _, fun _ h => h, fun _ h => h, Nat.le_refl _, List.prefix_refl _⟩

theorem keeps_ite {s a b : State} {c : Prop} [Decidable c] (h : Keeps s a) (g : Keeps s b) : Keeps s (if c then a else b) := by
  split <;> assumption

theorem keeps_ite_fst {s : State} {β : Type} {a b : State × β} {c : Prop} [Decidable c] (h : Keeps s a.1) (g : Keeps s b.1) :
    Keeps s (if c then a else b).1 := by
  split <;> assumption

theorem keeps_foldl {α : Type} {s t : State} {f : State → α → State} {l : List α} (h : Keeps s t)
    (g : ∀ u x, Keeps u (f u x)) : Keeps s (l.foldl f t) := by
  induction l generalizing t with
  | nil => exact h
  | cons x l ih => exact ih (h.trans (g t x))

theorem keeps_foldl_fst {α β : Type} {s : State} {a : State × β} {f : State × β → α → State × β} {l : List α} (h : Keeps s a.1)
    (g : ∀ u x, Keeps u.1 (f u x).1) : Keeps s (l.foldl f a).1 := by
  induction l generalizing a with
  | nil => exact h
  | cons x l ih => exact ih (h.trans (g a x))

/-- The command runs to a next state, and keeps what every command keeps. -/
def Runs (s : State) (o : Host.Outcome State Fault Refusal) : Prop := ∃ t, o = .next t ∧ Keeps s t

theorem runs_next {s t : State} (h : Keeps s t) : Runs s (.next t) := ⟨t, rfl, h⟩

theorem keeps_fst_of {s t : State} {β : Type} {r : State × β} {b : β} (h : Keeps s r.1) (e : r = (t, b)) : Keeps s t := by
  rw [e] at h; exact h

/-- What an instruction of the vector engine comes to keeps what every operation keeps. -/
def VKeeps (s : State) : VecRes → Prop
  | .stall t | .fault t _ | .ok t => Keeps s t

theorem VKeeps.of {s t : State} {r : VecRes} (h : Keeps s t) (g : VKeeps t r) : VKeeps s r := by
  cases r <;> exact h.trans g

theorem VKeeps.ok_of {s t : State} {r : VecRes} (h : VKeeps s r) (e : r = .ok t) : Keeps s t := by
  rw [e] at h; exact h

theorem VKeeps.stall_of {s t : State} {r : VecRes} (h : VKeeps s r) (e : r = .stall t) : Keeps s t := by
  rw [e] at h; exact h

theorem VKeeps.fault_of {s t : State} {r : VecRes} {c : Nat} (h : VKeeps s r) (e : r = .fault t c) : Keeps s t := by
  rw [e] at h; exact h

end Sys2Proof.Machine
end

