-- ==== Sys2Proof/Laws/KeepOps.lean ====
section
/-! SUPPORT. What the operations of Machine/Ops.lean keep. -/

namespace Sys2Proof.Machine

theorem freeBytes_keeps {s0 : State} {a0 : State} {a1 : ℕ} (h0 : Keeps s0 a0) : Keeps s0 (freeBytes a0 a1).2 := by
  unfold freeBytes
  exact (Keeps.updFree h0 (by omega))

theorem domSet_keeps {s0 : State} {a0 : State} {a1 : ℕ} {a2 : ℕ} {a3 : List Byte} (h0 : Keeps s0 a0) : Keeps s0 (domSet a0 a1 a2 a3) := by
  unfold domSet
  exact (Keeps.updDom h0 fun e => tabSet_rises _ e _ _)

theorem setCore_keeps {s0 : State} {a0 : State} {a1 : ℕ} {a2 : Core} (h0 : Keeps s0 a0) : Keeps s0 (setCore a0 a1 a2) := by
  unfold setCore
  exact (Keeps.updCores h0 fun e => tabSet_rises _ e _ _)

theorem putByte_keeps {s0 : State} {a0 : State} {a1 : ℕ} {a2 : Byte} (h0 : Keeps s0 a0) : Keeps s0 (putByte a0 a1 a2) := by
  unfold putByte
  exact (Keeps.updMem h0 fun e => tabSet_wf e _ _)

theorem xorSector_keeps {s0 : State} {a0 : State} {a1 : ℕ} {a2 : List (ℕ × Byte)} (h0 : Keeps s0 a0) : Keeps s0 (xorSector a0 a1 a2) := by
  unfold xorSector
  exact keeps_foldl h0 fun u v => keeps_ite (putByte_keeps (Keeps.refl _)) (Keeps.refl _)

theorem xorSector_errs (s : State) (a : ℕ) (e : List (ℕ × Byte)) : (xorSector s a e).errs = s.errs := by
  unfold xorSector
  induction e generalizing s with
  | nil => rfl
  | cons x l ih => rw [List.foldl_cons, ih]; split <;> rfl

theorem dset_keeps {s0 : State} {a0 : State} {a1 : ℕ} {a2 : ℕ} {a3 : ℕ} (h0 : Keeps s0 a0) : Keeps s0 (dset a0 a1 a2 a3) := by
  unfold dset
  exact (Keeps.updDict h0 fun e => tabSet_rises _ e _ _)

theorem dadd_keeps {s0 : State} {a0 : State} {a1 : ℕ} {a2 : ℕ} {a3 : ℕ} (h0 : Keeps s0 a0) : Keeps s0 (dadd a0 a1 a2 a3) := by
  unfold dadd
  exact (dset_keeps h0)

theorem domPut_keeps {s0 : State} {a0 : State} {a1 : ℕ} {a2 : ℕ} {a3 : ℕ} {a4 : ℕ} {a5 : ℕ} {a6 : ℕ} {a7 : optParam Byte 0#8} (h0 : Keeps s0 a0) : Keeps s0 (domPut a0 a1 a2 a3 a4 a5 a6 a7) := by
  unfold domPut
  extract_lets +onlyGivenNames x0
  clear_value x0
  extract_lets +onlyGivenNames x1
  clear_value x1
  exact (domSet_keeps h0)

theorem setHeat_keeps {s0 : State} {a0 : State} {a1 : ℕ} {a2 : Heat} (h0 : Keeps s0 a0) : Keeps s0 (setHeat a0 a1 a2) := by
  unfold setHeat
  exact (Keeps.updHeats h0 fun e => tabSet_rises _ e _ _)

theorem modHeat_keeps {s0 : State} {a0 : State} {a1 : ℕ} {a2 : Heat → Heat} (h0 : Keeps s0 a0) : Keeps s0 (modHeat a0 a1 a2) := by
  unfold modHeat
  exact (setHeat_keeps h0)

theorem contain_keeps {s0 : State} {a0 : State} {a1 : Event} (h0 : Keeps s0 a0) : Keeps s0 (contain a0 a1) := by
  unfold contain
  split
  · exact (keeps_foldl h0 fun u1 v1 => (modHeat_keeps (Keeps.refl _)))
  · split
    · split
      · exact (keeps_ite h0 (modHeat_keeps h0))
      · exact h0
    · exact h0

theorem raise_keeps {s0 : State} {a0 : State} {a1 : Event} (h0 : Keeps s0 a0) : Keeps s0 (raise a0 a1) := by
  unfold raise
  extract_lets +onlyGivenNames x0
  clear_value x0
  extract_lets +onlyGivenNames x1
  have h1 : Keeps s0 x1 := (contain_keeps h0)
  clear_value x1
  exact (keeps_ite (Keeps.upd h1) (contain_keeps (Keeps.upd h1)))

theorem markRetire_keeps {s0 : State} {a0 : State} {a1 : ℕ} (h0 : Keeps s0 a0) : Keeps s0 (markRetire a0 a1) := by
  unfold markRetire
  extract_lets +onlyGivenNames x0
  clear_value x0
  exact (domSet_keeps (Keeps.upd h0))

theorem clearSector_keeps {s0 : State} {a0 : State} {a1 : ℕ} (e : List (ℕ × Byte)) (h0 : Keeps s0 a0) :
    Keeps s0 { xorSector a0 a1 e with errs := tabSet [] a0.errs a1 [] } := by
  have h := xorSector_keeps (a1 := a1) (a2 := e) h0
  have c := xorSector_errs a0 a1 e
  generalize xorSector a0 a1 e = x at h c
  exact Keeps.updErrs h fun g => tabSet_rises _ (c ▸ g) _ _

theorem readSector_keeps {s0 : State} {a0 : State} {a1 : ℕ} (h0 : Keeps s0 a0) : Keeps s0 (readSector a0 a1).1 := by
  unfold readSector
  extract_lets +onlyGivenNames e q
  clear_value q
  split
  · exact h0
  · split
    · exact clearSector_keeps (a1 := a1) e h0
    · rename_i l _
      extract_lets +onlyGivenNames y s1 n s2 s3 s4 s5
      have h1 : Keeps s0 s1 := clearSector_keeps (a1 := a1) (mergeErrs e l) h0
      clear_value s1
      have h5 : Keeps s0 s5 := raise_keeps (Keeps.upd (domPut_keeps (dadd_keeps (dadd_keeps h1))))
      clear_value s5
      split
      · exact raise_keeps (markRetire_keeps h5)
      · exact h5
    · extract_lets +onlyGivenNames s1 h b s2 s3 k
      have h2 : Keeps s0 s2 := keeps_ite (dadd_keeps h0) (Keeps.upd (dadd_keeps h0))
      clear_value s2
      exact raise_keeps (markRetire_keeps h2)

theorem readSectors_keeps {s0 : State} {a0 : State} {a1 : List ℕ} (h0 : Keeps s0 a0) : Keeps s0 (readSectors a0 a1).1 := by
  induction a1 generalizing a0 with
  | nil => exact h0
  | cons x l ih =>
    unfold readSectors
    dsimp only
    split
    · exact ih (readSector_keeps h0)
    · exact readSector_keeps h0

theorem writeBytes_keeps {s0 : State} {a0 : State} {a1 : ℕ} {a2 : List Byte} (h0 : Keeps s0 a0) : Keeps s0 (writeBytes a0 a1 a2) := by
  induction a2 generalizing a0 a1 with
  | nil => exact h0
  | cons x l ih => exact ih (putByte_keeps h0)

theorem storeStack_keeps {s0 : State} {a0 : State} {a1 : ℕ} {a2 : List Byte} (h0 : Keeps s0 a0) : Keeps s0 (storeStack a0 a1 a2).1 := by
  unfold storeStack
  extract_lets +onlyGivenNames n w r
  have hr : Keeps s0 r.1 := readSectors_keeps h0
  clear_value r
  split
  · exact hr
  · extract_lets +onlyGivenNames f
    refine writeBytes_keeps (Keeps.updErrs hr fun e => ?_)
    unfold f
    generalize r.1.errs = t at e
    generalize (errSectors a0 a1 n).filter w = l
    induction l generalizing t with
    | nil => exact e
    | cons x l ih => exact ih _ (tabSet_rises _ e _ _)

theorem checkRead_keeps {s0 : State} {a0 : State} {a1 : ℕ} {a2 : ℕ} (h0 : Keeps s0 a0) : Keeps s0 (checkRead a0 a1 a2).1 := by
  unfold checkRead
  exact (readSectors_keeps h0)

theorem setQueue_keeps {s0 : State} {a0 : State} {a1 : ℕ} {a2 : Queue} (h0 : Keeps s0 a0) : Keeps s0 (setQueue a0 a1 a2) := by
  unfold setQueue
  exact (Keeps.updQueues h0 fun e => tabSet_rises _ e _ _)

theorem modQueue_keeps {s0 : State} {a0 : State} {a1 : ℕ} {a2 : Queue → Queue} (h0 : Keeps s0 a0) : Keeps s0 (modQueue a0 a1 a2) := by
  unfold modQueue
  exact (setQueue_keeps h0)

theorem takeFree_keeps {s0 : State} {a0 : State} {a1 : ℕ} (h0 : Keeps s0 a0) : Keeps s0 (takeFree a0 a1).2 := by
  unfold takeFree
  exact (Keeps.updFree h0 (by omega))

theorem modCore_keeps {s0 : State} {a0 : State} {a1 : ℕ} {a2 : Core → Core} (h0 : Keeps s0 a0) : Keeps s0 (modCore a0 a1 a2) := by
  unfold modCore
  exact (setCore_keeps h0)

theorem noteBufWrite_keeps {s0 : State} {a0 : State} {a1 : ℕ} {a2 : List (ℕ × ℕ)} (h0 : Keeps s0 a0) : Keeps s0 (noteBufWrite a0 a1 a2) := by
  unfold noteBufWrite
  exact (keeps_ite h0 (modCore_keeps h0))

theorem setCluster_keeps {s0 : State} {a0 : State} {a1 : ℕ} {a2 : Cluster} (h0 : Keeps s0 a0) : Keeps s0 (setCluster a0 a1 a2) := by
  unfold setCluster
  exact (Keeps.updClusters h0 fun e => tabSet_rises _ e _ _)

theorem modCluster_keeps {s0 : State} {a0 : State} {a1 : ℕ} {a2 : Cluster → Cluster} (h0 : Keeps s0 a0) : Keeps s0 (modCluster a0 a1 a2) := by
  unfold modCluster
  exact (setCluster_keeps h0)

theorem injectErrs_keeps {s0 : State} {a0 : State} {a1 : List SectorErr} (h0 : Keeps s0 a0) : Keeps s0 (injectErrs a0 a1) := by
  unfold injectErrs
  refine Keeps.updErrs h0 fun e => ?_
  generalize a0.errs = t at e
  induction a1 generalizing t with
  | nil => exact e
  | cons x l ih => exact ih _ (tabSet_rises _ e _ _)

theorem addFlush_keeps {s0 : State} {a0 : State} {a1 : ℕ} {a2 : ℕ} (h0 : Keeps s0 a0) : Keeps s0 (addFlush a0 a1 a2) := by
  unfold addFlush
  exact (keeps_ite h0 (dadd_keeps h0))

theorem zeroRange_keeps {s0 : State} {a0 : State} {a1 : ℕ} {a2 : ℕ} (h0 : Keeps s0 a0) : Keeps s0 (zeroRange a0 a1 a2) := by
  unfold zeroRange
  exact (Keeps.updMem h0 fun e => tabDrop_wf _ e)

theorem zeroStack_keeps {s0 : State} {a0 : State} {a1 : ℕ} {a2 : ℕ} (h0 : Keeps s0 a0) : Keeps s0 (zeroStack a0 a1 a2) := by
  refine h0.trans ⟨rfl, fun x => ?_, Nat.le_refl _, fun _ h => h, fun _ h => h, Nat.le_refl _, List.prefix_refl _⟩
  have y := (State.tablesOk_iff _).1 x
  have r := tabDrop_rises (fun x => decide (a1 ≤ x * 64) && decide (x * 64 + 64 ≤ a1 + a2)) y.errs
  have m := tabDrop_wf (fun k => decide (a1 ≤ k) && decide (k < a1 + a2)) y.mem
  exact (State.tablesOk_iff _).2 { y with mem := m, errs := r }

theorem writeNat_keeps {s0 : State} {a0 : State} {a1 : ℕ} {a2 : ℕ} {a3 : ℕ} (h0 : Keeps s0 a0) : Keeps s0 (writeNat a0 a1 a2 a3) := by
  unfold writeNat
  exact (writeBytes_keeps h0)

theorem emit_keeps {s0 : State} {a0 : State} {a1 : Out} (h0 : Keeps s0 a0) : Keeps s0 (emit a0 a1) := by
  unfold emit
  split
  · exact (keeps_ite (Keeps.upd h0) (Keeps.updOut h0 (List.prefix_append _ _)))
  · exact (Keeps.updOut h0 (List.prefix_append _ _))

end Sys2Proof.Machine
end

