-- ==== Sys2Proof/Laws/KeepDictRead.lean ====
section
/-! SUPPORT. What the operations of Machine/DictRead.lean keep. -/

namespace Sys2Proof.Machine

theorem bootEvent_keeps {s0 : State} {a0 : State} {a1 : ℕ} {a2 : ℕ} {a3 : ℕ} (h0 : Keeps s0 a0) : Keeps s0 (bootEvent a0 a1 a2 a3) := by
  unfold bootEvent
  exact (raise_keeps h0)

end Sys2Proof.Machine
end

