-- ==== Sys2Proof/Laws/KeepCollPar.lean ====
section
/-! SUPPORT. What the operations of Machine/CollPar.lean keep. -/

namespace Sys2Proof.Machine

theorem settlePool_keeps {s0 : State} {a0 : State} {a1 : ℕ} (h0 : Keeps s0 a0) : Keeps s0 (settlePool a0 a1) := by
  unfold settlePool
  extract_lets +onlyGivenNames x0
  clear_value x0
  extract_lets +onlyGivenNames x1
  have g1 : Keeps s0 x1 := (Keeps.upd h0)
  clear_value x1
  exact (dset_keeps g1)

theorem releaseAlloc_keeps {s0 : State} {a0 : State} {a1 : ℕ} {a2 : CollPar} (h0 : Keeps s0 a0) : Keeps s0 (releaseAlloc a0 a1 a2) := by
  unfold releaseAlloc
  exact (keeps_ite h0 (settlePool_keeps (Keeps.upd h0)))

end Sys2Proof.Machine
end

