-- ==== Sys2Proof/Laws/KeepStream.lean ====
section
/-! SUPPORT. What the operations of Machine/Stream.lean keep. -/

namespace Sys2Proof.Machine

theorem putElem_keeps {s0 : State} {a0 : State} {a1 : ℕ} {a2 : Region} {a3 : ℕ} {a4 : ℕ} {a5 : ℕ} {a6 : ℕ} (h0 : Keeps s0 a0) : Keeps s0 (putElem a0 a1 a2 a3 a4 a5 a6) := by
  unfold putElem
  extract_lets +onlyGivenNames x0
  clear_value x0
  extract_lets +onlyGivenNames x1
  clear_value x1
  split
  · extract_lets +onlyGivenNames x2
    clear_value x2
    exact (putByte_keeps h0)
  · exact (writeNat_keeps h0)

theorem putElems_keeps {s0 : State} {a0 : State} {a1 : ℕ} {a2 : Region} {a3 : ℕ} {a4 : ℕ} {a5 : ℕ} {a6 : List ℕ} (h0 : Keeps s0 a0) : Keeps s0 (putElems a0 a1 a2 a3 a4 a5 a6) := by
  induction a6 generalizing a0 a5 with
  | nil => exact h0
  | cons x l ih => exact ih (putElem_keeps h0)

theorem writeFillRow_keeps {s0 : State} {a0 : State} {a1 : ℕ} {a2 : FillRec} {a3 : FillRow} (h0 : Keeps s0 a0) : Keeps s0 (writeFillRow a0 a1 a2 a3) := by
  unfold writeFillRow
  extract_lets +onlyGivenNames x0
  have g0 : Keeps s0 x0 := (putElems_keeps h0)
  clear_value x0
  exact (putElems_keeps g0)

theorem advanceFill_keeps {s0 : State} {a0 : State} {a1 : ℕ} {a2 : FillRec} (h0 : Keeps s0 a0) : Keeps s0 (advanceFill a0 a1 a2).1 := by
  unfold advanceFill
  dsimp only
  exact (keeps_ite (keeps_foldl h0 fun u0 v0 => (writeFillRow_keeps (Keeps.refl _))) (modCore_keeps (keeps_foldl h0 fun u1 v1 => (writeFillRow_keeps (Keeps.refl _)))))

theorem writeFill_keeps {s0 : State} {a0 : State} {a1 : ℕ} {a2 : FillRec} (h0 : Keeps s0 a0) : Keeps s0 (writeFill a0 a1 a2) := by
  unfold writeFill
  extract_lets +onlyGivenNames x0
  clear_value x0
  extract_lets +onlyGivenNames x1
  have g1 : Keeps s0 x1.1 := (advanceFill_keeps (modCore_keeps h0))
  clear_value x1
  split
  · exact (modCore_keeps g1)
  · exact g1

theorem advanceWaiting_keeps {s0 : State} {a0 : State} {a1 : ℕ} (h0 : Keeps s0 a0) : Keeps s0 (advanceWaiting a0 a1) := by
  unfold advanceWaiting
  extract_lets +onlyGivenNames x0
  clear_value x0
  refine (keeps_foldl (modCore_keeps h0) fun u1 v1 => ?_)
  extract_lets +onlyGivenNames x2
  have g2 : Keeps u1 x2.1 := (advanceFill_keeps (Keeps.refl _))
  clear_value x2
  split
  · exact (modCore_keeps g2)
  · exact g2

end Sys2Proof.Machine
end

