-- ==== Sys2Proof/Laws/KeepArray.lean ====
section
/-! SUPPORT. What the operations of Machine/Array.lean keep. -/

namespace Sys2Proof.Machine

theorem putOver_keeps {s0 : State} {a0 : State} {a1 : ℕ} {a2 : Region} {a3 : ℕ} {a4 : ℕ} {a5 : ℕ} {a6 : ℕ} (h0 : Keeps s0 a0) : Keeps s0 (putOver a0 a1 a2 a3 a4 a5 a6) := by
  unfold putOver
  split
  · extract_lets +onlyGivenNames x0
    unfold x0
    clear x0
    exact (modCore_keeps h0)
  · extract_lets +onlyGivenNames x1
    unfold x1
    clear x1
    exact (modCore_keeps h0)
  · exact (putElem_keeps h0)

theorem feedRepeat_keeps {s0 : State} {a0 : State} {a1 : ℕ} {a2 : Bool} {a3 : Operand} (h0 : Keeps s0 a0) : Keeps s0 (feedRepeat a0 a1 a2 a3) := by
  unfold feedRepeat
  extract_lets +onlyGivenNames x0
  clear_value x0
  extract_lets +onlyGivenNames x1
  clear_value x1
  extract_lets +onlyGivenNames x2
  clear_value x2
  extract_lets +onlyGivenNames x3
  have g3 : Keeps s0 x3 := by
    unfold x3
    clear x3
    refine (keeps_foldl h0 fun u5 v5 => ?_)
    extract_lets +onlyGivenNames x6
    clear_value x6
    extract_lets +onlyGivenNames x7
    clear_value x7
    extract_lets +onlyGivenNames x8
    have g8 : Keeps u5 x8 := (putElems_keeps (Keeps.refl _))
    clear_value x8
    split
    · exact g8
    · extract_lets +onlyGivenNames x9
      clear_value x9
      extract_lets +onlyGivenNames x10
      clear_value x10
      exact (putElems_keeps g8)
  clear_value x3
  exact (noteBufWrite_keeps g3)

theorem writeOver_keeps {s0 : State} {a0 : State} {a1 : ℕ} {a2 : Region} {a3 : ℕ} {a4 : ℕ} {a5 : List (ℕ × ℕ × ℕ)} (h0 : Keeps s0 a0) : Keeps s0 (writeOver a0 a1 a2 a3 a4 a5) := by
  unfold writeOver
  exact (keeps_foldl h0 fun u0 v0 => (putOver_keeps (Keeps.refl _)))

theorem writeOuts_keeps {s0 : State} {a0 : State} {a1 : ℕ} {a2 : GemmPar} {a3 : List (ℕ × ℕ × ℕ)} (h0 : Keeps s0 a0) : Keeps s0 (writeOuts a0 a1 a2 a3) := by
  unfold writeOuts
  extract_lets +onlyGivenNames x0
  clear_value x0
  extract_lets +onlyGivenNames x1
  have h1 : Keeps s0 x1 := (keeps_foldl h0 fun u2 v2 => (putElem_keeps (Keeps.refl _)))
  clear_value x1
  exact (noteBufWrite_keeps h1)

end Sys2Proof.Machine
end

