-- ==== Sys2Proof/Laws/KeepRoute.lean ====
section
/-! SUPPORT. What the operations of Machine/Route.lean keep. -/

namespace Sys2Proof.Machine

theorem setPort_keeps {s0 : State} {a0 : State} {a1 : ℕ} {a2 : Port} (h0 : Keeps s0 a0) : Keeps s0 (setPort a0 a1 a2) := by
  unfold setPort
  exact (Keeps.updPorts h0 fun e => tabSet_rises _ e _ _)

theorem modPort_keeps {s0 : State} {a0 : State} {a1 : ℕ} {a2 : Port → Port} (h0 : Keeps s0 a0) : Keeps s0 (modPort a0 a1 a2) := by
  unfold modPort
  exact (setPort_keeps h0)

theorem enqueue_keeps {s0 : State} {a0 : State} {a1 : Packet} {a2 : Option (ℕ × ℕ)} {a3 : ℕ} (h0 : Keeps s0 a0) : Keeps s0 (enqueue a0 a1 a2 a3) := by
  unfold enqueue
  exact (modPort_keeps h0)

theorem nakBack_keeps {s0 : State} {a0 : State} {a1 : ℕ} {a2 : Packet} {a3 : ℕ} (h0 : Keeps s0 a0) : Keeps s0 (nakBack a0 a1 a2 a3) := by
  unfold nakBack
  exact (enqueue_keeps (dadd_keeps h0))

theorem showDelay_keeps {s0 : State} {a0 : State} {a1 : ℕ} (h0 : Keeps s0 a0) : Keeps s0 (showDelay a0 a1) := by
  unfold showDelay
  extract_lets +onlyGivenNames x0
  clear_value x0
  exact (keeps_ite h0 (dset_keeps h0))

theorem sendCtrl_keeps {s0 : State} {a0 : State} {a1 : ℕ} {a2 : ℕ} {a3 : List Byte} (h0 : Keeps s0 a0) : Keeps s0 (sendCtrl a0 a1 a2 a3) := by
  unfold sendCtrl
  exact (modPort_keeps h0)

theorem sendPacket_keeps {s0 : State} {a0 : State} {a1 : Packet} (h0 : Keeps s0 a0) : Keeps s0 (sendPacket a0 a1) := by
  unfold sendPacket
  split
  · exact h0
  · split
    · exact h0
    · exact (enqueue_keeps h0)

end Sys2Proof.Machine
end

