-- ==== Sys2Proof/Laws/KeepQueues.lean ====
section
/-! SUPPORT. What the operations of Machine/Queues.lean keep. -/

namespace Sys2Proof.Machine

theorem freePrefetch_keeps {s0 : State} {a0 : State} {a1 : ℕ} {a2 : ℕ} (h0 : Keeps s0 a0) : Keeps s0 (freePrefetch a0 a1 a2) := by
  unfold freePrefetch
  exact (modCluster_keeps h0)

theorem refuseDoorbell_keeps {s0 : State} {a0 : State} {a1 : ℕ} (h0 : Keeps s0 a0) : Keeps s0 (refuseDoorbell a0 a1) := by
  unfold refuseDoorbell
  extract_lets +onlyGivenNames x0
  have h0 : Keeps s0 x0 := (modQueue_keeps h0)
  clear_value x0
  split
  · exact (dadd_keeps h0)
  · exact h0

theorem ringDoorbell_keeps {s0 : State} {a0 : State} {a1 : Agent} {a2 : ℕ} {a3 : ℕ} (h0 : Keeps s0 a0) : Keeps s0 (ringDoorbell a0 a1 a2 a3).1 := by
  unfold ringDoorbell
  split
  · exact refuseDoorbell_keeps h0
  · dsimp only
    exact keeps_ite_fst (keeps_ite_fst h0 (keeps_ite_fst (setQueue_keeps h0) (refuseDoorbell_keeps h0))) (refuseDoorbell_keeps h0)

theorem modFlight_keeps {s0 : State} {a0 : State} {a1 : ℕ} {a2 : ℕ} {a3 : Flight → Flight} (h0 : Keeps s0 a0) : Keeps s0 (modFlight a0 a1 a2 a3) := by
  unfold modFlight
  exact (modQueue_keeps h0)

theorem countRecord_keeps {s0 : State} {a0 : State} {a1 : ℕ} {a2 : ℕ} (h0 : Keeps s0 a0) : Keeps s0 (countRecord a0 a1 a2) := by
  unfold countRecord
  extract_lets +onlyGivenNames x0
  have h0 : Keeps s0 x0 := (dadd_keeps h0)
  clear_value x0
  exact (keeps_ite (dadd_keeps h0) (keeps_ite (dadd_keeps h0) h0))

theorem failedEffects_keeps {s0 : State} {a0 : State} {a1 : ℕ} {a2 : Slot} (h0 : Keeps s0 a0) : Keeps s0 (failedEffects a0 a1 a2) := by
  unfold failedEffects
  exact (keeps_ite (releaseAlloc_keeps h0) h0)

theorem putRecord_keeps {s0 : State} {a0 : State} {a1 : Queue} {a2 : ℕ} {a3 : ℕ} (h0 : Keeps s0 a0) : Keeps s0 (putRecord a0 a1 a2 a3) := by
  unfold putRecord
  exact (storeStack_keeps h0)

theorem writeRecord_keeps {s0 : State} {a0 : State} {a1 : Queue} {a2 : Flight} (h0 : Keeps s0 a0) : Keeps s0 (writeRecord a0 a1 a2) := by
  unfold writeRecord
  extract_lets +onlyGivenNames x0
  clear_value x0
  extract_lets +onlyGivenNames x1
  have g1 : Keeps s0 x1 := (putRecord_keeps h0)
  clear_value x1
  split
  · extract_lets +onlyGivenNames x2
    clear_value x2
    exact (putRecord_keeps g1)
  · exact g1

theorem finish_keeps {s0 : State} {a0 : State} {a1 : ℕ} {a2 : ℕ} {a3 : ℕ} {a4 : ℕ} {a5 : ℕ} (h0 : Keeps s0 a0) : Keeps s0 (finish a0 a1 a2 a3 a4 a5) := by
  unfold finish
  exact (modFlight_keeps h0)

theorem execDoorbell_keeps {s0 : State} {a0 : Agent} {a1 : ℕ} {a2 : ℕ} {a3 : State} (h3 : Keeps s0 a3) : Runs s0 (execDoorbell a0 a1 a2 a3) := by
  unfold execDoorbell
  exact (runs_next (ringDoorbell_keeps h3))

theorem execRing_keeps {s0 : State} {a0 : ℕ} {a1 : ℕ} {a2 : ℕ} {a3 : State} (h3 : Keeps s0 a3) : Runs s0 (execRing a0 a1 a2 a3) := by
  unfold execRing
  split
  · exact (runs_next h3)
  · extract_lets +onlyGivenNames x0
    have g0 : Keeps s0 x0.1 := (ringDoorbell_keeps h3)
    clear_value x0
    exact (runs_next (modCore_keeps g0))

theorem readTables_keeps {s0 : State} {a0 : State} {a1 : ℕ} {a2 : Slot} (h0 : Keeps s0 a0) : Keeps s0 (readTables a0 a1 a2).1 := by
  unfold readTables
  dsimp only
  exact (keeps_ite_fst h0 (keeps_ite_fst (checkRead_keeps (keeps_ite_fst (checkRead_keeps h0) h0)) (keeps_ite_fst (checkRead_keeps (keeps_ite_fst (checkRead_keeps h0) h0)) (keeps_ite_fst (checkRead_keeps h0) h0))))

theorem execCommandReachesHead_keeps {s0 : State} {a0 : ℕ} {a1 : State} (h1 : Keeps s0 a1) : Runs s0 (execCommandReachesHead a0 a1) := by
  unfold execCommandReachesHead
  extract_lets +onlyGivenNames x0
  clear_value x0
  split
  · exact (runs_next h1)
  · extract_lets +onlyGivenNames x1
    clear_value x1
    split
    · exact (runs_next h1)
    · extract_lets +onlyGivenNames x2
      have g2 : Keeps s0 x2.1 := (checkRead_keeps h1)
      clear_value x2
      split
      · exact (runs_next g2)
      · extract_lets +onlyGivenNames x3
        have g3 : Keeps s0 x3 := g2
        clear_value x3
        extract_lets +onlyGivenNames x4
        clear_value x4
        extract_lets +onlyGivenNames x5
        clear_value x5
        split
        · exact (runs_next g3)
        · extract_lets +onlyGivenNames x6
          have g6 : Keeps s0 x6.1 := (keeps_ite_fst (checkRead_keeps g3) g3)
          clear_value x6
          split
          · exact (runs_next g6)
          · extract_lets +onlyGivenNames x7
            have g7 : Keeps s0 x7.1 := (readTables_keeps g6)
            clear_value x7
            split
            · exact (runs_next g7)
            · extract_lets +onlyGivenNames x8
              have g8 : Keeps s0 x8 := g7
              clear_value x8
              extract_lets +onlyGivenNames x9
              clear_value x9
              extract_lets +onlyGivenNames x10
              clear_value x10
              split
              · extract_lets +onlyGivenNames x11
                clear_value x11
                exact (runs_next (setQueue_keeps (failedEffects_keeps g8)))
              · exact (runs_next (setQueue_keeps g8))

theorem withRunning_keeps {s0 : State} {a0 : ℕ} {a1 : ℕ} {a2 : State} {a3 : ℕ → Flight → State} (h2 : Keeps s0 a2) (h3 : ∀ v0 v1, Keeps s0 (a3 v0 v1)) : Runs s0 (withRunning a0 a1 a2 a3) := by
  unfold withRunning
  split
  · exact runs_next (h3 _ _)
  · exact runs_next h2

end Sys2Proof.Machine
end

