-- ==== Sys2Proof/Laws/KeepHistory.lean ====
section
/-! SUPPORT. What the operations of Machine/History.lean keep. -/

namespace Sys2Proof.Machine

theorem eraseSector_keeps {s0 : State} {a0 : State} {a1 : ℕ} (h0 : Keeps s0 a0) : Keeps s0 (eraseSector a0 a1) := by
  unfold eraseSector
  extract_lets +onlyGivenNames x0
  clear_value x0
  extract_lets +onlyGivenNames x1
  have h1 : Keeps s0 x1 := (domPut_keeps h0)
  clear_value x1
  extract_lets +onlyGivenNames x2
  have h2 : Keeps s0 x2 := (keeps_ite (raise_keeps h1) h1)
  clear_value x2
  exact (dset_keeps h2)

theorem turnSector_keeps {s0 : State} {a0 : State} (h0 : Keeps s0 a0) : Keeps s0 (turnSector a0) := by
  unfold turnSector
  exact (eraseSector_keeps (Keeps.upd h0))

theorem histAdd_keeps {s0 : State} {a0 : State} {a1 : ℕ} {a2 : List ℕ} (h0 : Keeps s0 a0) : Keeps s0 (histAdd a0 a1 a2) := by
  unfold histAdd
  split
  · exact h0
  · extract_lets +onlyGivenNames x0
    have h0 : Keeps s0 x0 := (keeps_ite h0 (turnSector_keeps h0))
    clear_value x0
    exact (Keeps.upd h0)

theorem execPoweredTimeSave_keeps {s0 : State} {a0 : State} (h0 : Keeps s0 a0) : Runs s0 (execPoweredTimeSave a0) := by
  unfold execPoweredTimeSave
  exact (runs_next (keeps_ite h0 (histAdd_keeps (Keeps.upd h0))))

end Sys2Proof.Machine
end

