-- ==== Sys2Proof/Laws/KeepSpares.lean ====
section
/-! SUPPORT. What the operations of Machine/Spares.lean keep. -/

namespace Sys2Proof.Machine

theorem setSlot_keeps {s0 : State} {a0 : State} {a1 : ℕ} {a2 : ℕ} {a3 : ℕ} (h0 : Keeps s0 a0) : Keeps s0 (setSlot a0 a1 a2 a3) := by
  unfold setSlot
  exact (domSet_keeps h0)

theorem markForBoot_keeps {s0 : State} {a0 : State} {a1 : ℕ} (h0 : Keeps s0 a0) : Keeps s0 (markForBoot a0 a1) := by
  unfold markForBoot
  refine (raise_keeps ?_)
  extract_lets +onlyGivenNames x0
  have h0 : Keeps s0 x0 := (setSlot_keeps h0)
  clear_value x0
  exact (Keeps.upd h0)

theorem permanentByCount_keeps {s0 : State} {a0 : State} {a1 : ℕ} (h0 : Keeps s0 a0) : Keeps s0 (permanentByCount a0 a1) := by
  unfold permanentByCount
  extract_lets +onlyGivenNames x0
  clear_value x0
  split
  · exact h0
  · extract_lets +onlyGivenNames x1
    have g1 : Keeps s0 x1 := (dadd_keeps h0)
    clear_value x1
    exact (keeps_ite (modCluster_keeps g1) (markForBoot_keeps g1))

theorem recordTransient_keeps {s0 : State} {a0 : State} {a1 : ℕ} {a2 : ℕ} {a3 : Option ℕ} (h0 : Keeps s0 a0) : Keeps s0 (recordTransient a0 a1 a2 a3) := by
  unfold recordTransient
  extract_lets +onlyGivenNames x0
  clear_value x0
  extract_lets +onlyGivenNames x1
  have g1 : Keeps s0 x1 := (histAdd_keeps (Keeps.upd h0))
  clear_value x1
  extract_lets +onlyGivenNames x2
  have g2 : Keeps s0 x2 := (dadd_keeps g1)
  clear_value x2
  extract_lets +onlyGivenNames x3
  have g3 : Keeps s0 x3 := (raise_keeps g2)
  clear_value x3
  exact (keeps_ite (permanentByCount_keeps g3) g3)

theorem retireSlot_keeps {s0 : State} {a0 : State} {a1 : ℕ} {a2 : ℕ} (h0 : Keeps s0 a0) : Keeps s0 (retireSlot a0 a1 a2) := by
  unfold retireSlot
  extract_lets +onlyGivenNames x0
  have h1 : Keeps s0 x0 := setSlot_keeps h0
  clear_value x0
  refine histAdd_keeps (h1.trans ⟨rfl, id, Nat.le_refl _, fun p hp => ?_, fun _ h => h, Nat.le_refl _, List.prefix_refl _⟩)
  dsimp only
  split
  · exact hp
  · exact List.mem_cons_of_mem _ hp

theorem retirePermanent_keeps {s0 : State} {a0 : State} {a1 : ℕ} {a2 : ℕ} {a3 : Option ℕ} (h0 : Keeps s0 a0) : Keeps s0 (retirePermanent a0 a1 a2 a3) := by
  unfold retirePermanent
  extract_lets +onlyGivenNames x0
  have h0 : Keeps s0 x0 := (dadd_keeps h0)
  clear_value x0
  extract_lets +onlyGivenNames x1
  have h1 : Keeps s0 x1 := (keeps_ite (dadd_keeps h0) h0)
  clear_value x1
  extract_lets +onlyGivenNames x2
  clear_value x2
  extract_lets +onlyGivenNames x3
  have h3 : Keeps s0 x3 := (setSlot_keeps (retireSlot_keeps h1))
  clear_value x3
  extract_lets +onlyGivenNames x4
  have h4 : Keeps s0 x4 := (modCluster_keeps h3)
  clear_value x4
  exact (raise_keeps h4)

end Sys2Proof.Machine
end

