-- ==== Sys2Proof/Laws/KeepLedger.lean ====
section
/-! SUPPORT. What the operations of Machine/Ledger.lean keep. -/

namespace Sys2Proof.Machine

theorem countLedgerRefusal_keeps {s0 : State} {a0 : State} {a1 : ℕ} (h0 : Keeps s0 a0) : Keeps s0 (countLedgerRefusal a0 a1) := by
  unfold countLedgerRefusal
  exact (dadd_keeps h0)

theorem setLedger_keeps {s0 : State} {a0 : State} {a1 : ℕ} {a2 : ℕ} {a3 : Ledger} (h0 : Keeps s0 a0) : Keeps s0 (setLedger a0 a1 a2 a3) := by
  unfold setLedger
  exact (modHeat_keeps h0)

theorem contribute_keeps {s0 : State} {a0 : State} {a1 : ℕ} {a2 : ℕ} {a3 : ℕ} (h0 : Keeps s0 a0) : Keeps s0 (contribute a0 a1 a2 a3) := by
  unfold contribute
  extract_lets +onlyGivenNames x0
  clear_value x0
  split
  · exact (countLedgerRefusal_keeps h0)
  · extract_lets +onlyGivenNames x1
    clear_value x1
    exact (setLedger_keeps h0)

theorem countContribution_keeps {s0 : State} {a0 : State} {a1 : ℕ} {a2 : DmaPar} (h0 : Keeps s0 a0) : Keeps s0 (countContribution a0 a1 a2) := by
  unfold countContribution
  split
  · exact (keeps_ite (contribute_keeps h0) h0)
  · exact h0

theorem countRefusal_keeps {s0 : State} {a0 : State} {a1 : ℕ} {a2 : ℕ} (h0 : Keeps s0 a0) : Keeps s0 (countRefusal a0 a1 a2) := by
  unfold countRefusal
  exact (keeps_ite (countLedgerRefusal_keeps h0) h0)

theorem settleDma_keeps {s0 : State} {a0 : State} {a1 : ℕ} {a2 : ℕ} (h0 : Keeps s0 a0) : Keeps s0 (settleDma a0 a1 a2) := by
  unfold settleDma
  split
  · exact h0
  · split
    · exact h0
    · extract_lets +onlyGivenNames x0
      clear_value x0
      split
      · extract_lets +onlyGivenNames x1
        have g1 : Keeps s0 x1 := (modFlight_keeps h0)
        clear_value x1
        exact (keeps_ite g1 (countContribution_keeps g1))
      · extract_lets +onlyGivenNames x2
        clear_value x2
        exact (modFlight_keeps h0)

end Sys2Proof.Machine
end

