-- ==== Sys2Proof/Laws/KeepCache.lean ====
section
/-! SUPPORT. What the operations of Machine/Cache.lean keep. -/

namespace Sys2Proof.Machine

theorem cacheUpdate_keeps {s0 : State} {a0 : State} {a1 : ℕ} {a2 : ℕ} {a3 : List Byte} (h0 : Keeps s0 a0) : Keeps s0 (cacheUpdate a0 a1 a2 a3) := by
  unfold cacheUpdate
  exact (keeps_ite h0 (modCluster_keeps h0))

theorem cacheFetch_keeps {s0 : State} {a0 : State} {a1 : ℕ} {a2 : ℕ} {a3 : ℕ} (h0 : Keeps s0 a0) : Keeps s0 (cacheFetch a0 a1 a2 a3).1 := by
  unfold cacheFetch
  dsimp only
  split
  · dsimp only
    exact (modCluster_keeps h0)
  · split
    · dsimp only
      exact (checkRead_keeps h0)
    · dsimp only
      exact (modCluster_keeps (checkRead_keeps h0))

theorem cachedRead_keeps {s0 : State} {a0 : State} {a1 : ℕ} {a2 : ℕ} {a3 : ℕ} {a4 : ℕ} (h0 : Keeps s0 a0) : Keeps s0 (cachedRead a0 a1 a2 a3 a4).1 := by
  unfold cachedRead
  split
  · dsimp only
    exact (checkRead_keeps h0)
  · refine (keeps_foldl_fst h0 fun u1 v1 => ?_)
    split
    · exact (Keeps.refl _)
    · dsimp only
      exact (keeps_ite_fst (cacheFetch_keeps (Keeps.refl _)) (cacheFetch_keeps (Keeps.refl _)))

theorem loadLocal_keeps {s0 : State} {a0 : State} {a1 : ℕ} {a2 : ℕ} {a3 : Bool} {a4 : ℕ} {a5 : ℕ} (h0 : Keeps s0 a0) : Keeps s0 (loadLocal a0 a1 a2 a3 a4 a5).1 := by
  unfold loadLocal
  split
  · split
    · exact (cachedRead_keeps h0)
    · dsimp only
      exact (checkRead_keeps h0)
  · dsimp only
    exact h0
  · dsimp only
    exact h0
  · dsimp only
    exact h0

theorem cacheInvalidate_keeps {s0 : State} {a0 : State} {a1 : ℕ} {a2 : ℕ} {a3 : ℕ} (h0 : Keeps s0 a0) : Keeps s0 (cacheInvalidate a0 a1 a2 a3) := by
  unfold cacheInvalidate
  exact (modCluster_keeps h0)

end Sys2Proof.Machine
end

