-- ==== Sys2Proof/Laws/KeepTile.lean ====
section
/-! SUPPORT. What the operations of Machine/Tile.lean keep. -/

namespace Sys2Proof.Machine

theorem releaseHolds_keeps {s0 : State} {a0 : State} {a1 : ℕ} {a2 : List ℕ} (h0 : Keeps s0 a0) : Keeps s0 (releaseHolds a0 a1 a2) := by
  unfold releaseHolds
  exact (modCluster_keeps h0)

theorem reread_keeps {s0 : State} {a0 : State} {a1 : ℕ} {a2 : FillRec} {a3 : DmaPar} {a4 : Bool} {a5 : Bool} {a6 : ℕ} {a7 : ℕ} {a8 : List Byte} (h0 : Keeps s0 a0) : Keeps s0 (reread a0 a1 a2 a3 a4 a5 a6 a7 a8).1 := by
  unfold reread
  exact (keeps_ite_fst (loadLocal_keeps h0) h0)

theorem logTrouble_keeps {s0 : State} {a0 : State} {a1 : ℕ} {a2 : ℕ} (h0 : Keeps s0 a0) : Keeps s0 (logTrouble a0 a1 a2).1 := by
  unfold logTrouble
  dsimp only
  split
  · dsimp only
    exact (dadd_keeps h0)
  · dsimp only
    exact (modHeat_keeps (storeStack_keeps (keeps_ite (dadd_keeps h0) h0)))

theorem lockHolds_keeps {s0 : State} {a0 : State} {a1 : ℕ} {a2 : List ℕ} {a3 : Bool} (h0 : Keeps s0 a0) : Keeps s0 (lockHolds a0 a1 a2 a3) := by
  unfold lockHolds
  exact (modCluster_keeps h0)

theorem keepTile_keeps {s0 : State} {a0 : State} {a1 : ℕ} {a2 : ℕ} {a3 : TileRun} (h0 : Keeps s0 a0) : Keeps s0 (keepTile a0 a1 a2 a3) := by
  unfold keepTile
  exact (modFlight_keeps h0)

theorem finishTile_keeps {s0 : State} {a0 : State} {a1 : ℕ} {a2 : ℕ} {a3 : Bool} {a4 : TileRun} (h0 : Keeps s0 a0) : Keeps s0 (finishTile a0 a1 a2 a3 a4) := by
  unfold finishTile
  exact (modFlight_keeps h0)

theorem evaluatePass_keeps {s0 : State} {a0 : State} {a1 : ℕ} {a2 : ℕ} {a3 : ℕ} {a4 : Flight} {a5 : GemmPar} {a6 : TileRun} {a7 : PassOut} (h0 : Keeps s0 a0) : Keeps s0 (evaluatePass a0 a1 a2 a3 a4 a5 a6 a7) := by
  unfold evaluatePass
  extract_lets +onlyGivenNames x0
  clear_value x0
  extract_lets +onlyGivenNames x1
  clear_value x1
  extract_lets +onlyGivenNames x2
  clear_value x2
  extract_lets +onlyGivenNames x3
  clear_value x3
  extract_lets +onlyGivenNames x4
  clear_value x4
  extract_lets +onlyGivenNames x5
  clear_value x5
  extract_lets +onlyGivenNames x6
  clear_value x6
  extract_lets +onlyGivenNames x7
  clear_value x7
  extract_lets +onlyGivenNames x8
  clear_value x8
  extract_lets +onlyGivenNames x9
  clear_value x9
  extract_lets +onlyGivenNames x10
  clear_value x10
  extract_lets +onlyGivenNames x11
  clear_value x11
  extract_lets +onlyGivenNames x12
  clear_value x12
  extract_lets +onlyGivenNames x13
  clear_value x13
  extract_lets +onlyGivenNames x14
  clear_value x14
  extract_lets +onlyGivenNames x15
  clear_value x15
  extract_lets +onlyGivenNames x16
  clear_value x16
  extract_lets +onlyGivenNames x17
  clear_value x17
  extract_lets +onlyGivenNames x18
  have g18 : Keeps s0 x18 := (keeps_ite (logTrouble_keeps h0) h0)
  clear_value x18
  split
  · extract_lets +onlyGivenNames x19
    have g19 : Keeps s0 x19 := (keeps_ite (lockHolds_keeps g18) g18)
    clear_value x19
    extract_lets +onlyGivenNames x20
    have g20 : Keeps s0 x20 := (keeps_ite (lockHolds_keeps g19) g19)
    clear_value x20
    exact (keepTile_keeps g20)
  · exact (finishTile_keeps g18)

theorem uncontained_keeps {s0 : State} {a0 : State} {a1 : ℕ} {a2 : ℕ} {a3 : List Residue} (h0 : Keeps s0 a0) : Keeps s0 (uncontained a0 a1 a2 a3) := by
  unfold uncontained
  extract_lets +onlyGivenNames x0
  clear_value x0
  exact (raise_keeps (recordTransient_keeps h0))

theorem afterPass_keeps {s0 : State} {a0 : State} {a1 : ℕ} {a2 : ℕ} {a3 : ℕ} {a4 : Flight} {a5 : GemmPar} {a6 : TileRun} {a7 : PassOut} (h0 : Keeps s0 a0) : Keeps s0 (afterPass a0 a1 a2 a3 a4 a5 a6 a7) := by
  unfold afterPass
  exact (keeps_ite (evaluatePass_keeps h0) (keeps_ite (keepTile_keeps h0) (uncontained_keeps (keepTile_keeps h0))))

theorem commitStats_keeps {s0 : State} {a0 : State} {a1 : ℕ} {a2 : ℕ} {a3 : GemmPar} {a4 : TileRun} (h0 : Keeps s0 a0) : Keeps s0 (commitStats a0 a1 a2 a3 a4) := by
  unfold commitStats
  extract_lets +onlyGivenNames x0
  clear_value x0
  extract_lets +onlyGivenNames x1
  have g1 : Keeps s0 x1.1 := (checkRead_keeps h0)
  clear_value x1
  split
  · exact g1
  · extract_lets +onlyGivenNames x2
    clear_value x2
    extract_lets +onlyGivenNames x3
    clear_value x3
    extract_lets +onlyGivenNames x4
    clear_value x4
    extract_lets +onlyGivenNames x5
    clear_value x5
    extract_lets +onlyGivenNames x6
    clear_value x6
    extract_lets +onlyGivenNames x7
    clear_value x7
    exact (cacheInvalidate_keeps (writeNat_keeps g1))

theorem writeDiag_keeps {s0 : State} {a0 : State} {a1 : ℕ} {a2 : DiagPar} {a3 : List (ℕ × ℕ)} (h0 : Keeps s0 a0) : Keeps s0 (writeDiag a0 a1 a2 a3) := by
  unfold writeDiag
  extract_lets +onlyGivenNames x0
  have g0 : Keeps s0 x0 := (keeps_foldl h0 fun u1 v1 => (putElem_keeps (Keeps.refl _)))
  clear_value x0
  extract_lets +onlyGivenNames x2
  have g2 : Keeps s0 x2 := (noteBufWrite_keeps g0)
  clear_value x2
  exact (modCore_keeps g2)

theorem consume_keeps {s0 : State} {a0 : State} {a1 : ℕ} {a2 : Region} {a3 : ℕ} {a4 : ℕ} {a5 : Bool} (h0 : Keeps s0 a0) : Keeps s0 (consume a0 a1 a2 a3 a4 a5) := by
  unfold consume
  exact (modCore_keeps h0)

theorem moveFills_keeps {s0 : State} {a0 : State} {a1 : ℕ} (h0 : Keeps s0 a0) : Keeps s0 (moveFills a0 a1) := by
  unfold moveFills
  extract_lets +onlyGivenNames x0
  clear_value x0
  extract_lets +onlyGivenNames x1
  have g1 : Keeps s0 x1 := (advanceWaiting_keeps h0)
  clear_value x1
  exact (keeps_foldl g1 fun u2 v2 => (settleDma_keeps (modFlight_keeps (Keeps.refl _))))

theorem gemmStep_keeps {s0 : State} {a0 : ℕ} {a1 : Nature} {a2 : ℕ} {a3 : Flight} {a4 : State} (h4 : Keeps s0 a4) : Keeps s0 (gemmStep a0 a1 a2 a3 a4) := by
  unfold gemmStep
  extract_lets +onlyGivenNames x0
  clear_value x0
  extract_lets +onlyGivenNames x1
  clear_value x1
  extract_lets +onlyGivenNames x2
  clear_value x2
  split
  · exact h4
  · extract_lets +onlyGivenNames x3
    clear_value x3
    extract_lets +onlyGivenNames x4
    clear_value x4
    extract_lets +onlyGivenNames x5
    clear_value x5
    extract_lets +onlyGivenNames x6
    have g6 : Keeps s0 x6 := (modCore_keeps h4)
    clear_value x6
    split
    · exact (finishTile_keeps g6)
    · split
      · exact h4
      · extract_lets +onlyGivenNames x7
        clear_value x7
        extract_lets +onlyGivenNames x8
        clear_value x8
        extract_lets +onlyGivenNames x9
        clear_value x9
        extract_lets +onlyGivenNames x10
        have g10 : Keeps s0 x10 := (writeOver_keeps (writeOver_keeps g6))
        clear_value x10
        extract_lets +onlyGivenNames x11
        have g11 : Keeps s0 x11 := (writeOuts_keeps g10)
        clear_value x11
        extract_lets +onlyGivenNames x12
        have g12 : Keeps s0 x12 := (consume_keeps (consume_keeps g11))
        clear_value x12
        extract_lets +onlyGivenNames x13
        have g13 : Keeps s0 x13 := (addFlush_keeps g12)
        clear_value x13
        extract_lets +onlyGivenNames x14
        clear_value x14
        exact (afterPass_keeps (moveFills_keeps g13))

theorem refillEnts_keeps {s0 : State} {a0 : State} {a1 : ℕ} {a2 : FillRec} {a3 : FillRow} {a4 : DmaPar} {a5 : Bool} {a6 : Option Reread} (h0 : Keeps s0 a0) : Keeps s0 (refillEnts a0 a1 a2 a3 a4 a5 a6).1 := by
  unfold refillEnts
  dsimp only
  split
  · dsimp only
    exact h0
  · split
    · split
      · dsimp only
        exact (loadLocal_keeps h0)
      · dsimp only
        exact (loadLocal_keeps (loadLocal_keeps h0))
    · dsimp only
      exact h0

theorem refillRow_keeps {s0 : State} {a0 : State} {a1 : ℕ} {a2 : FillRec} {a3 : FillRow} {a4 : Option Fmt} {a5 : Nature} (h0 : Keeps s0 a0) : Keeps s0 (refillRow a0 a1 a2 a3 a4 a5).1 := by
  unfold refillRow
  extract_lets +onlyGivenNames p r again mx at' far old y z e
  have hy : Keeps s0 y.1 := reread_keeps h0
  clear_value y
  have hz : Keeps s0 z.1 := by
    unfold z
    split
    · exact reread_keeps hy
    · exact hy
  clear_value z
  have he : Keeps s0 e.1 := by
    unfold e
    split
    · exact refillEnts_keeps hz
    · exact hz
  clear_value e
  split <;> exact he

theorem refillAll_keeps {s0 : State} {a0 : State} {a1 : ℕ} {a2 : Fmt} {a3 : Nature} {a4 : List (Option (FillRec × FillRow))} (h0 : Keeps s0 a0) : Keeps s0 (refillAll a0 a1 a2 a3 a4).1 := by
  unfold refillAll
  refine (keeps_foldl_fst h0 fun u0 v0 => ?_)
  split
  · split
    · exact (Keeps.refl _)
    · dsimp only
      exact (refillRow_keeps (Keeps.refl _))
  · exact (Keeps.refl _)

theorem atPass_keeps {s0 : State} {a0 : State} {a1 : ℕ} {a2 : TileRun} (h0 : Keeps s0 a0) : Keeps s0 (atPass a0 a1 a2) := by
  unfold atPass
  exact (modCore_keeps h0)

theorem repeatPart_keeps {s0 : State} {a0 : State} {a1 : ℕ} {a2 : ℕ} {a3 : GemmPar} {a4 : TileRun} {a5 : Nature} {a6 : Fmt} {a7 : Fmt} {a8 : Region} {a9 : Region} {a10 : List ℕ} {a11 : List (Option (FillRec × FillRow))} (h0 : Keeps s0 a0) : Keeps s0 (repeatPart a0 a1 a2 a3 a4 a5 a6 a7 a8 a9 a10 a11).1 := by
  unfold repeatPart
  dsimp only
  exact (keeps_ite_fst (refillAll_keeps h0) h0)

theorem repeatPass_keeps {s0 : State} {a0 : State} {a1 : ℕ} {a2 : ℕ} {a3 : GemmPar} {a4 : TileRun} {a5 : Nature} (h0 : Keeps s0 a0) : Keeps s0 (repeatPass a0 a1 a2 a3 a4 a5).1 := by
  unfold repeatPass
  dsimp only
  split
  · dsimp only
    exact (repeatPart_keeps h0)
  · dsimp only
    exact (repeatPart_keeps (repeatPart_keeps h0))

theorem commitTile_keeps {s0 : State} {a0 : State} {a1 : ℕ} {a2 : ℕ} {a3 : Flight} (h0 : Keeps s0 a0) : Keeps s0 (commitTile a0 a1 a2 a3) := by
  unfold commitTile
  split
  · exact h0
  · extract_lets +onlyGivenNames x0
    clear_value x0
    split
    · exact h0
    · extract_lets +onlyGivenNames x1
      clear_value x1
      exact (releaseHolds_keeps (commitStats_keeps h0))

theorem applyLate_keeps {s0 : State} {a0 : State} {a1 : ℕ} {a2 : Late} (h0 : Keeps s0 a0) : Keeps s0 (applyLate a0 a1 a2) := by
  unfold applyLate
  split
  · exact (modHeat_keeps h0)
  · exact (modHeat_keeps h0)
  · exact (modHeat_keeps h0)
  · exact (modHeat_keeps h0)

theorem execCompletionRecord_keeps {s0 : State} {a0 : ℕ} {a1 : State} (h1 : Keeps s0 a1) : Runs s0 (execCompletionRecord a0 a1) := by
  unfold execCompletionRecord
  extract_lets +onlyGivenNames x0
  clear_value x0
  split
  · split
    · exact (runs_next h1)
    · extract_lets +onlyGivenNames x1
      have g1 : Keeps s0 x1 := (writeRecord_keeps h1)
      clear_value x1
      extract_lets +onlyGivenNames x2
      have g2 : Keeps s0 x2 := (keeps_ite (commitTile_keeps g1) g1)
      clear_value x2
      extract_lets +onlyGivenNames x3
      have g3 : Keeps s0 x3 := (keeps_ite g2 (keeps_foldl g2 fun u4 v4 => (applyLate_keeps (Keeps.refl _))))
      clear_value x3
      extract_lets +onlyGivenNames x5
      have g5 : Keeps s0 x5 := (countRecord_keeps g3)
      clear_value x5
      extract_lets +onlyGivenNames x6
      have g6 : Keeps s0 x6 := (freePrefetch_keeps g5)
      clear_value x6
      extract_lets +onlyGivenNames x7
      have g7 : Keeps s0 x7 := (modCore_keeps g6)
      clear_value x7
      exact (runs_next (setQueue_keeps g7))
  · exact (runs_next h1)

theorem endDiag_keeps {s0 : State} {a0 : State} {a1 : ℕ} {a2 : ℕ} {a3 : ℕ} {a4 : Flight} {a5 : DiagPar} {a6 : ℕ} {a7 : Ev} (h0 : Keeps s0 a0) : Keeps s0 (endDiag a0 a1 a2 a3 a4 a5 a6 a7) := by
  unfold endDiag
  extract_lets +onlyGivenNames x0
  clear_value x0
  extract_lets +onlyGivenNames x1
  have g1 : Keeps s0 x1 := (consume_keeps (consume_keeps h0))
  clear_value x1
  extract_lets +onlyGivenNames x2
  have g2 : Keeps s0 x2 := (moveFills_keeps (keeps_ite (consume_keeps g1) g1))
  clear_value x2
  extract_lets +onlyGivenNames x3
  have g3 : Keeps s0 x3 := (addFlush_keeps g2)
  clear_value x3
  exact (finish_keeps g3)

theorem diagFinish_keeps {s0 : State} {a0 : State} {a1 : ℕ} {a2 : Nature} {a3 : ℕ} {a4 : Flight} {a5 : DiagMark} (h0 : Keeps s0 a0) : Keeps s0 (diagFinish a0 a1 a2 a3 a4 a5) := by
  unfold diagFinish
  extract_lets +onlyGivenNames x0
  clear_value x0
  extract_lets +onlyGivenNames x1
  clear_value x1
  extract_lets +onlyGivenNames x2
  clear_value x2
  extract_lets +onlyGivenNames x3
  clear_value x3
  extract_lets +onlyGivenNames x4
  have g4 : Keeps s0 x4 := (writeDiag_keeps (modFlight_keeps (dadd_keeps h0)))
  clear_value x4
  exact (keeps_ite (retirePermanent_keeps g4) (keeps_ite (retirePermanent_keeps g4) (endDiag_keeps (recordTransient_keeps g4))))

theorem enterRepeat_keeps {s0 : State} {a0 : State} {a1 : ℕ} {a2 : ℕ} {a3 : GemmPar} {a4 : RepeatOut} (h0 : Keeps s0 a0) : Keeps s0 (enterRepeat a0 a1 a2 a3 a4) := by
  unfold enterRepeat
  extract_lets +onlyGivenNames x0
  have g0 : Keeps s0 x0 := (feedRepeat_keeps (feedRepeat_keeps h0))
  clear_value x0
  exact (addFlush_keeps (writeOuts_keeps g0))

theorem execTileRepeat_keeps {s0 : State} {a0 : ℕ} {a1 : Nature} {a2 : State} (h2 : Keeps s0 a2) : Runs s0 (execTileRepeat a0 a1 a2) := by
  unfold execTileRepeat
  split
  · exact (runs_next h2)
  · extract_lets +onlyGivenNames x0
    clear_value x0
    extract_lets +onlyGivenNames x1
    clear_value x1
    extract_lets +onlyGivenNames x2
    clear_value x2
    extract_lets +onlyGivenNames x3
    have g3 : Keeps s0 x3.1 := (repeatPass_keeps h2)
    clear_value x3
    split
    · exact (runs_next g3)
    · extract_lets +onlyGivenNames x4
      clear_value x4
      extract_lets +onlyGivenNames x5
      have g5 : Keeps s0 x5 := (enterRepeat_keeps g3)
      clear_value x5
      extract_lets +onlyGivenNames x6
      have g6 : Keeps s0 x6 := (lockHolds_keeps g5)
      clear_value x6
      exact (runs_next (afterPass_keeps g6))

theorem execDiagEw_keeps {s0 : State} {a0 : ℕ} {a1 : Nature} {a2 : State} (h2 : Keeps s0 a2) : Runs s0 (execDiagEw a0 a1 a2) := by
  unfold execDiagEw
  refine (withRunning_keeps h2 (fun y0_0 y0_1 => ?_))
  extract_lets +onlyGivenNames x1
  clear_value x1
  extract_lets +onlyGivenNames x2
  clear_value x2
  split
  · exact h2
  · extract_lets +onlyGivenNames x3
    clear_value x3
    extract_lets +onlyGivenNames x4
    clear_value x4
    extract_lets +onlyGivenNames x5
    have g5 : Keeps s0 x5 := (writeDiag_keeps h2)
    clear_value x5
    exact (keeps_ite (endDiag_keeps g5) (keeps_ite (modFlight_keeps g5) (uncontained_keeps (modFlight_keeps g5))))

theorem execPhotoFinish_keeps {s0 : State} {a0 : ℕ} {a1 : Nature} {a2 : State} (h2 : Keeps s0 a2) : Runs s0 (execPhotoFinish a0 a1 a2) := by
  unfold execPhotoFinish
  split
  · split
    · exact (runs_next (diagFinish_keeps h2))
    · exact (runs_next h2)
  · extract_lets +onlyGivenNames x0
    clear_value x0
    extract_lets +onlyGivenNames x1
    clear_value x1
    extract_lets +onlyGivenNames x2
    have g2 : Keeps s0 x2.1 := (repeatPass_keeps h2)
    clear_value x2
    split
    · exact (runs_next g2)
    · extract_lets +onlyGivenNames x3
      have g3 : Keeps s0 x3 := (dadd_keeps g2)
      clear_value x3
      extract_lets +onlyGivenNames x4
      clear_value x4
      extract_lets +onlyGivenNames x5
      have g5 : Keeps s0 x5 := (enterRepeat_keeps g3)
      clear_value x5
      extract_lets +onlyGivenNames x6
      clear_value x6
      split
      · exact (runs_next (retirePermanent_keeps (keepTile_keeps g5)))
      · split
        · exact (runs_next (retirePermanent_keeps (keepTile_keeps g5)))
        · extract_lets +onlyGivenNames x7
          have g7 : Keeps s0 x7 := (recordTransient_keeps g5)
          clear_value x7
          extract_lets +onlyGivenNames x8
          clear_value x8
          exact (runs_next (evaluatePass_keeps g7))

theorem execGemmTile_keeps {s0 : State} {a0 : ℕ} {a1 : Nature} {a2 : State} (h2 : Keeps s0 a2) : Runs s0 (execGemmTile a0 a1 a2) := by
  unfold execGemmTile
  exact (withRunning_keeps h2 (fun y0_0 y0_1 => (gemmStep_keeps h2)))

end Sys2Proof.Machine
end

