-- ==== Sys2Proof/Laws/KeepMem.lean ====
section
/-! SUPPORT. What the operations of Machine/Mem.lean keep. -/

namespace Sys2Proof.Machine

theorem modRegion_keeps {s0 : State} {a0 : State} {a1 : ℕ} {a2 : ℕ} {a3 : OrdRegion → OrdRegion} (h0 : Keeps s0 a0) : Keeps s0 (modRegion a0 a1 a2 a3) := by
  unfold modRegion
  exact (modHeat_keeps h0)

theorem applyMemOp_keeps {s0 : State} {a0 : State} {a1 : ℕ} {a2 : ℕ} {a3 : List Byte} (h0 : Keeps s0 a0) : Keeps s0 (applyMemOp a0 a1 a2 a3).1 := by
  unfold applyMemOp
  dsimp only
  split
  · exact (checkRead_keeps h0)
  · dsimp only
    split
    · exact (addFlush_keeps (keeps_foldl_fst (checkRead_keeps h0) fun u0 v0 => (writeNat_keeps (Keeps.refl _))))
    · exact (keeps_foldl_fst (checkRead_keeps h0) fun u1 v1 => (writeNat_keeps (Keeps.refl _)))

theorem addSquares_keeps {s0 : State} {a0 : State} {a1 : ℕ} {a2 : ℕ} {a3 : List Byte} (h0 : Keeps s0 a0) : Keeps s0 (addSquares a0 a1 a2 a3).1 := by
  unfold addSquares
  dsimp only
  exact (setLedger_keeps h0)

theorem squaresOf_keeps {s0 : State} {a0 : State} {a1 : ℕ} {a2 : ℕ} {a3 : ContribSpan} {a4 : List Byte} (h0 : Keeps s0 a0) : Keeps s0 (squaresOf a0 a1 a2 a3 a4) := by
  unfold squaresOf
  exact (keeps_ite (addSquares_keeps h0) h0)

theorem ordApply_keeps {s0 : State} {a0 : State} {a1 : ℕ} {a2 : ℕ} {a3 : ℕ} {a4 : ℕ} {a5 : Sender} {a6 : ContribSpan} {a7 : List Byte} (h0 : Keeps s0 a0) : Keeps s0 (ordApply a0 a1 a2 a3 a4 a5 a6 a7).1 := by
  unfold ordApply
  dsimp only
  exact (keeps_ite_fst (storeStack_keeps (modRegion_keeps h0)) (applyMemOp_keeps (squaresOf_keeps (modRegion_keeps h0))))

theorem addInto_keeps {s0 : State} {a0 : State} {a1 : ℕ} {a2 : ℕ} {a3 : ℕ} {a4 : Sender} {a5 : ContribSpan} {a6 : List Byte} (h0 : Keeps s0 a0) : Keeps s0 (addInto a0 a1 a2 a3 a4 a5 a6).1 := by
  unfold addInto
  refine (keeps_foldl_fst h0 fun u0 v0 => ?_)
  dsimp only
  split
  · exact (Keeps.refl _)
  · split
    · exact (applyMemOp_keeps (squaresOf_keeps (Keeps.refl _)))
    · exact (keeps_ite_fst (Keeps.refl _) (ordApply_keeps (Keeps.refl _)))

theorem beginPass_keeps {s0 : State} {a0 : State} (h0 : Keeps s0 a0) : Keeps s0 (beginPass a0) := by
  unfold beginPass
  exact (keeps_ite (Keeps.upd h0) h0)

theorem swapMemory_keeps {s0 s t : State} (h : Keeps s0 s) (g : Keeps s0 t) : Keeps s0 { t with mem := s.mem, blank := s.blank, errs := s.errs } := by
  refine ⟨g.pending, fun x => ?_, g.freeCtr, g.slots, g.channels, g.logNext, g.out⟩
  have y := (State.tablesOk_iff _).1 (h.tables x)
  exact (State.tablesOk_iff _).2 { (State.tablesOk_iff _).1 (g.tables x) with mem := y.mem, errs := y.errs }

theorem execPatrolScrub_keeps {s0 : State} {a0 : ℕ} {a1 : List (ℕ × Byte)} {a2 : Bool} {a3 : State} (h3 : Keeps s0 a3) : Runs s0 (execPatrolScrub a0 a1 a2 a3) := by
  unfold execPatrolScrub
  extract_lets +onlyGivenNames s
  have hs : Keeps s0 s := injectErrs_keeps (beginPass_keeps h3)
  clear_value s
  split
  · exact runs_next hs
  · extract_lets +onlyGivenNames r r2 r3
    have hr : Keeps s0 r := readSector_keeps hs
    have h2 : Keeps s0 r2 := keeps_ite (swapMemory_keeps hs hr) hr
    clear_value r2
    have h4 : Keeps s0 r3 := Keeps.upd h2
    clear_value r3
    exact runs_next (keeps_ite (dadd_keeps h4) h4)

theorem ordWhole_keeps {s0 : State} {a0 : State} {a1 : ℕ} {a2 : ℕ} {a3 : Contrib} (h0 : Keeps s0 a0) : Keeps s0 (ordWhole a0 a1 a2 a3) := by
  unfold ordWhole
  extract_lets +onlyGivenNames x0
  have g0 : Keeps s0 x0 := (modRegion_keeps h0)
  clear_value x0
  split
  · exact (keeps_ite (contribute_keeps g0) g0)
  · exact g0

theorem ordEnd_keeps {s0 : State} {a0 : State} {a1 : ℕ} {a2 : ℕ} {a3 : ℕ} (h0 : Keeps s0 a0) : Keeps s0 (ordEnd a0 a1 a2 a3) := by
  unfold ordEnd
  split
  · exact h0
  · exact (keeps_ite (modRegion_keeps h0) (ordWhole_keeps h0))

theorem execInDieCountRead_keeps {s0 : State} {a0 : ℕ} {a1 : State} (h1 : Keeps s0 a1) : Runs s0 (execInDieCountRead a0 a1) := by
  unfold execInDieCountRead
  extract_lets +onlyGivenNames x0
  clear_value x0
  extract_lets +onlyGivenNames x1
  have h1 : Keeps s0 x1 := (dset_keeps h1)
  clear_value x1
  exact (runs_next (keeps_ite (raise_keeps h1) h1))

theorem storeLocal_keeps {s0 : State} {a0 : State} {a1 : Option ℕ} {a2 : ℕ} {a3 : List Byte} (h0 : Keeps s0 a0) : Keeps s0 (storeLocal a0 a1 a2 a3).1 := by
  unfold storeLocal
  split
  · dsimp only
    split
    · exact (cacheUpdate_keeps (storeStack_keeps h0))
    · exact (storeStack_keeps h0)
  · dsimp only
    exact (keeps_foldl (writeBytes_keeps h0) fun u0 v0 => (noteBufWrite_keeps (Keeps.refl _)))
  · dsimp only
    exact (writeBytes_keeps h0)
  · dsimp only
    exact h0

theorem ordEndAll_keeps {s0 : State} {a0 : State} {a1 : ℕ} {a2 : ℕ} {a3 : List (ℕ × ℕ)} (h0 : Keeps s0 a0) : Keeps s0 (ordEndAll a0 a1 a2 a3) := by
  unfold ordEndAll
  exact (keeps_foldl h0 fun u0 v0 => (ordEnd_keeps (Keeps.refl _)))

end Sys2Proof.Machine
end

