-- ==== Sys2Proof/Laws/KeepDma.lean ====
section
/-! SUPPORT. What the operations of Machine/Dma.lean keep. -/

namespace Sys2Proof.Machine

theorem storeSquares_keeps {s0 : State} {a0 : State} {a1 : ℕ} {a2 : DmaPar} {a3 : Option Fmt} {a4 : List Byte} (h0 : Keeps s0 a0) : Keeps s0 (storeSquares a0 a1 a2 a3 a4) := by
  unfold storeSquares
  split
  · extract_lets +onlyGivenNames x0
    have g0 : Keeps s0 x0.1 := (addSquares_keeps h0)
    clear_value x0
    exact (addFlush_keeps g0)
  · exact h0

theorem writeRowLocal_keeps {s0 : State} {a0 : State} {a1 : ℕ} {a2 : ℕ} {a3 : ℕ} {a4 : DmaPar} {a5 : Option Fmt} {a6 : ℕ} {a7 : List Byte} (h0 : Keeps s0 a0) : Keeps s0 (writeRowLocal a0 a1 a2 a3 a4 a5 a6 a7).1 := by
  unfold writeRowLocal
  split
  · dsimp only
    exact (ringDoorbell_keeps h0)
  · exact (keeps_ite_fst (storeLocal_keeps (storeSquares_keeps h0)) (addInto_keeps (cacheInvalidate_keeps h0)))

theorem failDma_keeps {s0 : State} {a0 : State} {a1 : ℕ} {a2 : ℕ} {a3 : ℕ} {a4 : ℕ} (h0 : Keeps s0 a0) : Keeps s0 (failDma a0 a1 a2 a3 a4) := by
  unfold failDma
  exact (modFlight_keeps h0)

theorem holdDma_keeps {s0 : State} {a0 : State} {a1 : ℕ} {a2 : Flight} (h0 : Keeps s0 a0) : Keeps s0 (holdDma a0 a1 a2) := by
  unfold holdDma
  exact (keeps_ite h0 (dadd_keeps (modFlight_keeps h0)))

theorem writeMemory_keeps {s0 : State} {a0 : State} {a1 : ℕ} {a2 : ℕ} {a3 : Flight} {a4 : DmaPar} {a5 : List (ℕ × List Byte × List Byte)} (h0 : Keeps s0 a0) : Keeps s0 (writeMemory a0 a1 a2 a3 a4 a5).1 := by
  unfold writeMemory
  dsimp only
  exact (keeps_ite_fst (ordEndAll_keeps (keeps_foldl_fst h0 fun u0 v0 => (keeps_ite_fst (Keeps.refl _) (keeps_ite_fst (keeps_ite_fst (writeRowLocal_keeps (Keeps.refl _)) (Keeps.refl _)) (storeLocal_keeps (keeps_ite_fst (writeRowLocal_keeps (Keeps.refl _)) (Keeps.refl _))))))) (keeps_foldl_fst h0 fun u1 v1 => (keeps_ite_fst (Keeps.refl _) (keeps_ite_fst (keeps_ite_fst (writeRowLocal_keeps (Keeps.refl _)) (Keeps.refl _)) (storeLocal_keeps (keeps_ite_fst (writeRowLocal_keeps (Keeps.refl _)) (Keeps.refl _)))))))

theorem abandonDma_keeps {s0 : State} {a0 : State} {a1 : ℕ} {a2 : ℕ} (h0 : Keeps s0 a0) : Keeps s0 (abandonDma a0 a1 a2) := by
  unfold abandonDma
  exact (modFlight_keeps h0)

theorem actDma_keeps {s0 : State} {a0 : State} {a1 : ℕ} {a2 : ℕ} {a3 : ℕ} {a4 : ℕ} {a5 : ℕ} {a6 : Bool} (h0 : Keeps s0 a0) : Keeps s0 (actDma a0 a1 a2 a3 a4 a5 a6) := by
  unfold actDma
  exact (settleDma_keeps (modFlight_keeps h0))

theorem lateStep_keeps {s0 : State} {a0 : State} {a1 : ℕ} {a2 : ℕ} (h0 : Keeps s0 a0) : Keeps s0 (lateStep a0 a1 a2) := by
  unfold lateStep
  split
  · split
    · exact h0
    · extract_lets +onlyGivenNames x0
      clear_value x0
      split
      · exact h0
      · split
        · exact (failDma_keeps (countRefusal_keeps h0))
        · split
          · exact (holdDma_keeps h0)
          · extract_lets +onlyGivenNames x1
            have g1 : Keeps s0 x1.1 := (writeMemory_keeps (modFlight_keeps h0))
            clear_value x1
            extract_lets +onlyGivenNames x2
            have g2 : Keeps s0 x2.1 := (keeps_ite_fst (storeLocal_keeps g1) g1)
            clear_value x2
            exact (keeps_ite (abandonDma_keeps g2) (actDma_keeps (addFlush_keeps g2)))
  · exact h0

theorem runPrefetch_keeps {s0 : State} {a0 : State} {a1 : ℕ} {a2 : ℕ} {a3 : ℕ} {a4 : DmaPar} {a5 : ℕ} {a6 : ℕ} (h0 : Keeps s0 a0) : Keeps s0 (runPrefetch a0 a1 a2 a3 a4 a5 a6).1 := by
  unfold runPrefetch
  split
  · dsimp only
    exact h0
  · refine (keeps_foldl_fst h0 fun u1 v1 => ?_)
    split
    · exact (Keeps.refl _)
    · exact (keeps_ite_fst (cacheFetch_keeps (Keeps.refl _)) (Keeps.refl _))

theorem gatherLocal_keeps {s0 : State} {a0 : State} {a1 : ℕ} {a2 : ℕ} {a3 : ℕ} {a4 : DmaPar} {a5 : Option Fmt} (h0 : Keeps s0 a0) : Keeps s0 (gatherLocal a0 a1 a2 a3 a4 a5).1 := by
  unfold gatherLocal
  dsimp only
  refine (keeps_foldl_fst h0 fun u0 v0 => ?_)
  split
  · exact (Keeps.refl _)
  · exact (keeps_ite_fst (Keeps.refl _) (keeps_ite_fst (runPrefetch_keeps (Keeps.refl _)) (loadLocal_keeps (runPrefetch_keeps (Keeps.refl _)))))

theorem gatherScales_keeps {s0 : State} {a0 : State} {a1 : ℕ} {a2 : ℕ} {a3 : DmaPar} {a4 : Option Fmt} (h0 : Keeps s0 a0) : Keeps s0 (gatherScales a0 a1 a2 a3 a4).1 := by
  unfold gatherScales
  split
  · dsimp only
    exact h0
  · dsimp only
    refine (keeps_foldl_fst h0 fun u0 v0 => ?_)
    split
    · exact (Keeps.refl _)
    · dsimp only
      exact (loadLocal_keeps (Keeps.refl _))

theorem gatherEntries_keeps {s0 : State} {a0 : State} {a1 : ℕ} {a2 : ℕ} {a3 : DmaPar} {a4 : Flight} (h0 : Keeps s0 a0) : Keeps s0 (gatherEntries a0 a1 a2 a3 a4).1 := by
  unfold gatherEntries
  split
  · dsimp only
    exact h0
  · split
    · dsimp only
      exact h0
    · split
      · dsimp only
        exact (loadLocal_keeps h0)
      · dsimp only
        exact h0

theorem holdSource_keeps {s0 : State} {a0 : State} {a1 : ℕ} {a2 : ℕ} {a3 : DmaPar} {a4 : Slot} {a5 : Slot} {a6 : List Byte} (h0 : Keeps s0 a0) : Keeps s0 (holdSource a0 a1 a2 a3 a4 a5 a6).1 := by
  unfold holdSource
  dsimp only
  split
  · exact h0
  · split
    · exact (setCluster_keeps (dadd_keeps h0))
    · exact (setCluster_keeps (dadd_keeps h0))

theorem freshTxn_keeps {s0 : State} {a0 : State} (h0 : Keeps s0 a0) : Keeps s0 (freshTxn a0).2 := by
  unfold freshTxn
  exact (Keeps.upd h0)

theorem sendTxn_keeps {s0 : State} {a0 : State} {a1 : TxnOwner} {a2 : Packet} (h0 : Keeps s0 a0) : Keeps s0 (sendTxn a0 a1 a2) := by
  unfold sendTxn
  extract_lets +onlyGivenNames x0
  have h0 : Keeps s0 x0.2 := (freshTxn_keeps h0)
  clear_value x0
  extract_lets +onlyGivenNames x1
  clear_value x1
  extract_lets +onlyGivenNames x2
  have h2 : Keeps s0 x2 := by
    unfold x2
    clear x2
    exact h0
  clear_value x2
  extract_lets +onlyGivenNames x3
  have h3 : Keeps s0 x3 := (Keeps.upd h2)
  clear_value x3
  exact (sendPacket_keeps h3)

theorem pumpDma_keeps {s0 : State} {a0 : State} {a1 : ℕ} {a2 : ℕ} (h0 : Keeps s0 a0) : Keeps s0 (pumpDma a0 a1 a2) := by
  unfold pumpDma
  split
  · exact h0
  · extract_lets +onlyGivenNames x0
    clear_value x0
    extract_lets +onlyGivenNames x1
    have g1 : Keeps s0 x1 := (modFlight_keeps h0)
    clear_value x1
    exact (keeps_foldl g1 fun u2 v2 => (sendTxn_keeps (Keeps.refl _)))

theorem queuePackets_keeps {s0 : State} {a0 : State} {a1 : ℕ} {a2 : ℕ} {a3 : List (ℕ × Packet)} (h0 : Keeps s0 a0) : Keeps s0 (queuePackets a0 a1 a2 a3) := by
  unfold queuePackets
  exact (pumpDma_keeps (modFlight_keeps h0))

theorem processRows_keeps {s0 : State} {a0 : State} {a1 : ℕ} {a2 : ℕ} {a3 : Flight} {a4 : DmaPar} {a5 : List (ℕ × List Byte)} {a6 : List (ℕ × List Byte)} {a7 : List (ℕ × Lifted)} {a8 : ℕ} {a9 : ℕ} (h0 : Keeps s0 a0) : Keeps s0 (processRows a0 a1 a2 a3 a4 a5 a6 a7 a8 a9) := by
  unfold processRows
  extract_lets +onlyGivenNames x0
  clear_value x0
  extract_lets +onlyGivenNames x1
  clear_value x1
  extract_lets +onlyGivenNames x2
  clear_value x2
  extract_lets +onlyGivenNames x3
  clear_value x3
  extract_lets +onlyGivenNames x4
  clear_value x4
  extract_lets +onlyGivenNames x5
  clear_value x5
  extract_lets +onlyGivenNames x6
  clear_value x6
  split
  · extract_lets +onlyGivenNames x7
    clear_value x7
    extract_lets +onlyGivenNames x8
    clear_value x8
    extract_lets +onlyGivenNames x9
    clear_value x9
    extract_lets +onlyGivenNames x10
    have g10 : Keeps s0 x10.1 := (holdSource_keeps h0)
    clear_value x10
    extract_lets +onlyGivenNames x11
    clear_value x11
    extract_lets +onlyGivenNames x12
    have g12 : Keeps s0 x12 := (writeFill_keeps g10)
    clear_value x12
    extract_lets +onlyGivenNames x13
    have g13 : Keeps s0 x13 := (keeps_foldl (addFlush_keeps g12) fun u14 v14 => (storeSquares_keeps (Keeps.refl _)))
    clear_value x13
    exact (actDma_keeps g13)
  · extract_lets +onlyGivenNames x15
    clear_value x15
    extract_lets +onlyGivenNames x16
    clear_value x16
    extract_lets +onlyGivenNames x17
    clear_value x17
    extract_lets +onlyGivenNames x18
    clear_value x18
    extract_lets +onlyGivenNames x19
    clear_value x19
    extract_lets +onlyGivenNames x20
    clear_value x20
    extract_lets +onlyGivenNames x21
    clear_value x21
    extract_lets +onlyGivenNames x22
    clear_value x22
    exact (lateStep_keeps (queuePackets_keeps (modFlight_keeps h0)))

theorem copyStep_keeps {s0 : State} {a0 : State} {a1 : ℕ} {a2 : ℕ} {a3 : Flight} {a4 : DmaPar} (h0 : Keeps s0 a0) : Keeps s0 (copyStep a0 a1 a2 a3 a4) := by
  unfold copyStep
  extract_lets +onlyGivenNames x0
  clear_value x0
  split
  · exact (failDma_keeps (countRefusal_keeps h0))
  · split
    · exact (holdDma_keeps h0)
    · extract_lets +onlyGivenNames x1
      clear_value x1
      extract_lets +onlyGivenNames x2
      have g2 : Keeps s0 x2.1 := (keeps_ite_fst h0 (gatherLocal_keeps h0))
      clear_value x2
      split
      · exact (abandonDma_keeps g2)
      · extract_lets +onlyGivenNames x3
        have g3 : Keeps s0 x3.1 := (gatherScales_keeps g2)
        clear_value x3
        split
        · exact (abandonDma_keeps g3)
        · extract_lets +onlyGivenNames x4
          have g4 : Keeps s0 x4.1 := (gatherEntries_keeps g3)
          clear_value x4
          split
          · exact (abandonDma_keeps g4)
          · exact (processRows_keeps g4)

theorem askRemote_keeps {s0 : State} {a0 : State} {a1 : ℕ} {a2 : ℕ} {a3 : Flight} {a4 : DmaPar} (h0 : Keeps s0 a0) : Keeps s0 (askRemote a0 a1 a2 a3 a4) := by
  unfold askRemote
  extract_lets +onlyGivenNames x0
  clear_value x0
  extract_lets +onlyGivenNames x1
  clear_value x1
  extract_lets +onlyGivenNames x2
  clear_value x2
  extract_lets +onlyGivenNames x3
  have h3 : Keeps s0 x3 := (modFlight_keeps h0)
  clear_value x3
  exact (queuePackets_keeps h3)

theorem dmaStep_keeps {s0 : State} {a0 : State} {a1 : ℕ} {a2 : ℕ} {a3 : Flight} (h0 : Keeps s0 a0) : Keeps s0 (dmaStep a0 a1 a2 a3) := by
  unfold dmaStep
  extract_lets +onlyGivenNames x0
  clear_value x0
  extract_lets +onlyGivenNames x1
  clear_value x1
  extract_lets +onlyGivenNames x2
  clear_value x2
  split
  · exact (lateStep_keeps h0)
  · split
    · exact (copyStep_keeps h0)
    · split
      · exact (askRemote_keeps h0)
      · split
        · exact h0
        · split
          · exact (settleDma_keeps (modFlight_keeps h0))
          · split
            · extract_lets +onlyGivenNames x3
              clear_value x3
              split
              · exact (failDma_keeps h0)
              · extract_lets +onlyGivenNames x4
                have g4 : Keeps s0 x4 := (modFlight_keeps h0)
                clear_value x4
                exact (queuePackets_keeps g4)
            · exact (copyStep_keeps h0)

theorem setStream_keeps {s0 : State} {a0 : State} {a1 : ℕ} {a2 : ℕ} {a3 : Option Stream} (h0 : Keeps s0 a0) : Keeps s0 (setStream a0 a1 a2 a3) := by
  unfold setStream
  exact (modCluster_keeps h0)

theorem quantStep_keeps {s0 : State} {a0 : State} {a1 : ℕ} {a2 : ℕ} {a3 : Flight} (h0 : Keeps s0 a0) : Keeps s0 (quantStep a0 a1 a2 a3) := by
  unfold quantStep
  extract_lets +onlyGivenNames x0
  clear_value x0
  extract_lets +onlyGivenNames x1
  clear_value x1
  split
  · exact (lateStep_keeps h0)
  · split
    · exact h0
    · split
      · exact h0
      · split
        · exact (failDma_keeps (countRefusal_keeps (setStream_keeps h0)))
        · split
          · exact (holdDma_keeps h0)
          · extract_lets +onlyGivenNames x2
            clear_value x2
            extract_lets +onlyGivenNames x3
            clear_value x3
            extract_lets +onlyGivenNames x4
            clear_value x4
            exact (processRows_keeps (setStream_keeps h0))

theorem execQuantStream_keeps {s0 : State} {a0 : ℕ} {a1 : State} (h1 : Keeps s0 a1) : Runs s0 (execQuantStream a0 a1) := by
  unfold execQuantStream
  exact (withRunning_keeps h1 (fun y0_0 y0_1 => (quantStep_keeps h1)))

theorem execDmaCopy_keeps {s0 : State} {a0 : ℕ} {a1 : List SectorErr} {a2 : State} (h2 : Keeps s0 a2) : Runs s0 (execDmaCopy a0 a1 a2) := by
  unfold execDmaCopy
  exact (withRunning_keeps (injectErrs_keeps h2) (fun y0_0 y0_1 => (dmaStep_keeps (injectErrs_keeps h2))))

theorem pumpCluster_keeps {s0 : State} {a0 : State} {a1 : ℕ} (h0 : Keeps s0 a0) : Keeps s0 (pumpCluster a0 a1) := by
  unfold pumpCluster
  exact (keeps_foldl h0 fun u0 v0 => (keeps_foldl (Keeps.refl _) fun u1 v1 => (pumpDma_keeps (Keeps.refl _))))

end Sys2Proof.Machine
end

