-- ==== Sys2Proof/Laws/KeepColl.lean ====
section
/-! SUPPORT. What the operations of Machine/Coll.lean keep. -/

namespace Sys2Proof.Machine

theorem takeData_keeps {s0 : State} {a0 : State} {a1 : Packet} {a2 : List Byte} (h0 : Keeps s0 a0) : Keeps s0 (takeData a0 a1 a2).1 := by
  unfold takeData
  exact (keeps_ite_fst (storeLocal_keeps h0) (applyMemOp_keeps h0))

theorem modColl_keeps {s0 : State} {a0 : State} {a1 : ℕ} {a2 : ℕ} {a3 : Coll → Coll} (h0 : Keeps s0 a0) : Keeps s0 (modColl a0 a1 a2 a3) := by
  unfold modColl
  exact (Keeps.upd h0)

theorem modPeer_keeps {s0 : State} {a0 : State} {a1 : ℕ} {a2 : ℕ} {a3 : ℕ} {a4 : Peer → Peer} (h0 : Keeps s0 a0) : Keeps s0 (modPeer a0 a1 a2 a3 a4) := by
  unfold modPeer
  exact (modColl_keeps h0)

theorem withColl_keeps {s0 : State} {a0 : ℕ} {a1 : ℕ} {a2 : State} {a3 : ℕ → Flight → Coll → State} (h2 : Keeps s0 a2) (h3 : ∀ v0 v1 v2, Keeps s0 (a3 v0 v1 v2)) : Runs s0 (withColl a0 a1 a2 a3) := by
  unfold withColl
  split
  · split
    · exact runs_next (h3 _ _ _)
    · exact runs_next h2
  · exact runs_next h2

theorem sendColl_keeps {s0 : State} {a0 : State} {a1 : Coll} {a2 : ℕ} {a3 : Packet} (h0 : Keeps s0 a0) : Keeps s0 (sendColl a0 a1 a2 a3) := by
  unfold sendColl
  split
  · exact (keeps_ite h0 (keeps_ite (modColl_keeps h0) (sendTxn_keeps h0)))
  · exact h0

theorem dropTxns_keeps {s0 : State} {a0 : State} {a1 : TxnOwner → Bool} (h0 : Keeps s0 a0) : Keeps s0 (dropTxns a0 a1) := by
  unfold dropTxns
  exact (Keeps.upd h0)

theorem endColl_keeps {s0 : State} {a0 : State} {a1 : Coll} {a2 : ℕ} {a3 : ℕ} {a4 : ℕ} (h0 : Keeps s0 a0) : Keeps s0 (endColl a0 a1 a2 a3 a4) := by
  unfold endColl
  extract_lets +onlyGivenNames x0
  clear_value x0
  extract_lets +onlyGivenNames x1
  have g1 : Keeps s0 x1 := (dropTxns_keeps h0)
  clear_value x1
  extract_lets +onlyGivenNames x2
  have g2 : Keeps s0 x2 := (Keeps.upd g1)
  clear_value x2
  exact (releaseAlloc_keeps (finish_keeps g2))

theorem keepRange_keeps {s0 : State} {a0 : State} {a1 : ℕ} {a2 : ℕ} {a3 : ℕ} {a4 : ℕ} (h0 : Keeps s0 a0) : Keeps s0 (keepRange a0 a1 a2 a3 a4).1 := by
  unfold keepRange
  dsimp only
  exact (keeps_ite (dset_keeps (modHeat_keeps h0)) (dadd_keeps (dset_keeps (modHeat_keeps h0))))

theorem agEnd_keeps {s0 : State} {a0 : State} {a1 : CollPar} {a2 : Coll} (h0 : Keeps s0 a0) : Keeps s0 (agEnd a0 a1 a2) := by
  unfold agEnd
  extract_lets +onlyGivenNames x0
  clear_value x0
  extract_lets +onlyGivenNames x1
  have g1 : Keeps s0 x1.1 := (keeps_ite_fst (keepRange_keeps h0) h0)
  clear_value x1
  extract_lets +onlyGivenNames x2
  clear_value x2
  exact (endColl_keeps g1)

theorem bxEnd_keeps {s0 : State} {a0 : State} {a1 : CollPar} {a2 : Coll} (h0 : Keeps s0 a0) : Keeps s0 (bxEnd a0 a1 a2) := by
  unfold bxEnd
  extract_lets +onlyGivenNames x0
  have g0 : Keeps s0 x0 := (keeps_foldl h0 fun u1 v1 => (storeStack_keeps (Keeps.refl _)))
  clear_value x0
  extract_lets +onlyGivenNames x2
  clear_value x2
  exact (keeps_ite (endColl_keeps (dadd_keeps g0)) (endColl_keeps g0))

theorem rlFail_keeps {s0 : State} {a0 : State} {a1 : CollPar} {a2 : Coll} (h0 : Keeps s0 a0) : Keeps s0 (rlFail a0 a1 a2) := by
  unfold rlFail
  extract_lets +onlyGivenNames x0
  have g0 : Keeps s0 x0.2 := (freeBytes_keeps h0)
  clear_value x0
  exact (endColl_keeps (storeStack_keeps g0))

theorem settleColl_keeps {s0 : State} {a0 : State} {a1 : ℕ} {a2 : ℕ} (h0 : Keeps s0 a0) : Keeps s0 (settleColl a0 a1 a2) := by
  unfold settleColl
  split
  · exact h0
  · extract_lets +onlyGivenNames x0
    clear_value x0
    split
    · exact h0
    · split
      · extract_lets +onlyGivenNames x1
        clear_value x1
        exact (endColl_keeps h0)
      · split
        · exact h0
        · split
          · exact (keeps_ite (endColl_keeps h0) h0)
          · exact (keeps_ite (agEnd_keeps h0) h0)
          · exact (keeps_ite (bxEnd_keeps h0) h0)
          · split
            · exact (rlFail_keeps h0)
            · split
              · extract_lets +onlyGivenNames x2
                clear_value x2
                exact (endColl_keeps h0)
              · exact h0

theorem sendRun_keeps {s0 : State} {a0 : State} {a1 : Coll} {a2 : ℕ} {a3 : ℕ} {a4 : ℕ} {a5 : ℕ} {a6 : ℕ} {a7 : Option ℕ} {a8 : ℕ} {a9 : ℕ} (h0 : Keeps s0 a0) : Keeps s0 (sendRun a0 a1 a2 a3 a4 a5 a6 a7 a8 a9) := by
  unfold sendRun
  extract_lets +onlyGivenNames x0
  have g0 : Keeps s0 x0.1 := (checkRead_keeps h0)
  clear_value x0
  split
  · exact g0
  · extract_lets +onlyGivenNames x1
    have g1 : Keeps s0 x1 := (modPeer_keeps g0)
    clear_value x1
    exact (keeps_foldl g1 fun u2 v2 => (sendColl_keeps (Keeps.refl _)))

theorem rsSend_keeps {s0 : State} {a0 : State} {a1 : CollPar} {a2 : Coll} {a3 : ℕ} (h0 : Keeps s0 a0) : Keeps s0 (rsSend a0 a1 a2 a3) := by
  unfold rsSend
  extract_lets +onlyGivenNames x0
  clear_value x0
  split
  · exact h0
  · extract_lets +onlyGivenNames x1
    clear_value x1
    extract_lets +onlyGivenNames x2
    clear_value x2
    extract_lets +onlyGivenNames x3
    have g3 : Keeps s0 x3 := (sendRun_keeps h0)
    clear_value x3
    exact (modColl_keeps g3)

theorem agSend_keeps {s0 : State} {a0 : State} {a1 : CollPar} {a2 : Coll} {a3 : ℕ} (h0 : Keeps s0 a0) : Keeps s0 (agSend a0 a1 a2 a3) := by
  unfold agSend
  exact (keeps_ite h0 (sendRun_keeps h0))

theorem bxGrant_keeps {s0 : State} {a0 : State} {a1 : CollPar} {a2 : Coll} (h0 : Keeps s0 a0) : Keeps s0 (bxGrant a0 a1 a2) := by
  unfold bxGrant
  split
  · exact h0
  · extract_lets +onlyGivenNames x0
    clear_value x0
    extract_lets +onlyGivenNames x1
    clear_value x1
    extract_lets +onlyGivenNames x2
    clear_value x2
    extract_lets +onlyGivenNames x3
    clear_value x3
    extract_lets +onlyGivenNames x4
    clear_value x4
    extract_lets +onlyGivenNames x5
    clear_value x5
    extract_lets +onlyGivenNames x6
    have g6 : Keeps s0 x6 := (keeps_ite h0 (settlePool_keeps (Keeps.updPoolHead h0 fun e => tabSet_rises _ e _ _)))
    clear_value x6
    extract_lets +onlyGivenNames x7
    have g7 : Keeps s0 x7 := (modColl_keeps g6)
    clear_value x7
    extract_lets +onlyGivenNames x8
    clear_value x8
    extract_lets +onlyGivenNames x9
    have g9 : Keeps s0 x9 := (keeps_foldl g7 fun u10 v10 => (sendColl_keeps (Keeps.refl _)))
    clear_value x9
    extract_lets +onlyGivenNames x11
    clear_value x11
    extract_lets +onlyGivenNames x12
    have g12 : Keeps s0 x12.1 := (checkRead_keeps g9)
    clear_value x12
    exact (keeps_ite (storeStack_keeps g12) g12)

theorem refuseColl_keeps {s0 : State} {a0 : State} {a1 : Coll} {a2 : ℕ} (h0 : Keeps s0 a0) : Keeps s0 (refuseColl a0 a1 a2) := by
  unfold refuseColl
  exact (modColl_keeps h0)

theorem rlSend_keeps {s0 : State} {a0 : State} {a1 : CollPar} {a2 : Coll} (h0 : Keeps s0 a0) : Keeps s0 (rlSend a0 a1 a2) := by
  unfold rlSend
  split
  · exact h0
  · extract_lets +onlyGivenNames x0
    clear_value x0
    extract_lets +onlyGivenNames x1
    have g1 : Keeps s0 x1 := (modPeer_keeps h0)
    clear_value x1
    extract_lets +onlyGivenNames x2
    have g2 : Keeps s0 x2 := by
      unfold x2
      clear x2
      refine (keeps_foldl g1 fun u4 v4 => (keeps_ite (keeps_ite (refuseColl_keeps (Keeps.refl _)) ?_) (sendRun_keeps (Keeps.refl _))))
      extract_lets +onlyGivenNames x5
      have g5 : Keeps u4 x5.1 := (checkRead_keeps (Keeps.refl _))
      clear_value x5
      exact (keeps_ite (storeLocal_keeps g5) g5)
    clear_value x2
    refine (keeps_foldl g2 fun u6 v6 => ?_)
    extract_lets +onlyGivenNames x7
    clear_value x7
    extract_lets +onlyGivenNames x8
    have g8 : Keeps u6 x8 := (modPeer_keeps (Keeps.refl _))
    clear_value x8
    exact (sendColl_keeps g8)

theorem pumpColl_keeps {s0 : State} {a0 : State} {a1 : ℕ} {a2 : ℕ} (h0 : Keeps s0 a0) : Keeps s0 (pumpColl a0 a1 a2) := by
  unfold pumpColl
  split
  · exact h0
  · split
    · exact h0
    · extract_lets +onlyGivenNames x0
      clear_value x0
      split
      · exact (keeps_foldl h0 fun u1 v1 => (rsSend_keeps (Keeps.refl _)))
      · exact (keeps_foldl h0 fun u2 v2 => (agSend_keeps (Keeps.refl _)))
      · exact (bxGrant_keeps h0)
      · exact (rlSend_keeps h0)

theorem openColl_keeps {s0 : State} {a0 : State} {a1 : Coll} {a2 : ℕ} {a3 : ℕ → ℕ} (h0 : Keeps s0 a0) : Keeps s0 (openColl a0 a1 a2 a3) := by
  unfold openColl
  extract_lets +onlyGivenNames x0
  have g0 : Keeps s0 x0 := (modFlight_keeps h0)
  clear_value x0
  extract_lets +onlyGivenNames x1
  have g1 : Keeps s0 x1 := (keeps_foldl g0 fun u2 v2 => (sendColl_keeps (Keeps.refl _)))
  clear_value x1
  exact (settleColl_keeps (pumpColl_keeps g1))

theorem execReduceScatter_keeps {s0 : State} {a0 : ℕ} {a1 : State} (h1 : Keeps s0 a1) : Runs s0 (execReduceScatter a0 a1) := by
  unfold execReduceScatter
  exact (withColl_keeps h1 (fun y0_0 y0_1 y0_2 => (openColl_keeps h1)))

theorem arrive_keeps {s0 : State} {a0 : State} {a1 : ℕ} {a2 : Packet} (h0 : Keeps s0 a0) : Keeps s0 (arrive a0 a1 a2).1 := by
  unfold arrive
  dsimp only
  split
  · dsimp only
    exact (modPort_keeps h0)
  · split
    · dsimp only
      exact (dadd_keeps (modPort_keeps h0))
    · split
      · dsimp only
        exact (modPort_keeps h0)
      · dsimp only
        exact (dadd_keeps (modPort_keeps h0))

theorem sendNak_keeps {s0 : State} {a0 : State} {a1 : Packet} {a2 : ℕ} (h0 : Keeps s0 a0) : Keeps s0 (sendNak a0 a1 a2) := by
  unfold sendNak
  exact (sendPacket_keeps h0)

theorem targetHeat_keeps {s0 : State} {a0 : State} {a1 : ℕ} {a2 : Packet} (h0 : Keeps s0 a0) : Keeps s0 (targetHeat a0 a1 a2).1 := by
  unfold targetHeat
  split
  · exact (nakBack_keeps h0)
  · split
    · exact h0
    · exact h0
    · exact h0
    · exact (sendNak_keeps h0)
    · exact (sendNak_keeps h0)
    · exact (nakBack_keeps h0)

theorem collAnswer_keeps {s0 : State} {a0 : State} {a1 : Option Coll} {a2 : Packet} {a3 : ℕ} {a4 : ℕ} (h0 : Keeps s0 a0) : Keeps s0 (collAnswer a0 a1 a2 a3 a4) := by
  unfold collAnswer
  extract_lets +onlyGivenNames x0
  clear_value x0
  extract_lets +onlyGivenNames x1
  clear_value x1
  exact (sendPacket_keeps h0)

theorem keepRefusal_keeps {s0 : State} {a0 : State} {a1 : ℕ} {a2 : ℕ} {a3 : ℕ} {a4 : ℕ} (h0 : Keeps s0 a0) : Keeps s0 (keepRefusal a0 a1 a2 a3 a4) := by
  unfold keepRefusal
  exact (domSet_keeps h0)

theorem answerRefuse_keeps {s0 : State} {a0 : State} {a1 : Coll} {a2 : Packet} {a3 : ℕ} (h0 : Keeps s0 a0) : Keeps s0 (answerRefuse a0 a1 a2 a3) := by
  unfold answerRefuse
  extract_lets +onlyGivenNames x0
  have g0 : Keeps s0 x0 := (keepRefusal_keeps (collAnswer_keeps h0))
  clear_value x0
  exact (settleColl_keeps (refuseColl_keeps g0))

theorem collIn_keeps {s0 : State} {a0 : ℕ} {a1 : Packet} {a2 : State} {a3 : State → Coll → State} (h2 : Keeps s0 a2) (h3 : ∀ v3_0 v3_1, Keeps v3_0 (a3 v3_0 v3_1)) : Keeps s0 (collIn a0 a1 a2 a3) := by
  unfold collIn
  extract_lets +onlyGivenNames x0
  have g0 : Keeps s0 x0.1 := (arrive_keeps h2)
  clear_value x0
  split
  · exact g0
  · extract_lets +onlyGivenNames x1
    have g1 : Keeps s0 x1.1 := (targetHeat_keeps g0)
    clear_value x1
    split
    · exact g1
    · extract_lets +onlyGivenNames x2
      have g2 : Keeps s0 x2 := g1
      clear_value x2
      extract_lets +onlyGivenNames x3
      clear_value x3
      split
      · exact (keeps_ite (keeps_ite (collAnswer_keeps (Keeps.upd g2)) (collAnswer_keeps g2)) (collAnswer_keeps g2))
      · extract_lets +onlyGivenNames x4
        have g4 : Keeps s0 x4 := (modColl_keeps g2)
        clear_value x4
        exact (keeps_ite (collAnswer_keeps g4) (keeps_ite (answerRefuse_keeps g4) (g4.trans (h3 _ _))))

theorem takeMsg_keeps {s0 : State} {a0 : State} {a1 : Coll} {a2 : Packet} (h0 : Keeps s0 a0) : Keeps s0 (takeMsg a0 a1 a2).1 := by
  unfold takeMsg
  dsimp only
  split
  · split
    · exact h0
    · exact (modPeer_keeps h0)
  · split
    · exact (modPeer_keeps h0)
    · exact (modPeer_keeps h0)

theorem collMsgIn_keeps {s0 : State} {a0 : ℕ} {a1 : Packet} {a2 : State} (h2 : Keeps s0 a2) : Keeps s0 (collMsgIn a0 a1 a2) := by
  unfold collMsgIn
  refine (collIn_keeps h2 (fun y0_0 y0_1 => ?_))
  extract_lets +onlyGivenNames x1
  have g1 : Keeps y0_0 x1.1 := (takeMsg_keeps (Keeps.refl _))
  clear_value x1
  split
  · exact (answerRefuse_keeps g1)
  · exact (settleColl_keeps (pumpColl_keeps (collAnswer_keeps g1)))

theorem execCollEnd_keeps {s0 : State} {a0 : ℕ} {a1 : Packet} {a2 : State} (h2 : Keeps s0 a2) : Runs s0 (execCollEnd a0 a1 a2) := by
  unfold execCollEnd
  exact (runs_next (collMsgIn_keeps h2))

theorem collHeard_keeps {s0 : State} {a0 : State} {a1 : Coll} {a2 : ℕ} (h0 : Keeps s0 a0) : Keeps s0 (collHeard a0 a1 a2) := by
  unfold collHeard
  split
  · split
    · exact h0
    · extract_lets +onlyGivenNames x0
      have g0 : Keeps s0 x0 := (modColl_keeps h0)
      clear_value x0
      exact (keeps_foldl g0 fun u1 v1 => (sendColl_keeps (Keeps.refl _)))
  · exact h0

theorem dataApplied_keeps {s0 : State} {a0 : State} {a1 : Coll} {a2 : Packet} {a3 : ℕ} {a4 : ℕ} (h0 : Keeps s0 a0) : Keeps s0 (dataApplied a0 a1 a2 a3 a4) := by
  unfold dataApplied
  extract_lets +onlyGivenNames x0
  have h0 : Keeps s0 x0 := (modPeer_keeps h0)
  clear_value x0
  exact (collAnswer_keeps h0)

theorem storeData_keeps {s0 : State} {a0 : State} {a1 : Coll} {a2 : Packet} {a3 : ℕ} {a4 : List Byte} (h0 : Keeps s0 a0) : Keeps s0 (storeData a0 a1 a2 a3 a4) := by
  unfold storeData
  split
  · exact (sendNak_keeps h0)
  · split
    · exact (answerRefuse_keeps h0)
    · extract_lets +onlyGivenNames x0
      have g0 : Keeps s0 x0.1 := (takeData_keeps h0)
      clear_value x0
      exact (keeps_ite (dataApplied_keeps g0) (sendNak_keeps g0))

theorem addStaged_keeps {s0 : State} {a0 : ℕ} {a1 : OrdRegion} {a2 : Contrib} {a3 : State × Bool × List ContribSpan} {a4 : ContribSpan} (h3 : Keeps s0 a3.1) : Keeps s0 (addStaged a0 a1 a2 a3 a4).1 := by
  unfold addStaged
  split
  · exact h3
  · split
    · dsimp only
      exact h3
    · dsimp only
      exact (keeps_ite_fst (checkRead_keeps h3) (applyMemOp_keeps (squaresOf_keeps (checkRead_keeps h3))))

theorem answerIn_keeps {s0 : State} {a0 : State} {a1 : ℕ} {a2 : Packet} (h0 : Keeps s0 a0) : Keeps s0 (answerIn a0 a1 a2).1 := by
  unfold answerIn
  dsimp only
  exact (keeps_ite_fst (arrive_keeps h0) (keeps_ite_fst (nakBack_keeps (arrive_keeps h0)) (arrive_keeps h0)))

theorem takeTxn_keeps {s0 : State} {a0 : State} {a1 : ℕ} (h0 : Keeps s0 a0) : Keeps s0 (takeTxn a0 a1).1 := by
  unfold takeTxn
  exact (Keeps.upd h0)

theorem collAnswered_keeps {s0 : State} {a0 : ℕ} {a1 : Packet} {a2 : State} {a3 : State → Coll → ℕ → Packet → State} (h2 : Keeps s0 a2) (h3 : ∀ v3_0 v3_1 v3_2 v3_3, Keeps v3_0 (a3 v3_0 v3_1 v3_2 v3_3)) : Keeps s0 (collAnswered a0 a1 a2 a3) := by
  unfold collAnswered
  extract_lets +onlyGivenNames x0
  have g0 : Keeps s0 x0.1 := (answerIn_keeps h2)
  clear_value x0
  split
  · exact g0
  · split
    · extract_lets +onlyGivenNames x1
      have g1 : Keeps s0 x1 := (modColl_keeps (takeTxn_keeps g0))
      clear_value x1
      exact ((collHeard_keeps g1).trans (h3 _ _ _ _))
    · exact g0

theorem execCollAck_keeps {s0 : State} {a0 : ℕ} {a1 : Packet} {a2 : State} (h2 : Keeps s0 a2) : Runs s0 (execCollAck a0 a1 a2) := by
  unfold execCollAck
  exact (runs_next (collAnswered_keeps h2 (fun y0_0 y0_1 y0_2 y0_3 => (settleColl_keeps (Keeps.refl _)))))

theorem refuseStaged_keeps {s0 : State} {a0 : State} {a1 : ℕ} {a2 : Contrib} {a3 : List ContribSpan} (h0 : Keeps s0 a0) : Keeps s0 (refuseStaged a0 a1 a2 a3) := by
  unfold refuseStaged
  split
  · split
    · extract_lets +onlyGivenNames x0
      clear_value x0
      extract_lets +onlyGivenNames x1
      have g1 : Keeps s0 x1 := (sendPacket_keeps h0)
      clear_value x1
      exact (settleColl_keeps (refuseColl_keeps (keepRefusal_keeps g1)))
    · exact h0
  · exact h0

theorem enterColl_keeps {s0 : State} {a0 : State} {a1 : ℕ} {a2 : ℕ} {a3 : HeadCmd} (h0 : Keeps s0 a0) : Keeps s0 (enterColl a0 a1 a2 a3) := by
  unfold enterColl
  extract_lets +onlyGivenNames x0
  clear_value x0
  extract_lets +onlyGivenNames x1
  clear_value x1
  exact (Keeps.upd h0)

theorem execCollHeld_keeps {s0 : State} {a0 : ℕ} {a1 : Packet} {a2 : State} (h2 : Keeps s0 a2) : Runs s0 (execCollHeld a0 a1 a2) := by
  unfold execCollHeld
  exact (runs_next (collAnswered_keeps h2 (fun y0_0 y0_1 y0_2 y0_3 => (keeps_ite (settleColl_keeps (Keeps.refl _)) (keeps_ite (sendColl_keeps (Keeps.refl _)) (modColl_keeps (Keeps.refl _)))))))

theorem execCollBusy_keeps {s0 : State} {a0 : ℕ} {a1 : Packet} {a2 : State} (h2 : Keeps s0 a2) : Runs s0 (execCollBusy a0 a1 a2) := by
  unfold execCollBusy
  extract_lets +onlyGivenNames x0
  clear_value x0
  extract_lets +onlyGivenNames x1
  have g1 : Keeps s0 x1.1 := (answerIn_keeps h2)
  clear_value x1
  split
  · exact (runs_next g1)
  · split
    · extract_lets +onlyGivenNames x2
      have g2 : Keeps s0 x2 := (modColl_keeps g1)
      clear_value x2
      extract_lets +onlyGivenNames x3
      have g3 : Keeps s0 x3 := (Keeps.upd g2)
      clear_value x3
      exact (runs_next (settleColl_keeps (collHeard_keeps g3)))
    · exact (runs_next g1)

theorem rsApply_keeps {s0 : State} {a0 : State} {a1 : CollPar} {a2 : Coll} {a3 : Option ℕ} {a4 : Packet} {a5 : ℕ} {a6 : List Byte} (h0 : Keeps s0 a0) : Keeps s0 (rsApply a0 a1 a2 a3 a4 a5 a6) := by
  unfold rsApply
  extract_lets +onlyGivenNames x0
  extract_lets +onlyGivenNames x1
  have g1 : Keeps s0 x1.1 := by
    unfold x1
    clear x1
    split
    · exact (ordApply_keeps h0)
    · exact (takeData_keeps h0)
  clear_value x1
  split
  · exact (sendNak_keeps g1)
  · extract_lets +onlyGivenNames x2
    have g2 : Keeps s0 x2 := by
      unfold x2
      clear x2
      split
      · exact g1
      · split
        · exact (ordEnd_keeps g1)
        · exact (keeps_ite (contribute_keeps g1) g1)
    clear_value x2
    exact (dataApplied_keeps g2)

theorem rsData_keeps {s0 : State} {a0 : State} {a1 : CollPar} {a2 : Coll} {a3 : Packet} {a4 : ℕ} {a5 : List Byte} (h0 : Keeps s0 a0) : Keeps s0 (rsData a0 a1 a2 a3 a4 a5) := by
  unfold rsData
  split
  · exact (answerRefuse_keeps (countLedgerRefusal_keeps h0))
  · extract_lets +onlyGivenNames x0
    unfold x0
    clear x0
    split
    · exact (keeps_ite (answerRefuse_keeps h0) (rsApply_keeps (modPeer_keeps h0)))
    · split
      · exact (answerRefuse_keeps h0)
      · split
        · extract_lets +onlyGivenNames x1
          have g1 : Keeps s0 x1 := (keeps_ite h0 (dadd_keeps h0))
          clear_value x1
          exact (collAnswer_keeps (modPeer_keeps g1))
        · exact (rsApply_keeps (modPeer_keeps h0))

theorem bxSend_keeps {s0 : State} {a0 : State} {a1 : CollPar} {a2 : Coll} {a3 : ℕ} {a4 : ℕ} (h0 : Keeps s0 a0) : Keeps s0 (bxSend a0 a1 a2 a3 a4) := by
  unfold bxSend
  split
  · exact (keeps_ite h0 (sendRun_keeps h0))
  · exact h0

theorem execCollRefuse_keeps {s0 : State} {a0 : ℕ} {a1 : Packet} {a2 : State} (h2 : Keeps s0 a2) : Runs s0 (execCollRefuse a0 a1 a2) := by
  unfold execCollRefuse
  extract_lets +onlyGivenNames x0
  clear_value x0
  extract_lets +onlyGivenNames x1
  have g1 : Keeps s0 x1.1 := (answerIn_keeps h2)
  clear_value x1
  split
  · exact (runs_next g1)
  · extract_lets +onlyGivenNames x2
    clear_value x2
    extract_lets +onlyGivenNames x3
    have g3 : Keeps s0 x3 := (keeps_ite (takeTxn_keeps g1) g1)
    clear_value x3
    split
    · exact (runs_next g3)
    · split
      · exact (runs_next g3)
      · extract_lets +onlyGivenNames x4
        have g4 : Keeps s0 x4 := (modColl_keeps (keepRefusal_keeps g3))
        clear_value x4
        exact (runs_next (settleColl_keeps (refuseColl_keeps g4)))

theorem execCollData_keeps {s0 : State} {a0 : ℕ} {a1 : Packet} {a2 : State} (h2 : Keeps s0 a2) : Runs s0 (execCollData a0 a1 a2) := by
  unfold execCollData
  extract_lets +onlyGivenNames x0
  clear_value x0
  refine (runs_next (collIn_keeps h2 (fun y1_0 y1_1 => ?_)))
  extract_lets +onlyGivenNames x2
  clear_value x2
  extract_lets +onlyGivenNames x3
  clear_value x3
  extract_lets +onlyGivenNames x4
  clear_value x4
  extract_lets +onlyGivenNames x5
  clear_value x5
  split
  · exact (answerRefuse_keeps (Keeps.refl _))
  · split
    · exact (sendNak_keeps (Keeps.refl _))
    · extract_lets +onlyGivenNames x6
      have g6 : Keeps y1_0 x6 := (keeps_ite (rsData_keeps (Keeps.refl _)) (storeData_keeps (Keeps.refl _)))
      clear_value x6
      exact (settleColl_keeps (pumpColl_keeps g6))

theorem execRelay_keeps {s0 : State} {a0 : ℕ} {a1 : State} (h1 : Keeps s0 a1) : Runs s0 (execRelay a0 a1) := by
  unfold execRelay
  refine (withColl_keeps h1 (fun y0_0 y0_1 y0_2 => ?_))
  extract_lets +onlyGivenNames x1
  clear_value x1
  extract_lets +onlyGivenNames x2
  extract_lets +onlyGivenNames x3
  have g3 : Keeps s0 x3.1 := by
    unfold x3
    clear x3
    split
    · refine (keeps_foldl_fst h1 fun u6 v6 => (keeps_ite_fst (Keeps.refl _) ?_))
      dsimp only
      exact (keeps_ite_fst (checkRead_keeps (Keeps.refl _)) (storeLocal_keeps (checkRead_keeps (Keeps.refl _))))
    · dsimp only
      exact h1
  clear_value x3
  split
  · exact g3
  · extract_lets +onlyGivenNames x7
    have g7 : Keeps s0 x7 := (modColl_keeps g3)
    clear_value x7
    exact (openColl_keeps g7)

theorem settleReduces_keeps {s0 : State} {a0 : State} {a1 : ℕ} (h0 : Keeps s0 a0) : Keeps s0 (settleReduces a0 a1) := by
  unfold settleReduces
  exact (keeps_foldl h0 fun u0 v0 => (keeps_ite (settleColl_keeps (Keeps.refl _)) (Keeps.refl _)))

theorem execBatonExchange_keeps {s0 : State} {a0 : ℕ} {a1 : State} (h1 : Keeps s0 a1) : Runs s0 (execBatonExchange a0 a1) := by
  unfold execBatonExchange
  refine (withColl_keeps h1 (fun y0_0 y0_1 y0_2 => ?_))
  extract_lets +onlyGivenNames x1
  clear_value x1
  extract_lets +onlyGivenNames x2
  have g2 : Keeps s0 x2.1 := (checkRead_keeps h1)
  clear_value x2
  split
  · exact g2
  · extract_lets +onlyGivenNames x3
    clear_value x3
    extract_lets +onlyGivenNames x4
    have g4 : Keeps s0 x4 := (modColl_keeps g2)
    clear_value x4
    extract_lets +onlyGivenNames x5
    have g5 : Keeps s0 x5 := (modPeer_keeps g4)
    clear_value x5
    exact (openColl_keeps g5)

theorem execCollReady_keeps {s0 : State} {a0 : ℕ} {a1 : Packet} {a2 : State} (h2 : Keeps s0 a2) : Runs s0 (execCollReady a0 a1 a2) := by
  unfold execCollReady
  exact (runs_next (collMsgIn_keeps h2))

theorem execCollectiveWaitExpiry_keeps {s0 : State} {a0 : ℕ} {a1 : ℕ} {a2 : State} (h2 : Keeps s0 a2) : Runs s0 (execCollectiveWaitExpiry a0 a1 a2) := by
  unfold execCollectiveWaitExpiry
  split
  · exact (runs_next h2)
  · extract_lets +onlyGivenNames x0
    clear_value x0
    split
    · exact (runs_next h2)
    · exact (runs_next (raise_keeps (modColl_keeps h2)))

theorem execCollBusyResend_keeps {s0 : State} {a0 : ℕ} {a1 : State} (h1 : Keeps s0 a1) : Runs s0 (execCollBusyResend a0 a1) := by
  unfold execCollBusyResend
  split
  · split
    · exact (runs_next h1)
    · extract_lets +onlyGivenNames x0
      have g0 : Keeps s0 x0 := (takeTxn_keeps h1)
      clear_value x0
      split
      · exact (runs_next (keeps_ite (settleColl_keeps g0) (sendColl_keeps g0)))
      · exact (runs_next g0)
  · exact (runs_next h1)

theorem settleStaged_keeps {s0 : State} {a0 : State} {a1 : ℕ} {a2 : Contrib} {a3 : List ContribSpan} (h0 : Keeps s0 a0) : Keeps s0 (settleStaged a0 a1 a2 a3) := by
  unfold settleStaged
  exact (keeps_foldl h0 fun u0 v0 => (keeps_ite (failDma_keeps (countLedgerRefusal_keeps (Keeps.refl _))) (keeps_ite (Keeps.refl _) (settleDma_keeps (modFlight_keeps (Keeps.refl _))))))

theorem consumeEarly_keeps {s0 : State} {a0 : State} {a1 : ℕ} {a2 : ℕ} (h0 : Keeps s0 a0) : Keeps s0 (consumeEarly a0 a1 a2) := by
  unfold consumeEarly
  extract_lets +onlyGivenNames x0
  clear_value x0
  extract_lets +onlyGivenNames x1
  clear_value x1
  extract_lets +onlyGivenNames x2
  have g2 : Keeps s0 x2 := (Keeps.upd h0)
  clear_value x2
  refine (keeps_foldl g2 fun u3 v3 => ?_)
  split
  · exact (Keeps.refl _)
  · split
    · exact (answerRefuse_keeps (Keeps.refl _))
    · extract_lets +onlyGivenNames x4
      have g4 : Keeps u3 x4.1 := (takeMsg_keeps (Keeps.refl _))
      clear_value x4
      split
      · exact (answerRefuse_keeps g4)
      · exact g4

theorem execStagedContributionAdd_keeps {s0 : State} {a0 : ℕ} {a1 : ℕ} {a2 : State} (h2 : Keeps s0 a2) : Runs s0 (execStagedContributionAdd a0 a1 a2) := by
  unfold execStagedContributionAdd
  split
  · exact (runs_next h2)
  · split
    · exact (runs_next h2)
    · split
      · exact (runs_next h2)
      · extract_lets +onlyGivenNames x0
        have g0 : Keeps s0 x0.1 := (keeps_foldl_fst h2 fun u1 v1 => (addStaged_keeps (Keeps.refl _)))
        clear_value x0
        exact (runs_next (keeps_ite (settleReduces_keeps (refuseStaged_keeps (settleStaged_keeps (ordWhole_keeps g0)))) g0))

theorem execAllGather_keeps {s0 : State} {a0 : ℕ} {a1 : State} (h1 : Keeps s0 a1) : Runs s0 (execAllGather a0 a1) := by
  unfold execAllGather
  refine (withColl_keeps h1 (fun y0_0 y0_1 y0_2 => ?_))
  extract_lets +onlyGivenNames x1
  clear_value x1
  extract_lets +onlyGivenNames x2
  clear_value x2
  extract_lets +onlyGivenNames x3
  clear_value x3
  extract_lets +onlyGivenNames x4
  clear_value x4
  extract_lets +onlyGivenNames x5
  have g5 : Keeps s0 x5 := (keeps_ite (dset_keeps (modHeat_keeps h1)) h1)
  clear_value x5
  extract_lets +onlyGivenNames x6
  clear_value x6
  extract_lets +onlyGivenNames x7
  clear_value x7
  extract_lets +onlyGivenNames x8
  have g8 : Keeps s0 x8.1 := (keeps_ite_fst g5 (checkRead_keeps g5))
  clear_value x8
  extract_lets +onlyGivenNames x9
  have g9 : Keeps s0 x9 := (keeps_ite g8 (storeStack_keeps g8))
  clear_value x9
  extract_lets +onlyGivenNames x10
  have g10 : Keeps s0 x10 := (modColl_keeps g9)
  clear_value x10
  exact (openColl_keeps g10)

theorem execCollCounts_keeps {s0 : State} {a0 : ℕ} {a1 : Packet} {a2 : State} (h2 : Keeps s0 a2) : Runs s0 (execCollCounts a0 a1 a2) := by
  unfold execCollCounts
  exact (runs_next (collMsgIn_keeps h2))

theorem execCollGrant_keeps {s0 : State} {a0 : ℕ} {a1 : Packet} {a2 : State} (h2 : Keeps s0 a2) : Runs s0 (execCollGrant a0 a1 a2) := by
  unfold execCollGrant
  extract_lets +onlyGivenNames x0
  clear_value x0
  refine (runs_next (collIn_keeps h2 (fun y1_0 y1_1 => ?_)))
  extract_lets +onlyGivenNames x2
  clear_value x2
  extract_lets +onlyGivenNames x3
  have g3 : Keeps y1_0 x3 := (modPeer_keeps (Keeps.refl _))
  clear_value x3
  extract_lets +onlyGivenNames x4
  have g4 : Keeps y1_0 x4 := (collAnswer_keeps g3)
  clear_value x4
  split
  · exact (settleColl_keeps (bxSend_keeps g4))
  · exact g4

theorem execCollResume_keeps {s0 : State} {a0 : ℕ} {a1 : Packet} {a2 : State} (h2 : Keeps s0 a2) : Runs s0 (execCollResume a0 a1 a2) := by
  unfold execCollResume
  extract_lets +onlyGivenNames x0
  clear_value x0
  refine (runs_next (collIn_keeps h2 (fun y1_0 y1_1 => ?_)))
  extract_lets +onlyGivenNames x2
  clear_value x2
  extract_lets +onlyGivenNames x3
  clear_value x3
  extract_lets +onlyGivenNames x4
  have g4 : Keeps y1_0 x4 := (modColl_keeps (Keeps.refl _))
  clear_value x4
  extract_lets +onlyGivenNames x5
  have g5 : Keeps y1_0 x5 := (modPeer_keeps g4)
  clear_value x5
  exact (keeps_foldl (collAnswer_keeps g5) fun u6 v6 => (sendColl_keeps (Keeps.refl _)))

theorem takeAnswer_keeps {s0 : State} {a0 : State} {a1 : ℕ} {a2 : Packet} (h0 : Keeps s0 a0) : Keeps s0 (takeAnswer a0 a1 a2).1 := by
  unfold takeAnswer
  dsimp only
  exact (keeps_ite_fst (takeTxn_keeps (answerIn_keeps h0)) (answerIn_keeps h0))

end Sys2Proof.Machine
end

