-- ==== Sys2Proof/Laws/KeepTokens.lean ====
section
/-! SUPPORT. What the operations of Machine/Tokens.lean keep. -/

namespace Sys2Proof.Machine

theorem setCorePower_keeps {s0 : State} {a0 : State} {a1 : ℕ} {a2 : UnitPower} (h0 : Keeps s0 a0) : Keeps s0 (setCorePower a0 a1 a2) := by
  unfold setCorePower
  exact (Keeps.updCorePower h0 fun e => tabSet_rises _ e _ _)

theorem clusterCores_keeps {s0 : State} {a0 : State} {a1 : ℕ} {a2 : UnitPower} (h0 : Keeps s0 a0) : Keeps s0 (clusterCores a0 a1 a2) := by
  unfold clusterCores
  split
  · exact (keeps_foldl h0 fun u0 v0 => (setCorePower_keeps (Keeps.refl _)))
  · exact h0

theorem applyWake_keeps {s0 : State} {a0 : State} {a1 : WakeUnit} (h0 : Keeps s0 a0) : Keeps s0 (applyWake a0 a1) := by
  unfold applyWake
  split
  · exact (Keeps.upd h0)
  · exact (clusterCores_keeps (Keeps.upd h0))
  · exact (Keeps.upd h0)
  · exact (setCorePower_keeps h0)

theorem grantWake_keeps {s0 : State} {a0 : State} {a1 : WakeUnit} (h0 : Keeps s0 a0) : Keeps s0 (grantWake a0 a1) := by
  unfold grantWake
  extract_lets +onlyGivenNames x0
  clear_value x0
  exact (applyWake_keeps (dadd_keeps (Keeps.upd h0)))

theorem requestWake_keeps {s0 : State} {a0 : State} {a1 : WakeUnit} (h0 : Keeps s0 a0) : Keeps s0 (requestWake a0 a1) := by
  unfold requestWake
  split
  · exact h0
  · extract_lets +onlyGivenNames x0
    clear_value x0
    extract_lets +onlyGivenNames x1
    have g1 : Keeps s0 x1 := (Keeps.upd h0)
    clear_value x1
    exact (keeps_ite g1 (keeps_ite (grantWake_keeps g1) (dadd_keeps (Keeps.upd g1))))

theorem execWakeTokenRequest_keeps {s0 : State} {a0 : WakeUnit} {a1 : State} (h1 : Keeps s0 a1) : Runs s0 (execWakeTokenRequest a0 a1) := by
  unfold execWakeTokenRequest
  exact (runs_next (requestWake_keeps h1))

theorem grantNext_keeps {s0 : State} {a0 : State} (h0 : Keeps s0 a0) : Keeps s0 (grantNext a0) := by
  unfold grantNext
  split
  · exact h0
  · split
    · exact h0
    · extract_lets +onlyGivenNames x0
      clear_value x0
      extract_lets +onlyGivenNames x1
      clear_value x1
      extract_lets +onlyGivenNames x2
      have h2 : Keeps s0 x2 := (dset_keeps (Keeps.upd h0))
      clear_value x2
      exact (grantWake_keeps h2)

end Sys2Proof.Machine
end

