-- ==== Sys2Proof/Laws/KeepStart.lean ====
section
/-! SUPPORT. What the operations of Machine/Start.lean keep. -/

namespace Sys2Proof.Machine

theorem engagePrefetch_keeps {s0 : State} {a0 : State} {a1 : ℕ} {a2 : ℕ} {a3 : ℕ} {a4 : Slot} {a5 : Slot} (h0 : Keeps s0 a0) : Keeps s0 (engagePrefetch a0 a1 a2 a3 a4 a5) := by
  unfold engagePrefetch
  extract_lets +onlyGivenNames x0
  clear_value x0
  split
  · exact h0
  · extract_lets +onlyGivenNames x1
    clear_value x1
    exact (keeps_ite (dadd_keeps h0) (setCluster_keeps h0))

theorem writeClosed_keeps {s0 : State} {a0 : State} {a1 : ℕ} {a2 : StepCount} (h0 : Keeps s0 a0) : Keeps s0 (writeClosed a0 a1 a2) := by
  unfold writeClosed
  extract_lets +onlyGivenNames x0
  clear_value x0
  exact (writeNat_keeps h0)

theorem closeStep_keeps {s0 : State} {a0 : State} {a1 : ℕ} (h0 : Keeps s0 a0) : Keeps s0 (closeStep a0 a1).1 := by
  unfold closeStep
  dsimp only
  exact (keeps_foldl h0 fun u0 v0 => (writeClosed_keeps (Keeps.refl _)))

theorem startEffects_keeps {s0 : State} {a0 : State} {a1 : ℕ} {a2 : ℕ} {a3 : HeadCmd} (h0 : Keeps s0 a0) : Keeps s0 (startEffects a0 a1 a2 a3) := by
  unfold startEffects
  extract_lets +onlyGivenNames x0
  clear_value x0
  extract_lets +onlyGivenNames x1
  have g1 : Keeps s0 x1 := (engagePrefetch_keeps h0)
  clear_value x1
  split
  · extract_lets +onlyGivenNames x2
    clear_value x2
    extract_lets +onlyGivenNames x3
    clear_value x3
    exact (setStream_keeps g1)
  · extract_lets +onlyGivenNames x4
    have g4 : Keeps s0 x4.1 := (closeStep_keeps g1)
    clear_value x4
    exact (modFlight_keeps g4)
  · exact (setLedger_keeps g1)
  · exact (consumeEarly_keeps (enterColl_keeps g1))
  · exact (consumeEarly_keeps (enterColl_keeps g1))
  · exact (consumeEarly_keeps (enterColl_keeps g1))
  · exact (consumeEarly_keeps (enterColl_keeps g1))
  · exact g1

theorem wakeFor_keeps {s0 : State} {a0 : State} {a1 : Queue} (h0 : Keeps s0 a0) : Keeps s0 (wakeFor a0 a1) := by
  unfold wakeFor
  exact (keeps_ite (requestWake_keeps h0) h0)

theorem startReads_keeps {s0 : State} {a0 : State} {a1 : ℕ} {a2 : ℕ} {a3 : HeadCmd} (h0 : Keeps s0 a0) : Keeps s0 (startReads a0 a1 a2 a3).1 := by
  unfold startReads
  dsimp only
  exact (keeps_ite_fst (keeps_ite_fst (loadLocal_keeps h0) h0) (checkRead_keeps h0))

theorem serve_keeps {s0 : State} {a0 : State} {a1 : ℕ} (h0 : Keeps s0 a0) : Keeps s0 (serve a0 a1) := by
  unfold serve
  exact (Keeps.updServed h0 fun e => tabSet_rises _ e _ _)

theorem stageProgram_keeps {s0 : State} {a0 : State} {a1 : ℕ} {a2 : Slot} (h0 : Keeps s0 a0) : Keeps s0 (stageProgram a0 a1 a2) := by
  unfold stageProgram
  extract_lets +onlyGivenNames x0
  clear_value x0
  extract_lets +onlyGivenNames x1
  have h1 : Keeps s0 x1.2 := (freeBytes_keeps h0)
  clear_value x1
  exact (noteBufWrite_keeps (writeBytes_keeps h1))

theorem startHead_keeps {s0 : State} {a0 : State} {a1 : ℕ} (h0 : Keeps s0 a0) : Keeps s0 (startHead a0 a1) := by
  unfold startHead
  extract_lets +onlyGivenNames x0
  clear_value x0
  split
  · split
    · exact h0
    · split
      · exact (setQueue_keeps h0)
      · split
        · exact h0
        · split
          · exact (setQueue_keeps h0)
          · extract_lets +onlyGivenNames x1
            clear_value x1
            extract_lets +onlyGivenNames x2
            have g2 : Keeps s0 x2 := (wakeFor_keeps (setQueue_keeps h0))
            clear_value x2
            split
            · exact (dadd_keeps (setQueue_keeps g2))
            · split
              · exact g2
              · extract_lets +onlyGivenNames x3
                have g3 : Keeps s0 x3.1 := (startReads_keeps (serve_keeps g2))
                clear_value x3
                split
                · exact (setQueue_keeps g3)
                · extract_lets +onlyGivenNames x4
                  have g4 : Keeps s0 x4 := g3
                  clear_value x4
                  split
                  · extract_lets +onlyGivenNames x5
                    have g5 : Keeps s0 x5 := (keeps_ite (stageProgram_keeps g4) g4)
                    clear_value x5
                    exact (setQueue_keeps (failedEffects_keeps (countRefusal_keeps g5)))
                  · extract_lets +onlyGivenNames x6
                    clear_value x6
                    extract_lets +onlyGivenNames x7
                    have g7 : Keeps s0 x7 := (setQueue_keeps g4)
                    clear_value x7
                    exact (startEffects_keeps g7)
  · exact h0

theorem execCommandStart_keeps {s0 : State} {a0 : ℕ} {a1 : State} (h1 : Keeps s0 a1) : Runs s0 (execCommandStart a0 a1) := by
  unfold execCommandStart
  exact (runs_next (startHead_keeps h1))

theorem execNotBeforeTime_keeps {s0 : State} {a0 : ℕ} {a1 : State} (h1 : Keeps s0 a1) : Runs s0 (execNotBeforeTime a0 a1) := by
  unfold execNotBeforeTime
  split
  · split
    · exact (runs_next (startHead_keeps h1))
    · exact (runs_next h1)
  · exact (runs_next h1)

theorem execWaitQueue_keeps {s0 : State} {a0 : ℕ} {a1 : State} (h1 : Keeps s0 a1) : Runs s0 (execWaitQueue a0 a1) := by
  unfold execWaitQueue
  exact (withRunning_keeps h1 (fun y0_0 y0_1 => (finish_keeps h1)))

theorem execNop_keeps {s0 : State} {a0 : ℕ} {a1 : State} (h1 : Keeps s0 a1) : Runs s0 (execNop a0 a1) := by
  unfold execNop
  exact (withRunning_keeps h1 (fun y0_0 y0_1 => (finish_keeps h1)))

end Sys2Proof.Machine
end

