-- ==== Sys2Proof/Laws/KeepControl.lean ====
section
/-! SUPPORT. What the operations of Machine/Control.lean keep. -/

namespace Sys2Proof.Machine

theorem done0_keeps {s0 : State} {a0 : State} {a1 : ℕ} {a2 : Flight} (h0 : Keeps s0 a0) : Keeps s0 (done0 a0 a1 a2) := by
  unfold done0
  exact (finish_keeps h0)

theorem execTestWindow_keeps {s0 : State} {a0 : ℕ} {a1 : State} (h1 : Keeps s0 a1) : Runs s0 (execTestWindow a0 a1) := by
  unfold execTestWindow
  refine (withRunning_keeps h1 (fun y0_0 y0_1 => ?_))
  extract_lets +onlyGivenNames x1
  clear_value x1
  extract_lets +onlyGivenNames x2
  clear_value x2
  extract_lets +onlyGivenNames x3
  clear_value x3
  split
  · exact (done0_keeps h1)
  · extract_lets +onlyGivenNames x4
    have h4 : Keeps s0 x4 := (modFlight_keeps h1)
    clear_value x4
    exact (modCluster_keeps h4)

theorem copyLayer_keeps {s0 : State} {a0 : State} {a1 : ℕ} {a2 : ℕ} {a3 : LayerRow} (h0 : Keeps s0 a0) : Keeps s0 (copyLayer a0 a1 a2 a3) := by
  unfold copyLayer
  extract_lets +onlyGivenNames x0
  clear_value x0
  exact (writeNat_keeps h0)

theorem layerTrouble_keeps {s0 : State} {a0 : State} {a1 : ℕ} {a2 : ℕ} {a3 : ℕ} {a4 : ℕ} {a5 : LayerRow} (h0 : Keeps s0 a0) : Keeps s0 (layerTrouble a0 a1 a2 a3 a4 a5) := by
  unfold layerTrouble
  exact (logTrouble_keeps h0)

theorem stepLayer_keeps {s0 : State} {a0 : State} {a1 : ℕ} {a2 : ℕ} {a3 : StepCount} (h0 : Keeps s0 a0) : Keeps s0 (stepLayer a0 a1 a2 a3).1 := by
  unfold stepLayer
  dsimp only
  exact (keeps_ite (copyLayer_keeps (writeNat_keeps h0)) (layerTrouble_keeps (copyLayer_keeps (writeNat_keeps h0))))

theorem execStepEnd_keeps {s0 : State} {a0 : ℕ} {a1 : State} (h1 : Keeps s0 a1) : Runs s0 (execStepEnd a0 a1) := by
  unfold execStepEnd
  refine (withRunning_keeps h1 (fun y0_0 y0_1 => ?_))
  extract_lets +onlyGivenNames x1
  clear_value x1
  extract_lets +onlyGivenNames x2
  have g2 : Keeps s0 x2.1 := by
    unfold x2
    clear x2
    refine (keeps_foldl_fst h1 fun u4 v4 => ?_)
    dsimp only
    exact (stepLayer_keeps (Keeps.refl _))
  clear_value x2
  exact (done0_keeps (modFlight_keeps g2))

theorem execPolicySet_keeps {s0 : State} {a0 : ℕ} {a1 : State} (h1 : Keeps s0 a1) : Runs s0 (execPolicySet a0 a1) := by
  unfold execPolicySet
  exact (withRunning_keeps h1 (fun y0_0 y0_1 => (done0_keeps h1)))

theorem execQueueSet_keeps {s0 : State} {a0 : ℕ} {a1 : State} (h1 : Keeps s0 a1) : Runs s0 (execQueueSet a0 a1) := by
  unfold execQueueSet
  refine (withRunning_keeps h1 (fun y0_0 y0_1 => ?_))
  extract_lets +onlyGivenNames x1
  clear_value x1
  extract_lets +onlyGivenNames x2
  clear_value x2
  split
  · exact (finish_keeps h1)
  · extract_lets +onlyGivenNames x3
    have h3 : Keeps s0 x3 := (setQueue_keeps h1)
    clear_value x3
    exact (done0_keeps h3)

theorem execCacheInv_keeps {s0 : State} {a0 : ℕ} {a1 : State} (h1 : Keeps s0 a1) : Runs s0 (execCacheInv a0 a1) := by
  unfold execCacheInv
  refine (withRunning_keeps h1 (fun y0_0 y0_1 => ?_))
  extract_lets +onlyGivenNames x1
  clear_value x1
  extract_lets +onlyGivenNames x2
  clear_value x2
  extract_lets +onlyGivenNames x3
  have h3 : Keeps s0 x3 := (keeps_foldl h1 fun u4 v4 => (keeps_ite (modCluster_keeps (Keeps.refl _)) (cacheInvalidate_keeps (Keeps.refl _))))
  clear_value x3
  exact (done0_keeps h3)

theorem execAddOrderOpen_keeps {s0 : State} {a0 : ℕ} {a1 : State} (h1 : Keeps s0 a1) : Runs s0 (execAddOrderOpen a0 a1) := by
  unfold execAddOrderOpen
  refine (withRunning_keeps h1 (fun y0_0 y0_1 => ?_))
  extract_lets +onlyGivenNames x1
  clear_value x1
  split
  · exact (finish_keeps h1)
  · extract_lets +onlyGivenNames x2
    clear_value x2
    extract_lets +onlyGivenNames x3
    have h3 : Keeps s0 x3 := (modHeat_keeps h1)
    clear_value x3
    exact (done0_keeps h3)

theorem execLayerSet_keeps {s0 : State} {a0 : ℕ} {a1 : State} (h1 : Keeps s0 a1) : Runs s0 (execLayerSet a0 a1) := by
  unfold execLayerSet
  refine (withRunning_keeps h1 (fun y0_0 y0_1 => ?_))
  extract_lets +onlyGivenNames x1
  clear_value x1
  extract_lets +onlyGivenNames x2
  clear_value x2
  extract_lets +onlyGivenNames x3
  have g3 : Keeps s0 x3 := (modHeat_keeps h1)
  clear_value x3
  extract_lets +onlyGivenNames x4
  have g4 : Keeps s0 x4.1 := (checkRead_keeps g3)
  clear_value x4
  exact (keeps_ite (done0_keeps (copyLayer_keeps g4)) (abandonDma_keeps g4))

theorem execProgLoad_keeps {s0 : State} {a0 : ℕ} {a1 : State} (h1 : Keeps s0 a1) : Runs s0 (execProgLoad a0 a1) := by
  unfold execProgLoad
  refine (withRunning_keeps h1 (fun y0_0 y0_1 => ?_))
  extract_lets +onlyGivenNames x1
  clear_value x1
  split
  · exact h1
  · extract_lets +onlyGivenNames x2
    clear_value x2
    extract_lets +onlyGivenNames x3
    clear_value x3
    extract_lets +onlyGivenNames x4
    clear_value x4
    extract_lets +onlyGivenNames x5
    have g5 : Keeps s0 x5 := (stageProgram_keeps h1)
    clear_value x5
    extract_lets +onlyGivenNames x6
    have g6 : Keeps s0 x6 := (keeps_ite (modCore_keeps g5) (modCore_keeps g5))
    clear_value x6
    exact (done0_keeps g6)

end Sys2Proof.Machine
end

