-- ==== Sys2Proof/Laws/KeepUpdate.lean ====
section
/-! SUPPORT. What the operations of Machine/Update.lean keep. -/

namespace Sys2Proof.Machine

theorem endUpdate_keeps {s0 : State} {a0 : State} {a1 : ℕ} {a2 : ℕ} {a3 : Flight} {a4 : UpdPar} {a5 : ℕ} {a6 : ℕ} {a7 : ℕ} (h0 : Keeps s0 a0) : Keeps s0 (endUpdate a0 a1 a2 a3 a4 a5 a6 a7) := by
  unfold endUpdate
  extract_lets +onlyGivenNames x0
  have g0 : Keeps s0 x0 := (storeStack_keeps h0)
  clear_value x0
  extract_lets +onlyGivenNames x1
  have g1 : Keeps s0 x1 := (modHeat_keeps g0)
  clear_value x1
  extract_lets +onlyGivenNames x2
  clear_value x2
  extract_lets +onlyGivenNames x3
  have g3 : Keeps s0 x3 := (setLedger_keeps g1)
  clear_value x3
  exact (finish_keeps g3)

theorem updateOne_keeps {s0 : State} {a0 : Coef} {a1 : FV} {a2 : Option (FV × FV)} {a3 : ℕ} {a4 : ℕ} {a5 : ℕ} {a6 : ℕ} {a7 : State × PassSums} (h7 : Keeps s0 a7.1) : Keeps s0 (updateOne a0 a1 a2 a3 a4 a5 a6 a7).1 := by
  unfold updateOne
  dsimp only
  exact (writeNat_keeps (writeNat_keeps h7))

theorem updateRun_keeps {s0 : State} {a0 : Coef} {a1 : FV} {a2 : Option (FV × FV)} {a3 : ℕ} {a4 : ℕ} {a5 : ℕ} {a6 : ℕ} {a7 : State × PassSums} (h7 : Keeps s0 a7.1) : Keeps s0 (updateRun a0 a1 a2 a3 a4 a5 a6 a7).1 := by
  unfold updateRun
  exact (keeps_foldl_fst h7 fun u0 v0 => (updateOne_keeps (Keeps.refl _)))

theorem sparseRow_keeps {s0 : State} {a0 : ℕ} {a1 : UpdPar} {a2 : Coef} {a3 : FV} {a4 : State × SparseSums} {a5 : ℕ × ℕ} (h4 : Keeps s0 a4.1) : Keeps s0 (sparseRow a0 a1 a2 a3 a4 a5).1 := by
  unfold sparseRow
  dsimp only
  exact (keeps_ite_fst h4 (writeBytes_keeps (updateRun_keeps (checkRead_keeps h4))))

theorem sparseUpdate_keeps {s0 : State} {a0 : State} {a1 : ℕ} {a2 : ℕ} {a3 : Flight} {a4 : UpdPar} {a5 : Coef} {a6 : ℕ} (h0 : Keeps s0 a0) : Keeps s0 (sparseUpdate a0 a1 a2 a3 a4 a5 a6) := by
  unfold sparseUpdate
  extract_lets +onlyGivenNames x0
  clear_value x0
  extract_lets +onlyGivenNames x1
  clear_value x1
  extract_lets +onlyGivenNames x2
  have g2 : Keeps s0 x2.1 := (checkRead_keeps h0)
  clear_value x2
  extract_lets +onlyGivenNames x3
  have g3 : Keeps s0 x3.1 := (keeps_foldl_fst g2 fun u4 v4 => (keeps_ite_fst (checkRead_keeps (Keeps.refl _)) (Keeps.refl _)))
  clear_value x3
  split
  · exact (abandonDma_keeps g3)
  · extract_lets +onlyGivenNames x5
    clear_value x5
    extract_lets +onlyGivenNames x6
    have g6 : Keeps s0 x6.1 := (keeps_foldl_fst g3 fun u7 v7 => (sparseRow_keeps (Keeps.refl _)))
    clear_value x6
    extract_lets +onlyGivenNames x8
    clear_value x8
    exact (endUpdate_keeps g6)

theorem densePass_keeps {s0 : State} {a0 : State} {a1 : ℕ} {a2 : ℕ} {a3 : Flight} {a4 : UpdPar} {a5 : Coef} {a6 : ℕ} (h0 : Keeps s0 a0) : Keeps s0 (densePass a0 a1 a2 a3 a4 a5 a6) := by
  unfold densePass
  extract_lets +onlyGivenNames x0
  have g0 : Keeps s0 x0.1 := (checkRead_keeps h0)
  clear_value x0
  extract_lets +onlyGivenNames x1
  have g1 : Keeps s0 x1.1 := (keeps_ite_fst (checkRead_keeps g0) g0)
  clear_value x1
  split
  · exact (abandonDma_keeps g1)
  · extract_lets +onlyGivenNames x2
    have g2 : Keeps s0 x2 := g1
    clear_value x2
    extract_lets +onlyGivenNames x3
    clear_value x3
    extract_lets +onlyGivenNames x4
    clear_value x4
    extract_lets +onlyGivenNames x5
    clear_value x5
    extract_lets +onlyGivenNames x6
    have g6 : Keeps s0 x6.1 := (updateRun_keeps g2)
    clear_value x6
    extract_lets +onlyGivenNames x7
    clear_value x7
    extract_lets +onlyGivenNames x8
    clear_value x8
    extract_lets +onlyGivenNames x9
    have g9 : Keeps s0 x9 := (modHeat_keeps g6)
    clear_value x9
    exact (endUpdate_keeps g9)

theorem updateStep_keeps {s0 : State} {a0 : State} {a1 : ℕ} {a2 : ℕ} {a3 : Flight} (h0 : Keeps s0 a0) : Keeps s0 (updateStep a0 a1 a2 a3) := by
  unfold updateStep
  extract_lets +onlyGivenNames x0
  clear_value x0
  extract_lets +onlyGivenNames x1
  clear_value x1
  extract_lets +onlyGivenNames x2
  clear_value x2
  exact (keeps_ite (endUpdate_keeps h0) (keeps_ite (sparseUpdate_keeps h0) (densePass_keeps h0)))

theorem execNormSet_keeps {s0 : State} {a0 : ℕ} {a1 : State} (h1 : Keeps s0 a1) : Runs s0 (execNormSet a0 a1) := by
  unfold execNormSet
  refine (withRunning_keeps h1 (fun y0_0 y0_1 => ?_))
  split
  · exact (finish_keeps h1)
  · extract_lets +onlyGivenNames x1
    have h1 : Keeps s0 x1 := (modHeat_keeps h1)
    clear_value x1
    exact (done0_keeps h1)

theorem execUpdCoefSet_keeps {s0 : State} {a0 : ℕ} {a1 : State} (h1 : Keeps s0 a1) : Runs s0 (execUpdCoefSet a0 a1) := by
  unfold execUpdCoefSet
  exact (withRunning_keeps h1 (fun y0_0 y0_1 => (done0_keeps h1)))

theorem execGradOpen_keeps {s0 : State} {a0 : ℕ} {a1 : State} (h1 : Keeps s0 a1) : Runs s0 (execGradOpen a0 a1) := by
  unfold execGradOpen
  refine (withRunning_keeps h1 (fun y0_0 y0_1 => ?_))
  extract_lets +onlyGivenNames x1
  clear_value x1
  extract_lets +onlyGivenNames x2
  clear_value x2
  extract_lets +onlyGivenNames x3
  clear_value x3
  split
  · exact (finish_keeps h1)
  · extract_lets +onlyGivenNames x4
    clear_value x4
    extract_lets +onlyGivenNames x5
    have h5 : Keeps s0 x5 := (setLedger_keeps h1)
    clear_value x5
    exact (done0_keeps h5)

theorem execUpdateLayer_keeps {s0 : State} {a0 : ℕ} {a1 : State} (h1 : Keeps s0 a1) : Runs s0 (execUpdateLayer a0 a1) := by
  unfold execUpdateLayer
  exact (withRunning_keeps h1 (fun y0_0 y0_1 => (updateStep_keeps h1)))

end Sys2Proof.Machine
end

