-- ==== Sys2Proof/Laws/KeepVector.lean ====
section
/-! SUPPORT. What the operations of Machine/Vector.lean keep. -/

namespace Sys2Proof.Machine

theorem modVec_keeps {s0 : State} {a0 : State} {a1 : ℕ} {a2 : VecState → VecState} (h0 : Keeps s0 a0) : Keeps s0 (modVec a0 a1 a2) := by
  unfold modVec
  exact (modCore_keeps h0)

theorem vecVerdict_keeps {s0 : State} {a0 : ℕ} {a1 : List VecErr → Issue} {a2 : VecResidue} {a3 : ℕ} {a4 : State} (h4 : Keeps s0 a4) : Keeps s0 (vecVerdict a0 a1 a2 a3 a4).1 := by
  unfold vecVerdict
  dsimp only
  split
  · dsimp only
    exact h4
  · split
    · dsimp only
      exact (modVec_keeps (retirePermanent_keeps (dadd_keeps h4)))
    · split
      · dsimp only
        exact (modVec_keeps (retirePermanent_keeps (dadd_keeps h4)))
      · dsimp only
        split
        · exact (modFlight_keeps (recordTransient_keeps (dadd_keeps h4)))
        · exact (recordTransient_keeps (dadd_keeps h4))

theorem vecEvents_keeps {s0 : State} {a0 : State} {a1 : ℕ} {a2 : ℕ} {a3 : Ev} (h0 : Keeps s0 a0) : Keeps s0 (vecEvents a0 a1 a2 a3) := by
  unfold vecEvents
  exact (addFlush_keeps (modVec_keeps h0))

theorem vecPut_keeps {s0 : State} {a0 : ℕ} {a1 : Bool} {a2 : List (ℕ × ℕ × Ev)} {a3 : ℕ} {a4 : ℕ} {a5 : State} (h5 : Keeps s0 a5) : Keeps s0 (vecPut a0 a1 a2 a3 a4 a5) := by
  unfold vecPut
  extract_lets +onlyGivenNames x0
  clear_value x0
  extract_lets +onlyGivenNames x1
  clear_value x1
  extract_lets +onlyGivenNames x2
  clear_value x2
  extract_lets +onlyGivenNames x3
  clear_value x3
  extract_lets +onlyGivenNames x4
  have g4 : Keeps s0 x4 := (modVec_keeps h5)
  clear_value x4
  exact (vecEvents_keeps g4)

theorem vecRetire_keeps {s0 : State} {a0 : ℕ} {a1 : Bool} {a2 : List ℕ} {a3 : List VecErr → VecState → Cls → ℕ → (ℕ × Ev) × Bool} {a4 : VecResidue} {a5 : ℕ} {a6 : ℕ} {a7 : State} (h7 : Keeps s0 a7) : VKeeps s0 (vecRetire a0 a1 a2 a3 a4 a5 a6 a7) := by
  unfold vecRetire
  extract_lets +onlyGivenNames x0
  clear_value x0
  split
  · exact h7
  · extract_lets +onlyGivenNames x1
    have g1 : Keeps s0 x1.1 := (vecVerdict_keeps h7)
    clear_value x1
    split
    · exact (vecPut_keeps g1)
    · exact g1

theorem vecFault_keeps {s0 : State} {a0 : State} {a1 : ℕ} {a2 : ℕ} {a3 : ℕ} (h0 : Keeps s0 a0) : Keeps s0 (vecFault a0 a1 a2 a3) := by
  unfold vecFault
  exact (modVec_keeps h0)

theorem vecNext_keeps {s0 : State} {a0 : State} {a1 : ℕ} {a2 : ℕ} (h0 : Keeps s0 a0) : Keeps s0 (vecNext a0 a1 a2) := by
  unfold vecNext
  exact (keeps_ite (vecFault_keeps h0) (modVec_keeps h0))

theorem vecRow_keeps {s0 : State} {a0 : ℕ} {a1 : ℕ} {a2 : State} {a3 : ℕ → ℕ → State → VecRes} (h2 : Keeps s0 a2) (h3 : ∀ v0 v1 v2, VKeeps v2 (a3 v0 v1 v2)) : Runs s0 (vecRow a0 a1 a2 a3) := by
  unfold vecRow
  split
  · extract_lets +onlyGivenNames w
    clear_value w
    split
    · exact runs_next h2
    · split
      · exact runs_next h2
      · split
        · exact runs_next (vecFault_keeps h2)
        · split
          · exact runs_next (vecNext_keeps h2)
          · split
            · exact runs_next (h2.trans (VKeeps.stall_of (h3 _ _ _) (by assumption)))
            · exact runs_next (vecFault_keeps (h2.trans (VKeeps.fault_of (h3 _ _ _) (by assumption))))
            · exact runs_next (vecNext_keeps (h2.trans (VKeeps.ok_of (h3 _ _ _) (by assumption))))
  · exact runs_next h2

theorem vecWrite_keeps {s0 : State} {a0 : ℕ} {a1 : Bool} {a2 : List ℕ} {a3 : VecState → Cls → ℕ → ℕ × Ev} {a4 : ℕ} {a5 : ℕ} {a6 : State} (h6 : Keeps s0 a6) : VKeeps s0 (vecWrite a0 a1 a2 a3 a4 a5 a6) := by
  unfold vecWrite
  extract_lets +onlyGivenNames x0
  clear_value x0
  split
  · exact h6
  · extract_lets +onlyGivenNames x1
    clear_value x1
    extract_lets +onlyGivenNames x2
    clear_value x2
    exact (vecPut_keeps h6)

theorem execInt_keeps {s0 : State} {a0 : ℕ} {a1 : ℕ} {a2 : ℕ → ℕ → ℕ → ℕ} {a3 : State} (h3 : Keeps s0 a3) : Runs s0 (execInt a0 a1 a2 a3) := by
  unfold execInt
  exact (vecRow_keeps h3 (fun y0_0 y0_1 y0_2 => (vecWrite_keeps (Keeps.refl _))))

theorem execShl_keeps {s0 : State} {a0 : ℕ} {a1 : State} (h1 : Keeps s0 a1) : Runs s0 (execShl a0 a1) := by
  unfold execShl
  exact (execInt_keeps h1)

theorem vecIssue_keeps {s0 : State} {a0 : ℕ} {a1 : List ℕ} {a2 : PathEnd} {a3 : VecState → Cls → ℕ → ℕ × Ev} {a4 : Option VecResidue} {a5 : ℕ} {a6 : ℕ} {a7 : State} (h7 : Keeps s0 a7) : VKeeps s0 (vecIssue a0 a1 a2 a3 a4 a5 a6 a7) := by
  unfold vecIssue
  split
  · exact (vecWrite_keeps h7)
  · exact (vecRetire_keeps h7)

theorem execRound_keeps {s0 : State} {a0 : ℕ} {a1 : VecIssue} {a2 : FV → FV} {a3 : State} (h3 : Keeps s0 a3) : Runs s0 (execRound a0 a1 a2 a3) := by
  unfold execRound
  exact (vecRow_keeps h3 (fun y0_0 y0_1 y0_2 => (vecIssue_keeps (Keeps.refl _))))

theorem execFrnd_keeps {s0 : State} {a0 : VecIssue} {a1 : State} (h1 : Keeps s0 a1) : Runs s0 (execFrnd a0 a1) := by
  unfold execFrnd
  exact (execRound_keeps h1)

theorem advanceRng_keeps {s0 : State} {a0 : ℕ} {a1 : ℕ} {a2 : VecRes} (h2 : VKeeps s0 a2) : VKeeps s0 (advanceRng a0 a1 a2) := by
  unfold advanceRng
  split
  · exact modVec_keeps h2
  · exact h2

theorem execVrngu_keeps {s0 : State} {a0 : ℕ} {a1 : State} (h1 : Keeps s0 a1) : Runs s0 (execVrngu a0 a1) := by
  unfold execVrngu
  exact (vecRow_keeps h1 (fun y0_0 y0_1 y0_2 => (advanceRng_keeps (vecWrite_keeps (Keeps.refl _)))))

theorem execApprox_keeps {s0 : State} {a0 : ℕ} {a1 : VecIssue} {a2 : ℕ → FV → FV} {a3 : State} (h3 : Keeps s0 a3) : Runs s0 (execApprox a0 a1 a2 a3) := by
  unfold execApprox
  exact (vecRow_keeps h3 (fun y0_0 y0_1 y0_2 => (vecIssue_keeps (Keeps.refl _))))

theorem execFexp2_keeps {s0 : State} {a0 : VecIssue} {a1 : State} (h1 : Keeps s0 a1) : Runs s0 (execFexp2 a0 a1) := by
  unfold execFexp2
  exact (execApprox_keeps h1)

theorem execImin_keeps {s0 : State} {a0 : ℕ} {a1 : State} (h1 : Keeps s0 a1) : Runs s0 (execImin a0 a1) := by
  unfold execImin
  exact (execInt_keeps h1)

theorem execMset_keeps {s0 : State} {a0 : ℕ} {a1 : State} (h1 : Keeps s0 a1) : Runs s0 (execMset a0 a1) := by
  unfold execMset
  refine (vecRow_keeps h1 (fun y0_0 y0_1 y0_2 => ?_))
  extract_lets +onlyGivenNames x1
  clear_value x1
  extract_lets +onlyGivenNames x2
  clear_value x2
  extract_lets +onlyGivenNames x3
  clear_value x3
  extract_lets +onlyGivenNames x4
  clear_value x4
  extract_lets +onlyGivenNames x5
  clear_value x5
  exact (modVec_keeps (Keeps.refl _))

theorem maskWrite_keeps {s0 : State} {a0 : ℕ} {a1 : List ℕ} {a2 : VecState → Cls → ℕ → Bool × Ev} {a3 : ℕ} {a4 : ℕ} {a5 : State} (h5 : Keeps s0 a5) : VKeeps s0 (maskWrite a0 a1 a2 a3 a4 a5) := by
  unfold maskWrite
  extract_lets +onlyGivenNames x0
  clear_value x0
  split
  · exact h5
  · extract_lets +onlyGivenNames x1
    clear_value x1
    extract_lets +onlyGivenNames x2
    clear_value x2
    extract_lets +onlyGivenNames x3
    clear_value x3
    extract_lets +onlyGivenNames x4
    have h4 : Keeps s0 x4 := (modVec_keeps h5)
    clear_value x4
    exact (vecEvents_keeps h4)

theorem execMnot_keeps {s0 : State} {a0 : ℕ} {a1 : State} (h1 : Keeps s0 a1) : Runs s0 (execMnot a0 a1) := by
  unfold execMnot
  exact (vecRow_keeps h1 (fun y0_0 y0_1 y0_2 => (maskWrite_keeps (Keeps.refl _))))

theorem execMor_keeps {s0 : State} {a0 : ℕ} {a1 : State} (h1 : Keeps s0 a1) : Runs s0 (execMor a0 a1) := by
  unfold execMor
  exact (vecRow_keeps h1 (fun y0_0 y0_1 y0_2 => (maskWrite_keeps (Keeps.refl _))))

theorem execFrsqrt_keeps {s0 : State} {a0 : VecIssue} {a1 : State} (h1 : Keeps s0 a1) : Runs s0 (execFrsqrt a0 a1) := by
  unfold execFrsqrt
  exact (execApprox_keeps h1)

theorem execRwait_keeps {s0 : State} {a0 : ℕ} {a1 : State} (h1 : Keeps s0 a1) : Runs s0 (execRwait a0 a1) := by
  unfold execRwait
  exact (vecRow_keeps h1 (fun y0_0 y0_1 y0_2 => (Keeps.refl _)))

theorem closeStreams_keeps {s0 : State} {a0 : State} {a1 : ℕ} {a2 : ℕ} (h0 : Keeps s0 a0) : Keeps s0 (closeStreams a0 a1 a2) := by
  unfold closeStreams
  exact (modCluster_keeps h0)

theorem endProgram_keeps {s0 : State} {a0 : State} {a1 : ℕ} {a2 : CtlRun} {a3 : ℕ} {a4 : ℕ} {a5 : ℕ} (h0 : Keeps s0 a0) : Keeps s0 (endProgram a0 a1 a2 a3 a4 a5) := by
  unfold endProgram
  extract_lets +onlyGivenNames x0
  have h0 : Keeps s0 x0 := (closeStreams_keeps h0)
  clear_value x0
  extract_lets +onlyGivenNames x1
  have h1 : Keeps s0 x1 := (modCore_keeps h0)
  clear_value x1
  exact (finish_keeps h1)

theorem settleProgram_keeps {s0 : State} {a0 : State} {a1 : ℕ} (h0 : Keeps s0 a0) : Keeps s0 (settleProgram a0 a1) := by
  unfold settleProgram
  split
  · extract_lets +onlyGivenNames x0
    clear_value x0
    split
    · exact h0
    · split
      · exact (endProgram_keeps h0)
      · exact h0
  · exact h0

theorem execBlockDone_keeps {s0 : State} {a0 : ℕ} {a1 : State} (h1 : Keeps s0 a1) : Runs s0 (execBlockDone a0 a1) := by
  unfold execBlockDone
  extract_lets +onlyGivenNames x0
  clear_value x0
  split
  · exact (runs_next h1)
  · exact (runs_next (settleProgram_keeps (modVec_keeps h1)))

theorem execMand_keeps {s0 : State} {a0 : ℕ} {a1 : State} (h1 : Keeps s0 a1) : Runs s0 (execMand a0 a1) := by
  unfold execMand
  exact (vecRow_keeps h1 (fun y0_0 y0_1 y0_2 => (maskWrite_keeps (Keeps.refl _))))

theorem execFmin_keeps {s0 : State} {a0 : ℕ} {a1 : State} (h1 : Keeps s0 a1) : Runs s0 (execFmin a0 a1) := by
  unfold execFmin
  exact (vecRow_keeps h1 (fun y0_0 y0_1 y0_2 => (vecWrite_keeps (Keeps.refl _))))

theorem faultProgram_keeps {s0 : State} {a0 : State} {a1 : ℕ} {a2 : CtlRun} {a3 : ℕ} {a4 : ℕ} (h0 : Keeps s0 a0) : Keeps s0 (faultProgram a0 a1 a2 a3 a4) := by
  unfold faultProgram
  exact (modVec_keeps (endProgram_keeps h0))

theorem execOr_keeps {s0 : State} {a0 : ℕ} {a1 : State} (h1 : Keeps s0 a1) : Runs s0 (execOr a0 a1) := by
  unfold execOr
  exact (execInt_keeps h1)

theorem execVrngb_keeps {s0 : State} {a0 : ℕ} {a1 : State} (h1 : Keeps s0 a1) : Runs s0 (execVrngb a0 a1) := by
  unfold execVrngb
  exact (vecRow_keeps h1 (fun y0_0 y0_1 y0_2 => (advanceRng_keeps (maskWrite_keeps (Keeps.refl _)))))

theorem execIsub_keeps {s0 : State} {a0 : ℕ} {a1 : State} (h1 : Keeps s0 a1) : Runs s0 (execIsub a0 a1) := by
  unfold execIsub
  exact (execInt_keeps h1)

theorem execOne_keeps {s0 : State} {a0 : ℕ} {a1 : ℕ} {a2 : FV → FV} {a3 : State} (h3 : Keeps s0 a3) : Runs s0 (execOne a0 a1 a2 a3) := by
  unfold execOne
  exact (vecRow_keeps h3 (fun y0_0 y0_1 y0_2 => (vecWrite_keeps (Keeps.refl _))))

theorem execFabs_keeps {s0 : State} {a0 : ℕ} {a1 : State} (h1 : Keeps s0 a1) : Runs s0 (execFabs a0 a1) := by
  unfold execFabs
  exact (execOne_keeps h1)

theorem execMxor_keeps {s0 : State} {a0 : ℕ} {a1 : State} (h1 : Keeps s0 a1) : Runs s0 (execMxor a0 a1) := by
  unfold execMxor
  exact (vecRow_keeps h1 (fun y0_0 y0_1 y0_2 => (maskWrite_keeps (Keeps.refl _))))

theorem handOff_keeps {s0 : State} {a0 : Bool} {a1 : ℕ} {a2 : ℕ} {a3 : ℕ} {a4 : State} (h4 : Keeps s0 a4) : VKeeps s0 (handOff a0 a1 a2 a3 a4) := by
  unfold handOff
  extract_lets +onlyGivenNames x0
  clear_value x0
  split
  · exact h4
  · split
    · exact h4
    · extract_lets +onlyGivenNames x1
      clear_value x1
      extract_lets +onlyGivenNames x2
      clear_value x2
      extract_lets +onlyGivenNames x3
      clear_value x3
      extract_lets +onlyGivenNames x4
      clear_value x4
      split
      · exact h4
      · extract_lets +onlyGivenNames x5
        have h5 : Keeps s0 x5 := (setStream_keeps h4)
        clear_value x5
        extract_lets +onlyGivenNames x6
        have h6 : Keeps s0 x6 := (vecEvents_keeps h5)
        clear_value x6
        split
        · exact h6
        · exact h6

theorem execVqh_keeps {s0 : State} {a0 : ℕ} {a1 : State} (h1 : Keeps s0 a1) : Runs s0 (execVqh a0 a1) := by
  unfold execVqh
  exact (vecRow_keeps h1 (fun y0_0 y0_1 y0_2 => (handOff_keeps (Keeps.refl _))))

theorem execPackb_keeps {s0 : State} {a0 : VecIssue} {a1 : State} (h1 : Keeps s0 a1) : Runs s0 (execPackb a0 a1) := by
  unfold execPackb
  exact (vecRow_keeps h1 (fun y0_0 y0_1 y0_2 => (vecIssue_keeps (Keeps.refl _))))

theorem execVrun_keeps {s0 : State} {a0 : ℕ} {a1 : W32} {a2 : State} (h2 : Keeps s0 a2) : Runs s0 (execVrun a0 a1 a2) := by
  unfold execVrun
  extract_lets +onlyGivenNames x0
  clear_value x0
  split
  · exact (runs_next h2)
  · exact (runs_next (modVec_keeps h2))

theorem execSummaryValueStore_keeps {s0 : State} {a0 : ℕ} {a1 : ℕ} {a2 : W32} {a3 : State} (h3 : Keeps s0 a3) : Runs s0 (execSummaryValueStore a0 a1 a2 a3) := by
  unfold execSummaryValueStore
  split
  · exact (runs_next h3)
  · exact (runs_next (modVec_keeps h3))

theorem ranOn_keeps {s0 : State} {a0 : State} {a1 : ℕ} {a2 : CtlRun} (h0 : Keeps s0 a0) : Keeps s0 (ranOn a0 a1 a2).2 := by
  unfold ranOn
  dsimp only
  exact (modCore_keeps (takeFree_keeps h0))

theorem faultAtPc_keeps {s0 : State} {a0 : State} {a1 : ℕ} {a2 : CtlRun} {a3 : ℕ} (h0 : Keeps s0 a0) : Keeps s0 (faultAtPc a0 a1 a2 a3) := by
  unfold faultAtPc
  extract_lets +onlyGivenNames x0
  have g0 : Keeps s0 x0.2 := (ranOn_keeps h0)
  clear_value x0
  exact (faultProgram_keeps g0)

theorem ctlException_keeps {s0 : State} {a0 : State} {a1 : ℕ} {a2 : CtlRun} (h0 : Keeps s0 a0) : Keeps s0 (ctlException a0 a1 a2) := by
  unfold ctlException
  exact (faultAtPc_keeps h0)

theorem execCompletionRegister_keeps {s0 : State} {a0 : ℕ} {a1 : W64} {a2 : State} (h2 : Keeps s0 a2) : Runs s0 (execCompletionRegister a0 a1 a2) := by
  unfold execCompletionRegister
  split
  · exact (runs_next h2)
  · extract_lets +onlyGivenNames x0
    clear_value x0
    split
    · exact (runs_next (settleProgram_keeps (modCore_keeps h2)))
    · exact (runs_next (faultAtPc_keeps h2))

theorem ctlStore_keeps {s0 : State} {a0 : ℕ} {a1 : ℕ} {a2 : ℕ} {a3 : ℕ} {a4 : State} (h4 : Keeps s0 a4) : Runs s0 (ctlStore a0 a1 a2 a3 a4) := by
  unfold ctlStore
  split
  · exact (runs_next h4)
  · split
    · exact (runs_next (modCore_keeps h4))
    · split
      · exact (execVrun_keeps h4)
      · exact (runs_next (modVec_keeps h4))
    · split
      · exact (execSummaryValueStore_keeps h4)
      · exact (runs_next (ctlException_keeps h4))
    · exact (execCompletionRegister_keeps h4)
    · split
      · exact (runs_next (ctlException_keeps h4))
      · exact (runs_next (noteBufWrite_keeps (writeNat_keeps h4)))
    · exact (runs_next (ctlException_keeps h4))

theorem execIadd_keeps {s0 : State} {a0 : ℕ} {a1 : State} (h1 : Keeps s0 a1) : Runs s0 (execIadd a0 a1) := by
  unfold execIadd
  exact (execInt_keeps h1)

theorem execCvtif_keeps {s0 : State} {a0 : VecIssue} {a1 : State} (h1 : Keeps s0 a1) : Runs s0 (execCvtif a0 a1) := by
  unfold execCvtif
  exact (vecRow_keeps h1 (fun y0_0 y0_1 y0_2 => (vecIssue_keeps (Keeps.refl _))))

theorem execVsel_keeps {s0 : State} {a0 : ℕ} {a1 : State} (h1 : Keeps s0 a1) : Runs s0 (execVsel a0 a1) := by
  unfold execVsel
  exact (vecRow_keeps h1 (fun y0_0 y0_1 y0_2 => (vecWrite_keeps (Keeps.refl _))))

theorem narrowed_keeps {s0 : State} {a0 : ℕ} {a1 : Option VecResidue} {a2 : ℕ} {a3 : ℕ} {a4 : State} (h4 : Keeps s0 a4) : Keeps s0 (narrowed a0 a1 a2 a3 a4).1 := by
  unfold narrowed
  dsimp only
  split
  · dsimp only
    exact h4
  · dsimp only
    exact (vecVerdict_keeps h4)

theorem execHandoffRoom_keeps {s0 : State} {a0 : ℕ} {a1 : State} (h1 : Keeps s0 a1) : Runs s0 (execHandoffRoom a0 a1) := by
  unfold execHandoffRoom
  split
  · exact (runs_next h1)
  · refine (vecRow_keeps h1 (fun y0_0 y0_1 y0_2 => ?_))
    split
    · exact (handOff_keeps (Keeps.refl _))
    · exact (Keeps.refl _)

theorem execVrng_keeps {s0 : State} {a0 : ℕ} {a1 : State} (h1 : Keeps s0 a1) : Runs s0 (execVrng a0 a1) := by
  unfold execVrng
  exact (vecRow_keeps h1 (fun y0_0 y0_1 y0_2 => (advanceRng_keeps (vecWrite_keeps (Keeps.refl _)))))

theorem execVstm_keeps {s0 : State} {a0 : ℕ} {a1 : State} (h1 : Keeps s0 a1) : Runs s0 (execVstm a0 a1) := by
  unfold execVstm
  refine (vecRow_keeps h1 (fun y0_0 y0_1 y0_2 => ?_))
  extract_lets +onlyGivenNames x1
  clear_value x1
  extract_lets +onlyGivenNames x2
  clear_value x2
  extract_lets +onlyGivenNames x3
  clear_value x3
  extract_lets +onlyGivenNames x4
  clear_value x4
  split
  · exact (Keeps.refl _)
  · extract_lets +onlyGivenNames x5
    clear_value x5
    extract_lets +onlyGivenNames x6
    unfold x6
    clear x6
    extract_lets +onlyGivenNames x7
    have h7 : Keeps y0_2 x7 := (keeps_foldl (Keeps.refl _) fun u8 v8 => (putByte_keeps (Keeps.refl _)))
    clear_value x7
    extract_lets +onlyGivenNames x9
    have h9 : Keeps y0_2 x9 := (noteBufWrite_keeps h7)
    clear_value x9
    extract_lets +onlyGivenNames x10
    clear_value x10
    exact (modVec_keeps h9)

theorem execVidx_keeps {s0 : State} {a0 : ℕ} {a1 : State} (h1 : Keeps s0 a1) : Runs s0 (execVidx a0 a1) := by
  unfold execVidx
  exact (vecRow_keeps h1 (fun y0_0 y0_1 y0_2 => (vecWrite_keeps (Keeps.refl _))))

theorem execVtos_keeps {s0 : State} {a0 : ℕ} {a1 : State} (h1 : Keeps s0 a1) : Runs s0 (execVtos a0 a1) := by
  unfold execVtos
  refine (vecRow_keeps h1 (fun y0_0 y0_1 y0_2 => ?_))
  extract_lets +onlyGivenNames x1
  clear_value x1
  split
  · exact (Keeps.refl _)
  · split
    · exact (Keeps.refl _)
    · exact (modVec_keeps (Keeps.refl _))

theorem execFtanh_keeps {s0 : State} {a0 : VecIssue} {a1 : State} (h1 : Keeps s0 a1) : Runs s0 (execFtanh a0 a1) := by
  unfold execFtanh
  exact (execApprox_keeps h1)

theorem execCvtfi_keeps {s0 : State} {a0 : VecIssue} {a1 : State} (h1 : Keeps s0 a1) : Runs s0 (execCvtfi a0 a1) := by
  unfold execCvtfi
  exact (vecRow_keeps h1 (fun y0_0 y0_1 y0_2 => (vecIssue_keeps (Keeps.refl _))))

theorem vecChecked_keeps {s0 : State} {a0 : ℕ} {a1 : FmaOp} {a2 : VecResidue} {a3 : ℕ} {a4 : ℕ} {a5 : State} (h5 : Keeps s0 a5) : VKeeps s0 (vecChecked a0 a1 a2 a3 a4 a5) := by
  unfold vecChecked
  exact (vecRetire_keeps h5)

theorem execThree_keeps {s0 : State} {a0 : ℕ} {a1 : ℕ} {a2 : Option VecResidue} {a3 : FmaOp} {a4 : FV → FV → FV → FV} {a5 : State} (h5 : Keeps s0 a5) : Runs s0 (execThree a0 a1 a2 a3 a4 a5) := by
  unfold execThree
  refine (vecRow_keeps h5 (fun y0_0 y0_1 y0_2 => ?_))
  split
  · exact (vecWrite_keeps (Keeps.refl _))
  · exact (vecChecked_keeps (Keeps.refl _))

theorem execFma_keeps {s0 : State} {a0 : ℕ} {a1 : Option VecResidue} {a2 : State} (h2 : Keeps s0 a2) : Runs s0 (execFma a0 a1 a2) := by
  unfold execFma
  exact (execThree_keeps h2)

theorem execFence_keeps {s0 : State} {a0 : ℕ} {a1 : State} (h1 : Keeps s0 a1) : Runs s0 (execFence a0 a1) := by
  unfold execFence
  exact (vecRow_keeps h1 (fun y0_0 y0_1 y0_2 => (Keeps.refl _)))

theorem execCvth_keeps {s0 : State} {a0 : VecIssue} {a1 : State} (h1 : Keeps s0 a1) : Runs s0 (execCvth a0 a1) := by
  unfold execCvth
  exact (vecRow_keeps h1 (fun y0_0 y0_1 y0_2 => (vecIssue_keeps (Keeps.refl _))))

theorem execUnpkb_keeps {s0 : State} {a0 : VecIssue} {a1 : State} (h1 : Keeps s0 a1) : Runs s0 (execUnpkb a0 a1) := by
  unfold execUnpkb
  exact (vecRow_keeps h1 (fun y0_0 y0_1 y0_2 => (vecIssue_keeps (Keeps.refl _))))

theorem execImax_keeps {s0 : State} {a0 : ℕ} {a1 : State} (h1 : Keeps s0 a1) : Runs s0 (execImax a0 a1) := by
  unfold execImax
  exact (execInt_keeps h1)

theorem execFsqrt_keeps {s0 : State} {a0 : VecIssue} {a1 : State} (h1 : Keeps s0 a1) : Runs s0 (execFsqrt a0 a1) := by
  unfold execFsqrt
  exact (execRound_keeps h1)

theorem execVmov_keeps {s0 : State} {a0 : ℕ} {a1 : State} (h1 : Keeps s0 a1) : Runs s0 (execVmov a0 a1) := by
  unfold execVmov
  exact (vecRow_keeps h1 (fun y0_0 y0_1 y0_2 => (vecWrite_keeps (Keeps.refl _))))

theorem execFcmp_keeps {s0 : State} {a0 : ℕ} {a1 : State} (h1 : Keeps s0 a1) : Runs s0 (execFcmp a0 a1) := by
  unfold execFcmp
  exact (vecRow_keeps h1 (fun y0_0 y0_1 y0_2 => (maskWrite_keeps (Keeps.refl _))))

theorem execVst_keeps {s0 : State} {a0 : VecIssue} {a1 : State} (h1 : Keeps s0 a1) : Runs s0 (execVst a0 a1) := by
  unfold execVst
  extract_lets +onlyGivenNames x0
  clear_value x0
  refine (vecRow_keeps h1 (fun y1_0 y1_1 y1_2 => ?_))
  extract_lets +onlyGivenNames x2
  clear_value x2
  extract_lets +onlyGivenNames x3
  clear_value x3
  extract_lets +onlyGivenNames x4
  clear_value x4
  extract_lets +onlyGivenNames x5
  clear_value x5
  split
  · exact (Keeps.refl _)
  · split
    · exact (Keeps.refl _)
    · extract_lets +onlyGivenNames x6
      clear_value x6
      extract_lets +onlyGivenNames x7
      have g7 : Keeps y1_2 x7.1 := (narrowed_keeps (Keeps.refl _))
      clear_value x7
      split
      · exact g7
      · extract_lets +onlyGivenNames x8
        have g8 : Keeps y1_2 x8 := (keeps_foldl g7 fun u9 v9 => (writeNat_keeps (Keeps.refl _)))
        clear_value x8
        extract_lets +onlyGivenNames x10
        have g10 : Keeps y1_2 x10 := (noteBufWrite_keeps g8)
        clear_value x10
        extract_lets +onlyGivenNames x11
        clear_value x11
        extract_lets +onlyGivenNames x12
        have g12 : Keeps y1_2 x12 := (modVec_keeps g10)
        clear_value x12
        exact (vecEvents_keeps g12)

theorem execXor_keeps {s0 : State} {a0 : ℕ} {a1 : State} (h1 : Keeps s0 a1) : Runs s0 (execXor a0 a1) := by
  unfold execXor
  exact (execInt_keeps h1)

theorem execImul_keeps {s0 : State} {a0 : ℕ} {a1 : State} (h1 : Keeps s0 a1) : Runs s0 (execImul a0 a1) := by
  unfold execImul
  exact (execInt_keeps h1)

theorem execVld_keeps {s0 : State} {a0 : VecIssue} {a1 : State} (h1 : Keeps s0 a1) : Runs s0 (execVld a0 a1) := by
  unfold execVld
  extract_lets +onlyGivenNames x0
  clear_value x0
  refine (vecRow_keeps h1 (fun y1_0 y1_1 y1_2 => ?_))
  extract_lets +onlyGivenNames x2
  clear_value x2
  extract_lets +onlyGivenNames x3
  clear_value x3
  extract_lets +onlyGivenNames x4
  clear_value x4
  extract_lets +onlyGivenNames x5
  clear_value x5
  split
  · exact (Keeps.refl _)
  · split
    · exact (Keeps.refl _)
    · split
      · exact (modVec_keeps (VKeeps.ok_of (vecIssue_keeps (Keeps.refl _)) (by assumption)))
      · exact (vecIssue_keeps (Keeps.refl _))

theorem execVectorNop_keeps {s0 : State} {a0 : ℕ} {a1 : State} (h1 : Keeps s0 a1) : Runs s0 (execVectorNop a0 a1) := by
  unfold execVectorNop
  exact (vecRow_keeps h1 (fun y0_0 y0_1 y0_2 => (Keeps.refl _)))

theorem execSetvl_keeps {s0 : State} {a0 : ℕ} {a1 : State} (h1 : Keeps s0 a1) : Runs s0 (execSetvl a0 a1) := by
  unfold execSetvl
  exact (vecRow_keeps h1 (fun y0_0 y0_1 y0_2 => (modVec_keeps (Keeps.refl _))))

theorem execVldm_keeps {s0 : State} {a0 : ℕ} {a1 : State} (h1 : Keeps s0 a1) : Runs s0 (execVldm a0 a1) := by
  unfold execVldm
  refine (vecRow_keeps h1 (fun y0_0 y0_1 y0_2 => ?_))
  extract_lets +onlyGivenNames x1
  clear_value x1
  extract_lets +onlyGivenNames x2
  clear_value x2
  extract_lets +onlyGivenNames x3
  clear_value x3
  split
  · exact (Keeps.refl _)
  · split
    · exact (modVec_keeps (VKeeps.ok_of (maskWrite_keeps (Keeps.refl _)) (by assumption)))
    · exact (maskWrite_keeps (Keeps.refl _))

theorem vecRunStep_keeps {s0 : State} {a0 : State} {a1 : ℕ} {a2 : ℕ} {a3 : Flight} (h0 : Keeps s0 a0) : Keeps s0 (vecRunStep a0 a1 a2 a3) := by
  unfold vecRunStep
  extract_lets +onlyGivenNames x0
  have h0 : Keeps s0 x0 := (modFlight_keeps h0)
  clear_value x0
  extract_lets +onlyGivenNames x1
  have h1 : Keeps s0 x1 := (modVec_keeps h0)
  clear_value x1
  exact (modCore_keeps h1)

theorem execFmax_keeps {s0 : State} {a0 : ℕ} {a1 : State} (h1 : Keeps s0 a1) : Runs s0 (execFmax a0 a1) := by
  unfold execFmax
  exact (vecRow_keeps h1 (fun y0_0 y0_1 y0_2 => (vecWrite_keeps (Keeps.refl _))))

theorem execAndn_keeps {s0 : State} {a0 : ℕ} {a1 : State} (h1 : Keeps s0 a1) : Runs s0 (execAndn a0 a1) := by
  unfold execAndn
  exact (execInt_keeps h1)

theorem execTwo_keeps {s0 : State} {a0 : ℕ} {a1 : ℕ} {a2 : Option VecResidue} {a3 : FmaOp} {a4 : FV → FV → FV} {a5 : State} (h5 : Keeps s0 a5) : Runs s0 (execTwo a0 a1 a2 a3 a4 a5) := by
  unfold execTwo
  refine (vecRow_keeps h5 (fun y0_0 y0_1 y0_2 => ?_))
  split
  · exact (vecWrite_keeps (Keeps.refl _))
  · exact (vecChecked_keeps (Keeps.refl _))

theorem execFadd_keeps {s0 : State} {a0 : ℕ} {a1 : Option VecResidue} {a2 : State} (h2 : Keeps s0 a2) : Runs s0 (execFadd a0 a1 a2) := by
  unfold execFadd
  exact (execTwo_keeps h2)

theorem execVecRun_keeps {s0 : State} {a0 : ℕ} {a1 : State} (h1 : Keeps s0 a1) : Runs s0 (execVecRun a0 a1) := by
  unfold execVecRun
  extract_lets +onlyGivenNames x0
  clear_value x0
  split
  · split
    · exact (runs_next (faultProgram_keeps h1))
    · exact (runs_next h1)
  · exact (runs_next h1)
  · exact (withRunning_keeps h1 (fun y1_0 y1_1 => (vecRunStep_keeps h1)))

theorem execFlog2_keeps {s0 : State} {a0 : VecIssue} {a1 : State} (h1 : Keeps s0 a1) : Runs s0 (execFlog2 a0 a1) := by
  unfold execFlog2
  exact (execApprox_keeps h1)

theorem execFsub_keeps {s0 : State} {a0 : ℕ} {a1 : Option VecResidue} {a2 : State} (h2 : Keeps s0 a2) : Runs s0 (execFsub a0 a1 a2) := by
  unfold execFsub
  exact (execTwo_keeps h2)

theorem execAnd_keeps {s0 : State} {a0 : ℕ} {a1 : State} (h1 : Keeps s0 a1) : Runs s0 (execAnd a0 a1) := by
  unfold execAnd
  exact (execInt_keeps h1)

theorem execIcmp_keeps {s0 : State} {a0 : ℕ} {a1 : State} (h1 : Keeps s0 a1) : Runs s0 (execIcmp a0 a1) := by
  unfold execIcmp
  exact (vecRow_keeps h1 (fun y0_0 y0_1 y0_2 => (maskWrite_keeps (Keeps.refl _))))

theorem execShr_keeps {s0 : State} {a0 : ℕ} {a1 : State} (h1 : Keeps s0 a1) : Runs s0 (execShr a0 a1) := by
  unfold execShr
  exact (execInt_keeps h1)

theorem execFneg_keeps {s0 : State} {a0 : ℕ} {a1 : State} (h1 : Keeps s0 a1) : Runs s0 (execFneg a0 a1) := by
  unfold execFneg
  exact (execOne_keeps h1)

theorem execFmul_keeps {s0 : State} {a0 : ℕ} {a1 : Option VecResidue} {a2 : State} (h2 : Keeps s0 a2) : Runs s0 (execFmul a0 a1 a2) := by
  unfold execFmul
  exact (execTwo_keeps h2)

theorem execFcsgn_keeps {s0 : State} {a0 : ℕ} {a1 : State} (h1 : Keeps s0 a1) : Runs s0 (execFcsgn a0 a1) := by
  unfold execFcsgn
  exact (vecRow_keeps h1 (fun y0_0 y0_1 y0_2 => (vecWrite_keeps (Keeps.refl _))))

theorem execFscale_keeps {s0 : State} {a0 : VecIssue} {a1 : State} (h1 : Keeps s0 a1) : Runs s0 (execFscale a0 a1) := by
  unfold execFscale
  exact (vecRow_keeps h1 (fun y0_0 y0_1 y0_2 => (vecIssue_keeps (Keeps.refl _))))

theorem execRclr_keeps {s0 : State} {a0 : ℕ} {a1 : State} (h1 : Keeps s0 a1) : Runs s0 (execRclr a0 a1) := by
  unfold execRclr
  exact (vecRow_keeps h1 (fun y0_0 y0_1 y0_2 => (modVec_keeps (Keeps.refl _))))

theorem ctlLoad_keeps {s0 : State} {a0 : ℕ} {a1 : ℕ} {a2 : ℕ} {a3 : State} (h3 : Keeps s0 a3) : Keeps s0 (ctlLoad a0 a1 a2 a3) := by
  unfold ctlLoad
  split
  · exact h3
  · split
    · exact h3
    · split
      · exact (modCore_keeps h3)
      · exact (ctlException_keeps h3)

theorem execVectorBlockStart_keeps {s0 : State} {a0 : ℕ} {a1 : State} (h1 : Keeps s0 a1) : Runs s0 (execVectorBlockStart a0 a1) := by
  unfold execVectorBlockStart
  extract_lets +onlyGivenNames x0
  clear_value x0
  split
  · split
    · exact (runs_next (vecFault_keeps h1))
    · exact (runs_next (modVec_keeps h1))
  · exact (runs_next h1)

theorem execFrcp_keeps {s0 : State} {a0 : VecIssue} {a1 : State} (h1 : Keeps s0 a1) : Runs s0 (execFrcp a0 a1) := by
  unfold execFrcp
  exact (execApprox_keeps h1)

theorem execRtap_keeps {s0 : State} {a0 : ℕ} {a1 : State} (h1 : Keeps s0 a1) : Runs s0 (execRtap a0 a1) := by
  unfold execRtap
  exact (vecRow_keeps h1 (fun y0_0 y0_1 y0_2 => (modVec_keeps (Keeps.refl _))))

theorem execVend_keeps {s0 : State} {a0 : ℕ} {a1 : State} (h1 : Keeps s0 a1) : Runs s0 (execVend a0 a1) := by
  unfold execVend
  split
  · split
    · exact (runs_next (modVec_keeps h1))
    · exact (runs_next h1)
  · exact (runs_next h1)

theorem execFms_keeps {s0 : State} {a0 : ℕ} {a1 : Option VecResidue} {a2 : State} (h2 : Keeps s0 a2) : Runs s0 (execFms a0 a1 a2) := by
  unfold execFms
  exact (execThree_keeps h2)

theorem execFnma_keeps {s0 : State} {a0 : ℕ} {a1 : Option VecResidue} {a2 : State} (h2 : Keeps s0 a2) : Runs s0 (execFnma a0 a1 a2) := by
  unfold execFnma
  exact (execThree_keeps h2)

end Sys2Proof.Machine
end

