-- ==== Sys2Proof/Laws/KeepMargins.lean ====
section
/-! SUPPORT. What the operations of Machine/Margins.lean keep. -/

namespace Sys2Proof.Machine

theorem planVmin_keeps {s0 : State} {a0 : State} {a1 : ℕ} {a2 : ℕ} (h0 : Keeps s0 a0) : Keeps s0 (planVmin a0 a1 a2).1 := by
  unfold planVmin
  split
  · dsimp only
    exact (takeFree_keeps h0)
  · dsimp only
    exact h0

theorem planTrim_keeps {s0 : State} {a0 : State} {a1 : ℕ} {a2 : ℕ} (h0 : Keeps s0 a0) : Keeps s0 (planTrim a0 a1 a2).1 := by
  unfold planTrim
  dsimp only
  exact (planVmin_keeps h0)

theorem setTrim_keeps {s0 : State} {a0 : State} {a1 : ℕ} {a2 : ℕ} (h0 : Keeps s0 a0) : Keeps s0 (setTrim a0 a1 a2) := by
  unfold setTrim
  exact (domPut_keeps h0)

theorem countTest_keeps {s0 : State} {a0 : State} {a1 : ℕ} (h0 : Keeps s0 a0) : Keeps s0 (countTest a0 a1) := by
  unfold countTest
  exact (domPut_keeps h0)

theorem slotEvent_keeps {s0 : State} {a0 : State} {a1 : ℕ} {a2 : ℕ} {a3 : ℕ} {a4 : ℕ} {a5 : Option ℕ} (h0 : Keeps s0 a0) : Keeps s0 (slotEvent a0 a1 a2 a3 a4 a5) := by
  unfold slotEvent
  exact (raise_keeps h0)

theorem moveCore_keeps {s0 : State} {a0 : State} {a1 : ℕ} {a2 : ℕ} {a3 : ℕ} (h0 : Keeps s0 a0) : Keeps s0 (moveCore a0 a1 a2 a3) := by
  unfold moveCore
  extract_lets +onlyGivenNames x0
  clear_value x0
  extract_lets +onlyGivenNames x1
  clear_value x1
  extract_lets +onlyGivenNames x2
  have h2 : Keeps s0 x2.1 := (planTrim_keeps (setSlot_keeps h0))
  clear_value x2
  extract_lets +onlyGivenNames x3
  have h3 : Keeps s0 x3 := (setTrim_keeps (setTrim_keeps h2))
  clear_value x3
  extract_lets +onlyGivenNames x4
  have h4 : Keeps s0 x4 := (modCluster_keeps h3)
  clear_value x4
  exact (keeps_ite (countTest_keeps (setSlot_keeps h4)) (slotEvent_keeps (retireSlot_keeps h4)))

theorem execTestOverdue_keeps {s0 : State} {a0 : ℕ} {a1 : State} (h1 : Keeps s0 a1) : Runs s0 (execTestOverdue a0 a1) := by
  unfold execTestOverdue
  extract_lets +onlyGivenNames x0
  clear_value x0
  extract_lets +onlyGivenNames x1
  clear_value x1
  split
  · exact (runs_next h1)
  · split
    · exact (runs_next h1)
    · extract_lets +onlyGivenNames x2
      have g2 : Keeps s0 x2 := (modCluster_keeps h1)
      clear_value x2
      exact (runs_next (slotEvent_keeps (dset_keeps g2)))

theorem clearOverdue_keeps {s0 : State} {a0 : State} {a1 : ℕ} (h0 : Keeps s0 a0) : Keeps s0 (clearOverdue a0 a1) := by
  unfold clearOverdue
  extract_lets +onlyGivenNames x0
  clear_value x0
  extract_lets +onlyGivenNames x1
  have g1 : Keeps s0 x1 := (modCluster_keeps h0)
  clear_value x1
  exact (keeps_ite (dset_keeps g1) g1)

theorem beginTest_keeps {s0 : State} {a0 : State} {a1 : ℕ} (h0 : Keeps s0 a0) : Keeps s0 (beginTest a0 a1) := by
  unfold beginTest
  split
  · exact h0
  · split
    · exact h0
    · extract_lets +onlyGivenNames x0
      clear_value x0
      exact (keeps_ite (modCluster_keeps h0) h0)

theorem lapWindows_keeps {s0 : State} {a0 : State} {a1 : ℕ} (h0 : Keeps s0 a0) : Keeps s0 (lapWindows a0 a1) := by
  unfold lapWindows
  extract_lets +onlyGivenNames x0
  clear_value x0
  extract_lets +onlyGivenNames x1
  clear_value x1
  extract_lets +onlyGivenNames x2
  have h2 : Keeps s0 x2 := (modCluster_keeps h0)
  clear_value x2
  exact (beginTest_keeps (keeps_foldl h2 fun u3 v3 => (finish_keeps (Keeps.refl _))))

theorem openWindows_keeps {s0 : State} {a0 : State} (h0 : Keeps s0 a0) : Keeps s0 (openWindows a0) := by
  unfold openWindows
  exact (keeps_ite (keeps_foldl h0 fun u0 v0 => (lapWindows_keeps (Keeps.refl _))) h0)

theorem stepDown_keeps {s0 : State} {a0 : State} {a1 : ℕ} (h0 : Keeps s0 a0) : Keeps s0 (stepDown a0 a1) := by
  unfold stepDown
  exact (raise_keeps (domPut_keeps h0))

theorem clusterOut_keeps {s0 : State} {a0 : State} {a1 : ℕ} (h0 : Keeps s0 a0) : Keeps s0 (clusterOut a0 a1) := by
  unfold clusterOut
  exact (raise_keeps (dset_keeps h0))

theorem retireAndLose_keeps {s0 : State} {a0 : State} {a1 : ℕ} {a2 : ℕ} (h0 : Keeps s0 a0) : Keeps s0 (retireAndLose a0 a1 a2) := by
  unfold retireAndLose
  extract_lets +onlyGivenNames x0
  clear_value x0
  extract_lets +onlyGivenNames x1
  have h1 : Keeps s0 x1 := (slotEvent_keeps (setTrim_keeps (retireSlot_keeps h0)))
  clear_value x1
  exact (clusterOut_keeps h1)

theorem handleShort_keeps {s0 : State} {a0 : State} {a1 : ℕ} (h0 : Keeps s0 a0) : Keeps s0 (handleShort a0 a1).1 := by
  unfold handleShort
  dsimp only
  split
  · dsimp only
    exact (modCluster_keeps h0)
  · split
    · dsimp only
      exact (stepDown_keeps h0)
    · dsimp only
      exact (retireAndLose_keeps h0)

theorem planSlots_keeps {s0 : State} {a0 : State} {a1 : ℕ} {a2 : List ℕ} (h0 : Keeps s0 a0) : Keeps s0 (planSlots a0 a1 a2).1 := by
  induction a2 generalizing a0 with
  | nil => exact h0
  | cons p l ih =>
    unfold planSlots
    extract_lets +onlyGivenNames r
    have hr : Keeps s0 r.1 := planTrim_keeps h0
    clear_value r
    split
    · exact ih (setTrim_keeps hr)
    · extract_lets +onlyGivenNames x
      have hx : Keeps s0 x.1 := handleShort_keeps hr
      clear_value x
      split
      · exact hx
      · exact ih hx

theorem replanQuadrant_keeps {s0 : State} {a0 : ℕ} {a1 : State} {a2 : ℕ} (h1 : Keeps s0 a1) : Keeps s0 (replanQuadrant a0 a1 a2) := by
  induction a0 generalizing a1 with
  | zero => exact h1
  | succ n ih =>
    unfold replanQuadrant
    extract_lets +onlyGivenNames r
    have hr : Keeps s0 r.1 := planSlots_keeps h1
    clear_value r
    exact keeps_ite (ih hr) hr

theorem updateLife_keeps {s0 : State} {a0 : State} (h0 : Keeps s0 a0) : Keeps s0 (updateLife a0) := by
  unfold updateLife
  extract_lets +onlyGivenNames x0
  have h0 : Keeps s0 x0 := (domSet_keeps h0)
  clear_value x0
  exact (dset_keeps h0)

theorem execMarginPlanCheck_keeps {s0 : State} {a0 : State} (h0 : Keeps s0 a0) : Runs s0 (execMarginPlanCheck a0) := by
  unfold execMarginPlanCheck
  split
  · exact (runs_next h0)
  · extract_lets +onlyGivenNames x0
    have g0 : Keeps s0 x0 := (openWindows_keeps h0)
    clear_value x0
    extract_lets +onlyGivenNames x1
    have g1 : Keeps s0 x1 := (keeps_foldl (Keeps.upd g0) fun u2 v2 => (replanQuadrant_keeps (Keeps.refl _)))
    clear_value x1
    exact (runs_next (updateLife_keeps (histAdd_keeps g1)))

theorem testOutcome_keeps {s0 : State} {a0 : State} {a1 : ℕ} {a2 : Bool} (h0 : Keeps s0 a0) : Keeps s0 (testOutcome a0 a1 a2) := by
  unfold testOutcome
  extract_lets +onlyGivenNames x0
  have h0 : Keeps s0 x0 := (slotEvent_keeps h0)
  clear_value x0
  exact (countTest_keeps h0)

theorem dropMove_keeps {s0 : State} {a0 : State} {a1 : ℕ} (h0 : Keeps s0 a0) : Keeps s0 (dropMove a0 a1) := by
  unfold dropMove
  extract_lets +onlyGivenNames x0
  clear_value x0
  extract_lets +onlyGivenNames x1
  have h1 : Keeps s0 x1 := (modCluster_keeps h0)
  clear_value x1
  split
  · exact (keeps_ite (markForBoot_keeps h1) h1)
  · exact h1

theorem execSpareMove_keeps {s0 : State} {a0 : ℕ} {a1 : State} (h1 : Keeps s0 a1) : Runs s0 (execSpareMove a0 a1) := by
  unfold execSpareMove
  split
  · split
    · exact (runs_next (dropMove_keeps h1))
    · split
      · exact (runs_next h1)
      · split
        · exact (runs_next (requestWake_keeps h1))
        · exact (runs_next (moveCore_keeps h1))
  · exact (runs_next (dropMove_keeps h1))
  · exact (runs_next h1)

theorem raiseTrim_keeps {s0 : State} {a0 : State} {a1 : ℕ} (h0 : Keeps s0 a0) : Keeps s0 (raiseTrim a0 a1) := by
  unfold raiseTrim
  extract_lets +onlyGivenNames x0
  clear_value x0
  split
  · exact (slotEvent_keeps (setTrim_keeps h0))
  · extract_lets +onlyGivenNames x1
    have g1 : Keeps s0 x1.1 := (handleShort_keeps h0)
    clear_value x1
    exact (keeps_ite (replanQuadrant_keeps g1) g1)

theorem raiseTrims_keeps {s0 : State} {a0 : State} (h0 : Keeps s0 a0) : Keeps s0 (raiseTrims a0) := by
  unfold raiseTrims
  exact (keeps_foldl (Keeps.upd h0) fun u0 v0 => (raiseTrim_keeps (Keeps.refl _)))

theorem scrambleBytes_keeps {s0 : State} {a0 : State} {a1 : ℕ} {a2 : ℕ} (h0 : Keeps s0 a0) : Keeps s0 (scrambleBytes a0 a1 a2) := by
  unfold scrambleBytes
  extract_lets +onlyGivenNames b
  have hb : Keeps s0 b.2 := freeBytes_keeps h0
  have hm : b.2.mem = a0.mem := rfl
  clear_value b
  refine Keeps.updMem hb fun e => ?_
  rw [hm] at e
  exact splice_wf e

theorem scrambleVec_keeps {s0 : State} {a0 : State} (h0 : Keeps s0 a0) : Keeps s0 (scrambleVec a0).2 := by
  unfold scrambleVec
  dsimp only
  exact (Keeps.updFree h0 (by omega))

theorem scrambleSram_keeps {s0 : State} {a0 : State} {a1 : ℕ} (h0 : Keeps s0 a0) : Keeps s0 (scrambleSram a0 a1).2 := by
  unfold scrambleSram
  exact (Keeps.updFree h0 (by omega))

theorem scrambleCore_keeps {s0 : State} {a0 : State} {a1 : ℕ} (h0 : Keeps s0 a0) : Keeps s0 (scrambleCore a0 a1) := by
  unfold scrambleCore
  extract_lets +onlyGivenNames x0
  have h0 : Keeps s0 x0 := (scrambleBytes_keeps h0)
  clear_value x0
  extract_lets +onlyGivenNames x1
  have h1 : Keeps s0 x1.2 := (scrambleVec_keeps h0)
  clear_value x1
  extract_lets +onlyGivenNames x2
  have h2 : Keeps s0 x2.2 := (scrambleSram_keeps h1)
  clear_value x2
  extract_lets +onlyGivenNames x3
  have h3 : Keeps s0 x3.2 := (scrambleSram_keeps h2)
  clear_value x3
  exact (modCore_keeps h3)

theorem addSweep_keeps {s0 : State} {a0 : State} {a1 : ℕ} {a2 : Sweep} (h0 : Keeps s0 a0) : Keeps s0 (addSweep a0 a1 a2) := by
  unfold addSweep
  extract_lets +onlyGivenNames x0
  clear_value x0
  extract_lets +onlyGivenNames x1
  clear_value x1
  extract_lets +onlyGivenNames x2
  have g2 : Keeps s0 x2 := (Keeps.updSweeps h0 fun e => tabSet_rises _ e _ _)
  clear_value x2
  extract_lets +onlyGivenNames x3
  have g3 : Keeps s0 x3 := (histAdd_keeps g2)
  clear_value x3
  exact (domPut_keeps g3)

theorem notePass_keeps {s0 : State} {a0 : State} {a1 : ℕ} (h0 : Keeps s0 a0) : Keeps s0 (notePass a0 a1) := by
  unfold notePass
  exact (domPut_keeps h0)

theorem execWindowTestComplete_keeps {s0 : State} {a0 : ℕ} {a1 : Bool} {a2 : Sweep} {a3 : State} (h3 : Keeps s0 a3) : Runs s0 (execWindowTestComplete a0 a1 a2 a3) := by
  unfold execWindowTestComplete
  split
  · exact (runs_next h3)
  · extract_lets +onlyGivenNames x0
    clear_value x0
    extract_lets +onlyGivenNames x1
    have h1 : Keeps s0 x1 := (modCluster_keeps h3)
    clear_value x1
    extract_lets +onlyGivenNames x2
    have h2 : Keeps s0 x2 := (scrambleCore_keeps (testOutcome_keeps (addSweep_keeps h1)))
    clear_value x2
    split
    · exact (runs_next (beginTest_keeps (clearOverdue_keeps (updateLife_keeps (notePass_keeps h2)))))
    · exact (runs_next (updateLife_keeps (retireAndLose_keeps h2)))

theorem setInterval_keeps {s0 : State} {a0 : State} {a1 : ℕ} (h0 : Keeps s0 a0) : Keeps s0 (setInterval a0 a1) := by
  unfold setInterval
  exact (modCluster_keeps h0)

theorem execSpareRotation_keeps {s0 : State} {a0 : ℕ} {a1 : State} (h1 : Keeps s0 a1) : Runs s0 (execSpareRotation a0 a1) := by
  unfold execSpareRotation
  extract_lets +onlyGivenNames x0
  clear_value x0
  split
  · exact (runs_next h1)
  · split
    · exact (runs_next (modCluster_keeps h1))
    · split
      · exact (runs_next h1)
      · extract_lets +onlyGivenNames x1
        have g1 : Keeps s0 x1 := (modCluster_keeps h1)
        clear_value x1
        split
        · exact (runs_next g1)
        · split
          · exact (runs_next g1)
          · exact (runs_next (modCluster_keeps (setInterval_keeps g1)))

theorem execSpareTestComplete_keeps {s0 : State} {a0 : ℕ} {a1 : Bool} {a2 : Sweep} {a3 : State} (h3 : Keeps s0 a3) : Runs s0 (execSpareTestComplete a0 a1 a2 a3) := by
  unfold execSpareTestComplete
  split
  · exact (runs_next h3)
  · split
    · exact (runs_next h3)
    · extract_lets +onlyGivenNames x0
      have h0 : Keeps s0 x0 := (testOutcome_keeps (addSweep_keeps h3))
      clear_value x0
      split
      · exact (runs_next (updateLife_keeps (notePass_keeps (setSlot_keeps h0))))
      · exact (runs_next (updateLife_keeps (slotEvent_keeps (retireSlot_keeps h0))))

theorem execLapLimit_keeps {s0 : State} {a0 : ℕ} {a1 : State} (h1 : Keeps s0 a1) : Runs s0 (execLapLimit a0 a1) := by
  unfold execLapLimit
  split
  · split
    · exact (runs_next (faultAtPc_keeps (openWindows_keeps h1)))
    · exact (runs_next h1)
  · exact (runs_next h1)

theorem execMonitorFlag_keeps {s0 : State} {a0 : ℕ} {a1 : State} (h1 : Keeps s0 a1) : Runs s0 (execMonitorFlag a0 a1) := by
  unfold execMonitorFlag
  split
  · exact (runs_next h1)
  · exact (runs_next (Keeps.upd h1))

theorem execSpareTakeover_keeps {s0 : State} {a0 : ℕ} {a1 : State} (h1 : Keeps s0 a1) : Runs s0 (execSpareTakeover a0 a1) := by
  unfold execSpareTakeover
  split
  · exact (runs_next h1)
  · split
    · exact (runs_next h1)
    · extract_lets +onlyGivenNames x0
      have h0 : Keeps s0 x0 := (modCluster_keeps (dropMove_keeps h1))
      clear_value x0
      extract_lets +onlyGivenNames x1
      clear_value x1
      split
      · extract_lets +onlyGivenNames x2
        have h2 : Keeps s0 x2 := (setTrim_keeps (setSlot_keeps (setSlot_keeps h0)))
        clear_value x2
        extract_lets +onlyGivenNames x3
        have h3 : Keeps s0 x3.1 := (planTrim_keeps h2)
        clear_value x3
        exact (runs_next (scrambleCore_keeps (setTrim_keeps h3)))
      · exact (runs_next (clusterOut_keeps (setSlot_keeps h0)))

end Sys2Proof.Machine
end

