-- ==== Sys2Proof/Laws/KeepPace.lean ====
section
/-! SUPPORT. What the operations of Machine/Pace.lean keep. -/

namespace Sys2Proof.Machine

theorem enterHoldover_keeps {s0 : State} {a0 : State} (h0 : Keeps s0 a0) : Keeps s0 (enterHoldover a0) := by
  unfold enterHoldover
  exact (dset_keeps (dset_keeps (dadd_keeps h0)))

theorem holdJumped_keeps {s0 : State} {a0 : State} {a1 : ℕ} (h0 : Keeps s0 a0) : Keeps s0 (holdJumped a0 a1) := by
  unfold holdJumped
  split
  · exact h0
  · extract_lets +onlyGivenNames x0
    have g0 : Keeps s0 x0 := by
      unfold x0
      clear x0
      refine (keeps_foldl h0 fun u2 v2 => ?_)
      extract_lets +onlyGivenNames x3
      clear_value x3
      extract_lets +onlyGivenNames x4
      clear_value x4
      exact (keeps_ite (modHeat_keeps (Keeps.refl _)) (Keeps.refl _))
    clear_value x0
    exact (keeps_foldl g0 fun u5 v5 => (modCluster_keeps (Keeps.refl _)))

theorem paceEvent_keeps {s0 : State} {a0 : State} {a1 : ℕ} (h0 : Keeps s0 a0) : Keeps s0 (paceEvent a0 a1) := by
  unfold paceEvent
  exact (raise_keeps h0)

theorem regain_keeps {s0 : State} {a0 : State} (h0 : Keeps s0 a0) : Keeps s0 (regain a0) := by
  unfold regain
  exact (Keeps.updQueues h0 fun e => mapValues_rises _ e)

theorem lockTo_keeps {s0 : State} {a0 : State} {a1 : ℕ} {a2 : BeaconSeen} (h0 : Keeps s0 a0) : Keeps s0 (lockTo a0 a1 a2) := by
  unfold lockTo
  extract_lets +onlyGivenNames x0
  have g0 : Keeps s0 x0 := (dset_keeps (dset_keeps (dset_keeps h0)))
  clear_value x0
  extract_lets +onlyGivenNames x1
  have g1 : Keeps s0 x1 := (dset_keeps (dset_keeps (dset_keeps (dadd_keeps g0))))
  clear_value x1
  extract_lets +onlyGivenNames x2
  clear_value x2
  extract_lets +onlyGivenNames x3
  clear_value x3
  extract_lets +onlyGivenNames x4
  have g4 : Keeps s0 x4 := (holdJumped_keeps g1)
  clear_value x4
  extract_lets +onlyGivenNames x5
  have g5 : Keeps s0 x5 := (Keeps.upd g4)
  clear_value x5
  exact (paceEvent_keeps (regain_keeps g5))

theorem acquire_keeps {s0 : State} {a0 : State} {a1 : ℤ} (h0 : Keeps s0 a0) : Keeps s0 (acquire a0 a1) := by
  unfold acquire
  split
  · exact h0
  · split
    · split
      · exact (keeps_ite h0 (lockTo_keeps h0))
      · exact h0
    · exact h0

theorem acceptBeacon_keeps {s0 : State} {a0 : State} {a1 : ℕ} {a2 : Beacon} {a3 : ℤ} {a4 : ℤ} (h0 : Keeps s0 a0) : Keeps s0 (acceptBeacon a0 a1 a2 a3 a4) := by
  unfold acceptBeacon
  extract_lets +onlyGivenNames x0
  have g0 : Keeps s0 x0 := (dset_keeps (dset_keeps h0))
  clear_value x0
  extract_lets +onlyGivenNames x1
  have g1 : Keeps s0 x1 := (modPort_keeps g0)
  clear_value x1
  exact (Keeps.upd g1)

theorem passTick_keeps {s0 : State} {a0 : State} (h0 : Keeps s0 a0) : Keeps s0 (passTick a0) := by
  unfold passTick
  split
  · exact (Keeps.upd h0)
  · split
    · exact (Keeps.upd h0)
    · extract_lets +onlyGivenNames x0
      clear_value x0
      exact (Keeps.upd h0)

theorem lapCounts_keeps {s0 : State} {a0 : State} (h0 : Keeps s0 a0) : Keeps s0 (lapCounts a0) := by
  unfold lapCounts
  exact (Keeps.updCores h0 fun e => mapValues_rises _ e)

theorem releaseHeld_keeps {s0 : State} {a0 : State} (h0 : Keeps s0 a0) : Keeps s0 (releaseHeld a0) := by
  unfold releaseHeld
  exact (Keeps.updQueues h0 fun e => mapValues_rises _ e)

theorem lapPort_keeps {s0 : State} {a0 : State} {a1 : ℕ} (h0 : Keeps s0 a0) : Keeps s0 (lapPort a0 a1) := by
  unfold lapPort
  extract_lets +onlyGivenNames x0
  have h0 : Keeps s0 x0 := (modPort_keeps h0)
  clear_value x0
  extract_lets +onlyGivenNames x1
  have h1 : Keeps s0 x1 := (sendCtrl_keeps h0)
  clear_value x1
  exact (keeps_ite (sendCtrl_keeps h1) h1)

theorem startLap_keeps {s0 : State} {a0 : State} (h0 : Keeps s0 a0) : Keeps s0 (startLap a0) := by
  unfold startLap
  extract_lets +onlyGivenNames x0
  clear_value x0
  extract_lets +onlyGivenNames x1
  have g1 : Keeps s0 x1 := (passTick_keeps h0)
  clear_value x1
  extract_lets +onlyGivenNames x2
  have g2 : Keeps s0 x2 := (Keeps.upd g1)
  clear_value x2
  extract_lets +onlyGivenNames x3
  have g3 : Keeps s0 x3 := (keeps_ite (dset_keeps g2) g2)
  clear_value x3
  extract_lets +onlyGivenNames x4
  have g4 : Keeps s0 x4 := (keeps_ite (dset_keeps g3) g3)
  clear_value x4
  extract_lets +onlyGivenNames x5
  have g5 : Keeps s0 x5 := (lapCounts_keeps g4)
  clear_value x5
  extract_lets +onlyGivenNames x6
  have g6 : Keeps s0 x6 := (keeps_ite g5 (releaseHeld_keeps g5))
  clear_value x6
  exact (raiseTrims_keeps (keeps_foldl g6 fun u7 v7 => (lapPort_keeps (Keeps.refl _))))

theorem execLapStart_keeps {s0 : State} {a0 : State} (h0 : Keeps s0 a0) : Runs s0 (execLapStart a0) := by
  unfold execLapStart
  split
  · exact (runs_next (startLap_keeps h0))
  · exact (runs_next h0)

theorem enterLoss_keeps {s0 : State} {a0 : State} (h0 : Keeps s0 a0) : Keeps s0 (enterLoss a0) := by
  unfold enterLoss
  exact (dset_keeps (dset_keeps (Keeps.updPorts h0 fun e => mapValues_rises _ e)))

theorem forwardBeacon_keeps {s0 : State} {a0 : State} {a1 : ℕ} {a2 : Beacon} {a3 : ℤ} (h0 : Keeps s0 a0) : Keeps s0 (forwardBeacon a0 a1 a2 a3) := by
  unfold forwardBeacon
  split
  · exact h0
  · extract_lets +onlyGivenNames x0
    clear_value x0
    exact (keeps_foldl h0 fun u1 v1 => (sendCtrl_keeps (Keeps.refl _)))

theorem execPaceInRecovered_keeps {s0 : State} {a0 : State} (h0 : Keeps s0 a0) : Runs s0 (execPaceInRecovered a0) := by
  unfold execPaceInRecovered
  split
  · exact (runs_next h0)
  · extract_lets +onlyGivenNames x0
    clear_value x0
    extract_lets +onlyGivenNames x1
    have h1 : Keeps s0 x1 := (Keeps.upd h0)
    clear_value x1
    exact (runs_next (keeps_ite (dset_keeps h1) h1))

theorem failPaceIn_keeps {s0 : State} {a0 : State} (h0 : Keeps s0 a0) : Keeps s0 (failPaceIn a0) := by
  unfold failPaceIn
  extract_lets +onlyGivenNames x0
  clear_value x0
  extract_lets +onlyGivenNames x1
  have h1 : Keeps s0 x1 := (dadd_keeps (Keeps.upd h0))
  clear_value x1
  exact (keeps_ite (paceEvent_keeps (dset_keeps h1)) h1)

theorem execPaceInStuck_keeps {s0 : State} {a0 : State} (h0 : Keeps s0 a0) : Runs s0 (execPaceInStuck a0) := by
  unfold execPaceInStuck
  split
  · split
    · exact (runs_next (failPaceIn_keeps h0))
    · exact (runs_next h0)
  · exact (runs_next h0)

theorem declareLoss_keeps {s0 : State} {a0 : State} (h0 : Keeps s0 a0) : Keeps s0 (declareLoss a0) := by
  unfold declareLoss
  exact (paceEvent_keeps (enterLoss_keeps (dadd_keeps h0)))

theorem execPaceLossDeclared_keeps {s0 : State} {a0 : State} (h0 : Keeps s0 a0) : Runs s0 (execPaceLossDeclared a0) := by
  unfold execPaceLossDeclared
  split
  · exact (runs_next (declareLoss_keeps h0))
  · exact (runs_next h0)

theorem takeCtrl_keeps {s0 : State} {a0 : State} {a1 : ℕ} {a2 : ℕ} (h0 : Keeps s0 a0) : Keeps s0 (takeCtrl a0 a1 a2) := by
  unfold takeCtrl
  exact (modPort_keeps h0)

theorem remember_keeps {s0 : State} {a0 : State} {a1 : ℕ} {a2 : BeaconSeen} (h0 : Keeps s0 a0) : Keeps s0 (remember a0 a1 a2) := by
  unfold remember
  exact (modPort_keeps h0)

theorem strayBeacon_keeps {s0 : State} {a0 : State} {a1 : ℕ} {a2 : BeaconFit} {a3 : BeaconSeen} (h0 : Keeps s0 a0) : Keeps s0 (strayBeacon a0 a1 a2 a3) := by
  unfold strayBeacon
  extract_lets +onlyGivenNames x0
  have g0 : Keeps s0 x0 := by
    unfold x0
    clear x0
    split
    · exact (dadd_keeps h0)
    · exact (dadd_keeps h0)
    · exact h0
  clear_value x0
  split
  · exact g0
  · split
    · exact (modPort_keeps g0)
    · extract_lets +onlyGivenNames x1
      have g1 : Keeps s0 x1 := (remember_keeps g0)
      clear_value x1
      exact (keeps_ite (declareLoss_keeps g1) g1)

theorem lockedBeacon_keeps {s0 : State} {a0 : State} {a1 : ℕ} {a2 : Beacon} {a3 : BeaconSeen} (h0 : Keeps s0 a0) : Keeps s0 (lockedBeacon a0 a1 a2 a3) := by
  unfold lockedBeacon
  cases beaconFit a0 a3 with
  | fits off => exact keeps_ite (forwardBeacon_keeps (acceptBeacon_keeps h0)) (remember_keeps h0)
  | _ => exact keeps_ite (strayBeacon_keeps h0) h0

theorem holdoverBeacon_keeps {s0 : State} {a0 : State} {a1 : ℕ} {a2 : Beacon} {a3 : BeaconSeen} {a4 : ℤ} (h0 : Keeps s0 a0) : Keeps s0 (holdoverBeacon a0 a1 a2 a3 a4) := by
  unfold holdoverBeacon
  cases beaconFit a0 a3 with
  | fits off =>
    refine keeps_ite h0 (keeps_ite (remember_keeps h0) ?_)
    exact forwardBeacon_keeps (acceptBeacon_keeps (dset_keeps (keeps_ite h0 (dset_keeps (dadd_keeps h0)))))
  | _ => exact strayBeacon_keeps h0

theorem takeBeacon_keeps {s0 : State} {a0 : State} {a1 : ℕ} {a2 : Beacon} {a3 : ℤ} (h0 : Keeps s0 a0) : Keeps s0 (takeBeacon a0 a1 a2 a3) := by
  unfold takeBeacon
  extract_lets +onlyGivenNames c
  clear_value c
  extract_lets +onlyGivenNames s
  have hs : Keeps s0 s := keeps_ite (dadd_keeps h0) h0
  clear_value s
  extract_lets +onlyGivenNames x
  clear_value x
  refine keeps_ite (keeps_ite (remember_keeps (paceEvent_keeps (enterLoss_keeps (dset_keeps hs)))) hs) ?_
  exact keeps_ite (acquire_keeps (remember_keeps hs)) (keeps_ite (lockedBeacon_keeps hs) (holdoverBeacon_keeps hs))

theorem execLapBeacon_keeps {s0 : State} {a0 : ℕ} {a1 : ℕ} {a2 : Beacon} {a3 : ℤ} {a4 : State} (h4 : Keeps s0 a4) : Runs s0 (execLapBeacon a0 a1 a2 a3 a4) := by
  unfold execLapBeacon
  extract_lets +onlyGivenNames x0
  have g0 : Keeps s0 x0 := (takeCtrl_keeps h4)
  clear_value x0
  split
  · exact (runs_next g0)
  · exact (runs_next (takeBeacon_keeps g0))

theorem execPaceInEdge_keeps {s0 : State} {a0 : State} (h0 : Keeps s0 a0) : Runs s0 (execPaceInEdge a0) := by
  unfold execPaceInEdge
  extract_lets +onlyGivenNames x0
  clear_value x0
  split
  · exact (runs_next (dadd_keeps (Keeps.upd h0)))
  · exact (runs_next (Keeps.upd h0))

theorem execDelayResponse_keeps {s0 : State} {a0 : ℕ} {a1 : ℤ} {a2 : ℤ} {a3 : ℤ} {a4 : ℤ} {a5 : State} (h5 : Keeps s0 a5) : Runs s0 (execDelayResponse a0 a1 a2 a3 a4 a5) := by
  unfold execDelayResponse
  extract_lets +onlyGivenNames x0
  have g0 : Keeps s0 x0 := (takeCtrl_keeps h5)
  clear_value x0
  split
  · exact (runs_next g0)
  · extract_lets +onlyGivenNames x1
    clear_value x1
    extract_lets +onlyGivenNames x2
    have g2 : Keeps s0 x2 := (modPort_keeps g0)
    clear_value x2
    exact (runs_next (showDelay_keeps g2))

theorem startSetter_keeps {s0 : State} {a0 : State} (h0 : Keeps s0 a0) : Keeps s0 (startSetter a0) := by
  unfold startSetter
  extract_lets +onlyGivenNames x0
  have h0 : Keeps s0 x0 := (dset_keeps h0)
  clear_value x0
  extract_lets +onlyGivenNames x1
  have h1 : Keeps s0 x1 := (dset_keeps (dset_keeps (dset_keeps h0)))
  clear_value x1
  extract_lets +onlyGivenNames x2
  have h2 : Keeps s0 x2 := (dset_keeps h1)
  clear_value x2
  exact (releaseHeld_keeps (Keeps.upd h2))

theorem execPaceInFrequencyCheck_keeps {s0 : State} {a0 : ℕ} {a1 : ℕ} {a2 : State} (h2 : Keeps s0 a2) : Runs s0 (execPaceInFrequencyCheck a0 a1 a2) := by
  unfold execPaceInFrequencyCheck
  extract_lets +onlyGivenNames x0
  clear_value x0
  split
  · exact (runs_next (failPaceIn_keeps h2))
  · exact (runs_next h2)

theorem execHoldoverTimeout_keeps {s0 : State} {a0 : State} (h0 : Keeps s0 a0) : Runs s0 (execHoldoverTimeout a0) := by
  unfold execHoldoverTimeout
  split
  · exact (runs_next (enterHoldover_keeps h0))
  · exact (runs_next h0)

theorem execDelayRequest_keeps {s0 : State} {a0 : ℕ} {a1 : ℤ} {a2 : ℤ} {a3 : State} (h3 : Keeps s0 a3) : Runs s0 (execDelayRequest a0 a1 a2 a3) := by
  unfold execDelayRequest
  extract_lets +onlyGivenNames x0
  have h0 : Keeps s0 x0 := (takeCtrl_keeps h3)
  clear_value x0
  split
  · exact (runs_next h0)
  · exact (runs_next (sendCtrl_keeps h0))

end Sys2Proof.Machine
end

