-- ==== Sys2Proof/Laws/KeepLink.lean ====
section
/-! SUPPORT. What the operations of Machine/Link.lean keep. -/

namespace Sys2Proof.Machine

theorem portEvent_keeps {s0 : State} {a0 : State} {a1 : ℕ} {a2 : ℕ} {a3 : ℕ} {a4 : ℕ} {a5 : Option ℕ} (h0 : Keeps s0 a0) : Keeps s0 (portEvent a0 a1 a2 a3 a4 a5) := by
  unfold portEvent
  exact (raise_keeps h0)

theorem reroute_keeps {s0 : State} {a0 : State} {a1 : ℕ} (h0 : Keeps s0 a0) : Keeps s0 (reroute a0 a1) := by
  unfold reroute
  extract_lets +onlyGivenNames x0
  clear_value x0
  extract_lets +onlyGivenNames x1
  clear_value x1
  extract_lets +onlyGivenNames x2
  unfold x2
  clear x2
  extract_lets +onlyGivenNames x3
  have h3 : Keeps s0 x3 := (modPort_keeps h0)
  clear_value x3
  refine (keeps_foldl h3 fun u4 v4 => ?_)
  split
  · split
    · exact (enqueue_keeps (Keeps.refl _))
    · exact (Keeps.refl _)
  · exact (Keeps.refl _)

theorem heatLoses_keeps {s0 : State} {a0 : State} {a1 : ℕ} {a2 : ℕ} (h0 : Keeps s0 a0) : Keeps s0 (heatLoses a0 a1 a2) := by
  unfold heatLoses
  split
  · split
    · split
      · exact (keeps_ite (portEvent_keeps h0) (portEvent_keeps h0))
      · exact (keeps_ite (portEvent_keeps h0) (portEvent_keeps h0))
      · exact (keeps_ite (portEvent_keeps h0) (portEvent_keeps h0))
      · exact h0
    · exact h0
  · exact h0

theorem updatePlan_keeps {s0 : State} {a0 : State} {a1 : ℕ} (h0 : Keeps s0 a0) : Keeps s0 (updatePlan a0 a1) := by
  unfold updatePlan
  extract_lets +onlyGivenNames x0
  clear_value x0
  extract_lets +onlyGivenNames x1
  clear_value x1
  split
  · exact h0
  · extract_lets +onlyGivenNames x2
    have h2 : Keeps s0 x2 := (portEvent_keeps (dset_keeps h0))
    clear_value x2
    exact (keeps_ite h2 (reroute_keeps (keeps_foldl h2 fun u3 v3 => (heatLoses_keeps (Keeps.refl _)))))

theorem updatePlans_keeps {s0 : State} {a0 : State} (h0 : Keeps s0 a0) : Keeps s0 (updatePlans a0) := by
  unfold updatePlans
  exact (keeps_foldl h0 fun u0 v0 => (updatePlan_keeps (Keeps.refl _)))

theorem forward_keeps {s0 : State} {a0 : State} {a1 : ℕ} {a2 : ℕ} {a3 : Packet} (h0 : Keeps s0 a0) : Keeps s0 (forward a0 a1 a2 a3) := by
  unfold forward
  split
  · exact (nakBack_keeps h0)
  · split
    · exact (dadd_keeps h0)
    · split
      · exact (nakBack_keeps h0)
      · extract_lets +onlyGivenNames x0
        clear_value x0
        split
        · exact (dadd_keeps h0)
        · exact (keeps_ite (enqueue_keeps h0) (nakBack_keeps h0))

theorem fillSlot_keeps {s0 : State} {a0 : ℕ} {a1 : ℕ} {a2 : ℕ} {a3 : State × Filling} (h3 : Keeps s0 a3.1) : Keeps s0 (fillSlot a0 a1 a2 a3).1 := by
  unfold fillSlot
  dsimp only
  split
  · dsimp only
    split
    · exact (keeps_ite (dadd_keeps (dadd_keeps (modPort_keeps (keeps_ite_fst h3 h3)))) (dadd_keeps (modPort_keeps (keeps_ite_fst h3 h3))))
    · split
      · exact (keeps_ite (dadd_keeps (dadd_keeps (modPort_keeps h3))) (dadd_keeps (modPort_keeps h3)))
      · split
        · split
          · split
            · split
              · refine (dadd_keeps ?_)
                refine (dadd_keeps ?_)
                refine (modPort_keeps ?_)
                dsimp only
                exact (modPort_keeps h3)
              · refine (dadd_keeps ?_)
                refine (modPort_keeps ?_)
                dsimp only
                exact (modPort_keeps h3)
            · split
              · refine (dadd_keeps ?_)
                refine (dadd_keeps ?_)
                refine (modPort_keeps ?_)
                dsimp only
                exact (modPort_keeps h3)
              · refine (dadd_keeps ?_)
                refine (modPort_keeps ?_)
                dsimp only
                exact (modPort_keeps h3)
          · split
            · split
              · refine (dadd_keeps ?_)
                refine (dadd_keeps ?_)
                refine (modPort_keeps ?_)
                dsimp only
                exact (modPort_keeps h3)
              · refine (dadd_keeps ?_)
                refine (modPort_keeps ?_)
                dsimp only
                exact (modPort_keeps h3)
            · split
              · refine (dadd_keeps ?_)
                refine (dadd_keeps ?_)
                refine (modPort_keeps ?_)
                dsimp only
                exact (modPort_keeps h3)
              · refine (dadd_keeps ?_)
                refine (modPort_keeps ?_)
                dsimp only
                exact (modPort_keeps h3)
        · exact (keeps_ite (dadd_keeps (dadd_keeps (modPort_keeps h3))) (dadd_keeps (modPort_keeps h3)))
      · split
        · split
          · split
            · split
              · split
                · refine (dadd_keeps ?_)
                  refine (dadd_keeps ?_)
                  refine (modPort_keeps ?_)
                  dsimp only
                  exact (modPort_keeps h3)
                · refine (dadd_keeps ?_)
                  refine (modPort_keeps ?_)
                  dsimp only
                  exact (modPort_keeps h3)
              · split
                · refine (dadd_keeps ?_)
                  refine (dadd_keeps ?_)
                  refine (modPort_keeps ?_)
                  dsimp only
                  exact (modPort_keeps h3)
                · refine (dadd_keeps ?_)
                  refine (modPort_keeps ?_)
                  dsimp only
                  exact (modPort_keeps h3)
            · split
              · split
                · refine (dadd_keeps ?_)
                  refine (dadd_keeps ?_)
                  refine (modPort_keeps ?_)
                  dsimp only
                  exact (modPort_keeps h3)
                · refine (dadd_keeps ?_)
                  refine (modPort_keeps ?_)
                  dsimp only
                  exact (modPort_keeps h3)
              · split
                · refine (dadd_keeps ?_)
                  refine (dadd_keeps ?_)
                  refine (modPort_keeps ?_)
                  dsimp only
                  exact (modPort_keeps h3)
                · refine (dadd_keeps ?_)
                  refine (modPort_keeps ?_)
                  dsimp only
                  exact (modPort_keeps h3)
          · split
            · split
              · split
                · refine (dadd_keeps ?_)
                  refine (dadd_keeps ?_)
                  refine (modPort_keeps ?_)
                  dsimp only
                  exact (modPort_keeps h3)
                · refine (dadd_keeps ?_)
                  refine (modPort_keeps ?_)
                  dsimp only
                  exact (modPort_keeps h3)
              · split
                · refine (dadd_keeps ?_)
                  refine (dadd_keeps ?_)
                  refine (modPort_keeps ?_)
                  dsimp only
                  exact (modPort_keeps h3)
                · refine (dadd_keeps ?_)
                  refine (modPort_keeps ?_)
                  dsimp only
                  exact (modPort_keeps h3)
            · split
              · split
                · refine (dadd_keeps ?_)
                  refine (dadd_keeps ?_)
                  refine (modPort_keeps ?_)
                  dsimp only
                  exact (modPort_keeps h3)
                · refine (dadd_keeps ?_)
                  refine (modPort_keeps ?_)
                  dsimp only
                  exact (modPort_keeps h3)
              · split
                · refine (dadd_keeps ?_)
                  refine (dadd_keeps ?_)
                  refine (modPort_keeps ?_)
                  dsimp only
                  exact (modPort_keeps h3)
                · refine (dadd_keeps ?_)
                  refine (modPort_keeps ?_)
                  dsimp only
                  exact (modPort_keeps h3)
        · exact (keeps_ite (dadd_keeps (dadd_keeps (modPort_keeps h3))) (dadd_keeps (modPort_keeps h3)))
  · dsimp only
    split
    · exact (keeps_ite_fst h3 h3)
    · split
      · dsimp only
        exact h3
      · split
        · dsimp only
          exact (modPort_keeps h3)
        · dsimp only
          exact h3
      · split
        · dsimp only
          exact (modPort_keeps h3)
        · dsimp only
          exact h3

theorem sendFresh_keeps {s0 : State} {a0 : State} {a1 : ℕ} (h0 : Keeps s0 a0) : Keeps s0 (sendFresh a0 a1) := by
  unfold sendFresh
  extract_lets +onlyGivenNames x0
  clear_value x0
  extract_lets +onlyGivenNames x1
  clear_value x1
  extract_lets +onlyGivenNames x2
  have g2 : Keeps s0 x2.1 := (keeps_foldl_fst h0 fun u3 v3 => (fillSlot_keeps (Keeps.refl _)))
  clear_value x2
  exact (modPort_keeps g2)

theorem receivePacket_keeps {s0 : State} {a0 : State} {a1 : ℕ} {a2 : ℕ} {a3 : Packet} (h0 : Keeps s0 a0) : Keeps s0 (receivePacket a0 a1 a2 a3) := by
  unfold receivePacket
  exact (keeps_ite (dadd_keeps h0) (keeps_ite (modPort_keeps h0) (keeps_ite (dadd_keeps h0) (keeps_ite (modPort_keeps h0) (forward_keeps h0)))))

theorem receiveFlit_keeps {s0 : State} {a0 : State} {a1 : ℕ} {a2 : ℕ × BitVec 2048} (h0 : Keeps s0 a0) : Keeps s0 (receiveFlit a0 a1 a2) := by
  unfold receiveFlit
  extract_lets +onlyGivenNames x0
  clear_value x0
  extract_lets +onlyGivenNames x1
  have h1 : Keeps s0 x1 := (dadd_keeps h0)
  clear_value x1
  extract_lets +onlyGivenNames x2
  have h2 : Keeps s0 x2 := (modPort_keeps h1)
  clear_value x2
  extract_lets +onlyGivenNames x3
  clear_value x3
  extract_lets +onlyGivenNames x4
  clear_value x4
  split
  · exact h2
  · extract_lets +onlyGivenNames x5
    clear_value x5
    exact (keeps_ite (receivePacket_keeps (modPort_keeps h2)) (modPort_keeps h2))

theorem execLaneLock_keeps {s0 : State} {a0 : ℕ} {a1 : BitVec 4} {a2 : BitVec 4} {a3 : State} (h3 : Keeps s0 a3) : Runs s0 (execLaneLock a0 a1 a2 a3) := by
  unfold execLaneLock
  extract_lets +onlyGivenNames x0
  clear_value x0
  split
  · exact (runs_next h3)
  · split
    · exact (runs_next (dset_keeps h3))
    · extract_lets +onlyGivenNames x1
      have h1 : Keeps s0 x1 := (dset_keeps (dset_keeps h3))
      clear_value x1
      extract_lets +onlyGivenNames x2
      have h2 : Keeps s0 x2 := (dset_keeps h1)
      clear_value x2
      exact (runs_next (updatePlan_keeps (modPort_keeps h2)))

theorem execTrainingTimeout_keeps {s0 : State} {a0 : ℕ} {a1 : State} (h1 : Keeps s0 a1) : Runs s0 (execTrainingTimeout a0 a1) := by
  unfold execTrainingTimeout
  split
  · split
    · exact (runs_next (dset_keeps h1))
    · exact (runs_next h1)
  · exact (runs_next h1)

theorem execDiscoveryRecord_keeps {s0 : State} {a0 : ℕ} {a1 : BitVec 256} {a2 : State} (h2 : Keeps s0 a2) : Runs s0 (execDiscoveryRecord a0 a1 a2) := by
  unfold execDiscoveryRecord
  extract_lets +onlyGivenNames x0
  have h0 : Keeps s0 x0 := (takeCtrl_keeps h2)
  clear_value x0
  split
  · exact (runs_next h0)
  · extract_lets +onlyGivenNames x1
    clear_value x1
    extract_lets +onlyGivenNames x2
    have h2 : Keeps s0 x2 := (dset_keeps (dset_keeps h0))
    clear_value x2
    extract_lets +onlyGivenNames x3
    have h3 : Keeps s0 x3 := (dset_keeps (dset_keeps h2))
    clear_value x3
    extract_lets +onlyGivenNames x4
    have h4 : Keeps s0 x4 := (modPort_keeps h3)
    clear_value x4
    extract_lets +onlyGivenNames x5
    have h5 : Keeps s0 x5 := (updatePlan_keeps h4)
    clear_value x5
    split
    · exact (runs_next (portEvent_keeps (modPort_keeps h5)))
    · exact (runs_next h5)

theorem leaveTrained_keeps {s0 : State} {a0 : State} {a1 : ℕ} {a2 : ℕ} (h0 : Keeps s0 a0) : Keeps s0 (leaveTrained a0 a1 a2) := by
  unfold leaveTrained
  extract_lets +onlyGivenNames x0
  clear_value x0
  extract_lets +onlyGivenNames x1
  have h1 : Keeps s0 x1 := (dset_keeps (dset_keeps h0))
  clear_value x1
  extract_lets +onlyGivenNames x2
  have h2 : Keeps s0 x2 := (modPort_keeps h1)
  clear_value x2
  extract_lets +onlyGivenNames x3
  have h3 : Keeps s0 x3 := (keeps_ite (enterHoldover_keeps h2) h2)
  clear_value x3
  exact (updatePlan_keeps h3)

theorem retrain_keeps {s0 : State} {a0 : State} {a1 : ℕ} {a2 : Bool} (h0 : Keeps s0 a0) : Keeps s0 (retrain a0 a1 a2) := by
  unfold retrain
  extract_lets +onlyGivenNames x0
  have h0 : Keeps s0 x0 := (keeps_ite (portEvent_keeps (dadd_keeps h0)) h0)
  clear_value x0
  exact (modPort_keeps (leaveTrained_keeps h0))

theorem sendGroup_keeps {s0 : State} {a0 : State} {a1 : ℕ} (h0 : Keeps s0 a0) : Keeps s0 (sendGroup a0 a1) := by
  unfold sendGroup
  extract_lets +onlyGivenNames x0
  clear_value x0
  split
  · exact (sendFresh_keeps h0)
  · split
    · exact (sendFresh_keeps (modPort_keeps h0))
    · extract_lets +onlyGivenNames x1
      clear_value x1
      extract_lets +onlyGivenNames x2
      clear_value x2
      exact (modPort_keeps h0)

theorem takeHeader_keeps {s0 : State} {a0 : State} {a1 : ℕ} {a2 : BitVec 2048} {t : State} (h0 : Keeps s0 a0) (e : takeHeader a0 a1 a2 = some t) : Keeps s0 t := by
  unfold takeHeader at e
  extract_lets at e
  simp only [ite_eq_iff] at e
  simp only [reduceCtorEq, and_false, false_or, Option.some.injEq] at e
  obtain ⟨_, ⟨_, rfl⟩ | ⟨_, _, _, rfl⟩⟩ := e
  · exact modPort_keeps h0
  · exact dadd_keeps (modPort_keeps (modPort_keeps h0))

theorem acceptGroup_keeps {s0 : State} {a0 : State} {a1 : ℕ} {a2 : BitVec 2048} {a3 : List (BitVec 2048)} (h0 : Keeps s0 a0) : Keeps s0 (acceptGroup a0 a1 a2 a3) := by
  unfold acceptGroup
  extract_lets +onlyGivenNames s
  have hs : Keeps s0 s := modPort_keeps h0
  clear_value s
  split
  · exact retrain_keeps hs
  · exact sendGroup_keeps (keeps_foldl (takeHeader_keeps hs (by assumption)) fun u v => receiveFlit_keeps (Keeps.refl _))

theorem execFlitGroup_keeps {s0 : State} {a0 : ℕ} {a1 : BitVec 2048} {a2 : List (BitVec 2048)} {a3 : State} (h3 : Keeps s0 a3) : Runs s0 (execFlitGroup a0 a1 a2 a3) := by
  unfold execFlitGroup
  split
  · exact (runs_next h3)
  · extract_lets +onlyGivenNames x0
    clear_value x0
    split
    · exact (runs_next (sendGroup_keeps (modPort_keeps (dadd_keeps h3))))
    · split
      · exact (runs_next (acceptGroup_keeps h3))
      · exact (runs_next (sendGroup_keeps (modPort_keeps h3)))

theorem execLaneLockLoss_keeps {s0 : State} {a0 : ℕ} {a1 : BitVec 4} {a2 : State} (h2 : Keeps s0 a2) : Runs s0 (execLaneLockLoss a0 a1 a2) := by
  unfold execLaneLockLoss
  split
  · exact (runs_next (retrain_keeps h2))
  · exact (runs_next h2)

theorem execDiscoveryTimeout_keeps {s0 : State} {a0 : ℕ} {a1 : State} (h1 : Keeps s0 a1) : Runs s0 (execDiscoveryTimeout a0 a1) := by
  unfold execDiscoveryTimeout
  extract_lets +onlyGivenNames x0
  clear_value x0
  split
  · exact (runs_next (updatePlan_keeps (modPort_keeps h1)))
  · exact (runs_next h1)

theorem writePortControl_keeps {s0 : State} {a0 : State} {a1 : ℕ} {a2 : ℕ} (h0 : Keeps s0 a0) : Keeps s0 (writePortControl a0 a1 a2).1 := by
  unfold writePortControl
  split
  · dsimp only
    exact h0
  · split
    · dsimp only
      exact h0
    · dsimp only
      split
      · dsimp only
        exact (dset_keeps h0)
      · split
        · dsimp only
          exact (modPort_keeps (keeps_ite (dset_keeps h0) (leaveTrained_keeps (dset_keeps h0))))
        · dsimp only
          exact (dset_keeps h0)

theorem execPortTraining_keeps {s0 : State} {a0 : ℕ} {a1 : State} (h1 : Keeps s0 a1) : Runs s0 (execPortTraining a0 a1) := by
  unfold execPortTraining
  extract_lets +onlyGivenNames x0
  clear_value x0
  split
  · exact (runs_next (modPort_keeps (dset_keeps h1)))
  · exact (runs_next h1)

theorem execDiscoverySend_keeps {s0 : State} {a0 : ℕ} {a1 : State} (h1 : Keeps s0 a1) : Runs s0 (execDiscoverySend a0 a1) := by
  unfold execDiscoverySend
  split
  · extract_lets +onlyGivenNames x0
    have h0 : Keeps s0 x0 := (sendCtrl_keeps h1)
    clear_value x0
    exact (runs_next (modPort_keeps h0))
  · exact (runs_next h1)

end Sys2Proof.Machine
end

