-- ==== Sys2Proof/Laws/KeepSnapLayout.lean ====
section
/-! SUPPORT. What the operations of Machine/SnapLayout.lean keep. -/

namespace Sys2Proof.Machine

theorem replaceRange_keeps {s0 : State} {a0 : State} {a1 : ℕ} {a2 : ℕ} {a3 : Tab Byte} (h0 : Keeps s0 a0) : Keeps s0 (replaceRange a0 a1 a2 a3) := by
  refine h0.trans ⟨rfl, fun x => ?_, Nat.le_refl _, fun _ h => h, fun _ h => h, Nat.le_refl _, List.prefix_refl _⟩
  have y := (State.tablesOk_iff _).1 x
  have r := tabDrop_rises (fun x => decide (a1 ≤ x * 64) && decide (x * 64 + 64 ≤ a1 + a2)) y.errs
  have f (l : Tab Byte) (m : Tab Byte) (g : tabWf 0#8 m = true) : tabWf 0#8 (l.foldl (fun m x => tabSet 0#8 m (a1 + x.1) x.2) m) = true := by
    induction l generalizing m with
    | nil => exact g
    | cons x l ih => exact ih _ (tabSet_wf g _ _)
  exact (State.tablesOk_iff _).2 { y with mem := f _ _ (tabDrop_wf _ y.mem), errs := r }

theorem restoreBlock_keeps {s0 : State} {a0 : State} {a1 : ℕ} {a2 : Tab Byte} (h0 : Keeps s0 a0) : Keeps s0 (restoreBlock a0 a1 a2) := by
  unfold restoreBlock
  extract_lets +onlyGivenNames x0
  have g0 : Keeps s0 x0 := (modHeat_keeps h0)
  clear_value x0
  extract_lets +onlyGivenNames x1
  have g1 : Keeps s0 x1 := (replaceRange_keeps g0)
  clear_value x1
  exact (keeps_foldl g1 fun u2 v2 => (replaceRange_keeps (Keeps.refl _)))

theorem applySnapshot_keeps {s0 : State} {a0 : State} {a1 : ℕ} {a2 : Tab Byte} (h0 : Keeps s0 a0) : Keeps s0 (applySnapshot a0 a1 a2) := by
  unfold applySnapshot
  exact (keeps_foldl (restoreBlock_keeps h0) fun u0 v0 => (replaceRange_keeps (Keeps.refl _)))

theorem setSnapLap_keeps {s0 : State} {a0 : State} {a1 : ℕ} {a2 : ℕ} {a3 : Option ℕ} (h0 : Keeps s0 a0) : Keeps s0 (setSnapLap a0 a1 a2 a3) := by
  unfold setSnapLap
  exact (domPut_keeps h0)

end Sys2Proof.Machine
end

