-- ==== Sys2Proof/Laws/KeepRemote.lean ====
section
/-! SUPPORT. What the operations of Machine/Remote.lean keep. -/

namespace Sys2Proof.Machine

theorem setHeatRem_keeps {s0 : State} {a0 : State} {a1 : ℕ} {a2 : Bool} {a3 : Remote} {a4 : ℕ} (h0 : Keeps s0 a0) : Keeps s0 (setHeatRem a0 a1 a2 a3 a4) := by
  unfold setHeatRem
  exact (modHeat_keeps h0)

theorem pumpHeat_keeps {s0 : State} {a0 : State} {a1 : ℕ} {a2 : Bool} (h0 : Keeps s0 a0) : Keeps s0 (pumpHeat a0 a1 a2) := by
  unfold pumpHeat
  extract_lets +onlyGivenNames x0
  clear_value x0
  extract_lets +onlyGivenNames x1
  clear_value x1
  exact (keeps_foldl (setHeatRem_keeps h0) fun u2 v2 => (sendTxn_keeps (Keeps.refl _)))

theorem heatBackoff_keeps {s0 : State} {a0 : State} {a1 : ℕ} {a2 : Bool} (h0 : Keeps s0 a0) : Keeps s0 (heatBackoff a0 a1 a2) := by
  unfold heatBackoff
  extract_lets +onlyGivenNames x0
  clear_value x0
  split
  · exact (keeps_ite h0 (pumpHeat_keeps (setHeatRem_keeps h0)))
  · exact h0

theorem collBackoff_keeps {s0 : State} {a0 : State} {a1 : Coll} (h0 : Keeps s0 a0) : Keeps s0 (collBackoff a0 a1) := by
  unfold collBackoff
  split
  · split
    · exact h0
    · extract_lets +onlyGivenNames x0
      have g0 : Keeps s0 x0 := (modColl_keeps h0)
      clear_value x0
      exact (settleColl_keeps (keeps_foldl g0 fun u1 v1 => (sendTxn_keeps (Keeps.refl _))))
  · exact h0

theorem dmaBackoff_keeps {s0 : State} {a0 : State} {a1 : ℕ} {a2 : ℕ} (h0 : Keeps s0 a0) : Keeps s0 (dmaBackoff a0 a1 a2) := by
  unfold dmaBackoff
  split
  · exact h0
  · split
    · exact (keeps_ite h0 (pumpDma_keeps (modFlight_keeps h0)))
    · exact h0

theorem execBackoffExpiry_keeps {s0 : State} {a0 : ℕ} {a1 : ℕ} {a2 : State} (h2 : Keeps s0 a2) : Runs s0 (execBackoffExpiry a0 a1 a2) := by
  unfold execBackoffExpiry
  split
  · exact (runs_next (heatBackoff_keeps h2))
  · split
    · exact (runs_next (collBackoff_keeps h2))
    · exact (runs_next (dmaBackoff_keeps h2))

theorem asTarget_keeps {s0 : State} {a0 : State} {a1 : ℕ} {a2 : Packet} {a3 : State → ℕ → State} (h0 : Keeps s0 a0) (h3 : ∀ v3_0 v3_1, Keeps v3_0 (a3 v3_0 v3_1)) : Keeps s0 (asTarget a0 a1 a2 a3) := by
  unfold asTarget
  extract_lets +onlyGivenNames x0
  have h0 : Keeps s0 x0.1 := (arrive_keeps h0)
  clear_value x0
  split
  · exact h0
  · extract_lets +onlyGivenNames x1
    have h1 : Keeps s0 x1.1 := (targetHeat_keeps h0)
    clear_value x1
    split
    · exact h1
    · exact (h1.trans (h3 _ _))

theorem execReadReq_keeps {s0 : State} {a0 : ℕ} {a1 : Packet} {a2 : List SectorErr} {a3 : State} (h3 : Keeps s0 a3) : Runs s0 (execReadReq a0 a1 a2 a3) := by
  unfold execReadReq
  extract_lets +onlyGivenNames x0
  clear_value x0
  refine (runs_next (asTarget_keeps (injectErrs_keeps h3) (fun y1_0 y1_1 => (keeps_ite (sendNak_keeps (Keeps.refl _)) ?_))))
  extract_lets +onlyGivenNames x2
  have g2 : Keeps y1_0 x2.1 := (loadLocal_keeps (Keeps.refl _))
  clear_value x2
  split
  · exact (sendNak_keeps g2)
  · exact (sendPacket_keeps g2)

theorem restartTimeouts_keeps {s0 : State} {a0 : State} {a1 : TxnOwner → Bool} (h0 : Keeps s0 a0) : Keeps s0 (restartTimeouts a0 a1) := by
  unfold restartTimeouts
  exact (Keeps.upd h0)

theorem resetHeatPacket_keeps {s0 : State} {a0 : State} {a1 : ℕ} {a2 : Bool} {a3 : ℕ} {a4 : Packet} (h0 : Keeps s0 a0) : Keeps s0 (resetHeatPacket a0 a1 a2 a3 a4) := by
  unfold resetHeatPacket
  extract_lets +onlyGivenNames x0
  clear_value x0
  exact (restartTimeouts_keeps (setHeatRem_keeps h0))

theorem nakHeat_keeps {s0 : State} {a0 : State} {a1 : ℕ} {a2 : Bool} {a3 : ℕ} {a4 : ℕ} {a5 : Packet} (h0 : Keeps s0 a0) : Keeps s0 (nakHeat a0 a1 a2 a3 a4 a5) := by
  unfold nakHeat
  split
  · exact (resetHeatPacket_keeps h0)
  · extract_lets +onlyGivenNames x0
    clear_value x0
    exact (setHeatRem_keeps (keepRefusal_keeps h0))

theorem sendAck_keeps {s0 : State} {a0 : State} {a1 : Packet} (h0 : Keeps s0 a0) : Keeps s0 (sendAck a0 a1) := by
  unfold sendAck
  exact (sendPacket_keeps h0)

theorem remoteStore_keeps {s0 : State} {a0 : State} {a1 : ℕ} {a2 : Packet} (h0 : Keeps s0 a0) : Keeps s0 (remoteStore a0 a1 a2) := by
  unfold remoteStore
  split
  · exact (sendNak_keeps h0)
  · split
    · extract_lets +onlyGivenNames x0
      have g0 : Keeps s0 x0.1 := (ringDoorbell_keeps h0)
      clear_value x0
      exact (keeps_ite (sendAck_keeps g0) (sendNak_keeps g0))
    · split
      · exact (sendNak_keeps h0)
      · extract_lets +onlyGivenNames x1
        have g1 : Keeps s0 x1.1 := (storeLocal_keeps h0)
        clear_value x1
        exact (keeps_ite (sendAck_keeps g1) (sendNak_keeps g1))

theorem closeRemote_keeps {s0 : State} {a0 : State} {a1 : ℕ} {a2 : ℕ} (h0 : Keeps s0 a0) : Keeps s0 (closeRemote a0 a1 a2) := by
  unfold closeRemote
  extract_lets +onlyGivenNames x0
  have g0 : Keeps s0 x0 := (lateStep_keeps h0)
  clear_value x0
  extract_lets +onlyGivenNames x1
  have g1 : Keeps s0 x1 := (modFlight_keeps g0)
  clear_value x1
  exact (settleDma_keeps g1)

theorem remoteApply_keeps {s0 : State} {a0 : State} {a1 : ℕ} {a2 : Packet} (h0 : Keeps s0 a0) : Keeps s0 (remoteApply a0 a1 a2) := by
  unfold remoteApply
  extract_lets +onlyGivenNames x0
  clear_value x0
  extract_lets +onlyGivenNames x1
  have g1 : Keeps s0 x1.1 := (addInto_keeps h0)
  clear_value x1
  exact (keeps_ite (sendNak_keeps g1) (sendAck_keeps (keeps_ite (ordEndAll_keeps g1) g1)))

theorem remoteMemOp_keeps {s0 : State} {a0 : State} {a1 : ℕ} {a2 : ℕ} {a3 : Packet} (h0 : Keeps s0 a0) : Keeps s0 (remoteMemOp a0 a1 a2 a3) := by
  unfold remoteMemOp
  split
  · exact (sendNak_keeps h0)
  · split
    · exact (sendNak_keeps h0)
    · split
      · exact (remoteApply_keeps h0)
      · extract_lets +onlyGivenNames x0
        have g0 : Keeps s0 x0 := (keeps_ite h0 (dadd_keeps h0))
        clear_value x0
        exact (Keeps.upd g0)

theorem pumpOwner_keeps {s0 : State} {a0 : State} {a1 : TxnOwner} (h0 : Keeps s0 a0) : Keeps s0 (pumpOwner a0 a1) := by
  unfold pumpOwner
  split
  · exact (pumpCluster_keeps h0)
  · exact h0

theorem execMemOp_keeps {s0 : State} {a0 : ℕ} {a1 : Packet} {a2 : List SectorErr} {a3 : State} (h3 : Keeps s0 a3) : Runs s0 (execMemOp a0 a1 a2 a3) := by
  unfold execMemOp
  extract_lets +onlyGivenNames x0
  clear_value x0
  exact (runs_next (asTarget_keeps (injectErrs_keeps h3) (fun y1_0 y1_1 => (remoteMemOp_keeps (Keeps.refl _)))))

theorem resetDma_keeps {s0 : State} {a0 : State} {a1 : ℕ} {a2 : ℕ} {a3 : ℕ} {a4 : Packet} (h0 : Keeps s0 a0) : Keeps s0 (resetDma a0 a1 a2 a3 a4) := by
  unfold resetDma
  exact (pumpCluster_keeps (restartTimeouts_keeps (modFlight_keeps h0)))

theorem takeHeld_keeps {s0 : State} {a0 : State} {a1 : ℕ} {a2 : Packet} (h0 : Keeps s0 a0) : Keeps s0 (takeHeld a0 a1 a2) := by
  unfold takeHeld
  exact (keeps_ite (sendNak_keeps h0) (remoteApply_keeps h0))

theorem answered_keeps {s0 : State} {a0 : State} {a1 : ℕ} {a2 : ℕ} {a3 : ℕ} (h0 : Keeps s0 a0) : Keeps s0 (answered a0 a1 a2 a3) := by
  unfold answered
  extract_lets +onlyGivenNames x0
  have g0 : Keeps s0 x0 := (modFlight_keeps h0)
  clear_value x0
  exact (closeRemote_keeps (pumpCluster_keeps (pumpDma_keeps g0)))

theorem queueHeatPackets_keeps {s0 : State} {a0 : State} {a1 : ℕ} {a2 : Bool} {a3 : List (ℕ × Packet)} (h0 : Keeps s0 a0) : Keeps s0 (queueHeatPackets a0 a1 a2 a3) := by
  unfold queueHeatPackets
  extract_lets +onlyGivenNames x0
  clear_value x0
  exact (pumpHeat_keeps (setHeatRem_keeps h0))

theorem restoreStuck_keeps {s0 : State} {a0 : State} {a1 : ℕ} (h0 : Keeps s0 a0) : Keeps s0 (restoreStuck a0 a1) := by
  unfold restoreStuck
  extract_lets +onlyGivenNames x0
  have h0 : Keeps s0 x0 := (modHeat_keeps h0)
  clear_value x0
  exact (raise_keeps (dset_keeps h0))

theorem afterHeaders_keeps {s0 : State} {a0 : State} {a1 : ℕ} (h0 : Keeps s0 a0) : Keeps s0 (afterHeaders a0 a1) := by
  unfold afterHeaders
  extract_lets +onlyGivenNames x0
  clear_value x0
  split
  · exact h0
  · split
    · exact (queueHeatPackets_keeps (modHeat_keeps h0))
    · exact (restoreStuck_keeps (modHeat_keeps h0))

theorem heatAnswered_keeps {s0 : State} {a0 : State} {a1 : ℕ} {a2 : Bool} {a3 : ℕ} {a4 : Remote → Remote} (h0 : Keeps s0 a0) : Keeps s0 (heatAnswered a0 a1 a2 a3 a4) := by
  unfold heatAnswered
  extract_lets +onlyGivenNames x0
  clear_value x0
  exact (pumpHeat_keeps (setHeatRem_keeps h0))

theorem execReadResp_keeps {s0 : State} {a0 : ℕ} {a1 : Packet} {a2 : State} (h2 : Keeps s0 a2) : Runs s0 (execReadResp a0 a1 a2) := by
  unfold execReadResp
  extract_lets +onlyGivenNames x0
  have h0 : Keeps s0 x0.1 := (takeAnswer_keeps h2)
  clear_value x0
  split
  · exact (runs_next h0)
  · split
    · exact (runs_next (answered_keeps (modFlight_keeps h0)))
    · exact (runs_next (afterHeaders_keeps (heatAnswered_keeps h0)))
    · exact (runs_next h0)
    · exact (runs_next h0)

theorem refuseDma_keeps {s0 : State} {a0 : State} {a1 : ℕ} {a2 : ℕ} {a3 : ℕ} {a4 : ℕ} {a5 : Packet} (h0 : Keeps s0 a0) : Keeps s0 (refuseDma a0 a1 a2 a3 a4 a5) := by
  unfold refuseDma
  extract_lets +onlyGivenNames x0
  have g0 : Keeps s0 x0 := (modFlight_keeps h0)
  clear_value x0
  exact (closeRemote_keeps (pumpCluster_keeps (keepRefusal_keeps g0)))

theorem execHeldContributionTaken_keeps {s0 : State} {a0 : ℕ} {a1 : ℕ} {a2 : ℕ} {a3 : State} (h3 : Keeps s0 a3) : Runs s0 (execHeldContributionTaken a0 a1 a2 a3) := by
  unfold execHeldContributionTaken
  split
  · exact (runs_next h3)
  · split
    · exact (runs_next h3)
    · split
      · exact (runs_next (startHead_keeps h3))
      · split
        · extract_lets +onlyGivenNames x0
          have g0 : Keeps s0 x0 := (Keeps.upd h3)
          clear_value x0
          exact (runs_next (keeps_foldl g0 fun u1 v1 => (takeHeld_keeps (Keeps.refl _))))
        · split
          · exact (runs_next h3)
          · extract_lets +onlyGivenNames x2
            clear_value x2
            extract_lets +onlyGivenNames x3
            have g3 : Keeps s0 x3 := (modPeer_keeps h3)
            clear_value x3
            exact (runs_next (sendColl_keeps g3))

theorem nakDma_keeps {s0 : State} {a0 : State} {a1 : ℕ} {a2 : ℕ} {a3 : ℕ} {a4 : ℕ} {a5 : Packet} (h0 : Keeps s0 a0) : Keeps s0 (nakDma a0 a1 a2 a3 a4 a5) := by
  unfold nakDma
  split
  · exact h0
  · exact (keeps_ite (refuseDma_keeps h0) (keeps_ite (answered_keeps h0) (resetDma_keeps h0)))

theorem resetColl_keeps {s0 : State} {a0 : State} {a1 : ℕ} {a2 : ℕ} {a3 : ℕ} {a4 : Packet} (h0 : Keeps s0 a0) : Keeps s0 (resetColl a0 a1 a2 a3 a4) := by
  unfold resetColl
  extract_lets +onlyGivenNames x0
  have h0 : Keeps s0 x0 := (modColl_keeps h0)
  clear_value x0
  exact (restartTimeouts_keeps h0)

theorem nakColl_keeps {s0 : State} {a0 : State} {a1 : ℕ} {a2 : ℕ} {a3 : ℕ} {a4 : ℕ} {a5 : Packet} (h0 : Keeps s0 a0) : Keeps s0 (nakColl a0 a1 a2 a3 a4 a5) := by
  unfold nakColl
  split
  · exact h0
  · exact (keeps_ite (resetColl_keeps h0) (keeps_ite (settleColl_keeps h0) (settleColl_keeps (refuseColl_keeps (keepRefusal_keeps h0)))))

theorem execNak_keeps {s0 : State} {a0 : ℕ} {a1 : Packet} {a2 : State} (h2 : Keeps s0 a2) : Runs s0 (execNak a0 a1 a2) := by
  unfold execNak
  extract_lets +onlyGivenNames x0
  have g0 : Keeps s0 x0.1 := (takeAnswer_keeps h2)
  clear_value x0
  split
  · exact (runs_next g0)
  · split
    · exact (runs_next (nakDma_keeps g0))
    · exact (runs_next (nakColl_keeps g0))
    · exact (runs_next (nakHeat_keeps g0))
    · exact (runs_next (nakHeat_keeps g0))

theorem execWrite_keeps {s0 : State} {a0 : ℕ} {a1 : Packet} {a2 : List SectorErr} {a3 : State} (h3 : Keeps s0 a3) : Runs s0 (execWrite a0 a1 a2 a3) := by
  unfold execWrite
  extract_lets +onlyGivenNames x0
  clear_value x0
  exact (runs_next (asTarget_keeps (injectErrs_keeps h3) (fun y1_0 y1_1 => (remoteStore_keeps (Keeps.refl _)))))

theorem execRemoteTimeout_keeps {s0 : State} {a0 : ℕ} {a1 : State} (h1 : Keeps s0 a1) : Runs s0 (execRemoteTimeout a0 a1) := by
  unfold execRemoteTimeout
  split
  · exact (runs_next h1)
  · split
    · exact (runs_next h1)
    · exact (runs_next (raise_keeps (pumpOwner_keeps (Keeps.upd h1))))

theorem execAck_keeps {s0 : State} {a0 : ℕ} {a1 : Packet} {a2 : State} (h2 : Keeps s0 a2) : Runs s0 (execAck a0 a1 a2) := by
  unfold execAck
  extract_lets +onlyGivenNames x0
  have g0 : Keeps s0 x0.1 := (takeAnswer_keeps h2)
  clear_value x0
  split
  · exact (runs_next g0)
  · split
    · exact (runs_next (answered_keeps g0))
    · exact (runs_next (settleColl_keeps g0))
    · exact (runs_next (heatAnswered_keeps g0))
    · exact (runs_next g0)

theorem execRestartRetryLimit_keeps {s0 : State} {a0 : ℕ} {a1 : ℕ} {a2 : State} (h2 : Keeps s0 a2) : Runs s0 (execRestartRetryLimit a0 a1 a2) := by
  unfold execRestartRetryLimit
  split
  · split
    · split
      · extract_lets +onlyGivenNames x0
        clear_value x0
        exact (runs_next (endColl_keeps (dropTxns_keeps h2)))
      · exact (runs_next h2)
    · exact (runs_next h2)
  · split
    · exact (runs_next h2)
    · split
      · exact (runs_next h2)
      · split
        · exact (runs_next h2)
        · extract_lets +onlyGivenNames x1
          have g1 : Keeps s0 x1 := (modFlight_keeps (dropTxns_keeps h2))
          clear_value x1
          exact (runs_next (finish_keeps (pumpCluster_keeps g1)))

end Sys2Proof.Machine
end

