-- ==== Sys2Proof/Laws/KeepLog.lean ====
section
/-! SUPPORT. What the operations of Machine/Log.lean keep. -/

namespace Sys2Proof.Machine

theorem emcy_keeps {s0 : State} {a0 : State} {a1 : Event} {a2 : ℕ} (h0 : Keeps s0 a0) : Keeps s0 (emcy a0 a1 a2) := by
  unfold emcy
  exact (keeps_ite (emit_keeps h0) h0)

theorem sendStarter_keeps {s0 : State} {a0 : State} {a1 : ℕ} {a2 : ℕ} {a3 : ℕ} {a4 : List Byte} (h0 : Keeps s0 a0) : Keeps s0 (sendStarter a0 a1 a2 a3 a4) := by
  unfold sendStarter
  split
  · exact h0
  · exact (keeps_ite h0 (emit_keeps (Keeps.updSessions h0 fun e => tabSet_rises _ e _ _)))

theorem logEvent_keeps {s0 : State} {a0 : State} {a1 : Event} {a2 : ℕ} (h0 : Keeps s0 a0) : Keeps s0 (logEvent a0 a1 a2) := by
  unfold logEvent
  extract_lets +onlyGivenNames held seq w x y
  have hx : Keeps s0 x :=
    h0.trans ⟨rfl, id, Nat.le_refl _, fun _ h => h, fun _ h => h, Nat.le_succ _, List.prefix_refl _⟩
  clear_value w seq x
  exact emcy_keeps (domPut_keeps hx)

theorem logNow_keeps {s0 : State} {a0 : State} {a1 : Event} {a2 : ℕ} (h0 : Keeps s0 a0) : Keeps s0 (logNow a0 a1 a2) := by
  unfold logNow
  exact (logEvent_keeps h0)

theorem sendResult_keeps {s0 : State} {a0 : State} {a1 : ℕ} {a2 : ℕ} {a3 : ℕ} {a4 : ℕ} (h0 : Keeps s0 a0) : Keeps s0 (sendResult a0 a1 a2 a3 a4) := by
  unfold sendResult
  exact (sendStarter_keeps h0)

theorem sendCan_keeps {s0 : State} {a0 : State} {a1 : ℕ} {a2 : String} {a3 : List Byte} (h0 : Keeps s0 a0) : Keeps s0 (sendCan a0 a1 a2 a3) := by
  unfold sendCan
  exact (keeps_ite h0 (emit_keeps h0))

theorem bootUp_keeps {s0 : State} {a0 : State} (h0 : Keeps s0 a0) : Keeps s0 (bootUp a0) := by
  unfold bootUp
  exact (sendCan_keeps h0)

theorem reply_keeps {s0 : State} {a0 : State} {a1 : Path} {a2 : ℕ} {a3 : List Byte} (h0 : Keeps s0 a0) : Keeps s0 (reply a0 a1 a2 a3) := by
  unfold reply
  split
  · exact (sendResult_keeps h0)
  · exact (emit_keeps h0)
  · exact (emit_keeps h0)

theorem touchSession_keeps {s0 : State} {a0 : State} {a1 : ℕ} (h0 : Keeps s0 a0) : Keeps s0 (touchSession a0 a1) := by
  unfold touchSession
  split
  · exact (Keeps.updSessions h0 fun e => tabSet_rises _ e _ _)
  · exact h0

theorem jobEvent_keeps {s0 : State} {a0 : State} {a1 : ℕ} {a2 : ℕ} {a3 : ℕ} {a4 : ℕ} (h0 : Keeps s0 a0) : Keeps s0 (jobEvent a0 a1 a2 a3 a4) := by
  unfold jobEvent
  extract_lets +onlyGivenNames x0
  clear_value x0
  exact (keeps_foldl h0 fun u1 v1 => (sendStarter_keeps (Keeps.refl _)))

end Sys2Proof.Machine
end

