-- ==== Sys2Proof/Laws/KeepMeasure.lean ====
section
/-! SUPPORT. What the operations of Machine/Measure.lean keep. -/

namespace Sys2Proof.Machine

theorem putMeasure_keeps {s0 : State} {a0 : State} {a1 : ℕ} {a2 : List Byte} (h0 : Keeps s0 a0) : Keeps s0 (putMeasure a0 a1 a2) := by
  unfold putMeasure
  extract_lets +onlyGivenNames x0
  clear_value x0
  extract_lets +onlyGivenNames x1
  have h1 : Keeps s0 x1 := (dset_keeps h0)
  clear_value x1
  exact (Keeps.upd h1)

theorem unmeasureHeat_keeps {s0 : State} {a0 : State} {a1 : ℕ} (h0 : Keeps s0 a0) : Keeps s0 (unmeasureHeat a0 a1) := by
  unfold unmeasureHeat
  exact (putMeasure_keeps (modHeat_keeps h0))

theorem drawBytes_keeps {s0 : State} {a0 : State} {a1 : ℕ} (h0 : Keeps s0 a0) : Keeps s0 (drawBytes a0 a1).2 := by
  unfold drawBytes
  exact (freeBytes_keeps h0)

theorem measure_keeps {s0 : State} {a0 : State} {a1 : ℕ} {a2 : List Byte} (h0 : Keeps s0 a0) : Keeps s0 (measure a0 a1 a2) := by
  unfold measure
  exact (putMeasure_keeps h0)

theorem measureHeat_keeps {s0 : State} {a0 : State} {a1 : ℕ} (h0 : Keeps s0 a0) : Keeps s0 (measureHeat a0 a1) := by
  unfold measureHeat
  extract_lets +onlyGivenNames x0
  have h0 : Keeps s0 x0.2 := (drawBytes_keeps h0)
  clear_value x0
  extract_lets +onlyGivenNames x1
  have h1 : Keeps s0 x1 := (modHeat_keeps h0)
  clear_value x1
  exact (measure_keeps h1)

theorem measureTest_keeps {s0 : State} {a0 : State} (h0 : Keeps s0 a0) : Keeps s0 (measureTest a0) := by
  unfold measureTest
  exact (measure_keeps h0)

end Sys2Proof.Machine
end

