-- ==== Sys2Proof/Laws/KeepHeats.lean ====
section
/-! SUPPORT. What the operations of Machine/Heats.lean keep. -/

namespace Sys2Proof.Machine

theorem freshLayers_keeps {s0 : State} {a0 : State} {a1 : ℕ} (h0 : Keeps s0 a0) : Keeps s0 (freshLayers a0 a1) := by
  unfold freshLayers
  exact (zeroStack_keeps h0)

theorem freshStats_keeps {s0 : State} {a0 : State} {a1 : ℕ} (h0 : Keeps s0 a0) : Keeps s0 (freshStats a0 a1) := by
  unfold freshStats
  extract_lets +onlyGivenNames x0
  have h0 : Keeps s0 x0 := (keeps_foldl h0 fun u1 v1 => (dset_keeps (Keeps.refl _)))
  clear_value x0
  extract_lets +onlyGivenNames x2
  have h2 : Keeps s0 x2 := (dset_keeps (dset_keeps (dset_keeps h0)))
  clear_value x2
  exact (dset_keeps (domSet_keeps h2))

theorem freshCollective_keeps {s0 : State} {a0 : State} {a1 : ℕ} (h0 : Keeps s0 a0) : Keeps s0 (freshCollective a0 a1) := by
  unfold freshCollective
  extract_lets +onlyGivenNames x0
  have h0 : Keeps s0 x0 := (Keeps.updPoolHead h0 fun e => tabSet_rises _ e _ _)
  clear_value x0
  exact (dset_keeps (dset_keeps (modHeat_keeps h0)))

theorem dropQueues_keeps {s0 : State} {a0 : State} {a1 : ℕ} (h0 : Keeps s0 a0) : Keeps s0 (dropQueues a0 a1) := by
  unfold dropQueues
  exact (Keeps.updQueues h0 fun e => filter_rises _ e)

theorem freshCluster_keeps {s0 : State} {a0 : State} {a1 : ℕ} {a2 : ℕ} (h0 : Keeps s0 a0) : Keeps s0 (freshCluster a0 a1 a2) := by
  unfold freshCluster
  extract_lets +onlyGivenNames x0
  have h0 : Keeps s0 x0 := (modCluster_keeps h0)
  clear_value x0
  exact (zeroRange_keeps h0)

theorem freshUnits_keeps {s0 : State} {a0 : State} {a1 : ℕ} (h0 : Keeps s0 a0) : Keeps s0 (freshUnits a0 a1) := by
  unfold freshUnits
  extract_lets +onlyGivenNames x0
  have h0 : Keeps s0 x0 := (keeps_foldl h0 fun u1 v1 => (modCore_keeps (Keeps.refl _)))
  clear_value x0
  exact (keeps_foldl h0 fun u2 v2 => (freshCluster_keeps (Keeps.refl _)))

theorem setUpHeat_keeps {s0 : State} {a0 : State} {a1 : ℕ} (h0 : Keeps s0 a0) : Keeps s0 (setUpHeat a0 a1) := by
  unfold setUpHeat
  extract_lets +onlyGivenNames x0
  have g0 : Keeps s0 x0 := (modHeat_keeps h0)
  clear_value x0
  exact (freshLayers_keeps (freshStats_keeps (freshCollective_keeps (dropQueues_keeps (freshUnits_keeps g0)))))

theorem setHState_keeps {s0 : State} {a0 : State} {a1 : ℕ} {a2 : HState} (h0 : Keeps s0 a0) : Keeps s0 (setHState a0 a1 a2) := by
  unfold setHState
  extract_lets +onlyGivenNames x0
  clear_value x0
  exact (raise_keeps (modHeat_keeps h0))

theorem stopHeat_keeps {s0 : State} {a0 : State} {a1 : ℕ} (h0 : Keeps s0 a0) : Keeps s0 (stopHeat a0 a1).1 := by
  unfold stopHeat
  split
  · exact (setHState_keeps h0)
  · exact h0

theorem dropStorage_keeps {s0 : State} {a0 : State} {a1 : ℕ} (h0 : Keeps s0 a0) : Keeps s0 (dropStorage a0 a1) := by
  unfold dropStorage
  exact (domSet_keeps (Keeps.upd h0))

theorem afterStart_keeps {s0 : State} {a0 : State} {a1 : ℕ} (h0 : Keeps s0 a0) : Keeps s0 (afterStart a0 a1) := by
  unfold afterStart
  split
  · exact h0
  · extract_lets +onlyGivenNames x0
    clear_value x0
    extract_lets +onlyGivenNames x1
    have g1 : Keeps s0 x1 := (ringDoorbell_keeps h0)
    clear_value x1
    exact (sendResult_keeps (modHeat_keeps g1))

theorem setInitialQueue_keeps {s0 : State} {a0 : State} {a1 : ℕ} (h0 : Keeps s0 a0) : Keeps s0 (setInitialQueue a0 a1) := by
  unfold setInitialQueue
  exact (setQueue_keeps h0)

theorem createHeat_keeps {s0 : State} {a0 : State} {a1 : ℕ} (h0 : Keeps s0 a0) : Keeps s0 (createHeat a0 a1) := by
  unfold createHeat
  exact (afterStart_keeps (setHState_keeps (setInitialQueue_keeps (setUpHeat_keeps h0))))

theorem startHeat_keeps {s0 : State} {a0 : State} {a1 : ℕ} (h0 : Keeps s0 a0) : Keeps s0 (startHeat a0 a1).1 := by
  unfold startHeat
  split
  · dsimp only
    exact h0
  · dsimp only
    exact (keeps_ite_fst (raise_keeps h0) (keeps_ite (createHeat_keeps (Keeps.upd (measureHeat_keeps (setHState_keeps (modHeat_keeps (Keeps.upd h0)))))) (Keeps.upd (measureHeat_keeps (setHState_keeps (modHeat_keeps (Keeps.upd h0)))))))

theorem resumeHeat_keeps {s0 : State} {a0 : State} {a1 : ℕ} (h0 : Keeps s0 a0) : Keeps s0 (resumeHeat a0 a1).1 := by
  unfold resumeHeat
  split
  · exact (setHState_keeps h0)
  · exact h0

theorem releaseHeat_keeps {s0 : State} {a0 : State} {a1 : ℕ} (h0 : Keeps s0 a0) : Keeps s0 (releaseHeat a0 a1).1 := by
  unfold releaseHeat
  split
  · exact h0
  · dsimp only
    exact (unmeasureHeat_keeps (setHState_keeps (keeps_foldl (dropQueues_keeps h0) fun u0 v0 => (modCluster_keeps (Keeps.refl _)))))

theorem heatControl_keeps {s0 : State} {a0 : State} {a1 : ℕ} {a2 : ℕ} (h0 : Keeps s0 a0) : Keeps s0 (heatControl a0 a1 a2).1 := by
  unfold heatControl
  split
  · exact (startHeat_keeps h0)
  · exact (stopHeat_keeps h0)
  · exact (resumeHeat_keeps h0)
  · exact (releaseHeat_keeps h0)
  · dsimp only
    exact h0

theorem controlBy_keeps {s0 : State} {a0 : Path} {a1 : ℕ} {a2 : ℕ} {a3 : State} (h3 : Keeps s0 a3) : Keeps s0 (controlBy a0 a1 a2 a3) := by
  unfold controlBy
  extract_lets +onlyGivenNames x0
  have g0 : Keeps s0 x0 := by
    unfold x0
    clear x0
    split
    · exact (touchSession_keeps h3)
    · exact h3
  clear_value x0
  split
  · exact (sendResult_keeps g0)
  · split
    · exact g0
    · split
      · exact (reply_keeps g0)
      · extract_lets +onlyGivenNames x1
        have g1 : Keeps s0 x1.1 := (heatControl_keeps g0)
        clear_value x1
        exact (keeps_ite (reply_keeps g0) (reply_keeps g1))

theorem execRelease_keeps {s0 : State} {a0 : Path} {a1 : ℕ} {a2 : State} (h2 : Keeps s0 a2) : Runs s0 (execRelease a0 a1 a2) := by
  unfold execRelease
  exact (runs_next (controlBy_keeps h2))

theorem plansChanged_keeps {s0 : State} {a0 : State} {a1 : List PlanPort} (h0 : Keeps s0 a0) : Keeps s0 (plansChanged a0 a1) := by
  unfold plansChanged
  exact (updatePlans_keeps (keeps_foldl h0 fun u0 v0 => (modPort_keeps (Keeps.refl _))))

theorem plansRecord_keeps {s0 : State} {a0 : State} (h0 : Keeps s0 a0) : Keeps s0 (plansRecord a0) := by
  unfold plansRecord
  exact (domSet_keeps h0)

theorem dropTargets_keeps {s0 : State} {a0 : State} {a1 : List Installed} (h0 : Keeps s0 a0) : Keeps s0 (dropTargets a0 a1) := by
  unfold dropTargets
  exact (keeps_foldl h0 fun u0 v0 => (dropStorage_keeps (Keeps.refl _)))

theorem removePlans_keeps {s0 : State} {a0 : State} {a1 : Installed → Bool} (h0 : Keeps s0 a0) : Keeps s0 (removePlans a0 a1) := by
  unfold removePlans
  extract_lets +onlyGivenNames x0
  clear_value x0
  exact (plansChanged_keeps (plansRecord_keeps (dropTargets_keeps (Keeps.upd h0))))

theorem removeHeatPlan_keeps {s0 : State} {a0 : State} {a1 : ℕ} (h0 : Keeps s0 a0) : Keeps s0 (removeHeatPlan a0 a1) := by
  unfold removeHeatPlan
  exact (dropStorage_keeps (removePlans_keeps h0))

theorem execReleaseComplete_keeps {s0 : State} {a0 : ℕ} {a1 : State} (h1 : Keeps s0 a1) : Runs s0 (execReleaseComplete a0 a1) := by
  unfold execReleaseComplete
  split
  · exact (runs_next h1)
  · extract_lets +onlyGivenNames x0
    have g0 : Keeps s0 x0 := (keeps_foldl h1 fun u1 v1 => (zeroStack_keeps (Keeps.refl _)))
    clear_value x0
    extract_lets +onlyGivenNames x2
    have g2 : Keeps s0 x2 := (freshUnits_keeps g0)
    clear_value x2
    extract_lets +onlyGivenNames x3
    have g3 : Keeps s0 x3 := (modHeat_keeps (setHState_keeps g2))
    clear_value x3
    exact (runs_next (removeHeatPlan_keeps g3))

theorem execDiscoveryMatch_keeps {s0 : State} {a0 : ℕ} {a1 : State} (h1 : Keeps s0 a1) : Runs s0 (execDiscoveryMatch a0 a1) := by
  unfold execDiscoveryMatch
  exact (runs_next (keeps_ite (createHeat_keeps h1) h1))

theorem execStart_keeps {s0 : State} {a0 : Path} {a1 : ℕ} {a2 : State} (h2 : Keeps s0 a2) : Runs s0 (execStart a0 a1 a2) := by
  unfold execStart
  exact (runs_next (controlBy_keeps h2))

theorem execStopComplete_keeps {s0 : State} {a0 : ℕ} {a1 : State} (h1 : Keeps s0 a1) : Runs s0 (execStopComplete a0 a1) := by
  unfold execStopComplete
  exact (runs_next (keeps_ite (setHState_keeps h1) h1))

theorem execResume_keeps {s0 : State} {a0 : Path} {a1 : ℕ} {a2 : State} (h2 : Keeps s0 a2) : Runs s0 (execResume a0 a1 a2) := by
  unfold execResume
  exact (runs_next (controlBy_keeps h2))

theorem execStop_keeps {s0 : State} {a0 : Path} {a1 : ℕ} {a2 : State} (h2 : Keeps s0 a2) : Runs s0 (execStop a0 a1 a2) := by
  unfold execStop
  exact (runs_next (controlBy_keeps h2))

end Sys2Proof.Machine
end

