-- ==== Sys2Proof/Laws/KeepNotices.lean ====
section
/-! SUPPORT. What the operations of Machine/Notices.lean keep. -/

namespace Sys2Proof.Machine

theorem modRestart_keeps {s0 : State} {a0 : State} {a1 : ℕ} {a2 : Restart → Restart} (h0 : Keeps s0 a0) : Keeps s0 (modRestart a0 a1 a2) := by
  unfold modRestart
  exact (modHeat_keeps h0)

theorem addReport_keeps {s0 : State} {a0 : State} {a1 : ℕ} {a2 : Notice} (h0 : Keeps s0 a0) : Keeps s0 (addReport a0 a1 a2) := by
  unfold addReport
  exact (modRestart_keeps h0)

theorem seeNotice_keeps {s0 : State} {a0 : State} {a1 : Notice} (h0 : Keeps s0 a0) : Keeps s0 (seeNotice a0 a1) := by
  unfold seeNotice
  exact (Keeps.upd h0)

theorem spread_keeps {s0 : State} {a0 : State} {a1 : Notice} {a2 : Option ℕ} (h0 : Keeps s0 a0) : Keeps s0 (spread a0 a1 a2) := by
  unfold spread
  exact (keeps_foldl h0 fun u0 v0 => (sendCtrl_keeps (Keeps.refl _)))

theorem abandonQueue_keeps {s0 : State} {a0 : State} {a1 : ℕ} {a2 : ℕ} {a3 : ℕ} (h0 : Keeps s0 a0) : Keeps s0 (abandonQueue a0 a1 a2 a3) := by
  unfold abandonQueue
  extract_lets +onlyGivenNames x0
  clear_value x0
  extract_lets +onlyGivenNames x1
  clear_value x1
  extract_lets +onlyGivenNames x2
  have g2 : Keeps s0 x2 := by
    unfold x2
    clear x2
    refine (keeps_foldl h0 fun u4 v4 => ?_)
    extract_lets +onlyGivenNames x5
    clear_value x5
    extract_lets +onlyGivenNames x6
    clear_value x6
    exact (countRecord_keeps (writeRecord_keeps (Keeps.refl _)))
  clear_value x2
  extract_lets +onlyGivenNames x7
  have g7 : Keeps s0 x7 := (modCore_keeps g2)
  clear_value x7
  extract_lets +onlyGivenNames x8
  clear_value x8
  exact (setQueue_keeps g7)

theorem refuseHeld_keeps {s0 : State} {a0 : State} {a1 : ℕ} (h0 : Keeps s0 a0) : Keeps s0 (refuseHeld a0 a1) := by
  unfold refuseHeld
  extract_lets +onlyGivenNames x0
  unfold x0
  clear x0
  extract_lets +onlyGivenNames x1
  clear_value x1
  exact (keeps_foldl (Keeps.upd h0) fun u2 v2 => (sendNak_keeps (Keeps.refl _)))

theorem sendNotice_keeps {s0 : State} {a0 : State} {a1 : ℕ} {a2 : Notice} (h0 : Keeps s0 a0) : Keeps s0 (sendNotice a0 a1 a2).1 := by
  unfold sendNotice
  dsimp only
  exact (spread_keeps (seeNotice_keeps (Keeps.upd h0)))

theorem abandonHeatWork_keeps {s0 : State} {a0 : State} {a1 : ℕ} {a2 : ℕ} (h0 : Keeps s0 a0) : Keeps s0 (abandonHeatWork a0 a1 a2) := by
  unfold abandonHeatWork
  extract_lets +onlyGivenNames x0
  have g0 : Keeps s0 x0 := (keeps_foldl h0 fun u1 v1 => (abandonQueue_keeps (Keeps.refl _)))
  clear_value x0
  extract_lets +onlyGivenNames x2
  have g2 : Keeps s0 x2 := (keeps_foldl g0 fun u3 v3 => (modCore_keeps (Keeps.refl _)))
  clear_value x2
  extract_lets +onlyGivenNames x4
  have g4 : Keeps s0 x4 := (keeps_foldl g2 fun u5 v5 => (modCluster_keeps (Keeps.refl _)))
  clear_value x4
  extract_lets +onlyGivenNames x6
  have g6 : Keeps s0 x6 := (Keeps.upd g4)
  clear_value x6
  extract_lets +onlyGivenNames x7
  have g7 : Keeps s0 x7 := (refuseHeld_keeps g6)
  clear_value x7
  extract_lets +onlyGivenNames x8
  have g8 : Keeps s0 x8 := (freshCollective_keeps g7)
  clear_value x8
  extract_lets +onlyGivenNames x9
  have g9 : Keeps s0 x9 := (Keeps.upd g8)
  clear_value x9
  extract_lets +onlyGivenNames x10
  have g10 : Keeps s0 x10 := (setSnapLap_keeps g9)
  clear_value x10
  exact (modHeat_keeps g10)

theorem enterRestarting_keeps {s0 : State} {a0 : State} {a1 : ℕ} {a2 : ℕ} {a3 : ℕ} {a4 : ℕ} {a5 : ℕ} {a6 : Bool} (h0 : Keeps s0 a0) : Keeps s0 (enterRestarting a0 a1 a2 a3 a4 a5 a6) := by
  unfold enterRestarting
  extract_lets +onlyGivenNames x0
  clear_value x0
  extract_lets +onlyGivenNames x1
  have g1 : Keeps s0 x1 := (abandonHeatWork_keeps h0)
  clear_value x1
  extract_lets +onlyGivenNames x2
  have g2 : Keeps s0 x2 := (keeps_ite g1 (setHState_keeps (modHeat_keeps g1)))
  clear_value x2
  extract_lets +onlyGivenNames x3
  have g3 : Keeps s0 x3 := (modHeat_keeps g2)
  clear_value x3
  exact (dset_keeps g3)

end Sys2Proof.Machine
end

