-- ==== Sys2Proof/Laws/KeepFaults.lean ====
section
/-! SUPPORT. What the operations of Machine/Faults.lean keep. -/

namespace Sys2Proof.Machine

theorem restoreFromBuddy_keeps {s0 : State} {a0 : State} {a1 : ℕ} (h0 : Keeps s0 a0) : Keeps s0 (restoreFromBuddy a0 a1) := by
  unfold restoreFromBuddy
  split
  · exact (restoreStuck_keeps h0)
  · extract_lets +onlyGivenNames x0
    have h0 : Keeps s0 x0 := (modRestart_keeps h0)
    clear_value x0
    exact (queueHeatPackets_keeps h0)

theorem beginRestore_keeps {s0 : State} {a0 : State} {a1 : ℕ} {a2 : ℕ} (h0 : Keeps s0 a0) : Keeps s0 (beginRestore a0 a1 a2) := by
  unfold beginRestore
  extract_lets +onlyGivenNames x0
  have g0 : Keeps s0 x0 := (modRestart_keeps (dset_keeps h0))
  clear_value x0
  split
  · exact (restoreFromBuddy_keeps g0)
  · extract_lets +onlyGivenNames x1
    have g1 : Keeps s0 x1.1 := (checkRead_keeps g0)
    clear_value x1
    exact (keeps_ite g1 (restoreFromBuddy_keeps g1))

theorem defaultIndex_keeps {s0 : State} {a0 : State} {a1 : ℕ} (h0 : Keeps s0 a0) : Keeps s0 (defaultIndex a0 a1) := by
  refine h0.trans ⟨rfl, fun x => ?_, Nat.le_refl _, fun _ h => h, fun _ h => h, Nat.le_refl _, List.prefix_refl _⟩
  have y := (State.tablesOk_iff _).1 x
  have d := tabDrop_rises (fun k => decide (k / 256 = a1)) y.dict
  have m := tabDrop_rises (fun k => decide (k / 256 = a1)) y.dom
  exact (State.tablesOk_iff _).2 { y with dict := d, dom := m }

theorem takeNotice_keeps {s0 : State} {a0 : State} {a1 : ℕ} {a2 : Notice} {a3 : State → ℕ → Notice → State} (h0 : Keeps s0 a0) (h3 : ∀ v3_0 v3_1 v3_2, Keeps v3_0 (a3 v3_0 v3_1 v3_2)) : Keeps s0 (takeNotice a0 a1 a2 a3) := by
  unfold takeNotice
  extract_lets +onlyGivenNames x0
  have g0 : Keeps s0 x0 := (takeCtrl_keeps h0)
  clear_value x0
  split
  · exact g0
  · extract_lets +onlyGivenNames x1
    have g1 : Keeps s0 x1 := (spread_keeps (seeNotice_keeps g0))
    clear_value x1
    split
    · exact g1
    · exact (keeps_ite (raise_keeps g1) (g1.trans (h3 _ _ _)))

theorem actResume_keeps {s0 : State} {a0 : State} {a1 : ℕ} {a2 : Notice} (h0 : Keeps s0 a0) : Keeps s0 (actResume a0 a1 a2) := by
  unfold actResume
  exact (keeps_ite (modRestart_keeps h0) h0)

theorem execNoticeResume_keeps {s0 : State} {a0 : ℕ} {a1 : Notice} {a2 : State} (h2 : Keeps s0 a2) : Runs s0 (execNoticeResume a0 a1 a2) := by
  unfold execNoticeResume
  exact (runs_next (takeNotice_keeps h2 (fun y0_0 y0_1 y0_2 => (actResume_keeps (Keeps.refl _)))))

theorem mergeCovered_keeps {s0 : State} {a0 : State} {a1 : Event → Bool} (h0 : Keeps s0 a0) : Keeps s0 (mergeCovered a0 a1) := by
  unfold mergeCovered
  exact (keeps_foldl (Keeps.upd h0) fun u0 v0 => (logEvent_keeps (Keeps.refl _)))

theorem actRestore_keeps {s0 : State} {a0 : State} {a1 : ℕ} {a2 : Notice} (h0 : Keeps s0 a0) : Keeps s0 (actRestore a0 a1 a2) := by
  unfold actRestore
  extract_lets +onlyGivenNames x0
  clear_value x0
  exact (keeps_ite h0 (keeps_ite (keeps_ite (beginRestore_keeps h0) h0) (beginRestore_keeps (enterRestarting_keeps h0))))

theorem sendRestore_keeps {s0 : State} {a0 : State} {a1 : ℕ} {a2 : ℕ} (h0 : Keeps s0 a0) : Keeps s0 (sendRestore a0 a1 a2) := by
  unfold sendRestore
  extract_lets +onlyGivenNames x0
  have g0 : Keeps s0 x0 := (modRestart_keeps h0)
  clear_value x0
  extract_lets +onlyGivenNames x1
  have g1 : Keeps s0 x1 := (keeps_foldl g0 fun u2 v2 => (jobEvent_keeps (Keeps.refl _)))
  clear_value x1
  extract_lets +onlyGivenNames x3
  clear_value x3
  extract_lets +onlyGivenNames x4
  have g4 : Keeps s0 x4.1 := (sendNotice_keeps g1)
  clear_value x4
  exact (actRestore_keeps g4)

theorem endFence_keeps {s0 : State} {a0 : State} (h0 : Keeps s0 a0) : Keeps s0 (endFence a0) := by
  unfold endFence
  exact (keeps_ite h0 (dset_keeps h0))

theorem abandonRestart_keeps {s0 : State} {a0 : State} {a1 : ℕ} (h0 : Keeps s0 a0) : Keeps s0 (abandonRestart a0 a1).1 := by
  unfold abandonRestart
  split
  · exact h0
  · extract_lets +onlyGivenNames ab
    clear_value ab
    split
    · exact h0
    · split
      · exact h0
      · extract_lets +onlyGivenNames s
        have hs : Keeps s0 s := dropTxns_keeps h0
        clear_value s
        dsimp only
        exact endFence_keeps (setHState_keeps (setUpHeat_keeps hs))

theorem noSnapshotState_keeps {s0 : State} {a0 : State} {a1 : ℕ} (h0 : Keeps s0 a0) : Keeps s0 (noSnapshotState a0 a1) := by
  unfold noSnapshotState
  exact (modRestart_keeps (dset_keeps h0))

theorem sendNoSnapshot_keeps {s0 : State} {a0 : State} {a1 : ℕ} (h0 : Keeps s0 a0) : Keeps s0 (sendNoSnapshot a0 a1) := by
  unfold sendNoSnapshot
  extract_lets +onlyGivenNames x0
  have h0 : Keeps s0 x0 := (jobEvent_keeps h0)
  clear_value x0
  exact (noSnapshotState_keeps (sendNotice_keeps h0))

theorem decideRestore_keeps {s0 : State} {a0 : State} {a1 : ℕ} {a2 : Bool} (h0 : Keeps s0 a0) : Keeps s0 (decideRestore a0 a1 a2) := by
  unfold decideRestore
  extract_lets +onlyGivenNames x0
  clear_value x0
  split
  · exact h0
  · extract_lets +onlyGivenNames x1
    clear_value x1
    split
    · exact (sendRestore_keeps h0)
    · exact (keeps_ite (sendNoSnapshot_keeps h0) h0)

theorem actInventory_keeps {s0 : State} {a0 : State} {a1 : ℕ} {a2 : Notice} (h0 : Keeps s0 a0) : Keeps s0 (actInventory a0 a1 a2) := by
  unfold actInventory
  extract_lets +onlyGivenNames x0
  have g0 : Keeps s0 x0 := (addReport_keeps h0)
  clear_value x0
  exact (keeps_ite (decideRestore_keeps g0) g0)

theorem sendFault_keeps {s0 : State} {a0 : State} {a1 : ℕ} {a2 : ℕ} {a3 : ℕ} {a4 : ℕ} {a5 : Bool} (h0 : Keeps s0 a0) : Keeps s0 (sendFault a0 a1 a2 a3 a4 a5) := by
  unfold sendFault
  exact (sendNotice_keeps h0)

theorem loseHeat_keeps {s0 : State} {a0 : State} {a1 : ℕ} (h0 : Keeps s0 a0) : Keeps s0 (loseHeat a0 a1) := by
  unfold loseHeat
  extract_lets +onlyGivenNames x0
  have g0 : Keeps s0 x0 := (abandonHeatWork_keeps h0)
  clear_value x0
  extract_lets +onlyGivenNames x1
  have g1 : Keeps s0 x1 := (unmeasureHeat_keeps (dropQueues_keeps (setHState_keeps g0)))
  clear_value x1
  extract_lets +onlyGivenNames x2
  have g2 : Keeps s0 x2 := (removeHeatPlan_keeps (modHeat_keeps g1))
  clear_value x2
  exact (keeps_foldl g2 fun u3 v3 => (defaultIndex_keeps (Keeps.refl _)))

theorem loseHeats_keeps {s0 : State} {a0 : State} (h0 : Keeps s0 a0) : Keeps s0 (loseHeats a0) := by
  unfold loseHeats
  exact (endFence_keeps (keeps_foldl h0 fun u0 v0 => (loseHeat_keeps (Keeps.refl _))))

theorem setStage_keeps {s0 : State} {a0 : State} {a1 : ℕ} (h0 : Keeps s0 a0) : Keeps s0 (setStage a0 a1) := by
  unfold setStage
  exact (dset_keeps (Keeps.upd h0))

theorem powerDown_keeps {s0 : State} {a0 : State} {a1 : ℕ} (h0 : Keeps s0 a0) : Keeps s0 (powerDown a0 a1) := by
  unfold powerDown
  extract_lets +onlyGivenNames x0
  have g0 : Keeps s0 x0 := (loseHeats_keeps h0)
  clear_value x0
  extract_lets +onlyGivenNames x1
  clear_value x1
  extract_lets +onlyGivenNames x2
  have g2 : Keeps s0 x2 := (setStage_keeps (Keeps.upd g0))
  clear_value x2
  exact (keeps_foldl g2 fun u3 v3 => (requestWake_keeps (Keeps.refl _)))

theorem handleC4_keeps {s0 : State} {a0 : State} {a1 : Event} (h0 : Keeps s0 a0) : Keeps s0 (handleC4 a0 a1) := by
  unfold handleC4
  extract_lets +onlyGivenNames x0
  have g0 : Keeps s0 x0 := (mergeCovered_keeps (logEvent_keeps h0))
  clear_value x0
  extract_lets +onlyGivenNames x1
  have g1 : Keeps s0 x1 := (keeps_foldl g0 fun u2 v2 => (sendFault_keeps (Keeps.refl _)))
  clear_value x1
  extract_lets +onlyGivenNames x3
  have g3 : Keeps s0 x3 := (dset_keeps g1)
  clear_value x3
  exact (keeps_ite g3 (keeps_ite (powerDown_keeps g3) (setStage_keeps (loseHeats_keeps g3))))

theorem writeRestartRecord_keeps {s0 : State} {a0 : State} {a1 : ℕ} {a2 : ℕ} (h0 : Keeps s0 a0) : Keeps s0 (writeRestartRecord a0 a1 a2) := by
  unfold writeRestartRecord
  extract_lets +onlyGivenNames x0
  clear_value x0
  exact (keeps_ite (storeStack_keeps h0) (raise_keeps h0))

theorem sendInventory_keeps {s0 : State} {a0 : State} {a1 : ℕ} (h0 : Keeps s0 a0) : Keeps s0 (sendInventory a0 a1) := by
  unfold sendInventory
  extract_lets +onlyGivenNames x0
  clear_value x0
  extract_lets +onlyGivenNames x1
  clear_value x1
  extract_lets +onlyGivenNames x2
  have g2 : Keeps s0 x2.1 := (sendNotice_keeps h0)
  clear_value x2
  exact (actInventory_keeps g2)

theorem announceRestart_keeps {s0 : State} {a0 : State} {a1 : ℕ} (h0 : Keeps s0 a0) : Keeps s0 (announceRestart a0 a1) := by
  unfold announceRestart
  extract_lets +onlyGivenNames x0
  have g0 : Keeps s0 x0 := (keeps_ite (jobEvent_keeps h0) h0)
  clear_value x0
  exact (sendInventory_keeps g0)

theorem restartOwn_keeps {s0 : State} {a0 : State} {a1 : ℕ} {a2 : ℕ} {a3 : ℕ} {a4 : ℕ} {a5 : Bool} (h0 : Keeps s0 a0) : Keeps s0 (restartOwn a0 a1 a2 a3 a4 a5) := by
  unfold restartOwn
  extract_lets +onlyGivenNames x0
  clear_value x0
  extract_lets +onlyGivenNames x1
  have g1 : Keeps s0 x1 := (sendFault_keeps h0)
  clear_value x1
  exact (announceRestart_keeps (enterRestarting_keeps g1))

theorem fenceDevice_keeps {s0 : State} {a0 : State} {a1 : Event} (h0 : Keeps s0 a0) : Keeps s0 (fenceDevice a0 a1) := by
  unfold fenceDevice
  extract_lets +onlyGivenNames x0
  clear_value x0
  extract_lets +onlyGivenNames x1
  have g1 : Keeps s0 x1 := (keeps_ite h0 (dset_keeps h0))
  clear_value x1
  extract_lets +onlyGivenNames x2
  have g2 : Keeps s0 x2 := by
    unfold x2
    clear x2
    refine (keeps_foldl g1 fun u4 v4 => ?_)
    extract_lets +onlyGivenNames x5
    have g5 : Keeps u4 x5 := (modHeat_keeps (Keeps.refl _))
    clear_value x5
    exact (restartOwn_keeps g5)
  clear_value x2
  exact (keeps_ite (keeps_foldl g2 fun u6 v6 => (retrain_keeps (Keeps.refl _))) g2)

theorem execRestore_keeps {s0 : State} {a0 : ℕ} {a1 : Notice} {a2 : State} (h2 : Keeps s0 a2) : Runs s0 (execRestore a0 a1 a2) := by
  unfold execRestore
  exact (runs_next (takeNotice_keeps h2 (fun y0_0 y0_1 y0_2 => (actRestore_keeps (Keeps.refl _)))))

theorem actRestored_keeps {s0 : State} {a0 : State} {a1 : ℕ} {a2 : Notice} (h0 : Keeps s0 a0) : Keeps s0 (actRestored a0 a1 a2) := by
  unfold actRestored
  extract_lets +onlyGivenNames x0
  clear_value x0
  split
  · exact h0
  · extract_lets +onlyGivenNames x1
    have h1 : Keeps s0 x1 := (modRestart_keeps h0)
    clear_value x1
    extract_lets +onlyGivenNames x2
    clear_value x2
    split
    · extract_lets +onlyGivenNames x3
      have h3 : Keeps s0 x3 := (jobEvent_keeps h1)
      clear_value x3
      extract_lets +onlyGivenNames x4
      clear_value x4
      extract_lets +onlyGivenNames x5
      have h5 : Keeps s0 x5.1 := (sendNotice_keeps h3)
      clear_value x5
      exact (actResume_keeps h5)
    · exact h1

theorem execRestored_keeps {s0 : State} {a0 : ℕ} {a1 : Notice} {a2 : State} (h2 : Keeps s0 a2) : Runs s0 (execRestored a0 a1 a2) := by
  unfold execRestored
  exact (runs_next (takeNotice_keeps h2 (fun y0_0 y0_1 y0_2 => (actRestored_keeps (Keeps.refl _)))))

theorem voidBuddy_keeps {s0 : State} {a0 : State} {a1 : ℕ} {a2 : Notice} (h0 : Keeps s0 a0) : Keeps s0 (voidBuddy a0 a1 a2) := by
  unfold voidBuddy
  exact (keeps_ite (setSnapLap_keeps (setSnapLap_keeps h0)) h0)

theorem actFault_keeps {s0 : State} {a0 : State} {a1 : ℕ} {a2 : Notice} (h0 : Keeps s0 a0) : Keeps s0 (actFault a0 a1 a2) := by
  unfold actFault
  extract_lets +onlyGivenNames x0
  have g0 : Keeps s0 x0 := (voidBuddy_keeps h0)
  clear_value x0
  extract_lets +onlyGivenNames x1
  clear_value x1
  split
  · exact g0
  · extract_lets +onlyGivenNames x2
    have g2 : Keeps s0 x2 := (logNow_keeps g0)
    clear_value x2
    exact (announceRestart_keeps (enterRestarting_keeps g2))

theorem execFault_keeps {s0 : State} {a0 : ℕ} {a1 : Notice} {a2 : State} (h2 : Keeps s0 a2) : Runs s0 (execFault a0 a1 a2) := by
  unfold execFault
  exact (runs_next (takeNotice_keeps h2 (fun y0_0 y0_1 y0_2 => (actFault_keeps (Keeps.refl _)))))

theorem handleC2_keeps {s0 : State} {a0 : State} {a1 : Event} (h0 : Keeps s0 a0) : Keeps s0 (handleC2 a0 a1) := by
  unfold handleC2
  split
  · exact (logEvent_keeps h0)
  · extract_lets +onlyGivenNames x0
    clear_value x0
    exact (keeps_ite (logEvent_keeps (modHeat_keeps h0)) (keeps_ite (restartOwn_keeps (logEvent_keeps h0)) (logEvent_keeps h0)))

theorem execResumeLap_keeps {s0 : State} {a0 : ℕ} {a1 : State} (h1 : Keeps s0 a1) : Runs s0 (execResumeLap a0 a1) := by
  unfold execResumeLap
  extract_lets +onlyGivenNames x0
  clear_value x0
  split
  · exact (runs_next h1)
  · split
    · exact (runs_next h1)
    · extract_lets +onlyGivenNames x1
      have g1 : Keeps s0 x1 := (writeRestartRecord_keeps h1)
      clear_value x1
      extract_lets +onlyGivenNames x2
      have g2 : Keeps s0 x2 := (ringDoorbell_keeps g1)
      clear_value x2
      extract_lets +onlyGivenNames x3
      have g3 : Keeps s0 x3 := (dset_keeps (dadd_keeps g2))
      clear_value x3
      extract_lets +onlyGivenNames x4
      have g4 : Keeps s0 x4 := (modRestart_keeps g3)
      clear_value x4
      exact (runs_next (keeps_ite (jobEvent_keeps g4) g4))

theorem restoredQueues_keeps {s0 : State} {a0 : State} {a1 : ℕ} (h0 : Keeps s0 a0) : Keeps s0 (restoredQueues a0 a1) := by
  unfold restoredQueues
  exact (setInitialQueue_keeps (dropQueues_keeps h0))

theorem execOnBehalfTimeout_keeps {s0 : State} {a0 : ℕ} {a1 : State} (h1 : Keeps s0 a1) : Runs s0 (execOnBehalfTimeout a0 a1) := by
  unfold execOnBehalfTimeout
  extract_lets +onlyGivenNames x0
  clear_value x0
  extract_lets +onlyGivenNames x1
  clear_value x1
  extract_lets +onlyGivenNames x2
  clear_value x2
  split
  · exact (runs_next h1)
  · extract_lets +onlyGivenNames x3
    clear_value x3
    extract_lets +onlyGivenNames x4
    have g4 : Keeps s0 x4 := (modRestart_keeps h1)
    clear_value x4
    extract_lets +onlyGivenNames x5
    clear_value x5
    extract_lets +onlyGivenNames x6
    have g6 : Keeps s0 x6.1 := (sendNotice_keeps g4)
    clear_value x6
    exact (runs_next (actInventory_keeps g6))

theorem execNoSnapshot_keeps {s0 : State} {a0 : ℕ} {a1 : Notice} {a2 : State} (h2 : Keeps s0 a2) : Runs s0 (execNoSnapshot a0 a1 a2) := by
  unfold execNoSnapshot
  exact (runs_next (takeNotice_keeps h2 (fun y0_0 y0_1 y0_2 => (keeps_ite (noSnapshotState_keeps (Keeps.refl _)) (Keeps.refl _)))))

theorem recordC3_keeps {s0 : State} {a0 : State} {a1 : Event} (h0 : Keeps s0 a0) : Keeps s0 (recordC3 a0 a1) := by
  unfold recordC3
  exact (histAdd_keeps (dset_keeps (Keeps.upd h0)))

theorem handleC3_keeps {s0 : State} {a0 : State} {a1 : Event} (h0 : Keeps s0 a0) : Keeps s0 (handleC3 a0 a1) := by
  unfold handleC3
  extract_lets +onlyGivenNames x0
  clear_value x0
  extract_lets +onlyGivenNames x1
  have g1 : Keeps s0 x1 := (mergeCovered_keeps (recordC3_keeps (logEvent_keeps h0)))
  clear_value x1
  extract_lets +onlyGivenNames x2
  clear_value x2
  split
  · exact (raise_keeps g1)
  · split
    · exact (fenceDevice_keeps g1)
    · split
      · extract_lets +onlyGivenNames x3
        have g3 : Keeps s0 x3 := (Keeps.upd g1)
        clear_value x3
        exact (keeps_ite (raise_keeps g3) (powerDown_keeps (dset_keeps g3)))
      · exact g1

theorem execRestoreRepeat_keeps {s0 : State} {a0 : ℕ} {a1 : State} (h1 : Keeps s0 a1) : Runs s0 (execRestoreRepeat a0 a1) := by
  unfold execRestoreRepeat
  extract_lets +onlyGivenNames x0
  clear_value x0
  split
  · split
    · extract_lets +onlyGivenNames x1
      have h1 : Keeps s0 x1 := (modRestart_keeps h1)
      clear_value x1
      exact (runs_next (sendNotice_keeps h1))
    · exact (runs_next h1)
  · exact (runs_next h1)

theorem countRestore_keeps {s0 : State} {a0 : State} {a1 : Bool} (h0 : Keeps s0 a0) : Keeps s0 (countRestore a0 a1) := by
  unfold countRestore
  exact (domPut_keeps h0)

theorem finishRestore_keeps {s0 : State} {a0 : State} {a1 : ℕ} (h0 : Keeps s0 a0) : Keeps s0 (finishRestore a0 a1) := by
  unfold finishRestore
  extract_lets +onlyGivenNames x0
  clear_value x0
  extract_lets +onlyGivenNames x1
  have g1 : Keeps s0 x1 := (applySnapshot_keeps h0)
  clear_value x1
  extract_lets +onlyGivenNames x2
  have g2 : Keeps s0 x2 := (restoredQueues_keeps (freshCollective_keeps (freshUnits_keeps g1)))
  clear_value x2
  extract_lets +onlyGivenNames x3
  have g3 : Keeps s0 x3 := (countRestore_keeps g2)
  clear_value x3
  extract_lets +onlyGivenNames x4
  have g4 : Keeps s0 x4 := (modHeat_keeps g3)
  clear_value x4
  extract_lets +onlyGivenNames x5
  have g5 : Keeps s0 x5 := (setHState_keeps g4)
  clear_value x5
  extract_lets +onlyGivenNames x6
  have g6 : Keeps s0 x6 := (endFence_keeps (dset_keeps g5))
  clear_value x6
  extract_lets +onlyGivenNames x7
  clear_value x7
  extract_lets +onlyGivenNames x8
  have g8 : Keeps s0 x8.1 := (sendNotice_keeps g6)
  clear_value x8
  exact (actRestored_keeps g8)

theorem execRestoreComplete_keeps {s0 : State} {a0 : ℕ} {a1 : State} (h1 : Keeps s0 a1) : Runs s0 (execRestoreComplete a0 a1) := by
  unfold execRestoreComplete
  split
  · exact (runs_next h1)
  · split
    · exact (runs_next (dset_keeps h1))
    · split
      · exact (runs_next h1)
      · exact (runs_next (finishRestore_keeps h1))

theorem execInventoryWaitExpiry_keeps {s0 : State} {a0 : ℕ} {a1 : State} (h1 : Keeps s0 a1) : Runs s0 (execInventoryWaitExpiry a0 a1) := by
  unfold execInventoryWaitExpiry
  extract_lets +onlyGivenNames x0
  clear_value x0
  split
  · exact (runs_next (decideRestore_keeps h1))
  · exact (runs_next h1)

theorem execInventory_keeps {s0 : State} {a0 : ℕ} {a1 : Notice} {a2 : State} (h2 : Keeps s0 a2) : Runs s0 (execInventory a0 a1 a2) := by
  unfold execInventory
  exact (runs_next (takeNotice_keeps h2 (fun y0_0 y0_1 y0_2 => (actInventory_keeps (Keeps.refl _)))))

theorem handleEvent_keeps {s0 : State} {a0 : State} {a1 : Event} (h0 : Keeps s0 a0) : Keeps s0 (handleEvent a0 a1) := by
  unfold handleEvent
  split
  · exact (handleC2_keeps h0)
  · exact (handleC3_keeps h0)
  · exact (handleC4_keeps h0)
  · exact (logEvent_keeps h0)

theorem reportOverflow_keeps {s0 : State} {a0 : State} (h0 : Keeps s0 a0) : Keeps s0 (reportOverflow a0) := by
  unfold reportOverflow
  split
  · exact h0
  · extract_lets +onlyGivenNames x0
    clear_value x0
    extract_lets +onlyGivenNames x1
    have h1 : Keeps s0 x1 := (dadd_keeps (Keeps.upd h0))
    clear_value x1
    extract_lets +onlyGivenNames x2
    have h2 : Keeps s0 x2 := (logNow_keeps h1)
    clear_value x2
    exact (raise_keeps h2)

theorem execEventHandling_keeps {s0 : State} {a0 : State} (h0 : Keeps s0 a0) : Runs s0 (execEventHandling a0) := by
  unfold execEventHandling
  split
  · exact (runs_next h0)
  · extract_lets +onlyGivenNames x0
    have g0 : Keeps s0 x0 := (Keeps.upd h0)
    clear_value x0
    exact (runs_next (handleEvent_keeps (reportOverflow_keeps g0)))

theorem execLeadTimeout_keeps {s0 : State} {a0 : ℕ} {a1 : State} (h1 : Keeps s0 a1) : Runs s0 (execLeadTimeout a0 a1) := by
  unfold execLeadTimeout
  extract_lets +onlyGivenNames x0
  clear_value x0
  extract_lets +onlyGivenNames x1
  clear_value x1
  split
  · exact (runs_next (decideRestore_keeps (modRestart_keeps h1)))
  · exact (runs_next h1)

end Sys2Proof.Machine
end

