-- ==== Sys2Proof/Laws/KeepFrames.lean ====
section
/-! SUPPORT. What the operations of Machine/Frames.lean keep. -/

namespace Sys2Proof.Machine

theorem sendFrame_keeps {s0 : State} {a0 : State} {a1 : ℕ} {a2 : List Byte} {a3 : ℕ} {a4 : List Byte} (h0 : Keeps s0 a0) : Keeps s0 (sendFrame a0 a1 a2 a3 a4) := by
  unfold sendFrame
  exact (emit_keeps h0)

theorem sendDhcp_keeps {s0 : State} {a0 : State} {a1 : ℕ} {a2 : ℕ} {a3 : ℕ} {a4 : List Byte} (h0 : Keeps s0 a0) : Keeps s0 (sendDhcp a0 a1 a2 a3 a4) := by
  unfold sendDhcp
  exact (sendFrame_keeps h0)

theorem releasePaused_keeps {s0 : State} {a0 : State} (h0 : Keeps s0 a0) : Keeps s0 (releasePaused a0) := by
  unfold releasePaused
  extract_lets +onlyGivenNames x0
  unfold x0
  clear x0
  exact (Keeps.updOut h0 (List.prefix_append _ _))

theorem takeArp_keeps {s0 : State} {a0 : State} {a1 : ℕ} {a2 : List Byte} (h0 : Keeps s0 a0) : Keeps s0 (takeArp a0 a1 a2) := by
  unfold takeArp
  exact (keeps_ite (sendFrame_keeps h0) h0)

theorem takeIpv6_keeps {s0 : State} {a0 : State} {a1 : ℕ} {a2 : List Byte} {a3 : List Byte} (h0 : Keeps s0 a0) : Keeps s0 (takeIpv6 a0 a1 a2 a3) := by
  unfold takeIpv6
  extract_lets +onlyGivenNames x0
  clear_value x0
  extract_lets +onlyGivenNames x1
  clear_value x1
  extract_lets +onlyGivenNames x2
  clear_value x2
  extract_lets +onlyGivenNames x3
  clear_value x3
  split
  · exact h0
  · split
    · exact (sendFrame_keeps h0)
    · split
      · exact (sendFrame_keeps h0)
      · split
        · split
          · exact (Keeps.upd h0)
          · exact h0
        · exact h0

theorem askAddresses_keeps {s0 : State} {a0 : State} {a1 : ℕ} (h0 : Keeps s0 a0) : Keeps s0 (askAddresses a0 a1) := by
  unfold askAddresses
  extract_lets +onlyGivenNames x0
  have g0 : Keeps s0 x0 := (Keeps.upd h0)
  clear_value x0
  extract_lets +onlyGivenNames x1
  have g1 : Keeps s0 x1.2 := (takeFree_keeps g0)
  clear_value x1
  extract_lets +onlyGivenNames x2
  have g2 : Keeps s0 x2 := g1
  clear_value x2
  extract_lets +onlyGivenNames x3
  have g3 : Keeps s0 x3 := (keeps_ite g0 (sendDhcp_keeps (Keeps.upd g2)))
  clear_value x3
  split
  · exact g3
  · extract_lets +onlyGivenNames x4
    clear_value x4
    extract_lets +onlyGivenNames x5
    clear_value x5
    exact (sendFrame_keeps g3)

theorem takeDhcp_keeps {s0 : State} {a0 : State} {a1 : ℕ} {a2 : List Byte} (h0 : Keeps s0 a0) : Keeps s0 (takeDhcp a0 a1 a2) := by
  unfold takeDhcp
  extract_lets +onlyGivenNames x0
  clear_value x0
  extract_lets +onlyGivenNames x1
  clear_value x1
  extract_lets +onlyGivenNames x2
  unfold x2
  clear x2
  exact (keeps_ite h0 (keeps_ite (sendDhcp_keeps h0) (keeps_ite (Keeps.upd h0) h0)))

theorem takeIpv4_keeps {s0 : State} {a0 : State} {a1 : ℕ} {a2 : List Byte} {a3 : List Byte} (h0 : Keeps s0 a0) : Keeps s0 (takeIpv4 a0 a1 a2 a3) := by
  unfold takeIpv4
  extract_lets +onlyGivenNames x0
  clear_value x0
  extract_lets +onlyGivenNames x1
  clear_value x1
  extract_lets +onlyGivenNames x2
  clear_value x2
  exact (keeps_ite (Keeps.upd h0) (keeps_ite (sendFrame_keeps h0) (keeps_ite (takeDhcp_keeps h0) h0)))

end Sys2Proof.Machine
end

