-- ==== Sys2Proof/Laws/KeepSessions.lean ====
section
/-! SUPPORT. What the operations of Machine/Sessions.lean keep. -/

namespace Sys2Proof.Machine

theorem noteRing_keeps {s0 : State} {a0 : State} {a1 : ℕ} {a2 : ℕ} {a3 : Bool} (h0 : Keeps s0 a0) : Keeps s0 (noteRing a0 a1 a2 a3) := by
  unfold noteRing
  extract_lets +onlyGivenNames x0
  clear_value x0
  extract_lets +onlyGivenNames x1
  have h1 : Keeps s0 x1 := (modHeat_keeps h0)
  clear_value x1
  exact (keeps_ite (raise_keeps (dadd_keeps h1)) h1)

theorem ringHeader_keeps {s0 : State} {a0 : State} {a1 : ℕ} {a2 : ℕ} {a3 : ℕ} (h0 : Keeps s0 a0) : Keeps s0 (ringHeader a0 a1 a2 a3).1 := by
  unfold ringHeader
  split
  · dsimp only
    exact h0
  · dsimp only
    exact (checkRead_keeps h0)

theorem inboxFree_keeps {s0 : State} {a0 : State} {a1 : ℕ} (h0 : Keeps s0 a0) : Keeps s0 (inboxFree a0 a1).1 := by
  unfold inboxFree
  dsimp only
  split
  · dsimp only
    exact h0
  · split
    · dsimp only
      exact (ringHeader_keeps h0)
    · dsimp only
      exact (noteRing_keeps (ringHeader_keeps h0))

theorem ringNotify_keeps {s0 : State} {a0 : State} {a1 : ℕ} {a2 : ℕ} (h0 : Keeps s0 a0) : Keeps s0 (ringNotify a0 a1 a2) := by
  unfold ringNotify
  extract_lets +onlyGivenNames x0
  clear_value x0
  split
  · exact h0
  · extract_lets +onlyGivenNames x1
    have g1 : Keeps s0 x1.1 := (ringDoorbell_keeps h0)
    clear_value x1
    exact (keeps_ite g1 (dadd_keeps g1))

theorem inboxPut_keeps {s0 : State} {a0 : State} {a1 : ℕ} {a2 : ℕ} {a3 : ℕ} (h0 : Keeps s0 a0) : Keeps s0 (inboxPut a0 a1 a2 a3) := by
  unfold inboxPut
  extract_lets +onlyGivenNames x0
  clear_value x0
  extract_lets +onlyGivenNames x1
  have g1 : Keeps s0 x1 := (storeStack_keeps h0)
  clear_value x1
  extract_lets +onlyGivenNames x2
  have g2 : Keeps s0 x2 := (storeStack_keeps g1)
  clear_value x2
  exact (ringNotify_keeps g2)

theorem cancelServe_keeps {s0 : State} {a0 : State} {a1 : Serve} (h0 : Keeps s0 a0) : Keeps s0 (cancelServe a0 a1) := by
  unfold cancelServe
  extract_lets +onlyGivenNames x0
  unfold x0
  clear x0
  split
  · exact (Keeps.upd h0)
  · extract_lets +onlyGivenNames x1
    have g1 : Keeps s0 x1.1 := (inboxFree_keeps h0)
    clear_value x1
    split
    · exact (inboxPut_keeps (Keeps.upd g1))
    · exact (Keeps.upd g1)

theorem payCancels_keeps {s0 : State} {a0 : State} {a1 : ℕ} (h0 : Keeps s0 a0) : Keeps s0 (payCancels a0 a1) := by
  unfold payCancels
  exact (keeps_foldl h0 fun u0 v0 => (cancelServe_keeps (Keeps.refl _)))

theorem setEthernet_keeps {s0 : State} {a0 : State} {a1 : ℕ} {a2 : Bool} (h0 : Keeps s0 a0) : Keeps s0 (setEthernet a0 a1 a2) := by
  unfold setEthernet
  extract_lets +onlyGivenNames x0
  extract_lets +onlyGivenNames x1
  have g1 : Keeps s0 x1 := (dset_keeps h0)
  clear_value x1
  exact (keeps_ite (keeps_ite g1 (askAddresses_keeps g1)) (Keeps.upd g1))

theorem withdrawPlan_keeps {s0 : State} {a0 : State} {a1 : ℕ} (h0 : Keeps s0 a0) : Keeps s0 (withdrawPlan a0 a1) := by
  unfold withdrawPlan
  extract_lets +onlyGivenNames x0
  have g0 : Keeps s0 x0 := (removeHeatPlan_keeps (modHeat_keeps h0))
  clear_value x0
  exact (keeps_foldl g0 fun u1 v1 => (defaultIndex_keeps (Keeps.refl _)))

theorem closeSession_keeps {s0 : State} {a0 : State} {a1 : ℕ} (h0 : Keeps s0 a0) : Keeps s0 (closeSession a0 a1) := by
  unfold closeSession
  split
  · exact h0
  · extract_lets +onlyGivenNames x0
    have g0 : Keeps s0 x0 := (Keeps.updSessions h0 fun e => filter_rises _ e)
    clear_value x0
    extract_lets +onlyGivenNames x1
    have g1 : Keeps s0 x1 := (emit_keeps g0)
    clear_value x1
    extract_lets +onlyGivenNames x2
    have g2 : Keeps s0 x2 := (keeps_foldl g1 fun u3 v3 => (withdrawPlan_keeps (Keeps.refl _)))
    clear_value x2
    exact (keeps_foldl g2 fun u4 v4 => (cancelServe_keeps (Keeps.refl _)))

end Sys2Proof.Machine
end

