-- ==== Sys2Proof/Laws/KeepSnapshots.lean ====
section
/-! SUPPORT. What the operations of Machine/Snapshots.lean keep. -/

namespace Sys2Proof.Machine

theorem execSnapshotBuddySend_keeps {s0 : State} {a0 : ℕ} {a1 : State} (h1 : Keeps s0 a1) : Runs s0 (execSnapshotBuddySend a0 a1) := by
  unfold execSnapshotBuddySend
  split
  · exact (runs_next h1)
  · split
    · exact (runs_next h1)
    · extract_lets +onlyGivenNames x0
      clear_value x0
      extract_lets +onlyGivenNames x1
      have g1 : Keeps s0 x1.1 := (checkRead_keeps h1)
      clear_value x1
      split
      · exact (runs_next g1)
      · extract_lets +onlyGivenNames x2
        have g2 : Keeps s0 x2 := (setSnapLap_keeps g1)
        clear_value x2
        extract_lets +onlyGivenNames x3
        have g3 : Keeps s0 x3 := (modHeat_keeps g2)
        clear_value x3
        extract_lets +onlyGivenNames x4
        clear_value x4
        exact (runs_next (queueHeatPackets_keeps g3))

theorem captureBlock_keeps {s0 : State} {a0 : State} {a1 : ℕ} (h0 : Keeps s0 a0) : Keeps s0 (captureBlock a0 a1) := by
  unfold captureBlock
  split
  · split
    · extract_lets +onlyGivenNames x0
      clear_value x0
      exact (modHeat_keeps h0)
    · exact h0
  · exact h0

theorem execSnapshotBuddyWritten_keeps {s0 : State} {a0 : ℕ} {a1 : State} (h1 : Keeps s0 a1) : Runs s0 (execSnapshotBuddyWritten a0 a1) := by
  unfold execSnapshotBuddyWritten
  split
  · exact (runs_next h1)
  · split
    · exact (runs_next h1)
    · extract_lets +onlyGivenNames x0
      have h0 : Keeps s0 x0 := (setSnapLap_keeps h1)
      clear_value x0
      extract_lets +onlyGivenNames x1
      have h1 : Keeps s0 x1 := (modHeat_keeps h0)
      clear_value x1
      exact (runs_next (queueHeatPackets_keeps h1))

theorem copyOwn_keeps {s0 : State} {a0 : State} {a1 : ℕ} {a2 : Tab Byte} (h0 : Keeps s0 a0) : Keeps s0 (copyOwn a0 a1 a2).1 := by
  unfold copyOwn
  dsimp only
  exact (keeps_foldl_fst (replaceRange_keeps h0) fun u0 v0 => (keeps_ite_fst (Keeps.refl _) (keeps_ite_fst (replaceRange_keeps (checkRead_keeps (Keeps.refl _))) (checkRead_keeps (Keeps.refl _)))))

theorem snapEvent_keeps {s0 : State} {a0 : State} {a1 : ℕ} {a2 : ℕ} (h0 : Keeps s0 a0) : Keeps s0 (snapEvent a0 a1 a2) := by
  unfold snapEvent
  exact (raise_keeps h0)

theorem writeOwnHeader_keeps {s0 : State} {a0 : State} {a1 : ℕ} {a2 : ℕ} {a3 : Bool} (h0 : Keeps s0 a0) : Keeps s0 (writeOwnHeader a0 a1 a2 a3) := by
  unfold writeOwnHeader
  exact (replaceRange_keeps h0)

theorem execSnapshotOwnWritten_keeps {s0 : State} {a0 : ℕ} {a1 : State} (h1 : Keeps s0 a1) : Runs s0 (execSnapshotOwnWritten a0 a1) := by
  unfold execSnapshotOwnWritten
  extract_lets +onlyGivenNames x0
  have g0 : Keeps s0 x0 := (captureBlock_keeps h1)
  clear_value x0
  split
  · exact (runs_next g0)
  · split
    · exact (runs_next g0)
    · extract_lets +onlyGivenNames x1
      have g1 : Keeps s0 x1.1 := (copyOwn_keeps g0)
      clear_value x1
      split
      · exact (runs_next g1)
      · extract_lets +onlyGivenNames x2
        have g2 : Keeps s0 x2 := (writeOwnHeader_keeps g1)
        clear_value x2
        extract_lets +onlyGivenNames x3
        have g3 : Keeps s0 x3 := (dadd_keeps (setSnapLap_keeps (setSnapLap_keeps g2)))
        clear_value x3
        exact (runs_next (modHeat_keeps g3))

theorem beginSnapshot_keeps {s0 : State} {a0 : State} {a1 : ℕ} (h0 : Keeps s0 a0) : Keeps s0 (beginSnapshot a0 a1) := by
  unfold beginSnapshot
  extract_lets +onlyGivenNames x0
  have g0 : Keeps s0 x0 := (dropTxns_keeps h0)
  clear_value x0
  extract_lets +onlyGivenNames x1
  have g1 : Keeps s0 x1 := (modHeat_keeps g0)
  clear_value x1
  exact (captureBlock_keeps (writeOwnHeader_keeps (setSnapLap_keeps (setSnapLap_keeps g1))))

theorem execSnapshotCommitCheck_keeps {s0 : State} {a0 : ℕ} {a1 : State} (h1 : Keeps s0 a1) : Runs s0 (execSnapshotCommitCheck a0 a1) := by
  unfold execSnapshotCommitCheck
  split
  · exact (runs_next h1)
  · split
    · exact (runs_next h1)
    · extract_lets +onlyGivenNames x0
      have h0 : Keeps s0 x0 := (modHeat_keeps h1)
      clear_value x0
      split
      · exact (runs_next (snapEvent_keeps h0))
      · split
        · exact (runs_next (modHeat_keeps h0))
        · exact (runs_next h0)

theorem execSnapshotLap_keeps {s0 : State} {a0 : ℕ} {a1 : State} (h1 : Keeps s0 a1) : Runs s0 (execSnapshotLap a0 a1) := by
  unfold execSnapshotLap
  split
  · exact (runs_next h1)
  · split
    · exact (runs_next (modHeat_keeps h1))
    · split
      · exact (runs_next h1)
      · extract_lets +onlyGivenNames x0
        have g0 : Keeps s0 x0 := (modHeat_keeps h1)
        clear_value x0
        split
        · exact (runs_next (snapEvent_keeps g0))
        · split
          · exact (runs_next (beginSnapshot_keeps g0))
          · exact (runs_next (snapEvent_keeps g0))

end Sys2Proof.Machine
end

