-- ==== Sys2Proof/Laws/KeepGovernor.lean ====
section
/-! SUPPORT. What the operations of Machine/Governor.lean keep. -/

namespace Sys2Proof.Machine

theorem governorRamp_keeps {s0 : State} {a0 : State} (h0 : Keeps s0 a0) : Keeps s0 (governorRamp a0) := by
  unfold governorRamp
  extract_lets +onlyGivenNames x0
  clear_value x0
  extract_lets +onlyGivenNames x1
  clear_value x1
  extract_lets +onlyGivenNames x2
  unfold x2
  clear x2
  extract_lets +onlyGivenNames x3
  clear_value x3
  extract_lets +onlyGivenNames x4
  clear_value x4
  exact (keeps_ite h0 (domSet_keeps (Keeps.updFree h0 (by omega))))

theorem updateLimit_keeps {s0 : State} {a0 : State} (h0 : Keeps s0 a0) : Keeps s0 (updateLimit a0) := by
  unfold updateLimit
  extract_lets +onlyGivenNames x0
  clear_value x0
  extract_lets +onlyGivenNames x1
  clear_value x1
  exact (dset_keeps (dset_keeps h0))

theorem takeClass_keeps {s0 : State} {a0 : State} {a1 : ℕ} (h0 : Keeps s0 a0) : Keeps s0 (takeClass a0 a1) := by
  unfold takeClass
  extract_lets +onlyGivenNames x0
  have h0 : Keeps s0 x0 := (dset_keeps (dset_keeps h0))
  clear_value x0
  exact (updateLimit_keeps (Keeps.upd h0))

theorem governor_keeps {s0 : State} {a0 : State} (h0 : Keeps s0 a0) : Keeps s0 (governor a0) := by
  unfold governor
  exact (governorRamp_keeps (updateLimit_keeps h0))

end Sys2Proof.Machine
end

