-- ==== Sys2Proof/Laws/KeepFirmware.lean ====
section
/-! SUPPORT. What the operations of Machine/Firmware.lean keep. -/

namespace Sys2Proof.Machine

theorem feed_keeps {s0 : State} {a0 : State} {a1 : ℕ} {a2 : ℕ} {a3 : ℕ} (h0 : Keeps s0 a0) : Keeps s0 (feed a0 a1 a2 a3) := by
  unfold feed
  exact (keeps_ite h0 (dset_keeps h0))

theorem feedStraps_keeps {s0 : State} {a0 : State} (h0 : Keeps s0 a0) : Keeps s0 (feedStraps a0) := by
  unfold feedStraps
  extract_lets +onlyGivenNames x0
  clear_value x0
  extract_lets +onlyGivenNames x1
  clear_value x1
  extract_lets +onlyGivenNames x2
  clear_value x2
  extract_lets +onlyGivenNames x3
  have h3 : Keeps s0 x3 := (dset_keeps (dset_keeps (dset_keeps (dset_keeps h0))))
  clear_value x3
  extract_lets +onlyGivenNames x4
  have h4 : Keeps s0 x4 := (feed_keeps (feed_keeps (feed_keeps (feed_keeps h3))))
  clear_value x4
  extract_lets +onlyGivenNames x5
  have h5 : Keeps s0 x5 := (feed_keeps h4)
  clear_value x5
  exact (takeClass_keeps h5)

theorem applyCan_keeps {s0 : State} {a0 : State} (h0 : Keeps s0 a0) : Keeps s0 (applyCan a0) := by
  unfold applyCan
  exact (Keeps.upd h0)

theorem drawChallenge_keeps {s0 : State} {a0 : State} (h0 : Keeps s0 a0) : Keeps s0 (drawChallenge a0) := by
  unfold drawChallenge
  extract_lets +onlyGivenNames x0
  have h0 : Keeps s0 x0.2 := (takeFree_keeps h0)
  clear_value x0
  exact (dset_keeps h0)

theorem applyFuses_keeps {s0 : State} {a0 : State} (h0 : Keeps s0 a0) : Keeps s0 (applyFuses a0) := by
  unfold applyFuses
  extract_lets +onlyGivenNames x0
  have h0 : Keeps s0 x0 := (keeps_foldl h0 fun u1 v1 => (dset_keeps (Keeps.refl _)))
  clear_value x0
  extract_lets +onlyGivenNames x2
  have h2 : Keeps s0 x2 := (keeps_foldl h0 fun u3 v3 => (keeps_ite (dset_keeps (Keeps.refl _)) (Keeps.refl _)))
  clear_value x2
  exact (dset_keeps h2)

theorem putStored_keeps {s0 : State} {a0 : State} {a1 : ℕ × List Byte} (h0 : Keeps s0 a0) : Keeps s0 (putStored a0 a1) := by
  unfold putStored
  split
  · exact (keeps_ite (domSet_keeps h0) (dset_keeps h0))
  · exact h0

theorem measureStart_keeps {s0 : State} {a0 : State} (h0 : Keeps s0 a0) : Keeps s0 (measureStart a0) := by
  unfold measureStart
  extract_lets +onlyGivenNames x0
  have h0 : Keeps s0 x0 := (Keeps.upd h0)
  clear_value x0
  extract_lets +onlyGivenNames x1
  have h1 : Keeps s0 x1 := (putMeasure_keeps h0)
  clear_value x1
  extract_lets +onlyGivenNames x2
  have h2 : Keeps s0 x2 := (measure_keeps h1)
  clear_value x2
  extract_lets +onlyGivenNames x3
  have h3 : Keeps s0 x3 := (keeps_ite (measure_keeps h2) h2)
  clear_value x3
  exact (measureTest_keeps h3)

theorem enterMemoryPower_keeps {s0 : State} {a0 : State} (h0 : Keeps s0 a0) : Keeps s0 (enterMemoryPower a0) := by
  unfold enterMemoryPower
  extract_lets +onlyGivenNames x0
  have h0 : Keeps s0 x0 := (setStage_keeps (Keeps.upd h0))
  clear_value x0
  exact (keeps_foldl h0 fun u1 v1 => (requestWake_keeps (Keeps.refl _)))

theorem sampleStandby_keeps {s0 : State} {a0 : State} (h0 : Keeps s0 a0) : Keeps s0 (sampleStandby a0) := by
  unfold sampleStandby
  exact (keeps_ite (enterMemoryPower_keeps h0) h0)

theorem reportGap_keeps {s0 : State} {a0 : State} (h0 : Keeps s0 a0) : Keeps s0 (reportGap a0) := by
  unfold reportGap
  exact (keeps_ite h0 (raise_keeps (dadd_keeps (Keeps.upd h0))))

theorem runFirmware_keeps {s0 : State} {a0 : State} {a1 : Firmware} {a2 : ℕ} (h0 : Keeps s0 a0) : Keeps s0 (runFirmware a0 a1 a2) := by
  unfold runFirmware
  extract_lets +onlyGivenNames x0
  have g0 : Keeps s0 x0 := (Keeps.upd h0)
  clear_value x0
  extract_lets +onlyGivenNames x1
  have g1 : Keeps s0 x1 := (dset_keeps (dset_keeps (dset_keeps g0)))
  clear_value x1
  extract_lets +onlyGivenNames x2
  have g2 : Keeps s0 x2 := (applyFuses_keeps (keeps_foldl g1 fun u3 v3 => (putStored_keeps (Keeps.refl _))))
  clear_value x2
  extract_lets +onlyGivenNames x4
  have g4 : Keeps s0 x4 := (keeps_ite (feedStraps_keeps g2) (takeClass_keeps g2))
  clear_value x4
  extract_lets +onlyGivenNames x5
  have g5 : Keeps s0 x5 := (keeps_ite (applyCan_keeps g4) g4)
  clear_value x5
  extract_lets +onlyGivenNames x6
  have g6 : Keeps s0 x6 := (measureStart_keeps (drawChallenge_keeps g5))
  clear_value x6
  exact (keeps_ite (raise_keeps (setStage_keeps g6)) (sampleStandby_keeps (reportGap_keeps (bootUp_keeps (setStage_keeps g6)))))

theorem strapCan_keeps {s0 : State} {a0 : State} (h0 : Keeps s0 a0) : Keeps s0 (strapCan a0) := by
  unfold strapCan
  exact (Keeps.upd h0)

theorem startingBlocks_keeps {s0 : State} {a0 : State} {a1 : ℕ} (h0 : Keeps s0 a0) : Keeps s0 (startingBlocks a0 a1) := by
  unfold startingBlocks
  extract_lets +onlyGivenNames x0
  clear_value x0
  extract_lets +onlyGivenNames x1
  have g1 : Keeps s0 x1 := (dset_keeps (dset_keeps h0))
  clear_value x1
  split
  · exact (runFirmware_keeps g1)
  · extract_lets +onlyGivenNames x2
    have g2 : Keeps s0 x2 := (keeps_foldl g1 fun u3 v3 => (putStored_keeps (Keeps.refl _)))
    clear_value x2
    extract_lets +onlyGivenNames x4
    have g4 : Keeps s0 x4 := (keeps_ite (feedStraps_keeps g2) g2)
    clear_value x4
    exact (bootUp_keeps (setStage_keeps (strapCan_keeps g4)))

theorem addJournal_keeps {s0 : State} {a0 : State} {a1 : List Journal} (h0 : Keeps s0 a0) : Keeps s0 (addJournal a0 a1) := by
  unfold addJournal
  extract_lets +onlyGivenNames x0
  clear_value x0
  exact (Keeps.upd h0)

theorem cutWrite_keeps {s0 : State} {a0 : State} (h0 : Keeps s0 a0) : Keeps s0 (cutWrite a0) := by
  unfold cutWrite
  split
  · exact h0
  · extract_lets +onlyGivenNames x0
    have g0 : Keeps s0 x0.2 := (takeFree_keeps h0)
    clear_value x0
    refine (addJournal_keeps ?_)
    extract_lets +onlyGivenNames x1
    have g1 : Keeps s0 x1 := g0
    clear_value x1
    exact (Keeps.upd g1)

theorem restartState_keeps {s0 : State} {a0 : State} {a1 : Bool} (h0 : Keeps s0 a0) : Keeps s0 (restartState a0 a1) := by
  unfold restartState
  extract_lets +onlyGivenNames s
  have hs : Keeps s0 s := cutWrite_keeps h0
  clear_value s
  refine hs.trans ⟨rfl, fun x => ?_, Nat.le_refl _, fun _ h => h, fun _ h => h, Nat.le_refl _, List.prefix_refl _⟩
  have y := (State.tablesOk_iff _).1 x
  have d := tabDrop_rises (fun k => !keptKey a1 k) y.dict
  have m := tabDrop_rises (fun k => !keptKey a1 k) y.dom
  have c : tabRises (if a1 then [] else s.corePower) = true := by split; exacts [rfl, y.corePower]
  exact (State.tablesOk_iff _).2 ⟨rfl, rfl, d, m, rfl, rfl, rfl, rfl, c, rfl, rfl, y.sweeps, rfl, rfl, rfl⟩

end Sys2Proof.Machine
end

