-- ==== Sys2Proof/Laws/KeepBoot.lean ====
section
/-! SUPPORT. What the operations of Machine/Boot.lean keep. -/

namespace Sys2Proof.Machine

theorem enterLinkTraining_keeps {s0 : State} {a0 : State} (h0 : Keeps s0 a0) : Keeps s0 (enterLinkTraining a0) := by
  unfold enterLinkTraining
  extract_lets +onlyGivenNames x0
  have h0 : Keeps s0 x0 := (setStage_keeps (Keeps.upd h0))
  clear_value x0
  extract_lets +onlyGivenNames x1
  have h1 : Keeps s0 x1 := (keeps_foldl h0 fun u2 v2 => (requestWake_keeps (Keeps.refl _)))
  clear_value x1
  exact (keeps_ite (startSetter_keeps h1) h1)

theorem darkPorts_keeps {s0 : State} {a0 : State} (h0 : Keeps s0 a0) : Keeps s0 (darkPorts a0) := by
  unfold darkPorts
  extract_lets +onlyGivenNames x0
  have h0 : Keeps s0 x0 := (keeps_foldl h0 fun u1 v1 => (setEthernet_keeps (Keeps.refl _)))
  clear_value x0
  exact (keeps_foldl h0 fun u2 v2 => (leaveTrained_keeps (Keeps.refl _)))

theorem endPowerDown_keeps {s0 : State} {a0 : State} (h0 : Keeps s0 a0) : Keeps s0 (endPowerDown a0) := by
  unfold endPowerDown
  split
  · extract_lets +onlyGivenNames y x z
    have hy : Keeps s0 y := enterLoss_keeps h0
    have hx : Keeps s0 x := Keeps.updErrs (t := { y with mem := [] }) (Keeps.updMem hy fun _ => rfl) fun _ => rfl
    clear_value x
    have hz : Keeps s0 z := setStage_keeps hx
    clear_value z
    exact sampleStandby_keeps (keeps_ite (bootUp_keeps hz) hz)
  · exact h0

theorem execWakeTokenGrant_keeps {s0 : State} {a0 : State} (h0 : Keeps s0 a0) : Runs s0 (execWakeTokenGrant a0) := by
  unfold execWakeTokenGrant
  extract_lets +onlyGivenNames x0
  have g0 : Keeps s0 x0 := (grantNext_keeps h0)
  clear_value x0
  extract_lets +onlyGivenNames x1
  have g1 : Keeps s0 x1 := (keeps_ite (darkPorts_keeps g0) g0)
  clear_value x1
  exact (runs_next (sampleStandby_keeps (endPowerDown_keeps g1)))

theorem raiseAntiRollback_keeps {s0 : State} {a0 : State} (h0 : Keeps s0 a0) : Keeps s0 (raiseAntiRollback a0) := by
  unfold raiseAntiRollback
  split
  · exact h0
  · extract_lets +onlyGivenNames x0
    have h0 : Keeps s0 x0 := (raise_keeps (dset_keeps h0))
    clear_value x0
    exact (measure_keeps h0)

theorem enterReady_keeps {s0 : State} {a0 : State} (h0 : Keeps s0 a0) : Keeps s0 (enterReady a0) := by
  unfold enterReady
  extract_lets +onlyGivenNames x0
  have h0 : Keeps s0 x0 := (dset_keeps (setStage_keeps h0))
  clear_value x0
  extract_lets +onlyGivenNames x1
  have h1 : Keeps s0 x1 := (histAdd_keeps h0)
  clear_value x1
  exact (raiseAntiRollback_keeps (raise_keeps h1))

theorem execLinkTrainingEnd_keeps {s0 : State} {a0 : State} (h0 : Keeps s0 a0) : Runs s0 (execLinkTrainingEnd a0) := by
  unfold execLinkTrainingEnd
  split
  · exact (runs_next (enterReady_keeps h0))
  · exact (runs_next h0)

theorem warmStart_keeps {s0 : State} {a0 : State} (h0 : Keeps s0 a0) : Keeps s0 (warmStart a0) := by
  unfold warmStart
  split
  · exact h0
  · extract_lets +onlyGivenNames x0
    have g0 : Keeps s0 x0 := (restartState_keeps h0)
    clear_value x0
    exact (keeps_foldl g0 fun u1 v1 => (requestWake_keeps (Keeps.refl _)))

theorem execWatchdogExpiry_keeps {s0 : State} {a0 : State} (h0 : Keeps s0 a0) : Runs s0 (execWatchdogExpiry a0) := by
  unfold execWatchdogExpiry
  split
  · exact (runs_next h0)
  · exact (runs_next (startingBlocks_keeps (warmStart_keeps h0)))

theorem lateStraps_keeps {s0 : State} {a0 : State} {a1 : ℕ} (h0 : Keeps s0 a0) : Keeps s0 (lateStraps a0 a1) := by
  unfold lateStraps
  extract_lets +onlyGivenNames x0
  have g0 : Keeps s0 x0 := (feedStraps_keeps h0)
  clear_value x0
  exact (keeps_ite (strapCan_keeps g0) (applyCan_keeps (measure_keeps g0)))

theorem trimsAt_keeps {s0 : State} {a0 : State} {a1 : ℕ} {a2 : List ℕ} (h0 : Keeps s0 a0) : Keeps s0 (trimsAt a0 a1 a2).1 := by
  unfold trimsAt
  refine (keeps_foldl_fst h0 fun u0 v0 => ?_)
  dsimp only
  exact (planTrim_keeps (Keeps.refl _))

theorem retireAtBoot_keeps {s0 : State} {a0 : State} {a1 : ℕ} {a2 : ℕ} (h0 : Keeps s0 a0) : Keeps s0 (retireAtBoot a0 a1 a2) := by
  unfold retireAtBoot
  exact (slotEvent_keeps (retireSlot_keeps h0))

theorem bootTrims_keeps {s0 : State} {a0 : State} {a1 : ℕ} (h0 : Keeps s0 a0) : Keeps s0 (bootTrims a0 a1) := by
  unfold bootTrims
  extract_lets +onlyGivenNames x0
  have h0 : Keeps s0 x0.1 := (trimsAt_keeps h0)
  clear_value x0
  exact (keeps_foldl h0 fun u1 v1 => (setTrim_keeps (Keeps.refl _)))

theorem enterMemoryTest_keeps {s0 : State} {a0 : State} (h0 : Keeps s0 a0) : Keeps s0 (enterMemoryTest a0) := by
  unfold enterMemoryTest
  extract_lets +onlyGivenNames x0
  have h0 : Keeps s0 x0 := (setStage_keeps h0)
  clear_value x0
  exact (keeps_ite (dset_keeps h0) (keeps_ite (dset_keeps h0) (raise_keeps (dset_keeps h0))))

theorem execWarmUpWave_keeps {s0 : State} {a0 : WaveFaults} {a1 : State} (h1 : Keeps s0 a1) : Runs s0 (execWarmUpWave a0 a1) := by
  unfold execWarmUpWave
  extract_lets +onlyGivenNames x0
  clear_value x0
  extract_lets +onlyGivenNames x1
  clear_value x1
  split
  · exact (runs_next h1)
  · extract_lets +onlyGivenNames x2
    clear_value x2
    extract_lets +onlyGivenNames x3
    have g3 : Keeps s0 x3 := (keeps_ite (setStage_keeps (Keeps.upd h1)) h1)
    clear_value x3
    extract_lets +onlyGivenNames x4
    have g4 : Keeps s0 x4 := (keeps_foldl g3 fun u5 v5 => (requestWake_keeps (Keeps.refl _)))
    clear_value x4
    extract_lets +onlyGivenNames x6
    have g6 : Keeps s0 x6 := (keeps_foldl g4 fun u7 v7 => (clusterOut_keeps (Keeps.refl _)))
    clear_value x6
    extract_lets +onlyGivenNames x8
    have g8 : Keeps s0 x8 := (Keeps.upd g6)
    clear_value x8
    exact (runs_next (keeps_ite (enterMemoryTest_keeps g8) g8))

theorem execCoreIdleTimeout_keeps {s0 : State} {a0 : ℕ} {a1 : State} (h1 : Keeps s0 a1) : Runs s0 (execCoreIdleTimeout a0 a1) := by
  unfold execCoreIdleTimeout
  extract_lets +onlyGivenNames x0
  clear_value x0
  split
  · exact (runs_next h1)
  · exact (runs_next (requestWake_keeps h1))

theorem execInputValid_keeps {s0 : State} {a0 : State} (h0 : Keeps s0 a0) : Runs s0 (execInputValid a0) := by
  unfold execInputValid
  split
  · exact (runs_next h0)
  · extract_lets +onlyGivenNames x0
    have g0 : Keeps s0 x0 := (restartState_keeps h0)
    clear_value x0
    exact (runs_next (dadd_keeps (Keeps.upd g0)))

theorem repairRow_keeps {s0 : State} {a0 : State} {a1 : ℕ × ℕ × ℕ} (h0 : Keeps s0 a0) : Keeps s0 (repairRow a0 a1) := by
  unfold repairRow
  exact (raise_keeps (histAdd_keeps h0))

theorem recordTest_keeps {s0 : State} {a0 : State} {a1 : Bool} (h0 : Keeps s0 a0) : Keeps s0 (recordTest a0 a1) := by
  unfold recordTest
  split
  · exact (Keeps.upd h0)
  · extract_lets +onlyGivenNames x0
    have h0 : Keeps s0 x0 := (Keeps.upd h0)
    clear_value x0
    exact (histAdd_keeps h0)

theorem fixMemory_keeps {s0 : State} {a0 : State} (h0 : Keeps s0 a0) : Keeps s0 (fixMemory a0) := by
  unfold fixMemory
  extract_lets +onlyGivenNames x0
  clear_value x0
  extract_lets +onlyGivenNames x1
  have h1 : Keeps s0 x1 := (domSet_keeps (dset_keeps (dset_keeps h0)))
  clear_value x1
  exact (dset_keeps (domSet_keeps h1))

theorem retireChannel_keeps {s0 : State} {a0 : State} {a1 : ℕ} (h0 : Keeps s0 a0) : Keeps s0 (retireChannel a0 a1) := by
  unfold retireChannel
  refine raise_keeps (histAdd_keeps (dadd_keeps (h0.trans ⟨rfl, id, Nat.le_refl _, fun _ h => h, fun q hq => ?_, Nat.le_refl _, List.prefix_refl _⟩)))
  exact List.mem_cons_of_mem _ hq

theorem clearMemory_keeps {s0 : State} {a0 : State} {b : List (ℕ × ℕ × ℕ)} (h0 : Keeps s0 a0) : Keeps s0 { a0 with mem := [], blank := b, freeCtr := a0.freeCtr + 1, errs := [], corrs := [], scrubbed := [], scrubBegan := a0.now } := by
  refine h0.trans ⟨rfl, fun x => ?_, Nat.le_succ _, fun _ h => h, fun _ h => h, Nat.le_refl _, List.prefix_refl _⟩
  exact (State.tablesOk_iff _).2 { (State.tablesOk_iff _).1 x with mem := rfl, errs := rfl }

theorem execMemoryTestComplete_keeps {s0 : State} {a0 : List ℕ} {a1 : List (ℕ × ℕ × ℕ)} {a2 : State} (h2 : Keeps s0 a2) : Runs s0 (execMemoryTestComplete a0 a1 a2) := by
  unfold execMemoryTestComplete
  split
  · exact runs_next h2
  · extract_lets +onlyGivenNames s1 p b g s2 s3 s4
    have h1 : Keeps s0 s1 := keeps_foldl h2 fun u v => repairRow_keeps (Keeps.refl _)
    clear_value s1
    have h3 : Keeps s0 s2 := recordTest_keeps h1
    clear_value s2
    have h4 : Keeps s0 s3 := fixMemory_keeps (keeps_foldl (Keeps.upd h3) fun u v => retireChannel_keeps (Keeps.refl _))
    clear_value s3
    have h5 : Keeps s0 s4 := raise_keeps (dset_keeps h4)
    clear_value s4
    exact runs_next (setStage_keeps (clearMemory_keeps h5))

theorem execStrapLatch_keeps {s0 : State} {a0 : BitVec 12} {a1 : State} (h1 : Keeps s0 a1) : Runs s0 (execStrapLatch a0 a1) := by
  unfold execStrapLatch
  extract_lets +onlyGivenNames x0
  clear_value x0
  split
  · exact (runs_next h1)
  · split
    · exact (runs_next (dset_keeps h1))
    · extract_lets +onlyGivenNames x1
      have g1 : Keeps s0 x1 := (dset_keeps (dset_keeps (Keeps.upd h1)))
      clear_value x1
      extract_lets +onlyGivenNames x2
      have g2 : Keeps s0 x2 := (keeps_ite (startingBlocks_keeps g1) (lateStraps_keeps g1))
      clear_value x2
      extract_lets +onlyGivenNames x3
      have g3 : Keeps s0 x3 := (keeps_ite (raise_keeps g2) g2)
      clear_value x3
      exact (runs_next (sampleStandby_keeps g3))

theorem chooseBin_keeps {s0 : State} {a0 : ℕ} {a1 : ℕ} {a2 : State} {a3 : ℕ} (h2 : Keeps s0 a2) : Keeps s0 (chooseBin a0 a1 a2 a3).1 := by
  induction a1 generalizing a2 a3 with
  | zero => exact h2
  | succ n ih =>
    unfold chooseBin
    extract_lets +onlyGivenNames r short
    have hr : Keeps s0 r.1 := trimsAt_keeps h2
    clear_value short r
    split
    · exact hr
    · exact ih hr

theorem bootPlan_keeps {s0 : State} {a0 : State} {a1 : ℕ} (h0 : Keeps s0 a0) : Keeps s0 (bootPlan a0 a1) := by
  unfold bootPlan
  extract_lets +onlyGivenNames x0
  have h0 : Keeps s0 x0.1 := (chooseBin_keeps h0)
  clear_value x0
  extract_lets +onlyGivenNames x1
  have h1 : Keeps s0 x1 := (domPut_keeps h0)
  clear_value x1
  exact (keeps_foldl h1 fun u2 v2 => (retireAtBoot_keeps (Keeps.refl _)))

theorem assignSlots_keeps {s0 : State} {a0 : State} {a1 : ℕ} (h0 : Keeps s0 a0) : Keeps s0 (assignSlots a0 a1) := by
  unfold assignSlots
  extract_lets +onlyGivenNames x0
  clear_value x0
  extract_lets +onlyGivenNames x1
  have h1 : Keeps s0 x1 := (keeps_foldl h0 fun u2 v2 => (setSlot_keeps (Keeps.refl _)))
  clear_value x1
  extract_lets +onlyGivenNames x3
  have h3 : Keeps s0 x3 := (keeps_foldl h1 fun u4 v4 => (keeps_ite (setSlot_keeps (Keeps.refl _)) (setSlot_keeps (Keeps.refl _))))
  clear_value x3
  exact (keeps_ite (clusterOut_keeps h3) h3)

theorem execSelfTestComplete_keeps {s0 : State} {a0 : List ℕ} {a1 : List Sweep} {a2 : State} (h2 : Keeps s0 a2) : Runs s0 (execSelfTestComplete a0 a1 a2) := by
  unfold execSelfTestComplete
  split
  · exact (runs_next h2)
  · extract_lets +onlyGivenNames x0
    have g0 : Keeps s0 x0 := (keeps_foldl (Keeps.upd h2) fun u1 v1 => (retireAtBoot_keeps (Keeps.refl _)))
    clear_value x0
    extract_lets +onlyGivenNames x2
    have g2 : Keeps s0 x2 := (keeps_foldl g0 fun u3 v3 => (retireAtBoot_keeps (Keeps.refl _)))
    clear_value x2
    extract_lets +onlyGivenNames x4
    have g4 : Keeps s0 x4 := (keeps_foldl g2 fun u5 v5 => (keeps_ite (addSweep_keeps (Keeps.refl _)) (Keeps.refl _)))
    clear_value x4
    extract_lets +onlyGivenNames x6
    have g6 : Keeps s0 x6 := (keeps_foldl g4 fun u7 v7 => (bootPlan_keeps (Keeps.refl _)))
    clear_value x6
    extract_lets +onlyGivenNames x8
    have g8 : Keeps s0 x8 := (keeps_foldl g6 fun u9 v9 => (assignSlots_keeps (Keeps.refl _)))
    clear_value x8
    extract_lets +onlyGivenNames x10
    have g10 : Keeps s0 x10 := (keeps_foldl g8 fun u11 v11 => (bootTrims_keeps (Keeps.refl _)))
    clear_value x10
    extract_lets +onlyGivenNames x12
    have g12 : Keeps s0 x12 := (histAdd_keeps (Keeps.upd g10))
    clear_value x12
    extract_lets +onlyGivenNames x13
    have g13 : Keeps s0 x13 := (raise_keeps g12)
    clear_value x13
    extract_lets +onlyGivenNames x14
    have g14 : Keeps s0 x14 := (updateLife_keeps g13)
    clear_value x14
    extract_lets +onlyGivenNames x15
    have g15 : Keeps s0 x15 := (enterLinkTraining_keeps g14)
    clear_value x15
    exact (runs_next (keeps_foldl g15 fun u16 v16 => (setInterval_keeps (Keeps.refl _))))

theorem filterTakes_keeps {s0 : State} {a0 : State} {a1 : ℕ} {a2 : ℕ} {a3 : ℕ} (h0 : Keeps s0 a0) : Keeps s0 (filterTakes a0 a1 a2 a3).1 := by
  unfold filterTakes
  split
  · dsimp only
    exact (dadd_keeps h0)
  · split
    · dsimp only
      exact h0
    · dsimp only
      split
      · dsimp only
        exact (takeFree_keeps h0)
      · dsimp only
        exact (dadd_keeps (takeFree_keeps h0))

theorem execResetN_keeps {s0 : State} {a0 : Bool} {a1 : ℕ} {a2 : State} (h2 : Keeps s0 a2) : Runs s0 (execResetN a0 a1 a2) := by
  unfold execResetN
  split
  · exact (runs_next h2)
  · extract_lets +onlyGivenNames x0
    have g0 : Keeps s0 x0.1 := (filterTakes_keeps h2)
    clear_value x0
    split
    · exact (runs_next g0)
    · split
      · extract_lets +onlyGivenNames x1
        have g1 : Keeps s0 x1 := (warmStart_keeps g0)
        clear_value x1
        exact (runs_next (Keeps.upd g1))
      · extract_lets +onlyGivenNames x2
        have g2 : Keeps s0 x2 := g0
        clear_value x2
        extract_lets +onlyGivenNames x3
        clear_value x3
        extract_lets +onlyGivenNames x4
        have g4 : Keeps s0 x4 := (Keeps.upd g2)
        clear_value x4
        exact (runs_next (keeps_ite g4 (startingBlocks_keeps (Keeps.upd g4))))

theorem powerOff_keeps {s0 : State} {a0 : State} (h0 : Keeps s0 a0) : Keeps s0 (powerOff a0) := by
  unfold powerOff
  split
  · extract_lets +onlyGivenNames x0
    have g0 : Keeps s0 x0 := (raise_keeps h0)
    clear_value x0
    extract_lets +onlyGivenNames x1
    have g1 : Keeps s0 x1 := (keeps_ite h0 (keeps_foldl g0 fun u2 v2 => (sendFault_keeps (Keeps.refl _))))
    clear_value x1
    exact (powerDown_keeps g1)
  · exact h0

theorem execInputInvalid_keeps {s0 : State} {a0 : State} (h0 : Keeps s0 a0) : Runs s0 (execInputInvalid a0) := by
  unfold execInputInvalid
  split
  · exact (runs_next (restartState_keeps h0))
  · exact (runs_next h0)

theorem execRecoveryAnnounce_keeps {s0 : State} {a0 : State} (h0 : Keeps s0 a0) : Runs s0 (execRecoveryAnnounce a0) := by
  unfold execRecoveryAnnounce
  split
  · exact (runs_next h0)
  · extract_lets +onlyGivenNames x0
    have g0 : Keeps s0 x0 := (keeps_ite h0 (emit_keeps h0))
    clear_value x0
    exact (runs_next (emit_keeps g0))

theorem acceptPower_keeps {s0 : State} {a0 : State} {a1 : Bool} (h0 : Keeps s0 a0) : Keeps s0 (acceptPower a0 a1) := by
  unfold acceptPower
  extract_lets +onlyGivenNames x0
  clear_value x0
  extract_lets +onlyGivenNames x1
  have g1 : Keeps s0 x1 := (Keeps.upd h0)
  clear_value x1
  exact (keeps_ite (sampleStandby_keeps g1) (powerOff_keeps g1))

theorem execPwrEn_keeps {s0 : State} {a0 : Bool} {a1 : ℕ} {a2 : State} (h2 : Keeps s0 a2) : Runs s0 (execPwrEn a0 a1 a2) := by
  unfold execPwrEn
  split
  · exact (runs_next h2)
  · extract_lets +onlyGivenNames x0
    have g0 : Keeps s0 x0.1 := (filterTakes_keeps h2)
    clear_value x0
    split
    · exact (runs_next g0)
    · extract_lets +onlyGivenNames x1
      clear_value x1
      extract_lets +onlyGivenNames x2
      clear_value x2
      extract_lets +onlyGivenNames x3
      have g3 : Keeps s0 x3 := g0
      clear_value x3
      extract_lets +onlyGivenNames x4
      clear_value x4
      extract_lets +onlyGivenNames x5
      have g5 : Keeps s0 x5 := (Keeps.upd g3)
      clear_value x5
      split
      · exact (runs_next (keeps_ite (dadd_keeps g5) g5))
      · split
        · exact (runs_next g5)
        · exact (runs_next (acceptPower_keeps g5))

end Sys2Proof.Machine
end

