-- ==== Sys2Proof/Laws/KeepDict.lean ====
section
/-! SUPPORT. What the operations of Machine/Dict.lean keep. -/

namespace Sys2Proof.Machine

theorem saveStore_keeps {s0 : State} {a0 : State} (h0 : Keeps s0 a0) : Keeps s0 (saveStore a0) := by
  unfold saveStore
  exact (raise_keeps (Keeps.upd h0))

theorem execExtest_keeps {s0 : State} {a0 : State} (h0 : Keeps s0 a0) : Runs s0 (execExtest a0) := by
  unfold execExtest
  split
  · exact (runs_next (Keeps.upd h0))
  · exact (runs_next (emit_keeps (Keeps.upd h0)))

theorem lockTest_keeps {s0 : State} {a0 : State} (h0 : Keeps s0 a0) : Keeps s0 (lockTest a0) := by
  unfold lockTest
  extract_lets +onlyGivenNames x0
  have h0 : Keeps s0 x0 := (dset_keeps (dset_keeps (Keeps.upd h0)))
  clear_value x0
  exact (dset_keeps (domSet_keeps h0))

theorem relockTest_keeps {s0 : State} {a0 : State} (h0 : Keeps s0 a0) : Keeps s0 (relockTest a0) := by
  unfold relockTest
  extract_lets +onlyGivenNames x0
  clear_value x0
  exact (measureTest_keeps (raise_keeps (lockTest_keeps h0)))

theorem writeStore_keeps {s0 : State} {a0 : State} {a1 : ℕ} {a2 : Bool} (h0 : Keeps s0 a0) : Keeps s0 (writeStore a0 a1 a2).1 := by
  unfold writeStore
  split
  · exact h0
  · exact (saveStore_keeps h0)

theorem eraseStore_keeps {s0 : State} {a0 : State} (h0 : Keeps s0 a0) : Keeps s0 (eraseStore a0) := by
  unfold eraseStore
  exact (raise_keeps (Keeps.upd h0))

theorem writeDefaults_keeps {s0 : State} {a0 : State} {a1 : ℕ} (h0 : Keeps s0 a0) : Keeps s0 (writeDefaults a0 a1).1 := by
  unfold writeDefaults
  split
  · exact h0
  · exact (eraseStore_keeps h0)

theorem writeClass_keeps {s0 : State} {a0 : State} {a1 : ℕ} (h0 : Keeps s0 a0) : Keeps s0 (writeClass a0 a1) := by
  unfold writeClass
  exact (governor_keeps (takeClass_keeps h0))

theorem writeRole_keeps {s0 : State} {a0 : State} {a1 : ℕ} (h0 : Keeps s0 a0) : Keeps s0 (writeRole a0 a1) := by
  unfold writeRole
  extract_lets +onlyGivenNames x0
  clear_value x0
  extract_lets +onlyGivenNames x1
  have h1 : Keeps s0 x1 := (dset_keeps h0)
  clear_value x1
  exact (keeps_ite h1 (keeps_ite (paceEvent_keeps (startSetter_keeps h1)) (paceEvent_keeps (enterLoss_keeps h1))))

theorem writeReference_keeps {s0 : State} {a0 : State} {a1 : ℕ} (h0 : Keeps s0 a0) : Keeps s0 (writeReference a0 a1) := by
  unfold writeReference
  extract_lets +onlyGivenNames x0
  have h0 : Keeps s0 x0 := (dset_keeps h0)
  clear_value x0
  exact (keeps_ite (dset_keeps h0) h0)

theorem putEntry_keeps {s0 : State} {a0 : State} {a1 : DictEntry} {a2 : ℕ} {a3 : List Byte} (h0 : Keeps s0 a0) : Keeps s0 (putEntry a0 a1 a2 a3) := by
  unfold putEntry
  exact (keeps_ite (domSet_keeps h0) (dset_keeps h0))

theorem portLaser_keeps {s0 : State} {a0 : State} {a1 : ℕ} {a2 : ℕ} (h0 : Keeps s0 a0) : Keeps s0 (portLaser a0 a1 a2) := by
  unfold portLaser
  exact (keeps_ite (requestWake_keeps h0) h0)

theorem restartRing_keeps {s0 : State} {a0 : State} {a1 : ℕ} (h0 : Keeps s0 a0) : Keeps s0 (restartRing a0 a1) := by
  unfold restartRing
  exact (modHeat_keeps h0)

theorem writeChip_keeps {s0 : State} {a0 : State} {a1 : ℕ} (h0 : Keeps s0 a0) : Keeps s0 (writeChip a0 a1) := by
  unfold writeChip
  extract_lets +onlyGivenNames x0
  have h0 : Keeps s0 x0 := (dset_keeps h0)
  clear_value x0
  extract_lets +onlyGivenNames x1
  have h1 : Keeps s0 x1 := (removePlans_keeps h0)
  clear_value x1
  extract_lets +onlyGivenNames x2
  have h2 : Keeps s0 x2 := (keeps_foldl h1 fun u3 v3 => (modPort_keeps (Keeps.refl _)))
  clear_value x2
  exact (keeps_ite (dset_keeps h2) h2)

theorem writeEthControl_keeps {s0 : State} {a0 : State} {a1 : ℕ} {a2 : ℕ} (h0 : Keeps s0 a0) : Keeps s0 (writeEthControl a0 a1 a2) := by
  unfold writeEthControl
  extract_lets +onlyGivenNames x0
  have h0 : Keeps s0 x0 := (portLaser_keeps (dset_keeps h0))
  clear_value x0
  exact (keeps_ite (setEthernet_keeps h0) h0)

theorem writeSeq_keeps {s0 : State} {a0 : State} {a1 : Path} {a2 : ℕ} (h0 : Keeps s0 a0) : Keeps s0 (writeSeq a0 a1 a2) := by
  unfold writeSeq
  exact (Keeps.upd h0)

theorem updateEvent_keeps {s0 : State} {a0 : State} (h0 : Keeps s0 a0) : Keeps s0 (updateEvent a0) := by
  unfold updateEvent
  exact (keeps_ite h0 (raise_keeps h0))

theorem verifyImage_keeps {s0 : State} {a0 : State} (h0 : Keeps s0 a0) : Keeps s0 (verifyImage a0) := by
  unfold verifyImage
  extract_lets +onlyGivenNames x0
  clear_value x0
  extract_lets +onlyGivenNames x1
  clear_value x1
  extract_lets +onlyGivenNames x2
  clear_value x2
  extract_lets +onlyGivenNames x3
  have g3 : Keeps s0 x3 := (dset_keeps (Keeps.upd h0))
  clear_value x3
  split
  · exact (updateEvent_keeps (dset_keeps g3))
  · extract_lets +onlyGivenNames x4
    extract_lets +onlyGivenNames x5
    have g5 : Keeps s0 x5 := (dset_keeps (addJournal_keeps (Keeps.upd g3)))
    clear_value x5
    exact (keeps_ite (runFirmware_keeps g5) g5)

theorem writeUpdateControl_keeps {s0 : State} {a0 : State} {a1 : ℕ} (h0 : Keeps s0 a0) : Keeps s0 (writeUpdateControl a0 a1).1 := by
  unfold writeUpdateControl
  split
  · dsimp only
    exact (keeps_ite (dset_keeps (Keeps.upd h0)) h0)
  · split
    · dsimp only
      exact h0
    · dsimp only
      exact (verifyImage_keeps h0)

theorem writeToken_keeps {s0 : State} {a0 : State} {a1 : List Byte} (h0 : Keeps s0 a0) : Keeps s0 (writeToken a0 a1).1 := by
  unfold writeToken
  split
  · dsimp only
    exact (measureTest_keeps (raise_keeps (drawChallenge_keeps (dadd_keeps (dset_keeps (Keeps.upd h0))))))
  · exact (raise_keeps (drawChallenge_keeps h0))

theorem applyWrite_keeps {s0 : State} {a0 : State} {a1 : Path} {a2 : DictEntry} {a3 : ℕ} {a4 : List Byte} (h0 : Keeps s0 a0) : Keeps s0 (applyWrite a0 a1 a2 a3 a4).1 := by
  unfold applyWrite
  dsimp only
  split
  · exact (writeStore_keeps h0)
  · exact (writeDefaults_keeps h0)
  · dsimp only
    exact (writeClass_keeps h0)
  · dsimp only
    exact (governor_keeps (dset_keeps h0))
  · dsimp only
    exact (writeRole_keeps h0)
  · dsimp only
    exact (writeReference_keeps h0)
  · dsimp only
    exact (keeps_foldl (putEntry_keeps h0) fun u0 v0 => (showDelay_keeps (Keeps.refl _)))
  · dsimp only
    exact (keeps_ite (portLaser_keeps (writePortControl_keeps h0)) (writePortControl_keeps h0))
  · dsimp only
    exact (restartRing_keeps (putEntry_keeps h0))
  · dsimp only
    exact (restartRing_keeps (putEntry_keeps h0))
  · dsimp only
    exact (writeChip_keeps h0)
  · dsimp only
    exact (writeEthControl_keeps h0)
  · exact (heatControl_keeps h0)
  · dsimp only
    exact (writeSeq_keeps h0)
  · dsimp only
    exact (Keeps.upd h0)
  · dsimp only
    exact (dset_keeps (Keeps.upd h0))
  · exact (writeUpdateControl_keeps h0)
  · exact (writeToken_keeps h0)
  · dsimp only
    exact (relockTest_keeps h0)
  · dsimp only
    exact (putEntry_keeps h0)
  · dsimp only
    exact (measureTest_keeps (putEntry_keeps h0))
  · dsimp only
    exact (putEntry_keeps h0)

theorem dictWrite_keeps {s0 : State} {a0 : State} {a1 : Path} {a2 : ℕ} {a3 : ℕ} {a4 : List Byte} (h0 : Keeps s0 a0) : Keeps s0 (dictWrite a0 a1 a2 a3 a4).1 := by
  unfold dictWrite
  dsimp only
  split
  · dsimp only
    exact h0
  · split
    · exact (applyWrite_keeps h0)
    · dsimp only
      exact h0

theorem writeBy_keeps {s0 : State} {a0 : Path} {a1 : ℕ} {a2 : ℕ} {a3 : List Byte} {a4 : State} (h4 : Keeps s0 a4) : Keeps s0 (writeBy a0 a1 a2 a3 a4) := by
  unfold writeBy
  split
  · exact h4
  · split
    · exact h4
    · extract_lets +onlyGivenNames x0
      have g0 : Keeps s0 x0.1 := (dictWrite_keeps h4)
      clear_value x0
      exact (reply_keeps g0)

theorem execPowerClass_keeps {s0 : State} {a0 : Path} {a1 : ℕ} {a2 : State} (h2 : Keeps s0 a2) : Runs s0 (execPowerClass a0 a1 a2) := by
  unfold execPowerClass
  exact (runs_next (writeBy_keeps h2))

theorem dropClient_keeps {s0 : State} {a0 : State} {a1 : Path} (h0 : Keeps s0 a0) : Keeps s0 (dropClient a0 a1) := by
  unfold dropClient
  exact (Keeps.upd h0)

theorem execIdcode_keeps {s0 : State} {a0 : State} (h0 : Keeps s0 a0) : Runs s0 (execIdcode a0) := by
  unfold execIdcode
  exact (runs_next (emit_keeps (Keeps.upd h0)))

theorem execUpdateImage_keeps {s0 : State} {a0 : Path} {a1 : List Byte} {a2 : State} (h2 : Keeps s0 a2) : Runs s0 (execUpdateImage a0 a1 a2) := by
  unfold execUpdateImage
  exact (runs_next (writeBy_keeps h2))

theorem tmuxLevels_keeps {s0 : State} {a0 : State} (h0 : Keeps s0 a0) : Keeps s0 (tmuxLevels a0).2 := by
  unfold tmuxLevels
  generalize List.range 4 = l
  suffices ∀ a : List Bool × State, Keeps s0 a.2 → Keeps s0 (l.foldl (fun (acc : List Bool × State) n => match tmuxOut a0 n with
      | .low => (acc.1 ++ [false], acc.2)
      | _ => let r := takeFree acc.2 1; (acc.1 ++ [r.1 == 1], r.2)) a).2 from this _ h0
  induction l with
  | nil => exact fun _ h => h
  | cons n l ih =>
    intro a h
    rw [List.foldl_cons]
    refine ih _ ?_
    cases tmuxOut a0 n with
    | low => exact h
    | point p d => exact takeFree_keeps (a1 := 1) h
    | undefinedRate p d => exact takeFree_keeps (a1 := 1) h

theorem execSamplePreload_keeps {s0 : State} {a0 : ℕ} {a1 : State} (h1 : Keeps s0 a1) : Runs s0 (execSamplePreload a0 a1) := by
  unfold execSamplePreload
  exact runs_next (emit_keeps (Keeps.upd (tmuxLevels_keeps h1)))

theorem execUnlockToken_keeps {s0 : State} {a0 : Path} {a1 : List Byte} {a2 : State} (h2 : Keeps s0 a2) : Runs s0 (execUnlockToken a0 a1 a2) := by
  unfold execUnlockToken
  exact (runs_next (writeBy_keeps h2))

theorem execRelock_keeps {s0 : State} {a0 : Path} {a1 : ℕ} {a2 : State} (h2 : Keeps s0 a2) : Runs s0 (execRelock a0 a1 a2) := by
  unfold execRelock
  exact (runs_next (writeBy_keeps h2))

theorem execBypass_keeps {s0 : State} {a0 : State} (h0 : Keeps s0 a0) : Runs s0 (execBypass a0) := by
  unfold execBypass
  exact (runs_next (emit_keeps (Keeps.upd h0)))

theorem execUsdoTimeout_keeps {s0 : State} {a0 : ℕ} {a1 : State} (h1 : Keeps s0 a1) : Runs s0 (execUsdoTimeout a0 a1) := by
  unfold execUsdoTimeout
  extract_lets +onlyGivenNames x0
  clear_value x0
  split
  · exact (runs_next (reply_keeps (dropClient_keeps h1)))
  · exact (runs_next h1)

theorem execVerifyAndWrite_keeps {s0 : State} {a0 : Path} {a1 : State} (h1 : Keeps s0 a1) : Runs s0 (execVerifyAndWrite a0 a1) := by
  unfold execVerifyAndWrite
  exact (runs_next (writeBy_keeps h1))

theorem usdoPart_keeps {s0 : State} {a0 : State} {a1 : ℕ} {a2 : ℕ} {a3 : List Byte} (h0 : Keeps s0 a0) : Keeps s0 (usdoPart a0 a1 a2 a3) := by
  unfold usdoPart
  exact (emit_keeps h0)

theorem usdoUpload_keeps {s0 : State} {a0 : State} {a1 : ℕ} {a2 : ℕ} {a3 : ℕ} {a4 : ℕ} (h0 : Keeps s0 a0) : Keeps s0 (usdoUpload a0 a1 a2 a3 a4) := by
  unfold usdoUpload
  extract_lets +onlyGivenNames x0
  clear_value x0
  extract_lets +onlyGivenNames x1
  clear_value x1
  extract_lets +onlyGivenNames x2
  clear_value x2
  extract_lets +onlyGivenNames x3
  have g3 : Keeps s0 x3 := (dropClient_keeps h0)
  clear_value x3
  extract_lets +onlyGivenNames x4
  unfold x4
  clear x4
  split
  · extract_lets +onlyGivenNames x5
    clear_value x5
    exact (keeps_ite (reply_keeps g3) (usdoPart_keeps (keeps_ite g3 (Keeps.upd g3))))
  · split
    · exact (usdoPart_keeps (keeps_ite g3 (Keeps.upd g3)))
    · exact (reply_keeps g3)

theorem sendUdpBytes_keeps {s0 : State} {a0 : State} {a1 : ℕ} {a2 : ℕ} {a3 : List Byte} (h0 : Keeps s0 a0) : Keeps s0 (sendUdpBytes a0 a1 a2 a3) := by
  unfold sendUdpBytes
  exact (emit_keeps h0)

theorem sendUdp_keeps {s0 : State} {a0 : State} {a1 : ℕ} {a2 : ℕ} {a3 : ℕ} {a4 : List Byte} (h0 : Keeps s0 a0) : Keeps s0 (sendUdp a0 a1 a2 a3 a4) := by
  unfold sendUdp
  exact (emit_keeps (Keeps.upd h0))

theorem udpRead_keeps {s0 : State} {a0 : State} {a1 : ℕ} {a2 : ℕ} {a3 : BitVec 256} (h0 : Keeps s0 a0) : Keeps s0 (udpRead a0 a1 a2 a3) := by
  unfold udpRead
  extract_lets +onlyGivenNames x0
  clear_value x0
  extract_lets +onlyGivenNames x1
  clear_value x1
  extract_lets +onlyGivenNames x2
  clear_value x2
  extract_lets +onlyGivenNames x3
  clear_value x3
  extract_lets +onlyGivenNames x4
  unfold x4
  clear x4
  extract_lets +onlyGivenNames x5
  unfold x5
  clear x5
  split
  · extract_lets +onlyGivenNames x6
    clear_value x6
    extract_lets +onlyGivenNames x7
    have h7 : Keeps s0 x7 := (Keeps.upd h0)
    clear_value x7
    exact (keeps_ite (sendUdp_keeps h7) (sendUdp_keeps (Keeps.upd h7)))
  · split
    · exact (sendUdp_keeps h0)
    · exact (sendUdp_keeps h0)

theorem execChipNumber_keeps {s0 : State} {a0 : Path} {a1 : ℕ} {a2 : State} (h2 : Keeps s0 a2) : Runs s0 (execChipNumber a0 a1 a2) := by
  unfold execChipNumber
  exact (runs_next (writeBy_keeps h2))

theorem execRestoreDefaults_keeps {s0 : State} {a0 : Path} {a1 : W32} {a2 : State} (h2 : Keeps s0 a2) : Runs s0 (execRestoreDefaults a0 a1 a2) := by
  unfold execRestoreDefaults
  exact (runs_next (writeBy_keeps h2))

theorem dropTransfer_keeps {s0 : State} {a0 : State} {a1 : Path} {a2 : ℕ} {a3 : ℕ} (h0 : Keeps s0 a0) : Keeps s0 (dropTransfer a0 a1 a2 a3) := by
  unfold dropTransfer
  exact (Keeps.upd h0)

theorem writeSegment_keeps {s0 : State} {a0 : State} {a1 : Path} {a2 : ℕ} {a3 : ℕ} {a4 : ℕ} {a5 : List Byte} {a6 : Bool} (h0 : Keeps s0 a0) : Keeps s0 (writeSegment a0 a1 a2 a3 a4 a5 a6).1 := by
  unfold writeSegment
  dsimp only
  split
  · dsimp only
    exact (dropTransfer_keeps h0)
  · exact (keeps_ite_fst (dictWrite_keeps (dropTransfer_keeps h0)) (keeps_ite_fst (dropTransfer_keeps h0) (Keeps.upd (dropTransfer_keeps h0))))

theorem execUsdo_keeps {s0 : State} {a0 : ℕ} {a1 : UsdoReq} {a2 : State} (h2 : Keeps s0 a2) : Runs s0 (execUsdo a0 a1 a2) := by
  unfold execUsdo
  extract_lets +onlyGivenNames x0
  clear_value x0
  split
  · exact (runs_next h2)
  · split
    · exact (runs_next (reply_keeps (dropClient_keeps h2)))
    · split
      · exact (runs_next (usdoUpload_keeps h2))
      · extract_lets +onlyGivenNames x1
        clear_value x1
        extract_lets +onlyGivenNames x2
        have g2 : Keeps s0 x2 := (dropClient_keeps h2)
        clear_value x2
        extract_lets +onlyGivenNames x3
        have g3 : Keeps s0 x3.1 := (writeSegment_keeps (Keeps.upd g2))
        clear_value x3
        exact (runs_next (reply_keeps g3))

theorem execNmt_keeps {s0 : State} {a0 : ℕ} {a1 : ℕ} {a2 : State} (h2 : Keeps s0 a2) : Runs s0 (execNmt a0 a1 a2) := by
  unfold execNmt
  split
  · exact (runs_next h2)
  · split
    · exact (runs_next (Keeps.upd h2))
    · exact (runs_next (Keeps.upd h2))
    · exact (runs_next (Keeps.upd h2))
    · extract_lets +onlyGivenNames x0
      have g0 : Keeps s0 x0 := (Keeps.upd h2)
      clear_value x0
      extract_lets +onlyGivenNames x1
      have g1 : Keeps s0 x1 := (Keeps.upd g0)
      clear_value x1
      exact (runs_next (bootUp_keeps (keeps_ite (strapCan_keeps g1) (applyCan_keeps g1))))
    · extract_lets +onlyGivenNames x2
      have g2 : Keeps s0 x2 := (Keeps.upd h2)
      clear_value x2
      extract_lets +onlyGivenNames x3
      have g3 : Keeps s0 x3 := (Keeps.upd g2)
      clear_value x3
      exact (runs_next (bootUp_keeps (keeps_ite (strapCan_keeps g3) (applyCan_keeps g3))))
    · exact (runs_next h2)

theorem writeVecReg_keeps {s0 : State} {a0 : ℕ} {a1 : VecState → VecState} {a2 : State} (h2 : Keeps s0 a2) : Keeps s0 (writeVecReg a0 a1 a2) := by
  unfold writeVecReg
  exact (keeps_ite (modVec_keeps h2) h2)

theorem execRegisterWrite_keeps {s0 : State} {a0 : Path} {a1 : RegTarget} {a2 : List Byte} {a3 : State} (h3 : Keeps s0 a3) : Runs s0 (execRegisterWrite a0 a1 a2 a3) := by
  unfold execRegisterWrite
  extract_lets +onlyGivenNames x0
  clear_value x0
  split
  · exact (runs_next (writeBy_keeps h3))
  · exact (runs_next (writeVecReg_keeps h3))
  · exact (runs_next (writeVecReg_keeps h3))
  · exact (runs_next (writeVecReg_keeps h3))
  · exact (runs_next (writeVecReg_keeps h3))
  · exact (runs_next (writeVecReg_keeps h3))
  · exact (ctlStore_keeps h3)
  · exact (runs_next (ctlLoad_keeps h3))

theorem execUpdateWriteComplete_keeps {s0 : State} {a0 : Bool} {a1 : State} (h1 : Keeps s0 a1) : Runs s0 (execUpdateWriteComplete a0 a1) := by
  unfold execUpdateWriteComplete
  split
  · exact (runs_next h1)
  · extract_lets +onlyGivenNames x0
    have g0 : Keeps s0 x0 := (Keeps.upd h1)
    clear_value x0
    split
    · extract_lets +onlyGivenNames x1
      clear_value x1
      extract_lets +onlyGivenNames x2
      have g2 : Keeps s0 x2 := (addJournal_keeps (Keeps.upd g0))
      clear_value x2
      exact (runs_next (sampleStandby_keeps (updateEvent_keeps (dset_keeps (dset_keeps g2)))))
    · extract_lets +onlyGivenNames x3
      have g3 : Keeps s0 x3 := (cutWrite_keeps g0)
      clear_value x3
      exact (runs_next (updateEvent_keeps (dset_keeps (dset_keeps g3))))

theorem execUdpTransferTimeout_keeps {s0 : State} {a0 : ℕ} {a1 : ℕ} {a2 : ℕ} {a3 : ℕ} {a4 : State} (h4 : Keeps s0 a4) : Runs s0 (execUdpTransferTimeout a0 a1 a2 a3 a4) := by
  unfold execUdpTransferTimeout
  split
  · split
    · exact (runs_next (dropTransfer_keeps h4))
    · exact (runs_next h4)
  · exact (runs_next h4)

theorem execHeartbeat_keeps {s0 : State} {a0 : State} (h0 : Keeps s0 a0) : Runs s0 (execHeartbeat a0) := by
  unfold execHeartbeat
  extract_lets +onlyGivenNames x0
  clear_value x0
  split
  · exact (runs_next h0)
  · exact (runs_next (emit_keeps (Keeps.upd h0)))

theorem execUdpRead_keeps {s0 : State} {a0 : ℕ} {a1 : ℕ} {a2 : BitVec 256} {a3 : List Byte} {a4 : State} (h4 : Keeps s0 a4) : Runs s0 (execUdpRead a0 a1 a2 a3 a4) := by
  unfold execUdpRead
  split
  · exact (runs_next h4)
  · split
    · exact (runs_next (sendUdpBytes_keeps h4))
    · split
      · exact (runs_next (sendUdp_keeps h4))
      · exact (runs_next (udpRead_keeps h4))

theorem execStoreAll_keeps {s0 : State} {a0 : Path} {a1 : W32} {a2 : Bool} {a3 : State} (h3 : Keeps s0 a3) : Runs s0 (execStoreAll a0 a1 a2 a3) := by
  unfold execStoreAll
  split
  · exact (runs_next h3)
  · split
    · exact (runs_next h3)
    · extract_lets +onlyGivenNames x0
      clear_value x0
      extract_lets +onlyGivenNames x1
      have h1 : Keeps s0 x1.1 := by
        unfold x1
        clear x1
        split
        · exact h3
        · exact (writeStore_keeps h3)
      clear_value x1
      exact (runs_next (reply_keeps h1))

theorem execUdpWrite_keeps {s0 : State} {a0 : ℕ} {a1 : ℕ} {a2 : BitVec 256} {a3 : List Byte} {a4 : State} (h4 : Keeps s0 a4) : Runs s0 (execUdpWrite a0 a1 a2 a3 a4) := by
  unfold execUdpWrite
  split
  · exact (runs_next h4)
  · split
    · exact (runs_next (sendUdpBytes_keeps h4))
    · split
      · exact (runs_next (sendUdp_keeps h4))
      · extract_lets +onlyGivenNames x0
        have g0 : Keeps s0 x0.1 := (writeSegment_keeps h4)
        clear_value x0
        exact (runs_next (sendUdp_keeps g0))

theorem execQuoteNonce_keeps {s0 : State} {a0 : Path} {a1 : List Byte} {a2 : State} (h2 : Keeps s0 a2) : Runs s0 (execQuoteNonce a0 a1 a2) := by
  unfold execQuoteNonce
  exact (runs_next (writeBy_keeps h2))

theorem execPaceRole_keeps {s0 : State} {a0 : Path} {a1 : ℕ} {a2 : State} (h2 : Keeps s0 a2) : Runs s0 (execPaceRole a0 a1 a2) := by
  unfold execPaceRole
  exact (runs_next (writeBy_keeps h2))

theorem execDiscard_keeps {s0 : State} {a0 : Path} {a1 : State} (h1 : Keeps s0 a1) : Runs s0 (execDiscard a0 a1) := by
  unfold execDiscard
  exact (runs_next (writeBy_keeps h1))

theorem execQuoteReady_keeps {s0 : State} {a0 : State} (h0 : Keeps s0 a0) : Runs s0 (execQuoteReady a0) := by
  unfold execQuoteReady
  split
  · exact (runs_next h0)
  · split
    · exact (runs_next h0)
    · extract_lets +onlyGivenNames x0
      clear_value x0
      exact (runs_next (Keeps.upd h0))

theorem execPortControl_keeps {s0 : State} {a0 : Path} {a1 : ℕ} {a2 : ℕ} {a3 : State} (h3 : Keeps s0 a3) : Runs s0 (execPortControl a0 a1 a2 a3) := by
  unfold execPortControl
  exact (runs_next (keeps_ite (writeBy_keeps h3) h3))

end Sys2Proof.Machine
end

