-- ==== Sys2Proof/Laws/KeepNet.lean ====
section
/-! SUPPORT. What the operations of Machine/Net.lean keep. -/

namespace Sys2Proof.Machine

theorem execEthernetLinkState_keeps {s0 : State} {a0 : ℕ} {a1 : Bool} {a2 : State} (h2 : Keeps s0 a2) : Runs s0 (execEthernetLinkState a0 a1 a2) := by
  unfold execEthernetLinkState
  split
  · exact (runs_next (setEthernet_keeps h2))
  · exact (runs_next h2)

theorem rejectRecord_keeps {s0 : State} {a0 : State} {a1 : ℕ} (h0 : Keeps s0 a0) : Keeps s0 (rejectRecord a0 a1) := by
  unfold rejectRecord
  exact (closeSession_keeps (dadd_keeps h0))

theorem failSetUp_keeps {s0 : State} {a0 : State} {a1 : ℕ} (h0 : Keeps s0 a0) : Keeps s0 (failSetUp a0 a1) := by
  unfold failSetUp
  exact (closeSession_keeps (dadd_keeps h0))

theorem setSession_keeps {s0 : State} {a0 : State} {a1 : ℕ} {a2 : Session} (h0 : Keeps s0 a0) : Keeps s0 (setSession a0 a1 a2) := by
  unfold setSession
  exact (Keeps.updSessions h0 fun e => tabSet_rises _ e _ _)

theorem execAuth_keeps {s0 : State} {a0 : ℕ} {a1 : Bool} {a2 : RecordIn} {a3 : List Byte} {a4 : List Byte} {a5 : State} (h5 : Keeps s0 a5) : Runs s0 (execAuth a0 a1 a2 a3 a4 a5) := by
  unfold execAuth
  split
  · exact (runs_next h5)
  · split
    · exact (runs_next (rejectRecord_keeps h5))
    · split
      · exact (runs_next (failSetUp_keeps h5))
      · split
        · exact (runs_next (failSetUp_keeps h5))
        · split
          · exact (runs_next (failSetUp_keeps h5))
          · extract_lets +onlyGivenNames x0
            have g0 : Keeps s0 x0 := (dadd_keeps (setSession_keeps h5))
            clear_value x0
            exact (runs_next (sendStarter_keeps g0))

theorem closeSpent_keeps {s0 : State} {a0 : State} {a1 : ℕ} (h0 : Keeps s0 a0) : Keeps s0 (closeSpent a0 a1) := by
  unfold closeSpent
  split
  · exact (keeps_ite (closeSession_keeps h0) h0)
  · exact h0

theorem execSessionIdleTimeout_keeps {s0 : State} {a0 : ℕ} {a1 : State} (h1 : Keeps s0 a1) : Runs s0 (execSessionIdleTimeout a0 a1) := by
  unfold execSessionIdleTimeout
  split
  · split
    · exact (runs_next (closeSession_keeps h1))
    · exact (runs_next h1)
  · exact (runs_next h1)

theorem readOutbox_keeps {s0 : State} {a0 : ℕ} {a1 : ℕ} {a2 : ℕ} {a3 : List ℕ} {a4 : ℕ} {a5 : ℕ} {a6 : State} (h6 : Keeps s0 a6) : Keeps s0 (readOutbox a0 a1 a2 a3 a4 a5 a6).1 := by
  induction a4 generalizing a5 a6 with
  | zero => exact h6
  | succ k ih =>
    unfold readOutbox
    extract_lets +onlyGivenNames a r v
    have hr : Keeps s0 r.1 := checkRead_keeps h6
    clear_value v r
    split
    · exact hr
    · exact ih hr

theorem execSessionSetupTimeout_keeps {s0 : State} {a0 : ℕ} {a1 : State} (h1 : Keeps s0 a1) : Runs s0 (execSessionSetupTimeout a0 a1) := by
  unfold execSessionSetupTimeout
  split
  · split
    · exact (runs_next (failSetUp_keeps h1))
    · exact (runs_next h1)
  · exact (runs_next h1)

theorem execEthernetFrame_keeps {s0 : State} {a0 : ℕ} {a1 : List Byte} {a2 : State} (h2 : Keeps s0 a2) : Runs s0 (execEthernetFrame a0 a1 a2) := by
  unfold execEthernetFrame
  split
  · exact (runs_next h2)
  · split
    · exact (runs_next (releasePaused_keeps (Keeps.upd h2)))
    · split
      · exact (runs_next h2)
      · extract_lets +onlyGivenNames x0
        clear_value x0
        split
        · exact (runs_next (takeIpv4_keeps h2))
        · split
          · exact (runs_next (takeIpv6_keeps h2))
          · split
            · exact (runs_next (takeArp_keeps h2))
            · exact (runs_next h2)

theorem settleServes_keeps {s0 : State} {a0 : State} {a1 : ℕ} (h0 : Keeps s0 a0) : Keeps s0 (settleServes a0 a1) := by
  unfold settleServes
  extract_lets +onlyGivenNames x0
  clear_value x0
  exact (Keeps.upd h0)

theorem endServe_keeps {s0 : State} {a0 : State} {a1 : ℕ} {a2 : ℕ} {a3 : ℕ} (h0 : Keeps s0 a0) : Keeps s0 (endServe a0 a1 a2 a3) := by
  unfold endServe
  split
  · exact h0
  · extract_lets +onlyGivenNames x0
    have h0 : Keeps s0 x0 := (keeps_ite h0 (sendStarter_keeps h0))
    clear_value x0
    exact (settleServes_keeps (Keeps.upd h0))

theorem flushTokens_keeps {s0 : State} {a0 : State} {a1 : List (ℕ × List ℕ)} {a2 : ℕ} (h0 : Keeps s0 a0) : Keeps s0 (flushTokens a0 a1 a2) := by
  unfold flushTokens
  split
  · exact h0
  · extract_lets +onlyGivenNames x0
    clear_value x0
    extract_lets +onlyGivenNames x1
    have h1 : Keeps s0 x1 := (Keeps.upd h0)
    clear_value x1
    exact (sendStarter_keeps h1)

theorem takeOutbox_keeps {s0 : State} {a0 : ℕ} {a1 : State × List (ℕ × List ℕ)} {a2 : ℕ} (h1 : Keeps s0 a1.1) : Keeps s0 (takeOutbox a0 a1 a2).1 := by
  unfold takeOutbox
  dsimp only
  split
  · split
    · dsimp only
      exact (dadd_keeps h1)
    · split
      · dsimp only
        exact h1
      · dsimp only
        exact h1
  · split
    · dsimp only
      exact (dadd_keeps h1)
    · dsimp only
      exact (endServe_keeps (flushTokens_keeps h1))

theorem execHello_keeps {s0 : State} {a0 : ℕ} {a1 : ℕ} {a2 : List Byte} {a3 : List Byte} {a4 : RecordIn} {a5 : State} (h5 : Keeps s0 a5) : Runs s0 (execHello a0 a1 a2 a3 a4 a5) := by
  unfold execHello
  split
  · exact (runs_next h5)
  · split
    · exact (runs_next (rejectRecord_keeps h5))
    · split
      · exact (runs_next (failSetUp_keeps h5))
      · extract_lets +onlyGivenNames x0
        have g0 : Keeps s0 x0.2 := (freeBytes_keeps h5)
        clear_value x0
        extract_lets +onlyGivenNames x1
        have g1 : Keeps s0 x1.2 := (takeFree_keeps g0)
        clear_value x1
        extract_lets +onlyGivenNames x2
        clear_value x2
        extract_lets +onlyGivenNames x3
        clear_value x3
        extract_lets +onlyGivenNames x4
        clear_value x4
        extract_lets +onlyGivenNames x5
        have g5 : Keeps s0 x5 := (setSession_keeps g1)
        clear_value x5
        exact (runs_next (sendStarter_keeps g5))

theorem startJob_keeps {s0 : State} {a0 : State} {a1 : ℕ} {a2 : ℕ} {a3 : ℕ} {a4 : ℕ} (h0 : Keeps s0 a0) : Keeps s0 (startJob a0 a1 a2 a3 a4) := by
  unfold startJob
  split
  · exact (sendResult_keeps h0)
  · split
    · exact (sendResult_keeps h0)
    · extract_lets +onlyGivenNames x0
      clear_value x0
      split
      · exact (sendResult_keeps h0)
      · split
        · exact (sendResult_keeps h0)
        · extract_lets +onlyGivenNames x1
          have g1 : Keeps s0 x1 := (modHeat_keeps (dset_keeps h0))
          clear_value x1
          extract_lets +onlyGivenNames x2
          have g2 : Keeps s0 x2.1 := (startHeat_keeps g1)
          clear_value x2
          exact (keeps_ite g2 (sendResult_keeps (modHeat_keeps g2)))

theorem onMessage_keeps {s0 : State} {a0 : State} {a1 : ℕ} {a2 : ℕ} {a3 : ℕ → Bool} {a4 : State → State} (h0 : Keeps s0 a0) (h4 : ∀ v4_0, Keeps v4_0 (a4 v4_0)) : Keeps s0 (onMessage a0 a1 a2 a3 a4) := by
  unfold onMessage
  split
  · split
    · exact h0
    · extract_lets +onlyGivenNames x0
      have g0 : Keeps s0 x0 := (touchSession_keeps h0)
      clear_value x0
      exact (closeSpent_keeps (keeps_ite (g0.trans (h4 _)) (sendResult_keeps g0)))
  · exact h0

theorem snapAction_keeps {s0 : State} {a0 : ℕ} {a1 : ℕ} {a2 : ℕ} {a3 : HState → Bool} {a4 : State → State × ℕ} {a5 : State} (h4 : ∀ v4_0, Keeps v4_0 (a4 v4_0).1) (h5 : Keeps s0 a5) : Keeps s0 (snapAction a0 a1 a2 a3 a4 a5) := by
  unfold snapAction
  refine (onMessage_keeps h5 (fun y0_0 => (keeps_ite (sendResult_keeps (Keeps.refl _)) ?_)))
  extract_lets +onlyGivenNames x1
  have g1 : Keeps y0_0 x1.1 := (h4 _)
  clear_value x1
  exact (sendResult_keeps g1)

theorem execSnapshotCancel_keeps {s0 : State} {a0 : ℕ} {a1 : ℕ} {a2 : ℕ} {a3 : State} (h3 : Keeps s0 a3) : Runs s0 (execSnapshotCancel a0 a1 a2 a3) := by
  unfold execSnapshotCancel
  refine (runs_next ?_)
  refine (snapAction_keeps ?_ h3)
  intro z2
  dsimp only
  exact (modHeat_keeps (Keeps.refl _))

theorem rejectPlan_keeps {s0 : State} {a0 : State} {a1 : ℕ} {a2 : ℕ} {a3 : ℕ} {a4 : Option (List Byte)} (h0 : Keeps s0 a0) : Keeps s0 (rejectPlan a0 a1 a2 a3 a4) := by
  unfold rejectPlan
  extract_lets +onlyGivenNames x0
  have g0 : Keeps s0 x0 := by
    unfold x0
    clear x0
    split
    · exact (raise_keeps h0)
    · exact h0
  clear_value x0
  exact (sendResult_keeps g0)

theorem execStatusReq_keeps {s0 : State} {a0 : ℕ} {a1 : ℕ} {a2 : List (ℕ × ℕ)} {a3 : State} (h3 : Keeps s0 a3) : Runs s0 (execStatusReq a0 a1 a2 a3) := by
  unfold execStatusReq
  exact (runs_next (onMessage_keeps h3 (fun y0_0 => (keeps_ite (sendResult_keeps (Keeps.refl _)) (sendStarter_keeps (Keeps.refl _))))))

theorem addConns_keeps {s0 : State} {a0 : State} {a1 : Plan} (h0 : Keeps s0 a0) : Keeps s0 (addConns a0 a1) := by
  unfold addConns
  exact (Keeps.upd h0)

theorem execCancel_keeps {s0 : State} {a0 : ℕ} {a1 : ℕ} {a2 : ℕ} {a3 : State} (h3 : Keeps s0 a3) : Runs s0 (execCancel a0 a1 a2 a3) := by
  unfold execCancel
  refine (runs_next (onMessage_keeps h3 (fun y0_0 => ?_)))
  split
  · exact (sendResult_keeps (Keeps.refl _))
  · extract_lets +onlyGivenNames x1
    have g1 : Keeps y0_0 x1.1 := (inboxFree_keeps (Keeps.refl _))
    clear_value x1
    exact (keeps_ite (sendResult_keeps g1) (sendResult_keeps (cancelServe_keeps (Keeps.refl _))))

theorem modPlan_keeps {s0 : State} {a0 : State} {a1 : ℕ} {a2 : Installed → Installed} (h0 : Keeps s0 a0) : Keeps s0 (modPlan a0 a1 a2) := by
  unfold modPlan
  exact (Keeps.upd h0)

theorem forgetImage_keeps {s0 : State} {a0 : State} {a1 : ℕ} {a2 : ℕ} (h0 : Keeps s0 a0) : Keeps s0 (forgetImage a0 a1 a2) := by
  unfold forgetImage
  exact (modPlan_keeps h0)

theorem checkImage_keeps {s0 : State} {a0 : State} {a1 : ℕ} {a2 : ℕ} {a3 : ℕ} {a4 : ℕ} {a5 : PlanImage} (h0 : Keeps s0 a0) : Keeps s0 (checkImage a0 a1 a2 a3 a4 a5) := by
  unfold checkImage
  extract_lets +onlyGivenNames x0
  have g0 : Keeps s0 x0.1 := (checkRead_keeps h0)
  clear_value x0
  split
  · exact (sendResult_keeps (forgetImage_keeps g0))
  · extract_lets +onlyGivenNames x1
    clear_value x1
    extract_lets +onlyGivenNames x2
    have g2 : Keeps s0 x2 := (modPlan_keeps g0)
    clear_value x2
    exact (keeps_ite (sendResult_keeps g2) (sendResult_keeps g2))

theorem takeImage_keeps {s0 : State} {a0 : State} {a1 : ℕ} {a2 : ℕ} {a3 : Installed} {a4 : ℕ} {a5 : ℕ} {a6 : List Byte} (h0 : Keeps s0 a0) : Keeps s0 (takeImage a0 a1 a2 a3 a4 a5 a6) := by
  unfold takeImage
  split
  · exact (sendResult_keeps h0)
  · split
    · exact (sendResult_keeps h0)
    · extract_lets +onlyGivenNames x0
      clear_value x0
      extract_lets +onlyGivenNames x1
      have g1 : Keeps s0 x1.1 := (storeStack_keeps h0)
      clear_value x1
      split
      · exact (sendResult_keeps (forgetImage_keeps g1))
      · extract_lets +onlyGivenNames x2
        clear_value x2
        extract_lets +onlyGivenNames x3
        have g3 : Keeps s0 x3 := (modPlan_keeps g1)
        clear_value x3
        exact (keeps_ite (checkImage_keeps g3) (sendResult_keeps g3))

theorem installPlan_keeps {s0 : State} {a0 : State} {a1 : Plan} (h0 : Keeps s0 a0) : Keeps s0 (installPlan a0 a1) := by
  unfold installPlan
  extract_lets +onlyGivenNames x0
  clear_value x0
  extract_lets +onlyGivenNames x1
  clear_value x1
  extract_lets +onlyGivenNames x2
  have g2 : Keeps s0 x2 := (dropTargets_keeps h0)
  clear_value x2
  extract_lets +onlyGivenNames x3
  have g3 : Keeps s0 x3 := (plansRecord_keeps (Keeps.upd g2))
  clear_value x3
  exact (plansChanged_keeps g3)

theorem execAbandon_keeps {s0 : State} {a0 : ℕ} {a1 : ℕ} {a2 : ℕ} {a3 : State} (h3 : Keeps s0 a3) : Runs s0 (execAbandon a0 a1 a2 a3) := by
  unfold execAbandon
  exact (runs_next (snapAction_keeps (fun y0_0 => (abandonRestart_keeps (Keeps.refl _))) h3))

theorem installHeatPlan_keeps {s0 : State} {a0 : State} {a1 : Plan} {a2 : ℕ} (h0 : Keeps s0 a0) : Keeps s0 (installHeatPlan a0 a1 a2) := by
  unfold installHeatPlan
  extract_lets +onlyGivenNames x0
  have h0 : Keeps s0 x0 := (addConns_keeps (installPlan_keeps h0))
  clear_value x0
  extract_lets +onlyGivenNames x1
  have h1 : Keeps s0 x1 := (domSet_keeps h0)
  clear_value x1
  exact (keeps_ite (modHeat_keeps h1) h1)

theorem tryWrites_keeps {s0 : State} {a0 : State} {a1 : Path} {a2 : List PlanWrite} {t : State} (h0 : Keeps s0 a0) (e : tryWrites a0 a1 a2 = .ok t) : Keeps s0 t := by
  induction a2 generalizing a0 with
  | nil => cases e; exact h0
  | cons w l ih =>
    unfold tryWrites at e
    split at e
    · cases e
    · dsimp only at e
      split at e
      · cases e
      · exact ih (dictWrite_keeps h0) e

theorem submitPlan_keeps {s0 : State} {a0 : State} {a1 : ℕ} {a2 : ℕ} {a3 : RawPlan} (h0 : Keeps s0 a0) : Keeps s0 (submitPlan a0 a1 a2 a3) := by
  unfold submitPlan
  extract_lets +onlyGivenNames p
  clear_value p
  refine keeps_ite (sendResult_keeps h0) ?_
  split
  · exact rejectPlan_keeps h0
  · refine keeps_ite (rejectPlan_keeps h0) (keeps_ite (sendResult_keeps (installPlan_keeps h0)) ?_)
    split
    · exact sendResult_keeps h0
    · exact rejectPlan_keeps h0
    · exact sendResult_keeps (installHeatPlan_keeps (tryWrites_keeps h0 (by assumption)))

theorem execPlanSubmit_keeps {s0 : State} {a0 : ℕ} {a1 : ℕ} {a2 : List Byte} {a3 : State} (h3 : Keeps s0 a3) : Runs s0 (execPlanSubmit a0 a1 a2 a3) := by
  unfold execPlanSubmit
  refine (runs_next (onMessage_keeps h3 (fun y0_0 => ?_)))
  split
  · exact (rejectPlan_keeps (Keeps.refl _))
  · exact (submitPlan_keeps (Keeps.refl _))

theorem execTake_keeps {s0 : State} {a0 : ℕ} {a1 : ℕ} {a2 : ℕ} {a3 : ℕ} {a4 : State} (h4 : Keeps s0 a4) : Runs s0 (execTake a0 a1 a2 a3 a4) := by
  unfold execTake
  refine (runs_next ?_)
  refine (snapAction_keeps ?_ h4)
  intro z2
  split
  · dsimp only
    exact (Keeps.refl _)
  · dsimp only
    exact (modHeat_keeps (Keeps.refl _))

theorem execImageData_keeps {s0 : State} {a0 : ℕ} {a1 : ℕ} {a2 : ℕ} {a3 : ℕ} {a4 : List Byte} {a5 : State} (h5 : Keeps s0 a5) : Runs s0 (execImageData a0 a1 a2 a3 a4 a5) := by
  unfold execImageData
  refine (runs_next (onMessage_keeps h5 (fun y0_0 => ?_)))
  split
  · exact (sendResult_keeps (Keeps.refl _))
  · exact (takeImage_keeps (Keeps.refl _))

theorem execJobStart_keeps {s0 : State} {a0 : ℕ} {a1 : ℕ} {a2 : ℕ} {a3 : W64} {a4 : State} (h4 : Keeps s0 a4) : Runs s0 (execJobStart a0 a1 a2 a3 a4) := by
  unfold execJobStart
  exact (runs_next (onMessage_keeps h4 (fun y0_0 => (startJob_keeps (Keeps.refl _)))))

theorem admitServe_keeps {s0 : State} {a0 : State} {a1 : ℕ} {a2 : ℕ} {a3 : ℕ} {a4 : ℕ} {a5 : ℕ} {a6 : List W32} (h0 : Keeps s0 a0) : Keeps s0 (admitServe a0 a1 a2 a3 a4 a5 a6) := by
  unfold admitServe
  split
  · exact (sendResult_keeps h0)
  · extract_lets +onlyGivenNames x0
    have g0 : Keeps s0 x0.1 := (inboxFree_keeps h0)
    clear_value x0
    extract_lets +onlyGivenNames x1
    have g1 : Keeps s0 x1 := g0
    clear_value x1
    split
    · exact (sendResult_keeps g1)
    · exact (sendResult_keeps g1)
    · split
      · exact (sendResult_keeps g1)
      · extract_lets +onlyGivenNames x2
        clear_value x2
        extract_lets +onlyGivenNames x3
        have g3 : Keeps s0 x3 := (Keeps.updServeHead g1 fun e => tabSet_rises _ e _ _)
        clear_value x3
        extract_lets +onlyGivenNames x4
        have g4 : Keeps s0 x4 := (storeStack_keeps g3)
        clear_value x4
        exact (inboxPut_keeps g4)

theorem execServeReq_keeps {s0 : State} {a0 : ℕ} {a1 : ℕ} {a2 : ℕ} {a3 : ℕ} {a4 : BitVec 256} {a5 : List W32} {a6 : State} (h6 : Keeps s0 a6) : Runs s0 (execServeReq a0 a1 a2 a3 a4 a5 a6) := by
  unfold execServeReq
  exact (runs_next (onMessage_keeps h6 (fun y0_0 => (admitServe_keeps (Keeps.refl _)))))

theorem execClose_keeps {s0 : State} {a0 : ℕ} {a1 : State} (h1 : Keeps s0 a1) : Runs s0 (execClose a0 a1) := by
  unfold execClose
  exact (runs_next (closeSession_keeps h1))

theorem execPeriod_keeps {s0 : State} {a0 : ℕ} {a1 : ℕ} {a2 : ℕ} {a3 : ℕ} {a4 : State} (h4 : Keeps s0 a4) : Runs s0 (execPeriod a0 a1 a2 a3 a4) := by
  unfold execPeriod
  exact (runs_next (snapAction_keeps (fun y0_0 => (keeps_ite_fst (dset_keeps (Keeps.refl _)) (Keeps.refl _))) h4))

theorem drainOutbox_keeps {s0 : State} {a0 : ℕ} {a1 : ℕ} {a2 : ℕ} {a3 : List ℕ} {a4 : ℕ} {a5 : ℕ} {a6 : State} (h6 : Keeps s0 a6) : Keeps s0 (drainOutbox a0 a1 a2 a3 a4 a5 a6) := by
  unfold drainOutbox
  extract_lets +onlyGivenNames x0
  have g0 : Keeps s0 x0.1 := (readOutbox_keeps h6)
  clear_value x0
  extract_lets +onlyGivenNames x1
  have g1 : Keeps s0 x1.1 := (keeps_foldl_fst g0 fun u2 v2 => (takeOutbox_keeps (Keeps.refl _)))
  clear_value x1
  extract_lets +onlyGivenNames x3
  have g3 : Keeps s0 x3 := (keeps_foldl g1 fun u4 v4 => (flushTokens_keeps (Keeps.refl _)))
  clear_value x3
  exact (storeStack_keeps g3)

theorem closeAllSpent_keeps {s0 : State} {a0 : State} (h0 : Keeps s0 a0) : Keeps s0 (closeAllSpent a0) := by
  unfold closeAllSpent
  exact (keeps_foldl h0 fun u0 v0 => (closeSpent_keeps (Keeps.refl _)))

theorem execTcpConnection_keeps {s0 : State} {a0 : ℕ} {a1 : ℕ} {a2 : State} (h2 : Keeps s0 a2) : Runs s0 (execTcpConnection a0 a1 a2) := by
  unfold execTcpConnection
  split
  · exact (runs_next h2)
  · split
    · exact (runs_next (emit_keeps h2))
    · extract_lets +onlyGivenNames x0
      clear_value x0
      extract_lets +onlyGivenNames x1
      have h1 : Keeps s0 x1 := (Keeps.updSessions h2 fun e => tabSet_rises _ e _ _)
      clear_value x1
      exact (runs_next (emit_keeps h1))

theorem execPing_keeps {s0 : State} {a0 : ℕ} {a1 : ℕ} {a2 : State} (h2 : Keeps s0 a2) : Runs s0 (execPing a0 a1 a2) := by
  unfold execPing
  exact (runs_next (onMessage_keeps h2 (fun y0_0 => (sendResult_keeps (Keeps.refl _)))))

theorem execRestart_keeps {s0 : State} {a0 : ℕ} {a1 : ℕ} {a2 : ℕ} {a3 : State} (h3 : Keeps s0 a3) : Runs s0 (execRestart a0 a1 a2 a3) := by
  unfold execRestart
  exact (runs_next (snapAction_keeps (fun y0_0 => (raise_keeps (Keeps.refl _))) h3))

theorem execOutboxPoll_keeps {s0 : State} {a0 : ℕ} {a1 : List ℕ} {a2 : State} (h2 : Keeps s0 a2) : Runs s0 (execOutboxPoll a0 a1 a2) := by
  unfold execOutboxPoll
  extract_lets +onlyGivenNames x0
  clear_value x0
  extract_lets +onlyGivenNames x1
  clear_value x1
  split
  · exact (runs_next h2)
  · extract_lets +onlyGivenNames x2
    have g2 : Keeps s0 x2 := (payCancels_keeps h2)
    clear_value x2
    extract_lets +onlyGivenNames x3
    have g3 : Keeps s0 x3.1 := (ringHeader_keeps g2)
    clear_value x3
    split
    · exact (runs_next g3)
    · extract_lets +onlyGivenNames x4
      have g4 : Keeps s0 x4 := (noteRing_keeps g3)
      clear_value x4
      split
      · exact (runs_next g4)
      · exact (runs_next (closeAllSpent_keeps (drainOutbox_keeps g4)))

theorem execPlanRemove_keeps {s0 : State} {a0 : ℕ} {a1 : ℕ} {a2 : ℕ} {a3 : State} (h3 : Keeps s0 a3) : Runs s0 (execPlanRemove a0 a1 a2 a3) := by
  unfold execPlanRemove
  extract_lets +onlyGivenNames x0
  unfold x0
  clear x0
  exact (runs_next (onMessage_keeps h3 (fun y1_0 => (keeps_ite (sendResult_keeps (removePlans_keeps (Keeps.refl _))) (sendResult_keeps (Keeps.refl _))))))

end Sys2Proof.Machine
end

