-- ==== Sys2Proof/Laws/KeepStorage.lean ====
section
/-! SUPPORT. What the operations of Machine/Storage.lean keep. -/

namespace Sys2Proof.Machine

theorem sendPdu_keeps {s0 : State} {a0 : State} {a1 : ℕ} {a2 : ℕ} {a3 : String} {a4 : ℕ} {a5 : List Byte} (h0 : Keeps s0 a0) : Keeps s0 (sendPdu a0 a1 a2 a3 a4 a5) := by
  unfold sendPdu
  extract_lets +onlyGivenNames x0
  clear_value x0
  exact (emit_keeps h0)

theorem completeStore_keeps {s0 : State} {a0 : State} {a1 : ℕ} {a2 : ℕ} {a3 : ℕ} {a4 : ℕ} (h0 : Keeps s0 a0) : Keeps s0 (completeStore a0 a1 a2 a3 a4) := by
  unfold completeStore
  extract_lets +onlyGivenNames x0
  clear_value x0
  extract_lets +onlyGivenNames x1
  clear_value x1
  extract_lets +onlyGivenNames x2
  clear_value x2
  extract_lets +onlyGivenNames x3
  have g3 : Keeps s0 x3 := (storeStack_keeps h0)
  clear_value x3
  extract_lets +onlyGivenNames x4
  have g4 : Keeps s0 x4 := (dadd_keeps (modHeat_keeps g3))
  clear_value x4
  exact (keeps_ite (ringNotify_keeps g4) g4)

theorem spoilRead_keeps {s0 : State} {a0 : State} {a1 : ℕ} {a2 : ℕ} (h0 : Keeps s0 a0) : Keeps s0 (spoilRead a0 a1 a2) := by
  unfold spoilRead
  split
  · exact h0
  · extract_lets +onlyGivenNames x0
    have g0 : Keeps s0 x0.2 := (freeBytes_keeps h0)
    clear_value x0
    exact (storeStack_keeps g0)

theorem endNvme_keeps {s0 : State} {a0 : State} {a1 : Nvme} (h0 : Keeps s0 a0) : Keeps s0 (endNvme a0 a1) := by
  unfold endNvme
  extract_lets +onlyGivenNames x0
  have g0 : Keeps s0 x0 := (Keeps.upd h0)
  clear_value x0
  split
  · exact g0
  · extract_lets +onlyGivenNames x1
    unfold x1
    clear x1
    split
    · exact (Keeps.upd g0)
    · extract_lets +onlyGivenNames x2
      have g2 : Keeps s0 x2 := (Keeps.upd g0)
      clear_value x2
      split
      · exact (completeStore_keeps g2)
      · extract_lets +onlyGivenNames x3
        have g3 : Keeps s0 x3 := (keeps_ite (spoilRead_keeps g2) g2)
        clear_value x3
        exact (completeStore_keeps g3)

theorem failRequest_keeps {s0 : State} {a0 : State} {a1 : ℕ} {a2 : ℕ} {a3 : ℕ} {a4 : ℕ} (h0 : Keeps s0 a0) : Keeps s0 (failRequest a0 a1 a2 a3 a4) := by
  unfold failRequest
  exact (Keeps.upd h0)

theorem sendNvme_keeps {s0 : State} {a0 : State} {a1 : Nvme} (h0 : Keeps s0 a0) : Keeps s0 (sendNvme a0 a1) := by
  unfold sendNvme
  extract_lets +onlyGivenNames x0
  clear_value x0
  split
  · exact (emit_keeps h0)
  · extract_lets +onlyGivenNames x1
    have g1 : Keeps s0 x1.1 := (checkRead_keeps h0)
    clear_value x1
    extract_lets +onlyGivenNames x2
    clear_value x2
    exact (keeps_ite (keeps_ite (emit_keeps g1) (emit_keeps (emit_keeps g1))) (endNvme_keeps (failRequest_keeps g1)))

theorem trySend_keeps {s0 : State} {a0 : State} {a1 : ℕ} (h0 : Keeps s0 a0) : Keeps s0 (trySend a0 a1) := by
  unfold trySend
  split
  · exact h0
  · exact (keeps_ite h0 (sendNvme_keeps (Keeps.upd h0)))

theorem pumpNvme_keeps {s0 : State} {a0 : State} {a1 : ℕ} (h0 : Keeps s0 a0) : Keeps s0 (pumpNvme a0 a1) := by
  unfold pumpNvme
  exact (keeps_foldl h0 fun u0 v0 => (trySend_keeps (Keeps.refl _)))

theorem modConn_keeps {s0 : State} {a0 : State} {a1 : ℕ} {a2 : ℕ} {a3 : Conn → Conn} (h0 : Keeps s0 a0) : Keeps s0 (modConn a0 a1 a2 a3) := by
  unfold modConn
  exact (Keeps.upd h0)

theorem execStorageTargetTimeout_keeps {s0 : State} {a0 : ℕ} {a1 : ℕ} {a2 : State} (h2 : Keeps s0 a2) : Runs s0 (execStorageTargetTimeout a0 a1 a2) := by
  unfold execStorageTargetTimeout
  split
  · exact (runs_next h2)
  · split
    · exact (runs_next h2)
    · extract_lets +onlyGivenNames x0
      clear_value x0
      exact (runs_next (keeps_foldl h2 fun u1 v1 => (endNvme_keeps (failRequest_keeps (Keeps.refl _)))))

theorem takeRequest_keeps {s0 : State} {a0 : State} {a1 : ℕ} {a2 : ℕ} {a3 : ℕ} (h0 : Keeps s0 a0) : Keeps s0 (takeRequest a0 a1 a2 a3) := by
  unfold takeRequest
  split
  · exact (completeStore_keeps h0)
  · split
    · exact (completeStore_keeps h0)
    · extract_lets +onlyGivenNames x0
      clear_value x0
      split
      · exact (completeStore_keeps h0)
      · extract_lets +onlyGivenNames x1
        clear_value x1
        extract_lets +onlyGivenNames x2
        clear_value x2
        exact (Keeps.upd h0)

theorem takeRequests_keeps {s0 : State} {a0 : ℕ} {a1 : ℕ} {a2 : ℕ} {a3 : ℕ} {a4 : ℕ} {a5 : State} (h5 : Keeps s0 a5) : Keeps s0 (takeRequests a0 a1 a2 a3 a4 a5) := by
  induction a3 generalizing a4 a5 with
  | zero => exact h5
  | succ k ih =>
    unfold takeRequests
    extract_lets +onlyGivenNames a r
    have hr : Keeps s0 r.1 := checkRead_keeps h5
    clear_value r
    split
    · exact hr
    · exact ih (takeRequest_keeps (storeStack_keeps hr))

theorem execStorageRingPoll_keeps {s0 : State} {a0 : ℕ} {a1 : State} (h1 : Keeps s0 a1) : Runs s0 (execStorageRingPoll a0 a1) := by
  unfold execStorageRingPoll
  extract_lets +onlyGivenNames x0
  clear_value x0
  extract_lets +onlyGivenNames x1
  clear_value x1
  split
  · exact (runs_next h1)
  · extract_lets +onlyGivenNames x2
    have g2 : Keeps s0 x2.1 := (ringHeader_keeps h1)
    clear_value x2
    split
    · exact (runs_next g2)
    · extract_lets +onlyGivenNames x3
      have g3 : Keeps s0 x3 := (noteRing_keeps g2)
      clear_value x3
      split
      · exact (runs_next g3)
      · extract_lets +onlyGivenNames x4
        have g4 : Keeps s0 x4 := (modHeat_keeps g3)
        clear_value x4
        exact (runs_next (pumpNvme_keeps (takeRequests_keeps g4)))

theorem openConnection_keeps {s0 : State} {a0 : State} {a1 : ℕ} {a2 : ℕ} (h0 : Keeps s0 a0) : Keeps s0 (openConnection a0 a1 a2) := by
  unfold openConnection
  split
  · exact h0
  · extract_lets +onlyGivenNames x0
    clear_value x0
    extract_lets +onlyGivenNames x1
    unfold x1
    clear x1
    extract_lets +onlyGivenNames x2
    have g2 : Keeps s0 x2 := (emit_keeps h0)
    clear_value x2
    extract_lets +onlyGivenNames x3
    have g3 : Keeps s0 x3 := (sendPdu_keeps (sendPdu_keeps g2))
    clear_value x3
    extract_lets +onlyGivenNames x4
    have g4 : Keeps s0 x4 := (sendPdu_keeps g3)
    clear_value x4
    exact (keeps_foldl g4 fun u5 v5 => (sendPdu_keeps (Keeps.refl _)))

theorem execStorageReconnect_keeps {s0 : State} {a0 : ℕ} {a1 : ℕ} {a2 : Option Digests} {a3 : State} (h3 : Keeps s0 a3) : Runs s0 (execStorageReconnect a0 a1 a2 a3) := by
  unfold execStorageReconnect
  split
  · exact (runs_next h3)
  · split
    · split
      · extract_lets +onlyGivenNames x0
        have g0 : Keeps s0 x0 := (modConn_keeps h3)
        clear_value x0
        exact (runs_next (Keeps.upd g0))
      · exact (runs_next h3)
    · split
      · split
        · exact (runs_next h3)
        · extract_lets +onlyGivenNames x1
          have g1 : Keeps s0 x1 := (modConn_keeps (keeps_ite (dadd_keeps h3) h3))
          clear_value x1
          extract_lets +onlyGivenNames x2
          have g2 : Keeps s0 x2 := (openConnection_keeps g1)
          clear_value x2
          extract_lets +onlyGivenNames x3
          clear_value x3
          exact (runs_next (pumpNvme_keeps (keeps_foldl g2 fun u4 v4 => (sendNvme_keeps (Keeps.refl _)))))
      · split
        · exact (runs_next h3)
        · extract_lets +onlyGivenNames x5
          have g5 : Keeps s0 x5 := (modConn_keeps (keeps_ite (dadd_keeps h3) h3))
          clear_value x5
          extract_lets +onlyGivenNames x6
          have g6 : Keeps s0 x6 := (openConnection_keeps g5)
          clear_value x6
          extract_lets +onlyGivenNames x7
          clear_value x7
          exact (runs_next (pumpNvme_keeps (keeps_foldl g6 fun u8 v8 => (sendNvme_keeps (Keeps.refl _)))))

theorem keepAlive_keeps {s0 : State} {a0 : State} (h0 : Keeps s0 a0) : Keeps s0 (keepAlive a0) := by
  unfold keepAlive
  extract_lets +onlyGivenNames x0
  unfold x0
  clear x0
  exact (keeps_foldl (Keeps.upd h0) fun u1 v1 => (emit_keeps (Keeps.refl _)))

theorem execNvmeCompletion_keeps {s0 : State} {a0 : ℕ} {a1 : ℕ} {a2 : ℕ} {a3 : List Byte} {a4 : State} (h4 : Keeps s0 a4) : Runs s0 (execNvmeCompletion a0 a1 a2 a3 a4) := by
  unfold execNvmeCompletion
  split
  · exact (runs_next h4)
  · split
    · exact (runs_next (Keeps.upd h4))
    · extract_lets +onlyGivenNames x0
      have g0 : Keeps s0 x0.1 := (storeStack_keeps h4)
      clear_value x0
      extract_lets +onlyGivenNames x1
      have g1 : Keeps s0 x1 := (keeps_ite (failRequest_keeps h4) (keeps_ite (keeps_ite g0 (failRequest_keeps g0)) h4))
      clear_value x1
      exact (runs_next (pumpNvme_keeps (endNvme_keeps g1)))

end Sys2Proof.Machine
end

