-- ==== Sys2Proof/Laws/KeepPower.lean ====
section
/-! SUPPORT. What the operations of Machine/Power.lean keep. -/

namespace Sys2Proof.Machine

theorem showSample_keeps {s0 : State} {a0 : State} {a1 : Readings} (h0 : Keeps s0 a0) : Keeps s0 (showSample a0 a1) := by
  unfold showSample
  extract_lets +onlyGivenNames x0
  unfold x0
  clear x0
  extract_lets +onlyGivenNames x1
  have h1 : Keeps s0 x1 := (domSet_keeps h0)
  clear_value x1
  extract_lets +onlyGivenNames x2
  have h2 : Keeps s0 x2 := (dset_keeps h1)
  clear_value x2
  extract_lets +onlyGivenNames x3
  have h3 : Keeps s0 x3 := (domSet_keeps (domSet_keeps h2))
  clear_value x3
  extract_lets +onlyGivenNames x4
  have h4 : Keeps s0 x4 := (dset_keeps h3)
  clear_value x4
  extract_lets +onlyGivenNames x5
  have h5 : Keeps s0 x5 := (keeps_ite (domSet_keeps h4) h4)
  clear_value x5
  split
  · extract_lets +onlyGivenNames x6
    have h6 : Keeps s0 x6 := (dset_keeps h5)
    clear_value x6
    extract_lets +onlyGivenNames x7
    have h7 : Keeps s0 x7 := (dset_keeps h6)
    clear_value x7
    exact (domSet_keeps h7)
  · exact h5

theorem setPower_keeps {s0 : State} {a0 : State} {a1 : PowerState → PowerState} (h0 : Keeps s0 a0) : Keeps s0 (setPower a0 a1) := by
  unfold setPower
  exact (Keeps.upd h0)

theorem trip_keeps {s0 : State} {a0 : State} {a1 : Bool} (h0 : Keeps s0 a0) : Keeps s0 (trip a0 a1) := by
  unfold trip
  extract_lets +onlyGivenNames x0
  clear_value x0
  extract_lets +onlyGivenNames x1
  have g1 : Keeps s0 x1 := (keeps_ite (Keeps.upd h0) h0)
  clear_value x1
  exact (keeps_ite g1 (raise_keeps g1))

theorem thermal_keeps {s0 : State} {a0 : State} (h0 : Keeps s0 a0) : Keeps s0 (thermal a0) := by
  unfold thermal
  extract_lets +onlyGivenNames x0
  clear_value x0
  extract_lets +onlyGivenNames x1
  clear_value x1
  extract_lets +onlyGivenNames x2
  clear_value x2
  extract_lets +onlyGivenNames x3
  clear_value x3
  extract_lets +onlyGivenNames x4
  have h4 : Keeps s0 x4 := (setPower_keeps h0)
  clear_value x4
  extract_lets +onlyGivenNames x5
  have h5 : Keeps s0 x5 := (keeps_ite (raise_keeps h4) h4)
  clear_value x5
  exact (keeps_ite (trip_keeps h5) h5)

theorem showDrift_keeps {s0 : State} {a0 : State} {a1 : List (ℕ × ℤ)} (h0 : Keeps s0 a0) : Keeps s0 (showDrift a0 a1) := by
  unfold showDrift
  exact (keeps_foldl h0 fun u0 v0 => (domPut_keeps (Keeps.refl _)))

theorem takeUpset_keeps {s0 : State} {a0 : State} {a1 : Upset} (h0 : Keeps s0 a0) : Keeps s0 (takeUpset a0 a1) := by
  unfold takeUpset
  extract_lets +onlyGivenNames x0
  clear_value x0
  extract_lets +onlyGivenNames x1
  clear_value x1
  extract_lets +onlyGivenNames x2
  unfold x2
  clear x2
  split
  · exact (raise_keeps h0)
  · split
    · exact (raise_keeps (modCluster_keeps h0))
    · exact h0
    · split
      · exact (raise_keeps h0)
      · exact (raise_keeps h0)
      · exact (raise_keeps h0)

theorem conditionEvent_keeps {s0 : State} {a0 : State} {a1 : List Byte} (h0 : Keeps s0 a0) : Keeps s0 (conditionEvent a0 a1) := by
  unfold conditionEvent
  exact (raise_keeps h0)

theorem inletRules_keeps {s0 : State} {a0 : State} (h0 : Keeps s0 a0) : Keeps s0 (inletRules a0) := by
  unfold inletRules
  split
  · exact h0
  · extract_lets +onlyGivenNames x0
    clear_value x0
    extract_lets +onlyGivenNames x1
    clear_value x1
    extract_lets +onlyGivenNames x2
    clear_value x2
    extract_lets +onlyGivenNames x3
    clear_value x3
    extract_lets +onlyGivenNames x4
    clear_value x4
    extract_lets +onlyGivenNames x5
    clear_value x5
    extract_lets +onlyGivenNames x6
    clear_value x6
    extract_lets +onlyGivenNames x7
    have h7 : Keeps s0 x7 := (setPower_keeps h0)
    clear_value x7
    extract_lets +onlyGivenNames x8
    clear_value x8
    extract_lets +onlyGivenNames x9
    have h9 : Keeps s0 x9 := (keeps_ite (conditionEvent_keeps h7) h7)
    clear_value x9
    exact (keeps_ite (conditionEvent_keeps h9) h9)

theorem countMs_keeps {s0 : State} {a0 : State} (h0 : Keeps s0 a0) : Keeps s0 (countMs a0) := by
  unfold countMs
  extract_lets +onlyGivenNames x0
  clear_value x0
  extract_lets +onlyGivenNames x1
  clear_value x1
  extract_lets +onlyGivenNames x2
  have h2 : Keeps s0 x2 := (setPower_keeps h0)
  clear_value x2
  extract_lets +onlyGivenNames x3
  have h3 : Keeps s0 x3 := (keeps_ite (dadd_keeps h2) h2)
  clear_value x3
  exact (keeps_ite (dadd_keeps h3) h3)

theorem execBackstopTrip_keeps {s0 : State} {a0 : State} (h0 : Keeps s0 a0) : Runs s0 (execBackstopTrip a0) := by
  unfold execBackstopTrip
  split
  · exact (runs_next h0)
  · split
    · exact (runs_next (Keeps.upd h0))
    · extract_lets +onlyGivenNames x0
      clear_value x0
      extract_lets +onlyGivenNames x1
      have g1 : Keeps s0 x1 := (raise_keeps (Keeps.upd h0))
      clear_value x1
      exact (runs_next (keeps_ite (powerDown_keeps g1) (setStage_keeps (loseHeats_keeps g1))))

theorem execThrottleHeldLog_keeps {s0 : State} {a0 : State} (h0 : Keeps s0 a0) : Runs s0 (execThrottleHeldLog a0) := by
  unfold execThrottleHeldLog
  split
  · split
    · exact (runs_next h0)
    · exact (runs_next (raise_keeps (setPower_keeps h0)))
  · exact (runs_next h0)

theorem execThermalTermStep_keeps {s0 : State} {a0 : State} (h0 : Keeps s0 a0) : Runs s0 (execThermalTermStep a0) := by
  unfold execThermalTermStep
  extract_lets +onlyGivenNames x0
  clear_value x0
  extract_lets +onlyGivenNames x1
  clear_value x1
  split
  · exact (runs_next h0)
  · extract_lets +onlyGivenNames x2
    have h2 : Keeps s0 x2 := (setPower_keeps h0)
    clear_value x2
    split
    · exact (runs_next h2)
    · split
      · exact (runs_next (governor_keeps (setPower_keeps h2)))
      · split
        · exact (runs_next (governor_keeps (setPower_keeps h2)))
        · exact (runs_next h2)

theorem countSupply_keeps {s0 : State} {a0 : State} (h0 : Keeps s0 a0) : Keeps s0 (countSupply a0) := by
  unfold countSupply
  exact (dadd_keeps h0)

theorem supply_keeps {s0 : State} {a0 : State} {a1 : Readings} (h0 : Keeps s0 a0) : Keeps s0 (supply a0 a1) := by
  unfold supply
  extract_lets +onlyGivenNames x0
  clear_value x0
  extract_lets +onlyGivenNames x1
  clear_value x1
  extract_lets +onlyGivenNames x2
  clear_value x2
  extract_lets +onlyGivenNames x3
  clear_value x3
  extract_lets +onlyGivenNames x4
  clear_value x4
  extract_lets +onlyGivenNames x5
  clear_value x5
  extract_lets +onlyGivenNames x6
  have g6 : Keeps s0 x6 := (setPower_keeps h0)
  clear_value x6
  extract_lets +onlyGivenNames x7
  clear_value x7
  extract_lets +onlyGivenNames x8
  clear_value x8
  extract_lets +onlyGivenNames x9
  have g9 : Keeps s0 x9 := (setPower_keeps g6)
  clear_value x9
  extract_lets +onlyGivenNames x10
  have g10 : Keeps s0 x10 := (keeps_ite (conditionEvent_keeps (countSupply_keeps g9)) g9)
  clear_value x10
  extract_lets +onlyGivenNames x11
  have g11 : Keeps s0 x11 := (keeps_ite (countSupply_keeps g10) g10)
  clear_value x11
  extract_lets +onlyGivenNames x12
  have g12 : Keeps s0 x12 := (keeps_ite (countSupply_keeps g11) g11)
  clear_value x12
  extract_lets +onlyGivenNames x13
  have g13 : Keeps s0 x13 := (keeps_ite (countSupply_keeps g12) g12)
  clear_value x13
  exact (keeps_ite (trip_keeps g13) g13)

theorem reportFailed_keeps {s0 : State} {a0 : State} {a1 : List (ℕ × ℕ)} (h0 : Keeps s0 a0) : Keeps s0 (reportFailed a0 a1) := by
  unfold reportFailed
  exact (keeps_foldl h0 fun u0 v0 => (raise_keeps (Keeps.upd (Keeps.refl _))))

theorem execChannelLinkLoss_keeps {s0 : State} {a0 : ℕ} {a1 : State} (h1 : Keeps s0 a1) : Runs s0 (execChannelLinkLoss a0 a1) := by
  unfold execChannelLinkLoss
  split
  · exact (runs_next h1)
  · extract_lets +onlyGivenNames x0
    have h0 : Keeps s0 x0 := by
      unfold x0
      clear x0
      exact (markRetire_keeps h1)
    clear_value x0
    extract_lets +onlyGivenNames x1
    have h1 : Keeps s0 x1 := (Keeps.upd h0)
    clear_value x1
    exact (runs_next (raise_keeps h1))

theorem execCanBusOffRecovery_keeps {s0 : State} {a0 : Bool} {a1 : State} (h1 : Keeps s0 a1) : Runs s0 (execCanBusOffRecovery a0 a1) := by
  unfold execCanBusOffRecovery
  split
  · exact (runs_next h1)
  · refine (runs_next ?_)
    extract_lets +onlyGivenNames x0
    have h0 : Keeps s0 x0 := (keeps_ite (dadd_keeps h1) h1)
    clear_value x0
    exact (Keeps.upd h0)

theorem flowRule_keeps {s0 : State} {a0 : State} (h0 : Keeps s0 a0) : Keeps s0 (flowRule a0) := by
  unfold flowRule
  extract_lets +onlyGivenNames x0
  clear_value x0
  extract_lets +onlyGivenNames x1
  clear_value x1
  extract_lets +onlyGivenNames x2
  have g2 : Keeps s0 x2 := (dset_keeps h0)
  clear_value x2
  extract_lets +onlyGivenNames x3
  clear_value x3
  extract_lets +onlyGivenNames x4
  clear_value x4
  extract_lets +onlyGivenNames x5
  clear_value x5
  extract_lets +onlyGivenNames x6
  have g6 : Keeps s0 x6 := (setPower_keeps g2)
  clear_value x6
  exact (keeps_ite (conditionEvent_keeps g6) g6)

theorem execSensorSample_keeps {s0 : State} {a0 : Readings} {a1 : State} (h1 : Keeps s0 a1) : Runs s0 (execSensorSample a0 a1) := by
  unfold execSensorSample
  split
  · exact (runs_next h1)
  · extract_lets +onlyGivenNames x0
    clear_value x0
    extract_lets +onlyGivenNames x1
    have g1 : Keeps s0 x1 := (keeps_foldl (showDrift_keeps (showSample_keeps h1)) fun u2 v2 => (takeUpset_keeps (Keeps.refl _)))
    clear_value x1
    extract_lets +onlyGivenNames x3
    have g3 : Keeps s0 x3 := (reportFailed_keeps (setPower_keeps g1))
    clear_value x3
    extract_lets +onlyGivenNames x4
    have g4 : Keeps s0 x4 := (flowRule_keeps (inletRules_keeps (thermal_keeps (supply_keeps g3))))
    clear_value x4
    extract_lets +onlyGivenNames x5
    have g5 : Keeps s0 x5 := (countMs_keeps (governor_keeps g4))
    clear_value x5
    exact (runs_next (setPower_keeps g5))

theorem execThrottleN_keeps {s0 : State} {a0 : Bool} {a1 : ℕ} {a2 : State} (h2 : Keeps s0 a2) : Runs s0 (execThrottleN a0 a1 a2) := by
  unfold execThrottleN
  split
  · exact (runs_next h2)
  · extract_lets +onlyGivenNames x0
    have h0 : Keeps s0 x0.1 := (filterTakes_keeps h2)
    clear_value x0
    split
    · exact (runs_next h0)
    · extract_lets +onlyGivenNames x1
      have h1 : Keeps s0 x1 := h0
      clear_value x1
      extract_lets +onlyGivenNames x2
      clear_value x2
      extract_lets +onlyGivenNames x3
      have h3 : Keeps s0 x3 := (Keeps.upd h1)
      clear_value x3
      extract_lets +onlyGivenNames x4
      have h4 : Keeps s0 x4 := (setPower_keeps h3)
      clear_value x4
      exact (runs_next (governor_keeps (keeps_ite (dadd_keeps h4) h4)))

end Sys2Proof.Machine
end

