-- ==== Sys2Proof/Laws/KeepDispatch.lean ====
section
/-! SUPPORT. What the operations of Machine/Dispatch.lean keep. -/

namespace Sys2Proof.Machine

theorem exec_keeps {s0 : State} {a0 : Instr} {a1 : State} (h1 : Keeps s0 a1) : Runs s0 (exec a0 a1) := by
  unfold exec
  split
  · exact (execDoorbell_keeps h1)
  · exact (execRing_keeps h1)
  · exact (execCommandReachesHead_keeps h1)
  · exact (execCommandStart_keeps h1)
  · exact (execNotBeforeTime_keeps h1)
  · exact (execCompletionRecord_keeps h1)
  · exact (execNop_keeps h1)
  · exact (execWaitQueue_keeps h1)
  · exact (execGemmTile_keeps h1)
  · exact (execDiagEw_keeps h1)
  · exact (execVecRun_keeps h1)
  · exact (execDmaCopy_keeps h1)
  · exact (execQuantStream_keeps h1)
  · exact (execReduceScatter_keeps h1)
  · exact (execAllGather_keeps h1)
  · exact (execBatonExchange_keeps h1)
  · exact (execRelay_keeps h1)
  · exact (execGradOpen_keeps h1)
  · exact (execUpdCoefSet_keeps h1)
  · exact (execUpdateLayer_keeps h1)
  · exact (execNormSet_keeps h1)
  · exact (execPolicySet_keeps h1)
  · exact (execStepEnd_keeps h1)
  · exact (execLayerSet_keeps h1)
  · exact (execProgLoad_keeps h1)
  · exact (execCacheInv_keeps h1)
  · exact (execAddOrderOpen_keeps h1)
  · exact (execQueueSet_keeps h1)
  · exact (execTestWindow_keeps h1)
  · exact (execTileRepeat_keeps h1)
  · exact (execHeldContributionTaken_keeps h1)
  · exact (execStagedContributionAdd_keeps h1)
  · exact (execPatrolScrub_keeps h1)
  · exact (execInDieCountRead_keeps h1)
  · exact (execHandoffRoom_keeps h1)
  · exact (execVrun_keeps h1)
  · exact (execVectorBlockStart_keeps h1)
  · exact (execBlockDone_keeps h1)
  · exact (execCompletionRegister_keeps h1)
  · exact (execSummaryValueStore_keeps h1)
  · exact (execLapLimit_keeps h1)
  · exact (execVectorNop_keeps h1)
  · exact (execFadd_keeps h1)
  · exact (execFsub_keeps h1)
  · exact (execFmul_keeps h1)
  · exact (execFma_keeps h1)
  · exact (execFms_keeps h1)
  · exact (execFnma_keeps h1)
  · exact (execFmax_keeps h1)
  · exact (execFmin_keeps h1)
  · exact (execFabs_keeps h1)
  · exact (execFneg_keeps h1)
  · exact (execFcsgn_keeps h1)
  · exact (execFrnd_keeps h1)
  · exact (execFscale_keeps h1)
  · exact (execFrcp_keeps h1)
  · exact (execFrsqrt_keeps h1)
  · exact (execFexp2_keeps h1)
  · exact (execFlog2_keeps h1)
  · exact (execFtanh_keeps h1)
  · exact (execFsqrt_keeps h1)
  · exact (execIadd_keeps h1)
  · exact (execIsub_keeps h1)
  · exact (execImul_keeps h1)
  · exact (execImax_keeps h1)
  · exact (execImin_keeps h1)
  · exact (execAnd_keeps h1)
  · exact (execOr_keeps h1)
  · exact (execXor_keeps h1)
  · exact (execAndn_keeps h1)
  · exact (execShl_keeps h1)
  · exact (execShr_keeps h1)
  · exact (execFcmp_keeps h1)
  · exact (execIcmp_keeps h1)
  · exact (execVsel_keeps h1)
  · exact (execMand_keeps h1)
  · exact (execMor_keeps h1)
  · exact (execMxor_keeps h1)
  · exact (execMnot_keeps h1)
  · exact (execMset_keeps h1)
  · exact (execVmov_keeps h1)
  · exact (execVidx_keeps h1)
  · exact (execVtos_keeps h1)
  · exact (execCvtfi_keeps h1)
  · exact (execCvtif_keeps h1)
  · exact (execPackb_keeps h1)
  · exact (execUnpkb_keeps h1)
  · exact (execCvth_keeps h1)
  · exact (execVld_keeps h1)
  · exact (execVst_keeps h1)
  · exact (execVldm_keeps h1)
  · exact (execVstm_keeps h1)
  · exact (execSetvl_keeps h1)
  · exact (execRclr_keeps h1)
  · exact (execRtap_keeps h1)
  · exact (execRwait_keeps h1)
  · exact (execVrng_keeps h1)
  · exact (execVrngu_keeps h1)
  · exact (execVrngb_keeps h1)
  · exact (execVqh_keeps h1)
  · exact (execFence_keeps h1)
  · exact (execVend_keeps h1)
  · exact (execPhotoFinish_keeps h1)
  · exact (execStart_keeps h1)
  · exact (execStop_keeps h1)
  · exact (execResume_keeps h1)
  · exact (execRelease_keeps h1)
  · exact (execDiscoveryMatch_keeps h1)
  · exact (execStopComplete_keeps h1)
  · exact (execReleaseComplete_keeps h1)
  · exact (execLapStart_keeps h1)
  · exact (execLapBeacon_keeps h1)
  · exact (execDelayRequest_keeps h1)
  · exact (execDelayResponse_keeps h1)
  · exact (execHoldoverTimeout_keeps h1)
  · exact (execPaceLossDeclared_keeps h1)
  · exact (execPaceInEdge_keeps h1)
  · exact (execPaceInStuck_keeps h1)
  · exact (execPaceInFrequencyCheck_keeps h1)
  · exact (execPaceInRecovered_keeps h1)
  · exact (execPortControl_keeps h1)
  · exact (execPortTraining_keeps h1)
  · exact (execLaneLock_keeps h1)
  · exact (execTrainingTimeout_keeps h1)
  · exact (execLaneLockLoss_keeps h1)
  · exact (execFlitGroup_keeps h1)
  · exact (execReadReq_keeps h1)
  · exact (execReadResp_keeps h1)
  · exact (execWrite_keeps h1)
  · exact (execMemOp_keeps h1)
  · exact (execAck_keeps h1)
  · exact (execNak_keeps h1)
  · exact (execBackoffExpiry_keeps h1)
  · exact (execRestartRetryLimit_keeps h1)
  · exact (execRemoteTimeout_keeps h1)
  · exact (execDiscoveryRecord_keeps h1)
  · exact (execDiscoverySend_keeps h1)
  · exact (execDiscoveryTimeout_keeps h1)
  · exact (execCollReady_keeps h1)
  · exact (execCollCounts_keeps h1)
  · exact (execCollGrant_keeps h1)
  · exact (execCollData_keeps h1)
  · exact (execCollAck_keeps h1)
  · exact (execCollHeld_keeps h1)
  · exact (execCollResume_keeps h1)
  · exact (execCollBusy_keeps h1)
  · exact (execCollBusyResend_keeps h1)
  · exact (execCollRefuse_keeps h1)
  · exact (execCollEnd_keeps h1)
  · exact (execCollectiveWaitExpiry_keeps h1)
  · exact (execEventHandling_keeps h1)
  · exact (execFault_keeps h1)
  · exact (execInventory_keeps h1)
  · exact (execRestore_keeps h1)
  · exact (execRestored_keeps h1)
  · exact (execNoticeResume_keeps h1)
  · exact (execNoSnapshot_keeps h1)
  · exact (execOnBehalfTimeout_keeps h1)
  · exact (execInventoryWaitExpiry_keeps h1)
  · exact (execLeadTimeout_keeps h1)
  · exact (execRestoreRepeat_keeps h1)
  · exact (execRestoreComplete_keeps h1)
  · exact (execResumeLap_keeps h1)
  · exact (execSnapshotLap_keeps h1)
  · exact (execSnapshotOwnWritten_keeps h1)
  · exact (execSnapshotCommitCheck_keeps h1)
  · exact (execSnapshotBuddySend_keeps h1)
  · exact (execSnapshotBuddyWritten_keeps h1)
  · exact (execSpareRotation_keeps h1)
  · exact (execSpareMove_keeps h1)
  · exact (execSpareTakeover_keeps h1)
  · exact (execSpareTestComplete_keeps h1)
  · exact (execTestOverdue_keeps h1)
  · exact (execMonitorFlag_keeps h1)
  · exact (execMarginPlanCheck_keeps h1)
  · exact (execInputValid_keeps h1)
  · exact (execInputInvalid_keeps h1)
  · exact (execStrapLatch_keeps h1)
  · exact (execResetN_keeps h1)
  · exact (execWatchdogExpiry_keeps h1)
  · exact (execPwrEn_keeps h1)
  · exact (execWarmUpWave_keeps h1)
  · exact (execMemoryTestComplete_keeps h1)
  · exact (execSelfTestComplete_keeps h1)
  · exact (execLinkTrainingEnd_keeps h1)
  · exact (execWakeTokenRequest_keeps h1)
  · exact (execWakeTokenGrant_keeps h1)
  · exact (execCoreIdleTimeout_keeps h1)
  · exact (execUpdateImage_keeps h1)
  · exact (execVerifyAndWrite_keeps h1)
  · exact (execDiscard_keeps h1)
  · exact (execUpdateWriteComplete_keeps h1)
  · exact (execRecoveryAnnounce_keeps h1)
  · exact (execUdpRead_keeps h1)
  · exact (execUdpWrite_keeps h1)
  · exact (execUdpTransferTimeout_keeps h1)
  · exact (execUsdo_keeps h1)
  · exact (execUsdoTimeout_keeps h1)
  · exact (execNmt_keeps h1)
  · exact (execHeartbeat_keeps h1)
  · exact (execRegisterWrite_keeps h1)
  · exact (execStoreAll_keeps h1)
  · exact (execRestoreDefaults_keeps h1)
  · exact (execChipNumber_keeps h1)
  · exact (execPowerClass_keeps h1)
  · exact (execPaceRole_keeps h1)
  · exact (execQuoteNonce_keeps h1)
  · exact (execQuoteReady_keeps h1)
  · exact (execUnlockToken_keeps h1)
  · exact (execRelock_keeps h1)
  · exact (execBypass_keeps h1)
  · exact (execIdcode_keeps h1)
  · exact (execSamplePreload_keeps h1)
  · exact (execExtest_keeps h1)
  · exact (execEthernetFrame_keeps h1)
  · exact (execTcpConnection_keeps h1)
  · exact (execHello_keeps h1)
  · exact (execAuth_keeps h1)
  · exact (execPing_keeps h1)
  · exact (execSessionSetupTimeout_keeps h1)
  · exact (execSessionIdleTimeout_keeps h1)
  · exact (execPlanSubmit_keeps h1)
  · exact (execImageData_keeps h1)
  · exact (execJobStart_keeps h1)
  · exact (execPlanRemove_keeps h1)
  · exact (execStatusReq_keeps h1)
  · exact (execTake_keeps h1)
  · exact (execSnapshotCancel_keeps h1)
  · exact (execRestart_keeps h1)
  · exact (execAbandon_keeps h1)
  · exact (execPeriod_keeps h1)
  · exact (execServeReq_keeps h1)
  · exact (execCancel_keeps h1)
  · exact (execClose_keeps h1)
  · exact (execStorageRingPoll_keeps h1)
  · exact (execNvmeCompletion_keeps h1)
  · exact (execStorageReconnect_keeps h1)
  · exact (execStorageTargetTimeout_keeps h1)
  · exact (execOutboxPoll_keeps h1)
  · exact (execSensorSample_keeps h1)
  · exact (execBackstopTrip_keeps h1)
  · exact (execThermalTermStep_keeps h1)
  · exact (execThrottleN_keeps h1)
  · exact (execThrottleHeldLog_keeps h1)
  · exact (execCanBusOffRecovery_keeps h1)
  · exact (execPoweredTimeSave_keeps h1)
  · exact (execChannelLinkLoss_keeps h1)
  · exact (execWindowTestComplete_keeps h1)
  · exact (execEthernetLinkState_keeps h1)

end Sys2Proof.Machine
end

