-- ==== Sys2Proof/Laws/KeepTick.lean ====
section
/-! SUPPORT. What the operations of Machine/Tick.lean keep. -/

namespace Sys2Proof.Machine

theorem settleNetwork_keeps {s0 : State} {a0 : State} (h0 : Keeps s0 a0) : Keeps s0 (settleNetwork a0) := by
  unfold settleNetwork
  exact (closeAllSpent_keeps (keepAlive_keeps (releasePaused_keeps h0)))

theorem settlePower_keeps {s0 : State} {a0 : State} (h0 : Keeps s0 a0) : Keeps s0 (settlePower a0) := by
  unfold settlePower
  split
  · exact (keeps_ite (acceptPower_keeps h0) h0)
  · exact h0

theorem tick_keeps {s0 : State} {a0 : State} (h0 : Keeps s0 a0) : Keeps s0 (tick a0) := by
  unfold tick
  split
  · exact (settleNetwork_keeps (settlePower_keeps (Keeps.upd h0)))
  · split
    · extract_lets +onlyGivenNames x0
      have g0 : Keeps s0 x0 := (passTick_keeps (openWindows_keeps h0))
      clear_value x0
      exact (settleNetwork_keeps (settlePower_keeps (Keeps.upd g0)))
    · exact h0

--     (exec c✝
--       { pending := l✝, now := a0.now, lap := a0.lap, phase := a0.phase, lapStarts := a0.lapStarts,
--         regained := a0.regained, freeCtr := a0.freeCtr, mem := a0.mem, blank := a0.blank, errs := a0.errs,
--         dict := a0.dict, dom := a0.dom, heats := a0.heats, queues := a0.queues, served := a0.served, cores := a0.cores,
--         clusters := a0.clusters, events := a0.events, lostEvents := a0.lostEvents, corrs := a0.corrs,
--         failedChannels := a0.failedChannels, scrubbed := a0.scrubbed, scrubBegan := a0.scrubBegan, plans := a0.plans,
--         poweredBase := a0.poweredBase, transients := a0.transients, retiredSlots := a0.retiredSlots,
--         corePower := a0.corePower, ports := a0.ports, txns := a0.txns, nextTxn := a0.nextTxn, colls := a0.colls,
--         early := a0.early, allocs := a0.allocs, poolHead := a0.poolHead, lapStartAt := a0.lapStartAt, slew := a0.slew,
--         sl

--     { pending := c✝ :: a0.pending, now := a0.now, lap := a0.lap, phase := a0.phase, lapStarts := a0.lapStarts,
--       regained := a0.regained, freeCtr := a0.freeCtr, mem := a0.mem, blank := a0.blank, errs := a0.errs, dict := a0.dict,
--       dom := a0.dom, heats := a0.heats, queues := a0.queues, served := a0.served, cores := a0.cores,
--       clusters := a0.clusters, events := a0.events, lostEvents := a0.lostEvents, corrs := a0.corrs,
--       failedChannels := a0.failedChannels, scrubbed := a0.scrubbed, scrubBegan := a0.scrubBegan, plans := a0.plans,
--       poweredBase := a0.poweredBase, transients := a0.transients, retiredSlots := a0.retiredSlots,
--       corePower := a0.corePower, ports := a0.ports, txns := a0.txns, nextTxn := a0.nextTxn, colls := a0.colls,
--       early := a0.early, allocs := a0.allocs, poolHead := a0.poolHead, lapStartAt := a0.lapStartAt, slew := a0.slew,
--       slewed := a0.sle

end Sys2Proof.Machine
end

