-- ==== Sys2Proof/Laws/PerInstr.lean ====
section
/-! SUPPORT. One lemma per command: a well-formed command names a unit that exists. -/

namespace Sys2Proof.Laws.F

/-- The number of the unit a command names, and how many such units there are; 0 of 1 where it names none. -/
def unitOf : Names → Nat × Nat
  | .queue q => (q, 2 ^ 18)
  | .core k => (k, 576)
  | .cluster c => (c, 64)
  | .heat h => (h, 16)
  | .port p => (p, 32)
  | .sender q => (q, 2 ^ 18 + 16)
  | .other => (0, 1)

/-- A well-formed command names a unit that the hardware has. -/
def Statement (i : Instr) : Prop := i.wf = true → (unitOf i.names).1 < (unitOf i.names).2

theorem of_names (n : Names) (h : n.ok = true) : (unitOf n).1 < (unitOf n).2 := by
  cases n <;> simp_all [Names.ok, unitOf, queueOk, coreOk, clusterOk, heatOk, portOk, senderOk]

theorem all (i : Instr) : Statement i := fun h => of_names i.names h

theorem doorbell (agent : Agent) (queue value : Nat) : Statement (.doorbell agent queue value) := all _
theorem ring (core queue value : Nat) : Statement (.ring core queue value) := all _
theorem commandReachesHead (queue : Nat) : Statement (.commandReachesHead queue) := all _
theorem commandStart (queue : Nat) : Statement (.commandStart queue) := all _
theorem notBeforeTime (queue : Nat) : Statement (.notBeforeTime queue) := all _
theorem completionRecord (queue : Nat) : Statement (.completionRecord queue) := all _
theorem nop (queue : Nat) : Statement (.nop queue) := all _
theorem waitQueue (queue : Nat) : Statement (.waitQueue queue) := all _
theorem gemmTile (queue : Nat) (nature : Nature) : Statement (.gemmTile queue nature) := all _
theorem diagEw (queue : Nat) (nature : Nature) : Statement (.diagEw queue nature) := all _
theorem vecRun (queue : Nat) : Statement (.vecRun queue) := all _
theorem dmaCopy (queue : Nat) (errs : List SectorErr) : Statement (.dmaCopy queue errs) := all _
theorem quantStream (queue : Nat) : Statement (.quantStream queue) := all _
theorem reduceScatter (queue : Nat) : Statement (.reduceScatter queue) := all _
theorem allGather (queue : Nat) : Statement (.allGather queue) := all _
theorem batonExchange (queue : Nat) : Statement (.batonExchange queue) := all _
theorem relay (queue : Nat) : Statement (.relay queue) := all _
theorem gradOpen (queue : Nat) : Statement (.gradOpen queue) := all _
theorem updCoefSet (queue : Nat) : Statement (.updCoefSet queue) := all _
theorem updateLayer (queue : Nat) : Statement (.updateLayer queue) := all _
theorem normSet (queue : Nat) : Statement (.normSet queue) := all _
theorem policySet (queue : Nat) : Statement (.policySet queue) := all _
theorem stepEnd (queue : Nat) : Statement (.stepEnd queue) := all _
theorem layerSet (queue : Nat) : Statement (.layerSet queue) := all _
theorem progLoad (queue : Nat) : Statement (.progLoad queue) := all _
theorem cacheInv (queue : Nat) : Statement (.cacheInv queue) := all _
theorem addOrderOpen (queue : Nat) : Statement (.addOrderOpen queue) := all _
theorem queueSet (queue : Nat) : Statement (.queueSet queue) := all _
theorem testWindow (queue : Nat) : Statement (.testWindow queue) := all _
theorem tileRepeat (queue : Nat) (nature : Nature) : Statement (.tileRepeat queue nature) := all _
theorem heldContributionTaken (heat region order : Nat) : Statement (.heldContributionTaken heat region order) := all _
theorem stagedContributionAdd (heat region : Nat) : Statement (.stagedContributionAdd heat region) := all _
theorem patrolScrub (sector : Nat) (errs : List (Nat × Byte)) (written : Bool) : Statement (.patrolScrub sector errs written) := all _
theorem inDieCountRead (total : Nat) : Statement (.inDieCountRead total) := all _
theorem handoffRoom (core : Nat) : Statement (.handoffRoom core) := all _
theorem vrun (core : Nat) (value : W32) : Statement (.vrun core value) := all _
theorem vectorBlockStart (core : Nat) : Statement (.vectorBlockStart core) := all _
theorem blockDone (core : Nat) : Statement (.blockDone core) := all _
theorem completionRegister (core : Nat) (value : W64) : Statement (.completionRegister core value) := all _
theorem summaryValueStore (core reg : Nat) (value : W32) : Statement (.summaryValueStore core reg value) := all _
theorem lapLimit (core : Nat) : Statement (.lapLimit core) := all _
theorem vectorNop (core : Nat) : Statement (.vectorNop core) := all _
theorem fadd (core : Nat) (res : Option VecResidue) : Statement (.fadd core res) := all _
theorem fsub (core : Nat) (res : Option VecResidue) : Statement (.fsub core res) := all _
theorem fmul (core : Nat) (res : Option VecResidue) : Statement (.fmul core res) := all _
theorem fma (core : Nat) (res : Option VecResidue) : Statement (.fma core res) := all _
theorem fms (core : Nat) (res : Option VecResidue) : Statement (.fms core res) := all _
theorem fnma (core : Nat) (res : Option VecResidue) : Statement (.fnma core res) := all _
theorem fmax (core : Nat) : Statement (.fmax core) := all _
theorem fmin (core : Nat) : Statement (.fmin core) := all _
theorem fabs (core : Nat) : Statement (.fabs core) := all _
theorem fneg (core : Nat) : Statement (.fneg core) := all _
theorem fcsgn (core : Nat) : Statement (.fcsgn core) := all _
theorem frnd (issue : VecIssue) : Statement (.frnd issue) := all _
theorem fscale (issue : VecIssue) : Statement (.fscale issue) := all _
theorem frcp (issue : VecIssue) : Statement (.frcp issue) := all _
theorem frsqrt (issue : VecIssue) : Statement (.frsqrt issue) := all _
theorem fexp2 (issue : VecIssue) : Statement (.fexp2 issue) := all _
theorem flog2 (issue : VecIssue) : Statement (.flog2 issue) := all _
theorem ftanh (issue : VecIssue) : Statement (.ftanh issue) := all _
theorem fsqrt (issue : VecIssue) : Statement (.fsqrt issue) := all _
theorem iadd (core : Nat) : Statement (.iadd core) := all _
theorem isub (core : Nat) : Statement (.isub core) := all _
theorem imul (core : Nat) : Statement (.imul core) := all _
theorem imax (core : Nat) : Statement (.imax core) := all _
theorem imin (core : Nat) : Statement (.imin core) := all _
theorem and (core : Nat) : Statement (.and core) := all _
theorem or (core : Nat) : Statement (.or core) := all _
theorem xor (core : Nat) : Statement (.xor core) := all _
theorem andn (core : Nat) : Statement (.andn core) := all _
theorem shl (core : Nat) : Statement (.shl core) := all _
theorem shr (core : Nat) : Statement (.shr core) := all _
theorem fcmp (core : Nat) : Statement (.fcmp core) := all _
theorem icmp (core : Nat) : Statement (.icmp core) := all _
theorem vsel (core : Nat) : Statement (.vsel core) := all _
theorem mand (core : Nat) : Statement (.mand core) := all _
theorem mor (core : Nat) : Statement (.mor core) := all _
theorem mxor (core : Nat) : Statement (.mxor core) := all _
theorem mnot (core : Nat) : Statement (.mnot core) := all _
theorem mset (core : Nat) : Statement (.mset core) := all _
theorem vmov (core : Nat) : Statement (.vmov core) := all _
theorem vidx (core : Nat) : Statement (.vidx core) := all _
theorem vtos (core : Nat) : Statement (.vtos core) := all _
theorem cvtfi (issue : VecIssue) : Statement (.cvtfi issue) := all _
theorem cvtif (issue : VecIssue) : Statement (.cvtif issue) := all _
theorem packb (issue : VecIssue) : Statement (.packb issue) := all _
theorem unpkb (issue : VecIssue) : Statement (.unpkb issue) := all _
theorem cvth (issue : VecIssue) : Statement (.cvth issue) := all _
theorem vld (issue : VecIssue) : Statement (.vld issue) := all _
theorem vst (issue : VecIssue) : Statement (.vst issue) := all _
theorem vldm (core : Nat) : Statement (.vldm core) := all _
theorem vstm (core : Nat) : Statement (.vstm core) := all _
theorem setvl (core : Nat) : Statement (.setvl core) := all _
theorem rclr (core : Nat) : Statement (.rclr core) := all _
theorem rtap (core : Nat) : Statement (.rtap core) := all _
theorem rwait (core : Nat) : Statement (.rwait core) := all _
theorem vrng (core : Nat) : Statement (.vrng core) := all _
theorem vrngu (core : Nat) : Statement (.vrngu core) := all _
theorem vrngb (core : Nat) : Statement (.vrngb core) := all _
theorem vqh (core : Nat) : Statement (.vqh core) := all _
theorem fence (core : Nat) : Statement (.fence core) := all _
theorem vend (core : Nat) : Statement (.vend core) := all _
theorem photoFinish (queue : Nat) (nature : Nature) : Statement (.photoFinish queue nature) := all _
theorem start (path : Path) (heat : Nat) : Statement (.start path heat) := all _
theorem stop (path : Path) (heat : Nat) : Statement (.stop path heat) := all _
theorem resume (path : Path) (heat : Nat) : Statement (.resume path heat) := all _
theorem release (path : Path) (heat : Nat) : Statement (.release path heat) := all _
theorem discoveryMatch (heat : Nat) : Statement (.discoveryMatch heat) := all _
theorem stopComplete (heat : Nat) : Statement (.stopComplete heat) := all _
theorem releaseComplete (heat : Nat) : Statement (.releaseComplete heat) := all _
theorem lapStart : Statement (.lapStart) := all _
theorem lapBeacon (port domain : Nat) (body : Beacon) (reception : Int) : Statement (.lapBeacon port domain body reception) := all _
theorem delayRequest (port : Nat) (t2 t3 : Int) : Statement (.delayRequest port t2 t3) := all _
theorem delayResponse (port : Nat) (t1 t2 t3 t4 : Int) : Statement (.delayResponse port t1 t2 t3 t4) := all _
theorem holdoverTimeout : Statement (.holdoverTimeout) := all _
theorem paceLossDeclared : Statement (.paceLossDeclared) := all _
theorem paceInEdge : Statement (.paceInEdge) := all _
theorem paceInStuck : Statement (.paceInStuck) := all _
theorem paceInFrequencyCheck (edges : Nat) (span : Nat) : Statement (.paceInFrequencyCheck edges span) := all _
theorem paceInRecovered : Statement (.paceInRecovered) := all _
theorem portControl (path : Path) (port value : Nat) : Statement (.portControl path port value) := all _
theorem portTraining (port : Nat) : Statement (.portTraining port) := all _
theorem laneLock (port : Nat) (own peer : BitVec 4) : Statement (.laneLock port own peer) := all _
theorem trainingTimeout (port : Nat) : Statement (.trainingTimeout port) := all _
theorem laneLockLoss (port : Nat) (lanes : BitVec 4) : Statement (.laneLockLoss port lanes) := all _
theorem flitGroup (port : Nat) (header : BitVec 2048) (flits : List (BitVec 2048)) : Statement (.flitGroup port header flits) := all _
theorem readReq (port : Nat) (p : Packet) (errs : List SectorErr) : Statement (.readReq port p errs) := all _
theorem readResp (port : Nat) (p : Packet) : Statement (.readResp port p) := all _
theorem write (port : Nat) (p : Packet) (errs : List SectorErr) : Statement (.write port p errs) := all _
theorem memOp (port : Nat) (p : Packet) (errs : List SectorErr) : Statement (.memOp port p errs) := all _
theorem ack (port : Nat) (p : Packet) : Statement (.ack port p) := all _
theorem nak (port : Nat) (p : Packet) : Statement (.nak port p) := all _
theorem backoffExpiry (queue index : Nat) : Statement (.backoffExpiry queue index) := all _
theorem restartRetryLimit (queue index : Nat) : Statement (.restartRetryLimit queue index) := all _
theorem remoteTimeout (txn : Nat) : Statement (.remoteTimeout txn) := all _
theorem discoveryRecord (port : Nat) (record : BitVec 256) : Statement (.discoveryRecord port record) := all _
theorem discoverySend (port : Nat) : Statement (.discoverySend port) := all _
theorem discoveryTimeout (port : Nat) : Statement (.discoveryTimeout port) := all _
theorem collReady (port : Nat) (p : Packet) : Statement (.collReady port p) := all _
theorem collCounts (port : Nat) (p : Packet) : Statement (.collCounts port p) := all _
theorem collGrant (port : Nat) (p : Packet) : Statement (.collGrant port p) := all _
theorem collData (port : Nat) (p : Packet) : Statement (.collData port p) := all _
theorem collAck (port : Nat) (p : Packet) : Statement (.collAck port p) := all _
theorem collHeld (port : Nat) (p : Packet) : Statement (.collHeld port p) := all _
theorem collResume (port : Nat) (p : Packet) : Statement (.collResume port p) := all _
theorem collBusy (port : Nat) (p : Packet) : Statement (.collBusy port p) := all _
theorem collBusyResend (txn : Nat) : Statement (.collBusyResend txn) := all _
theorem collRefuse (port : Nat) (p : Packet) : Statement (.collRefuse port p) := all _
theorem collEnd (port : Nat) (p : Packet) : Statement (.collEnd port p) := all _
theorem collectiveWaitExpiry (heat coll : Nat) : Statement (.collectiveWaitExpiry heat coll) := all _
theorem eventHandling : Statement (.eventHandling) := all _
theorem fault (port : Nat) (n : Notice) : Statement (.fault port n) := all _
theorem inventory (port : Nat) (n : Notice) : Statement (.inventory port n) := all _
theorem restore (port : Nat) (n : Notice) : Statement (.restore port n) := all _
theorem restored (port : Nat) (n : Notice) : Statement (.restored port n) := all _
theorem noticeResume (port : Nat) (n : Notice) : Statement (.noticeResume port n) := all _
theorem noSnapshot (port : Nat) (n : Notice) : Statement (.noSnapshot port n) := all _
theorem onBehalfTimeout (heat : Nat) : Statement (.onBehalfTimeout heat) := all _
theorem inventoryWaitExpiry (heat : Nat) : Statement (.inventoryWaitExpiry heat) := all _
theorem leadTimeout (heat : Nat) : Statement (.leadTimeout heat) := all _
theorem restoreRepeat (heat : Nat) : Statement (.restoreRepeat heat) := all _
theorem restoreComplete (heat : Nat) : Statement (.restoreComplete heat) := all _
theorem resumeLap (heat : Nat) : Statement (.resumeLap heat) := all _
theorem snapshotLap (heat : Nat) : Statement (.snapshotLap heat) := all _
theorem snapshotOwnWritten (heat : Nat) : Statement (.snapshotOwnWritten heat) := all _
theorem snapshotCommitCheck (heat : Nat) : Statement (.snapshotCommitCheck heat) := all _
theorem snapshotBuddySend (heat : Nat) : Statement (.snapshotBuddySend heat) := all _
theorem snapshotBuddyWritten (heat : Nat) : Statement (.snapshotBuddyWritten heat) := all _
theorem spareRotation (cluster : Nat) : Statement (.spareRotation cluster) := all _
theorem spareMove (cluster : Nat) : Statement (.spareMove cluster) := all _
theorem spareTakeover (cluster : Nat) : Statement (.spareTakeover cluster) := all _
theorem spareTestComplete (cluster : Nat) (pass : Bool) (sweep : Sweep) : Statement (.spareTestComplete cluster pass sweep) := all _
theorem testOverdue (cluster : Nat) : Statement (.testOverdue cluster) := all _
theorem monitorFlag (slot : Nat) : Statement (.monitorFlag slot) := all _
theorem marginPlanCheck : Statement (.marginPlanCheck) := all _
theorem inputValid : Statement (.inputValid) := all _
theorem inputInvalid : Statement (.inputInvalid) := all _
theorem strapLatch (pins : BitVec 12) : Statement (.strapLatch pins) := all _
theorem resetN (low : Bool) (width : Nat) : Statement (.resetN low width) := all _
theorem watchdogExpiry : Statement (.watchdogExpiry) := all _
theorem pwrEn (level : Bool) (width : Nat) : Statement (.pwrEn level width) := all _
theorem warmUpWave (failed : WaveFaults) : Statement (.warmUpWave failed) := all _
theorem memoryTestComplete (failed : List Nat) (repaired : List (Nat × Nat × Nat)) : Statement (.memoryTestComplete failed repaired) := all _
theorem selfTestComplete (failed : List Nat) (sweeps : List Sweep) : Statement (.selfTestComplete failed sweeps) := all _
theorem linkTrainingEnd : Statement (.linkTrainingEnd) := all _
theorem wakeTokenRequest (unit : WakeUnit) : Statement (.wakeTokenRequest unit) := all _
theorem wakeTokenGrant : Statement (.wakeTokenGrant) := all _
theorem coreIdleTimeout (core : Nat) : Statement (.coreIdleTimeout core) := all _
theorem updateImage (path : Path) (bytes : List Byte) : Statement (.updateImage path bytes) := all _
theorem verifyAndWrite (path : Path) : Statement (.verifyAndWrite path) := all _
theorem discard (path : Path) : Statement (.discard path) := all _
theorem updateWriteComplete (ok : Bool) : Statement (.updateWriteComplete ok) := all _
theorem recoveryAnnounce : Statement (.recoveryAnnounce) := all _
theorem udpRead (addr port : Nat) (header : BitVec 256) (data : List Byte) : Statement (.udpRead addr port header data) := all _
theorem udpWrite (addr port : Nat) (header : BitVec 256) (data : List Byte) : Statement (.udpWrite addr port header data) := all _
theorem udpTransferTimeout (addr port index sub : Nat) : Statement (.udpTransferTimeout addr port index sub) := all _
theorem usdo (client : Nat) (req : UsdoReq) : Statement (.usdo client req) := all _
theorem usdoTimeout (client : Nat) : Statement (.usdoTimeout client) := all _
theorem nmt (command node : Nat) : Statement (.nmt command node) := all _
theorem heartbeat : Statement (.heartbeat) := all _
theorem registerWrite (path : Path) (target : RegTarget) (value : List Byte) : Statement (.registerWrite path target value) := all _
theorem storeAll (path : Path) (value : W32) (ok : Bool) : Statement (.storeAll path value ok) := all _
theorem restoreDefaults (path : Path) (value : W32) : Statement (.restoreDefaults path value) := all _
theorem chipNumber (path : Path) (value : Nat) : Statement (.chipNumber path value) := all _
theorem powerClass (path : Path) (value : Nat) : Statement (.powerClass path value) := all _
theorem paceRole (path : Path) (value : Nat) : Statement (.paceRole path value) := all _
theorem quoteNonce (path : Path) (nonce : List Byte) : Statement (.quoteNonce path nonce) := all _
theorem quoteReady : Statement (.quoteReady) := all _
theorem unlockToken (path : Path) (token : List Byte) : Statement (.unlockToken path token) := all _
theorem relock (path : Path) (value : Nat) : Statement (.relock path value) := all _
theorem bypass : Statement (.bypass) := all _
theorem idcode : Statement (.idcode) := all _
theorem samplePreload (pins : Nat) : Statement (.samplePreload pins) := all _
theorem extest : Statement (.extest) := all _
theorem ethernetFrame (port : Nat) (frame : List Byte) : Statement (.ethernetFrame port frame) := all _
theorem tcpConnection (port tcpPort : Nat) : Statement (.tcpConnection port tcpPort) := all _
theorem hello (session version : Nat) (nonce kem : List Byte) (rcd : RecordIn) : Statement (.hello session version nonce kem rcd) := all _
theorem auth (session : Nat) (tagOk : Bool) (rcd : RecordIn) (key sig : List Byte) : Statement (.auth session tagOk rcd key sig) := all _
theorem ping (session req : Nat) : Statement (.ping session req) := all _
theorem sessionSetupTimeout (session : Nat) : Statement (.sessionSetupTimeout session) := all _
theorem sessionIdleTimeout (session : Nat) : Statement (.sessionIdleTimeout session) := all _
theorem planSubmit (session req : Nat) (plan : List Byte) : Statement (.planSubmit session req plan) := all _
theorem imageData (session req image offset : Nat) (data : List Byte) : Statement (.imageData session req image offset data) := all _
theorem jobStart (session req heat : Nat) (seed : W64) : Statement (.jobStart session req heat seed) := all _
theorem planRemove (session req tag : Nat) : Statement (.planRemove session req tag) := all _
theorem statusReq (session req : Nat) (entries : List (Nat × Nat)) : Statement (.statusReq session req entries) := all _
theorem take (session req heat lap : Nat) : Statement (.take session req heat lap) := all _
theorem snapshotCancel (session req heat : Nat) : Statement (.snapshotCancel session req heat) := all _
theorem restart (session req heat : Nat) : Statement (.restart session req heat) := all _
theorem abandon (session req heat : Nat) : Statement (.abandon session req heat) := all _
theorem period (session req heat lap : Nat) : Statement (.period session req heat lap) := all _
theorem serveReq (session req heat maxTokens : Nat) (params : BitVec 256) (tokens : List W32) : Statement (.serveReq session req heat maxTokens params tokens) := all _
theorem cancel (session req target : Nat) : Statement (.cancel session req target) := all _
theorem close (session : Nat) : Statement (.close session) := all _
theorem storageRingPoll (heat : Nat) : Statement (.storageRingPoll heat) := all _
theorem nvmeCompletion (heat cmd status : Nat) (data : List Byte) : Statement (.nvmeCompletion heat cmd status data) := all _
theorem storageReconnect (heat slot : Nat) (ok : Option Digests) : Statement (.storageReconnect heat slot ok) := all _
theorem storageTargetTimeout (heat slot : Nat) : Statement (.storageTargetTimeout heat slot) := all _
theorem outboxPoll (heat : Nat) (blocked : List Nat) : Statement (.outboxPoll heat blocked) := all _
theorem sensorSample (r : Readings) : Statement (.sensorSample r) := all _
theorem backstopTrip : Statement (.backstopTrip) := all _
theorem thermalTermStep : Statement (.thermalTermStep) := all _
theorem throttleN (low : Bool) (width : Nat) : Statement (.throttleN low width) := all _
theorem throttleHeldLog : Statement (.throttleHeldLog) := all _
theorem canBusOffRecovery (busOff : Bool) : Statement (.canBusOffRecovery busOff) := all _
theorem poweredTimeSave : Statement (.poweredTimeSave) := all _
theorem channelLinkLoss (channel : Nat) : Statement (.channelLinkLoss channel) := all _
theorem windowTestComplete (cluster : Nat) (pass : Bool) (sweep : Sweep) : Statement (.windowTestComplete cluster pass sweep) := all _
theorem ethernetLinkState (port : Nat) (up : Bool) : Statement (.ethernetLinkState port up) := all _

end Sys2Proof.Laws.F
end

