-- ==== Sys2Proof/Laws/State.lean ====
section
/-! SUPPORT. What each named update leaves in each field, and what a read gives after a write. -/

namespace Sys2Proof.Machine

/-! ## Updates through a function are updates -/

@[simp] theorem modHeat_eq (s : State) (h : Nat) (f : Heat → Heat) : modHeat s h f = setHeat s h (f (getHeat s h)) := rfl
@[simp] theorem modQueue_eq (s : State) (q : Nat) (f : Queue → Queue) : modQueue s q f = setQueue s q (f (getQueue s q)) := rfl
@[simp] theorem modCore_eq (s : State) (k : Nat) (f : Core → Core) : modCore s k f = setCore s k (f (getCore s k)) := rfl
@[simp] theorem modCluster_eq (s : State) (c : Nat) (f : Cluster → Cluster) :
    modCluster s c f = setCluster s c (f (getCluster s c)) := rfl
@[simp] theorem modPort_eq (s : State) (p : Nat) (f : Port → Port) : modPort s p f = setPort s p (f (getPort s p)) := rfl
@[simp] theorem modVec_eq (s : State) (k : Nat) (f : VecState → VecState) :
    modVec s k f = setCore s k { getCore s k with vec := f (getVec s k) } := rfl
@[simp] theorem dadd_eq (s : State) (i sub n : Nat) : dadd s i sub n = dset s i sub (min (dget s i sub + n) (dmax i sub)) := rfl

/-! ## dset -/

@[simp] theorem dset_pending (s : State) (i sub v : Nat) : (dset s i sub v).pending = s.pending := rfl
@[simp] theorem dset_now (s : State) (i sub v : Nat) : (dset s i sub v).now = s.now := rfl
@[simp] theorem dset_lap (s : State) (i sub v : Nat) : (dset s i sub v).lap = s.lap := rfl
@[simp] theorem dset_phase (s : State) (i sub v : Nat) : (dset s i sub v).phase = s.phase := rfl
@[simp] theorem dset_lapStarts (s : State) (i sub v : Nat) : (dset s i sub v).lapStarts = s.lapStarts := rfl
@[simp] theorem dset_regained (s : State) (i sub v : Nat) : (dset s i sub v).regained = s.regained := rfl
@[simp] theorem dset_freeCtr (s : State) (i sub v : Nat) : (dset s i sub v).freeCtr = s.freeCtr := rfl
@[simp] theorem dset_mem (s : State) (i sub v : Nat) : (dset s i sub v).mem = s.mem := rfl
@[simp] theorem dset_blank (s : State) (i sub v : Nat) : (dset s i sub v).blank = s.blank := rfl
@[simp] theorem dset_errs (s : State) (i sub v : Nat) : (dset s i sub v).errs = s.errs := rfl
@[simp] theorem dset_dict (s : State) (i sub v : Nat) : (dset s i sub v).dict = tabSet (dictDefault i sub) s.dict (dkey i sub) v := rfl
@[simp] theorem dset_dom (s : State) (i sub v : Nat) : (dset s i sub v).dom = s.dom := rfl
@[simp] theorem dset_heats (s : State) (i sub v : Nat) : (dset s i sub v).heats = s.heats := rfl
@[simp] theorem dset_queues (s : State) (i sub v : Nat) : (dset s i sub v).queues = s.queues := rfl
@[simp] theorem dset_served (s : State) (i sub v : Nat) : (dset s i sub v).served = s.served := rfl
@[simp] theorem dset_cores (s : State) (i sub v : Nat) : (dset s i sub v).cores = s.cores := rfl
@[simp] theorem dset_clusters (s : State) (i sub v : Nat) : (dset s i sub v).clusters = s.clusters := rfl
@[simp] theorem dset_events (s : State) (i sub v : Nat) : (dset s i sub v).events = s.events := rfl
@[simp] theorem dset_lostEvents (s : State) (i sub v : Nat) : (dset s i sub v).lostEvents = s.lostEvents := rfl
@[simp] theorem dset_corrs (s : State) (i sub v : Nat) : (dset s i sub v).corrs = s.corrs := rfl
@[simp] theorem dset_failedChannels (s : State) (i sub v : Nat) : (dset s i sub v).failedChannels = s.failedChannels := rfl
@[simp] theorem dset_scrubbed (s : State) (i sub v : Nat) : (dset s i sub v).scrubbed = s.scrubbed := rfl
@[simp] theorem dset_scrubBegan (s : State) (i sub v : Nat) : (dset s i sub v).scrubBegan = s.scrubBegan := rfl
@[simp] theorem dset_plans (s : State) (i sub v : Nat) : (dset s i sub v).plans = s.plans := rfl
@[simp] theorem dset_poweredBase (s : State) (i sub v : Nat) : (dset s i sub v).poweredBase = s.poweredBase := rfl
@[simp] theorem dset_transients (s : State) (i sub v : Nat) : (dset s i sub v).transients = s.transients := rfl
@[simp] theorem dset_retiredSlots (s : State) (i sub v : Nat) : (dset s i sub v).retiredSlots = s.retiredSlots := rfl
@[simp] theorem dset_corePower (s : State) (i sub v : Nat) : (dset s i sub v).corePower = s.corePower := rfl
@[simp] theorem dset_ports (s : State) (i sub v : Nat) : (dset s i sub v).ports = s.ports := rfl
@[simp] theorem dset_txns (s : State) (i sub v : Nat) : (dset s i sub v).txns = s.txns := rfl
@[simp] theorem dset_nextTxn (s : State) (i sub v : Nat) : (dset s i sub v).nextTxn = s.nextTxn := rfl
@[simp] theorem dset_colls (s : State) (i sub v : Nat) : (dset s i sub v).colls = s.colls := rfl
@[simp] theorem dset_early (s : State) (i sub v : Nat) : (dset s i sub v).early = s.early := rfl
@[simp] theorem dset_allocs (s : State) (i sub v : Nat) : (dset s i sub v).allocs = s.allocs := rfl
@[simp] theorem dset_poolHead (s : State) (i sub v : Nat) : (dset s i sub v).poolHead = s.poolHead := rfl
@[simp] theorem dset_lapStartAt (s : State) (i sub v : Nat) : (dset s i sub v).lapStartAt = s.lapStartAt := rfl
@[simp] theorem dset_slew (s : State) (i sub v : Nat) : (dset s i sub v).slew = s.slew := rfl
@[simp] theorem dset_slewed (s : State) (i sub v : Nat) : (dset s i sub v).slewed = s.slewed := rfl
@[simp] theorem dset_slewFrac (s : State) (i sub v : Nat) : (dset s i sub v).slewFrac = s.slewFrac := rfl
@[simp] theorem dset_beaconLap (s : State) (i sub v : Nat) : (dset s i sub v).beaconLap = s.beaconLap := rfl
@[simp] theorem dset_beacon (s : State) (i sub v : Nat) : (dset s i sub v).beacon = s.beacon := rfl
@[simp] theorem dset_paceIn (s : State) (i sub v : Nat) : (dset s i sub v).paceIn = s.paceIn := rfl
@[simp] theorem dset_heldMem (s : State) (i sub v : Nat) : (dset s i sub v).heldMem = s.heldMem := rfl
@[simp] theorem dset_out (s : State) (i sub v : Nat) : (dset s i sub v).out = s.out := rfl
@[simp] theorem dset_log (s : State) (i sub v : Nat) : (dset s i sub v).log = s.log := rfl
@[simp] theorem dset_logNext (s : State) (i sub v : Nat) : (dset s i sub v).logNext = s.logNext := rfl
@[simp] theorem dset_lastMinor (s : State) (i sub v : Nat) : (dset s i sub v).lastMinor = s.lastMinor := rfl
@[simp] theorem dset_history (s : State) (i sub v : Nat) : (dset s i sub v).history = s.history := rfl
@[simp] theorem dset_histSector (s : State) (i sub v : Nat) : (dset s i sub v).histSector = s.histSector := rfl
@[simp] theorem dset_histUsed (s : State) (i sub v : Nat) : (dset s i sub v).histUsed = s.histUsed := rfl
@[simp] theorem dset_histSeq (s : State) (i sub v : Nat) : (dset s i sub v).histSeq = s.histSeq := rfl
@[simp] theorem dset_powerSaved (s : State) (i sub v : Nat) : (dset s i sub v).powerSaved = s.powerSaved := rfl
@[simp] theorem dset_lastC3 (s : State) (i sub v : Nat) : (dset s i sub v).lastC3 = s.lastC3 := rfl
@[simp] theorem dset_bootC3 (s : State) (i sub v : Nat) : (dset s i sub v).bootC3 = s.bootC3 := rfl
@[simp] theorem dset_readSeq (s : State) (i sub v : Nat) : (dset s i sub v).readSeq = s.readSeq := rfl
@[simp] theorem dset_noticeSeq (s : State) (i sub v : Nat) : (dset s i sub v).noticeSeq = s.noticeSeq := rfl
@[simp] theorem dset_notices (s : State) (i sub v : Nat) : (dset s i sub v).notices = s.notices := rfl
@[simp] theorem dset_flash (s : State) (i sub v : Nat) : (dset s i sub v).flash = s.flash := rfl
@[simp] theorem dset_journal (s : State) (i sub v : Nat) : (dset s i sub v).journal = s.journal := rfl
@[simp] theorem dset_image (s : State) (i sub v : Nat) : (dset s i sub v).image = s.image := rfl
@[simp] theorem dset_writing (s : State) (i sub v : Nat) : (dset s i sub v).writing = s.writing := rfl
@[simp] theorem dset_running (s : State) (i sub v : Nat) : (dset s i sub v).running = s.running := rfl
@[simp] theorem dset_strapped (s : State) (i sub v : Nat) : (dset s i sub v).strapped = s.strapped := rfl
@[simp] theorem dset_startedAt (s : State) (i sub v : Nat) : (dset s i sub v).startedAt = s.startedAt := rfl
@[simp] theorem dset_stageAt (s : State) (i sub v : Nat) : (dset s i sub v).stageAt = s.stageAt := rfl
@[simp] theorem dset_logGap (s : State) (i sub v : Nat) : (dset s i sub v).logGap = s.logGap := rfl
@[simp] theorem dset_markedSlots (s : State) (i sub v : Nat) : (dset s i sub v).markedSlots = s.markedSlots := rfl
@[simp] theorem dset_wave (s : State) (i sub v : Nat) : (dset s i sub v).wave = s.wave := rfl
@[simp] theorem dset_downTo (s : State) (i sub v : Nat) : (dset s i sub v).downTo = s.downTo := rfl
@[simp] theorem dset_seq (s : State) (i sub v : Nat) : (dset s i sub v).seq = s.seq := rfl
@[simp] theorem dset_pins (s : State) (i sub v : Nat) : (dset s i sub v).pins = s.pins := rfl
@[simp] theorem dset_power (s : State) (i sub v : Nat) : (dset s i sub v).power = s.power := rfl
@[simp] theorem dset_fullTest (s : State) (i sub v : Nat) : (dset s i sub v).fullTest = s.fullTest := rfl
@[simp] theorem dset_sinceTest (s : State) (i sub v : Nat) : (dset s i sub v).sinceTest = s.sinceTest := rfl
@[simp] theorem dset_untrained (s : State) (i sub v : Nat) : (dset s i sub v).untrained = s.untrained := rfl
@[simp] theorem dset_retiredChannels (s : State) (i sub v : Nat) : (dset s i sub v).retiredChannels = s.retiredChannels := rfl
@[simp] theorem dset_store (s : State) (i sub v : Nat) : (dset s i sub v).store = s.store := rfl
@[simp] theorem dset_storeHalf (s : State) (i sub v : Nat) : (dset s i sub v).storeHalf = s.storeHalf := rfl
@[simp] theorem dset_transfers (s : State) (i sub v : Nat) : (dset s i sub v).transfers = s.transfers := rfl
@[simp] theorem dset_copies (s : State) (i sub v : Nat) : (dset s i sub v).copies = s.copies := rfl
@[simp] theorem dset_replies (s : State) (i sub v : Nat) : (dset s i sub v).replies = s.replies := rfl
@[simp] theorem dset_canState (s : State) (i sub v : Nat) : (dset s i sub v).canState = s.canState := rfl
@[simp] theorem dset_canNode (s : State) (i sub v : Nat) : (dset s i sub v).canNode = s.canNode := rfl
@[simp] theorem dset_canRate (s : State) (i sub v : Nat) : (dset s i sub v).canRate = s.canRate := rfl
@[simp] theorem dset_beatAt (s : State) (i sub v : Nat) : (dset s i sub v).beatAt = s.beatAt := rfl
@[simp] theorem dset_busOff (s : State) (i sub v : Nat) : (dset s i sub v).busOff = s.busOff := rfl
@[simp] theorem dset_sweeps (s : State) (i sub v : Nat) : (dset s i sub v).sweeps = s.sweeps := rfl
@[simp] theorem dset_trimRaise (s : State) (i sub v : Nat) : (dset s i sub v).trimRaise = s.trimRaise := rfl
@[simp] theorem dset_planHour (s : State) (i sub v : Nat) : (dset s i sub v).planHour = s.planHour := rfl
@[simp] theorem dset_measures (s : State) (i sub v : Nat) : (dset s i sub v).measures = s.measures := rfl
@[simp] theorem dset_nonce (s : State) (i sub v : Nat) : (dset s i sub v).nonce = s.nonce := rfl
@[simp] theorem dset_quote (s : State) (i sub v : Nat) : (dset s i sub v).quote = s.quote := rfl
@[simp] theorem dset_token (s : State) (i sub v : Nat) : (dset s i sub v).token = s.token := rfl
@[simp] theorem dset_sessions (s : State) (i sub v : Nat) : (dset s i sub v).sessions = s.sessions := rfl
@[simp] theorem dset_nextSession (s : State) (i sub v : Nat) : (dset s i sub v).nextSession = s.nextSession := rfl
@[simp] theorem dset_serves (s : State) (i sub v : Nat) : (dset s i sub v).serves = s.serves := rfl
@[simp] theorem dset_serveHead (s : State) (i sub v : Nat) : (dset s i sub v).serveHead = s.serveHead := rfl
@[simp] theorem dset_nvmes (s : State) (i sub v : Nat) : (dset s i sub v).nvmes = s.nvmes := rfl
@[simp] theorem dset_nextNvme (s : State) (i sub v : Nat) : (dset s i sub v).nextNvme = s.nextNvme := rfl
@[simp] theorem dset_storeReqs (s : State) (i sub v : Nat) : (dset s i sub v).storeReqs = s.storeReqs := rfl
@[simp] theorem dset_conns (s : State) (i sub v : Nat) : (dset s i sub v).conns = s.conns := rfl
@[simp] theorem dset_fragments (s : State) (i sub v : Nat) : (dset s i sub v).fragments = s.fragments := rfl
@[simp] theorem dset_paused (s : State) (i sub v : Nat) : (dset s i sub v).paused = s.paused := rfl
@[simp] theorem dset_pausedOut (s : State) (i sub v : Nat) : (dset s i sub v).pausedOut = s.pausedOut := rfl
@[simp] theorem dset_dhcpIds (s : State) (i sub v : Nat) : (dset s i sub v).dhcpIds = s.dhcpIds := rfl
@[simp] theorem dset_leases (s : State) (i sub v : Nat) : (dset s i sub v).leases = s.leases := rfl
@[simp] theorem dset_prefixes (s : State) (i sub v : Nat) : (dset s i sub v).prefixes = s.prefixes := rfl
@[simp] theorem dset_preload (s : State) (i sub v : Nat) : (dset s i sub v).preload = s.preload := rfl
@[simp] theorem dset_extest (s : State) (i sub v : Nat) : (dset s i sub v).extest = s.extest := rfl

/-! ## domSet -/

@[simp] theorem domSet_pending (s : State) (i sub : Nat) (l : List Byte) : (domSet s i sub l).pending = s.pending := rfl
@[simp] theorem domSet_now (s : State) (i sub : Nat) (l : List Byte) : (domSet s i sub l).now = s.now := rfl
@[simp] theorem domSet_lap (s : State) (i sub : Nat) (l : List Byte) : (domSet s i sub l).lap = s.lap := rfl
@[simp] theorem domSet_phase (s : State) (i sub : Nat) (l : List Byte) : (domSet s i sub l).phase = s.phase := rfl
@[simp] theorem domSet_lapStarts (s : State) (i sub : Nat) (l : List Byte) : (domSet s i sub l).lapStarts = s.lapStarts := rfl
@[simp] theorem domSet_regained (s : State) (i sub : Nat) (l : List Byte) : (domSet s i sub l).regained = s.regained := rfl
@[simp] theorem domSet_freeCtr (s : State) (i sub : Nat) (l : List Byte) : (domSet s i sub l).freeCtr = s.freeCtr := rfl
@[simp] theorem domSet_mem (s : State) (i sub : Nat) (l : List Byte) : (domSet s i sub l).mem = s.mem := rfl
@[simp] theorem domSet_blank (s : State) (i sub : Nat) (l : List Byte) : (domSet s i sub l).blank = s.blank := rfl
@[simp] theorem domSet_errs (s : State) (i sub : Nat) (l : List Byte) : (domSet s i sub l).errs = s.errs := rfl
@[simp] theorem domSet_dict (s : State) (i sub : Nat) (l : List Byte) : (domSet s i sub l).dict = s.dict := rfl
@[simp] theorem domSet_dom (s : State) (i sub : Nat) (l : List Byte) : (domSet s i sub l).dom = tabSet [] s.dom (dkey i sub) l := rfl
@[simp] theorem domSet_heats (s : State) (i sub : Nat) (l : List Byte) : (domSet s i sub l).heats = s.heats := rfl
@[simp] theorem domSet_queues (s : State) (i sub : Nat) (l : List Byte) : (domSet s i sub l).queues = s.queues := rfl
@[simp] theorem domSet_served (s : State) (i sub : Nat) (l : List Byte) : (domSet s i sub l).served = s.served := rfl
@[simp] theorem domSet_cores (s : State) (i sub : Nat) (l : List Byte) : (domSet s i sub l).cores = s.cores := rfl
@[simp] theorem domSet_clusters (s : State) (i sub : Nat) (l : List Byte) : (domSet s i sub l).clusters = s.clusters := rfl
@[simp] theorem domSet_events (s : State) (i sub : Nat) (l : List Byte) : (domSet s i sub l).events = s.events := rfl
@[simp] theorem domSet_lostEvents (s : State) (i sub : Nat) (l : List Byte) : (domSet s i sub l).lostEvents = s.lostEvents := rfl
@[simp] theorem domSet_corrs (s : State) (i sub : Nat) (l : List Byte) : (domSet s i sub l).corrs = s.corrs := rfl
@[simp] theorem domSet_failedChannels (s : State) (i sub : Nat) (l : List Byte) : (domSet s i sub l).failedChannels = s.failedChannels := rfl
@[simp] theorem domSet_scrubbed (s : State) (i sub : Nat) (l : List Byte) : (domSet s i sub l).scrubbed = s.scrubbed := rfl
@[simp] theorem domSet_scrubBegan (s : State) (i sub : Nat) (l : List Byte) : (domSet s i sub l).scrubBegan = s.scrubBegan := rfl
@[simp] theorem domSet_plans (s : State) (i sub : Nat) (l : List Byte) : (domSet s i sub l).plans = s.plans := rfl
@[simp] theorem domSet_poweredBase (s : State) (i sub : Nat) (l : List Byte) : (domSet s i sub l).poweredBase = s.poweredBase := rfl
@[simp] theorem domSet_transients (s : State) (i sub : Nat) (l : List Byte) : (domSet s i sub l).transients = s.transients := rfl
@[simp] theorem domSet_retiredSlots (s : State) (i sub : Nat) (l : List Byte) : (domSet s i sub l).retiredSlots = s.retiredSlots := rfl
@[simp] theorem domSet_corePower (s : State) (i sub : Nat) (l : List Byte) : (domSet s i sub l).corePower = s.corePower := rfl
@[simp] theorem domSet_ports (s : State) (i sub : Nat) (l : List Byte) : (domSet s i sub l).ports = s.ports := rfl
@[simp] theorem domSet_txns (s : State) (i sub : Nat) (l : List Byte) : (domSet s i sub l).txns = s.txns := rfl
@[simp] theorem domSet_nextTxn (s : State) (i sub : Nat) (l : List Byte) : (domSet s i sub l).nextTxn = s.nextTxn := rfl
@[simp] theorem domSet_colls (s : State) (i sub : Nat) (l : List Byte) : (domSet s i sub l).colls = s.colls := rfl
@[simp] theorem domSet_early (s : State) (i sub : Nat) (l : List Byte) : (domSet s i sub l).early = s.early := rfl
@[simp] theorem domSet_allocs (s : State) (i sub : Nat) (l : List Byte) : (domSet s i sub l).allocs = s.allocs := rfl
@[simp] theorem domSet_poolHead (s : State) (i sub : Nat) (l : List Byte) : (domSet s i sub l).poolHead = s.poolHead := rfl
@[simp] theorem domSet_lapStartAt (s : State) (i sub : Nat) (l : List Byte) : (domSet s i sub l).lapStartAt = s.lapStartAt := rfl
@[simp] theorem domSet_slew (s : State) (i sub : Nat) (l : List Byte) : (domSet s i sub l).slew = s.slew := rfl
@[simp] theorem domSet_slewed (s : State) (i sub : Nat) (l : List Byte) : (domSet s i sub l).slewed = s.slewed := rfl
@[simp] theorem domSet_slewFrac (s : State) (i sub : Nat) (l : List Byte) : (domSet s i sub l).slewFrac = s.slewFrac := rfl
@[simp] theorem domSet_beaconLap (s : State) (i sub : Nat) (l : List Byte) : (domSet s i sub l).beaconLap = s.beaconLap := rfl
@[simp] theorem domSet_beacon (s : State) (i sub : Nat) (l : List Byte) : (domSet s i sub l).beacon = s.beacon := rfl
@[simp] theorem domSet_paceIn (s : State) (i sub : Nat) (l : List Byte) : (domSet s i sub l).paceIn = s.paceIn := rfl
@[simp] theorem domSet_heldMem (s : State) (i sub : Nat) (l : List Byte) : (domSet s i sub l).heldMem = s.heldMem := rfl
@[simp] theorem domSet_out (s : State) (i sub : Nat) (l : List Byte) : (domSet s i sub l).out = s.out := rfl
@[simp] theorem domSet_log (s : State) (i sub : Nat) (l : List Byte) : (domSet s i sub l).log = s.log := rfl
@[simp] theorem domSet_logNext (s : State) (i sub : Nat) (l : List Byte) : (domSet s i sub l).logNext = s.logNext := rfl
@[simp] theorem domSet_lastMinor (s : State) (i sub : Nat) (l : List Byte) : (domSet s i sub l).lastMinor = s.lastMinor := rfl
@[simp] theorem domSet_history (s : State) (i sub : Nat) (l : List Byte) : (domSet s i sub l).history = s.history := rfl
@[simp] theorem domSet_histSector (s : State) (i sub : Nat) (l : List Byte) : (domSet s i sub l).histSector = s.histSector := rfl
@[simp] theorem domSet_histUsed (s : State) (i sub : Nat) (l : List Byte) : (domSet s i sub l).histUsed = s.histUsed := rfl
@[simp] theorem domSet_histSeq (s : State) (i sub : Nat) (l : List Byte) : (domSet s i sub l).histSeq = s.histSeq := rfl
@[simp] theorem domSet_powerSaved (s : State) (i sub : Nat) (l : List Byte) : (domSet s i sub l).powerSaved = s.powerSaved := rfl
@[simp] theorem domSet_lastC3 (s : State) (i sub : Nat) (l : List Byte) : (domSet s i sub l).lastC3 = s.lastC3 := rfl
@[simp] theorem domSet_bootC3 (s : State) (i sub : Nat) (l : List Byte) : (domSet s i sub l).bootC3 = s.bootC3 := rfl
@[simp] theorem domSet_readSeq (s : State) (i sub : Nat) (l : List Byte) : (domSet s i sub l).readSeq = s.readSeq := rfl
@[simp] theorem domSet_noticeSeq (s : State) (i sub : Nat) (l : List Byte) : (domSet s i sub l).noticeSeq = s.noticeSeq := rfl
@[simp] theorem domSet_notices (s : State) (i sub : Nat) (l : List Byte) : (domSet s i sub l).notices = s.notices := rfl
@[simp] theorem domSet_flash (s : State) (i sub : Nat) (l : List Byte) : (domSet s i sub l).flash = s.flash := rfl
@[simp] theorem domSet_journal (s : State) (i sub : Nat) (l : List Byte) : (domSet s i sub l).journal = s.journal := rfl
@[simp] theorem domSet_image (s : State) (i sub : Nat) (l : List Byte) : (domSet s i sub l).image = s.image := rfl
@[simp] theorem domSet_writing (s : State) (i sub : Nat) (l : List Byte) : (domSet s i sub l).writing = s.writing := rfl
@[simp] theorem domSet_running (s : State) (i sub : Nat) (l : List Byte) : (domSet s i sub l).running = s.running := rfl
@[simp] theorem domSet_strapped (s : State) (i sub : Nat) (l : List Byte) : (domSet s i sub l).strapped = s.strapped := rfl
@[simp] theorem domSet_startedAt (s : State) (i sub : Nat) (l : List Byte) : (domSet s i sub l).startedAt = s.startedAt := rfl
@[simp] theorem domSet_stageAt (s : State) (i sub : Nat) (l : List Byte) : (domSet s i sub l).stageAt = s.stageAt := rfl
@[simp] theorem domSet_logGap (s : State) (i sub : Nat) (l : List Byte) : (domSet s i sub l).logGap = s.logGap := rfl
@[simp] theorem domSet_markedSlots (s : State) (i sub : Nat) (l : List Byte) : (domSet s i sub l).markedSlots = s.markedSlots := rfl
@[simp] theorem domSet_wave (s : State) (i sub : Nat) (l : List Byte) : (domSet s i sub l).wave = s.wave := rfl
@[simp] theorem domSet_downTo (s : State) (i sub : Nat) (l : List Byte) : (domSet s i sub l).downTo = s.downTo := rfl
@[simp] theorem domSet_seq (s : State) (i sub : Nat) (l : List Byte) : (domSet s i sub l).seq = s.seq := rfl
@[simp] theorem domSet_pins (s : State) (i sub : Nat) (l : List Byte) : (domSet s i sub l).pins = s.pins := rfl
@[simp] theorem domSet_power (s : State) (i sub : Nat) (l : List Byte) : (domSet s i sub l).power = s.power := rfl
@[simp] theorem domSet_fullTest (s : State) (i sub : Nat) (l : List Byte) : (domSet s i sub l).fullTest = s.fullTest := rfl
@[simp] theorem domSet_sinceTest (s : State) (i sub : Nat) (l : List Byte) : (domSet s i sub l).sinceTest = s.sinceTest := rfl
@[simp] theorem domSet_untrained (s : State) (i sub : Nat) (l : List Byte) : (domSet s i sub l).untrained = s.untrained := rfl
@[simp] theorem domSet_retiredChannels (s : State) (i sub : Nat) (l : List Byte) : (domSet s i sub l).retiredChannels = s.retiredChannels := rfl
@[simp] theorem domSet_store (s : State) (i sub : Nat) (l : List Byte) : (domSet s i sub l).store = s.store := rfl
@[simp] theorem domSet_storeHalf (s : State) (i sub : Nat) (l : List Byte) : (domSet s i sub l).storeHalf = s.storeHalf := rfl
@[simp] theorem domSet_transfers (s : State) (i sub : Nat) (l : List Byte) : (domSet s i sub l).transfers = s.transfers := rfl
@[simp] theorem domSet_copies (s : State) (i sub : Nat) (l : List Byte) : (domSet s i sub l).copies = s.copies := rfl
@[simp] theorem domSet_replies (s : State) (i sub : Nat) (l : List Byte) : (domSet s i sub l).replies = s.replies := rfl
@[simp] theorem domSet_canState (s : State) (i sub : Nat) (l : List Byte) : (domSet s i sub l).canState = s.canState := rfl
@[simp] theorem domSet_canNode (s : State) (i sub : Nat) (l : List Byte) : (domSet s i sub l).canNode = s.canNode := rfl
@[simp] theorem domSet_canRate (s : State) (i sub : Nat) (l : List Byte) : (domSet s i sub l).canRate = s.canRate := rfl
@[simp] theorem domSet_beatAt (s : State) (i sub : Nat) (l : List Byte) : (domSet s i sub l).beatAt = s.beatAt := rfl
@[simp] theorem domSet_busOff (s : State) (i sub : Nat) (l : List Byte) : (domSet s i sub l).busOff = s.busOff := rfl
@[simp] theorem domSet_sweeps (s : State) (i sub : Nat) (l : List Byte) : (domSet s i sub l).sweeps = s.sweeps := rfl
@[simp] theorem domSet_trimRaise (s : State) (i sub : Nat) (l : List Byte) : (domSet s i sub l).trimRaise = s.trimRaise := rfl
@[simp] theorem domSet_planHour (s : State) (i sub : Nat) (l : List Byte) : (domSet s i sub l).planHour = s.planHour := rfl
@[simp] theorem domSet_measures (s : State) (i sub : Nat) (l : List Byte) : (domSet s i sub l).measures = s.measures := rfl
@[simp] theorem domSet_nonce (s : State) (i sub : Nat) (l : List Byte) : (domSet s i sub l).nonce = s.nonce := rfl
@[simp] theorem domSet_quote (s : State) (i sub : Nat) (l : List Byte) : (domSet s i sub l).quote = s.quote := rfl
@[simp] theorem domSet_token (s : State) (i sub : Nat) (l : List Byte) : (domSet s i sub l).token = s.token := rfl
@[simp] theorem domSet_sessions (s : State) (i sub : Nat) (l : List Byte) : (domSet s i sub l).sessions = s.sessions := rfl
@[simp] theorem domSet_nextSession (s : State) (i sub : Nat) (l : List Byte) : (domSet s i sub l).nextSession = s.nextSession := rfl
@[simp] theorem domSet_serves (s : State) (i sub : Nat) (l : List Byte) : (domSet s i sub l).serves = s.serves := rfl
@[simp] theorem domSet_serveHead (s : State) (i sub : Nat) (l : List Byte) : (domSet s i sub l).serveHead = s.serveHead := rfl
@[simp] theorem domSet_nvmes (s : State) (i sub : Nat) (l : List Byte) : (domSet s i sub l).nvmes = s.nvmes := rfl
@[simp] theorem domSet_nextNvme (s : State) (i sub : Nat) (l : List Byte) : (domSet s i sub l).nextNvme = s.nextNvme := rfl
@[simp] theorem domSet_storeReqs (s : State) (i sub : Nat) (l : List Byte) : (domSet s i sub l).storeReqs = s.storeReqs := rfl
@[simp] theorem domSet_conns (s : State) (i sub : Nat) (l : List Byte) : (domSet s i sub l).conns = s.conns := rfl
@[simp] theorem domSet_fragments (s : State) (i sub : Nat) (l : List Byte) : (domSet s i sub l).fragments = s.fragments := rfl
@[simp] theorem domSet_paused (s : State) (i sub : Nat) (l : List Byte) : (domSet s i sub l).paused = s.paused := rfl
@[simp] theorem domSet_pausedOut (s : State) (i sub : Nat) (l : List Byte) : (domSet s i sub l).pausedOut = s.pausedOut := rfl
@[simp] theorem domSet_dhcpIds (s : State) (i sub : Nat) (l : List Byte) : (domSet s i sub l).dhcpIds = s.dhcpIds := rfl
@[simp] theorem domSet_leases (s : State) (i sub : Nat) (l : List Byte) : (domSet s i sub l).leases = s.leases := rfl
@[simp] theorem domSet_prefixes (s : State) (i sub : Nat) (l : List Byte) : (domSet s i sub l).prefixes = s.prefixes := rfl
@[simp] theorem domSet_preload (s : State) (i sub : Nat) (l : List Byte) : (domSet s i sub l).preload = s.preload := rfl
@[simp] theorem domSet_extest (s : State) (i sub : Nat) (l : List Byte) : (domSet s i sub l).extest = s.extest := rfl

/-! ## setHeat -/

@[simp] theorem setHeat_pending (s : State) (h : Nat) (x : Heat) : (setHeat s h x).pending = s.pending := rfl
@[simp] theorem setHeat_now (s : State) (h : Nat) (x : Heat) : (setHeat s h x).now = s.now := rfl
@[simp] theorem setHeat_lap (s : State) (h : Nat) (x : Heat) : (setHeat s h x).lap = s.lap := rfl
@[simp] theorem setHeat_phase (s : State) (h : Nat) (x : Heat) : (setHeat s h x).phase = s.phase := rfl
@[simp] theorem setHeat_lapStarts (s : State) (h : Nat) (x : Heat) : (setHeat s h x).lapStarts = s.lapStarts := rfl
@[simp] theorem setHeat_regained (s : State) (h : Nat) (x : Heat) : (setHeat s h x).regained = s.regained := rfl
@[simp] theorem setHeat_freeCtr (s : State) (h : Nat) (x : Heat) : (setHeat s h x).freeCtr = s.freeCtr := rfl
@[simp] theorem setHeat_mem (s : State) (h : Nat) (x : Heat) : (setHeat s h x).mem = s.mem := rfl
@[simp] theorem setHeat_blank (s : State) (h : Nat) (x : Heat) : (setHeat s h x).blank = s.blank := rfl
@[simp] theorem setHeat_errs (s : State) (h : Nat) (x : Heat) : (setHeat s h x).errs = s.errs := rfl
@[simp] theorem setHeat_dict (s : State) (h : Nat) (x : Heat) : (setHeat s h x).dict = s.dict := rfl
@[simp] theorem setHeat_dom (s : State) (h : Nat) (x : Heat) : (setHeat s h x).dom = s.dom := rfl
@[simp] theorem setHeat_heats (s : State) (h : Nat) (x : Heat) : (setHeat s h x).heats = tabSet {} s.heats h x := rfl
@[simp] theorem setHeat_queues (s : State) (h : Nat) (x : Heat) : (setHeat s h x).queues = s.queues := rfl
@[simp] theorem setHeat_served (s : State) (h : Nat) (x : Heat) : (setHeat s h x).served = s.served := rfl
@[simp] theorem setHeat_cores (s : State) (h : Nat) (x : Heat) : (setHeat s h x).cores = s.cores := rfl
@[simp] theorem setHeat_clusters (s : State) (h : Nat) (x : Heat) : (setHeat s h x).clusters = s.clusters := rfl
@[simp] theorem setHeat_events (s : State) (h : Nat) (x : Heat) : (setHeat s h x).events = s.events := rfl
@[simp] theorem setHeat_lostEvents (s : State) (h : Nat) (x : Heat) : (setHeat s h x).lostEvents = s.lostEvents := rfl
@[simp] theorem setHeat_corrs (s : State) (h : Nat) (x : Heat) : (setHeat s h x).corrs = s.corrs := rfl
@[simp] theorem setHeat_failedChannels (s : State) (h : Nat) (x : Heat) : (setHeat s h x).failedChannels = s.failedChannels := rfl
@[simp] theorem setHeat_scrubbed (s : State) (h : Nat) (x : Heat) : (setHeat s h x).scrubbed = s.scrubbed := rfl
@[simp] theorem setHeat_scrubBegan (s : State) (h : Nat) (x : Heat) : (setHeat s h x).scrubBegan = s.scrubBegan := rfl
@[simp] theorem setHeat_plans (s : State) (h : Nat) (x : Heat) : (setHeat s h x).plans = s.plans := rfl
@[simp] theorem setHeat_poweredBase (s : State) (h : Nat) (x : Heat) : (setHeat s h x).poweredBase = s.poweredBase := rfl
@[simp] theorem setHeat_transients (s : State) (h : Nat) (x : Heat) : (setHeat s h x).transients = s.transients := rfl
@[simp] theorem setHeat_retiredSlots (s : State) (h : Nat) (x : Heat) : (setHeat s h x).retiredSlots = s.retiredSlots := rfl
@[simp] theorem setHeat_corePower (s : State) (h : Nat) (x : Heat) : (setHeat s h x).corePower = s.corePower := rfl
@[simp] theorem setHeat_ports (s : State) (h : Nat) (x : Heat) : (setHeat s h x).ports = s.ports := rfl
@[simp] theorem setHeat_txns (s : State) (h : Nat) (x : Heat) : (setHeat s h x).txns = s.txns := rfl
@[simp] theorem setHeat_nextTxn (s : State) (h : Nat) (x : Heat) : (setHeat s h x).nextTxn = s.nextTxn := rfl
@[simp] theorem setHeat_colls (s : State) (h : Nat) (x : Heat) : (setHeat s h x).colls = s.colls := rfl
@[simp] theorem setHeat_early (s : State) (h : Nat) (x : Heat) : (setHeat s h x).early = s.early := rfl
@[simp] theorem setHeat_allocs (s : State) (h : Nat) (x : Heat) : (setHeat s h x).allocs = s.allocs := rfl
@[simp] theorem setHeat_poolHead (s : State) (h : Nat) (x : Heat) : (setHeat s h x).poolHead = s.poolHead := rfl
@[simp] theorem setHeat_lapStartAt (s : State) (h : Nat) (x : Heat) : (setHeat s h x).lapStartAt = s.lapStartAt := rfl
@[simp] theorem setHeat_slew (s : State) (h : Nat) (x : Heat) : (setHeat s h x).slew = s.slew := rfl
@[simp] theorem setHeat_slewed (s : State) (h : Nat) (x : Heat) : (setHeat s h x).slewed = s.slewed := rfl
@[simp] theorem setHeat_slewFrac (s : State) (h : Nat) (x : Heat) : (setHeat s h x).slewFrac = s.slewFrac := rfl
@[simp] theorem setHeat_beaconLap (s : State) (h : Nat) (x : Heat) : (setHeat s h x).beaconLap = s.beaconLap := rfl
@[simp] theorem setHeat_beacon (s : State) (h : Nat) (x : Heat) : (setHeat s h x).beacon = s.beacon := rfl
@[simp] theorem setHeat_paceIn (s : State) (h : Nat) (x : Heat) : (setHeat s h x).paceIn = s.paceIn := rfl
@[simp] theorem setHeat_heldMem (s : State) (h : Nat) (x : Heat) : (setHeat s h x).heldMem = s.heldMem := rfl
@[simp] theorem setHeat_out (s : State) (h : Nat) (x : Heat) : (setHeat s h x).out = s.out := rfl
@[simp] theorem setHeat_log (s : State) (h : Nat) (x : Heat) : (setHeat s h x).log = s.log := rfl
@[simp] theorem setHeat_logNext (s : State) (h : Nat) (x : Heat) : (setHeat s h x).logNext = s.logNext := rfl
@[simp] theorem setHeat_lastMinor (s : State) (h : Nat) (x : Heat) : (setHeat s h x).lastMinor = s.lastMinor := rfl
@[simp] theorem setHeat_history (s : State) (h : Nat) (x : Heat) : (setHeat s h x).history = s.history := rfl
@[simp] theorem setHeat_histSector (s : State) (h : Nat) (x : Heat) : (setHeat s h x).histSector = s.histSector := rfl
@[simp] theorem setHeat_histUsed (s : State) (h : Nat) (x : Heat) : (setHeat s h x).histUsed = s.histUsed := rfl
@[simp] theorem setHeat_histSeq (s : State) (h : Nat) (x : Heat) : (setHeat s h x).histSeq = s.histSeq := rfl
@[simp] theorem setHeat_powerSaved (s : State) (h : Nat) (x : Heat) : (setHeat s h x).powerSaved = s.powerSaved := rfl
@[simp] theorem setHeat_lastC3 (s : State) (h : Nat) (x : Heat) : (setHeat s h x).lastC3 = s.lastC3 := rfl
@[simp] theorem setHeat_bootC3 (s : State) (h : Nat) (x : Heat) : (setHeat s h x).bootC3 = s.bootC3 := rfl
@[simp] theorem setHeat_readSeq (s : State) (h : Nat) (x : Heat) : (setHeat s h x).readSeq = s.readSeq := rfl
@[simp] theorem setHeat_noticeSeq (s : State) (h : Nat) (x : Heat) : (setHeat s h x).noticeSeq = s.noticeSeq := rfl
@[simp] theorem setHeat_notices (s : State) (h : Nat) (x : Heat) : (setHeat s h x).notices = s.notices := rfl
@[simp] theorem setHeat_flash (s : State) (h : Nat) (x : Heat) : (setHeat s h x).flash = s.flash := rfl
@[simp] theorem setHeat_journal (s : State) (h : Nat) (x : Heat) : (setHeat s h x).journal = s.journal := rfl
@[simp] theorem setHeat_image (s : State) (h : Nat) (x : Heat) : (setHeat s h x).image = s.image := rfl
@[simp] theorem setHeat_writing (s : State) (h : Nat) (x : Heat) : (setHeat s h x).writing = s.writing := rfl
@[simp] theorem setHeat_running (s : State) (h : Nat) (x : Heat) : (setHeat s h x).running = s.running := rfl
@[simp] theorem setHeat_strapped (s : State) (h : Nat) (x : Heat) : (setHeat s h x).strapped = s.strapped := rfl
@[simp] theorem setHeat_startedAt (s : State) (h : Nat) (x : Heat) : (setHeat s h x).startedAt = s.startedAt := rfl
@[simp] theorem setHeat_stageAt (s : State) (h : Nat) (x : Heat) : (setHeat s h x).stageAt = s.stageAt := rfl
@[simp] theorem setHeat_logGap (s : State) (h : Nat) (x : Heat) : (setHeat s h x).logGap = s.logGap := rfl
@[simp] theorem setHeat_markedSlots (s : State) (h : Nat) (x : Heat) : (setHeat s h x).markedSlots = s.markedSlots := rfl
@[simp] theorem setHeat_wave (s : State) (h : Nat) (x : Heat) : (setHeat s h x).wave = s.wave := rfl
@[simp] theorem setHeat_downTo (s : State) (h : Nat) (x : Heat) : (setHeat s h x).downTo = s.downTo := rfl
@[simp] theorem setHeat_seq (s : State) (h : Nat) (x : Heat) : (setHeat s h x).seq = s.seq := rfl
@[simp] theorem setHeat_pins (s : State) (h : Nat) (x : Heat) : (setHeat s h x).pins = s.pins := rfl
@[simp] theorem setHeat_power (s : State) (h : Nat) (x : Heat) : (setHeat s h x).power = s.power := rfl
@[simp] theorem setHeat_fullTest (s : State) (h : Nat) (x : Heat) : (setHeat s h x).fullTest = s.fullTest := rfl
@[simp] theorem setHeat_sinceTest (s : State) (h : Nat) (x : Heat) : (setHeat s h x).sinceTest = s.sinceTest := rfl
@[simp] theorem setHeat_untrained (s : State) (h : Nat) (x : Heat) : (setHeat s h x).untrained = s.untrained := rfl
@[simp] theorem setHeat_retiredChannels (s : State) (h : Nat) (x : Heat) : (setHeat s h x).retiredChannels = s.retiredChannels := rfl
@[simp] theorem setHeat_store (s : State) (h : Nat) (x : Heat) : (setHeat s h x).store = s.store := rfl
@[simp] theorem setHeat_storeHalf (s : State) (h : Nat) (x : Heat) : (setHeat s h x).storeHalf = s.storeHalf := rfl
@[simp] theorem setHeat_transfers (s : State) (h : Nat) (x : Heat) : (setHeat s h x).transfers = s.transfers := rfl
@[simp] theorem setHeat_copies (s : State) (h : Nat) (x : Heat) : (setHeat s h x).copies = s.copies := rfl
@[simp] theorem setHeat_replies (s : State) (h : Nat) (x : Heat) : (setHeat s h x).replies = s.replies := rfl
@[simp] theorem setHeat_canState (s : State) (h : Nat) (x : Heat) : (setHeat s h x).canState = s.canState := rfl
@[simp] theorem setHeat_canNode (s : State) (h : Nat) (x : Heat) : (setHeat s h x).canNode = s.canNode := rfl
@[simp] theorem setHeat_canRate (s : State) (h : Nat) (x : Heat) : (setHeat s h x).canRate = s.canRate := rfl
@[simp] theorem setHeat_beatAt (s : State) (h : Nat) (x : Heat) : (setHeat s h x).beatAt = s.beatAt := rfl
@[simp] theorem setHeat_busOff (s : State) (h : Nat) (x : Heat) : (setHeat s h x).busOff = s.busOff := rfl
@[simp] theorem setHeat_sweeps (s : State) (h : Nat) (x : Heat) : (setHeat s h x).sweeps = s.sweeps := rfl
@[simp] theorem setHeat_trimRaise (s : State) (h : Nat) (x : Heat) : (setHeat s h x).trimRaise = s.trimRaise := rfl
@[simp] theorem setHeat_planHour (s : State) (h : Nat) (x : Heat) : (setHeat s h x).planHour = s.planHour := rfl
@[simp] theorem setHeat_measures (s : State) (h : Nat) (x : Heat) : (setHeat s h x).measures = s.measures := rfl
@[simp] theorem setHeat_nonce (s : State) (h : Nat) (x : Heat) : (setHeat s h x).nonce = s.nonce := rfl
@[simp] theorem setHeat_quote (s : State) (h : Nat) (x : Heat) : (setHeat s h x).quote = s.quote := rfl
@[simp] theorem setHeat_token (s : State) (h : Nat) (x : Heat) : (setHeat s h x).token = s.token := rfl
@[simp] theorem setHeat_sessions (s : State) (h : Nat) (x : Heat) : (setHeat s h x).sessions = s.sessions := rfl
@[simp] theorem setHeat_nextSession (s : State) (h : Nat) (x : Heat) : (setHeat s h x).nextSession = s.nextSession := rfl
@[simp] theorem setHeat_serves (s : State) (h : Nat) (x : Heat) : (setHeat s h x).serves = s.serves := rfl
@[simp] theorem setHeat_serveHead (s : State) (h : Nat) (x : Heat) : (setHeat s h x).serveHead = s.serveHead := rfl
@[simp] theorem setHeat_nvmes (s : State) (h : Nat) (x : Heat) : (setHeat s h x).nvmes = s.nvmes := rfl
@[simp] theorem setHeat_nextNvme (s : State) (h : Nat) (x : Heat) : (setHeat s h x).nextNvme = s.nextNvme := rfl
@[simp] theorem setHeat_storeReqs (s : State) (h : Nat) (x : Heat) : (setHeat s h x).storeReqs = s.storeReqs := rfl
@[simp] theorem setHeat_conns (s : State) (h : Nat) (x : Heat) : (setHeat s h x).conns = s.conns := rfl
@[simp] theorem setHeat_fragments (s : State) (h : Nat) (x : Heat) : (setHeat s h x).fragments = s.fragments := rfl
@[simp] theorem setHeat_paused (s : State) (h : Nat) (x : Heat) : (setHeat s h x).paused = s.paused := rfl
@[simp] theorem setHeat_pausedOut (s : State) (h : Nat) (x : Heat) : (setHeat s h x).pausedOut = s.pausedOut := rfl
@[simp] theorem setHeat_dhcpIds (s : State) (h : Nat) (x : Heat) : (setHeat s h x).dhcpIds = s.dhcpIds := rfl
@[simp] theorem setHeat_leases (s : State) (h : Nat) (x : Heat) : (setHeat s h x).leases = s.leases := rfl
@[simp] theorem setHeat_prefixes (s : State) (h : Nat) (x : Heat) : (setHeat s h x).prefixes = s.prefixes := rfl
@[simp] theorem setHeat_preload (s : State) (h : Nat) (x : Heat) : (setHeat s h x).preload = s.preload := rfl
@[simp] theorem setHeat_extest (s : State) (h : Nat) (x : Heat) : (setHeat s h x).extest = s.extest := rfl

/-! ## setQueue -/

@[simp] theorem setQueue_pending (s : State) (q : Nat) (x : Queue) : (setQueue s q x).pending = s.pending := rfl
@[simp] theorem setQueue_now (s : State) (q : Nat) (x : Queue) : (setQueue s q x).now = s.now := rfl
@[simp] theorem setQueue_lap (s : State) (q : Nat) (x : Queue) : (setQueue s q x).lap = s.lap := rfl
@[simp] theorem setQueue_phase (s : State) (q : Nat) (x : Queue) : (setQueue s q x).phase = s.phase := rfl
@[simp] theorem setQueue_lapStarts (s : State) (q : Nat) (x : Queue) : (setQueue s q x).lapStarts = s.lapStarts := rfl
@[simp] theorem setQueue_regained (s : State) (q : Nat) (x : Queue) : (setQueue s q x).regained = s.regained := rfl
@[simp] theorem setQueue_freeCtr (s : State) (q : Nat) (x : Queue) : (setQueue s q x).freeCtr = s.freeCtr := rfl
@[simp] theorem setQueue_mem (s : State) (q : Nat) (x : Queue) : (setQueue s q x).mem = s.mem := rfl
@[simp] theorem setQueue_blank (s : State) (q : Nat) (x : Queue) : (setQueue s q x).blank = s.blank := rfl
@[simp] theorem setQueue_errs (s : State) (q : Nat) (x : Queue) : (setQueue s q x).errs = s.errs := rfl
@[simp] theorem setQueue_dict (s : State) (q : Nat) (x : Queue) : (setQueue s q x).dict = s.dict := rfl
@[simp] theorem setQueue_dom (s : State) (q : Nat) (x : Queue) : (setQueue s q x).dom = s.dom := rfl
@[simp] theorem setQueue_heats (s : State) (q : Nat) (x : Queue) : (setQueue s q x).heats = s.heats := rfl
@[simp] theorem setQueue_queues (s : State) (q : Nat) (x : Queue) : (setQueue s q x).queues = tabSet {} s.queues q x := rfl
@[simp] theorem setQueue_served (s : State) (q : Nat) (x : Queue) : (setQueue s q x).served = s.served := rfl
@[simp] theorem setQueue_cores (s : State) (q : Nat) (x : Queue) : (setQueue s q x).cores = s.cores := rfl
@[simp] theorem setQueue_clusters (s : State) (q : Nat) (x : Queue) : (setQueue s q x).clusters = s.clusters := rfl
@[simp] theorem setQueue_events (s : State) (q : Nat) (x : Queue) : (setQueue s q x).events = s.events := rfl
@[simp] theorem setQueue_lostEvents (s : State) (q : Nat) (x : Queue) : (setQueue s q x).lostEvents = s.lostEvents := rfl
@[simp] theorem setQueue_corrs (s : State) (q : Nat) (x : Queue) : (setQueue s q x).corrs = s.corrs := rfl
@[simp] theorem setQueue_failedChannels (s : State) (q : Nat) (x : Queue) : (setQueue s q x).failedChannels = s.failedChannels := rfl
@[simp] theorem setQueue_scrubbed (s : State) (q : Nat) (x : Queue) : (setQueue s q x).scrubbed = s.scrubbed := rfl
@[simp] theorem setQueue_scrubBegan (s : State) (q : Nat) (x : Queue) : (setQueue s q x).scrubBegan = s.scrubBegan := rfl
@[simp] theorem setQueue_plans (s : State) (q : Nat) (x : Queue) : (setQueue s q x).plans = s.plans := rfl
@[simp] theorem setQueue_poweredBase (s : State) (q : Nat) (x : Queue) : (setQueue s q x).poweredBase = s.poweredBase := rfl
@[simp] theorem setQueue_transients (s : State) (q : Nat) (x : Queue) : (setQueue s q x).transients = s.transients := rfl
@[simp] theorem setQueue_retiredSlots (s : State) (q : Nat) (x : Queue) : (setQueue s q x).retiredSlots = s.retiredSlots := rfl
@[simp] theorem setQueue_corePower (s : State) (q : Nat) (x : Queue) : (setQueue s q x).corePower = s.corePower := rfl
@[simp] theorem setQueue_ports (s : State) (q : Nat) (x : Queue) : (setQueue s q x).ports = s.ports := rfl
@[simp] theorem setQueue_txns (s : State) (q : Nat) (x : Queue) : (setQueue s q x).txns = s.txns := rfl
@[simp] theorem setQueue_nextTxn (s : State) (q : Nat) (x : Queue) : (setQueue s q x).nextTxn = s.nextTxn := rfl
@[simp] theorem setQueue_colls (s : State) (q : Nat) (x : Queue) : (setQueue s q x).colls = s.colls := rfl
@[simp] theorem setQueue_early (s : State) (q : Nat) (x : Queue) : (setQueue s q x).early = s.early := rfl
@[simp] theorem setQueue_allocs (s : State) (q : Nat) (x : Queue) : (setQueue s q x).allocs = s.allocs := rfl
@[simp] theorem setQueue_poolHead (s : State) (q : Nat) (x : Queue) : (setQueue s q x).poolHead = s.poolHead := rfl
@[simp] theorem setQueue_lapStartAt (s : State) (q : Nat) (x : Queue) : (setQueue s q x).lapStartAt = s.lapStartAt := rfl
@[simp] theorem setQueue_slew (s : State) (q : Nat) (x : Queue) : (setQueue s q x).slew = s.slew := rfl
@[simp] theorem setQueue_slewed (s : State) (q : Nat) (x : Queue) : (setQueue s q x).slewed = s.slewed := rfl
@[simp] theorem setQueue_slewFrac (s : State) (q : Nat) (x : Queue) : (setQueue s q x).slewFrac = s.slewFrac := rfl
@[simp] theorem setQueue_beaconLap (s : State) (q : Nat) (x : Queue) : (setQueue s q x).beaconLap = s.beaconLap := rfl
@[simp] theorem setQueue_beacon (s : State) (q : Nat) (x : Queue) : (setQueue s q x).beacon = s.beacon := rfl
@[simp] theorem setQueue_paceIn (s : State) (q : Nat) (x : Queue) : (setQueue s q x).paceIn = s.paceIn := rfl
@[simp] theorem setQueue_heldMem (s : State) (q : Nat) (x : Queue) : (setQueue s q x).heldMem = s.heldMem := rfl
@[simp] theorem setQueue_out (s : State) (q : Nat) (x : Queue) : (setQueue s q x).out = s.out := rfl
@[simp] theorem setQueue_log (s : State) (q : Nat) (x : Queue) : (setQueue s q x).log = s.log := rfl
@[simp] theorem setQueue_logNext (s : State) (q : Nat) (x : Queue) : (setQueue s q x).logNext = s.logNext := rfl
@[simp] theorem setQueue_lastMinor (s : State) (q : Nat) (x : Queue) : (setQueue s q x).lastMinor = s.lastMinor := rfl
@[simp] theorem setQueue_history (s : State) (q : Nat) (x : Queue) : (setQueue s q x).history = s.history := rfl
@[simp] theorem setQueue_histSector (s : State) (q : Nat) (x : Queue) : (setQueue s q x).histSector = s.histSector := rfl
@[simp] theorem setQueue_histUsed (s : State) (q : Nat) (x : Queue) : (setQueue s q x).histUsed = s.histUsed := rfl
@[simp] theorem setQueue_histSeq (s : State) (q : Nat) (x : Queue) : (setQueue s q x).histSeq = s.histSeq := rfl
@[simp] theorem setQueue_powerSaved (s : State) (q : Nat) (x : Queue) : (setQueue s q x).powerSaved = s.powerSaved := rfl
@[simp] theorem setQueue_lastC3 (s : State) (q : Nat) (x : Queue) : (setQueue s q x).lastC3 = s.lastC3 := rfl
@[simp] theorem setQueue_bootC3 (s : State) (q : Nat) (x : Queue) : (setQueue s q x).bootC3 = s.bootC3 := rfl
@[simp] theorem setQueue_readSeq (s : State) (q : Nat) (x : Queue) : (setQueue s q x).readSeq = s.readSeq := rfl
@[simp] theorem setQueue_noticeSeq (s : State) (q : Nat) (x : Queue) : (setQueue s q x).noticeSeq = s.noticeSeq := rfl
@[simp] theorem setQueue_notices (s : State) (q : Nat) (x : Queue) : (setQueue s q x).notices = s.notices := rfl
@[simp] theorem setQueue_flash (s : State) (q : Nat) (x : Queue) : (setQueue s q x).flash = s.flash := rfl
@[simp] theorem setQueue_journal (s : State) (q : Nat) (x : Queue) : (setQueue s q x).journal = s.journal := rfl
@[simp] theorem setQueue_image (s : State) (q : Nat) (x : Queue) : (setQueue s q x).image = s.image := rfl
@[simp] theorem setQueue_writing (s : State) (q : Nat) (x : Queue) : (setQueue s q x).writing = s.writing := rfl
@[simp] theorem setQueue_running (s : State) (q : Nat) (x : Queue) : (setQueue s q x).running = s.running := rfl
@[simp] theorem setQueue_strapped (s : State) (q : Nat) (x : Queue) : (setQueue s q x).strapped = s.strapped := rfl
@[simp] theorem setQueue_startedAt (s : State) (q : Nat) (x : Queue) : (setQueue s q x).startedAt = s.startedAt := rfl
@[simp] theorem setQueue_stageAt (s : State) (q : Nat) (x : Queue) : (setQueue s q x).stageAt = s.stageAt := rfl
@[simp] theorem setQueue_logGap (s : State) (q : Nat) (x : Queue) : (setQueue s q x).logGap = s.logGap := rfl
@[simp] theorem setQueue_markedSlots (s : State) (q : Nat) (x : Queue) : (setQueue s q x).markedSlots = s.markedSlots := rfl
@[simp] theorem setQueue_wave (s : State) (q : Nat) (x : Queue) : (setQueue s q x).wave = s.wave := rfl
@[simp] theorem setQueue_downTo (s : State) (q : Nat) (x : Queue) : (setQueue s q x).downTo = s.downTo := rfl
@[simp] theorem setQueue_seq (s : State) (q : Nat) (x : Queue) : (setQueue s q x).seq = s.seq := rfl
@[simp] theorem setQueue_pins (s : State) (q : Nat) (x : Queue) : (setQueue s q x).pins = s.pins := rfl
@[simp] theorem setQueue_power (s : State) (q : Nat) (x : Queue) : (setQueue s q x).power = s.power := rfl
@[simp] theorem setQueue_fullTest (s : State) (q : Nat) (x : Queue) : (setQueue s q x).fullTest = s.fullTest := rfl
@[simp] theorem setQueue_sinceTest (s : State) (q : Nat) (x : Queue) : (setQueue s q x).sinceTest = s.sinceTest := rfl
@[simp] theorem setQueue_untrained (s : State) (q : Nat) (x : Queue) : (setQueue s q x).untrained = s.untrained := rfl
@[simp] theorem setQueue_retiredChannels (s : State) (q : Nat) (x : Queue) : (setQueue s q x).retiredChannels = s.retiredChannels := rfl
@[simp] theorem setQueue_store (s : State) (q : Nat) (x : Queue) : (setQueue s q x).store = s.store := rfl
@[simp] theorem setQueue_storeHalf (s : State) (q : Nat) (x : Queue) : (setQueue s q x).storeHalf = s.storeHalf := rfl
@[simp] theorem setQueue_transfers (s : State) (q : Nat) (x : Queue) : (setQueue s q x).transfers = s.transfers := rfl
@[simp] theorem setQueue_copies (s : State) (q : Nat) (x : Queue) : (setQueue s q x).copies = s.copies := rfl
@[simp] theorem setQueue_replies (s : State) (q : Nat) (x : Queue) : (setQueue s q x).replies = s.replies := rfl
@[simp] theorem setQueue_canState (s : State) (q : Nat) (x : Queue) : (setQueue s q x).canState = s.canState := rfl
@[simp] theorem setQueue_canNode (s : State) (q : Nat) (x : Queue) : (setQueue s q x).canNode = s.canNode := rfl
@[simp] theorem setQueue_canRate (s : State) (q : Nat) (x : Queue) : (setQueue s q x).canRate = s.canRate := rfl
@[simp] theorem setQueue_beatAt (s : State) (q : Nat) (x : Queue) : (setQueue s q x).beatAt = s.beatAt := rfl
@[simp] theorem setQueue_busOff (s : State) (q : Nat) (x : Queue) : (setQueue s q x).busOff = s.busOff := rfl
@[simp] theorem setQueue_sweeps (s : State) (q : Nat) (x : Queue) : (setQueue s q x).sweeps = s.sweeps := rfl
@[simp] theorem setQueue_trimRaise (s : State) (q : Nat) (x : Queue) : (setQueue s q x).trimRaise = s.trimRaise := rfl
@[simp] theorem setQueue_planHour (s : State) (q : Nat) (x : Queue) : (setQueue s q x).planHour = s.planHour := rfl
@[simp] theorem setQueue_measures (s : State) (q : Nat) (x : Queue) : (setQueue s q x).measures = s.measures := rfl
@[simp] theorem setQueue_nonce (s : State) (q : Nat) (x : Queue) : (setQueue s q x).nonce = s.nonce := rfl
@[simp] theorem setQueue_quote (s : State) (q : Nat) (x : Queue) : (setQueue s q x).quote = s.quote := rfl
@[simp] theorem setQueue_token (s : State) (q : Nat) (x : Queue) : (setQueue s q x).token = s.token := rfl
@[simp] theorem setQueue_sessions (s : State) (q : Nat) (x : Queue) : (setQueue s q x).sessions = s.sessions := rfl
@[simp] theorem setQueue_nextSession (s : State) (q : Nat) (x : Queue) : (setQueue s q x).nextSession = s.nextSession := rfl
@[simp] theorem setQueue_serves (s : State) (q : Nat) (x : Queue) : (setQueue s q x).serves = s.serves := rfl
@[simp] theorem setQueue_serveHead (s : State) (q : Nat) (x : Queue) : (setQueue s q x).serveHead = s.serveHead := rfl
@[simp] theorem setQueue_nvmes (s : State) (q : Nat) (x : Queue) : (setQueue s q x).nvmes = s.nvmes := rfl
@[simp] theorem setQueue_nextNvme (s : State) (q : Nat) (x : Queue) : (setQueue s q x).nextNvme = s.nextNvme := rfl
@[simp] theorem setQueue_storeReqs (s : State) (q : Nat) (x : Queue) : (setQueue s q x).storeReqs = s.storeReqs := rfl
@[simp] theorem setQueue_conns (s : State) (q : Nat) (x : Queue) : (setQueue s q x).conns = s.conns := rfl
@[simp] theorem setQueue_fragments (s : State) (q : Nat) (x : Queue) : (setQueue s q x).fragments = s.fragments := rfl
@[simp] theorem setQueue_paused (s : State) (q : Nat) (x : Queue) : (setQueue s q x).paused = s.paused := rfl
@[simp] theorem setQueue_pausedOut (s : State) (q : Nat) (x : Queue) : (setQueue s q x).pausedOut = s.pausedOut := rfl
@[simp] theorem setQueue_dhcpIds (s : State) (q : Nat) (x : Queue) : (setQueue s q x).dhcpIds = s.dhcpIds := rfl
@[simp] theorem setQueue_leases (s : State) (q : Nat) (x : Queue) : (setQueue s q x).leases = s.leases := rfl
@[simp] theorem setQueue_prefixes (s : State) (q : Nat) (x : Queue) : (setQueue s q x).prefixes = s.prefixes := rfl
@[simp] theorem setQueue_preload (s : State) (q : Nat) (x : Queue) : (setQueue s q x).preload = s.preload := rfl
@[simp] theorem setQueue_extest (s : State) (q : Nat) (x : Queue) : (setQueue s q x).extest = s.extest := rfl

/-! ## setCore -/

@[simp] theorem setCore_pending (s : State) (k : Nat) (x : Core) : (setCore s k x).pending = s.pending := rfl
@[simp] theorem setCore_now (s : State) (k : Nat) (x : Core) : (setCore s k x).now = s.now := rfl
@[simp] theorem setCore_lap (s : State) (k : Nat) (x : Core) : (setCore s k x).lap = s.lap := rfl
@[simp] theorem setCore_phase (s : State) (k : Nat) (x : Core) : (setCore s k x).phase = s.phase := rfl
@[simp] theorem setCore_lapStarts (s : State) (k : Nat) (x : Core) : (setCore s k x).lapStarts = s.lapStarts := rfl
@[simp] theorem setCore_regained (s : State) (k : Nat) (x : Core) : (setCore s k x).regained = s.regained := rfl
@[simp] theorem setCore_freeCtr (s : State) (k : Nat) (x : Core) : (setCore s k x).freeCtr = s.freeCtr := rfl
@[simp] theorem setCore_mem (s : State) (k : Nat) (x : Core) : (setCore s k x).mem = s.mem := rfl
@[simp] theorem setCore_blank (s : State) (k : Nat) (x : Core) : (setCore s k x).blank = s.blank := rfl
@[simp] theorem setCore_errs (s : State) (k : Nat) (x : Core) : (setCore s k x).errs = s.errs := rfl
@[simp] theorem setCore_dict (s : State) (k : Nat) (x : Core) : (setCore s k x).dict = s.dict := rfl
@[simp] theorem setCore_dom (s : State) (k : Nat) (x : Core) : (setCore s k x).dom = s.dom := rfl
@[simp] theorem setCore_heats (s : State) (k : Nat) (x : Core) : (setCore s k x).heats = s.heats := rfl
@[simp] theorem setCore_queues (s : State) (k : Nat) (x : Core) : (setCore s k x).queues = s.queues := rfl
@[simp] theorem setCore_served (s : State) (k : Nat) (x : Core) : (setCore s k x).served = s.served := rfl
@[simp] theorem setCore_cores (s : State) (k : Nat) (x : Core) : (setCore s k x).cores = tabSet {} s.cores k x := rfl
@[simp] theorem setCore_clusters (s : State) (k : Nat) (x : Core) : (setCore s k x).clusters = s.clusters := rfl
@[simp] theorem setCore_events (s : State) (k : Nat) (x : Core) : (setCore s k x).events = s.events := rfl
@[simp] theorem setCore_lostEvents (s : State) (k : Nat) (x : Core) : (setCore s k x).lostEvents = s.lostEvents := rfl
@[simp] theorem setCore_corrs (s : State) (k : Nat) (x : Core) : (setCore s k x).corrs = s.corrs := rfl
@[simp] theorem setCore_failedChannels (s : State) (k : Nat) (x : Core) : (setCore s k x).failedChannels = s.failedChannels := rfl
@[simp] theorem setCore_scrubbed (s : State) (k : Nat) (x : Core) : (setCore s k x).scrubbed = s.scrubbed := rfl
@[simp] theorem setCore_scrubBegan (s : State) (k : Nat) (x : Core) : (setCore s k x).scrubBegan = s.scrubBegan := rfl
@[simp] theorem setCore_plans (s : State) (k : Nat) (x : Core) : (setCore s k x).plans = s.plans := rfl
@[simp] theorem setCore_poweredBase (s : State) (k : Nat) (x : Core) : (setCore s k x).poweredBase = s.poweredBase := rfl
@[simp] theorem setCore_transients (s : State) (k : Nat) (x : Core) : (setCore s k x).transients = s.transients := rfl
@[simp] theorem setCore_retiredSlots (s : State) (k : Nat) (x : Core) : (setCore s k x).retiredSlots = s.retiredSlots := rfl
@[simp] theorem setCore_corePower (s : State) (k : Nat) (x : Core) : (setCore s k x).corePower = s.corePower := rfl
@[simp] theorem setCore_ports (s : State) (k : Nat) (x : Core) : (setCore s k x).ports = s.ports := rfl
@[simp] theorem setCore_txns (s : State) (k : Nat) (x : Core) : (setCore s k x).txns = s.txns := rfl
@[simp] theorem setCore_nextTxn (s : State) (k : Nat) (x : Core) : (setCore s k x).nextTxn = s.nextTxn := rfl
@[simp] theorem setCore_colls (s : State) (k : Nat) (x : Core) : (setCore s k x).colls = s.colls := rfl
@[simp] theorem setCore_early (s : State) (k : Nat) (x : Core) : (setCore s k x).early = s.early := rfl
@[simp] theorem setCore_allocs (s : State) (k : Nat) (x : Core) : (setCore s k x).allocs = s.allocs := rfl
@[simp] theorem setCore_poolHead (s : State) (k : Nat) (x : Core) : (setCore s k x).poolHead = s.poolHead := rfl
@[simp] theorem setCore_lapStartAt (s : State) (k : Nat) (x : Core) : (setCore s k x).lapStartAt = s.lapStartAt := rfl
@[simp] theorem setCore_slew (s : State) (k : Nat) (x : Core) : (setCore s k x).slew = s.slew := rfl
@[simp] theorem setCore_slewed (s : State) (k : Nat) (x : Core) : (setCore s k x).slewed = s.slewed := rfl
@[simp] theorem setCore_slewFrac (s : State) (k : Nat) (x : Core) : (setCore s k x).slewFrac = s.slewFrac := rfl
@[simp] theorem setCore_beaconLap (s : State) (k : Nat) (x : Core) : (setCore s k x).beaconLap = s.beaconLap := rfl
@[simp] theorem setCore_beacon (s : State) (k : Nat) (x : Core) : (setCore s k x).beacon = s.beacon := rfl
@[simp] theorem setCore_paceIn (s : State) (k : Nat) (x : Core) : (setCore s k x).paceIn = s.paceIn := rfl
@[simp] theorem setCore_heldMem (s : State) (k : Nat) (x : Core) : (setCore s k x).heldMem = s.heldMem := rfl
@[simp] theorem setCore_out (s : State) (k : Nat) (x : Core) : (setCore s k x).out = s.out := rfl
@[simp] theorem setCore_log (s : State) (k : Nat) (x : Core) : (setCore s k x).log = s.log := rfl
@[simp] theorem setCore_logNext (s : State) (k : Nat) (x : Core) : (setCore s k x).logNext = s.logNext := rfl
@[simp] theorem setCore_lastMinor (s : State) (k : Nat) (x : Core) : (setCore s k x).lastMinor = s.lastMinor := rfl
@[simp] theorem setCore_history (s : State) (k : Nat) (x : Core) : (setCore s k x).history = s.history := rfl
@[simp] theorem setCore_histSector (s : State) (k : Nat) (x : Core) : (setCore s k x).histSector = s.histSector := rfl
@[simp] theorem setCore_histUsed (s : State) (k : Nat) (x : Core) : (setCore s k x).histUsed = s.histUsed := rfl
@[simp] theorem setCore_histSeq (s : State) (k : Nat) (x : Core) : (setCore s k x).histSeq = s.histSeq := rfl
@[simp] theorem setCore_powerSaved (s : State) (k : Nat) (x : Core) : (setCore s k x).powerSaved = s.powerSaved := rfl
@[simp] theorem setCore_lastC3 (s : State) (k : Nat) (x : Core) : (setCore s k x).lastC3 = s.lastC3 := rfl
@[simp] theorem setCore_bootC3 (s : State) (k : Nat) (x : Core) : (setCore s k x).bootC3 = s.bootC3 := rfl
@[simp] theorem setCore_readSeq (s : State) (k : Nat) (x : Core) : (setCore s k x).readSeq = s.readSeq := rfl
@[simp] theorem setCore_noticeSeq (s : State) (k : Nat) (x : Core) : (setCore s k x).noticeSeq = s.noticeSeq := rfl
@[simp] theorem setCore_notices (s : State) (k : Nat) (x : Core) : (setCore s k x).notices = s.notices := rfl
@[simp] theorem setCore_flash (s : State) (k : Nat) (x : Core) : (setCore s k x).flash = s.flash := rfl
@[simp] theorem setCore_journal (s : State) (k : Nat) (x : Core) : (setCore s k x).journal = s.journal := rfl
@[simp] theorem setCore_image (s : State) (k : Nat) (x : Core) : (setCore s k x).image = s.image := rfl
@[simp] theorem setCore_writing (s : State) (k : Nat) (x : Core) : (setCore s k x).writing = s.writing := rfl
@[simp] theorem setCore_running (s : State) (k : Nat) (x : Core) : (setCore s k x).running = s.running := rfl
@[simp] theorem setCore_strapped (s : State) (k : Nat) (x : Core) : (setCore s k x).strapped = s.strapped := rfl
@[simp] theorem setCore_startedAt (s : State) (k : Nat) (x : Core) : (setCore s k x).startedAt = s.startedAt := rfl
@[simp] theorem setCore_stageAt (s : State) (k : Nat) (x : Core) : (setCore s k x).stageAt = s.stageAt := rfl
@[simp] theorem setCore_logGap (s : State) (k : Nat) (x : Core) : (setCore s k x).logGap = s.logGap := rfl
@[simp] theorem setCore_markedSlots (s : State) (k : Nat) (x : Core) : (setCore s k x).markedSlots = s.markedSlots := rfl
@[simp] theorem setCore_wave (s : State) (k : Nat) (x : Core) : (setCore s k x).wave = s.wave := rfl
@[simp] theorem setCore_downTo (s : State) (k : Nat) (x : Core) : (setCore s k x).downTo = s.downTo := rfl
@[simp] theorem setCore_seq (s : State) (k : Nat) (x : Core) : (setCore s k x).seq = s.seq := rfl
@[simp] theorem setCore_pins (s : State) (k : Nat) (x : Core) : (setCore s k x).pins = s.pins := rfl
@[simp] theorem setCore_power (s : State) (k : Nat) (x : Core) : (setCore s k x).power = s.power := rfl
@[simp] theorem setCore_fullTest (s : State) (k : Nat) (x : Core) : (setCore s k x).fullTest = s.fullTest := rfl
@[simp] theorem setCore_sinceTest (s : State) (k : Nat) (x : Core) : (setCore s k x).sinceTest = s.sinceTest := rfl
@[simp] theorem setCore_untrained (s : State) (k : Nat) (x : Core) : (setCore s k x).untrained = s.untrained := rfl
@[simp] theorem setCore_retiredChannels (s : State) (k : Nat) (x : Core) : (setCore s k x).retiredChannels = s.retiredChannels := rfl
@[simp] theorem setCore_store (s : State) (k : Nat) (x : Core) : (setCore s k x).store = s.store := rfl
@[simp] theorem setCore_storeHalf (s : State) (k : Nat) (x : Core) : (setCore s k x).storeHalf = s.storeHalf := rfl
@[simp] theorem setCore_transfers (s : State) (k : Nat) (x : Core) : (setCore s k x).transfers = s.transfers := rfl
@[simp] theorem setCore_copies (s : State) (k : Nat) (x : Core) : (setCore s k x).copies = s.copies := rfl
@[simp] theorem setCore_replies (s : State) (k : Nat) (x : Core) : (setCore s k x).replies = s.replies := rfl
@[simp] theorem setCore_canState (s : State) (k : Nat) (x : Core) : (setCore s k x).canState = s.canState := rfl
@[simp] theorem setCore_canNode (s : State) (k : Nat) (x : Core) : (setCore s k x).canNode = s.canNode := rfl
@[simp] theorem setCore_canRate (s : State) (k : Nat) (x : Core) : (setCore s k x).canRate = s.canRate := rfl
@[simp] theorem setCore_beatAt (s : State) (k : Nat) (x : Core) : (setCore s k x).beatAt = s.beatAt := rfl
@[simp] theorem setCore_busOff (s : State) (k : Nat) (x : Core) : (setCore s k x).busOff = s.busOff := rfl
@[simp] theorem setCore_sweeps (s : State) (k : Nat) (x : Core) : (setCore s k x).sweeps = s.sweeps := rfl
@[simp] theorem setCore_trimRaise (s : State) (k : Nat) (x : Core) : (setCore s k x).trimRaise = s.trimRaise := rfl
@[simp] theorem setCore_planHour (s : State) (k : Nat) (x : Core) : (setCore s k x).planHour = s.planHour := rfl
@[simp] theorem setCore_measures (s : State) (k : Nat) (x : Core) : (setCore s k x).measures = s.measures := rfl
@[simp] theorem setCore_nonce (s : State) (k : Nat) (x : Core) : (setCore s k x).nonce = s.nonce := rfl
@[simp] theorem setCore_quote (s : State) (k : Nat) (x : Core) : (setCore s k x).quote = s.quote := rfl
@[simp] theorem setCore_token (s : State) (k : Nat) (x : Core) : (setCore s k x).token = s.token := rfl
@[simp] theorem setCore_sessions (s : State) (k : Nat) (x : Core) : (setCore s k x).sessions = s.sessions := rfl
@[simp] theorem setCore_nextSession (s : State) (k : Nat) (x : Core) : (setCore s k x).nextSession = s.nextSession := rfl
@[simp] theorem setCore_serves (s : State) (k : Nat) (x : Core) : (setCore s k x).serves = s.serves := rfl
@[simp] theorem setCore_serveHead (s : State) (k : Nat) (x : Core) : (setCore s k x).serveHead = s.serveHead := rfl
@[simp] theorem setCore_nvmes (s : State) (k : Nat) (x : Core) : (setCore s k x).nvmes = s.nvmes := rfl
@[simp] theorem setCore_nextNvme (s : State) (k : Nat) (x : Core) : (setCore s k x).nextNvme = s.nextNvme := rfl
@[simp] theorem setCore_storeReqs (s : State) (k : Nat) (x : Core) : (setCore s k x).storeReqs = s.storeReqs := rfl
@[simp] theorem setCore_conns (s : State) (k : Nat) (x : Core) : (setCore s k x).conns = s.conns := rfl
@[simp] theorem setCore_fragments (s : State) (k : Nat) (x : Core) : (setCore s k x).fragments = s.fragments := rfl
@[simp] theorem setCore_paused (s : State) (k : Nat) (x : Core) : (setCore s k x).paused = s.paused := rfl
@[simp] theorem setCore_pausedOut (s : State) (k : Nat) (x : Core) : (setCore s k x).pausedOut = s.pausedOut := rfl
@[simp] theorem setCore_dhcpIds (s : State) (k : Nat) (x : Core) : (setCore s k x).dhcpIds = s.dhcpIds := rfl
@[simp] theorem setCore_leases (s : State) (k : Nat) (x : Core) : (setCore s k x).leases = s.leases := rfl
@[simp] theorem setCore_prefixes (s : State) (k : Nat) (x : Core) : (setCore s k x).prefixes = s.prefixes := rfl
@[simp] theorem setCore_preload (s : State) (k : Nat) (x : Core) : (setCore s k x).preload = s.preload := rfl
@[simp] theorem setCore_extest (s : State) (k : Nat) (x : Core) : (setCore s k x).extest = s.extest := rfl

/-! ## setCluster -/

@[simp] theorem setCluster_pending (s : State) (c : Nat) (x : Cluster) : (setCluster s c x).pending = s.pending := rfl
@[simp] theorem setCluster_now (s : State) (c : Nat) (x : Cluster) : (setCluster s c x).now = s.now := rfl
@[simp] theorem setCluster_lap (s : State) (c : Nat) (x : Cluster) : (setCluster s c x).lap = s.lap := rfl
@[simp] theorem setCluster_phase (s : State) (c : Nat) (x : Cluster) : (setCluster s c x).phase = s.phase := rfl
@[simp] theorem setCluster_lapStarts (s : State) (c : Nat) (x : Cluster) : (setCluster s c x).lapStarts = s.lapStarts := rfl
@[simp] theorem setCluster_regained (s : State) (c : Nat) (x : Cluster) : (setCluster s c x).regained = s.regained := rfl
@[simp] theorem setCluster_freeCtr (s : State) (c : Nat) (x : Cluster) : (setCluster s c x).freeCtr = s.freeCtr := rfl
@[simp] theorem setCluster_mem (s : State) (c : Nat) (x : Cluster) : (setCluster s c x).mem = s.mem := rfl
@[simp] theorem setCluster_blank (s : State) (c : Nat) (x : Cluster) : (setCluster s c x).blank = s.blank := rfl
@[simp] theorem setCluster_errs (s : State) (c : Nat) (x : Cluster) : (setCluster s c x).errs = s.errs := rfl
@[simp] theorem setCluster_dict (s : State) (c : Nat) (x : Cluster) : (setCluster s c x).dict = s.dict := rfl
@[simp] theorem setCluster_dom (s : State) (c : Nat) (x : Cluster) : (setCluster s c x).dom = s.dom := rfl
@[simp] theorem setCluster_heats (s : State) (c : Nat) (x : Cluster) : (setCluster s c x).heats = s.heats := rfl
@[simp] theorem setCluster_queues (s : State) (c : Nat) (x : Cluster) : (setCluster s c x).queues = s.queues := rfl
@[simp] theorem setCluster_served (s : State) (c : Nat) (x : Cluster) : (setCluster s c x).served = s.served := rfl
@[simp] theorem setCluster_cores (s : State) (c : Nat) (x : Cluster) : (setCluster s c x).cores = s.cores := rfl
@[simp] theorem setCluster_clusters (s : State) (c : Nat) (x : Cluster) : (setCluster s c x).clusters = tabSet {} s.clusters c x := rfl
@[simp] theorem setCluster_events (s : State) (c : Nat) (x : Cluster) : (setCluster s c x).events = s.events := rfl
@[simp] theorem setCluster_lostEvents (s : State) (c : Nat) (x : Cluster) : (setCluster s c x).lostEvents = s.lostEvents := rfl
@[simp] theorem setCluster_corrs (s : State) (c : Nat) (x : Cluster) : (setCluster s c x).corrs = s.corrs := rfl
@[simp] theorem setCluster_failedChannels (s : State) (c : Nat) (x : Cluster) : (setCluster s c x).failedChannels = s.failedChannels := rfl
@[simp] theorem setCluster_scrubbed (s : State) (c : Nat) (x : Cluster) : (setCluster s c x).scrubbed = s.scrubbed := rfl
@[simp] theorem setCluster_scrubBegan (s : State) (c : Nat) (x : Cluster) : (setCluster s c x).scrubBegan = s.scrubBegan := rfl
@[simp] theorem setCluster_plans (s : State) (c : Nat) (x : Cluster) : (setCluster s c x).plans = s.plans := rfl
@[simp] theorem setCluster_poweredBase (s : State) (c : Nat) (x : Cluster) : (setCluster s c x).poweredBase = s.poweredBase := rfl
@[simp] theorem setCluster_transients (s : State) (c : Nat) (x : Cluster) : (setCluster s c x).transients = s.transients := rfl
@[simp] theorem setCluster_retiredSlots (s : State) (c : Nat) (x : Cluster) : (setCluster s c x).retiredSlots = s.retiredSlots := rfl
@[simp] theorem setCluster_corePower (s : State) (c : Nat) (x : Cluster) : (setCluster s c x).corePower = s.corePower := rfl
@[simp] theorem setCluster_ports (s : State) (c : Nat) (x : Cluster) : (setCluster s c x).ports = s.ports := rfl
@[simp] theorem setCluster_txns (s : State) (c : Nat) (x : Cluster) : (setCluster s c x).txns = s.txns := rfl
@[simp] theorem setCluster_nextTxn (s : State) (c : Nat) (x : Cluster) : (setCluster s c x).nextTxn = s.nextTxn := rfl
@[simp] theorem setCluster_colls (s : State) (c : Nat) (x : Cluster) : (setCluster s c x).colls = s.colls := rfl
@[simp] theorem setCluster_early (s : State) (c : Nat) (x : Cluster) : (setCluster s c x).early = s.early := rfl
@[simp] theorem setCluster_allocs (s : State) (c : Nat) (x : Cluster) : (setCluster s c x).allocs = s.allocs := rfl
@[simp] theorem setCluster_poolHead (s : State) (c : Nat) (x : Cluster) : (setCluster s c x).poolHead = s.poolHead := rfl
@[simp] theorem setCluster_lapStartAt (s : State) (c : Nat) (x : Cluster) : (setCluster s c x).lapStartAt = s.lapStartAt := rfl
@[simp] theorem setCluster_slew (s : State) (c : Nat) (x : Cluster) : (setCluster s c x).slew = s.slew := rfl
@[simp] theorem setCluster_slewed (s : State) (c : Nat) (x : Cluster) : (setCluster s c x).slewed = s.slewed := rfl
@[simp] theorem setCluster_slewFrac (s : State) (c : Nat) (x : Cluster) : (setCluster s c x).slewFrac = s.slewFrac := rfl
@[simp] theorem setCluster_beaconLap (s : State) (c : Nat) (x : Cluster) : (setCluster s c x).beaconLap = s.beaconLap := rfl
@[simp] theorem setCluster_beacon (s : State) (c : Nat) (x : Cluster) : (setCluster s c x).beacon = s.beacon := rfl
@[simp] theorem setCluster_paceIn (s : State) (c : Nat) (x : Cluster) : (setCluster s c x).paceIn = s.paceIn := rfl
@[simp] theorem setCluster_heldMem (s : State) (c : Nat) (x : Cluster) : (setCluster s c x).heldMem = s.heldMem := rfl
@[simp] theorem setCluster_out (s : State) (c : Nat) (x : Cluster) : (setCluster s c x).out = s.out := rfl
@[simp] theorem setCluster_log (s : State) (c : Nat) (x : Cluster) : (setCluster s c x).log = s.log := rfl
@[simp] theorem setCluster_logNext (s : State) (c : Nat) (x : Cluster) : (setCluster s c x).logNext = s.logNext := rfl
@[simp] theorem setCluster_lastMinor (s : State) (c : Nat) (x : Cluster) : (setCluster s c x).lastMinor = s.lastMinor := rfl
@[simp] theorem setCluster_history (s : State) (c : Nat) (x : Cluster) : (setCluster s c x).history = s.history := rfl
@[simp] theorem setCluster_histSector (s : State) (c : Nat) (x : Cluster) : (setCluster s c x).histSector = s.histSector := rfl
@[simp] theorem setCluster_histUsed (s : State) (c : Nat) (x : Cluster) : (setCluster s c x).histUsed = s.histUsed := rfl
@[simp] theorem setCluster_histSeq (s : State) (c : Nat) (x : Cluster) : (setCluster s c x).histSeq = s.histSeq := rfl
@[simp] theorem setCluster_powerSaved (s : State) (c : Nat) (x : Cluster) : (setCluster s c x).powerSaved = s.powerSaved := rfl
@[simp] theorem setCluster_lastC3 (s : State) (c : Nat) (x : Cluster) : (setCluster s c x).lastC3 = s.lastC3 := rfl
@[simp] theorem setCluster_bootC3 (s : State) (c : Nat) (x : Cluster) : (setCluster s c x).bootC3 = s.bootC3 := rfl
@[simp] theorem setCluster_readSeq (s : State) (c : Nat) (x : Cluster) : (setCluster s c x).readSeq = s.readSeq := rfl
@[simp] theorem setCluster_noticeSeq (s : State) (c : Nat) (x : Cluster) : (setCluster s c x).noticeSeq = s.noticeSeq := rfl
@[simp] theorem setCluster_notices (s : State) (c : Nat) (x : Cluster) : (setCluster s c x).notices = s.notices := rfl
@[simp] theorem setCluster_flash (s : State) (c : Nat) (x : Cluster) : (setCluster s c x).flash = s.flash := rfl
@[simp] theorem setCluster_journal (s : State) (c : Nat) (x : Cluster) : (setCluster s c x).journal = s.journal := rfl
@[simp] theorem setCluster_image (s : State) (c : Nat) (x : Cluster) : (setCluster s c x).image = s.image := rfl
@[simp] theorem setCluster_writing (s : State) (c : Nat) (x : Cluster) : (setCluster s c x).writing = s.writing := rfl
@[simp] theorem setCluster_running (s : State) (c : Nat) (x : Cluster) : (setCluster s c x).running = s.running := rfl
@[simp] theorem setCluster_strapped (s : State) (c : Nat) (x : Cluster) : (setCluster s c x).strapped = s.strapped := rfl
@[simp] theorem setCluster_startedAt (s : State) (c : Nat) (x : Cluster) : (setCluster s c x).startedAt = s.startedAt := rfl
@[simp] theorem setCluster_stageAt (s : State) (c : Nat) (x : Cluster) : (setCluster s c x).stageAt = s.stageAt := rfl
@[simp] theorem setCluster_logGap (s : State) (c : Nat) (x : Cluster) : (setCluster s c x).logGap = s.logGap := rfl
@[simp] theorem setCluster_markedSlots (s : State) (c : Nat) (x : Cluster) : (setCluster s c x).markedSlots = s.markedSlots := rfl
@[simp] theorem setCluster_wave (s : State) (c : Nat) (x : Cluster) : (setCluster s c x).wave = s.wave := rfl
@[simp] theorem setCluster_downTo (s : State) (c : Nat) (x : Cluster) : (setCluster s c x).downTo = s.downTo := rfl
@[simp] theorem setCluster_seq (s : State) (c : Nat) (x : Cluster) : (setCluster s c x).seq = s.seq := rfl
@[simp] theorem setCluster_pins (s : State) (c : Nat) (x : Cluster) : (setCluster s c x).pins = s.pins := rfl
@[simp] theorem setCluster_power (s : State) (c : Nat) (x : Cluster) : (setCluster s c x).power = s.power := rfl
@[simp] theorem setCluster_fullTest (s : State) (c : Nat) (x : Cluster) : (setCluster s c x).fullTest = s.fullTest := rfl
@[simp] theorem setCluster_sinceTest (s : State) (c : Nat) (x : Cluster) : (setCluster s c x).sinceTest = s.sinceTest := rfl
@[simp] theorem setCluster_untrained (s : State) (c : Nat) (x : Cluster) : (setCluster s c x).untrained = s.untrained := rfl
@[simp] theorem setCluster_retiredChannels (s : State) (c : Nat) (x : Cluster) : (setCluster s c x).retiredChannels = s.retiredChannels := rfl
@[simp] theorem setCluster_store (s : State) (c : Nat) (x : Cluster) : (setCluster s c x).store = s.store := rfl
@[simp] theorem setCluster_storeHalf (s : State) (c : Nat) (x : Cluster) : (setCluster s c x).storeHalf = s.storeHalf := rfl
@[simp] theorem setCluster_transfers (s : State) (c : Nat) (x : Cluster) : (setCluster s c x).transfers = s.transfers := rfl
@[simp] theorem setCluster_copies (s : State) (c : Nat) (x : Cluster) : (setCluster s c x).copies = s.copies := rfl
@[simp] theorem setCluster_replies (s : State) (c : Nat) (x : Cluster) : (setCluster s c x).replies = s.replies := rfl
@[simp] theorem setCluster_canState (s : State) (c : Nat) (x : Cluster) : (setCluster s c x).canState = s.canState := rfl
@[simp] theorem setCluster_canNode (s : State) (c : Nat) (x : Cluster) : (setCluster s c x).canNode = s.canNode := rfl
@[simp] theorem setCluster_canRate (s : State) (c : Nat) (x : Cluster) : (setCluster s c x).canRate = s.canRate := rfl
@[simp] theorem setCluster_beatAt (s : State) (c : Nat) (x : Cluster) : (setCluster s c x).beatAt = s.beatAt := rfl
@[simp] theorem setCluster_busOff (s : State) (c : Nat) (x : Cluster) : (setCluster s c x).busOff = s.busOff := rfl
@[simp] theorem setCluster_sweeps (s : State) (c : Nat) (x : Cluster) : (setCluster s c x).sweeps = s.sweeps := rfl
@[simp] theorem setCluster_trimRaise (s : State) (c : Nat) (x : Cluster) : (setCluster s c x).trimRaise = s.trimRaise := rfl
@[simp] theorem setCluster_planHour (s : State) (c : Nat) (x : Cluster) : (setCluster s c x).planHour = s.planHour := rfl
@[simp] theorem setCluster_measures (s : State) (c : Nat) (x : Cluster) : (setCluster s c x).measures = s.measures := rfl
@[simp] theorem setCluster_nonce (s : State) (c : Nat) (x : Cluster) : (setCluster s c x).nonce = s.nonce := rfl
@[simp] theorem setCluster_quote (s : State) (c : Nat) (x : Cluster) : (setCluster s c x).quote = s.quote := rfl
@[simp] theorem setCluster_token (s : State) (c : Nat) (x : Cluster) : (setCluster s c x).token = s.token := rfl
@[simp] theorem setCluster_sessions (s : State) (c : Nat) (x : Cluster) : (setCluster s c x).sessions = s.sessions := rfl
@[simp] theorem setCluster_nextSession (s : State) (c : Nat) (x : Cluster) : (setCluster s c x).nextSession = s.nextSession := rfl
@[simp] theorem setCluster_serves (s : State) (c : Nat) (x : Cluster) : (setCluster s c x).serves = s.serves := rfl
@[simp] theorem setCluster_serveHead (s : State) (c : Nat) (x : Cluster) : (setCluster s c x).serveHead = s.serveHead := rfl
@[simp] theorem setCluster_nvmes (s : State) (c : Nat) (x : Cluster) : (setCluster s c x).nvmes = s.nvmes := rfl
@[simp] theorem setCluster_nextNvme (s : State) (c : Nat) (x : Cluster) : (setCluster s c x).nextNvme = s.nextNvme := rfl
@[simp] theorem setCluster_storeReqs (s : State) (c : Nat) (x : Cluster) : (setCluster s c x).storeReqs = s.storeReqs := rfl
@[simp] theorem setCluster_conns (s : State) (c : Nat) (x : Cluster) : (setCluster s c x).conns = s.conns := rfl
@[simp] theorem setCluster_fragments (s : State) (c : Nat) (x : Cluster) : (setCluster s c x).fragments = s.fragments := rfl
@[simp] theorem setCluster_paused (s : State) (c : Nat) (x : Cluster) : (setCluster s c x).paused = s.paused := rfl
@[simp] theorem setCluster_pausedOut (s : State) (c : Nat) (x : Cluster) : (setCluster s c x).pausedOut = s.pausedOut := rfl
@[simp] theorem setCluster_dhcpIds (s : State) (c : Nat) (x : Cluster) : (setCluster s c x).dhcpIds = s.dhcpIds := rfl
@[simp] theorem setCluster_leases (s : State) (c : Nat) (x : Cluster) : (setCluster s c x).leases = s.leases := rfl
@[simp] theorem setCluster_prefixes (s : State) (c : Nat) (x : Cluster) : (setCluster s c x).prefixes = s.prefixes := rfl
@[simp] theorem setCluster_preload (s : State) (c : Nat) (x : Cluster) : (setCluster s c x).preload = s.preload := rfl
@[simp] theorem setCluster_extest (s : State) (c : Nat) (x : Cluster) : (setCluster s c x).extest = s.extest := rfl

/-! ## setPort -/

@[simp] theorem setPort_pending (s : State) (p : Nat) (x : Port) : (setPort s p x).pending = s.pending := rfl
@[simp] theorem setPort_now (s : State) (p : Nat) (x : Port) : (setPort s p x).now = s.now := rfl
@[simp] theorem setPort_lap (s : State) (p : Nat) (x : Port) : (setPort s p x).lap = s.lap := rfl
@[simp] theorem setPort_phase (s : State) (p : Nat) (x : Port) : (setPort s p x).phase = s.phase := rfl
@[simp] theorem setPort_lapStarts (s : State) (p : Nat) (x : Port) : (setPort s p x).lapStarts = s.lapStarts := rfl
@[simp] theorem setPort_regained (s : State) (p : Nat) (x : Port) : (setPort s p x).regained = s.regained := rfl
@[simp] theorem setPort_freeCtr (s : State) (p : Nat) (x : Port) : (setPort s p x).freeCtr = s.freeCtr := rfl
@[simp] theorem setPort_mem (s : State) (p : Nat) (x : Port) : (setPort s p x).mem = s.mem := rfl
@[simp] theorem setPort_blank (s : State) (p : Nat) (x : Port) : (setPort s p x).blank = s.blank := rfl
@[simp] theorem setPort_errs (s : State) (p : Nat) (x : Port) : (setPort s p x).errs = s.errs := rfl
@[simp] theorem setPort_dict (s : State) (p : Nat) (x : Port) : (setPort s p x).dict = s.dict := rfl
@[simp] theorem setPort_dom (s : State) (p : Nat) (x : Port) : (setPort s p x).dom = s.dom := rfl
@[simp] theorem setPort_heats (s : State) (p : Nat) (x : Port) : (setPort s p x).heats = s.heats := rfl
@[simp] theorem setPort_queues (s : State) (p : Nat) (x : Port) : (setPort s p x).queues = s.queues := rfl
@[simp] theorem setPort_served (s : State) (p : Nat) (x : Port) : (setPort s p x).served = s.served := rfl
@[simp] theorem setPort_cores (s : State) (p : Nat) (x : Port) : (setPort s p x).cores = s.cores := rfl
@[simp] theorem setPort_clusters (s : State) (p : Nat) (x : Port) : (setPort s p x).clusters = s.clusters := rfl
@[simp] theorem setPort_events (s : State) (p : Nat) (x : Port) : (setPort s p x).events = s.events := rfl
@[simp] theorem setPort_lostEvents (s : State) (p : Nat) (x : Port) : (setPort s p x).lostEvents = s.lostEvents := rfl
@[simp] theorem setPort_corrs (s : State) (p : Nat) (x : Port) : (setPort s p x).corrs = s.corrs := rfl
@[simp] theorem setPort_failedChannels (s : State) (p : Nat) (x : Port) : (setPort s p x).failedChannels = s.failedChannels := rfl
@[simp] theorem setPort_scrubbed (s : State) (p : Nat) (x : Port) : (setPort s p x).scrubbed = s.scrubbed := rfl
@[simp] theorem setPort_scrubBegan (s : State) (p : Nat) (x : Port) : (setPort s p x).scrubBegan = s.scrubBegan := rfl
@[simp] theorem setPort_plans (s : State) (p : Nat) (x : Port) : (setPort s p x).plans = s.plans := rfl
@[simp] theorem setPort_poweredBase (s : State) (p : Nat) (x : Port) : (setPort s p x).poweredBase = s.poweredBase := rfl
@[simp] theorem setPort_transients (s : State) (p : Nat) (x : Port) : (setPort s p x).transients = s.transients := rfl
@[simp] theorem setPort_retiredSlots (s : State) (p : Nat) (x : Port) : (setPort s p x).retiredSlots = s.retiredSlots := rfl
@[simp] theorem setPort_corePower (s : State) (p : Nat) (x : Port) : (setPort s p x).corePower = s.corePower := rfl
@[simp] theorem setPort_ports (s : State) (p : Nat) (x : Port) : (setPort s p x).ports = tabSet {} s.ports p x := rfl
@[simp] theorem setPort_txns (s : State) (p : Nat) (x : Port) : (setPort s p x).txns = s.txns := rfl
@[simp] theorem setPort_nextTxn (s : State) (p : Nat) (x : Port) : (setPort s p x).nextTxn = s.nextTxn := rfl
@[simp] theorem setPort_colls (s : State) (p : Nat) (x : Port) : (setPort s p x).colls = s.colls := rfl
@[simp] theorem setPort_early (s : State) (p : Nat) (x : Port) : (setPort s p x).early = s.early := rfl
@[simp] theorem setPort_allocs (s : State) (p : Nat) (x : Port) : (setPort s p x).allocs = s.allocs := rfl
@[simp] theorem setPort_poolHead (s : State) (p : Nat) (x : Port) : (setPort s p x).poolHead = s.poolHead := rfl
@[simp] theorem setPort_lapStartAt (s : State) (p : Nat) (x : Port) : (setPort s p x).lapStartAt = s.lapStartAt := rfl
@[simp] theorem setPort_slew (s : State) (p : Nat) (x : Port) : (setPort s p x).slew = s.slew := rfl
@[simp] theorem setPort_slewed (s : State) (p : Nat) (x : Port) : (setPort s p x).slewed = s.slewed := rfl
@[simp] theorem setPort_slewFrac (s : State) (p : Nat) (x : Port) : (setPort s p x).slewFrac = s.slewFrac := rfl
@[simp] theorem setPort_beaconLap (s : State) (p : Nat) (x : Port) : (setPort s p x).beaconLap = s.beaconLap := rfl
@[simp] theorem setPort_beacon (s : State) (p : Nat) (x : Port) : (setPort s p x).beacon = s.beacon := rfl
@[simp] theorem setPort_paceIn (s : State) (p : Nat) (x : Port) : (setPort s p x).paceIn = s.paceIn := rfl
@[simp] theorem setPort_heldMem (s : State) (p : Nat) (x : Port) : (setPort s p x).heldMem = s.heldMem := rfl
@[simp] theorem setPort_out (s : State) (p : Nat) (x : Port) : (setPort s p x).out = s.out := rfl
@[simp] theorem setPort_log (s : State) (p : Nat) (x : Port) : (setPort s p x).log = s.log := rfl
@[simp] theorem setPort_logNext (s : State) (p : Nat) (x : Port) : (setPort s p x).logNext = s.logNext := rfl
@[simp] theorem setPort_lastMinor (s : State) (p : Nat) (x : Port) : (setPort s p x).lastMinor = s.lastMinor := rfl
@[simp] theorem setPort_history (s : State) (p : Nat) (x : Port) : (setPort s p x).history = s.history := rfl
@[simp] theorem setPort_histSector (s : State) (p : Nat) (x : Port) : (setPort s p x).histSector = s.histSector := rfl
@[simp] theorem setPort_histUsed (s : State) (p : Nat) (x : Port) : (setPort s p x).histUsed = s.histUsed := rfl
@[simp] theorem setPort_histSeq (s : State) (p : Nat) (x : Port) : (setPort s p x).histSeq = s.histSeq := rfl
@[simp] theorem setPort_powerSaved (s : State) (p : Nat) (x : Port) : (setPort s p x).powerSaved = s.powerSaved := rfl
@[simp] theorem setPort_lastC3 (s : State) (p : Nat) (x : Port) : (setPort s p x).lastC3 = s.lastC3 := rfl
@[simp] theorem setPort_bootC3 (s : State) (p : Nat) (x : Port) : (setPort s p x).bootC3 = s.bootC3 := rfl
@[simp] theorem setPort_readSeq (s : State) (p : Nat) (x : Port) : (setPort s p x).readSeq = s.readSeq := rfl
@[simp] theorem setPort_noticeSeq (s : State) (p : Nat) (x : Port) : (setPort s p x).noticeSeq = s.noticeSeq := rfl
@[simp] theorem setPort_notices (s : State) (p : Nat) (x : Port) : (setPort s p x).notices = s.notices := rfl
@[simp] theorem setPort_flash (s : State) (p : Nat) (x : Port) : (setPort s p x).flash = s.flash := rfl
@[simp] theorem setPort_journal (s : State) (p : Nat) (x : Port) : (setPort s p x).journal = s.journal := rfl
@[simp] theorem setPort_image (s : State) (p : Nat) (x : Port) : (setPort s p x).image = s.image := rfl
@[simp] theorem setPort_writing (s : State) (p : Nat) (x : Port) : (setPort s p x).writing = s.writing := rfl
@[simp] theorem setPort_running (s : State) (p : Nat) (x : Port) : (setPort s p x).running = s.running := rfl
@[simp] theorem setPort_strapped (s : State) (p : Nat) (x : Port) : (setPort s p x).strapped = s.strapped := rfl
@[simp] theorem setPort_startedAt (s : State) (p : Nat) (x : Port) : (setPort s p x).startedAt = s.startedAt := rfl
@[simp] theorem setPort_stageAt (s : State) (p : Nat) (x : Port) : (setPort s p x).stageAt = s.stageAt := rfl
@[simp] theorem setPort_logGap (s : State) (p : Nat) (x : Port) : (setPort s p x).logGap = s.logGap := rfl
@[simp] theorem setPort_markedSlots (s : State) (p : Nat) (x : Port) : (setPort s p x).markedSlots = s.markedSlots := rfl
@[simp] theorem setPort_wave (s : State) (p : Nat) (x : Port) : (setPort s p x).wave = s.wave := rfl
@[simp] theorem setPort_downTo (s : State) (p : Nat) (x : Port) : (setPort s p x).downTo = s.downTo := rfl
@[simp] theorem setPort_seq (s : State) (p : Nat) (x : Port) : (setPort s p x).seq = s.seq := rfl
@[simp] theorem setPort_pins (s : State) (p : Nat) (x : Port) : (setPort s p x).pins = s.pins := rfl
@[simp] theorem setPort_power (s : State) (p : Nat) (x : Port) : (setPort s p x).power = s.power := rfl
@[simp] theorem setPort_fullTest (s : State) (p : Nat) (x : Port) : (setPort s p x).fullTest = s.fullTest := rfl
@[simp] theorem setPort_sinceTest (s : State) (p : Nat) (x : Port) : (setPort s p x).sinceTest = s.sinceTest := rfl
@[simp] theorem setPort_untrained (s : State) (p : Nat) (x : Port) : (setPort s p x).untrained = s.untrained := rfl
@[simp] theorem setPort_retiredChannels (s : State) (p : Nat) (x : Port) : (setPort s p x).retiredChannels = s.retiredChannels := rfl
@[simp] theorem setPort_store (s : State) (p : Nat) (x : Port) : (setPort s p x).store = s.store := rfl
@[simp] theorem setPort_storeHalf (s : State) (p : Nat) (x : Port) : (setPort s p x).storeHalf = s.storeHalf := rfl
@[simp] theorem setPort_transfers (s : State) (p : Nat) (x : Port) : (setPort s p x).transfers = s.transfers := rfl
@[simp] theorem setPort_copies (s : State) (p : Nat) (x : Port) : (setPort s p x).copies = s.copies := rfl
@[simp] theorem setPort_replies (s : State) (p : Nat) (x : Port) : (setPort s p x).replies = s.replies := rfl
@[simp] theorem setPort_canState (s : State) (p : Nat) (x : Port) : (setPort s p x).canState = s.canState := rfl
@[simp] theorem setPort_canNode (s : State) (p : Nat) (x : Port) : (setPort s p x).canNode = s.canNode := rfl
@[simp] theorem setPort_canRate (s : State) (p : Nat) (x : Port) : (setPort s p x).canRate = s.canRate := rfl
@[simp] theorem setPort_beatAt (s : State) (p : Nat) (x : Port) : (setPort s p x).beatAt = s.beatAt := rfl
@[simp] theorem setPort_busOff (s : State) (p : Nat) (x : Port) : (setPort s p x).busOff = s.busOff := rfl
@[simp] theorem setPort_sweeps (s : State) (p : Nat) (x : Port) : (setPort s p x).sweeps = s.sweeps := rfl
@[simp] theorem setPort_trimRaise (s : State) (p : Nat) (x : Port) : (setPort s p x).trimRaise = s.trimRaise := rfl
@[simp] theorem setPort_planHour (s : State) (p : Nat) (x : Port) : (setPort s p x).planHour = s.planHour := rfl
@[simp] theorem setPort_measures (s : State) (p : Nat) (x : Port) : (setPort s p x).measures = s.measures := rfl
@[simp] theorem setPort_nonce (s : State) (p : Nat) (x : Port) : (setPort s p x).nonce = s.nonce := rfl
@[simp] theorem setPort_quote (s : State) (p : Nat) (x : Port) : (setPort s p x).quote = s.quote := rfl
@[simp] theorem setPort_token (s : State) (p : Nat) (x : Port) : (setPort s p x).token = s.token := rfl
@[simp] theorem setPort_sessions (s : State) (p : Nat) (x : Port) : (setPort s p x).sessions = s.sessions := rfl
@[simp] theorem setPort_nextSession (s : State) (p : Nat) (x : Port) : (setPort s p x).nextSession = s.nextSession := rfl
@[simp] theorem setPort_serves (s : State) (p : Nat) (x : Port) : (setPort s p x).serves = s.serves := rfl
@[simp] theorem setPort_serveHead (s : State) (p : Nat) (x : Port) : (setPort s p x).serveHead = s.serveHead := rfl
@[simp] theorem setPort_nvmes (s : State) (p : Nat) (x : Port) : (setPort s p x).nvmes = s.nvmes := rfl
@[simp] theorem setPort_nextNvme (s : State) (p : Nat) (x : Port) : (setPort s p x).nextNvme = s.nextNvme := rfl
@[simp] theorem setPort_storeReqs (s : State) (p : Nat) (x : Port) : (setPort s p x).storeReqs = s.storeReqs := rfl
@[simp] theorem setPort_conns (s : State) (p : Nat) (x : Port) : (setPort s p x).conns = s.conns := rfl
@[simp] theorem setPort_fragments (s : State) (p : Nat) (x : Port) : (setPort s p x).fragments = s.fragments := rfl
@[simp] theorem setPort_paused (s : State) (p : Nat) (x : Port) : (setPort s p x).paused = s.paused := rfl
@[simp] theorem setPort_pausedOut (s : State) (p : Nat) (x : Port) : (setPort s p x).pausedOut = s.pausedOut := rfl
@[simp] theorem setPort_dhcpIds (s : State) (p : Nat) (x : Port) : (setPort s p x).dhcpIds = s.dhcpIds := rfl
@[simp] theorem setPort_leases (s : State) (p : Nat) (x : Port) : (setPort s p x).leases = s.leases := rfl
@[simp] theorem setPort_prefixes (s : State) (p : Nat) (x : Port) : (setPort s p x).prefixes = s.prefixes := rfl
@[simp] theorem setPort_preload (s : State) (p : Nat) (x : Port) : (setPort s p x).preload = s.preload := rfl
@[simp] theorem setPort_extest (s : State) (p : Nat) (x : Port) : (setPort s p x).extest = s.extest := rfl

/-! ## setSession -/

@[simp] theorem setSession_pending (s : State) (n : Nat) (x : Session) : (setSession s n x).pending = s.pending := rfl
@[simp] theorem setSession_now (s : State) (n : Nat) (x : Session) : (setSession s n x).now = s.now := rfl
@[simp] theorem setSession_lap (s : State) (n : Nat) (x : Session) : (setSession s n x).lap = s.lap := rfl
@[simp] theorem setSession_phase (s : State) (n : Nat) (x : Session) : (setSession s n x).phase = s.phase := rfl
@[simp] theorem setSession_lapStarts (s : State) (n : Nat) (x : Session) : (setSession s n x).lapStarts = s.lapStarts := rfl
@[simp] theorem setSession_regained (s : State) (n : Nat) (x : Session) : (setSession s n x).regained = s.regained := rfl
@[simp] theorem setSession_freeCtr (s : State) (n : Nat) (x : Session) : (setSession s n x).freeCtr = s.freeCtr := rfl
@[simp] theorem setSession_mem (s : State) (n : Nat) (x : Session) : (setSession s n x).mem = s.mem := rfl
@[simp] theorem setSession_blank (s : State) (n : Nat) (x : Session) : (setSession s n x).blank = s.blank := rfl
@[simp] theorem setSession_errs (s : State) (n : Nat) (x : Session) : (setSession s n x).errs = s.errs := rfl
@[simp] theorem setSession_dict (s : State) (n : Nat) (x : Session) : (setSession s n x).dict = s.dict := rfl
@[simp] theorem setSession_dom (s : State) (n : Nat) (x : Session) : (setSession s n x).dom = s.dom := rfl
@[simp] theorem setSession_heats (s : State) (n : Nat) (x : Session) : (setSession s n x).heats = s.heats := rfl
@[simp] theorem setSession_queues (s : State) (n : Nat) (x : Session) : (setSession s n x).queues = s.queues := rfl
@[simp] theorem setSession_served (s : State) (n : Nat) (x : Session) : (setSession s n x).served = s.served := rfl
@[simp] theorem setSession_cores (s : State) (n : Nat) (x : Session) : (setSession s n x).cores = s.cores := rfl
@[simp] theorem setSession_clusters (s : State) (n : Nat) (x : Session) : (setSession s n x).clusters = s.clusters := rfl
@[simp] theorem setSession_events (s : State) (n : Nat) (x : Session) : (setSession s n x).events = s.events := rfl
@[simp] theorem setSession_lostEvents (s : State) (n : Nat) (x : Session) : (setSession s n x).lostEvents = s.lostEvents := rfl
@[simp] theorem setSession_corrs (s : State) (n : Nat) (x : Session) : (setSession s n x).corrs = s.corrs := rfl
@[simp] theorem setSession_failedChannels (s : State) (n : Nat) (x : Session) : (setSession s n x).failedChannels = s.failedChannels := rfl
@[simp] theorem setSession_scrubbed (s : State) (n : Nat) (x : Session) : (setSession s n x).scrubbed = s.scrubbed := rfl
@[simp] theorem setSession_scrubBegan (s : State) (n : Nat) (x : Session) : (setSession s n x).scrubBegan = s.scrubBegan := rfl
@[simp] theorem setSession_plans (s : State) (n : Nat) (x : Session) : (setSession s n x).plans = s.plans := rfl
@[simp] theorem setSession_poweredBase (s : State) (n : Nat) (x : Session) : (setSession s n x).poweredBase = s.poweredBase := rfl
@[simp] theorem setSession_transients (s : State) (n : Nat) (x : Session) : (setSession s n x).transients = s.transients := rfl
@[simp] theorem setSession_retiredSlots (s : State) (n : Nat) (x : Session) : (setSession s n x).retiredSlots = s.retiredSlots := rfl
@[simp] theorem setSession_corePower (s : State) (n : Nat) (x : Session) : (setSession s n x).corePower = s.corePower := rfl
@[simp] theorem setSession_ports (s : State) (n : Nat) (x : Session) : (setSession s n x).ports = s.ports := rfl
@[simp] theorem setSession_txns (s : State) (n : Nat) (x : Session) : (setSession s n x).txns = s.txns := rfl
@[simp] theorem setSession_nextTxn (s : State) (n : Nat) (x : Session) : (setSession s n x).nextTxn = s.nextTxn := rfl
@[simp] theorem setSession_colls (s : State) (n : Nat) (x : Session) : (setSession s n x).colls = s.colls := rfl
@[simp] theorem setSession_early (s : State) (n : Nat) (x : Session) : (setSession s n x).early = s.early := rfl
@[simp] theorem setSession_allocs (s : State) (n : Nat) (x : Session) : (setSession s n x).allocs = s.allocs := rfl
@[simp] theorem setSession_poolHead (s : State) (n : Nat) (x : Session) : (setSession s n x).poolHead = s.poolHead := rfl
@[simp] theorem setSession_lapStartAt (s : State) (n : Nat) (x : Session) : (setSession s n x).lapStartAt = s.lapStartAt := rfl
@[simp] theorem setSession_slew (s : State) (n : Nat) (x : Session) : (setSession s n x).slew = s.slew := rfl
@[simp] theorem setSession_slewed (s : State) (n : Nat) (x : Session) : (setSession s n x).slewed = s.slewed := rfl
@[simp] theorem setSession_slewFrac (s : State) (n : Nat) (x : Session) : (setSession s n x).slewFrac = s.slewFrac := rfl
@[simp] theorem setSession_beaconLap (s : State) (n : Nat) (x : Session) : (setSession s n x).beaconLap = s.beaconLap := rfl
@[simp] theorem setSession_beacon (s : State) (n : Nat) (x : Session) : (setSession s n x).beacon = s.beacon := rfl
@[simp] theorem setSession_paceIn (s : State) (n : Nat) (x : Session) : (setSession s n x).paceIn = s.paceIn := rfl
@[simp] theorem setSession_heldMem (s : State) (n : Nat) (x : Session) : (setSession s n x).heldMem = s.heldMem := rfl
@[simp] theorem setSession_out (s : State) (n : Nat) (x : Session) : (setSession s n x).out = s.out := rfl
@[simp] theorem setSession_log (s : State) (n : Nat) (x : Session) : (setSession s n x).log = s.log := rfl
@[simp] theorem setSession_logNext (s : State) (n : Nat) (x : Session) : (setSession s n x).logNext = s.logNext := rfl
@[simp] theorem setSession_lastMinor (s : State) (n : Nat) (x : Session) : (setSession s n x).lastMinor = s.lastMinor := rfl
@[simp] theorem setSession_history (s : State) (n : Nat) (x : Session) : (setSession s n x).history = s.history := rfl
@[simp] theorem setSession_histSector (s : State) (n : Nat) (x : Session) : (setSession s n x).histSector = s.histSector := rfl
@[simp] theorem setSession_histUsed (s : State) (n : Nat) (x : Session) : (setSession s n x).histUsed = s.histUsed := rfl
@[simp] theorem setSession_histSeq (s : State) (n : Nat) (x : Session) : (setSession s n x).histSeq = s.histSeq := rfl
@[simp] theorem setSession_powerSaved (s : State) (n : Nat) (x : Session) : (setSession s n x).powerSaved = s.powerSaved := rfl
@[simp] theorem setSession_lastC3 (s : State) (n : Nat) (x : Session) : (setSession s n x).lastC3 = s.lastC3 := rfl
@[simp] theorem setSession_bootC3 (s : State) (n : Nat) (x : Session) : (setSession s n x).bootC3 = s.bootC3 := rfl
@[simp] theorem setSession_readSeq (s : State) (n : Nat) (x : Session) : (setSession s n x).readSeq = s.readSeq := rfl
@[simp] theorem setSession_noticeSeq (s : State) (n : Nat) (x : Session) : (setSession s n x).noticeSeq = s.noticeSeq := rfl
@[simp] theorem setSession_notices (s : State) (n : Nat) (x : Session) : (setSession s n x).notices = s.notices := rfl
@[simp] theorem setSession_flash (s : State) (n : Nat) (x : Session) : (setSession s n x).flash = s.flash := rfl
@[simp] theorem setSession_journal (s : State) (n : Nat) (x : Session) : (setSession s n x).journal = s.journal := rfl
@[simp] theorem setSession_image (s : State) (n : Nat) (x : Session) : (setSession s n x).image = s.image := rfl
@[simp] theorem setSession_writing (s : State) (n : Nat) (x : Session) : (setSession s n x).writing = s.writing := rfl
@[simp] theorem setSession_running (s : State) (n : Nat) (x : Session) : (setSession s n x).running = s.running := rfl
@[simp] theorem setSession_strapped (s : State) (n : Nat) (x : Session) : (setSession s n x).strapped = s.strapped := rfl
@[simp] theorem setSession_startedAt (s : State) (n : Nat) (x : Session) : (setSession s n x).startedAt = s.startedAt := rfl
@[simp] theorem setSession_stageAt (s : State) (n : Nat) (x : Session) : (setSession s n x).stageAt = s.stageAt := rfl
@[simp] theorem setSession_logGap (s : State) (n : Nat) (x : Session) : (setSession s n x).logGap = s.logGap := rfl
@[simp] theorem setSession_markedSlots (s : State) (n : Nat) (x : Session) : (setSession s n x).markedSlots = s.markedSlots := rfl
@[simp] theorem setSession_wave (s : State) (n : Nat) (x : Session) : (setSession s n x).wave = s.wave := rfl
@[simp] theorem setSession_downTo (s : State) (n : Nat) (x : Session) : (setSession s n x).downTo = s.downTo := rfl
@[simp] theorem setSession_seq (s : State) (n : Nat) (x : Session) : (setSession s n x).seq = s.seq := rfl
@[simp] theorem setSession_pins (s : State) (n : Nat) (x : Session) : (setSession s n x).pins = s.pins := rfl
@[simp] theorem setSession_power (s : State) (n : Nat) (x : Session) : (setSession s n x).power = s.power := rfl
@[simp] theorem setSession_fullTest (s : State) (n : Nat) (x : Session) : (setSession s n x).fullTest = s.fullTest := rfl
@[simp] theorem setSession_sinceTest (s : State) (n : Nat) (x : Session) : (setSession s n x).sinceTest = s.sinceTest := rfl
@[simp] theorem setSession_untrained (s : State) (n : Nat) (x : Session) : (setSession s n x).untrained = s.untrained := rfl
@[simp] theorem setSession_retiredChannels (s : State) (n : Nat) (x : Session) : (setSession s n x).retiredChannels = s.retiredChannels := rfl
@[simp] theorem setSession_store (s : State) (n : Nat) (x : Session) : (setSession s n x).store = s.store := rfl
@[simp] theorem setSession_storeHalf (s : State) (n : Nat) (x : Session) : (setSession s n x).storeHalf = s.storeHalf := rfl
@[simp] theorem setSession_transfers (s : State) (n : Nat) (x : Session) : (setSession s n x).transfers = s.transfers := rfl
@[simp] theorem setSession_copies (s : State) (n : Nat) (x : Session) : (setSession s n x).copies = s.copies := rfl
@[simp] theorem setSession_replies (s : State) (n : Nat) (x : Session) : (setSession s n x).replies = s.replies := rfl
@[simp] theorem setSession_canState (s : State) (n : Nat) (x : Session) : (setSession s n x).canState = s.canState := rfl
@[simp] theorem setSession_canNode (s : State) (n : Nat) (x : Session) : (setSession s n x).canNode = s.canNode := rfl
@[simp] theorem setSession_canRate (s : State) (n : Nat) (x : Session) : (setSession s n x).canRate = s.canRate := rfl
@[simp] theorem setSession_beatAt (s : State) (n : Nat) (x : Session) : (setSession s n x).beatAt = s.beatAt := rfl
@[simp] theorem setSession_busOff (s : State) (n : Nat) (x : Session) : (setSession s n x).busOff = s.busOff := rfl
@[simp] theorem setSession_sweeps (s : State) (n : Nat) (x : Session) : (setSession s n x).sweeps = s.sweeps := rfl
@[simp] theorem setSession_trimRaise (s : State) (n : Nat) (x : Session) : (setSession s n x).trimRaise = s.trimRaise := rfl
@[simp] theorem setSession_planHour (s : State) (n : Nat) (x : Session) : (setSession s n x).planHour = s.planHour := rfl
@[simp] theorem setSession_measures (s : State) (n : Nat) (x : Session) : (setSession s n x).measures = s.measures := rfl
@[simp] theorem setSession_nonce (s : State) (n : Nat) (x : Session) : (setSession s n x).nonce = s.nonce := rfl
@[simp] theorem setSession_quote (s : State) (n : Nat) (x : Session) : (setSession s n x).quote = s.quote := rfl
@[simp] theorem setSession_token (s : State) (n : Nat) (x : Session) : (setSession s n x).token = s.token := rfl
@[simp] theorem setSession_sessions (s : State) (n : Nat) (x : Session) : (setSession s n x).sessions = tabSet { eth := 2 } s.sessions n x := rfl
@[simp] theorem setSession_nextSession (s : State) (n : Nat) (x : Session) : (setSession s n x).nextSession = s.nextSession := rfl
@[simp] theorem setSession_serves (s : State) (n : Nat) (x : Session) : (setSession s n x).serves = s.serves := rfl
@[simp] theorem setSession_serveHead (s : State) (n : Nat) (x : Session) : (setSession s n x).serveHead = s.serveHead := rfl
@[simp] theorem setSession_nvmes (s : State) (n : Nat) (x : Session) : (setSession s n x).nvmes = s.nvmes := rfl
@[simp] theorem setSession_nextNvme (s : State) (n : Nat) (x : Session) : (setSession s n x).nextNvme = s.nextNvme := rfl
@[simp] theorem setSession_storeReqs (s : State) (n : Nat) (x : Session) : (setSession s n x).storeReqs = s.storeReqs := rfl
@[simp] theorem setSession_conns (s : State) (n : Nat) (x : Session) : (setSession s n x).conns = s.conns := rfl
@[simp] theorem setSession_fragments (s : State) (n : Nat) (x : Session) : (setSession s n x).fragments = s.fragments := rfl
@[simp] theorem setSession_paused (s : State) (n : Nat) (x : Session) : (setSession s n x).paused = s.paused := rfl
@[simp] theorem setSession_pausedOut (s : State) (n : Nat) (x : Session) : (setSession s n x).pausedOut = s.pausedOut := rfl
@[simp] theorem setSession_dhcpIds (s : State) (n : Nat) (x : Session) : (setSession s n x).dhcpIds = s.dhcpIds := rfl
@[simp] theorem setSession_leases (s : State) (n : Nat) (x : Session) : (setSession s n x).leases = s.leases := rfl
@[simp] theorem setSession_prefixes (s : State) (n : Nat) (x : Session) : (setSession s n x).prefixes = s.prefixes := rfl
@[simp] theorem setSession_preload (s : State) (n : Nat) (x : Session) : (setSession s n x).preload = s.preload := rfl
@[simp] theorem setSession_extest (s : State) (n : Nat) (x : Session) : (setSession s n x).extest = s.extest := rfl

/-! ## emit -/

/-- What sending an output can do: it leaves, or it waits behind a PAUSE of its Ethernet port. -/
theorem emit_cases (s : State) (o : Out) :
    emit s o = { s with out := s.out ++ [o] } ∨ ∃ e, emit s o = { s with pausedOut := s.pausedOut ++ [(e, o)] } := by
  unfold emit
  split
  · split
    · exact .inr ⟨_, rfl⟩
    · exact .inl rfl
  · exact .inl rfl

/-- An output leaves at once unless its Ethernet port obeys a PAUSE. -/
theorem emit_open (s : State) (o : Out) (h : ∀ e, outEth s o = some e → portPaused s e = false) :
    emit s o = { s with out := s.out ++ [o] } := by
  unfold emit
  split
  · rw [if_neg (by simp [h _ (by assumption)])]
  · rfl

/-- Sending an output changes what has left and what waits, and nothing else. -/
theorem emit_frame (s : State) (o : Out) : ∃ x y, emit s o = { s with out := x, pausedOut := y } := by
  rcases emit_cases s o with h | ⟨e, h⟩
  · exact ⟨_, _, h⟩
  · exact ⟨_, _, h⟩

@[simp] theorem emit_pending (s : State) (o : Out) : (emit s o).pending = s.pending := by obtain ⟨x, y, h⟩ := emit_frame s o; rw [h]
@[simp] theorem emit_now (s : State) (o : Out) : (emit s o).now = s.now := by obtain ⟨x, y, h⟩ := emit_frame s o; rw [h]
@[simp] theorem emit_lap (s : State) (o : Out) : (emit s o).lap = s.lap := by obtain ⟨x, y, h⟩ := emit_frame s o; rw [h]
@[simp] theorem emit_phase (s : State) (o : Out) : (emit s o).phase = s.phase := by obtain ⟨x, y, h⟩ := emit_frame s o; rw [h]
@[simp] theorem emit_lapStarts (s : State) (o : Out) : (emit s o).lapStarts = s.lapStarts := by obtain ⟨x, y, h⟩ := emit_frame s o; rw [h]
@[simp] theorem emit_regained (s : State) (o : Out) : (emit s o).regained = s.regained := by obtain ⟨x, y, h⟩ := emit_frame s o; rw [h]
@[simp] theorem emit_freeCtr (s : State) (o : Out) : (emit s o).freeCtr = s.freeCtr := by obtain ⟨x, y, h⟩ := emit_frame s o; rw [h]
@[simp] theorem emit_mem (s : State) (o : Out) : (emit s o).mem = s.mem := by obtain ⟨x, y, h⟩ := emit_frame s o; rw [h]
@[simp] theorem emit_blank (s : State) (o : Out) : (emit s o).blank = s.blank := by obtain ⟨x, y, h⟩ := emit_frame s o; rw [h]
@[simp] theorem emit_errs (s : State) (o : Out) : (emit s o).errs = s.errs := by obtain ⟨x, y, h⟩ := emit_frame s o; rw [h]
@[simp] theorem emit_dict (s : State) (o : Out) : (emit s o).dict = s.dict := by obtain ⟨x, y, h⟩ := emit_frame s o; rw [h]
@[simp] theorem emit_dom (s : State) (o : Out) : (emit s o).dom = s.dom := by obtain ⟨x, y, h⟩ := emit_frame s o; rw [h]
@[simp] theorem emit_heats (s : State) (o : Out) : (emit s o).heats = s.heats := by obtain ⟨x, y, h⟩ := emit_frame s o; rw [h]
@[simp] theorem emit_queues (s : State) (o : Out) : (emit s o).queues = s.queues := by obtain ⟨x, y, h⟩ := emit_frame s o; rw [h]
@[simp] theorem emit_served (s : State) (o : Out) : (emit s o).served = s.served := by obtain ⟨x, y, h⟩ := emit_frame s o; rw [h]
@[simp] theorem emit_cores (s : State) (o : Out) : (emit s o).cores = s.cores := by obtain ⟨x, y, h⟩ := emit_frame s o; rw [h]
@[simp] theorem emit_clusters (s : State) (o : Out) : (emit s o).clusters = s.clusters := by obtain ⟨x, y, h⟩ := emit_frame s o; rw [h]
@[simp] theorem emit_events (s : State) (o : Out) : (emit s o).events = s.events := by obtain ⟨x, y, h⟩ := emit_frame s o; rw [h]
@[simp] theorem emit_lostEvents (s : State) (o : Out) : (emit s o).lostEvents = s.lostEvents := by obtain ⟨x, y, h⟩ := emit_frame s o; rw [h]
@[simp] theorem emit_corrs (s : State) (o : Out) : (emit s o).corrs = s.corrs := by obtain ⟨x, y, h⟩ := emit_frame s o; rw [h]
@[simp] theorem emit_failedChannels (s : State) (o : Out) : (emit s o).failedChannels = s.failedChannels := by obtain ⟨x, y, h⟩ := emit_frame s o; rw [h]
@[simp] theorem emit_scrubbed (s : State) (o : Out) : (emit s o).scrubbed = s.scrubbed := by obtain ⟨x, y, h⟩ := emit_frame s o; rw [h]
@[simp] theorem emit_scrubBegan (s : State) (o : Out) : (emit s o).scrubBegan = s.scrubBegan := by obtain ⟨x, y, h⟩ := emit_frame s o; rw [h]
@[simp] theorem emit_plans (s : State) (o : Out) : (emit s o).plans = s.plans := by obtain ⟨x, y, h⟩ := emit_frame s o; rw [h]
@[simp] theorem emit_poweredBase (s : State) (o : Out) : (emit s o).poweredBase = s.poweredBase := by obtain ⟨x, y, h⟩ := emit_frame s o; rw [h]
@[simp] theorem emit_transients (s : State) (o : Out) : (emit s o).transients = s.transients := by obtain ⟨x, y, h⟩ := emit_frame s o; rw [h]
@[simp] theorem emit_retiredSlots (s : State) (o : Out) : (emit s o).retiredSlots = s.retiredSlots := by obtain ⟨x, y, h⟩ := emit_frame s o; rw [h]
@[simp] theorem emit_corePower (s : State) (o : Out) : (emit s o).corePower = s.corePower := by obtain ⟨x, y, h⟩ := emit_frame s o; rw [h]
@[simp] theorem emit_ports (s : State) (o : Out) : (emit s o).ports = s.ports := by obtain ⟨x, y, h⟩ := emit_frame s o; rw [h]
@[simp] theorem emit_txns (s : State) (o : Out) : (emit s o).txns = s.txns := by obtain ⟨x, y, h⟩ := emit_frame s o; rw [h]
@[simp] theorem emit_nextTxn (s : State) (o : Out) : (emit s o).nextTxn = s.nextTxn := by obtain ⟨x, y, h⟩ := emit_frame s o; rw [h]
@[simp] theorem emit_colls (s : State) (o : Out) : (emit s o).colls = s.colls := by obtain ⟨x, y, h⟩ := emit_frame s o; rw [h]
@[simp] theorem emit_early (s : State) (o : Out) : (emit s o).early = s.early := by obtain ⟨x, y, h⟩ := emit_frame s o; rw [h]
@[simp] theorem emit_allocs (s : State) (o : Out) : (emit s o).allocs = s.allocs := by obtain ⟨x, y, h⟩ := emit_frame s o; rw [h]
@[simp] theorem emit_poolHead (s : State) (o : Out) : (emit s o).poolHead = s.poolHead := by obtain ⟨x, y, h⟩ := emit_frame s o; rw [h]
@[simp] theorem emit_lapStartAt (s : State) (o : Out) : (emit s o).lapStartAt = s.lapStartAt := by obtain ⟨x, y, h⟩ := emit_frame s o; rw [h]
@[simp] theorem emit_slew (s : State) (o : Out) : (emit s o).slew = s.slew := by obtain ⟨x, y, h⟩ := emit_frame s o; rw [h]
@[simp] theorem emit_slewed (s : State) (o : Out) : (emit s o).slewed = s.slewed := by obtain ⟨x, y, h⟩ := emit_frame s o; rw [h]
@[simp] theorem emit_slewFrac (s : State) (o : Out) : (emit s o).slewFrac = s.slewFrac := by obtain ⟨x, y, h⟩ := emit_frame s o; rw [h]
@[simp] theorem emit_beaconLap (s : State) (o : Out) : (emit s o).beaconLap = s.beaconLap := by obtain ⟨x, y, h⟩ := emit_frame s o; rw [h]
@[simp] theorem emit_beacon (s : State) (o : Out) : (emit s o).beacon = s.beacon := by obtain ⟨x, y, h⟩ := emit_frame s o; rw [h]
@[simp] theorem emit_paceIn (s : State) (o : Out) : (emit s o).paceIn = s.paceIn := by obtain ⟨x, y, h⟩ := emit_frame s o; rw [h]
@[simp] theorem emit_heldMem (s : State) (o : Out) : (emit s o).heldMem = s.heldMem := by obtain ⟨x, y, h⟩ := emit_frame s o; rw [h]
@[simp] theorem emit_log (s : State) (o : Out) : (emit s o).log = s.log := by obtain ⟨x, y, h⟩ := emit_frame s o; rw [h]
@[simp] theorem emit_logNext (s : State) (o : Out) : (emit s o).logNext = s.logNext := by obtain ⟨x, y, h⟩ := emit_frame s o; rw [h]
@[simp] theorem emit_lastMinor (s : State) (o : Out) : (emit s o).lastMinor = s.lastMinor := by obtain ⟨x, y, h⟩ := emit_frame s o; rw [h]
@[simp] theorem emit_history (s : State) (o : Out) : (emit s o).history = s.history := by obtain ⟨x, y, h⟩ := emit_frame s o; rw [h]
@[simp] theorem emit_histSector (s : State) (o : Out) : (emit s o).histSector = s.histSector := by obtain ⟨x, y, h⟩ := emit_frame s o; rw [h]
@[simp] theorem emit_histUsed (s : State) (o : Out) : (emit s o).histUsed = s.histUsed := by obtain ⟨x, y, h⟩ := emit_frame s o; rw [h]
@[simp] theorem emit_histSeq (s : State) (o : Out) : (emit s o).histSeq = s.histSeq := by obtain ⟨x, y, h⟩ := emit_frame s o; rw [h]
@[simp] theorem emit_powerSaved (s : State) (o : Out) : (emit s o).powerSaved = s.powerSaved := by obtain ⟨x, y, h⟩ := emit_frame s o; rw [h]
@[simp] theorem emit_lastC3 (s : State) (o : Out) : (emit s o).lastC3 = s.lastC3 := by obtain ⟨x, y, h⟩ := emit_frame s o; rw [h]
@[simp] theorem emit_bootC3 (s : State) (o : Out) : (emit s o).bootC3 = s.bootC3 := by obtain ⟨x, y, h⟩ := emit_frame s o; rw [h]
@[simp] theorem emit_readSeq (s : State) (o : Out) : (emit s o).readSeq = s.readSeq := by obtain ⟨x, y, h⟩ := emit_frame s o; rw [h]
@[simp] theorem emit_noticeSeq (s : State) (o : Out) : (emit s o).noticeSeq = s.noticeSeq := by obtain ⟨x, y, h⟩ := emit_frame s o; rw [h]
@[simp] theorem emit_notices (s : State) (o : Out) : (emit s o).notices = s.notices := by obtain ⟨x, y, h⟩ := emit_frame s o; rw [h]
@[simp] theorem emit_flash (s : State) (o : Out) : (emit s o).flash = s.flash := by obtain ⟨x, y, h⟩ := emit_frame s o; rw [h]
@[simp] theorem emit_journal (s : State) (o : Out) : (emit s o).journal = s.journal := by obtain ⟨x, y, h⟩ := emit_frame s o; rw [h]
@[simp] theorem emit_image (s : State) (o : Out) : (emit s o).image = s.image := by obtain ⟨x, y, h⟩ := emit_frame s o; rw [h]
@[simp] theorem emit_writing (s : State) (o : Out) : (emit s o).writing = s.writing := by obtain ⟨x, y, h⟩ := emit_frame s o; rw [h]
@[simp] theorem emit_running (s : State) (o : Out) : (emit s o).running = s.running := by obtain ⟨x, y, h⟩ := emit_frame s o; rw [h]
@[simp] theorem emit_strapped (s : State) (o : Out) : (emit s o).strapped = s.strapped := by obtain ⟨x, y, h⟩ := emit_frame s o; rw [h]
@[simp] theorem emit_startedAt (s : State) (o : Out) : (emit s o).startedAt = s.startedAt := by obtain ⟨x, y, h⟩ := emit_frame s o; rw [h]
@[simp] theorem emit_stageAt (s : State) (o : Out) : (emit s o).stageAt = s.stageAt := by obtain ⟨x, y, h⟩ := emit_frame s o; rw [h]
@[simp] theorem emit_logGap (s : State) (o : Out) : (emit s o).logGap = s.logGap := by obtain ⟨x, y, h⟩ := emit_frame s o; rw [h]
@[simp] theorem emit_markedSlots (s : State) (o : Out) : (emit s o).markedSlots = s.markedSlots := by obtain ⟨x, y, h⟩ := emit_frame s o; rw [h]
@[simp] theorem emit_wave (s : State) (o : Out) : (emit s o).wave = s.wave := by obtain ⟨x, y, h⟩ := emit_frame s o; rw [h]
@[simp] theorem emit_downTo (s : State) (o : Out) : (emit s o).downTo = s.downTo := by obtain ⟨x, y, h⟩ := emit_frame s o; rw [h]
@[simp] theorem emit_seq (s : State) (o : Out) : (emit s o).seq = s.seq := by obtain ⟨x, y, h⟩ := emit_frame s o; rw [h]
@[simp] theorem emit_pins (s : State) (o : Out) : (emit s o).pins = s.pins := by obtain ⟨x, y, h⟩ := emit_frame s o; rw [h]
@[simp] theorem emit_power (s : State) (o : Out) : (emit s o).power = s.power := by obtain ⟨x, y, h⟩ := emit_frame s o; rw [h]
@[simp] theorem emit_fullTest (s : State) (o : Out) : (emit s o).fullTest = s.fullTest := by obtain ⟨x, y, h⟩ := emit_frame s o; rw [h]
@[simp] theorem emit_sinceTest (s : State) (o : Out) : (emit s o).sinceTest = s.sinceTest := by obtain ⟨x, y, h⟩ := emit_frame s o; rw [h]
@[simp] theorem emit_untrained (s : State) (o : Out) : (emit s o).untrained = s.untrained := by obtain ⟨x, y, h⟩ := emit_frame s o; rw [h]
@[simp] theorem emit_retiredChannels (s : State) (o : Out) : (emit s o).retiredChannels = s.retiredChannels := by obtain ⟨x, y, h⟩ := emit_frame s o; rw [h]
@[simp] theorem emit_store (s : State) (o : Out) : (emit s o).store = s.store := by obtain ⟨x, y, h⟩ := emit_frame s o; rw [h]
@[simp] theorem emit_storeHalf (s : State) (o : Out) : (emit s o).storeHalf = s.storeHalf := by obtain ⟨x, y, h⟩ := emit_frame s o; rw [h]
@[simp] theorem emit_transfers (s : State) (o : Out) : (emit s o).transfers = s.transfers := by obtain ⟨x, y, h⟩ := emit_frame s o; rw [h]
@[simp] theorem emit_copies (s : State) (o : Out) : (emit s o).copies = s.copies := by obtain ⟨x, y, h⟩ := emit_frame s o; rw [h]
@[simp] theorem emit_replies (s : State) (o : Out) : (emit s o).replies = s.replies := by obtain ⟨x, y, h⟩ := emit_frame s o; rw [h]
@[simp] theorem emit_canState (s : State) (o : Out) : (emit s o).canState = s.canState := by obtain ⟨x, y, h⟩ := emit_frame s o; rw [h]
@[simp] theorem emit_canNode (s : State) (o : Out) : (emit s o).canNode = s.canNode := by obtain ⟨x, y, h⟩ := emit_frame s o; rw [h]
@[simp] theorem emit_canRate (s : State) (o : Out) : (emit s o).canRate = s.canRate := by obtain ⟨x, y, h⟩ := emit_frame s o; rw [h]
@[simp] theorem emit_beatAt (s : State) (o : Out) : (emit s o).beatAt = s.beatAt := by obtain ⟨x, y, h⟩ := emit_frame s o; rw [h]
@[simp] theorem emit_busOff (s : State) (o : Out) : (emit s o).busOff = s.busOff := by obtain ⟨x, y, h⟩ := emit_frame s o; rw [h]
@[simp] theorem emit_sweeps (s : State) (o : Out) : (emit s o).sweeps = s.sweeps := by obtain ⟨x, y, h⟩ := emit_frame s o; rw [h]
@[simp] theorem emit_trimRaise (s : State) (o : Out) : (emit s o).trimRaise = s.trimRaise := by obtain ⟨x, y, h⟩ := emit_frame s o; rw [h]
@[simp] theorem emit_planHour (s : State) (o : Out) : (emit s o).planHour = s.planHour := by obtain ⟨x, y, h⟩ := emit_frame s o; rw [h]
@[simp] theorem emit_measures (s : State) (o : Out) : (emit s o).measures = s.measures := by obtain ⟨x, y, h⟩ := emit_frame s o; rw [h]
@[simp] theorem emit_nonce (s : State) (o : Out) : (emit s o).nonce = s.nonce := by obtain ⟨x, y, h⟩ := emit_frame s o; rw [h]
@[simp] theorem emit_quote (s : State) (o : Out) : (emit s o).quote = s.quote := by obtain ⟨x, y, h⟩ := emit_frame s o; rw [h]
@[simp] theorem emit_token (s : State) (o : Out) : (emit s o).token = s.token := by obtain ⟨x, y, h⟩ := emit_frame s o; rw [h]
@[simp] theorem emit_sessions (s : State) (o : Out) : (emit s o).sessions = s.sessions := by obtain ⟨x, y, h⟩ := emit_frame s o; rw [h]
@[simp] theorem emit_nextSession (s : State) (o : Out) : (emit s o).nextSession = s.nextSession := by obtain ⟨x, y, h⟩ := emit_frame s o; rw [h]
@[simp] theorem emit_serves (s : State) (o : Out) : (emit s o).serves = s.serves := by obtain ⟨x, y, h⟩ := emit_frame s o; rw [h]
@[simp] theorem emit_serveHead (s : State) (o : Out) : (emit s o).serveHead = s.serveHead := by obtain ⟨x, y, h⟩ := emit_frame s o; rw [h]
@[simp] theorem emit_nvmes (s : State) (o : Out) : (emit s o).nvmes = s.nvmes := by obtain ⟨x, y, h⟩ := emit_frame s o; rw [h]
@[simp] theorem emit_nextNvme (s : State) (o : Out) : (emit s o).nextNvme = s.nextNvme := by obtain ⟨x, y, h⟩ := emit_frame s o; rw [h]
@[simp] theorem emit_storeReqs (s : State) (o : Out) : (emit s o).storeReqs = s.storeReqs := by obtain ⟨x, y, h⟩ := emit_frame s o; rw [h]
@[simp] theorem emit_conns (s : State) (o : Out) : (emit s o).conns = s.conns := by obtain ⟨x, y, h⟩ := emit_frame s o; rw [h]
@[simp] theorem emit_fragments (s : State) (o : Out) : (emit s o).fragments = s.fragments := by obtain ⟨x, y, h⟩ := emit_frame s o; rw [h]
@[simp] theorem emit_paused (s : State) (o : Out) : (emit s o).paused = s.paused := by obtain ⟨x, y, h⟩ := emit_frame s o; rw [h]
@[simp] theorem emit_dhcpIds (s : State) (o : Out) : (emit s o).dhcpIds = s.dhcpIds := by obtain ⟨x, y, h⟩ := emit_frame s o; rw [h]
@[simp] theorem emit_leases (s : State) (o : Out) : (emit s o).leases = s.leases := by obtain ⟨x, y, h⟩ := emit_frame s o; rw [h]
@[simp] theorem emit_prefixes (s : State) (o : Out) : (emit s o).prefixes = s.prefixes := by obtain ⟨x, y, h⟩ := emit_frame s o; rw [h]
@[simp] theorem emit_preload (s : State) (o : Out) : (emit s o).preload = s.preload := by obtain ⟨x, y, h⟩ := emit_frame s o; rw [h]
@[simp] theorem emit_extest (s : State) (o : Out) : (emit s o).extest = s.extest := by obtain ⟨x, y, h⟩ := emit_frame s o; rw [h]

/-! ## putByte -/

@[simp] theorem putByte_pending (s : State) (a : Nat) (b : Byte) : (putByte s a b).pending = s.pending := rfl
@[simp] theorem putByte_now (s : State) (a : Nat) (b : Byte) : (putByte s a b).now = s.now := rfl
@[simp] theorem putByte_lap (s : State) (a : Nat) (b : Byte) : (putByte s a b).lap = s.lap := rfl
@[simp] theorem putByte_phase (s : State) (a : Nat) (b : Byte) : (putByte s a b).phase = s.phase := rfl
@[simp] theorem putByte_lapStarts (s : State) (a : Nat) (b : Byte) : (putByte s a b).lapStarts = s.lapStarts := rfl
@[simp] theorem putByte_regained (s : State) (a : Nat) (b : Byte) : (putByte s a b).regained = s.regained := rfl
@[simp] theorem putByte_freeCtr (s : State) (a : Nat) (b : Byte) : (putByte s a b).freeCtr = s.freeCtr := rfl
@[simp] theorem putByte_mem (s : State) (a : Nat) (b : Byte) : (putByte s a b).mem = tabSet 0#8 s.mem a (b ^^^ blankByte s a) := rfl
@[simp] theorem putByte_blank (s : State) (a : Nat) (b : Byte) : (putByte s a b).blank = s.blank := rfl
@[simp] theorem putByte_errs (s : State) (a : Nat) (b : Byte) : (putByte s a b).errs = s.errs := rfl
@[simp] theorem putByte_dict (s : State) (a : Nat) (b : Byte) : (putByte s a b).dict = s.dict := rfl
@[simp] theorem putByte_dom (s : State) (a : Nat) (b : Byte) : (putByte s a b).dom = s.dom := rfl
@[simp] theorem putByte_heats (s : State) (a : Nat) (b : Byte) : (putByte s a b).heats = s.heats := rfl
@[simp] theorem putByte_queues (s : State) (a : Nat) (b : Byte) : (putByte s a b).queues = s.queues := rfl
@[simp] theorem putByte_served (s : State) (a : Nat) (b : Byte) : (putByte s a b).served = s.served := rfl
@[simp] theorem putByte_cores (s : State) (a : Nat) (b : Byte) : (putByte s a b).cores = s.cores := rfl
@[simp] theorem putByte_clusters (s : State) (a : Nat) (b : Byte) : (putByte s a b).clusters = s.clusters := rfl
@[simp] theorem putByte_events (s : State) (a : Nat) (b : Byte) : (putByte s a b).events = s.events := rfl
@[simp] theorem putByte_lostEvents (s : State) (a : Nat) (b : Byte) : (putByte s a b).lostEvents = s.lostEvents := rfl
@[simp] theorem putByte_corrs (s : State) (a : Nat) (b : Byte) : (putByte s a b).corrs = s.corrs := rfl
@[simp] theorem putByte_failedChannels (s : State) (a : Nat) (b : Byte) : (putByte s a b).failedChannels = s.failedChannels := rfl
@[simp] theorem putByte_scrubbed (s : State) (a : Nat) (b : Byte) : (putByte s a b).scrubbed = s.scrubbed := rfl
@[simp] theorem putByte_scrubBegan (s : State) (a : Nat) (b : Byte) : (putByte s a b).scrubBegan = s.scrubBegan := rfl
@[simp] theorem putByte_plans (s : State) (a : Nat) (b : Byte) : (putByte s a b).plans = s.plans := rfl
@[simp] theorem putByte_poweredBase (s : State) (a : Nat) (b : Byte) : (putByte s a b).poweredBase = s.poweredBase := rfl
@[simp] theorem putByte_transients (s : State) (a : Nat) (b : Byte) : (putByte s a b).transients = s.transients := rfl
@[simp] theorem putByte_retiredSlots (s : State) (a : Nat) (b : Byte) : (putByte s a b).retiredSlots = s.retiredSlots := rfl
@[simp] theorem putByte_corePower (s : State) (a : Nat) (b : Byte) : (putByte s a b).corePower = s.corePower := rfl
@[simp] theorem putByte_ports (s : State) (a : Nat) (b : Byte) : (putByte s a b).ports = s.ports := rfl
@[simp] theorem putByte_txns (s : State) (a : Nat) (b : Byte) : (putByte s a b).txns = s.txns := rfl
@[simp] theorem putByte_nextTxn (s : State) (a : Nat) (b : Byte) : (putByte s a b).nextTxn = s.nextTxn := rfl
@[simp] theorem putByte_colls (s : State) (a : Nat) (b : Byte) : (putByte s a b).colls = s.colls := rfl
@[simp] theorem putByte_early (s : State) (a : Nat) (b : Byte) : (putByte s a b).early = s.early := rfl
@[simp] theorem putByte_allocs (s : State) (a : Nat) (b : Byte) : (putByte s a b).allocs = s.allocs := rfl
@[simp] theorem putByte_poolHead (s : State) (a : Nat) (b : Byte) : (putByte s a b).poolHead = s.poolHead := rfl
@[simp] theorem putByte_lapStartAt (s : State) (a : Nat) (b : Byte) : (putByte s a b).lapStartAt = s.lapStartAt := rfl
@[simp] theorem putByte_slew (s : State) (a : Nat) (b : Byte) : (putByte s a b).slew = s.slew := rfl
@[simp] theorem putByte_slewed (s : State) (a : Nat) (b : Byte) : (putByte s a b).slewed = s.slewed := rfl
@[simp] theorem putByte_slewFrac (s : State) (a : Nat) (b : Byte) : (putByte s a b).slewFrac = s.slewFrac := rfl
@[simp] theorem putByte_beaconLap (s : State) (a : Nat) (b : Byte) : (putByte s a b).beaconLap = s.beaconLap := rfl
@[simp] theorem putByte_beacon (s : State) (a : Nat) (b : Byte) : (putByte s a b).beacon = s.beacon := rfl
@[simp] theorem putByte_paceIn (s : State) (a : Nat) (b : Byte) : (putByte s a b).paceIn = s.paceIn := rfl
@[simp] theorem putByte_heldMem (s : State) (a : Nat) (b : Byte) : (putByte s a b).heldMem = s.heldMem := rfl
@[simp] theorem putByte_out (s : State) (a : Nat) (b : Byte) : (putByte s a b).out = s.out := rfl
@[simp] theorem putByte_log (s : State) (a : Nat) (b : Byte) : (putByte s a b).log = s.log := rfl
@[simp] theorem putByte_logNext (s : State) (a : Nat) (b : Byte) : (putByte s a b).logNext = s.logNext := rfl
@[simp] theorem putByte_lastMinor (s : State) (a : Nat) (b : Byte) : (putByte s a b).lastMinor = s.lastMinor := rfl
@[simp] theorem putByte_history (s : State) (a : Nat) (b : Byte) : (putByte s a b).history = s.history := rfl
@[simp] theorem putByte_histSector (s : State) (a : Nat) (b : Byte) : (putByte s a b).histSector = s.histSector := rfl
@[simp] theorem putByte_histUsed (s : State) (a : Nat) (b : Byte) : (putByte s a b).histUsed = s.histUsed := rfl
@[simp] theorem putByte_histSeq (s : State) (a : Nat) (b : Byte) : (putByte s a b).histSeq = s.histSeq := rfl
@[simp] theorem putByte_powerSaved (s : State) (a : Nat) (b : Byte) : (putByte s a b).powerSaved = s.powerSaved := rfl
@[simp] theorem putByte_lastC3 (s : State) (a : Nat) (b : Byte) : (putByte s a b).lastC3 = s.lastC3 := rfl
@[simp] theorem putByte_bootC3 (s : State) (a : Nat) (b : Byte) : (putByte s a b).bootC3 = s.bootC3 := rfl
@[simp] theorem putByte_readSeq (s : State) (a : Nat) (b : Byte) : (putByte s a b).readSeq = s.readSeq := rfl
@[simp] theorem putByte_noticeSeq (s : State) (a : Nat) (b : Byte) : (putByte s a b).noticeSeq = s.noticeSeq := rfl
@[simp] theorem putByte_notices (s : State) (a : Nat) (b : Byte) : (putByte s a b).notices = s.notices := rfl
@[simp] theorem putByte_flash (s : State) (a : Nat) (b : Byte) : (putByte s a b).flash = s.flash := rfl
@[simp] theorem putByte_journal (s : State) (a : Nat) (b : Byte) : (putByte s a b).journal = s.journal := rfl
@[simp] theorem putByte_image (s : State) (a : Nat) (b : Byte) : (putByte s a b).image = s.image := rfl
@[simp] theorem putByte_writing (s : State) (a : Nat) (b : Byte) : (putByte s a b).writing = s.writing := rfl
@[simp] theorem putByte_running (s : State) (a : Nat) (b : Byte) : (putByte s a b).running = s.running := rfl
@[simp] theorem putByte_strapped (s : State) (a : Nat) (b : Byte) : (putByte s a b).strapped = s.strapped := rfl
@[simp] theorem putByte_startedAt (s : State) (a : Nat) (b : Byte) : (putByte s a b).startedAt = s.startedAt := rfl
@[simp] theorem putByte_stageAt (s : State) (a : Nat) (b : Byte) : (putByte s a b).stageAt = s.stageAt := rfl
@[simp] theorem putByte_logGap (s : State) (a : Nat) (b : Byte) : (putByte s a b).logGap = s.logGap := rfl
@[simp] theorem putByte_markedSlots (s : State) (a : Nat) (b : Byte) : (putByte s a b).markedSlots = s.markedSlots := rfl
@[simp] theorem putByte_wave (s : State) (a : Nat) (b : Byte) : (putByte s a b).wave = s.wave := rfl
@[simp] theorem putByte_downTo (s : State) (a : Nat) (b : Byte) : (putByte s a b).downTo = s.downTo := rfl
@[simp] theorem putByte_seq (s : State) (a : Nat) (b : Byte) : (putByte s a b).seq = s.seq := rfl
@[simp] theorem putByte_pins (s : State) (a : Nat) (b : Byte) : (putByte s a b).pins = s.pins := rfl
@[simp] theorem putByte_power (s : State) (a : Nat) (b : Byte) : (putByte s a b).power = s.power := rfl
@[simp] theorem putByte_fullTest (s : State) (a : Nat) (b : Byte) : (putByte s a b).fullTest = s.fullTest := rfl
@[simp] theorem putByte_sinceTest (s : State) (a : Nat) (b : Byte) : (putByte s a b).sinceTest = s.sinceTest := rfl
@[simp] theorem putByte_untrained (s : State) (a : Nat) (b : Byte) : (putByte s a b).untrained = s.untrained := rfl
@[simp] theorem putByte_retiredChannels (s : State) (a : Nat) (b : Byte) : (putByte s a b).retiredChannels = s.retiredChannels := rfl
@[simp] theorem putByte_store (s : State) (a : Nat) (b : Byte) : (putByte s a b).store = s.store := rfl
@[simp] theorem putByte_storeHalf (s : State) (a : Nat) (b : Byte) : (putByte s a b).storeHalf = s.storeHalf := rfl
@[simp] theorem putByte_transfers (s : State) (a : Nat) (b : Byte) : (putByte s a b).transfers = s.transfers := rfl
@[simp] theorem putByte_copies (s : State) (a : Nat) (b : Byte) : (putByte s a b).copies = s.copies := rfl
@[simp] theorem putByte_replies (s : State) (a : Nat) (b : Byte) : (putByte s a b).replies = s.replies := rfl
@[simp] theorem putByte_canState (s : State) (a : Nat) (b : Byte) : (putByte s a b).canState = s.canState := rfl
@[simp] theorem putByte_canNode (s : State) (a : Nat) (b : Byte) : (putByte s a b).canNode = s.canNode := rfl
@[simp] theorem putByte_canRate (s : State) (a : Nat) (b : Byte) : (putByte s a b).canRate = s.canRate := rfl
@[simp] theorem putByte_beatAt (s : State) (a : Nat) (b : Byte) : (putByte s a b).beatAt = s.beatAt := rfl
@[simp] theorem putByte_busOff (s : State) (a : Nat) (b : Byte) : (putByte s a b).busOff = s.busOff := rfl
@[simp] theorem putByte_sweeps (s : State) (a : Nat) (b : Byte) : (putByte s a b).sweeps = s.sweeps := rfl
@[simp] theorem putByte_trimRaise (s : State) (a : Nat) (b : Byte) : (putByte s a b).trimRaise = s.trimRaise := rfl
@[simp] theorem putByte_planHour (s : State) (a : Nat) (b : Byte) : (putByte s a b).planHour = s.planHour := rfl
@[simp] theorem putByte_measures (s : State) (a : Nat) (b : Byte) : (putByte s a b).measures = s.measures := rfl
@[simp] theorem putByte_nonce (s : State) (a : Nat) (b : Byte) : (putByte s a b).nonce = s.nonce := rfl
@[simp] theorem putByte_quote (s : State) (a : Nat) (b : Byte) : (putByte s a b).quote = s.quote := rfl
@[simp] theorem putByte_token (s : State) (a : Nat) (b : Byte) : (putByte s a b).token = s.token := rfl
@[simp] theorem putByte_sessions (s : State) (a : Nat) (b : Byte) : (putByte s a b).sessions = s.sessions := rfl
@[simp] theorem putByte_nextSession (s : State) (a : Nat) (b : Byte) : (putByte s a b).nextSession = s.nextSession := rfl
@[simp] theorem putByte_serves (s : State) (a : Nat) (b : Byte) : (putByte s a b).serves = s.serves := rfl
@[simp] theorem putByte_serveHead (s : State) (a : Nat) (b : Byte) : (putByte s a b).serveHead = s.serveHead := rfl
@[simp] theorem putByte_nvmes (s : State) (a : Nat) (b : Byte) : (putByte s a b).nvmes = s.nvmes := rfl
@[simp] theorem putByte_nextNvme (s : State) (a : Nat) (b : Byte) : (putByte s a b).nextNvme = s.nextNvme := rfl
@[simp] theorem putByte_storeReqs (s : State) (a : Nat) (b : Byte) : (putByte s a b).storeReqs = s.storeReqs := rfl
@[simp] theorem putByte_conns (s : State) (a : Nat) (b : Byte) : (putByte s a b).conns = s.conns := rfl
@[simp] theorem putByte_fragments (s : State) (a : Nat) (b : Byte) : (putByte s a b).fragments = s.fragments := rfl
@[simp] theorem putByte_paused (s : State) (a : Nat) (b : Byte) : (putByte s a b).paused = s.paused := rfl
@[simp] theorem putByte_pausedOut (s : State) (a : Nat) (b : Byte) : (putByte s a b).pausedOut = s.pausedOut := rfl
@[simp] theorem putByte_dhcpIds (s : State) (a : Nat) (b : Byte) : (putByte s a b).dhcpIds = s.dhcpIds := rfl
@[simp] theorem putByte_leases (s : State) (a : Nat) (b : Byte) : (putByte s a b).leases = s.leases := rfl
@[simp] theorem putByte_prefixes (s : State) (a : Nat) (b : Byte) : (putByte s a b).prefixes = s.prefixes := rfl
@[simp] theorem putByte_preload (s : State) (a : Nat) (b : Byte) : (putByte s a b).preload = s.preload := rfl
@[simp] theorem putByte_extest (s : State) (a : Nat) (b : Byte) : (putByte s a b).extest = s.extest := rfl

/-! ## Reads after writes -/

theorem getHeat_setHeat (s : State) (k i : Nat) (x : Heat) : getHeat (setHeat s k x) i = if i = k then x else getHeat s i :=
  tabGet_tabSet _ _ _ _ _
@[simp] theorem getHeat_setHeat_same (s : State) (k : Nat) (x : Heat) : getHeat (setHeat s k x) k = x := tabGet_tabSet_same _ _ _ _
theorem getHeat_setHeat_ne (s : State) {k i : Nat} (n : i ≠ k) (x : Heat) : getHeat (setHeat s k x) i = getHeat s i := tabGet_tabSet_ne _ _ n _

theorem getQueue_setQueue (s : State) (k i : Nat) (x : Queue) : getQueue (setQueue s k x) i = if i = k then x else getQueue s i :=
  tabGet_tabSet _ _ _ _ _
@[simp] theorem getQueue_setQueue_same (s : State) (k : Nat) (x : Queue) : getQueue (setQueue s k x) k = x := tabGet_tabSet_same _ _ _ _
theorem getQueue_setQueue_ne (s : State) {k i : Nat} (n : i ≠ k) (x : Queue) : getQueue (setQueue s k x) i = getQueue s i := tabGet_tabSet_ne _ _ n _

theorem getCore_setCore (s : State) (k i : Nat) (x : Core) : getCore (setCore s k x) i = if i = k then x else getCore s i :=
  tabGet_tabSet _ _ _ _ _
@[simp] theorem getCore_setCore_same (s : State) (k : Nat) (x : Core) : getCore (setCore s k x) k = x := tabGet_tabSet_same _ _ _ _
theorem getCore_setCore_ne (s : State) {k i : Nat} (n : i ≠ k) (x : Core) : getCore (setCore s k x) i = getCore s i := tabGet_tabSet_ne _ _ n _

theorem getCluster_setCluster (s : State) (k i : Nat) (x : Cluster) : getCluster (setCluster s k x) i = if i = k then x else getCluster s i :=
  tabGet_tabSet _ _ _ _ _
@[simp] theorem getCluster_setCluster_same (s : State) (k : Nat) (x : Cluster) : getCluster (setCluster s k x) k = x := tabGet_tabSet_same _ _ _ _
theorem getCluster_setCluster_ne (s : State) {k i : Nat} (n : i ≠ k) (x : Cluster) : getCluster (setCluster s k x) i = getCluster s i := tabGet_tabSet_ne _ _ n _

theorem getPort_setPort (s : State) (k i : Nat) (x : Port) : getPort (setPort s k x) i = if i = k then x else getPort s i :=
  tabGet_tabSet _ _ _ _ _
@[simp] theorem getPort_setPort_same (s : State) (k : Nat) (x : Port) : getPort (setPort s k x) k = x := tabGet_tabSet_same _ _ _ _
theorem getPort_setPort_ne (s : State) {k i : Nat} (n : i ≠ k) (x : Port) : getPort (setPort s k x) i = getPort s i := tabGet_tabSet_ne _ _ n _

@[simp] theorem getVec_eq (s : State) (k : Nat) : getVec s k = (getCore s k).vec := rfl

/-- A read elsewhere does not see a write, whatever the two defaults. -/
theorem tabGet_set_other {α : Type} [DecidableEq α] (d d' : α) (t : Tab α) {k i : Nat} (n : i ≠ k) (v : α) :
    tabGet d' (tabSet d t k v) i = tabGet d' t i := by
  induction t with
  | nil => by_cases e : v = d <;> simp [tabSet, tabGet, e, Ne.symm n]
  | cons e t ih =>
    obtain ⟨j, w⟩ := e
    have drop : tabGet d' (tabDrop (· == k) t) i = tabGet d' t i := by rw [tabGet_drop]; simp [n]
    simp only [tabSet]
    by_cases c : k < j
    · by_cases e : v = d
      · simp only [if_pos c, if_pos e, tabGet, drop]
      · simp only [if_pos c, if_neg e, tabGet, if_neg (Ne.symm n)]
    · by_cases g : k = j
      · subst g
        by_cases e : v = d
        · simp only [if_neg c, if_pos, if_pos e, tabGet, drop, if_neg (Ne.symm n)]
        · simp only [if_neg c, if_pos, if_neg e, tabGet, if_neg (Ne.symm n)]
      · simp only [if_neg c, if_neg g, tabGet, ih]

@[simp] theorem dget_dset_same (s : State) (i sub v : Nat) : dget (dset s i sub v) i sub = v := tabGet_tabSet_same _ _ _ _

theorem dget_dset_key (s : State) {i sub j t : Nat} (n : dkey j t ≠ dkey i sub) (v : Nat) :
    dget (dset s i sub v) j t = dget s j t := tabGet_set_other _ _ _ n _

theorem dkey_ne {i sub j t : Nat} (a : sub < 256) (b : t < 256) (n : j ≠ i ∨ t ≠ sub) : dkey j t ≠ dkey i sub := by
  unfold dkey; omega

/-- An entry reads as before after a write of another one. -/
theorem dget_dset_ne (s : State) {i sub j t : Nat} (a : sub < 256) (b : t < 256) (n : j ≠ i ∨ t ≠ sub) (v : Nat) :
    dget (dset s i sub v) j t = dget s j t := dget_dset_key s (dkey_ne a b n) v

@[simp] theorem domGet_domSet_same (s : State) (i sub : Nat) (l : List Byte) : domGet (domSet s i sub l) i sub = l :=
  tabGet_tabSet_same _ _ _ _

theorem domGet_domSet_ne (s : State) {i sub j t : Nat} (a : sub < 256) (b : t < 256) (n : j ≠ i ∨ t ≠ sub) (l : List Byte) :
    domGet (domSet s i sub l) j t = domGet s j t := tabGet_tabSet_ne _ _ (dkey_ne a b n) _

@[simp] theorem dget_domSet (s : State) (i sub j t : Nat) (l : List Byte) : dget (domSet s i sub l) j t = dget s j t := rfl
@[simp] theorem domGet_dset (s : State) (i sub j t v : Nat) : domGet (dset s i sub v) j t = domGet s j t := rfl

@[simp] theorem getHeat_dset (s : State) (i sub v : Nat) (j : Nat) : getHeat (dset s i sub v) j = getHeat s j := rfl
@[simp] theorem getQueue_dset (s : State) (i sub v : Nat) (j : Nat) : getQueue (dset s i sub v) j = getQueue s j := rfl
@[simp] theorem getCore_dset (s : State) (i sub v : Nat) (j : Nat) : getCore (dset s i sub v) j = getCore s j := rfl
@[simp] theorem getCluster_dset (s : State) (i sub v : Nat) (j : Nat) : getCluster (dset s i sub v) j = getCluster s j := rfl
@[simp] theorem getPort_dset (s : State) (i sub v : Nat) (j : Nat) : getPort (dset s i sub v) j = getPort s j := rfl
@[simp] theorem getByte_dset (s : State) (i sub v : Nat) (j : Nat) : getByte (dset s i sub v) j = getByte s j := rfl
@[simp] theorem getHeat_domSet (s : State) (i sub : Nat) (l : List Byte) (j : Nat) : getHeat (domSet s i sub l) j = getHeat s j := rfl
@[simp] theorem getQueue_domSet (s : State) (i sub : Nat) (l : List Byte) (j : Nat) : getQueue (domSet s i sub l) j = getQueue s j := rfl
@[simp] theorem getCore_domSet (s : State) (i sub : Nat) (l : List Byte) (j : Nat) : getCore (domSet s i sub l) j = getCore s j := rfl
@[simp] theorem getCluster_domSet (s : State) (i sub : Nat) (l : List Byte) (j : Nat) : getCluster (domSet s i sub l) j = getCluster s j := rfl
@[simp] theorem getPort_domSet (s : State) (i sub : Nat) (l : List Byte) (j : Nat) : getPort (domSet s i sub l) j = getPort s j := rfl
@[simp] theorem getByte_domSet (s : State) (i sub : Nat) (l : List Byte) (j : Nat) : getByte (domSet s i sub l) j = getByte s j := rfl
@[simp] theorem dget_setHeat (s : State) (h : Nat) (x : Heat) (j t : Nat) : dget (setHeat s h x) j t = dget s j t := rfl
@[simp] theorem domGet_setHeat (s : State) (h : Nat) (x : Heat) (j t : Nat) : domGet (setHeat s h x) j t = domGet s j t := rfl
@[simp] theorem getQueue_setHeat (s : State) (h : Nat) (x : Heat) (j : Nat) : getQueue (setHeat s h x) j = getQueue s j := rfl
@[simp] theorem getCore_setHeat (s : State) (h : Nat) (x : Heat) (j : Nat) : getCore (setHeat s h x) j = getCore s j := rfl
@[simp] theorem getCluster_setHeat (s : State) (h : Nat) (x : Heat) (j : Nat) : getCluster (setHeat s h x) j = getCluster s j := rfl
@[simp] theorem getPort_setHeat (s : State) (h : Nat) (x : Heat) (j : Nat) : getPort (setHeat s h x) j = getPort s j := rfl
@[simp] theorem getByte_setHeat (s : State) (h : Nat) (x : Heat) (j : Nat) : getByte (setHeat s h x) j = getByte s j := rfl
@[simp] theorem dget_setQueue (s : State) (q : Nat) (x : Queue) (j t : Nat) : dget (setQueue s q x) j t = dget s j t := rfl
@[simp] theorem domGet_setQueue (s : State) (q : Nat) (x : Queue) (j t : Nat) : domGet (setQueue s q x) j t = domGet s j t := rfl
@[simp] theorem getHeat_setQueue (s : State) (q : Nat) (x : Queue) (j : Nat) : getHeat (setQueue s q x) j = getHeat s j := rfl
@[simp] theorem getCore_setQueue (s : State) (q : Nat) (x : Queue) (j : Nat) : getCore (setQueue s q x) j = getCore s j := rfl
@[simp] theorem getCluster_setQueue (s : State) (q : Nat) (x : Queue) (j : Nat) : getCluster (setQueue s q x) j = getCluster s j := rfl
@[simp] theorem getPort_setQueue (s : State) (q : Nat) (x : Queue) (j : Nat) : getPort (setQueue s q x) j = getPort s j := rfl
@[simp] theorem getByte_setQueue (s : State) (q : Nat) (x : Queue) (j : Nat) : getByte (setQueue s q x) j = getByte s j := rfl
@[simp] theorem dget_setCore (s : State) (k : Nat) (x : Core) (j t : Nat) : dget (setCore s k x) j t = dget s j t := rfl
@[simp] theorem domGet_setCore (s : State) (k : Nat) (x : Core) (j t : Nat) : domGet (setCore s k x) j t = domGet s j t := rfl
@[simp] theorem getHeat_setCore (s : State) (k : Nat) (x : Core) (j : Nat) : getHeat (setCore s k x) j = getHeat s j := rfl
@[simp] theorem getQueue_setCore (s : State) (k : Nat) (x : Core) (j : Nat) : getQueue (setCore s k x) j = getQueue s j := rfl
@[simp] theorem getCluster_setCore (s : State) (k : Nat) (x : Core) (j : Nat) : getCluster (setCore s k x) j = getCluster s j := rfl
@[simp] theorem getPort_setCore (s : State) (k : Nat) (x : Core) (j : Nat) : getPort (setCore s k x) j = getPort s j := rfl
@[simp] theorem getByte_setCore (s : State) (k : Nat) (x : Core) (j : Nat) : getByte (setCore s k x) j = getByte s j := rfl
@[simp] theorem dget_setCluster (s : State) (c : Nat) (x : Cluster) (j t : Nat) : dget (setCluster s c x) j t = dget s j t := rfl
@[simp] theorem domGet_setCluster (s : State) (c : Nat) (x : Cluster) (j t : Nat) : domGet (setCluster s c x) j t = domGet s j t := rfl
@[simp] theorem getHeat_setCluster (s : State) (c : Nat) (x : Cluster) (j : Nat) : getHeat (setCluster s c x) j = getHeat s j := rfl
@[simp] theorem getQueue_setCluster (s : State) (c : Nat) (x : Cluster) (j : Nat) : getQueue (setCluster s c x) j = getQueue s j := rfl
@[simp] theorem getCore_setCluster (s : State) (c : Nat) (x : Cluster) (j : Nat) : getCore (setCluster s c x) j = getCore s j := rfl
@[simp] theorem getPort_setCluster (s : State) (c : Nat) (x : Cluster) (j : Nat) : getPort (setCluster s c x) j = getPort s j := rfl
@[simp] theorem getByte_setCluster (s : State) (c : Nat) (x : Cluster) (j : Nat) : getByte (setCluster s c x) j = getByte s j := rfl
@[simp] theorem dget_setPort (s : State) (p : Nat) (x : Port) (j t : Nat) : dget (setPort s p x) j t = dget s j t := rfl
@[simp] theorem domGet_setPort (s : State) (p : Nat) (x : Port) (j t : Nat) : domGet (setPort s p x) j t = domGet s j t := rfl
@[simp] theorem getHeat_setPort (s : State) (p : Nat) (x : Port) (j : Nat) : getHeat (setPort s p x) j = getHeat s j := rfl
@[simp] theorem getQueue_setPort (s : State) (p : Nat) (x : Port) (j : Nat) : getQueue (setPort s p x) j = getQueue s j := rfl
@[simp] theorem getCore_setPort (s : State) (p : Nat) (x : Port) (j : Nat) : getCore (setPort s p x) j = getCore s j := rfl
@[simp] theorem getCluster_setPort (s : State) (p : Nat) (x : Port) (j : Nat) : getCluster (setPort s p x) j = getCluster s j := rfl
@[simp] theorem getByte_setPort (s : State) (p : Nat) (x : Port) (j : Nat) : getByte (setPort s p x) j = getByte s j := rfl
@[simp] theorem dget_setSession (s : State) (n : Nat) (x : Session) (j t : Nat) : dget (setSession s n x) j t = dget s j t := rfl
@[simp] theorem domGet_setSession (s : State) (n : Nat) (x : Session) (j t : Nat) : domGet (setSession s n x) j t = domGet s j t := rfl
@[simp] theorem getHeat_setSession (s : State) (n : Nat) (x : Session) (j : Nat) : getHeat (setSession s n x) j = getHeat s j := rfl
@[simp] theorem getQueue_setSession (s : State) (n : Nat) (x : Session) (j : Nat) : getQueue (setSession s n x) j = getQueue s j := rfl
@[simp] theorem getCore_setSession (s : State) (n : Nat) (x : Session) (j : Nat) : getCore (setSession s n x) j = getCore s j := rfl
@[simp] theorem getCluster_setSession (s : State) (n : Nat) (x : Session) (j : Nat) : getCluster (setSession s n x) j = getCluster s j := rfl
@[simp] theorem getPort_setSession (s : State) (n : Nat) (x : Session) (j : Nat) : getPort (setSession s n x) j = getPort s j := rfl
@[simp] theorem getByte_setSession (s : State) (n : Nat) (x : Session) (j : Nat) : getByte (setSession s n x) j = getByte s j := rfl
@[simp] theorem dget_emit (s : State) (o : Out) (j t : Nat) : dget (emit s o) j t = dget s j t := by obtain ⟨x, y, h⟩ := emit_frame s o; rw [h]; rfl
@[simp] theorem domGet_emit (s : State) (o : Out) (j t : Nat) : domGet (emit s o) j t = domGet s j t := by obtain ⟨x, y, h⟩ := emit_frame s o; rw [h]; rfl
@[simp] theorem getHeat_emit (s : State) (o : Out) (j : Nat) : getHeat (emit s o) j = getHeat s j := by obtain ⟨x, y, h⟩ := emit_frame s o; rw [h]; rfl
@[simp] theorem getQueue_emit (s : State) (o : Out) (j : Nat) : getQueue (emit s o) j = getQueue s j := by obtain ⟨x, y, h⟩ := emit_frame s o; rw [h]; rfl
@[simp] theorem getCore_emit (s : State) (o : Out) (j : Nat) : getCore (emit s o) j = getCore s j := by obtain ⟨x, y, h⟩ := emit_frame s o; rw [h]; rfl
@[simp] theorem getCluster_emit (s : State) (o : Out) (j : Nat) : getCluster (emit s o) j = getCluster s j := by obtain ⟨x, y, h⟩ := emit_frame s o; rw [h]; rfl
@[simp] theorem getPort_emit (s : State) (o : Out) (j : Nat) : getPort (emit s o) j = getPort s j := by obtain ⟨x, y, h⟩ := emit_frame s o; rw [h]; rfl
@[simp] theorem getByte_emit (s : State) (o : Out) (j : Nat) : getByte (emit s o) j = getByte s j := by obtain ⟨x, y, h⟩ := emit_frame s o; rw [h]; rfl
@[simp] theorem dget_putByte (s : State) (a : Nat) (b : Byte) (j t : Nat) : dget (putByte s a b) j t = dget s j t := rfl
@[simp] theorem domGet_putByte (s : State) (a : Nat) (b : Byte) (j t : Nat) : domGet (putByte s a b) j t = domGet s j t := rfl
@[simp] theorem getHeat_putByte (s : State) (a : Nat) (b : Byte) (j : Nat) : getHeat (putByte s a b) j = getHeat s j := rfl
@[simp] theorem getQueue_putByte (s : State) (a : Nat) (b : Byte) (j : Nat) : getQueue (putByte s a b) j = getQueue s j := rfl
@[simp] theorem getCore_putByte (s : State) (a : Nat) (b : Byte) (j : Nat) : getCore (putByte s a b) j = getCore s j := rfl
@[simp] theorem getCluster_putByte (s : State) (a : Nat) (b : Byte) (j : Nat) : getCluster (putByte s a b) j = getCluster s j := rfl
@[simp] theorem getPort_putByte (s : State) (a : Nat) (b : Byte) (j : Nat) : getPort (putByte s a b) j = getPort s j := rfl

/-! ## Memory -/

theorem getByte_putByte (s : State) (a i : Nat) (b : Byte) : getByte (putByte s a b) i = if i = a then b else getByte s i := by
  show tabGet 0#8 (tabSet 0#8 s.mem a (b ^^^ blankByte s a)) i ^^^ blankByte s i = _
  rw [tabGet_tabSet]
  split
  · subst i; rw [BitVec.xor_assoc, BitVec.xor_self, BitVec.xor_zero]
  · rfl

theorem getByte_writeBytes_out (s : State) (a i : Nat) (l : List Byte) (o : i < a ∨ a + l.length ≤ i) :
    getByte (writeBytes s a l) i = getByte s i := by
  induction l generalizing s a with
  | nil => rfl
  | cons b l ih =>
    simp only [List.length_cons] at o
    simp only [writeBytes]
    rw [ih _ _ (by omega), getByte_putByte, if_neg (by omega)]

/-- A byte of a range reads as it was written. -/
theorem getByte_writeBytes_in (s : State) (a : Nat) (l : List Byte) (i : Nat) (h : i < l.length) :
    getByte (writeBytes s a l) (a + i) = l[i] := by
  induction l generalizing s a i with
  | nil => cases h
  | cons b l ih =>
    simp only [writeBytes]
    cases i with
    | zero => rw [getByte_writeBytes_out _ _ _ _ (by omega), getByte_putByte]; simp
    | succ i =>
      have e : a + (i + 1) = a + 1 + i := by omega
      simp only [List.length_cons, Nat.add_lt_add_iff_right] at h
      rw [e, ih _ _ _ h]
      simp

/-- Every memory operation keeps the canonical form. -/
theorem putByte_wf (s : State) (a : Nat) (b : Byte) (h : Memory.wf s.mem = true) : Memory.wf (putByte s a b).mem = true :=
  tabSet_wf h a (b ^^^ blankByte s a)

theorem writeBytes_wf (s : State) (a : Nat) (l : List Byte) (h : Memory.wf s.mem = true) : Memory.wf (writeBytes s a l).mem = true := by
  induction l generalizing s a with
  | nil => exact h
  | cons b l ih => exact ih _ _ (putByte_wf s a b h)

theorem zeroRange_wf (s : State) (a n : Nat) (h : Memory.wf s.mem = true) : Memory.wf (zeroRange s a n).mem = true := by
  exact tabDrop_wf (fun k => decide (a ≤ k) && decide (k < a + n)) h

theorem reset_wf : Memory.wf State.reset.mem = true := rfl

/-! ## Events -/

/-- Containment touches the heats' typed state and nothing else. -/
theorem contain_eq (s : State) (e : Event) : ∃ x, contain s e = { s with heats := x } := by
  unfold contain
  split
  · generalize liveHeats s = l
    suffices ∀ t : State, ∃ x, l.foldl (fun s h => modHeat s h fun x => { x with contained := true }) t = { t with heats := x } from this s
    induction l with
    | nil => exact fun t => ⟨t.heats, rfl⟩
    | cons h l ih =>
      intro t
      obtain ⟨x, e⟩ := ih (modHeat t h fun x => { x with contained := true })
      exact ⟨x, e⟩
  · split
    · split
      · split
        · exact ⟨s.heats, rfl⟩
        · exact ⟨_, rfl⟩
      · exact ⟨s.heats, rfl⟩
    · exact ⟨s.heats, rfl⟩

/-- Everything an event's detection can change: heats contained, the event queued, or counted as lost. -/
theorem raise_eq (s : State) (e : Event) :
    ∃ x ev n, raise s e = { s with heats := x, events := ev, lostEvents := n } := by
  unfold raise
  obtain ⟨x, hx⟩ := contain_eq s (stampEvent s e)
  dsimp only
  rw [hx]
  split
  · exact ⟨_, _, _, rfl⟩
  · obtain ⟨y, hy⟩ := contain_eq { s with heats := x, lostEvents := s.lostEvents + 1 } overflowEvent
    exact ⟨y, s.events, s.lostEvents + 1, hy⟩

end Sys2Proof.Machine
end

