-- ==== Sys2Proof/Laws/Vector.lean ====
section
/-! SUPPORT. What a vector instruction's shared operations do: the row, the lanes written, the mask bits written. -/

namespace Sys2Proof.Machine

variable {s : State} {k h pc w : Nat}

theorem State.atWord_iff : s.atWord k h pc w = true ↔
    clusterHeat s (slotCluster k) = some h ∧ ((getHeat s h).st = .running ∨ (getHeat s h).st = .stopping) ∧
    (getVec s k).pc = some pc ∧ tabGet 0 (getCore s k).prog pc = w ∧ w ≠ vEnd ∧ pc + 1 < (getCore s k).progLen ∧ pc ≠ 16383 ∧
    (getVec s k).condemned = false := by
  simp only [State.atWord, Bool.and_eq_true, Bool.or_eq_true, Bool.not_eq_true', beq_iff_eq, bne_iff_ne, decide_eq_true_eq, ne_eq]
  tauto

/-- At a word of the row's opcode, while `vl` is not 0, the row runs the instruction and goes to the next word. -/
theorem vecRow_at (a : s.atWord k h pc w = true) {op : Nat} (o : vOp w = op) (f : Nat → Nat → State → VecRes)
    (z : (getVec s k).vl ≠ 0 ∨ op = opSetvl) :
    vecRow op k s f = match f h w s with
      | .stall s => .next s
      | .fault s c => .next (vecFault s k c pc)
      | .ok s => .next (vecNext s k pc) := by
  obtain ⟨a1, a2, a3, a4, a5, a6, a7, a8⟩ := State.atWord_iff.1 a
  unfold vecRow
  simp only [a1, a3, a4]
  have r : ((getHeat s h).st != .running && (getHeat s h).st != .stopping) = false := by
    rcases a2 with e | e <;> rw [e] <;> rfl
  have n : (vOp w != op || decide (w = vEnd) || (getVec s k).condemned) = false := by rw [a8]; simp [o, a5]
  have m : (decide ((getVec s k).vl = 0) && op != opSetvl) = false := by
    rcases z with z | z
    · rw [decide_eq_false z]; rfl
    · simp [z]
  simp only [r, n, m, Bool.false_eq_true, if_false, if_neg a7]
  all_goals (cases f h w s <;> rfl)

/-- While `vl` is 0, a row but SETVL goes to the next word. -/
theorem vecRow_idle (a : s.atWord k h pc w = true) {op : Nat} (o : vOp w = op) (f : Nat → Nat → State → VecRes)
    (z : (getVec s k).vl = 0) (n : op ≠ opSetvl) : vecRow op k s f = .next (vecNext s k pc) := by
  obtain ⟨a1, a2, a3, a4, a5, a6, a7, a8⟩ := State.atWord_iff.1 a
  unfold vecRow
  simp only [a1, a3, a4]
  have r : ((getHeat s h).st != .running && (getHeat s h).st != .stopping) = false := by
    rcases a2 with e | e <;> rw [e] <;> rfl
  have m : (vOp w != op || decide (w = vEnd) || (getVec s k).condemned) = false := by rw [a8]; simp [o, a5]
  have q : (decide ((getVec s k).vl = 0) && op != opSetvl) = true := by rw [decide_eq_true z]; simp [n]
  simp only [r, m, q, Bool.false_eq_true, if_false, if_true, if_neg a7]

/-- The state at the next word of the block. -/
theorem vecNext_eq (a : s.atWord k h pc w = true) : vecNext s k pc = modVec s k fun v => { v with pc := some (pc + 1) } := by
  obtain ⟨-, -, -, -, -, a6, -⟩ := State.atWord_iff.1 a
  unfold vecNext
  rw [if_neg (by omega)]

/-- Nothing but the place of the engine changes. -/
theorem vecNext_idle (a : s.atWord k h pc w = true) :
    VecFrame s (vecNext s k pc) k h ∧ getVec (vecNext s k pc) k = { getVec s k with pc := some (pc + 1) } := by
  rw [vecNext_eq a]
  refine ⟨⟨rfl, ?_, ?_, fun _ _ _ _ => rfl⟩, ?_⟩
  · intro j n
    simp only [getCore, modVec, modCore, setCore, tabGet_tabSet_ne _ _ n]
  · simp only [getCore, getVec, modVec, modCore, setCore, tabGet_tabSet_same]
  · simp only [getCore, getVec, modVec, modCore, setCore, tabGet_tabSet_same]

theorem VecState.active_lt {v : VecState} {e : Nat} (h : v.active w e = true) : e < v.vl := by
  simp only [VecState.active, Bool.and_eq_true, decide_eq_true_eq] at h
  exact h.1

theorem VecState.not_active (v : VecState) (z : v.vl = 0) (w e : Nat) : v.active w e = false := by
  simp [VecState.active, z]

/-- Values written at distinct places of a table. -/
theorem tabGet_foldl_set {α : Type} [DecidableEq α] (d : α) (b : Nat) (l : List Nat) (g : Nat → α) (t : Tab α) (i : Nat) :
    tabGet d (l.foldl (fun t e => tabSet d t (b + e) (g e)) t) i =
      if b ≤ i ∧ i - b ∈ l then g (i - b) else tabGet d t i := by
  induction l generalizing t with
  | nil => simp
  | cons e l ih =>
    simp only [List.foldl_cons, ih, List.mem_cons]
    by_cases c : b ≤ i ∧ i - b ∈ l
    · rw [if_pos c, if_pos ⟨c.1, .inr c.2⟩]
    · rw [if_neg c, tabGet_tabSet]
      by_cases f : i = b + e
      · subst f; simp
      · rw [if_neg f, if_neg]
        rintro ⟨x, y | y⟩
        · omega
        · exact c ⟨x, y⟩

@[simp] theorem VecState.mem_actives (v : VecState) (w e : Nat) : e ∈ v.actives w ↔ v.active w e = true := by
  unfold VecState.actives rangeWhere
  rw [List.mem_filter, List.mem_range]
  constructor
  · exact fun x => x.2
  · intro x
    refine ⟨?_, x⟩
    simp only [VecState.active, Bool.and_eq_true, decide_eq_true_eq] at x
    exact x.1

/-- A tap changes summaries only. -/
theorem VecState.tap_eq (v : VecState) (c : Cls) (w : Nat) (l : List (Nat × Nat)) (n : Nat) :
    v.tap c w l n = { v with sums := (v.tap c w l n).sums } := by
  unfold VecState.tap
  dsimp only
  split <;> rfl

theorem VecState.tap_none (v : VecState) (c : Cls) {w : Nat} (l : List (Nat × Nat)) (n : Nat) (z : vTap w = 0) : v.tap c w l n = v := by
  unfold VecState.tap
  simp only [z, decide_true, Bool.true_or, if_true]

/-- FLUSH events change one dictionary entry of the heat. -/
theorem addFlush_eq (s : State) (h n : Nat) : addFlush s h n = { s with dict := (addFlush s h n).dict } := by
  unfold addFlush
  split <;> rfl

theorem dget_addFlush (s : State) (h n : Nat) {i sub : Nat} (b : sub < 256) (o : i ≠ hStat h ∨ sub ≠ 1) :
    dget (addFlush s h n) i sub = dget s i sub := by
  unfold addFlush
  split
  · rfl
  · rw [dadd_eq, dget_dset_ne _ (by omega) b o]

/-- Events of an instruction: counters of the core's engine, and FLUSH events of the heat. -/
theorem vecEvents_eq (s : State) (k h : Nat) (e : Ev) :
    vecEvents s k h e = { s with
      cores := tabSet {} s.cores k { getCore s k with vec := { getVec s k with
        evSat := (getVec s k).evSat + e.sat, evNanb := (getVec s k).evNanb + e.nanb, evFlush := (getVec s k).evFlush + e.flush } }
      dict := (addFlush s h e.flush).dict } := by
  unfold vecEvents
  rw [addFlush_eq]
  unfold addFlush modVec modCore setCore
  split <;> rfl

/-- The state after an instruction that changes its core's engine, with its events, at the next word. -/
theorem vecNext_frame (a : s.atWord k h pc w = true) (f : VecState → VecState) (e : Ev) :
    VecFrame s (vecNext (vecEvents (modVec s k f) k h e) k pc) k h ∧
      getVec (vecNext (vecEvents (modVec s k f) k h e) k pc) k = { f (getVec s k) with
        pc := some (pc + 1)
        evSat := (f (getVec s k)).evSat + e.sat
        evNanb := (f (getVec s k)).evNanb + e.nanb
        evFlush := (f (getVec s k)).evFlush + e.flush } := by
  obtain ⟨-, -, -, -, -, a6, -⟩ := State.atWord_iff.1 a
  have inside : ¬ pc + 1 ≥ (getCore (vecEvents (modVec s k f) k h e) k).progLen := by
    rw [vecEvents_eq]
    simp only [getCore, tabGet_tabSet_same, modVec, modCore, setCore] at *
    omega
  unfold vecNext
  rw [if_neg inside, vecEvents_eq]
  refine ⟨⟨?_, ?_, ?_, ?_⟩, ?_⟩
  · rfl
  · intro j n
    simp only [getCore, modVec, modCore, setCore, tabGet_tabSet_ne _ _ n]
  · simp only [getCore, getVec, modVec, modCore, setCore, tabGet_tabSet_same]
  · intro i sub b o
    exact dget_addFlush (modVec s k f) h e.flush b o
  · simp only [getCore, getVec, modVec, modCore, setCore, tabGet_tabSet_same]

/-- A row that writes lanes by `g`, its registers aligned. -/
theorem vecWrite_at (a : s.atWord k h pc w = true) {op : Nat} (o : vOp w = op) (ns : op ≠ opSetvl) (packed : Nat → Bool) (l : Nat → List Nat)
    (g : Nat → VecState → Cls → Nat → Nat × Ev) (al : (getVec s k).aligned (l w) = true) :
    ∃ t, vecRow op k s (fun h w s => vecWrite k (packed w) (l w) (g w) h w s) = .next t ∧ VecFrame s t k h ∧
      (∀ i, tabGet 0 (getVec t k).v i =
        if (getVec s k).writes w i then (g w (getVec s k) (heatCls s h) (i - vVd w * 64)).1 else tabGet 0 (getVec s k).v i) ∧
      getVec t k = { getVec s k with
        v := (getVec t k).v, sums := (getVec t k).sums, pc := some (pc + 1), evSat := (getVec t k).evSat
        evNanb := (getVec t k).evNanb, evFlush := (getVec t k).evFlush } ∧
      (vTap w = 0 → (getVec t k).sums = (getVec s k).sums) := by
  by_cases z : (getVec s k).vl = 0
  · obtain ⟨fr, gv⟩ := vecNext_idle a
    refine ⟨_, vecRow_idle a o _ z ns, fr, fun i => ?_, by rw [gv], fun _ => by rw [gv]⟩
    rw [gv, VecState.writes, VecState.not_active _ z, Bool.and_false, if_neg (by decide)]
  rw [vecRow_at a o _ (.inl z)]
  unfold vecWrite vecPut
  dsimp only
  simp only [al, Bool.not_true, Bool.false_eq_true, if_false]
  have fr := vecNext_frame a
    (fun v => ({ v with
        v := (((getVec s k).actives w).map fun e => (e, g w (getVec s k) (heatCls s h) e)).foldl
          (fun t x => tabSet 0 t (vVd w * 64 + x.1) x.2.1) v.v } : VecState).tap (heatCls s h) w
      (tapList (packed w) ((((getVec s k).actives w).map fun e => (e, g w (getVec s k) (heatCls s h) e)).map fun x => (x.1, x.2.1)))
      (if packed w then 2 * (getVec s k).vl else (getVec s k).vl))
    ((evSum ((((getVec s k).actives w).map fun e => (e, g w (getVec s k) (heatCls s h) e)).map fun x => x.2.2)).add
      ((getVec s k).tapFlush (heatCls s h) w
        (tapList (packed w) ((((getVec s k).actives w).map fun e => (e, g w (getVec s k) (heatCls s h) e)).map fun x => (x.1, x.2.1)))
        (if packed w then 2 * (getVec s k).vl else (getVec s k).vl)))
  obtain ⟨fr, gv⟩ := fr
  refine ⟨_, rfl, fr, ?_, ?_, ?_⟩
  · intro i
    rw [gv]
    dsimp only
    rw [VecState.tap_eq]
    dsimp only
    rw [List.foldl_map]
    dsimp only
    rw [tabGet_foldl_set]
    simp only [VecState.mem_actives, VecState.writes, Bool.and_eq_true, decide_eq_true_eq]
  · rw [gv]
    dsimp only
    rw [VecState.tap_eq]
  · intro z
    rw [gv]
    dsimp only
    rw [VecState.tap_none _ _ _ _ z]

/-! ## Masks -/

theorem bitOf_eq_testBit (v n : Nat) : bitOf v n = v.testBit n := by
  rw [bitOf, Nat.testBit, Nat.and_comm, Nat.and_one_is_mod]
  rcases Nat.mod_two_eq_zero_or_one (v >>> n) with e | e <;> simp [e]

/-- Two numbers that differ in bit `n` alone. -/
theorem testBit_other {v n : Nat} (m q r q' : Nat) (hr : r < 2 ^ n) (e : v = 2 ^ n * q + r) (hq : q' / 2 = q / 2) :
    (2 ^ n * q' + r).testBit m = if m = n then q'.testBit 0 else v.testBit m := by
  subst e
  rw [Nat.testBit_two_pow_mul_add _ hr, Nat.testBit_two_pow_mul_add _ hr]
  by_cases a : m < n
  · rw [if_pos a, if_pos a, if_neg (by omega)]
  · rw [if_neg a, if_neg a]
    by_cases b : m = n
    · rw [if_pos b, b, Nat.sub_self]
    · obtain ⟨j, ej⟩ : ∃ j, m - n = j + 1 := ⟨m - n - 1, by omega⟩
      rw [if_neg b, ej, Nat.testBit_succ, Nat.testBit_succ, hq]

theorem bitOf_putBit (v n m : Nat) (b : Bool) : bitOf (putBit v n b) m = if m = n then b else bitOf v m := by
  have hr : v % 2 ^ n < 2 ^ n := Nat.mod_lt _ (Nat.two_pow_pos n)
  have e : v = 2 ^ n * (v / 2 ^ n) + v % 2 ^ n := (Nat.div_add_mod _ _).symm
  have c : bitOf v n = (v / 2 ^ n).testBit 0 := by
    rw [bitOf_eq_testBit, Nat.testBit_zero, Nat.testBit_eq_decide_div_mod_eq]
  generalize v / 2 ^ n = q at e c
  generalize v % 2 ^ n = r at hr e
  simp only [putBit]
  rw [c]
  rw [Nat.testBit_zero] at *
  by_cases o : q % 2 = 1 <;> cases b <;> simp only [o, decide_true, decide_false, Bool.false_eq_true, if_false, if_true]
  · have d : v - 2 ^ n = 2 ^ n * (q - 1) + r := by
      obtain ⟨p, rfl⟩ : ∃ p, q = p + 1 := ⟨q - 1, by omega⟩
      rw [e, Nat.mul_add_one, Nat.add_sub_cancel]
      omega
    rw [bitOf_eq_testBit, bitOf_eq_testBit, d, testBit_other m q r (q - 1) hr e (by omega), Nat.testBit_zero]
    simp only [show ¬ (q - 1) % 2 = 1 by omega, decide_false]
  · by_cases f : m = n
    · rw [if_pos f, f, c]; simp [o]
    · rw [if_neg f]
  · by_cases f : m = n
    · rw [if_pos f, f, c]; simp [o]
    · rw [if_neg f]
  · have d : v + 2 ^ n = 2 ^ n * (q + 1) + r := by
      rw [e, Nat.mul_add_one]
      omega
    rw [bitOf_eq_testBit, bitOf_eq_testBit, d, testBit_other m q r (q + 1) hr e (by omega), Nat.testBit_zero]
    simp only [show (q + 1) % 2 = 1 by omega, decide_true]

theorem bitOf_foldl_putBit (l : List Nat) (g : Nat → Bool) (m e : Nat) :
    bitOf (l.foldl (fun m e => putBit m e (g e)) m) e = if e ∈ l then g e else bitOf m e := by
  induction l generalizing m with
  | nil => simp
  | cons a l ih =>
    simp only [List.foldl_cons, ih, List.mem_cons]
    by_cases c : e ∈ l
    · rw [if_pos c, if_pos (.inr c)]
    · rw [if_neg c, bitOf_putBit]
      by_cases f : e = a
      · rw [if_pos f, if_pos (.inl f), f]
      · rw [if_neg f, if_neg (by simp [c, f])]

/-- A row that writes mask bits by `g`, its registers aligned. -/
theorem maskWrite_at (a : s.atWord k h pc w = true) {op : Nat} (o : vOp w = op) (ns : op ≠ opSetvl) (l : Nat → List Nat)
    (g : Nat → VecState → Cls → Nat → Bool × Ev) (al : (getVec s k).aligned (l w) = true) :
    ∃ t, vecRow op k s (fun h w s => maskWrite k (l w) (g w) h w s) = .next t ∧ VecFrame s t k h ∧
      (∀ e, bitOf ((getVec t k).mask (vVd w % 8)) e =
        if (getVec s k).active w e then (g w (getVec s k) (heatCls s h) e).1 else bitOf ((getVec s k).mask (vVd w % 8)) e) ∧
      (∀ n, n ≠ vVd w % 8 → (getVec t k).mask n = (getVec s k).mask n) ∧
      getVec t k = { getVec s k with
        m := (getVec t k).m, sums := (getVec t k).sums, pc := some (pc + 1), evSat := (getVec t k).evSat
        evNanb := (getVec t k).evNanb, evFlush := (getVec t k).evFlush } ∧
      (vTap w = 0 → (getVec t k).sums = (getVec s k).sums) := by
  by_cases z : (getVec s k).vl = 0
  · obtain ⟨fr, gv⟩ := vecNext_idle a
    refine ⟨_, vecRow_idle a o _ z ns, fr, fun i => ?_, fun n _ => by rw [gv]; rfl, by rw [gv], fun _ => by rw [gv]⟩
    rw [gv, VecState.not_active _ z, if_neg (by decide)]
    rfl
  rw [vecRow_at a o _ (.inl z)]
  unfold maskWrite
  dsimp only
  simp only [al, Bool.not_true, Bool.false_eq_true, if_false]
  have fr := vecNext_frame a
    (fun v =>
      let r := ((getVec s k).actives w).map fun e => (e, g w (getVec s k) (heatCls s h) e)
      let v : VecState := { v with m := tabSet 0 v.m (vVd w % 8) (r.foldl (fun m x => putBit m x.1 x.2.1) (v.mask (vVd w % 8))) }
      v.tap (heatCls s h) w (r.map fun x => (x.1, bitPattern x.2.1)) v.vl)
    (evSum ((((getVec s k).actives w).map fun e => (e, g w (getVec s k) (heatCls s h) e)).map fun x => x.2.2))
  obtain ⟨fr, gv⟩ := fr
  refine ⟨_, rfl, fr, ?_, ?_, ?_, ?_⟩
  · intro e
    rw [gv]
    dsimp only
    rw [VecState.tap_eq]
    unfold VecState.mask
    dsimp only
    rw [tabGet_tabSet_same, List.foldl_map]
    dsimp only
    rw [bitOf_foldl_putBit]
    simp only [VecState.mem_actives]
  · intro n ne
    rw [gv]
    dsimp only
    rw [VecState.tap_eq]
    unfold VecState.mask
    dsimp only
    rw [tabGet_tabSet_ne _ _ ne]
  · rw [gv]
    dsimp only
    rw [VecState.tap_eq]
  · intro z
    rw [gv]
    dsimp only
    rw [VecState.tap_none _ _ _ _ z]

/-- A row that is `vecWrite` of `g` completes as its lanes say. -/
theorem LaneRow.completes_of (r : LaneRow) (ns : r.op ≠ opSetvl) (packed : Nat → Bool) (g : Nat → VecState → Cls → Nat → Nat × Ev)
    (e : ∀ k s, exec (r.row k) s = vecRow r.op k s fun h w s => vecWrite k (packed w) (r.regs w) (g w) h w s)
    (l : ∀ w v c i, r.lane w v c i = (g w v c i).1) : r.Completes := by
  intro s k h pc w a o al
  rw [e]
  obtain ⟨t, h1, h2, h3, h4⟩ := vecWrite_at a o ns packed r.regs g al
  exact ⟨t, h1, h2, fun i => by rw [h3, l], h4⟩

/-- A row that is `maskWrite` of `g` on the active elements completes as its bits say. -/
theorem MaskRow.completes_of (r : MaskRow) (ns : r.op ≠ opSetvl) (g : Nat → VecState → Cls → Nat → Bool × Ev)
    (e : ∀ k s, exec (r.row k) s = vecRow r.op k s fun h w s => maskWrite k (r.regs w) (g w) h w s)
    (n : ∀ w v i, r.on w v i = v.active w i) (l : ∀ w v c i, r.bit w v c i = (g w v c i).1) : r.Completes := by
  intro s k h pc w a o al
  rw [e]
  obtain ⟨t, h1, h2, h3, h4⟩ := maskWrite_at a o ns r.regs g al
  exact ⟨t, h1, h2, fun i => by rw [h3, l, n], h4⟩

/-! ## Changes of the engine alone -/

theorem modVec_step (i : Instr) (s : State) (k : Nat) (f : VecState → VecState) (e : exec i s = .next (modVec s k f)) :
    EngineStep i s k (f (getVec s k)) := by
  refine ⟨_, e, rfl, fun j n => ?_, ?_⟩
  · simp only [getCore, modVec, modCore, setCore, tabGet_tabSet_ne _ _ n]
  · simp only [getCore, getVec, modVec, modCore, setCore, tabGet_tabSet_same]

/-- A row that changes its core's engine by `f`. -/
theorem engineStep_of (a : s.atWord k h pc w = true) {op : Nat} (o : vOp w = op) (i : Instr) (f : VecState → VecState)
    (z : (getVec s k).vl ≠ 0 ∨ op = opSetvl) (g : Nat → Nat → State → VecRes) (gf : g h w s = .ok (modVec s k f))
    (e : exec i s = vecRow op k s g) : EngineStep i s k { f (getVec s k) with pc := some (pc + 1) } := by
  have a6 := (State.atWord_iff.1 a).2.2.2.2.2.1
  refine ⟨_, by rw [e, vecRow_at a o _ z, gf], ?_⟩
  have inside : ¬ pc + 1 ≥ (getCore (modVec s k f) k).progLen := by
    simp only [getCore, tabGet_tabSet_same, modVec, modCore, setCore] at *
    omega
  simp only [vecNext, if_neg inside]
  refine ⟨rfl, fun j n => ?_, ?_⟩
  · simp only [getCore, modVec, modCore, setCore, tabGet_tabSet_ne _ _ n]
  · simp only [getCore, getVec, modVec, modCore, setCore, tabGet_tabSet_same]

/-- A row that only goes on. -/
theorem engineStep_id (a : s.atWord k h pc w = true) {op : Nat} (o : vOp w = op) (i : Instr)
    (e : exec i s = vecRow op k s fun _ _ s => .ok s) (n : op ≠ opSetvl) :
    EngineStep i s k { getVec s k with pc := some (pc + 1) } := by
  have go : exec i s = .next (vecNext s k pc) := by
    rw [e]
    by_cases z : (getVec s k).vl = 0
    · exact vecRow_idle a o _ z n
    · rw [vecRow_at a o _ (.inl z)]
  refine ⟨_, go, ?_⟩
  rw [vecNext_eq a]
  refine ⟨rfl, fun j n => ?_, ?_⟩
  · simp only [getCore, modVec, modCore, setCore, tabGet_tabSet_ne _ _ n]
  · simp only [getCore, getVec, modVec, modCore, setCore, tabGet_tabSet_same]

end Sys2Proof.Machine
end

