-- ==== Sys2Proof/Tests/Slice0.lean ====
section
/-! SUPPORT. Well-formedness refused, check by check, and for every statement a state and operands that meet its hypotheses. -/

namespace Sys2Proof.Tests

open Sys2Proof.Machine

-- The checks are short: one after another they take less memory than side by side.
set_option Elab.async false

/-! ## Ill-formed commands -/

theorem test_wf_queue : (Instr.nop (2 ^ 18)).wf = false ∧ (Instr.nop (2 ^ 18 - 1)).wf = true := by decide
theorem test_wf_core : (Instr.fadd 8 none).wf = false ∧ (Instr.fadd 576 none).wf = false ∧ (Instr.fadd 7 none).wf = true := by decide
theorem test_wf_cluster : (Instr.spareMove 64).wf = false ∧ (Instr.spareMove 63).wf = true := by decide
theorem test_wf_heat : (Instr.snapshotLap 16).wf = false ∧ (Instr.snapshotLap 15).wf = true := by decide
theorem test_wf_port : (Instr.laneLock 32 0 0).wf = false ∧ (Instr.laneLock 31 0 0).wf = true := by decide
theorem test_wf_sender : (Instr.backoffExpiry (2 ^ 18 + 16) 0).wf = false ∧ (Instr.backoffExpiry (2 ^ 18 + 15) 0).wf = true := by decide

/-! ## States -/

/-- Entries of the dictionary set one after another. -/
def withDict (s : State) (l : List (Nat × Nat × Nat)) : State := l.foldl (fun s x => dset s x.1 x.2.1 x.2.2) s

/-- READY with chip number 1, 1 GB of stack memory, the pace locked to port 0; heat 0 on cluster 0 with the lowest 256 MB. -/
def base : State :=
  let s := withDict State.reset
    [(0x2A10, 1, 8), (0x2320, 8, 1), (0x2C10, 2, 1), (0x2C10, 4, 0x3FFFFFFF), (0x2200, 5, 1), (0x2200, 9, 0), (hCfg 0, 3, 1)]
  { domSet s (hCfg 0) 4 (bytesOf 8 0 ++ bytesOf 8 0x10000000 ++ zeros 112) with
    pins := { inputOn := true, pwrLevel := true, pwrEn := true }, strapped := true }

/-- The same with heat 0 in a state. -/
def heatIn (st : HState) : State := { base with heats := [(0, { st := st })] }

/-- Heat 0 runs. -/
def run : State := heatIn .running

/-- Core 0 of the running heat with a block of one word and the vector state `v`. -/
def vec (w : Nat) (v : VecState) : State :=
  { run with cores := [(0, { vec := { v with pc := some 0 }, prog := [(0, w)], progLen := 2 })] }

/-- Queue 0 of the running heat with the started command `f`. -/
def cmd (f : Flight) : State := { run with queues := [(0, { enabled := true, cls := 6, flights := [f] })] }

/-- A started command of an opcode: the fields of its descriptor as (low bit, value). -/
def started (o : Nat) (l : List (Nat × Nat)) : Flight :=
  { index := 0, opcode := o, desc := BitVec.ofNat 512 (o * 256 + l.foldl (fun a x => a + x.2 * 2 ^ x.1) 0), ext := 0, hasExt := false }

/-! ## The machine -/

theorem witness_StepRunsFrontCommand : ({ run with pending := [.nop 0, .lapStart] } : State).pending = .nop 0 :: [.lapStart] := rfl

theorem witness_StepTicksWhenIdle : run.pending = [] ∧ run.phase + 1 < lapLen run ∧ run.pins.pwrEn = run.pins.pwrLevel ∧
    (∀ x ∈ [(-1 : Int), 1], let s := { run with slew := x, slewFrac := 936 }
      linksUp s = true ∧ s.slew ≠ 0 ∧ 1000 ≤ s.slewFrac + 64 ∧ (s.slew < 0) = (x = -1)) ∧
    (let s := { run with phase := 1 }
     s.pausedOut = [] ∧ s.sessions = [] ∧ s.conns = [] ∧ s.slew = 0 ∧ s.phase ≠ 0 ∧ s.phase + 1 < lapLen s) ∧
    (let s := { run with phase := lapLen run - 1 }
     s.pending = [] ∧ linksUp s = true ∧ lapLen s ≤ s.phase + 1) := by decide +kernel

theorem witness_StepKeepsTables : run.tablesOk = true ∧ step run = .next (tick run) := ⟨by decide +kernel, rfl⟩

/-- A state with a slot and a channel retired. -/
def worn : State := { run with retiredSlots := [3], retiredChannels := [5] }

theorem witness_StepNeverTakesBack : step worn = .next (tick worn) ∧ 3 ∈ worn.retiredSlots ∧ 5 ∈ worn.retiredChannels :=
  ⟨rfl, List.mem_cons_self, List.mem_cons_self⟩

/-! ## Vector instructions -/

/-- A word of an opcode with the bits below it. -/
def vword (o rest : Nat) : Nat := o * 2 ^ 26 + rest

theorem witness_VectorLaneRows : ∀ r ∈ floatRows ++ intRows ++ moveRows,
    (vec (vword r.op 0) { vl := 4 }).atWord 0 0 0 (vword r.op 0) = true ∧ vOp (vword r.op 0) = r.op ∧
      (getVec (vec (vword r.op 0) { vl := 4 }) 0).aligned (r.regs (vword r.op 0)) = true := by decide +kernel

/-- An error in lane 0. -/
def struck : VecErr := { lane := 0, hi := false, delta := 1 }

theorem witness_VectorLaneRows_checked : ∀ r ∈ checkedRows,
    let w := vword r.op 0
    let s := vec w { vl := 4 }
    let on (l : List VecErr) (i : Nat) : (Nat × Ev) × Bool := checkedLane r.path l w (getVec s 0) (heatCls s 0) i
    s.atWord 0 0 0 w = true ∧ vOp w = r.op ∧ (getVec s 0).vl ≠ 0 ∧ (getVec s 0).aligned (regs3 w) = true ∧
      (getVec s 0).active w 0 = true ∧ (∀ i < 4, (on [] i).2 = true ∧ ((on [struck] i).2 = true → (on [struck] i).1.1 = (on [] i).1.1)) ∧
      (on [struck] 0).2 = false := by decide +kernel

theorem witness_VectorMaskRows : ∀ r ∈ maskRows,
    (vec (vword r.op 0) { vl := 4 }).atWord 0 0 0 (vword r.op 0) = true ∧ vOp (vword r.op 0) = r.op ∧
      (getVec (vec (vword r.op 0) { vl := 4 }) 0).aligned (r.regs (vword r.op 0)) = true := by decide +kernel

theorem witness_VectorControlRows :
    (∀ o ∈ [0x3A, 0x3B, 0x3C, 0x00, 0x39, 0x3E, 0x36, 0x37, 0x38, 0x29],
      let s := vec (vword o 0) { vl := 4 }
      s.atWord 0 0 0 (vword o 0) = true ∧ vOp (vword o 0) = o ∧ (getVec s 0).vl ≠ 0 ∧ (getVec s 0).aligned [0] = true ∧
        (getVec s 0).active (vword o 0) 0 = true) ∧
    (let s := vec (vword 0x29 0) {}
     s.atWord 0 0 0 (vword 0x29 0) = true ∧ (getVec s 0).aligned [0] = true ∧ (getVec s 0).active (vword 0x29 0) 0 = false) ∧
    (getVec (vec vEnd {}) 0).pc = some 0 ∧ (getVec (vec vEnd {}) 0).condemned = false ∧
    tabGet 0 (getCore (vec vEnd {}) 0).prog 0 = vEnd := by decide +kernel

theorem witness_VectorZeroOrMisaligned :
    (∀ r ∈ vectorRows 0, (vec (vword r.1 1) {}).atWord 0 0 0 (vword r.1 1) = true ∧ vOp (vword r.1 1) = r.1) ∧
    (∀ r ∈ floatRows ++ intRows ++ moveRows, let w := vword r.op (2 ^ 21)
      (vec w { vl := 4, grp := 1 }).atWord 0 0 0 w = true ∧ vOp w = r.op ∧
        (getVec (vec w { vl := 4, grp := 1 }) 0).aligned (r.regs w) = false) := by decide +kernel

/-- Address register 0 at offset 64 with a stride of 4 bytes. -/
def vmem : VecState := { vl := 4, a := [(0, 64 + 4 * 2 ^ 32)] }

theorem witness_VectorLoadStore :
    (∀ o ∈ [0x32, 0x33], (vec (vword o 0) vmem).atWord 0 0 0 (vword o 0) = true ∧ vOp (vword o 0) = o ∧
      (getVec (vec (vword o 0) vmem) 0).aligned [0] = true ∧ ((4 : Nat) : Int) ≤ addrStride (tabGet 0 vmem.a 0) ∧
      accessFault (vec (vword o 0) vmem) 0 (tabGet 0 vmem.a 0) 4 ((vmem.actives (vword o 0)).map (elemOff (tabGet 0 vmem.a 0))) =
        none) ∧
    (∀ o ∈ [0x34, 0x35], (vec (vword o 0) vmem).atWord 0 0 0 (vword o 0) = true ∧ vOp (vword o 0) = o ∧
      maskAccessFault (vec (vword o 0) vmem) 0 (tabGet 0 vmem.a 0) (vmem.actives (vword o 0)) = none) := by decide +kernel

theorem witness_VectorRowsTap :
    (∀ o ∈ [0x32, 0x33, 0x34, 0x35, 0x3A, 0x3B, 0x3C, 0x00, 0x39, 0x3E, 0x36, 0x38, 0x37, 0x29],
      let s := vec (vword o 0) vmem
      let a := tabGet 0 vmem.a 0
      s.atWord 0 0 0 (vword o 0) = true ∧ vOp (vword o 0) = o ∧ (getVec s 0).vl ≠ 0 ∧ (getVec s 0).aligned [0] = true ∧
        (getVec s 0).active (vword o 0) 0 = true ∧ accessFault s 0 a 4 ((vmem.actives (vword o 0)).map (elemOff a)) = none ∧
        maskAccessFault s 0 a (vmem.actives (vword o 0)) = none) ∧
    (getVec (vec vEnd {}) 0).pc = some 0 ∧ (getVec (vec vEnd {}) 0).condemned = false ∧
    tabGet 0 (getCore (vec vEnd {}) 0).prog 0 = vEnd := by decide +kernel

/-- A stream that takes FP32 elements from core 0, with `n` bytes buffered, and the program that feeds it. -/
def feeding (n : Nat) : State :=
  let s := vec (vword 0x3D 0) { vl := 4 }
  { s with
    cores := s.cores.map fun x => (x.1, { x.2 with ctl := some { queue := 0, index := 0, desc := 0, pc := 0, laps := 0, stored := none } })
    clusters := [(0, { streams := [some { queue := 0, index := 1, core := 0, tag := 0, fmt := .fp32, need := 8, elems := []
                                          buffered := n }, none, none, none] })] }

theorem witness_VectorHandOff : ∀ n ∈ [0, 16384],
    (feeding n).atWord 0 0 0 (vword 0x3D 0) = true ∧ (getVec (feeding n) 0).aligned [vVa (vword 0x3D 0)] = true ∧
      ((streamFor (feeding n) 0 (vword 0x3D 0)).map fun x =>
        let l := handElems (getVec (feeding n) 0) (heatCls (feeding n) 0) (vword 0x3D 0) x.fmt
        decide (x.elems.length + l.length ≤ x.need ∧ x.buffered = n ∧ l.length * (x.fmt.elemBits / 8) = 16)) = some true := by
  decide +kernel

/-- Core 0 with a command program and a vector state. -/
def programmed (d : Nat) (v : VecState) : State :=
  { run with cores := [(0, { vec := v, progLen := 1, ctl := some { queue := 0, index := 0, desc := BitVec.ofNat 512 d, pc := 0, laps := 1, stored := none } })] }

theorem witness_ProgramsAndBlocks :
    ((program (programmed 0 {}) 0).isSome = true ∧ (getVec (programmed 0 {}) 0).fault = none ∧
      (getVec (programmed 0 {}) 0).blocks.length < 4 ∧ (getVec (programmed 0 {}) 0).contributes = false ∧
      (getVec (programmed 0 { blocks := [0] }) 0).contributes = true) ∧
    (let s := programmed 0 { blocks := [0] }; (getVec s 0).pc = none ∧ (getVec s 0).blocks = 0 :: []) ∧
    (let s := { run with cores := [(0, { vec := { busy := true } })] }
     (getVec s 0).busy = true ∧ (getVec s 0).pc = none ∧ (getVec s 0).blocks = [] ∧ (getCore s 0).ctl = none) ∧
    (let s := cmd (started 0x40 []); runningIn s 0 0x40 = some (0, started 0x40 []) ∧ (getQueue s 0).slot = 0 ∧
      (getCore s 0).ctl = none) ∧
    (fld (BitVec.ofNat 64 7) 63 48 = 0 ∧ (getVec (programmed 0 {}) 0).busy = false) ∧
    ((program (programmed (2 ^ 225) {}) 0).map limitReached = some true ∧ beforeLimit { programmed (2 ^ 225) {} with phase := 1 } = false) := by decide +kernel

theorem witness_VectorRunsOff :
    (let s := { run with cores := [(0, { vec := { pc := some 16383 }, prog := [(16383, vword 1 0)] })] }
     clusterHeat s (slotCluster 0) = some 0 ∧ (getHeat s 0).st = .running ∧ (getVec s 0).pc = some 16383 ∧
       (getVec s 0).condemned = false ∧ tabGet 0 (getCore s 0).prog 16383 = vword 1 0 ∧ vword 1 0 ≠ vEnd ∧ vOp (vword 1 0) = 1) ∧
    (let s := programmed 0 { blocks := [5] }
     (getVec s 0).pc = none ∧ (getVec s 0).blocks = 5 :: [] ∧ (getCore s 0).progLen ≤ 5) := by decide +kernel

/-! ## Queues and their commands -/

/-- Queue 0 open, its ring of 64 slots at 0x1000 and its records at 0x2000. -/
def openQ (x : Queue → Queue) : State := { run with queues := [(0, x { enabled := true, cls := 6, ring := 0x1000, cpl := 0x2000 })] }

theorem witness_DoorbellMovesTail :
    let s := openQ id
    queueHeat s 0 = some 0 ∧ agentAllowed s 0 .mgmt = true ∧ doorbellOpen s 0 0 = true ∧ aheadOf 0 (getQueue s 0).tail = 0 ∧
      aheadOf 64 (getQueue s 0).tail ≠ 0 ∧ aheadOf 64 (getQueue s 0).head ≤ 2 ^ (getQueue s 0).log2 ∧
      2 ^ (getQueue s 0).log2 < aheadOf 65 (getQueue s 0).head := by decide +kernel

theorem witness_DoorbellsRefused :
    let s := openQ id
    queueHeat s 0 = some 0 ∧ agentAllowed s 0 .other = false ∧ clusterHeat s (slotCluster 0) = some 0 ∧ doorbellOpen s 0 0 = true ∧
      aheadOf 64 (getQueue s 0).tail ≠ 0 ∧ aheadOf 64 (getQueue s 0).head ≤ 2 ^ (getQueue s 0).log2 ∧
      2 ^ (getQueue s 0).log2 < aheadOf 65 (getQueue s 0).head := by decide +kernel

/-- A queue whose head command is the descriptor `d`. -/
def headed (d : Nat) : State :=
  openQ fun x => { x with headCmd := some { index := 0, desc := BitVec.ofNat 512 d, ext := noExt, hasExt := false } }

theorem witness_HeadOfQueue :
    (let s := openQ fun x => { x with tail := 1 }
     let d := readSlot s (getQueue s 0) 0
     queueHeat s 0 = some 0 ∧ heatRuns s 0 = true ∧ s.errs = [] ∧ 1 ≤ aheadOf (getQueue s 0).tail (getQueue s 0).next ∧
       (getQueue s 0).headCmd = none ∧ cmdSlots d = 1 ∧ staticCheck s 0 0 (planAdmits s 0) d noExt false = none) ∧
    (let s := putByte (openQ fun x => { x with tail := 1 }) 0x1001 0x7F#8
     let d := readSlot s (getQueue s 0) 0
     cmdSlots d = 1 ∧ isColl (dOpcode d) = false ∧ (staticCheck s 0 0 (planAdmits s 0) d noExt false).isSome = true) ∧
    (let s := headed 0
     let x := getQueue s 0
     queueHeat s 0 = some 0 ∧ heatRuns s 0 = true ∧ x.enabled = true ∧ x.paceHeld = false ∧ paceLost s = false ∧ x.flights = [] ∧
       onCore x = true ∧ coreHeld s x.slot = false ∧ coreAwake s x.slot = true ∧ s.seq.waiting.any (·.unit = .core x.slot false) = false ∧
       ((getQueue s 0).headCmd.map fun c => (dOpcode c.desc, dNb c.desc, c.ext == noExt)) = some (0, false, true)) ∧
    (let s := headed (128 + 5 * 2 ^ 48)
     ((getQueue s 0).headCmd.map fun c => (dOpcode c.desc, dNb c.desc, timeReached s c.desc)) = some (0, true, false)) := by
  decide +kernel

theorem witness_HeadOfQueue_turn :
    queueTurn (headed 0) 0 = true ∧
    (let x := getQueue (headed 0) 0
     let s := { headed 0 with queues := [(0, x), (1, x)], served := [(engineOf 0 x, 1)] }
     queueTurn s 0 = false ∧ queueHeat s 0 = some 0 ∧ (getQueue s 0).headCmd = x.headCmd) := by decide +kernel

theorem witness_RecordWritten :
    let f : Flight := { started 0 [] with done := true }
    queueHeat (cmd f) 0 = some 0 ∧ (getQueue (cmd f) 0).flights = f :: [] ∧ f.done = true ∧ (cmd f).errs = [] ∧ f.opcode ≠ 0x20 ∧
      f.after = [] ∧ f.hasExt = false := by decide +kernel

theorem witness_SettingCommands :
    (∀ o ∈ [0x00, 0x01, 0xC0, 0xA1, 0xA0, 0xC2, 0xC1], runningIn (cmd (started o [])) 0 o = some (0, started o [])) ∧
    (getLedger (cmd (started 0xA0 [])) 0 0).st = .idle ∧
    (let s := cmd (started 0xA0 []); (getLedger { s with heats := [(0, { st := .running, ledger := [(0, { st := .opened })] })] } 0 0).st = .opened) ∧
    ((normWindow (fld (started 0xA3 []).desc 499 436)).isSome = true ∧
      runningIn (cmd (started 0xA3 [])) 0 0xA3 = some (0, started 0xA3 [])) ∧
    orderState (cmd (started 0xC5 [(373, 0x10000)])) 0 (started 0xC5 [(373, 0x10000)]).desc = none ∧
    runningIn (cmd (started 0xC5 [(373, 0x10000)])) 0 0xC5 = some (0, started 0xC5 [(373, 0x10000)]) ∧ (cmd (started 0xC2 [])).errs = [] := by decide +kernel

theorem witness_SettingsTakeEffect : ∀ o ∈ [0xC0, 0xA1],
    let f : Flight := { started o [] with after := lateOf run (started o []).desc }
    runningIn (cmd f) 0 o = some (0, f) ∧ (getQueue (cmd f) 0).flights = f :: [] ∧ (cmd f).errs = [] ∧ f.status = 0 ∧
      f.after = lateOf run f.desc ∧ dOpcode f.desc = f.opcode ∧ f.after.length = 1 := by decide +kernel

theorem witness_ControlCommands :
    (let f := started 0xC6 [(494, 1)]
     runningIn (cmd f) 0 0xC6 = some (0, f) ∧ fld f.desc 511 494 ≠ 0 ∧ queueQuiet (getQueue (cmd f) 1) = true) ∧
    (let f := started 0xC4 []; runningIn (cmd f) 0 0xC4 = some (0, f) ∧ fld f.desc 463 416 = 0) ∧
    (let f := started 0xC7 [(464, 5), (448, 2)]
     runningIn (cmd f) 0 0xC7 = some (0, f) ∧ (spareOf (cmd f) (queueCluster 0)).isSome = true ∧ (cmd f).lap < 5 + 2 ∧
       (spareOf (setSlot (cmd f) 8 slotRetired 0xF) (queueCluster 0)).isSome = false ∧
       runningIn (setSlot (cmd f) 8 slotRetired 0xF) 0 0xC7 = some (0, f)) ∧
    (let f := started 0xC3 []
     let s := cmd f
     runningIn s 0 0xC3 = some (0, f) ∧ fld f.desc 463 463 = 0 ∧ progWaits s (getQueue s 0).slot false = false ∧
       (let s := { s with cores := [(0, { vec := { pc := some 0 } })] }
        runningIn s 0 0xC3 = some (0, f) ∧ progWaits s (getQueue s 0).slot false = true)) := by decide +kernel

/-! ## The array -/

theorem witness_EmptyRowMask :
    let f : Flight := { started 0x20 [] with tile := some (newTile run 0 0 (started 0x20 []).desc) }
    runningIn (cmd f) 0 0x20 = some (0, f) ∧ (getQueue (cmd f) 0).slot = 0 ∧ f.tile = some (newTile (cmd f) 0 0 f.desc) ∧
      (GemmPar.ofDesc f.desc).rowMask = 0 := by decide +kernel

/-- A tile of one INT8 cell: operands at lines 0 and 16, output at line 32, eight lines each. -/
def cell : Flight :=
  { started 0x20 [(384, 1), (360, 7), (336, 16 * 4096 + 7), (264, 32 * 4096 + 7), (237, 5), (234, 5)] with
    tile := some { rungA := 3, rungB := 3, pos0 := 0, kblk0 := 0, policy := 2 ^ 128 - 1 } }

/-- A fill of 32 zeros into bank 0 of eight lines from a line on. -/
def filled (line : Nat) : BufWrite := .fill
  { id := line, queue := 0, index := 0, elem := ⟨line, 8⟩, scale := ⟨0, 1⟩, width := 8, srcF := none, fmt := some .int8, pol := 0, stamp := {}, heat := 0, desc := 0, ext := 0
    rows := [{ bank := 0, pos := 0, k0 := 0, codes := List.replicate 32 0, scale0 := 0, scales := [], evs := [], step := 32, lifted := [], ents := []
               lo := 0, hi := 32 }]
    srcKind := 0, hold := none, asked := false, raw := [], scs := [] }

/-- The tile at its start, with both operands filled. -/
def cellAt (f : Flight) : State := { cmd f with cores := [(0, { log := [filled 0, filled 16] })] }

theorem witness_TilePass :
    let s := cellAt cell
    let g := GemmPar.ofDesc cell.desc
    let o := runPass s 0 g (bufferOperand s 0 (heatCls s 0) g.fA g.aElem g.aScale (activeRows g) g.kBlocks 0 0)
      (bufferOperand s 0 (heatCls s 0) g.fB g.bElem g.bScale (List.range g.cols) g.kBlocks 0 0) (heatCls s 0) {}
    runningIn s 0 0x20 = some (0, cell) ∧ g.rowMask ≠ 0 ∧ feedMissing s 0 g.fA g.aElem (activeRows g) g.kBlocks 0 = false ∧
      feedMissing s 0 g.fB g.bElem (List.range g.cols) g.kBlocks 0 = false ∧ (getCore s 0).waiting = [] ∧ o.bad = [] ∧
      crossesNothing (2 ^ 128 - 1) o = true ∧ o.excess = [] ∧ o.overB = [] ∧ o.outs.length = 1 := by decide +kernel

/-- The tile with a repeat decided, and with a marked pass. -/
def cellRun (r : TileRun) : Flight := { cell with acted := true, tile := some r }
def onceRun : TileRun :=
  { rungA := 0, rungB := 0, pos0 := 0, kblk0 := 0, policy := 2 ^ 128 - 1, log := [filled 0, filled 16] }
def againRun : TileRun := { onceRun with again := true, widenA := true }
def mark : Residue := { outlier := false, row := 0, col := 0, kblock := 0, delta := 1 }
def markedRun : TileRun := { onceRun with marked := [mark] }

theorem witness_TileRepeats :
    (let s := cellAt (cellRun againRun)
     (tileFlight s 0 (fun x => x.again && x.marked.isEmpty)).isSome = true ∧ s.errs = [] ∧
       ((repeatPass s 0 0 (GemmPar.ofDesc cell.desc) againRun.raised {}).2.map fun z =>
         z.out.bad.isEmpty && crossesNothing againRun.policy z.out && decide (z.out.outs.length = 1)) = some true) ∧
    (let s := cellAt (cellRun markedRun)
     let o (n : Nature) := (repeatPass s 0 0 (GemmPar.ofDesc cell.desc) markedRun n).2.map (·.out)
     (tileFlight s 0 (fun x => !x.marked.isEmpty)).isSome = true ∧ s.errs = [] ∧
       ((o {}).map fun o => o.bad.isEmpty && outsAgree markedRun.marked markedRun.outs o.outs) = some true ∧
       ((o { errors := [mark] }).map fun o => o.bad.isEmpty) = some false) := by decide +kernel

theorem witness_DiagonalPass :
    let f := started 0x21 [(368, 31)]
    let s := { cmd f with cores := [(0, { log := [.bytes [(0, 2 ^ 21)]] })] }
    let d := DiagPar.ofDesc f.desc
    let o (l : List Residue) := diagRun s 0 (heatCls s 0) d l
    runningIn s 0 0x21 = some (0, f) ∧ f.status = 0 ∧ flightOf s 0 0 = some f ∧ 32 * ((d.n + 4095) / 4096) ≤ d.r.len ∧
      diagMissing s 0 d = false ∧ (getCore s 0).waiting = [] ∧ (o []).bad = [] ∧ (o [mark]).bad ≠ [] ∧
      canRerun (writeDiag s 0 d (o [mark]).outs) 0 0 (diagOwners s 0 d) = true := by decide +kernel

theorem witness_DiagonalPass_again :
    let m : DiagMark := { bad := [mark], outs := [] }
    let f : Flight := { started 0x21 [(368, 31)] with acted := true, diag := some m }
    let s := { cmd f with cores := [(0, { log := [.bytes [(0, 2 ^ 21)]] })] }
    let o := diagRun s 0 (heatCls s 0) (DiagPar.ofDesc f.desc) []
    f.status = 0 ∧ flightOf s 0 0 = some f ∧ tileFlight s 0 (fun x => !x.marked.isEmpty) = none ∧ diagFlight s 0 = some (0, f, m) ∧
      o.bad = [] ∧ diagAgree m o.outs = true := by decide +kernel

/-! ## DMA and the update engine -/

/-- A copy of one row of 8 bytes from 0 to 0x100. -/
def copy (op : Nat) : Flight := started 0x60 [(384, 0x100), (360, 1), (336, 8), (304, 8), (272, 8), (255, op)]

theorem witness_CopyRows : ∀ op ∈ [0, 3],
    let s := cmd (copy op)
    let p := DmaPar.ofDesc (copy op).desc 0
    (runningIn s 0 0x60 = some (0, copy op) ∧ flightOf s 0 0 = some (copy op) ∧ s.errs = [] ∧ p.srcKind = 0 ∧ p.dstKind = 0 ∧
      isLocal s (gChip p.src) = true ∧ isLocal s (gChip p.dst) = true ∧ p.gradKind = 0 ∧ p.pfEnable = false ∧ p.cache = false) ∧
    p.memOp = op ∧ p.rows = 1 ∧ p.rowLen ≤ p.dstStride ∧ place s (gOff p.src) = .stack ∧ place s (gOff p.dst) = .stack ∧
      (copy op).srcF = none ∧ (copy op).dstF = none ∧ refusedBy s 0 p none none = none ∧ stagedPart s 0 0 0 = false ∧
      regionsAt s 0 (gOff p.dst) p.rowLen = [] := by
  decide +kernel

theorem witness_FillFeedsArray :
    let f : Flight := { started 0x60 [(414, 7), (360, 1), (336, 4), (258, 1)] with ext := BitVec.ofNat 512 (2 ^ 384), srcF := some .int8, dstF := some .int8 }
    let s := cmd f
    let p := DmaPar.ofDesc f.desc f.ext
    runningIn s 0 0x60 = some (0, f) ∧ flightOf s 0 0 = some f ∧ s.errs = [] ∧ p.srcKind = 0 ∧ p.dstKind = 1 ∧
      isLocal s (gChip p.src) = true ∧ p.rot = 0 ∧ p.gradKind = 0 ∧ p.pfEnable = false ∧ p.cache = false ∧ p.rows = 1 ∧
      bitOf p.rowMask p.bankFirst = true ∧ place s (gOff p.src) = .stack ∧
      p.streamPos + p.bankFirst + 32 * ((p.rowLen + 31) / 32) ≤ (rgElem p.dst).len * 4 ∧
      (getCore s (rgSlot p.dst)).waiting = [] ∧ heldBits (rgElem p.dst) p.bankFirst (getCore s (rgSlot p.dst)).log = [] ∧
      refusedBy s 0 p f.srcF f.dstF = none ∧ f.acks = 0 ∧ f.rem.refusal = none := by
  decide +kernel

/-- A hand-off stream of two FP32 elements with its command. -/
def landing (need : Nat) (closed : Bool) : State :=
  { cmd { started 0x61 [(360, 1), (336, 2), (384, 0x100)] with srcF := some .fp32, dstF := some .fp32 } with
    clusters := [(0, { streams := [some { queue := 0, index := 0, core := 0, tag := 0, fmt := .fp32, need := need, elems := [1, 2]
                                          closed := closed }, none, none, none] })] }

theorem witness_StreamLands : ∀ x ∈ [(2, false), (3, true)],
    let s := landing x.1 x.2
    let p := DmaPar.ofDesc (started 0x61 [(360, 1), (336, 2), (384, 0x100)]).desc 0
    (runningIn s 0 0x61).isSome = true ∧ s.errs = [] ∧ ((getStream s (streamOf p).1 (streamOf p).2).map fun y =>
      decide (y.queue = 0 ∧ y.index = 0 ∧ (y.need ≤ y.elems.length ∨ y.closed = true))) = some true ∧ p.dstKind = 0 ∧
    isLocal s (gChip p.dst) = true ∧ p.memOp = 0 ∧ p.gradKind = 0 ∧ p.listEn = false ∧ p.srcKind ≠ 2 ∧ p.rot = 0 ∧ p.rows = 1 ∧
    p.rowLen = 2 ∧ place s (gOff p.dst) = .stack ∧
    refusedBy s 0 p (some .fp32) (some .fp32) = none ∧ stagedPart s 0 0 0 = false := by decide +kernel

theorem witness_FrozenGroup :
    let f : Flight := { started 0xA2 [] with coef := 2 ^ 256 }
    runningIn (cmd f) 0 0xA2 = some (0, f) ∧ flightOf (cmd f) 0 0 = some f ∧ f.status = 0 ∧ (cmd f).errs = [] ∧
      (Coef.ofRow f.coef).frozen = true := by decide +kernel

theorem witness_DenseUpdate :
    let f := started 0xA2 [(342, 1), (416, 1)]
    let s := { cmd f with heats := [(0, { st := .running, norms := [(0, { valid := true })] })] }
    let p := UpdPar.ofDesc f.desc
    let last := p.rec_ + 192 * ((p.shard + 31) / 32)
    runningIn s 0 0xA2 = some (0, f) ∧ flightOf s 0 0 = some f ∧ s.errs = [] ∧ (Coef.ofRow f.coef).frozen = false ∧
      (Coef.ofRow f.coef).sparse = false ∧ (tabGet {} (getHeat s 0).norms p.layer).valid = true ∧ f.status = 0 ∧
      (p.grad + 4 * p.shard ≤ p.rec_ ∨ last ≤ p.grad) ∧ (p.stat + 64 ≤ p.rec_ ∨ last ≤ p.stat) := by decide +kernel

/-- An ordered region of heat 0 with its staging area and a staged contribution. -/
def region (l : List Contrib) : OrdRegion := { base := 0x400, bytes := 64, members := 2, bf16 := false, stage := 0x800, contribs := l }
def part : ContribSpan := { addr := 0x400, len := 64 }
def staged : Contrib := { order := 0, owner := .here, staged := true, whole := true, spans := [part] }
def withRegion (l : List Contrib) : State :=
  withDict { run with heats := [(0, { st := .running, regions := [region l] })] } [(hCfg 0, 0x0D, 9)]

/-- A MEM_OP packet for that region. -/
def contribution : Packet := { dst := 1, src := 2, tag := 9, kind := kMemOp, offset := 0x400, memOp := 1, orderEn := true, data := zeros 4 }

/-- The head of a queue, held back: an add-into at the region. -/
def heldHead : HeadCmd := { index := 0, desc := BitVec.ofNat 512 (0x400 * 2 ^ 384 + 2 ^ 360 + 8 * 2 ^ 336), ext := 0, hasExt := false, held := true }

theorem witness_OrderedContributions :
    ((getHeat (withRegion [staged]) 0).regions[0]? = some (region [staged]) ∧
      (region [staged]).contribs.find? (fun c => c.order = (region [staged]).next && c.staged && c.whole) = some staged ∧
      (region [staged]).closed = false ∧ (withRegion [staged]).errs = [] ∧ staged.spans = [part] ∧ part.kind = 0) ∧
    (let s := { withRegion [] with heldMem := [(0, contribution)] }
     (ordPlace (region []) 0).isSome = true ∧ heldQueue s 0 0 0 = none ∧ s.heldMem.any (heldFor s 0 0 0) = true) ∧
    heldQueue { withRegion [] with queues := [(0, { enabled := true, headCmd := some heldHead })] } 0 0 0 = some 0 := by
  decide +kernel

theorem witness_ScrubAndCounts :
    (0 < sectorCount run ∧ tabGet [] run.errs 0 = [] ∧ (beginPass run).scrubbed.contains 0 = false) ∧
    (run.errs = [] ∧ mergeErrs [] [(3, 5#8)] ≠ [] ∧ eccDecode (dget run 0x2720 1) (mergeErrs [] [(3, 5#8)]) = .fixed (mergeErrs [] [(3, 5#8)])) ∧
    0 ≤ dget run 0x2D10 4 := by decide +kernel

/-! ## Heats -/

/-- Heat 0 free. -/
def freeHeat : State := { base with heats := [] }
def byUdp : Path := .udp 1 2

theorem witness_HeatControl :
    (∀ st ∈ [HState.free, .running, .stopped], let s := heatIn st
      sessionRefusal s byUdp 0 rightSubmit = none ∧ dictAnswers s = true ∧ bootStage s = bsReady ∧ (getHeat s 0).st = st ∧
        heatTag s 0 = 0 ∧ (getHeat s 0).starter = none) ∧
    creationFault (heatIn .free) 0 true = 0 ∧
    (let s := { base with heats := [(1, { st := .running })], dict := (withDict base [(hCfg 1, 3, 1)]).dict }
     (getHeat s 0).st = .free ∧ bootStage s = bsReady ∧ creationFault s 0 true ≠ 0) := by decide +kernel

theorem witness_HeatCompletions :
    ((getHeat (heatIn .starting) 0).st = .starting ∧ discoveryOk (heatIn .starting) 0 = true) ∧
    ((getHeat (heatIn .stopping) 0).st = .stopping ∧ inFlight (heatIn .stopping) 0 = false) ∧
    ((getHeat (heatIn .releasing) 0).st = .releasing ∧ heatRanges (heatIn .releasing) 0 = [(0, 0x10000000)]) := by decide +kernel

/-! ## Pace -/

/-- Ports 0 and 1 trained. -/
def linked : State := withDict run [(0x2300, 1, linkTrained), (0x2301, 1, linkTrained)]

/-- A beacon of the present lap. -/
def beacon : Beacon := { lap := 0, setter := 0, ticks := lapLen linked, hop := 0, corr := 0 }

theorem witness_LapExchange :
    (let s := { linked with phase := lapLen linked - 1 }
     linksUp s = true ∧ lapLen s ≤ s.phase + 1 ∧ trained s 0 = true) ∧
    (trained linked 0 = true ∧ paceState linked = psLocked ∧ 0 = sourcePort linked ∧
      beaconFit linked (seenOf beacon (impliedStart linked 0 beacon 100)) = .fits 100 ∧ trained linked 1 = true ∧ beacon.hop < 63 ∧
      ownChip linked ≠ 0) ∧
    beaconFit linked (seenOf { beacon with lap := 5 } (impliedStart linked 0 beacon 100)) = .wrongLap ∧
    dget linked 0x2200 4 + 1 ≠ dget linked 0x2200 4 ∧
    (let s := modPort linked 0 fun x => { x with asked := true }
     trained s 0 = true ∧ (getPort s 0).asked = true) := by decide +kernel

theorem witness_PaceKept :
    (let s := { run with phase := lapLen run / 8 }
     paceState s = psLocked ∧ lapLen s / 8 ≤ s.phase ∧ s.beaconLap ≠ some s.lap ∧ paceState s ≠ psHoldover) ∧
    (let s := withDict run [(0x2200, 5, psHoldover), (0x2200, 0x0B, 64)]
     paceState s = psHoldover ∧ 64 ≤ dget s 0x2200 0x0B ∧ paceState s ≠ psLocked) ∧
    ({ last := some 5 } : PaceIn).last = some 5 ∧ 5 + 900 ≤ 905 ∧ 904 < 5 + 900 ∧
    (let s := { run with now := 10006, paceIn := { valid := true, last := some 5 } }
     s.paceIn.valid = true ∧ s.paceIn.last = some 5 ∧ 5 + 10000 < s.now) ∧
    (20000 / 20000 < 20000 - 19 * 1000 ∧ 20000 / 20000 < 21 * 1000 - 20000) ∧
    (let s := { run with paceIn := { run := 100000 } }
     s.paceIn.valid = false ∧ 100000 ≤ s.paceIn.run) := by decide +kernel

/-! ## Fabric ports -/

/-- Port 0 enabled, in a link state, its attempt begun at time 0. -/
def portAt (st : Nat) (attempt : Option Nat) : State :=
  modPort (withDict run [(0x2300, 1, st), (0x2300, 8, 1)]) 0 fun x => { x with attempt := attempt, lanes := 15 }

theorem witness_PortTrains :
    (∀ a ∈ [none, some 0], let s := { portAt linkDown a with now := ms 1000, seq := { lasers := [0] } }
      laserReady s 0 = true ∧ linksUp s = true ∧ portEnabled s 0 = true ∧ linkState s 0 = linkDown ∧ ∀ x ∈ a, x + ms 1000 ≤ s.now) ∧
    (let s := { portAt linkTraining (some 0) with now := ms 500 }
     (getPort s 0).attempt = some 0 ∧ linkState s 0 = linkTraining ∧ s.now ≤ 0 + ms 500 ∧ 0 + ms 500 ≤ s.now ∧
       chooseWidth ((15#4).toNat &&& (7#4).toNat) = some (3, 2) ∧ 5#4 &&& 10#4 = 0) ∧
    (trained (portAt linkTrained none) 0 = true ∧ (8#4).toNat &&& (getPort (portAt linkTrained none) 0).lanes ≠ 0) := by
  decide +kernel

theorem bytesOf_add (n k v : Nat) : bytesOf (n + k) v = bytesOf n v ++ bytesOf k (v / 256 ^ n) := by
  induction n generalizing v with
  | zero => simp [bytesOf]
  | succ n ih => rw [Nat.succ_add, bytesOf, bytesOf, ih, Nat.div_div_eq_div_mul, Nat.pow_succ']; rfl

/-- The remainder after 32 more bytes of a number, from byte 32 k on. -/
def crcPart (v k r : Nat) : Nat := (bytesOf 32 (v / 256 ^ (32 * k))).foldl crcByte r

theorem crc32_parts (v : Nat) : crc32 (bytesOf 256 v) =
    crcPart v 7 (crcPart v 6 (crcPart v 5 (crcPart v 4 (crcPart v 3 (crcPart v 2 (crcPart v 1 (crcPart v 0 0xFFFFFFFF)))))))
      ^^^ 0xFFFFFFFF := by
  have h (n : Nat) (k : Nat) : bytesOf (32 + n) (v / 256 ^ (32 * k)) =
      bytesOf 32 (v / 256 ^ (32 * k)) ++ bytesOf n (v / 256 ^ (32 * (k + 1))) := by
    rw [bytesOf_add, Nat.div_div_eq_div_mul, ← Nat.pow_add, Nat.mul_succ]
  have h0 := h 224 0
  simp only [Nat.mul_zero, Nat.pow_zero, Nat.div_one] at h0
  rw [crc32, h0, h 192 1, h 160 2, h 128 3, h 96 4, h 64 5, h 32 6]
  simp only [List.foldl_append, crcPart, Nat.mul_zero, Nat.pow_zero, Nat.div_one]

/-- Headers of groups 0 and 1 without flits, which acknowledge none. -/
def header0 : Nat := 0xFFFFFFFF * 2 ^ 1984
def header1 : Nat := 2 ^ 2016 + 0xFFFFFFFF * 2 ^ 1984

theorem zeros_parts (v : Nat) (h : v = header0 ∨ v = header1) :
    crcPart v 0 0xFFFFFFFF = 0xe6f5aa52 ∧ crcPart v 1 0xe6f5aa52 = 0x8a729cc9 ∧ crcPart v 2 0x8a729cc9 = 0x450b9a51 ∧
    crcPart v 3 0x450b9a51 = 0x3d570562 ∧ crcPart v 4 0x3d570562 = 0x55f8ac9c ∧ crcPart v 5 0x55f8ac9c = 0x7400f70d ∧
    crcPart v 6 0x7400f70d = 0xc2dea49c := by
  rcases h with h | h <;> rw [h] <;> refine ⟨?_, ?_, ?_, ?_, ?_, ?_, ?_⟩ <;> decide +kernel

theorem crc_header0 : crc32 (bytesOf 256 header0) = 0x974ba5ce := by
  obtain ⟨h0, h1, h2, h3, h4, h5, h6⟩ := zeros_parts header0 (.inl rfl)
  rw [crc32_parts, h0, h1, h2, h3, h4, h5, h6]; decide +kernel

theorem crc_header1 : crc32 (bytesOf 256 header1) = 0x2ff7c2ab := by
  obtain ⟨h0, h1, h2, h3, h4, h5, h6⟩ := zeros_parts header1 (.inr rfl)
  rw [crc32_parts, h0, h1, h2, h3, h4, h5, h6]; decide +kernel

/-- The groups with a check sequence. -/
def group0 (c : Nat) : BitVec 2048 := BitVec.ofNat 2048 (header0 + c * 2 ^ 1900)
def group1 : BitVec 2048 := BitVec.ofNat 2048 (header1 + 0x2ff7c2ab * 2 ^ 1900)

theorem test_groups : headerOk (group0 0x974ba5ce) = true ∧ headerOk (group0 0) = false ∧ headerOk group1 = true := by
  have h (c : Nat) (hc : c ∈ [0, 0x974ba5ce]) : putBits (group0 c).toNat 1931 1900 0 = header0 := by
    revert c; decide +kernel
  have h1 : putBits group1.toNat 1931 1900 0 = header1 := by decide +kernel
  unfold headerOk
  rw [h _ (by simp), h _ (by simp), h1, crc_header0, crc_header1]; decide +kernel

theorem witness_FlitGroups :
    trained linked 0 = true ∧
    (flitsOk (group0 0x974ba5ce) [] = true ∧ fld (group0 0x974ba5ce) 2047 2016 = (getPort linked 0).rxNext % 2 ^ 32 ∧
      (takeHeader (modPort linked 0 fun x => { x with rxNext := x.rxNext + 1, failing := false, nakDue := false }) 0
        (group0 0x974ba5ce)).isSome = true ∧
      (let s := modPort linked 0 fun x => { x with txNext := 5, acked := 5 }
       takeHeader (modPort s 0 fun x => { x with rxNext := x.rxNext + 1, failing := false, nakDue := false }) 0
         (group0 0x974ba5ce) = none)) ∧
    (flitsOk group1 [] = true ∧ fld group1 2047 2016 ≠ (getPort linked 0).rxNext % 2 ^ 32 ∧
      (getPort linked 0).failing = false ∧ (getPort (modPort linked 0 fun x => { x with failing := true }) 0).failing = true) := by
  decide +kernel

theorem witness_Discovery :
    (let s := modPort linked 0 fun x => { x with owes := true }
     trained s 0 = true ∧ (getPort s 0).owes = true) ∧
    (let s := { linked with now := ms 2000 }
     trained s 0 = true ∧ (getPort s 0).gotRecord = false ∧ (getPort s 0).trainedAt + ms 2000 ≤ s.now) := by decide +kernel

/-! ## Remote operations -/

/-- Port 0 ADMITTED, heat 0 under tag 9. -/
def joined : State := withDict linked [(0x2300, 3, 1), (hCfg 0, 0x0D, 9)]

/-- A packet of that tag to this device. -/
def packet (offset n : Nat) : Packet := { dst := 1, src := 2, tag := 9, kind := 0, offset := offset, dataLen := n, data := zeros n, memOp := 3 }

theorem witness_RemoteTarget :
    (∀ kind ∈ [kReadReq, kWrite, kMemOp], let k := { packet 0x100 8 with kind := kind }
      joined.errs = [] ∧ admitted joined 0 = true ∧ packetBad k = false ∧ k.dst = ownChip joined ∧ tagHeat joined k.tag = some 0 ∧
        (getHeat joined 0).st = .running) ∧
    (let k := packet 0x100 8
     remoteLegal joined 0 .load k.offset k.dataLen = true ∧ place joined k.offset = .stack ∧
       remoteLegal joined 0 .store k.offset k.data.length = true ∧ ordViolates joined 0 k.offset k.data.length 0 false 0 (.remote k.src k.tag) = false ∧
       k.memOp = 3 ∧ memOpFits k = true ∧ remoteLegal joined 0 .memOp k.offset k.data.length = true ∧
       regionsAt joined 0 k.offset k.data.length = []) ∧
    (let k := packet 0x20000000 8
     remoteLegal joined 0 .load k.offset k.dataLen = false ∧ remoteLegal joined 0 .store k.offset k.data.length = false) := by
  decide +kernel

/-- A command of queue 0 with one packet on its way, under transaction 7. -/
def asked (f : Flight) : State :=
  { joined with queues := [(0, { enabled := true, cls := 6, flights := [f] })]
                txns := [{ id := 7, owner := .dma 0 f.index 0, pkt := packet 0x100 8, since := 0 }] }

theorem witness_RemoteAnswers :
    (∀ x ∈ [(kAck, 0), (kReadResp, 0), (kNak, nakAddress), (kNak, nakResetting)], let s := asked { started 0x60 [] with acks := 1, acted := true }
      let r := takeAnswer s 0 { packet 0 0 with kind := x.1, code := x.2, txn := 7 }
      (r.2.map (·.owner)) = some (.dma 0 0 0) ∧ ((flightOf r.1 0 0).map fun f =>
        decide (f.acks = 1 ∧ f.acted = true ∧ f.waits = false ∧ f.late = none ∧ f.rem.refusal = none ∧ f.rem.retryAt = none)) = some true) ∧
    (nakAddress ≠ nakResetting) ∧
    (let f := { started 0x60 [] with rem := { retryAt := some 5, firstNak := some 0 } }
     let s := { asked f with now := ms (dget joined 0x2320 6) }
     flightOf s 0 0 = some f ∧ s.colls.find? (fun c => c.queue = 0 && c.index = 0) = none ∧ f.rem.retryAt = some 5 ∧ 5 ≤ s.now ∧
       f.rem.firstNak = some 0 ∧ f.done = false ∧ f.status = 0 ∧ retryOver s 0 = true ∧ (asked f).now < 5) ∧
    (let s := { asked (started 0x60 []) with now := usec (dget joined 0x2320 3) }
     ((s.txns.find? (fun x => x.id = 7 && !x.parked)).map fun x =>
       decide (x.since + usec (dget s 0x2320 3) ≤ s.now) && ownerHeat s x.owner == some 0) = some true ∧
     (getHeat s 0).st = .running) := by decide +kernel

/-! ## Collectives -/

/-- A collective of two members, this device the first, as queue 0 has started it. -/
def pair (form : Nat) (peer : Peer) : Coll :=
  { heat := 0, queue := 0, index := 0, id := 5, form := form, self := 0, crc := 0, peers := [{}, peer]
    members := [{ chip := 1, base := 0x1000, count := 4 }, { chip := 2, base := 0x2000, count := 4 }] }

/-- Its state, with the fields of its descriptor. -/
def gathered (op : Nat) (l : List (Nat × Nat)) (c : Coll) : State :=
  { joined with queues := [(0, { enabled := true, cls := 6, flights := [started op l] })], colls := [c] }

theorem witness_CollectivesOpen : ∀ x ∈ [(0x80, 0), (0x81, 1), (0x82, 2), (0x83, 3)],
    let c := pair x.2 {}
    let s := gathered x.1 [] c
    s.colls.find? (fun c => c.queue = 0 && c.index = (started x.1 []).index) = some c ∧ findColl s c.heat c.id = some c ∧
      c.refused = none ∧ c.holdTo = [] ∧ s.errs = [] ∧
      runningIn s 0 x.1 = some (0, started x.1 []) ∧ c.others = [1] := by decide +kernel

/-- A packet of the other member with a value and data. -/
def said (form v : Nat) (d : List Byte) : Packet :=
  { dst := 1, src := 2, tag := 9, kind := 0, offset := 0x1000, memOp := 3, data := collTag 5 1 1 form 0 0 v ++ d }

theorem witness_CollectiveMessages :
    (∀ form ∈ [0, 1, 2, 3], ∀ kind ∈ [kReady, kCounts, kEnd, kGrant, kData],
      let c := pair form {}
      let s := gathered (0x80 + form) [] c
      let k := { said form 4 [] with kind := kind }
      admitted s 0 = true ∧ packetBad k = false ∧ k.dst = ownChip s ∧ tagHeat s k.tag = some 0 ∧ (getHeat s 0).st = .running ∧
        s.colls.filter (fun x => x.heat = 0 && x.id = (TagIn.ofPacket k).id) = [c] ∧ c.refused = none ∧ tagFits c k = true ∧
        c.peers.length = c.members.length ∧ (flightOf s c.queue c.index).isSome = true ∧ c.heat = 0 ∧ c.id = (TagIn.ofPacket k).id) ∧
    ((TagIn.ofPacket (said 0 4 [])).value = ((pair 0 {}).member (TagIn.ofPacket (said 0 4 [])).sender).count ∧
      (TagIn.ofPacket (said 0 3 [])).value ≠ ((pair 0 {}).member (TagIn.ofPacket (said 0 3 [])).sender).count) ∧
    (let c := pair 0 {}
     let s := gathered 0x80 [(302, 2)] c
     let par := collPar s c
     expectRange par c 1 = some (0x1000, 16) ∧ (said 0 0 (zeros 16)).offset + (zeros 16).length ≤ 0x1000 + 16 ∧ s.errs = [] ∧
       dataFits (said 0 0 (zeros 16)) = true ∧ (said 0 0 []).memOp = 3 ∧
       place s 0x1000 = .stack ∧ par.ordered = false ∧ par.ledgerEn = false ∧ regionsAt s 0 0x1000 16 = []) ∧
    (let c := pair 1 {}
     let s := gathered 0x81 [] c
     expectRange (collPar s c) c 1 = some (0x1004, 4) ∧ dataFits { said 1 0 (zeros 4) with memOp := 0 } = true ∧ place s 0x1004 = .stack ∧
       ordViolates s 0 0x1004 4 0 false 0 (.coll 5 1) = false) := by decide +kernel

/-- The collective with one packet on its way, parked or not. -/
def inTransit (parked : Bool) (c : Coll) : State :=
  { gathered 0x81 [(384, 1)] c with
    now := ms 10000, txns := [{ id := 7, owner := .coll 0 5 1, pkt := packet 0x1000 0, since := 0, parked := parked }] }

theorem witness_CollectiveAnswers :
    (let s := inTransit false (pair 1 {})
     let k := { said 1 0 [] with txn := 7 }
     s.colls.filter (fun x => x.heat = 0 && x.id = 5) = [pair 1 {}] ∧ admitted s 0 = true ∧ k.dst = ownChip s ∧ k.dst ≠ 0xFFFF ∧ k.dst ≠ 0 ∧
       (s.txns.find? fun y => y.id = k.txn).map (·.owner) = some (.coll 0 5 1) ∧ ((pair 1 {}).peer 1).resumed = false ∧
       (pair 1 {}).refused = none ∧ (pair 1 {}).holdTo = [] ∧ (flightOf s 0 0).isSome = true ∧ tagHeat s k.tag = some 0 ∧ (TagIn.ofPacket k).id = 5) ∧
    (let s := inTransit true (pair 1 {})
     ((s.txns.find? fun y => y.id = 7 && y.parked).map fun x => decide (x.since + usec (dget s 0x2320 4) ≤ s.now)) = some true) ∧
    (let c := { pair 1 {} with heldPk := [(1, packet 0x1000 0)], quiet := 1 }
     let s := inTransit false c
     tagFits c { said 1 0 [] with kind := kResume } = true ∧ c.heldPk.any (fun y => y.1 = 1) = true ∧ (collPar s c).wait ≠ 0 ∧
       (collPar s c).wait ≤ c.quiet ∧ waitsForPeer c = true ∧ (getHeat s 0).st = .running) := by decide +kernel

/-! ## Faults and restarts -/

theorem witness_EventsHandled : ∀ c ∈ [0, 1, 2],
    let e : Event := { code := 0x0101, cls := c, heat := some 0 }
    let s := { run with events := [e] }
    nextEvent s.events = some e ∧ s.lostEvents = 0 ∧ (getHeat s 0).st = .running ∧ (getHeat s 0).restart.no ≤ e.restartNo ∧
      e.inRestart = false := by
  decide +kernel

/-- An event that waits in a boot stage. -/
def inStageOf (st : Nat) (l : List Event) : State := { withDict base [(0x2A10, 1, st)] with events := l }

theorem witness_EventsHandled_lost : ∀ c ∈ [3, 4],
    let e : Event := { code := 0x0101, cls := c }
    let s := { run with events := [e] }
    let t := { s with lastC3 := some 0 }
    nextEvent s.events = some e ∧ s.lostEvents = 0 ∧ bootStage s = bsReady ∧ s.lastC3 = none ∧ 0 ∈ liveHeats s ∧
      canRestart { run with heats := [(0, { st := .running, restart := { no := 1 } })] } 0 = canRestart s 0 ∧
      t.lastC3 = some 0 ∧ poweredHour t ≤ 0 + 24 ∧ t.events.length ≤ 64 ∧
      (let d := inStageOf bsStandby [e]
       bootStage d < bsMemoryPower ∧ nextEvent d.events = some e) := by decide +kernel

/-- A plan of tag 9 for heat 0 that names port 0, and a notice by it. -/
def planned : Plan :=
  { transit := false, heat := 0, adaptive := false, tag := 9, epoch := 0, tail := 0, writes := [], routes := [], images := []
    targets := []
    ports := [{ port := 0, role := 0, dim := 3, dir := 0, dateline := false, optional := true, minWidth := 1, peerChip := 2
                peerPort := 0, digest := 0, checkEpoch := false, vc2 := 0 }] }
def notice (k : Nat) : Notice :=
  { tag := 9, origin := 2, kind := k, onBehalf := false, voidWard := false, seq := 1, subject := 2, lapA := 8, lapB := 4
    restartNo := 0, cls := 0, cause := 0 }

theorem witness_NoticesAct : ∀ k ∈ [nkFault, nkInventory, nkRestore, nkRestored, nkResume, nkNoSnapshot], ∀ st ∈ [HState.running, .restarting],
    let s := { joined with heats := [(0, { st := st })], plans := [{ plan := planned }] }
    trained s 0 = true ∧ (planPort s (notice k).tag 0).isSome = true ∧ noticeSeen s (notice k) = false ∧
      tagHeat s (notice k).tag = some 0 ∧ (notice k).restartNo = (getHeat s 0).restart.no ∧ leads s 0 = false ∧
      (getHeat s 0).restart.chosen = none := by decide +kernel

/-- Heat 0 in a restart. -/
def restarting (r : Restart) (l : List (Nat × Nat × Nat)) : State :=
  { withDict base l with heats := [(0, { st := .restarting, atFault := .running, restart := r })], lap := 10000, lapStarts := 10000 }

/-- A report of this device on its own laps. -/
def report : Report := { no := 0, subject := 1, sender := 1, onBehalf := false, lapA := 8, lapB := 4 }

theorem witness_RestartWaits :
    (let s := restarting {} [(hSnap 0, 8, 3)]
     (getHeat s 0).st = .restarting ∧ dget s (hSnap 0) 8 ≠ 0 ∧ (getHeat s 0).restart.reports = [] ∧
       (getHeat s 0).restart.onBehalfSent = false ∧ (getHeat s 0).restart.startLap + 16 ≤ s.lapStarts ∧ leads s 0 = false) ∧
    (let s := restarting { reports := [report] } [(hSnap 0, 0x0B, 1)]
     let r := (getHeat s 0).restart
     r.restoreSent = none ∧ r.chosen = none ∧ r.noSnapshot = false ∧ leads s 0 = true ∧
       r.startLap + 2 * dget s (hSnap 0) 0x11 ≤ s.lapStarts ∧ r.startLap + dget s (hSnap 0) 0x11 ≤ s.lapStarts ∧ actingLead r = some (ownChip s)) ∧
    (let s := restarting { restoreSent := some 5, chosen := some 4 } [(hSnap 0, 0x0B, 1), (hSnap 0, 0x0C, 2)]
     let r := (getHeat s 0).restart
     r.restoreSent = some 5 ∧ r.chosen = some 4 ∧ leads s 0 = true ∧ 5 + 64 ≤ s.lapStarts ∧ r.done.length < jobMembers s 0) ∧
    (∀ out ∈ [0, 1],
      let s := restarting { chosen := some 4, restoring := true, fromBuddy := true, reading := 2 } [(0x2C00, 5, out)]
      (getHeat s 0).st = .restarting ∧ restoreReady s 0 = true ∧ takeoverAwaited s 0 = false ∧
        (heatClusters s 0).all (clusterActive s) = (out == 0) ∧ discoveryOk s 0 = true) ∧
    (let s := { run with heats := [(0, { st := .running, restart := { resume := some 0, restored := true } })] }
     (getHeat s 0).restart.resume = some 0 ∧ 0 ≤ s.lap ∧ eventsHeld s = false ∧ (getHeat s 0).restart.restored = true) := by
  decide +kernel

/-- Heat 0 with an own snapshot area of 8 MiB at 128 MiB, the buddy chip 2, and the snapshot `n`. -/
def snapped (n : Option Snap) : State :=
  { withDict base [(hSnap 0, 1, 1), (hSnap 0, 3, 0x8000000), (hSnap 0, 4, 0x800000), (hSnap 0, 5, 2), (hSnap 0, 0x0A, 4)] with
    heats := [(0, { st := .running, snap := n })], lap := 100 }

theorem witness_SnapshotSteps :
    (let s := snapped none
     s.phase = 0 ∧ snapState s 0 = true ∧ snapDue s 0 = true ∧ eventsHeld s = false ∧ anyCommandDue s = false ∧ unfinished s 0 = none ∧
       snapPossible s 0 = true) ∧
    (let n : Snap := { lap := 90, phase := 1, number := 0 }
     let s := snapped (some n)
     (getHeat s 0).snap = some n ∧ n.lap < noLap ∧ n.phase = 1 ∧ s.errs = [] ∧ n.checked = false ∧
       n.lap + dget s (hSnap 0) 0x0A ≤ s.lap ∧ snapLap s 0 0 ≠ some n.lap ∧ snapLap (setSnapLap s 0 0 (some 90)) 0 0 = some n.lap) ∧
    (let n : Snap := { lap := 90, phase := 3, number := 0 }
     let s := snapped (some n)
     n.phase = 3 ∧ buddyChip s 0 ≠ 0 ∧ n.lap + 2 * dget s (hSnap 0) 0x0A ≤ s.lap) ∧
    (let n : Snap := { lap := 90, phase := 5, number := 0 }
     n.phase = 5 ∧ n.acks = 0 ∧ n.rem.refusal = none ∧ n.slot < 2) := by decide +kernel

/-! ## The rotating spare and in-field tests -/

theorem witness_SparesMove :
    (let s := { withDict run [(0x2900, 4, 1)] with clusters := [(0, { interval := 64 })] }
     s.phase = 0 ∧ dget s 0x2900 4 = 1 ∧ clusterActive s 0 = true ∧ linksUp s = true ∧ rotationLap s 0 s.lap = true ∧ eventsHeld s = false ∧
       heatEventsDue s = false ∧ (getCluster s 0).rotated ≠ some s.lapStarts ∧ readySpare s 0 = some 8 ∧ slotAfter s 8 = some 0) ∧
    (∀ cause ∈ [0, 1], let s := { withDict run [(0x2900, 4, 1)] with clusters := [(0, { movePending := some 0, moveCause := cause })] }
     (getCluster s 0).movePending = some 0 ∧ spareOf s 0 = some 8 ∧ eventsHeld s = false ∧ (getCluster s 0).takeover = none ∧
       dget s 0x2900 4 = 1 ∧ lapAwaited s 0 = false ∧ slotState s 8 = 1 ∧
       coreQuiet s (coreOfSlot s 0) = true ∧ coreAwake s (spareUnit 0) = true) ∧
    (let s := { run with clusters := [(0, { takeover := some 0 })] }
     (getCluster s 0).takeover = some 0 ∧ lapAwaited s 0 = false ∧ (getCluster s 0).movePending = none ∧ spareOf s 0 = some 8 ∧
       spareOf (setSlot s 8 slotRetired 0xF) 0 = none) := by decide +kernel

theorem witness_FieldTests :
    (let s := setSlot (withDict run [(0x2900, 4, 1)]) 8 slotSpareTesting 0xF
     spareOf s 0 = some 8 ∧ slotState s 8 = 2 ∧ dget s 0x2900 4 = 1) ∧
    (let s := { run with clusters := [(0, { underTest := some 3 })] }
     (getCluster s 0).underTest = some 3 ∧ physSlot s 3 = 3) ∧
    (let s := { setSlot run 8 slotRetired 0xF with poweredBase := 36000000000000 }
     spareOf s 0 = none ∧ clusterActive s 0 = true ∧ (getCluster s 0).windows = [] ∧ 3 ∈ activeSlots s 0 ∧
       testDue s 3 (dget s 0x2900 5 + 1) = true ∧ 3 ∉ (getCluster s 0).overdue ∧ slotState s 3 = 0) ∧
    (linksUp run = true ∧ eventsHeld run = false ∧ poweredHour run / 500 ≤ run.planHour ∧
      (let s := { run with poweredBase := 3600000000000, lap := 1 }
       s.phase = 0 ∧ heatEventsDue s = false ∧ anyRotationDue s = false ∧ s.planHour < poweredHour s / 500)) := by decide +kernel

/-! ## Starting and powering -/

/-- The device in a boot stage. -/
def inStage (st : Nat) : State := withDict base [(0x2A10, 1, st)]

/-- A device that has its input, before its straps are latched, with what its flash holds and its power enable. -/
def cold (bad : Nat) (on : Bool) : State :=
  { withDict base [(0x2A10, 1, bsStartingBlocks)] with
    strapped := false, flash := { bad := bad }, pins := { inputOn := true, pwrEn := on, pwrLevel := on } }

theorem witness_StartsAndResets :
    State.reset.pins.inputOn = false ∧
    (∀ x ∈ [(0, true), (0, false), (3, true)], let s := cold x.1 x.2
      s.pins.inputOn = true ∧ s.strapped = false ∧ s.store = [] ∧ bootStage s = bsStartingBlocks ∧ s.pins.resetLow = false ∧
        (flashFault s = 0) = (x.1 = 0) ∧ fuseMapOk s = true ∧ allOff s = true) ∧
    fuseMapOk (withDict (cold 0 true) [(0x2C00, 3, 1)]) = false ∧
    (base.pins.inputOn = true ∧ base.strapped = true ∧ base.pins.resetLow ≠ true ∧
      bootStage base ≠ bsLost ∧ base.store = [] ∧ base.pins.resetLow = false) ∧
    (let s := { base with pins := { base.pins with resetLow := true } }
     s.pins.inputOn = true ∧ s.pins.resetLow ≠ false ∧ bootStage s ≠ bsLost ∧ s.store = []) ∧
    (false ≠ base.pins.pwrLevel ∧ base.pins.pwrAt = none ∧ bsMemoryPower ≤ bootStage base ∧ bootStage base ≤ bsReady) ∧
    (let s := { base with now := ms 50, pins := { base.pins with pwrAt := some 0 } }
     false ≠ s.pins.pwrLevel ∧ s.pins.pwrAt = some 0 ∧ s.now < 0 + ms 100) := by decide +kernel

theorem witness_BootSteps :
    (bootStage (inStage bsWarmUp) = bsWarmUp ∧ clusterActive (inStage bsWarmUp) 0 = true ∧
      physCluster (inStage bsWarmUp) 0 % 8 = (inStage bsWarmUp).wave) ∧
    (let s := inStage bsMemoryPower
     let t := { s with seq := { stacksOn := List.range 32 }, wave := 7 }
     bootStage t = bsMemoryPower ∧ (∀ x ∈ stackUnits t, x.1 ∈ t.seq.stacksOn) ∧ t.wave = 7) ∧
    (bootStage (inStage bsMemoryTest) = bsMemoryTest ∧ 5 ∈ fusedChannels (inStage bsMemoryTest)) ∧
    (bootStage (inStage bsSelfTest) = bsSelfTest ∧ clusterActive (inStage bsSelfTest) (3 / 9) = true) ∧
    (let s := inStage bsLinkTraining
     bootStage s = bsLinkTraining ∧ s.now < s.stageAt + ms 20000 ∧ portsUp s = false ∧ 0 + ms 20000 ≤ ms 20000) ∧
    (mayChange base (.core 3 false) = true ∧ wakeIdle base (.core 3 false) = false ∧ base.seq.waiting = [] ∧
      wakeFits base (.core 3 false) = true ∧ mayChange (inStage bsStandby) (.core 3 true) = false ∧
      mayChange base (.core 3 true) = true ∧ wakeIdle base (.core 3 true) = true) ∧
    (let s := { base with seq := { waiting := [{ unit := .stack 3 true, since := 0 }] } }
     wakeIdle s (.core 3 false) = false ∧ s.seq.waiting.any (·.unit = .core 3 false) = false ∧
       s.seq.waiting.any (·.unit = undoes (.core 3 false)) = false ∧ s.seq.waiting ≠ [] ∧
       bootStage s ≠ bsPoweringDown ∧ bootStage s ≠ bsStandby ∧ wakeFits s (.stack 3 true) = true) ∧
    (let s := { base with seq := { waiting := [{ unit := .stack 3 true, since := 0 }], granted := [(0, 1000)] } }
     wakeFits s (.stack 3 true) = false) ∧
    (let s := { inStage bsPoweringDown with downTo := bsLost }
     bootStage s = bsPoweringDown ∧ s.seq.waiting = [] ∧ allOff s = true ∧ s.downTo = bsLost) ∧
    (let s := { base with now := 200000 }
     linksUp s = true ∧ coreAwake s 3 = true ∧ coreQuiet s 3 = true ∧ controlBusy s 3 = false ∧ (getCore s 3).ctl = none ∧
       (getCore s 3).quietAt + 200000 ≤ s.now ∧ s.seq.waiting = [] ∧ wakeFits s (.core 3 false) = true) := by decide +kernel

theorem witness_PowerConditions :
    (dictAnswers run = true ∧ bootStage run ≠ bsRecovery ∧ bootStage run ≠ bsLost) ∧
    (let s := { run with now := ms 10, power := { dieHot := true, thermal := some 5000 } }
     s.power.lastStep + ms 10 ≤ s.now ∧ s.power.thermal.getD (classLimit s) ≤ dget (withDict s [(0x2100, 4, 5600)]) 0x2100 4 ∧
       dget (withDict s [(0x2100, 4, 1500)]) 0x2100 4 < s.power.thermal.getD (classLimit s) ∧ s.power.dieHot = true) ∧
    run.pins.throttleLow ≠ true ∧
    (let s := { run with now := ms 60000, power := { throttle := some 0 } }
     s.power.throttle = some 0 ∧ s.power.throttleLogged = false ∧ 0 + ms 60000 ≤ s.now) ∧
    (run.pins.inputOn = true ∧ bootStage run ≠ bsLost ∧
      (let s := withDict run [(0x2A10, 1, bsLost)]; s.pins.inputOn = true ∧ bootStage s = bsLost)) ∧
    (powerStopped run = false ∧ powerStopped (domSet run 0x2730 3 ((List.range 13).flatMap fun _ => bytesOf 4 80000)) = true) ∧
    (5 < 2048 ∧ bsMemoryPower ≤ bootStage run ∧ bootStage run ≤ bsReady ∧ 5 ∈ fusedChannels run ∧ 0 ∈ liveHeats run) := by
  decide +kernel

/-! ## The object dictionary -/

theorem witness_DictionaryWrites :
    (dictAnswers freeHeat = true ∧ ∀ r ∈ entryRows .bench 1 (zeros 32) 0 true,
      writeFault freeHeat .bench r.2.1 r.2.2.1 r.2.2.2 = 0 ∧
        writeFault (withDict freeHeat [(0x2A10, 1, bsRecovery)]) .bench 0x2320 8 (sentBytes 2 1) ≠ 0) ∧
    writeFault freeHeat .bench 0x2300 8 (sentBytes 1 1) = 0 ∧ writeFault freeHeat .bench 0x231F 8 (sentBytes 1 0) = 0 ∧
    (dget (withDict freeHeat [(0x2A10, 7, upReceiving)]) 0x2A10 7 = upReceiving ∧ bootStage freeHeat ≠ bsRecovery ∧
      dget freeHeat 0x2A10 7 ≠ upReceiving ∧ writeFault (inStage bsRecovery) .bench 0x2A10 6 [1#8] = 0 ∧
      (inStage bsRecovery).store = []) ∧
    (∀ x ∈ [(0x2402, 4, 2), (0x2441, 11, 4), (0x2511, 1, 8), (0x2531, 1, 4), (0x2610, 1, 2), (0x2720, 3, 4), (0x2800, 1, 1)],
      ((dictEntry x.1 x.2.1).map (·.size)) = some x.2.2 ∧
        familyOf x.1 ∈ [0x2010, 0x2402, 0x2440, 0x2510, 0x2530, 0x2610, 0x2720, 0x2800, 0x2900]) ∧
    (program (programmed 0 {}) 0).isSome = true ∧
    ((program (programmed 0 {}) 0).bind fun c => ctlRead (programmed 0 {}) 0 c 0x200000 4).isSome = true := by decide +kernel

/-- A UDP header of an operation for an entry. -/
def udpHead (op i sub flags n : Nat) : BitVec 256 :=
  BitVec.ofNat 256 (udpMagic * 2 ^ 224 + 2 ^ 216 + op * 2 ^ 208 + flags * 2 ^ 200 + i * 2 ^ 176 + sub * 2 ^ 168 + 7 * 2 ^ 128 + n * 2 ^ 64)

theorem witness_ManagementPaths :
    (dictAnswers run = true ∧ udpForm run 1 (udpHead 1 0x2320 8 0 0) [] = true ∧ (mgmtSource run 1).isSome = true ∧
      udpOp (udpHead 1 0x2320 8 0 0) = 1 ∧ keptReply run 1 2 7 = none ∧
      fld (udpHead 1 0x2320 8 0 0) 127 96 = 0 ∧ (dictRead run (.udp 1 2) 0x2320 8).1 = 0 ∧
      udpForm run 1 (udpHead 1 0x2320 8 0 1) [] = false ∧
      ∀ o ∈ [3, 4], udpForm run 1 (udpHead o 0x2320 8 0 0) [] = true ∧ udpOp (udpHead o 0x2320 8 0 0) = o) ∧
    (let d := udpHead 2 0x2610 1 1 2
     udpForm run 1 d (zeros 2) = true ∧ udpOp d = 2 ∧ fld d 159 128 = 7 ∧ fld d 127 96 = 0 ∧ fld d 200 200 = 1) ∧
    keptReply { run with replies := [{ addr := 1, port := 2, req := 7, reply := [], taken := 0 }] } 1 2 7 = some [] ∧
    (let x : Transfer := { path := .udp 1 2, index := 0x2320, sub := 8, data := [], last := 0 }
     let s := { run with transfers := [x], now := oneSecond + 1 }
     openTransfer s (.udp 1 2) 0x2320 8 = some x ∧ x.last + oneSecond < s.now) ∧
    (let x : Transfer := { path := .can 1, index := 0x2320, sub := 8, data := [], last := 0 }
     let s := { run with transfers := [x], now := oneSecond }
     canServes s = true ∧ x ∈ s.transfers ∧ x.path = .can 1 ∧ x.last + oneSecond ≤ s.now ∧ s.busOff = false) ∧
    (let r : UsdoReq := { valid := true, index := 0x2C10, sub := 1, write := none, last := true, offset := 0 }
     let x := dictRead run (.can 1) r.index r.sub
     let y := dictRead run (.can 1) 0x2900 7
     r.valid = true ∧ r.write = none ∧ x.1 = 0 ∧ x.2 ≠ [] ∧ y.1 = 0 ∧ 56 < y.2.length ∧ (dictRead run (.can 1) 0x1234 0).1 ≠ 0) ∧
    (let s := { run with now := ms (dget run 0x1017 0) }
     dget s 0x1017 0 ≠ 0 ∧ s.beatAt + ms (dget s 0x1017 0) ≤ s.now ∧ s.busOff ≠ true ∧ dictAnswers s = true) ∧
    ({ run with writing := some {} } : State).writing = some {} ∧ ({ run with nonce := some [] } : State).nonce = some [] ∧
    (let s := inStage bsRecovery
     bootStage s = bsRecovery ∧ s.canState ≠ 4 ∧ s.busOff = false ∧ ({ s with busOff := true } : State).busOff = true) ∧
    (let s := { withDict base [(0x2B00, 1, 1)] with token := bytesOf 64 (2 ^ 358), heats := [] }
     testUnlocked s = true ∧ tokExtest (tokenBody s.token) = true ∧ liveHeats s = [] ∧ testUnlocked run = false) := by
  decide +kernel

/-! ## Ethernet, Starter and storage -/

/-- Ethernet port 0 up with the address 10.0.0.1, and session 1 set up with all rights and the claim of heat 0. -/
def online (x : Session) (st : HState) : State :=
  { domSet (withDict run [(0x2400, 2, 1), (0x2400, 4, 1), (0x2400, 5, 2), (0x2402, 1, 1)]) 0x2400 6 ([10#8, 0#8, 0#8, 1#8] ++ zeros 8) with
    sessions := [(1, x)], heats := [(0, { st := st, claim := some 1 })] }
def user : Session := { eth := 0, stage := 2, rights := 31 }
def served : State := online user .running

/-- A PAUSE frame and an ARP request for that address. -/
def pauseFrame : List Byte := zeros 12 ++ [0x88#8, 0x08#8, 0#8, 1#8, 0#8, 1#8]
def arpRequest : List Byte := broadcastMac ++ zeros 6 ++ [0x08#8, 0x06#8] ++ zeros 6 ++ [0#8, 1#8] ++ zeros 16 ++ [10#8, 0#8, 0#8, 1#8]

theorem witness_SessionsBeginAndEnd :
    (ethLinkUp served 0 = true ∧ (pauseOf pauseFrame).isSome = true ∧ pauseOf arpRequest = none ∧
      frameForPort served 0 arpRequest = true ∧ frameForPort served 0 (1#8 :: arpRequest) = false ∧
      portPaused { served with paused := [1, 0] } 0 = true ∧
      ((admitFrame served 0 arpRequest).map fun x => decide (x.1 = 0x0806 ∧ typeAt x.2 6 = 1 ∧
        some (sliceBytes x.2 24 4) = ipv4Of served 0)) = some true ∧
      admitFrame (withDict served [(0x2400, 9, 5)]) 0 arpRequest = none) ∧
    (linksUp served = true ∧ laserReady { served with seq := { lasers := [32] } } 32 = true ∧ dget served (0x2400 + 0) 4 = 1) ∧
    (bootStage served = bsReady ∧ dget served 0x2402 1 ≠ 0 ∧ served.sessions.length < 64) ∧
    (∀ st ∈ [0, 1, 2], (getSession (online { user with stage := st } .running) 1).map (·.stage) = some st) ∧
    ((zeros 32).length = 32 ∧ (zeros 1568).length = 1568 ∧ user.recsOut < maxRecords) ∧
    (let s := { served with now := ms (1000 * dget served 0x2402 4) + ms 5000 }
     user.since + ms 5000 ≤ s.now ∧ user.last + ms (1000 * dget s 0x2402 4) < s.now) ∧
    (ethLinkUp served user.eth = true ∧ user.recsIn + 1 < 2 ^ 32 ∧ user.recsOut + 1 < 2 ^ 32) := by decide +kernel

/-- A TRANSIT plan installed. -/
def transitPlan : Plan := { planned with transit := true, ports := [] }

theorem witness_PlanRemoved :
    getSession served 1 = some user ∧ user.stage = 2 ∧ ethLinkUp served user.eth = true ∧ bitOf user.rights rightPlan = true ∧
    (let s := { served with plans := [{ plan := transitPlan }] }
     s.plans.any (fun x => x.plan.transit && x.plan.tag = 9) = true ∧ s.plans.any (fun x => x.plan.transit && x.plan.tag = 8) = false) := by
  decide +kernel

/-- The bytes of a TRANSIT plan with tag 9 and nothing more. -/
def transitBytes : List Byte :=
  bytesOf 8 (1 + 16 * 2 ^ 32) ++ [1#8, 0xFF#8, 0#8, 0#8] ++ bytesOf 4 9 ++ bytesOf 4 1 ++ bytesOf 4 0

/-- The bytes of a plan of heat 0 on cluster 0 that has the memory from `base` to 256 MiB beyond it. -/
def heatBytes (base : Nat) : List Byte :=
  bytesOf 8 (1 + 16 * 2 ^ 32) ++ zeros 4 ++ bytesOf 4 9 ++ bytesOf 4 1 ++ bytesOf 4 0 ++
    bytesOf 8 (2 + 146 * 2 ^ 32) ++ bytesOf 2 (hCfg 0) ++ [3#8] ++ bytesOf 3 8 ++ bytesOf 8 1 ++
    [4#8] ++ bytesOf 3 128 ++ bytesOf 8 base ++ bytesOf 8 0x10000000 ++ zeros 112

/-- A plan of heat 0 with one image of 8 bytes, claimed and matched or not. -/
def withImage (st : HState) (ok : Bool) : State :=
  { online user st with plans := [{ plan := { planned with ports := [], images := [{ dst := 0x100, bytes := 8, digest := [] }] }
                                    spans := [[]], matched := [ok] }] }

/-- The inbox of heat 0 with 8 slots, its serve buffer of 64 KiB before it. -/
def serving : State := withDict served [(0x2440, 4, 0x20000), (0x2440, 5, 3), (0x2440, 7, 0x10000), (0x2440, 8, 0x10000)]
def request : Serve := { heat := 0, session := 1, req := 4, base := 0, bytes := 0 }

theorem witness_StarterRequests_heat :
    let s := online user .free
    let got (s : State) (b : List Byte) : Option (List Bool) := match decodePlan b with
      | .error _ => none
      | .ok r =>
        let v := touchSession s 1
        some [r.plan.transit, claimedElse s r.plan.heat 1, (fabricFault v r).isSome, wholeFault v r.plan,
          (match tryWrites v (.starter 1 5) r.plan.writes with
            | .error _ => true
            | .ok u => decide (getSession u 1 ≠ getSession v 1)), (rangeFault v r 1).isSome]
    got s (heatBytes 0) = some [false, false, false, false, false, false] ∧ (getHeat s 0).st = .free ∧
    got s (heatBytes 0x40000000) = some [false, false, false, false, false, true] ∧
    got (online user .running) (heatBytes 0) = some [false, false, false, false, true, false] ∧
    got { s with heats := [(0, { claim := some 2 })] } (heatBytes 0) = some [false, true, false, false, false, false] ∧
    (match decodePlan (bytesOf 8 (1 + 16 * 2 ^ 32) ++ 3#8 :: zeros 15) with
      | .error e => e == planHeadAt
      | .ok _ => false) = true := by decide +kernel

theorem witness_StarterRequests :
    (getSession (online { user with rights := 0 } .running) 1).map (fun x => (x.stage, x.rights)) = some (2, 0) ∧
    (∀ r ∈ [rightSubmit, rightPlan, rightStatus, rightSnapshot, rightServe], bitOf user.rights r = true) ∧
    ((match decodePlan [] with | .error _ => true | .ok _ => false) = true ∧
      (match decodePlan transitBytes with
        | .ok r => r.plan.transit && (fabricFault served r).isNone && !wholeFault served r.plan
        | .error _ => false) = true) ∧
    (claimedPlan served 1 = none ∧
      ((claimedPlan (withImage .running false) 1).bind fun x => x.plan.images[0]?.map fun m =>
        decide (0 + (zeros 4).length ≤ m.bytes) && !imageWhole ((0, (zeros 4).length) :: nth [] x.spans 0) m.bytes) = some true ∧
      served.errs = []) ∧
    ((getHeat run 0).claim = none ∧
      (let s := withImage .free true
       (getHeat s 0).claim = some 1 ∧ (s.plans.any fun x => !x.plan.transit && x.plan.heat = 0 && x.matched.all id) = true ∧
         (getHeat s 0).st = .free ∧ bootStage s = bsReady ∧ creationFault s 0 true = 0)) ∧
    (served.lap < 5 ∧ (getHeat served 0).st = .running ∧
      (let s := online user .restarting
       (getHeat s 0).st = .restarting ∧ creationFault s 0 false = 0 ∧ discoveryOk s 0 = true)) ∧
    ((inboxFree serving 0).2 = some 0 ∧ promptPlace (inboxFree serving 0).1 0 (4 * 2) = some 0 ∧ openRequests serving 1 < 256 ∧
      dget serving (netIdx 0) 7 + 0 + 4 * 2 ≤ inboxBase serving 0) ∧
    (let s := { online user .stopped with serves := [request] }
     (s.serves.find? fun x => x.session = 1 && x.req = 4 && !x.ended && !x.cancelled) = some request ∧
       (getHeat s request.heat).st ≠ .running ∧
       (s.serves.find? fun x => x.session = 1 && x.req = 5 && !x.ended && !x.cancelled) = none) := by decide +kernel

/-- The storage ring of heat 0 at 0x40000 with 8 slots and one request of an operation to target 0. -/
def storing (op : Nat) : State :=
  let s := withDict served [(0x2440, 1, 0x40000), (0x2440, 2, 3), (0x2440, 5, 3), (0x2440, 6, 0x30000)]
  let s := writeBytes (writeBytes s 0x40000 (bytesOf 4 1)) 0x40040 (bytesOf 64 (op * 2 ^ 264))
  { s with plans := [{ plan := { planned with ports := [], targets := [{ slot := 0, nqn := [1#8], addr := 1, port := 4420, eth := 0 }] } }] }

/-- A connection down since time 0, and a READ of two commands under way. -/
def offline : Conn := { heat := 0, slot := 0 }
def readOne : Nvme :=
  { id := 7, heat := 0, slot := 0, req := 0, op := opRead, nsid := 1, lba := 0, blocks := 1, off := 0x100, bytes := 8, sent := true }
def readAll : StoreReq := { heat := 0, index := 0, word := 0, left := 2 }

theorem witness_StorageAndOutbox :
    (∀ op ∈ [0, opFlush], let s := storing op
      s.errs = [] ∧ stLog s 0 ≠ 0 ∧ (getHeat s 0).st = .running ∧ inHeat s 0 (stBase s 0) (stRingBytes (stLog s 0)) = true ∧
        readNat s (stBase s 0) 4 = 1 ∧ readNat s (stBase s 0 + 4) 4 = 0 ∧ aheadOf 1 0 = 1 ∧
        badRequest (readNat s (stBase s 0 + 64) 64) = (op == 0) ∧ (targetOf s 0 0).isSome = true ∧ s.nvmes = [] ∧
        targetOf { s with plans := [] } 0 0 = none) ∧
    (let s := { storing 0 with nvmes := [readOne], storeReqs := [readAll] }
     (s.nvmes.find? fun y => y.heat = 0 && y.id = 7 && y.sent) = some readOne ∧ readOne.orphan = false ∧
       (s.storeReqs.find? fun y => y.heat = 0 && y.index = readOne.req) = some readAll ∧ readOne.op = opRead ∧ 1 < readAll.left) ∧
    (let r := { readAll with left := 1 }
     let s := { storing 0 with nvmes := [readOne], storeReqs := [r], conns := [offline], now := ms 1000000 }
     (s.storeReqs.find? fun y => y.heat = 0 && y.index = readOne.req) = some r ∧ r.left ≤ 1 ∧ r.fail = none ∧
       (∀ y ∈ s.nvmes, y.heat = 0 → y.sent = true) ∧
       (s.nvmes.filter fun y => y.heat = 0 && y.slot = 0 && !y.orphan) = [readOne]) ∧
    (let s := { storing 0 with conns := [offline], now := ms 1000000 }
     (s.conns.find? fun c => c.heat = 0 && c.slot = 0) = some offline ∧ offline.up = false ∧ connEth s offline = some 0 ∧
       ethLinkUp s 0 = true ∧ offline.down + ms (1000 * dget s (netIdx 0) 0x0B) ≤ s.now) ∧
    (∀ n ∈ [0, 1], let s := writeBytes (storing 0) 0x30000 (bytesOf 4 n)
      dget s (netIdx 0) 5 ≠ 0 ∧ (s.serves.any fun x => x.heat = 0 && x.owed) = false ∧
        inHeat s 0 (dget s (netIdx 0) 6) (64 + 16 * 2 ^ dget s (netIdx 0) 5) = true ∧ readNat s 0x30000 4 = n ∧
        readNat s 0x30004 4 = 0 ∧ aheadOf n 0 = n) := by decide +kernel

/-- The outbox of heat 0 with one entry of a kind for the request of session 1. -/
def outboxed (kind : Nat) : State :=
  let s := { storing 0 with serves := [request] }
  writeBytes (writeBytes s 0x30000 (bytesOf 4 1)) 0x30040 (bytesOf 16 (serveId 1 4 * 2 ^ 64 + 0xABCD * 2 ^ 32 + kind * 2 ^ 30))

theorem witness_StorageAndOutbox_entries : ∀ kind ∈ [0, 1, 2],
    let s := outboxed kind
    let v := readNat s (0x30000 + 64 + 16 * ((0 + 0) % 2 ^ dget s (netIdx 0) 5)) 16
    s.errs = [] ∧ aheadOf 1 0 = 1 ∧ v / 2 ^ 64 = serveId 1 4 ∧ bitsOf v 31 30 = kind ∧ bitsOf v 63 32 = 0xABCD ∧
      request.cancelled = false ∧ ((heatServes s 0).find? fun x => serveId x.session x.req = serveId 1 4 && !x.ended) = some request ∧
      getSession s request.session = some user ∧ ∀ y ∈ s.sessions, y.2.recsIn < maxRecords ∧ y.2.recsOut + 1 < maxRecords := by
  decide +kernel

end Sys2Proof.Tests
end

section
/-! SUPPORT. GEMM_TILE with an empty row mask (R89): what an update of one flight does, and the row's shortest path. -/

namespace Sys2Proof.Machine

/-! ## One flight of a queue updated -/

/-- An update that keeps the search's outcome at every element acts on the element found. -/
theorem find?_modFirst {α : Type} {p : α → Bool} {g : α → α} (keeps : ∀ a, p (g a) = p a) (l : List α) :
    (modFirst p g l).find? p = (l.find? p).map g := by
  induction l with
  | nil => rfl
  | cons a l ih => cases c : p a <;> simp [modFirst, keeps, c, ih]

theorem modFlight_eq (s : State) (q i : Nat) (g : Flight → Flight) :
    modFlight s q i g = setQueue s q { getQueue s q with flights := modFirst (fun f => f.index == i) g (getQueue s q).flights } :=
  rfl

theorem flightOf_modFlight_same (s : State) (q i : Nat) {g : Flight → Flight} (keeps : ∀ f, (g f).index = f.index) :
    flightOf (modFlight s q i g) q i = (flightOf s q i).map g := by
  rw [modFlight_eq, flightOf, getQueue_setQueue_same]
  exact find?_modFirst (fun f => by rw [keeps f]) _

/-! ## The running command -/

theorem runningIn_eq_some_iff {s : State} {q o h : Nat} {f : Flight} :
    runningIn s q o = some (h, f) ↔ queueHeat s q = some h ∧ running s q o = some f := by
  unfold runningIn
  cases queueHeat s q <;> cases running s q o <;> simp

theorem withRunning_of_runningIn {s : State} {q o h : Nat} {f : Flight} (run : runningIn s q o = some (h, f))
    (m : Nat → Flight → State) : withRunning q o s m = .next (m h f) := by
  simp only [withRunning, run]

theorem exec_gemmTile_of_runningIn {s : State} {q h : Nat} {f : Flight} (run : runningIn s q opGemm = some (h, f)) (n : Nature) :
    exec (.gemmTile q n) s = .next (gemmStep q n h f s) := withRunning_of_runningIn run _

/-- The running command stands among its queue's flights, so its index names one of them. -/
theorem flightOf_of_runningIn {s : State} {q o h : Nat} {f : Flight} (run : runningIn s q o = some (h, f)) :
    ∃ f', flightOf s q f.index = some f' := by
  have found := (runningIn_eq_some_iff.mp run).2
  have mem : f ∈ (getQueue s q).flights := List.mem_of_find?_eq_some found
  exact Option.isSome_iff_exists.mp (List.find?_isSome.mpr ⟨f, mem, beq_self_eq_true f.index⟩)

/-! ## A tile's start and its end -/

/-- A new tile has met no event, so that it ends with success where no pass changes it. -/
theorem tileFinal_newTile (int : Bool) (s : State) (h k : Nat) (d : Slot) : tileFinal int (newTile s h k d) = 0 := by
  cases int <;> rfl

@[simp] theorem newTile_feedStall (s : State) (h k : Nat) (d : Slot) : (newTile s h k d).feedStall = 0 := rfl
@[simp] theorem newTile_drainSat (s : State) (h k : Nat) (d : Slot) : (newTile s h k d).drainSat = 0 := rfl
@[simp] theorem newTile_drainFlush (s : State) (h k : Nat) (d : Slot) : (newTile s h k d).drainFlush = 0 := rfl

theorem finishTile_ended {s : State} {q i : Nat} {f : Flight} (there : flightOf s q i = some f) (int : Bool) (t : TileRun) :
    Ended (finishTile s q i int t) q i (tileFinal int t) (tileSummary int t)
      (satNat 32 t.feedStall * 2 ^ 32 + satNat 16 t.drainSat * 2 ^ 16 + satNat 16 t.drainFlush) := by
  have found : flightOf (finishTile s q i int t) q i = _ := flightOf_modFlight_same s q i fun _ => rfl
  rw [there] at found
  exact ⟨_, found, rfl, rfl, rfl, rfl⟩

/-- A tile finished as it started ends with success and counts nothing (R89). -/
theorem finishTile_newTile_ended {s : State} {q i : Nat} {f : Flight} (there : flightOf s q i = some f) (int : Bool) (s0 : State)
    (h k : Nat) (d : Slot) :
    Ended (finishTile s q i int (newTile s0 h k d)) q i 0 (tileSummary int (newTile s0 h k d)) 0 := by
  have ended := finishTile_ended there int (newTile s0 h k d)
  simpa [tileFinal_newTile, satNat] using ended

theorem getCore_finishTile (s : State) (q i : Nat) (int : Bool) (t : TileRun) (k : Nat) :
    getCore (finishTile s q i int t) k = getCore s k := rfl

/-! ## The empty tile -/

/-- What a tile leaves for one chained to it: its operands and the positions past its own (R64, R89). -/
def tileRefOf (g : GemmPar) (t : TileRun) : TileRef :=
  { fmtA := g.fA, fmtB := g.fB, aElem := g.aElem, bElem := g.bElem, aScale := g.aScale, bScale := g.bScale
    pos := t.pos0 + 32 * g.kBlocks, kblk := t.kblk0 + g.kBlocks }

/-- The state with a tile's reference left at its core. -/
def leaveRef (s : State) (k : Nat) (x : TileRef) : State := setCore s k { getCore s k with prev := some x }

theorem getCore_leaveRef_same (s : State) (k : Nat) (x : TileRef) :
    getCore (leaveRef s k x) k = { getCore s k with prev := some x } := getCore_setCore_same _ _ _

theorem flightOf_leaveRef (s : State) (k : Nat) (x : TileRef) (q i : Nat) : flightOf (leaveRef s k x) q i = flightOf s q i := by
  rw [flightOf, flightOf, leaveRef, getQueue_setCore]

/-- A tile without active rows makes no pass: it leaves its reference and is finished as it started. -/
theorem gemmStep_of_emptyMask (q : Nat) (n : Nature) (h : Nat) (s : State) {f : Flight} {t : TileRun} (tile : f.tile = some t)
    (empty : (GemmPar.ofDesc f.desc).rowMask = 0) :
    gemmStep q n h f s =
      finishTile (leaveRef s (getQueue s q).slot (tileRefOf (GemmPar.ofDesc f.desc) t)) q f.index
        (isIntFmt (GemmPar.ofDesc f.desc).fA) t := by
  simp only [gemmStep, tile, if_pos empty]
  rfl

/-- Settles O23: the empty tile's path only leaves its reference at the core and finishes its own flight. -/
theorem emptyRowMask : Obligations.EmptyRowMask := by
  unfold Obligations.EmptyRowMask
  intro s q h f n run k g r tile empty
  obtain ⟨f', there⟩ := flightOf_of_runningIn run
  rw [← flightOf_leaveRef s k (tileRefOf g r)] at there
  refine ⟨_, ?_, finishTile_newTile_ended there _ s h k f.desc, rfl, ?_, ?_⟩
  · rw [exec_gemmTile_of_runningIn run, gemmStep_of_emptyMask q n h s tile empty]
  · rw [getCore_finishTile, getCore_leaveRef_same]
  · rw [getCore_finishTile, getCore_leaveRef_same]; rfl

end Sys2Proof.Machine
end

section
/-! SUPPORT. Doorbells (R249, R250): what an admitted doorbell does, and what a refused one changes. -/

namespace Sys2Proof.Machine

/-! ## One queue changed -/

/-- A command that answers its state with one queue written changes that queue alone. -/
theorem queueStep_of_exec_eq_setQueue {i : Instr} {s : State} {q : Nat} {x : Queue} (ran : exec i s = .next (setQueue s q x)) :
    QueueStep i s q x :=
  ⟨_, ran, rfl, fun _ other => getQueue_setQueue_ne s other x, getQueue_setQueue_same s q x⟩

/-! ## A refused doorbell -/

section
variable {s : State} {q h : Nat} (owner : queueHeat s q = some h)
include owner

/-- A refusal counts in its queue and in the status of the heat that has the queue. -/
theorem refuseDoorbell_eq : refuseDoorbell s q =
    dadd (setQueue s q { getQueue s q with refused := min ((getQueue s q).refused + 1) 0xFFFF }) (hStat h) 7 1 := by
  have kept (x : Queue) : queueHeat (setQueue s q x) q = some h := owner
  simp only [refuseDoorbell, modQueue_eq, kept]

theorem refuseDoorbell_frame :
    refuseDoorbell s q = { s with queues := (refuseDoorbell s q).queues, dict := (refuseDoorbell s q).dict } := by
  rw [refuseDoorbell_eq owner]; rfl

theorem getQueue_refuseDoorbell_same :
    getQueue (refuseDoorbell s q) q = { getQueue s q with refused := min ((getQueue s q).refused + 1) 0xFFFF } := by
  simp [refuseDoorbell_eq owner]

theorem getQueue_refuseDoorbell_ne {j : Nat} (other : j ≠ q) : getQueue (refuseDoorbell s q) j = getQueue s j := by
  simp [refuseDoorbell_eq owner, getQueue_setQueue_ne s other]

theorem dget_refuseDoorbell_same :
    dget (refuseDoorbell s q) (hStat h) 7 = min (dget s (hStat h) 7 + 1) (dmax (hStat h) 7) := by
  simp [refuseDoorbell_eq owner]

theorem dget_refuseDoorbell_ne {i sub : Nat} (small : sub < 256) (other : i ≠ hStat h ∨ sub ≠ 7) :
    dget (refuseDoorbell s q) i sub = dget s i sub := by
  rw [refuseDoorbell_eq owner, dadd_eq, dget_dset_ne _ (by decide) small other, dget_setQueue]

end

/-! ## An admitted doorbell -/

/-- A doorbell within its fields is rung as it is written. -/
theorem exec_doorbell_eq {q v : Nat} (qIn : q < 2 ^ 18) (vIn : v < 2 ^ 32) (s : State) (a : Agent) :
    exec (.doorbell a q v) s = .next (ringDoorbell s a q v).1 := by
  change Host.Outcome.next (ringDoorbell s a (q % 2 ^ 18) (v % 2 ^ 32)).1 = _
  rw [Nat.mod_eq_of_lt qIn, Nat.mod_eq_of_lt vIn]

section
variable {s : State} {a : Agent} {q h : Nat} (owner : queueHeat s q = some h) (allowed : agentAllowed s h a = true)
  (takes : doorbellOpen s q h = true)
include owner allowed takes

theorem ringDoorbell_of_admitted (t : Nat) : ringDoorbell s a q t =
    if aheadOf t (getQueue s q).tail = 0 then (s, true)
    else if aheadOf t (getQueue s q).head ≤ 2 ^ (getQueue s q).log2 then (setQueue s q { getQueue s q with tail := t }, true)
    else (refuseDoorbell s q, false) := by
  simp [ringDoorbell, owner, allowed, takes]

/-- The value TAIL already has is accepted without effect (R249). -/
theorem ringDoorbell_of_same {t : Nat} (same : aheadOf t (getQueue s q).tail = 0) : ringDoorbell s a q t = (s, true) := by
  rw [ringDoorbell_of_admitted owner allowed takes, if_pos same]

/-- A value ahead of TAIL and within a ring of HEAD becomes TAIL (R249). -/
theorem ringDoorbell_of_fits {t : Nat} (ahead : aheadOf t (getQueue s q).tail ≠ 0)
    (fits : aheadOf t (getQueue s q).head ≤ 2 ^ (getQueue s q).log2) :
    ringDoorbell s a q t = (setQueue s q { getQueue s q with tail := t }, true) := by
  rw [ringDoorbell_of_admitted owner allowed takes, if_neg ahead, if_pos fits]

/-- A value more than a ring ahead of HEAD is refused (R249). -/
theorem ringDoorbell_of_beyond {t : Nat} (ahead : aheadOf t (getQueue s q).tail ≠ 0)
    (beyond : 2 ^ (getQueue s q).log2 < aheadOf t (getQueue s q).head) : ringDoorbell s a q t = (refuseDoorbell s q, false) := by
  rw [ringDoorbell_of_admitted owner allowed takes, if_neg ahead, if_neg (Nat.not_le.mpr beyond)]

end

/-- Settles O16: the three outcomes of an admitted doorbell are those of `ringDoorbell`, and a refusal writes its two counters
alone. -/
theorem doorbellMovesTail : Obligations.DoorbellMovesTail := by
  unfold Obligations.DoorbellMovesTail
  intro s a q v h qIn vIn owner allowed takes x
  have ran := exec_doorbell_eq qIn vIn s a
  refine ⟨fun same => ?_, fun ahead fits => queueStep_of_exec_eq_setQueue ?_, fun ahead beyond =>
    ⟨refuseDoorbell s q, ?_, refuseDoorbell_frame owner, getQueue_refuseDoorbell_same owner,
      fun _ => getQueue_refuseDoorbell_ne owner, dget_refuseDoorbell_same owner, fun _ _ => dget_refuseDoorbell_ne owner⟩⟩
  · rw [ran, ringDoorbell_of_same owner allowed takes same]
  · rw [ran, ringDoorbell_of_fits owner allowed takes ahead fits]
  · rw [ran, ringDoorbell_of_beyond owner allowed takes ahead beyond]

end Sys2Proof.Machine
end

section
/-! SUPPORT. A session's messages (R384, R386) and PLAN_REMOVE (R549): what an answer changes, and what a removed plan leaves. -/

namespace Sys2Proof.Machine

/-! ## A session found again -/

/-- A search by key finds what was set, in any table: only a value that stays unlisted is not found. -/
theorem find?_tabSet_same {α : Type} [DecidableEq α] {d v : α} (listed : v ≠ d) (t : Tab α) (k : Nat) :
    (tabSet d t k v).find? (·.1 = k) = some (k, v) := by
  induction t with
  | nil => simp [tabSet, listed]
  | cons e t ih =>
    obtain ⟨j, w⟩ := e
    simp only [tabSet, if_neg listed]
    split
    · simp
    · split
      · simp
      · next other => simp [Ne.symm other, ih]

/-- A session that has answered HELLO is not the table's unlisted one, so it is found as it was set. -/
theorem getSession_setSession_same (s : State) (n : Nat) {x : Session} (greeted : x.stage ≠ 0) :
    getSession (setSession s n x) n = some x := by
  have listed : x ≠ { eth := 2 } := fun e => greeted (by rw [e])
  rw [getSession, setSession_sessions, find?_tabSet_same listed, Option.map_some]

theorem getSession_congr {s t : State} (same : t.sessions = s.sessions) (n : Nat) : getSession t n = getSession s n := by
  rw [getSession, getSession, same]

@[simp] theorem getSession_emit (s : State) (o : Out) (n : Nat) : getSession (emit s o) n = getSession s n :=
  getSession_congr (emit_sessions s o) n

/-! ## Records of a session -/

/-- A client's record changes the sessions alone. -/
theorem touchSession_frame (s : State) (n : Nat) : ∃ a, touchSession s n = { s with sessions := a } := by
  unfold touchSession
  split <;> exact ⟨_, rfl⟩

@[simp] theorem touchSession_plans (s : State) (n : Nat) : (touchSession s n).plans = s.plans := by
  obtain ⟨a, taken⟩ := touchSession_frame s n
  rw [taken]

/-- A session after one more record of its client. -/
def tookRecord (now : Nat) (x : Session) : Session := { x with last := now, recsIn := x.recsIn + 1 }

/-- A session after one more record of the device. -/
def sentRecord (x : Session) : Session := { x with recsOut := x.recsOut + 1 }

section
variable {s : State} {n : Nat} {x : Session} (found : getSession s n = some x)
include found

theorem touchSession_of_found : touchSession s n = setSession s n (tookRecord s.now x) := by
  simp only [touchSession, found]
  rfl

/-- A session with records left is not closed (R384). -/
theorem closeSpent_of_left (inLeft : x.recsIn < maxRecords) (outLeft : x.recsOut < maxRecords) : closeSpent s n = s := by
  simp [closeSpent, found, inLeft, outLeft]

/-- A message of the device leaves in a record of its session, while one is left (R384). -/
theorem sendStarter_of_left (left : x.recsOut < maxRecords) (kind req : Nat) (body : List Byte) :
    ∃ wire, sendStarter s n kind req body = emit (setSession s n (sentRecord x)) (.starter n kind req body wire) := by
  simp only [sendStarter, found, if_neg (Nat.not_le.mpr left)]
  exact ⟨_, rfl⟩

end

/-! ## Answers -/

/-- What is sent is the last to leave, or the last that waits behind a PAUSE (R374). -/
theorem lastSent_emit (s : State) (o : Out) : LastSent (emit s o) o := by
  rcases emit_cases s o with h | ⟨e, h⟩
  · exact .inl (by simp [h])
  · exact .inr (by simp [h])

/-- A message of the device changes the sessions and what leaves the device alone. -/
theorem sendStarter_frame (s : State) (n kind req : Nat) (body : List Byte) :
    ∃ a b c, sendStarter s n kind req body = { s with sessions := a, out := b, pausedOut := c } := by
  unfold sendStarter
  split
  · exact ⟨_, _, _, rfl⟩
  · split
    · exact ⟨_, _, _, rfl⟩
    · exact (emit_frame _ _).elim fun b ⟨c, sent⟩ => ⟨_, b, c, sent⟩

@[simp] theorem sendStarter_plans (s : State) (n kind req : Nat) (body : List Byte) :
    (sendStarter s n kind req body).plans = s.plans := by
  obtain ⟨a, b, c, sent⟩ := sendStarter_frame s n kind req body
  rw [sent]

/-- A message taken and answered changes the sessions and what leaves the device alone. -/
theorem sendStarter_touchSession_frame (s : State) (n kind req : Nat) (body : List Byte) :
    let t := sendStarter (touchSession s n) n kind req body
    t = { s with sessions := t.sessions, out := t.out, pausedOut := t.pausedOut } := by
  intro t
  obtain ⟨a, b, c, sent⟩ := sendStarter_frame (touchSession s n) n kind req body
  obtain ⟨d, taken⟩ := touchSession_frame s n
  simp only [t, sent, taken]

/-- A message that an open session may send, and whose handling leaves the sessions as they are and ends in an answer, is answered
so; the session, which has records left, stays open. -/
theorem onMessage_sendStarter {s u : State} {n right req kind : Nat} {body : List Byte} {f : State → State}
    (may : sessionOpen s n right) (answers : f (touchSession s n) = sendStarter u n kind req body)
    (same : u.sessions = (touchSession s n).sessions) :
    onMessage s n req (needs right) f = sendStarter u n kind req body ∧
      ∃ wire, LastSent (sendStarter u n kind req body) (.starter n kind req body wire) := by
  obtain ⟨x, found, setUp, link, allowed, inLeft, outLeft⟩ := may
  have stands : getSession u n = some (tookRecord s.now x) := by
    rw [getSession_congr same, touchSession_of_found found, getSession_setSession_same]
    simp [tookRecord, setUp]
  obtain ⟨wire, sent⟩ := sendStarter_of_left stands (Nat.lt_of_succ_lt outLeft) kind req body
  have after : getSession (sendStarter u n kind req body) n = some (sentRecord (tookRecord s.now x)) := by
    rw [sent, getSession_emit, getSession_setSession_same]
    simp [sentRecord, tookRecord, setUp]
  refine ⟨?_, wire, sent ▸ lastSent_emit _ _⟩
  calc onMessage s n req (needs right) f
      = closeSpent (f (touchSession s n)) n := by simp [onMessage, found, setUp, link, needs, allowed]
    _ = closeSpent (sendStarter u n kind req body) n := by rw [answers]
    _ = sendStarter u n kind req body := closeSpent_of_left after inLeft outLeft

/-! ## Plans removed -/

/-- The installed plans and the sessions: what the ports' plan states, their events and the heats' targets do not touch. -/
def plansAndSessions (s : State) : List Installed × Tab Session := (s.plans, s.sessions)

theorem plansAndSessions_eq_iff {s : State} {l : List Installed} {t : Tab Session} :
    plansAndSessions s = (l, t) ↔ s.plans = l ∧ s.sessions = t := Prod.mk_inj

theorem plansAndSessions_foldl {α : Type} {f : State → α → State} (kept : ∀ u a, plansAndSessions (f u a) = plansAndSessions u)
    (l : List α) (s : State) : plansAndSessions (l.foldl f s) = plansAndSessions s := by
  induction l generalizing s with
  | nil => rfl
  | cons a l ih => rw [List.foldl_cons, ih, kept]

@[simp] theorem plansAndSessions_portEvent (s : State) (p code cls cause : Nat) (h : Option Nat) :
    plansAndSessions (portEvent s p code cls cause h) = plansAndSessions s := by
  obtain ⟨x, ev, lost, raised⟩ := raise_eq s
    { code := code, cls := cls, cause := cause, heat := h, unit := physPort s p, unitKind := 4, detail := portDetail s p }
  rw [portEvent, raised]
  rfl

/-- A heat that loses a port raises at most one event of it (R321). -/
@[simp] theorem plansAndSessions_heatLoses (s : State) (p h : Nat) : plansAndSessions (heatLoses s p h) = plansAndSessions s := by
  unfold heatLoses
  repeat' split
  all_goals simp

/-- Packets sent another way change the ports alone (R321). -/
@[simp] theorem plansAndSessions_reroute (s : State) (p : Nat) : plansAndSessions (reroute s p) = plansAndSessions s := by
  refine (plansAndSessions_foldl (fun u k => ?_) _ _).trans rfl
  split
  · split <;> rfl
  · rfl

@[simp] theorem plansAndSessions_updatePlan (s : State) (p : Nat) : plansAndSessions (updatePlan s p) = plansAndSessions s := by
  have logged : plansAndSessions (portEvent (dset s (pIdx p) 3 (planStateOf s p)) p 0x0301 0 0 none) = plansAndSessions s := by
    rw [plansAndSessions_portEvent]; rfl
  simp only [updatePlan]
  split
  · rfl
  · split
    · exact logged
    · rw [plansAndSessions_reroute, plansAndSessions_foldl fun u h => plansAndSessions_heatLoses u p h, logged]

@[simp] theorem plansAndSessions_plansChanged (s : State) (l : List PlanPort) :
    plansAndSessions (plansChanged s l) = plansAndSessions s := by
  rw [plansChanged, updatePlans, plansAndSessions_foldl plansAndSessions_updatePlan, plansAndSessions_foldl]
  exact fun _ _ => rfl

@[simp] theorem plansAndSessions_plansRecord (s : State) : plansAndSessions (plansRecord s) = plansAndSessions s := rfl

@[simp] theorem plansAndSessions_dropTargets (s : State) (l : List Installed) :
    plansAndSessions (dropTargets s l) = plansAndSessions s := by
  rw [dropTargets, plansAndSessions_foldl]
  exact fun _ _ => rfl

/-- The plans named go, every other one stays, and no session changes. -/
theorem plansAndSessions_removePlans (s : State) (p : Installed → Bool) :
    plansAndSessions (removePlans s p) = (s.plans.filter fun x => !p x, s.sessions) := by
  simp only [removePlans, plansAndSessions_plansChanged, plansAndSessions_plansRecord, plansAndSessions_dropTargets]
  rfl

theorem removePlans_plans (s : State) (p : Installed → Bool) : (removePlans s p).plans = s.plans.filter fun x => !p x :=
  (plansAndSessions_eq_iff.mp (plansAndSessions_removePlans s p)).1

theorem removePlans_sessions (s : State) (p : Installed → Bool) : (removePlans s p).sessions = s.sessions :=
  (plansAndSessions_eq_iff.mp (plansAndSessions_removePlans s p)).2

/-! ## PLAN_REMOVE -/

/-- A TRANSIT plan that holds the tag (R549). -/
def holdsTransit (tag : Nat) (x : Installed) : Bool := x.plan.transit && x.plan.tag = tag

/-- What PLAN_REMOVE does once its session may send it. -/
def removeTransit (n req tag : Nat) (s : State) : State :=
  if s.plans.any (holdsTransit tag) then sendResult (removePlans s (holdsTransit tag)) n req resOk 0
  else sendResult s n req resPlanRejected wholePlan

theorem exec_planRemove_eq (s : State) (n req tag : Nat) :
    exec (.planRemove n req tag) s = .next (onMessage s n req (needs rightPlan) (removeTransit n req tag)) := rfl

theorem removeTransit_touchSession_of_held {s : State} {tag : Nat} (held : s.plans.any (holdsTransit tag) = true) (n req : Nat) :
    removeTransit n req tag (touchSession s n) = sendResult (removePlans (touchSession s n) (holdsTransit tag)) n req resOk 0 := by
  rw [removeTransit, touchSession_plans, if_pos held]

theorem removeTransit_touchSession_of_absent {s : State} {tag : Nat} (absent : s.plans.any (holdsTransit tag) = false)
    (n req : Nat) : removeTransit n req tag (touchSession s n) = sendResult (touchSession s n) n req resPlanRejected wholePlan := by
  rw [removeTransit, touchSession_plans, absent, if_neg Bool.false_ne_true]

/-- Settles O58: a TRANSIT plan that holds the tag goes and the request is answered with OK; where none does, PLAN_REMOVE only
answers. -/
theorem planRemoved : Obligations.PlanRemoved := by
  unfold Obligations.PlanRemoved
  intro s n req tag may hit
  refine ⟨fun held => ?_, fun absent => ?_⟩
  · obtain ⟨ran, told⟩ := onMessage_sendStarter may (removeTransit_touchSession_of_held held n req) (removePlans_sessions _ _)
    refine ⟨_, (exec_planRemove_eq s n req tag).trans (congrArg _ ran), ?_, told⟩
    rw [sendStarter_plans, removePlans_plans, touchSession_plans]
    rfl
  · obtain ⟨ran, told⟩ := onMessage_sendStarter may (removeTransit_touchSession_of_absent absent n req) rfl
    exact ⟨_, (exec_planRemove_eq s n req tag).trans (congrArg _ ran), told, sendStarter_touchSession_frame s n _ req _⟩

end Sys2Proof.Machine
end


section
/-! SUPPORT. What a step comes to: the front command or a tick, and what every one of them keeps. -/

namespace Sys2Proof.Machine

/-! ## A step -/

theorem step_eq_exec_of_cons {s : State} {c : Instr} {l : List Instr} (front : s.pending = c :: l) :
    step s = exec c { s with pending := l } := by
  rw [step, front]

theorem step_eq_tick_of_nil {s : State} (idle : s.pending = []) : step s = .next (tick s) := by
  rw [step, idle]

/-- The state that the front command is run on: that command no longer waits. -/
def frontTaken (s : State) : State := { s with pending := s.pending.tail }

/-- Every step completes, and it keeps what every operation keeps of the state without its front command. -/
theorem step_runs (s : State) : Runs (frontTaken s) (step s) := by
  cases waits : s.pending with
  | nil =>
    have same : frontTaken s = s := by rw [frontTaken, waits, List.tail_nil, ← waits]
    rw [same, step_eq_tick_of_nil waits]
    exact runs_next (tick_keeps (Keeps.refl s))
  | cons c l =>
    have taken : frontTaken s = { s with pending := l } := by rw [frontTaken, waits, List.tail_cons]
    rw [taken, step_eq_exec_of_cons waits]
    exact exec_keeps (Keeps.refl _)

theorem keeps_of_step {s t : State} (ran : step s = .next t) : Keeps (frontTaken s) t := by
  obtain ⟨u, ran', kept⟩ := step_runs s
  rw [ran] at ran'
  exact (Host.Outcome.next.inj ran') ▸ kept

/-- Settles O1: `step` is defined by the front of the queue. -/
theorem stepRunsFrontCommand : Obligations.StepRunsFrontCommand := fun _ _ _ => step_eq_exec_of_cons

/-- Settles O3, from what every command and every tick keeps. -/
theorem everyStepCompletes : Obligations.EveryStepCompletes := fun s =>
  have ⟨t, ran, kept⟩ := step_runs s
  ⟨t, ran, kept.pending⟩

/-- Settles O4: taking the front command touches no table, and every operation keeps the tables. -/
theorem stepKeepsTables : Obligations.StepKeepsTables := fun _ _ sound ran => (keeps_of_step ran).tables sound

/-- Settles O5: every operation keeps the retired units, the counters and what was sent. -/
theorem stepNeverTakesBack : Obligations.StepNeverTakesBack :=
  ⟨fun _ _ ran => ⟨(keeps_of_step ran).slots, (keeps_of_step ran).channels⟩,
   fun _ _ ran => ⟨(keeps_of_step ran).logNext, (keeps_of_step ran).freeCtr, (keeps_of_step ran).out⟩⟩

end Sys2Proof.Machine
end

section
/-! SUPPORT. The state after reset. -/

namespace Sys2Proof.Machine

theorem dkey_injective {i sub j t : Nat} (a : sub < 256) (b : t < 256) (same : dkey i sub = dkey j t) : i = j := by
  unfold dkey at same
  omega

/-- Memory lists nothing after reset, and an unlisted byte reads as zero. -/
theorem getByte_reset (a : Nat) : getByte State.reset a = 0#8 := by
  change (0#8 ^^^ 0#8 : Byte) = 0#8
  decide

/-- Of the entries after reset only the fuse map's are written. -/
theorem dget_reset {i sub : Nat} (other : i ≠ 0x2C00) (small : sub < 256) : dget State.reset i sub = dictDefault i sub := by
  have apart (n : Nat) (h : n < 256) : dkey 0x2C00 n ≠ dkey i sub := fun same => other (dkey_injective h small same).symm
  change tabGet (dictDefault i sub) [(dkey 0x2C00 3, 64), (dkey 0x2C00 0x0C, 0x5F0D796B)] (dkey i sub) = _
  rw [tabGet, if_neg (apart 3 (by decide)), tabGet, if_neg (apart 0x0C (by decide)), tabGet]

/-- Settles O6: the state after reset is plain data. -/
theorem resetSound : Obligations.ResetSound := by
  unfold Obligations.ResetSound
  exact ⟨⟨by decide, rfl, rfl⟩, ⟨rfl, rfl, rfl, rfl, rfl, rfl⟩, fun _ => rfl, fun _ => ⟨rfl, rfl, rfl⟩, fun _ => rfl, getByte_reset,
    fun _ _ other small => dget_reset other small⟩

end Sys2Proof.Machine
end

section
/-! SUPPORT. Memory as bytes and numbers: what is read after a write, and what a family of writes leaves. -/

namespace Sys2Proof.Machine

/-! ## Bytes and numbers -/

@[simp] theorem length_bytesOf (n v : Nat) : (bytesOf n v).length = n := by
  induction n generalizing v with
  | zero => rfl
  | succ n ih => rw [bytesOf, List.length_cons, ih]

theorem natOfBytes_bytesOf (n v : Nat) : natOfBytes (bytesOf n v) = v % 256 ^ n := by
  induction n generalizing v with
  | zero => rw [bytesOf, natOfBytes, pow_zero, Nat.mod_one]
  | succ n ih =>
    rw [bytesOf, natOfBytes, ih, BitVec.toNat_ofNat, Nat.pow_succ' (n := n)]
    exact Nat.mod_mul.symm

/-! ## Reading -/

@[simp] theorem length_readBytes (s : State) (a n : Nat) : (readBytes s a n).length = n := by simp [readBytes]

theorem getElem_readBytes (s : State) (a n i : Nat) (h : i < (readBytes s a n).length) :
    (readBytes s a n)[i] = getByte s (a + i) := by simp [readBytes]

theorem readBytes_congr {s t : State} {a n : Nat} (same : ∀ i, i < n → getByte t (a + i) = getByte s (a + i)) :
    readBytes t a n = readBytes s a n :=
  List.map_congr_left fun i inside => same i (List.mem_range.mp inside)

theorem readNat_congr {s t : State} {a n : Nat} (same : ∀ i, i < n → getByte t (a + i) = getByte s (a + i)) :
    readNat t a n = readNat s a n := congrArg natOfBytes (readBytes_congr same)

/-- A range holds a list where each of its bytes does. -/
theorem readBytes_eq_of_getByte {t : State} {a : Nat} {l : List Byte}
    (holds : ∀ i (h : i < l.length), getByte t (a + i) = l[i]) : readBytes t a l.length = l :=
  List.ext_getElem (length_readBytes _ _ _) fun i _ h => (getElem_readBytes _ _ _ _ _).trans (holds i h)

/-- A byte depends on the listed bytes and on what an unlisted one reads as. -/
theorem getByte_congr {s t : State} (mem : t.mem = s.mem) (blank : t.blank = s.blank) (a : Nat) : getByte t a = getByte s a := by
  rw [getByte, getByte, blankByte, blankByte, mem, blank]

/-! ## Writing -/

theorem writeBytes_frame (s : State) (a : Nat) (l : List Byte) : writeBytes s a l = { s with mem := (writeBytes s a l).mem } := by
  induction l generalizing s a with
  | nil => rfl
  | cons b l ih =>
    rw [writeBytes, ih]
    rfl

theorem readBytes_writeBytes_same (s : State) (a : Nat) (l : List Byte) : readBytes (writeBytes s a l) a l.length = l :=
  readBytes_eq_of_getByte fun i inside => getByte_writeBytes_in s a l i inside

theorem readBytes_writeBytes_out (s : State) {a b n : Nat} {l : List Byte} (apart : b + n ≤ a ∨ a + l.length ≤ b) :
    readBytes (writeBytes s a l) b n = readBytes s b n :=
  readBytes_congr fun i inside => getByte_writeBytes_out s a _ l (by omega)

theorem readNat_writeBytes_out (s : State) {a b n : Nat} {l : List Byte} (apart : b + n ≤ a ∨ a + l.length ≤ b) :
    readNat (writeBytes s a l) b n = readNat s b n := congrArg natOfBytes (readBytes_writeBytes_out s apart)

theorem stored_writeBytes (s : State) (a : Nat) (l : List Byte) : Stored s (writeBytes s a l) a l :=
  ⟨readBytes_writeBytes_same s a l, fun b out => getByte_writeBytes_out s a b l out⟩

theorem readNat_writeNat_same (s : State) (a n v : Nat) : readNat (writeNat s a n v) a n = v % 256 ^ n := by
  have wrote := readBytes_writeBytes_same s a (bytesOf n v)
  rw [length_bytesOf] at wrote
  rw [readNat, writeNat, wrote, natOfBytes_bytesOf]

theorem readNat_writeNat_out (s : State) {a b n m v : Nat} (apart : b + m ≤ a ∨ a + n ≤ b) :
    readNat (writeNat s a n v) b m = readNat s b m := readNat_writeBytes_out s (by rwa [length_bytesOf])

theorem writeNat_frame (s : State) (a n v : Nat) : writeNat s a n v = { s with mem := (writeNat s a n v).mem } :=
  writeBytes_frame s a _

theorem getByte_writeNat_out (s : State) {a n i : Nat} (v : Nat) (out : i < a ∨ a + n ≤ i) :
    getByte (writeNat s a n v) i = getByte s i := getByte_writeBytes_out s a i _ (by rwa [length_bytesOf])

/-! ## A family of writes -/

/-- Lists of bytes written one after another, each at its own address. -/
def writeAll {α : Type} (p : α → Nat) (b : α → List Byte) (l : List α) (s : State) : State :=
  l.foldl (fun s x => writeBytes s (p x) (b x)) s

section
variable {α : Type} {p : α → Nat} {b : α → List Byte}

theorem writeAll_frame (l : List α) (s : State) : writeAll p b l s = { s with mem := (writeAll p b l s).mem } := by
  induction l generalizing s with
  | nil => rfl
  | cons x l ih =>
    have step : writeAll p b (x :: l) s = writeAll p b l (writeBytes s (p x) (b x)) := rfl
    rw [step, ih, writeBytes_frame]

theorem getByte_writeAll_out {l : List α} {a : Nat} (out : ∀ x ∈ l, a < p x ∨ p x + (b x).length ≤ a) (s : State) :
    getByte (writeAll p b l s) a = getByte s a := by
  induction l generalizing s with
  | nil => rfl
  | cons x l ih =>
    have step : writeAll p b (x :: l) s = writeAll p b l (writeBytes s (p x) (b x)) := rfl
    rw [step, ih (fun y later => out y (List.mem_cons_of_mem x later)), getByte_writeBytes_out]
    exact out x List.mem_cons_self

/-- Where the places are apart, each holds what was written there. -/
theorem readBytes_writeAll_of_apart {l : List α}
    (apart : l.Pairwise fun x y => p x + (b x).length ≤ p y ∨ p y + (b y).length ≤ p x) {x : α} (listed : x ∈ l) (s : State) :
    readBytes (writeAll p b l s) (p x) (b x).length = b x := by
  induction l generalizing s with
  | nil => cases listed
  | cons y l ih =>
    have step : writeAll p b (y :: l) s = writeAll p b l (writeBytes s (p y) (b y)) := rfl
    obtain ⟨here, later⟩ := List.pairwise_cons.mp apart
    rw [step]
    rcases List.mem_cons.mp listed with rfl | tail
    · refine (readBytes_congr fun i inside => getByte_writeAll_out (fun z there => ?_) _).trans (readBytes_writeBytes_same _ _ _)
      have := here z there
      omega
    · exact ih later tail _

end

end Sys2Proof.Machine
end

section
/-! SUPPORT. What an event, a record of the history and a slot taken out of service change (R441 to R446, R497 to R500). -/

namespace Sys2Proof.Machine

/-! ## An event raised -/

section
variable (s : State) (e : Event)

@[simp] theorem dget_raise (i sub : Nat) : dget (raise s e) i sub = dget s i sub := by
  obtain ⟨_, _, _, raised⟩ := raise_eq s e
  rw [raised]; rfl

@[simp] theorem domGet_raise (i sub : Nat) : domGet (raise s e) i sub = domGet s i sub := by
  obtain ⟨_, _, _, raised⟩ := raise_eq s e
  rw [raised]; rfl

@[simp] theorem getCore_raise (k : Nat) : getCore (raise s e) k = getCore s k := by
  obtain ⟨_, _, _, raised⟩ := raise_eq s e
  rw [raised]; rfl

@[simp] theorem getQueue_raise (q : Nat) : getQueue (raise s e) q = getQueue s q := by
  obtain ⟨_, _, _, raised⟩ := raise_eq s e
  rw [raised]; rfl

@[simp] theorem getCluster_raise (c : Nat) : getCluster (raise s e) c = getCluster s c := by
  obtain ⟨_, _, _, raised⟩ := raise_eq s e
  rw [raised]; rfl

@[simp] theorem getPort_raise (p : Nat) : getPort (raise s e) p = getPort s p := by
  obtain ⟨_, _, _, raised⟩ := raise_eq s e
  rw [raised]; rfl

@[simp] theorem getByte_raise (a : Nat) : getByte (raise s e) a = getByte s a := by
  obtain ⟨_, _, _, raised⟩ := raise_eq s e
  rw [raised]; rfl

@[simp] theorem retiredSlots_raise : (raise s e).retiredSlots = s.retiredSlots := by
  obtain ⟨_, _, _, raised⟩ := raise_eq s e
  rw [raised]

/-- What an event leaves of everything but the heats and the events that wait. -/
theorem raise_frame : raise s e = { s with
    heats := (raise s e).heats, events := (raise s e).events, lostEvents := (raise s e).lostEvents } := by
  obtain ⟨_, _, _, raised⟩ := raise_eq s e
  rw [raised]

end

/-! ## Heats contained -/

/-- Two states whose heats differ in containment alone. -/
def SameButContained (s t : State) : Prop := ∀ h, ∃ c, getHeat t h = { getHeat s h with contained := c }

theorem SameButContained.refl (s : State) : SameButContained s s := fun h => ⟨(getHeat s h).contained, rfl⟩

theorem SameButContained.trans {s t u : State} (a : SameButContained s t) (b : SameButContained t u) : SameButContained s u := by
  intro h
  obtain ⟨c, first⟩ := a h
  obtain ⟨d, second⟩ := b h
  exact ⟨d, by rw [second, first]⟩

theorem SameButContained.of_heats {s t : State} (same : t.heats = s.heats) : SameButContained s t := fun h =>
  ⟨(getHeat s h).contained, by rw [getHeat, getHeat, same]⟩

theorem sameButContained_modHeat (s : State) (h : Nat) (c : Bool) :
    SameButContained s (modHeat s h fun x => { x with contained := c }) := by
  intro j
  by_cases here : j = h
  · exact ⟨c, by rw [here, modHeat_eq, getHeat_setHeat_same]⟩
  · exact ⟨(getHeat s j).contained, by rw [modHeat_eq, getHeat_setHeat_ne s here]⟩

theorem sameButContained_contain (s : State) (e : Event) : SameButContained s (contain s e) := by
  have all (l : List Nat) : SameButContained s (l.foldl (fun s h => modHeat s h fun x => { x with contained := true }) s) := by
    induction l using List.reverseRecOn with
    | nil => exact .refl s
    | append_singleton l h ih =>
      rw [List.foldl_concat]
      exact ih.trans (sameButContained_modHeat _ h true)
  unfold contain
  split
  · exact all _
  · split
    · split
      · split
        · exact .refl s
        · exact sameButContained_modHeat s _ true
      · exact .refl s
    · exact .refl s

theorem sameButContained_raise (s : State) (e : Event) : SameButContained s (raise s e) := by
  have first := sameButContained_contain s (stampEvent s e)
  unfold raise
  dsimp only
  split
  · exact first.trans (.of_heats rfl)
  · exact (first.trans (.of_heats rfl)).trans (sameButContained_contain _ overflowEvent)

@[simp] theorem getHeat_raise_st (s : State) (e : Event) (h : Nat) : (getHeat (raise s e) h).st = (getHeat s h).st := by
  obtain ⟨c, same⟩ := sameButContained_raise s e h
  rw [same]

/-! ## The history -/

/-- What writing the history changes: its own fields, the entries of 0x2730, and what an event changes. -/
structure HistoryFrame (s t : State) : Prop where
  whole : t = { s with
    dict := t.dict, dom := t.dom, heats := t.heats, events := t.events, lostEvents := t.lostEvents, history := t.history
    histSector := t.histSector, histUsed := t.histUsed, histSeq := t.histSeq }
  dict : ∀ i sub, i ≠ 0x2730 → sub < 256 → dget t i sub = dget s i sub
  dom : ∀ i sub, i ≠ 0x2730 → sub < 256 → domGet t i sub = domGet s i sub
  heats : SameButContained s t

theorem HistoryFrame.refl (s : State) : HistoryFrame s s := ⟨rfl, fun _ _ _ _ => rfl, fun _ _ _ _ => rfl, .refl s⟩

theorem HistoryFrame.trans {s t u : State} (a : HistoryFrame s t) (b : HistoryFrame t u) : HistoryFrame s u := by
  refine ⟨?_, fun i sub n l => (b.dict i sub n l).trans (a.dict i sub n l), fun i sub n l => (b.dom i sub n l).trans (a.dom i sub n l),
    a.heats.trans b.heats⟩
  have first := a.whole
  have second := b.whole
  rw [first] at second
  exact second

theorem historyFrame_raise (s : State) (e : Event) : HistoryFrame s (raise s e) :=
  ⟨by rw [raise_frame], fun _ _ _ _ => dget_raise _ _ _ _, fun _ _ _ _ => domGet_raise _ _ _ _, sameButContained_raise s e⟩

theorem historyFrame_dset (s : State) (v : Nat) {sub : Nat} (small : sub < 256) : HistoryFrame s (dset s 0x2730 sub v) :=
  ⟨rfl, fun _ _ n l => dget_dset_ne s small l (.inl n) v, fun _ _ _ _ => rfl, .of_heats rfl⟩

theorem historyFrame_domPut (s : State) (total w n v : Nat) {sub : Nat} (small : sub < 256) :
    HistoryFrame s (domPut s 0x2730 sub total w n v) :=
  ⟨rfl, fun _ _ _ _ => rfl, fun _ _ n l => domGet_domSet_ne s small l (.inl n) _, .of_heats rfl⟩

theorem historyFrame_eraseSector (s : State) (n : Nat) : HistoryFrame s (eraseSector s n) := by
  unfold eraseSector
  dsimp only
  refine .trans ?_ (historyFrame_dset _ _ (by decide))
  have counted : HistoryFrame s (domPut s 0x2730 3 64 4 n (eraseCount s n + 1)) := historyFrame_domPut s _ _ _ _ (by decide)
  split
  · exact counted.trans (historyFrame_raise _ _)
  · exact counted

theorem historyFrame_histAdd (s : State) (kind : Nat) (fields : List Nat) : HistoryFrame s (histAdd s kind fields) := by
  have own (t : State) (l : List HistRec) (a b c : Nat) :
      HistoryFrame t { t with history := l, histSector := a, histUsed := b, histSeq := c } :=
    ⟨rfl, fun _ _ _ _ => rfl, fun _ _ _ _ => rfl, .of_heats rfl⟩
  unfold histAdd
  split
  · exact .refl s
  · dsimp only
    split
    · exact own _ _ _ _ _
    · refine .trans ?_ (own _ _ _ _ _)
      exact (own _ _ _ _ _).trans (historyFrame_eraseSector _ _)

/-! ## A transient recorded -/

/-- What a transient may change: what the history changes, its own list, the counters of 0x2D60, the slot map, a cluster's moves. -/
structure SlotFrame (s t : State) : Prop where
  whole : t = { s with
    dict := t.dict, dom := t.dom, heats := t.heats, events := t.events, lostEvents := t.lostEvents, history := t.history
    histSector := t.histSector, histUsed := t.histUsed, histSeq := t.histSeq, transients := t.transients
    clusters := t.clusters, markedSlots := t.markedSlots, retiredSlots := t.retiredSlots }
  dict : ∀ i sub, i ≠ 0x2730 → i ≠ 0x2D60 → sub < 256 → dget t i sub = dget s i sub
  dom : ∀ i sub, i ≠ 0x2730 → i ≠ 0x2900 → sub < 256 → domGet t i sub = domGet s i sub
  heats : SameButContained s t

theorem SlotFrame.trans {s t u : State} (a : SlotFrame s t) (b : SlotFrame t u) : SlotFrame s u := by
  refine ⟨?_, fun i sub n m l => (b.dict i sub n m l).trans (a.dict i sub n m l),
    fun i sub n m l => (b.dom i sub n m l).trans (a.dom i sub n m l), a.heats.trans b.heats⟩
  have first := a.whole
  have second := b.whole
  rw [first] at second
  exact second

theorem HistoryFrame.slotFrame {s t : State} (a : HistoryFrame s t) : SlotFrame s t := by
  refine ⟨?_, fun i sub n _ l => a.dict i sub n l, fun i sub n _ l => a.dom i sub n l, a.heats⟩
  have first := a.whole
  rw [first]

theorem slotFrame_raise (s : State) (e : Event) : SlotFrame s (raise s e) := (historyFrame_raise s e).slotFrame

theorem slotFrame_dadd (s : State) (n : Nat) {sub : Nat} (small : sub < 256) : SlotFrame s (dadd s 0x2D60 sub n) :=
  ⟨rfl, fun _ _ _ n l => dget_dset_ne s small l (.inl n) _, fun _ _ _ _ _ => rfl, .of_heats rfl⟩

theorem slotFrame_setSlot (s : State) (p st core : Nat) : SlotFrame s (setSlot s p st core) :=
  ⟨rfl, fun _ _ _ _ _ => rfl, fun _ _ _ n l => domGet_domSet_ne s (by decide) l (.inl n) _, .of_heats rfl⟩

theorem slotFrame_modCluster (s : State) (c : Nat) (f : Cluster → Cluster) : SlotFrame s (modCluster s c f) :=
  ⟨rfl, fun _ _ _ _ _ => rfl, fun _ _ _ _ _ => rfl, .of_heats rfl⟩

theorem slotFrame_marked (s : State) (l : List Nat) : SlotFrame s { s with markedSlots := l } :=
  ⟨rfl, fun _ _ _ _ _ => rfl, fun _ _ _ _ _ => rfl, .of_heats rfl⟩

theorem slotFrame_retired (s : State) (l : List Nat) : SlotFrame s { s with retiredSlots := l } :=
  ⟨rfl, fun _ _ _ _ _ => rfl, fun _ _ _ _ _ => rfl, .of_heats rfl⟩

theorem slotFrame_transients (s : State) (l : List (Nat × Nat × Nat × Nat)) : SlotFrame s { s with transients := l } :=
  ⟨rfl, fun _ _ _ _ _ => rfl, fun _ _ _ _ _ => rfl, .of_heats rfl⟩

theorem slotFrame_markForBoot (s : State) (p : Nat) : SlotFrame s (markForBoot s p) :=
  ((slotFrame_setSlot s p _ _).trans (slotFrame_marked _ _)).trans (slotFrame_raise _ _)

theorem slotFrame_permanentByCount (s : State) (p : Nat) : SlotFrame s (permanentByCount s p) := by
  unfold permanentByCount
  dsimp only
  split
  · exact (HistoryFrame.refl s).slotFrame
  · refine (slotFrame_dadd s 1 (sub := 4) (by decide)).trans ?_
    split
    · exact slotFrame_modCluster _ _ _
    · exact slotFrame_markForBoot _ _

theorem slotFrame_recordTransient (s : State) (p unit : Nat) (h : Option Nat) : SlotFrame s (recordTransient s p unit h) := by
  unfold recordTransient
  dsimp only
  have logged := (((slotFrame_transients s ((p, unit, poweredHour s, s.lap) :: s.transients)).trans
    (historyFrame_histAdd _ histTransient [p, unit, poweredHour s, s.lap]).slotFrame).trans
    (slotFrame_dadd _ 1 (sub := 3) (by decide))).trans (slotFrame_raise _ { code := 0x0101, cls := 1, heat := h, unit := p, unitKind := 1 })
  split
  · exact logged.trans (slotFrame_permanentByCount _ p)
  · exact logged

theorem slotFrame_retireSlot (s : State) (p cause : Nat) : SlotFrame s (retireSlot s p cause) :=
  ((slotFrame_setSlot s p slotRetired 0xF).trans (slotFrame_retired _ _)).trans (historyFrame_histAdd _ _ _).slotFrame

theorem slotFrame_retirePermanent (s : State) (p cause : Nat) (h : Option Nat) : SlotFrame s (retirePermanent s p cause h) := by
  unfold retirePermanent
  dsimp only
  refine .trans ?_ (slotFrame_raise _ _)
  refine .trans ?_ (slotFrame_modCluster _ _ _)
  refine .trans ?_ (slotFrame_setSlot _ _ _ _)
  refine .trans ?_ (slotFrame_retireSlot _ _ _)
  split
  · exact (slotFrame_dadd s 1 (sub := 4) (by decide)).trans (slotFrame_dadd _ 1 (sub := 5) (by decide))
  · exact slotFrame_dadd _ 1 (by decide)

/-! ## The counters of retired slots and transients -/

/-- The history leaves the counters of 0x2D60. -/
theorem dget_histAdd (s : State) (kind : Nat) (fields : List Nat) {i sub : Nat} (other : i ≠ 0x2730) (small : sub < 256) :
    dget (histAdd s kind fields) i sub = dget s i sub := (historyFrame_histAdd s kind fields).dict i sub other small

theorem dget_permanentByCount {s : State} {p sub : Nat} (other : sub ≠ 4) (small : sub < 256) :
    dget (permanentByCount s p) 0x2D60 sub = dget s 0x2D60 sub := by
  have counted : dget (dadd s 0x2D60 4 1) 0x2D60 sub = dget s 0x2D60 sub := dget_dset_ne s (by decide) small (.inr other) _
  unfold permanentByCount
  dsimp only
  split
  · rfl
  · split
    · exact counted
    · rw [markForBoot, dget_raise]
      exact counted

/-- A transient is counted (R439). -/
theorem dget_recordTransient_count (s : State) (p unit : Nat) (h : Option Nat) :
    Counted s (recordTransient s p unit h) 0x2D60 3 := by
  unfold Counted recordTransient
  dsimp only
  split
  · rw [dget_permanentByCount (by decide) (by decide), dget_raise, dadd_eq, dget_dset_same, dget_histAdd _ _ _ (by decide) (by decide)]
    rfl
  · rw [dget_raise, dadd_eq, dget_dset_same, dget_histAdd _ _ _ (by decide) (by decide)]
    rfl

theorem dget_recordTransient_other (s : State) (p unit : Nat) (h : Option Nat) {sub : Nat} (a : sub ≠ 3) (b : sub ≠ 4)
    (small : sub < 256) : dget (recordTransient s p unit h) 0x2D60 sub = dget s 0x2D60 sub := by
  unfold recordTransient
  dsimp only
  split
  · rw [dget_permanentByCount b small, dget_raise, dadd_eq, dget_dset_ne _ (by decide) small (.inr a),
      dget_histAdd _ _ _ (by decide) small]
    rfl
  · rw [dget_raise, dadd_eq, dget_dset_ne _ (by decide) small (.inr a), dget_histAdd _ _ _ (by decide) small]
    rfl

theorem dget_retirePermanent_other (s : State) (p cause : Nat) (h : Option Nat) {sub : Nat} (a : sub ≠ 4) (b : sub ≠ 5)
    (small : sub < 256) : dget (retirePermanent s p cause h) 0x2D60 sub = dget s 0x2D60 sub := by
  have first : dget (dadd s 0x2D60 4 1) 0x2D60 sub = dget s 0x2D60 sub := dget_dset_ne s (by decide) small (.inr a) _
  have both : dget (if cause = 2 then dadd (dadd s 0x2D60 4 1) 0x2D60 5 1 else dadd s 0x2D60 4 1) 0x2D60 sub =
      dget s 0x2D60 sub := by
    split
    · rw [dadd_eq, dget_dset_ne _ (by decide) small (.inr b), first]
    · exact first
  unfold retirePermanent
  dsimp only
  rw [dget_raise, modCluster_eq, dget_setCluster, setSlot, dget_domSet, retireSlot, dget_histAdd _ _ _ (by decide) small]
  exact both

theorem retiredSlots_histAdd (s : State) (kind : Nat) (fields : List Nat) : (histAdd s kind fields).retiredSlots = s.retiredSlots := by
  rw [(historyFrame_histAdd s kind fields).whole]

theorem mem_retiredSlots_retireSlot (s : State) (p cause : Nat) : p ∈ (retireSlot s p cause).retiredSlots := by
  unfold retireSlot
  dsimp only
  rw [retiredSlots_histAdd]
  dsimp only
  split
  · next there => exact List.contains_iff_mem.mp there
  · exact List.mem_cons_self

/-- A slot declared permanent is retired for good (R436, R441). -/
theorem mem_retiredSlots_retirePermanent (s : State) (p cause : Nat) (h : Option Nat) :
    p ∈ (retirePermanent s p cause h).retiredSlots := by
  unfold retirePermanent
  dsimp only
  rw [retiredSlots_raise, modCluster_eq, setCluster_retiredSlots, setSlot, domSet_retiredSlots]
  exact mem_retiredSlots_retireSlot _ p cause

end Sys2Proof.Machine
end

section
/-! SUPPORT. Sectors read (R212 to R214): with no errors listed a read and a store are plain; in general they leave what is no memory. -/

namespace Sys2Proof.Machine

/-! ## Memory without errors -/

section
variable {s : State} (sound : s.errs = [])
include sound

theorem errSectors_of_sound (a n : Nat) : errSectors s a n = [] := by simp [errSectors, sound]

theorem checkRead_of_sound (a n : Nat) : checkRead s a n = (s, true) := by rw [checkRead, errSectors_of_sound sound, readSectors]

theorem storeStack_of_sound (a : Nat) (l : List Byte) : storeStack s a l = (writeBytes s a l, true) := by
  simp only [storeStack, errSectors_of_sound sound, List.filter_nil, readSectors, List.foldl_nil, Bool.not_true, Bool.false_eq_true,
    if_false]

end

/-! ## Memory with errors -/

/-- What a read may change: memory, its errors, what counts and reports them. -/
structure ReadFrame (s t : State) : Prop where
  whole : t = { s with
    mem := t.mem, errs := t.errs, dict := t.dict, dom := t.dom, corrs := t.corrs, heats := t.heats, events := t.events
    lostEvents := t.lostEvents, failedChannels := t.failedChannels, sinceTest := t.sinceTest }

theorem ReadFrame.refl (s : State) : ReadFrame s s := ⟨rfl⟩

theorem ReadFrame.trans {s t u : State} (a : ReadFrame s t) (b : ReadFrame t u) : ReadFrame s u := by
  have first := a.whole
  have second := b.whole
  rw [first] at second
  exact ⟨second⟩

theorem readFrame_raise (s : State) (e : Event) : ReadFrame s (raise s e) := by
  obtain ⟨_, _, _, raised⟩ := raise_eq s e
  exact ⟨by rw [raised]⟩

theorem ReadFrame.raise {s t : State} (frame : ReadFrame s t) (e : Event) : ReadFrame s (Machine.raise t e) :=
  frame.trans (readFrame_raise t e)

theorem ReadFrame.markRetire {s t : State} (frame : ReadFrame s t) (q : Nat) : ReadFrame s (Machine.markRetire t q) := frame.trans ⟨rfl⟩

theorem xorSector_frame (s : State) (sec : Nat) (e : List (Nat × Byte)) : ∃ m, xorSector s sec e = { s with mem := m } := by
  unfold xorSector
  induction e generalizing s with
  | nil => exact ⟨_, rfl⟩
  | cons x e ih =>
    rw [List.foldl_cons]
    split
    · obtain ⟨m, rest⟩ := ih (putByte s (sec * 64 + x.1) (getByte s (sec * 64 + x.1) ^^^ x.2))
      exact ⟨m, rest⟩
    · exact ih s

theorem readFrame_xorSector (s : State) (sec : Nat) (e : List (Nat × Byte)) (errs : Tab (List (Nat × Byte))) :
    ReadFrame s { xorSector s sec e with errs := errs } := by
  obtain ⟨m, xored⟩ := xorSector_frame s sec e
  exact ⟨by rw [xored]⟩

theorem readFrame_readSector (s : State) (sec : Nat) : ReadFrame s (readSector s sec).1 := by
  simp only [readSector]
  split
  · exact .refl s
  · split
    · exact readFrame_xorSector _ _ _ _
    · next l _ =>
      obtain ⟨m, xored⟩ := xorSector_frame s sec (mergeErrs (tabGet [] s.errs sec) l)
      rw [xored]
      split
      · exact ReadFrame.raise (ReadFrame.markRetire (ReadFrame.raise ⟨rfl⟩ _) _) _
      · exact ReadFrame.raise ⟨rfl⟩ _
    · split <;> exact ReadFrame.raise ⟨rfl⟩ _

theorem readFrame_readSectors (l : List Nat) (s : State) : ReadFrame s (readSectors s l).1 := by
  induction l generalizing s with
  | nil => exact .refl s
  | cons x l ih =>
    rw [readSectors]
    split
    · exact (readFrame_readSector s x).trans (ih _)
    · exact readFrame_readSector s x

theorem readFrame_checkRead (s : State) (a n : Nat) : ReadFrame s (checkRead s a n).1 := readFrame_readSectors _ s

theorem readFrame_writeBytes (s : State) (a : Nat) (l : List Byte) : ReadFrame s (writeBytes s a l) := by
  exact ⟨by rw [writeBytes_frame]⟩

theorem ReadFrame.writeBytes {s t : State} (frame : ReadFrame s t) (a : Nat) (l : List Byte) :
    ReadFrame s (Machine.writeBytes t a l) := frame.trans (readFrame_writeBytes t a l)

theorem readFrame_storeStack (s : State) (a : Nat) (l : List Byte) : ReadFrame s (storeStack s a l).1 := by
  simp only [storeStack]
  split
  · exact readFrame_readSectors _ s
  · exact (readFrame_readSectors _ s).trans (ReadFrame.writeBytes ⟨rfl⟩ _ _)

theorem ReadFrame.queues {s t : State} (frame : ReadFrame s t) : t.queues = s.queues := by
  rw [frame.whole]

end Sys2Proof.Machine
end

section
/-! SUPPORT. Compares and mask logic (R143, R145, R148): each row is `maskWrite` of what it gives, and MSET writes its own bits. -/

namespace Sys2Proof.Machine

/-- A row that compares: the registers that must start a group are its two sources. -/
theorem fcmp_completes : MaskRow.Completes ⟨.fcmp, 0x1F, cmpRegs, fun w v => v.active w, fun w v c e =>
    fcond (vMod w) (vread fmtF32 c (v.lane (vVa w) e)).1 (vread fmtF32 c (v.second w e)).1⟩ :=
  MaskRow.completes_of _ (by decide)
    (fun w v c e => (fcond (vMod w) (vread fmtF32 c (v.lane (vVa w) e)).1 (vread fmtF32 c (v.second w e)).1,
      (vread fmtF32 c (v.lane (vVa w) e)).2.add (vread fmtF32 c (v.second w e)).2))
    (fun _ _ => rfl) (fun _ _ _ => rfl) (fun _ _ _ _ => rfl)

/-- A row that counts no event completes as its bits say. -/
theorem MaskRow.completes_of_bits (r : MaskRow) (other : r.op ≠ opSetvl) (active : ∀ w v, r.on w v = v.active w)
    (runs : ∀ k s, exec (r.row k) s =
      vecRow r.op k s fun h w s => maskWrite k (r.regs w) (fun v c e => (r.bit w v c e, {})) h w s) : r.Completes :=
  r.completes_of other (fun w v c e => (r.bit w v c e, {})) runs (fun w v _ => by rw [active]) (fun _ _ _ _ => rfl)

/-! ## MSET -/

/-- The bits that MSET writes: all 512, under predication those whose mask bit is 1. -/
def msetBits (v : VecState) (w : Nat) : List Nat := rangeWhere 512 fun e => !vMk w || bitOf (v.mask (vMreg w)) e

theorem mem_msetBits (v : VecState) (w e : Nat) :
    e ∈ msetBits v w ↔ e < 512 ∧ (!vMk w || bitOf (v.mask (vMreg w)) e) = true := by
  rw [msetBits, rangeWhere, List.mem_filter, List.mem_range]

/-- The engine after MSET of the bits `l`, before it goes on. -/
def msetVec (w : Nat) (c : Cls) (l : List Nat) (v : VecState) : VecState :=
  ({ v with m := tabSet 0 v.m (vVd w % 8) (l.foldl (fun m e => putBit m e (bitOf w 0)) (v.mask (vVd w % 8))) } :
    VecState).tap c w ((l.filter (· < v.vl)).map fun e => (e, bitPattern (bitOf w 0))) v.vl

theorem exec_mset_eq (k : Nat) (s : State) : exec (.mset k) s =
    vecRow 0x26 k s fun h w s => .ok (modVec s k (msetVec w (heatCls s h) (msetBits (getVec s k) w))) := by
  rfl

section
variable (w : Nat) (c : Cls) (l : List Nat) (v : VecState)

theorem msetVec_mask_same (e : Nat) :
    bitOf ((msetVec w c l v).mask (vVd w % 8)) e = if e ∈ l then bitOf w 0 else bitOf (v.mask (vVd w % 8)) e := by
  rw [msetVec, VecState.tap_eq, VecState.mask, tabGet_tabSet_same, bitOf_foldl_putBit]

theorem msetVec_mask_ne {n : Nat} (other : n ≠ vVd w % 8) : (msetVec w c l v).mask n = v.mask n := by
  rw [msetVec, VecState.tap_eq, VecState.mask, tabGet_tabSet_ne _ _ other]
  rfl

theorem msetVec_frame : msetVec w c l v = { v with m := (msetVec w c l v).m, sums := (msetVec w c l v).sums } := by
  rw [msetVec, VecState.tap_eq]

theorem msetVec_sums (untapped : vTap w = 0) : (msetVec w c l v).sums = v.sums := by
  rw [msetVec, VecState.tap_none _ _ _ _ untapped]

end

/-- A step of an engine alone changes nothing outside that engine. -/
theorem EngineStep.vecFrame {i : Instr} {s : State} {k : Nat} {v : VecState} (h : Nat) (ran : EngineStep i s k v) :
    ∃ t, exec i s = .next t ∧ VecFrame s t k h ∧ getVec t k = v := by
  obtain ⟨t, done, frame, others, own⟩ := ran
  have engine : getVec t k = v := by rw [getVec, own]
  refine ⟨t, done, ⟨?_, others, by rw [own, engine], fun i sub _ _ => ?_⟩, engine⟩
  · rw [frame]
  · rw [frame]; rfl

/-- While `vl` is 0, MSET only goes on; else it has its effect first. -/
theorem mset_engineStep {s : State} {k h pc w : Nat} (stands : s.atWord k h pc w = true) (op : vOp w = 0x26) :
    EngineStep (.mset k) s k { (if (getVec s k).vl = 0 then getVec s k
      else msetVec w (heatCls s h) (msetBits (getVec s k) w) (getVec s k)) with pc := some (pc + 1) } := by
  split
  · next idle =>
    obtain ⟨frame, after⟩ := vecNext_idle stands
    refine ⟨_, (exec_mset_eq k s).trans (vecRow_idle stands op _ idle (by decide)), ?_, frame.2.1, frame.2.2.1.trans (by rw [after])⟩
    rw [vecNext_eq stands]
    rfl
  · next acts => exact engineStep_of stands op _ _ (.inl acts) _ rfl (exec_mset_eq k s)

theorem mset_completes : MaskRow.Completes ⟨.mset, 0x26, fun _ => [],
    fun w v e => v.vl != 0 && decide (e < 512) && (!vMk w || bitOf (v.mask (vMreg w)) e), fun w _ _ _ => bitOf w 0⟩ := by
  intro s k h pc w stands op _
  obtain ⟨t, ran, frame, after⟩ := (mset_engineStep stands op).vecFrame h
  refine ⟨t, ran, frame, ?_⟩
  by_cases idle : (getVec s k).vl = 0
  · rw [if_pos idle] at after
    simp only [after, idle]
    exact ⟨fun _ => rfl, fun _ _ => rfl, trivial, fun _ => trivial⟩
  · rw [if_neg idle] at after
    rw [after]
    refine ⟨fun e => ?_, fun n other => msetVec_mask_ne w _ _ _ other, ?_, fun untapped => msetVec_sums w _ _ _ untapped⟩
    · refine (msetVec_mask_same w _ _ _ e).trans ?_
      simp [mem_msetBits, show (getCore s k).vec.vl ≠ 0 from idle]
    · rw [msetVec_frame]

/-- Settles O8: each row writes the bits of its definition, MSET those that its predicate leaves. -/
theorem vectorMaskRows : Obligations.VectorMaskRows := by
  unfold Obligations.VectorMaskRows maskRows
  simp only [List.forall_mem_cons, List.not_mem_nil, false_implies, implies_true, and_true]
  refine ⟨fcmp_completes, ?_, ?_, ?_, ?_, ?_, mset_completes⟩
  all_goals exact MaskRow.completes_of_bits _ (by decide) (fun _ _ => rfl) (fun _ _ => rfl)

end Sys2Proof.Machine
end

section
/-! SUPPORT. What one instruction of a vector engine changes, step by step: the engine, its record of writes, memory, one counter. -/

namespace Sys2Proof.Machine

/-! ## The engine of a core -/

@[simp] theorem getVec_modVec_same (s : State) (k : Nat) (f : VecState → VecState) : getVec (modVec s k f) k = f (getVec s k) := by
  rw [getVec, modVec, modCore, getCore_setCore_same]
  rfl

theorem getCore_modVec_same (s : State) (k : Nat) (f : VecState → VecState) :
    getCore (modVec s k f) k = { getCore s k with vec := f (getVec s k) } := getCore_setCore_same _ _ _

theorem getCore_modVec_ne (s : State) {k j : Nat} (other : j ≠ k) (f : VecState → VecState) :
    getCore (modVec s k f) j = getCore s j := getCore_setCore_ne _ other _

/-- An engine with the events of an instruction counted (R45, R147). -/
def VecState.count (v : VecState) (e : Ev) : VecState :=
  { v with evSat := v.evSat + e.sat, evNanb := v.evNanb + e.nanb, evFlush := v.evFlush + e.flush }

/-- An engine past an instruction: the next word, the events counted. -/
def VecState.past (v : VecState) (pc : Nat) (e : Ev) : VecState := { v.count e with pc := some (pc + 1) }

/-! ## The tap -/

section
variable (v : VecState) (c : Cls) (w : Nat) (l : List (Nat × Nat)) (n : Nat)

/-- What a tap adds depends on the summaries and the taps alone. -/
theorem VecState.tap_sums_congr {v v' : VecState} (sums : v'.sums = v.sums) (taps : v'.taps = v.taps) :
    (v'.tap c w l n).sums = (v.tap c w l n).sums := by
  simp only [VecState.tap, VecState.sum, sums, taps]
  split <;> simp [sums]

theorem VecState.tap_sums_untapped (untapped : vTap w = 0) : (v.tap c w l n).sums = v.sums := by
  rw [VecState.tap_none _ _ _ _ untapped]

end

/-! ## Frames -/

theorem StoreFrame.refl (s : State) (k h : Nat) : StoreFrame s s k h := ⟨rfl, fun _ _ => rfl, rfl, fun _ _ _ _ => rfl⟩

section
variable {s u : State} {k h : Nat}

theorem StoreFrame.modVec (f : VecState → VecState) (frame : StoreFrame s u k h) : StoreFrame s (Machine.modVec u k f) k h := by
  obtain ⟨whole, others, own, counters⟩ := frame
  refine ⟨?_, fun j other => (getCore_modVec_ne u other f).trans (others j other), ?_, counters⟩
  · exact congrArg (fun z : State => { z with cores := (Machine.modVec u k f).cores }) whole
  · rw [getVec_modVec_same, getCore_modVec_same, own]

theorem StoreFrame.addFlush (n : Nat) (frame : StoreFrame s u k h) : StoreFrame s (Machine.addFlush u h n) k h := by
  obtain ⟨whole, others, own, counters⟩ := frame
  have cores : (Machine.addFlush u h n).cores = u.cores := by rw [addFlush_eq]
  have core (j : Nat) : getCore (Machine.addFlush u h n) j = getCore u j := by rw [getCore, getCore, cores]
  refine ⟨?_, fun j other => (core j).trans (others j other), ?_, fun i sub small other => ?_⟩
  · rw [addFlush_eq]
    exact congrArg (fun z : State => { z with dict := (Machine.addFlush u h n).dict }) whole
  · rw [getVec, core]
    exact own
  · exact (dget_addFlush u h n small other).trans (counters i sub small other)

theorem StoreFrame.vecEvents (e : Ev) (frame : StoreFrame s u k h) : StoreFrame s (Machine.vecEvents u k h e) k h :=
  (frame.modVec _).addFlush _

theorem StoreFrame.putByte (a : Nat) (b : Byte) (frame : StoreFrame s u k h) : StoreFrame s (Machine.putByte u a b) k h := by
  obtain ⟨whole, others, own, counters⟩ := frame
  exact ⟨congrArg (fun z : State => { z with mem := (Machine.putByte u a b).mem }) whole, others, own, counters⟩

theorem StoreFrame.writeBytes (a : Nat) (l : List Byte) (frame : StoreFrame s u k h) : StoreFrame s (Machine.writeBytes u a l) k h := by
  induction l generalizing u a with
  | nil => exact frame
  | cons b l ih => exact ih _ (frame.putByte a b)

theorem StoreFrame.noteBufWrite (l : List (Nat × Nat)) (frame : StoreFrame s u k h) : StoreFrame s (Machine.noteBufWrite u k l) k h := by
  obtain ⟨whole, others, own, counters⟩ := frame
  unfold Machine.noteBufWrite
  split
  · exact ⟨whole, others, own, counters⟩
  · refine ⟨?_, fun j other => (getCore_setCore_ne u other _).trans (others j other), ?_, counters⟩
    · exact congrArg (fun z : State => { z with cores := (modCore u k fun c => { c with log := .bytes l :: c.log }).cores }) whole
    · rw [getVec, modCore_eq, getCore_setCore_same, own]

/-- Without a store and without a record of one, only the engine and the counter change. -/
theorem StoreFrame.vecFrame (frame : StoreFrame s u k h) (mem : u.mem = s.mem) (log : (getCore u k).log = (getCore s k).log) :
    VecFrame s u k h := by
  obtain ⟨whole, others, own, counters⟩ := frame
  refine ⟨?_, others, ?_, counters⟩
  · rwa [mem] at whole
  · rwa [log] at own

end

/-! ## What the engine's operations leave of memory and of the record -/

section
variable (s : State) (k h : Nat)

@[simp] theorem modVec_mem (f : VecState → VecState) : (modVec s k f).mem = s.mem := rfl
@[simp] theorem addFlush_mem (n : Nat) : (addFlush s h n).mem = s.mem := by rw [addFlush_eq]
@[simp] theorem addFlush_cores (n : Nat) : (addFlush s h n).cores = s.cores := by rw [addFlush_eq]
@[simp] theorem vecEvents_mem (e : Ev) : (vecEvents s k h e).mem = s.mem := by rw [vecEvents, addFlush_mem, modVec_mem]

theorem getCore_modVec_log (f : VecState → VecState) : (getCore (modVec s k f) k).log = (getCore s k).log := by
  rw [getCore_modVec_same]

theorem getCore_addFlush (n j : Nat) : getCore (addFlush s h n) j = getCore s j := by rw [getCore, getCore, addFlush_cores]

theorem getCore_vecEvents_log (e : Ev) : (getCore (vecEvents s k h e) k).log = (getCore s k).log := by
  rw [vecEvents, getCore_addFlush, getCore_modVec_log]

@[simp] theorem getVec_vecEvents (e : Ev) : getVec (vecEvents s k h e) k = (getVec s k).count e := by
  rw [vecEvents, getVec, getCore_addFlush]
  exact getVec_modVec_same s k _

theorem vecNext_mem (pc : Nat) : (vecNext s k pc).mem = s.mem := by
  unfold vecNext
  split <;> rfl

theorem getCore_vecNext_log (pc : Nat) : (getCore (vecNext s k pc) k).log = (getCore s k).log := by
  unfold vecNext vecFault
  split <;> exact getCore_modVec_log _ _ _

theorem getVec_noteBufWrite (l : List (Nat × Nat)) : getVec (noteBufWrite s k l) k = getVec s k := by
  unfold noteBufWrite
  split
  · rfl
  · rw [getVec, modCore_eq, getCore_setCore_same]
    rfl

end

/-! ## A row that has its effect -/

section
variable {s u : State} {k h pc w op : Nat} {f : Nat → Nat → State → VecRes} (stands : s.atWord k h pc w = true) (code : vOp w = op)
include stands

theorem vecNext_of_storeFrame (frame : StoreFrame s u k h) :
    vecNext u k pc = modVec u k fun v => { v with pc := some (pc + 1) } := by
  obtain ⟨-, -, -, -, -, inside, -⟩ := State.atWord_iff.1 stands
  obtain ⟨-, -, own, -⟩ := frame
  rw [vecNext, own, if_neg (by simpa using inside)]

include code

/-- A row that has its effect goes on to the next word. -/
theorem vecRow_goes {v' : VecState} {e : Ev} (acts : (getVec s k).vl ≠ 0 ∨ op = opSetvl) (ran : f h w s = .ok u)
    (frame : StoreFrame s u k h) (engine : getVec u k = v'.count e) :
    ∃ t, vecRow op k s f = .next t ∧ StoreFrame s t k h ∧ getVec t k = v'.past pc e ∧ t.mem = u.mem ∧
      (getCore t k).log = (getCore u k).log := by
  refine ⟨vecNext u k pc, by rw [vecRow_at stands code f acts, ran], ?_, ?_, vecNext_mem _ _ _, getCore_vecNext_log _ _ _⟩
  · rw [vecNext_of_storeFrame stands frame]
    exact frame.modVec _
  · rw [vecNext_of_storeFrame stands frame, getVec_modVec_same, engine]
    rfl

/-- A row that has its effect, stores nothing and goes on to the next word. -/
theorem vecRow_goes_vec {v' : VecState} {e : Ev} (acts : (getVec s k).vl ≠ 0 ∨ op = opSetvl) (ran : f h w s = .ok u)
    (frame : StoreFrame s u k h) (mem : u.mem = s.mem) (log : (getCore u k).log = (getCore s k).log)
    (engine : getVec u k = v'.count e) :
    ∃ t, vecRow op k s f = .next t ∧ VecFrame s t k h ∧ getVec t k = v'.past pc e := by
  obtain ⟨t, done, storeFrame, after, mem', log'⟩ := vecRow_goes stands code acts ran frame engine
  exact ⟨t, done, storeFrame.vecFrame (mem'.trans mem) (log'.trans log), after⟩

/-- While `vl` is 0, a row but SETVL only goes on. -/
theorem vecRow_idles (idle : (getVec s k).vl = 0) (other : op ≠ opSetvl) :
    ∃ t, vecRow op k s f = .next t ∧ VecFrame s t k h ∧ getVec t k = (getVec s k).past pc {} :=
  ⟨_, vecRow_idle stands code f idle other, vecNext_idle stands⟩

end

/-! ## Lanes and mask bits written -/

/-- What each active lane gets. -/
def laneResults (v : VecState) (c : Cls) (w : Nat) (g : VecState → Cls → Nat → Nat × Ev) : List (Nat × Nat × Ev) :=
  (v.actives w).map fun e => (e, g v c e)

/-- The register file with results written to the destination group. -/
def putLanes (v : VecState) (w : Nat) (r : List (Nat × Nat × Ev)) : Tab Nat :=
  r.foldl (fun t x => tabSet 0 t (vVd w * 64 + x.1) x.2.1) v.v

/-- The engine after results: lanes written, a copy sent to the tap. -/
def putVec (v : VecState) (c : Cls) (w : Nat) (r : List (Nat × Nat × Ev)) : VecState :=
  ({ v with v := putLanes v w r } : VecState).tap c w (r.map fun x => (x.1, x.2.1)) v.vl

/-- The events of results and of what the tap reads. -/
def putEvents (v : VecState) (c : Cls) (w : Nat) (r : List (Nat × Nat × Ev)) : Ev :=
  (evSum (r.map fun x => x.2.2)).add (v.tapFlush c w (r.map fun x => (x.1, x.2.1)) v.vl)

theorem tabGet_putLanes (v : VecState) (c : Cls) (w : Nat) (g : VecState → Cls → Nat → Nat × Ev) (i : Nat) :
    tabGet 0 (putLanes v w (laneResults v c w g)) i =
      if v.writes w i then (g v c (i - vVd w * 64)).1 else tabGet 0 v.v i := by
  rw [putLanes, laneResults, List.foldl_map, tabGet_foldl_set 0 (vVd w * 64) (v.actives w) fun e => (g v c e).1]
  simp only [VecState.mem_actives, VecState.writes, Bool.and_eq_true, decide_eq_true_eq]

theorem putVec_v (v : VecState) (c : Cls) (w : Nat) (r : List (Nat × Nat × Ev)) : (putVec v c w r).v = putLanes v w r := by
  rw [putVec, VecState.tap_eq]

theorem putVec_frame (v : VecState) (c : Cls) (w : Nat) (r : List (Nat × Nat × Ev)) :
    putVec v c w r = { v with v := (putVec v c w r).v, sums := (putVec v c w r).sums } := by rw [putVec, VecState.tap_eq]

theorem putVec_sums (v : VecState) (c : Cls) (w : Nat) (r : List (Nat × Nat × Ev)) :
    (putVec v c w r).sums = (v.tap c w (r.map fun x => (x.1, x.2.1)) v.vl).sums :=
  VecState.tap_sums_congr _ _ _ _ rfl rfl

theorem laneResults_values (v : VecState) (c : Cls) (w : Nat) (g : VecState → Cls → Nat → Nat × Ev) :
    (laneResults v c w g).map (fun x => (x.1, x.2.1)) = (v.actives w).map fun e => (e, (g v c e).1) := by
  rw [laneResults, List.map_map]
  rfl

/-- An aligned write of lanes without the packed modifier. -/
theorem vecWrite_ok {s : State} {k h w : Nat} {l : List Nat} {g : VecState → Cls → Nat → Nat × Ev}
    (fits : (getVec s k).aligned l = true) :
    let r := laneResults (getVec s k) (heatCls s h) w g
    vecWrite k false l g h w s =
      .ok (vecEvents (modVec s k fun v => putVec v (heatCls s h) w r) k h (putEvents (getVec s k) (heatCls s h) w r)) := by
  simp only [vecWrite, fits, Bool.not_true, Bool.false_eq_true, if_false]
  rfl

/-- What each active element's mask bit gets. -/
def bitResults (v : VecState) (c : Cls) (w : Nat) (g : VecState → Cls → Nat → Bool × Ev) : List (Nat × Bool × Ev) :=
  (v.actives w).map fun e => (e, g v c e)

/-- The engine after mask bits: the bits written, a copy sent to the tap. -/
def putBitsVec (v : VecState) (c : Cls) (w : Nat) (r : List (Nat × Bool × Ev)) : VecState :=
  ({ v with m := tabSet 0 v.m (vVd w % 8) (r.foldl (fun m x => putBit m x.1 x.2.1) (v.mask (vVd w % 8))) } : VecState).tap c w
    (r.map fun x => (x.1, bitPattern x.2.1)) v.vl

section
variable (v : VecState) (c : Cls) (w : Nat) (g : VecState → Cls → Nat → Bool × Ev) (r : List (Nat × Bool × Ev))

theorem putBitsVec_mask_same (e : Nat) : bitOf ((putBitsVec v c w (bitResults v c w g)).mask (vVd w % 8)) e =
    if v.active w e then (g v c e).1 else bitOf (v.mask (vVd w % 8)) e := by
  rw [putBitsVec, VecState.tap_eq, VecState.mask, tabGet_tabSet_same, bitResults, List.foldl_map, bitOf_foldl_putBit]
  simp only [VecState.mem_actives]

theorem putBitsVec_mask_ne {n : Nat} (other : n ≠ vVd w % 8) : (putBitsVec v c w r).mask n = v.mask n := by
  rw [putBitsVec, VecState.tap_eq, VecState.mask, tabGet_tabSet_ne _ _ other]
  rfl

theorem putBitsVec_frame : putBitsVec v c w r = { v with m := (putBitsVec v c w r).m, sums := (putBitsVec v c w r).sums } := by
  rw [putBitsVec, VecState.tap_eq]

theorem putBitsVec_sums : (putBitsVec v c w r).sums = (v.tap c w (r.map fun x => (x.1, bitPattern x.2.1)) v.vl).sums :=
  VecState.tap_sums_congr _ _ _ _ rfl rfl

theorem bitResults_values :
    (bitResults v c w g).map (fun x => (x.1, bitPattern x.2.1)) = (v.actives w).map fun e => (e, bitPattern (g v c e).1) := by
  rw [bitResults, List.map_map]
  rfl

end

theorem maskWrite_ok {s : State} {k h w : Nat} {l : List Nat} {g : VecState → Cls → Nat → Bool × Ev}
    (fits : (getVec s k).aligned l = true) :
    let r := bitResults (getVec s k) (heatCls s h) w g
    maskWrite k l g h w s =
      .ok (vecEvents (modVec s k fun v => putBitsVec v (heatCls s h) w r) k h (evSum (r.map fun x => x.2.2))) := by
  simp only [maskWrite, fits, Bool.not_true, Bool.false_eq_true, if_false]
  rfl

end Sys2Proof.Machine
end

section
/-! SUPPORT. The generator and the control rows of the vector engine (R142, R157, R160, R166). -/

namespace Sys2Proof.Machine

/-! ## The generator -/

theorem exec_vrng_eq (k : Nat) (s : State) : exec (.vrng k) s = vecRow 0x3A k s fun h w s =>
    advanceRng k w (vecWrite k false [vVd w] (fun v _ e => (genWord s h v w e, {})) h w s) := rfl

theorem exec_vrngu_eq (k : Nat) (s : State) : exec (.vrngu k) s = vecRow 0x3B k s fun h w s =>
    advanceRng k w (vecWrite k false [vVd w] (fun v _ e =>
      (fmtF32.encodeIeee (.ofIntE ((genWord s h v w e / 256 : Nat) : Int) (-24)), {})) h w s) := rfl

theorem exec_vrngb_eq (k : Nat) (s : State) : exec (.vrngb k) s = vecRow 0x3C k s fun h w s =>
    advanceRng k w (maskWrite k [] (fun v _ e =>
      (decide (genWord s h v w e / 256 ≥ (v.sum (vVb w % 16)).value % 2 ^ 24), {})) h w s) := rfl

/-- The engine with its generator's base moved on where the word asks for it. -/
def rngMoved (w : Nat) (v : VecState) : VecState :=
  if bitOf w 2 then { v with rngBase := (v.rngBase + v.vl) % 2 ^ 64 } else v

theorem rngMoved_frame (w : Nat) (v : VecState) : rngMoved w v = { v with rngBase := (rngMoved w v).rngBase } := by
  unfold rngMoved
  split <;> rfl

theorem rngMoved_count (w : Nat) (v : VecState) (e : Ev) : rngMoved w (v.count e) = (rngMoved w v).count e := by
  unfold rngMoved
  split <;> rfl

theorem rngMoved_rngBase (w : Nat) (v : VecState) :
    (rngMoved w v).rngBase = if bitOf w 2 then (v.rngBase + v.vl) % 2 ^ 64 else v.rngBase := by
  unfold rngMoved
  split <;> rfl

/-- The engine after a draw of the results `x` gives, before it goes on: unchanged while `vl` is 0. -/
def drawn (w : Nat) (v x : VecState) : VecState := if v.vl = 0 then v else rngMoved w x

section
variable {s : State} {k h pc w op : Nat} {f : Nat → Nat → State → VecRes} (stands : s.atWord k h pc w = true) (code : vOp w = op)
  (other : op ≠ opSetvl)
include stands code other

/-- A row that writes its core's engine and moves the generator on. -/
theorem draw_goes {x : VecState} {e : Ev} (ran : (getVec s k).vl ≠ 0 →
      f h w s = advanceRng k w (.ok (vecEvents (modVec s k fun _ => x) k h e))) :
    ∃ t e', vecRow op k s f = .next t ∧ VecFrame s t k h ∧ getVec t k = (drawn w (getVec s k) x).past pc e' := by
  by_cases idle : (getVec s k).vl = 0
  · obtain ⟨t, done, frame, after⟩ := vecRow_idles (f := f) stands code idle other
    exact ⟨t, {}, done, frame, by rw [after, drawn, if_pos idle]⟩
  · have frame := (((StoreFrame.refl s k h).modVec fun _ => x).vecEvents e).modVec (rngMoved w)
    obtain ⟨t, done, frame, after⟩ := vecRow_goes_vec (v' := rngMoved w x) (e := e) stands code (.inl idle) (ran idle) frame
      (vecEvents_mem _ _ _ _) ((getCore_modVec_log _ _ _).trans ((getCore_vecEvents_log _ _ _ _).trans (getCore_modVec_log _ _ _)))
      (by rw [getVec_modVec_same, getVec_vecEvents, getVec_modVec_same]; exact rngMoved_count w x e)
    exact ⟨t, e, done, frame, by rw [after, drawn, if_neg idle]⟩

/-- A row that draws lanes. -/
theorem drawLanes_goes {g : VecState → Cls → Nat → Nat × Ev} (fits : (getVec s k).aligned [vVd w] = true)
    (ran : f h w s = advanceRng k w (vecWrite k false [vVd w] g h w s)) :
    ∃ t e, vecRow op k s f = .next t ∧ VecFrame s t k h ∧ getVec t k =
      (drawn w (getVec s k)
        (putVec (getVec s k) (heatCls s h) w (laneResults (getVec s k) (heatCls s h) w g))).past pc e :=
  draw_goes stands code other fun _ => by rw [ran, vecWrite_ok fits]; rfl

/-- A row that draws mask bits. -/
theorem drawBits_goes {g : VecState → Cls → Nat → Bool × Ev} (ran : f h w s = advanceRng k w (maskWrite k [] g h w s)) :
    ∃ t e, vecRow op k s f = .next t ∧ VecFrame s t k h ∧ getVec t k =
      (drawn w (getVec s k)
        (putBitsVec (getVec s k) (heatCls s h) w (bitResults (getVec s k) (heatCls s h) w g))).past pc e :=
  draw_goes stands code other fun _ => by rw [ran, maskWrite_ok rfl]; rfl

end

section
variable (w : Nat) (v : VecState) (c : Cls) (g : VecState → Cls → Nat → Nat × Ev) (b : VecState → Cls → Nat → Bool × Ev)

/-- A draw moves the generator's base by `vl` where the word asks for it. -/
theorem drawn_rngBase {x : VecState} (base : x.rngBase = v.rngBase) (vl : x.vl = v.vl) :
    (drawn w v x).rngBase = if bitOf w 2 && v.vl != 0 then (v.rngBase + v.vl) % 2 ^ 64 else v.rngBase := by
  by_cases idle : v.vl = 0 <;> simp [drawn, idle, rngMoved_rngBase, base, vl]

/-- A draw changes lanes, mask bits, summaries and the generator's base. -/
theorem drawn_frame {x : VecState} (frame : x = { v with v := x.v, m := x.m, sums := x.sums }) :
    drawn w v x = { v with
      v := (drawn w v x).v, m := (drawn w v x).m, sums := (drawn w v x).sums, rngBase := (drawn w v x).rngBase } := by
  unfold drawn
  split
  · rfl
  · rw [rngMoved_frame, frame]

theorem drawn_lane (i : Nat) : tabGet 0 (drawn w v (putVec v c w (laneResults v c w g))).v i =
    if v.writes w i then (g v c (i - vVd w * 64)).1 else tabGet 0 v.v i := by
  by_cases idle : v.vl = 0
  · rw [drawn, if_pos idle, VecState.writes, VecState.not_active _ idle, Bool.and_false, if_neg Bool.false_ne_true]
  · rw [drawn, if_neg idle, rngMoved_frame, putVec_v, tabGet_putLanes]

theorem drawn_mask_same (e : Nat) : bitOf ((drawn w v (putBitsVec v c w (bitResults v c w b))).mask (vVd w % 8)) e =
    if v.active w e then (b v c e).1 else bitOf (v.mask (vVd w % 8)) e := by
  by_cases idle : v.vl = 0
  · rw [drawn, if_pos idle, VecState.not_active _ idle, if_neg Bool.false_ne_true]
  · rw [drawn, if_neg idle, rngMoved_frame]
    exact putBitsVec_mask_same v c w b e

theorem drawn_mask_ne {r : List (Nat × Bool × Ev)} {n : Nat} (other : n ≠ vVd w % 8) :
    (drawn w v (putBitsVec v c w r)).mask n = v.mask n := by
  unfold drawn
  split
  · rfl
  · rw [rngMoved_frame]
    exact putBitsVec_mask_ne v c w r other

theorem drawn_sums_untapped {x : VecState} (sums : x.sums = v.sums) : (drawn w v x).sums = v.sums := by
  unfold drawn
  split
  · rfl
  · rw [rngMoved_frame, sums]

end

/-- An engine that a draw has changed has moved on, its lanes, masks and generator apart. -/
theorem engineMoves_past {v x : VecState} (pc : Nat) {w : Nat} (e : Ev)
    (frame : x = { v with v := x.v, m := x.m, sums := x.sums, rngBase := x.rngBase })
    (untapped : vTap w = 0 → x.sums = v.sums) :
    EngineMoves v { x.past pc e with m := v.m, v := v.v, rngBase := v.rngBase } pc w := by
  refine ⟨?_, untapped⟩
  rw [frame]
  rfl

/-! ## The control rows -/

section
variable {s : State} {k h pc w op : Nat} {i : Instr} {f : Nat → Nat → State → VecRes} (stands : s.atWord k h pc w = true)
  (code : vOp w = op) (row : exec i s = vecRow op k s f)
include stands code row

/-- A row that issues and changes nothing only goes on. -/
theorem engineStep_of_unchanged (acts : (getVec s k).vl ≠ 0 ∨ op = opSetvl) (same : f h w s = .ok s) :
    EngineStep i s k { getVec s k with pc := some (pc + 1) } := by
  refine ⟨vecNext s k pc, by rw [row, vecRow_at stands code f acts, same], ?_⟩
  rw [vecNext_eq stands]
  exact ⟨rfl, fun j other => getCore_modVec_ne s other _, getCore_modVec_same s k _⟩

/-- While `vl` is 0, a row but SETVL only goes on (R143). -/
theorem engineStep_of_idle (idle : (getVec s k).vl = 0) (other : op ≠ opSetvl) :
    EngineStep i s k { getVec s k with pc := some (pc + 1) } := by
  refine ⟨vecNext s k pc, by rw [row, vecRow_idle stands code f idle other], ?_⟩
  rw [vecNext_eq stands]
  exact ⟨rfl, fun j other => getCore_modVec_ne s other _, getCore_modVec_same s k _⟩

end

/-- What VTOS comes to (R160). -/
def vtosRow (k w : Nat) (s : State) : VecRes :=
  if !(getVec s k).aligned [vVa w] then .fault s 1
  else if !(getVec s k).active w 0 then .ok s
  else .ok (modVec s k fun v => { v with sums := tabSet {} v.sums (vVd w % 16) (Summary.const (v.lane (vVa w) 0)) })

theorem exec_vtos_eq (k : Nat) (s : State) : exec (.vtos k) s = vecRow 0x29 k s fun _ w s => vtosRow k w s := rfl

section
variable {s : State} {k h pc w : Nat} (stands : s.atWord k h pc w = true) (op : vOp w = 0x29)
  (fits : (getVec s k).aligned [vVa w] = true)
include stands op fits

theorem vtos_engineStep_of_active (active : (getVec s k).active w 0 = true) :
    EngineStep (.vtos k) s k { getVec s k with
      pc := some (pc + 1)
      sums := tabSet {} (getVec s k).sums (vVd w % 16) (Summary.const ((getVec s k).lane (vVa w) 0)) } := by
  refine engineStep_of stands op _ (fun v => { v with
    sums := tabSet {} v.sums (vVd w % 16) (Summary.const (v.lane (vVa w) 0)) })
    (.inl (Nat.ne_of_gt (Nat.zero_lt_of_lt (VecState.active_lt active)))) _ ?_ (exec_vtos_eq k s)
  simp only [vtosRow, fits, active, Bool.not_true, Bool.false_eq_true, if_false]

theorem vtos_engineStep_of_inactive (inactive : (getVec s k).active w 0 = false) :
    EngineStep (.vtos k) s k { getVec s k with pc := some (pc + 1) } := by
  by_cases idle : (getVec s k).vl = 0
  · exact engineStep_of_idle stands op (exec_vtos_eq k s) idle (by decide)
  · refine engineStep_of_unchanged stands op (exec_vtos_eq k s) (.inl idle) ?_
    simp only [vtosRow, fits, inactive, Bool.not_true, Bool.not_false, Bool.false_eq_true, if_true, if_false]

end

section
variable {s : State} {k h pc w : Nat} (stands : s.atWord k h pc w = true)
include stands

theorem setvl_engineStep (op : vOp w = 0x36) : EngineStep (.setvl k) s k { getVec s k with
    pc := some (pc + 1), grp := vMod w % 4, vl := min (getVec s k).avl (64 * 2 ^ (vMod w % 4))
    avl := (getVec s k).avl - min (getVec s k).avl (64 * 2 ^ (vMod w % 4)) } :=
  engineStep_of stands op _ (fun v => { v with
    grp := vMod w % 4, vl := min v.avl (64 * 2 ^ (vMod w % 4)), avl := v.avl - min v.avl (64 * 2 ^ (vMod w % 4)) })
    (.inr rfl) (fun _ w s => .ok (modVec s k fun v => { v with
      grp := vMod w % 4, vl := min v.avl (64 * 2 ^ (vMod w % 4)), avl := v.avl - min v.avl (64 * 2 ^ (vMod w % 4)) })) rfl rfl

theorem rclr_engineStep (op : vOp w = 0x37) (acts : (getVec s k).vl ≠ 0) : EngineStep (.rclr k) s k { getVec s k with
    pc := some (pc + 1), sums := tabSet {} (getVec s k).sums (vVb w % 16) (Summary.clear (vVa w % 8)) } :=
  engineStep_of stands op _ (fun v => { v with sums := tabSet {} v.sums (vVb w % 16) (Summary.clear (vVa w % 8)) })
    (.inl acts) (fun _ w s => .ok (modVec s k fun v => { v with
      sums := tabSet {} v.sums (vVb w % 16) (Summary.clear (vVa w % 8)) })) rfl rfl

theorem rtap_engineStep (op : vOp w = 0x38) (acts : (getVec s k).vl ≠ 0) : EngineStep (.rtap k) s k { getVec s k with
    pc := some (pc + 1), taps := tabSet 0 (getVec s k).taps (vVd w % 8) (vVb w % 16 + 1) } :=
  engineStep_of stands op _ (fun v => { v with taps := tabSet 0 v.taps (vVd w % 8) (vVb w % 16 + 1) })
    (.inl acts) (fun _ w s => .ok (modVec s k fun v => { v with
      taps := tabSet 0 v.taps (vVd w % 8) (vVb w % 16 + 1) })) rfl rfl

end

/-- END leaves the engine without a block (R136). -/
theorem vend_engineStep {s : State} {k pc : Nat} (runs : (getVec s k).pc = some pc) (free : (getVec s k).condemned = false)
    (ends : tabGet 0 (getCore s k).prog pc = vEnd) : EngineStep (.vend k) s k { getVec s k with pc := none } := by
  refine modVec_step _ s k (fun v => { v with pc := none }) ?_
  have row : exec (.vend k) s = execVend k s := rfl
  rw [row]
  simp only [execVend, runs, ends, free]
  rfl

/-! ## The statement -/

section
variable {s : State} {k h pc w : Nat} (stands : s.atWord k h pc w = true)
include stands

/-- A row that draws lanes moves the engine on, its generator's base by the word, and leaves the masks (R166). -/
theorem drawLanes_onward {op : Nat} {i : Instr} {f : Nat → Nat → State → VecRes} (g : VecState → Cls → Nat → Nat × Ev)
    (code : vOp w = op) (other : op ≠ opSetvl) (fits : (getVec s k).aligned [vVd w] = true) (row : exec i s = vecRow op k s f)
    (draws : f h w s = advanceRng k w (vecWrite k false [vVd w] g h w s)) :
    let v := getVec s k
    ∃ t, exec i s = .next t ∧
      (VecFrame s t k h ∧ EngineMoves v { getVec t k with m := v.m, v := v.v, rngBase := v.rngBase } pc w ∧
        (getVec t k).rngBase = if bitOf w 2 && v.vl != 0 then (v.rngBase + v.vl) % 2 ^ 64 else v.rngBase) ∧ (getVec t k).m = v.m ∧
      ∀ i, tabGet 0 (getVec t k).v i =
        if v.writes w i then (g v (heatCls s h) (i - vVd w * 64)).1 else tabGet 0 v.v i := by
  intro v
  obtain ⟨t, e, ran, frame, after⟩ := drawLanes_goes stands code other fits draws
  have put := putVec_frame v (heatCls s h) w (laneResults v (heatCls s h) w g)
  refine ⟨t, row.trans ran, ⟨frame, ?_, ?_⟩, ?_, fun i => ?_⟩
  · rw [after]
    exact engineMoves_past pc e (drawn_frame w v (by rw [put])) fun untapped =>
      drawn_sums_untapped w v ((putVec_sums _ _ _ _).trans (VecState.tap_sums_untapped _ _ _ _ _ untapped))
  · rw [after]
    exact drawn_rngBase w v (by rw [put]) (by rw [put])
  · rw [after]
    change (drawn w v _).m = _
    rw [drawn]
    split
    · rfl
    · rw [rngMoved_frame, put]
  · rw [after]
    exact drawn_lane w v _ g i

/-- VRNGB moves the engine on as the other draws do, and writes mask bits (R166). -/
theorem vrngb_onward (code : vOp w = 0x3C) :
    let v := getVec s k
    ∃ t, exec (.vrngb k) s = .next t ∧
      (VecFrame s t k h ∧ EngineMoves v { getVec t k with m := v.m, v := v.v, rngBase := v.rngBase } pc w ∧
        (getVec t k).rngBase = if bitOf w 2 && v.vl != 0 then (v.rngBase + v.vl) % 2 ^ 64 else v.rngBase) ∧ (getVec t k).v = v.v ∧
      (∀ n, n ≠ vVd w % 8 → (getVec t k).mask n = v.mask n) ∧
      ∀ e, bitOf ((getVec t k).mask (vVd w % 8)) e =
        if v.active w e then decide (genWord s h v w e / 256 ≥ (v.sum (vVb w % 16)).value % 2 ^ 24)
        else bitOf (v.mask (vVd w % 8)) e := by
  intro v
  obtain ⟨t, e, ran, frame, after⟩ := drawBits_goes stands code (by decide)
    (f := fun h w s => advanceRng k w (maskWrite k [] (fun v _ e =>
      (decide (genWord s h v w e / 256 ≥ (v.sum (vVb w % 16)).value % 2 ^ 24), {})) h w s)) rfl
  have put (r : List (Nat × Bool × Ev)) := putBitsVec_frame v (heatCls s h) w r
  refine ⟨t, (exec_vrngb_eq k s).trans ran, ⟨frame, ?_, ?_⟩, ?_, fun n other => ?_, fun e => ?_⟩
  · rw [after]
    exact engineMoves_past pc e (drawn_frame w v (by rw [put])) fun untapped =>
      drawn_sums_untapped w v ((putBitsVec_sums _ _ _ _).trans (VecState.tap_sums_untapped _ _ _ _ _ untapped))
  · rw [after]
    exact drawn_rngBase w v (by rw [put]) (by rw [put])
  · rw [after]
    change (drawn w v _).v = _
    rw [drawn]
    split
    · rfl
    · rw [rngMoved_frame, put]
  · rw [after]
    exact drawn_mask_ne w v _ other
  · rw [after]
    exact drawn_mask_same w v _ _ e

end

/-- Settles O9: a draw writes lanes or mask bits and moves the generator; every other row changes its one register and goes on. -/
theorem vectorControlRows : Obligations.VectorControlRows := by
  unfold Obligations.VectorControlRows
  refine ⟨fun s k h pc w stands => ⟨fun op fits => ?_, fun op fits => ?_, fun op => vrngb_onward stands op⟩,
    fun s k h pc w => ⟨fun stands => ⟨fun op => ?_, fun op => ?_, fun op => ?_, setvl_engineStep stands, rclr_engineStep stands,
      rtap_engineStep stands, fun op fits => ⟨vtos_engineStep_of_active stands op fits, vtos_engineStep_of_inactive stands op fits⟩⟩,
      fun runs free ends => vend_engineStep runs free ends⟩⟩
  · exact drawLanes_onward stands (fun v _ e => (genWord s h v w e, {})) op (by decide) fits (exec_vrng_eq k s) rfl
  · exact drawLanes_onward stands (fun v _ e =>
      (fmtF32.encodeIeee (.ofIntE ((genWord s h v w e / 256 : Nat) : Int) (-24)), {})) op (by decide) fits (exec_vrngu_eq k s) rfl
  · exact engineStep_id stands op _ rfl (by decide)
  · exact engineStep_id stands op _ rfl (by decide)
  · exact engineStep_id stands op _ rfl (by decide)

end Sys2Proof.Machine
end

section
/-! SUPPORT. The rows that write lanes (R144 to R148): each is one write of lanes, the integer rows as words modulo 2^32. -/

namespace Sys2Proof.Machine

/-! ## Integer rows -/

section
variable (a b : BitVec 32)

theorem toNat_mod_two_pow : a.toNat % 2 ^ 32 = a.toNat := Nat.mod_eq_of_lt a.isLt

theorem sext_toNat : sext 32 a.toNat = a.toInt := by
  rw [sext, BitVec.toInt]
  split <;> split <;> omega

theorem iadd_toNat : (a.toNat + b.toNat) % 2 ^ 32 = (a + b).toNat := (BitVec.toNat_add a b).symm

theorem isub_toNat : (a.toNat + 2 ^ 32 - b.toNat) % 2 ^ 32 = (a - b).toNat := by
  rw [BitVec.toNat_sub]
  congr 1
  omega

theorem imax_toNat (u : Bool) : imaxW u a.toNat b.toNat % 2 ^ 32 =
    (if u then (if a.ult b then b else a) else (if a.slt b then b else a)).toNat := by
  cases u
  · simp only [imaxW, sext_toNat, BitVec.slt, Bool.false_eq_true, if_false, decide_eq_true_eq]
    split <;> exact toNat_mod_two_pow _
  · simp only [imaxW, BitVec.ult, if_true, decide_eq_true_eq]
    split <;> [rw [max_eq_right (by omega)]; rw [max_eq_left (by omega)]] <;> exact toNat_mod_two_pow _

theorem imin_toNat (u : Bool) : iminW u a.toNat b.toNat % 2 ^ 32 =
    (if u then (if b.ult a then b else a) else (if b.slt a then b else a)).toNat := by
  cases u
  · simp only [iminW, sext_toNat, BitVec.slt, Bool.false_eq_true, if_false, decide_eq_true_eq]
    split <;> exact toNat_mod_two_pow _
  · simp only [iminW, BitVec.ult, if_true, decide_eq_true_eq]
    split <;> [rw [min_eq_right (by omega)]; rw [min_eq_left (by omega)]] <;> exact toNat_mod_two_pow _

theorem and_toNat : (a.toNat &&& b.toNat) % 2 ^ 32 = (a &&& b).toNat := by
  rw [← BitVec.toNat_and, toNat_mod_two_pow]

theorem or_toNat : (a.toNat ||| b.toNat) % 2 ^ 32 = (a ||| b).toNat := by
  rw [← BitVec.toNat_or, toNat_mod_two_pow]

theorem xor_toNat : (a.toNat ^^^ b.toNat) % 2 ^ 32 = (a ^^^ b).toNat := by
  rw [← BitVec.toNat_xor, toNat_mod_two_pow]

theorem andn_toNat : (a.toNat &&& (b.toNat ^^^ (2 ^ 32 - 1))) % 2 ^ 32 = (a &&& ~~~b).toNat := by
  have flip : b.toNat ^^^ (2 ^ 32 - 1) = (~~~b).toNat := by
    rw [← BitVec.xor_allOnes, BitVec.toNat_xor, BitVec.toNat_allOnes]
  rw [flip, and_toNat]

theorem shl_toNat : (a.toNat <<< (b.toNat % 32)) % 2 ^ 32 = (a <<< (b.toNat % 32)).toNat := by
  rw [BitVec.toNat_shiftLeft]

theorem shr_toNat (r : Bool) : shrW r a.toNat (b.toNat % 32) % 2 ^ 32 =
    (if r then a.sshiftRight (b.toNat % 32) else a >>> (b.toNat % 32)).toNat := by
  cases r
  · simp only [shrW, Bool.false_eq_true, if_false]
    rw [← BitVec.toNat_ushiftRight, toNat_mod_two_pow]
  · have shifted : wrapInt 32 (a.toInt / ((2 ^ (b.toNat % 32) : Nat) : Int)) = (a.sshiftRight (b.toNat % 32)).toNat := by
      rw [wrapInt, ← BitVec.toNat_ofInt, ← Int.shiftRight_eq_div_pow]
      rfl
    simp only [shrW, sext_toNat, if_true, shifted]
    exact toNat_mod_two_pow _

end

/-! ## Rows that write lanes -/

/-- A row of lanes that issues one write: its lanes are the values written. -/
def LaneRow.WritesLanes (r : LaneRow) : Prop :=
  r.op ≠ opSetvl ∧ ∃ (packed : Nat → Bool) (g : Nat → VecState → Cls → Nat → Nat × Ev),
    (∀ k s, exec (r.row k) s = vecRow r.op k s fun h w s => vecWrite k (packed w) (r.regs w) (g w) h w s) ∧
      ∀ w v c i, r.lane w v c i = (g w v c i).1

theorem LaneRow.WritesLanes.completes {r : LaneRow} (writes : r.WritesLanes) : r.Completes := by
  obtain ⟨other, packed, g, row, lane⟩ := writes
  exact r.completes_of other packed g row lane

/-- An integer row writes what its operation on words gives. -/
theorem intRow_writesLanes {row : Nat → Instr} {op : Nat} {g : Bool → BitVec 32 → BitVec 32 → BitVec 32}
    (n : Nat → Nat → Nat → Nat) (other : op ≠ opSetvl) (runs : ∀ k s, exec (row k) s = execInt op k n s)
    (value : ∀ w (a b : BitVec 32), n w a.toNat b.toNat % 2 ^ 32 = (g (bitOf w 0) a b).toNat) :
    (intRow row op g).WritesLanes :=
  ⟨other, fun _ => false, fun w => intTwo (n w) w, runs, fun w v _ e => by
    have word := value w (v.w32 (vVa w) e) (v.b32 w e)
    rw [VecState.w32, VecState.b32, BitVec.toNat_ofNat, BitVec.toNat_ofNat] at word
    exact word.symm⟩

theorem intRows_writeLanes : ∀ r ∈ intRows, r.WritesLanes := by
  simp only [intRows, List.forall_mem_cons, List.not_mem_nil, false_implies, implies_true, and_true]
  exact ⟨intRow_writesLanes (fun _ a b => a + b) (by decide) (fun _ _ => rfl) fun _ => iadd_toNat,
    intRow_writesLanes (fun _ a b => a + 2 ^ 32 - b) (by decide) (fun _ _ => rfl) fun _ => isub_toNat,
    intRow_writesLanes (fun _ a b => a * b) (by decide) (fun _ _ => rfl) fun _ a b => (BitVec.toNat_mul a b).symm,
    intRow_writesLanes (fun w a b => imaxW (bitOf w 0) a b) (by decide) (fun _ _ => rfl) fun w a b => imax_toNat a b (bitOf w 0),
    intRow_writesLanes (fun w a b => iminW (bitOf w 0) a b) (by decide) (fun _ _ => rfl) fun w a b => imin_toNat a b (bitOf w 0),
    intRow_writesLanes (fun _ a b => a &&& b) (by decide) (fun _ _ => rfl) fun _ => and_toNat,
    intRow_writesLanes (fun _ a b => a ||| b) (by decide) (fun _ _ => rfl) fun _ => or_toNat,
    intRow_writesLanes (fun _ a b => a ^^^ b) (by decide) (fun _ _ => rfl) fun _ => xor_toNat,
    intRow_writesLanes (fun _ a b => a &&& (b ^^^ (2 ^ 32 - 1))) (by decide) (fun _ _ => rfl) fun _ => andn_toNat,
    intRow_writesLanes (fun _ a b => a <<< (b % 32)) (by decide) (fun _ _ => rfl) fun _ => shl_toNat,
    intRow_writesLanes (fun w a b => shrW (bitOf w 0) a (b % 32)) (by decide) (fun _ _ => rfl) fun w a b => shr_toNat a b (bitOf w 0)⟩

theorem floatRows_writeLanes : ∀ r ∈ floatRows, r.WritesLanes := by
  simp only [floatRows, List.forall_mem_cons, List.not_mem_nil, false_implies, implies_true, and_true]
  exact ⟨⟨by decide, vPacked, fun w => floatTwo fvAdd w, fun _ _ => rfl, fun _ _ _ _ => rfl⟩,
    ⟨by decide, vPacked, fun w => floatTwo fvSub w, fun _ _ => rfl, fun _ _ _ _ => rfl⟩,
    ⟨by decide, vPacked, fun w => floatTwo fvMul w, fun _ _ => rfl, fun _ _ _ _ => rfl⟩,
    ⟨by decide, vPacked, fun w => floatThree (fun a b d => fvAdd (fvMul a b) d) w, fun _ _ => rfl, fun _ _ _ _ => rfl⟩,
    ⟨by decide, vPacked, fun w => floatThree (fun a b d => fvSub (fvMul a b) d) w, fun _ _ => rfl, fun _ _ _ _ => rfl⟩,
    ⟨by decide, vPacked, fun w => floatThree (fun a b d => fvAdd d (fvMul a b).neg) w, fun _ _ => rfl, fun _ _ _ _ => rfl⟩,
    ⟨by decide, vPacked, fun w => floatTwo vMax w, fun _ _ => rfl, fun _ _ _ _ => rfl⟩,
    ⟨by decide, vPacked, fun w => floatTwo vMin w, fun _ _ => rfl, fun _ _ _ _ => rfl⟩,
    ⟨by decide, vPacked, fun w => floatOne (vPacked w) FV.abs w, fun _ _ => rfl, fun _ _ _ _ => rfl⟩,
    ⟨by decide, vPacked, fun w => floatOne (vPacked w) FV.neg w, fun _ _ => rfl, fun _ _ _ _ => rfl⟩,
    ⟨by decide, vPacked, fun w => signCopy w, fun _ _ => rfl, fun _ _ _ _ => rfl⟩,
    ⟨by decide, fun _ => false, fun w => floatOne false vRnd w, fun _ _ => rfl, fun _ _ _ _ => rfl⟩,
    ⟨by decide, fun _ => false, fun w v c e => vop1 fmtF32 c (vScale (sext 32 (v.second w e))) (v.lane (vVa w) e), fun _ _ => rfl,
        fun _ _ _ _ => rfl⟩,
    ⟨by decide, fun _ => false, fun w => approxOne vRcp w, fun _ _ => rfl, fun _ _ _ _ => rfl⟩,
    ⟨by decide, fun _ => false, fun w => approxOne vRsqrt w, fun _ _ => rfl, fun _ _ _ _ => rfl⟩,
    ⟨by decide, fun _ => false, fun w => approxOne vExp2 w, fun _ _ => rfl, fun _ _ _ _ => rfl⟩,
    ⟨by decide, fun _ => false, fun w => approxOne vLog2 w, fun _ _ => rfl, fun _ _ _ _ => rfl⟩,
    ⟨by decide, fun _ => false, fun w => approxOne vTanh w, fun _ _ => rfl, fun _ _ _ _ => rfl⟩,
    ⟨by decide, fun _ => false, fun w => floatOne false fvSqrt w, fun _ _ => rfl, fun _ _ _ _ => rfl⟩⟩

/-- CVTH gives one of two conversions, and the lane is the pattern of the one given. -/
def cvthLane (w : Nat) (v : VecState) (c : Cls) (e : Nat) : Nat × Ev :=
  if bitOf w 0 then vconv fmtF16 fmtF32 c (v.lane (vVa w) e % 65536) else vconv fmtF32 fmtF16 c (v.lane (vVa w) e)

theorem moveRows_writeLanes : ∀ r ∈ moveRows, r.WritesLanes := by
  simp only [moveRows, List.forall_mem_cons, List.not_mem_nil, false_implies, implies_true, and_true]
  exact ⟨⟨by decide, fun _ => false, fun w v _ e => (if bitOf (v.mask (vMod w)) e then v.lane (vVa w) e else v.second w e, {}),
      fun _ _ => rfl, fun _ _ _ _ => rfl⟩,
    ⟨by decide, fun _ => false, fun w v _ e => (v.second w e, {}), fun _ _ => rfl, fun _ _ _ _ => rfl⟩,
    ⟨by decide, fun _ => false, fun _ _ _ e => (e, {}), fun _ _ => rfl, fun _ _ _ _ => rfl⟩,
    ⟨by decide, fun _ => false, fun w v _ e => (vFromInt (bitOf w 0) (v.lane (vVa w) e), {}), fun _ _ => rfl, fun _ _ _ _ => rfl⟩,
    ⟨by decide, fun _ => false, fun w v c e => vToInt (bitOf w 0) c (v.lane (vVa w) e), fun _ _ => rfl, fun _ _ _ _ => rfl⟩,
    ⟨by decide, fun _ => false, fun w v c e => ((vconv fmtF32 fmtBF16 c (v.second w e)).1 * 65536 + (vconv fmtF32 fmtBF16 c (v.lane (vVa w) e)).1,
      (vconv fmtF32 fmtBF16 c (v.lane (vVa w) e)).2.add (vconv fmtF32 fmtBF16 c (v.second w e)).2), fun _ _ => rfl, fun _ _ _ _ => rfl⟩,
    ⟨by decide, fun _ => false, fun w v c e => vconv fmtBF16 fmtF32 c (halfOf (v.lane (vVa w) e) (bitOf w 0)), fun _ _ => rfl,
        fun _ _ _ _ => rfl⟩,
    ⟨by decide, fun _ => false, cvthLane, fun _ _ => rfl, fun _ _ _ _ => (apply_ite Prod.fst _ _ _).symm⟩⟩

theorem laneRows_writeLanes : ∀ r ∈ floatRows ++ intRows ++ moveRows, r.WritesLanes := by
  simp only [List.mem_append]
  rintro r ((float | int) | move)
  exacts [floatRows_writeLanes r float, intRows_writeLanes r int, moveRows_writeLanes r move]

end Sys2Proof.Machine
end

section
/-! SUPPORT. Where a vector block goes on without effect, faults, or runs off program memory (R143, R163, R170). -/

namespace Sys2Proof.Machine

/-! ## Every row is an instruction at the running block's word -/

/-- A row of a core that runs what stands at the core's word where that has the row's opcode. -/
def IsVectorRow (k : Nat) (op : Nat) (i : Instr) : Prop := op ≠ opSetvl ∧ ∀ s, ∃ f, exec i s = vecRow op k s f

theorem LaneRow.WritesLanes.isVectorRow {r : LaneRow} (writes : r.WritesLanes) (k : Nat) : IsVectorRow k r.op (r.row k) := by
  obtain ⟨other, packed, g, row, -⟩ := writes
  exact ⟨other, fun s => ⟨_, row k s⟩⟩

theorem maskRows_isVectorRow (k : Nat) : ∀ r ∈ maskRows, IsVectorRow k r.op (r.row k) := by
  simp only [maskRows, List.forall_mem_cons, List.not_mem_nil, false_implies, implies_true, and_true]
  exact ⟨⟨by decide, fun s => ⟨_, (rfl : execFcmp k s = _)⟩⟩,
    ⟨by decide, fun s => ⟨_, (rfl : execIcmp k s = _)⟩⟩,
    ⟨by decide, fun s => ⟨_, (rfl : execMand k s = _)⟩⟩,
    ⟨by decide, fun s => ⟨_, (rfl : execMor k s = _)⟩⟩,
    ⟨by decide, fun s => ⟨_, (rfl : execMxor k s = _)⟩⟩,
    ⟨by decide, fun s => ⟨_, (rfl : execMnot k s = _)⟩⟩,
    ⟨by decide, fun s => ⟨_, (rfl : execMset k s = _)⟩⟩⟩

/-- What VLD comes to without errors (R148, R151). -/
def vldRow (k h w : Nat) (s : State) : VecRes :=
  let v := getVec s k
  let r := vVa w % 8
  let a := tabGet 0 v.a r
  let n := memWidth (vMod w)
  if !v.aligned [vVd w] then .fault s 1
  else match accessFault s h a n ((v.actives w).map (elemOff a)) with
    | some c => .fault s c
    | none =>
      match vecWrite k false [vVd w] (fun _ c e => widen (vMod w) c (readNat s (cbAddr k (elemOff a e).toNat) n)) h w s with
      | .ok s => .ok (modVec s k fun v => advance v r (v.vl * addrStride a))
      | x => x

theorem exec_vld_eq (k : Nat) (s : State) : exec (.vld ⟨k, none⟩) s = vecRow 0x32 k s (vldRow k) := rfl

/-- What VST comes to without errors (R148, R151). -/
def vstRow (k h w : Nat) (s : State) : VecRes :=
  let v := getVec s k
  let c := heatCls s h
  let r := vVd w % 8
  let a := tabGet 0 v.a r
  let n := memWidth (vMod w)
  if !v.aligned [vVa w] then .fault s 1
  else match accessFault s h a n ((v.actives w).map (elemOff a)) with
    | some x => .fault s x
    | none =>
      let l := (v.actives w).map fun e => (e, narrow (vMod w) c (v.lane (vVa w) e))
      let s := l.foldl (fun s x => writeNat s (cbAddr k (elemOff a x.1).toNat) n x.2.1) s
      let s := noteBufWrite s k (l.map fun x => ((elemOff a x.1).toNat, n))
      let tl := l.map fun x => (x.1, x.2.2.2)
      let s := modVec s k fun v => (advance v r (v.vl * addrStride a)).tap c w tl v.vl
      .ok (vecEvents s k h ((evSum (l.map fun x => x.2.2.1)).add (v.tapFlush c w tl v.vl)))

theorem exec_vst_eq (k : Nat) (s : State) : exec (.vst ⟨k, none⟩) s = vecRow 0x33 k s (vstRow k) := rfl

/-- The rows that neither write lanes nor masks by one operation: loads, stores, draws and control. -/
def otherRows (k : Nat) : List (Nat × Instr) :=
  [(0x00, .vectorNop k), (0x29, .vtos k), (0x32, .vld ⟨k, none⟩), (0x33, .vst ⟨k, none⟩), (0x34, .vldm k), (0x35, .vstm k), (0x37, .rclr k),
   (0x38, .rtap k), (0x39, .rwait k), (0x3A, .vrng k), (0x3B, .vrngu k), (0x3C, .vrngb k), (0x3D, .vqh k), (0x3E, .fence k)]

theorem otherRows_isVectorRow (k : Nat) : ∀ r ∈ otherRows k, IsVectorRow k r.1 r.2 := by
  simp only [otherRows, List.forall_mem_cons, List.not_mem_nil, false_implies, implies_true, and_true]
  exact ⟨⟨by decide, fun s => ⟨_, (rfl : execVectorNop k s = _)⟩⟩,
    ⟨by decide, fun s => ⟨_, (rfl : execVtos k s = _)⟩⟩,
    ⟨by decide, fun s => ⟨_, exec_vld_eq k s⟩⟩,
    ⟨by decide, fun s => ⟨_, exec_vst_eq k s⟩⟩,
    ⟨by decide, fun s => ⟨_, (rfl : execVldm k s = _)⟩⟩,
    ⟨by decide, fun s => ⟨_, (rfl : execVstm k s = _)⟩⟩,
    ⟨by decide, fun s => ⟨_, (rfl : execRclr k s = _)⟩⟩,
    ⟨by decide, fun s => ⟨_, (rfl : execRtap k s = _)⟩⟩,
    ⟨by decide, fun s => ⟨_, (rfl : execRwait k s = _)⟩⟩,
    ⟨by decide, fun s => ⟨_, (rfl : execVrng k s = _)⟩⟩,
    ⟨by decide, fun s => ⟨_, (rfl : execVrngu k s = _)⟩⟩,
    ⟨by decide, fun s => ⟨_, (rfl : execVrngb k s = _)⟩⟩,
    ⟨by decide, fun s => ⟨_, (rfl : execVqh k s = _)⟩⟩,
    ⟨by decide, fun s => ⟨_, (rfl : execFence k s = _)⟩⟩⟩

theorem vectorRows_isVectorRow (k : Nat) : ∀ r ∈ vectorRows k, IsVectorRow k r.1 r.2 := by
  have parts : vectorRows k = (floatRows ++ intRows ++ moveRows).map (fun r => (r.op, r.row k)) ++
      maskRows.map (fun r => (r.op, r.row k)) ++ otherRows k := rfl
  simp only [parts, List.mem_append (t := otherRows k), List.mem_append (t := maskRows.map _), List.mem_map]
  rintro r ((⟨x, lanes, rfl⟩ | ⟨x, mask, rfl⟩) | other)
  · exact (laneRows_writeLanes x lanes).isVectorRow k
  · exact maskRows_isVectorRow k x mask
  · exact otherRows_isVectorRow k r other

/-! ## Faults -/

theorem vecFault_step {i : Instr} {s : State} {k c n : Nat} (ran : exec i s = .next (vecFault s k c n)) :
    EngineStep i s k { getVec s k with pc := none, blocks := [], busy := false, fault := some (c, n) } :=
  modVec_step i s k _ ran

/-- A write of lanes whose registers start no group faults with cause 1 (R137). -/
theorem vecWrite_misaligned {s : State} {k h w : Nat} {packed : Bool} {l : List Nat} {g : VecState → Cls → Nat → Nat × Ev}
    (bad : (getVec s k).aligned l = false) : vecWrite k packed l g h w s = .fault s 1 := by
  simp only [vecWrite, bad, Bool.not_false, if_true]

theorem LaneRow.WritesLanes.misaligned_step {r : LaneRow} (writes : r.WritesLanes) {s : State} {k h pc w : Nat}
    (stands : s.atWord k h pc w = true) (op : vOp w = r.op) (acts : (getVec s k).vl ≠ 0)
    (bad : (getVec s k).aligned (r.regs w) = false) :
    EngineStep (r.row k) s k { getVec s k with pc := none, blocks := [], busy := false, fault := some (1, pc) } := by
  obtain ⟨-, packed, g, row, -⟩ := writes
  refine vecFault_step ?_
  rw [row, vecRow_at stands op _ (.inl acts), vecWrite_misaligned bad]

/-- Settles O10: a row whose `vl` is 0 only goes on, and one whose registers are misaligned faults. -/
theorem vectorZeroOrMisaligned : Obligations.VectorZeroOrMisaligned := by
  unfold Obligations.VectorZeroOrMisaligned
  refine ⟨fun s k h pc w stands idle r listed op => ?_, fun r listed s k h pc w stands op acts bad =>
    (laneRows_writeLanes r listed).misaligned_step stands op acts bad⟩
  obtain ⟨other, rows⟩ := vectorRows_isVectorRow k r listed
  obtain ⟨f, row⟩ := rows s
  exact engineStep_of_idle stands op row idle other

/-! ## The last word of program memory -/

section
variable {s : State} {k h w : Nat} (owner : clusterHeat s (slotCluster k) = some h)
  (runs : (getHeat s h).st = .running ∨ (getHeat s h).st = .stopping) (last : (getVec s k).pc = some 16383)
  (free : (getVec s k).condemned = false) (word : tabGet 0 (getCore s k).prog 16383 = w) (noEnd : w ≠ vEnd)
include owner runs last free word noEnd

/-- At the last word, a row whose opcode it is faults with cause 6. -/
theorem vecRow_last {op : Nat} (code : vOp w = op) (f : Nat → Nat → State → VecRes) :
    vecRow op k s f = .next (vecFault s k 6 16383) := by
  have live : ((getHeat s h).st != .running && (getHeat s h).st != .stopping) = false := by
    rcases runs with e | e <;> rw [e] <;> rfl
  have taken : (vOp w != op || decide (w = vEnd) || (getVec s k).condemned) = false := by rw [free]; simp [code, noEnd]
  simp only [vecRow, owner, last, word, live, taken, Bool.false_eq_true, if_false, if_true]

end

theorem exec_vectorBlockStart_beyond {s : State} {k b : Nat} {l : List Nat} (idle : (getVec s k).pc = none)
    (queued : (getVec s k).blocks = b :: l) (beyond : (getCore s k).progLen ≤ b) :
    exec (.vectorBlockStart k) s = .next (vecFault s k 6 b) := by
  have row : exec (.vectorBlockStart k) s = execVectorBlockStart k s := rfl
  rw [row]
  simp only [execVectorBlockStart, idle, queued, if_pos beyond]

/-- Settles O15: at the last word every row faults, and so does a start beyond the image. -/
theorem vectorRunsOff : Obligations.VectorRunsOff := by
  unfold Obligations.VectorRunsOff
  refine ⟨fun s k h w owner runs last free word noEnd r listed op => vecFault_step ?_, fun s k b l idle queued beyond =>
    vecFault_step (exec_vectorBlockStart_beyond idle queued beyond)⟩
  rcases List.mem_cons.mp listed with rfl | listed
  · have row : exec (.setvl k) s = execSetvl k s := rfl
    exact row.trans (vecRow_last owner runs last free word noEnd op _)
  · obtain ⟨f, row⟩ := (vectorRows_isVectorRow k r listed).2 s
    rw [row, vecRow_last owner runs last free word noEnd op f]

end Sys2Proof.Machine
end

section
/-! SUPPORT. Loads and stores of the vector engine (R148, R150, R151): what each leaves in the engine and in the core buffer. -/

namespace Sys2Proof.Machine

/-! ## An address register moved on -/

section
variable (v : VecState) (r : Nat) (d : Int)

theorem advance_frame : advance v r d = { v with a := (advance v r d).a } := by
  unfold advance
  dsimp only
  split <;> rfl

theorem advance_count (e : Ev) : advance (v.count e) r d = (advance v r d).count e := by
  unfold advance VecState.count
  dsimp only
  split <;> rfl

theorem advance_ne {n : Nat} (other : n ≠ r) : tabGet 0 (advance v r d).a n = tabGet 0 v.a n := by
  unfold advance
  dsimp only
  split
  · exact tabGet_tabSet_ne _ _ other _
  · rfl

theorem advance_same : tabGet 0 (advance v r d).a r =
    if bitOf (tabGet 0 v.a r) 63 then putBits (tabGet 0 v.a r) 20 0
      (((addrBase (tabGet 0 v.a r) : Int) + d) % ((2 ^ 21 : Nat) : Int)).toNat else tabGet 0 v.a r := by
  unfold advance
  dsimp only
  split
  · next set => exact tabGet_tabSet_same _ _ _ _
  · rfl

/-- A base moved on by a number of bytes wraps in 21 bits. -/
theorem advance_same_nat (n : Nat) : tabGet 0 (advance v r n).a r =
    if bitOf (tabGet 0 v.a r) 63 then putBits (tabGet 0 v.a r) 20 0 ((addrBase (tabGet 0 v.a r) + n) % 2 ^ 21)
    else tabGet 0 v.a r := by
  rw [advance_same, ← Nat.cast_add, ← Int.natCast_mod, Int.toNat_natCast]

end

/-! ## Loads -/

section
variable {s : State} {k h pc w : Nat} (stands : s.atWord k h pc w = true) (acts : (getVec s k).vl ≠ 0)
include stands acts

/-- A row that writes its core's engine, counts events and moves an address register on. -/
theorem load_goes {op r : Nat} {f : Nat → Nat → State → VecRes} {x : VecState} {e : Ev} {d : VecState → Int} {n : Int}
    (code : vOp w = op) (size : d (x.count e) = n)
    (ran : f h w s = .ok (modVec (vecEvents (modVec s k fun _ => x) k h e) k fun v => advance v r (d v))) :
    ∃ t, vecRow op k s f = .next t ∧ VecFrame s t k h ∧ getVec t k = (advance x r n).past pc e := by
  have frame := (((StoreFrame.refl s k h).modVec fun _ => x).vecEvents e).modVec fun v => advance v r (d v)
  refine vecRow_goes_vec stands code (.inl acts) ran frame (vecEvents_mem _ _ _ _) ?_ ?_
  · rw [getCore_modVec_log, getCore_vecEvents_log, getCore_modVec_log]
  · rw [getVec_modVec_same, getVec_vecEvents, getVec_modVec_same, size]
    exact advance_count x r n e

end

/-- What a VLD gives each active lane (R148). -/
def loadLane (s : State) (k w : Nat) (_ : VecState) (c : Cls) (e : Nat) : Nat × Ev :=
  widen (vMod w) c (readNat s (cbAddr k (elemOff (tabGet 0 (getVec s k).a (vVa w % 8)) e).toNat) (memWidth (vMod w)))

/-- What a VLDM gives each active mask bit. -/
def loadBit (s : State) (k w : Nat) (_ : VecState) (_ : Cls) (e : Nat) : Bool × Ev :=
  (bitOf (getByte s (cbAddr k (addrBase (tabGet 0 (getVec s k).a (vVa w % 8)) + e / 8))).toNat (e % 8), {})

/-- What VLDM comes to (R150). -/
def vldmRow (k h w : Nat) (s : State) : VecRes :=
  let v := getVec s k
  let r := vVa w % 8
  match maskAccessFault s h (tabGet 0 v.a r) (v.actives w) with
  | some c => .fault s c
  | none =>
    match maskWrite k [] (loadBit s k w) h w s with
    | .ok s => .ok (modVec s k fun v => advance v r 64)
    | x => x

/-- The engine after the lanes of a VLD, and after the mask bits of a VLDM. -/
def vldVec (s : State) (k h w : Nat) : VecState :=
  putVec (getVec s k) (heatCls s h) w (laneResults (getVec s k) (heatCls s h) w (loadLane s k w))
def vldmVec (s : State) (k h w : Nat) : VecState :=
  putBitsVec (getVec s k) (heatCls s h) w (bitResults (getVec s k) (heatCls s h) w (loadBit s k w))

theorem vldVec_frame (s : State) (k h w : Nat) :
    vldVec s k h w = { getVec s k with v := (vldVec s k h w).v, sums := (vldVec s k h w).sums } := putVec_frame _ _ _ _
theorem vldmVec_frame (s : State) (k h w : Nat) :
    vldmVec s k h w = { getVec s k with m := (vldmVec s k h w).m, sums := (vldmVec s k h w).sums } := putBitsVec_frame _ _ _ _

theorem vldRow_ok {s : State} {k h w : Nat} (fits : (getVec s k).aligned [vVd w] = true)
    (legal : accessFault s h (tabGet 0 (getVec s k).a (vVa w % 8)) (memWidth (vMod w))
      (((getVec s k).actives w).map (elemOff (tabGet 0 (getVec s k).a (vVa w % 8)))) = none) :
    ∃ e, vldRow k h w s = .ok (modVec (vecEvents (modVec s k fun _ => vldVec s k h w) k h e) k
      fun v => advance v (vVa w % 8) (v.vl * addrStride (tabGet 0 (getVec s k).a (vVa w % 8)))) := by
  refine ⟨putEvents (getVec s k) (heatCls s h) w (laneResults (getVec s k) (heatCls s h) w (loadLane s k w)), ?_⟩
  simp only [vldRow, fits, legal, vecWrite_ok fits, Bool.not_true, Bool.false_eq_true, if_false]
  rfl

theorem vldmRow_ok {s : State} {k h w : Nat}
    (legal : maskAccessFault s h (tabGet 0 (getVec s k).a (vVa w % 8)) ((getVec s k).actives w) = none) :
    ∃ e, vldmRow k h w s = .ok (modVec (vecEvents (modVec s k fun _ => vldmVec s k h w) k h e) k
      fun v => advance v (vVa w % 8) (64 : Nat)) := by
  refine ⟨evSum ((bitResults (getVec s k) (heatCls s h) w (loadBit s k w)).map fun x => x.2.2), ?_⟩
  simp only [vldmRow, legal, maskWrite_ok (l := []) rfl]
  rfl

section
variable {s : State} {k h pc w : Nat} (stands : s.atWord k h pc w = true) (acts : (getVec s k).vl ≠ 0)
include stands acts

theorem vld_goes (op : vOp w = 0x32) (fits : (getVec s k).aligned [vVd w] = true)
    (legal : accessFault s h (tabGet 0 (getVec s k).a (vVa w % 8)) (memWidth (vMod w))
      (((getVec s k).actives w).map (elemOff (tabGet 0 (getVec s k).a (vVa w % 8)))) = none) :
    ∃ t e, exec (.vld ⟨k, none⟩) s = .next t ∧ VecFrame s t k h ∧ getVec t k =
      (advance (vldVec s k h w) (vVa w % 8)
        ((getVec s k).vl * addrStride (tabGet 0 (getVec s k).a (vVa w % 8)))).past pc e := by
  obtain ⟨e, ran⟩ := vldRow_ok fits legal
  obtain ⟨t, done, frame, after⟩ := load_goes stands acts op
    (d := fun x => x.vl * addrStride (tabGet 0 (getVec s k).a (vVa w % 8))) (by rw [vldVec_frame]) ran
  exact ⟨t, e, done, frame, after⟩

theorem vldm_goes (op : vOp w = 0x34)
    (legal : maskAccessFault s h (tabGet 0 (getVec s k).a (vVa w % 8)) ((getVec s k).actives w) = none) :
    ∃ t e, exec (.vldm k) s = .next t ∧ VecFrame s t k h ∧
      getVec t k = (advance (vldmVec s k h w) (vVa w % 8) (64 : Nat)).past pc e := by
  obtain ⟨e, ran⟩ := vldmRow_ok legal
  obtain ⟨t, done, frame, after⟩ := load_goes stands acts op (d := fun _ => (64 : Nat)) rfl ran
  exact ⟨t, e, done, frame, after⟩

end

/-! ## Stores -/

theorem StoreFrame.writeAll {s u : State} {k h : Nat} {α : Type} (p : α → Nat) (b : α → List Byte) (l : List α)
    (frame : StoreFrame s u k h) : StoreFrame s (Machine.writeAll p b l u) k h := by
  induction l generalizing u with
  | nil => exact frame
  | cons x l ih => exact ih (frame.writeBytes (p x) (b x))

/-- What a VST sends from each active lane: code, events, what a tap takes (R148). -/
def storeLanes (s : State) (k h w : Nat) : List (Nat × Nat × Ev × Nat) :=
  ((getVec s k).actives w).map fun e => (e, narrow (vMod w) (heatCls s h) ((getVec s k).lane (vVa w) e))

/-- Memory after a VST. -/
def vstMem (s : State) (k h w : Nat) : State :=
  writeAll (fun x => cbAddr k (elemOff (tabGet 0 (getVec s k).a (vVd w % 8)) x.1).toNat)
    (fun x => bytesOf (memWidth (vMod w)) x.2.1) (storeLanes s k h w) s

/-- A mask bit stored in its byte of the core buffer. -/
def storeBit (k base m : Nat) (s : State) (e : Nat) : State :=
  putByte s (cbAddr k (base + e / 8)) (byte (putBit (getByte s (cbAddr k (base + e / 8))).toNat (e % 8) (bitOf m e)))

/-- Memory after a VSTM. -/
def vstmMem (s : State) (k w : Nat) : State :=
  ((getVec s k).actives w).foldl (storeBit k (addrBase (tabGet 0 (getVec s k).a (vVd w % 8))) ((getVec s k).mask (vVa w % 8))) s

/-- What VSTM comes to (R150). -/
def vstmRow (k h w : Nat) (s : State) : VecRes :=
  let v := getVec s k
  let r := vVd w % 8
  let a := tabGet 0 v.a r
  match maskAccessFault s h a (v.actives w) with
  | some c => .fault s c
  | none =>
    let s' := noteBufWrite (vstmMem s k w) k ((v.actives w).map fun e => (addrBase a + e / 8, 1))
    .ok (modVec s' k fun x => (advance x r 64).tap (heatCls s' h) w
      ((v.actives w).map fun e => (e, bitPattern (bitOf (v.mask (vVa w % 8)) e))) x.vl)

theorem StoreFrame.storeBits {s u : State} {k h : Nat} (base m : Nat) (l : List Nat) (frame : StoreFrame s u k h) :
    StoreFrame s (l.foldl (storeBit k base m) u) k h := by
  induction l generalizing u with
  | nil => exact frame
  | cons e l ih => exact ih (frame.putByte _ _)

/-- A store leaves its core's engine as it is. -/
theorem getVec_storeBits (k base m : Nat) (l : List Nat) (s : State) :
    getVec (l.foldl (storeBit k base m) s) k = getVec s k := by
  induction l generalizing s with
  | nil => rfl
  | cons e l ih => exact ih _

theorem getVec_vstMem (s : State) (k h w : Nat) : getVec (vstMem s k h w) k = getVec s k := by
  rw [vstMem, writeAll_frame]
  rfl

/-- The memory that a store leaves is what is read after it. -/
theorem StoreFrame.getByte_eq {s t m : State} {k h : Nat} (frame : StoreFrame s t k h) (mem : t.mem = m.mem)
    (blank : m.blank = s.blank) (a : Nat) : getByte t a = getByte m a := by
  obtain ⟨whole, -⟩ := frame
  refine getByte_congr mem ?_ a
  rw [whole, blank]

section
variable {s : State} {k h pc w op r : Nat} (stands : s.atWord k h pc w = true) (acts : (getVec s k).vl ≠ 0)
include stands acts

/-- A row that stores, notes the store, moves an address register on and taps. -/
theorem store_goes {f : Nat → Nat → State → VecRes} {m : State} {n : List (Nat × Nat)} {x : VecState → VecState} {e : Ev}
    (code : vOp w = op) (frame : StoreFrame s m k h) (same : getVec m k = getVec s k)
    (ran : f h w s = .ok (vecEvents (modVec (noteBufWrite m k n) k x) k h e)) :
    ∃ t, vecRow op k s f = .next t ∧ StoreFrame s t k h ∧ getVec t k = (x (getVec s k)).past pc e ∧ t.mem = m.mem := by
  obtain ⟨t, done, storeFrame, after, mem, -⟩ := vecRow_goes stands code (.inl acts) ran
    (((frame.noteBufWrite n).modVec x).vecEvents e) (v' := x (getVec s k)) (e := e)
    (by rw [getVec_vecEvents, getVec_modVec_same, getVec_noteBufWrite, same])
  refine ⟨t, done, storeFrame, after, ?_⟩
  rw [mem, vecEvents_mem, modVec_mem]
  unfold noteBufWrite
  split <;> rfl

/-- A VST moves its address register on and taps what it stored. -/
theorem vst_goes (code : vOp w = 0x33) (fits : (getVec s k).aligned [vVa w] = true)
    (legal : accessFault s h (tabGet 0 (getVec s k).a (vVd w % 8)) (memWidth (vMod w))
      (((getVec s k).actives w).map (elemOff (tabGet 0 (getVec s k).a (vVd w % 8)))) = none) :
    ∃ t e, exec (.vst ⟨k, none⟩) s = .next t ∧ StoreFrame s t k h ∧ getVec t k =
      ((advance (getVec s k) (vVd w % 8) ((getVec s k).vl * addrStride (tabGet 0 (getVec s k).a (vVd w % 8)))).tap
        (heatCls s h) w ((storeLanes s k h w).map fun x => (x.1, x.2.2.2)) (getVec s k).vl).past pc e ∧
      t.mem = (vstMem s k h w).mem := by
  have ran : ∃ n e, vstRow k h w s = .ok (vecEvents (modVec (noteBufWrite (vstMem s k h w) k n) k fun v =>
      (advance v (vVd w % 8) (v.vl * addrStride (tabGet 0 (getVec s k).a (vVd w % 8)))).tap (heatCls s h) w
        ((storeLanes s k h w).map fun x => (x.1, x.2.2.2)) v.vl) k h e) := by
    refine ⟨(storeLanes s k h w).map fun x => ((elemOff (tabGet 0 (getVec s k).a (vVd w % 8)) x.1).toNat, memWidth (vMod w)),
      (evSum ((storeLanes s k h w).map fun x => x.2.2.1)).add ((getVec s k).tapFlush (heatCls s h) w
        ((storeLanes s k h w).map fun x => (x.1, x.2.2.2)) (getVec s k).vl), ?_⟩
    simp only [vstRow, fits, legal, Bool.not_true, Bool.false_eq_true, if_false]
    rfl
  obtain ⟨n, e, ran⟩ := ran
  obtain ⟨t, done, frame, after, mem⟩ := store_goes stands acts code
    ((StoreFrame.refl s k h).writeAll _ _ _) (getVec_vstMem s k h w) ran
  exact ⟨t, e, done, frame, after, mem⟩

/-- A VSTM moves its address register on by 64 and taps the bits it stored. -/
theorem vstm_goes (code : vOp w = 0x35)
    (legal : maskAccessFault s h (tabGet 0 (getVec s k).a (vVd w % 8)) ((getVec s k).actives w) = none) :
    ∃ t, exec (.vstm k) s = .next t ∧ StoreFrame s t k h ∧ getVec t k =
      ((advance (getVec s k) (vVd w % 8) (64 : Nat)).tap (heatCls s h) w
        (((getVec s k).actives w).map fun e => (e, bitPattern (bitOf ((getVec s k).mask (vVa w % 8)) e))) (getVec s k).vl).past pc {} ∧
      t.mem = (vstmMem s k w).mem := by
  have stored : StoreFrame s (vstmMem s k w) k h := (StoreFrame.refl s k h).storeBits _ _ _
  have engine : getVec (vstmMem s k w) k = getVec s k := getVec_storeBits _ _ _ _ _
  have class_ (n : List (Nat × Nat)) : heatCls (noteBufWrite (vstmMem s k w) k n) h = heatCls s h := by
    have same := (stored.noteBufWrite n).2.2.2 (hCfg h) 5 (by decide) (.inr (by decide))
    rw [heatCls, heatCls, same]
  have ran : vstmRow k h w s = .ok (modVec (noteBufWrite (vstmMem s k w) k
      (((getVec s k).actives w).map fun e => (addrBase (tabGet 0 (getVec s k).a (vVd w % 8)) + e / 8, 1))) k fun x =>
        (advance x (vVd w % 8) (64 : Nat)).tap (heatCls s h) w
          (((getVec s k).actives w).map fun e => (e, bitPattern (bitOf ((getVec s k).mask (vVa w % 8)) e))) x.vl) := by
    simp only [vstmRow, legal, class_]
    rfl
  obtain ⟨t, done, frame, after, mem, -⟩ := vecRow_goes stands code (.inl acts) ran
    (e := {}) ((stored.noteBufWrite _).modVec _) (by rw [getVec_modVec_same, getVec_noteBufWrite, engine]; rfl)
  refine ⟨t, done, frame, after, ?_⟩
  rw [mem, modVec_mem]
  unfold noteBufWrite
  split <;> rfl

end

/-! ## What a store leaves in memory -/

theorem vstMem_blank (s : State) (k h w : Nat) : (vstMem s k h w).blank = s.blank := by rw [vstMem, writeAll_frame]

/-- A byte outside every element stored is as before. -/
theorem getByte_vstMem_out {s : State} {k h w b : Nat} (out : ∀ e, (getVec s k).active w e = true →
      b < cbAddr k (elemOff (tabGet 0 (getVec s k).a (vVd w % 8)) e).toNat ∨
        cbAddr k (elemOff (tabGet 0 (getVec s k).a (vVd w % 8)) e).toNat + memWidth (vMod w) ≤ b) :
    getByte (vstMem s k h w) b = getByte s b := by
  refine getByte_writeAll_out (fun x listed => ?_) s
  obtain ⟨e, active, rfl⟩ := List.mem_map.mp listed
  rw [length_bytesOf]
  exact out e ((VecState.mem_actives _ _ _).mp active)

/-- A legal access starts at or above the buffer's first byte. -/
theorem accessFault_nonneg {s : State} {h a n : Nat} {l : List Int} (legal : accessFault s h a n l = none) :
    ∀ o ∈ l, 0 ≤ o := by
  intro o listed
  by_contra below
  have bad : l.any (fun o => o < 0 || o + n > coreBytes || (dget s (hCfg h) 9 = 1 && o + n > repeatByte)) = true :=
    List.any_eq_true.mpr ⟨o, listed, by simp [Int.not_le.mp below]⟩
  simp only [accessFault, bad, if_true] at legal
  exact absurd legal (by simp)

/-- Elements a stride of at least their width apart do not overlap. -/
theorem elemOff_apart {a n e f : Nat} (wide : (n : Int) ≤ addrStride a) (rises : e < f) : elemOff a e + n ≤ elemOff a f := by
  have gap : (e + 1 : Int) ≤ f := by exact_mod_cast rises
  simp only [elemOff]
  nlinarith

/-- Each element stored reads back as its code. -/
theorem readBytes_vstMem {s : State} {k h w : Nat} (legal : accessFault s h (tabGet 0 (getVec s k).a (vVd w % 8)) (memWidth (vMod w))
      (((getVec s k).actives w).map (elemOff (tabGet 0 (getVec s k).a (vVd w % 8)))) = none)
    (wide : (memWidth (vMod w) : Int) ≤ addrStride (tabGet 0 (getVec s k).a (vVd w % 8))) {e : Nat}
    (active : (getVec s k).active w e = true) :
    readBytes (vstMem s k h w) (cbAddr k (elemOff (tabGet 0 (getVec s k).a (vVd w % 8)) e).toNat) (memWidth (vMod w)) =
      bytesOf (memWidth (vMod w)) (narrow (vMod w) (heatCls s h) ((getVec s k).lane (vVa w) e)).1 := by
  have start := accessFault_nonneg legal
  simp only [List.mem_map, forall_exists_index, and_imp, forall_apply_eq_imp_iff₂] at start
  have sorted : ((getVec s k).actives w).Pairwise (· < ·) := List.pairwise_lt_range.filter _
  have apart : (storeLanes s k h w).Pairwise fun x y =>
      cbAddr k (elemOff (tabGet 0 (getVec s k).a (vVd w % 8)) x.1).toNat + (bytesOf (memWidth (vMod w)) x.2.1).length ≤
        cbAddr k (elemOff (tabGet 0 (getVec s k).a (vVd w % 8)) y.1).toNat ∨
      cbAddr k (elemOff (tabGet 0 (getVec s k).a (vVd w % 8)) y.1).toNat + (bytesOf (memWidth (vMod w)) y.2.1).length ≤
        cbAddr k (elemOff (tabGet 0 (getVec s k).a (vVd w % 8)) x.1).toNat := by
    refine List.pairwise_map.mpr (sorted.imp_of_mem fun {x y} hx hy rises => .inl ?_)
    have gap := elemOff_apart wide rises
    have startX := start x hx
    simp only [length_bytesOf, cbAddr]
    omega
  have read := readBytes_writeAll_of_apart apart (List.mem_map_of_mem ((VecState.mem_actives _ _ _).mpr active)) s
  rwa [length_bytesOf] at read

/-- Bits that a store of mask bits leaves: a named byte's bit as given, every other bit as it was. -/
theorem bitOf_storeBit (k base m e f : Nat) (s : State) :
    bitOf (getByte (storeBit k base m s e) (cbAddr k (base + f / 8))).toNat (f % 8) =
      if f = e then bitOf m e else bitOf (getByte s (cbAddr k (base + f / 8))).toNat (f % 8) := by
  have low (x n : Nat) (small : n < 8) : bitOf (byte x).toNat n = bitOf x n := by
    rw [byte, BitVec.toNat_ofNat, bitOf_eq_testBit, bitOf_eq_testBit, Nat.testBit_mod_two_pow, decide_eq_true small, Bool.true_and]
  by_cases same : f / 8 = e / 8
  · rw [storeBit, same, getByte_putByte, if_pos rfl, low _ _ (Nat.mod_lt f (by decide)), bitOf_putBit]
    by_cases bit : f % 8 = e % 8
    · rw [if_pos bit, if_pos (by omega)]
    · rw [if_neg bit, if_neg fun whole => bit (by rw [whole])]
  · rw [storeBit, getByte_putByte, if_neg (by simp only [cbAddr]; omega), if_neg fun whole => same (by rw [whole])]

theorem bitOf_storeBits (k base m f : Nat) (l : List Nat) (s : State) :
    bitOf (getByte (l.foldl (storeBit k base m) s) (cbAddr k (base + f / 8))).toNat (f % 8) =
      if f ∈ l then bitOf m f else bitOf (getByte s (cbAddr k (base + f / 8))).toNat (f % 8) := by
  induction l generalizing s with
  | nil => simp
  | cons e l ih =>
    simp only [List.foldl_cons, ih, bitOf_storeBit, List.mem_cons]
    by_cases later : f ∈ l
    · simp [later]
    · by_cases here : f = e <;> simp [later, here]

theorem getByte_storeBits_out {k base m b : Nat} {l : List Nat} (out : ∀ e ∈ l, b ≠ cbAddr k (base + e / 8)) (s : State) :
    getByte (l.foldl (storeBit k base m) s) b = getByte s b := by
  induction l generalizing s with
  | nil => rfl
  | cons e l ih =>
    rw [List.foldl_cons, ih (fun f later => out f (List.mem_cons_of_mem e later)), storeBit, getByte_putByte,
      if_neg (out e List.mem_cons_self)]

theorem vstmMem_blank (s : State) (k w : Nat) : (vstmMem s k w).blank = s.blank := by
  obtain ⟨whole, -⟩ := (StoreFrame.refl s k 0).storeBits (addrBase (tabGet 0 (getVec s k).a (vVd w % 8)))
    ((getVec s k).mask (vVa w % 8)) ((getVec s k).actives w)
  rw [vstmMem, whole]

/-! ## The statement -/

theorem advance_tap_a (v : VecState) (c : Cls) (w r : Nat) (d : Int) (l : List (Nat × Nat)) (n : Nat) :
    ((advance v r d).tap c w l n).a = (advance v r d).a := by rw [VecState.tap_eq]

theorem advance_tap_frame (v : VecState) (c : Cls) (w r : Nat) (d : Int) (l : List (Nat × Nat)) (n : Nat) :
    (advance v r d).tap c w l n =
      { v with a := ((advance v r d).tap c w l n).a, sums := ((advance v r d).tap c w l n).sums } := by
  rw [VecState.tap_eq, advance_frame]

theorem advance_tap_sums (v : VecState) (c : Cls) (w r : Nat) (d : Int) (l : List (Nat × Nat)) (n : Nat) :
    ((advance v r d).tap c w l n).sums = (v.tap c w l n).sums :=
  VecState.tap_sums_congr c w l n (by rw [advance_frame]) (by rw [advance_frame])

/-- Settles O11: each row moves its active elements between the buffer and a register, and its address register by what the word
asks. -/
theorem vectorLoadStore : Obligations.VectorLoadStore := by
  unfold Obligations.VectorLoadStore
  refine ⟨fun s k h pc w stands acts => ⟨fun op fits legal => ?_, fun op fits legal => ?_⟩,
    fun s k h pc w stands acts => ⟨fun op legal => ?_, fun op legal => ?_⟩⟩
  · obtain ⟨t, e, ran, frame, after⟩ := vld_goes stands acts op fits legal
    refine ⟨t, ran, frame, ⟨?_, fun untapped => ?_⟩, fun n other => ?_, fun i => ?_, ?_⟩
    · rw [after, advance_frame, vldVec_frame]; rfl
    · rw [after, advance_frame]
      exact (putVec_sums _ _ _ _).trans (VecState.tap_sums_untapped _ _ _ _ _ untapped)
    · rw [after]
      exact (advance_ne _ _ _ other).trans (by rw [vldVec_frame])
    · rw [after, advance_frame]
      exact (congrArg (tabGet 0 · i) (putVec_v _ _ _ _)).trans (tabGet_putLanes _ _ _ _ i)
    · rw [after]
      exact (advance_same _ _ _).trans (by rw [vldVec_frame])
  · obtain ⟨t, e, ran, frame, after, mem⟩ := vst_goes stands acts op fits legal
    have read := frame.getByte_eq mem (vstMem_blank s k h w)
    refine ⟨t, ran, frame, ⟨?_, fun untapped => ?_⟩, fun n other => ?_, fun b out => ?_, fun wide e active => ?_, ?_⟩
    · rw [after, advance_tap_frame]; rfl
    · rw [after]
      exact (advance_tap_sums _ _ _ _ _ _ _).trans (VecState.tap_sums_untapped _ _ _ _ _ untapped)
    · rw [after]
      exact (congrArg (tabGet 0 · n) (advance_tap_a _ _ _ _ _ _ _)).trans (advance_ne _ _ _ other)
    · exact (read b).trans (getByte_vstMem_out out)
    · exact (readBytes_congr fun i _ => read _).trans (readBytes_vstMem legal wide active)
    · rw [after]
      exact (congrArg (tabGet 0 · (vVd w % 8)) (advance_tap_a _ _ _ _ _ _ _)).trans (advance_same _ _ _)
  · obtain ⟨t, e, ran, frame, after⟩ := vldm_goes stands acts op legal
    refine ⟨t, ran, frame, ⟨?_, fun untapped => ?_⟩, fun n other => ?_, ?_, fun n other => ?_, fun e => ?_⟩
    · rw [after, advance_frame, vldmVec_frame]; rfl
    · rw [after, advance_frame]
      exact (putBitsVec_sums _ _ _ _).trans (VecState.tap_sums_untapped _ _ _ _ _ untapped)
    · rw [after]
      exact (advance_ne _ _ _ other).trans (by rw [vldmVec_frame])
    · rw [after]
      exact (advance_same_nat _ _ _).trans (by rw [vldmVec_frame])
    · rw [after, advance_frame]
      exact putBitsVec_mask_ne _ _ _ _ other
    · rw [after, advance_frame]
      exact putBitsVec_mask_same _ _ _ _ e
  · obtain ⟨t, ran, frame, after, mem⟩ := vstm_goes stands acts op legal
    have read := frame.getByte_eq mem (vstmMem_blank s k w)
    refine ⟨t, ran, frame, ⟨?_, fun untapped => ?_⟩, fun n other => ?_, ?_, fun e => ?_, fun b out => ?_⟩
    · rw [after, advance_tap_frame]; rfl
    · rw [after]
      exact (advance_tap_sums _ _ _ _ _ _ _).trans (VecState.tap_sums_untapped _ _ _ _ _ untapped)
    · rw [after]
      exact (congrArg (tabGet 0 · n) (advance_tap_a _ _ _ _ _ _ _)).trans (advance_ne _ _ _ other)
    · rw [after]
      exact (congrArg (tabGet 0 · (vVd w % 8)) (advance_tap_a _ _ _ _ _ _ _)).trans (advance_same_nat _ _ _)
    · rw [read, vstmMem, bitOf_storeBits]
      simp only [VecState.mem_actives]
    · rw [read, vstmMem, getByte_storeBits_out fun e listed => out e ((VecState.mem_actives _ _ _).mp listed)]

end Sys2Proof.Machine
end

section
/-! SUPPORT. What the rows that load, store, draw and steer leave in the summary registers (R153 to R160). -/

namespace Sys2Proof.Machine

theorem vldVec_sums (s : State) (k h w : Nat) : (vldVec s k h w).sums = ((getVec s k).tap (heatCls s h) w
    (((getVec s k).actives w).map fun e => (e, (loadLane s k w (getVec s k) (heatCls s h) e).1)) (getVec s k).vl).sums := by
  rw [vldVec, putVec_sums, laneResults_values]

theorem vldmVec_sums (s : State) (k h w : Nat) : (vldmVec s k h w).sums = ((getVec s k).tap (heatCls s h) w
    (((getVec s k).actives w).map fun e => (e, bitPattern (loadBit s k w (getVec s k) (heatCls s h) e).1)) (getVec s k).vl).sums := by
  rw [vldmVec, putBitsVec_sums, bitResults_values]

theorem storeLanes_taps (s : State) (k h w : Nat) : (storeLanes s k h w).map (fun x => (x.1, x.2.2.2)) =
    ((getVec s k).actives w).map fun e => (e, (narrow (vMod w) (heatCls s h) ((getVec s k).lane (vVa w) e)).2.2) := by
  rw [storeLanes, List.map_map]
  rfl

section
variable {w : Nat} {v : VecState} (acts : v.vl ≠ 0)
include acts

theorem drawn_sums (x : VecState) : (drawn w v x).sums = x.sums := by
  rw [drawn, if_neg acts, rngMoved_frame]

theorem drawn_putVec_sums (c : Cls) (g : VecState → Cls → Nat → Nat × Ev) : (drawn w v (putVec v c w (laneResults v c w g))).sums =
    (v.tap c w ((v.actives w).map fun e => (e, (g v c e).1)) v.vl).sums := by
  rw [drawn_sums acts, putVec_sums, laneResults_values]

theorem drawn_putBitsVec_sums (c : Cls) (g : VecState → Cls → Nat → Bool × Ev) :
    (drawn w v (putBitsVec v c w (bitResults v c w g))).sums =
      (v.tap c w ((v.actives w).map fun e => (e, bitPattern (g v c e).1)) v.vl).sums := by
  rw [drawn_sums acts, putBitsVec_sums, bitResults_values]

end

/-- What a step of an engine alone leaves there. -/
theorem EngineStep.after {i : Instr} {s : State} {k : Nat} {v : VecState} (ran : EngineStep i s k v) :
    ∃ t, exec i s = .next t ∧ getVec t k = v := by
  obtain ⟨t, done, -, -, own⟩ := ran
  exact ⟨t, done, by rw [getVec, own]⟩

/-- SETVL takes from what is left to process what the group holds (R142). -/
theorem setvl_splits (avl g : Nat) : min avl (64 * 2 ^ g) + (avl - min avl (64 * 2 ^ g)) = avl ∧ min avl (64 * 2 ^ g) ≤ 64 * 2 ^ g := by
  omega

theorem exec_drawLanes {s : State} {k h pc w op : Nat} {i : Instr} {f : Nat → Nat → State → VecRes} (stands : s.atWord k h pc w = true)
    (g : VecState → Cls → Nat → Nat × Ev) (code : vOp w = op) (other : op ≠ opSetvl) (fits : (getVec s k).aligned [vVd w] = true)
    (row : exec i s = vecRow op k s f) (draws : f h w s = advanceRng k w (vecWrite k false [vVd w] g h w s)) :
    ∃ t e, exec i s = .next t ∧ getVec t k =
      (drawn w (getVec s k) (putVec (getVec s k) (heatCls s h) w (laneResults (getVec s k) (heatCls s h) w g))).past pc e := by
  obtain ⟨t, e, ran, -, after⟩ := drawLanes_goes stands code other fits draws
  exact ⟨t, e, row.trans ran, after⟩

/-- What VRNGB comes to (R166). -/
def vrngbRow (k h w : Nat) (s : State) : VecRes :=
  advanceRng k w (maskWrite k [] (fun v _ e =>
    (decide (genWord s h v w e / 256 ≥ (v.sum (vVb w % 16)).value % 2 ^ 24), {})) h w s)

/-- Settles O12: what a row loads, stores or draws goes to its tap, and a control row changes its own summary at most. -/
theorem vectorRowsTap : Obligations.VectorRowsTap := by
  unfold Obligations.VectorRowsTap
  intro s k h pc w stands acts v c on taps n
  refine ⟨fun op fits legal => ?_, fun op fits legal => ?_, fun op legal => ?_, fun op legal => ?_, fun op fits => ?_,
    fun op fits => ?_, fun op => ?_, fun op => ?_, fun op => ?_, fun op => ?_, fun op => ?_, fun op => ?_, fun op => ?_,
    fun op fits active => ?_, fun u runs free ends => ?_⟩
  · obtain ⟨t, e, ran, -, after⟩ := vld_goes stands acts op fits legal
    exact ⟨t, ran, congrArg VecState.pc after, (congrArg VecState.sums after).trans (by rw [advance_frame]; exact vldVec_sums s k h w)⟩
  · obtain ⟨t, e, ran, -, after, -⟩ := vst_goes stands acts op fits legal
    refine ⟨t, ran, congrArg VecState.pc after, (congrArg VecState.sums after).trans ?_⟩
    rw [← storeLanes_taps]
    exact advance_tap_sums _ _ _ _ _ _ _
  · obtain ⟨t, e, ran, -, after⟩ := vldm_goes stands acts op legal
    exact ⟨t, ran, congrArg VecState.pc after, (congrArg VecState.sums after).trans (by rw [advance_frame]; exact vldmVec_sums s k h w)⟩
  · obtain ⟨t, ran, -, after, -⟩ := vstm_goes stands acts op legal
    exact ⟨t, ran, congrArg VecState.pc after, (congrArg VecState.sums after).trans (advance_tap_sums _ _ _ _ _ _ _)⟩
  · obtain ⟨t, e, ran, after⟩ := exec_drawLanes stands (fun v _ e => (genWord s h v w e, {})) op (by decide) fits (exec_vrng_eq k s) rfl
    exact ⟨t, ran, congrArg VecState.pc after, (congrArg VecState.sums after).trans (drawn_putVec_sums acts _ _)⟩
  · obtain ⟨t, e, ran, after⟩ := exec_drawLanes stands (fun v _ e =>
      (fmtF32.encodeIeee (.ofIntE ((genWord s h v w e / 256 : Nat) : Int) (-24)), {})) op (by decide) fits (exec_vrngu_eq k s) rfl
    exact ⟨t, ran, congrArg VecState.pc after, (congrArg VecState.sums after).trans (drawn_putVec_sums acts _ _)⟩
  · obtain ⟨t, e, ran, -, after⟩ := drawBits_goes stands op (by decide) (g := fun v _ e =>
      (decide (genWord s h v w e / 256 ≥ (v.sum (vVb w % 16)).value % 2 ^ 24), {})) (f := vrngbRow k) rfl
    exact ⟨t, (exec_vrngb_eq k s).trans ran, congrArg VecState.pc after,
        (congrArg VecState.sums after).trans (drawn_putBitsVec_sums acts _ _)⟩
  · obtain ⟨t, ran, after⟩ := (engineStep_id stands op (.vectorNop k) rfl (by decide)).after
    exact ⟨t, ran, congrArg VecState.pc after, by rw [after]⟩
  · obtain ⟨t, ran, after⟩ := (engineStep_id stands op (.rwait k) rfl (by decide)).after
    exact ⟨t, ran, congrArg VecState.pc after, by rw [after]⟩
  · obtain ⟨t, ran, after⟩ := (engineStep_id stands op (.fence k) rfl (by decide)).after
    exact ⟨t, ran, congrArg VecState.pc after, by rw [after]⟩
  · obtain ⟨t, ran, after⟩ := (setvl_engineStep stands op).after
    obtain ⟨split, fits⟩ := setvl_splits v.avl (vMod w % 4)
    exact ⟨t, ran, congrArg VecState.pc after, by rw [after], by rw [after]; exact split, by rw [after]; exact fits⟩
  · obtain ⟨t, ran, after⟩ := (rtap_engineStep stands op acts).after
    exact ⟨t, ran, congrArg VecState.pc after, by rw [after], fun i => by rw [after]; exact tabGet_tabSet _ _ _ _ _⟩
  · obtain ⟨t, ran, after⟩ := (rclr_engineStep stands op acts).after
    exact ⟨t, ran, congrArg VecState.pc after, fun i => by rw [after]; exact tabGet_tabSet _ _ _ _ _⟩
  · obtain ⟨t, ran, after⟩ := (vtos_engineStep_of_active stands op fits active).after
    exact ⟨t, ran, congrArg VecState.pc after, fun i => by rw [after]; exact tabGet_tabSet _ _ _ _ _⟩
  · obtain ⟨t, ran, after⟩ := (vend_engineStep runs free ends).after
    exact ⟨t, ran, congrArg VecState.pc after, by rw [after]⟩

end Sys2Proof.Machine
end

section
/-! SUPPORT. The retire checks of the multiply-add rows (R429, R436, R437): what each verdict writes and counts. -/

namespace Sys2Proof.Machine

/-! ## Results written after a verdict -/

/-- Results written change lanes and summaries of the engine, and count events. -/
theorem vecPut_eq (k : Nat) (packed : Bool) (r : List (Nat × Nat × Ev)) (h w : Nat) (s : State) :
    ∃ f e, vecPut k packed r h w s = vecEvents (modVec s k f) k h e ∧
      ∀ v, (f v).v = putLanes v w r ∧ f v = { v with v := (f v).v, sums := (f v).sums } :=
  ⟨_, _, rfl, fun _ => ⟨by rw [VecState.tap_eq]; rfl, by rw [VecState.tap_eq]⟩⟩

/-- A state whose core `k` has the image it had goes on to the next word. -/
theorem vecNext_of_core {s u : State} {k h pc w : Nat} (stands : s.atWord k h pc w = true)
    (image : (getCore u k).progLen = (getCore s k).progLen) :
    vecNext u k pc = modVec u k fun v => { v with pc := some (pc + 1) } := by
  obtain ⟨-, -, -, -, -, inside, -⟩ := State.atWord_iff.1 stands
  rw [vecNext, image, if_neg (by omega)]

theorem dget_vecEvents_ne {s : State} {k h i sub : Nat} (e : Ev) (small : sub < 256) (other : sub ≠ 1) :
    dget (vecEvents s k h e) i sub = dget s i sub := dget_addFlush _ _ _ small (.inr other)

/-- The engine at the next word with results written, and counters other than FLUSH as they were. -/
theorem vecNext_vecPut {s u : State} {k h pc w : Nat} (stands : s.atWord k h pc w = true) (core : getCore u k = getCore s k)
    (packed : Bool) (r : List (Nat × Nat × Ev)) :
    let t := vecNext (vecPut k packed r h w u) k pc
    (getVec t k).pc = some (pc + 1) ∧ (getVec t k).condemned = false ∧ (getVec t k).v = putLanes (getVec s k) w r ∧
      ∀ i sub, sub < 256 → sub ≠ 1 → dget t i sub = dget u i sub := by
  intro t
  obtain ⟨f, e, put, changes⟩ := vecPut_eq k packed r h w u
  obtain ⟨-, -, -, -, -, -, -, free⟩ := State.atWord_iff.1 stands
  have engine : getVec u k = getVec s k := by rw [getVec, core]; rfl
  obtain ⟨lanes, frame⟩ := changes (getVec s k)
  have image : (getCore (vecPut k packed r h w u) k).progLen = (getCore s k).progLen := by
    rw [put, vecEvents, getCore_addFlush, getCore_modVec_same, getCore_modVec_same, core]
  have after : getVec t k = (f (getVec s k)).past pc e := by
    simp only [t]
    rw [vecNext_of_core stands image, getVec_modVec_same, put, getVec_vecEvents, getVec_modVec_same, engine]
    rfl
  refine ⟨congrArg VecState.pc after, ?_, ?_, fun i sub small other => ?_⟩
  · rw [after, frame]
    exact free
  · rw [after]
    exact lanes
  · simp only [t]
    rw [vecNext_of_core stands image, put]
    exact dget_vecEvents_ne (s := modVec u k f) e small other

/-- Without a change before, results written change what a row of the engine may change. -/
theorem vecFrame_vecPut {s : State} {k h pc w : Nat} (stands : s.atWord k h pc w = true) (packed : Bool)
    (r : List (Nat × Nat × Ev)) : VecFrame s (vecNext (vecPut k packed r h w s) k pc) k h := by
  obtain ⟨f, e, put, -⟩ := vecPut_eq k packed r h w s
  rw [put]
  exact (vecNext_frame stands f e).1

/-! ## The verdict -/

section
variable (o : FmaOp) (w : Nat) (v : VecState) (c : Cls)

/-- One issue of a checked operation: every active lane with the errors that strike it. -/
def issueOf (l : List VecErr) : Issue := (v.actives w).map fun e => (e, checkedLane o l w v c e)

theorem issued_issueOf (l : List VecErr) :
    issued (issueOf o w v c l) = laneResults v c w fun v c e => (checkedLane o l w v c e).1 := by
  rw [issued, issueOf, laneResults, List.map_map]
  rfl

theorem tabGet_putLanes_issued (l : List VecErr) (i : Nat) : tabGet 0 (putLanes v w (issued (issueOf o w v c l))) i =
    if v.writes w i then (checkedLane o l w v c (i - vVd w * 64)).1.1 else tabGet 0 v.v i := by
  rw [issued_issueOf, tabGet_putLanes]

theorem all_issueOf_iff (l : List VecErr) : (issueOf o w v c l).all (·.2.2) = true ↔
    ∀ i, v.active w i = true → (checkedLane o l w v c i).2 = true := by
  simp [issueOf, List.all_map, VecState.mem_actives]

theorem any_issueOf_iff (l : List VecErr) : ((issueOf o w v c l).any fun x => !x.2.2) = true ↔
    ¬∀ i, v.active w i = true → (checkedLane o l w v c i).2 = true := by
  rw [← all_issueOf_iff, List.any_eq_not_all_not]
  simp

/-- No lane that passed both times differs. -/
theorem any_zip_issueOf_eq_false {a b : List VecErr} (agree : ∀ i, v.active w i = true → (checkedLane o a w v c i).2 = true →
      (checkedLane o a w v c i).1.1 = (checkedLane o b w v c i).1.1) :
    (((issueOf o w v c a).zip (issueOf o w v c b)).any fun x => x.1.2.2 && x.1.2.1.1 != x.2.2.1.1) = false := by
  rw [issueOf, issueOf, List.zip_map', List.any_eq_false]
  intro x listed
  obtain ⟨e, active, rfl⟩ := List.mem_map.mp listed
  by_cases ok : (checkedLane o a w v c e).2 = true
  · simp [ok, agree e ((VecState.mem_actives _ _ _).mp active) ok]
  · simp [ok]

end

/-- A transient corrected in the command program that runs, if one does (R436). -/
def corrected (s : State) (k : Nat) : State :=
  match (getCore s k).ctl with
  | some c => modFlight s c.queue c.index fun f => { f with status := pickStatus stCorrVector f.status }
  | none => s

theorem getCore_corrected (s : State) (k j : Nat) : getCore (corrected s k) j = getCore s j := by
  unfold corrected
  split <;> rfl

theorem dget_corrected (s : State) (k i sub : Nat) : dget (corrected s k) i sub = dget s i sub := by
  unfold corrected
  split <;> rfl

section
variable {k h : Nat} {s : State} {issue : List VecErr → Issue} {r : VecResidue}

/-- With every check passed the results are those of the first issue. -/
theorem vecVerdict_of_pass (pass : (issue r.first).all (·.2.2) = true) :
    vecVerdict k issue r h s = (s, some (issued (issue r.first))) := by
  simp only [vecVerdict, pass, if_true]

/-- With a check failed once, and the second issue good and in agreement, its results are written and a transient is recorded. -/
theorem vecVerdict_of_corrected (fails : (issue r.first).all (·.2.2) ≠ true)
    (second : ((issue r.second).any fun x => !x.2.2) = false)
    (agree : (((issue r.first).zip (issue r.second)).any fun x => x.1.2.2 && x.1.2.1.1 != x.2.2.1.1) = false) :
    vecVerdict k issue r h s =
      (corrected (recordTransient (dadd s 0x2D60 2 1) (physSlot s k) 2 (some h)) k, some (issued (issue r.second))) := by
  simp only [vecVerdict, fails, second, agree, if_false, Bool.false_eq_true]
  rfl

/-- With a check failed twice the slot is retired and the engine issues nothing more. -/
theorem vecVerdict_of_permanent (fails : (issue r.first).all (·.2.2) ≠ true)
    (second : ((issue r.second).any fun x => !x.2.2) = true) :
    vecVerdict k issue r h s =
      (modVec (retirePermanent (dadd s 0x2D60 2 1) (physSlot s k) 1 (some h)) k fun v => { v with condemned := true }, none) := by
  simp only [vecVerdict, fails, second, if_false, if_true, Bool.false_eq_true]

end

/-! ## The rows -/

/-- A checked row runs its operation with the errors that strike it. -/
def CheckedRow.Runs (r : CheckedRow) : Prop :=
  r.op ≠ opSetvl ∧ ∀ k e s, exec (r.row k e) s = vecRow r.op k s fun h w s => vecChecked k r.path e h w s

theorem checkedRows_run : ∀ r ∈ checkedRows, r.Runs := by
  simp only [checkedRows, List.forall_mem_cons, List.not_mem_nil, false_implies, implies_true, and_true]
  refine ⟨?_, ?_, ?_, ?_, ?_, ?_⟩
  all_goals exact ⟨by decide, fun _ _ _ => rfl⟩

section
variable {r : CheckedRow} (runs : r.Runs) {s : State} {k h pc w : Nat} {e : VecResidue} (stands : s.atWord k h pc w = true)
  (code : vOp w = r.op) (acts : (getVec s k).vl ≠ 0) (fits : (getVec s k).aligned (regs3 w) = true)
include runs stands code acts fits

theorem exec_checked_of_some {u : State} {y : List (Nat × Nat × Ev)}
    (verdict : vecVerdict k (issueOf r.path w (getVec s k) (heatCls s h)) e h s = (u, some y)) :
    exec (r.row k e) s = .next (vecNext (vecPut k (vPacked w) y h w u) k pc) := by
  rw [runs.2, vecRow_at stands code _ (.inl acts)]
  simp only [vecChecked, vecRetire, fits, Bool.not_true, Bool.false_eq_true, if_false]
  change (match (match (vecVerdict k (issueOf r.path w (getVec s k) (heatCls s h)) e h s).2 with
    | some y => VecRes.ok (vecPut k (vPacked w) y h w (vecVerdict k (issueOf r.path w (getVec s k) (heatCls s h)) e h s).1)
    | none => .stall (vecVerdict k (issueOf r.path w (getVec s k) (heatCls s h)) e h s).1) with
    | .stall s => Host.Outcome.next s
    | .fault s c => .next (vecFault s k c pc)
    | .ok s => .next (vecNext s k pc)) = _
  rw [verdict]

theorem exec_checked_of_none {u : State}
    (verdict : vecVerdict k (issueOf r.path w (getVec s k) (heatCls s h)) e h s = (u, none)) :
    exec (r.row k e) s = .next u := by
  rw [runs.2, vecRow_at stands code _ (.inl acts)]
  simp only [vecChecked, vecRetire, fits, Bool.not_true, Bool.false_eq_true, if_false]
  change (match (match (vecVerdict k (issueOf r.path w (getVec s k) (heatCls s h)) e h s).2 with
    | some y => VecRes.ok (vecPut k (vPacked w) y h w (vecVerdict k (issueOf r.path w (getVec s k) (heatCls s h)) e h s).1)
    | none => .stall (vecVerdict k (issueOf r.path w (getVec s k) (heatCls s h)) e h s).1) with
    | .stall s => Host.Outcome.next s
    | .fault s c => .next (vecFault s k c pc)
    | .ok s => .next (vecNext s k pc)) = _
  rw [verdict]

end

theorem counted_dadd (s : State) (i sub : Nat) : Counted s (dadd s i sub 1) i sub := dget_dset_same _ _ _ _

/-- Settles O7: every row writes the lanes of its definition, and a checked row what its verdict leaves. -/
theorem vectorLaneRows : Obligations.VectorLaneRows := by
  unfold Obligations.VectorLaneRows
  refine ⟨fun r listed => (laneRows_writeLanes r listed).completes, fun r listed s k h pc w e stands code acts fits => ?_⟩
  have runs := checkedRows_run r listed
  intro v on pass writes
  have fails : ¬pass e.first → (issueOf r.path w v (heatCls s h) e.first).all (·.2.2) ≠ true := fun bad ok =>
    bad ((all_issueOf_iff _ _ _ _ _).mp ok)
  refine ⟨fun good => ?_, fun bad good agree => ?_, fun bad bad2 => ?_⟩
  · have verdict := vecVerdict_of_pass (k := k) (h := h) (s := s) (r := e) (issue := issueOf r.path w v (heatCls s h))
      ((all_issueOf_iff _ _ _ _ _).mpr good)
    obtain ⟨place, free, lanes, -⟩ := vecNext_vecPut stands rfl (vPacked w) (issued (issueOf r.path w v (heatCls s h) e.first))
    exact ⟨_, exec_checked_of_some runs stands code acts fits verdict, vecFrame_vecPut stands _ _, place, free,
      fun i => by rw [lanes]; exact tabGet_putLanes_issued _ _ _ _ _ i⟩
  · have verdict := vecVerdict_of_corrected (k := k) (h := h) (s := s) (fails bad)
      (Bool.eq_false_iff.mpr fun again => (any_issueOf_iff _ _ _ _ _).mp again good) (any_zip_issueOf_eq_false _ _ _ _ agree)
    have core : getCore (corrected (recordTransient (dadd s 0x2D60 2 1) (physSlot s k) 2 (some h)) k) k = getCore s k := by
      rw [getCore_corrected, getCore, (slotFrame_recordTransient _ _ _ _).whole]
      rfl
    obtain ⟨place, free, lanes, counters⟩ := vecNext_vecPut stands core (vPacked w)
      (issued (issueOf r.path w v (heatCls s h) e.second))
    refine ⟨_, exec_checked_of_some runs stands code acts fits verdict, ⟨place, free, fun i => ?_⟩, ?_, ?_⟩
    · rw [lanes]
      exact tabGet_putLanes_issued _ _ _ _ _ i
    · rw [Counted, counters _ _ (by decide) (by decide), dget_corrected,
        dget_recordTransient_other _ _ _ _ (by decide) (by decide) (by decide)]
      exact counted_dadd s 0x2D60 2
    · have transient := dget_recordTransient_count (dadd s 0x2D60 2 1) (physSlot s k) 2 (some h)
      rw [Counted, counters _ _ (by decide) (by decide), dget_corrected, transient, dadd_eq,
        dget_dset_ne s (by decide) (by decide) (.inr (by decide))]
  · have verdict := vecVerdict_of_permanent (k := k) (h := h) (s := s) (fails bad) ((any_issueOf_iff _ _ _ _ _).mpr bad2)
    have core : getCore (retirePermanent (dadd s 0x2D60 2 1) (physSlot s k) 1 (some h)) k = getCore s k := by
      rw [getCore, (slotFrame_retirePermanent _ _ _ _).whole]
      rfl
    refine ⟨_, exec_checked_of_none runs stands code acts fits verdict, ?_, ?_, mem_retiredSlots_retirePermanent _ _ _ _⟩
    · rw [getVec_modVec_same, getVec, core]
      rfl
    · rw [Counted, modVec_eq, dget_setCore, dget_retirePermanent_other _ _ _ _ (by decide) (by decide) (by decide)]
      exact counted_dadd s 0x2D60 2

end Sys2Proof.Machine
end

section
/-! SUPPORT. Doorbells that are refused, and RING (R250). -/

namespace Sys2Proof.Machine

theorem ringDoorbell_of_refused {s : State} {a : Agent} {q h : Nat} (owner : queueHeat s q = some h)
    (refused : agentAllowed s h a = false ∨ doorbellOpen s q h = false) (t : Nat) :
    ringDoorbell s a q t = (refuseDoorbell s q, false) := by
  have shut : (agentAllowed s h a && doorbellOpen s q h) = false := Bool.and_eq_false_iff.mpr refused
  simp [ringDoorbell, owner, shut]

/-- RING is its core's doorbell, answered in a0. -/
theorem exec_ring_eq {s : State} {k q v h : Nat} (qIn : q < 2 ^ 18) (vIn : v < 2 ^ 32)
    (cluster : clusterHeat s (slotCluster k) = some h) :
    exec (.ring k q v) s = .next (modCore (ringDoorbell s (.core h) q v).1 k fun c =>
      { c with a0 := if (ringDoorbell s (.core h) q v).2 then 0 else 1 }) := by
  change execRing k q v s = _
  simp only [execRing, cluster, Nat.mod_eq_of_lt qIn, Nat.mod_eq_of_lt vIn]

/-- Settles O17: a refused doorbell counts itself, and RING answers what its doorbell did. -/
theorem doorbellsRefused : Obligations.DoorbellsRefused := by
  unfold Obligations.DoorbellsRefused
  refine ⟨fun s a q v h qIn owner refused => ?_, fun s k q v h qIn vIn cluster owner takes => ?_⟩
  · refine ⟨refuseDoorbell s q, ?_, refuseDoorbell_frame owner, getQueue_refuseDoorbell_same owner, dget_refuseDoorbell_same owner⟩
    change Host.Outcome.next (ringDoorbell s a (q % 2 ^ 18) (v % 2 ^ 32)).1 = _
    rw [Nat.mod_eq_of_lt qIn, ringDoorbell_of_refused owner refused]
  · have allowed : agentAllowed s h (.core h) = true := by simp [agentAllowed]
    refine ⟨fun ahead fits => ⟨_, exec_ring_eq qIn vIn cluster, ?_⟩, fun ahead beyond => ⟨_, exec_ring_eq qIn vIn cluster, ?_⟩⟩
    · rw [ringDoorbell_of_fits owner allowed takes ahead fits]
      simp
    · rw [ringDoorbell_of_beyond owner allowed takes ahead beyond]
      simp [getQueue_refuseDoorbell_same owner]

end Sys2Proof.Machine
end

section
/-! SUPPORT. The hand-off, vector blocks and command programs (R160 to R173, R272, R273). -/

namespace Sys2Proof.Machine

/-! ## Streams -/

theorem nth_setNth_same {α : Type} (d v : α) : ∀ (l : List α) (n : Nat), n < l.length → nth d (setNth l n v) n = v
  | _ :: _, 0, _ => rfl
  | _ :: l, n + 1, inside => nth_setNth_same d v l n (Nat.lt_of_succ_lt_succ inside)

theorem lt_length_of_nth_ne {α : Type} {d : α} : ∀ {l : List α} {n : Nat}, nth d l n ≠ d → n < l.length
  | [], _, listed => absurd rfl listed
  | _ :: _, 0, _ => Nat.succ_pos _
  | _ :: _, _ + 1, listed => Nat.succ_lt_succ (lt_length_of_nth_ne listed)

/-- A stream that is there is found as it was set. -/
theorem getStream_setStream_same {s : State} {c n : Nat} {x : Stream} (there : getStream s c n = some x) (y : Option Stream) :
    getStream (setStream s c n y) c n = y := by
  have inside : n < (getCluster s c).streams.length := lt_length_of_nth_ne (by rw [← getStream, there]; simp)
  rw [getStream, setStream, modCluster_eq, getCluster_setCluster_same]
  exact nth_setNth_same _ _ _ _ inside

theorem getStream_of_streamFor {s : State} {k w : Nat} {x : Stream} (open_ : streamFor s k w = some x) :
    getStream s (slotCluster k) (vVd w % 4) = some x := by
  unfold streamFor at open_
  split at open_
  · next y _ there _ =>
    split at open_
    · rw [there, open_]
    · cases open_
  · cases open_

theorem getStream_congr {s t : State} (same : t.clusters = s.clusters) (c n : Nat) : getStream t c n = getStream s c n := by
  rw [getStream, getStream, getCluster, getCluster, same]

@[simp] theorem vecEvents_clusters (s : State) (k h : Nat) (e : Ev) : (vecEvents s k h e).clusters = s.clusters := by
  rw [vecEvents_eq]

/-! ## The hand-off -/

/-- What a hand-off leaves: the stream with more elements and its buffer filled so far, and the events counted. -/
def handedOver (s : State) (k h w : Nat) (x : Stream) (l : List (Nat × Ev)) (held : Nat) : State :=
  vecEvents (setStream s (slotCluster k) (vVd w % 4)
    (some { x with elems := x.elems ++ l.map (·.1), buffered := held + l.length * (x.fmt.elemBits / 8) })) k h (evSum (l.map (·.2)))

section
variable {s : State} {k h w : Nat} {x : Stream} (fits : (getVec s k).aligned [vVa w] = true) (there : streamFor s k w = some x)
  (wanted : x.elems.length + (handElems (getVec s k) (heatCls s h) w x.fmt).length ≤ x.need)
include fits there wanted

theorem handOff_eq (room : Bool) : handOff room k h w s =
    let l := handElems (getVec s k) (heatCls s h) w x.fmt
    let held := if room then 0 else x.buffered
    if held + l.length * (x.fmt.elemBits / 8) > streamBuffer then .stall s else .ok (handedOver s k h w x l held) := by
  have all : (handElems (getVec s k) (heatCls s h) w x.fmt).take (x.need - x.elems.length) =
      handElems (getVec s k) (heatCls s h) w x.fmt := List.take_of_length_le (by omega)
  simp only [handOff, fits, there, all, Bool.not_true, Bool.false_eq_true, if_false, Nat.lt_irrefl]
  rfl

/-- Where the elements have room they go to the stream. -/
theorem handOff_of_room {room : Bool} {held : Nat} (is : (if room = true then 0 else x.buffered) = held)
    (free : held + (handElems (getVec s k) (heatCls s h) w x.fmt).length * (x.fmt.elemBits / 8) ≤ 16384) :
    handOff room k h w s = .ok (handedOver s k h w x (handElems (getVec s k) (heatCls s h) w x.fmt) held) := by
  rw [handOff_eq fits there wanted]
  simp only [is, streamBuffer]
  rw [if_neg (by omega)]

/-- Where they have none the row waits. -/
theorem handOff_of_full
    (full : 16384 < x.buffered + (handElems (getVec s k) (heatCls s h) w x.fmt).length * (x.fmt.elemBits / 8)) :
    handOff false k h w s = .stall s := by
  rw [handOff_eq fits there wanted]
  simp only [streamBuffer, Bool.false_eq_true, if_false]
  rw [if_pos (by omega)]

end

/-- An engine that has handed its elements over stands at the next word. -/
theorem vecNext_handedOver {s : State} {k h pc w : Nat} {x : Stream} (stands : s.atWord k h pc w = true)
    (there : streamFor s k w = some x) (l : List (Nat × Ev)) (held : Nat) :
    (getVec (vecNext (handedOver s k h w x l held) k pc) k).pc = some (pc + 1) ∧
      getStream (vecNext (handedOver s k h w x l held) k pc) (slotCluster k) (vVd w % 4) =
        some { x with elems := x.elems ++ l.map (·.1), buffered := held + l.length * (x.fmt.elemBits / 8) } := by
  have image : (getCore (handedOver s k h w x l held) k).progLen = (getCore s k).progLen := by
    rw [handedOver, vecEvents, getCore_addFlush, getCore_modVec_same]
    rfl
  rw [vecNext_of_core stands image]
  refine ⟨by rw [getVec_modVec_same], ?_⟩
  refine (getStream_congr (s := setStream s _ _ _) ?_ _ _).trans (getStream_setStream_same (getStream_of_streamFor there) _)
  exact vecEvents_clusters _ _ _ _

theorem exec_vqh_eq (k : Nat) (s : State) : exec (.vqh k) s = vecRow 0x3D k s (handOff false k) := rfl

theorem exec_handoffRoom_eq (k : Nat) (s : State) : exec (.handoffRoom k) s =
    if (getVec s k).vl = 0 then .next s
    else vecRow 0x3D k s fun h w s => if handStalled k h w s then handOff true k h w s else .stall s := rfl

/-- Settles O13: with room the elements go to the stream; without, once its buffer has been emptied. -/
theorem vectorHandOff : Obligations.VectorHandOff := by
  unfold Obligations.VectorHandOff
  intro s k h pc w x stands op acts fits there l n wanted
  refine ⟨fun free => ?_, fun full free => ?_⟩
  · refine ⟨_, ?_, vecNext_handedOver stands there l x.buffered⟩
    rw [exec_vqh_eq, vecRow_at stands op _ (.inl acts), handOff_of_room fits there wanted (room := false) rfl free]
    rfl
  · obtain ⟨place, stream⟩ := vecNext_handedOver stands there l 0
    refine ⟨_, ?_, place, by rw [stream, Nat.zero_add]⟩
    have stalled : handStalled k h w s = true := by rw [handStalled, handOff_of_full fits there wanted full]
    rw [exec_handoffRoom_eq, if_neg acts, vecRow_at stands op _ (.inl acts)]
    simp only [stalled, if_true]
    rw [handOff_of_room fits there wanted (room := true) (held := 0) rfl (by rw [Nat.zero_add]; exact free)]

/-! ## Blocks -/

/-- A command whose state has one engine written changes that engine alone. -/
theorem engineStep_of_modVec {i : Instr} {s : State} {k : Nat} {v : VecState} (f : VecState → VecState) (gives : f (getVec s k) = v)
    (ran : exec i s = .next (modVec s k f)) : EngineStep i s k v :=
  ⟨_, ran, rfl, fun _ other => getCore_modVec_ne s other f, by rw [getCore_modVec_same, gives]⟩

theorem exec_vrun_of_free {s : State} {k : Nat} (value : W32) (runs : (program s k).isSome = true) (sound : (getVec s k).fault = none)
    (free : (getVec s k).blocks.length < 4) : exec (.vrun k value) s = .next (modVec s k fun v =>
      { v with blocks := v.blocks ++ [value.toNat % 2 ^ 14], busy := true, blockDone := false }) := by
  change execVrun k value s = _
  obtain ⟨c, runs⟩ := Option.isSome_iff_exists.mp runs
  simp only [execVrun, runs, sound, Option.isNone_some, Option.isSome_none, Bool.false_or, ge_iff_le, decide_eq_true_eq]
  rw [if_neg (Nat.not_le.mpr free)]

theorem exec_vectorBlockStart_eq {s : State} {k b : Nat} {l : List Nat} (idle : (getVec s k).pc = none)
    (queued : (getVec s k).blocks = b :: l) : exec (.vectorBlockStart k) s =
      if b ≥ (getCore s k).progLen then .next (vecFault s k 6 b)
      else .next (modVec s k fun v => { v with pc := some b, blocks := l }) := by
  change execVectorBlockStart k s = _
  simp only [execVectorBlockStart, idle, queued]

/-- A program that has stored nothing goes on. -/
theorem settleProgram_of_open {s : State} {k : Nat} (nothing : ∀ c, (getCore s k).ctl = some c → c.stored = none) :
    settleProgram s k = s := by
  unfold settleProgram
  cases runs : (getCore s k).ctl with
  | none => rfl
  | some c => simp [nothing c runs]

theorem exec_blockDone_of_over {s : State} {k : Nat} (busy : (getVec s k).busy = true) (idle : (getVec s k).pc = none)
    (none_ : (getVec s k).blocks = []) (nothing : ∀ c, (getCore s k).ctl = some c → c.stored = none) :
    exec (.blockDone k) s = .next (modVec s k fun v => { v with busy := false, blockDone := true }) := by
  change execBlockDone k s = _
  simp only [execBlockDone, busy, idle, none_, Bool.not_true, Option.isSome_none, List.isEmpty_nil, Bool.or_self, Bool.false_eq_true,
    if_false]
  rw [settleProgram_of_open]
  rwa [getCore_modVec_same]

theorem exec_summaryValueStore_eq {s : State} {k reg : Nat} (value : W32) (runs : (program s k).isSome = true) (small : reg < 16) :
    exec (.summaryValueStore k reg value) s = if (getVec s k).contributes then .next s
      else .next (modVec s k fun v => { v with sums := tabSet {} v.sums reg (Summary.const value.toNat) }) := by
  change execSummaryValueStore k reg value s = _
  obtain ⟨c, runs⟩ := Option.isSome_iff_exists.mp runs
  simp only [execSummaryValueStore, runs, Option.isNone_some, Bool.false_or, ge_iff_le, Nat.not_le.mpr small, decide_false]

/-! ## Command programs -/

theorem finish_eq (s : State) (q i st a b : Nat) : finish s q i st a b = setQueue s q ((getQueue s q).ended i st a b) := rfl

section
variable (s : State) (k : Nat) (c : CtlRun)

/-- A program's end gives up its core and completes its command. -/
theorem endProgram_eq (st a b : Nat) :
    endProgram s k c st a b = finish (modCore (closeStreams s k (dTag c.desc)) k fun x => { x with ctl := none }) c.queue c.index st a b :=
  rfl

theorem getQueue_endProgram (st a b : Nat) : getQueue (endProgram s k c st a b) c.queue = (getQueue s c.queue).ended c.index st a b := by
  rw [endProgram_eq, finish_eq, getQueue_setQueue_same]
  rfl

theorem getCore_endProgram_same (st a b : Nat) : getCore (endProgram s k c st a b) k = { getCore s k with ctl := none } := by
  rw [endProgram_eq, finish_eq, getCore_setQueue, modCore_eq, getCore_setCore_same]
  rfl

/-- A faulted program is over, its engine reset. -/
theorem faultProgram_gives (cause i : Nat) : (getCore (faultProgram s k c cause i) k).ctl = none ∧
    getVec (faultProgram s k c cause i) k = {} ∧
      getQueue (faultProgram s k c cause i) c.queue = (getQueue s c.queue).ended c.index stProgramFault cause i := by
  refine ⟨?_, ?_, (getQueue_endProgram s k c stProgramFault cause i)⟩
  · rw [faultProgram, getCore_modVec_same, getCore_endProgram_same]
  · rw [faultProgram, getVec_modVec_same]

theorem faultAtPc_gives (cause : Nat) : (getCore (faultAtPc s k c cause) k).ctl = none ∧ getVec (faultAtPc s k c cause) k = {} ∧
    ∃ a, getQueue (faultAtPc s k c cause) c.queue = (getQueue s c.queue).ended c.index stProgramFault cause a := by
  obtain ⟨gone, reset, ended⟩ := faultProgram_gives (ranOn s k c).2 k (ranOn s k c).1 cause (ranOn s k c).1.pc
  exact ⟨gone, reset, _, ended⟩

end

/-- A program that has stored its completion ends where the engine is idle and sound (R273). -/
theorem settleProgram_of_stored {s : State} {k st ret : Nat} {c : CtlRun} (runs : (getCore s k).ctl = some c)
    (stored : c.stored = some (st, ret)) (idle : (getVec s k).busy = false) (sound : (getVec s k).fault = none) :
    settleProgram s k = endProgram s k c st ret (vecWord (getVec s k)) := by
  simp only [settleProgram, runs, stored, idle, sound, Option.isSome_none, Bool.or_self, Bool.false_eq_true, if_false]

/-- The program with what it stored to its completion register. -/
def storeCompletion (s : State) (k : Nat) (c : CtlRun) (st ret : Nat) : State :=
  modCore s k fun x => { x with ctl := some { c with stored := some (st, ret) } }

theorem getVec_storeCompletion (s : State) (k : Nat) (c : CtlRun) (st ret : Nat) :
    getVec (storeCompletion s k c st ret) k = getVec s k := by
  rw [getVec, storeCompletion, modCore_eq, getCore_setCore_same]
  rfl

theorem exec_completionRegister_of_legal {s : State} {k : Nat} {c : CtlRun} {value : W64} (runs : program s k = some c)
    (idle : (getVec s k).busy = false) (sound : (getVec s k).fault = none) (legal : programStatus (fld value 63 48) = true) :
    exec (.completionRegister k value) s = .next (endProgram (storeCompletion s k c (fld value 63 48) (fld value 31 0)) k
      { c with stored := some (fld value 63 48, fld value 31 0) } (fld value 63 48) (fld value 31 0) (vecWord (getVec s k))) := by
  change execCompletionRegister k value s = _
  simp only [execCompletionRegister, runs, legal, if_true]
  have engine := getVec_storeCompletion s k c (fld value 63 48) (fld value 31 0)
  rw [← engine]
  refine congrArg _ (settleProgram_of_stored ?_ rfl (by rw [← idle, ← engine]; rfl) (by rw [← sound, ← engine]; rfl))
  rw [modCore_eq, getCore_setCore_same]

theorem exec_vecRun_of_free {s : State} {q h : Nat} {f : Flight} (free : (getCore s (getQueue s q).slot).ctl = none)
    (run : runningIn s q 0x40 = some (h, f)) : exec (.vecRun q) s = .next (vecRunStep s (getQueue s q).slot q f) := by
  change execVecRun q s = _
  simp only [execVecRun, free]
  exact withRunning_of_runningIn run _

/-- The start of a program changes its core and its command alone. -/
theorem vecRunStep_gives (s : State) (k q : Nat) (f : Flight) :
    let t := vecRunStep s k q f
    (getCore t k).ctl = some { queue := q, index := f.index, desc := f.desc, pc := 2 * fld f.desc 255 241, laps := 0, stored := none } ∧
      getVec t k = { getVec s k with evSat := 0, evNanb := 0, evFlush := 0 } ∧ t = { s with cores := t.cores, queues := t.queues } := by
  intro t
  refine ⟨?_, ?_, rfl⟩
  · simp only [t, vecRunStep, modCore_eq, getCore_setCore_same]
  · simp only [t, vecRunStep, getVec, modCore_eq, getCore_setCore_same, getCore_modVec_same]
    rfl

theorem exec_lapLimit_of_reached {s : State} {k : Nat} {c : CtlRun} (runs : program s k = some c) (reached : limitReached c = true)
    (free : beforeLimit s = false) : exec (.lapLimit k) s = .next (faultAtPc (openWindows s) k c 9) := by
  change execLapLimit k s = _
  simp [execLapLimit, runs, reached, free]

/-- Settles O14: each row of a block and of a command program writes its engine, or ends its command. -/
theorem programsAndBlocks : Obligations.ProgramsAndBlocks := by
  unfold Obligations.ProgramsAndBlocks
  refine ⟨fun s k => ⟨fun value runs sound free => ?_, fun b l idle queued => ?_, fun busy idle none_ nothing => ?_,
    fun reg value runs small => ?_⟩, fun s k => ⟨fun q h f slot free run => ?_, fun c value runs idle sound legal => ?_,
    fun c runs reached free => ?_⟩⟩
  · exact engineStep_of_modVec _ rfl (exec_vrun_of_free value runs sound free)
  · have ran := exec_vectorBlockStart_eq idle queued
    by_cases inside : b < (getCore s k).progLen
    · rw [if_neg (Nat.not_le.mpr inside)] at ran
      rw [if_pos inside]
      exact engineStep_of_modVec _ rfl ran
    · rw [if_pos (Nat.not_lt.mp inside)] at ran
      rw [if_neg inside]
      exact engineStep_of_modVec _ (by rw [idle]) ran
  · exact engineStep_of_modVec _ rfl (exec_blockDone_of_over busy idle none_ nothing)
  · have ran := exec_summaryValueStore_eq value runs small
    refine ⟨fun quiet => engineStep_of_modVec (fun v => { v with sums := tabSet {} v.sums reg (Summary.const value.toNat) }) rfl ?_,
      fun waits => ?_⟩
    · rw [ran, quiet, if_neg Bool.false_ne_true]
    · rw [ran, waits, if_pos rfl]
  · subst slot
    exact ⟨_, exec_vecRun_of_free free run, vecRunStep_gives s _ q f⟩
  · have status : programStatus (fld value 63 48) = true := by simpa [programStatus] using legal
    exact ⟨_, exec_completionRegister_of_legal runs idle sound status, by rw [getCore_endProgram_same], getQueue_endProgram _ _ _ _ _ _⟩
  · obtain ⟨gone, reset, a, ended⟩ := faultAtPc_gives (openWindows s) k c 9
    exact ⟨_, a, exec_lapLimit_of_reached runs reached free, gone, reset, ended⟩

end Sys2Proof.Machine
end

section
/-! SUPPORT. A command that reaches the head of its queue (R257, R340): a collective's head command holds its member table. -/

namespace Sys2Proof.Machine

/-- The descriptor of an ALL_GATHER of one member: its table at 0x3000, number 5, its source at 0x4000. -/
def soloGather : Nat := 0x81 * 2 ^ 8 + 0x3000 * 2 ^ 464 + 5 * 2 ^ 400 + 0x4000 * 2 ^ 304

/-- The member's entry: chip 1, its destination at 0x5000, one element. -/
def soloEntry : Nat := 1 * 2 ^ 112 + 0x5000 * 2 ^ 64 + 1

/-- Heat 0 runs, and an open queue of it holds that command at its head, its table in memory. -/
def soloQueue : State :=
  writeNat (writeNat (Tests.openQ fun x => { x with cls := 4, tail := 1 }) 0x1000 64 soloGather) 0x3000 16 soloEntry

/-- The members that the head command of queue 0 holds after COMMAND_REACHES_HEAD. -/
def headMembers (s : State) : Option (List Member) :=
  match exec (.commandReachesHead 0) s with
  | .next t => (getQueue t 0).headCmd.map (·.members)
  | _ => none

theorem soloQueue_admitted :
    let s := soloQueue
    let x := getQueue s 0
    let d := readSlot s x x.next
    queueHeat s 0 = some 0 ∧ heatRuns s 0 = true ∧ s.errs = [] ∧ x.enabled = true ∧ x.headCmd = none ∧
      1 ≤ aheadOf x.tail x.next ∧ cmdSlots d = 1 ∧ staticCheck s 0 0 (planAdmits s 0) d noExt false = none := by
  decide +kernel

theorem headMembers_soloQueue : headMembers soloQueue = some [{ chip := 1, base := 0x5000, count := 1 }] := by
  decide +kernel

/-- Refutes O18: a collective of one slot that passes the static stage stands at the head with the member table that the stage read,
not with none. -/
theorem not_headOfQueue : ¬ Obligations.HeadOfQueue := by
  unfold Obligations.HeadOfQueue
  intro claim
  obtain ⟨owner, runs, sound, enabled, empty, waits, one, passes⟩ := soloQueue_admitted
  obtain ⟨t, ran, -, -, stands⟩ := (claim.1 soloQueue 0 0 owner runs sound enabled empty waits one).1 passes
  have held := headMembers_soloQueue
  rw [headMembers, ran] at held
  simp [stands] at held

end Sys2Proof.Machine
end

section
/-! SUPPORT. Commands that set something up (R114, R129 to R131, R175, R179, R186, R224, R236, R256, R271, R466) and the
completion record (R258). -/

namespace Sys2Proof.Machine

/-! ## One command over -/

theorem done0_eq (s : State) (q : Nat) (f : Flight) : done0 s q f = setQueue s q ((getQueue s q).ended f.index 0 0 0) := rfl

theorem getQueue_done0_same (s : State) (q : Nat) (f : Flight) : getQueue (done0 s q f) q = (getQueue s q).ended f.index 0 0 0 :=
  getQueue_setQueue_same _ _ _

/-- A running command that is only done changes its queue alone. -/
theorem queueStep_of_done0 {i : Instr} {s : State} {q o h : Nat} {f : Flight} (run : runningIn s q o = some (h, f))
    (row : exec i s = withRunning q o s fun _ f => done0 s q f) : QueueStep i s q ((getQueue s q).ended f.index 0 0 0) :=
  queueStep_of_exec_eq_setQueue (row.trans (withRunning_of_runningIn run _))

/-! ## The completion record -/

theorem countRecord_frame (s : State) (h st : Nat) : ∃ d, countRecord s h st = { s with dict := d } := by
  unfold countRecord
  dsimp only
  split
  · exact ⟨_, rfl⟩
  · split <;> exact ⟨_, rfl⟩

section
variable {s : State} {q h : Nat} {f : Flight} {l : List Flight} (owner : queueHeat s q = some h)
  (oldest : (getQueue s q).flights = f :: l) (over_ : f.done = true)

/-- What a completion record does of its command: the record, a tile's commit, the late changes of tables. -/
def recordEffects (s : State) (q h : Nat) (f : Flight) : State :=
  let x := getQueue s q
  let s := writeRecord s x f
  let s := if f.opcode = opGemm then commitTile s h x.slot f else s
  if f.status / 256 = 1 then s else f.after.foldl (fun s a => applyLate s h a) s

/-- That with what it counts and frees, before the command leaves its queue. -/
def recorded (s : State) (q h : Nat) (f : Flight) : State :=
  modCore (freePrefetch (countRecord (recordEffects s q h f) h f.status) q f.index) (getQueue s q).slot fun c =>
    { c with irqs := c.irqs + b2n (dIrq f.desc), quietAt := (recordEffects s q h f).now }

include owner oldest over_ in
theorem exec_completionRecord_of_done :
    exec (.completionRecord q) s = .next (setQueue (recorded s q h f) q (retire (getQueue s q) f l)) := by
  have now : (freePrefetch (countRecord (recordEffects s q h f) h f.status) q f.index).now = (recordEffects s q h f).now := by
    obtain ⟨d, counted⟩ := countRecord_frame (recordEffects s q h f) h f.status
    rw [counted]
    rfl
  change execCompletionRecord q s = _
  rw [recorded, ← now]
  simp only [execCompletionRecord, owner, oldest, over_, Bool.not_true, Bool.false_eq_true, if_false]
  rfl

theorem recorded_frame (s : State) (q h : Nat) (f : Flight) :
    ∃ d cl c, recorded s q h f = { recordEffects s q h f with dict := d, clusters := cl, cores := c } := by
  obtain ⟨d, counted⟩ := countRecord_frame (recordEffects s q h f) h f.status
  rw [recorded, counted]
  exact ⟨_, _, _, rfl⟩

theorem recorded_mem (s : State) (q h : Nat) (f : Flight) : (recorded s q h f).mem = (recordEffects s q h f).mem := by
  obtain ⟨d, cl, c, gives⟩ := recorded_frame s q h f
  rw [gives]

theorem recorded_blank (s : State) (q h : Nat) (f : Flight) : (recorded s q h f).blank = (recordEffects s q h f).blank := by
  obtain ⟨d, cl, c, gives⟩ := recorded_frame s q h f
  rw [gives]

/-- A command that is no tile writes its record and makes its late changes. -/
theorem recordEffects_of_plain (s : State) (q h : Nat) {f : Flight} (plain : f.opcode ≠ 0x20) : recordEffects s q h f =
    if f.status / 256 = 1 then writeRecord s (getQueue s q) f
    else f.after.foldl (fun s a => applyLate s h a) (writeRecord s (getQueue s q) f) := by
  have other : ¬ f.opcode = opGemm := plain
  simp only [recordEffects, if_neg other]

end

theorem writeRecord_of_single {s : State} {f : Flight} (sound : s.errs = []) (x : Queue) (single : f.hasExt = false) :
    writeRecord s x f = writeBytes s (recordAddr x f.index)
      (bytesOf 16 (recordWord f.status f.index x.log2 false (dClass f.desc) f.opcode (satNat 32 f.wordA) (satNat 64 f.wordB))) := by
  simp only [writeRecord, single, putRecord, storeStack_of_sound sound, Bool.false_eq_true, if_false]

theorem Stored.congr {s t u : State} {a : Nat} {l : List Byte} (stored : Stored s t a l) (mem : u.mem = t.mem) (blank : u.blank = t.blank) :
    Stored s u a l :=
  ⟨(readBytes_congr fun _ _ => getByte_congr mem blank _).trans stored.1, fun b out =>
    (getByte_congr mem blank b).trans (stored.2 b out)⟩

/-- Settles O19: the record's bytes are stored, and its flight leaves the queue. -/
theorem recordWritten : Obligations.RecordWritten := by
  unfold Obligations.RecordWritten
  intro s q h f l owner oldest over_ x
  refine ⟨_, exec_completionRecord_of_done owner oldest over_, ?_, fun sound plain nothing single => ?_⟩
  · rw [getQueue_setQueue_same]
    rfl
  · have effects := recordEffects_of_plain s q h plain
    rw [nothing, List.foldl_nil, ite_self, writeRecord_of_single sound _ single] at effects
    have mem := recorded_mem s q h f
    have blank := recorded_blank s q h f
    rw [effects] at mem blank
    exact (stored_writeBytes s _ _).congr mem blank

/-! ## Setting commands -/

theorem getLedger_setLedger_same (s : State) (h l : Nat) (e : Ledger) : getLedger (setLedger s h l e) h l = e := by
  rw [getLedger, setLedger, modHeat_eq, getHeat_setHeat_same, tabGet_tabSet_same]

section
variable {s : State} {q h : Nat} {f : Flight}

theorem exec_gradOpen_of_runningIn (run : runningIn s q 0xA0 = some (h, f)) :
    exec (.gradOpen q) s = .next (
      if (getLedger s h (fld f.desc 511 500)).st != .idle && (getLedger s h (fld f.desc 511 500)).st != .released then
        finish s q f.index stState 500 0
      else done0 (setLedger s h (fld f.desc 511 500)
        { st := if fld f.desc 425 410 = 0 then .complete else .opened, base := fld f.desc 499 458 * 64, elems := fld f.desc 457 426
          expected := fld f.desc 425 410 }) q f) := withRunning_of_runningIn run _

theorem exec_normSet_of_runningIn {w : Window} (run : runningIn s q 0xA3 = some (h, f))
    (window : normWindow (fld f.desc 499 436) = some w) :
    exec (.normSet q) s = .next (done0 (modHeat s h fun x => { x with
      norms := tabSet {} x.norms (fld f.desc 511 500) { win := w, valid := true, fresh := true } }) q f) := by
  refine (withRunning_of_runningIn run _).trans ?_
  simp only [window]

/-- The region that ADD_ORDER_OPEN's descriptor names (R224). -/
def openedRegion (d : Slot) : OrdRegion :=
  { base := fld d 511 464, bytes := (fld d 463 438 + 1) * 64, members := fld d 437 422 + 1
    bf16 := decide (fld d 421 421 = 1), stage := fld d 420 373 }

theorem exec_addOrderOpen_of_free (run : runningIn s q 0xC5 = some (h, f)) (free : orderState s h f.desc = none) :
    exec (.addOrderOpen q) s = .next (done0 (modHeat s h fun x => { x with
      regions := (x.regions.filter fun y => !(y.closed && overlaps y.base y.bytes (openedRegion f.desc).base (openedRegion f.desc).bytes)) ++
        [openedRegion f.desc] }) q f) := by
  refine (withRunning_of_runningIn run _).trans ?_
  simp only [free]
  rfl

/-- The entry that LAYER_SET's descriptor gives its layer (R131). -/
def layerRowOf (d : Slot) : LayerRow := { rung := fld d 499 498, pin := fld d 497 482, policy := fld d 481 476 }

/-- The heat with that entry. -/
def setLayer (s : State) (h : Nat) (d : Slot) : State :=
  modHeat s h fun x => { x with layers := tabSet {} x.layers (fld d 511 500) (layerRowOf d) }

theorem exec_layerSet_of_sound (run : runningIn s q 0xC2 = some (h, f)) (sound : s.errs = []) :
    exec (.layerSet q) s = .next (done0 (copyLayer (setLayer s h f.desc) h (fld f.desc 511 500) (layerRowOf f.desc)) q f) := by
  have reads : checkRead (setLayer s h f.desc) (statAddr (setLayer s h f.desc) h (fld f.desc 511 500)) 64 = _ :=
    checkRead_of_sound (s := setLayer s h f.desc) sound _ _
  have row : exec (.layerSet q) s = .next (
      if (checkRead (setLayer s h f.desc) (statAddr (setLayer s h f.desc) h (fld f.desc 511 500)) 64).2 then
        done0 (copyLayer (checkRead (setLayer s h f.desc) (statAddr (setLayer s h f.desc) h (fld f.desc 511 500)) 64).1 h
          (fld f.desc 511 500) (layerRowOf f.desc)) q f
      else abandonDma (checkRead (setLayer s h f.desc) (statAddr (setLayer s h f.desc) h (fld f.desc 511 500)) 64).1 q f.index) :=
    withRunning_of_runningIn run _
  rw [row, reads, if_pos rfl]

theorem copyLayer_frame (s : State) (h n : Nat) (r : LayerRow) : ∃ m, copyLayer s h n r = { s with mem := m } :=
  ⟨_, writeNat_frame _ _ _ _⟩

end

/-! ## STEP_END -/

theorem logTrouble_queues (s : State) (h w : Nat) : (logTrouble s h w).1.queues = s.queues := by
  simp only [logTrouble]
  split
  · rfl
  · refine (readFrame_storeStack _ _ _).queues.trans ?_
    split <;> rfl

theorem stepLayer_queues (s : State) (h step : Nat) (c : StepCount) : (stepLayer s h step c).1.queues = s.queues := by
  have copied (v : Nat) (r : LayerRow) : (copyLayer (writeNat s (statAddr s h c.layer) 64 v) h c.layer r).queues = s.queues := by
    obtain ⟨m, frame⟩ := copyLayer_frame (writeNat s (statAddr s h c.layer) 64 v) h c.layer r
    rw [frame, writeNat_frame]
  simp only [stepLayer]
  split
  · exact copied _ _
  · exact (logTrouble_queues _ _ _).trans (copied _ _)

/-- The layers' steps one after another, with the changes they bring. -/
def stepLayers (s : State) (h step : Nat) (l : List StepCount) : State × List Late :=
  l.foldl (fun acc c => ((stepLayer acc.1 h step c).1,
    match (stepLayer acc.1 h step c).2 with | some l => l :: acc.2 | none => acc.2)) (s, [])

theorem stepLayers_queues (s : State) (h step : Nat) (l : List StepCount) : (stepLayers s h step l).1.queues = s.queues := by
  unfold stepLayers
  generalize ([] : List Late) = a
  induction l generalizing s a with
  | nil => rfl
  | cons c l ih => exact (ih _ _).trans (stepLayer_queues s h step c)

theorem exec_stepEnd_of_runningIn {s : State} {q h : Nat} {f : Flight} (run : runningIn s q 0xC1 = some (h, f)) :
    exec (.stepEnd q) s = .next (done0 (modFlight (stepLayers s h (fld f.desc 511 480) f.steps).1 q f.index fun g =>
      { g with after := (stepLayers s h (fld f.desc 511 480) f.steps).2 ++ [.step (fld f.desc 511 480)] }) q f) :=
  withRunning_of_runningIn run _

theorem flightOf_done0 (s : State) (q : Nat) (f : Flight) : flightOf (done0 s q f) q f.index =
    (flightOf s q f.index).map fun g => { g with done := true, status := pickStatus 0 g.status, wordA := 0, wordB := 0 } :=
  flightOf_modFlight_same s q f.index fun _ => rfl

theorem flightOf_congr {s t : State} (same : t.queues = s.queues) (q i : Nat) : flightOf t q i = flightOf s q i := by
  rw [flightOf, flightOf, getQueue, getQueue, same]

/-- Settles O20: what each setting command writes, and that it is done. -/
theorem settingCommands : Obligations.SettingCommands := by
  unfold Obligations.SettingCommands
  refine ⟨fun s q h f => ⟨fun run => queueStep_of_done0 run rfl, fun run => queueStep_of_done0 run rfl,
      fun run => queueStep_of_done0 run rfl, fun run => queueStep_of_done0 run rfl⟩,
    fun s q h f => ⟨fun run => ⟨_, exec_gradOpen_of_runningIn run, fun free => ?_, fun busy held => ?_⟩,
      fun w run window => ⟨_, exec_normSet_of_runningIn run window, getQueue_done0_same _ _ _, ?_⟩,
      fun run free => ⟨_, exec_addOrderOpen_of_free run free, getQueue_done0_same _ _ _, ?_⟩⟩,
    fun s q h f => ⟨fun run sound => ⟨_, exec_layerSet_of_sound run sound, ?_⟩, fun run => ?_⟩⟩
  · have open_ : ((getLedger s h (fld f.desc 511 500)).st != .idle && (getLedger s h (fld f.desc 511 500)).st != .released) = false := by
      rcases free with e | e <;> rw [e] <;> rfl
    rw [open_, if_neg Bool.false_ne_true]
    exact ⟨getQueue_done0_same _ _ _, getLedger_setLedger_same _ _ _ _⟩
  · rw [if_pos (by simp [busy, held])]
    exact ⟨getQueue_setQueue_same _ _ _, rfl⟩
  · rw [done0_eq, getHeat_setQueue, modHeat_eq, getHeat_setHeat_same, tabGet_tabSet_same]
  · rw [done0_eq, getHeat_setQueue, modHeat_eq, getHeat_setHeat_same, List.getLast?_concat]
    rfl
  · obtain ⟨m, copied⟩ := copyLayer_frame (setLayer s h f.desc) h (fld f.desc 511 500) (layerRowOf f.desc)
    rw [copied]
    refine ⟨getQueue_done0_same _ _ _, ?_⟩
    change tabGet {} (getHeat (setLayer s h f.desc) h).layers _ = _
    rw [setLayer, modHeat_eq, getHeat_setHeat_same, tabGet_tabSet_same]
    rfl
  · obtain ⟨g, there⟩ := flightOf_of_runningIn run
    rw [← flightOf_congr (stepLayers_queues s h (fld f.desc 511 480) f.steps)] at there
    have found := flightOf_done0 (modFlight (stepLayers s h (fld f.desc 511 480) f.steps).1 q f.index fun g =>
      { g with after := (stepLayers s h (fld f.desc 511 480) f.steps).2 ++ [.step (fld f.desc 511 480)] }) q f
    rw [flightOf_modFlight_same _ q f.index (fun _ => by rfl), there] at found
    exact ⟨_, _, exec_stepEnd_of_runningIn run, found, rfl, List.getLast?_concat⟩

end Sys2Proof.Machine
end

section
/-! SUPPORT. Tables that a record sets (R116, R179), and the control commands (R164, R165, R236, R271, R466). -/

namespace Sys2Proof.Machine

/-! ## Late changes of a heat's tables -/

/-- A heat after a late change (R116, R129, R179). -/
def lateHeat (x : Heat) : Late → Heat
  | .policy n v => { x with policies := tabSet x.policyInit x.policies n v }
  | .coef n v => { x with coef := tabSet coefDefault x.coef n v }
  | .layer n r => { x with layers := tabSet {} x.layers n r }
  | .step n => { x with lastStep := n }

theorem applyLate_eq (s : State) (h : Nat) (a : Late) : applyLate s h a = setHeat s h (lateHeat (getHeat s h) a) := by
  cases a <;> rfl

theorem getHeat_applyLates (h : Nat) (l : List Late) (s : State) :
    getHeat (l.foldl (fun s a => applyLate s h a) s) h = l.foldl lateHeat (getHeat s h) := by
  induction l generalizing s with
  | nil => rfl
  | cons a l ih => rw [List.foldl_cons, List.foldl_cons, ih, applyLate_eq, getHeat_setHeat_same]

/-- Entries of a table from `a` on, one for each place of a list. -/
theorem tabGet_foldl_range {α : Type} [DecidableEq α] (d : α) (a : Nat) (v : Nat → α) (t : Tab α) (n i : Nat) :
    tabGet d ((List.range n).foldl (fun t j => tabSet d t (a + j) (v j)) t) i =
      if a ≤ i ∧ i < a + n then v (i - a) else tabGet d t i := by
  induction n with
  | zero =>
    rw [if_neg (by omega)]
    rfl
  | succ n ih =>
    rw [List.range_succ, List.foldl_append, List.foldl_cons, List.foldl_nil, tabGet_tabSet, ih]
    by_cases here : i = a + n
    · subst here
      simp
    · rw [if_neg here]
      exact if_congr (by omega) rfl rfl

theorem lateHeat_policies (a : Nat) (v : Nat → Nat) (x : Heat) (n : Nat) :
    ((List.range n).map fun i => Late.policy (a + i) (v i)).foldl lateHeat x =
      { x with policies := (List.range n).foldl (fun t j => tabSet x.policyInit t (a + j) (v j)) x.policies } := by
  induction n with
  | zero => rfl
  | succ n ih =>
    simp only [List.range_succ, List.map_append, List.foldl_append, List.map_cons, List.map_nil, List.foldl_cons, List.foldl_nil]
    rw [ih]
    rfl

theorem lateHeat_coefs (a : Nat) (v : Nat → Nat) (x : Heat) (n : Nat) :
    ((List.range n).map fun i => Late.coef (a + i) (v i)).foldl lateHeat x =
      { x with coef := (List.range n).foldl (fun t j => tabSet coefDefault t (a + j) (v j)) x.coef } := by
  induction n with
  | zero => rfl
  | succ n ih =>
    simp only [List.range_succ, List.map_append, List.foldl_append, List.map_cons, List.map_nil, List.foldl_cons, List.foldl_nil]
    rw [ih]
    rfl

/-! ## A setting command and its record -/

theorem writeRecord_heats {s : State} (sound : s.errs = []) (x : Queue) (f : Flight) : (writeRecord s x f).heats = s.heats := by
  have put (t : State) (clear : t.errs = []) (i w : Nat) : (putRecord t x i w).heats = t.heats ∧ (putRecord t x i w).errs = [] := by
    rw [putRecord, storeStack_of_sound clear, writeBytes_frame]
    exact ⟨rfl, clear⟩
  obtain ⟨heats, clear⟩ := put s sound f.index
    (recordWord f.status f.index x.log2 false (dClass f.desc) f.opcode (satNat 32 f.wordA) (satNat 64 f.wordB))
  simp only [writeRecord]
  split
  · exact (put _ clear _ _).1.trans heats
  · exact heats

section
variable {s : State} {q h : Nat} {f : Flight} {l : List Flight}

/-- The oldest command over, with success. -/
def succeeded (f : Flight) : Flight := { f with done := true, status := 0, wordA := 0, wordB := 0 }

theorem ended_of_oldest (x : Queue) (oldest : x.flights = f :: l) (clean : f.status = 0) :
    (x.ended f.index 0 0 0).flights = succeeded f :: l := by
  simp only [Queue.ended, oldest, modFirst, beq_self_eq_true, if_true]
  rw [clean]
  rfl

theorem getHeat_recorded (clean : f.status = 0) (sound : s.errs = []) (plain : f.opcode ≠ 0x20) :
    getHeat (recorded s q h f) h = f.after.foldl lateHeat (getHeat s h) := by
  obtain ⟨d, cl, c, gives⟩ := recorded_frame s q h f
  have heats : (recorded s q h f).heats = (recordEffects s q h f).heats := by rw [gives]
  rw [getHeat, heats, ← getHeat, recordEffects_of_plain s q h plain, clean, if_neg (by decide), getHeat_applyLates, getHeat,
    writeRecord_heats sound, ← getHeat]

/-- The oldest command of a queue, done without words, has its record written and its late changes made. -/
theorem record_of_done0 (owner : queueHeat s q = some h) (oldest : (getQueue s q).flights = f :: l) (clean : f.status = 0)
    (sound : s.errs = []) (plain : f.opcode ≠ 0x20) :
    ∃ u, exec (.completionRecord q) (done0 s q f) = .next u ∧
      getQueue u q = { getQueue s q with flights := l, head := (f.index + if f.hasExt then 2 else 1) % 2 ^ 32 } ∧
      getHeat u h = f.after.foldl lateHeat (getHeat s h) := by
  have queue : getQueue (done0 s q f) q = (getQueue s q).ended f.index 0 0 0 := getQueue_done0_same s q f
  have flights : (getQueue (done0 s q f) q).flights = succeeded f :: l := by rw [queue]; exact ended_of_oldest _ oldest clean
  refine ⟨_, exec_completionRecord_of_done (s := done0 s q f) owner flights rfl, ?_, ?_⟩
  · rw [getQueue_setQueue_same, queue]
    rfl
  · rw [getHeat_setQueue]
    exact getHeat_recorded (s := done0 s q f) (f := succeeded f) rfl sound plain

theorem opcode_of_runningIn {o : Nat} (run : runningIn s q o = some (h, f)) : f.opcode = o := by
  have found := List.find?_some (runningIn_eq_some_iff.mp run).2
  simp only [Bool.and_eq_true, beq_iff_eq] at found
  exact found.1.1

end

/-- Settles O21: the entries captured at the start reach the table with the record. -/
theorem settingsTakeEffect : Obligations.SettingsTakeEffect := by
  unfold Obligations.SettingsTakeEffect
  intro s s₀ q h f l oldest sound clean captured named src
  refine ⟨fun run => ?_, fun run => ?_⟩
  · intro a n
    have code := opcode_of_runningIn run
    obtain ⟨u, wrote, queue, heat⟩ := record_of_done0 (runningIn_eq_some_iff.mp run).1 oldest clean sound (by rw [code]; decide)
    refine ⟨_, u, withRunning_of_runningIn run _, wrote, queue, fun i => ?_⟩
    have late : f.after = (List.range n).map fun i => .policy (a + i) (readNat s₀ (src + 16 * i) 16) := by
      rw [captured, lateOf, named, code]
      rfl
    rw [late, lateHeat_policies] at heat
    rw [getPolicy, heat]
    exact tabGet_foldl_range _ _ _ _ _ _
  · intro a n
    have code := opcode_of_runningIn run
    obtain ⟨u, wrote, queue, heat⟩ := record_of_done0 (runningIn_eq_some_iff.mp run).1 oldest clean sound (by rw [code]; decide)
    refine ⟨_, u, withRunning_of_runningIn run _, wrote, queue, fun i => ?_⟩
    have late : f.after = (List.range n).map fun i => .coef (a + i) (readNat s₀ (src + 48 * i) 48) := by
      rw [captured, lateOf, named, code]
      rfl
    rw [late, lateHeat_coefs] at heat
    rw [heat]
    exact tabGet_foldl_range _ _ _ _ _ _

/-! ## Control commands -/

/-- The clusters of a list emptied of cached lines. -/
theorem lines_of_emptied (l : List Nat) (s : State) :
    let t := l.foldl (fun s c => modCluster s c fun x => { x with lines := [] }) s
    t.queues = s.queues ∧ ∀ c, (c ∈ l ∨ (getCluster s c).lines = []) → (getCluster t c).lines = [] := by
  induction l generalizing s with
  | nil => exact ⟨rfl, fun c here => here.resolve_left List.not_mem_nil⟩
  | cons a l ih =>
    obtain ⟨queues, empties⟩ := ih (modCluster s a fun x => { x with lines := [] })
    refine ⟨queues, fun c here => empties c ?_⟩
    rw [modCluster_eq, getCluster_setCluster]
    by_cases first : c = a
    · rw [if_pos first]
      exact .inr rfl
    · rw [if_neg first]
      rcases here with listed | empty
      · exact .inl ((List.mem_cons.mp listed).resolve_left first)
      · exact .inr empty

section
variable {s : State} {q h : Nat} {f : Flight}

/-- The queue that QUEUE_SET's descriptor sets up (R271). -/
def newQueue (d : Slot) : Queue :=
  { enabled := decide (fld d 493 493 = 1), cls := fld d 492 490, slot := fld d 489 480, log2 := fld d 479 476 + 6
    ring := fld d 475 428, cpl := fld d 427 380 }

theorem exec_queueSet_of_quiet (run : runningIn s q 0xC6 = some (h, f)) (quiet : queueQuiet (getQueue s (fld f.desc 511 494)) = true) :
    exec (.queueSet q) s = .next (done0 (setQueue s (fld f.desc 511 494) (newQueue f.desc)) q f) := by
  refine (withRunning_of_runningIn run _).trans ?_
  simp only [quiet, Bool.not_true, Bool.false_eq_true, if_false]
  rfl

theorem exec_cacheInv_of_whole (run : runningIn s q 0xC4 = some (h, f)) (whole : fld f.desc 463 416 = 0) :
    exec (.cacheInv q) s = .next (done0 ((heatClusters s h).foldl (fun s c => modCluster s c fun x => { x with lines := [] }) s) q f) := by
  refine (withRunning_of_runningIn run _).trans ?_
  simp only [whole, if_true]

theorem exec_testWindow_of_runningIn (run : runningIn s q 0xC7 = some (h, f)) :
    exec (.testWindow q) s = .next (
      if (spareOf s (queueCluster q)).isSome || s.lap ≥ fld f.desc 511 464 + fld f.desc 463 448 then done0 s q f
      else modCluster (modFlight s q f.index fun f => { f with acted := true }) (queueCluster q) fun x => { x with
        windows := x.windows ++ [{ queue := q, index := f.index, lap := fld f.desc 511 464, laps := fld f.desc 463 448
                                   begun := fld f.desc 511 464 ≤ s.lap && !eventsHeld s }] }) := withRunning_of_runningIn run _

/-- The core's program memory with an image at its words (R164). -/
def loadProgram (c : Core) (w : Nat) (l : List Nat) : Core :=
  { c with
    prog := ((List.range l.length).zip l).foldl (fun t y => tabSet 0 t (w + y.1) y.2) c.prog
    progLen := max c.progLen (w + l.length) }

theorem exec_progLoad_of_vector (run : runningIn s q 0xC3 = some (h, f)) (vector : fld f.desc 463 463 = 0) :
    exec (.progLoad q) s = .next (if progWaits s (getQueue s q).slot false then s
      else done0 (modCore (stageProgram s (getQueue s q).slot f.desc) (getQueue s q).slot fun c =>
        loadProgram c (fld f.desc 448 435) f.words) q f) := by
  refine (withRunning_of_runningIn run _).trans ?_
  simp only [vector, Nat.zero_ne_one, decide_false, if_false]
  rfl

/-- Staging changes memory, free values and the core's record of writes, no program. -/
theorem stageProgram_program (s : State) (k : Nat) (d : Slot) :
    (getCore (stageProgram s k d) k).prog = (getCore s k).prog ∧ (getCore (stageProgram s k d) k).progLen = (getCore s k).progLen ∧
      (stageProgram s k d).queues = s.queues := by
  simp only [stageProgram, noteBufWrite, List.isEmpty_cons, Bool.false_eq_true, if_false, modCore_eq, getCore_setCore_same]
  rw [writeBytes_frame]
  exact ⟨rfl, rfl, rfl⟩

theorem foldl_zip_range (t : Tab Nat) (w : Nat) (l : List Nat) :
    ((List.range l.length).zip l).foldl (fun t y => tabSet 0 t (w + y.1) y.2) t =
      (List.range l.length).foldl (fun t j => tabSet 0 t (w + j) l[j]!) t := by
  have zipped : (List.range l.length).zip l = (List.range l.length).map fun j => (j, l[j]!) := by
    refine List.ext_getElem (by simp) fun i first second => ?_
    have inside : i < l.length := by simpa using second
    simp [inside]
  rw [zipped, List.foldl_map]

/-- The image's words stand from its first word on, and the others as before. -/
theorem tabGet_loadProgram (c : Core) (w : Nat) (l : List Nat) (i : Nat) :
    tabGet 0 (loadProgram c w l).prog i = if w ≤ i ∧ i < w + l.length then l[i - w]! else tabGet 0 c.prog i := by
  rw [loadProgram, foldl_zip_range]
  exact tabGet_foldl_range _ _ (fun j => l[j]!) _ _ _

end

/-- Settles O22: each control command changes what it names, and is done. -/
theorem controlCommands : Obligations.ControlCommands := by
  unfold Obligations.ControlCommands
  refine ⟨fun s q h f => ⟨fun run other quiet => ?_, fun run whole => ?_, fun run => ?_⟩, fun s q h f run vector => ?_⟩
  · refine ⟨_, exec_queueSet_of_quiet run quiet, ?_, ?_⟩
    · rw [getQueue_done0_same, getQueue_setQueue_ne _ other.symm]
    · rw [done0_eq, getQueue_setQueue_ne _ other, getQueue_setQueue_same]
      rfl
  · obtain ⟨queues, empties⟩ := lines_of_emptied (heatClusters s h) s
    refine ⟨_, exec_cacheInv_of_whole run whole, ?_, fun c listed => ?_⟩
    · rw [getQueue_done0_same, getQueue, queues, ← getQueue]
    · rw [done0_eq, getCluster_setQueue]
      exact empties c (.inl listed)
  · have ran := exec_testWindow_of_runningIn run
    refine ⟨fun over_ => ?_, fun alone ahead => ?_⟩
    · rw [if_pos (by simpa using over_)] at ran
      exact queueStep_of_exec_eq_setQueue ran
    · rw [if_neg (by simp [alone, ahead])] at ran
      refine ⟨_, ran, ?_⟩
      rw [modCluster_eq, getCluster_setCluster_same]
      rfl
  · have ran := exec_progLoad_of_vector run vector
    refine ⟨fun waits => by rw [ran, if_pos waits], fun free => ⟨_, by rw [ran, free, if_neg Bool.false_ne_true], ?_, ?_⟩⟩
    · rw [getQueue_done0_same, modCore_eq, getQueue_setCore, getQueue, (stageProgram_program _ _ _).2.2, ← getQueue]
    · obtain ⟨prog, len, -⟩ := stageProgram_program s (getQueue s q).slot f.desc
      rw [done0_eq, getCore_setQueue, modCore_eq, getCore_setCore_same]
      refine ⟨fun i => ?_, by rw [loadProgram, len]⟩
      rw [tabGet_loadProgram, prog]

end Sys2Proof.Machine
end

section
/-! SUPPORT. UPDATE_LAYER (R184 to R197): the end of a pass, and the elements of a dense one. -/

namespace Sys2Proof.Machine

/-! ## The end of a command -/

/-- A command that is finished is over, with its status where it had none. -/
theorem ended_finish {s : State} {q i st a b : Nat} {f : Flight} (there : flightOf s q i = some f) (clean : f.status = 0) :
    Ended (finish s q i st a b) q i (pickStatus st 0) a b := by
  have found : flightOf (finish s q i st a b) q i = _ := flightOf_modFlight_same s q i fun _ => rfl
  rw [there] at found
  exact ⟨_, found, rfl, congrArg (pickStatus st) clean, rfl, rfl⟩

/-- The heat with a pass's record and its entry released (R190, R197). -/
def released (x : Heat) (p : UpdPar) (word : Nat) : Heat :=
  { x with
    ledger := tabSet {} x.ledger p.layer { tabGet {} x.ledger p.layer with st := .released }
    recs := tabSet {} x.recs p.layer { word := word, stat := p.stat } }

theorem endUpdate_of_sound {s u : State} (sound : s.errs = []) (h q : Nat) (f : Flight) (p : UpdPar) {word : Nat} (elems st : Nat)
    (wrote : writeBytes s p.stat (bytesOf 64 word) = u) :
    ∃ x, endUpdate s h q f p word elems st = finish { u with heats := x } q f.index st elems 0 ∧
      tabGet {} x h = released (getHeat s h) p word := by
  have heats : u.heats = s.heats := by rw [← wrote, writeBytes_frame]
  rw [endUpdate, storeStack_of_sound sound, wrote]
  refine ⟨_, rfl, ?_⟩
  change getHeat (setLedger _ h p.layer _) h = _
  simp only [setLedger, modHeat_eq, getHeat_setHeat_same, getLedger]
  rw [getHeat, heats, ← getHeat]
  rfl

theorem exec_updateLayer_of_runningIn {s : State} {q h : Nat} {f : Flight} (run : runningIn s q 0xA2 = some (h, f)) :
    exec (.updateLayer q) s = .next (updateStep s h q f) := withRunning_of_runningIn run _

/-- The end of a pass in plain memory stores its record, frees its entry and finishes its command. -/
theorem endUpdate_gives {s : State} {q h : Nat} {f : Flight} (sound : s.errs = []) (there : flightOf s q f.index = some f)
    (clean : f.status = 0) (p : UpdPar) (word elems st : Nat) :
    ∃ t, endUpdate s h q f p word elems st = t ∧ Ended t q f.index (pickStatus st 0) elems 0 ∧
      t = { s with mem := t.mem, heats := t.heats, queues := t.queues } ∧ getHeat t h = released (getHeat s h) p word ∧
      Stored s t p.stat (bytesOf 64 word) := by
  have stored := stored_writeBytes s p.stat (bytesOf 64 word)
  have frame := writeBytes_frame s p.stat (bytesOf 64 word)
  generalize wrote : writeBytes s p.stat (bytesOf 64 word) = u at stored frame
  obtain ⟨x, ends, heat⟩ := endUpdate_of_sound sound h q f p elems st wrote
  refine ⟨_, ends, ?_, ?_, ?_, ?_⟩
  · refine ended_finish ((flightOf_congr ?_ q f.index).trans there) clean
    rw [frame]
  · rw [frame]
    rfl
  · rw [finish_eq, getHeat_setQueue]
    exact heat
  · exact stored.congr rfl rfl

/-- Settles O30: a frozen group's pass is its end alone. -/
theorem frozenGroup : Obligations.FrozenGroup := by
  unfold Obligations.FrozenGroup
  intro s q h f run there clean sound frozen p e word
  have step : updateStep s h q f = endUpdate s h q f p word 0 stFrozen := by
    rw [updateStep, if_pos frozen]
  obtain ⟨t, ends, over_, frame, heat, stored⟩ := endUpdate_gives (h := h) sound there clean p word 0 stFrozen
  exact ⟨t, (exec_updateLayer_of_runningIn run).trans (congrArg _ (step.trans ends)), over_, stored, frame, heat⟩

/-! ## A run of elements -/

section
variable (c : Coef) (z : FV) (base grad : Nat) (s : State)

/-- Where element `i` of a run of record groups has its weight and its moment (R187). -/
def weightAt (i : Nat) : Nat := base + 192 * (i / 32) + 4 * (i % 32)
def momentAt (i : Nat) : Nat := base + 192 * (i / 32) + 128 + 2 * (i % 32)

/-- What element `i` becomes, from what memory holds. -/
def elementAt (i : Nat) : UpdOut :=
  updateElem c z none (readNat s (weightAt base i) 4) (readNat s (momentAt base i) 2) (readNat s (grad + 4 * i) 4)

/-- A run of elements writes its first `n` weights and moments and no other byte. -/
structure RunWrites (n : Nat) (t : State) : Prop where
  frame : t = { s with mem := t.mem }
  wrote : ∀ i, i < n → readNat t (weightAt base i) 4 = (elementAt c z base grad s i).w % 2 ^ 32 ∧
    readNat t (momentAt base i) 2 = (elementAt c z base grad s i).m % 2 ^ 16
  kept : ∀ b, (∀ i, i < n → (b < weightAt base i ∨ weightAt base i + 4 ≤ b) ∧ (b < momentAt base i ∨ momentAt base i + 2 ≤ b)) →
    getByte t b = getByte s b

end

/-- Elements at different places share no byte. -/
theorem elements_apart (base : Nat) {i j : Nat} (differ : i ≠ j) :
    (weightAt base i + 4 ≤ weightAt base j ∨ weightAt base j + 4 ≤ weightAt base i) ∧
      (momentAt base i + 2 ≤ momentAt base j ∨ momentAt base j + 2 ≤ momentAt base i) := by
  unfold weightAt momentAt
  omega

/-- No weight shares a byte with a moment. -/
theorem weight_apart_moment (base i j : Nat) : weightAt base i + 4 ≤ momentAt base j ∨ momentAt base j + 2 ≤ weightAt base i := by
  unfold weightAt momentAt
  omega

/-- An element lies inside its run. -/
theorem element_inside (base : Nat) {i n : Nat} (inside : i < n) :
    base ≤ weightAt base i ∧ weightAt base i + 4 ≤ base + 192 * ((n + 31) / 32) ∧
      base ≤ momentAt base i ∧ momentAt base i + 2 ≤ base + 192 * ((n + 31) / 32) := by
  unfold weightAt momentAt
  omega

section
variable {c : Coef} {z : FV} {base grad n : Nat} {s t : State} (so : RunWrites c z base grad s n t)
include so

/-- What the run has not reached it reads as at first. -/
theorem RunWrites.readNat_of_apart {a w : Nat} (apart : ∀ i, i < n →
    (a + w ≤ weightAt base i ∨ weightAt base i + 4 ≤ a) ∧ (a + w ≤ momentAt base i ∨ momentAt base i + 2 ≤ a)) :
    readNat t a w = readNat s a w := by
  refine readNat_congr fun j inside => so.kept _ fun i before => ?_
  obtain ⟨weight, moment⟩ := apart i before
  omega

/-- One more element, read as at first, is written. -/
theorem RunWrites.next (gradApart : grad + 4 * (n + 1) ≤ base ∨ base + 192 * ((n + 32) / 32) ≤ grad) (p : PassSums) (q : Nat) :
    RunWrites c z base grad s (n + 1)
      (updateOne c z none q (base + 192 * (n / 32)) (n % 32) (grad + 4 * n) (t, p)).1 := by
  have weight : readNat t (weightAt base n) 4 = readNat s (weightAt base n) 4 := so.readNat_of_apart fun i before => by
    have apart := elements_apart base (Nat.ne_of_lt before)
    have other := weight_apart_moment base n i
    omega
  have moment : readNat t (momentAt base n) 2 = readNat s (momentAt base n) 2 := so.readNat_of_apart fun i before => by
    have apart := elements_apart base (Nat.ne_of_lt before)
    have other := weight_apart_moment base i n
    omega
  have gradient : readNat t (grad + 4 * n) 4 = readNat s (grad + 4 * n) 4 := so.readNat_of_apart fun i before => by
    have inside := element_inside base (Nat.lt_succ_of_lt before)
    omega
  have step : (updateOne c z none q (base + 192 * (n / 32)) (n % 32) (grad + 4 * n) (t, p)).1 =
      writeNat (writeNat t (weightAt base n) 4 (elementAt c z base grad s n).w) (momentAt base n) 2 (elementAt c z base grad s n).m := by
    rw [elementAt, ← weight, ← moment, ← gradient]
    rfl
  rw [step]
  have parted := weight_apart_moment base n n
  refine ⟨?_, fun i before => ?_, fun b out => ?_⟩
  · rw [writeNat_frame, writeNat_frame, so.frame]
  · by_cases last : i = n
    · subst last
      rw [readNat_writeNat_same, readNat_writeNat_out _ (by omega), readNat_writeNat_same]
      exact ⟨rfl, rfl⟩
    · have apart := elements_apart base last
      have one := weight_apart_moment base i n
      have two := weight_apart_moment base n i
      obtain ⟨w, m⟩ := so.wrote i (by omega)
      rw [readNat_writeNat_out _ (by omega), readNat_writeNat_out _ (by omega), readNat_writeNat_out _ (by omega),
        readNat_writeNat_out _ (by omega)]
      exact ⟨w, m⟩
  · obtain ⟨w, m⟩ := out n (Nat.lt_succ_self n)
    rw [getByte_writeNat_out _ _ (by omega), getByte_writeNat_out _ _ (by omega)]
    exact so.kept b fun i before => out i (Nat.lt_succ_of_lt before)

end

/-- A run of `n` elements writes each of them (R187). -/
theorem updateRun_writes (c : Coef) (z : FV) {base grad : Nat} (s : State) (p : PassSums) (n : Nat)
    (gradApart : grad + 4 * n ≤ base ∨ base + 192 * ((n + 31) / 32) ≤ grad) :
    RunWrites c z base grad s n (updateRun c z none 0 base grad n (s, p)).1 := by
  induction n with
  | zero => exact ⟨rfl, fun i none_ => absurd none_ (Nat.not_lt_zero i), fun _ _ => rfl⟩
  | succ n ih =>
    have so := ih (by omega)
    unfold updateRun at so ⊢
    rw [List.range_succ, List.foldl_append, List.foldl_cons, List.foldl_nil]
    exact so.next gradApart _ _

/-! ## A dense pass -/

section
variable {s : State} {q h : Nat} {f : Flight} (sound : s.errs = [])

/-- What a dense pass with a valid norm slot leaves before its end (R184 to R189). -/
def densely (s : State) (h : Nat) (p : UpdPar) (c : Coef) (engines : Nat) : State × PassSums :=
  let t := trustStep c (tabGet {} (getHeat s h).norms p.layer).win p.elems
  let r := updateRun c t.2.1 none 0 p.rec_ p.grad p.shard (s, PassSums.start engines)
  (modHeat r.1 h fun x => { x with norms := tabSet {} x.norms p.layer { win := mergeAll r.2.w, valid := true, fresh := false } }, r.2)

theorem pickStatus_passStatus (n : UpdCounts) : pickStatus (passStatus n) 0 = 0 ∨ pickStatus (passStatus n) 0 = 0x0206 := by
  unfold passStatus
  split
  · exact .inr (by decide)
  · exact .inl (by decide)

include sound in
/-- A dense group with a valid norm slot is updated and its pass ends. -/
theorem updateStep_of_dense (warm : (Coef.ofRow f.coef).frozen = false) (dense : (Coef.ofRow f.coef).sparse = false)
    (valid : (tabGet {} (getHeat s h).norms (UpdPar.ofDesc f.desc).layer).valid = true) :
    ∃ word st, updateStep s h q f = endUpdate (densely s h (UpdPar.ofDesc f.desc) (Coef.ofRow f.coef) (max 1 (dget s 0x2C10 1))).1 h q f
      (UpdPar.ofDesc f.desc) word (UpdPar.ofDesc f.desc).shard st ∧ (pickStatus st 0 = 0 ∨ pickStatus st 0 = 0x0206) := by
  simp only [updateStep, warm, dense, densePass, checkRead_of_sound sound, valid, Bool.not_true, Bool.and_false, Bool.false_eq_true,
    if_true, if_false]
  exact ⟨_, _, rfl, pickStatus_passStatus _⟩

/-- It writes its elements, and uses its norm slot up. -/
theorem densely_writes (s : State) (h : Nat) (p : UpdPar) (c : Coef) (engines : Nat)
    (gradApart : p.grad + 4 * p.shard ≤ p.rec_ ∨ p.rec_ + 192 * ((p.shard + 31) / 32) ≤ p.grad) :
    ∃ u, (densely s h p c engines).1 = u ∧ u = { s with mem := u.mem, heats := u.heats } ∧
      (tabGet {} (getHeat u h).norms p.layer).fresh = false ∧
      RunWrites c (trustStep c (tabGet {} (getHeat s h).norms p.layer).win p.elems).2.1 p.rec_ p.grad s p.shard
        { u with heats := s.heats } := by
  have writes := updateRun_writes c (trustStep c (tabGet {} (getHeat s h).norms p.layer).win p.elems).2.1 s
    (PassSums.start engines) p.shard gradApart
  simp only [densely]
  generalize updateRun c (trustStep c (tabGet {} (getHeat s h).norms p.layer).win p.elems).2.1 none 0 p.rec_ p.grad p.shard
    (s, PassSums.start engines) = r at writes ⊢
  obtain ⟨v, sums⟩ := r
  have frame : v = { s with mem := v.mem } := writes.frame
  refine ⟨_, rfl, ?_, ?_, ?_⟩
  · rw [frame]
    rfl
  · rw [modHeat_eq, getHeat_setHeat_same, tabGet_tabSet_same]
  · have same : { (modHeat v h fun x => { x with norms := tabSet {} x.norms p.layer { win := mergeAll sums.w, valid := true, fresh :=
      false } })
        with heats := s.heats } = v := by rw [frame]; rfl
    rw [same]
    exact writes

end

/-- A run's elements stay where a record apart from it is stored. -/
theorem RunWrites.readNat_stored {c : Coef} {z : FV} {base grad n : Nat} {s u t : State} {a : Nat} {l : List Byte}
    (writes : RunWrites c z base grad s n { u with heats := s.heats }) (stored : Stored u t a l)
    (apart : a + l.length ≤ base ∨ base + 192 * ((n + 31) / 32) ≤ a) {i : Nat} (inside : i < n) :
    readNat t (weightAt base i) 4 = (elementAt c z base grad s i).w % 2 ^ 32 ∧
      readNat t (momentAt base i) 2 = (elementAt c z base grad s i).m % 2 ^ 16 := by
  obtain ⟨w, m⟩ := writes.wrote i inside
  have place := element_inside base inside
  rw [readNat_congr fun j small => stored.2 _ (by omega), readNat_congr (n := 2) fun j small => stored.2 _ (by omega)]
  exact ⟨w, m⟩

/-- Settles O31: the run writes each element, the slot is used up, and the end releases the entry. -/
theorem denseUpdate : Obligations.DenseUpdate := by
  unfold Obligations.DenseUpdate
  intro s q h f run there sound c p slot z last wa ma o warm dense valid clean gradApart statApart
  obtain ⟨word, st, step, status⟩ := updateStep_of_dense (q := q) (f := f) (h := h) sound warm dense valid
  obtain ⟨u, did, frame, norm, writes⟩ := densely_writes s h p c (max 1 (dget s 0x2C10 1)) gradApart
  have clear : u.errs = [] := by
    rw [frame]
    exact sound
  have same : flightOf u q f.index = some f := (flightOf_congr (by rw [frame]) q f.index).trans there
  obtain ⟨t, ends, over_, -, heat, stored⟩ := endUpdate_gives (h := h) clear same clean p word p.shard st
  rw [did, ends] at step
  refine ⟨t, _, (exec_updateLayer_of_runningIn run).trans (congrArg _ step), over_, status, fun i inside => ?_, ?_, ?_⟩
  · exact writes.readNat_stored stored (by rw [length_bytesOf]; exact statApart) inside
  · rw [getLedger, heat, released, tabGet_tabSet_same]
  · rw [heat]
    exact norm

end Sys2Proof.Machine
end

section
/-! SUPPORT. The patrol scrub and the in-die counts (R209, R215). -/

namespace Sys2Proof.Machine

/-! ## Patterns merged -/

/-- What the errors of a list at symbol `i` make of a byte. -/
def symbolOf (l : List (Nat × Byte)) (i : Nat) (v : Byte) : Byte := l.foldl (fun v x => if x.1 = i then v ^^^ x.2 else v) v

theorem symbolOf_xor (l : List (Nat × Byte)) (i : Nat) (v : Byte) : symbolOf l i v = v ^^^ symbolOf l i 0#8 := by
  induction l generalizing v with
  | nil => simp [symbolOf]
  | cons x l ih =>
    have step (u : Byte) : symbolOf (x :: l) i u = symbolOf l i (if x.1 = i then u ^^^ x.2 else u) := rfl
    rw [step, step, ih]
    by_cases here : x.1 = i
    · rw [if_pos here, if_pos here, ih (0#8 ^^^ x.2), BitVec.zero_xor, BitVec.xor_assoc]
    · rw [if_neg here, if_neg here]

/-- A pattern merged with itself vanishes. -/
theorem mergeErrs_self (l : List (Nat × Byte)) : mergeErrs l l = [] := by
  refine List.filter_eq_nil_iff.mpr fun x listed => ?_
  obtain ⟨i, -, rfl⟩ := List.mem_map.mp listed
  have twice : (l ++ l).foldl (fun (v : Byte) x => if x.1 = i then v ^^^ x.2 else v) 0#8 = symbolOf l i (symbolOf l i 0#8) :=
    List.foldl_append
  simp only [twice]
  rw [symbolOf_xor, BitVec.xor_self]
  decide

theorem mergeErrs_nil : mergeErrs [] [] = [] := mergeErrs_self []

/-! ## The patrol -/

theorem beginPass_frame (s : State) : ∃ l b, beginPass s = { s with scrubbed := l, scrubBegan := b } := by
  unfold beginPass
  split <;> exact ⟨_, _, rfl⟩

/-- A sector entered as read, which may end the pass. -/
def scrubDone (r : State) (n : Nat) : State :=
  let r := { r with scrubbed := n :: r.scrubbed }
  if passOver r then dadd r 0x2D10 5 1 else r

theorem exec_patrolScrub_of_due {s : State} {n : Nat} {e : List (Nat × Byte)} (inside : n < sectorCount s)
    (due : (beginPass s).scrubbed.contains n = false) :
    exec (.patrolScrub n e false) s = .next (scrubDone (readSector (injectErrs (beginPass s) [⟨n, e⟩]) n).1 n) := by
  obtain ⟨l, b, began⟩ := beginPass_frame s
  have size : sectorCount (injectErrs (beginPass s) [⟨n, e⟩]) = sectorCount s := by rw [began]; rfl
  have fresh : (injectErrs (beginPass s) [⟨n, e⟩]).scrubbed.contains n = false := due
  change execPatrolScrub n e false s = _
  rw [execPatrolScrub]
  dsimp only
  rw [size, fresh, if_neg (by simpa using inside)]
  rfl

theorem dget_scrubDone (r : State) (n : Nat) {i sub : Nat} (small : sub < 256) (other : i ≠ 0x2D10 ∨ sub ≠ 5) :
    dget (scrubDone r n) i sub = dget r i sub := by
  unfold scrubDone
  dsimp only
  split
  · rw [dadd_eq, dget_dset_ne _ (by decide) small other]
    rfl
  · rfl

theorem scrubDone_frame (r : State) (n : Nat) :
    ∃ d, scrubDone r n = { r with scrubbed := n :: r.scrubbed, dict := d } := by
  unfold scrubDone
  dsimp only
  split <;> exact ⟨_, rfl⟩

theorem getByte_scrubDone (r : State) (n a : Nat) : getByte (scrubDone r n) a = getByte r a := by
  obtain ⟨d, frame⟩ := scrubDone_frame r n
  exact getByte_congr (by rw [frame]) (by rw [frame]) a

/-- The pass that is over with this sector is counted. -/
theorem dget_scrubDone_passes (r : State) (n : Nat) : dget (scrubDone r n) 0x2D10 5 =
    if sectorCount r ≤ r.scrubbed.length + 1 then min (dget r 0x2D10 5 + 1) (dmax 0x2D10 5) else dget r 0x2D10 5 := by
  have over_ : passOver { r with scrubbed := n :: r.scrubbed } = decide (sectorCount r ≤ r.scrubbed.length + 1) := rfl
  unfold scrubDone
  dsimp only
  rw [over_]
  by_cases last : sectorCount r ≤ r.scrubbed.length + 1
  · rw [if_pos (decide_eq_true last), if_pos last, dadd_eq, dget_dset_same]
    rfl
  · rw [if_neg (by simpa using last), if_neg last]
    rfl

theorem readSector_of_sound {s : State} {n : Nat} (sound : tabGet [] s.errs n = []) : readSector s n = (s, true) := by
  simp only [readSector, sound, if_true]

/-- Errors laid into a sector that has none. -/
theorem injectErrs_clean {s : State} {n : Nat} (clean : tabGet [] s.errs n = []) (e : List (Nat × Byte)) :
    injectErrs s [⟨n, e⟩] = { s with errs := tabSet [] s.errs n (mergeErrs [] e) } := by
  simp only [injectErrs, List.foldl_cons, List.foldl_nil, clean]

/-! ## A corrected sector -/

/-- The state of a sector whose errors the decoder took out whole: no error, and the counts. -/
def correctedSector (s : State) (n k : Nat) : State :=
  let q := channelOf s (n * 64)
  let u := { s with errs := tabSet [] s.errs n [] }
  let u := dadd (dadd u 0x2D10 1 1) 0x2D10 2 k
  let u := domPut u 0x2D10 6 8192 4 q (domNum u 0x2D10 6 4 q + k)
  let u := { u with corrs := (q, u.now, k) :: u.corrs }
  raise u { code := 0x0201, cls := 1, heat := heatOfAddr u (n * 64), unit := q, unitKind := 2, detail := memDetail (n * 64) q k }

theorem readSector_of_fixed {s : State} {n : Nat} {e : List (Nat × Byte)} (there : tabGet [] s.errs n = e) (some_ : e ≠ [])
    (fixes : eccDecode (dget s 0x2720 1) e = .fixed e) :
    (readSector s n).1 = correctedSector s n e.length ∨
      ∃ q x, (readSector s n).1 = raise (markRetire (correctedSector s n e.length) q) x := by
  simp only [readSector, there, if_neg some_, fixes, mergeErrs_self, xorSector, List.foldl_nil]
  split
  · exact .inr ⟨_, _, rfl⟩
  · exact .inl rfl

theorem correctedSector_gives (s : State) (n k : Nat) :
    (∀ a, getByte (correctedSector s n k) a = getByte s a) ∧ tabGet [] (correctedSector s n k).errs n = [] ∧
      dget (correctedSector s n k) 0x2D10 1 = min (dget s 0x2D10 1 + 1) (dmax 0x2D10 1) ∧
      dget (correctedSector s n k) 0x2D10 2 = min (dget s 0x2D10 2 + k) (dmax 0x2D10 2) := by
  refine ⟨fun a => ?_, ?_, ?_, ?_⟩
  · rw [correctedSector, getByte_raise]
    rfl
  · rw [correctedSector, raise_frame]
    exact tabGet_tabSet_same _ _ _ _
  · rw [correctedSector, dget_raise]
    change dget (dadd (dadd { s with errs := _ } 0x2D10 1 1) 0x2D10 2 k) 0x2D10 1 = _
    rw [dadd_eq, dget_dset_ne _ (by decide) (by decide) (.inr (by decide)), dadd_eq, dget_dset_same]
    rfl
  · rw [correctedSector, dget_raise]
    change dget (dadd (dadd { s with errs := _ } 0x2D10 1 1) 0x2D10 2 k) 0x2D10 2 = _
    rw [dadd_eq, dget_dset_same, dadd_eq, dget_dset_ne _ (by decide) (by decide) (.inr (by decide))]
    rfl

/-- A sector whose errors the decoder takes out whole: memory is as before, the errors are gone, and the two counts rise. -/
theorem readSector_fixed_gives {s : State} {n : Nat} {e : List (Nat × Byte)} (there : tabGet [] s.errs n = e) (some_ : e ≠ [])
    (fixes : eccDecode (dget s 0x2720 1) e = .fixed e) :
    (∀ a, getByte (readSector s n).1 a = getByte s a) ∧ tabGet [] (readSector s n).1.errs n = [] ∧
      dget (readSector s n).1 0x2D10 1 = min (dget s 0x2D10 1 + 1) (dmax 0x2D10 1) ∧
      dget (readSector s n).1 0x2D10 2 = min (dget s 0x2D10 2 + e.length) (dmax 0x2D10 2) := by
  have gives := correctedSector_gives s n e.length
  rcases readSector_of_fixed there some_ fixes with plain | ⟨q, x, marked⟩
  · rw [plain]
    exact gives
  · obtain ⟨bytes, clear, one, many⟩ := gives
    rw [marked]
    refine ⟨fun a => (getByte_raise ..).trans (bytes a), ?_, (dget_raise ..).trans one, (dget_raise ..).trans many⟩
    rw [raise_frame]
    exact clear

theorem exec_inDieCountRead_eq (s : State) (n : Nat) : exec (.inDieCountRead n) s = .next (
    if dget s 0x2D10 4 < min n (2 ^ 64 - 1) then
      raise (dset s 0x2D10 4 (min n (2 ^ 64 - 1))) { code := 0x0201, cls := 0, detail := memDetail 0 0 0 }
    else dset s 0x2D10 4 (min n (2 ^ 64 - 1))) := rfl

/-- Settles O33: a sound sector is only entered as read, a corrected one loses its errors, and the in-die counts are set. -/
theorem scrubAndCounts : Obligations.ScrubAndCounts := by
  unfold Obligations.ScrubAndCounts
  refine ⟨fun s n inside clean => ?_, fun s n e inside sound due some_ fixes => ?_, fun s n => ?_⟩
  · intro u due
    obtain ⟨l, b, began⟩ : ∃ l b, u = { s with scrubbed := l, scrubBegan := b } := beginPass_frame s
    have laid := injectErrs_clean (s := u) (n := n) (by rw [began]; exact clean) []
    rw [mergeErrs_nil] at laid
    have read : readSector (injectErrs u [⟨n, []⟩]) n = _ := readSector_of_sound (by rw [laid]; exact tabGet_tabSet_same _ _ _ _)
    have ran := exec_patrolScrub_of_due (e := []) inside due
    change exec _ s = .next (scrubDone (readSector (injectErrs u [⟨n, []⟩]) n).1 n) at ran
    rw [read, laid] at ran
    obtain ⟨d, frame⟩ := scrubDone_frame { u with errs := tabSet [] u.errs n [] } n
    refine ⟨_, ran, by rw [frame], by rw [frame, began], fun k => ?_, by rw [frame, began], ?_⟩
    · rw [frame, began]
      change tabGet [] (tabSet [] s.errs n []) k = _
      rw [tabGet_tabSet]
      by_cases here : k = n
      · rw [if_pos here, here, clean]
      · rw [if_neg here]
    · rw [dget_scrubDone_passes, began]
      rfl
  · obtain ⟨l, b, began⟩ := beginPass_frame s
    have laid := injectErrs_clean (s := beginPass s) (n := n) (by rw [began]; exact congrArg (tabGet [] · n) sound) e
    have ran := exec_patrolScrub_of_due (e := e) inside due
    rw [laid, began] at ran
    have there : tabGet [] (tabSet [] s.errs n (mergeErrs [] e)) n = mergeErrs [] e := tabGet_tabSet_same _ _ _ _
    obtain ⟨bytes, clear, one, many⟩ := readSector_fixed_gives
      (s := { s with scrubbed := l, scrubBegan := b, errs := tabSet [] s.errs n (mergeErrs [] e) }) there some_ fixes
    refine ⟨_, ran, fun a => (getByte_scrubDone _ _ a).trans (bytes a), ?_, ?_, ?_⟩
    · obtain ⟨d, frame⟩ := scrubDone_frame
        (readSector { s with scrubbed := l, scrubBegan := b, errs := tabSet [] s.errs n (mergeErrs [] e) } n).1 n
      rw [frame]
      exact clear
    · rw [dget_scrubDone _ _ (by decide) (.inr (by decide))]
      exact one
    · rw [dget_scrubDone _ _ (by decide) (.inr (by decide))]
      exact many
  · refine ⟨_, exec_inDieCountRead_eq s n, ?_⟩
    split
    · next more =>
      refine ⟨by rw [dget_raise, dget_dset_same], by rw [raise_frame]; rfl, by rw [raise_frame]; rfl, fun few => ?_⟩
      omega
    · exact ⟨by rw [dget_dset_same], rfl, rfl, fun _ => ⟨rfl, rfl⟩⟩

end Sys2Proof.Machine
end

section
/-! SUPPORT. A heat control whose entry another client's transfer holds (R478). -/

namespace Sys2Proof.Machine

/-- Heat 0 runs, and a client on CAN has a transfer open for its control entry. -/
def controlHeld : State :=
  { Tests.heatIn .running with transfers := [{ path := .can 5, index := hCfg 0, sub := 2, data := [], last := 0 }] }

/-- The state of heat 0 after STOP by the bench. -/
def stoppedTo (s : State) : Option HState :=
  match exec (.stop .bench 0) s with
  | .next t => some (getHeat t 0).st
  | _ => none

theorem controlHeld_open : dictAnswers controlHeld = true ∧ bootStage controlHeld ≠ bsRecovery ∧
    (getHeat controlHeld 0).st = .running := by decide +kernel

theorem stoppedTo_controlHeld : stoppedTo controlHeld = some .running := by decide +kernel

/-- Refutes O34: while another client's transfer is open for the control entry, STOP is answered that the entry is busy and the heat runs
on. -/
theorem not_heatControl : ¬ Obligations.HeatControl := by
  unfold Obligations.HeatControl
  intro claim
  obtain ⟨answers, boot, runs⟩ := controlHeld_open
  obtain ⟨-, -, stop, -⟩ := claim.1 controlHeld .bench 0 ⟨rfl, answers, by decide, boot⟩
  obtain ⟨t, ran, stopping, -⟩ := stop runs
  have stays := stoppedTo_controlHeld
  rw [stoppedTo, ran] at stays
  simp [stopping] at stays

end Sys2Proof.Machine
end

section
/-! SUPPORT. What a port's plan state brought up to date changes (R319 to R321), and what removed plans leave. -/

namespace Sys2Proof.Machine

/-! ## Packets on the line -/

/-- Two states whose ports differ in the packets on their line queues alone. -/
def SameButQueued (s t : State) : Prop :=
  ∀ j, ∃ q u l, getPort t j = { getPort s j with queue := q, unacked := u, sending := l }

theorem SameButQueued.refl (s : State) : SameButQueued s s := fun j => ⟨_, _, _, (rfl : getPort s j = getPort s j)⟩

theorem SameButQueued.trans {s t u : State} (a : SameButQueued s t) (b : SameButQueued t u) : SameButQueued s u := by
  intro j
  obtain ⟨_, _, _, first⟩ := a j
  obtain ⟨_, _, _, second⟩ := b j
  exact ⟨_, _, _, by rw [second, first]⟩

theorem SameButQueued.of_ports {s t : State} (same : t.ports = s.ports) : SameButQueued s t := by
  intro j
  rw [getPort, same]
  exact ⟨_, _, _, rfl⟩

theorem sameButQueued_modPort (s : State) (p : Nat) {f : Port → Port}
    (lines : ∀ x, ∃ q u l, f x = { x with queue := q, unacked := u, sending := l }) : SameButQueued s (modPort s p f) := by
  intro j
  by_cases here : j = p
  · rw [here, modPort_eq, getPort_setPort_same]
    exact lines _
  · rw [modPort_eq, getPort_setPort_ne s here]
    exact ⟨_, _, _, rfl⟩

/-! ## One port's plan state -/

/-- What bringing plan states up to date may change: the states of `l`, lines, events and what they contain. -/
structure PlanFrame (l : Nat → Prop) (s t : State) : Prop where
  whole : t = { s with dict := t.dict, ports := t.ports, heats := t.heats, events := t.events, lostEvents := t.lostEvents }
  dict : ∀ i sub, sub < 256 → (sub = 3 → ∀ p, l p → i ≠ pIdx p) → dget t i sub = dget s i sub
  ports : SameButQueued s t
  heats : SameButContained s t

theorem PlanFrame.refl (l : Nat → Prop) (s : State) : PlanFrame l s s := ⟨rfl, fun _ _ _ _ => rfl, .refl s, .refl s⟩

theorem PlanFrame.trans {l : Nat → Prop} {s t u : State} (a : PlanFrame l s t) (b : PlanFrame l t u) : PlanFrame l s u := by
  refine ⟨?_, fun i sub small other => (b.dict i sub small other).trans (a.dict i sub small other), a.ports.trans b.ports,
    a.heats.trans b.heats⟩
  have first := a.whole
  have second := b.whole
  rw [first] at second
  exact second

theorem PlanFrame.mono {l m : Nat → Prop} (less : ∀ p, l p → m p) {s t : State} (a : PlanFrame l s t) : PlanFrame m s t :=
  ⟨a.whole, fun i sub small other => a.dict i sub small fun three p listed => other three p (less p listed), a.ports, a.heats⟩

theorem planFrame_foldl {α : Type} {l : Nat → Prop} {f : State → α → State} (step : ∀ s a, PlanFrame l s (f s a)) (r : List α)
    (s : State) : PlanFrame l s (r.foldl f s) := by
  induction r generalizing s with
  | nil => exact .refl l s
  | cons a r ih => exact (step s a).trans (ih _)

/-- A heat that loses a port does nothing, or reports it (R321). -/
theorem heatLoses_eq (s : State) (p h : Nat) :
    heatLoses s p h = s ∨ ∃ cls cause, heatLoses s p h = portEvent s p 0x0301 cls cause (some h) := by
  have reports (e : PlanPort) : (if e.optional then portEvent s p 0x0301 1 0 (some h) else portEvent s p 0x0301 2 6 (some h)) = s ∨
      ∃ cls cause, (if e.optional then portEvent s p 0x0301 1 0 (some h) else portEvent s p 0x0301 2 6 (some h)) =
        portEvent s p 0x0301 cls cause (some h) := by
    split
    · exact .inr ⟨1, 0, rfl⟩
    · exact .inr ⟨2, 6, rfl⟩
  unfold heatLoses
  split
  · split
    · split
      · exact reports _
      · exact reports _
      · exact reports _
      · exact .inl rfl
    · exact .inl rfl
  · exact .inl rfl

section
variable (l : Nat → Prop) (s : State)

theorem planFrame_raise (e : Event) : PlanFrame l s (raise s e) :=
  ⟨by rw [raise_frame], fun i sub _ _ => dget_raise .., .of_ports (by rw [raise_frame]), sameButContained_raise s e⟩

theorem planFrame_portEvent (p code cls cause : Nat) (h : Option Nat) : PlanFrame l s (portEvent s p code cls cause h) :=
  planFrame_raise l s _

theorem planFrame_enqueue (k : Packet) (ing : Option (Nat × Nat)) (p : Nat) : PlanFrame l s (enqueue s k ing p) :=
  ⟨rfl, fun _ _ _ _ => rfl, sameButQueued_modPort s p fun _ => ⟨_, _, _, rfl⟩, .of_heats rfl⟩

theorem planFrame_heatLoses (p h : Nat) : PlanFrame l s (heatLoses s p h) := by
  rcases heatLoses_eq s p h with stays | ⟨cls, cause, told⟩
  · rw [stays]
    exact .refl l s
  · rw [told]
    exact planFrame_portEvent l s _ _ _ _ _

theorem planFrame_reroute (p : Nat) : PlanFrame l s (reroute s p) := by
  refine .trans (t := modPort s p fun x => { x with unacked := [], queue := [], sending := [] })
    ⟨rfl, fun _ _ _ _ => rfl, sameButQueued_modPort s p fun _ => ⟨_, _, _, rfl⟩, .of_heats rfl⟩ (planFrame_foldl (fun u k => ?_) _ _)
  split
  · split
    · exact planFrame_enqueue l u _ _ _
    · exact .refl l u
  · exact .refl l u

end

/-- A port's plan state changes its own entry, and what follows from it. -/
theorem planFrame_updatePlan (s : State) (p : Nat) : PlanFrame (· = p) s (updatePlan s p) := by
  have entry : PlanFrame (· = p) s (dset s (pIdx p) 3 (planStateOf s p)) :=
    ⟨rfl, fun i sub small other => dget_dset_ne s (show 3 < 256 by decide) small
      (if three : sub = 3 then .inl (other three p rfl) else .inr three) _, .of_ports rfl, .of_heats rfl⟩
  have logged := entry.trans (planFrame_portEvent _ _ p 0x0301 0 0 none)
  simp only [updatePlan]
  split
  · exact .refl _ s
  · split
    · exact logged
    · exact logged.trans ((planFrame_foldl (fun u h => planFrame_heatLoses _ u p h) _ _).trans (planFrame_reroute _ _ p))

/-- The plan state shown afterwards is the one that follows from the state before (R319). -/
theorem planState_updatePlan (s : State) (p : Nat) : planState (updatePlan s p) p = planStateOf s p := by
  have shown : dget (dset s (pIdx p) 3 (planStateOf s p)) (pIdx p) 3 = planStateOf s p := dget_dset_same _ _ _ _
  have kept {l : Nat → Prop} {t u : State} (none_ : ∀ p, ¬ l p) (frame : PlanFrame l t u) : dget u (pIdx p) 3 = dget t (pIdx p) 3 :=
    frame.dict _ _ (by decide) fun _ p listed => absurd listed (none_ p)
  have logged := kept (fun _ => id) (planFrame_portEvent (fun _ => False) (dset s (pIdx p) 3 (planStateOf s p)) p 0x0301 0 0 none)
  simp only [updatePlan]
  split
  · next same => exact same.symm
  · rw [planState]
    split
    · exact logged.trans shown
    · refine (kept (fun _ => id) (planFrame_reroute (fun _ => False) _ p)).trans ?_
      exact (kept (fun _ => id) (planFrame_foldl (fun u h => planFrame_heatLoses (fun _ => False) u p h) _ _)).trans (logged.trans shown)

theorem planFrame_updatePlans (s : State) : PlanFrame (fun _ => True) s (updatePlans s) :=
  planFrame_foldl (fun u p => (planFrame_updatePlan u p).mono fun _ _ => trivial) _ s

/-! ## Plans that go -/

/-- What removed plans may change: what plan states change, ports that owe a record, the plans, and the storage of their heats. -/
structure RemovalFrame (s t : State) : Prop where
  whole : t = { s with
    dict := t.dict, dom := t.dom, ports := t.ports, heats := t.heats, events := t.events, lostEvents := t.lostEvents, plans := t.plans
    conns := t.conns, nvmes := t.nvmes, storeReqs := t.storeReqs, serves := t.serves }
  heats : SameButContained s t

theorem RemovalFrame.refl (s : State) : RemovalFrame s s := ⟨rfl, .refl s⟩

theorem RemovalFrame.trans {s t u : State} (a : RemovalFrame s t) (b : RemovalFrame t u) : RemovalFrame s u := by
  refine ⟨?_, a.heats.trans b.heats⟩
  have first := a.whole
  have second := b.whole
  rw [first] at second
  exact second

theorem PlanFrame.removal {l : Nat → Prop} {s t : State} (a : PlanFrame l s t) : RemovalFrame s t := by
  refine ⟨?_, a.heats⟩
  have whole := a.whole
  rw [whole]

theorem removalFrame_foldl {α : Type} {f : State → α → State} (step : ∀ s a, RemovalFrame s (f s a)) (r : List α) (s : State) :
    RemovalFrame s (r.foldl f s) := by
  induction r generalizing s with
  | nil => exact .refl s
  | cons a r ih => exact (step s a).trans (ih _)

theorem removalFrame_dropStorage (s : State) (h : Nat) : RemovalFrame s (dropStorage s h) := ⟨rfl, .of_heats rfl⟩

theorem removalFrame_modPort (s : State) (p : Nat) (f : Port → Port) : RemovalFrame s (modPort s p f) := ⟨rfl, .of_heats rfl⟩

theorem removalFrame_plansChanged (s : State) (l : List PlanPort) : RemovalFrame s (plansChanged s l) := by
  unfold plansChanged
  have owed := removalFrame_foldl (fun u (x : PlanPort) => removalFrame_modPort u x.port fun y => { y with owes := true }) l s
  exact owed.trans (planFrame_updatePlans _).removal

theorem removalFrame_removePlans (s : State) (p : Installed → Bool) : RemovalFrame s (removePlans s p) := by
  have dropped := removalFrame_foldl (fun u (x : Installed) => removalFrame_dropStorage u x.plan.heat)
    ((s.plans.filter p).filter fun x => !x.plan.transit) { s with plans := s.plans.filter fun x => !p x }
  refine .trans (t := { s with plans := s.plans.filter fun x => !p x }) ⟨rfl, .of_heats rfl⟩ (dropped.trans (.trans ?_
    (removalFrame_plansChanged _ _)))
  exact ⟨rfl, .of_heats rfl⟩

theorem removalFrame_removeHeatPlan (s : State) (h : Nat) : RemovalFrame s (removeHeatPlan s h) :=
  (removalFrame_removePlans s _).trans (removalFrame_dropStorage _ h)

theorem RemovalFrame.st {s t : State} (a : RemovalFrame s t) (h : Nat) : (getHeat t h).st = (getHeat s h).st := by
  obtain ⟨c, same⟩ := a.heats h
  rw [same]

theorem RemovalFrame.getByte {s t : State} (a : RemovalFrame s t) (i : Nat) : getByte t i = getByte s i :=
  getByte_congr (by rw [a.whole]) (by rw [a.whole]) i

end Sys2Proof.Machine
end

section
/-! SUPPORT. How heats go on from STARTING, STOPPING and RELEASING (R241, R242, R320). -/

namespace Sys2Proof.Machine

/-! ## Bytes set to zero -/

/-- An unlisted byte of a range that was cleared reads as 0. -/
theorem getByte_zeroRange_inside (s : State) {a n i : Nat} (low : a ≤ i) (high : i < a + n) : getByte (zeroRange s a n) i = 0#8 := by
  have gone : tabGet 0#8 (zeroRange s a n).mem i = 0#8 := by
    simp [zeroRange, tabGet_drop, low, high]
  have blank : blankByte (zeroRange s a n) i = 0#8 := by
    simp only [blankByte, zeroRange, clearBlank]
    split
    · next x first =>
      split at first
      · rw [List.find?_cons_of_pos (by simp [low, high])] at first
        cases first
        rfl
      · next none_ =>
        have hit := List.find?_some first
        have listed := List.mem_of_find?_eq_some first
        simp only [Bool.and_eq_true, decide_eq_true_eq] at hit
        refine absurd (List.any_eq_true.mpr ⟨x, listed, ?_⟩) none_
        simp only [Bool.and_eq_true, decide_eq_true_eq]
        omega
    · rfl
  rw [getByte, gone, blank]
  decide

/-- Bytes outside a cleared range are as before. -/
theorem getByte_zeroRange_outside (s : State) {a n i : Nat} (out : i < a ∨ a + n ≤ i) : getByte (zeroRange s a n) i = getByte s i := by
  have kept : tabGet 0#8 (zeroRange s a n).mem i = tabGet 0#8 s.mem i := by
    rw [zeroRange, tabGet_drop, if_neg (by simp; omega)]
  have blank : (zeroRange s a n).blank.find? (fun x => x.1 ≤ i && i < x.2.1) = s.blank.find? fun x => x.1 ≤ i && i < x.2.1 := by
    simp only [zeroRange, clearBlank]
    split
    · rw [List.find?_cons_of_neg (by simp; omega), List.find?_filter]
      refine List.find?_congr fun x _ => ?_
      by_cases covers : (decide (x.1 ≤ i) && decide (i < x.2.1)) = true
      · simp only [covers]
        simp only [Bool.and_eq_true, decide_eq_true_eq] at covers
        simp only [and_true, decide_eq_true_eq, Bool.not_eq_true', Bool.and_eq_false_iff, decide_eq_false_iff_not]
        omega
      · simp only [Bool.not_eq_true] at covers
        simp [covers]
    · rfl
  rw [getByte, getByte, kept, blankByte, blankByte, blank]

/-- A byte that is 0 stays so whatever range is cleared. -/
theorem getByte_zeroRange_of_zero {s : State} {i : Nat} (zero : getByte s i = 0#8) (a n : Nat) : getByte (zeroRange s a n) i = 0#8 := by
  by_cases inside : a ≤ i ∧ i < a + n
  · exact getByte_zeroRange_inside s inside.1 inside.2
  · rw [getByte_zeroRange_outside s (by omega), zero]

/-- Every byte of ranges set to zero one after another is 0. -/
theorem getByte_zeroStacks (l : List (Nat × Nat)) (s : State) {i : Nat}
    (covered : (∃ r ∈ l, r.1 ≤ i ∧ i < r.1 + r.2) ∨ getByte s i = 0#8) :
    getByte (l.foldl (fun s r => zeroStack s r.1 r.2) s) i = 0#8 := by
  induction l generalizing s with
  | nil => exact covered.resolve_left fun ⟨_, none_, _⟩ => absurd none_ List.not_mem_nil
  | cons r l ih =>
    rw [List.foldl_cons]
    rcases covered with ⟨x, listed, low, high⟩ | zero
    · rcases List.mem_cons.mp listed with rfl | rest
      · exact ih _ (.inr (getByte_zeroRange_inside s low high))
      · exact ih _ (.inl ⟨x, rest, low, high⟩)
    · exact ih _ (.inr (getByte_zeroRange_of_zero zero _ _))

/-! ## Units set up anew -/

/-- What becomes of a zero byte as the units of a heat are set up anew. -/
theorem getByte_freshUnits_of_zero {s : State} {i : Nat} (zero : getByte s i = 0#8) (h : Nat) : getByte (freshUnits s h) i = 0#8 := by
  have cores (l : List Nat) (u : State) (z : getByte u i = 0#8) : getByte (l.foldl (fun s k => modCore s k freshCore) u) i = 0#8 := by
    induction l generalizing u with
    | nil => exact z
    | cons k l ih => exact ih _ z
  have clusters (l : List Nat) (u : State) (z : getByte u i = 0#8) : getByte (l.foldl (fun s c => freshCluster s h c) u) i = 0#8 := by
    induction l generalizing u with
    | nil => exact z
    | cons c l ih => exact ih _ (getByte_zeroRange_of_zero z _ _)
  exact clusters _ _ (cores _ _ zero)

/-! ## States of a heat -/

theorem setHState_st (s : State) (h : Nat) (st : HState) : (getHeat (setHState s h st) h).st = st := by
  rw [setHState, getHeat_raise_st, modHeat_eq, getHeat_setHeat_same]

theorem setHState_frame (s : State) (h : Nat) (st : HState) :
    ∃ x ev n, setHState s h st = { s with heats := x, events := ev, lostEvents := n } := by
  obtain ⟨x, ev, n, raised⟩ := raise_eq (modHeat s h fun x => { x with st := st })
    { code := 0x0701, cls := 0, heat := some h, detail :=
        bytesOf 1 h ++ bytesOf 1 (getHeat s h).st.code ++ bytesOf 1 st.code ++ bytesOf 4 0 }
  exact ⟨x, ev, n, raised⟩

theorem refuseDoorbell_heats (s : State) (q : Nat) : (refuseDoorbell s q).heats = s.heats := by
  unfold refuseDoorbell
  dsimp only
  split <;> rfl

theorem ringDoorbell_heats (s : State) (a : Agent) (q t : Nat) : (ringDoorbell s a q t).1.heats = s.heats := by
  simp only [ringDoorbell]
  split
  · exact refuseDoorbell_heats s q
  · split
    · split
      · rfl
      · split
        · rfl
        · exact refuseDoorbell_heats s q
    · exact refuseDoorbell_heats s q

theorem getHeat_congr {s t : State} (same : t.heats = s.heats) (h : Nat) : getHeat t h = getHeat s h := by
  rw [getHeat, getHeat, same]

theorem sendResult_heats (s : State) (n req result detail : Nat) : (sendResult s n req result detail).heats = s.heats := by
  obtain ⟨a, b, c, sent⟩ := sendStarter_frame s n msgResult req (bytesOf 1 result ++ bytesOf 4 detail)
  rw [sendResult, sent]

/-- The JOB_START answered leaves the heat's state. -/
theorem afterStart_st (s : State) (h j : Nat) : (getHeat (afterStart s h) j).st = (getHeat s j).st := by
  unfold afterStart
  split
  · rfl
  · dsimp only
    rw [getHeat_congr (sendResult_heats _ _ _ _ _), modHeat_eq, getHeat_setHeat]
    split
    · next here =>
      rw [here, getHeat_congr (ringDoorbell_heats _ _ _ _)]
    · exact congrArg Heat.st (getHeat_congr (ringDoorbell_heats _ _ _ _) j)

theorem createHeat_st (s : State) (h : Nat) : (getHeat (createHeat s h) h).st = .running := by
  rw [createHeat, afterStart_st, setHState_st]

theorem removeHeatPlan_st (s : State) (h j : Nat) : (getHeat (removeHeatPlan s h) j).st = (getHeat s j).st :=
  (removalFrame_removeHeatPlan s h).st j

/-- A heat whose bytes are zero is FREE, and nothing of it stays (R242). -/
def freed (s : State) (h : Nat) : State := modHeat (setHState s h .free) h fun x => { st := x.st }

theorem freed_st (s : State) (h : Nat) : (getHeat (freed s h) h).st = .free := by
  rw [freed, modHeat_eq, getHeat_setHeat_same]
  exact setHState_st s h .free

theorem getByte_freed (s : State) (h i : Nat) : getByte (freed s h) i = getByte s i := by
  obtain ⟨x, ev, n, frame⟩ := setHState_frame s h .free
  rw [freed, frame]
  rfl

theorem exec_releaseComplete_of_releasing {s : State} {h : Nat} (releasing : (getHeat s h).st = .releasing) :
    exec (.releaseComplete h) s =
      .next (removeHeatPlan (freed (freshUnits ((heatRanges s h).foldl (fun s r => zeroStack s r.1 r.2) s) h) h) h) := by
  change execReleaseComplete h s = _
  unfold execReleaseComplete
  rw [if_neg (by simp [releasing])]
  rfl

/-- Settles O35: each completion leads its heat on, and a released heat's bytes are zero. -/
theorem heatCompletions : Obligations.HeatCompletions := by
  unfold Obligations.HeatCompletions
  intro s h
  refine ⟨fun starting found => ?_, fun stopping quiet => ?_, fun releasing => ?_⟩
  · have ran : exec (.discoveryMatch h) s = .next (createHeat s h) := by
      change execDiscoveryMatch h s = _
      simp [execDiscoveryMatch, starting, found]
    exact ⟨_, ran, createHeat_st s h⟩
  · have ran : exec (.stopComplete h) s = .next (setHState s h .stopped) := by
      change execStopComplete h s = _
      simp [execStopComplete, stopping, quiet]
    obtain ⟨x, ev, n, frame⟩ := setHState_frame s h .stopped
    exact ⟨_, ran, setHState_st s h .stopped, by rw [frame], by rw [frame]⟩
  · refine ⟨_, exec_releaseComplete_of_releasing releasing, (removeHeatPlan_st _ h h).trans (freed_st _ h), fun r listed a low high => ?_⟩
    rw [(removalFrame_removeHeatPlan _ h).getByte, getByte_freed]
    exact getByte_freshUnits_of_zero (getByte_zeroStacks _ s (.inl ⟨r, listed, low, high⟩)) h

end Sys2Proof.Machine
end

section
/-! SUPPORT. Ports that train, and discovery (R303 to R305, R318 to R321). -/

namespace Sys2Proof.Machine

/-! ## A port after its plan state is brought up to date -/

section
variable {l : Nat → Prop} {s t : State} (frame : PlanFrame l s t)
include frame

theorem PlanFrame.dget_of_ne_three {i sub : Nat} (small : sub < 256) (other : sub ≠ 3) : dget t i sub = dget s i sub :=
  frame.dict i sub small fun three => absurd three other

theorem PlanFrame.linkState (p : Nat) : Machine.linkState t p = Machine.linkState s p :=
  frame.dget_of_ne_three (by decide) (by decide)

theorem PlanFrame.lanes (p : Nat) : (getPort t p).lanes = (getPort s p).lanes := by
  obtain ⟨_, _, _, same⟩ := frame.ports p
  rw [same]

theorem PlanFrame.trainedAt (p : Nat) : (getPort t p).trainedAt = (getPort s p).trainedAt := by
  obtain ⟨_, _, _, same⟩ := frame.ports p
  rw [same]

theorem PlanFrame.record (p : Nat) : (getPort t p).record = (getPort s p).record ∧ (getPort t p).late = (getPort s p).late := by
  obtain ⟨_, _, _, same⟩ := frame.ports p
  rw [same]
  exact ⟨rfl, rfl⟩

end

/-! ## Training -/

section
variable {s : State} {p : Nat}

theorem exec_portTraining_of_due (inside : p < 32) (up : linksUp s = true) (laser : laserReady s p = true)
    (enabled : portEnabled s p = true) (down : linkState s p = linkDown)
    (due : ∀ x, (getPort s p).attempt = some x → x + ms 1000 ≤ s.now) : exec (.portTraining p) s =
      .next (modPort (dset s (pIdx p) 1 linkTraining) p fun x => { x with attempt := some s.now }) := by
  change execPortTraining p s = _
  unfold execPortTraining
  cases began : (getPort s p).attempt with
  | none => simp [up, laser, enabled, down, portCount, inside]
  | some x => simp [up, laser, enabled, down, portCount, inside, due x began]

theorem exec_laneLock_of_inTime {x : Nat} (attempt : (getPort s p).attempt = some x) (trains : linkState s p = linkTraining)
    (inTime : s.now ≤ x + ms 500) (own peer : BitVec 4) : exec (.laneLock p own peer) s =
      match chooseWidth (own.toNat &&& peer.toNat) with
      | none => .next (dset s (pIdx p) 1 linkDown)
      | some (lanes, w) => .next (updatePlan (modPort (dset (dset (dset s (pIdx p) 1 linkTrained) (pIdx p) 2 w) (pIdx p) 9 0) p
          fun x => x.start s.now lanes) p) := by
  change execLaneLock p own peer s = _
  simp only [execLaneLock, attempt, trains, inTime, bne_self_eq_false, decide_true, Bool.not_true, Bool.or_self, Bool.false_eq_true,
    if_false]
  rfl

theorem exec_trainingTimeout_of_over {x : Nat} (attempt : (getPort s p).attempt = some x) (trains : linkState s p = linkTraining)
    (late : x + ms 500 ≤ s.now) : exec (.trainingTimeout p) s = .next (dset s (pIdx p) 1 linkDown) := by
  change execTrainingTimeout p s = _
  simp [execTrainingTimeout, attempt, trains, late]

theorem dget_enterHoldover (s : State) {i sub : Nat} (small : sub < 256) (a : i ≠ 0x2200) (b : sub ≠ 4) :
    dget (enterHoldover s) i sub = dget s i sub := by
  rw [enterHoldover, dget_dset_ne _ (by decide) small (.inl a), dget_dset_ne _ (by decide) small (.inl a), dadd_eq,
    dget_dset_ne _ (by decide) small (.inr b)]

/-- A port that leaves TRAINED has its new link state; its counters are as before, and no time has passed. -/
theorem leaveTrained_gives (s : State) (p link : Nat) :
    linkState (leaveTrained s p link) p = link ∧ (leaveTrained s p link).now = s.now ∧
      ∀ sub, sub < 256 → 5 < sub → dget (leaveTrained s p link) (pIdx p) sub = dget s (pIdx p) sub := by
  have apart : pIdx p ≠ 0x2200 := by
    unfold pIdx
    omega
  have held (u : State) (b : Bool) (sub : Nat) (small : sub < 256) (four : sub ≠ 4) :
      dget (if b then enterHoldover u else u) (pIdx p) sub = dget u (pIdx p) sub ∧ (if b then enterHoldover u else u).now = u.now := by
    cases b
    · exact ⟨rfl, rfl⟩
    · exact ⟨dget_enterHoldover u small apart four, rfl⟩
  unfold leaveTrained
  dsimp only
  refine ⟨?_, ?_, fun sub small large => ?_⟩
  · rw [(planFrame_updatePlan _ p).linkState, linkState, (held _ _ 1 (by decide) (by decide)).1]
    change dget (dset (dset s (pIdx p) 1 link) (pIdx p) 2 0) (pIdx p) 1 = link
    rw [dget_dset_ne _ (by decide) (by decide) (.inr (by decide)), dget_dset_same]
  · rw [(planFrame_updatePlan _ p).whole]
    exact (held _ _ 1 (by decide) (by decide)).2
  · rw [(planFrame_updatePlan _ p).dget_of_ne_three small (by omega), (held _ _ sub small (by omega)).1]
    change dget (dset (dset s (pIdx p) 1 link) (pIdx p) 2 0) (pIdx p) sub = _
    rw [dget_dset_ne _ (by decide) small (.inr (by omega)), dget_dset_ne _ (by decide) small (.inr (by omega))]

/-- A port that retrains, counted (R305). -/
theorem retrain_counted (s : State) (p : Nat) : linkState (retrain s p true) p = linkTraining ∧ Counted s (retrain s p true) (pIdx p) 0x0C ∧
    (getPort (retrain s p true) p).attempt = some s.now := by
  obtain ⟨link, now, kept⟩ := leaveTrained_gives (portEvent (dadd s (pIdx p) 0x0C 1) p 0x0304 0 0 none) p linkTraining
  have frame := planFrame_portEvent (fun _ => False) (dadd s (pIdx p) 0x0C 1) p 0x0304 0 0 none
  have time : (portEvent (dadd s (pIdx p) 0x0C 1) p 0x0304 0 0 none).now = s.now := by
    rw [frame.whole]
    rfl
  have counter := frame.dget_of_ne_three (i := pIdx p) (sub := 0x0C) (by decide) (by decide)
  simp only [retrain, if_true]
  generalize portEvent (dadd s (pIdx p) 0x0C 1) p 0x0304 0 0 none = u at *
  refine ⟨link, ?_, ?_⟩
  · rw [Counted, modPort_eq, dget_setPort, kept 0x0C (by decide) (by decide), counter, dadd_eq, dget_dset_same]
  · rw [modPort_eq, getPort_setPort_same, time]

theorem exec_laneLockLoss_of_used {lanes : BitVec 4} (stands : trained s p = true) (used : lanes.toNat &&& (getPort s p).lanes ≠ 0) :
    exec (.laneLockLoss p lanes) s = .next (retrain s p true) := by
  change execLaneLockLoss p lanes s = _
  simp [execLaneLockLoss, stands, used]

end

/-- Settles O38: an attempt begins, ends in its width or in DOWN, and a lost lane begins the next. -/
theorem portTrains : Obligations.PortTrains := by
  unfold Obligations.PortTrains
  intro s p
  refine ⟨fun inside up laser enabled down due => ?_, fun x attempt trains => ⟨fun inTime own peer => ⟨fun lanes w chosen => ?_,
      fun none_ => ?_⟩,
    fun late => ?_⟩, fun lanes stands lost => ?_⟩
  · refine ⟨_, exec_portTraining_of_due inside up laser enabled down due, rfl, ?_, ?_⟩
    · exact dget_dset_same _ _ _ _
    · rw [modPort_eq, getPort_setPort_same]
  · have ran := exec_laneLock_of_inTime attempt trains inTime own peer
    rw [chosen] at ran
    have frame := planFrame_updatePlan (modPort (dset (dset (dset s (pIdx p) 1 linkTrained) (pIdx p) 2 w) (pIdx p) 9 0) p
      fun x => x.start s.now lanes) p
    refine ⟨_, ran, ?_, ?_, ?_, ?_⟩
    · rw [frame.linkState]
      change dget (dset (dset (dset s (pIdx p) 1 linkTrained) (pIdx p) 2 w) (pIdx p) 9 0) (pIdx p) 1 = _
      rw [dget_dset_ne _ (by decide) (by decide) (.inr (by decide)), dget_dset_ne _ (by decide) (by decide) (.inr (by decide)),
        dget_dset_same]
    · rw [frame.dget_of_ne_three (by decide) (by decide)]
      change dget (dset (dset (dset s (pIdx p) 1 linkTrained) (pIdx p) 2 w) (pIdx p) 9 0) (pIdx p) 2 = _
      rw [dget_dset_ne _ (by decide) (by decide) (.inr (by decide)), dget_dset_same]
    · rw [frame.lanes, modPort_eq, getPort_setPort_same]
      rfl
    · rw [frame.trainedAt, modPort_eq, getPort_setPort_same]
      rfl
  · have ran := exec_laneLock_of_inTime attempt trains inTime own peer
    have none_ : own.toNat &&& peer.toNat = 0 := by rw [← BitVec.toNat_and, none_]; rfl
    rw [none_] at ran
    exact ⟨_, ran, dget_dset_same _ _ _ _⟩
  · exact ⟨_, exec_trainingTimeout_of_over attempt trains late, rfl, dget_dset_same _ _ _ _⟩
  · exact ⟨_, exec_laneLockLoss_of_used stands lost, retrain_counted s p⟩

/-! ## Discovery -/

section
variable {s : State} {p : Nat} (stands : trained s p = true)
include stands

theorem exec_discoverySend_of_owed (owes : (getPort s p).owes = true) : exec (.discoverySend p) s =
    .next (modPort (sendCtrl s p ctlRecord (bytesOf 32 (discoveryRecord s p).toNat)) p fun x => { x with owes := false }) := by
  change execDiscoverySend p s = _
  simp only [execDiscoverySend, stands, owes, Bool.and_self, if_true]

/-- The neighbour's entries as a record gives them (R319). -/
def neighbour (s : State) (p : Nat) (r : BitVec 256) : State :=
  let s := takeCtrl s p ctlRecord
  let s := dset (dset s (pIdx p) 4 (fld r 255 240)) (pIdx p) 5 (fld r 239 232)
  let s := dset (dset s (pIdx p) 6 (fld r 231 200)) (pIdx p) 7 (fld r 167 104)
  updatePlan (modPort s p fun x => { x with record := some r, gotRecord := true, late := false }) p

theorem exec_discoveryRecord_of_trained (r : BitVec 256) : exec (.discoveryRecord p r) s = .next (neighbour s p r) ∨
    exec (.discoveryRecord p r) s = .next (portEvent (modPort (neighbour s p r) p fun x =>
      { x with extra := fld r 255 240 :: x.extra }) p 0x0302 0 0 none) := by
  have still : trained (takeCtrl s p ctlRecord) p = true := stands
  change execDiscoveryRecord p r s = _ ∨ execDiscoveryRecord p r s = _
  simp only [execDiscoveryRecord, still, Bool.not_true, Bool.false_eq_true, if_false]
  split
  · exact .inr rfl
  · exact .inl rfl

omit stands in
theorem neighbour_gives (r : BitVec 256) : dget (neighbour s p r) (pIdx p) 4 = fld r 255 240 ∧
    dget (neighbour s p r) (pIdx p) 5 = fld r 239 232 ∧ dget (neighbour s p r) (pIdx p) 6 = fld r 231 200 ∧
      dget (neighbour s p r) (pIdx p) 7 = fld r 167 104 ∧ (getPort (neighbour s p r) p).record = some r ∧
        (getPort (neighbour s p r) p).late = false := by
  unfold neighbour
  dsimp only
  generalize takeCtrl s p ctlRecord = u
  have frame := planFrame_updatePlan (modPort (dset (dset (dset (dset u (pIdx p) 4 (fld r 255 240)) (pIdx p) 5 (fld r 239 232)) (pIdx p) 6
    (fld r 231 200)) (pIdx p) 7 (fld r 167 104)) p fun x => { x with record := some r, gotRecord := true, late := false }) p
  have entry (sub : Nat) (small : sub < 256) (other : sub ≠ 3) := frame.dget_of_ne_three (i := pIdx p) small other
  have ne {u : State} {i a b v : Nat} (small : a < 256) (small' : b < 256) (differ : b ≠ a) : dget (dset u i a v) i b = dget u i b :=
    dget_dset_ne _ small small' (.inr differ) _
  simp only [modPort_eq, dget_setPort] at entry
  refine ⟨?_, ?_, ?_, ?_, ?_, ?_⟩
  · refine (entry 4 (by decide) (by decide)).trans ?_
    rw [ne (by decide) (by decide) (by decide), ne (by decide) (by decide) (by decide), ne (by decide) (by decide) (by decide),
      dget_dset_same]
  · refine (entry 5 (by decide) (by decide)).trans ?_
    rw [ne (by decide) (by decide) (by decide), ne (by decide) (by decide) (by decide), dget_dset_same]
  · refine (entry 6 (by decide) (by decide)).trans ?_
    rw [ne (by decide) (by decide) (by decide), dget_dset_same]
  · exact (entry 7 (by decide) (by decide)).trans (dget_dset_same _ _ _ _)
  · rw [(frame.record p).1, modPort_eq, getPort_setPort_same]
  · rw [(frame.record p).2, modPort_eq, getPort_setPort_same]

theorem exec_discoveryTimeout_of_late (none_ : (getPort s p).gotRecord = false) (late : (getPort s p).trainedAt + ms 2000 ≤ s.now) :
    exec (.discoveryTimeout p) s = .next (updatePlan (modPort s p fun x => { x with late := true }) p) := by
  change execDiscoveryTimeout p s = _
  simp [execDiscoveryTimeout, stands, none_, late]

end

/-- A port without its record in time is MISSING to the plans that name it (R319). -/
theorem planStateOf_of_late {s : State} {p : Nat} (late : (getPort s p).late = true) :
    planStateOf s p = if (namingPlans s p).isEmpty then 0 else 3 := by
  simp only [planStateOf, late, Bool.or_true, if_true]

/-- Settles O40: the record owed goes out, a received one gives the entries, and a missing one is shown. -/
theorem discovery : Obligations.Discovery := by
  unfold Obligations.Discovery
  intro s p stands
  refine ⟨fun owes => ⟨_, exec_discoverySend_of_owed stands owes, rfl, ?_⟩, fun r => ?_, fun none_ late =>
    ⟨_, exec_discoveryTimeout_of_late stands none_ late, ?_, ?_⟩⟩
  · simp only [sendCtrl, modPort_eq, getPort_setPort_same]
  · obtain ⟨chip, peer, epoch, digest, record, late⟩ := neighbour_gives (s := s) (p := p) r
    rcases exec_discoveryRecord_of_trained stands r with ran | ran
    · exact ⟨_, ran, chip, peer, epoch, digest, record, late⟩
    · have frame := planFrame_portEvent (fun _ => False) (modPort (neighbour s p r) p fun x =>
        { x with extra := fld r 255 240 :: x.extra }) p 0x0302 0 0 none
      have entry (sub : Nat) (small : sub < 256) (other : sub ≠ 3) := frame.dget_of_ne_three (i := pIdx p) small other
      refine ⟨_, ran, (entry 4 (by decide) (by decide)).trans chip, (entry 5 (by decide) (by decide)).trans peer,
        (entry 6 (by decide) (by decide)).trans epoch, (entry 7 (by decide) (by decide)).trans digest, ?_, ?_⟩
      · rw [(frame.record p).1, modPort_eq, getPort_setPort_same]
        exact record
      · rw [(frame.record p).2, modPort_eq, getPort_setPort_same]
        exact late
  · rw [((planFrame_updatePlan _ p).record p).2, modPort_eq, getPort_setPort_same]
  · rw [planState_updatePlan, planStateOf_of_late (by rw [modPort_eq, getPort_setPort_same])]
    rfl

end Sys2Proof.Machine
end

section
/-! SUPPORT. What the trims and the margin plan can change (R502 to R507). -/

namespace Sys2Proof.Machine

/-- What a trim, a slot taken out of service and a quadrant's plan may change: what a slot's transient may, and the free values used. -/
structure MarginFrame (s t : State) : Prop where
  whole : t = { s with
    dict := t.dict, dom := t.dom, heats := t.heats, events := t.events, lostEvents := t.lostEvents, history := t.history
    histSector := t.histSector, histUsed := t.histUsed, histSeq := t.histSeq, transients := t.transients, clusters := t.clusters
    markedSlots := t.markedSlots, retiredSlots := t.retiredSlots, freeCtr := t.freeCtr }
  heats : SameButContained s t

theorem MarginFrame.refl (s : State) : MarginFrame s s := ⟨rfl, .refl s⟩

theorem MarginFrame.trans {s t u : State} (a : MarginFrame s t) (b : MarginFrame t u) : MarginFrame s u := by
  refine ⟨?_, a.heats.trans b.heats⟩
  have first := a.whole
  have second := b.whole
  rw [first] at second
  exact second

theorem SlotFrame.margin {s t : State} (a : SlotFrame s t) : MarginFrame s t := by
  refine ⟨?_, a.heats⟩
  have first := a.whole
  rw [first]

theorem marginFrame_foldl {α : Type} {f : State → α → State} (step : ∀ s a, MarginFrame s (f s a)) (l : List α) (s : State) :
    MarginFrame s (l.foldl f s) := by
  induction l generalizing s with
  | nil => exact .refl s
  | cons a l ih => exact (step s a).trans (ih _)

section
variable (s : State)

theorem marginFrame_raise (e : Event) : MarginFrame s (raise s e) := (slotFrame_raise s e).margin

theorem marginFrame_slotEvent (p code cls cause : Nat) (h : Option Nat) : MarginFrame s (slotEvent s p code cls cause h) :=
  marginFrame_raise s _

theorem marginFrame_domPut (i sub total w n v : Nat) : MarginFrame s (domPut s i sub total w n v) := ⟨rfl, .of_heats rfl⟩

theorem marginFrame_dset (i sub v : Nat) : MarginFrame s (dset s i sub v) := ⟨rfl, .of_heats rfl⟩

theorem marginFrame_modCluster (c : Nat) (f : Cluster → Cluster) : MarginFrame s (modCluster s c f) :=
  (slotFrame_modCluster s c f).margin

theorem marginFrame_clusterOut (c : Nat) : MarginFrame s (clusterOut s c) :=
  (marginFrame_dset s 0x2C00 5 _).trans (marginFrame_raise _ _)

theorem marginFrame_retireAndLose (p cause : Nat) : MarginFrame s (retireAndLose s p cause) :=
  (((slotFrame_retireSlot s p cause).margin.trans (marginFrame_domPut _ 0x2800 4 1152 2 p 0)).trans
    (marginFrame_slotEvent _ p 0x0102 2 1 _)).trans (marginFrame_clusterOut _ _)

theorem marginFrame_stepDown (q : Nat) : MarginFrame s (stepDown s q) :=
  (marginFrame_domPut s 0x2800 3 4 1 q _).trans (marginFrame_raise _ _)

theorem marginFrame_handleShort (p : Nat) : MarginFrame s (handleShort s p).1 := by
  unfold handleShort
  dsimp only
  split
  · dsimp only
    exact marginFrame_modCluster s _ _
  · split
    · exact marginFrame_stepDown s _
    · exact marginFrame_retireAndLose s p causeShort

theorem marginFrame_planTrim (p bin : Nat) : MarginFrame s (planTrim s p bin).1 := by
  unfold planTrim planVmin
  cases (slotSweeps s p).find? (·.bin = bin) with
  | none => exact ⟨rfl, .of_heats rfl⟩
  | some w => exact .refl s

theorem marginFrame_planSlots (q : Nat) (l : List Nat) : MarginFrame s (planSlots s q l).1 := by
  induction l generalizing s with
  | nil => exact .refl s
  | cons p l ih =>
    have planned := marginFrame_planTrim s p (quadrantBin s q)
    simp only [planSlots]
    split
    · exact planned.trans ((marginFrame_domPut _ 0x2800 4 1152 2 p _).trans (ih _))
    · split
      · exact planned.trans (marginFrame_handleShort _ p)
      · exact planned.trans ((marginFrame_handleShort _ p).trans (ih _))

theorem marginFrame_replanQuadrant (n q : Nat) : MarginFrame s (replanQuadrant n s q) := by
  induction n generalizing s with
  | zero => exact .refl s
  | succ n ih =>
    simp only [replanQuadrant]
    split
    · exact (marginFrame_planSlots s q _).trans (ih _)
    · exact marginFrame_planSlots s q _

theorem marginFrame_raiseTrim (p : Nat) : MarginFrame s (raiseTrim s p) := by
  unfold raiseTrim
  dsimp only
  split
  · exact (marginFrame_domPut s 0x2800 4 1152 2 p _).trans (marginFrame_slotEvent _ p _ _ _ none)
  · split
    · exact (marginFrame_handleShort s p).trans (marginFrame_replanQuadrant _ 6 _)
    · exact marginFrame_handleShort s p

/-- The trims that rise at a lap start are the monitors' flags taken, and what a trim may change. -/
theorem marginFrame_raiseTrims : MarginFrame { s with trimRaise := [] } (raiseTrims s) :=
  marginFrame_foldl marginFrame_raiseTrim _ _

end

end Sys2Proof.Machine
end

section
/-! SUPPORT. Laps, beacons and delay exchanges; holdover and the PACE_IN pair (R276 to R299). -/

namespace Sys2Proof.Machine

/-! ## Control flits sent on several ports -/

/-- What a port takes up to send: nothing but ports changes, each port of a list takes up the same flits, and no other port any. -/
theorem ctrl_foldl {f : State → Nat → State} {m : State → List (Nat × List Byte)}
    (only : ∀ s p, f s p = { s with ports := (f s p).ports }) (same : ∀ s r, m { s with ports := r } = m s)
    (own : ∀ s p, (getPort (f s p) p).ctrl = (getPort s p).ctrl ++ m s)
    (other : ∀ s p j, j ≠ p → getPort (f s p) j = getPort s j) (l : List Nat) (each : l.Nodup) (s : State) :
    l.foldl f s = { s with ports := (l.foldl f s).ports } ∧ (∀ j, j ∉ l → getPort (l.foldl f s) j = getPort s j) ∧
      ∀ p ∈ l, (getPort (l.foldl f s) p).ctrl = (getPort s p).ctrl ++ m s := by
  induction l generalizing s with
  | nil => exact ⟨rfl, fun _ _ => rfl, fun _ none_ => absurd none_ List.not_mem_nil⟩
  | cons p l ih =>
    obtain ⟨new, each⟩ := List.nodup_cons.mp each
    obtain ⟨whole, outside, inside⟩ := ih each (f s p)
    have first := only s p
    have flits : m (f s p) = m s := by rw [first, same]
    rw [List.foldl_cons]
    refine ⟨?_, fun j absent => ?_, fun q listed => ?_⟩
    · rw [first] at whole
      rw [first]
      exact whole
    · rw [outside j fun there => absent (List.mem_cons_of_mem p there), other s p j fun here => absent (here ▸ List.mem_cons_self)]
    · by_cases here : q = p
      · rw [here, outside p new, own]
      · rw [inside q ((List.mem_cons.mp listed).resolve_left here), other s p q here, flits]

theorem nodup_trainedPorts (s : State) : (trainedPorts s).Nodup := List.nodup_range.filter _

theorem mem_trainedPorts {s : State} {p : Nat} : p ∈ trainedPorts s ↔ p < 32 ∧ trained s p = true := by
  simp [trainedPorts, rangeWhere, portCount]

/-! ## Lap starts (R279, R280) -/

/-- The device's time at a new lap. -/
def lapTime (s : State) : State :=
  { passTick s with
    lap := ((passTick s).lap + 1) % 2 ^ 48, phase := 0, lapStarts := (passTick s).lapStarts + 1
    lapStartAt := (passTick s).lapStartAt + (lapLen s * 64 : Nat) + (passTick s).slewed, slewed := 0 }

/-- What a new lap shows: a setter's lap length, and the laps of holdover. -/
def lapShown (s : State) : State :=
  let s := if isSetter s then dset s 0x2200 3 (dget s 0x2200 2) else s
  if paceState s = psHoldover then dset s 0x2200 0x0B (min 255 (dget s 0x2200 0x0B + 1)) else s

/-- The commands that a new lap finds held, and the laps it counts. -/
def lapHeld (s : State) : State :=
  let s := lapCounts s
  if paceLost s then s else releaseHeld s

/-- The device at a new lap, before its ports say so. -/
def lapBegun (s : State) : State := lapHeld (lapShown (lapTime s))

theorem startLap_eq (s : State) : startLap s = raiseTrims ((trainedPorts (lapBegun s)).foldl lapPort (lapBegun s)) := rfl

theorem passTick_frame (s : State) : passTick s = { s with
    now := (passTick s).now, slewFrac := (passTick s).slewFrac, slew := (passTick s).slew, slewed := (passTick s).slewed } := by
  unfold passTick
  split
  · rfl
  · split <;> rfl

theorem lapShown_frame (s : State) : lapShown s = { s with dict := (lapShown s).dict } := by
  unfold lapShown
  dsimp only
  repeat' split
  all_goals rfl

theorem lapHeld_frame (s : State) : lapHeld s = { s with
    cores := (lapHeld s).cores, colls := (lapHeld s).colls, queues := (lapHeld s).queues, regained := (lapHeld s).regained } := by
  unfold lapHeld
  dsimp only
  split <;> rfl

theorem lapBegun_frame (s : State) : lapBegun s = { passTick s with
    lap := (s.lap + 1) % 2 ^ 48, phase := 0, lapStarts := s.lapStarts + 1
    lapStartAt := s.lapStartAt + (lapLen s * 64 : Nat) + (passTick s).slewed, slewed := 0
    dict := (lapBegun s).dict, cores := (lapBegun s).cores, colls := (lapBegun s).colls, queues := (lapBegun s).queues
    regained := (lapBegun s).regained } := by
  have held := lapHeld_frame (lapShown (lapTime s))
  have shown := lapShown_frame (lapTime s)
  have tick := passTick_frame s
  unfold lapBegun
  generalize lapHeld (lapShown (lapTime s)) = w at *
  generalize lapShown (lapTime s) = v at *
  unfold lapTime at shown
  generalize passTick s = u at *
  rw [tick] at shown ⊢
  rw [shown] at held
  rw [held]

theorem dget_lapTime (s : State) (i sub : Nat) : dget (lapTime s) i sub = dget s i sub := by
  rw [lapTime, passTick_frame]
  rfl

theorem dget_lapHeld (s : State) (i sub : Nat) : dget (lapHeld s) i sub = dget s i sub := by
  rw [lapHeld_frame]
  rfl

/-- A lap start shows the lap length set and the laps of holdover, and no other number. -/
theorem dget_lapShown (s : State) {i sub : Nat} (small : sub < 256) (other : i ≠ 0x2200 ∨ (sub ≠ 3 ∧ sub ≠ 0x0B)) :
    dget (lapShown s) i sub = dget s i sub := by
  have length (v : Nat) : dget (dset s 0x2200 3 v) i sub = dget s i sub :=
    dget_dset_ne s (by decide) small (other.imp_right And.left) v
  have laps (u : State) (v : Nat) : dget (dset u 0x2200 0x0B v) i sub = dget u i sub :=
    dget_dset_ne u (by decide) small (other.imp_right And.right) v
  unfold lapShown
  dsimp only
  repeat' split
  · rw [laps, length]
  · exact length _
  · exact laps s _
  · rfl

theorem dget_lapBegun (s : State) {i sub : Nat} (small : sub < 256) (other : i ≠ 0x2200 ∨ (sub ≠ 3 ∧ sub ≠ 0x0B)) :
    dget (lapBegun s) i sub = dget s i sub := by
  rw [lapBegun, dget_lapHeld, dget_lapShown _ small other, dget_lapTime]

/-- The lap length of a setter's new lap is the one that it is set to. -/
theorem lapLen_lapBegun {s : State} (setter : isSetter s = true) : lapLen (lapBegun s) = dget s 0x2200 2 := by
  have state : paceState (lapTime s) = paceState s := dget_lapTime s _ _
  have free : isSetter (lapTime s) = true := by
    rw [← setter, isSetter, state]
    rfl
  have length : dget (dset (lapTime s) 0x2200 3 (dget (lapTime s) 0x2200 2)) 0x2200 3 = dget s 0x2200 2 := by
    rw [dget_dset_same, dget_lapTime]
  rw [lapBegun, lapLen, dget_lapHeld, lapShown, if_pos free]
  split
  · rw [dget_dset_ne _ (by decide) (by decide) (.inr (by decide)), length]
  · exact length

/-- The flits that a port takes up at a lap start. -/
def lapFlits (s : State) : List (Nat × List Byte) :=
  (ctlRequest, []) :: if isSetter s && ownChip s != 0 then
    [(ctlBeacon, beaconBody (dget s 0x2200 4)
      { lap := s.lap, setter := ownChip s, ticks := lapLen s, hop := 0, corr := corrFrom s.lapStartAt })] else []

/-- A port as it begins its exchange of a lap. -/
def Port.lapAsked (x : Port) : Port :=
  { x with laps := x.laps + 1, asked := true, owes := x.owes || (x.laps + 1) % 1024 = 0 }

theorem getPort_modPort_same (s : State) (p : Nat) (f : Port → Port) : getPort (modPort s p f) p = f (getPort s p) := by
  rw [modPort_eq, getPort_setPort_same]

theorem getPort_modPort_ne (s : State) {p j : Nat} (other : j ≠ p) (f : Port → Port) : getPort (modPort s p f) j = getPort s j := by
  rw [modPort_eq, getPort_setPort_ne s other]

theorem lapPort_eq (s : State) (p : Nat) : lapPort s p =
    if isSetter s && ownChip s != 0 then
      sendCtrl (sendCtrl (modPort s p Port.lapAsked) p ctlRequest []) p ctlBeacon (beaconBody (dget s 0x2200 4)
        { lap := s.lap, setter := ownChip s, ticks := lapLen s, hop := 0, corr := corrFrom s.lapStartAt })
    else sendCtrl (modPort s p Port.lapAsked) p ctlRequest [] := rfl

theorem lapPorts_give (s : State) (l : List Nat) (each : l.Nodup) :
    l.foldl lapPort s = { s with ports := (l.foldl lapPort s).ports } ∧
      ∀ p ∈ l, (getPort (l.foldl lapPort s) p).ctrl = (getPort s p).ctrl ++ lapFlits s := by
  have own (s : State) (p : Nat) : (getPort (lapPort s p) p).ctrl = (getPort s p).ctrl ++ lapFlits s := by
    rw [lapPort_eq, lapFlits]
    split
    · rw [sendCtrl, sendCtrl, getPort_modPort_same, getPort_modPort_same, getPort_modPort_same]
      simp [Port.lapAsked]
    · rw [sendCtrl, getPort_modPort_same, getPort_modPort_same, Port.lapAsked]
  have other (s : State) (p j : Nat) (n : j ≠ p) : getPort (lapPort s p) j = getPort s j := by
    rw [lapPort_eq]
    split
    · rw [sendCtrl, sendCtrl, getPort_modPort_ne _ n, getPort_modPort_ne _ n, getPort_modPort_ne _ n]
    · rw [sendCtrl, getPort_modPort_ne _ n, getPort_modPort_ne _ n]
  obtain ⟨whole, _, inside⟩ := ctrl_foldl (f := lapPort) (m := lapFlits) (fun s p => by rw [lapPort_eq]; split <;> rfl)
    (fun _ _ => rfl) own other l each s
  exact ⟨whole, inside⟩

/-- LAP_START's clause of O36. -/
theorem lapStart_gives {s : State} (up : linksUp s = true) (last : lapLen s ≤ s.phase + 1) (start : Int)
    (at_ : start = s.lapStartAt + (lapLen s * 64 : Nat) + (passTick s).slewed) :
    ∃ t, exec .lapStart s = .next t ∧ t.lap = (s.lap + 1) % 2 ^ 48 ∧ t.phase = 0 ∧ t.lapStartAt = start ∧ t.slewed = 0 ∧
      t.slew = (passTick s).slew ∧ (s.slew = 0 → t.now = s.now + 64) ∧ t.mem = s.mem ∧
      ∀ p, p < 32 → trained s p = true → (getPort t p).ctrl = (getPort s p).ctrl ++ (ctlRequest, []) ::
        (if isSetter s && ownChip s != 0 then
          [(ctlBeacon, beaconBody (dget s 0x2200 4)
            { lap := (s.lap + 1) % 2 ^ 48, setter := ownChip s, ticks := dget s 0x2200 2, hop := 0, corr := corrFrom start })]
        else []) := by
  have ran : exec .lapStart s = .next (startLap s) := by
    change execLapStart s = _
    simp [execLapStart, up, last]
  refine ⟨_, ran, ?_⟩
  rw [startLap_eq]
  obtain ⟨sent, said⟩ := lapPorts_give (lapBegun s) (trainedPorts (lapBegun s)) (nodup_trainedPorts _)
  have risen := (marginFrame_raiseTrims ((trainedPorts (lapBegun s)).foldl lapPort (lapBegun s))).whole
  have begun := lapBegun_frame s
  have tick := passTick_frame s
  have number (i sub : Nat) (small : sub < 256) (n : i ≠ 0x2200 ∨ (sub ≠ 3 ∧ sub ≠ 0x0B)) := dget_lapBegun s (i := i) small n
  have setter : isSetter (lapBegun s) = isSetter s := by
    unfold isSetter paceState
    rw [number 0x2200 5 (by decide) (.inr (by decide))]
  have chip : ownChip (lapBegun s) = ownChip s := number 0x2320 8 (by decide) (.inl (by decide))
  have stays (p : Nat) : trained (lapBegun s) p = trained s p := by
    unfold trained linkState
    rw [number (pIdx p) 1 (by decide) (.inr (by decide))]
  have flits : lapFlits (lapBegun s) = (ctlRequest, []) :: if isSetter s && ownChip s != 0 then
      [(ctlBeacon, beaconBody (dget s 0x2200 4)
        { lap := (s.lap + 1) % 2 ^ 48, setter := ownChip s, ticks := dget s 0x2200 2, hop := 0, corr := corrFrom start })] else [] := by
    rw [lapFlits, setter, chip, number 0x2200 4 (by decide) (.inr (by decide))]
    by_cases speaks : isSetter s = true
    · rw [lapLen_lapBegun speaks, begun, at_]
    · simp [speaks]
  rw [flits] at said
  generalize (trainedPorts (lapBegun s)).foldl lapPort (lapBegun s) = u at *
  rw [tick] at begun
  rw [begun] at sent
  have fields : (raiseTrims u).lap = u.lap ∧ (raiseTrims u).phase = u.phase ∧ (raiseTrims u).lapStartAt = u.lapStartAt ∧
      (raiseTrims u).slewed = u.slewed ∧ (raiseTrims u).slew = u.slew ∧ (raiseTrims u).now = u.now ∧ (raiseTrims u).mem = u.mem ∧
      (raiseTrims u).ports = u.ports := by
    rw [risen]
    exact ⟨rfl, rfl, rfl, rfl, rfl, rfl, rfl, rfl⟩
  obtain ⟨lap, phase, began, slewed, slew, now, mem, ports⟩ := fields
  refine ⟨by rw [lap, sent], by rw [phase, sent], by rw [began, sent, at_], by rw [slewed, sent], by rw [slew, sent], fun none_ => ?_,
    by rw [mem, sent], fun p inside up => ?_⟩
  · rw [now, sent]
    simp [passTick, none_]
  · rw [getPort, ports, ← getPort, said p (mem_trainedPorts.mpr ⟨inside, (stays p).trans up⟩), getPort, begun]
    rfl

/-! ## Beacons (R281 to R283, R287) -/

/-- Two devices at the same time, of the same lap and the same setter. -/
structure SameTime (s t : State) : Prop where
  lapStartAt : t.lapStartAt = s.lapStartAt
  slewed : t.slewed = s.slewed
  lap : t.lap = s.lap
  number : ∀ sub, sub ≠ 8 → sub ≠ 0x0A → sub < 256 → dget t 0x2200 sub = dget s 0x2200 sub

section
variable {s t : State} (same : SameTime s t)
include same

theorem SameTime.lapLen : Machine.lapLen t = Machine.lapLen s := same.number 3 (by decide) (by decide) (by decide)

theorem SameTime.nearestStart (x : Int) : Machine.nearestStart t x = Machine.nearestStart s x := by
  unfold Machine.nearestStart
  rw [same.lapLen, same.lapStartAt, same.slewed]

theorem SameTime.beaconFit (x : BeaconSeen) : Machine.beaconFit t x = Machine.beaconFit s x := by
  unfold Machine.beaconFit
  rw [same.nearestStart, same.lap, same.lapLen, same.number 7 (by decide) (by decide) (by decide)]

theorem SameTime.disagrees (x : BeaconSeen) : Machine.disagrees t x = Machine.disagrees s x := by
  unfold Machine.disagrees
  rw [same.nearestStart, same.lap, same.lapLen, same.number 7 (by decide) (by decide) (by decide)]

theorem SameTime.paceState : Machine.paceState t = Machine.paceState s := same.number 5 (by decide) (by decide) (by decide)

theorem SameTime.sourcePort : Machine.sourcePort t = Machine.sourcePort s := same.number 9 (by decide) (by decide) (by decide)

end

/-- A beacon that has left the line, its conflict counted. -/
def beaconTaken (s : State) (p : Nat) (b : Beacon) : State :=
  if conflict (takeCtrl s p ctlBeacon) b then dadd (takeCtrl s p ctlBeacon) 0x2D30 3 1 else takeCtrl s p ctlBeacon

theorem beaconTaken_frame (s : State) (p : Nat) (b : Beacon) :
    beaconTaken s p b = { s with ports := (takeCtrl s p ctlBeacon).ports, dict := (beaconTaken s p b).dict } := by
  unfold beaconTaken
  split <;> rfl

theorem dget_beaconTaken (s : State) (p : Nat) (b : Beacon) {i sub : Nat} (small : sub < 256) (other : i ≠ 0x2D30 ∨ sub ≠ 3) :
    dget (beaconTaken s p b) i sub = dget s i sub := by
  unfold beaconTaken
  split
  · rw [dadd_eq, dget_dset_ne _ (by decide) small other]
    rfl
  · rfl

theorem sameTime_beaconTaken (s : State) (p : Nat) (b : Beacon) : SameTime s (beaconTaken s p b) := by
  have whole := beaconTaken_frame s p b
  exact ⟨by rw [whole], by rw [whole], by rw [whole], fun sub _ _ small => dget_beaconTaken s p b small (.inl (by decide))⟩

theorem getPort_beaconTaken_ne (s : State) (p : Nat) (b : Beacon) {j : Nat} (other : j ≠ p) :
    getPort (beaconTaken s p b) j = getPort s j := by
  rw [beaconTaken_frame, ← getPort_modPort_ne s other fun x => { x with ctrlIn := dropFirst (fun y => y.1 = ctlBeacon) x.ctrlIn }]
  rfl

theorem linkDelay_beaconTaken (s : State) (p : Nat) (b : Beacon) (j : Nat) : linkDelay (beaconTaken s p b) j = linkDelay s j := by
  rw [linkDelay, dget_beaconTaken s p b (by decide) (.inr (by decide)), linkDelay]

theorem exec_lapBeacon_of_locked {s : State} {p domain : Nat} {b : Beacon} {rx : Int} (up : trained s p = true)
    (own : domain = dget s 0x2200 4) (locked : paceState s = psLocked) : exec (.lapBeacon p domain b rx) s =
      .next (lockedBeacon (beaconTaken s p b) p b (seenOf b (impliedStart s p b rx))) := by
  have same := sameTime_beaconTaken s p b
  have state : paceState (beaconTaken s p b) = psLocked := same.paceState.trans locked
  have follower : isSetter (beaconTaken s p b) = false := by
    rw [isSetter, state]
    rfl
  have start : impliedStart (beaconTaken s p b) p b rx = impliedStart s p b rx := by
    rw [impliedStart, linkDelay_beaconTaken, impliedStart]
  have here : (!trained (takeCtrl s p ctlBeacon) p || domain != dget (takeCtrl s p ctlBeacon) 0x2200 4) = false := by
    change (!trained s p || domain != dget s 0x2200 4) = false
    rw [up, own]
    simp
  have taken : takeBeacon (takeCtrl s p ctlBeacon) p b rx = lockedBeacon (beaconTaken s p b) p b (seenOf b (impliedStart s p b rx)) := by
    change (if isSetter (beaconTaken s p b) then _ else if paceState (beaconTaken s p b) = psLoss then _
      else if paceState (beaconTaken s p b) = psLocked then
        lockedBeacon (beaconTaken s p b) p b (seenOf b (impliedStart (beaconTaken s p b) p b rx)) else _) = _
    rw [follower, state, start]
    rfl
  change execLapBeacon p domain b rx s = _
  rw [execLapBeacon, here, taken]
  rfl

theorem exec_lapBeacon_of_other {s : State} {p domain : Nat} {b : Beacon} {rx : Int} (foreign : domain ≠ dget s 0x2200 4) :
    exec (.lapBeacon p domain b rx) s = .next (takeCtrl s p ctlBeacon) := by
  have drops : (!trained (takeCtrl s p ctlBeacon) p || domain != dget (takeCtrl s p ctlBeacon) 0x2200 4) = true := by
    rw [Bool.or_eq_true]
    exact .inr (bne_iff_ne.mpr foreign)
  change execLapBeacon p domain b rx s = _
  rw [execLapBeacon, drops]
  rfl

/-- What a forwarded beacon changes: the flits that wait on the other trained ports (R282). -/
theorem forwardBeacon_gives (s : State) (p : Nat) (b : Beacon) (start : Int) :
    forwardBeacon s p b start = { s with ports := (forwardBeacon s p b start).ports } ∧
      ∀ j, j < 32 → j ≠ p → trained s j = true → b.hop < 63 → ownChip s ≠ 0 →
        (getPort (forwardBeacon s p b start) j).ctrl = (getPort s j).ctrl ++
          [(ctlBeacon, beaconBody (dget s 0x2200 4) { b with hop := b.hop + 1, corr := corrFrom start })] := by
  have sent := ctrl_foldl
    (f := fun u j => sendCtrl u j ctlBeacon (beaconBody (dget u 0x2200 4) { b with hop := b.hop + 1, corr := corrFrom start }))
    (m := fun u => [(ctlBeacon, beaconBody (dget u 0x2200 4) { b with hop := b.hop + 1, corr := corrFrom start })])
    (fun _ _ => rfl) (fun _ _ => rfl) (fun u j => by rw [sendCtrl, getPort_modPort_same])
    (fun u j i other => by rw [sendCtrl, getPort_modPort_ne _ other]) _ ((nodup_trainedPorts s).filter (· != p)) s
  unfold forwardBeacon
  split
  · next stops => exact ⟨rfl, fun j _ _ _ low chip => absurd stops (by simp [chip, low])⟩
  · refine ⟨sent.1, fun j inside other up _ _ => sent.2.2 j ?_⟩
    rw [List.mem_filter]
    exact ⟨mem_trainedPorts.mpr ⟨inside, up⟩, by simpa using other⟩

/-- A locked follower's beacon that fits, of its source (R282, R283, R287). -/
theorem lockedBeacon_of_fits {s : State} {p : Nat} {b : Beacon} {start off : Int} (source : p = sourcePort s)
    (fits : beaconFit s (seenOf b start) = .fits off) : lockedBeacon s p b (seenOf b start) =
      forwardBeacon (acceptBeacon s p b start off) p b start := by
  rw [lockedBeacon, fits]
  dsimp only
  rw [if_pos source]
  rfl

theorem dget_acceptBeacon (s : State) (p : Nat) (b : Beacon) (start off : Int) {i sub : Nat} (small : sub < 256)
    (other : i ≠ 0x2200 ∨ (sub ≠ 8 ∧ sub ≠ 0x0A)) : dget (acceptBeacon s p b start off) i sub = dget s i sub := by
  change dget (dset (dset s 0x2200 0x0A (wrapInt 32 off)) 0x2200 8 b.hop) i sub = _
  rw [dget_dset_ne _ (by decide) small (other.imp_right And.left), dget_dset_ne _ (by decide) small (other.imp_right And.right)]

theorem acceptBeacon_gives (s : State) (p : Nat) (b : Beacon) (start off : Int) :
    (acceptBeacon s p b start off).beaconLap = some b.lap ∧
      (acceptBeacon s p b start off).slew = (if (nearestStart s start).1 > 0 then off else off - s.slewed) ∧
      (acceptBeacon s p b start off).lap = s.lap ∧ dget (acceptBeacon s p b start off) 0x2200 0x0A = wrapInt 32 off ∧
      ∀ j, j ≠ p → getPort (acceptBeacon s p b start off) j = getPort s j := by
  have shown : SameTime s (modPort (dset (dset s 0x2200 0x0A (wrapInt 32 off)) 0x2200 8 b.hop) p fun x => { x with seen := [] }) :=
    ⟨rfl, rfl, rfl, fun sub a c small => dget_acceptBeacon s p b start off small (.inr ⟨a, c⟩)⟩
  refine ⟨rfl, ?_, rfl, ?_, fun j other => ?_⟩
  · rw [← shown.nearestStart]
    rfl
  · change dget (dset (dset s 0x2200 0x0A (wrapInt 32 off)) 0x2200 8 b.hop) 0x2200 0x0A = _
    rw [dget_dset_ne _ (by decide) (by decide) (.inr (by decide)), dget_dset_same]
  · change getPort (modPort (dset (dset s 0x2200 0x0A (wrapInt 32 off)) 0x2200 8 b.hop) p fun x => { x with seen := [] }) j = _
    rw [getPort_modPort_ne _ other]
    rfl

/-- The accepted beacon of a locked follower's source. -/
theorem lapBeacon_accepted {s : State} {p domain : Nat} {b : Beacon} {rx start off : Int} (up : trained s p = true)
    (own : domain = dget s 0x2200 4) (locked : paceState s = psLocked) (source : p = sourcePort s)
    (at_ : start = impliedStart s p b rx) (fits : beaconFit s (seenOf b start) = .fits off) :
    ∃ t, exec (.lapBeacon p domain b rx) s = .next t ∧ t.beaconLap = some b.lap ∧
      t.slew = (if (nearestStart s start).1 > 0 then off else off - s.slewed) ∧ t.lap = s.lap ∧
      dget t 0x2200 0x0A = wrapInt 32 off ∧
      ∀ j, j < 32 → j ≠ p → trained s j = true → b.hop < 63 → ownChip s ≠ 0 → (getPort t j).ctrl = (getPort s j).ctrl ++
        [(ctlBeacon, beaconBody domain { b with hop := b.hop + 1, corr := corrFrom start })] := by
  have ran := exec_lapBeacon_of_locked (b := b) (rx := rx) up own locked
  have same := sameTime_beaconTaken s p b
  rw [← at_, lockedBeacon_of_fits (source.trans same.sourcePort.symm) ((same.beaconFit _).trans fits)] at ran
  refine ⟨_, ran, ?_⟩
  obtain ⟨lap, slew, time, shown, ports⟩ := acceptBeacon_gives (beaconTaken s p b) p b start off
  obtain ⟨whole, sent⟩ := forwardBeacon_gives (acceptBeacon (beaconTaken s p b) p b start off) p b start
  have number (i sub : Nat) (small : sub < 256) (n : i ≠ 0x2200 ∨ (sub ≠ 8 ∧ sub ≠ 0x0A)) (m : i ≠ 0x2D30 ∨ sub ≠ 3) :
      dget (acceptBeacon (beaconTaken s p b) p b start off) i sub = dget s i sub := by
    rw [dget_acceptBeacon _ p b start off small n, dget_beaconTaken s p b small m]
  generalize acceptBeacon (beaconTaken s p b) p b start off = u at *
  have fields : (forwardBeacon u p b start).beaconLap = u.beaconLap ∧ (forwardBeacon u p b start).slew = u.slew ∧
      (forwardBeacon u p b start).lap = u.lap ∧ (forwardBeacon u p b start).dict = u.dict := by
    rw [whole]
    exact ⟨rfl, rfl, rfl, rfl⟩
  obtain ⟨beacon, slewed, lapped, dict⟩ := fields
  refine ⟨beacon.trans lap, ?_, ?_, ?_, fun j inside other upj low chip => ?_⟩
  · rw [slewed, slew, same.nearestStart, same.slewed]
  · rw [lapped, time, same.lap]
  · rw [dget, dict, ← dget, shown]
  · have up' : trained u j = true := by
      rw [← upj, trained, linkState, number (pIdx j) 1 (by decide) (.inr (by decide)) (.inr (by decide)), trained, linkState]
    have chip' : ownChip u ≠ 0 := by
      rw [ownChip, number 0x2320 8 (by decide) (.inl (by decide)) (.inl (by decide))]
      exact chip
    rw [sent j inside other up' low chip', ports j other, getPort_beaconTaken_ne s p b other,
      number 0x2200 4 (by decide) (.inr (by decide)) (.inl (by decide)), own]

/-! ## Pace lost (R289, R292, R295) -/

theorem dget_declareLoss (s : State) {i sub : Nat} (small : sub < 256) (other : i ≠ 0x2200 ∨ (sub ≠ 5 ∧ sub ≠ 9))
    (count : i ≠ 0x2D30 ∨ sub ≠ 5) : dget (declareLoss s) i sub = dget s i sub := by
  rw [declareLoss, paceEvent, dget_raise, enterLoss, dget_dset_ne _ (by decide) small (other.imp_right And.right),
    dget_dset_ne _ (by decide) small (other.imp_right And.left)]
  change dget (dadd s 0x2D30 5 1) i sub = _
  rw [dadd_eq, dget_dset_ne _ (by decide) small count]

theorem declareLoss_frame (s : State) : declareLoss s = { s with
    dict := (declareLoss s).dict, ports := (declareLoss s).ports, heats := (declareLoss s).heats, events := (declareLoss s).events
    lostEvents := (declareLoss s).lostEvents } := by
  rw [declareLoss, paceEvent, raise_frame]
  rfl

theorem declareLoss_gives (s : State) : paceState (declareLoss s) = psLoss ∧ dget (declareLoss s) 0x2200 9 = 0xFF ∧
    Counted s (declareLoss s) 0x2D30 5 := by
  refine ⟨?_, ?_, ?_⟩
  · rw [paceState, declareLoss, paceEvent, dget_raise, enterLoss, dget_dset_ne _ (by decide) (by decide) (.inr (by decide)),
      dget_dset_same]
  · rw [declareLoss, paceEvent, dget_raise, enterLoss, dget_dset_same]
  · rw [Counted, declareLoss, paceEvent, dget_raise, enterLoss, dget_dset_ne _ (by decide) (by decide) (.inl (by decide)),
      dget_dset_ne _ (by decide) (by decide) (.inl (by decide))]
    exact dget_dset_same s 0x2D30 5 _

/-- A beacon of a wrong lap is counted (R283), whatever it says of the pace (R295). -/
theorem strayBeacon_of_wrongLap (s : State) (p : Nat) (x : BeaconSeen) :
    Counted s (strayBeacon s p .wrongLap x) 0x2D30 2 ∧ (strayBeacon s p .wrongLap x).slew = s.slew ∧
      (strayBeacon s p .wrongLap x).lap = s.lap := by
  have counted : Counted s (dadd s 0x2D30 2 1) 0x2D30 2 := dget_dset_same s 0x2D30 2 _
  have slew : (dadd s 0x2D30 2 1).slew = s.slew := rfl
  have lap : (dadd s 0x2D30 2 1).lap = s.lap := rfl
  have remembered (u : State) : dget (remember u p x) 0x2D30 2 = dget u 0x2D30 2 ∧ (remember u p x).slew = u.slew ∧
      (remember u p x).lap = u.lap := ⟨rfl, rfl, rfl⟩
  unfold strayBeacon
  dsimp only
  generalize dadd s 0x2D30 2 1 = u at *
  split
  · exact ⟨counted, slew, lap⟩
  · split
    · exact ⟨counted, slew, lap⟩
    · split
      · refine ⟨?_, ?_, ?_⟩
        · rw [Counted, dget_declareLoss _ (by decide) (.inl (by decide)) (.inr (by decide)), (remembered u).1]
          exact counted
        · rw [declareLoss_frame]
          exact slew
        · rw [declareLoss_frame]
          exact lap
      · exact ⟨counted, slew, lap⟩

theorem lapBeacon_wrongLap {s : State} {p domain : Nat} {b : Beacon} {rx : Int} (up : trained s p = true)
    (own : domain = dget s 0x2200 4) (locked : paceState s = psLocked) (source : p = sourcePort s)
    (wrong : beaconFit s (seenOf b (impliedStart s p b rx)) = .wrongLap) :
    ∃ t, exec (.lapBeacon p domain b rx) s = .next t ∧ Counted s t 0x2D30 2 ∧ t.slew = s.slew ∧ t.lap = s.lap := by
  have ran := exec_lapBeacon_of_locked (b := b) (rx := rx) up own locked
  have same := sameTime_beaconTaken s p b
  have stray : lockedBeacon (beaconTaken s p b) p b (seenOf b (impliedStart s p b rx)) =
      strayBeacon (beaconTaken s p b) p .wrongLap (seenOf b (impliedStart s p b rx)) := by
    rw [lockedBeacon, same.beaconFit, wrong]
    dsimp only
    rw [if_pos (source.trans same.sourcePort.symm)]
  rw [stray] at ran
  obtain ⟨counted, slew, lap⟩ := strayBeacon_of_wrongLap (beaconTaken s p b) p (seenOf b (impliedStart s p b rx))
  refine ⟨_, ran, ?_, ?_, ?_⟩
  · rw [Counted, counted, dget_beaconTaken s p b (by decide) (.inr (by decide))]
  · rw [slew, beaconTaken_frame]
  · rw [lap, beaconTaken_frame]

/-! ## Delay exchanges (R284) -/

theorem exec_delayRequest_of_trained {s : State} {p : Nat} (up : trained s p = true) (t2 t3 : Int) :
    exec (.delayRequest p t2 t3) s = .next (sendCtrl (takeCtrl s p ctlRequest) p ctlResponse
      (bytesOf 8 (wrapInt 64 t2) ++ bytesOf 8 (wrapInt 64 t3))) := by
  change execDelayRequest p t2 t3 s = _
  have here : trained (takeCtrl s p ctlRequest) p = true := up
  simp [execDelayRequest, here]

theorem exec_delayResponse_of_asked {s : State} {p : Nat} (up : trained s p = true) (asked : (getPort s p).asked = true)
    (t1 t2 t3 t4 : Int) : exec (.delayResponse p t1 t2 t3 t4) s =
      .next (showDelay (modPort (takeCtrl s p ctlResponse) p fun x =>
        { x with delays := (((t4 - t1) - (t3 - t2)) :: (getPort s p).delays).take 16, asked := false }) p) := by
  have port : (getPort (takeCtrl s p ctlResponse) p).asked = (getPort s p).asked ∧
      (getPort (takeCtrl s p ctlResponse) p).delays = (getPort s p).delays := by
    rw [takeCtrl, getPort_modPort_same]
    exact ⟨rfl, rfl⟩
  have here : trained (takeCtrl s p ctlResponse) p = true := up
  change execDelayResponse p t1 t2 t3 t4 s = _
  simp only [execDelayResponse, here, port, asked, Bool.not_true, Bool.or_self, Bool.false_eq_true, if_false]

/-- The link delay shown is that of the exchanges kept (R284). -/
theorem showDelay_of_some {s : State} {p : Nat} (some_ : (getPort s p).delays ≠ []) :
    showDelay s p = dset s (pIdx p) 9 (wrapInt 32 (delayOf s p (getPort s p).delays)) := by
  rw [showDelay]
  simp [some_]

theorem delayResponse_gives {s : State} {p : Nat} (up : trained s p = true) (asked : (getPort s p).asked = true)
    (t1 t2 t3 t4 : Int) (l : List Int) (kept : l = (((t4 - t1) - (t3 - t2)) :: (getPort s p).delays).take 16) :
    ∃ t, exec (.delayResponse p t1 t2 t3 t4) s = .next t ∧ t = { s with ports := t.ports, dict := t.dict } ∧
      (getPort t p).delays = l ∧ dget t (pIdx p) 9 = wrapInt 32 (delayOf s p l) := by
  have ran := exec_delayResponse_of_asked up asked t1 t2 t3 t4
  rw [← kept] at ran
  have some_ : l ≠ [] := by rw [kept]; simp
  have now : (getPort (modPort (takeCtrl s p ctlResponse) p fun x => { x with delays := l, asked := false }) p).delays = l := by
    rw [getPort_modPort_same]
  rw [showDelay_of_some (by rw [now]; exact some_), now] at ran
  exact ⟨_, ran, rfl, now, dget_dset_same _ _ _ _⟩

/-- Settles O36: the clauses in the order of its rows. -/
theorem lapExchange : Obligations.LapExchange := by
  unfold Obligations.LapExchange
  refine ⟨fun s up last => lapStart_gives up last _ rfl, fun s p domain b rx up => ⟨fun own locked source => ⟨fun off fits => ?_,
    fun wrong => lapBeacon_wrongLap up own locked source wrong⟩, fun foreign => ?_⟩, fun s p up => ⟨fun t2 t3 => ?_,
    fun t1 t2 t3 t4 asked => delayResponse_gives up asked t1 t2 t3 t4 _ rfl⟩⟩
  · exact lapBeacon_accepted up own locked source rfl fits
  · exact ⟨_, exec_lapBeacon_of_other foreign, rfl⟩
  · refine ⟨_, exec_delayRequest_of_trained up t2 t3, rfl, ?_⟩
    rw [sendCtrl, getPort_modPort_same, takeCtrl, getPort_modPort_same]

/-! ## Holdover and the PACE_IN pair (R290, R292, R294, R296) -/

theorem exec_holdoverTimeout_of_late {s : State} (locked : paceState s = psLocked) (late : lapLen s / 8 ≤ s.phase)
    (silent : s.beaconLap ≠ some s.lap) : exec .holdoverTimeout s = .next (enterHoldover s) := by
  change execHoldoverTimeout s = _
  simp [execHoldoverTimeout, locked, late, silent]

theorem exec_paceLossDeclared_of_over {s : State} (holds : paceState s = psHoldover) (laps : 64 ≤ dget s 0x2200 0x0B) :
    exec .paceLossDeclared s = .next (declareLoss s) := by
  change execPaceLossDeclared s = _
  simp [execPaceLossDeclared, holds, laps]

theorem enterHoldover_gives (s : State) : paceState (enterHoldover s) = psHoldover ∧ dget (enterHoldover s) 0x2200 0x0B = 0 ∧
    Counted s (enterHoldover s) 0x2D30 4 := by
  refine ⟨?_, dget_dset_same _ _ _ _, ?_⟩
  · rw [paceState, enterHoldover, dget_dset_ne _ (by decide) (by decide) (.inr (by decide)), dget_dset_same]
  · rw [Counted, enterHoldover, dget_dset_ne _ (by decide) (by decide) (.inl (by decide)),
      dget_dset_ne _ (by decide) (by decide) (.inl (by decide)), dadd_eq, dget_dset_same]

theorem exec_paceInEdge_of_accepted {s : State} (inTime : ∀ x, s.paceIn.last = some x → x + 900 ≤ s.now) : exec .paceInEdge s =
    .next { s with paceIn := { s.paceIn with last := some s.now, run := s.paceIn.run + 1 } } := by
  change execPaceInEdge s = _
  unfold execPaceInEdge
  cases last : s.paceIn.last with
  | none => rfl
  | some x =>
    have := inTime x last
    simp [show ¬ s.now < x + 900 by omega]

theorem exec_paceInEdge_of_early {s : State} {x : Nat} (last : s.paceIn.last = some x) (early : s.now < x + 900) :
    exec .paceInEdge s = .next (dadd { s with paceIn := { s.paceIn with run := 0 } } 0x2D30 6 1) := by
  change execPaceInEdge s = _
  simp [execPaceInEdge, last, early]

/-- A frequency off by more than 50 parts in a million (R296). -/
theorem offFrequency {edges span : Nat} (off : span / 20000 < span - edges * 1000 ∨ span / 20000 < edges * 1000 - span) :
    50 * span < (if edges * 1000 ≥ span then edges * 1000 - span else span - edges * 1000) * 1000000 := by
  split <;> omega

theorem exec_paceIn_failed {s : State} {i : Instr} (valid : s.paceIn.valid = true)
    (bad : i = .paceInStuck ∧ (∃ x, s.paceIn.last = some x ∧ x + 10000 < s.now) ∨ ∃ edges span, i = .paceInFrequencyCheck edges span ∧
      (span / 20000 < span - edges * 1000 ∨ span / 20000 < edges * 1000 - span)) : exec i s = .next (failPaceIn s) := by
  obtain ⟨rfl, x, last, stuck⟩ | ⟨edges, span, rfl, off⟩ := bad
  · change execPaceInStuck s = _
    simp [execPaceInStuck, last, valid, stuck]
  · change execPaceInFrequencyCheck edges span s = _
    have far := offFrequency off
    simp only [execPaceInFrequencyCheck, valid, Bool.true_and, decide_eq_true_eq]
    rw [if_pos far]

theorem failPaceIn_gives (s : State) : (failPaceIn s).paceIn = { s.paceIn with valid := false, run := 0 } ∧
    Counted s (failPaceIn s) 0x2D30 7 ∧ paceState (failPaceIn s) = if paceState s = psSetter then psSetterFree else paceState s := by
  have counted : Counted s (dadd { s with paceIn := { s.paceIn with valid := false, run := 0 } } 0x2D30 7 1) 0x2D30 7 :=
    dget_dset_same _ 0x2D30 7 _
  have state : paceState (dadd { s with paceIn := { s.paceIn with valid := false, run := 0 } } 0x2D30 7 1) = paceState s :=
    dget_dset_ne _ (by decide) (by decide) (.inl (by decide)) _
  have input : (dadd { s with paceIn := { s.paceIn with valid := false, run := 0 } } 0x2D30 7 1).paceIn =
    { s.paceIn with valid := false, run := 0 } := rfl
  unfold failPaceIn
  dsimp only
  generalize dadd { s with paceIn := { s.paceIn with valid := false, run := 0 } } 0x2D30 7 1 = u at *
  rw [state]
  split
  · refine ⟨?_, ?_, ?_⟩
    · rw [paceEvent, raise_frame]
      exact input
    · rw [Counted, paceEvent, dget_raise, dget_dset_ne _ (by decide) (by decide) (.inl (by decide))]
      exact counted
    · rw [paceState, paceEvent, dget_raise, dget_dset_same]
  · exact ⟨input, counted, state⟩

theorem exec_paceInRecovered_of_run {s : State} (failed : s.paceIn.valid = false) (enough : 100000 ≤ s.paceIn.run) :
    exec .paceInRecovered s = .next (if paceState s = psSetterFree ∧ usesPaceIn s = true then
      dset { s with paceIn := { s.paceIn with valid := true } } 0x2200 5 psSetter
      else { s with paceIn := { s.paceIn with valid := true } }) := by
  have few : ¬ s.paceIn.run < 100000 := by omega
  have state : paceState { s with paceIn := { s.paceIn with valid := true } } = paceState s := rfl
  have uses : usesPaceIn { s with paceIn := { s.paceIn with valid := true } } = usesPaceIn s := rfl
  change execPaceInRecovered s = _
  simp only [execPaceInRecovered, failed, few, Bool.false_or, decide_false, Bool.false_eq_true, if_false, state, uses,
    Bool.and_eq_true, decide_eq_true_eq]

/-- Settles O37: the pace held over, lost, and its reference. -/
theorem paceKept : Obligations.PaceKept := by
  unfold Obligations.PaceKept
  refine ⟨fun s => ⟨fun locked late silent => ?_, fun holds laps => ?_, fun other => ?_, fun other => ?_⟩,
    fun s => ⟨exec_paceInEdge_of_accepted, fun x last early => ?_, fun i valid bad => ?_, fun failed enough => ?_⟩⟩
  · exact ⟨_, exec_holdoverTimeout_of_late locked late silent, rfl, enterHoldover_gives s⟩
  · obtain ⟨state, source, counted⟩ := declareLoss_gives s
    have whole := declareLoss_frame s
    refine ⟨_, exec_paceLossDeclared_of_over holds laps, state, source, counted, ?_, ?_⟩
    · rw [whole]
    · rw [whole]
  · change execHoldoverTimeout s = _
    simp [execHoldoverTimeout, other]
  · change execPaceLossDeclared s = _
    simp [execPaceLossDeclared, other]
  · exact ⟨_, exec_paceInEdge_of_early last early, rfl, dget_dset_same _ _ _ _⟩
  · exact ⟨_, exec_paceIn_failed valid bad, failPaceIn_gives s⟩
  · refine ⟨_, exec_paceInRecovered_of_run failed enough, ?_, ?_⟩
    · split <;> rfl
    · split
      · exact dget_dset_same _ _ _ _
      · rfl

end Sys2Proof.Machine
end

section
/-! SUPPORT. The rotating spare and in-field tests (R440, R441, R462 to R467, R502 to R505). -/

namespace Sys2Proof.Machine

/-! ## Numbers of a DOMAIN entry -/

theorem length_fitBytes (n : Nat) (l : List Byte) : (fitBytes n l).length = n := by
  simp only [fitBytes, zeros, List.length_take, List.length_append, List.length_replicate]
  omega

theorem fitBytes_append_of_length {n : Nat} {a b : List Byte} (same : a.length = n) : fitBytes n (a ++ b) = a := by
  unfold fitBytes
  rw [List.append_assoc, List.take_left' same]

/-- A number written to a DOMAIN entry within its length is the number read there. -/
theorem domNum_domPut_same (s : State) (i sub v : Nat) {total w n : Nat} (inside : w * n + w ≤ total) (fill : Byte) :
    domNum (domPut s i sub total w n v fill) i sub w n = v % 256 ^ w := by
  have full : ((domGet s i sub ++ List.replicate (total - (domGet s i sub).length) fill).take total).length = total := by
    simp only [List.length_take, List.length_append, List.length_replicate]
    omega
  unfold domNum domPut
  dsimp only
  rw [domGet_domSet_same]
  generalize (domGet s i sub ++ List.replicate (total - (domGet s i sub).length) fill).take total = l at full
  rw [natAt, sliceBytes, List.append_assoc, List.drop_left' (by rw [List.length_take]; omega),
    fitBytes_append_of_length (length_bytesOf _ _), natOfBytes_bytesOf]

theorem domGet_domPut_ne (s : State) {i sub j t : Nat} (a : sub < 256) (b : t < 256) (n : j ≠ i ∨ t ≠ sub) (total w k v : Nat)
    (fill : Byte) : domGet (domPut s i sub total w k v fill) j t = domGet s j t := domGet_domSet_ne s a b n _

/-! ## The slot map (0x2900:06) -/

theorem nth_map_range {α : Type} (d : α) (f : Nat → α) {n i : Nat} (inside : i < n) : nth d ((List.range n).map f) i = f i := by
  have holds (l : List α) (i : Nat) (inside : i < l.length) : nth d l i = l[i] := by
    induction l generalizing i with
    | nil => exact absurd inside (Nat.not_lt_zero _)
    | cons a l ih => cases i with
      | zero => rfl
      | succ i => exact ih i (by simpa using inside)
  rw [holds _ _ (by simpa using inside), List.getElem_map, List.getElem_range]

theorem nth_setNth_ne {α : Type} (d v : α) {n j : Nat} (other : j ≠ n) (l : List α) : nth d (setNth l n v) j = nth d l j := by
  induction l generalizing n j with
  | nil => rfl
  | cons a l ih => cases n with
    | zero => cases j with
      | zero => exact absurd rfl other
      | succ j => rfl
    | succ n => cases j with
      | zero => rfl
      | succ j => exact ih fun same => other (by rw [same])

theorem length_setNth {α : Type} (v : α) (l : List α) (n : Nat) : (setNth l n v).length = l.length := by
  induction l generalizing n with
  | nil => rfl
  | cons a l ih => cases n with
    | zero => rfl
    | succ n => simp [setNth, ih]

theorem slotByte_setSlot (s : State) (p st core j : Nat) : slotByte (setSlot s p st core) j =
    (nth 0#8 (setNth (slotMap s) p (byte (st * 16 + core))) j).toNat := by
  have some_ : (setNth (slotMap s) p (byte (st * 16 + core))).isEmpty = false := by
    rw [List.isEmpty_eq_false_iff_exists_mem, ← List.length_pos_iff_exists_mem, length_setNth, slotMap, List.length_map,
      List.length_range]
    decide
  rw [slotByte, setSlot, domGet_domSet_same]
  simp [some_]

theorem slotByte_lt (s : State) (p : Nat) : slotByte s p < 256 := by
  unfold slotByte
  dsimp only
  split
  · split <;> omega
  · exact (nth 0#8 (domGet s 0x2900 6) p).isLt

theorem slotByte_setSlot_same (s : State) {p st core : Nat} (inside : p < 576) (state : st < 16) (small : core < 16) :
    slotByte (setSlot s p st core) p = st * 16 + core := by
  rw [slotByte_setSlot, nth_setNth_same _ _ _ _ (by simpa [slotMap] using inside)]
  simp only [byte, BitVec.toNat_ofNat]
  omega

theorem slotByte_setSlot_ne (s : State) {p j : Nat} (st core : Nat) (inside : j < 576) (other : j ≠ p) :
    slotByte (setSlot s p st core) j = slotByte s j := by
  have small := slotByte_lt s j
  rw [slotByte_setSlot, nth_setNth_ne _ _ other, slotMap, nth_map_range _ _ inside]
  simp only [byte, BitVec.toNat_ofNat]
  omega

theorem slotState_setSlot_same (s : State) {p st core : Nat} (inside : p < 576) (state : st < 16) (small : core < 16) :
    slotState (setSlot s p st core) p = st := by
  rw [slotState, slotByte_setSlot_same s inside state small]
  omega

theorem slotCore_setSlot_same (s : State) {p st core : Nat} (inside : p < 576) (state : st < 16) (small : core < 16) :
    slotCore (setSlot s p st core) p = core := by
  rw [slotCore, slotByte_setSlot_same s inside state small]
  omega

theorem slotCore_lt (s : State) (p : Nat) : slotCore s p < 16 := Nat.mod_lt _ (by decide)

/-- Slots read the slot map alone. -/
theorem slotByte_congr {s t : State} (same : domGet t 0x2900 6 = domGet s 0x2900 6) (p : Nat) : slotByte t p = slotByte s p := by
  rw [slotByte, same, slotByte]

theorem slotState_congr {s t : State} (same : domGet t 0x2900 6 = domGet s 0x2900 6) (p : Nat) : slotState t p = slotState s p := by
  rw [slotState, slotByte_congr same, slotState]

theorem slotCore_congr {s t : State} (same : domGet t 0x2900 6 = domGet s 0x2900 6) (p : Nat) : slotCore t p = slotCore s p := by
  rw [slotCore, slotByte_congr same, slotCore]

theorem spareOf_congr {s t : State} (same : domGet t 0x2900 6 = domGet s 0x2900 6) (c : Nat) : spareOf t c = spareOf s c := by
  unfold spareOf
  simp only [slotState_congr same]

theorem slotAfter_congr {s t : State} (same : domGet t 0x2900 6 = domGet s 0x2900 6) (p : Nat) : slotAfter t p = slotAfter s p := by
  unfold slotAfter
  simp only [slotState_congr same]

theorem lt_of_spareOf {s : State} {c p : Nat} (inside : c < 64) (spare : spareOf s c = some p) : p < 576 := by
  have listed : p ∈ clusterSlots c := List.mem_of_find?_eq_some spare
  simp only [clusterSlots, List.mem_map, List.mem_range] at listed
  obtain ⟨i, small, rfl⟩ := listed
  omega

/-- Of a retired slot the map says so, whatever the history then keeps. -/
theorem slotMap_retireSlot (s : State) (p cause : Nat) :
    domGet (retireSlot s p cause) 0x2900 6 = domGet (setSlot s p slotRetired 0xF) 0x2900 6 := by
  unfold retireSlot
  dsimp only
  rw [(historyFrame_histAdd _ _ _).dom 0x2900 6 (by decide) (by decide)]
  rfl

theorem domGet_planTrim (s : State) (p bin i sub : Nat) : domGet (planTrim s p bin).1 i sub = domGet s i sub := by
  unfold planTrim planVmin
  cases (slotSweeps s p).find? (·.bin = bin) <;> rfl

theorem slotMap_setTrim (s : State) (p v : Nat) : domGet (setTrim s p v) 0x2900 6 = domGet s 0x2900 6 :=
  domGet_domPut_ne s (by decide) (by decide) (.inl (by decide)) _ _ _ _ _

theorem getCluster_modCluster_same (s : State) (c : Nat) (f : Cluster → Cluster) : getCluster (modCluster s c f)
    c = f (getCluster s c) := by
  rw [modCluster_eq, getCluster_setCluster_same]

/-! ## Rotations, moves and takeovers (R440, R462, R463) -/

section
variable {s : State} {c : Nat}

theorem exec_spareRotation_of_due {o p : Nat} (start : s.phase = 0) (on : dget s 0x2900 4 = 1) (active : clusterActive s c = true)
    (up : linksUp s = true) (due : rotationLap s c s.lap = true) (free : eventsHeld s = false) (none_ : heatEventsDue s = false)
    (new : (getCluster s c).rotated ≠ some s.lapStarts) (ready : readySpare s c = some p) (next_ : slotAfter s p = some o) :
    exec (.spareRotation c) s = .next (modCluster (setInterval
      (modCluster s c fun x => { x with rotHeld := false, rotated := some s.lapStarts }) c) c fun x =>
        { x with movePending := some o, moveCause := 0, calledLap := none }) := by
  have spare : readySpare (modCluster s c fun x => { x with rotHeld := false, rotated := some s.lapStarts }) c = some p := by
    rw [← ready]
    unfold readySpare
    rw [spareOf_congr (s := s) rfl, getCluster_modCluster_same]
    rfl
  have after : slotAfter (modCluster s c fun x => { x with rotHeld := false, rotated := some s.lapStarts }) p = some o :=
    (slotAfter_congr rfl p).trans next_
  change execSpareRotation c s = _
  unfold execSpareRotation
  simp only [on, active, up, start, due, free, none_, new, spare, after, bne_self_eq_false, Bool.not_true, Bool.true_or, Bool.or_self,
    Bool.false_eq_true, if_false, decide_false]

theorem exec_spareMove_of_quiet {o p : Nat} (pending : (getCluster s c).movePending = some o) (spare : spareOf s c = some p)
    (free : eventsHeld s = false) (none_ : (getCluster s c).takeover = none)
    (on : (getCluster s c).moveCause = 0 → dget s 0x2900 4 = 1) (called : lapAwaited s c = false) (ready : slotState s p = 1)
    (quiet : coreQuiet s (coreOfSlot s o) = true) (awake : coreAwake s (spareUnit c) = true) :
    exec (.spareMove c) s = .next (moveCore s c o p) := by
  have stays : (decide ((getCluster s c).moveCause = 0) && dget s 0x2900 4 != 1) = false := by
    by_cases rotates : (getCluster s c).moveCause = 0
    · simp [on rotates]
    · simp [rotates]
  change execSpareMove c s = _
  unfold execSpareMove
  simp only [pending, spare, stays, free, called, none_, ready, quiet, awake, slotSpareReady, bne_self_eq_false, Bool.not_true,
    Option.isSome_none, Bool.or_self, Bool.false_eq_true, if_false]

/-- The move of a core to the spare (R441, R462). -/
theorem moveCore_gives {o p : Nat} (small : o < 576) (inside : p < 576) (apart : o ≠ p) :
    slotState (moveCore s c o p) p = 0 ∧ slotCore (moveCore s c o p) p = slotCore s o ∧
      slotState (moveCore s c o p) o = (if (getCluster s c).moveCause = 0 then 2 else 3) ∧
      (getCluster (moveCore s c o p) c).movePending = none := by
  have settled (u : State) (state core : Nat) (h : state < 16) (k : core < 16)
      (map : domGet u 0x2900 6 = domGet (setSlot s p slotActive (slotCore s o)) 0x2900 6) :
      slotState (setSlot u o state core) p = 0 ∧ slotCore (setSlot u o state core) p = slotCore s o ∧
        slotState (setSlot u o state core) o = state := by
    refine ⟨?_, ?_, slotState_setSlot_same u small h k⟩
    · rw [slotState, slotByte_setSlot_ne u _ _ inside apart.symm, slotByte_congr map, ← slotState]
      exact slotState_setSlot_same s inside (by decide) (slotCore_lt s o)
    · rw [slotCore, slotByte_setSlot_ne u _ _ inside apart.symm, slotByte_congr map, ← slotCore]
      exact slotCore_setSlot_same s inside (by decide) (slotCore_lt s o)
  have map (v : Nat) : domGet (setTrim (setTrim (planTrim (setSlot s p slotActive (slotCore s o)) p (slotBin s p)).1 o 0) p v)
      0x2900 6 = domGet (setSlot s p slotActive (slotCore s o)) 0x2900 6 := by
    rw [slotMap_setTrim, slotMap_setTrim, domGet_planTrim]
  have map := map (min (planTrim (setSlot s p slotActive (slotCore s o)) p (slotBin s p)).2 maxTrim)
  unfold moveCore
  dsimp only
  generalize setTrim (setTrim (planTrim (setSlot s p slotActive (slotCore s o)) p (slotBin s p)).1 o 0) p
    (min (planTrim (setSlot s p slotActive (slotCore s o)) p (slotBin s p)).2 maxTrim) = u at map ⊢
  replace map : domGet (modCluster u c fun x => { x with movePending := none, moveCause := 0 }) 0x2900 6 =
    domGet (setSlot s p slotActive (slotCore s o)) 0x2900 6 := map
  have dropped : (getCluster (modCluster u c fun x => { x with movePending := none, moveCause := 0 }) c).movePending = none := by
    rw [getCluster_modCluster_same]
  generalize (modCluster u c fun x => { x with movePending := none, moveCause := 0 }) = v at map dropped ⊢
  split
  · obtain ⟨first, core, second⟩ := settled v slotSpareTesting 0xF (by decide) (by decide) map
    have counted (u : State) : domGet (countTest u 0) 0x2900 6 = domGet u 0x2900 6 :=
      domGet_domPut_ne u (by decide) (by decide) (.inl (by decide)) _ _ _ _ _
    refine ⟨(slotState_congr (counted _) p).trans first, (slotCore_congr (counted _) p).trans core,
      (slotState_congr (counted _) o).trans second, dropped⟩
  · obtain ⟨first, core, second⟩ := settled v slotRetired 0xF (by decide) (by decide) map
    have retired (u : State) (cause : Nat) (h : Option Nat) : domGet (slotEvent (retireSlot u o cause) o 0x0106 1 0 h) 0x2900 6 =
        domGet (setSlot u o slotRetired 0xF) 0x2900 6 := by
      rw [slotEvent, domGet_raise, slotMap_retireSlot]
    refine ⟨(slotState_congr (retired _ _ _) p).trans first, (slotCore_congr (retired _ _ _) p).trans core,
      (slotState_congr (retired _ _ _) o).trans second, ?_⟩
    rw [slotEvent, getCluster_raise, retireSlot, getCluster, (historyFrame_histAdd _ _ _).whole]
    exact dropped

theorem dropMove_of_none (none_ : (getCluster s c).movePending = none) :
    dropMove s c = modCluster s c fun x => { x with movePending := none, moveCause := 0 } := by
  rw [dropMove]
  simp only [none_]

/-- A cluster whose next takeover is called. -/
def takeoverCalled (s : State) (c : Nat) : State :=
  modCluster (modCluster s c fun x => { x with movePending := none, moveCause := 0 }) c fun x =>
    { x with takeover := x.lost.head?, lost := x.lost.tail }

theorem takeover_takeoverCalled : (getCluster (takeoverCalled s c) c).takeover = (getCluster s c).lost.head? := by
  rw [takeoverCalled, getCluster_modCluster_same, getCluster_modCluster_same]

/-- The spare in place of a retired slot. -/
def tookOver (s : State) (c o p : Nat) : State :=
  setTrim (setSlot (setSlot (takeoverCalled s c) o slotRetired 0xF) p slotActive (slotCore s o)) o 0

theorem exec_spareTakeover_of_spare {o p : Nat} (waits : (getCluster s c).takeover = some o) (called : lapAwaited s c = false)
    (none_ : (getCluster s c).movePending = none) (spare : spareOf s c = some p) : exec (.spareTakeover c) s =
      .next (scrambleCore (setTrim (planTrim (tookOver s c o p) p (slotBin (tookOver s c o p) p)).1 p
        (min (planTrim (tookOver s c o p) p (slotBin (tookOver s c o p) p)).2 maxTrim)) (c * 9 + slotCore s o)) := by
  have still : spareOf (takeoverCalled s c) c = some p := (spareOf_congr rfl c).trans spare
  change execSpareTakeover c s = _
  unfold execSpareTakeover
  simp only [waits, called, Bool.false_eq_true, if_false, dropMove_of_none none_]
  rw [takeoverCalled] at still
  simp only [still]
  rfl

theorem exec_spareTakeover_of_none {o : Nat} (waits : (getCluster s c).takeover = some o) (called : lapAwaited s c = false)
    (none_ : (getCluster s c).movePending = none) (spare : spareOf s c = none) : exec (.spareTakeover c) s =
      .next (clusterOut (setSlot (takeoverCalled s c) o slotRetired 0xF) c) := by
  have still : spareOf (takeoverCalled s c) c = none := (spareOf_congr rfl c).trans spare
  change execSpareTakeover c s = _
  unfold execSpareTakeover
  simp only [waits, called, Bool.false_eq_true, if_false, dropMove_of_none none_]
  rw [takeoverCalled] at still
  simp only [still]
  rfl

theorem scrambleBytes_frame (a n : Nat) : scrambleBytes s a n = { s with
    mem := (scrambleBytes s a n).mem, blank := (scrambleBytes s a n).blank, freeCtr := (scrambleBytes s a n).freeCtr } := rfl

theorem scrambleVec_snd : (scrambleVec s).2 = { s with freeCtr := s.freeCtr + 2400 } := rfl

theorem scrambleSram_snd (n : Nat) : (scrambleSram s n).2 = { s with freeCtr := s.freeCtr + n } := rfl

theorem scrambleCore_frame (s : State) (k : Nat) : ∃ mem blank ctr cores,
    scrambleCore s k = { s with mem := mem, blank := blank, freeCtr := ctr, cores := cores } := by
  have bytes := scrambleBytes_frame (s := s) (cbAddr k 0) coreBytes
  unfold scrambleCore
  dsimp only
  generalize scrambleBytes s (cbAddr k 0) coreBytes = u at *
  rw [scrambleSram_snd, scrambleSram_snd, scrambleVec_snd, bytes]
  exact ⟨_, _, _, _, rfl⟩

theorem clusterOut_out (u : State) : bitOf (dget (clusterOut u c) 0x2C00 5) c = true := by
  rw [clusterOut, bootEvent, dget_raise, dget_dset_same, bitOf_putBit, if_pos rfl]

end

/-- Settles O50: the spare called for, moved to, and taken over by. -/
theorem sparesMove : Obligations.SparesMove := by
  unfold Obligations.SparesMove
  intro s c o p inside small apart
  refine ⟨fun start on active up due free none_ new ready next_ => ?_,
    fun pending spare free none_ on called ready quiet awake => ?_, fun waits called none_ => ⟨fun spare => ?_, fun spare => ?_⟩⟩
  · refine ⟨_, exec_spareRotation_of_due start on active up due free none_ new ready next_, ?_, ?_⟩
    · rw [getCluster_modCluster_same]
    · rw [getCluster_modCluster_same]
  · exact ⟨_, exec_spareMove_of_quiet pending spare free none_ on called ready quiet awake,
      moveCore_gives small (lt_of_spareOf inside spare) apart⟩
  · have slot := lt_of_spareOf inside spare
    have ran := exec_spareTakeover_of_spare waits called none_ spare
    have map (v : Nat) : domGet (setTrim (planTrim (tookOver s c o p) p (slotBin (tookOver s c o p) p)).1 p v) 0x2900 6 =
        domGet (setSlot (setSlot (takeoverCalled s c) o slotRetired 0xF) p slotActive (slotCore s o)) 0x2900 6 := by
      rw [slotMap_setTrim, domGet_planTrim, tookOver, slotMap_setTrim]
    have clusters : getCluster (planTrim (tookOver s c o p) p (slotBin (tookOver s c o p) p)).1 c = getCluster (takeoverCalled s c) c := by
      unfold planTrim planVmin
      cases (slotSweeps (tookOver s c o p) p).find? (·.bin = slotBin (tookOver s c o p) p) <;> rfl
    obtain ⟨mem, blank, ctr, cores, scrambled⟩ := scrambleCore_frame (setTrim (planTrim (tookOver s c o p) p
      (slotBin (tookOver s c o p) p)).1 p (min (planTrim (tookOver s c o p) p (slotBin (tookOver s c o p) p)).2 maxTrim))
      (c * 9 + slotCore s o)
    rw [scrambled] at ran
    refine ⟨_, ran, ?_, ?_, ?_, ?_⟩
    · refine (slotState_congr (map _) p).trans ?_
      exact slotState_setSlot_same _ slot (by decide) (slotCore_lt s o)
    · refine (slotCore_congr (map _) p).trans ?_
      exact slotCore_setSlot_same _ slot (by decide) (slotCore_lt s o)
    · refine (slotState_congr (map _) o).trans ?_
      rw [slotState, slotByte_setSlot_ne _ _ _ small apart, ← slotState]
      exact slotState_setSlot_same _ small (by decide) (by decide)
    · rw [← takeover_takeoverCalled, ← clusters]
      rfl
  · exact ⟨_, exec_spareTakeover_of_none waits called none_ spare, clusterOut_out _⟩

end Sys2Proof.Machine
end

section
/-! SUPPORT. In-field tests, trims and the margin plan (R442, R464 to R467, R502 to R507). -/

namespace Sys2Proof.Machine

/-! ## What a test leaves -/

theorem poweredHour_histAdd (s : State) (kind : Nat) (fields : List Nat) : poweredHour (histAdd s kind fields) = poweredHour s := by
  rw [poweredHour, poweredMs, (historyFrame_histAdd s kind fields).whole, poweredHour, poweredMs]

theorem poweredHour_raise (s : State) (e : Event) : poweredHour (raise s e) = poweredHour s := by
  rw [poweredHour, poweredMs, raise_frame, poweredHour, poweredMs]

theorem poweredHour_addSweep (s : State) (p : Nat) (w : Sweep) : poweredHour (addSweep s p w) = poweredHour s := by
  have put (u : State) (i sub total w n v : Nat) : poweredHour (domPut u i sub total w n v) = poweredHour u := rfl
  unfold addSweep
  dsimp only
  rw [put, poweredHour_histAdd]
  rfl

theorem poweredHour_tested (s : State) (p : Nat) (w : Sweep) (pass : Bool) :
    poweredHour (testOutcome (addSweep s p w) p pass) = poweredHour s := by
  rw [← poweredHour_addSweep s p w]
  exact poweredHour_raise _ _

theorem domGet_slotEvent (s : State) (p code cls cause : Nat) (h : Option Nat) (i sub : Nat) :
    domGet (slotEvent s p code cls cause h) i sub = domGet s i sub := domGet_raise _ _ _ _

theorem retiredSlots_slotEvent (s : State) (p code cls cause : Nat) (h : Option Nat) :
    (slotEvent s p code cls cause h).retiredSlots = s.retiredSlots := retiredSlots_raise _ _

theorem retiredSlots_updateLife (s : State) : (updateLife s).retiredSlots = s.retiredSlots := rfl

theorem domGet_updateLife (s : State) {i sub : Nat} (other : i ≠ 0x2800) (small : sub < 256) :
    domGet (updateLife s) i sub = domGet s i sub := by
  unfold updateLife
  dsimp only
  rw [domGet_dset, domGet_domSet_ne s (by decide) small (.inl other)]

theorem dget_updateLife (s : State) {i sub : Nat} (other : i ≠ 0x2800) (small : sub < 256) :
    dget (updateLife s) i sub = dget s i sub := by
  unfold updateLife
  dsimp only
  rw [dget_dset_ne _ (by decide) small (.inl other), dget_domSet]

theorem domNum_congr {s t : State} {i sub : Nat} (same : domGet t i sub = domGet s i sub) (w n : Nat) :
    domNum t i sub w n = domNum s i sub w n := by
  rw [domNum, same, domNum]

/-- The hour of a pass is noted (R467). -/
theorem domNum_notePass (s : State) {p : Nat} (inside : p < 576) :
    domNum (notePass s p) 0x2900 7 4 p = poweredHour s % 2 ^ 32 := by
  rw [notePass, domNum_domPut_same _ _ _ _ (by omega)]
  norm_num

theorem slotMap_notePass (s : State) (p : Nat) : domGet (notePass s p) 0x2900 6 = domGet s 0x2900 6 :=
  domGet_domPut_ne s (by decide) (by decide) (.inr (by decide)) _ _ _ _ _

theorem domGet_beginTest (s : State) (c i sub : Nat) : domGet (beginTest s c) i sub = domGet s i sub := by
  unfold beginTest
  split
  · rfl
  · cases (activeSlots s c).find? fun p => testDue s p 0 with
    | none => rfl
    | some p =>
      dsimp only
      split <;> rfl

theorem domGet_clearOverdue (s : State) (c i sub : Nat) : domGet (clearOverdue s c) i sub = domGet s i sub := by
  unfold clearOverdue
  dsimp only
  split <;> rfl

/-! ## The test of a spare and the test of a window -/

section
variable {s : State} {c p : Nat}

theorem exec_spareTestComplete_of_testing (spare : spareOf s c = some p) (tests : slotState s p = 2) (on : dget s 0x2900 4 = 1)
    (pass : Bool) (w : Sweep) : exec (.spareTestComplete c pass w) s =
      .next (if pass then
          updateLife (notePass (setSlot (testOutcome (addSweep s p { w with bin := slotBin s p }) p pass) p slotSpareReady 0xF) p)
        else updateLife (slotEvent (retireSlot (testOutcome (addSweep s p { w with bin := slotBin s p }) p pass) p causeTest)
          p 0x0106 0 0 none)) := by
  change execSpareTestComplete c pass w s = _
  unfold execSpareTestComplete
  simp only [spare, tests, on, slotSpareTesting, bne_self_eq_false, Bool.or_self, Bool.false_eq_true, if_false]
  split <;> rfl

theorem exec_windowTestComplete_of_underTest {k : Nat} (tests : (getCluster s c).underTest = some k) (slot : physSlot s k = p)
    (pass : Bool) (w : Sweep) : exec (.windowTestComplete c pass w) s =
      .next (let u := scrambleCore (testOutcome (addSweep (modCluster s c fun x => { x with underTest := none }) p
          { w with bin := slotBin (modCluster s c fun x => { x with underTest := none }) p }) p pass) k
        if pass then beginTest (clearOverdue (updateLife (notePass u p)) c) c else updateLife (retireAndLose u p causeTest)) := by
  change execWindowTestComplete c pass w s = _
  unfold execWindowTestComplete
  simp only [tests, slot]
  split <;> rfl

theorem mem_retiredSlots_retireAndLose (u : State) (cause : Nat) : p ∈ (retireAndLose u p cause).retiredSlots := by
  have out (v : State) (c : Nat) : (clusterOut v c).retiredSlots = v.retiredSlots := retiredSlots_raise _ _
  rw [retireAndLose, out, retiredSlots_slotEvent]
  exact mem_retiredSlots_retireSlot u p cause

theorem spareTestComplete_gives (inside : p < 576) (spare : spareOf s c = some p) (tests : slotState s p = 2)
    (on : dget s 0x2900 4 = 1) (w : Sweep) :
    (∃ t, exec (.spareTestComplete c true w) s = .next t ∧ slotState t p = 1 ∧
      domNum t 0x2900 7 4 p = poweredHour s % 2 ^ 32) ∧
    (∃ t, exec (.spareTestComplete c false w) s = .next t ∧ slotState t p = 3 ∧ p ∈ t.retiredSlots) := by
  refine ⟨⟨_, exec_spareTestComplete_of_testing spare tests on true w, ?_, ?_⟩,
    ⟨_, exec_spareTestComplete_of_testing spare tests on false w, ?_, ?_⟩⟩
  · rw [if_pos rfl, slotState_congr ((domGet_updateLife _ (by decide) (by decide)).trans (slotMap_notePass _ _))]
    exact slotState_setSlot_same _ inside (by decide) (by decide)
  · rw [if_pos rfl, domNum_congr (domGet_updateLife _ (by decide) (by decide)), domNum_notePass _ inside]
    change poweredHour (testOutcome (addSweep s p _) p true) % _ = _
    rw [poweredHour_tested]
  · rw [if_neg (by decide), slotState_congr ((domGet_updateLife _ (by decide) (by decide)).trans (domGet_slotEvent _ _ _ _ _ _ _ _)),
      slotState_congr (slotMap_retireSlot _ _ _)]
    exact slotState_setSlot_same _ inside (by decide) (by decide)
  · rw [if_neg (by decide), retiredSlots_updateLife, retiredSlots_slotEvent]
    exact mem_retiredSlots_retireSlot _ p causeTest

theorem windowTestComplete_gives {k : Nat} (inside : p < 576) (tests : (getCluster s c).underTest = some k)
    (slot : physSlot s k = p) (w : Sweep) :
    (∃ t, exec (.windowTestComplete c true w) s = .next t ∧ domNum t 0x2900 7 4 p = poweredHour s % 2 ^ 32) ∧
    (∃ t, exec (.windowTestComplete c false w) s = .next t ∧ p ∈ t.retiredSlots ∧ bitOf (dget t 0x2C00 5) (p / 9) = true) := by
  refine ⟨⟨_, exec_windowTestComplete_of_underTest tests slot true w, ?_⟩,
    ⟨_, exec_windowTestComplete_of_underTest tests slot false w, ?_, ?_⟩⟩
  · rw [if_pos rfl, domNum_congr ((domGet_beginTest _ _ _ _).trans ((domGet_clearOverdue _ _ _ _).trans
      (domGet_updateLife _ (by decide) (by decide)))), domNum_notePass _ inside]
    obtain ⟨_, _, _, _, scrambled⟩ := scrambleCore_frame (testOutcome (addSweep (modCluster s c fun x => { x with underTest := none }) p
      { w with bin := slotBin (modCluster s c fun x => { x with underTest := none }) p }) p true) k
    rw [scrambled]
    change poweredHour (testOutcome (addSweep (modCluster s c _) p _) p true) % _ = _
    rw [poweredHour_tested]
    rfl
  · rw [if_neg (by decide), retiredSlots_updateLife]
    exact mem_retiredSlots_retireAndLose _ _
  · rw [if_neg (by decide), dget_updateLife _ (by decide) (by decide)]
    exact clusterOut_out _

theorem exec_testOverdue_of_due (spare : spareOf s c = none) (active : clusterActive s c = true)
    (windows : (getCluster s c).windows = []) {o : Nat}
    (due : (activeSlots s c).find? (fun p => testDue s p (dget s 0x2900 5 + 1) && !(getCluster s c).overdue.contains p) = some o) :
    exec (.testOverdue c) s = .next (slotEvent (dset (modCluster s c fun x => { x with overdue := o :: x.overdue }) 0x2900 9
      (putBit (dget (modCluster s c fun x => { x with overdue := o :: x.overdue }) 0x2900 9) c true)) o 0x0109 0 0 none) := by
  change execTestOverdue c s = _
  unfold execTestOverdue
  simp only [due, spare, active, windows, Option.isSome_none, Bool.not_true, List.isEmpty_nil, Bool.or_self, Bool.false_eq_true,
    if_false]

theorem testOverdue_gives (spare : spareOf s c = none) (active : clusterActive s c = true)
    (windows : (getCluster s c).windows = []) (listed : p ∈ activeSlots s c) (late : testDue s p (dget s 0x2900 5 + 1) = true)
    (new : p ∉ (getCluster s c).overdue) :
    ∃ t o, exec (.testOverdue c) s = .next t ∧ bitOf (dget t 0x2900 9) c = true ∧ o ∉ (getCluster s c).overdue ∧
      (getCluster t c).overdue = o :: (getCluster s c).overdue := by
  cases due : (activeSlots s c).find? (fun p => testDue s p (dget s 0x2900 5 + 1) && !(getCluster s c).overdue.contains p) with
  | none => exact absurd (List.find?_eq_none.mp due p listed) (by simp [late, new])
  | some o =>
    have fresh := List.find?_some due
    simp only [Bool.and_eq_true, Bool.not_eq_true', List.contains_eq_mem, decide_eq_false_iff_not] at fresh
    refine ⟨_, o, exec_testOverdue_of_due spare active windows due, ?_, fresh.2, ?_⟩
    · rw [slotEvent, dget_raise, dget_dset_same, bitOf_putBit, if_pos rfl]
    · rw [slotEvent, getCluster_raise, getCluster_dset, getCluster_modCluster_same]

theorem monitorFlag_gives (active : slotState s p = 0) :
    ∃ t, exec (.monitorFlag p) s = .next t ∧ t = { s with trimRaise := t.trimRaise } ∧ p ∈ t.trimRaise := by
  refine ⟨{ s with trimRaise := if s.trimRaise.contains p then s.trimRaise else s.trimRaise ++ [p] }, ?_, rfl, ?_⟩
  · change execMonitorFlag p s = _
    simp [execMonitorFlag, active, slotActive]
  · dsimp only
    split
    · next there => simpa using there
    · simp

/-! ## The margin plan (R505) -/

theorem lapWindows_frame (s : State) (c : Nat) :
    lapWindows s c = { s with clusters := (lapWindows s c).clusters, queues := (lapWindows s c).queues } := by
  have ended (l : List TestWin) (u : State) : l.foldl (fun s w => finish s w.queue w.index stSuccess 0 0) u =
      { u with queues := (l.foldl (fun s w => finish s w.queue w.index stSuccess 0 0) u).queues } := by
    induction l generalizing u with
    | nil => rfl
    | cons w l ih =>
      rw [List.foldl_cons, ih]
      rfl
  have begun (u : State) : beginTest u c = { u with clusters := (beginTest u c).clusters } := by
    unfold beginTest
    split
    · rfl
    · cases (activeSlots u c).find? fun p => testDue u p 0 with
      | none => rfl
      | some p =>
        dsimp only
        split <;> rfl
  unfold lapWindows
  dsimp only
  rw [begun, ended]
  rfl

/-- The windows that end or begin change the clusters and the commands that end. -/
theorem openWindows_frame (s : State) :
    openWindows s = { s with clusters := (openWindows s).clusters, queues := (openWindows s).queues } := by
  have all (l : List Nat) (u : State) : l.foldl lapWindows u =
      { u with clusters := (l.foldl lapWindows u).clusters, queues := (l.foldl lapWindows u).queues } := by
    induction l generalizing u with
    | nil => rfl
    | cons c l ih =>
      rw [List.foldl_cons, ih, lapWindows_frame]
  unfold openWindows
  split
  · exact all _ s
  · rfl

/-- A device whose quadrants have been planned for this check. -/
def marginsPlanned (s : State) : State :=
  (List.range 4).foldl (replanQuadrant 6) { openWindows s with planHour := poweredHour (openWindows s) / 500 }

theorem exec_marginPlanCheck_of_due (up : linksUp s = true) (free : eventsHeld s = false) (start : s.phase = 0)
    (none_ : heatEventsDue s = false) (still : anyRotationDue s = false) (due : s.planHour < poweredHour s / 500) :
    exec .marginPlanCheck s = .next (updateLife
      (histAdd (marginsPlanned s) histPlan ((List.range 4).map (quadrantBin (marginsPlanned s))))) := by
  change execMarginPlanCheck s = _
  simp only [execMarginPlanCheck, up, free, start, none_, still, planDue, due, decide_true, Bool.not_true, Bool.or_self,
    bne_self_eq_false, Bool.false_eq_true, if_false]
  rfl

theorem marginPlanCheck_gives (up : linksUp s = true) (free : eventsHeld s = false) (start : s.phase = 0)
    (none_ : heatEventsDue s = false) (still : anyRotationDue s = false) (due : s.planHour < poweredHour s / 500) :
    ∃ t, exec .marginPlanCheck s = .next t ∧ t.planHour = poweredHour s / 500 := by
  refine ⟨_, exec_marginPlanCheck_of_due up free start none_ still due, ?_⟩
  have planned (u : State) : ((List.range 4).foldl (replanQuadrant 6) u).planHour = u.planHour := by
    rw [(marginFrame_foldl (fun s q => marginFrame_replanQuadrant s 6 q) (List.range 4) u).whole]
  have hour : poweredHour (openWindows s) = poweredHour s := by
    rw [openWindows_frame]
    rfl
  have logged (u : State) (l : List Nat) : (updateLife (histAdd u histPlan l)).planHour = u.planHour := by
    change (histAdd u histPlan l).planHour = _
    rw [(historyFrame_histAdd _ _ _).whole]
  rw [logged, marginsPlanned, planned, hour]

end

/-- Settles O51: the tests, the trim and the plan. -/
theorem fieldTests : Obligations.FieldTests := by
  unfold Obligations.FieldTests
  intro s c p w _ inside
  refine ⟨fun spare tests on => spareTestComplete_gives inside spare tests on w,
    fun k tests slot => windowTestComplete_gives inside tests slot w,
    fun spare active windows listed late new => testOverdue_gives spare active windows listed late new, monitorFlag_gives,
    fun up free => ⟨fun start none_ still due => marginPlanCheck_gives up free start none_ still due, fun planned => ?_⟩⟩
  change execMarginPlanCheck s = _
  have rests : planDue s = false := by simpa [planDue] using planned
  simp [execMarginPlanCheck, rests]

end Sys2Proof.Machine
end

section
/-! SUPPORT. The link layer's flit groups (R305 to R311). -/

namespace Sys2Proof.Machine

/-! ## A port's sequence of groups -/

/-- Two ports at the same place in both sequences of groups, with the same groups to send again. -/
structure SameLine (x y : Port) : Prop where
  txNext : y.txNext = x.txNext
  retry : y.retry = x.retry
  replayFrom : y.replayFrom = x.replayFrom
  rxNext : y.rxNext = x.rxNext
  failing : y.failing = x.failing
  nakDue : y.nakDue = x.nakDue

theorem SameLine.refl (x : Port) : SameLine x x := ⟨rfl, rfl, rfl, rfl, rfl, rfl⟩

theorem SameLine.trans {x y z : Port} (a : SameLine x y) (b : SameLine y z) : SameLine x z :=
  ⟨b.txNext.trans a.txNext, b.retry.trans a.retry, b.replayFrom.trans a.replayFrom, b.rxNext.trans a.rxNext,
    b.failing.trans a.failing, b.nakDue.trans a.nakDue⟩

/-- A change of one port that leaves sequences in place leaves them so at every port. -/
theorem sameLine_modPort (s : State) (p q : Nat) {f : Port → Port} (keeps : ∀ x, SameLine x (f x)) :
    SameLine (getPort s p) (getPort (modPort s q f) p) := by
  by_cases here : p = q
  · rw [here, getPort_modPort_same]
    exact keeps _
  · rw [getPort_modPort_ne s here]
    exact .refl _

/-! ## Flits received -/

section
variable (s : State) (p q : Nat)

theorem sameLine_enqueue (k : Packet) (ing : Option (Nat × Nat)) : SameLine (getPort s p) (getPort (enqueue s k ing q) p) :=
  sameLine_modPort s p q fun _ => ⟨rfl, rfl, rfl, rfl, rfl, rfl⟩

theorem sameLine_nakBack (k : Packet) (reason : Nat) : SameLine (getPort s p) (getPort (nakBack s q k reason) p) :=
  sameLine_enqueue (dadd s (pIdx q) 0x0D 1) p q _ none

theorem sameLine_forward (vc : Nat) (k : Packet) : SameLine (getPort s p) (getPort (forward s q vc k) p) := by
  unfold forward
  split
  · exact sameLine_nakBack s p q k _
  · split
    · exact .refl _
    · cases routeOf s k.tag k.dst with
      | none => exact sameLine_nakBack s p q k _
      | some r =>
        dsimp only
        cases outPort s { k with hops := k.hops + 1 } (some (q, vc)) r with
        | none => exact .refl _
        | some j =>
          dsimp only
          split
          · exact sameLine_enqueue s p j _ _
          · exact sameLine_nakBack s p q _ _

theorem sameLine_receivePacket (vc : Nat) (k : Packet) : SameLine (getPort s p) (getPort (receivePacket s q vc k) p) := by
  unfold receivePacket
  split
  · exact .refl _
  · split
    · exact sameLine_modPort s p q fun _ => ⟨rfl, rfl, rfl, rfl, rfl, rfl⟩
    · split
      · exact .refl _
      · split
        · exact sameLine_modPort s p q fun _ => ⟨rfl, rfl, rfl, rfl, rfl, rfl⟩
        · exact sameLine_forward s p q vc k

theorem sameLine_receiveFlit (x : Nat × BitVec 2048) : SameLine (getPort s p) (getPort (receiveFlit s q x) p) := by
  have freed := sameLine_modPort (dadd s (pIdx q) 0x0F 1) p q
    (f := fun y => { y with freed := modNth y.freed (bitsOf x.1 62 61) fun n => (n + 1) % 4096 }) fun _ => ⟨rfl, rfl, rfl, rfl, rfl, rfl⟩
  have joined (u : State) (l : List (Nat × List (BitVec 2048))) :=
    sameLine_modPort u p q (f := fun y => { y with partials := l }) fun _ => ⟨rfl, rfl, rfl, rfl, rfl, rfl⟩
  unfold receiveFlit
  dsimp only
  generalize modPort (dadd s (pIdx q) 0x0F 1) q _ = u at freed ⊢
  replace freed : SameLine (getPort s p) (getPort u p) := freed
  split
  · exact freed
  · split
    · exact (freed.trans (joined u _)).trans (sameLine_receivePacket _ p q _ _)
    · exact freed.trans (joined u _)

theorem sameLine_foldl {α : Type} {f : State → α → State} (keeps : ∀ s a, SameLine (getPort s p) (getPort (f s a) p)) (l : List α) :
    SameLine (getPort s p) (getPort (l.foldl f s) p) := by
  induction l generalizing s with
  | nil => exact .refl _
  | cons a l ih => exact (keeps s a).trans (ih _)

end

/-! ## Groups sent -/

/-- Filling a group's slots: the port's sequences stay, and no counter rises but those of flits sent. -/
structure FillFrame (p : Nat) (s t : State) : Prop where
  line : SameLine (getPort s p) (getPort t p)
  dict : ∀ i sub, sub < 256 → sub ≠ 0x0E → sub ≠ 0x10 → dget t i sub = dget s i sub

theorem FillFrame.refl (p : Nat) (s : State) : FillFrame p s s := ⟨.refl _, fun _ _ _ _ _ => rfl⟩

theorem FillFrame.trans {p : Nat} {s t u : State} (a : FillFrame p s t) (b : FillFrame p t u) : FillFrame p s u :=
  ⟨a.line.trans b.line, fun i sub h m n => (b.dict i sub h m n).trans (a.dict i sub h m n)⟩

section
variable (s : State) (p : Nat)

theorem fillFrame_modPort {f : Port → Port} (keeps : ∀ x, SameLine x (f x)) : FillFrame p s (modPort s p f) :=
  ⟨sameLine_modPort s p p keeps, fun _ _ _ _ _ => rfl⟩

theorem fillFrame_dadd {sub : Nat} (counter : sub = 0x0E ∨ sub = 0x10) : FillFrame p s (dadd s (pIdx p) sub 1) := by
  refine ⟨.refl _, fun i j small m n => ?_⟩
  rw [dadd_eq, dget_dset_ne _ (by omega) small (.inr (by omega))]

theorem fillFrame_fillSlot (used cap : Nat) (acc : State × Filling) : FillFrame p acc.1 (fillSlot p used cap acc).1 := by
  unfold fillSlot
  extract_lets s0 x start
  have began : FillFrame p s0 start.1 := by
    have stays : FillFrame p s0 s0 := .refl p s0
    simp only [start]
    split
    · split
      · exact stays
      · exact stays
    · split
      · exact stays
      · split
        · dsimp only
          exact fillFrame_modPort s0 p fun _ => ⟨rfl, rfl, rfl, rfl, rfl, rfl⟩
        · exact stays
      · split
        · dsimp only
          exact fillFrame_modPort s0 p fun _ => ⟨rfl, rfl, rfl, rfl, rfl, rfl⟩
        · exact stays
  change FillFrame p s0 _
  clear_value start
  split
  · dsimp only
    have sent (f : Port → Port) (keeps : ∀ x, SameLine x (f x)) : FillFrame p s0 (dadd (modPort start.1 p f) (pIdx p) 0x0E 1) :=
      (began.trans (fillFrame_modPort _ p keeps)).trans (fillFrame_dadd _ p (.inl rfl))
    have counted (u : State) (frame : FillFrame p s0 u) (b : Bool) : FillFrame p s0 (if b then dadd u (pIdx p) 0x10 1 else u) := by
      cases b
      · exact frame
      · exact frame.trans (fillFrame_dadd u p (.inr rfl))
    refine counted _ (sent _ ?_) _
    exact fun _ => ⟨rfl, rfl, rfl, rfl, rfl, rfl⟩
  · exact began

theorem fillFrame_slots (used cap : Nat) (l : List Nat) (acc : State × Filling) :
    FillFrame p acc.1 (l.foldl (fun acc _ => fillSlot p used cap acc) acc).1 := by
  induction l generalizing acc with
  | nil => exact .refl p acc.1
  | cons i l ih => exact (fillFrame_fillSlot p used cap acc).trans (ih _)

/-- A port that has sent a group of its own under a sequence as it stood (R307, R308). -/
structure Sent (s t : State) (p : Nat) (again : Option Nat) : Prop where
  group : GroupSent s t p again (getPort s p).nakDue
  rxNext : (getPort t p).rxNext = (getPort s p).rxNext
  failing : (getPort t p).failing = (getPort s p).failing
  dict : ∀ i sub, sub < 256 → sub ≠ 0x0E → sub ≠ 0x10 → dget t i sub = dget s i sub

theorem sent_sendFresh : Sent s (sendFresh s p) p none := by
  have filled := fillFrame_slots p (((getPort s p).vc2use.take 7).foldl (· + ·) 0) (dget s 0x2320 2) (List.range 24) (s, {})
  unfold sendFresh
  dsimp only
  generalize (List.range 24).foldl (fun acc _ => fillSlot p (((getPort s p).vc2use.take 7).foldl (· + ·) 0) (dget s 0x2320 2) acc)
    (s, {}) = r at *
  obtain ⟨u, made⟩ := r
  obtain ⟨⟨txNext, _, _, rxNext, failing, nakDue⟩, dict⟩ := filled
  refine ⟨?_, ?_, ?_, dict⟩
  · rw [GroupSent, getPort_modPort_same]
    dsimp only at txNext nakDue ⊢
    refine ⟨_, getPort u p, made.slots.reverse, rfl, ?_, rfl, rfl, nakDue, rfl, fun _ => ⟨by rw [txNext], ?_⟩,
      fun absent => absurd absent (by decide)⟩
    · rw [txNext]
      rfl
    · rw [← txNext]
      rfl
  · rw [getPort_modPort_same]
    exact rxNext
  · rw [getPort_modPort_same]
    exact failing

/-- What a port sends where it drops a replay that it holds no more. -/
theorem Sent.of_dropped {t : State} (sent : Sent (modPort s p fun y => { y with replayFrom := none }) t p none) : Sent s t p none := by
  obtain ⟨group, rxNext, failing, dict⟩ := sent
  rw [GroupSent] at group
  rw [getPort_modPort_same] at group rxNext failing
  exact ⟨group, rxNext, failing, dict⟩

/-- A port sends the group it has to send again, or a fresh one. -/
theorem sent_sendGroup : Sent s (sendGroup s p) p (replayNo s p) := by
  unfold sendGroup
  dsimp only
  cases due : (getPort s p).replayFrom with
  | none =>
    have fresh : replayNo s p = none := by rw [replayNo, due]; rfl
    rw [fresh]
    exact sent_sendFresh s p
  | some n =>
    dsimp only
    cases held : (getPort s p).retry.find? (·.1 = n) with
    | none =>
      have gone : replayNo s p = none := by
        have absent : ((getPort s p).retry.any fun x => decide (x.1 = n)) = false := by
          rw [List.any_eq_false]
          exact List.find?_eq_none.mp held
        rw [replayNo, due]
        simp [Option.filter, absent]
      rw [gone]
      exact Sent.of_dropped s p (sent_sendFresh _ p)
    | some g =>
      have again : replayNo s p = some n := by
        have there : ((getPort s p).retry.any fun x => decide (x.1 = n)) = true :=
          
          List.any_eq_true.mpr ⟨g, List.mem_of_find?_eq_some held, List.find?_some (p := fun x : Nat × Group => decide (x.1 = n)) held⟩
        rw [replayNo, due]
        simp [Option.filter, there]
      rw [again]
      obtain ⟨m, g⟩ := g
      refine ⟨?_, ?_, ?_, fun _ _ _ _ _ => rfl⟩
      · rw [GroupSent, getPort_modPort_same]
        exact ⟨_, getPort s p, _, rfl, rfl, rfl, rfl, rfl, rfl, fun absent => absurd absent (Option.some_ne_none n), fun _ => rfl⟩
      · rw [getPort_modPort_same]
      · rw [getPort_modPort_same]

/-- The same, with what the port's own number and sequence say of an earlier state. -/
theorem GroupSent.of_earlier {r t : State} {again : Option Nat} {nak : Bool} (sent : GroupSent r t p again nak)
    (same : (getPort r p).txNext = (getPort s p).txNext) : GroupSent s t p again nak := by
  rw [GroupSent] at sent ⊢
  rw [same] at sent
  exact sent

theorem replayNo_congr {r : State} {p : Nat} (line : SameLine (getPort s p) (getPort r p)) : replayNo r p = replayNo s p := by
  rw [replayNo, line.replayFrom, line.retry, replayNo]

/-! ## Groups received (R305 to R308) -/

theorem takeHeader_gives {v : State} {g : BitVec 2048} (taken : takeHeader s p g = some v) :
    (getPort v p).txNext = (getPort s p).txNext ∧ (getPort v p).rxNext = (getPort s p).rxNext ∧
      (getPort v p).failing = (getPort s p).failing ∧ (getPort v p).nakDue = (getPort s p).nakDue := by
  unfold takeHeader at taken
  dsimp only at taken
  split at taken
  · cases taken
  · split at taken
    · cases taken
      rw [getPort_modPort_same]
      exact ⟨rfl, rfl, rfl, rfl⟩
    · split at taken
      · cases taken
      · obtain ⟨_, same⟩ := Option.ite_none_left_eq_some.mp taken
        obtain rfl := Option.some.inj same
        rw [dadd_eq, getPort_dset, getPort_modPort_same, getPort_modPort_same]
        exact ⟨rfl, rfl, rfl, rfl⟩

end

/-- The flits of a group that are valid, joined to packets. -/
def flitsTaken (s : State) (p : Nat) (g : BitVec 2048) (l : List (BitVec 2048)) : State :=
  ((List.range 24).filter fun i => fld g (64 * i + 63) (64 * i + 63) = 1).foldl
    (fun s i => receiveFlit s p (fld g (64 * i + 63) (64 * i), flitAt l i)) s

section
variable {s : State} {p : Nat} {g : BitVec 2048} {l : List (BitVec 2048)} (up : trained s p = true)
include up

theorem exec_flitGroup_of_broken (broken : headerOk g = false ∨ flitsOk g l = false) : exec (.flitGroup p g l) s =
    .next (sendGroup (modPort (dadd s (pIdx p) 0x0A 1) p fun x => { x with failing := true, nakDue := true }) p) := by
  change execFlitGroup p g l s = _
  unfold execFlitGroup
  obtain bad | bad := broken <;> simp [up, bad]

theorem exec_flitGroup_of_order (sound : headerOk g = true) (whole : flitsOk g l = true)
    (order : fld g 2047 2016 = (getPort s p).rxNext % 2 ^ 32) : exec (.flitGroup p g l) s = .next (acceptGroup s p g l) := by
  change execFlitGroup p g l s = _
  simp [execFlitGroup, up, sound, whole, order]

theorem exec_flitGroup_of_disorder (sound : headerOk g = true) (whole : flitsOk g l = true)
    (order : fld g 2047 2016 ≠ (getPort s p).rxNext % 2 ^ 32) : exec (.flitGroup p g l) s =
      .next (sendGroup (modPort s p fun x => { x with failing := true, nakDue := x.nakDue || !x.failing }) p) := by
  change execFlitGroup p g l s = _
  simp only [execFlitGroup, up, sound, whole, order, Bool.not_true, Bool.or_self, Bool.false_eq_true, if_false]

end

/-- The port that takes up a group in its order. -/
def groupTaken (s : State) (p : Nat) : State := modPort s p fun x => { x with rxNext := x.rxNext + 1, failing := false, nakDue := false }

theorem acceptGroup_of_some {s v : State} {p : Nat} {g : BitVec 2048} {l : List (BitVec 2048)}
    (taken : takeHeader (groupTaken s p) p g = some v) : acceptGroup s p g l = sendGroup (flitsTaken v p g l) p := by
  unfold acceptGroup
  rw [groupTaken] at taken
  simp only [taken]
  rfl

theorem acceptGroup_of_none {s : State} {p : Nat} {g : BitVec 2048} {l : List (BitVec 2048)}
    (refused : takeHeader (groupTaken s p) p g = none) : acceptGroup s p g l = retrain (groupTaken s p) p true := by
  unfold acceptGroup
  rw [groupTaken] at refused
  simp only [refused]
  rfl

/-- Settles O39: a broken group, one in its order, and one out of it. -/
theorem flitGroups : Obligations.FlitGroups := by
  unfold Obligations.FlitGroups
  intro s p g l up
  refine ⟨fun broken => ?_, fun sound whole => ⟨fun v order taken => ?_, fun order refused => ?_, fun order => ?_⟩⟩
  · have sent := sent_sendGroup (modPort (dadd s (pIdx p) 0x0A 1) p fun x => { x with failing := true, nakDue := true }) p
    obtain ⟨group, rxNext, failing, dict⟩ := sent
    rw [getPort_modPort_same] at group rxNext failing
    refine ⟨_, exec_flitGroup_of_broken up broken, ?_, failing, rxNext, ?_⟩
    · rw [Counted, dict _ _ (by decide) (by decide) (by decide)]
      exact dget_dset_same _ _ _ _
    · have again : replayNo (modPort (dadd s (pIdx p) 0x0A 1) p fun x => { x with failing := true, nakDue := true }) p =
          replayNo s p := by
        rw [replayNo, getPort_modPort_same]
        rfl
      rw [again] at group
      exact group.of_earlier s p (by rw [getPort_modPort_same]; rfl)
  · have ran := exec_flitGroup_of_order up sound whole order
    rw [acceptGroup_of_some taken] at ran
    obtain ⟨txNext, rxNext, failing, nakDue⟩ := takeHeader_gives _ p taken
    rw [getPort_modPort_same] at txNext rxNext failing nakDue
    have line : SameLine (getPort v p) (getPort (flitsTaken v p g l) p) :=
      sameLine_foldl v p (fun u i => sameLine_receiveFlit u p p _) _
    have sent := sent_sendGroup (flitsTaken v p g l) p
    rw [replayNo_congr v line] at sent
    obtain ⟨group, rx, fails, _⟩ := sent
    refine ⟨_, ran, ?_, ?_, ?_⟩
    · rw [fails, line.failing, failing]
    · rw [rx, line.rxNext, rxNext]
    · rw [line.nakDue, nakDue] at group
      exact group.of_earlier s p (line.txNext.trans txNext)
  · have ran := exec_flitGroup_of_order up sound whole order
    rw [acceptGroup_of_none refused] at ran
    obtain ⟨link, counted, _⟩ := retrain_counted (groupTaken s p) p
    exact ⟨_, ran, link, counted⟩
  · have sent := sent_sendGroup (modPort s p fun x => { x with failing := true, nakDue := x.nakDue || !x.failing }) p
    obtain ⟨group, rxNext, failing, _⟩ := sent
    rw [getPort_modPort_same] at group rxNext failing
    refine ⟨_, exec_flitGroup_of_disorder up sound whole order, failing, rxNext, ?_⟩
    have again : replayNo (modPort s p fun x => { x with failing := true, nakDue := x.nakDue || !x.failing }) p = replayNo s p := by
      rw [replayNo, getPort_modPort_same, replayNo]
    rw [again] at group
    exact group.of_earlier s p (by rw [getPort_modPort_same])

end Sys2Proof.Machine
end

section
/-! SUPPORT. Memory-side operations into memory that no ordered region holds (R218 to R227). -/

namespace Sys2Proof.Machine

/-! ## The INT32 add-into (R218) -/

/-- INT32 elements added at an address, each modulo 2^32: the first `n` of a list of bytes. -/
def addInts (s : State) (a : Nat) (l : List Byte) (n : Nat) : State :=
  (List.range n).foldl (fun s i => writeNat s (a + i * 4) 4 ((readNat s (a + i * 4) 4 + natAt l (i * 4) 4) % 2 ^ 32)) s

section
variable (s : State) (a : Nat) (l : List Byte) (n : Nat)

theorem addInts_succ : addInts s a l (n + 1) = writeNat (addInts s a l n) (a + n * 4) 4
    ((readNat (addInts s a l n) (a + n * 4) 4 + natAt l (n * 4) 4) % 2 ^ 32) := by
  rw [addInts, List.range_succ, List.foldl_concat]
  rfl

theorem addInts_frame : addInts s a l n = { s with mem := (addInts s a l n).mem } := by
  induction n with
  | zero => rfl
  | succ n ih =>
    rw [addInts_succ, writeNat_frame, ih]

theorem getByte_addInts_out {i : Nat} (out : i < a ∨ a + n * 4 ≤ i) : getByte (addInts s a l n) i = getByte s i := by
  induction n with
  | zero => rfl
  | succ n ih => rw [addInts_succ, getByte_writeNat_out _ _ (by omega), ih (by omega)]

theorem readNat_addInts {i : Nat} (inside : i < n) :
    readNat (addInts s a l n) (a + i * 4) 4 = (readNat s (a + i * 4) 4 + natAt l (i * 4) 4) % 2 ^ 32 := by
  induction n with
  | zero => exact absurd inside (Nat.not_lt_zero i)
  | succ n ih =>
    rw [addInts_succ]
    by_cases last : i = n
    · have before : readNat (addInts s a l n) (a + n * 4) 4 = readNat s (a + n * 4) 4 :=
        readNat_congr fun j _ => getByte_addInts_out s a l n (.inr (by omega))
      rw [last, readNat_writeNat_same, before]
      exact Nat.mod_mod _ _
    · rw [readNat_writeNat_out _ (by omega), ih (by omega)]

end

/-- The loop of an INT32 operation adds, and counts no flush. -/
theorem memOp_loop (cls : Cls) (s : State) (a : Nat) (l : List Byte) (n : Nat) :
    (List.range n).foldl (fun (acc : State × Nat) i =>
      (writeNat acc.1 (a + i * memOpBytes 3) (memOpBytes 3)
        (memOpElem 3 cls (readNat acc.1 (a + i * memOpBytes 3) (memOpBytes 3)) (natAt l (i * memOpBytes 3) (memOpBytes 3))).1,
        acc.2 + (memOpElem 3 cls (readNat acc.1 (a + i * memOpBytes 3) (memOpBytes 3))
          (natAt l (i * memOpBytes 3) (memOpBytes 3))).2)) (s, 0) = (addInts s a l n, 0) := by
  induction n with
  | zero => rfl
  | succ n ih =>
    rw [List.range_succ, List.foldl_concat, ih, addInts_succ]
    rfl

/-- An INT32 operation on sound memory. -/
theorem applyMemOp_int32 {s : State} (sound : s.errs = []) (a : Nat) (l : List Byte) :
    applyMemOp s 3 a l = (addInts s a l (l.length / 4), true) := by
  have loop := memOp_loop (match heatOfAddr s a with | some h => heatCls s h | none => .train) s a l (l.length / 4)
  unfold applyMemOp
  rw [checkRead_of_sound sound]
  simp only [Bool.not_true, Bool.false_eq_true, if_false]
  change ((match heatOfAddr s a with | some h => addFlush (_ : State × Nat).1 h _ | none => _), true) = _
  cases owner : heatOfAddr s a with
  | none =>
    rw [owner] at loop
    exact congrArg (fun x : State × Nat => (x.1, true)) loop
  | some h =>
    rw [owner] at loop
    exact congrArg (fun x : State × Nat => (addFlush x.1 h x.2, true)) loop

/-! ## Operations outside ordered regions (R224, R226) -/

theorem fitBytes_self (l : List Byte) : fitBytes l.length l = l := by
  rw [fitBytes, List.take_left' rfl]

theorem squaresOf_of_ne_one (s : State) (h : Nat) {op : Nat} (other : op ≠ 1) (p : ContribSpan) (l : List Byte) :
    squaresOf s h op p l = s := by
  simp [squaresOf, other]

/-- An add-into whose range touches no region goes straight into memory. -/
theorem addInto_of_free {s : State} {h op : Nat} (other : op ≠ 1) (order : Nat) (who : Sender) (p : ContribSpan) (l : List Byte)
    (free : regionsAt s h p.addr l.length = []) : addInto s h op order who p l = applyMemOp s op p.addr l := by
  have one : regionCuts s h p.addr l.length = [(p.addr, l.length, none)] := by
    rw [regionCuts, free]
    rfl
  have whole : sliceBytes l (p.addr - p.addr) l.length = l := by
    rw [Nat.sub_self, sliceBytes, List.drop_zero, fitBytes_self]
  rw [addInto, one]
  simp only [List.foldl_cons, List.foldl_nil, Bool.not_true, Bool.false_eq_true, if_false]
  rw [whole, squaresOf_of_ne_one _ _ other]

theorem ordViolates_of_free {s : State} {h a n : Nat} (free : regionsAt s h a n = []) (op : Nat) (en : Bool) (order : Nat)
    (who : Sender) : ordViolates s h a n op en order who = false := by
  rw [ordViolates, free]
  rfl

theorem ordHolds_of_free {s : State} {h a n : Nat} (free : regionsAt s h a n = []) (order : Nat) :
    ordHolds s h a n order = false := by
  rw [ordHolds, free]
  rfl

theorem regionsAt_congr {s t : State} (same : t.heats = s.heats) (h a n : Nat) : regionsAt t h a n = regionsAt s h a n := by
  rw [regionsAt, regionsAt, getHeat, getHeat, same]

theorem nth_eq_getElem {α : Type} (d : α) : ∀ (l : List α) (n : Nat) (inside : n < l.length), nth d l n = l[n]
  | _ :: _, 0, _ => rfl
  | _ :: l, n + 1, inside => nth_eq_getElem d l n (by simpa using inside)

/-- No region of the heat overlaps a range that none touches. -/
theorem overlaps_of_free {s : State} {h a n r : Nat} (free : regionsAt s h a n = []) (inside : r < (getHeat s h).regions.length) :
    overlaps (getRegion s h r).base (getRegion s h r).bytes a n = false := by
  have all := List.filter_eq_nil_iff.mp free (r, (getHeat s h).regions[r]) (by
    rw [List.mem_iff_getElem]
    exact ⟨r, by simpa using inside, by simp⟩)
  rw [getRegion, nth_eq_getElem _ _ _ inside]
  simpa using all

/-- The end of a contribution that touches no region changes nothing. -/
theorem ordEndAll_of_free {s : State} {h a n : Nat} (free : regionsAt s h a n = []) (order : Nat) :
    ordEndAll s h order [(a, n)] = s := by
  have none_ : rangeWhere (getHeat s h).regions.length (fun r =>
      [(a, n)].any fun y => overlaps (getRegion s h r).base (getRegion s h r).bytes y.1 y.2) = [] := by
    rw [rangeWhere, List.filter_eq_nil_iff]
    intro r listed
    simp [overlaps_of_free free (List.mem_range.mp listed)]
  unfold ordEndAll
  dsimp only
  rw [none_]
  rfl

end Sys2Proof.Machine
end

section
/-! SUPPORT. What the address map and the rights of an access read of the state (R200, R201, R243). -/

namespace Sys2Proof.Machine

/-- Two states with the same entries and the same heats live. -/
structure SameMap (s t : State) : Prop where
  dict : t.dict = s.dict
  dom : t.dom = s.dom
  heats : liveHeats t = liveHeats s

namespace SameMap

theorem of_fields {s t : State} (dict : t.dict = s.dict) (dom : t.dom = s.dom) (heats : t.heats = s.heats) : SameMap s t :=
  ⟨dict, dom, by simp only [liveHeats, getHeat, heats]⟩

section
variable {s t : State} (same : SameMap s t)
include same

theorem dget (i sub : Nat) : Machine.dget t i sub = Machine.dget s i sub := by rw [Machine.dget, same.dict, Machine.dget]

theorem domGet (i sub : Nat) : Machine.domGet t i sub = Machine.domGet s i sub := by rw [Machine.domGet, same.dom, Machine.domGet]

theorem stackTop : Machine.stackTop t = Machine.stackTop s := by rw [Machine.stackTop, same.dget, Machine.stackTop]

theorem clusterHeat (c : Nat) : Machine.clusterHeat t c = Machine.clusterHeat s c := by
  simp only [Machine.clusterHeat, same.heats, same.dget]

theorem clusterActive (c : Nat) : Machine.clusterActive t c = Machine.clusterActive s c := by
  simp only [Machine.clusterActive, physCluster, same.dget, same.domGet]

theorem scratchBytes (c : Nat) : Machine.scratchBytes t c = Machine.scratchBytes s c := by
  simp only [Machine.scratchBytes, same.clusterHeat, same.dget]

theorem place (a : Nat) : Machine.place t a = Machine.place s a := by
  simp only [Machine.place, same.stackTop, same.clusterActive, same.scratchBytes]

theorem inHeat (h a n : Nat) : Machine.inHeat t h a n = Machine.inHeat s h a n := by
  simp only [Machine.inHeat, heatRanges, domNum, same.domGet]

theorem accessLegal (kind : AccessKind) (door : Bool) (a n : Nat) :
    Machine.accessLegal t kind door a n = Machine.accessLegal s kind door a n := by
  simp only [Machine.accessLegal, same.place, same.stackTop, same.clusterActive, same.scratchBytes]

theorem accessOwned (h a n : Nat) : Machine.accessOwned t h a n = Machine.accessOwned s h a n := by
  simp only [Machine.accessOwned, same.place, same.clusterHeat, same.inHeat]

theorem accessReserved (h a n : Nat) : Machine.accessReserved t h a n = Machine.accessReserved s h a n := by
  simp only [Machine.accessReserved, same.place, same.dget, same.scratchBytes]

theorem remoteLegal (h : Nat) (kind : AccessKind) (a n : Nat) : Machine.remoteLegal t h kind a n = Machine.remoteLegal s h kind a n := by
  rw [Machine.remoteLegal, same.accessLegal, same.accessOwned, same.accessReserved, Machine.remoteLegal]

theorem heatOfAddr (a : Nat) : Machine.heatOfAddr t a = Machine.heatOfAddr s a := by
  simp only [Machine.heatOfAddr, same.heats, same.inHeat]

end

end SameMap

end Sys2Proof.Machine
end

section
/-! SUPPORT. Remote operations at their target (R326, R329, R330). -/

namespace Sys2Proof.Machine

/-- Sending a packet puts it on a line queue. -/
theorem sendPacket_frame (s : State) (k : Packet) : sendPacket s k = { s with ports := (sendPacket s k).ports } := by
  unfold sendPacket
  cases routeOf s k.tag k.dst with
  | none => rfl
  | some r =>
    dsimp only
    cases outPort s k none r <;> rfl

theorem getByte_sendPacket (s : State) (k : Packet) (a : Nat) : getByte (sendPacket s k) a = getByte s a := by
  rw [sendPacket_frame]
  rfl

theorem readBytes_sendPacket (s : State) (k : Packet) (a n : Nat) : readBytes (sendPacket s k) a n = readBytes s a n :=
  readBytes_congr fun _ _ => getByte_sendPacket s k _

theorem sameMap_taken (s : State) (port : Nat) (k : Packet) : SameMap s (taken s port k) := .of_fields rfl rfl rfl

theorem getByte_taken (s : State) (port : Nat) (k : Packet) (a : Nat) : getByte (taken s port k) a = getByte s a := getByte_congr rfl rfl a

theorem readBytes_taken (s : State) (port : Nat) (k : Packet) (a n : Nat) : readBytes (taken s port k) a n = readBytes s a n :=
  readBytes_congr fun _ _ => getByte_taken s port k _

theorem readNat_taken (s : State) (port : Nat) (k : Packet) (a n : Nat) : readNat (taken s port k) a n = readNat s a n :=
  congrArg natOfBytes (readBytes_taken s port k a n)

theorem readNat_sendPacket (s : State) (k : Packet) (a n : Nat) : readNat (sendPacket s k) a n = readNat s a n :=
  congrArg natOfBytes (readBytes_sendPacket s k a n)

section
variable {s : State} {port h : Nat} {k : Packet}

/-- A packet without a reserved code, on a port that carries packets, is consumed; it is for this device where it names it. -/
theorem arrive_of_admitted (admits : admitted s port = true) (sound : packetBad k = false) :
    arrive s port k = (taken s port k, decide (k.dst = ownChip s)) := by
  have links : linkState (taken s port k) port ≠ linkFused := by
    intro fused
    have up : linkState s port = linkTrained := by
      simp only [admitted, trained, Bool.and_eq_true, decide_eq_true_eq] at admits
      exact admits.1.1
    exact absurd (fused.symm.trans up) (by decide)
  have admits : admitted (taken s port k) port = true := admits
  change (if linkState (taken s port k) port = linkFused then (taken s port k, false) else if packetBad k then _ else
    if admitted (taken s port k) port then (taken s port k, decide (k.dst = ownChip (taken s port k))) else _) = _
  rw [if_neg links, sound, admits]
  rfl

theorem arrive_of_comesTo (comes : comesTo s port k h) : arrive s port k = (taken s port k, true) := by
  obtain ⟨admits, sound, here, -⟩ := comes
  rw [arrive_of_admitted admits sound, decide_eq_true here]

theorem targetHeat_of_comesTo (comes : comesTo s port k h) : targetHeat (taken s port k) port k = (taken s port k, some h) := by
  obtain ⟨-, -, -, heat, state⟩ := comes
  have heat : tagHeat (taken s port k) k.tag = some h := heat
  have state : (getHeat (taken s port k) h).st = .running ∨ (getHeat (taken s port k) h).st = .stopping ∨
      (getHeat (taken s port k) h).st = .stopped := state
  unfold targetHeat
  rw [heat]
  dsimp only
  obtain st | st | st := state <;> rw [st]

/-- A packet that its heat answers is handled in the state without it. -/
theorem asTarget_of_comesTo (comes : comesTo s port k h) (f : State → Nat → State) :
    asTarget s port k f = f (taken s port k) h := by
  unfold asTarget
  rw [arrive_of_comesTo comes]
  simp only [Bool.not_true, Bool.false_eq_true, if_false, targetHeat_of_comesTo comes]

theorem injectErrs_nil (s : State) : injectErrs s [] = s := rfl

end

/-! ## Reads and stores -/

section
variable {s : State} {port h : Nat} {p : Packet}

theorem exec_readReq_of_legal (sound : s.errs = []) (comes : comesTo s port { p with kind := kReadReq } h)
    (legal : remoteLegal s h .load p.offset p.dataLen = true) (stack : place s p.offset = .stack) :
    exec (.readReq port p []) s = .next (sendPacket (taken s port { p with kind := kReadReq })
      { answer (taken s port { p with kind := kReadReq }) { p with kind := kReadReq } kReadResp with
        data := readBytes s p.offset p.dataLen, dataLen := p.dataLen }) := by
  change execReadReq port p [] s = _
  unfold execReadReq
  dsimp only
  rw [injectErrs_nil, asTarget_of_comesTo comes]
  rw [← (sameMap_taken s port { p with kind := kReadReq }).remoteLegal] at legal
  rw [← (sameMap_taken s port { p with kind := kReadReq }).place] at stack
  have bytes := readBytes_taken s port { p with kind := kReadReq } p.offset p.dataLen
  have errs : (taken s port { p with kind := kReadReq }).errs = [] := sound
  generalize taken s port { p with kind := kReadReq } = u at *
  have loaded : loadLocal u h 0 false p.offset p.dataLen = (u, some (readBytes s p.offset p.dataLen)) := by
    rw [loadLocal, stack]
    simp only [Bool.false_eq_true, if_false, checkRead_of_sound errs, if_true, bytes]
  simp only [legal, loaded, Bool.not_true, Bool.false_eq_true, if_false, length_readBytes]

theorem exec_readReq_of_illegal (comes : comesTo s port { p with kind := kReadReq } h)
    (illegal : remoteLegal s h .load p.offset p.dataLen = false) :
    exec (.readReq port p []) s = .next (sendPacket (taken s port { p with kind := kReadReq })
      { answer (taken s port { p with kind := kReadReq }) { p with kind := kReadReq } kNak with code := nakAddress }) := by
  change execReadReq port p [] s = _
  unfold execReadReq
  dsimp only
  rw [injectErrs_nil, asTarget_of_comesTo comes]
  rw [← (sameMap_taken s port { p with kind := kReadReq }).remoteLegal] at illegal
  simp only [illegal, Bool.not_false, if_true]
  rfl

theorem exec_write_of_target (comes : comesTo s port { p with kind := kWrite } h) :
    exec (.write port p []) s = .next (remoteStore (taken s port { p with kind := kWrite }) h { p with kind := kWrite }) := by
  change execWrite port p [] s = _
  unfold execWrite
  dsimp only
  rw [injectErrs_nil, asTarget_of_comesTo comes]

theorem exec_memOp_of_target (comes : comesTo s port { p with kind := kMemOp } h) :
    exec (.memOp port p []) s = .next (remoteMemOp (taken s port { p with kind := kMemOp }) h port { p with kind := kMemOp }) := by
  change execMemOp port p [] s = _
  unfold execMemOp
  dsimp only
  rw [injectErrs_nil, asTarget_of_comesTo comes]

end

section
variable {s : State} {h : Nat} {k : Packet}

theorem remoteStore_of_legal (sound : s.errs = []) (legal : remoteLegal s h .store k.offset k.data.length = true)
    (stack : place s k.offset = .stack)
    (order : ordViolates s h k.offset k.data.length 0 false 0 (.remote k.src k.tag) = false) :
    remoteStore s h k = sendPacket (writeBytes s k.offset k.data) (answer (writeBytes s k.offset k.data) k kAck) := by
  have stored : storeLocal s none k.offset k.data = (writeBytes s k.offset k.data, true) := by
    rw [storeLocal, stack]
    dsimp only
    rw [storeStack_of_sound sound]
  unfold remoteStore
  simp only [legal, stack, order, stored, Bool.not_true, Bool.false_eq_true, if_false, if_true]
  rfl

theorem remoteStore_of_illegal (illegal : remoteLegal s h .store k.offset k.data.length = false) :
    remoteStore s h k = sendPacket s { answer s k kNak with code := nakAddress } := by
  unfold remoteStore
  simp only [illegal, Bool.not_false, if_true]
  rfl

theorem alreadyHeld_of_free (free : regionsAt s h k.offset k.data.length = []) : alreadyHeld s h k = false := by
  unfold alreadyHeld
  rw [free]
  simp

theorem remoteMemOp_of_free (sound : s.errs = []) (op : k.memOp = 3) (fits : memOpFits k = true)
    (legal : remoteLegal s h .memOp k.offset k.data.length = true) (free : regionsAt s h k.offset k.data.length = []) (port : Nat) :
    remoteMemOp s h port k = sendPacket (addInts s k.offset k.data (k.data.length / 4))
      (answer (addInts s k.offset k.data (k.data.length / 4)) k kAck) := by
  have refused : remoteRefused s h k = false := ordViolates_of_free free _ _ _ _
  have added : addInto s h k.memOp k.orderNo (.remote k.src k.tag) { addr := k.offset, len := k.data.length } k.data =
      (addInts s k.offset k.data (k.data.length / 4), true) := by
    rw [op, addInto_of_free (by decide) _ _ _ _ free, applyMemOp_int32 sound]
  have ends : (if (k.orderEn && k.orderLast) = true then
      ordEndAll (addInts s k.offset k.data (k.data.length / 4)) h k.orderNo [(k.offset, k.data.length)]
      else addInts s k.offset k.data (k.data.length / 4)) = addInts s k.offset k.data (k.data.length / 4) := by
    have heats : (addInts s k.offset k.data (k.data.length / 4)).heats = s.heats := by rw [addInts_frame]
    rw [ordEndAll_of_free ((regionsAt_congr heats _ _ _).trans free), ite_self]
  have applied : remoteApply s h k = sendAck (addInts s k.offset k.data (k.data.length / 4)) k := by
    unfold remoteApply
    dsimp only
    rw [added]
    simp only [Bool.not_true, Bool.false_eq_true, if_false]
    rw [ends]
  unfold remoteMemOp
  simp only [fits, legal, refused, alreadyHeld_of_free free, ordHolds_of_free free, applied, Bool.not_true, Bool.not_false,
    Bool.or_self, Bool.and_self, Bool.false_eq_true, if_false, if_true]
  rfl

end

/-- A store acknowledged. -/
theorem stored_sendPacket_writeBytes (s : State) (port : Nat) (k x : Packet) (a : Nat) (l : List Byte) :
    Stored s (sendPacket (writeBytes (taken s port k) a l) x) a l := by
  obtain ⟨holds, out⟩ := stored_writeBytes (taken s port k) a l
  exact ⟨(readBytes_sendPacket _ _ _ _).trans holds, fun i apart =>
    ((getByte_sendPacket _ _ _).trans (out i apart)).trans (getByte_taken s port k i)⟩

/-- An INT32 add-into acknowledged. -/
theorem added_sendPacket (s : State) (port : Nat) (k x : Packet) (l : List Byte) {a : Nat} :
    (∀ i, i < l.length / 4 → readNat (sendPacket (addInts (taken s port k) a l (l.length / 4)) x) (a + i * 4) 4 =
      (readNat s (a + i * 4) 4 + natAt l (i * 4) 4) % 2 ^ 32) ∧
    ∀ i, (i < a ∨ a + l.length ≤ i) → getByte (sendPacket (addInts (taken s port k) a l (l.length / 4)) x) i = getByte s i := by
  refine ⟨fun i inside => ?_, fun i out => ?_⟩
  · rw [readNat_sendPacket, readNat_addInts _ _ _ _ inside, readNat_taken]
  · have whole : l.length / 4 * 4 ≤ l.length := Nat.div_mul_le_self _ _
    rw [getByte_sendPacket, getByte_addInts_out _ _ _ _ (by omega), getByte_taken]

/-- Settles O41: what a target answers to reads, stores and add-intos. -/
theorem remoteTarget : Obligations.RemoteTarget := by
  unfold Obligations.RemoteTarget
  intro s port p h sound
  refine ⟨?_, ?_, ?_⟩
  · intro k u comes
    exact ⟨fun legal stack => exec_readReq_of_legal sound comes legal stack, fun illegal => exec_readReq_of_illegal comes illegal⟩
  · intro k comes
    refine ⟨fun legal stack order => ?_, fun illegal => ?_⟩
    · have ran := exec_write_of_target comes
      rw [← (sameMap_taken s port { p with kind := kWrite }).remoteLegal] at legal
      rw [← (sameMap_taken s port { p with kind := kWrite }).place] at stack
      rw [remoteStore_of_legal (s := taken s port { p with kind := kWrite }) sound legal stack order] at ran
      refine ⟨_, _, ran, rfl, ?_⟩
      exact stored_sendPacket_writeBytes _ _ _ _ _ _
    · have ran := exec_write_of_target comes
      rw [← (sameMap_taken s port { p with kind := kWrite }).remoteLegal] at illegal
      rw [remoteStore_of_illegal (s := taken s port { p with kind := kWrite }) illegal] at ran
      refine ⟨_, _, ran, rfl, ?_⟩
      rw [sendPacket_frame]
      rfl
  · intro k comes op fits legal free
    have ran := exec_memOp_of_target comes
    rw [← (sameMap_taken s port { p with kind := kMemOp }).remoteLegal] at legal
    rw [remoteMemOp_of_free (s := taken s port { p with kind := kMemOp }) sound op fits legal free port] at ran
    exact ⟨_, _, ran, rfl, added_sendPacket _ _ _ _ _⟩

end Sys2Proof.Machine
end

section
/-! SUPPORT. What becomes of started commands while others' work goes on (R251, R314, R331, R332). -/

namespace Sys2Proof.Machine

/-! ## Flights related across a change -/

/-- Every started command of `s` stands in `t` under its queue and index, related by `r` to what it was. -/
def EachFlight (r : Flight → Flight → Prop) (s t : State) : Prop :=
  ∀ q i f, flightOf s q i = some f → ∃ g, flightOf t q i = some g ∧ r f g

/-- No queue's started commands change. -/
def SameFlights (s t : State) : Prop := ∀ q, (getQueue t q).flights = (getQueue s q).flights

theorem SameFlights.refl (s : State) : SameFlights s s := fun _ => rfl

theorem SameFlights.trans {s t u : State} (a : SameFlights s t) (b : SameFlights t u) : SameFlights s u := fun q => (b q).trans (a q)

theorem SameFlights.of_queues {s t : State} (same : t.queues = s.queues) : SameFlights s t := fun q => by
  rw [getQueue, same, getQueue]

theorem SameFlights.flightOf {s t : State} (same : SameFlights s t) (q i : Nat) : Machine.flightOf t q i = Machine.flightOf s q i := by
  rw [Machine.flightOf, same q, Machine.flightOf]

section
variable {r : Flight → Flight → Prop} {s t u : State}

theorem EachFlight.of_same (refl : ∀ f, r f f) (same : SameFlights s t) : EachFlight r s t := fun q i f there =>
  ⟨f, (same.flightOf q i).trans there, refl f⟩

theorem EachFlight.trans (trans : ∀ {a b c}, r a b → r b c → r a c) (a : EachFlight r s t) (b : EachFlight r t u) :
    EachFlight r s u := by
  intro q i f there
  obtain ⟨g, next_, first⟩ := a q i f there
  obtain ⟨k, last, second⟩ := b q i g next_
  exact ⟨k, last, trans first second⟩

theorem EachFlight.mono {r' : Flight → Flight → Prop} (weaker : ∀ a b, r a b → r' a b) (a : EachFlight r s t) : EachFlight r' s t := by
  intro q i f there
  obtain ⟨g, next_, first⟩ := a q i f there
  exact ⟨g, next_, weaker f g first⟩

end

theorem find?_modFirst_ne {α : Type} {p p' : α → Bool} {g : α → α} (apart : ∀ a, p a = true → p' a = false ∧ p' (g a) = false)
    (l : List α) : (modFirst p g l).find? p' = l.find? p' := by
  induction l with
  | nil => rfl
  | cons a l ih =>
    cases here : p a
    · rw [modFirst, here]
      simp only [Bool.false_eq_true, if_false, List.find?_cons, ih]
    · obtain ⟨before, after⟩ := apart a here
      rw [modFirst, here]
      simp only [if_true, List.find?_cons, before, after]

theorem flightOf_modFlight_ne (s : State) {q i q' i' : Nat} (other : q' ≠ q ∨ i' ≠ i) {g : Flight → Flight}
    (keeps : ∀ f, (g f).index = f.index) : flightOf (modFlight s q i g) q' i' = flightOf s q' i' := by
  by_cases queue : q' = q
  · have index : i' ≠ i := other.resolve_left fun n => n queue
    rw [queue, modFlight_eq, flightOf, getQueue_setQueue_same, flightOf]
    refine find?_modFirst_ne (fun f here => ?_) _
    have named := beq_iff_eq.mp here
    rw [keeps, named]
    exact ⟨beq_eq_false_iff_ne.mpr index.symm, beq_eq_false_iff_ne.mpr index.symm⟩
  · rw [flightOf, modFlight_eq, getQueue_setQueue_ne s queue, flightOf]

theorem eachFlight_modFlight {r : Flight → Flight → Prop} (refl : ∀ f, r f f) (s : State) (q i : Nat) {g : Flight → Flight}
    (keeps : ∀ f, (g f).index = f.index) (related : ∀ f, r f (g f)) : EachFlight r s (modFlight s q i g) := by
  intro q' i' f there
  by_cases same : q' = q ∧ i' = i
  · obtain ⟨rfl, rfl⟩ := same
    refine ⟨g f, ?_, related f⟩
    rw [flightOf_modFlight_same s _ _ keeps, there]
    rfl
  · exact ⟨f, (flightOf_modFlight_ne s (by omega) keeps).trans there, refl f⟩

/-- A search by index, in either spelling. -/
theorem find?_index (l : List Flight) (i : Nat) : (l.find? fun f => decide (f.index = i)) = l.find? fun f => f.index == i := rfl

/-! ## Operations that leave every queue -/

section
variable (s : State)

theorem queues_addFlush (h n : Nat) : (addFlush s h n).queues = s.queues := by
  unfold addFlush
  split <;> rfl

theorem queues_writeNat (a n v : Nat) : (writeNat s a n v).queues = s.queues := by rw [writeNat_frame]

theorem queues_noteBufWrite (k : Nat) (l : List (Nat × Nat)) : (noteBufWrite s k l).queues = s.queues := by
  unfold noteBufWrite
  split <;> rfl

theorem queues_foldl {α : Type} {f : State → α → State} (step : ∀ s a, (f s a).queues = s.queues) (l : List α) :
    (l.foldl f s).queues = s.queues := by
  induction l generalizing s with
  | nil => rfl
  | cons a l ih => exact (ih _).trans (step s a)

theorem queues_foldl_fst {α β : Type} {f : State × β → α → State × β} (step : ∀ x a, (f x a).1.queues = x.1.queues) (l : List α)
    (x : State × β) : (l.foldl f x).1.queues = x.1.queues := by
  induction l generalizing x with
  | nil => rfl
  | cons a l ih => exact (ih _).trans (step x a)

theorem queues_cacheUpdate (c a : Nat) (l : List Byte) : (cacheUpdate s c a l).queues = s.queues := by
  unfold cacheUpdate
  split <;> rfl

theorem queues_storeStack (a : Nat) (l : List Byte) : (storeStack s a l).1.queues = s.queues := (readFrame_storeStack s a l).queues

theorem queues_storeLocal (c : Option Nat) (a : Nat) (l : List Byte) : (storeLocal s c a l).1.queues = s.queues := by
  have stored := queues_storeStack s a l
  have wrote : (writeBytes s a l).queues = s.queues := (readFrame_writeBytes s a l).queues
  unfold storeLocal
  cases place s a with
  | stack =>
    cases c with
    | none => exact stored
    | some c => exact (queues_cacheUpdate _ _ _ _).trans stored
  | coreBuf k o => exact (queues_foldl _ (fun u (x : Nat × Nat × Nat) => queues_noteBufWrite u x.1 _) _).trans wrote
  | scratch c o => exact wrote
  | queueReg q o => rfl
  | mirror o => rfl
  | illegal => rfl

theorem queues_applyMemOp (op a : Nat) (l : List Byte) : (applyMemOp s op a l).1.queues = s.queues := by
  have read := (readFrame_checkRead s a l.length).queues
  unfold applyMemOp
  dsimp only
  generalize checkRead s a l.length = r at *
  split
  · exact read
  · have wrote (cls : Cls) := (queues_foldl_fst (f := fun (acc : State × Nat) i =>
      (writeNat acc.1 (a + i * memOpBytes op) (memOpBytes op) (memOpElem op cls (readNat acc.1 (a + i * memOpBytes op) (memOpBytes op))
          (natAt l (i * memOpBytes op) (memOpBytes op))).1,
        acc.2 + (memOpElem op cls (readNat acc.1 (a + i * memOpBytes op) (memOpBytes op))
          (natAt l (i * memOpBytes op) (memOpBytes op))).2)) (fun x i => queues_writeNat x.1 _ _ _)
      (List.range (l.length / memOpBytes op)) (r.1, 0)).trans read
    cases heatOfAddr r.1 a with
    | none => exact wrote _
    | some h => exact (queues_addFlush _ _ _).trans (wrote _)

theorem queues_squaresOf (h op : Nat) (p : ContribSpan) (l : List Byte) : (squaresOf s h op p l).queues = s.queues := by
  unfold squaresOf
  split <;> rfl

theorem queues_storeSquares (h : Nat) (p : DmaPar) (t : Option Fmt) (l : List Byte) : (storeSquares s h p t l).queues = s.queues := by
  unfold storeSquares
  split
  · exact queues_addFlush _ _ _
  · rfl

theorem queues_ordApply (h r op order : Nat) (who : Sender) (p : ContribSpan) (l : List Byte) :
    (ordApply s h r op order who p l).1.queues = s.queues := by
  unfold ordApply
  dsimp only
  split
  · exact queues_storeStack _ _ _
  · exact (queues_applyMemOp _ _ _ _).trans (queues_squaresOf _ _ _ _ _)

theorem queues_addInto (h op order : Nat) (who : Sender) (p : ContribSpan) (l : List Byte) :
    (addInto s h op order who p l).1.queues = s.queues := by
  unfold addInto
  refine queues_foldl_fst (fun x c => ?_) _ _
  dsimp only
  split
  · rfl
  · split
    · exact (queues_applyMemOp _ _ _ _).trans (queues_squaresOf _ _ _ _ _)
    · split
      · rfl
      · exact queues_ordApply _ _ _ _ _ _ _ _

theorem queues_contribute (h l kind : Nat) : (contribute s h l kind).queues = s.queues := by
  unfold contribute
  dsimp only
  split <;> rfl

theorem queues_ordWhole (h r : Nat) (c : Contrib) : (ordWhole s h r c).queues = s.queues := by
  unfold ordWhole
  dsimp only
  split
  · split
    · exact queues_contribute _ _ _ _
    · rfl
  · rfl

theorem queues_ordEnd (h r order : Nat) : (ordEnd s h r order).queues = s.queues := by
  unfold ordEnd
  split
  · rfl
  · split
    · rfl
    · exact queues_ordWhole _ _ _ _

theorem queues_ordEndAll (h order : Nat) (l : List (Nat × Nat)) : (ordEndAll s h order l).queues = s.queues :=
  queues_foldl s (fun u r => queues_ordEnd u h r order) _

theorem queues_countContribution (q : Nat) (p : DmaPar) : (countContribution s q p).queues = s.queues := by
  unfold countContribution
  split
  · split
    · exact queues_contribute _ _ _ _
    · rfl
  · rfl

end

/-! ## Operations that leave every queue's started commands -/

section
variable (s : State)

theorem sameFlights_modQueue (q : Nat) {f : Queue → Queue} (keeps : ∀ x, (f x).flights = x.flights) :
    SameFlights s (modQueue s q f) := by
  intro j
  by_cases here : j = q
  · rw [here, modQueue_eq, getQueue_setQueue_same, keeps]
  · rw [modQueue_eq, getQueue_setQueue_ne s here]

theorem sameFlights_refuseDoorbell (q : Nat) : SameFlights s (refuseDoorbell s q) := by
  have counted := sameFlights_modQueue s q (f := fun x => { x with refused := min (x.refused + 1) 0xFFFF }) fun _ => rfl
  unfold refuseDoorbell
  dsimp only
  generalize (modQueue s q fun x => { x with refused := min (x.refused + 1) 0xFFFF }) = u at counted ⊢
  split
  · exact counted.trans (.of_queues rfl)
  · exact counted

theorem sameFlights_ringDoorbell (a : Agent) (q t : Nat) : SameFlights s (ringDoorbell s a q t).1 := by
  have written : SameFlights s (setQueue s q { getQueue s q with tail := t }) :=
    sameFlights_modQueue s q (f := fun x => { x with tail := t }) fun _ => rfl
  simp only [ringDoorbell]
  split
  · exact sameFlights_refuseDoorbell s q
  · split
    · split
      · exact .refl s
      · split
        · exact written
        · exact sameFlights_refuseDoorbell s q
    · exact sameFlights_refuseDoorbell s q

theorem sameFlights_writeRowLocal (h q i : Nat) (p : DmaPar) (t : Option Fmt) (a : Nat) (l : List Byte) :
    SameFlights s (writeRowLocal s h q i p t a l).1 := by
  unfold writeRowLocal
  split
  · exact sameFlights_ringDoorbell _ _ _ _
  · split
    · exact .of_queues ((queues_storeLocal _ _ _ _).trans (queues_storeSquares _ _ _ _ _))
    · exact .of_queues ((queues_addInto _ _ _ _ _ _ _).trans rfl)

theorem sameFlights_foldl_fst {α β : Type} {f : State × β → α → State × β} (step : ∀ x a, SameFlights x.1 (f x a).1) (l : List α)
    (x : State × β) : SameFlights x.1 (l.foldl f x).1 := by
  induction l generalizing x with
  | nil => exact .refl x.1
  | cons a l ih => exact (step x a).trans (ih _)

theorem sameFlights_writeMemory (h q : Nat) (f : Flight) (p : DmaPar) (rows : List (Nat × List Byte × List Byte)) :
    SameFlights s (writeMemory s h q f p rows).1 := by
  unfold writeMemory
  extract_lets here res
  have row (x : State × Bool) (y : Nat × List Byte × List Byte) :
      SameFlights x.1 (if here then writeRowLocal x.1 h q f.index p f.dstF (gOff p.dst + y.1 * p.dstStride) y.2.1 else x).1 := by
    split
    · exact sameFlights_writeRowLocal _ _ _ _ _ _ _ _
    · exact .refl _
  have kept : SameFlights s res.1 := by
    refine sameFlights_foldl_fst (fun x y => ?_) rows (s, true)
    have wrote := row x y
    split
    · exact .refl _
    · extract_lets w
      change SameFlights x.1 w.1 at wrote
      split
      · exact wrote
      · exact wrote.trans (.of_queues (queues_storeLocal _ _ _ _))
  clear_value res
  split
  · exact kept.trans (.of_queues (queues_ordEndAll _ _ _ _))
  · exact kept

end

/-! ## A command's remote work as packets go out (R314) -/

/-- A command whose unsent packets have gone out as far as there was room. -/
def PacketsSent (f g : Flight) : Prop :=
  ∃ a u, g = { f with rem := { f.rem with again := a, unsent := u } } ∧ (f.rem.unsent = [] → u = [])

theorem PacketsSent.refl (f : Flight) : PacketsSent f f := ⟨f.rem.again, f.rem.unsent, rfl, id⟩

theorem PacketsSent.trans {f g k : Flight} (a : PacketsSent f g) (b : PacketsSent g k) : PacketsSent f k := by
  obtain ⟨_, _, rfl, first⟩ := a
  obtain ⟨x, y, rfl, second⟩ := b
  exact ⟨x, y, rfl, fun none_ => second (first none_)⟩

/-- Packets sent of commands: lines, transactions, and what the commands have left to send. -/
structure PumpFrame (s t : State) : Prop where
  whole : t = { s with queues := t.queues, ports := t.ports, txns := t.txns, nextTxn := t.nextTxn }
  flights : EachFlight PacketsSent s t
  txns : ∃ l, t.txns = s.txns ++ l

theorem PumpFrame.refl (s : State) : PumpFrame s s := ⟨rfl, .of_same PacketsSent.refl (.refl s), [], (List.append_nil _).symm⟩

theorem PumpFrame.trans {s t u : State} (a : PumpFrame s t) (b : PumpFrame t u) : PumpFrame s u := by
  obtain ⟨l, first⟩ := a.txns
  obtain ⟨m, second⟩ := b.txns
  refine ⟨?_, a.flights.trans PacketsSent.trans b.flights, l ++ m, by rw [second, first, List.append_assoc]⟩
  have one := a.whole
  have two := b.whole
  rw [one] at two
  exact two

theorem pumpFrame_foldl {α : Type} {f : State → α → State} (step : ∀ s a, PumpFrame s (f s a)) (l : List α) (s : State) :
    PumpFrame s (l.foldl f s) := by
  induction l generalizing s with
  | nil => exact .refl s
  | cons a l ih => exact (step s a).trans (ih _)

section
variable (s : State)

theorem sendTxn_frame (o : TxnOwner) (k : Packet) : ∃ l, sendTxn s o k =
    { s with ports := (sendTxn s o k).ports, nextTxn := (sendTxn s o k).nextTxn, txns := s.txns ++ l } := by
  unfold sendTxn
  dsimp only
  rw [sendPacket_frame]
  exact ⟨_, rfl⟩

theorem pumpFrame_sendTxn (o : TxnOwner) (k : Packet) : PumpFrame s (sendTxn s o k) := by
  obtain ⟨l, sent⟩ := sendTxn_frame s o k
  exact ⟨by rw [sent], .of_same PacketsSent.refl (.of_queues (by rw [sent])), l, by rw [sent]⟩

theorem Remote.sent_eq (m : Remote) (l : List (Nat × Packet)) : ∃ a u, m.sent l = { m with again := a, unsent := u } ∧
    (m.unsent = [] → u = []) := by
  refine ⟨_, _, rfl, fun none_ => ?_⟩
  rw [none_]
  rfl

theorem pumpFrame_pumpDma (q i : Nat) : PumpFrame s (pumpDma s q i) := by
  unfold pumpDma
  split
  · exact .refl s
  · extract_lets l u
    have gone : PumpFrame s u := by
      refine ⟨rfl, eachFlight_modFlight PacketsSent.refl s q i (fun _ => rfl) fun f => ?_, [], (List.append_nil _).symm⟩
      obtain ⟨a, rest, sent, none_⟩ := Remote.sent_eq f.rem l
      exact ⟨a, rest, by rw [sent], none_⟩
    exact gone.trans (pumpFrame_foldl (fun v k => pumpFrame_sendTxn v _ _) l u)

theorem pumpFrame_pumpCluster (c : Nat) : PumpFrame s (pumpCluster s c) := by
  unfold pumpCluster
  exact pumpFrame_foldl (fun u (x : Nat × Queue) => pumpFrame_foldl (fun v (f : Flight) => pumpFrame_pumpDma v x.1 f.index) _ u) _ s

end

/-! ## The end of a command's remote work (R331, R332) -/

/-- A command that may have acted or ended since, with the same answers outstanding. -/
def SameRemote (f g : Flight) : Prop := g.acks = f.acks ∧ g.rem = f.rem

theorem SameRemote.refl (f : Flight) : SameRemote f f := ⟨rfl, rfl⟩

theorem SameRemote.trans {f g k : Flight} (a : SameRemote f g) (b : SameRemote g k) : SameRemote f k :=
  ⟨b.1.trans a.1, b.2.trans a.2⟩

theorem EachFlight.andThen {s t u : State} (a : EachFlight SameRemote s t) (b : EachFlight SameRemote t u) : EachFlight SameRemote s u :=
  a.trans SameRemote.trans b

theorem eachFlight_sameRemote_modFlight (s : State) (q i : Nat) {g : Flight → Flight} (index : ∀ f, (g f).index = f.index)
    (acks : ∀ f, (g f).acks = f.acks) (rem : ∀ f, (g f).rem = f.rem) : EachFlight SameRemote s (modFlight s q i g) :=
  eachFlight_modFlight SameRemote.refl s q i index fun f => ⟨acks f, rem f⟩

theorem eachFlight_settleDma (s : State) (q i : Nat) : EachFlight SameRemote s (settleDma s q i) := by
  unfold settleDma
  split
  · exact .of_same SameRemote.refl (.refl s)
  · split
    · exact .of_same SameRemote.refl (.refl s)
    · dsimp only
      split
      · have done_ := eachFlight_sameRemote_modFlight s q i (g := fun f => { f with done := true }) (fun _ => rfl) (fun _ => rfl)
          fun _ => rfl
        split
        · exact done_
        · exact done_.andThen (.of_same SameRemote.refl (.of_queues (queues_countContribution _ _ _)))
      · exact eachFlight_sameRemote_modFlight s q i (fun _ => rfl) (fun _ => rfl) fun _ => rfl

theorem eachFlight_actDma (s : State) (q i elems word st : Nat) (waits : Bool) :
    EachFlight SameRemote s (actDma s q i elems word st waits) := by
  unfold actDma
  refine EachFlight.andThen ?_ (eachFlight_settleDma _ q i)
  exact eachFlight_sameRemote_modFlight s q i (fun _ => rfl) (fun _ => rfl) fun _ => rfl

/-- The stores of a command whose remote side is over (R331). -/
theorem eachFlight_lateWrite (s : State) (h q i : Nat) (f : Flight) (l : LateStores) :
    let p := DmaPar.ofDesc f.desc f.ext
    let r := writeMemory (modFlight s q i fun f => { f with late := none }) h q f p l.rows
    let r := if r.2 && !l.list.isEmpty then storeLocal r.1 (some (queueCluster q)) (gOff p.listAddr) l.list else r
    EachFlight SameRemote s (if !r.2 then abandonDma r.1 q i
      else actDma (addFlush r.1 h l.flush) q i l.elems l.word l.st (stagedPart r.1 h q i)) := by
  have still (u v : State) (same : SameFlights u v) : EachFlight SameRemote u v := .of_same SameRemote.refl same
  have wrote (p : DmaPar) : EachFlight SameRemote s (writeMemory (modFlight s q i fun f => { f with late := none }) h q f p l.rows).1 :=
    (eachFlight_sameRemote_modFlight s q i (g := fun f => { f with late := none }) (fun _ => rfl) (fun _ => rfl)
      fun _ => rfl).andThen (still _ _ (sameFlights_writeMemory _ _ _ _ _ _))
  intro p r r'
  have listed : EachFlight SameRemote s r'.1 := by
    simp only [r']
    split
    · exact (wrote p).andThen (still _ _ (.of_queues (queues_storeLocal _ _ _ _)))
    · exact wrote p
  clear_value r'
  split
  · exact listed.andThen (eachFlight_sameRemote_modFlight _ q i (fun _ => rfl) (fun _ => rfl) fun _ => rfl)
  · exact (listed.andThen (still _ _ (.of_queues (queues_addFlush _ _ _)))).trans SameRemote.trans
      (eachFlight_actDma _ _ _ _ _ _ _)

theorem eachFlight_lateStep (s : State) (q i : Nat) : EachFlight SameRemote s (lateStep s q i) := by
  have still (u v : State) (same : SameFlights u v) : EachFlight SameRemote u v := .of_same SameRemote.refl same
  unfold lateStep
  cases queueHeat s q with
  | none => exact still s s (.refl s)
  | some h => cases (getQueue s q).flights.find? (·.index = i) with
    | none => exact still s s (.refl s)
    | some f =>
      dsimp only
      cases f.late with
      | none => exact still s s (.refl s)
      | some l =>
        dsimp only
        split
        · exact still s s (.refl s)
        · cases refusedBy s h (DmaPar.ofDesc f.desc f.ext) f.srcF f.dstF with
          | some x =>
            have counted : SameFlights s (countRefusal s h x.1) := by
              unfold countRefusal
              split
              · exact .of_queues rfl
              · exact .refl s
            exact (still _ _ counted).trans SameRemote.trans
              (eachFlight_sameRemote_modFlight _ q i (fun _ => rfl) (fun _ => rfl) fun _ => rfl)
          | none =>
            dsimp only
            split
            · unfold holdDma
              split
              · exact still s s (.refl s)
              · exact (eachFlight_sameRemote_modFlight s q _ (g := fun f => { f with held := true }) (fun _ => rfl) (fun _ => rfl)
                  fun _ => rfl).andThen (still _ _ (.of_queues rfl))
            · exact eachFlight_lateWrite s h q i f l

theorem eachFlight_closeRemote (s : State) (q i : Nat) : EachFlight SameRemote s (closeRemote s q i) := by
  have acted : EachFlight SameRemote (lateStep s q i) (modFlight (lateStep s q i) q i fun f =>
      if f.rem.refusal.isSome && f.acks = 0 && !f.waits then { f with acted := true } else f) := by
    refine eachFlight_sameRemote_modFlight _ q i (fun f => ?_) (fun f => ?_) fun f => ?_
    all_goals split <;> rfl
  exact ((eachFlight_lateStep s q i).andThen acted).andThen (eachFlight_settleDma _ q i)

end Sys2Proof.Machine
end

section
/-! SUPPORT. Answers at the requester, back-offs and timeouts (R331 to R334). -/

namespace Sys2Proof.Machine

section
variable {s : State} {q i : Nat} {f : Flight}

theorem find?_of_flightOf (there : flightOf s q i = some f) : ((getQueue s q).flights.find? fun f => decide (f.index = i)) = some f :=
  (find?_index _ i).trans there

theorem flightOf_modFlight_of_some (there : flightOf s q i = some f) {g : Flight → Flight} (keeps : ∀ f, (g f).index = f.index) :
    flightOf (modFlight s q i g) q i = some (g f) := by
  rw [flightOf_modFlight_same s q i keeps, there]
  rfl

/-- What an answered packet leaves of its command, before what the answer sets off. -/
theorem flightOf_pumped (there : flightOf s q i = some f) : ∃ g, flightOf (pumpCluster (pumpDma s q i) (queueCluster q)) q i = some g ∧
    PacketsSent f g :=
  ((pumpFrame_pumpDma s q i).trans (pumpFrame_pumpCluster _ _)).flights q i f there

theorem Remote.heard_eq (m : Remote) (chip : Nat) : ∃ l, m.heard chip = { m with holdChips := l } := by
  unfold Remote.heard
  split <;> exact ⟨_, rfl⟩

/-! ## The last answer of a command (R331) -/

theorem lateStep_of_none (there : flightOf s q i = some f) (late : f.late = none) : lateStep s q i = s := by
  unfold lateStep
  rw [find?_of_flightOf there]
  cases queueHeat s q with
  | none => rfl
  | some h => simp only [late]

/-- A command whose effect is made is done with its last answer. -/
theorem settleDma_done (there : flightOf s q i = some f) (acted : f.acted = true) (answered : f.acks = 0) (free : f.waits = false)
    (clean : f.rem.refusal = none) : ∃ g, flightOf (settleDma s q i) q i = some g ∧ g.done = true := by
  have found : (getQueue s q).flights.find? (fun f => f.index == i) = some f := there
  unfold settleDma
  rw [found]
  dsimp only
  rw [acted, answered, free]
  cases done_ : f.done
  · simp only [decide_true, Bool.not_false, Bool.and_self, Bool.not_true, Bool.false_eq_true, if_false]
    rw [clean]
    dsimp only
    have ended := flightOf_modFlight_of_some there (g := fun f => { f with done := true }) fun _ => rfl
    split
    · exact ⟨_, ended, rfl⟩
    · exact ⟨_, (flightOf_congr (queues_countContribution _ _ _) q i).trans ended, rfl⟩
  · exact ⟨f, there, done_⟩

theorem closeRemote_done (there : flightOf s q i = some f) (acted : f.acted = true) (answered : f.acks = 0) (free : f.waits = false)
    (clean : f.rem.refusal = none) (late : f.late = none) : ∃ g, flightOf (closeRemote s q i) q i = some g ∧ g.done = true := by
  unfold closeRemote
  dsimp only
  rw [lateStep_of_none there late]
  have same := flightOf_modFlight_of_some there
    (g := fun f => if f.rem.refusal.isSome && f.acks = 0 && !f.waits then { f with acted := true } else f)
    fun f => by split <;> rfl
  have plain : (if (f.rem.refusal.isSome && f.acks = 0 && !f.waits) = true then { f with acted := true } else f) = f := by
    rw [clean]
    rfl
  exact settleDma_done (same.trans (congrArg some plain)) acted answered free clean

/-- One packet of a command answered: the count, what is kept of the answers, and the command's end with the last. -/
theorem answered_gives (there : flightOf s q i = some f) (chip : Nat) : ∃ g, flightOf (answered s q i chip) q i = some g ∧
    g.acks = f.acks - 1 ∧ g.rem.got = f.rem.got ∧
    (f.acks = 1 → f.acted = true → f.waits = false → f.late = none → f.rem.refusal = none → g.done = true) := by
  have counted := flightOf_modFlight_of_some there (g := fun f => { f with acks := f.acks - 1, rem := f.rem.heard chip }) fun _ => rfl
  obtain ⟨k, pumped, a, u, sent, _⟩ := flightOf_pumped counted
  obtain ⟨l, heard⟩ := Remote.heard_eq f.rem chip
  rw [heard] at sent
  obtain ⟨g, closed, acks, rem⟩ := eachFlight_closeRemote _ q i q i k pumped
  refine ⟨g, closed, ?_, ?_, fun one acted free late clean => ?_⟩
  · rw [acks, sent]
  · rw [rem, sent]
  · obtain ⟨g', closed', done_⟩ := closeRemote_done pumped (by rw [sent]; exact acted) (by rw [sent]; dsimp only; omega)
      (by rw [sent]; exact free) (by rw [sent]; exact clean) (by rw [sent]; exact late)
    rw [Option.some.inj (closed.symm.trans closed')]
    exact done_

end

/-! ## ACK, READ_RESP and NAK of a DMA command -/

section
variable {s u : State} {port q i pl : Nat} {p : Packet} {x : Txn} (owner : x.owner = .dma q i pl)
include owner

theorem exec_ack_of_dma (taken : takeAnswer s port { p with kind := kAck } = (u, some x)) :
    exec (.ack port p) s = .next (answered u q i x.pkt.dst) := by
  change execAck port p s = _
  unfold execAck
  dsimp only
  rw [taken]
  dsimp only
  rw [owner]

theorem exec_readResp_of_dma (taken : takeAnswer s port { p with kind := kReadResp } = (u, some x)) : exec (.readResp port p) s =
    .next (answered (modFlight u q i fun f => { f with rem := { f.rem with got := (pl, p.data) :: f.rem.got } }) q i x.pkt.dst) := by
  change execReadResp port p s = _
  unfold execReadResp
  dsimp only
  rw [taken]
  dsimp only
  rw [owner]

theorem exec_nak_of_dma (taken : takeAnswer s port { p with kind := kNak } = (u, some x)) {f : Flight}
    (there : flightOf u q i = some f) : exec (.nak port p) s = .next (if p.code != nakResetting then refuseDma u q i pl p.code x.pkt
      else if f.rem.refusal.isSome then answered u q i x.pkt.dst else resetDma u q i pl x.pkt) := by
  change execNak port p s = _
  unfold execNak
  dsimp only
  rw [taken]
  dsimp only
  rw [owner]
  dsimp only
  rw [nakDma, find?_of_flightOf there]

end

section
variable {s : State} {q i : Nat} {f : Flight}

/-- A refusing NAK keeps its reason, and nothing more is sent (R332). -/
theorem refuseDma_gives (there : flightOf s q i = some f) (pl reason : Nat) (k : Packet) :
    ∃ g, flightOf (refuseDma s q i pl reason k) q i = some g ∧ g.rem.refusal = some (f.rem.refusal.getD reason) ∧ g.rem.unsent = [] := by
  have counted := flightOf_modFlight_of_some there (g := fun f => { f with
    acks := f.acks - 1 - f.rem.again.length - f.rem.unsent.length, rem := f.rem.refuse reason (accessPos pl k) }) fun _ => rfl
  unfold refuseDma
  dsimp only
  generalize modFlight s q i _ = v at counted ⊢
  have kept : flightOf (keepRefusal v k.dst reason ((queueHeat v q).getD 0) k.tag) q i = _ := counted
  obtain ⟨m, pumped, a, u, sent, none_⟩ := (pumpFrame_pumpCluster _ (queueCluster q)).flights q i _ kept
  obtain ⟨g, closed, _, rem⟩ := eachFlight_closeRemote _ q i q i m pumped
  refine ⟨g, closed, ?_, ?_⟩
  · rw [rem, sent]
    rfl
  · rw [rem, sent]
    exact none_ rfl

/-- HEAT_RESETTING begins a back-off, in which the chip is held (R333). -/
theorem resetDma_gives (there : flightOf s q i = some f) (first : f.rem.retryAt = none) (pl : Nat) (k : Packet) :
    ∃ g, flightOf (resetDma s q i pl k) q i = some g ∧ k.dst ∈ g.rem.holdChips ∧
      g.rem.retryAt = some (s.now + usec (nextBackoff s f.rem.backoff)) := by
  have reset := flightOf_modFlight_of_some there (g := fun f => { f with rem := f.rem.reset s pl k }) fun _ => rfl
  unfold resetDma
  have again : flightOf (restartTimeouts (modFlight s q i fun f => { f with rem := f.rem.reset s pl k }) (ownedBy q i)) q i =
    some { f with rem := f.rem.reset s pl k } := reset
  obtain ⟨g, pumped, a, u, rfl, _⟩ := (pumpFrame_pumpCluster _ (queueCluster q)).flights q i _ again
  refine ⟨_, pumped, List.mem_cons_self, ?_⟩
  simp [Remote.reset, first]

/-! ## Back-offs, the retry limit and the remote timeout (R333, R334) -/

theorem exec_backoffExpiry_of_dma (queue : q < 2 ^ 18) (own : s.colls.find? (fun c => c.queue = q && c.index = i) = none) :
    exec (.backoffExpiry q i) s = .next (dmaBackoff s q i) := by
  have low : ¬ heatQueueBase ≤ q := by
    unfold heatQueueBase
    omega
  change execBackoffExpiry q i s = _
  rw [execBackoffExpiry, if_neg low, own]

theorem dmaBackoff_of_over (there : flightOf s q i = some f) {x : Nat} (waits : f.rem.retryAt = some x) (past : x ≤ s.now) :
    dmaBackoff s q i = pumpDma (modFlight s q i fun f => { f with rem := { f.rem with retryAt := none } }) q i := by
  unfold dmaBackoff
  rw [find?_of_flightOf there]
  dsimp only
  rw [waits]
  dsimp only
  rw [if_neg (by omega)]

theorem dmaBackoff_of_early (there : flightOf s q i = some f) {x : Nat} (waits : f.rem.retryAt = some x) (early : s.now < x) :
    dmaBackoff s q i = s := by
  unfold dmaBackoff
  rw [find?_of_flightOf there]
  dsimp only
  rw [waits]
  dsimp only
  rw [if_pos early]

theorem exec_restartRetryLimit_of_over (own : s.colls.find? (fun c => c.queue = q && c.index = i) = none)
    (there : flightOf s q i = some f) {x : Nat} (first : f.rem.firstNak = some x) (open_ : f.done = false)
    (over_ : retryOver s x = true) : exec (.restartRetryLimit q i) s =
      .next (finish (pumpCluster (modFlight (dropTxns s (ownedBy q i)) q i fun f =>
        { f with acted := true, acks := 0, late := none, rem := { f.rem with again := [], unsent := [], retryAt := none } })
        (queueCluster q)) q i stPeerRestarting 0 0) := by
  change execRestartRetryLimit q i s = _
  unfold execRestartRetryLimit
  rw [own]
  dsimp only
  rw [find?_of_flightOf there]
  dsimp only
  rw [first]
  dsimp only
  rw [open_, over_]
  rfl

/-- A command past its retry limit is done with PEER_RESTARTING (R333). -/
theorem restartRetryLimit_gives (own : s.colls.find? (fun c => c.queue = q && c.index = i) = none)
    (there : flightOf s q i = some f) {x : Nat} (first : f.rem.firstNak = some x) (open_ : f.done = false) (clean : f.status = 0)
    (over_ : retryOver s x = true) : ∃ t, exec (.restartRetryLimit q i) s = .next t ∧ Ended t q i 0x0E02 0 0 := by
  refine ⟨_, exec_restartRetryLimit_of_over own there first open_ over_, ?_⟩
  have dropped : flightOf (dropTxns s (ownedBy q i)) q i = some f := there
  have given := flightOf_modFlight_of_some dropped (g := fun f =>
    { f with acted := true, acks := 0, late := none, rem := { f.rem with again := [], unsent := [], retryAt := none } }) fun _ => rfl
  obtain ⟨g, pumped, a, u, rfl, _⟩ := (pumpFrame_pumpCluster _ (queueCluster q)).flights q i _ given
  have ended := flightOf_modFlight_of_some pumped
    (g := fun f => { f with done := true, status := pickStatus stPeerRestarting f.status, wordA := 0, wordB := 0 }) fun _ => rfl
  refine ⟨_, ended, rfl, ?_, rfl, rfl⟩
  dsimp only
  rw [clean]
  decide

end

section
variable {s : State} {n h : Nat} {x : Txn}

/-- The room that a packet leaves is used by commands of its cluster alone. -/
theorem pumpFrame_pumpOwner (s : State) (o : TxnOwner) : PumpFrame s (pumpOwner s o) := by
  cases o with
  | dma q i pl => exact pumpFrame_pumpCluster s _
  | coll h id j => exact .refl s
  | restore h pl => exact .refl s
  | snap h pl => exact .refl s

theorem contained_contain (s : State) (e : Event) {h : Nat} (contained : (getHeat s h).contained = true) :
    (getHeat (contain s e) h).contained = true := by
  have one (u : State) (j : Nat) (stands : (getHeat u h).contained = true) :
      (getHeat (modHeat u j fun x => { x with contained := true }) h).contained = true := by
    by_cases here : h = j
    · rw [here, modHeat_eq, getHeat_setHeat_same]
    · rw [modHeat_eq, getHeat_setHeat_ne u here]
      exact stands
  have all (l : List Nat) (u : State) (stands : (getHeat u h).contained = true) :
      (getHeat (l.foldl (fun s h => modHeat s h fun x => { x with contained := true }) u) h).contained = true := by
    induction l generalizing u with
    | nil => exact stands
    | cons j l ih => exact ih _ (one u j stands)
  unfold contain
  split
  · exact all _ s contained
  · split
    · split
      · split
        · exact contained
        · exact one s _ contained
      · exact contained
    · exact contained

/-- A C2 event contains its RUNNING heat at once (R444). -/
theorem contained_raise {s : State} {e : Event} {h : Nat} (cls : e.cls = 2) (heat : e.heat = some h)
    (runs : (getHeat s h).st = .running) : (getHeat (raise s e) h).contained = true := by
  have first : (getHeat (contain s (stampEvent s e)) h).contained = true := by
    have low : ¬ (stampEvent s e).cls ≥ 3 := by
      change ¬ e.cls ≥ 3
      omega
    rw [contain, if_neg low, if_pos (show (stampEvent s e).cls = 2 from cls), show (stampEvent s e).heat = some h from heat]
    dsimp only
    rw [runs, modHeat_eq]
    simp
  unfold raise
  dsimp only
  split
  · exact first
  · exact contained_contain _ _ first

theorem exec_remoteTimeout_of_late (found : s.txns.find? (fun x => x.id = n && !x.parked) = some x)
    (late : x.since + usec (dget s 0x2320 3) ≤ s.now) : exec (.remoteTimeout n) s =
      .next (raise (pumpOwner { s with txns := dropFirst (fun x => x.id = n) s.txns } x.owner)
        { code := 0x010D, cls := 2, cause := 7, heat := ownerHeat s x.owner }) := by
  change execRemoteTimeout n s = _
  unfold execRemoteTimeout
  rw [found]
  dsimp only
  rw [if_neg (by omega)]

theorem remoteTimeout_gives (found : s.txns.find? (fun x => x.id = n && !x.parked) = some x)
    (late : x.since + usec (dget s 0x2320 3) ≤ s.now) (owned : ownerHeat s x.owner = some h) (runs : (getHeat s h).st = .running) :
    ∃ t l, exec (.remoteTimeout n) s = .next t ∧ t.txns = dropFirst (fun y => y.id = n) s.txns ++ l ∧
      ((∀ q i pl, x.owner ≠ .dma q i pl) → l = []) ∧ (getHeat t h).contained = true ∧ t.mem = s.mem := by
  obtain ⟨whole, _, l, txns⟩ := pumpFrame_pumpOwner { s with txns := dropFirst (fun x => x.id = n) s.txns } x.owner
  have ran := exec_remoteTimeout_of_late found late
  have none_ (other : ∀ q i pl, x.owner ≠ .dma q i pl) : l = [] := by
    have still : pumpOwner { s with txns := dropFirst (fun x => x.id = n) s.txns } x.owner =
        { s with txns := dropFirst (fun x => x.id = n) s.txns } := by
      cases owner : x.owner with
      | dma q i pl => exact absurd owner (other q i pl)
      | coll h id j => rfl
      | restore h pl => rfl
      | snap h pl => rfl
    rw [still] at txns
    exact List.self_eq_append_right.mp txns
  generalize pumpOwner { s with txns := dropFirst (fun x => x.id = n) s.txns } x.owner = v at *
  have heat : (getHeat v h).st = .running := by
    rw [whole]
    exact runs
  refine ⟨_, l, ran, ?_, none_, contained_raise rfl owned heat, ?_⟩
  · rw [raise_frame]
    exact txns
  · rw [raise_frame]
    dsimp only
    rw [whole]

end

/-- Settles O42: answers taken, back-offs and timeouts. -/
theorem remoteAnswers : Obligations.RemoteAnswers := by
  unfold Obligations.RemoteAnswers
  refine ⟨fun s u port p x q i pl f owner there => ⟨fun taken => ?_, fun taken => ?_, fun taken => ⟨fun refuses => ?_,
    fun resets clean first => ?_⟩⟩, fun s => ⟨fun q i f queue there own => ⟨fun x waits past => ?_, fun x waits early => ?_,
    fun x first open_ clean over_ => restartRetryLimit_gives own there first open_ clean over_⟩,
    fun n x h found late owned runs => remoteTimeout_gives found late owned runs⟩⟩
  · obtain ⟨g, kept, acks, _, done_⟩ := answered_gives there x.pkt.dst
    exact ⟨_, g, exec_ack_of_dma owner taken, kept, acks, done_⟩
  · have got := flightOf_modFlight_of_some there
      (g := fun f => { f with rem := { f.rem with got := (pl, p.data) :: f.rem.got } }) fun _ => rfl
    obtain ⟨g, kept, acks, data, _⟩ := answered_gives got x.pkt.dst
    exact ⟨_, g, exec_readResp_of_dma owner taken, kept, acks, data⟩
  · have ran := exec_nak_of_dma owner taken there
    rw [if_pos (bne_iff_ne.mpr refuses)] at ran
    obtain ⟨g, kept, refusal, unsent⟩ := refuseDma_gives there pl p.code x.pkt
    exact ⟨_, g, ran, kept, refusal, unsent⟩
  · have ran := exec_nak_of_dma owner taken there
    rw [resets, clean] at ran
    obtain ⟨g, kept, held, retry⟩ := resetDma_gives there first pl x.pkt
    exact ⟨_, g, ran, kept, held, retry⟩
  · have ran := exec_backoffExpiry_of_dma queue own
    rw [dmaBackoff_of_over there waits past] at ran
    have freed := flightOf_modFlight_of_some there (g := fun f => { f with rem := { f.rem with retryAt := none } }) fun _ => rfl
    obtain ⟨g, pumped, a, u, rfl, _⟩ := (pumpFrame_pumpDma _ q i).flights q i _ freed
    exact ⟨_, _, ran, pumped, rfl, rfl⟩
  · rw [exec_backoffExpiry_of_dma queue own, dmaBackoff_of_early there waits early]

end Sys2Proof.Machine
end

section
/-! SUPPORT. What the passing of a tick leaves of device time (R13, R279, R287, R384, R385). -/

namespace Sys2Proof.Machine

/-- Two states at the same device time. -/
structure SameClock (s t : State) : Prop where
  lap : t.lap = s.lap
  phase : t.phase = s.phase
  now : t.now = s.now

namespace SameClock

theorem refl (s : State) : SameClock s s := ⟨rfl, rfl, rfl⟩

theorem trans {s t u : State} (a : SameClock s t) (b : SameClock t u) : SameClock s u :=
  ⟨b.lap.trans a.lap, b.phase.trans a.phase, b.now.trans a.now⟩

theorem after {s t u : State} (b : SameClock t u) (a : SameClock s t) : SameClock s u := a.trans b

theorem foldl {α : Type} {f : State → α → State} (step : ∀ s a, SameClock s (f s a)) (l : List α) (s : State) :
    SameClock s (l.foldl f s) := by
  induction l generalizing s with
  | nil => exact .refl s
  | cons a l ih => exact (step s a).trans (ih _)

end SameClock

section
variable (s : State)

theorem sameClock_raise (e : Event) : SameClock s (raise s e) := by
  rw [raise_frame]
  exact ⟨rfl, rfl, rfl⟩

theorem ReadFrame.sameClock {s t : State} (frame : ReadFrame s t) : SameClock s t := by
  rw [frame.whole]
  exact ⟨rfl, rfl, rfl⟩

theorem RemovalFrame.sameClock {s t : State} (frame : RemovalFrame s t) : SameClock s t := by
  rw [frame.whole]
  exact ⟨rfl, rfl, rfl⟩

theorem sameClock_emit (o : Out) : SameClock s (emit s o) := by
  obtain ⟨x, y, sent⟩ := emit_frame s o
  rw [sent]
  exact ⟨rfl, rfl, rfl⟩

theorem sameClock_refuseDoorbell (q : Nat) : SameClock s (refuseDoorbell s q) := by
  unfold refuseDoorbell
  dsimp only
  split <;> exact ⟨rfl, rfl, rfl⟩

theorem sameClock_ringDoorbell (a : Agent) (q t : Nat) : SameClock s (ringDoorbell s a q t).1 := by
  simp only [ringDoorbell]
  split
  · exact sameClock_refuseDoorbell s q
  · split
    · split
      · exact .refl s
      · split
        · exact ⟨rfl, rfl, rfl⟩
        · exact sameClock_refuseDoorbell s q
    · exact sameClock_refuseDoorbell s q

theorem sameClock_noteRing (h which : Nat) (bad : Bool) : SameClock s (noteRing s h which bad) := by
  unfold noteRing
  dsimp only
  split
  · exact (sameClock_raise _ _).after ⟨rfl, rfl, rfl⟩
  · exact ⟨rfl, rfl, rfl⟩

theorem sameClock_ringNotify (h sub : Nat) : SameClock s (ringNotify s h sub) := by
  unfold ringNotify
  dsimp only
  split
  · exact .refl s
  · split
    · exact sameClock_ringDoorbell _ _ _ _
    · exact (sameClock_ringDoorbell _ _ _ _).trans ⟨rfl, rfl, rfl⟩

theorem sameClock_ringHeader (h base bytes : Nat) : SameClock s (ringHeader s h base bytes).1 := by
  unfold ringHeader
  split
  · exact .refl s
  · exact (readFrame_checkRead s base 8).sameClock

theorem sameClock_inboxFree (h : Nat) : SameClock s (inboxFree s h).1 := by
  unfold inboxFree
  dsimp only
  split
  · exact .refl s
  · have read := sameClock_ringHeader s h (inboxBase s h) (64 + 64 * 2 ^ inboxLog s h)
    generalize ringHeader s h (inboxBase s h) (64 + 64 * 2 ^ inboxLog s h) = r at *
    obtain ⟨u, _ | x⟩ := r
    · exact read
    · exact read.trans (sameClock_noteRing _ _ _ _)

theorem sameClock_inboxPut (h prod entry : Nat) : SameClock s (inboxPut s h prod entry) := by
  unfold inboxPut
  extract_lets b u v
  have first : SameClock s u := (readFrame_storeStack s _ _).sameClock
  have second : SameClock u v := (readFrame_storeStack u _ _).sameClock
  exact (first.trans second).trans (sameClock_ringNotify v h 9)

theorem sameClock_cancelServe (x : Serve) : SameClock s (cancelServe s x) := by
  unfold cancelServe
  dsimp only
  split
  · exact ⟨rfl, rfl, rfl⟩
  · have free := sameClock_inboxFree s x.heat
    generalize inboxFree s x.heat = r at *
    obtain ⟨u, _ | p⟩ := r
    · exact free.trans ⟨rfl, rfl, rfl⟩
    · exact free.trans ((sameClock_inboxPut _ _ _ _).after ⟨rfl, rfl, rfl⟩)

theorem sameClock_withdrawPlan (h : Nat) : SameClock s (withdrawPlan s h) := by
  unfold withdrawPlan
  dsimp only
  refine .trans ?_ (SameClock.foldl (fun u i => ?_) _ _)
  · exact (removalFrame_removeHeatPlan _ h).sameClock.after ⟨rfl, rfl, rfl⟩
  · exact ⟨rfl, rfl, rfl⟩

theorem sameClock_closeSession (n : Nat) : SameClock s (closeSession s n) := by
  unfold closeSession
  split
  · exact .refl s
  · dsimp only
    refine .trans ?_ (SameClock.foldl sameClock_cancelServe _ _)
    refine .trans ?_ (SameClock.foldl sameClock_withdrawPlan _ _)
    exact (sameClock_emit _ _).after ⟨rfl, rfl, rfl⟩

theorem sameClock_closeSpent (n : Nat) : SameClock s (closeSpent s n) := by
  unfold closeSpent
  split
  · split
    · exact sameClock_closeSession s n
    · exact .refl s
  · exact .refl s

theorem sameClock_settleNetwork : SameClock s (settleNetwork s) := by
  unfold settleNetwork closeAllSpent keepAlive
  dsimp only
  refine .trans ?_ (SameClock.foldl sameClock_closeSpent _ _)
  refine .trans (t := { releasePaused s with conns := _ }) ⟨rfl, rfl, rfl⟩ (SameClock.foldl (fun u c => ?_) _ _)
  exact sameClock_emit _ _

/-- Nothing waits on the network of a device without frames held, sessions or connections. -/
theorem settleNetwork_of_idle {s : State} (paused : s.pausedOut = []) (sessions : s.sessions = []) (conns : s.conns = []) :
    settleNetwork s = s := by
  have released : releasePaused s = s := by
    unfold releasePaused
    simp only [paused, List.filter_nil, List.map_nil, List.append_nil]
    rw [← paused]
  have alive : keepAlive s = s := by
    unfold keepAlive
    simp only [conns, List.filter_nil, List.map_nil, List.foldl_nil]
    rw [← conns]
  rw [settleNetwork, released, alive, closeAllSpent, sessions]
  rfl

end

/-- A `PWR_EN` that stands where it was accepted settles nothing. -/
theorem settlePower_of_same {s : State} (still : s.pins.pwrEn = s.pins.pwrLevel ∨ s.pins.pwrAt = none) : settlePower s = s := by
  unfold settlePower
  obtain same | none_ := still
  · cases s.pins.pwrAt with
    | none => rfl
    | some t => simp [same]
  · rw [none_]

theorem now_passTick (s : State) : (passTick s).now =
    if s.slew ≠ 0 ∧ 1000 ≤ s.slewFrac + 64 then (if s.slew < 0 then s.now + 63 else s.now + 65) else s.now + 64 := by
  unfold passTick
  by_cases done_ : s.slew = 0
  · simp [done_]
  · by_cases early : s.slewFrac + 64 < 1000
    · have late : ¬ 1000 ≤ s.slewFrac + 64 := by omega
      simp [done_, early, late]
    · have late : 1000 ≤ s.slewFrac + 64 := by omega
      simp [done_, early, late]

/-- The device before its input and its network settle, one tick on. -/
def ticked (s : State) : State :=
  if linksUp s then { passTick (openWindows s) with phase := (passTick (openWindows s)).phase + 1 } else { s with now := s.now + 64 }

theorem tick_eq (s : State) (passes : linksUp s = false ∨ s.phase + 1 < lapLen s) :
    tick s = settleNetwork (settlePower (ticked s)) := by
  unfold tick ticked
  cases up : linksUp s
  · rfl
  · rw [if_neg (by decide), if_pos (passes.resolve_left (by rw [up]; decide)), if_pos rfl]

theorem ticked_gives (s : State) : (ticked s).pins = s.pins ∧ (ticked s).lap = s.lap ∧
    (ticked s).phase = (if linksUp s then s.phase + 1 else s.phase) ∧
    (ticked s).now = (if linksUp s = true ∧ s.slew ≠ 0 ∧ 1000 ≤ s.slewFrac + 64 then (if s.slew < 0 then s.now + 63 else s.now + 65)
      else s.now + 64) := by
  have windows := openWindows_frame s
  have passed := passTick_frame (openWindows s)
  have now := now_passTick (openWindows s)
  unfold ticked
  cases up : linksUp s
  · simp
  · generalize openWindows s = u at *
    simp only [if_true, true_and]
    rw [passed]
    dsimp only
    rw [now, windows]
    exact ⟨rfl, rfl, rfl, rfl⟩

theorem ticked_of_idle {s : State} (idle : linksUp s = true → s.slew = 0 ∧ s.phase ≠ 0) :
    ticked s = { s with now := s.now + 64, phase := if linksUp s then s.phase + 1 else s.phase } := by
  unfold ticked
  cases up : linksUp s
  · rfl
  · obtain ⟨slew, phase⟩ := idle up
    have windows : openWindows s = s := by simp [openWindows, phase]
    rw [if_pos rfl, windows]
    simp [passTick, slew]

/-- Settles O2: an idle step is a tick, and the last phase of a lap waits. -/
theorem stepTicksWhenIdle : Obligations.StepTicksWhenIdle := by
  unfold Obligations.StepTicksWhenIdle
  intro s idle
  rw [step_eq_tick_of_nil idle]
  refine ⟨fun passes => ⟨_, rfl, ?_, fun still => ?_⟩, fun up last => ?_⟩
  · exact (tick_keeps (Keeps.refl s)).pending.trans idle
  · rw [tick_eq s passes]
    obtain ⟨pins, lap, phase, now⟩ := ticked_gives s
    rw [settlePower_of_same (by rw [pins]; exact still)]
    have clock := sameClock_settleNetwork (ticked s)
    refine ⟨clock.lap.trans lap, clock.phase.trans phase, clock.now.trans now, fun paused sessions conns free => ?_⟩
    rw [ticked_of_idle free]
    exact settleNetwork_of_idle paused sessions conns
  · have waits : ¬ s.phase + 1 < lapLen s := by omega
    rw [tick, up, if_neg (by decide), if_neg waits]

end Sys2Proof.Machine
end

section
/-! SUPPORT. A full event queue when a second C3 event is handled (R446, R447, R500): writing the event to the history wears its sector
out, and the wear warning takes the last place of the queue, before the C4 event. -/

namespace Sys2Proof.Machine

/-- A C3 event and 63 corrected errors wait, a C3 was recorded in this hour, and the history's sector is full with its wear warning at
the first erase. -/
def wornHistory : State := { ({} : State) with
  events := { code := 0x010A, cls := 3, cause := 14 } :: List.replicate 63 { code := 0x0104, cls := 0 }
  lastC3 := some 0, histUsed := sectorRecords, dict := [(dkey 0x2730 4, 1)] }

/-- Whether a C4 event waits after the row EVENT_HANDLING. -/
def raisesC4 (s : State) : Bool :=
  match exec .eventHandling s with
  | .next t => t.events.any fun e => e.cls = 4
  | _ => false

theorem nextEvent_wornHistory : nextEvent wornHistory.events = some { code := 0x010A, cls := 3, cause := 14 } := by
  decide +kernel

theorem raisesC4_wornHistory : raisesC4 wornHistory = false := by
  decide +kernel

theorem second_wornHistory : wornHistory.lastC3 = some 0 ∧ poweredHour wornHistory ≤ 0 + 24 ∧ wornHistory.events.length ≤ 64 ∧
    wornHistory.lostEvents = 0 := by
  decide +kernel

/-- Refutes O46: a second C3 event within 24 powered hours, in a full queue, raises no C4 that waits in the queue where writing its record
turns the history's sector and the wear warning takes the freed place; the C4 is counted as lost. -/
theorem not_eventsHandled : ¬ Obligations.EventsHandled := by
  unfold Obligations.EventsHandled
  intro claim
  obtain ⟨-, -, -, third, -⟩ := claim wornHistory
  obtain ⟨recorded, soon, room, none_⟩ := second_wornHistory
  obtain ⟨-, again⟩ := third _ nextEvent_wornHistory none_ rfl
  obtain ⟨t, ran, e, waits, c4, -⟩ := again ⟨0, recorded, soon⟩ room
  have silent := raisesC4_wornHistory
  rw [raisesC4, ran] at silent
  simp only [List.any_eq_false, decide_eq_true_eq] at silent
  exact silent e waits c4

end Sys2Proof.Machine
end

section
/-! SUPPORT. The starting blocks of a device whose stored values name a read-only entry (R407, R487): the stored value hides the check
that failed. -/

namespace Sys2Proof.Machine

/-- The input is valid, a flash write is unfinished (R423), and 5 is stored for 0x2A10:08, which shows the failed check. -/
def storedFault : State := { ({} : State) with
  pins := { inputOn := true }, journal := [.begun [] 0], store := [(dkey 0x2A10 8, [5#8])] }

/-- The failed check that the row STRAP_LATCH leaves in 0x2A10:08. -/
def latchedFault (s : State) : Option Nat :=
  match exec (.strapLatch 0) s with
  | .next t => some (dget t 0x2A10 8)
  | _ => none

theorem latchedFault_storedFault : latchedFault storedFault = some 5 := by
  decide +kernel

theorem flashFault_storedFault : flashFault storedFault = 1 := by
  decide +kernel

theorem storedFault_starts : storedFault.pins.inputOn = true ∧ storedFault.strapped = false ∧
    bootStage storedFault = bsStartingBlocks ∧ storedFault.pins.resetLow = false ∧ ∀ x ∈ storedFault.store, x.1 / 256 ≠ 0x2000 := by
  decide +kernel

/-- Refutes O52: with a value stored for 0x2A10:08, the starting blocks of a device whose image fails a check show that value, not the
number of the check. -/
theorem not_startsAndResets : ¬ Obligations.StartsAndResets := by
  unfold Obligations.StartsAndResets
  intro claim
  obtain ⟨-, -, latch, -⟩ := claim storedFault
  obtain ⟨valid, first, stage, high, others⟩ := storedFault_starts
  obtain ⟨t, ran, -, -, -, starts⟩ := (latch 0 valid).1 first others
  obtain ⟨-, shown⟩ := (starts stage high).1 (by rw [flashFault_storedFault]; decide)
  have latched := latchedFault_storedFault
  rw [latchedFault, ran] at latched
  simp [shown, flashFault_storedFault] at latched

end Sys2Proof.Machine
end

section
/-! SUPPORT. What the restart and the loss of heats leave of the device (R245, R448, R449, R455 to R459). -/

namespace Sys2Proof.Machine

/-- What the restart or the loss of heats may change: entries, memory, heats and their work, lines, notices, sessions and the log. -/
structure HeatWorkFrame (s t : State) : Prop where
  whole : t = { s with
    mem := t.mem, errs := t.errs, dict := t.dict, dom := t.dom, corrs := t.corrs, heats := t.heats, events := t.events
    lostEvents := t.lostEvents, failedChannels := t.failedChannels, sinceTest := t.sinceTest, queues := t.queues, cores := t.cores
    clusters := t.clusters, txns := t.txns, nextTxn := t.nextTxn, heldMem := t.heldMem, ports := t.ports, colls := t.colls
    early := t.early, allocs := t.allocs, poolHead := t.poolHead, nvmes := t.nvmes, storeReqs := t.storeReqs, plans := t.plans
    conns := t.conns, serves := t.serves, measures := t.measures, out := t.out, pausedOut := t.pausedOut, sessions := t.sessions
    notices := t.notices, noticeSeq := t.noticeSeq, log := t.log, logNext := t.logNext, lastMinor := t.lastMinor }

namespace HeatWorkFrame

theorem refl (s : State) : HeatWorkFrame s s := ⟨rfl⟩

theorem trans {s t u : State} (a : HeatWorkFrame s t) (b : HeatWorkFrame t u) : HeatWorkFrame s u := by
  have first := a.whole
  have second := b.whole
  rw [first] at second
  exact ⟨second⟩

theorem after {s t u : State} (b : HeatWorkFrame t u) (a : HeatWorkFrame s t) : HeatWorkFrame s u := a.trans b

theorem foldl {α : Type} {f : State → α → State} (step : ∀ s a, HeatWorkFrame s (f s a)) (l : List α) (s : State) :
    HeatWorkFrame s (l.foldl f s) := by
  induction l generalizing s with
  | nil => exact .refl s
  | cons a l ih => exact (step s a).trans (ih _)

end HeatWorkFrame

theorem ReadFrame.heatWork {s t : State} (frame : ReadFrame s t) : HeatWorkFrame s t := by
  have whole := frame.whole
  exact ⟨by rw [whole]⟩

theorem RemovalFrame.heatWork {s t : State} (frame : RemovalFrame s t) : HeatWorkFrame s t := by
  have whole := frame.whole
  exact ⟨by rw [whole]⟩

section
variable (s : State)

theorem heatWork_raise (e : Event) : HeatWorkFrame s (raise s e) := (readFrame_raise s e).heatWork

theorem heatWork_sendPacket (k : Packet) : HeatWorkFrame s (sendPacket s k) := ⟨by rw [sendPacket_frame]⟩

theorem heatWork_setHState (h : Nat) (st : HState) : HeatWorkFrame s (setHState s h st) := (heatWork_raise _ _).after ⟨rfl⟩

/-! ## Work abandoned -/

theorem heatWork_putRecord (x : Queue) (i v : Nat) : HeatWorkFrame s (putRecord s x i v) :=
  (readFrame_storeStack s _ _).heatWork

theorem heatWork_writeRecord (x : Queue) (f : Flight) : HeatWorkFrame s (writeRecord s x f) := by
  unfold writeRecord
  dsimp only
  split
  · exact (heatWork_putRecord s _ _ _).trans (heatWork_putRecord _ _ _ _)
  · exact heatWork_putRecord s _ _ _

theorem heatWork_countRecord (h st : Nat) : HeatWorkFrame s (countRecord s h st) := by
  obtain ⟨d, counted⟩ := countRecord_frame s h st
  rw [counted]
  exact ⟨rfl⟩

theorem heatWork_abandonQueue (h st q : Nat) : HeatWorkFrame s (abandonQueue s h st q) := by
  unfold abandonQueue
  extract_lets x l u v y
  have records : HeatWorkFrame s u :=
    .foldl (fun t (f : Flight) => (heatWork_writeRecord t x _).trans (heatWork_countRecord _ _ _)) l s
  clear_value u
  exact HeatWorkFrame.after (t := u) ⟨rfl⟩ records

theorem heatWork_refuseHeld (h : Nat) : HeatWorkFrame s (refuseHeld s h) := by
  unfold refuseHeld
  extract_lets mine l
  exact HeatWorkFrame.trans (t := { s with heldMem := s.heldMem.filter fun x => !mine x }) ⟨rfl⟩
    (.foldl (fun t (x : Nat × Packet) => heatWork_sendPacket t _) l _)

theorem heatWork_modHeat (h : Nat) (f : Heat → Heat) : HeatWorkFrame s (modHeat s h f) := ⟨rfl⟩

theorem heatWork_dset (i sub v : Nat) : HeatWorkFrame s (dset s i sub v) := ⟨rfl⟩

theorem heatWork_freshCollective (h : Nat) : HeatWorkFrame s (freshCollective s h) := by
  unfold freshCollective
  extract_lets u
  have first : HeatWorkFrame s u := ⟨rfl⟩
  clear_value u
  exact ((first.trans (heatWork_modHeat u h _)).trans (heatWork_dset _ _ _ _)).trans (heatWork_dset _ _ _ _)

theorem heatWork_setSnapLap (h i : Nat) (lap : Option Nat) : HeatWorkFrame s (setSnapLap s h i lap) := ⟨rfl⟩

theorem heatWork_abandonHeatWork (h st : Nat) : HeatWorkFrame s (abandonHeatWork s h st) := by
  unfold abandonHeatWork
  extract_lets a b c d e f g i
  have queues : HeatWorkFrame s a := .foldl (fun t q => heatWork_abandonQueue t h st q) _ s
  have cores : HeatWorkFrame a b := .foldl (fun t k => ⟨rfl⟩) _ a
  have clusters : HeatWorkFrame b c := .foldl (fun t k => ⟨rfl⟩) _ b
  have packets : HeatWorkFrame c d := ⟨rfl⟩
  have held : HeatWorkFrame d e := heatWork_refuseHeld d h
  have fresh : HeatWorkFrame e f := heatWork_freshCollective e h
  clear_value f
  have storage : HeatWorkFrame f g := ⟨rfl⟩
  have lap : HeatWorkFrame g i := heatWork_setSnapLap g h 1 none
  have work := (((((queues.trans cores).trans clusters).trans packets).trans held).trans fresh).trans (storage.trans lap)
  exact work.trans (heatWork_modHeat i h _)

/-! ## Heats lost -/

theorem heatWork_endFence : HeatWorkFrame s (endFence s) := by
  unfold endFence
  split <;> exact ⟨rfl⟩

theorem heatWork_dropQueues (h : Nat) : HeatWorkFrame s (dropQueues s h) := ⟨rfl⟩

theorem heatWork_unmeasureHeat (h : Nat) : HeatWorkFrame s (unmeasureHeat s h) := ⟨rfl⟩

theorem heatWork_loseHeat (h : Nat) : HeatWorkFrame s (loseHeat s h) := by
  unfold loseHeat
  extract_lets a b c
  have work : HeatWorkFrame s a := heatWork_abandonHeatWork s h stFenced
  have free : HeatWorkFrame a b :=
    ((heatWork_setHState a h .free).trans (heatWork_dropQueues _ h)).trans (heatWork_unmeasureHeat _ h)
  have plan : HeatWorkFrame b c := (heatWork_modHeat b h _).trans (removalFrame_removeHeatPlan _ h).heatWork
  exact ((work.trans free).trans plan).trans (.foldl (fun t (i : Nat) => ⟨rfl⟩) _ _)

theorem heatWork_loseHeats : HeatWorkFrame s (loseHeats s) :=
  (HeatWorkFrame.foldl heatWork_loseHeat _ s).trans (heatWork_endFence _)

end

end Sys2Proof.Machine
end

section
/-! SUPPORT. Power going down, and the conditions that samples and pins make (R399, R415, R448, R491, R498, R520 to R533). -/

namespace Sys2Proof.Machine

/-! ## Tokens and stages -/

theorem bootStage_congr {s t : State} (same : t.dict = s.dict) : bootStage t = bootStage s := by
  rw [bootStage, bootStage, dget, dget, same]

theorem bootStage_setStage (s : State) (n : Nat) : bootStage (setStage s n) = n := dget_dset_same _ _ _ _

theorem bootStage_dset {s : State} {i sub : Nat} (small : sub < 256) (other : i ≠ 0x2A10 ∨ sub ≠ 1) (v : Nat) :
    bootStage (dset s i sub v) = bootStage s :=
  dget_dset_ne s small (by decide) (other.imp Ne.symm Ne.symm) v

theorem bootStage_raise (s : State) (e : Event) : bootStage (raise s e) = bootStage s := dget_raise _ _ _ _

/-- What the tokens' sequencer may change: its own fields, the cores' power and the counters of 0x2D50. -/
structure TokenFrame (s t : State) : Prop where
  whole : t = { s with dict := t.dict, seq := t.seq, corePower := t.corePower }
  dict : ∀ i sub, i ≠ 0x2D50 → sub < 256 → dget t i sub = dget s i sub

theorem TokenFrame.refl (s : State) : TokenFrame s s := ⟨rfl, fun _ _ _ _ => rfl⟩

theorem TokenFrame.trans {s t u : State} (a : TokenFrame s t) (b : TokenFrame t u) : TokenFrame s u := by
  refine ⟨?_, fun i sub other small => (b.dict i sub other small).trans (a.dict i sub other small)⟩
  have first := a.whole
  have second := b.whole
  rw [first] at second
  exact second

theorem TokenFrame.foldl {α : Type} {f : State → α → State} (step : ∀ s a, TokenFrame s (f s a)) (l : List α) (s : State) :
    TokenFrame s (l.foldl f s) := by
  induction l generalizing s with
  | nil => exact .refl s
  | cons a l ih => exact (step s a).trans (ih _)

theorem TokenFrame.bootStage {s t : State} (a : TokenFrame s t) : bootStage t = bootStage s := a.dict _ _ (by decide) (by decide)

section
variable (s : State)

theorem tokenFrame_seq (x : Sequencer) : TokenFrame s { s with seq := x } := ⟨rfl, fun _ _ _ _ => rfl⟩

theorem tokenFrame_dadd (n : Nat) {sub : Nat} (small : sub < 256) : TokenFrame s (dadd s 0x2D50 sub n) :=
  ⟨rfl, fun _ _ other small' => dget_dset_ne s small small' (.inl other) _⟩

theorem tokenFrame_setCorePower (k : Nat) (p : UnitPower) : TokenFrame s (setCorePower s k p) := ⟨rfl, fun _ _ _ _ => rfl⟩

theorem tokenFrame_clusterCores (p : Nat) (x : UnitPower) : TokenFrame s (clusterCores s p x) := by
  unfold clusterCores
  split
  · exact TokenFrame.foldl (fun t (i : Nat) => tokenFrame_setCorePower t _ x) _ s
  · exact .refl s

theorem tokenFrame_applyWake (u : WakeUnit) : TokenFrame s (applyWake s u) := by
  cases u with
  | stack n up => exact tokenFrame_seq s _
  | cluster n up => exact (tokenFrame_seq s _).trans (tokenFrame_clusterCores _ _ _)
  | laser n up => exact tokenFrame_seq s _
  | core k up => exact tokenFrame_setCorePower s _ _

theorem tokenFrame_grantWake (u : WakeUnit) : TokenFrame s (grantWake s u) :=
  ((tokenFrame_seq s _).trans (tokenFrame_dadd _ 1 (sub := 1) (by decide))).trans (tokenFrame_applyWake _ u)

theorem tokenFrame_requestWake (u : WakeUnit) : TokenFrame s (requestWake s u) := by
  unfold requestWake
  split
  · exact .refl s
  · dsimp only
    split
    · exact tokenFrame_seq s _
    · split
      · exact (tokenFrame_seq s _).trans (tokenFrame_grantWake _ u)
      · exact (tokenFrame_seq s _).trans (tokenFrame_dadd _ 1 (sub := 2) (by decide))

theorem tokenFrame_requestWakes (l : List WakeUnit) : TokenFrame s (l.foldl requestWake s) := .foldl tokenFrame_requestWake l s

/-- A device that powers down stands in POWERING_DOWN, and its pins are as before. -/
theorem powerDown_gives (dest : Nat) :
    bootStage (powerDown s dest) = bsPoweringDown ∧ (powerDown s dest).pins = s.pins ∧ (powerDown s dest).downTo = dest := by
  unfold powerDown
  extract_lets u x v
  have down := tokenFrame_requestWakes v (downUnits v)
  have stage : bootStage v = bsPoweringDown := bootStage_setStage _ _
  have lost : u.pins = s.pins := by
    rw [show u = loseHeats s from rfl, (heatWork_loseHeats s).whole]
  refine ⟨down.bootStage.trans stage, ?_, ?_⟩
  · rw [down.whole]
    exact lost
  · rw [down.whole]
    rfl

end

/-! ## Samples -/

/-- What the conditions of a sample leave: memory, queues, the watts shown and the count of samples. -/
structure SampleFrame (s t : State) : Prop where
  mem : t.mem = s.mem
  queues : t.queues = s.queues
  watts : dget t 0x2110 6 = dget s 0x2110 6
  samples : t.power.samples = s.power.samples

namespace SampleFrame

theorem refl (s : State) : SampleFrame s s := ⟨rfl, rfl, rfl, rfl⟩

theorem trans {s t u : State} (a : SampleFrame s t) (b : SampleFrame t u) : SampleFrame s u :=
  ⟨b.mem.trans a.mem, b.queues.trans a.queues, b.watts.trans a.watts, b.samples.trans a.samples⟩

theorem foldl {α : Type} {f : State → α → State} (step : ∀ s a, SampleFrame s (f s a)) (l : List α) (s : State) :
    SampleFrame s (l.foldl f s) := by
  induction l generalizing s with
  | nil => exact .refl s
  | cons a l ih => exact (step s a).trans (ih _)

/-- Where only one of two steps is taken. -/
theorem ite {s t u : State} {p : Prop} [Decidable p] (a : SampleFrame s t) (b : SampleFrame s u) :
    SampleFrame s (if p then t else u) := by
  split
  · exact a
  · exact b

end SampleFrame

section
variable (s : State)

theorem sampleFrame_raise (e : Event) : SampleFrame s (raise s e) := by
  refine ⟨?_, ?_, dget_raise _ _ _ _, ?_⟩ <;> rw [raise_frame]

theorem sampleFrame_dset {i sub : Nat} (small : sub < 256) (other : i ≠ 0x2110 ∨ sub ≠ 6) (v : Nat) : SampleFrame s (dset s i sub v) :=
  ⟨rfl, rfl, dget_dset_ne s small (by decide) (other.imp Ne.symm Ne.symm) v, rfl⟩

theorem sampleFrame_domSet (i sub : Nat) (l : List Byte) : SampleFrame s (domSet s i sub l) := ⟨rfl, rfl, rfl, rfl⟩

theorem sampleFrame_setPower {f : PowerState → PowerState} (same : (f s.power).samples = s.power.samples) :
    SampleFrame s (setPower s f) := ⟨rfl, rfl, rfl, same⟩

theorem sampleFrame_conditionEvent (l : List Byte) : SampleFrame s (conditionEvent s l) := sampleFrame_raise s _

theorem sampleFrame_countSupply : SampleFrame s (countSupply s) := sampleFrame_dset s (by decide) (.inl (by decide)) _

theorem sampleFrame_trip (thermal : Bool) : SampleFrame s (trip s thermal) := by
  unfold trip
  extract_lets pins u
  have first : SampleFrame s u := .ite ⟨rfl, rfl, rfl, rfl⟩ (.refl s)
  split
  · exact first
  · exact first.trans (sampleFrame_raise u _)

theorem sampleFrame_supply (r : Readings) : SampleFrame s (supply s r) := by
  unfold supply
  extract_lets p out rangeMs overMs currMs inputs u mean entered v w x y z
  have counts : SampleFrame s u := sampleFrame_setPower s rfl
  have states : SampleFrame u v := sampleFrame_setPower u rfl
  have range : SampleFrame v w := .ite ((sampleFrame_countSupply v).trans (sampleFrame_conditionEvent _ _)) (.refl v)
  have means : SampleFrame w x := .ite (sampleFrame_countSupply w) (.refl w)
  have over_ : SampleFrame x y := .ite (sampleFrame_countSupply x) (.refl x)
  have current : SampleFrame y z := .ite (sampleFrame_countSupply y) (.refl y)
  exact ((((counts.trans states).trans range).trans means).trans over_).trans (current.trans (.ite (sampleFrame_trip z false) (.refl z)))

theorem sampleFrame_thermal : SampleFrame s (thermal s) := by
  unfold thermal
  extract_lets die stack first below u v
  have states : SampleFrame s u := sampleFrame_setPower s rfl
  have logged : SampleFrame u v := .ite (sampleFrame_raise u _) (.refl u)
  exact (states.trans logged).trans (.ite (sampleFrame_trip v true) (.refl v))

theorem sampleFrame_inletRules : SampleFrame s (inletRules s) := by
  unfold inletRules
  split
  · exact .refl s
  · extract_lets p warm inletMs warnOn hot coolMs coolOn u d v
    have states : SampleFrame s u := sampleFrame_setPower s rfl
    have warned : SampleFrame u v := .ite (sampleFrame_conditionEvent u d) (.refl u)
    exact (states.trans warned).trans (.ite (sampleFrame_conditionEvent v d) (.refl v))

theorem sampleFrame_flowRule : SampleFrame s (flowRule s) := by
  unfold flowRule
  extract_lets r p u low flowMs on v
  have shown : SampleFrame s u := sampleFrame_dset s (by decide) (.inl (by decide)) _
  have states : SampleFrame u v := sampleFrame_setPower u rfl
  exact (shown.trans states).trans (.ite (sampleFrame_conditionEvent v _) (.refl v))

theorem sampleFrame_governor : SampleFrame s (governor s) := by
  unfold governor governorRamp
  extract_lets room f caps amps
  have limit : SampleFrame s (updateLimit s) :=
    (sampleFrame_dset s (by decide) (.inl (by decide)) _).trans (sampleFrame_dset _ (by decide) (.inl (by decide)) _)
  exact limit.trans (.ite (.refl _) ⟨rfl, rfl, rfl, rfl⟩)

theorem sampleFrame_countMs : SampleFrame s (countMs s) := by
  unfold countMs
  extract_lets excess n u v
  have states : SampleFrame s u := sampleFrame_setPower s rfl
  have counted : SampleFrame u v := .ite (sampleFrame_dset u (by decide) (.inl (by decide)) _) (.refl u)
  exact (states.trans counted).trans (.ite (sampleFrame_dset v (by decide) (.inl (by decide)) _) (.refl v))

theorem sampleFrame_takeUpset (u : Upset) : SampleFrame s (takeUpset s u) := by
  have dropped (c : Nat) (f : Cluster → Cluster) : SampleFrame s (modCluster s c f) := ⟨rfl, rfl, rfl, rfl⟩
  unfold takeUpset
  extract_lets n h event
  split
  · exact sampleFrame_raise s _
  · split
    · exact (dropped _ _).trans (sampleFrame_raise _ _)
    · exact .refl s
    · split <;> exact sampleFrame_raise s _

theorem sampleFrame_showDrift (l : List (Nat × Int)) : SampleFrame s (showDrift s l) :=
  .foldl (fun t (_ : Nat × Int) => sampleFrame_domSet t _ _ _) _ s

theorem sampleFrame_reportFailed (l : List (Nat × Nat)) : SampleFrame s (reportFailed s l) :=
  .foldl (fun t (x : Nat × Nat) => (sampleFrame_setPower t (f := fun p => { p with reported := x :: p.reported }) rfl).trans
    (sampleFrame_raise _ _)) _ s

/-- A sample shown: its watts, and nothing of memory or the queues. -/
theorem showSample_gives (r : Readings) : (showSample s r).mem = s.mem ∧ (showSample s r).queues = s.queues ∧
    dget (showSample s r) 0x2110 6 = min r.watts 0xFFFF ∧ (showSample s r).power = s.power := by
  unfold showSample
  generalize min r.watts 0xFFFF = watts
  extract_lets pad a b c d e f g
  have shown : dget d 0x2110 6 = watts := dget_dset_same _ _ _ _
  have base : d.mem = s.mem ∧ d.queues = s.queues ∧ d.power = s.power := by
    simp only [d, c, b, a, dset_mem, domSet_mem, dset_queues, domSet_queues, dset_power, domSet_power, and_self]
  have stack : SampleFrame d e ∧ e.power = d.power := by
    simp only [e]
    split
    · exact ⟨sampleFrame_domSet d _ _ _, rfl⟩
    · exact ⟨.refl d, rfl⟩
  have inlet : SampleFrame e f ∧ f.power = e.power := ⟨sampleFrame_dset e (by decide) (.inr (by decide)) _, rfl⟩
  have outlet : SampleFrame f g ∧ g.power = f.power := ⟨sampleFrame_dset f (by decide) (.inr (by decide)) _, rfl⟩
  clear_value d e f g
  obtain ⟨mem, queues, power⟩ := base
  split
  · have all := ((stack.1.trans inlet.1).trans outlet.1).trans (sampleFrame_domSet g 0x2110 9 (List.flatMap signedField (pad 136 r.optical)))
    exact ⟨all.mem.trans mem, all.queues.trans queues, all.watts.trans shown,
      ((outlet.2.trans inlet.2).trans stack.2).trans power⟩
  · exact ⟨stack.1.mem.trans mem, stack.1.queues.trans queues, stack.1.watts.trans shown, stack.2.trans power⟩

end

/-! ## Channels marked for the next boot -/

theorem nth_modNth_same {α : Type} (d : α) (l : List α) (f : α → α) {n : Nat} (inside : n < l.length) :
    nth d (modNth l n f) n = f (nth d l n) := by
  induction l generalizing n with
  | nil => exact absurd inside (Nat.not_lt_zero n)
  | cons a l ih =>
    cases n with
    | zero => rfl
    | succ n => exact ih (Nat.lt_of_succ_lt_succ inside)

theorem bitOf_or_byte (b : Byte) {k : Nat} (small : k < 8) : bitOf (b ||| byte (2 ^ k)).toNat k = true := by
  rw [bitOf_eq_testBit, BitVec.toNat_or, byte, BitVec.toNat_ofNat, Nat.mod_eq_of_lt (Nat.pow_lt_pow_right (by decide) small),
    Nat.testBit_or, Nat.testBit_two_pow_self, Bool.or_true]

/-- A marked channel is marked (R206). -/
theorem retireMarked_markRetire (s : State) {q : Nat} (small : q < 2048) : retireMarked (markRetire s q) q = true := by
  rw [retireMarked, markRetire, domGet_domSet_same, nth_modNth_same _ _ _ (by rw [length_fitBytes]; omega)]
  exact bitOf_or_byte _ (Nat.mod_lt q (by decide))

/-- A C3 or C4 event contains every live heat (R444). -/
theorem contained_of_fence {s : State} {e : Event} (cls : 3 ≤ e.cls) {h : Nat} (live : h ∈ liveHeats s) :
    (getHeat (raise s e) h).contained = true := by
  have kept (l : List Nat) (u : State) (stands : (getHeat u h).contained = true) :
      (getHeat (l.foldl (fun s h => modHeat s h fun x => { x with contained := true }) u) h).contained = true := by
    induction l generalizing u with
    | nil => exact stands
    | cons j l ih =>
      refine ih _ ?_
      beta_reduce
      rw [modHeat_eq, getHeat_setHeat]
      split
      · rfl
      · exact stands
  have all (l : List Nat) (u : State) (listed : h ∈ l) :
      (getHeat (l.foldl (fun s h => modHeat s h fun x => { x with contained := true }) u) h).contained = true := by
    induction l generalizing u with
    | nil => exact absurd listed List.not_mem_nil
    | cons j l ih =>
      rcases List.mem_cons.mp listed with rfl | rest
      · refine kept l _ ?_
        beta_reduce
        rw [modHeat_eq, getHeat_setHeat_same]
      · exact ih _ rest
  have first : (getHeat (contain s (stampEvent s e)) h).contained = true := by
    rw [contain, if_pos (show (stampEvent s e).cls ≥ 3 from cls)]
    exact all _ s live
  unfold raise
  dsimp only
  split
  · exact first
  · exact contained_contain _ _ first

/-! ## Power conditions -/

theorem filterTakes_of_wide (s : State) {width reject accept : Nat} (wide : accept ≤ width) (apart_ : reject ≤ accept) :
    filterTakes s width reject accept = (s, true) := by
  rw [filterTakes, if_neg (by omega), if_pos wide]

theorem governor_power (s : State) : (governor s).power = s.power := by
  unfold governor governorRamp
  extract_lets room f caps amps
  split <;> rfl

/-- The governor changes what it shows, its ramps and the free values they use. -/
theorem governor_frame (s : State) :
    governor s = { s with dict := (governor s).dict, dom := (governor s).dom, seq := (governor s).seq, freeCtr :=
        (governor s).freeCtr } := by
  unfold governor governorRamp
  extract_lets room f caps amps
  split <;> rfl

theorem dget_governor (s : State) {i sub : Nat} (other : i ≠ 0x2100) (small : sub < 256) : dget (governor s) i sub = dget s i sub := by
  have limit : dget (updateLimit s) i sub = dget s i sub := by
    unfold updateLimit
    extract_lets m r
    rw [dget_dset_ne _ (by decide) small (.inl other), dget_dset_ne _ (by decide) small (.inl other)]
  unfold governor governorRamp
  extract_lets room f caps amps
  split <;> exact limit

section
variable {s : State}

theorem dget_setPower (u : State) (f : PowerState → PowerState) (i sub : Nat) : dget (setPower u f) i sub = dget u i sub := rfl

theorem sensorSample_gives (r : Readings) (answers : dictAnswers s = true) (running : bootStage s ≠ bsRecovery) :
    ∃ t, exec (.sensorSample r) s = .next t ∧ t.power.samples = s.power.samples + 1 ∧ dget t 0x2110 6 = min r.watts 0xFFFF ∧
      t.mem = s.mem ∧ t.queues = s.queues := by
  have ran : exec (.sensorSample r) s = execSensorSample r s := rfl
  rw [ran]
  unfold execSensorSample
  rw [if_neg (by simp [answers, running])]
  extract_lets f u v w x
  obtain ⟨mem, queues, watts, power⟩ := showSample_gives s r
  have upsets : SampleFrame (showSample s r) u := (sampleFrame_showDrift _ _).trans (.foldl sampleFrame_takeUpset _ _)
  have failed : SampleFrame u v := (sampleFrame_setPower u rfl).trans (sampleFrame_reportFailed _ f)
  have rules : SampleFrame v w := (((sampleFrame_supply v r).trans (sampleFrame_thermal _)).trans (sampleFrame_inletRules _)).trans
    (sampleFrame_flowRule _)
  have counts : SampleFrame w x := (sampleFrame_governor w).trans (sampleFrame_countMs _)
  have all := ((upsets.trans failed).trans rules).trans counts
  clear_value x
  have counted : (setPower x fun p => { p with samples := p.samples + 1 }).power.samples = x.power.samples + 1 := rfl
  refine ⟨_, rfl, ?_, (dget_setPower x _ _ _).trans (all.watts.trans watts), all.mem.trans mem, all.queues.trans queues⟩
  rw [counted, all.samples, power]

theorem backstopTrip_gives (valid : s.pins.inputOn = true) (running : bootStage s ≠ bsLost) :
    ∃ t, exec .backstopTrip s = .next t ∧ t.pins.thermTrip = true ∧
      bootStage t = if bsMemoryPower ≤ bootStage s then bsPoweringDown else bsLost := by
  have ran : exec .backstopTrip s = execBackstopTrip s := rfl
  rw [ran]
  unfold execBackstopTrip
  rw [if_neg (by simp [valid]), if_neg running]
  extract_lets pins u
  have stage : bootStage u = bootStage s := bootStage_raise _ _
  have trips : u.pins.thermTrip = true := by
    simp only [u]
    rw [raise_frame]
  refine ⟨_, rfl, ?_⟩
  rw [stage]
  split
  · obtain ⟨down, same, -⟩ := powerDown_gives u bsLost
    exact ⟨by rw [same, trips], down⟩
  · refine ⟨?_, bootStage_setStage _ _⟩
    have lost : (setStage (loseHeats u) bsLost).pins = u.pins := by
      rw [setStage, dset_pins, (heatWork_loseHeats u).whole]
    rw [lost, trips]

theorem throttleN_gives {low : Bool} {width : Nat} (valid : s.pins.inputOn = true) (change : s.pins.throttleLow ≠ low)
    (wide : 10000 ≤ width) : ∃ t, exec (.throttleN low width) s = .next t ∧ t.pins.throttleLow = low ∧
      t.power.throttle = (if low then some s.now else none) ∧ (low = true → Counted s t 0x2D70 2) := by
  have ran : exec (.throttleN low width) s = execThrottleN low width s := rfl
  rw [ran]
  unfold execThrottleN
  rw [if_neg (by simp [valid, change]), filterTakes_of_wide s wide (by decide)]
  dsimp only
  rw [if_neg (by decide)]
  refine ⟨_, rfl, ?_, ?_, fun falls => ?_⟩
  · rw [governor_frame]
    dsimp only
    split <;> rfl
  · rw [governor_power]
    split <;> rfl
  · rw [Counted, dget_governor _ (by decide) (by decide), if_pos falls, dadd_eq, dget_dset_same]
    rfl

theorem exec_thermalTermStep_of_due (answers : dictAnswers s = true) (running : bootStage s ≠ bsRecovery)
    (due : s.power.lastStep + ms 10 ≤ s.now) :
    (s.power.thermal.getD (classLimit s) ≤ dget s 0x2100 4 → s.power.dieHot = true ∨ s.power.stackHot = true →
      ∃ t, exec .thermalTermStep s = .next t ∧ t.power.thermal = some (max 1500 (s.power.thermal.getD (classLimit s) - 100)) ∧
        t.power.lastStep = s.now) ∧
    (dget s 0x2100 4 < s.power.thermal.getD (classLimit s) →
      exec .thermalTermStep s = .next { s with power := { s.power with lastStep := s.now } }) := by
  have ran : exec .thermalTermStep s = execThermalTermStep s := rfl
  have late : ¬ (!dictAnswers s || bootStage s = bsRecovery || s.now < s.power.lastStep + ms 10) = true := by
    simp [answers, running, due]
  rw [ran]
  unfold execThermalTermStep
  extract_lets p v u
  rw [if_neg late]
  have shown : dget u 0x2100 4 = dget s 0x2100 4 := dget_setPower _ _ _ _
  refine ⟨fun within hot => ?_, fun above => ?_⟩
  · rw [if_neg (show ¬ v > dget u 0x2100 4 by rw [shown]; exact Nat.not_lt.mpr within), if_pos (by simpa using hot)]
    refine ⟨_, rfl, ?_, ?_⟩ <;> rw [governor_power] <;> rfl
  · rw [if_pos (show v > dget u 0x2100 4 by rw [shown]; exact above)]
    rfl

theorem throttleHeldLog_gives {x : Nat} (since : s.power.throttle = some x) (unlogged : s.power.throttleLogged = false)
    (held : x + ms 60000 ≤ s.now) (answers : dictAnswers s = true) (running : bootStage s ≠ bsRecovery) :
    ∃ t, exec .throttleHeldLog s = .next t ∧ t.power = { s.power with throttleLogged := true } ∧ t.queues = s.queues := by
  have ran : exec .throttleHeldLog s = execThrottleHeldLog s := rfl
  rw [ran]
  unfold execThrottleHeldLog
  rw [since]
  dsimp only
  rw [if_neg (by simp [unlogged, answers, running, held])]
  refine ⟨_, rfl, ?_, ?_⟩
  · rw [raise_frame]
    rfl
  · rw [raise_frame]
    rfl

theorem channelLinkLoss_gives {q : Nat} (small : q < 2048) (powered : bsMemoryPower ≤ bootStage s) (ready : bootStage s ≤ bsReady)
    (fused : q ∈ fusedChannels s) : ∃ t, exec (.channelLinkLoss q) s = .next t ∧ retireMarked t q = true ∧ t.sinceTest = true ∧
      ∀ h ∈ liveHeats s, (getHeat t h).contained = true := by
  have ran : exec (.channelLinkLoss q) s = execChannelLinkLoss q s := rfl
  rw [ran, execChannelLinkLoss, if_neg (by simp [powered, ready, fused])]
  refine ⟨_, rfl, ?_, ?_, fun h live => contained_of_fence (show 3 ≤ 4 by decide) live⟩
  · rw [retireMarked, domGet_raise]
    exact retireMarked_markRetire s small
  · rw [raise_frame]

end

/-- Settles O54: each condition's row, one after another. -/
theorem powerConditions : Obligations.PowerConditions := by
  unfold Obligations.PowerConditions
  intro s
  refine ⟨fun r => sensorSample_gives r, backstopTrip_gives, fun valid lost => ?_, exec_thermalTermStep_of_due,
    fun low width valid change wide => throttleN_gives valid change wide,
    fun x since unlogged held answers running => throttleHeldLog_gives since unlogged held answers running, fun stopped => ?_,
    fun goes => ?_, fun q small powered ready fused => channelLinkLoss_gives small powered ready fused⟩
  · change execBackstopTrip s = _
    rw [execBackstopTrip, if_neg (by simp [valid]), if_pos lost]
  · change execPoweredTimeSave s = _
    rw [execPoweredTimeSave, if_pos stopped]
  · have ran : exec .poweredTimeSave s = execPoweredTimeSave s := rfl
    rw [ran, execPoweredTimeSave, if_neg (by simp [goes])]
    have frame := historyFrame_histAdd { s with powerSaved := poweredMs s } histPower [poweredMs s, dget s 0x2730 2]
    exact ⟨_, rfl, by rw [frame.whole], by rw [frame.whole], by rw [frame.whole]⟩

end Sys2Proof.Machine
end

section
/-! SUPPORT. The boot's stages and the wake tokens (R411 to R420). -/

namespace Sys2Proof.Machine

/-! ## Warm-up waves -/

section
variable (s : State)

theorem physCluster_congr {s t : State} (same : t.dom = s.dom) (c : Nat) : physCluster t c = physCluster s c := by
  rw [physCluster, physCluster, domGet, domGet, same]

theorem clusterActive_congr {s t : State} (dom : t.dom = s.dom) (shown : dget t 0x2C00 5 = dget s 0x2C00 5) (c : Nat) :
    clusterActive t c = clusterActive s c := by
  rw [clusterActive, clusterActive, physCluster_congr dom, shown]

/-- A cluster out of service stays so while others go out. -/
theorem clusterOut_keeps_out (u : State) (c j : Nat) (out : bitOf (dget u 0x2C00 5) j = true) :
    bitOf (dget (clusterOut u c) 0x2C00 5) j = true := by
  rw [clusterOut, bootEvent, dget_raise, dget_dset_same, bitOf_putBit, out, ite_self]

theorem clustersOut_out (l : List Nat) (u : State) {j : Nat} (listed : j ∈ l ∨ bitOf (dget u 0x2C00 5) j = true) :
    bitOf (dget (l.foldl clusterOut u) 0x2C00 5) j = true := by
  induction l generalizing u with
  | nil => exact listed.resolve_left List.not_mem_nil
  | cons c l ih =>
    refine ih _ ?_
    rcases listed with listed | out
    · rcases List.mem_cons.mp listed with rfl | rest
      · exact .inr (clusterOut_out u)
      · exact .inl rest
    · exact .inr (clusterOut_keeps_out u c j out)

/-- What clusters out of service leave: the stage, the wave, and what a boot has found of the channels. -/
structure WaveFrame (s t : State) : Prop where
  stage : bootStage t = bootStage s
  wave : t.wave = s.wave
  untrained : t.untrained = s.untrained
  sinceTest : t.sinceTest = s.sinceTest

theorem WaveFrame.refl : WaveFrame s s := ⟨rfl, rfl, rfl, rfl⟩

theorem WaveFrame.trans {s t u : State} (a : WaveFrame s t) (b : WaveFrame t u) : WaveFrame s u :=
  ⟨b.stage.trans a.stage, b.wave.trans a.wave, b.untrained.trans a.untrained, b.sinceTest.trans a.sinceTest⟩

theorem waveFrame_clusterOut (c : Nat) : WaveFrame s (clusterOut s c) := by
  have stage : bootStage (clusterOut s c) = bootStage s :=
    (bootStage_raise _ _).trans (bootStage_dset (by decide) (.inl (by decide)) _)
  have whole := (marginFrame_clusterOut s c).whole
  exact ⟨stage, by rw [whole], by rw [whole], by rw [whole]⟩

theorem waveFrame_clustersOut (l : List Nat) : WaveFrame s (l.foldl clusterOut s) := by
  induction l generalizing s with
  | nil => exact .refl s
  | cons c l ih => exact (waveFrame_clusterOut s c).trans (ih _)

theorem TokenFrame.waveFrame {s t : State} (a : TokenFrame s t) : WaveFrame s t := by
  have whole := a.whole
  exact ⟨a.bootStage, by rw [whole], by rw [whole], by rw [whole]⟩

/-- MEMORY_TEST entered. -/
theorem enterMemoryTest_gives : bootStage (enterMemoryTest s) = bsMemoryTest ∧ (enterMemoryTest s).wave = s.wave ∧
    (enterMemoryTest s).untrained = s.untrained ∧ (enterMemoryTest s).sinceTest = s.sinceTest ∧
    dget (enterMemoryTest s) 0x2C00 5 = dget s 0x2C00 5 := by
  have entered : bootStage (setStage s bsMemoryTest) = bsMemoryTest := bootStage_setStage s _
  have other : dget (setStage s bsMemoryTest) 0x2C00 5 = dget s 0x2C00 5 :=
    dget_dset_ne _ (by decide) (by decide) (.inl (by decide)) _
  have kind (v : Nat) : bootStage (dset (setStage s bsMemoryTest) 0x2A10 9 v) = bsMemoryTest ∧
      dget (dset (setStage s bsMemoryTest) 0x2A10 9 v) 0x2C00 5 = dget s 0x2C00 5 :=
    ⟨(bootStage_dset (by decide) (.inr (by decide)) v).trans entered,
      (dget_dset_ne _ (by decide) (by decide) (.inl (by decide)) _).trans other⟩
  unfold enterMemoryTest
  dsimp only
  split
  · exact ⟨(kind 0).1, rfl, rfl, rfl, (kind 0).2⟩
  · split
    · exact ⟨(kind 1).1, rfl, rfl, rfl, (kind 1).2⟩
    · refine ⟨(bootStage_raise _ _).trans (kind 2).1, ?_, ?_, ?_, (dget_raise _ _ _ _).trans (kind 2).2⟩ <;> rw [bootEvent, raise_frame]
        <;> rfl

end

theorem warmUpWave_gives {s : State} (failed : WaveFaults)
    (due : bootStage s = bsWarmUp ∨ bootStage s = bsMemoryPower ∧ ∀ x ∈ stackUnits s, x.1 ∈ s.seq.stacksOn) :
    ∃ t, exec (.warmUpWave failed) s = .next t ∧ t.wave = s.wave + 1 ∧
      bootStage t = (if s.wave = 7 then bsMemoryTest else bsWarmUp) ∧
      (bootStage s = bsMemoryPower → t.untrained = failed.channels ∧ (failed.channels ≠ [] → t.sinceTest = true)) ∧
      ∀ c ∈ failed.clusters, clusterActive s c = true → physCluster s c % 8 = s.wave → bitOf (dget t 0x2C00 5) c = true := by
  have ran : exec (.warmUpWave failed) s = execWarmUpWave failed s := rfl
  rw [ran]
  unfold execWarmUpWave
  extract_lets st on w a b c d
  have goes : (!(decide (st = bsWarmUp) || decide (st = bsMemoryPower) && on)) = false := by
    rcases due with stage | ⟨stage, powered⟩
    · simp [st, stage]
    · have all : on = true := by simpa [on] using powered
      simp [st, stage, all]
  rw [if_neg (by rw [goes]; decide)]
  have entered : bootStage a = bsWarmUp ∧ a.wave = s.wave ∧ a.dom = s.dom ∧ dget a 0x2C00 5 = dget s 0x2C00 5 ∧
      (bootStage s = bsMemoryPower → a.untrained = failed.channels ∧ (failed.channels ≠ [] → a.sinceTest = true)) := by
    simp only [a, st]
    split
    · exact ⟨bootStage_setStage _ _, rfl, rfl, dget_dset_ne _ (by decide) (by decide) (.inl (by decide)) _,
        fun _ => ⟨rfl, fun some_ => by simp [setStage, some_]⟩⟩
    · next other => exact ⟨due.resolve_right fun both => other both.1, rfl, rfl, rfl, fun first => absurd first other⟩
  clear_value a
  obtain ⟨stage, wave, dom, shown, first⟩ := entered
  have tokens : TokenFrame a b := tokenFrame_requestWakes a _
  clear_value b
  have clusters : WaveFrame b c := waveFrame_clustersOut b _
  have all := tokens.waveFrame.trans clusters
  have outs : ∀ j ∈ failed.clusters, clusterActive s j = true → physCluster s j % 8 = s.wave → bitOf (dget c 0x2C00 5) j = true := by
    intro j listed active mine
    refine clustersOut_out _ _ (.inl (List.mem_filter.mpr ⟨?_, ?_⟩))
    · have small : j < 64 := by
        simp only [clusterActive, Bool.and_eq_true, decide_eq_true_eq] at active
        exact active.1.1
      exact List.mem_range.mpr small
    · have same : b.dom = s.dom := by rw [tokens.whole, dom]
      have now : dget b 0x2C00 5 = dget s 0x2C00 5 := (tokens.dict _ _ (by decide) (by decide)).trans shown
      rw [clusterActive_congr same now, physCluster_congr same, active]
      simp [listed, mine, w]
  clear_value c
  have last : d.wave = s.wave + 1 ∧ bootStage d = bsWarmUp ∧ d.untrained = a.untrained ∧ d.sinceTest = a.sinceTest ∧
      dget d 0x2C00 5 = dget c 0x2C00 5 :=
    ⟨rfl, (bootStage_congr rfl).trans (all.stage.trans stage), all.untrained, all.sinceTest, rfl⟩
  clear_value d
  obtain ⟨wave', stage', untrained, since, outs'⟩ := last
  refine ⟨_, rfl, ?_⟩
  rw [show w = s.wave from rfl]
  split
  · obtain ⟨m, mw, mu, ms, mo⟩ := enterMemoryTest_gives d
    refine ⟨mw.trans wave', m, fun power => ?_, fun j listed active mine => ?_⟩
    · rw [mu, ms, untrained, since]
      exact first power
    · rw [mo, outs']
      exact outs j listed active mine
  · refine ⟨wave', stage', fun power => ?_, fun j listed active mine => ?_⟩
    · rw [untrained, since]
      exact first power
    · rw [outs']
      exact outs j listed active mine

/-! ## The memory test -/

section
variable (s : State)

theorem repairRow_frame (r : Nat × Nat × Nat) : HistoryFrame s (repairRow s r) :=
  (historyFrame_histAdd s _ _).trans (historyFrame_raise _ _)

theorem repairRows_frame (l : List (Nat × Nat × Nat)) : HistoryFrame s (l.foldl repairRow s) := by
  induction l generalizing s with
  | nil => exact .refl s
  | cons r l ih => exact (repairRow_frame s r).trans (ih _)

theorem fusedChannels_congr {s t : State} (same : domGet t 0x2C00 7 = domGet s 0x2C00 7) : fusedChannels t = fusedChannels s := by
  rw [fusedChannels, fusedChannels, stackUnits, stackUnits, same]

theorem mem_retiredChannels_retireChannel (q : Nat) : q ∈ (retireChannel s q).retiredChannels := by
  have listed : q ∈ (histAdd (dadd { s with retiredChannels := q :: s.retiredChannels } 0x2C10 3 1) histChannel [q]).retiredChannels := by
    rw [(historyFrame_histAdd _ _ _).whole]
    exact List.mem_cons_self
  unfold retireChannel
  dsimp only
  rw [raise_frame]
  exact listed

/-- Every channel of a list is retired after they are retired one after another. -/
theorem mem_retiredChannels_retireChannels (l : List Nat) (u : State) {q : Nat} (listed : q ∈ l ∨ q ∈ u.retiredChannels) :
    q ∈ (l.foldl retireChannel u).retiredChannels := by
  induction l generalizing u with
  | nil => exact listed.resolve_left List.not_mem_nil
  | cons p l ih =>
    refine ih _ ?_
    rcases listed with listed | retired
    · rcases List.mem_cons.mp listed with rfl | rest
      · exact .inr (mem_retiredChannels_retireChannel u q)
      · exact .inl rest
    · exact .inr ((retireChannel_keeps (Keeps.refl u)).channels q retired)

end

/-- Unlisted bytes of memory after a memory test are test data (R414). -/
theorem getByte_of_testData {t : State} {top n a : Nat} (mem : t.mem = []) (blank : t.blank = [(0, top, n + 1)]) (inside : a < top) :
    getByte t a = Config.testData (n + 1) a := by
  have first : t.blank.find? (fun x => x.1 ≤ a && a < x.2.1) = some (0, top, n + 1) := by
    rw [blank, List.find?_cons_of_pos (by simp [inside])]
  rw [getByte, mem, blankByte, first]
  simp [tabGet]

theorem memoryTestComplete_gives {s : State} (failed : List Nat) (repaired : List (Nat × Nat × Nat)) (stage : bootStage s = bsMemoryTest) :
    ∃ t, exec (.memoryTestComplete failed repaired) s = .next t ∧
      bootStage t = bsSelfTest ∧ t.errs = [] ∧ (∃ n, ∀ a, a < stackTop t → getByte t a = Config.testData n a) ∧
      ∀ q ∈ failed ++ s.untrained, q ∈ fusedChannels s → q ∈ t.retiredChannels := by
  have ran : exec (.memoryTestComplete failed repaired) s = execMemoryTestComplete failed repaired s := rfl
  rw [ran]
  unfold execMemoryTestComplete
  rw [if_neg (by simp [stage])]
  extract_lets a present bad gone b c d
  have rows : HistoryFrame s a := repairRows_frame s repaired
  have fused : fusedChannels a = fusedChannels s := fusedChannels_congr (rows.dom _ _ (by decide) (by decide))
  have untrained : a.untrained = s.untrained := by rw [rows.whole]
  clear_value a
  have tested : Keeps a b := recordTest_keeps (Keeps.refl a)
  clear_value b
  have retired : ∀ q ∈ failed ++ s.untrained, q ∈ fusedChannels s → q ∈ c.retiredChannels := by
    intro q listed whole
    refine (fixMemory_keeps (Keeps.refl _)).channels q (mem_retiredChannels_retireChannels _ _ ?_)
    by_cases before : q ∈ a.retiredChannels
    · exact .inr (tested.channels q before)
    · have here : q ∈ present := List.mem_filter.mpr ⟨by rw [fused]; exact whole, by simpa using before⟩
      have marked : q ∈ bad := by
        refine List.mem_filter.mpr ⟨here, ?_⟩
        rw [untrained]
        simpa using List.mem_append.mp listed
      exact .inl (List.mem_filter.mpr ⟨here, by simp [marked]⟩)
  clear_value c
  have shown : ∀ q ∈ c.retiredChannels, q ∈ d.retiredChannels := (raise_keeps (dset_keeps (Keeps.refl c))).channels
  clear_value d
  refine ⟨_, rfl, bootStage_setStage _ _, rfl, ⟨d.freeCtr + 1, fun x inside => ?_⟩, fun q listed whole => ?_⟩
  · refine getByte_of_testData (n := d.freeCtr) (top := stackTop d) ?_ ?_ ?_
    · rw [setStage, dset_mem]
    · rw [setStage, dset_blank]
    · rw [stackTop, setStage, dget_dset_ne _ (by decide) (by decide) (.inl (by decide))] at inside
      exact inside
  · exact shown q (retired q listed whole)

/-! ## The self-test -/

section
variable (s : State)

theorem slotFrame_retireAtBoot (p cause : Nat) : SlotFrame s (retireAtBoot s p cause) :=
  (slotFrame_retireSlot s p cause).trans (slotFrame_raise _ _)

theorem mem_retiredSlots_retireAtBoot (p cause : Nat) : p ∈ (retireAtBoot s p cause).retiredSlots := by
  rw [retireAtBoot, retiredSlots_slotEvent]
  exact mem_retiredSlots_retireSlot s p cause

theorem mem_retiredSlots_retireAtBoots (cause : Nat) (l : List Nat) (u : State) {p : Nat} (listed : p ∈ l ∨ p ∈ u.retiredSlots) :
    p ∈ (l.foldl (fun s p => retireAtBoot s p cause) u).retiredSlots := by
  induction l generalizing u with
  | nil => exact listed.resolve_left List.not_mem_nil
  | cons q l ih =>
    refine ih _ ?_
    rcases listed with listed | retired
    · rcases List.mem_cons.mp listed with rfl | rest
      · exact .inr (mem_retiredSlots_retireAtBoot u p cause)
      · exact .inl rest
    · exact .inr ((retireAtBoot_keeps (Keeps.refl u)).slots p retired)

theorem slotFrame_retireAtBoots (cause : Nat) (l : List Nat) : SlotFrame s (l.foldl (fun s p => retireAtBoot s p cause) s) := by
  induction l generalizing s with
  | nil => exact (HistoryFrame.refl s).slotFrame
  | cons q l ih => exact (slotFrame_retireAtBoot s q cause).trans (ih _)

/-- A slot's transient leaves the clusters in service as they are. -/
theorem SlotFrame.clusterActive {s t : State} (a : SlotFrame s t) (c : Nat) : clusterActive t c = clusterActive s c := by
  have phys : physCluster t c = physCluster s c := by
    rw [physCluster, physCluster, a.dom _ _ (by decide) (by decide) (by decide)]
  rw [Machine.clusterActive, Machine.clusterActive, phys, a.dict _ _ (by decide) (by decide) (by decide)]

theorem bootStage_startSetter : bootStage (startSetter s) = bootStage s := by
  unfold startSetter
  extract_lets a b c
  have first : bootStage a = bootStage s := bootStage_dset (by decide) (.inl (by decide)) _
  have second : bootStage b = bootStage a :=
    (bootStage_dset (by decide) (.inl (by decide)) _).trans ((bootStage_dset (by decide) (.inl (by decide)) _).trans
      (bootStage_dset (by decide) (.inl (by decide)) _))
  have third : bootStage c = bootStage b := bootStage_dset (by decide) (.inl (by decide)) _
  exact (bootStage_congr (s := c) rfl).trans (third.trans (second.trans first))

/-- LINK_TRAINING entered: lap 0 at phase 0. -/
theorem enterLinkTraining_gives : bootStage (enterLinkTraining s) = bsLinkTraining ∧ (enterLinkTraining s).lap = 0 ∧
    (enterLinkTraining s).phase = 0 := by
  unfold enterLinkTraining
  extract_lets a b
  have stage : bootStage a = bsLinkTraining := bootStage_setStage _ _
  have start : a.lap = 0 ∧ a.phase = 0 := ⟨rfl, rfl⟩
  clear_value a
  have tokens : TokenFrame a b := tokenFrame_requestWakes a _
  have lap : b.lap = 0 ∧ b.phase = 0 := by
    rw [tokens.whole]
    exact start
  have shown : bootStage b = bsLinkTraining := tokens.bootStage.trans stage
  clear_value b
  split
  · exact ⟨(bootStage_startSetter b).trans shown, rfl, rfl⟩
  · exact ⟨shown, lap⟩

end

theorem selfTestComplete_gives {s : State} (failed : List Nat) (sweeps : List Sweep) (stage : bootStage s = bsSelfTest) :
    ∃ t, exec (.selfTestComplete failed sweeps) s = .next t ∧ bootStage t = bsLinkTraining ∧ t.lap = 0 ∧ t.phase = 0 ∧
      ∀ p ∈ failed, p < 576 → clusterActive s (p / 9) = true → p ∈ t.retiredSlots := by
  have ran : exec (.selfTestComplete failed sweeps) s = execSelfTestComplete failed sweeps s := rfl
  have intervals (l : List Nat) (u : State) : (l.foldl setInterval u).dict = u.dict ∧ (l.foldl setInterval u).lap = u.lap ∧
      (l.foldl setInterval u).phase = u.phase ∧ (l.foldl setInterval u).retiredSlots = u.retiredSlots := by
    induction l generalizing u with
    | nil => exact ⟨rfl, rfl, rfl, rfl⟩
    | cons c l ih => exact ih (setInterval u c)
  rw [ran]
  unfold execSelfTestComplete
  rw [if_neg (by simp [stage])]
  extract_lets a b c d e f g i j k
  have marked : SlotFrame s a :=
    SlotFrame.trans (t := { s with markedSlots := [] }) ⟨rfl, fun _ _ _ _ _ => rfl, fun _ _ _ _ _ => rfl, .of_heats rfl⟩
      (slotFrame_retireAtBoots _ causeCount s.markedSlots)
  have active := marked.clusterActive
  clear_value a
  have retired : ∀ p ∈ failed, p < 576 → clusterActive s (p / 9) = true → p ∈ b.retiredSlots := by
    intro p listed small up
    refine mem_retiredSlots_retireAtBoots causeBoot _ a (.inl (List.mem_filter.mpr ⟨List.mem_range.mpr small, ?_⟩))
    rw [active, up]
    simp [listed]
  clear_value b
  have kept : Keeps b j :=
    updateLife_keeps (raise_keeps (histAdd_keeps (Keeps.upd (keeps_foldl (keeps_foldl (keeps_foldl (keeps_foldl (Keeps.refl b)
      fun u v => keeps_ite (addSweep_keeps (Keeps.refl _)) (Keeps.refl _)) fun u v => bootPlan_keeps (Keeps.refl _))
      fun u v => assignSlots_keeps (Keeps.refl _)) fun u v => bootTrims_keeps (Keeps.refl _)))))
  clear_value j
  have entered := enterLinkTraining_gives j
  have more : Keeps j k := enterLinkTraining_keeps (Keeps.refl j)
  rw [show enterLinkTraining j = k from rfl] at entered
  clear_value k
  obtain ⟨dict, lap, phase, slots⟩ := intervals (rangeWhere 64 (clusterActive k)) k
  refine ⟨_, rfl, (bootStage_congr dict).trans entered.1, lap.trans entered.2.1, phase.trans entered.2.2, fun p listed small up => ?_⟩
  rw [slots]
  exact more.slots p (kept.slots p (retired p listed small up))

/-! ## READY -/

theorem bootStage_measure (s : State) (n : Nat) (l : List Byte) : bootStage (measure s n l) = bootStage s := by
  have counted (v : Nat) : bootStage (dset s 0x2A00 7 v) = bootStage s := bootStage_dset (by decide) (.inl (by decide)) v
  exact counted _

theorem bootStage_raiseAntiRollback (s : State) : bootStage (raiseAntiRollback s) = bootStage s := by
  unfold raiseAntiRollback
  split
  · rfl
  · extract_lets a
    have raised : bootStage a = bootStage s := (bootStage_raise _ _).trans (bootStage_dset (by decide) (.inl (by decide)) _)
    exact (bootStage_measure a _ _).trans raised

theorem bootStage_enterReady (s : State) : bootStage (enterReady s) = bsReady := by
  unfold enterReady
  extract_lets a b
  have stage : bootStage a = bsReady := (bootStage_dset (by decide) (.inr (by decide)) _).trans (bootStage_setStage s bsReady)
  clear_value a
  have kept : bootStage b = bsReady := (dget_histAdd _ _ _ (by decide) (by decide)).trans stage
  clear_value b
  have ready : bootStage (bootEvent b 0x0601 0 0) = bsReady := (bootStage_raise _ _).trans kept
  exact (bootStage_raiseAntiRollback _).trans ready

end Sys2Proof.Machine
end

section
/-! SUPPORT. The tokens that loads wait for, and the way out of POWERING_DOWN (R399, R415 to R418). -/

namespace Sys2Proof.Machine

/-! ## Loads -/

theorem contains_setOn (l : List Nat) (n : Nat) (up : Bool) : (setOn l n up).contains n = up := by
  unfold setOn
  cases up with
  | true =>
    rw [if_pos rfl]
    split
    · next there => exact there
    · simp
  | false => simp

section
variable (s : State)

theorem clusterCores_seq (p : Nat) (x : UnitPower) : (clusterCores s p x).seq = s.seq := by
  have cores (c : Nat) (l : List Nat) (u : State) : (l.foldl (fun s i => setCorePower s (9 * c + i) x) u).seq = u.seq := by
    induction l generalizing u with
    | nil => rfl
    | cons i l ih => exact ih _
  unfold clusterCores
  split
  · exact cores _ _ s
  · rfl

theorem coreAwake_setCorePower (k : Nat) (p : UnitPower) : coreAwake (setCorePower s k p) k = decide (p = .awake) := by
  rw [coreAwake, setCorePower, tabGet_tabSet_same]

/-- A granted load change leaves nothing of it to change. -/
theorem wakeIdle_applyWake (u : WakeUnit) : wakeIdle (applyWake s u) u = true := by
  cases u with
  | stack n up => simp only [wakeIdle, applyWake, contains_setOn, beq_self_eq_true]
  | cluster n up => simp only [wakeIdle, applyWake, clusterCores_seq, contains_setOn, beq_self_eq_true]
  | laser n up => simp only [wakeIdle, applyWake, contains_setOn, beq_self_eq_true]
  | core k up =>
    simp only [wakeIdle, applyWake, coreAwake_setCorePower]
    cases up <;> rfl

theorem applyWake_waiting (u : WakeUnit) : (applyWake s u).seq.waiting = s.seq.waiting := by
  cases u with
  | cluster n up => simp only [applyWake, clusterCores_seq]
  | _ => rfl

/-- A granted request: its load changed, counted, and what waits as before. -/
theorem grantWake_gives (u : WakeUnit) : wakeIdle (grantWake s u) u = true ∧ (grantWake s u).seq.waiting = s.seq.waiting ∧
    Counted s (grantWake s u) 0x2D50 1 := by
  have apply_ (t : State) (i sub : Nat) : dget (applyWake t u) i sub = dget t i sub := by
    cases u with
    | cluster n up =>
      have cores (c : Nat) (x : UnitPower) (l : List Nat) (t : State) :
          (l.foldl (fun s i => setCorePower s (9 * c + i) x) t).dict = t.dict := by
        induction l generalizing t with
        | nil => rfl
        | cons i l ih => exact ih _
      simp only [applyWake, clusterCores]
      split
      · rw [dget, cores, dget]
      · rfl
    | _ => rfl
  unfold grantWake
  extract_lets g
  refine ⟨wakeIdle_applyWake _ u, applyWake_waiting _ u, ?_⟩
  rw [Counted, apply_, dadd_eq, dget_dset_same]
  rfl

/-! ## Requests -/

variable {s} {u : WakeUnit} (may : mayChange s u = true)

theorem requestWake_of_forbidden (forbidden : mayChange s u = false) : requestWake s u = s := by
  rw [requestWake, forbidden]
  rfl

include may

theorem requestWake_of_idle (idle : wakeIdle s u = true) :
    requestWake s u = { s with seq := { s.seq with waiting := s.seq.waiting.filter (·.unit != undoes u) } } := by
  have same : wakeIdle { s with seq := { s.seq with waiting := s.seq.waiting.filter (·.unit != undoes u) } } u = wakeIdle s u := by
    cases u <;> rfl
  rw [requestWake, may]
  simp only [Bool.not_true, Bool.false_eq_true, if_false, same, idle, Bool.true_or, if_true]

variable (changes : wakeIdle s u = false) (fresh : s.seq.waiting.any (·.unit = u) = false)
  (kept : s.seq.waiting.any (·.unit = undoes u) = false)
include changes fresh kept

/-- A new request that undoes none: granted on arrival where none waits and the budget allows, else it waits. -/
theorem requestWake_of_new : requestWake s u = if s.seq.waiting.isEmpty && wakeFits s u then grantWake s u
    else dadd { s with seq := { s.seq with waiting := s.seq.waiting ++ [{ unit := u, since := s.now }] } } 0x2D50 2 1 := by
  have all : s.seq.waiting.filter (·.unit != undoes u) = s.seq.waiting := by
    refine List.filter_eq_self.mpr fun r listed => ?_
    have other := List.any_eq_false.mp kept r listed
    simpa using other
  rw [requestWake, may]
  simp only [Bool.not_true, Bool.false_eq_true, if_false, all, changes, fresh, Bool.or_self]

theorem requestWake_granted (none_ : s.seq.waiting = []) (fits : wakeFits s u = true) : requestWake s u = grantWake s u := by
  rw [requestWake_of_new may changes fresh kept, none_, fits]
  rfl

theorem requestWake_waits (held : s.seq.waiting ≠ [] ∨ wakeFits s u = false) : requestWake s u =
    dadd { s with seq := { s.seq with waiting := s.seq.waiting ++ [{ unit := u, since := s.now }] } } 0x2D50 2 1 := by
  rw [requestWake_of_new may changes fresh kept, if_neg]
  rcases held with some_ | full
  · simp [some_]
  · simp [full]

end

/-! ## Powering down over -/

/-- What ports that go dark leave: the stage and the one it leads to, what is on, and the pins. -/
structure DarkFrame (s t : State) : Prop where
  stage : bootStage t = bootStage s
  seq : t.seq = s.seq
  downTo : t.downTo = s.downTo
  pins : t.pins = s.pins

namespace DarkFrame

theorem refl (s : State) : DarkFrame s s := ⟨rfl, rfl, rfl, rfl⟩

theorem trans {s t u : State} (a : DarkFrame s t) (b : DarkFrame t u) : DarkFrame s u :=
  ⟨b.stage.trans a.stage, b.seq.trans a.seq, b.downTo.trans a.downTo, b.pins.trans a.pins⟩

theorem foldl {α : Type} {f : State → α → State} (step : ∀ s a, DarkFrame s (f s a)) (l : List α) (s : State) :
    DarkFrame s (l.foldl f s) := by
  induction l generalizing s with
  | nil => exact .refl s
  | cons a l ih => exact (step s a).trans (ih _)

end DarkFrame

section
variable (s : State)

theorem darkFrame_dset {i sub : Nat} (small : sub < 256) (other : i ≠ 0x2A10) (v : Nat) : DarkFrame s (dset s i sub v) :=
  ⟨bootStage_dset small (.inl other) v, rfl, rfl, rfl⟩

theorem darkFrame_setEthernet_down {e : Nat} (small : e < 2) : DarkFrame s (setEthernet s e false) := by
  have down := darkFrame_dset s (i := 0x2400 + e) (sub := 2) (by decide) (by omega) 0
  exact ⟨down.stage, rfl, rfl, rfl⟩

theorem darkFrame_leaveTrained {p : Nat} (small : p < portCount) (link : Nat) : DarkFrame s (leaveTrained s p link) := by
  have other : pIdx p ≠ 0x2A10 := by
    have := show p < 32 from small
    unfold pIdx
    omega
  unfold leaveTrained
  extract_lets was a b c
  have link_ : DarkFrame s a := (darkFrame_dset s (by decide) other link).trans (darkFrame_dset _ (by decide) other 0)
  clear_value a
  have lanes : DarkFrame a b := ⟨rfl, rfl, rfl, rfl⟩
  clear_value b
  have pace : DarkFrame b c := by
    simp only [c]
    split
    · exact ⟨dget_enterHoldover b (by decide) (by decide) (by decide), rfl, rfl, rfl⟩
    · exact .refl b
  clear_value c
  have plan := planFrame_updatePlan c p
  have whole := plan.whole
  have last : DarkFrame c (updatePlan c p) :=
    ⟨plan.dict _ _ (by decide) (fun three => absurd three (by decide)), by rw [whole], by rw [whole], by rw [whole]⟩
  exact ((link_.trans lanes).trans pace).trans last

theorem darkFrame_darkPorts : DarkFrame s (darkPorts s) := by
  have lit (l : List Nat) (small : ∀ e ∈ l, e < 2) (u : State) : DarkFrame u (l.foldl (fun s e => setEthernet s e false) u) := by
    induction l generalizing u with
    | nil => exact .refl u
    | cons e l ih =>
      exact (darkFrame_setEthernet_down u (small e List.mem_cons_self)).trans (ih (fun j listed => small j (List.mem_cons_of_mem _ listed)) _)
  have ports (l : List Nat) (small : ∀ p ∈ l, p < portCount) (u : State) :
      DarkFrame u (l.foldl (fun s p => leaveTrained s p linkDown) u) := by
    induction l generalizing u with
    | nil => exact .refl u
    | cons p l ih =>
      exact (darkFrame_leaveTrained u (small p List.mem_cons_self) linkDown).trans
        (ih (fun j listed => small j (List.mem_cons_of_mem _ listed)) _)
  unfold darkPorts
  extract_lets a
  have first : DarkFrame s a := lit _ (fun e listed => List.mem_range.mp (List.mem_filter.mp listed).1) s
  exact first.trans (ports _ (fun p listed => List.mem_range.mp (List.mem_filter.mp listed).1) a)

theorem sampleStandby_of_stays {s : State} (stays : bootStage s ≠ bsStandby ∨ s.pins.pwrLevel = false) : sampleStandby s = s := by
  rw [sampleStandby, if_neg]
  rcases stays with other | low
  · simp [other]
  · simp [low]

theorem bootUp_frame : ∃ x y, bootUp s = { s with out := x, pausedOut := y } := by
  unfold bootUp sendCan
  split
  · exact ⟨_, _, rfl⟩
  · exact emit_frame s _

/-- POWERING_DOWN over: the stage it leads to, with memory gone. -/
theorem endPowerDown_gives {s : State} (stage : bootStage s = bsPoweringDown) (off : allOff s = true)
    (next_ : s.downTo = bsLost ∨ s.downTo = bsStandby ∧ s.pins.pwrLevel = false) :
    bootStage (endPowerDown s) = s.downTo ∧ (endPowerDown s).mem = [] ∧ (endPowerDown s).pins = s.pins := by
  unfold endPowerDown
  rw [if_pos (by simp [stage, off])]
  extract_lets dark a b
  have start : a.downTo = s.downTo ∧ a.mem = [] ∧ a.pins = s.pins := ⟨rfl, rfl, rfl⟩
  clear_value a
  obtain ⟨to_, mem, pins⟩ := start
  have entered : bootStage b = s.downTo ∧ b.mem = [] ∧ b.pins = s.pins :=
    ⟨(bootStage_setStage _ _).trans to_, mem, pins⟩
  clear_value b
  obtain ⟨stage', mem', pins'⟩ := entered
  have booted : bootStage (if b.downTo = bsStandby then bootUp b else b) = s.downTo ∧
      (if b.downTo = bsStandby then bootUp b else b).mem = [] ∧ (if b.downTo = bsStandby then bootUp b else b).pins = s.pins := by
    split
    · obtain ⟨x, y, sent⟩ := bootUp_frame b
      rw [sent]
      exact ⟨(bootStage_congr rfl).trans stage', mem', pins'⟩
    · exact ⟨stage', mem', pins'⟩
  generalize (if b.downTo = bsStandby then bootUp b else b) = c at booted
  obtain ⟨stage'', mem'', pins''⟩ := booted
  rw [sampleStandby_of_stays]
  · exact ⟨stage'', mem'', pins''⟩
  · rcases next_ with lost | ⟨standby, low⟩
    · left
      rw [stage'', lost]
      decide
    · right
      rw [pins'', low]

end

theorem endPowerDown_of_up {s : State} (up : bootStage s ≠ bsPoweringDown) : endPowerDown s = s := by
  rw [endPowerDown, if_neg (by simp [up])]

/-! ## The rows -/

theorem exec_wakeTokenGrant_of_up {s : State} {r : WakeReq} {l : List WakeReq} (waits : s.seq.waiting = r :: l)
    (up : bootStage s ≠ bsPoweringDown) (stays : bootStage s ≠ bsStandby ∨ s.pins.pwrLevel = false) :
    (wakeFits s r.unit = true → ∃ t, exec .wakeTokenGrant s = .next t ∧ wakeIdle t r.unit = true ∧ t.seq.waiting = l) ∧
    (wakeFits s r.unit = false → exec .wakeTokenGrant s = .next s) := by
  have rest {t : State} (tokens : TokenFrame s t) (gives : grantNext s = t) : exec .wakeTokenGrant s = .next t := by
    have up' : bootStage t ≠ bsPoweringDown := by rw [tokens.bootStage]; exact up
    have stays' : bootStage t ≠ bsStandby ∨ t.pins.pwrLevel = false := by
      rw [tokens.bootStage, tokens.whole]
      exact stays
    change execWakeTokenGrant s = _
    rw [execWakeTokenGrant, gives, if_neg up', endPowerDown_of_up up', sampleStandby_of_stays stays']
  refine ⟨fun fits => ?_, fun full => ?_⟩
  · let u := dset { s with seq := { s.seq with waiting := l } } 0x2D50 3
      (max (dget s 0x2D50 3) (min ((s.now - r.since) / 10000) (2 ^ 32 - 1)))
    have gives : grantNext s = grantWake u r.unit := by
      rw [grantNext, waits]
      dsimp only
      rw [fits]
      rfl
    have waiting : TokenFrame s u :=
      ⟨rfl, fun i sub other small => dget_dset_ne _ (by decide) small (.inl other) _⟩
    obtain ⟨idle, waits', -⟩ := grantWake_gives u r.unit
    exact ⟨_, rest (waiting.trans (tokenFrame_grantWake u r.unit)) gives, idle, waits'⟩
  · refine rest (.refl s) ?_
    rw [grantNext, waits]
    dsimp only
    rw [full]
    rfl

theorem exec_wakeTokenGrant_of_down {s : State} (stage : bootStage s = bsPoweringDown) (none_ : s.seq.waiting = [])
    (off : allOff s = true) (next_ : s.downTo = bsLost ∨ s.downTo = bsStandby ∧ s.pins.pwrLevel = false) :
    ∃ t, exec .wakeTokenGrant s = .next t ∧ bootStage t = s.downTo ∧ t.mem = [] := by
  have dark := darkFrame_darkPorts s
  have gives : exec .wakeTokenGrant s = .next (sampleStandby (endPowerDown (darkPorts s))) := by
    have idle : grantNext s = s := by rw [grantNext, none_]
    change execWakeTokenGrant s = _
    rw [execWakeTokenGrant, idle, if_pos stage]
  have next' : (darkPorts s).downTo = bsLost ∨ (darkPorts s).downTo = bsStandby ∧ (darkPorts s).pins.pwrLevel = false := by
    rw [dark.downTo, dark.pins]
    exact next_
  have off' : allOff (darkPorts s) = true := by
    rw [allOff, dark.seq]
    exact off
  obtain ⟨stage', mem, pins⟩ := endPowerDown_gives (dark.stage.trans stage) off' next'
  rw [dark.downTo] at stage'
  rw [dark.pins] at pins
  rw [sampleStandby_of_stays] at gives
  · exact ⟨_, gives, stage', mem⟩
  · rcases next_ with lost | ⟨standby, low⟩
    · left
      rw [stage', lost]
      decide
    · right
      rw [pins, low]

theorem exec_coreIdleTimeout_of_quiet {s : State} {k : Nat} (up : linksUp s = true) (awake : coreAwake s k = true)
    (quiet : coreQuiet s k = true) (free : controlBusy s k = false) (none_ : (getCore s k).ctl = none)
    (due : (getCore s k).quietAt + 200000 ≤ s.now) (empty : s.seq.waiting = []) (fits : wakeFits s (.core k false) = true) :
    ∃ t, exec (.coreIdleTimeout k) s = .next t ∧ coreAwake t k = false := by
  have ran : exec (.coreIdleTimeout k) s = .next (requestWake s (.core k false)) := by
    change execCoreIdleTimeout k s = _
    rw [execCoreIdleTimeout]
    simp [up, awake, quiet, free, none_, due]
  have granted : requestWake s (.core k false) = grantWake s (.core k false) :=
    requestWake_granted rfl (by simp [wakeIdle, awake]) (by simp [empty]) (by simp [empty]) empty fits
  refine ⟨_, ran, ?_⟩
  rw [granted]
  simpa [wakeIdle] using (grantWake_gives s (.core k false)).1

/-- Settles O53: the boot's stages, one row after another, and the tokens. -/
theorem bootSteps : Obligations.BootSteps := by
  unfold Obligations.BootSteps
  intro s
  refine ⟨fun failed due => warmUpWave_gives failed due, fun failed repaired stage => memoryTestComplete_gives failed repaired stage,
    fun failed sweeps stage => selfTestComplete_gives failed sweeps stage, fun stage => ⟨fun ends => ?_, fun down early => ?_⟩,
    fun u forbidden => ?_, fun u may idle => ?_, fun u may changes fresh kept => ⟨fun none_ fits => ?_, fun held => ?_⟩,
    fun r l waits up stays => exec_wakeTokenGrant_of_up waits up stays,
    fun stage none_ off next_ => exec_wakeTokenGrant_of_down stage none_ off next_,
    fun k up awake quiet free none_ due empty fits => exec_coreIdleTimeout_of_quiet up awake quiet free none_ due empty fits⟩
  · have ran : exec .linkTrainingEnd s = .next (enterReady s) := by
      change execLinkTrainingEnd s = _
      rw [execLinkTrainingEnd, if_pos (by simpa [stage] using ends)]
    exact ⟨_, ran, bootStage_enterReady s⟩
  · change execLinkTrainingEnd s = _
    rw [execLinkTrainingEnd, if_neg (by simp [down, early])]
  · change Host.Outcome.next (requestWake s u) = _
    rw [requestWake_of_forbidden forbidden]
  · refine ⟨_, rfl, ?_⟩
    rw [requestWake_of_idle may idle]
    exact ⟨rfl, rfl⟩
  · obtain ⟨idle, waiting, counted⟩ := grantWake_gives s u
    refine ⟨_, rfl, ?_⟩
    rw [requestWake_granted may changes fresh kept none_ fits]
    exact ⟨idle, waiting.trans none_, counted⟩
  · refine ⟨_, rfl, ?_⟩
    rw [requestWake_waits may changes fresh kept held]
    refine ⟨rfl, rfl, ?_⟩
    rw [Counted, dadd_eq, dget_dset_same]
    rfl

end Sys2Proof.Machine
end

section
/-! SUPPORT. Notices sent and received, and what a restart goes through at a member (R455 to R459). -/

namespace Sys2Proof.Machine

/-! ## Sectors read -/

/-- What reading memory leaves of heats and entries. -/
structure ReadKeeps (s t : State) : Prop where
  heats : SameButContained s t
  dict : ∀ i sub, sub < 256 → 3 < sub → dget t i sub = dget s i sub

namespace ReadKeeps

theorem refl (s : State) : ReadKeeps s s := ⟨.refl s, fun _ _ _ _ => rfl⟩

theorem trans {s t u : State} (a : ReadKeeps s t) (b : ReadKeeps t u) : ReadKeeps s u :=
  ⟨a.heats.trans b.heats, fun i sub small high => (b.dict i sub small high).trans (a.dict i sub small high)⟩

theorem after {s t u : State} (b : ReadKeeps t u) (a : ReadKeeps s t) : ReadKeeps s u := a.trans b

end ReadKeeps

section
variable (s : State)

theorem readKeeps_raise (e : Event) : ReadKeeps s (raise s e) := ⟨sameButContained_raise s e, fun _ _ _ _ => dget_raise _ _ _ _⟩

theorem readKeeps_dadd {sub : Nat} (small : sub < 256) (low : sub ≤ 3) (i n : Nat) : ReadKeeps s (dadd s i sub n) :=
  ⟨.of_heats rfl, fun _ _ small' high => dget_dset_ne s small small' (.inr (by omega)) _⟩

theorem readKeeps_markRetire (q : Nat) : ReadKeeps s (markRetire s q) := ⟨.of_heats rfl, fun _ _ _ _ => rfl⟩

theorem readKeeps_domPut (i sub total w n v : Nat) : ReadKeeps s (domPut s i sub total w n v) := ⟨.of_heats rfl, fun _ _ _ _ => rfl⟩

theorem readKeeps_readSector (sec : Nat) : ReadKeeps s (readSector s sec).1 := by
  have xored (e : List (Nat × Byte)) (errs : Tab (List (Nat × Byte))) : ReadKeeps s { xorSector s sec e with errs := errs } := by
    obtain ⟨m, gives⟩ := xorSector_frame s sec e
    rw [gives]
    exact ⟨.of_heats rfl, fun _ _ _ _ => rfl⟩
  unfold readSector
  extract_lets e q
  split
  · exact .refl s
  · split
    · exact xored _ _
    · next l _ =>
      extract_lets src a n b c d f
      have fixed : ReadKeeps s a := xored _ _
      have counted : ReadKeeps a b := (readKeeps_dadd a (by decide) (by decide) _ 1).trans (readKeeps_dadd _ (by decide) (by decide) _ n)
      have shown : ReadKeeps b c := readKeeps_domPut b _ _ _ _ _ _
      have noted : ReadKeeps c d := ⟨.of_heats rfl, fun _ _ _ _ => rfl⟩
      have raised : ReadKeeps d f := readKeeps_raise d _
      have all := (((fixed.trans counted).trans shown).trans noted).trans raised
      split
      · exact all.trans ((readKeeps_raise _ _).after (readKeeps_markRetire f q))
      · exact all
    · rename_i a h already b c cls _ _ _
      have counted : ReadKeeps s a := readKeeps_dadd s (by decide) (by decide) _ 1
      have failed : ReadKeeps a b := by
        simp only [b]
        split
        · exact .refl a
        · exact ⟨.of_heats rfl, fun _ _ _ _ => rfl⟩
      have marked : ReadKeeps b c := readKeeps_markRetire b q
      exact ((counted.trans failed).trans marked).trans (readKeeps_raise c _)

theorem readKeeps_readSectors (l : List Nat) : ReadKeeps s (readSectors s l).1 := by
  induction l generalizing s with
  | nil => exact .refl s
  | cons x l ih =>
    rw [readSectors]
    split
    · exact (readKeeps_readSector s x).trans (ih _)
    · exact readKeeps_readSector s x

theorem readKeeps_checkRead (a n : Nat) : ReadKeeps s (checkRead s a n).1 := readKeeps_readSectors s _

theorem readKeeps_storeStack (a : Nat) (l : List Byte) : ReadKeeps s (storeStack s a l).1 := by
  unfold storeStack
  extract_lets n isWhole r
  have read : ReadKeeps s r.1 := readKeeps_readSectors s _
  split
  · exact read
  · refine read.trans ?_
    rw [writeBytes_frame]
    exact ⟨.of_heats rfl, fun _ _ _ _ => rfl⟩

end

/-! ## Notices -/

/-- What a notice or a message of the device changes: lines, notices seen and sent, sessions and what has left. -/
structure NoticeFrame (s t : State) : Prop where
  whole : t = { s with
    ports := t.ports, notices := t.notices, noticeSeq := t.noticeSeq, out := t.out, pausedOut := t.pausedOut, sessions := t.sessions }

namespace NoticeFrame

theorem refl (s : State) : NoticeFrame s s := ⟨rfl⟩

theorem trans {s t u : State} (a : NoticeFrame s t) (b : NoticeFrame t u) : NoticeFrame s u := by
  have first := a.whole
  have second := b.whole
  rw [first] at second
  exact ⟨second⟩

theorem foldl {α : Type} {f : State → α → State} (step : ∀ s a, NoticeFrame s (f s a)) (l : List α) (s : State) :
    NoticeFrame s (l.foldl f s) := by
  induction l generalizing s with
  | nil => exact .refl s
  | cons a l ih => exact (step s a).trans (ih _)

variable {s t : State} (frame : NoticeFrame s t)
include frame

theorem getHeat (h : Nat) : getHeat t h = getHeat s h := getHeat_congr (by rw [frame.whole]) h

theorem dget (i sub : Nat) : dget t i sub = dget s i sub := by
  rw [frame.whole]
  rfl

theorem domGet (i sub : Nat) : domGet t i sub = domGet s i sub := by
  rw [frame.whole]
  rfl

theorem leads (h : Nat) : leads t h = leads s h := by
  rw [Machine.leads, Machine.leads, frame.getHeat, frame.dget, ownChip, ownChip, frame.dget]

theorem lapStarts : t.lapStarts = s.lapStarts := by rw [frame.whole]

theorem heatWork : HeatWorkFrame s t := by
  have whole := frame.whole
  exact ⟨by rw [whole]⟩

end NoticeFrame

section
variable (s : State)

theorem noticeFrame_modPort (p : Nat) (f : Port → Port) : NoticeFrame s (modPort s p f) := ⟨rfl⟩

theorem noticeFrame_takeCtrl (p code : Nat) : NoticeFrame s (takeCtrl s p code) := noticeFrame_modPort s p _

theorem spread_frame (n : Notice) (from_ : Option Nat) : NoticeFrame s (spread s n from_) ∧ (spread s n from_).noticeSeq = s.noticeSeq := by
  have all (l : List Nat) (u : State) : NoticeFrame u (l.foldl (fun s p => sendCtrl s p ctlNotice (noticeBody n)) u) ∧
      (l.foldl (fun s p => sendCtrl s p ctlNotice (noticeBody n)) u).noticeSeq = u.noticeSeq := by
    induction l generalizing u with
    | nil => exact ⟨.refl u, rfl⟩
    | cons p l ih => exact ⟨(noticeFrame_modPort u p _).trans (ih _).1, (ih _).2⟩
  exact all _ s

theorem noticeFrame_seeNotice (n : Notice) : NoticeFrame s (seeNotice s n) := ⟨rfl⟩

theorem noticeFrame_sendNotice (h : Nat) (n : Notice) : NoticeFrame s (sendNotice s h n).1 := by
  unfold sendNotice
  extract_lets m u
  have counted : NoticeFrame s u := ⟨rfl⟩
  exact (counted.trans (noticeFrame_seeNotice u m)).trans (spread_frame _ m none).1

theorem sendNotice_seq (h : Nat) (n : Notice) : (sendNotice s h n).1.noticeSeq = s.noticeSeq + 1 := by
  unfold sendNotice
  extract_lets m u
  exact (spread_frame (seeNotice u m) m none).2

theorem noticeFrame_jobEvent (h event chip lap : Nat) : NoticeFrame s (jobEvent s h event chip lap) := by
  unfold jobEvent
  extract_lets b
  refine .foldl (fun u n => ?_) _ s
  obtain ⟨x, y, z, sent⟩ := sendStarter_frame u n msgJobEvent 0 b
  rw [sent]
  exact ⟨rfl⟩

end

/-- A notice that counts is taken, spread, and acted on (R455). -/
theorem takeNotice_of_noticed {s : State} {port h : Nat} {n : Notice} (counts : noticed s port n h) (act : State → Nat → Notice → State) :
    ∃ u, NoticeFrame s u ∧ takeNotice s port n act = act u h n := by
  obtain ⟨trained_, planned, unseen, held, number⟩ := counts
  have taken := noticeFrame_takeCtrl s port ctlNotice
  have trained' : trained (takeCtrl s port ctlNotice) port = true := trained_
  have planned' : (planPort (takeCtrl s port ctlNotice) n.tag port).isNone = false := by
    rw [show planPort (takeCtrl s port ctlNotice) n.tag port = planPort s n.tag port from rfl]
    cases at_ : planPort s n.tag port with
    | none => rw [at_] at planned; exact absurd planned (by decide)
    | some x => rfl
  have unseen' : noticeSeen (takeCtrl s port ctlNotice) n = false := unseen
  have frame : NoticeFrame s (spread (seeNotice (takeCtrl s port ctlNotice) n) n (some port)) :=
    (taken.trans (noticeFrame_seeNotice _ n)).trans (spread_frame _ n (some port)).1
  refine ⟨_, frame, ?_⟩
  have holds : tagHeat (spread (seeNotice (takeCtrl s port ctlNotice) n) n (some port)) n.tag = some h := by
    rw [← held, frame.whole]
    rfl
  have same : ¬ n.restartNo < (getHeat (spread (seeNotice (takeCtrl s port ctlNotice) n) n (some port)) h).restart.no := by
    rw [frame.getHeat, number]
    exact Nat.lt_irrefl _
  unfold takeNotice
  dsimp only
  rw [trained', planned', unseen', if_neg (by decide), holds]
  dsimp only
  rw [if_neg same]

end Sys2Proof.Machine
end

section
/-! SUPPORT. A heat in RESTARTING: how it enters, what it restores, and what the lead decides (R456 to R459). -/

namespace Sys2Proof.Machine

/-! ## Work abandoned -/

section
variable (s : State)

theorem readKeeps_writeRecord (x : Queue) (f : Flight) : ReadKeeps s (writeRecord s x f) := by
  unfold writeRecord
  dsimp only
  split
  · exact (readKeeps_storeStack s _ _).trans (readKeeps_storeStack _ _ _)
  · exact readKeeps_storeStack s _ _

theorem sameButContained_abandonQueue (h st q : Nat) : SameButContained s (abandonQueue s h st q) := by
  have all (x : Queue) (l : List Flight) (u : State) : SameButContained u (l.foldl (fun s f =>
      let w := abandonedWords s q f
      let f := { f with status := pickStatus st f.status, wordA := w.1, wordB := w.2 }
      countRecord (writeRecord s x f) h f.status) u) := by
    induction l generalizing u with
    | nil => exact .refl u
    | cons f l ih =>
      refine .trans ?_ (ih _)
      beta_reduce
      extract_lets w g
      refine (readKeeps_writeRecord u x g).heats.trans ?_
      obtain ⟨d, counted⟩ := countRecord_frame (writeRecord u x g) h g.status
      rw [counted]
      exact .of_heats rfl
  unfold abandonQueue
  extract_lets x l u v y
  have records : SameButContained s u := all x l s
  clear_value u
  exact records.trans (.of_heats rfl)

theorem refuseHeld_heats (h : Nat) : (refuseHeld s h).heats = s.heats := by
  have all (l : List (Nat × Packet)) (u : State) : (l.foldl (fun s x => sendNak s x.2 nakResetting) u).heats = u.heats := by
    induction l generalizing u with
    | nil => rfl
    | cons x l ih =>
      refine (ih _).trans ?_
      beta_reduce
      rw [sendNak, sendPacket_frame]
  exact all _ _

/-- Abandoned work leaves a heat's state and its restart. -/
theorem abandonHeatWork_gives (h st : Nat) : (getHeat (abandonHeatWork s h st) h).st = (getHeat s h).st ∧
    (getHeat (abandonHeatWork s h st) h).restart = (getHeat s h).restart := by
  have queues (l : List Nat) (u : State) : SameButContained u (l.foldl (fun s q => abandonQueue s h st q) u) := by
    induction l generalizing u with
    | nil => exact .refl u
    | cons q l ih => exact (sameButContained_abandonQueue u h st q).trans (ih _)
  have cores (l : List Nat) (u : State) : (l.foldl (fun s k => modCore s k haltCore) u).heats = u.heats := by
    induction l generalizing u with
    | nil => rfl
    | cons k l ih => exact ih _
  have clusters (l : List Nat) (u : State) : (l.foldl (fun s c => modCluster s c haltCluster) u).heats = u.heats := by
    induction l generalizing u with
    | nil => rfl
    | cons c l ih => exact ih _
  unfold abandonHeatWork
  extract_lets a b c d e f g i
  have first : SameButContained s a := queues _ s
  have heats : e.heats = a.heats := (refuseHeld_heats d h).trans ((clusters _ b).trans (cores _ a))
  clear_value a e
  have fresh : getHeat f h = { getHeat e h with retained := [] } := by
    simp only [f, freshCollective, getHeat_dset, modHeat_eq, getHeat_setHeat_same]
    rfl
  have same : getHeat i h = getHeat f h := rfl
  clear_value f i
  obtain ⟨x, kept⟩ := first h
  rw [modHeat_eq, getHeat_setHeat_same, same, fresh, getHeat_congr heats h, kept]
  exact ⟨rfl, rfl⟩

/-- A heat that enters RESTARTING, under its number and with what it began by (R456). -/
theorem enterRestarting_gives (h no origin cls cause : Nat) (fenced : Bool) :
    (getHeat (enterRestarting s h no origin cls cause fenced) h).st = .restarting ∧
    ∃ lap l, (getHeat (enterRestarting s h no origin cls cause fenced) h).restart =
      { no := no % 2 ^ 16, startLap := lap, origin := origin, cls := cls, cause := cause, reports := l } := by
  unfold enterRestarting
  extract_lets x a b c
  have stage : (getHeat b h).st = .restarting := by
    simp only [b]
    split
    · next already => exact (abandonHeatWork_gives s h _).1.trans already
    · exact setHState_st _ h .restarting
  clear_value b
  have entered : getHeat c h = { getHeat b h with restart := {
      no := no % 2 ^ 16, startLap := b.lapStarts, origin := origin, cls := cls, cause := cause
      reports := x.restart.reports.filter (·.no = no % 2 ^ 16) } } := by
    simp only [c, modHeat_eq, getHeat_setHeat_same]
  clear_value c
  rw [getHeat_dset, entered]
  exact ⟨stage, _, _, rfl⟩

end

/-! ## A heat's restart that goes on -/

/-- Two states whose heat `h` differs in containment and in how far its restart has come in fetching its snapshot. -/
def Fetching (h : Nat) (s t : State) : Prop :=
  ∃ c r, getHeat t h = { getHeat s h with contained := c, restart := r } ∧
    r = { (getHeat s h).restart with
      restoring := r.restoring, fromBuddy := r.fromBuddy, reading := r.reading, rem := r.rem, acks := r.acks }

/-- The same, and in what the lead decided and the lap chosen. -/
def Deciding (h : Nat) (s t : State) : Prop :=
  ∃ c r, getHeat t h = { getHeat s h with contained := c, restart := r } ∧
    r = { (getHeat s h).restart with
      restoring := r.restoring, fromBuddy := r.fromBuddy, reading := r.reading, rem := r.rem, acks := r.acks
      chosen := r.chosen, restoreSent := r.restoreSent, noSnapshot := r.noSnapshot }

theorem Fetching.of_same {h : Nat} {s t : State} (same : SameButContained s t) : Fetching h s t := by
  obtain ⟨c, kept⟩ := same h
  exact ⟨c, _, kept, rfl⟩

theorem Fetching.refl (h : Nat) (s : State) : Fetching h s s := .of_same (.refl s)

theorem Fetching.of_heats {h : Nat} {s t : State} (same : t.heats = s.heats) : Fetching h s t := .of_same (.of_heats same)

theorem Fetching.trans {h : Nat} {s t u : State} (a : Fetching h s t) (b : Fetching h t u) : Fetching h s u := by
  obtain ⟨c, r, first, kept⟩ := a
  obtain ⟨d, x, second, kept'⟩ := b
  refine ⟨d, x, by rw [second, first], ?_⟩
  rw [first] at kept'
  rw [kept', kept]

theorem Fetching.deciding {h : Nat} {s t : State} (a : Fetching h s t) : Deciding h s t := by
  obtain ⟨c, r, first, kept⟩ := a
  refine ⟨c, r, first, ?_⟩
  rw [kept]

theorem Deciding.trans {h : Nat} {s t u : State} (a : Deciding h s t) (b : Deciding h t u) : Deciding h s u := by
  obtain ⟨c, r, first, kept⟩ := a
  obtain ⟨d, x, second, kept'⟩ := b
  refine ⟨d, x, by rw [second, first], ?_⟩
  rw [first] at kept'
  rw [kept', kept]

theorem NoticeFrame.fetching {s t : State} (frame : NoticeFrame s t) (h : Nat) : Fetching h s t := .of_heats (by rw [frame.whole])

theorem getHeat_modRestart (s : State) (h : Nat) (f : Restart → Restart) :
    getHeat (modRestart s h f) h = { getHeat s h with restart := f (getHeat s h).restart } := by
  rw [modRestart, modHeat_eq, getHeat_setHeat_same]

section
variable (s : State) (h : Nat)

theorem fetching_restoreStuck : Fetching h s (restoreStuck s h) := by
  unfold restoreStuck
  extract_lets u
  have stopped : Fetching h s u := ⟨_, _, by rw [show u = modRestart s h fun r => { r with restoring := false } from rfl,
      getHeat_modRestart], rfl⟩
  clear_value u
  exact stopped.trans ((Fetching.of_heats rfl).trans (.of_same (sameButContained_raise _ _)))

theorem fetching_setHeatRem (m : Remote) (acks : Nat) : Fetching h s (setHeatRem s h false m acks) := by
  refine ⟨(getHeat s h).contained, { (getHeat s h).restart with rem := m, acks := acks }, ?_, rfl⟩
  rw [setHeatRem, modHeat_eq, getHeat_setHeat_same]
  rfl

theorem sendTxns_heats (o : Nat × Packet → TxnOwner) (l : List (Nat × Packet)) (u : State) :
    (l.foldl (fun s k => sendTxn s (o k) k.2) u).heats = u.heats := by
  induction l generalizing u with
  | nil => rfl
  | cons k l ih =>
    refine (ih _).trans ?_
    obtain ⟨x, sent⟩ := sendTxn_frame u (o k) k.2
    beta_reduce
    rw [sent]

theorem fetching_queueHeatPackets (l : List (Nat × Packet)) : Fetching h s (queueHeatPackets s h false l) := by
  unfold queueHeatPackets pumpHeat
  extract_lets r q m
  exact (fetching_setHeatRem s h _ _).trans ((fetching_setHeatRem _ h _ _).trans (.of_heats (sendTxns_heats _ _ _)))

theorem fetching_restoreFromBuddy : Fetching h s (restoreFromBuddy s h) := by
  unfold restoreFromBuddy
  split
  · exact fetching_restoreStuck s h
  · extract_lets u
    have reading : Fetching h s u := ⟨_, _, getHeat_modRestart s h _, rfl⟩
    exact reading.trans (fetching_queueHeatPackets u h _)

/-- A member told to restore a lap has chosen it (R459). -/
theorem beginRestore_gives (lap : Nat) : Deciding h s (beginRestore s h lap) ∧
    (getHeat (beginRestore s h lap) h).restart.chosen = some lap ∧
    (getHeat (beginRestore s h lap) h).restart.restoreSent = (getHeat s h).restart.restoreSent := by
  unfold beginRestore
  extract_lets u r
  have chosen : getHeat u h = { getHeat s h with restart := { (getHeat s h).restart with chosen := some lap, restoring := true } } :=
    getHeat_modRestart _ h _
  clear_value u
  have rest {t : State} (fetch : Fetching h u t) : Deciding h s t ∧ (getHeat t h).restart.chosen = some lap ∧
      (getHeat t h).restart.restoreSent = (getHeat s h).restart.restoreSent := by
    have all : Deciding h s t := Deciding.trans (t := u) ⟨_, _, chosen, rfl⟩ fetch.deciding
    obtain ⟨c, x, gives, kept⟩ := fetch
    refine ⟨all, ?_, ?_⟩ <;> rw [gives] <;> dsimp only <;> rw [kept, chosen]
  have read : Fetching h u r.1 := .of_same (readKeeps_checkRead u _ _).heats
  split
  · exact rest (fetching_restoreFromBuddy u h)
  · split
    · exact rest read
    · exact rest (read.trans (fetching_restoreFromBuddy _ h))

/-- RESTORE at a member in the restart that has chosen nothing yet. -/
theorem actRestore_of_waiting {s : State} {h : Nat} {n : Notice} (restarting : (getHeat s h).st = .restarting)
    (number : n.restartNo = (getHeat s h).restart.no) (none_ : (getHeat s h).restart.chosen = none) :
    actRestore s h n = beginRestore s h n.lapA := by
  have can : canRestart s h = true := by rw [canRestart, restarting]
  unfold actRestore
  extract_lets r
  have same : r.no = n.restartNo := number.symm
  have chosen : r.chosen = none := none_
  rw [can, if_neg (by simp [same]), if_pos same, restarting, chosen]
  rfl

/-! ## The lead's decision -/

/-- The lead sends RESTORE for the common lap, and restores it itself. -/
theorem sendRestore_gives {s : State} {h : Nat} (lap : Nat) (restarting : (getHeat s h).st = .restarting)
    (none_ : (getHeat s h).restart.chosen = none) : Deciding h s (sendRestore s h lap) ∧
    (getHeat (sendRestore s h lap) h).restart.chosen = some lap ∧
    (getHeat (sendRestore s h lap) h).restart.restoreSent = some s.lapStarts := by
  unfold sendRestore
  extract_lets a b blank r
  have sent : getHeat a h = { getHeat s h with restart := { (getHeat s h).restart with restoreSent := some s.lapStarts } } :=
    getHeat_modRestart _ h _
  clear_value a
  have events : NoticeFrame a b := .foldl (fun u (m : Nat) => noticeFrame_jobEvent u h jeSpare m lap) _ a
  have notice : NoticeFrame b r.1 := noticeFrame_sendNotice b h _
  have number : r.2.restartNo = (getHeat r.1 h).restart.no := by
    rw [notice.getHeat]
    rfl
  have same : getHeat r.1 h = getHeat a h := (events.trans notice).getHeat h
  have acts : actRestore r.1 h r.2 = beginRestore r.1 h lap :=
    actRestore_of_waiting (by rw [same, sent]; exact restarting) number (by rw [same, sent]; exact none_)
  obtain ⟨deciding, chosen, restoreSent⟩ := beginRestore_gives r.1 h lap
  rw [acts]
  refine ⟨Deciding.trans (t := a) ⟨_, _, sent, rfl⟩ (((events.trans notice).fetching h).deciding.trans deciding), chosen, ?_⟩
  rw [restoreSent, same, sent]

/-- The restart stays for want of a common lap. -/
theorem sendNoSnapshot_gives : Deciding h s (sendNoSnapshot s h) ∧ (getHeat (sendNoSnapshot s h) h).restart.noSnapshot = true ∧
    dget (sendNoSnapshot s h) (hSnap h) 0x10 = 5 := by
  unfold sendNoSnapshot
  extract_lets a
  have event : NoticeFrame s a := noticeFrame_jobEvent s h _ _ _
  have notice : NoticeFrame a (sendNotice a h (blankNotice a h nkNoSnapshot)).1 := noticeFrame_sendNotice a h _
  have stays : getHeat (noSnapshotState (sendNotice a h (blankNotice a h nkNoSnapshot)).1 h) h =
      { getHeat (sendNotice a h (blankNotice a h nkNoSnapshot)).1 h with
        restart := { (getHeat (sendNotice a h (blankNotice a h nkNoSnapshot)).1 h).restart with noSnapshot := true } } :=
    getHeat_modRestart _ h _
  refine ⟨((event.trans notice).fetching h).deciding.trans ⟨_, _, stays, rfl⟩, by rw [stays], ?_⟩
  exact dget_dset_same (sendNotice a h (blankNotice a h nkNoSnapshot)).1 (hSnap h) 0x10 5

/-- What the lead's decision leaves of its heat. -/
theorem deciding_decideRestore (waitOver : Bool) : Deciding h s (decideRestore s h waitOver) := by
  unfold decideRestore
  extract_lets r all
  split
  · exact (Fetching.refl h s).deciding
  · next goes =>
    simp only [Bool.or_eq_true, not_or, bne_iff_ne, ne_eq, Classical.not_not, Option.isSome_iff_ne_none] at goes
    obtain ⟨⟨⟨restarting, -⟩, none_⟩, -⟩ := goes
    split
    · exact (sendRestore_gives _ restarting none_).1
    · split
      · exact (sendNoSnapshot_gives s h).1
      · exact (Fetching.refl h s).deciding

/-- The lead of an undecided restart decides once its wait is over (R458). -/
theorem decided_decideRestore {s : State} {h : Nat} (open_ : undecided s h) : Decided s (decideRestore s h true) h := by
  obtain ⟨restarting, unsent, none_, found⟩ := open_
  unfold Decided decideRestore
  extract_lets r all
  have goes : ¬ ((getHeat s h).st != .restarting || r.restoreSent.isSome || r.chosen.isSome || r.noSnapshot) = true := by
    simp [r, restarting, unsent, none_, found]
  rw [if_neg goes]
  have same : (if all then commonLap r else none) = if jobMembers s h ≤ (subjects r).length then commonLap r else none := by
    simp only [all, decide_eq_true_eq]
  rw [same]
  cases (if jobMembers s h ≤ (subjects r).length then commonLap r else none) with
  | some l => exact (sendRestore_gives l restarting none_).2
  | none =>
    simp only [Bool.or_true, if_true]
    exact (sendNoSnapshot_gives s h).2

/-! ## Reports -/

theorem getHeat_addReport (n : Notice) : getHeat (addReport s h n) h = { getHeat s h with
    restart := { (getHeat s h).restart with
      reports := (getHeat s h).restart.reports ++ [{
        no := n.restartNo, subject := n.subject, sender := n.origin, onBehalf := n.onBehalf, lapA := n.lapA, lapB := n.lapB }] } } :=
  getHeat_modRestart s h _

/-- A member that is not the lead keeps the report. -/
theorem actInventory_of_member {s : State} {h : Nat} {n : Notice} (member : leads s h = false) : actInventory s h n = addReport s h n := by
  have still : leads (addReport s h n) h = leads s h := by
    rw [leads, leads, getHeat_addReport]
    rfl
  unfold actInventory
  dsimp only
  rw [still, member]
  rfl

/-- INVENTORY of the member itself: its state and the restart's number and origin stay. -/
theorem announceRestart_gives : (getHeat (announceRestart s h) h).st = (getHeat s h).st ∧
    (getHeat (announceRestart s h) h).restart.no = (getHeat s h).restart.no ∧
    (getHeat (announceRestart s h) h).restart.origin = (getHeat s h).restart.origin := by
  unfold announceRestart
  extract_lets a
  have event : NoticeFrame s a := by
    simp only [a]
    split
    · exact noticeFrame_jobEvent s h _ _ _
    · exact .refl s
  clear_value a
  unfold sendInventory
  extract_lets l blank r
  have notice : NoticeFrame s r.1 := event.trans (noticeFrame_sendNotice a h _)
  unfold actInventory
  extract_lets u
  have kept : getHeat u h = _ := getHeat_addReport r.1 h r.2
  clear_value u
  have same : Deciding h u (if leads u h && decide (r.2.restartNo = (getHeat u h).restart.no) then decideRestore u h false else u) := by
    split
    · exact deciding_decideRestore u h false
    · exact (Fetching.refl h u).deciding
  obtain ⟨c, x, gives, stays⟩ := same
  rw [gives, stays, kept, notice.getHeat]
  exact ⟨rfl, rfl, rfl⟩

end

end Sys2Proof.Machine
end

section
/-! SUPPORT. The rows of a restart: notices, waits, the restore's end and the resume lap (R455 to R460). -/

namespace Sys2Proof.Machine

/-! ## Notices at a member -/

theorem voidBuddy_heats (s : State) (h : Nat) (n : Notice) : (voidBuddy s h n).heats = s.heats := by
  unfold voidBuddy
  split <;> rfl

/-- FAULT of another member begins the next restart. -/
theorem actFault_of_running {s : State} {h : Nat} {n : Notice} (running : (getHeat s h).st = .running)
    (number : n.restartNo = (getHeat s h).restart.no) : (getHeat (actFault s h n) h).st = .restarting ∧
    (getHeat (actFault s h n) h).restart.no = ((getHeat s h).restart.no + 1) % 2 ^ 16 ∧
    (getHeat (actFault s h n) h).restart.origin = n.origin := by
  unfold actFault
  extract_lets a no b
  have same : getHeat a h = getHeat s h := getHeat_congr (voidBuddy_heats s h n) h
  have can : canRestart a h = true := by rw [canRestart, same, running]
  have number' : n.restartNo = no := by
    simp only [no]
    rw [same]
    exact number
  rw [if_neg (by simp [can, number'])]
  obtain ⟨stage, lap, l, restart⟩ := enterRestarting_gives b h (no + 1) n.origin n.cls n.cause false
  obtain ⟨st, no', origin⟩ := announceRestart_gives (enterRestarting b h (no + 1) n.origin n.cls n.cause false) h
  refine ⟨st.trans stage, ?_, ?_⟩
  · rw [no', restart]
    simp only [no]
    rw [same]
  · rw [origin, restart]

/-- RESTORED at a member: its sender is noted, and what else the heat is stays. -/
theorem actRestored_gives {s : State} {h : Nat} {n : Notice} (number : n.restartNo = (getHeat s h).restart.no) :
    (getHeat (actRestored s h n) h).st = (getHeat s h).st ∧
    (getHeat (actRestored s h n) h).restart.restored = (getHeat s h).restart.restored ∧
    n.origin ∈ (getHeat (actRestored s h n) h).restart.done ∧
    (leads s h = false → (getHeat (actRestored s h n) h).restart.resume = (getHeat s h).restart.resume) ∧
    (∀ i sub, dget (actRestored s h n) i sub = dget s i sub) ∧ (actRestored s h n).queues = s.queues := by
  unfold actRestored
  extract_lets r a d b blank x
  rw [if_neg (by simp [r, number])]
  have noted : getHeat a h = { getHeat s h with
      restart := { (getHeat s h).restart with done := if r.done.contains n.origin then r.done else n.origin :: r.done } } :=
    getHeat_modRestart s h _
  have here : n.origin ∈ (getHeat a h).restart.done := by
    rw [noted]
    dsimp only
    split
    · next there => exact List.contains_iff_mem.mp there
    · exact List.mem_cons_self
  have lead : leads a h = leads s h := by
    rw [leads, leads, noted]
    rfl
  have entries (i sub : Nat) : dget a i sub = dget s i sub := rfl
  have queues : a.queues = s.queues := rfl
  clear_value a
  split
  · next leader =>
    have frame : NoticeFrame a x.1 := (noticeFrame_jobEvent a h _ _ _).trans (noticeFrame_sendNotice b h _)
    have resumes : ∃ l, getHeat (actResume x.1 h x.2) h = { getHeat x.1 h with restart := { (getHeat x.1 h).restart with resume := l }
        } := by
      unfold actResume
      split
      · exact ⟨_, getHeat_modRestart x.1 h _⟩
      · exact ⟨(getHeat x.1 h).restart.resume, rfl⟩
    have rest : (∀ i sub, dget (actResume x.1 h x.2) i sub = dget x.1 i sub) ∧ (actResume x.1 h x.2).queues = x.1.queues := by
      unfold actResume
      split
      · exact ⟨fun _ _ => rfl, rfl⟩
      · exact ⟨fun _ _ => rfl, rfl⟩
    clear_value x
    obtain ⟨l, gives⟩ := resumes
    rw [gives, frame.getHeat]
    refine ⟨by rw [noted], by rw [noted], here, fun member => ?_, fun i sub => ?_, ?_⟩
    · rw [lead, member] at leader
      exact absurd leader (by simp)
    · rw [rest.1, frame.dget, entries]
    · rw [rest.2, ← queues, frame.whole]
  · exact ⟨by rw [noted], by rw [noted], here, fun _ => by rw [noted], entries, queues⟩

theorem number_of_noticed {s : State} {port h : Nat} {n : Notice} (counts : noticed s port n h) :
    n.restartNo = (getHeat s h).restart.no := by
  obtain ⟨-, -, -, -, number⟩ := counts
  exact number

/-- Settles O47: each notice is taken, and acts on its heat. -/
theorem noticesAct : Obligations.NoticesAct := by
  unfold Obligations.NoticesAct
  intro s port h n r to_
  refine ⟨fun counts running => ?_, fun counts member => ?_, fun counts restarting none_ => ?_, fun counts member => ?_,
    fun counts => ?_, fun counts restarting => ?_⟩
  · obtain ⟨u, frame, acts⟩ := takeNotice_of_noticed counts actFault
    have ran : exec (.fault port n) s = .next (takeNotice s port (to_ nkFault) actFault) := rfl
    have same := frame.getHeat h
    obtain ⟨st, no, origin⟩ := actFault_of_running (n := to_ nkFault) (s := u) (h := h) (by rw [same]; exact running)
      (by rw [same]; exact number_of_noticed counts)
    refine ⟨_, ran, ?_⟩
    rw [acts]
    exact ⟨st, by rw [no, same], origin⟩
  · obtain ⟨u, frame, acts⟩ := takeNotice_of_noticed counts actInventory
    have ran : exec (.inventory port n) s = .next (takeNotice s port (to_ nkInventory) actInventory) := rfl
    refine ⟨_, ran, ?_⟩
    rw [acts, actInventory_of_member (by rw [frame.leads]; exact member), getHeat_addReport, frame.getHeat]
  · obtain ⟨u, frame, acts⟩ := takeNotice_of_noticed counts actRestore
    have ran : exec (.restore port n) s = .next (takeNotice s port (to_ nkRestore) actRestore) := rfl
    have same := frame.getHeat h
    have begins : actRestore u h (to_ nkRestore) = beginRestore u h n.lapA :=
      actRestore_of_waiting (by rw [same]; exact restarting) (by rw [same]; exact number_of_noticed counts) (by rw [same]; exact none_)
    obtain ⟨⟨c, x, gives, -⟩, chosen, -⟩ := beginRestore_gives u h n.lapA
    refine ⟨_, ran, ?_⟩
    rw [acts, begins]
    refine ⟨chosen, ?_⟩
    rw [gives, same]
    exact restarting
  · obtain ⟨u, frame, acts⟩ := takeNotice_of_noticed counts actRestored
    have ran : exec (.restored port n) s = .next (takeNotice s port (to_ nkRestored) actRestored) := rfl
    have same := frame.getHeat h
    obtain ⟨-, -, done_, resume, -, -⟩ := actRestored_gives (n := to_ nkRestored) (s := u) (h := h)
        (by rw [same]; exact number_of_noticed counts)
    refine ⟨_, ran, ?_⟩
    rw [acts]
    exact ⟨done_, by rw [resume (by rw [frame.leads]; exact member), same]⟩
  · obtain ⟨u, frame, acts⟩ := takeNotice_of_noticed counts actResume
    have ran : exec (.noticeResume port n) s = .next (takeNotice s port (to_ nkResume) actResume) := rfl
    have same := frame.getHeat h
    refine ⟨_, ran, ?_⟩
    rw [acts, actResume, if_pos (by rw [same]; exact number_of_noticed counts), getHeat_modRestart, same]
  · let act : State → Nat → Notice → State := fun s h n =>
      if n.restartNo = (getHeat s h).restart.no && (getHeat s h).st = .restarting then noSnapshotState s h else s
    obtain ⟨u, frame, acts⟩ := takeNotice_of_noticed counts act
    have ran : exec (.noSnapshot port n) s = .next (takeNotice s port (to_ nkNoSnapshot) act) := rfl
    have same := frame.getHeat h
    have number : (to_ nkNoSnapshot).restartNo = (getHeat u h).restart.no := by rw [same]; exact number_of_noticed counts
    have stays : act u h (to_ nkNoSnapshot) = noSnapshotState u h := by
      simp only [act]
      rw [if_pos (by simp [number, same, restarting])]
    refine ⟨_, ran, ?_⟩
    rw [acts, stays]
    refine ⟨?_, dget_dset_same u (hSnap h) 0x10 5⟩
    rw [noSnapshotState, getHeat_modRestart, getHeat_dset, same]

/-! ## Restores written back -/

/-- What a restore leaves of a heat: its state, its restart and what it was at the fault. -/
structure RestoreKeeps (h : Nat) (s t : State) : Prop where
  st : (getHeat t h).st = (getHeat s h).st
  atFault : (getHeat t h).atFault = (getHeat s h).atFault
  restart : (getHeat t h).restart = (getHeat s h).restart

namespace RestoreKeeps

variable {h : Nat}

theorem refl (s : State) : RestoreKeeps h s s := ⟨rfl, rfl, rfl⟩

theorem trans {s t u : State} (a : RestoreKeeps h s t) (b : RestoreKeeps h t u) : RestoreKeeps h s u :=
  ⟨b.st.trans a.st, b.atFault.trans a.atFault, b.restart.trans a.restart⟩

theorem of_heats {s t : State} (same : t.heats = s.heats) : RestoreKeeps h s t := by
  have kept := getHeat_congr same h
  exact ⟨by rw [kept], by rw [kept], by rw [kept]⟩

theorem of_modHeat (s : State) {f : Heat → Heat} (st : (f (getHeat s h)).st = (getHeat s h).st)
    (atFault : (f (getHeat s h)).atFault = (getHeat s h).atFault) (restart : (f (getHeat s h)).restart = (getHeat s h).restart) :
    RestoreKeeps h s (modHeat s h f) := by
  refine ⟨?_, ?_, ?_⟩ <;> rw [modHeat_eq, getHeat_setHeat_same]
  · exact st
  · exact atFault
  · exact restart

end RestoreKeeps

section
variable (s : State) (h : Nat)

theorem replaceRange_heats (a n : Nat) (t : Tab Byte) : (replaceRange s a n t).heats = s.heats := rfl

theorem replaceRange_dict (a n : Nat) (t : Tab Byte) : (replaceRange s a n t).dict = s.dict := rfl

/-- A snapshot written back changes memory and the tables of its heat. -/
theorem applySnapshot_gives (t : Tab Byte) : RestoreKeeps h s (applySnapshot s h t) ∧ (applySnapshot s h t).dict = s.dict := by
  have ranges {α : Type} (a n : α → Nat) (b : α → Tab Byte) (l : List α) (u : State) :
      (l.foldl (fun s r => replaceRange s (a r) (n r) (b r)) u).heats = u.heats ∧
      (l.foldl (fun s r => replaceRange s (a r) (n r) (b r)) u).dict = u.dict := by
    induction l generalizing u with
    | nil => exact ⟨rfl, rfl⟩
    | cons r l ih => exact ⟨(ih _).1.trans (replaceRange_heats _ _ _ _), (ih _).2.trans (replaceRange_dict _ _ _ _)⟩
  have block : RestoreKeeps h s (restoreBlock s h (sliceTab t 0 blockBytes)) ∧
      (restoreBlock s h (sliceTab t 0 blockBytes)).dict = s.dict := by
    unfold restoreBlock
    extract_lets a b
    have tables : RestoreKeeps h s a := .of_modHeat s rfl rfl rfl
    have dict : a.dict = s.dict := rfl
    clear_value a
    obtain ⟨heats, dict'⟩ := ranges (fun r : Nat × UpdRec => r.2.stat) (fun _ => 64) (fun r => placeNum 0 64 r.2.word) (getHeat b h).recs b
    exact ⟨tables.trans (.of_heats (heats.trans (replaceRange_heats a _ _ _))), dict'.trans ((replaceRange_dict a _ _ _).trans dict)⟩
  unfold applySnapshot
  obtain ⟨heats, dict⟩ := ranges (fun r : Nat × Nat × Nat => r.2.1) (fun r => r.2.2) (fun r => sliceTab t r.1 r.2.2) (regionPlaces s h)
    (restoreBlock s h (sliceTab t 0 blockBytes))
  exact ⟨block.1.trans (.of_heats heats), dict.trans block.2⟩

theorem freshUnits_heats : (freshUnits s h).heats = s.heats ∧ (freshUnits s h).dict = s.dict := by
  have cores (l : List Nat) (u : State) : (l.foldl (fun s k => modCore s k freshCore) u).heats = u.heats ∧
      (l.foldl (fun s k => modCore s k freshCore) u).dict = u.dict := by
    induction l generalizing u with
    | nil => exact ⟨rfl, rfl⟩
    | cons k l ih => exact ih _
  have clusters (l : List Nat) (u : State) : (l.foldl (fun s c => freshCluster s h c) u).heats = u.heats ∧
      (l.foldl (fun s c => freshCluster s h c) u).dict = u.dict := by
    induction l generalizing u with
    | nil => exact ⟨rfl, rfl⟩
    | cons c l ih => exact ih _
  unfold freshUnits
  extract_lets a
  exact ⟨(clusters _ a).1.trans (cores _ s).1, (clusters _ a).2.trans (cores _ s).2⟩

theorem freshCollective_gives : RestoreKeeps h s (freshCollective s h) ∧
    ∀ i sub, sub < 256 → (i ≠ hColl h ∨ sub ≠ 4 ∧ sub ≠ 5) → dget (freshCollective s h) i sub = dget s i sub := by
  unfold freshCollective
  extract_lets a
  have start : RestoreKeeps h s a := .of_heats rfl
  have entries (i sub : Nat) : dget a i sub = dget s i sub := rfl
  clear_value a
  have kept : RestoreKeeps h a (modHeat a h fun x => { x with retained := [] }) := .of_modHeat a rfl rfl rfl
  refine ⟨start.trans (kept.trans (.of_heats rfl)), fun i sub small other => ?_⟩
  rw [dget_dset_ne _ (by decide) small (other.imp id And.right), dget_dset_ne _ (by decide) small (other.imp id And.left), modHeat_eq,
    dget_setHeat, entries]

/-- The initial queue after a restore (R459). -/
theorem restoredQueues_gives : getQueue (restoredQueues s h) (initialQueue s h) =
    { enabled := true, cls := 6, slot := dget s (hCfg h) 0x12, log2 := Nat.log2 (dget s (hCfg h) 0x10)
      ring := dget s (hCfg h) 0x0F, cpl := dget s (hCfg h) 0x11 } :=
  getQueue_setQueue_same _ _ _

theorem initialQueue_congr {s t : State} (same : dget t (hCfg h) 3 = dget s (hCfg h) 3) : initialQueue t h = initialQueue s h := by
  rw [initialQueue, initialQueue, heatClusters, heatClusters, same]

/-- A heat whose snapshot is written back runs again, or stands stopped (R459). -/
theorem finishRestore_gives : (getHeat (finishRestore s h) h).st = (if (getHeat s h).atFault = .running then .running else .stopped) ∧
    (getHeat (finishRestore s h) h).restart.restored = true ∧ dget (finishRestore s h) (hSnap h) 0x10 = 3 ∧
    (getQueue (finishRestore s h) (initialQueue s h)).enabled = true ∧ (getQueue (finishRestore s h) (initialQueue s h)).tail = 0 := by
  unfold finishRestore
  extract_lets r a b c d e f blank n
  obtain ⟨written, dict⟩ : RestoreKeeps h s a ∧ a.dict = s.dict := applySnapshot_gives s h _
  clear_value a
  obtain ⟨unitHeats, unitDict⟩ := freshUnits_heats a h
  obtain ⟨fresh, entries⟩ := freshCollective_gives (freshUnits a h) h
  have queue : (getQueue b (initialQueue s h)).enabled = true ∧ (getQueue b (initialQueue s h)).tail = 0 := by
    have three : dget (freshCollective (freshUnits a h) h) (hCfg h) 3 = dget s (hCfg h) 3 := by
      rw [entries _ _ (by decide) (.inr (by decide)), dget, dget, unitDict, dict]
    simp only [b]
    rw [← initialQueue_congr h three, restoredQueues_gives]
    exact ⟨rfl, rfl⟩
  have kept : RestoreKeeps h a b := RestoreKeeps.trans (.of_heats unitHeats) (fresh.trans (.of_heats rfl))
  clear_value b
  have counted : RestoreKeeps h b c ∧ c.queues = b.queues := ⟨.of_heats rfl, rfl⟩
  clear_value c
  have all := (written.trans kept).trans counted.1
  have restored : (getHeat d h).atFault = (getHeat s h).atFault ∧ (getHeat d h).restart.restored = true ∧ d.queues = c.queues := by
    refine ⟨?_, ?_, rfl⟩ <;> simp only [d] <;> rw [modHeat_eq, getHeat_setHeat_same]
    exact all.atFault
  clear_value d
  have stage : (getHeat e h).st = (if (getHeat s h).atFault = .running then .running else .stopped) := by
    simp only [e]
    rw [setHState_st, restored.1]
  have still : (getHeat e h).restart.restored = true ∧ e.queues = d.queues := by
    obtain ⟨x, ev, m, frame⟩ := setHState_frame d h (if (getHeat d h).atFault = .running then .running else .stopped)
    refine ⟨?_, by simp only [e]; rw [frame]⟩
    obtain ⟨k, same⟩ := sameButContained_raise (modHeat d h fun x => { x with st :=
        if (getHeat d h).atFault = .running then .running else .stopped })
      { code := 0x0701, cls := 0, heat := some h
        detail := bytesOf 1 h ++ bytesOf 1 (getHeat d h).st.code ++
          bytesOf 1 (if (getHeat d h).atFault = .running then HState.running else .stopped).code ++ bytesOf 4 0 } h
    simp only [e]
    rw [setHState, same, modHeat_eq, getHeat_setHeat_same]
    exact restored.2.1
  clear_value e
  have shown : getHeat f h = getHeat e h ∧ f.queues = e.queues ∧ dget f (hSnap h) 0x10 = 3 := by
    have set3 : dget (dset e (hSnap h) 0x10 3) (hSnap h) 0x10 = 3 := dget_dset_same _ _ _ _
    simp only [f]
    unfold endFence
    split
    · exact ⟨rfl, rfl, set3⟩
    · exact ⟨rfl, rfl, (dget_dset_ne _ (by decide) (by decide) (.inr (by decide)) _).trans set3⟩
  clear_value f
  have notice : NoticeFrame f n.1 := noticeFrame_sendNotice f h _
  have number : n.2.restartNo = (getHeat n.1 h).restart.no := by
    rw [notice.getHeat]
    rfl
  obtain ⟨st, keeps, -, -, last, queues⟩ := actRestored_gives number
  have line : (actRestored n.1 h n.2).queues = b.queues := by
    have same : n.1.queues = f.queues := by rw [notice.whole]
    rw [queues, same, shown.2.1, still.2, restored.2.2, counted.2]
  have same : getQueue (actRestored n.1 h n.2) (initialQueue s h) = getQueue b (initialQueue s h) := by
    rw [getQueue, getQueue, line]
  rw [same]
  refine ⟨?_, ?_, ?_, queue⟩
  · rw [st, notice.getHeat, shown.1, stage]
  · rw [keeps, notice.getHeat, shown.1, still.1]
  · rw [last, notice.dget, shown.2.2]

end

/-! ## The waits and the resume lap -/

section
variable {s : State} {h : Nat}

theorem onBehalfTimeout_gives (restarting : (getHeat s h).st = .restarting) (ward : dget s (hSnap h) 8 ≠ 0)
    (silent : ∀ x ∈ (getHeat s h).restart.reports, x.subject = dget s (hSnap h) 8 → x.onBehalf = true)
    (first : (getHeat s h).restart.onBehalfSent = false) (due : (getHeat s h).restart.startLap + 16 ≤ s.lapStarts)
    (member : leads s h = false) : ∃ t, exec (.onBehalfTimeout h) s = .next t ∧ (getHeat t h).restart.onBehalfSent = true ∧
      (getHeat t h).restart.reports = (getHeat s h).restart.reports ++ [{
        no := (getHeat s h).restart.no, subject := dget s (hSnap h) 8, sender := ownChip s, onBehalf := true
        lapA := (newestTwo (wardLaps s h)).1, lapB := (newestTwo (wardLaps s h)).2 }] := by
  have ran : exec (.onBehalfTimeout h) s = execOnBehalfTimeout h s := rfl
  rw [ran]
  unfold execOnBehalfTimeout
  extract_lets x ward' heard l a blank r
  have unheard : heard = false := by
    simp only [heard, List.any_eq_false, Bool.and_eq_true, decide_eq_true_eq, Bool.not_eq_true', not_and, Bool.not_eq_false]
    exact silent
  rw [if_neg (by simp [x, restarting, ward', ward, unheard, first, due])]
  have sent : getHeat a h = { getHeat s h with restart := { (getHeat s h).restart with onBehalfSent := true } } := getHeat_modRestart s h _
  have lead : leads a h = leads s h := by
    rw [leads, leads, sent]
    rfl
  have own : ownChip a = ownChip s := rfl
  clear_value a
  have notice : NoticeFrame a r.1 := noticeFrame_sendNotice a h _
  have same := notice.getHeat h
  refine ⟨_, rfl, ?_⟩
  rw [actInventory_of_member (by rw [notice.leads, lead]; exact member), getHeat_addReport, same, sent]
  refine ⟨rfl, ?_⟩
  have fields : r.2.restartNo = (getHeat s h).restart.no ∧ r.2.origin = ownChip s := by
    refine ⟨?_, own⟩
    change (getHeat a h).restart.no = _
    rw [sent]
  rw [fields.1, fields.2]
  rfl

theorem inventoryWaitExpiry_gives (open_ : undecided s h) (lead : leads s h = true)
    (due : (getHeat s h).restart.startLap + dget s (hSnap h) 0x11 ≤ s.lapStarts) :
    ∃ t, exec (.inventoryWaitExpiry h) s = .next t ∧ Decided s t h := by
  have ran : exec (.inventoryWaitExpiry h) s = execInventoryWaitExpiry h s := rfl
  rw [ran, execInventoryWaitExpiry]
  rw [if_pos (by simp [lead, due])]
  exact ⟨_, rfl, decided_decideRestore open_⟩

theorem leadTimeout_gives (open_ : undecided s h) (lead : actingLead (getHeat s h).restart = some (ownChip s))
    (due : (getHeat s h).restart.startLap + 2 * dget s (hSnap h) 0x11 ≤ s.lapStarts) :
    ∃ t, exec (.leadTimeout h) s = .next t ∧ Decided s t h ∧ (getHeat t h).restart.acting = true := by
  have ran : exec (.leadTimeout h) s = execLeadTimeout h s := rfl
  have acts : getHeat (modRestart s h fun r => { r with acting := true }) h =
      { getHeat s h with restart := { (getHeat s h).restart with acting := true } } := getHeat_modRestart s h _
  have entries : jobMembers (modRestart s h fun r => { r with acting := true }) h = jobMembers s h := rfl
  have laps : (modRestart s h fun r => { r with acting := true }).lapStarts = s.lapStarts := rfl
  obtain ⟨restarting, unsent, none_, found⟩ := open_
  rw [ran]
  unfold execLeadTimeout
  extract_lets x due'
  rw [if_pos (by simp [x, restarting, due', due, none_, found, lead])]
  generalize modRestart s h (fun r => { r with acting := true }) = u at *
  refine ⟨_, rfl, ?_, ?_⟩
  · have decided : Decided u (decideRestore u h true) h :=
      decided_decideRestore ⟨by rw [acts]; exact restarting, by rw [acts]; exact unsent, by rw [acts]; exact none_, by rw [acts]; exact found⟩
    have same : (if jobMembers u h ≤ (subjects (getHeat u h).restart).length then commonLap (getHeat u h).restart else none) =
        if jobMembers s h ≤ (subjects (getHeat s h).restart).length then commonLap (getHeat s h).restart else none := by
      rw [entries, acts]
      rfl
    simp only [Decided, same, laps] at decided
    exact decided
  · obtain ⟨c, r, gives, stays⟩ := deciding_decideRestore u h true
    rw [gives, stays, acts]

theorem restoreRepeat_gives {x l : Nat} (sent : (getHeat s h).restart.restoreSent = some x)
    (chosen : (getHeat s h).restart.chosen = some l) (lead : leads s h = true) (due : x + 64 ≤ s.lapStarts)
    (missing : (getHeat s h).restart.done.length < jobMembers s h) : ∃ t, exec (.restoreRepeat h) s = .next t ∧
      (getHeat t h).restart = { (getHeat s h).restart with restoreSent := some s.lapStarts } ∧ t.noticeSeq = s.noticeSeq + 1 := by
  have ran : exec (.restoreRepeat h) s = execRestoreRepeat h s := rfl
  rw [ran]
  unfold execRestoreRepeat
  extract_lets r
  rw [show r.restoreSent = some x from sent, show r.chosen = some l from chosen]
  dsimp only
  rw [if_pos (by simp [r, lead, due, missing])]
  refine ⟨_, rfl, ?_, ?_⟩
  · rw [(noticeFrame_sendNotice _ h _).getHeat, getHeat_modRestart, ← chosen]
  · rw [sendNotice_seq]
    rfl

theorem exec_restoreComplete_of_ready (restarting : (getHeat s h).st = .restarting) (ready : restoreReady s h = true)
    (whole : takeoverAwaited s h = false) : exec (.restoreComplete h) s =
      if !(heatClusters s h).all (clusterActive s) then .next (dset s (hSnap h) 0x10 4)
      else if !discoveryOk s h then .next s else .next (finishRestore s h) := by
  change execRestoreComplete h s = _
  rw [execRestoreComplete, if_neg (by simp [restarting, ready, whole])]

theorem readKeeps_writeRestartRecord (s : State) (h resume : Nat) : ReadKeeps s (writeRestartRecord s h resume) := by
  unfold writeRestartRecord
  extract_lets a
  split
  · exact readKeeps_storeStack s _ _
  · exact readKeeps_raise s _

/-- A doorbell counts at sub-index 7 at most. -/
theorem dget_ringDoorbell (s : State) (a : Agent) (q t : Nat) {i sub : Nat} (small : sub < 256) (other : sub ≠ 7) :
    dget (ringDoorbell s a q t).1 i sub = dget s i sub := by
  have refused : dget (refuseDoorbell s q) i sub = dget s i sub := by
    unfold refuseDoorbell
    dsimp only
    split
    · exact dget_dset_ne _ (by decide) small (.inr other) _
    · rfl
  simp only [ringDoorbell]
  split
  · exact refused
  · split
    · split
      · rfl
      · split
        · rfl
        · exact refused
    · exact refused

theorem resumeLap_gives {l : Nat} (resume : (getHeat s h).restart.resume = some l) (due : l ≤ s.lap) (free : eventsHeld s = false)
    (restored : (getHeat s h).restart.restored = true) (stands : (getHeat s h).st = .running ∨ (getHeat s h).st = .stopped) :
    ∃ t, exec (.resumeLap h) s = .next t ∧ (getHeat t h).restart.resume = none ∧ Counted s t (hCfg h) 0x13 ∧
      dget t (hSnap h) 0x10 = 0 := by
  have ran : exec (.resumeLap h) s = execResumeLap h s := rfl
  rw [ran]
  unfold execResumeLap
  dsimp only
  rw [resume]
  dsimp only
  rw [if_neg (by rcases stands with st | st <;> simp [due, free, restored, st])]
  have record := readKeeps_writeRestartRecord s h l
  generalize writeRestartRecord s h l = a at *
  have bell : dget (ringDoorbell a .mgmt (initialQueue a h) (dget a (hSnap h) 0x0E)).1 (hCfg h) 0x13 = dget s (hCfg h) 0x13 :=
    (dget_ringDoorbell a _ _ _ (by decide) (by decide)).trans (record.dict _ _ (by decide) (by decide))
  generalize (ringDoorbell a .mgmt (initialQueue a h) (dget a (hSnap h) 0x0E)).1 = b at *
  have apart_ : hCfg h ≠ hSnap h := by
    unfold hCfg hSnap
    omega
  have counted : dget (dset (dadd b (hCfg h) 0x13 1) (hSnap h) 0x10 0) (hCfg h) 0x13 = min (dget s (hCfg h) 0x13 + 1) (dmax (hCfg h)
      0x13) := by
    rw [dget_dset_ne _ (by decide) (by decide) (.inl apart_), dadd_eq, dget_dset_same, bell]
  have cleared : dget (dset (dadd b (hCfg h) 0x13 1) (hSnap h) 0x10 0) (hSnap h) 0x10 = 0 := dget_dset_same _ _ _ _
  generalize dset (dadd b (hCfg h) 0x13 1) (hSnap h) 0x10 0 = c at *
  have resumed : (getHeat (modRestart c h fun r => { r with resume := none }) h).restart.resume = none := by
    rw [getHeat_modRestart]
  have entries (i sub : Nat) : dget (modRestart c h fun r => { r with resume := none }) i sub = dget c i sub := rfl
  generalize modRestart c h (fun r => { r with resume := none }) = d at *
  have last : NoticeFrame d (if leads d h then jobEvent d h jeResumed (ownChip d) l else d) := by
    split
    · exact noticeFrame_jobEvent d h _ _ _
    · exact .refl d
  refine ⟨_, rfl, ?_, ?_, ?_⟩
  · rw [last.getHeat, resumed]
  · rw [Counted, last.dget, entries, counted]
  · rw [last.dget, entries, cleared]

end

/-- Settles O48: the waits, the restore's end, and the resume lap. -/
theorem restartWaits : Obligations.RestartWaits := by
  unfold Obligations.RestartWaits
  refine ⟨fun s h => ?_, fun s h => ⟨fun restarting ready whole => ⟨fun all found => ?_, fun missing => ?_⟩,
    fun l resume due free restored stands => resumeLap_gives resume due free restored stands⟩⟩
  · intro r ward wait
    exact ⟨fun restarting some_ silent first due member => onBehalfTimeout_gives restarting some_ silent first due member,
      fun open_ lead due => inventoryWaitExpiry_gives open_ lead due, fun open_ lead due => leadTimeout_gives open_ lead due,
      fun x l sent chosen lead due missing => restoreRepeat_gives sent chosen lead due missing⟩
  · refine ⟨_, ?_, finishRestore_gives s h⟩
    rw [exec_restoreComplete_of_ready restarting ready whole, all, found]
    rfl
  · refine ⟨_, ?_, rfl, dget_dset_same s (hSnap h) 0x10 4⟩
    rw [exec_restoreComplete_of_ready restarting ready whole, missing]
    rfl

end Sys2Proof.Machine
end

section
/-! SUPPORT. The steps of a snapshot (R452, R453). -/

namespace Sys2Proof.Machine

/-! ## The laps of the own copy and the buddy's -/

theorem length_domGet_domPut (s : State) (i sub v : Nat) {total w n : Nat} (inside : w * n + w ≤ total) (fill : Byte) :
    (domGet (domPut s i sub total w n v fill) i sub).length = total := by
  unfold domPut
  dsimp only
  rw [domGet_domSet_same]
  simp only [List.length_append, List.length_take, List.length_drop, List.length_replicate, length_bytesOf]
  omega

/-- A number written to a full DOMAIN entry leaves the entry's other numbers. -/
theorem domNum_domPut_ne {s : State} {i sub total : Nat} (full : (domGet s i sub).length = total) (v : Nat) {w n k : Nat}
    (inside : w * n + w ≤ total) (other : w * k + w ≤ w * n ∨ w * n + w ≤ w * k) (fill : Byte) :
    domNum (domPut s i sub total w n v fill) i sub w k = domNum s i sub w k := by
  unfold domNum domPut
  dsimp only
  rw [domGet_domSet_same]
  generalize domGet s i sub = l at full
  rw [full, Nat.sub_self, List.replicate_zero, List.append_nil, List.take_of_length_le (l := l) (i := total) (by omega)]
  have left : (l.take (w * n)).length = w * n := by rw [List.length_take]; omega
  have cut : sliceBytes (l.take (w * n) ++ bytesOf w v ++ l.drop (w * n + w)) (w * k) w = sliceBytes l (w * k) w := by
    unfold sliceBytes fitBytes
    apply List.ext_getElem?
    intro j
    simp only [List.getElem?_take, List.getElem?_append, List.getElem?_drop, List.length_append, List.length_drop, left,
      length_bytesOf, full, zeros]
    split
    · rcases other with before | after
      · have low : w * k + j < w * n := by omega
        have here : j < total - w * k := by omega
        rw [if_pos (by omega), if_pos (by omega), if_pos low, if_pos low, if_pos here]
      · have high : ¬ w * k + j < w * n + w := by omega
        have same : w * n + w + (w * k + j - (w * n + w)) = w * k + j := by omega
        have rest : w * n + w + (total - (w * n + w)) = total := by omega
        rw [if_neg high, same, rest]
    · rfl
  rw [natAt, natAt, cut]

theorem snapLap_setSnapLap_none (s : State) (h : Nat) {i : Nat} (inside : i < 4) : snapLap (setSnapLap s h i none) h i = none := by
  have none_ : domNum (setSnapLap s h i none) (hSnap h) 0x0F 6 i = noLap :=
    (domNum_domPut_same s (hSnap h) 0x0F noLap (by omega) 0xFF#8).trans (by decide)
  rw [snapLap, none_, if_pos (by simp)]

theorem snapLap_setSnapLap_some (s : State) (h : Nat) {i lap : Nat} (inside : i < 4) (small : lap < noLap) :
    snapLap (setSnapLap s h i (some lap)) h i = some lap := by
  have fits : lap % 256 ^ 6 = lap := Nat.mod_eq_of_lt (by unfold noLap at small; omega)
  have stored : domNum (setSnapLap s h i (some lap)) (hSnap h) 0x0F 6 i = lap :=
    (domNum_domPut_same s (hSnap h) 0x0F lap (by omega) 0xFF#8).trans fits
  have full : (domGet (setSnapLap s h i (some lap)) (hSnap h) 0x0F).length = 24 :=
    length_domGet_domPut s (hSnap h) 0x0F lap (by omega) 0xFF#8
  have present : (domGet (setSnapLap s h i (some lap)) (hSnap h) 0x0F).isEmpty = false := by
    cases kept : domGet (setSnapLap s h i (some lap)) (hSnap h) 0x0F with
    | nil => simp [kept] at full
    | cons _ _ => rfl
  rw [snapLap, stored, present, if_neg (by simp; omega)]

theorem snapLap_setSnapLap_ne {s : State} {h : Nat} (i j : Nat) (full : (domGet s (hSnap h) 0x0F).length = 24) (inside : i < 4)
    (other : j ≠ i) (lap : Option Nat) : snapLap (setSnapLap s h i lap) h j = snapLap s h j := by
  have same : domNum (setSnapLap s h i lap) (hSnap h) 0x0F 6 j = domNum s (hSnap h) 0x0F 6 j :=
    domNum_domPut_ne full _ (by omega) (by omega) 0xFF#8
  have length : (domGet (setSnapLap s h i lap) (hSnap h) 0x0F).length = 24 :=
    length_domGet_domPut s (hSnap h) 0x0F (lap.getD noLap) (by omega) 0xFF#8
  have present {l : List Byte} (full : l.length = 24) : l.isEmpty = false := by
    cases l with
    | nil => simp at full
    | cons _ _ => rfl
  rw [snapLap, snapLap, same, present length, present full]

theorem length_setSnapLap (s : State) (h : Nat) {i : Nat} (inside : i < 4) (lap : Option Nat) :
    (domGet (setSnapLap s h i lap) (hSnap h) 0x0F).length = 24 :=
  length_domGet_domPut s (hSnap h) 0x0F (lap.getD noLap) (by omega) 0xFF#8

theorem snapLap_congr {s t : State} (same : t.dom = s.dom) (h i : Nat) : snapLap t h i = snapLap s h i := by
  rw [snapLap, snapLap, domNum, domNum, domGet, domGet, same]

theorem getHeat_modHeat (s : State) (h : Nat) (f : Heat → Heat) : getHeat (modHeat s h f) h = f (getHeat s h) := by
  rw [modHeat_eq, getHeat_setHeat_same]

/-! ## A snapshot begun -/

section
variable (s : State) (h : Nat)

/-- A snapshot that has begun waits for its state block, or has it. -/
theorem captureBlock_gives {n : Snap} (taken : (getHeat s h).snap = some n) (begun : n.phase = 0) :
    ∃ p b, p ≤ 1 ∧ getHeat (captureBlock s h) h = { getHeat s h with snap := some { n with phase := p, block := b } } ∧
      (captureBlock s h).dom = s.dom := by
  unfold captureBlock
  rw [taken]
  dsimp only
  split
  · exact ⟨1, stateBlock s h, Nat.le_refl 1, getHeat_modHeat s h _, rfl⟩
  · refine ⟨0, n.block, Nat.zero_le 1, ?_, rfl⟩
    have self : { n with phase := 0, block := n.block } = n := by
      rw [← begun]
    rw [self, ← taken]

theorem captureBlock_of_phase {n : Snap} (taken : (getHeat s h).snap = some n) (later : n.phase ≠ 0) : captureBlock s h = s := by
  unfold captureBlock
  rw [taken]
  dsimp only
  rw [if_neg (by simp [later])]

theorem beginSnapshot_gives : ∃ n, (getHeat (beginSnapshot s h) h).snap = some n ∧ n.lap = s.lap ∧ n.phase ≤ 1 ∧
    n.number = (getHeat s h).snapCount ∧ snapLap (beginSnapshot s h) h 0 = none ∧
    (getHeat (beginSnapshot s h) h).lastSnapLap = (getHeat s h).lastSnapLap := by
  unfold beginSnapshot
  extract_lets a b
  have kept : getHeat a h = getHeat s h := getHeat_congr rfl h
  have lap : a.lap = s.lap := rfl
  clear_value a
  have begun : getHeat b h = { getHeat s h with
      snap := some { lap := a.lap, phase := 0, number := (getHeat s h).snapCount, slot := (getHeat s h).snapCount % buddySlots a h }
      snapCount := (getHeat s h).snapCount + 1 } := by
    rw [← kept]
    exact getHeat_modHeat a h _
  have lap' : b.lap = a.lap := rfl
  clear_value b
  have cleared : snapLap (setSnapLap (setSnapLap b h 0 none) h 1 (some b.lap)) h 0 = none :=
    (snapLap_setSnapLap_ne 1 0 (length_setSnapLap b h (by decide) none) (by decide) (by decide) _).trans
      (snapLap_setSnapLap_none b h (by decide))
  have heats : (setSnapLap (setSnapLap b h 0 none) h 1 (some b.lap)).heats = b.heats := rfl
  generalize setSnapLap (setSnapLap b h 0 none) h 1 (some b.lap) = c at *
  have heats' : (writeOwnHeader c h b.lap false).heats = c.heats := rfl
  have dom : (writeOwnHeader c h b.lap false).dom = c.dom := rfl
  generalize writeOwnHeader c h b.lap false = d at *
  have same : getHeat d h = getHeat b h := getHeat_congr (heats'.trans heats) h
  obtain ⟨p, k, small, gives, dom'⟩ := captureBlock_gives d h (n := {
    lap := a.lap, phase := 0, number := (getHeat s h).snapCount, slot := (getHeat s h).snapCount % buddySlots a h })
    (by rw [same, begun]) rfl
  refine ⟨_, by rw [gives], lap, small, rfl, ?_, ?_⟩
  · rw [snapLap_congr (dom'.trans dom), cleared]
  · rw [gives, same, begun]

end

/-! ## The own copy -/

/-- What stays while the own copy is written and no sector has errors. -/
structure CopyFrame (s t : State) : Prop where
  sound : t.errs = []
  heats : t.heats = s.heats
  dict : t.dict = s.dict
  dom : t.dom = s.dom

theorem CopyFrame.trans {s t u : State} (a : CopyFrame s t) (b : CopyFrame t u) : CopyFrame s u :=
  ⟨b.sound, b.heats.trans a.heats, b.dict.trans a.dict, b.dom.trans a.dom⟩

theorem copyFrame_replaceRange {s : State} (sound : s.errs = []) (a n : Nat) (t : Tab Byte) : CopyFrame s (replaceRange s a n t) := by
  refine ⟨?_, rfl, rfl, rfl⟩
  simp only [replaceRange, sound]
  rfl

/-- The own copy is whole where memory is sound. -/
theorem copyOwn_of_sound {s : State} (sound : s.errs = []) (h : Nat) (block : Tab Byte) :
    (copyOwn s h block).2 = true ∧ CopyFrame s (copyOwn s h block).1 := by
  have all (a : Nat) (l : List (Nat × Nat × Nat)) (u : State) (sound : u.errs = []) :
      let r := l.foldl (fun (acc : State × Bool) r =>
        if !acc.2 then acc
        else
          let c := checkRead acc.1 r.2.1 r.2.2
          if c.2 then (replaceRange c.1 (a + r.1) (up256 r.2.2) (sliceMem c.1 r.2.1 r.2.2), true) else c) (u, true)
      r.2 = true ∧ CopyFrame u r.1 := by
    induction l generalizing u with
    | nil => exact ⟨rfl, sound, rfl, rfl, rfl⟩
    | cons r l ih =>
      rw [List.foldl_cons]
      simp only [Bool.not_true, Bool.false_eq_true, if_false, checkRead_of_sound sound, if_true]
      have one := copyFrame_replaceRange sound (a + r.1) (up256 r.2.2) (sliceMem u r.2.1 r.2.2)
      obtain ⟨whole, frame⟩ := ih _ one.sound
      exact ⟨whole, one.trans frame⟩
  unfold copyOwn
  extract_lets a u
  have first : CopyFrame s u := copyFrame_replaceRange sound a blockBytes block
  obtain ⟨whole, frame⟩ := all a (regionPlaces u h) u first.sound
  exact ⟨whole, first.trans frame⟩

/-! ## The way to the buddy -/

theorem pages_ne_nil (a : Nat) {n : Nat} (some_ : n ≠ 0) : pages a n ≠ [] := by
  intro none_
  have length := congrArg List.length none_
  rw [pages, if_neg some_, List.length_map, List.length_range] at length
  simp at length

theorem headerWrite_ne_nil (s : State) (h : Nat) (n : Snap) (valid : Bool) (place : Nat) : headerWrite s h n valid place ≠ [] := by
  intro none_
  have length := congrArg List.length none_
  have some_ := pages_ne_nil (buddyAddr s h n.slot) (n := headBytes) (by decide)
  rw [headerWrite, buddyWrites] at length
  simp only [length_bytesOf, List.length_map, List.length_zip, List.length_range, Nat.min_self, List.length_nil] at length
  exact some_ (List.length_eq_zero_iff.mp length)

theorem heatRem_of_snap {s : State} {h : Nat} {n : Snap} (taken : (getHeat s h).snap = some n) : heatRem s h true = (n.rem, n.acks) := by
  unfold heatRem
  extract_lets x
  rw [if_pos rfl, show x.snap = some n from taken]

/-- Packets queued for a snapshot wait for their answers; what else it is stays. -/
theorem queueHeatPackets_snap (s : State) (h : Nat) (l : List (Nat × Packet)) {n : Snap} (taken : (getHeat s h).snap = some n) :
    ∃ m, (getHeat (queueHeatPackets s h true l) h).snap = some { n with rem := m, acks := n.acks + l.length } := by
  unfold queueHeatPackets pumpHeat
  extract_lets r src q due
  have rem : r = (n.rem, n.acks) := heatRem_of_snap taken
  have held (u : State) (m : Remote) (acks : Nat) {x : Snap} (stands : (getHeat u h).snap = some x) :
      (getHeat (setHeatRem u h true m acks) h).snap = some { x with rem := m, acks := acks } := by
    rw [setHeatRem, getHeat_modHeat, if_pos rfl, stands]
    rfl
  have first := held s { r.1 with unsent := r.1.unsent ++ l } (r.2 + l.length) taken
  have counted : q.2 = n.acks + l.length := (congrArg Prod.snd (heatRem_of_snap first)).trans (by rw [rem])
  refine ⟨q.1.sent due, ?_⟩
  rw [getHeat_congr (sendTxns_heats _ _ _), held _ _ _ first, counted]

theorem queueHeatPackets_dom (s : State) (h : Nat) (snap : Bool) (l : List (Nat × Packet)) : (queueHeatPackets s h snap l).dom = s.dom := by
  have sent (o : Nat × Packet → TxnOwner) (l : List (Nat × Packet)) (u : State) :
      (l.foldl (fun s k => sendTxn s (o k) k.2) u).dom = u.dom := by
    induction l generalizing u with
    | nil => rfl
    | cons k l ih =>
      refine (ih _).trans ?_
      obtain ⟨x, sent⟩ := sendTxn_frame u (o k) k.2
      beta_reduce
      rw [sent]
  unfold queueHeatPackets pumpHeat
  extract_lets r q due
  exact sent _ _ _

/-! ## The rows -/

section
variable {s : State} {h : Nat}

theorem snapshotLap_gives (zero : s.phase = 0) (state : snapState s h = true) (due : snapDue s h = true) (free : eventsHeld s = false)
    (idle : anyCommandDue s = false) (done_ : unfinished s h = none) (possible : snapPossible s h = true) :
    ∃ t n, exec (.snapshotLap h) s = .next t ∧ (getHeat t h).snap = some n ∧ n.lap = s.lap ∧ n.phase ≤ 1 ∧
      n.number = (getHeat s h).snapCount ∧ snapLap t h 0 = none ∧ (getHeat t h).lastSnapLap = some s.lap := by
  have ran : exec (.snapshotLap h) s = execSnapshotLap h s := rfl
  rw [ran]
  unfold execSnapshotLap
  extract_lets u
  rw [if_neg (by simp [state, zero, due]), if_neg (by simp [free]), if_neg (by simp [idle])]
  have noted : (getHeat u h).snap = (getHeat s h).snap ∧ (getHeat u h).snapCount = (getHeat s h).snapCount ∧
      (getHeat u h).lastSnapLap = some s.lap := by
    rw [show getHeat u h = _ from getHeat_modHeat s h _]
    exact ⟨rfl, rfl, rfl⟩
  have lap : u.lap = s.lap := rfl
  have done' : unfinished u h = none := by
    have chip : buddyChip u h = buddyChip s h := rfl
    rw [unfinished, noted.1, chip]
    exact done_
  have possible' : snapPossible u h = true := by
    rw [← possible, snapPossible, snapPossible]
    rfl
  clear_value u
  rw [done']
  dsimp only
  rw [if_pos possible']
  obtain ⟨n, snap, at_, phase, number, own, last⟩ := beginSnapshot_gives u h
  exact ⟨_, n, rfl, snap, by rw [at_, lap], phase, by rw [number, noted.2.1], own, by rw [last, noted.2.2]⟩

theorem snapshotOwnWritten_gives {n : Snap} (taken : (getHeat s h).snap = some n) (small : n.lap < noLap) (copies : n.phase = 1)
    (sound : s.errs = []) : ∃ t, exec (.snapshotOwnWritten h) s = .next t ∧ snapLap t h 0 = some n.lap ∧
      (getHeat t h).snap = some { n with phase := 3, block := [] } := by
  have ran : exec (.snapshotOwnWritten h) s = execSnapshotOwnWritten h s := rfl
  rw [ran]
  unfold execSnapshotOwnWritten
  rw [captureBlock_of_phase s h taken (by omega)]
  dsimp only
  rw [taken]
  dsimp only
  obtain ⟨whole, -⟩ := copyOwn_of_sound sound h n.block
  rw [if_neg (by simp [copies]), if_neg (by simp [whole])]
  generalize (copyOwn s h n.block).1 = a
  generalize writeOwnHeader a h n.lap true = b
  have first : snapLap (setSnapLap (setSnapLap b h 0 (some n.lap)) h 1 none) h 0 = some n.lap :=
    (snapLap_setSnapLap_ne 1 0 (length_setSnapLap b h (by decide) _) (by decide) (by decide) _).trans
      (snapLap_setSnapLap_some b h (by decide) small)
  generalize setSnapLap (setSnapLap b h 0 (some n.lap)) h 1 none = c at *
  have dom : (dadd c 0x2D60 7 1).dom = c.dom := rfl
  generalize dadd c 0x2D60 7 1 = d at *
  have dom' : (modHeat d h fun x => { x with snap := some { n with phase := 3, block := [] } }).dom = d.dom := rfl
  refine ⟨_, rfl, ?_, by rw [getHeat_modHeat]⟩
  rw [← first]
  exact snapLap_congr (dom'.trans dom) h 0

theorem snapshotCommitCheck_gives {n : Snap} (taken : (getHeat s h).snap = some n) (first : n.checked = false)
    (free : eventsHeld s = false) (due : n.lap + dget s (hSnap h) 0x0A ≤ s.lap) :
    (snapLap s h 0 = some n.lap → ∃ t, exec (.snapshotCommitCheck h) s = .next t ∧
      (getHeat t h).snap = if buddyChip s h = 0 then none else some { n with checked := true }) ∧
    (snapLap s h 0 ≠ some n.lap → (getHeat s h).st = .running → ∃ t, exec (.snapshotCommitCheck h) s = .next t ∧
      (getHeat t h).contained = true) := by
  have ran : exec (.snapshotCommitCheck h) s = execSnapshotCommitCheck h s := rfl
  rw [ran]
  unfold execSnapshotCommitCheck
  rw [taken]
  dsimp only
  rw [if_neg (by simp [first, free, commitLaps, Nat.not_lt.mpr due])]
  generalize made : modHeat s h (fun x => { x with snap := some { n with checked := true } }) = u
  have checked : getHeat u h = { getHeat s h with snap := some { n with checked := true } } := by
    rw [← made, getHeat_modHeat]
  have lap : snapLap u h 0 = snapLap s h 0 := by
    rw [← made]
    exact snapLap_congr rfl h 0
  have chip : buddyChip u h = buddyChip s h := by
    rw [← made]
    rfl
  clear made
  rw [lap, chip]
  refine ⟨fun whole => ?_, fun late runs => ?_⟩
  · rw [if_neg (by simp [whole])]
    split
    · exact ⟨_, rfl, by rw [getHeat_modHeat]⟩
    · exact ⟨_, rfl, by rw [checked]⟩
  · rw [if_pos (by simpa using late)]
    exact ⟨_, rfl, contained_raise rfl rfl (by rw [checked]; exact runs)⟩

theorem snapshotBuddySend_gives {n : Snap} (taken : (getHeat s h).snap = some n) (whole : n.phase = 3) (buddy : buddyChip s h ≠ 0)
    (free : eventsHeld s = false) (due : n.lap + 2 * dget s (hSnap h) 0x0A ≤ s.lap) (sound : s.errs = []) :
    ∃ t n', exec (.snapshotBuddySend h) s = .next t ∧ (getHeat t h).snap = some n' ∧ n'.phase = 5 ∧ n.acks < n'.acks := by
  have ran : exec (.snapshotBuddySend h) s = execSnapshotBuddySend h s := rfl
  rw [ran]
  unfold execSnapshotBuddySend
  rw [taken]
  dsimp only
  rw [if_neg (by simp [whole, buddy, free, commitLaps, Nat.not_lt.mpr due]), checkRead_of_sound sound, if_neg (by simp)]
  generalize setSnapLap s h (2 + n.slot) none = u
  have sends : (getHeat (modHeat u h fun x => { x with snap := some { n with phase := 5 } }) h).snap = some { n with phase := 5 } := by
    rw [getHeat_modHeat]
  generalize modHeat u h (fun x => { x with snap := some { n with phase := 5 } }) = v at *
  generalize buddyWrites v h _ dataPlace _ = rest
  obtain ⟨m, queued⟩ := queueHeatPackets_snap v h (headerWrite v h n false 0 ++ rest) sends
  refine ⟨_, _, rfl, queued, rfl, ?_⟩
  have some_ : 0 < (headerWrite v h n false 0).length := List.length_pos_of_ne_nil (headerWrite_ne_nil v h n false 0)
  rw [List.length_append]
  dsimp only
  omega

theorem snapshotBuddyWritten_gives {n : Snap} (taken : (getHeat s h).snap = some n) (small : n.lap < noLap) (sent : n.phase = 5)
    (answered_ : n.acks = 0) (held : n.rem.refusal = none) (slot : n.slot < 2) :
    ∃ t n', exec (.snapshotBuddyWritten h) s = .next t ∧ (getHeat t h).snap = some n' ∧ n'.phase = 6 ∧
      snapLap t h (2 + n.slot) = some n.lap := by
  have ran : exec (.snapshotBuddyWritten h) s = execSnapshotBuddyWritten h s := rfl
  rw [ran]
  unfold execSnapshotBuddyWritten
  rw [taken]
  dsimp only
  rw [if_neg (by simp [sent, answered_, held])]
  have lap := snapLap_setSnapLap_some s h (i := 2 + n.slot) (by omega) small
  generalize setSnapLap s h (2 + n.slot) (some n.lap) = u at *
  have ends : (getHeat (modHeat u h fun x => { x with snap := some { n with phase := 6 } }) h).snap = some { n with phase := 6 } := by
    rw [getHeat_modHeat]
  have dom : (modHeat u h fun x => { x with snap := some { n with phase := 6 } }).dom = u.dom := rfl
  generalize modHeat u h (fun x => { x with snap := some { n with phase := 6 } }) = v at *
  obtain ⟨m, queued⟩ := queueHeatPackets_snap v h (headerWrite v h n true 1) ends
  exact ⟨_, _, rfl, queued, rfl, by rw [snapLap_congr ((queueHeatPackets_dom v h true _).trans dom), lap]⟩

end

/-- Settles O49: each step of a snapshot, from its lap to the buddy's copy. -/
theorem snapshotSteps : Obligations.SnapshotSteps := by
  unfold Obligations.SnapshotSteps
  intro s h c
  exact ⟨snapshotLap_gives, fun n taken small => ⟨snapshotOwnWritten_gives taken small, snapshotCommitCheck_gives taken,
    snapshotBuddySend_gives taken, snapshotBuddyWritten_gives taken small⟩⟩

end Sys2Proof.Machine
end

section
/-! SUPPORT. The paths to the dictionary that are not Starter's, the test port and firmware's own rows (R422, R423, R425, R475 to R480,
    R510,
R515, R535). -/

namespace Sys2Proof.Machine

/-! ## Outputs that no PAUSE holds back -/

theorem emit_of_unrouted {s : State} {o : Out} (direct : outEth s o = none) : emit s o = { s with out := s.out ++ [o] } := by
  rw [emit, direct]

theorem emit_udp (s : State) (p a b q : Nat) (l : List Byte) : emit s (.udp p a b q l) = { s with out := s.out ++ [.udp p a b q l] } :=
  emit_of_unrouted rfl

theorem emit_can (s : State) (i : Nat) (k : String) (l : List Byte) : emit s (.can i k l) = { s with out := s.out ++ [.can i k l] } :=
  emit_of_unrouted rfl

/-- An answer on a direct path is the last thing sent, and nothing else changes. -/
theorem reply_of_direct {path : Path} (direct : directPath path) (s : State) (ab : Nat) (v : List Byte) :
    reply s path ab v = { s with out := s.out ++ [directOut s path ab v] } := by
  cases path with
  | starter n req => exact absurd rfl (direct n req)
  | can c => rw [reply]; exact emit_of_unrouted rfl
  | udp a p => exact emit_of_unrouted (o := .dict (.udp a p) ab v) rfl
  | bench => exact emit_of_unrouted (o := .dict .bench ab v) rfl

theorem answered_reply {path : Path} (direct : directPath path) (s : State) (ab : Nat) : Answered (reply s path ab []) path ab := by
  rw [Answered, reply_of_direct direct]
  have same : directOut { s with out := s.out ++ [directOut s path ab []] } path ab [] = directOut s path ab [] := by
    cases path <;> rfl
  rw [same, List.getLast?_concat]

theorem directPath_can (c : Nat) : directPath (.can c) := fun _ _ => by simp

/-! ## Datagrams (R477 to R480) -/

/-- The address that serves a client is the dictionary's. -/
theorem mgmtSource_congr {s t : State} (dict : t.dict = s.dict) (dom : t.dom = s.dom) (a : Nat) : mgmtSource t a = mgmtSource s a := by
  have stage := bootStage_congr dict
  have entry (i sub : Nat) : dget t i sub = dget s i sub := by rw [dget, dget, dict]
  have domain (i sub : Nat) : domRead t i sub = domRead s i sub := by rw [domRead, domRead, domGet, domGet, dom]
  simp only [mgmtSource, mgmtStatic, mgmtLocal, mgmtMac, stage, entry, domain]

section
variable {s : State} {a p : Nat} {d : BitVec 256} {l : List Byte}

theorem sendUdp_gives {src : Nat} (from_ : mgmtSource s a = some src) (req : Nat) (l : List Byte) :
    ∃ x, sendUdp s a p req l = { s with replies := x, out := s.out ++ [.udp 7341 src a p l] } := by
  rw [sendUdp]
  generalize held : ({ s with
    replies := ({ addr := a, port := p, req := req, reply := l, taken := s.now } :: s.replies).take 64 } : State) = u
  have same : mgmtSource u a = some src := by
    rw [← held, ← from_]
    exact mgmtSource_congr rfl rfl a
  refine ⟨({ addr := a, port := p, req := req, reply := l, taken := s.now } :: s.replies).take 64, ?_⟩
  rw [sendUdpBytes, emit_udp, same, ← held]
  rfl

theorem exec_udpRead (answers : dictAnswers s = true) (form : udpForm s a d l = true) : exec (.udpRead a p d l) s =
    if !(udpOp d = 1 || udpReplyOp d) then .next s
    else match keptReply s a p (fld d 159 128) with
      | some r => .next (sendUdpBytes s a p r)
      | none =>
        if udpReplyOp d then .next (sendUdp s a p (fld d 159 128) (udpReply d 3 0 abCommand []))
        else .next (udpRead s a p d) := by
  change execUdpRead a p d l s = _
  rw [execUdpRead, answers, form]
  rfl

theorem exec_udpWrite (answers : dictAnswers s = true) (form : udpForm s a d l = true) : exec (.udpWrite a p d l) s =
    if !(udpOp d = 2 || udpReplyOp d) then .next s
    else match keptReply s a p (fld d 159 128) with
      | some r => .next (sendUdpBytes s a p r)
      | none =>
        if udpReplyOp d then .next (sendUdp s a p (fld d 159 128) (udpReply d 4 0 abCommand []))
        else
        let r := writeSegment s (.udp a p) (fld d 191 176) (fld d 175 168) (fld d 127 96) l (fld d 200 200 == 1)
        .next (sendUdp r.1 a p (fld d 159 128) (udpReply d 4 r.2.2 r.2.1 [])) := by
  change execUdpWrite a p d l s = _
  rw [execUdpWrite, answers, form]
  rfl

theorem not_udpReplyOp_of_request {d : BitVec 256} (request : udpOp d = 1 ∨ udpOp d = 2) : udpReplyOp d = false := by
  rw [udpReplyOp]
  rcases request with one | two
  · rw [one]; rfl
  · rw [two]; rfl

/-- A READ of the first segment of an entry that can be read takes a copy and sends it (R479). -/
theorem udpRead_gives {src : Nat} (from_ : mgmtSource s a = some src) (first : fld d 127 96 = 0)
    (found : (dictRead s (.udp a p) (fld d 191 176) (fld d 175 168)).1 = 0) : ∃ c x, udpRead s a p d =
      { s with copies := c, replies := x, out := s.out ++ [.udp 7341 src a p (udpReply d 3
          (dictRead s (.udp a p) (fld d 191 176) (fld d 175 168)).2.length 0
          ((dictRead s (.udp a p) (fld d 191 176) (fld d 175 168)).2.take 1024))] } := by
  unfold udpRead
  extract_lets i sub o path mine send r u
  have found' : r.1 = 0 := found
  rw [if_pos first, if_neg (by simp [found'])]
  generalize kept : ({ u with copies := { path := path, index := i, sub := sub, value := r.2, taken := u.now } :: u.copies } : State) = v
  have same : mgmtSource v a = some src := by
    rw [← kept, ← from_]
    exact mgmtSource_congr rfl rfl a
  obtain ⟨x, sent⟩ := sendUdp_gives (p := p) same (fld d 159 128) (udpReply d 3 r.2.length 0 ((r.2.drop o).take 1024))
  refine ⟨v.copies, x, ?_⟩
  have start : o = 0 := first
  rw [start, List.drop_zero] at sent
  simp only [send, if_pos]
  rw [start, List.drop_zero, sent, ← kept]

/-- A whole write in one segment is one write of the entry (R478). -/
theorem writeSegment_of_whole {path : Path} {i sub : Nat} : writeSegment s path i sub 0 l true =
    ((dictWrite (dropTransfer s path i sub) path i sub l).1, (dictWrite (dropTransfer s path i sub) path i sub l).2,
      if (dictWrite (dropTransfer s path i sub) path i sub l).2 = 0 then l.length else 0) := by
  unfold writeSegment
  rfl

theorem sendUdp_last (s : State) (a p req : Nat) (l : List Byte) :
    (sendUdp s a p req l).out.getLast? = some (.udp 7341 ((mgmtSource (sendUdp s a p req l) a).getD 0) a p l) := by
  rw [sendUdp]
  generalize ({ s with
    replies := ({ addr := a, port := p, req := req, reply := l, taken := s.now } :: s.replies).take 64 } : State) = u
  have same : mgmtSource (sendUdpBytes u a p l) a = mgmtSource u a := by
    rw [sendUdpBytes, emit_udp]
    exact mgmtSource_congr rfl rfl a
  rw [same, sendUdpBytes, emit_udp]
  exact List.getLast?_concat

end

/-! ## CAN FD (R475, R476) -/

section
variable {s : State} {c : Nat} {r : UsdoReq}

/-- The copy that an upload leaves for its next segment. -/
def uploadCopy (s : State) (c i sub : Nat) (v : List Byte) : ReadCopy :=
  { path := .can c, index := i, sub := sub, value := v, taken := s.now, next := usdoBytes }

theorem exec_usdo_of_read (serves : canServes s = true) (valid : r.valid = true) (read : r.write = none) :
    exec (.usdo c r) s = .next (usdoUpload s c r.index r.sub r.offset) := by
  change execUsdo c r s = _
  rw [execUsdo, serves, valid, read]
  rfl

theorem usdoPart_eq (s : State) (c o : Nat) (v : List Byte) :
    usdoPart s c o v = { s with out := s.out ++ [.usdo (0x580 + s.canNode) c 0 v.length ((v.drop o).take 56)] } := emit_of_unrouted rfl

theorem usdoUpload_of_refused {i sub : Nat} (refused : (dictRead s (.can c) i sub).1 ≠ 0) : usdoUpload s c i sub 0 =
    { dropClient s (.can c) with out := s.out ++ [.usdo (0x580 + s.canNode) c (dictRead s (.can c) i sub).1 0 []] } := by
  unfold usdoUpload
  extract_lets path x old t keep read
  rw [if_pos rfl, if_pos (by simpa using refused), reply_of_direct (directPath_can c)]
  rfl

theorem usdoUpload_of_found {i sub : Nat} (found : (dictRead s (.can c) i sub).1 = 0) : usdoUpload s c i sub 0 =
    { dropClient s (.can c) with
      copies := (if (dictRead s (.can c) i sub).2.length ≤ 56 then [] else [uploadCopy s c i sub (dictRead s (.can c) i sub).2]) ++
        (dropClient s (.can c)).copies
      out := s.out ++ [.usdo (0x580 + s.canNode) c 0 (dictRead s (.can c) i sub).2.length ((dictRead s (.can c) i sub).2.take 56)] } := by
  unfold usdoUpload
  extract_lets path x old t keep read
  rw [if_pos rfl, if_neg (by simp [read, path, found]), usdoPart_eq, List.drop_zero]
  simp only [keep]
  split
  · next short => rw [if_pos (show read.2.length ≤ 56 from short)]; rfl
  · next long => rw [if_neg (show ¬ read.2.length ≤ 56 from long)]; rfl

/-- The segment after the first continues the copy, within a second (R475). -/
theorem usdoUpload_of_copy {i sub : Nat} {x : ReadCopy} {rest : List ReadCopy} (copies : s.copies = x :: rest) (path : x.path = .can c)
    (index : x.index = i) (sub_ : x.sub = sub) (next_ : x.next = 56) (fresh : s.now ≤ x.taken + oneSecond) :
    (usdoUpload s c i sub 56).out = s.out ++ [.usdo (0x580 + s.canNode) c 0 x.value.length ((x.value.drop 56).take 56)] := by
  unfold usdoUpload
  extract_lets path y old t keep read
  have found : old = some x := by
    simp only [old, copies]
    exact List.find?_cons_of_pos (by simp [path, *])
  rw [if_neg (by decide), found]
  dsimp only
  rw [usdoPart_eq]
  simp only [keep]
  split <;> rfl

end

/-! ## The end of a firmware write (R422, R423) -/

theorem sampleStandby_frame (s : State) : (∀ i sub, (i = 0x2A10 ∧ sub ≠ 1) → sub < 256 → dget (sampleStandby s) i sub = dget s i sub) ∧
    (sampleStandby s).flash = s.flash ∧ (sampleStandby s).writing = s.writing ∧ (sampleStandby s).journal = s.journal := by
  unfold sampleStandby
  split
  · unfold enterMemoryPower
    extract_lets u
    have entries (i sub : Nat) (here : i = 0x2A10 ∧ sub ≠ 1) (small : sub < 256) : dget u i sub = dget s i sub :=
      dget_dset_ne _ (by decide) small (.inr here.2) _
    have rest : u.flash = s.flash ∧ u.writing = s.writing ∧ u.journal = s.journal := ⟨rfl, rfl, rfl⟩
    clear_value u
    have frame : TokenFrame u (((List.range 32).filter fun p => (stackUnits u).any (·.1 = p)).foldl
        (fun s p => requestWake s (.stack p true)) u) := .foldl (fun t p => tokenFrame_requestWake t (.stack p true)) _ u
    have whole := frame.whole
    refine ⟨fun i sub here small => ?_, ?_, ?_, ?_⟩
    · rw [frame.dict i sub (by omega) small, entries i sub here small]
    · rw [whole, ← rest.1]
    · rw [whole, ← rest.2.1]
    · rw [whole, ← rest.2.2]
  · exact ⟨fun _ _ _ _ => rfl, rfl, rfl, rfl⟩

theorem updateEvent_frame (s : State) : (∀ i sub, dget (updateEvent s) i sub = dget s i sub) ∧
    (updateEvent s).flash = s.flash ∧ (updateEvent s).writing = s.writing ∧ (updateEvent s).journal = s.journal := by
  unfold updateEvent
  split
  · exact ⟨fun _ _ => rfl, rfl, rfl, rfl⟩
  · unfold bootEvent
    refine ⟨fun _ _ => dget_raise _ _ _ _, ?_, ?_, ?_⟩ <;> rw [raise_frame]

theorem addJournal_journal (s : State) (l : List Journal) :
    (addJournal s l).journal = (s.journal ++ l).drop ((s.journal ++ l).length - journalSize) := by
  unfold addJournal
  dsimp only

/-- Records added at the end of a journal: the last of them is its last. -/
theorem addJournal_last (s : State) {l : List Journal} (some_ : l ≠ []) : (addJournal s l).journal.getLast? = l.getLast? := by
  have long : (s.journal ++ l).drop ((s.journal ++ l).length - journalSize) ≠ [] := by
    have length : 0 < l.length := List.length_pos_of_ne_nil some_
    have size : 0 < journalSize := by decide
    rw [ne_eq, List.drop_eq_nil_iff, List.length_append]
    omega
  rw [addJournal_journal, List.getLast?_eq_some_getLast long, List.getLast_drop, List.getLast_append_of_ne_nil _ some_,
      List.getLast?_eq_some_getLast some_]

theorem journalOpen_congr {a b : List Journal} (last : a.getLast? = b.getLast?) : journalOpen a = journalOpen b := by
  rw [journalOpen, journalOpen, last]

/-- A write cut off leaves the journal open. -/
theorem cutWrite_gives {s : State} {f : Firmware} (writing : s.writing = some f) : (cutWrite s).writing = none ∧
    (cutWrite s).flash = s.flash ∧ (journalOpen s.journal = true → journalOpen (cutWrite s).journal = true) := by
  unfold cutWrite
  extract_lets r
  rw [if_neg (by simp [writing])]
  refine ⟨rfl, rfl, fun began => ?_⟩
  have journal : ({ r.2 with writing := none } : State).journal = s.journal := rfl
  generalize ({ r.2 with writing := none } : State) = u at *
  generalize written : (List.range (min (imageSectors (begunBytes s.journal)) r.1)).map Journal.sector = l
  by_cases none_ : l = []
  · have same : (addJournal u l).journal.getLast? = s.journal.getLast? := by
      have some_ : s.journal ≠ [] := by
        intro empty
        rw [empty] at began
        exact absurd began (by decide)
      have length : 0 < s.journal.length := List.length_pos_of_ne_nil some_
      have size : 0 < journalSize := by decide
      have long : s.journal.drop (s.journal.length - journalSize) ≠ [] := by
        rw [ne_eq, List.drop_eq_nil_iff]
        omega
      rw [none_]
      rw [addJournal_journal, List.append_nil, journal, List.getLast?_eq_some_getLast long, List.getLast_drop,
          List.getLast?_eq_some_getLast some_]
    rw [journalOpen_congr same, began]
  · have last : ∃ n, l.getLast? = some (.sector n) := by
      have member : ∀ x ∈ l, ∃ n, x = Journal.sector n := by
        rw [← written]
        intro x there
        obtain ⟨n, -, is⟩ := List.mem_map.mp there
        exact ⟨n, is.symm⟩
      obtain ⟨n, is⟩ := member _ (List.getLast_mem none_)
      exact ⟨n, by rw [List.getLast?_eq_some_getLast none_, is]⟩
    obtain ⟨n, last⟩ := last
    rw [journalOpen, addJournal_last u none_, last]

theorem updateWriteComplete_true {s : State} {f : Firmware} (writing : s.writing = some f) : ∃ t, exec (.updateWriteComplete true)
    s = .next t ∧
    t.flash = f ∧ t.writing = none ∧ journalOpen t.journal = false ∧ dget t 0x2A10 7 = upWritten := by
  have ran : exec (.updateWriteComplete true) s = execUpdateWriteComplete true s := rfl
  rw [ran, execUpdateWriteComplete, writing]
  dsimp only
  rw [if_pos rfl]
  generalize written : addJournal { ({ s with log := s.log.map fun r => { r with flash := true } } : State) with
    writing := none, flash := f } _ = u
  have state : u.flash = f ∧ u.writing = none := by
    rw [← written]
    exact ⟨rfl, rfl⟩
  have closed : journalOpen u.journal = false := by
    rw [← written, journalOpen, addJournal_last _ (by simp), List.getLast?_concat]
  have entry : dget (dset (dset u 0x2A10 7 upWritten) 0x2A10 8 0) 0x2A10 7 = upWritten := by
    rw [dget_dset_ne _ (by decide) (by decide) (.inr (by decide)), dget_dset_same]
  have rest : (dset (dset u 0x2A10 7 upWritten) 0x2A10 8 0).flash = u.flash ∧
      (dset (dset u 0x2A10 7 upWritten) 0x2A10 8 0).writing = u.writing ∧
      (dset (dset u 0x2A10 7 upWritten) 0x2A10 8 0).journal = u.journal := ⟨rfl, rfl, rfl⟩
  generalize dset (dset u 0x2A10 7 upWritten) 0x2A10 8 0 = v at *
  obtain ⟨dict, flash, writing', journal⟩ := sampleStandby_frame (updateEvent v)
  obtain ⟨dict', flash', writing'', journal'⟩ := updateEvent_frame v
  refine ⟨_, rfl, ?_, ?_, ?_, ?_⟩
  · rw [flash, flash', rest.1, state.1]
  · rw [writing', writing'', rest.2.1, state.2]
  · rw [journal, journal', rest.2.2, closed]
  · rw [dict _ _ ⟨rfl, by decide⟩ (by decide), dict', entry]

/-- The log with every entry in flash, while an image is being written. -/
def flashedLog (s : State) (f : Firmware) : State := { s with log := s.log.map fun r => { r with flash := true }, writing := some f }

theorem exec_updateWriteComplete_false {s : State} {f : Firmware} (writing : s.writing = some f) : exec (.updateWriteComplete false) s =
    .next (updateEvent (dset (dset (cutWrite (flashedLog s f)) 0x2A10 7 upFailed) 0x2A10 8 8)) := by
  change execUpdateWriteComplete false s = _
  rw [execUpdateWriteComplete, writing]
  rfl

theorem updateWriteComplete_false {s : State} {f : Firmware} (writing : s.writing = some f) : ∃ t, exec (.updateWriteComplete false)
    s = .next t ∧
    t.flash = s.flash ∧ t.writing = none ∧ (journalOpen s.journal = true → journalOpen t.journal = true) ∧
    dget t 0x2A10 7 = upFailed ∧ dget t 0x2A10 8 = 8 := by
  rw [exec_updateWriteComplete_false writing]
  obtain ⟨writing', flash, opened⟩ := cutWrite_gives (s := flashedLog s f) rfl
  have same : (flashedLog s f).flash = s.flash := rfl
  generalize cutWrite _ = v at *
  have entry : dget (dset (dset v 0x2A10 7 upFailed) 0x2A10 8 8) 0x2A10 7 = upFailed := by
    rw [dget_dset_ne _ (by decide) (by decide) (.inr (by decide)), dget_dset_same]
  have reason : dget (dset (dset v 0x2A10 7 upFailed) 0x2A10 8 8) 0x2A10 8 = 8 := dget_dset_same _ _ _ _
  have rest : (dset (dset v 0x2A10 7 upFailed) 0x2A10 8 8).flash = v.flash ∧
      (dset (dset v 0x2A10 7 upFailed) 0x2A10 8 8).writing = v.writing ∧
      (dset (dset v 0x2A10 7 upFailed) 0x2A10 8 8).journal = v.journal := ⟨rfl, rfl, rfl⟩
  generalize dset (dset v 0x2A10 7 upFailed) 0x2A10 8 8 = w at *
  obtain ⟨dict, flash', writing'', journal'⟩ := updateEvent_frame w
  refine ⟨_, rfl, ?_, ?_, ?_, ?_, ?_⟩
  · rw [flash', rest.1, flash, same]
  · rw [writing'', rest.2.1, writing']
  · rw [journal', rest.2.2]
    exact opened
  · rw [dict, entry]
  · rw [dict, reason]

/-! ## The test port's levels (R515) -/

theorem tmuxLevels_frame (s : State) : ∃ n, (tmuxLevels s).2 = { s with freeCtr := n } := by
  have all (l : List Nat) (acc : List Bool × State) (held : ∃ n, acc.2 = { s with freeCtr := n }) :
      ∃ n, (l.foldl (fun (acc : List Bool × State) n => match tmuxOut s n with
        | .low => (acc.1 ++ [false], acc.2)
        | _ => let r := takeFree acc.2 1; (acc.1 ++ [r.1 == 1], r.2)) acc).2 = { s with freeCtr := n } := by
    induction l generalizing acc with
    | nil => exact held
    | cons n l ih =>
      refine ih _ ?_
      obtain ⟨k, is⟩ := held
      beta_reduce
      split
      · exact ⟨k, is⟩
      · refine ⟨k + 1, ?_⟩
        change { acc.2 with freeCtr := acc.2.freeCtr + 1 } = _
        rw [is]
  exact all _ _ ⟨s.freeCtr, rfl⟩

end Sys2Proof.Machine
end

section
/-! SUPPORT. The rows of the paths to the dictionary, of the test port and of firmware itself. -/

namespace Sys2Proof.Machine

/-! ## UDP -/

section
variable {s : State} {a p src : Nat} {d : BitVec 256} {l : List Byte}
variable (answers : dictAnswers s = true) (form : udpForm s a d l = true) (from_ : mgmtSource s a = some src)
include answers form from_

theorem exec_udpRead_of_first (request : udpOp d = 1) (new : keptReply s a p (fld d 159 128) = none) (first : fld d 127 96 = 0)
    (found : (dictRead s (.udp a p) (fld d 191 176) (fld d 175 168)).1 = 0) : ∃ t, exec (.udpRead a p d l) s = .next t ∧
      t = { s with copies := t.copies, replies := t.replies, out := s.out ++ [.udp 7341 src a p (udpReply d 3
          (dictRead s (.udp a p) (fld d 191 176) (fld d 175 168)).2.length 0
          ((dictRead s (.udp a p) (fld d 191 176) (fld d 175 168)).2.take 1024))] } := by
  obtain ⟨c, x, gives⟩ := udpRead_gives from_ first found
  rw [exec_udpRead answers form, if_neg (by simp [request]), new]
  dsimp only
  rw [if_neg (by simp [not_udpReplyOp_of_request (.inl request)]), gives]
  exact ⟨_, rfl, rfl⟩

omit from_ in
theorem exec_udpWrite_of_whole (request : udpOp d = 2) (new : keptReply s a p (fld d 159 128) = none) (first : fld d 127 96 = 0)
    (whole : fld d 200 200 = 1) :
    let ab := (dictWrite (dropTransfer s (.udp a p) (fld d 191 176) (fld d 175 168)) (.udp a p) (fld d 191 176) (fld d 175 168) l).2
    ∃ t, exec (.udpWrite a p d l) s = .next t ∧ t.out.getLast? =
      some (.udp 7341 ((mgmtSource t a).getD 0) a p (udpReply d 4 (if ab = 0 then l.length else 0) ab [])) := by
  intro ab
  rw [exec_udpWrite answers form, if_neg (by simp [request]), new]
  dsimp only
  rw [if_neg (by simp [not_udpReplyOp_of_request (.inr request)]), first, whole, beq_self_eq_true, writeSegment_of_whole]
  exact ⟨_, rfl, sendUdp_last _ a p _ _⟩

theorem exec_udp_of_replyOp (reply_ : udpOp d = 3 ∨ udpOp d = 4) (new : keptReply s a p (fld d 159 128) = none) :
    (∃ t, exec (.udpRead a p d l) s = .next t ∧
      t = { s with replies := t.replies, out := s.out ++ [.udp 7341 src a p (udpReply d 3 0 abCommand [])] }) ∧
    (∃ t, exec (.udpWrite a p d l) s = .next t ∧
      t = { s with replies := t.replies, out := s.out ++ [.udp 7341 src a p (udpReply d 4 0 abCommand [])] }) := by
  have op : udpReplyOp d = true := by rcases reply_ with three | four <;> simp [udpReplyOp, *]
  have sent (op : Nat) : ∃ t, (Host.Outcome.next (sendUdp s a p (fld d 159 128)
      (udpReply d op 0 abCommand [])) : Host.Outcome State Fault Refusal) =
      .next t ∧ t = { s with replies := t.replies, out := s.out ++ [.udp 7341 src a p (udpReply d op 0 abCommand [])] } := by
    obtain ⟨x, gives⟩ := sendUdp_gives (p := p) from_ (fld d 159 128) (udpReply d op 0 abCommand [])
    rw [gives]
    exact ⟨_, rfl, rfl⟩
  constructor
  · rw [exec_udpRead answers form, if_neg (by simp [op]), new]
    dsimp only
    rw [if_pos op]
    exact sent 3
  · rw [exec_udpWrite answers form, if_neg (by simp [op]), new]
    dsimp only
    rw [if_pos op]
    exact sent 4

theorem exec_udp_of_kept {r : List Byte} (kept : keptReply s a p (fld d 159 128) = some r) :
    (udpOp d = 1 → exec (.udpRead a p d l) s = .next (emit s (.udp 7341 src a p r))) ∧
    (udpOp d = 2 → exec (.udpWrite a p d l) s = .next (emit s (.udp 7341 src a p r))) := by
  refine ⟨fun request => ?_, fun request => ?_⟩
  · rw [exec_udpRead answers form, if_neg (by simp [request]), kept]
    dsimp only
    rw [sendUdpBytes, from_]
    rfl
  · rw [exec_udpWrite answers form, if_neg (by simp [request]), kept]
    dsimp only
    rw [sendUdpBytes, from_]
    rfl

end

theorem exec_udp_of_malformed {s : State} {a p : Nat} {d : BitVec 256} {l : List Byte} (bad : udpForm s a d l = false) :
    exec (.udpRead a p d l) s = .next s ∧ exec (.udpWrite a p d l) s = .next s := by
  constructor
  · change execUdpRead a p d l s = _
    rw [execUdpRead, bad, if_pos (by simp)]
  · change execUdpWrite a p d l s = _
    rw [execUdpWrite, bad, if_pos (by simp)]

theorem openTransfer_dropTransfer (s : State) (path : Path) (i sub : Nat) : openTransfer (dropTransfer s path i sub) path i sub = none := by
  rw [openTransfer, List.find?_eq_none]
  intro x there
  have kept := (List.mem_filter.mp there).2
  simp only [Bool.not_eq_true'] at kept
  simp [kept]

theorem exec_udpTransferTimeout {s : State} {a p i sub : Nat} {x : Transfer} (open_ : openTransfer s (.udp a p) i sub = some x)
    (silent : x.last + oneSecond < s.now) : ∃ t, exec (.udpTransferTimeout a p i sub) s = .next t ∧
      openTransfer t (.udp a p) i sub = none ∧ t = { s with transfers := t.transfers } := by
  have ran : exec (.udpTransferTimeout a p i sub) s = .next (dropTransfer s (.udp a p) i sub) := by
    change execUdpTransferTimeout a p i sub s = _
    rw [execUdpTransferTimeout, open_]
    exact if_pos silent
  exact ⟨_, ran, openTransfer_dropTransfer s _ i sub, rfl⟩

/-! ## CAN FD -/

section
variable {s : State} {c : Nat} {r : UsdoReq}

theorem exec_usdo_of_refused (serves : canServes s = true) (valid : r.valid = true) (read : r.write = none) (first : r.offset = 0)
    (refused : (dictRead s (.can c) r.index r.sub).1 ≠ 0) : ∃ t, exec (.usdo c r) s = .next t ∧
      t = { s with transfers := t.transfers, copies := t.copies, out := t.out } ∧
      t.out = s.out ++ [.usdo (0x580 + s.canNode) c (dictRead s (.can c) r.index r.sub).1 0 []] := by
  rw [exec_usdo_of_read serves valid read, first, usdoUpload_of_refused refused]
  exact ⟨_, rfl, rfl, rfl⟩

theorem exec_usdo_of_found (serves : canServes s = true) (valid : r.valid = true) (read : r.write = none) (first : r.offset = 0)
    (found : (dictRead s (.can c) r.index r.sub).1 = 0) :
    let v := (dictRead s (.can c) r.index r.sub).2
    ∃ t, exec (.usdo c r) s = .next t ∧ t = { s with transfers := t.transfers, copies := t.copies, out := t.out } ∧
      t.out = s.out ++ [.usdo (0x580 + s.canNode) c 0 v.length (v.take 56)] ∧
      (56 < v.length → ∀ s', s' = { t with now := s'.now } → s'.now ≤ s.now + oneSecond → canServes s' = true → ∀ r',
        r'.valid = true → r'.write = none → r'.index = r.index → r'.sub = r.sub → r'.offset = 56 →
        ∃ t', exec (.usdo c r') s' = .next t' ∧
          t'.out = s'.out ++ [.usdo (0x580 + s.canNode) c 0 v.length ((v.drop 56).take 56)]) := by
  intro v
  rw [exec_usdo_of_read serves valid read, first, usdoUpload_of_found found]
  refine ⟨_, rfl, rfl, rfl, ?_⟩
  intro long s' later soon serves' r' valid' read' index sub next_
  have short : ¬ (dictRead s (.can c) r.index r.sub).2.length ≤ 56 := Nat.not_le.mpr long
  rw [if_neg short] at later
  have copies : s'.copies = uploadCopy s c r.index r.sub v :: (dropClient s (.can c)).copies := by rw [later]; rfl
  have node : s'.canNode = s.canNode := by rw [later]; rfl
  clear later
  refine ⟨_, exec_usdo_of_read serves' valid' read', ?_⟩
  rw [next_, usdoUpload_of_copy copies rfl index.symm sub.symm rfl soon, node]
  rfl

theorem exec_usdo_of_invalid (serves : canServes s = true) (invalid : r.valid = false) : ∃ t, exec (.usdo c r) s = .next t ∧
    Answered t (.can c) abCommand ∧ t = { s with transfers := t.transfers, copies := t.copies, out := t.out } := by
  have ran : exec (.usdo c r) s = .next (reply (dropClient s (.can c)) (.can c) abCommand []) := by
    change execUsdo c r s = _
    rw [execUsdo, serves, invalid]
    rfl
  refine ⟨_, ran, answered_reply (directPath_can c) _ _, ?_⟩
  rw [reply_of_direct (directPath_can c)]
  rfl

theorem exec_usdoTimeout (serves : canServes s = true) (silent : (∃ x ∈ s.transfers, x.path = .can c ∧ x.last + oneSecond ≤ s.now) ∨
    (∃ x ∈ s.copies, x.path = .can c ∧ x.taken + oneSecond ≤ s.now)) : ∃ t, exec (.usdoTimeout c) s = .next t ∧
      Answered t (.can c) abTransfer ∧ (∀ y ∈ t.transfers, y.path ≠ .can c) ∧ ∀ y ∈ t.copies, y.path ≠ .can c := by
  have ran : exec (.usdoTimeout c) s = .next (reply (dropClient s (.can c)) (.can c) abTransfer []) := by
    change execUsdoTimeout c s = _
    unfold execUsdoTimeout
    extract_lets path
    rw [if_pos]
    rw [serves, Bool.and_true, Bool.or_eq_true, List.any_eq_true, List.any_eq_true]
    simpa [path] using silent
  refine ⟨_, ran, answered_reply (directPath_can c) _ _, ?_, ?_⟩
  · rw [reply_of_direct (directPath_can c)]
    intro y there
    simpa using (List.mem_filter.mp there).2
  · rw [reply_of_direct (directPath_can c)]
    intro y there
    simpa using (List.mem_filter.mp there).2

end

/-- An NMT command is to this node where it is to all or names its node-ID. -/
theorem not_nmtIgnored {s : State} {node : Nat} (answers : dictAnswers s = true) (on : s.busOff = false)
    (to_ : node = 0 ∨ node = s.canNode) : ¬ (!dictAnswers s || s.busOff || !(node = 0 || node = s.canNode)) = true := by
  rcases to_ with all | mine <;> simp [*]

theorem exec_nmt_state {s : State} {node : Nat} (answers : dictAnswers s = true) (on : s.busOff = false)
    (to_ : node = 0 ∨ node = s.canNode) : exec (.nmt 1 node) s = .next { s with canState := 5 } ∧
      exec (.nmt 2 node) s = .next { s with canState := 4 } ∧ exec (.nmt 128 node) s = .next { s with canState := 127 } := by
  have heard := not_nmtIgnored answers on to_
  refine ⟨?_, ?_, ?_⟩
  · change execNmt 1 node s = _
    rw [execNmt, if_neg heard]
  · change execNmt 2 node s = _
    rw [execNmt, if_neg heard]
  · change execNmt 128 node s = _
    rw [execNmt, if_neg heard]

/-- A node not in bus-off sends its boot-up message under its node-ID. -/
theorem bootUp_of_on {s : State} (on : s.busOff = false) : bootUp s = { s with out := s.out ++ [.can (0x700 + s.canNode) "boot-up" [0#8]]
    } := by
  rw [bootUp, sendCan, if_neg (by simp [on]), emit_can]
  rfl

theorem exec_nmt_reset {s : State} {node x : Nat} (answers : dictAnswers s = true) (on : s.busOff = false) (to_ : node = 0 ∨
    node = s.canNode)
    (reset_ : x = 129 ∨ x = 130) : ∃ t, exec (.nmt x node) s = .next t ∧ t.canState = 127 ∧ t.heats = s.heats ∧
      t.out = s.out ++ [.can (0x700 + t.canNode) "boot-up" [0#8]] := by
  have taken (u : State) (b : Prop) [Decidable b] (off : u.busOff = false) : ∃ n r, (if b then strapCan u else applyCan u) =
      { u with canNode := n, canRate := r } := by
    split
    · exact ⟨_, _, rfl⟩
    · exact ⟨_, _, rfl⟩
  have gives : ∃ u : State, exec (.nmt x node) s = .next (bootUp u) ∧ u.busOff = false ∧ u.canState = 127 ∧ u.heats = s.heats ∧
      u.out = s.out := by
    let v : State := { s with
      canState := 127
      transfers := s.transfers.filter fun t => match t.path with | .can _ => false | _ => true
      copies := s.copies.filter fun c => match c.path with | .can _ => false | _ => true }
    have ran : exec (.nmt x node) s = .next (bootUp (if bootStage v = bsRecovery then strapCan v else applyCan v)) := by
      change execNmt x node s = _
      rcases reset_ with is | is
      · rw [is]
        exact (if_neg (not_nmtIgnored answers on to_)).trans rfl
      · rw [is]
        exact (if_neg (not_nmtIgnored answers on to_)).trans rfl
    obtain ⟨n, r, is⟩ := taken v (bootStage v = bsRecovery) on
    refine ⟨_, ran, ?_⟩
    rw [is]
    exact ⟨on, rfl, rfl, rfl⟩
  obtain ⟨u, ran, off, state, heats, out⟩ := gives
  refine ⟨_, ran, ?_⟩
  rw [bootUp_of_on off]
  exact ⟨state, heats, by rw [← out]⟩

theorem exec_heartbeat {s : State} (answers : dictAnswers s = true) (on : s.busOff = false) (period : dget s 0x1017 0 ≠ 0)
    (due : s.beatAt + ms (dget s 0x1017 0) ≤ s.now) :
    exec .heartbeat s = .next (emit { s with beatAt := s.now } (.can (0x700 + s.canNode) "heartbeat" [byte s.canState])) := by
  change execHeartbeat s = _
  unfold execHeartbeat
  extract_lets n
  rw [if_neg (by simp [answers, on, n, period, Nat.not_lt.mpr due])]
  rfl

theorem exec_of_busOff {s : State} (off : s.busOff = true) : exec .heartbeat s = .next s ∧ (∀ x node, exec (.nmt x node) s = .next s) ∧
    ∀ c r, exec (.usdo c r) s = .next s := by
  refine ⟨?_, fun x node => ?_, fun c r => ?_⟩
  · change execHeartbeat s = _
    unfold execHeartbeat
    extract_lets n
    rw [if_pos (by simp [off])]
  · change execNmt x node s = _
    unfold execNmt
    rw [if_pos (by simp [off])]
  · change execUsdo c r s = _
    unfold execUsdo
    extract_lets path
    rw [if_pos (by simp [canServes, off])]

theorem exec_canBusOffRecovery {s : State} {x : Bool} (answers : dictAnswers s = true) (other : s.busOff ≠ x) :
    ∃ t, exec (.canBusOffRecovery x) s = .next t ∧ t.busOff = x ∧ t = { s with busOff := t.busOff, dict := t.dict } ∧
      (x = true → Counted s t 0x2D70 6) := by
  have ran : exec (.canBusOffRecovery x) s = .next { (if x then dadd s 0x2D70 6 1 else s) with busOff := x } := by
    change execCanBusOffRecovery x s = _
    rw [execCanBusOffRecovery, if_neg (by simp [answers, other])]
  refine ⟨_, ran, rfl, ?_, fun is => ?_⟩
  · cases x <;> rfl
  · subst is
    exact dget_dset_same s 0x2D70 6 _

/-! ## Quotes, RECOVERY and the test port -/

theorem exec_quoteReady {s : State} {n : List Byte} (nonce : s.nonce = some n) (answers : dictAnswers s = true)
    (stage : bootStage s ≠ bsRecovery) : ∃ t, exec .quoteReady s = .next t ∧ t.nonce = none ∧
      t.quote.take (n.length + 12) = n ++ bytesOf 2 (ownChip s) ++ bytesOf 6 (s.lap % 2 ^ 48) ++ bytesOf 4 (dget s 0x2A00 7) := by
  have ran : exec .quoteReady s = execQuoteReady s := rfl
  rw [ran, execQuoteReady, nonce]
  dsimp only
  rw [if_neg (by simp [answers, stage])]
  refine ⟨_, rfl, rfl, ?_⟩
  have length : (quoteBody s n).length = n.length + 12 := by simp [quoteBody]
  rw [← length, List.append_assoc]
  exact List.take_left' rfl

theorem exec_recoveryAnnounce {s : State} (stage : bootStage s = bsRecovery) :
    let note : Out := .udp 7341 (mgmtLocal s) 0xFF020000000000000000000000000001 7341 (domGet s 0x2C00 9 ++ bytesOf 1 (dget s 0x2A10 8))
    (s.canState ≠ 4 → s.busOff = false → exec .recoveryAnnounce s =
      .next { s with out := s.out ++ [.emcy (0x80 + s.canNode) 0xFF10 (bytesOf 1 (dget s 0x2A10 8)), note] }) ∧
    (s.canState = 4 ∨ s.busOff = true → exec .recoveryAnnounce s = .next { s with out := s.out ++ [note] }) := by
  intro note
  have ran : exec .recoveryAnnounce s = execRecoveryAnnounce s := rfl
  have mail (u : State) (x y : Nat) (l : List Byte) : emit u (.emcy x y l) = { u with out := u.out ++ [.emcy x y l] } :=
      emit_of_unrouted rfl
  rw [ran, execRecoveryAnnounce, if_neg (by simp [stage])]
  refine ⟨fun runs on => ?_, fun silent => ?_⟩
  · rw [if_neg (by simp [runs, on]), mail]
    dsimp only
    rw [emit_udp]
    simp only [List.append_assoc]
    rfl
  · rw [if_pos (by simpa using silent)]
    dsimp only
    rw [emit_udp]
    rfl

theorem exec_testPort (s : State) : exec .bypass s = .next (emit { s with extest := none } (.jtag 1 0)) ∧
    (∃ v, exec .idcode s = .next (emit { s with extest := none } (.jtag 32 v))) ∧
    (∀ x, ∃ t v, exec (.samplePreload x) s = .next t ∧
      t = { s with preload := x, extest := none, freeCtr := t.freeCtr, out := s.out ++ [.jtag Config.scanLength v] }) ∧
    (testUnlocked s = true → tokExtest (tokenBody s.token) = true → liveHeats s = [] →
      exec .extest s = .next { s with extest := some s.preload }) ∧
    (testUnlocked s = false ∨ tokExtest (tokenBody s.token) = false ∨ liveHeats s ≠ [] → exec .extest s = exec .bypass s) := by
  have ran : exec .extest s = execExtest s := rfl
  have shifted (u : State) (n v : Nat) : emit u (.jtag n v) = { u with out := u.out ++ [.jtag n v] } := emit_of_unrouted rfl
  refine ⟨rfl, ⟨_, rfl⟩, fun x => ?_, fun unlocked allowed free => ?_, fun locked => ?_⟩
  · have sampled : exec (.samplePreload x) s = execSamplePreload x s := rfl
    rw [sampled]
    unfold execSamplePreload
    extract_lets r
    have rest (u : State) (l : List Out) (from_ : ∃ n, u = { s with freeCtr := n }) :
        ({ u with preload := x, extest := none, out := u.out ++ l } : State) =
          { s with preload := x, extest := none, freeCtr := u.freeCtr, out := s.out ++ l } := by
      obtain ⟨n, is⟩ := from_
      rw [is]
    rw [shifted]
    exact ⟨_, _, rfl, rest r.2 _ (tmuxLevels_frame s)⟩
  · rw [ran, execExtest, if_pos (by simp [unlocked, allowed, free])]
  · rw [ran, execExtest, if_neg]
    · rfl
    · rcases locked with a | a | a <;> simp [a]

/-- Settles O56: each path's rows, and those that firmware runs by itself. -/
theorem managementPaths : Obligations.ManagementPaths := by
  unfold Obligations.ManagementPaths
  intro s
  refine ⟨fun a p d l src answers form from_ => ?_, fun a p d l => exec_udp_of_malformed, fun a p i sub x => exec_udpTransferTimeout,
    fun serves c r => ?_, fun answers on => ⟨fun node to_ => ?_, exec_heartbeat answers on⟩, exec_of_busOff,
    fun x => exec_canBusOffRecovery, fun f writing => ⟨updateWriteComplete_true writing, updateWriteComplete_false writing⟩,
    fun n => exec_quoteReady, exec_recoveryAnnounce, exec_testPort s⟩
  · intro req i sub u sent
    exact ⟨fun request => exec_udpRead_of_first answers form from_ request, fun request => exec_udpWrite_of_whole answers form request,
      fun reply_ => exec_udp_of_replyOp answers form from_ reply_, fun r kept => exec_udp_of_kept answers form from_ kept⟩
  · intro path got
    refine ⟨fun valid read first => ?_, exec_usdo_of_invalid serves, exec_usdoTimeout serves⟩
    by_cases found : (dictRead s path r.index r.sub).1 = 0
    · obtain ⟨t, ran, same, out, rest⟩ := exec_usdo_of_found serves valid read first found
      exact ⟨t, ran, same, fun refused => absurd found refused, fun _ => ⟨out, rest⟩⟩
    · obtain ⟨t, ran, same, out⟩ := exec_usdo_of_refused serves valid read first found
      exact ⟨t, ran, same, fun _ => out, fun found' => absurd found' found⟩
  · obtain ⟨starts, stops, waits⟩ := exec_nmt_state answers on to_
    exact ⟨starts, stops, waits, fun x reset_ => exec_nmt_reset answers on to_ reset_⟩

end Sys2Proof.Machine
end

section
/-! SUPPORT. A command program's load of a summary register while a block is queued (R159): it waits, and loads nothing yet. -/

namespace Sys2Proof.Machine

/-- Core 0 with a command program, and a block queued. -/
def blockQueued : State := { ({} : State) with
  cores := [(0, { vec := { blocks := [0] }, ctl := some { queue := 0, index := 0, desc := 0, pc := 0, laps := 1, stored := none } })] }

/-- The program that runs on core 0. -/
def queuedRun : CtlRun := { queue := 0, index := 0, desc := 0, pc := 0, laps := 1, stored := none }

/-- What the load of the index of summary register 0 leaves in the register of core 0. -/
def loadedIndex : Option Nat :=
  match exec (.registerWrite .bench (.load 0 0x201004 4) []) blockQueued with
  | .next t => some (getCore t 0).loaded
  | _ => none

theorem program_blockQueued : program blockQueued 0 = some queuedRun := by decide +kernel

theorem ctlRead_blockQueued : ctlRead blockQueued 0 queuedRun 0x201004 4 = some 0xFFFFFFFF := by decide +kernel

theorem loadedIndex_waits : loadedIndex = some 0 := by decide +kernel

/-- Refutes O55: a load of a summary register waits while a block is queued (R159), so what stands in the register is not in the core's
register yet; the statement's last clause says that it is for every address that can be read. -/
theorem not_dictionaryWrites : ¬ Obligations.DictionaryWrites := by
  unfold Obligations.DictionaryWrites
  intro claim
  obtain ⟨-, -, -, -, -, -, -, -, -, -, -, -, -, -, -, loads⟩ := claim blockQueued .bench 0 [] 0 true (fun _ _ => by simp)
  obtain ⟨t, ran, -, gives⟩ := loads 0 queuedRun 0x201004 4 0xFFFFFFFF program_blockQueued ctlRead_blockQueued
  have waits := loadedIndex_waits
  rw [loadedIndex, ran] at waits
  simp [gives] at waits

end Sys2Proof.Machine
end

section
/-! SUPPORT. A heat whose inbox and outbox overlap (R391 to R393): a session that has used up its records closes after the outbox was read
(R384), and the CANCEL entry of its request raises `prod` of the inbox, which lies where `cons` of the outbox does. -/

namespace Sys2Proof.Machine

/-- Heat 0 runs with its outbox at 0x30000 and its inbox at 0x30004, one entry in the outbox, and a request of session 1, which has used
up its records. -/
def overlappingRings : State :=
  { domSet (dset (dset (dset {} 0x2440 4 0x30004) 0x2440 5 3) 0x2440 6 0x30000) (hCfg 0) 4
      (bytesOf 8 0 ++ bytesOf 8 0x10000000 ++ zeros 112) with
    mem := [(0x30000, 1#8)], heats := [(0, { st := .running })]
    sessions := [(1, { eth := 0, stage := 2, recsIn := maxRecords })]
    serves := [{ heat := 0, session := 1, req := 4, base := 0, bytes := 4 }] }

/-- `cons` of the outbox after the row OUTBOX_POLL. -/
def consAfterPoll : Option Nat :=
  match exec (.outboxPoll 0 []) overlappingRings with
  | .next t => some (readNat t 0x30004 4)
  | _ => none

theorem consAfterPoll_eq : consAfterPoll = some 2 := by decide +kernel

theorem outbox_overlappingRings : overlappingRings.errs = [] ∧ dget overlappingRings (netIdx 0) 5 ≠ 0 ∧
    (getHeat overlappingRings 0).st = .running ∧ (overlappingRings.serves.any fun x => x.heat = 0 && x.owed) = false ∧
    inHeat overlappingRings 0 (dget overlappingRings (netIdx 0) 6) (64 + 16 * 2 ^ dget overlappingRings (netIdx 0) 5) = true ∧
    dget overlappingRings (netIdx 0) 6 = 0x30000 ∧ dget overlappingRings (netIdx 0) 5 = 3 ∧
    readNat overlappingRings 0x30000 4 = 1 ∧ readNat overlappingRings (0x30000 + 4) 4 = 0 ∧ aheadOf 1 0 = 1 := by
  decide +kernel

/-- Refutes O60: OUTBOX_POLL moves `cons` past the entry read, but a session that has used up its records then closes, and where the inbox
overlaps the outbox's header the CANCEL entry of its request moves the same bytes on. -/
theorem not_storageAndOutbox : ¬ Obligations.StorageAndOutbox := by
  unfold Obligations.StorageAndOutbox
  intro claim
  obtain ⟨sound, some_, runs, paid, inside, at_, log, prod, cons, one⟩ := outbox_overlappingRings
  obtain ⟨-, -, -, -, outbox⟩ := claim overlappingRings 0 sound
  obtain ⟨drained, -⟩ := outbox 1 0 (by decide) some_ runs paid inside (by rw [at_]; exact prod) (by rw [at_]; exact cons)
  obtain ⟨t, ran, moved, -⟩ := drained (by rw [one]; decide) (by rw [one, log]; decide)
  have after := consAfterPoll_eq
  rw [consAfterPoll, ran] at after
  rw [at_, one] at moved
  simp only [Option.some.injEq] at after
  rw [show 0x30000 + 4 = 0x30004 from rfl, after] at moved
  exact absurd moved (by decide)

end Sys2Proof.Machine
end

section
/-! SUPPORT. A DMA command whose rows have been gathered and whose stores are still to be made (R332): its row makes those, and gathers
nothing more. -/

namespace Sys2Proof.Machine

/-- Stores of no row that are still to be made, and the five elements they count. -/
def noRows : LateStores := { rows := [], list := [], flush := 0, elems := 5, word := 0, st := 0 }

/-- The number of elements that the command of queue 0 counts after a row. -/
def countedAfter (i : Instr) (s : State) : Option Nat :=
  match exec i s with
  | .next t => (flightOf t 0 0).map (·.wordA)
  | _ => none

/-- The command of index 0 of queue 0 is over with one count of elements only. -/
theorem countedAfter_of_ended {i : Instr} {s t : State} {st a b : Nat} (ran : exec i s = .next t) (ended : Ended t 0 0 st a b) :
    countedAfter i s = some a := by
  obtain ⟨f, found, -, -, count, -⟩ := ended
  rw [countedAfter, ran]
  simp only [found, Option.map_some, count]

/-! ## A copy -/

def lateCopy : Flight := { Tests.copy 0 with late := some noRows }
def lateCopyPar : DmaPar := DmaPar.ofDesc lateCopy.desc lateCopy.ext

theorem plainCopy_lateCopy : plainCopy (Tests.cmd lateCopy) 0 0 lateCopy lateCopyPar := by
  unfold plainCopy
  decide +kernel

theorem lateCopyPar_rows : lateCopyPar.memOp = 0 ∧ lateCopyPar.rows = 1 ∧ lateCopyPar.rowLen = 8 ∧
    place (Tests.cmd lateCopy) (gOff lateCopyPar.src + 0 * lateCopyPar.srcStride) = .stack ∧ lateCopyPar.rowLen ≤ lateCopyPar.dstStride ∧
    place (Tests.cmd lateCopy) (gOff lateCopyPar.dst + 0 * lateCopyPar.dstStride) = .stack := by
  decide +kernel

theorem countedAfter_lateCopy : countedAfter (.dmaCopy 0 []) (Tests.cmd lateCopy) = some 5 := by decide +kernel

/-- Refutes O27: a copy whose gathered rows are still to be stored stores those, and not the rows of its source. -/
theorem not_copyRows : ¬ Obligations.CopyRows := by
  unfold Obligations.CopyRows
  intro claim
  obtain ⟨op, rows, rowLen, src, stride, dst⟩ := lateCopyPar_rows
  have only (r : Nat) (inside : r < lateCopyPar.rows) : r = 0 := by omega
  obtain ⟨t, ran, ended, -⟩ := (claim (Tests.cmd lateCopy) 0 0 lateCopy lateCopyPar plainCopy_lateCopy).1 op
    (fun r inside => by rw [only r inside]; exact src) ⟨stride, fun r inside => by rw [only r inside]; exact dst⟩
  have counts := countedAfter_of_ended ran ended
  rw [countedAfter_lateCopy, rows, rowLen] at counts
  exact absurd counts (by decide)

/-! ## A fill -/

def lateFill : Flight := { Tests.started 0x60 [(414, 7), (360, 1), (336, 4), (258, 1)] with
  ext := BitVec.ofNat 512 (2 ^ 384), srcF := some .int8, dstF := some .int8, late := some noRows }
def lateFillPar : DmaPar := DmaPar.ofDesc lateFill.desc lateFill.ext

theorem lateFill_runs :
    let s := Tests.cmd lateFill
    let p := lateFillPar
    runningIn s 0 0x60 = some (0, lateFill) ∧ flightOf s 0 lateFill.index = some lateFill ∧ s.errs = [] ∧ p.srcKind = 0 ∧ p.dstKind = 1 ∧
      isLocal s (gChip p.src) = true ∧ p.rot = 0 ∧ p.gradKind = 0 ∧ p.pfEnable = false ∧ p.cache = false ∧ p.rows = 1 ∧
      bitOf p.rowMask p.bankFirst = true ∧ place s (gOff p.src) = .stack ∧
      p.streamPos + p.bankFirst + 32 * ((p.rowLen + 31) / 32) ≤ (rgElem p.dst).len * 4 ∧
      (getCore s (rgSlot p.dst)).waiting = [] ∧ heldBits (rgElem p.dst) p.bankFirst (getCore s (rgSlot p.dst)).log = [] ∧
      refusedBy s 0 p lateFill.srcF lateFill.dstF = none ∧ p.rowLen = 4 := by
  decide +kernel

theorem countedAfter_lateFill : countedAfter (.dmaCopy 0 []) (Tests.cmd lateFill) = some 5 := by decide +kernel

/-- Refutes O28: a fill with stores still to be made makes those, and fills nothing. -/
theorem not_fillFeedsArray : ¬ Obligations.FillFeedsArray := by
  unfold Obligations.FillFeedsArray
  intro claim
  obtain ⟨runs, found, sound, src, dst, here, rot, grad, pf, cache, rows, bank, place_, room, idle, held, free, rowLen⟩ := lateFill_runs
  obtain ⟨t, g, ran, after, -, counts, -⟩ := claim (Tests.cmd lateFill)
      0 0 lateFill lateFillPar runs found rfl sound src dst here rfl rfl rot
    grad pf cache rows bank place_ room idle held free rfl rfl
  have late := countedAfter_lateFill
  rw [countedAfter, ran] at late
  simp only [show flightOf t 0 0 = some g from after, Option.map_some, counts, rowLen] at late
  exact absurd late (by decide)

/-! ## A stream -/

def lateLanding : Flight := { Tests.started 0x61 [(360, 1), (336, 2), (384, 0x100)] with
  srcF := some .fp32, dstF := some .fp32, late := some noRows }
def lateLandingPar : DmaPar := DmaPar.ofDesc lateLanding.desc lateLanding.ext
def wholeStream : Stream := { queue := 0, index := 0, core := 0, tag := 0, fmt := .fp32, need := 2, elems := [1, 2], closed := false }
def lateStream : State := { Tests.cmd lateLanding with clusters := [(0, { streams := [some wholeStream, none, none, none] })] }

theorem lateLanding_runs :
    let s := lateStream
    let p := lateLandingPar
    runningIn s 0 0x61 = some (0, lateLanding) ∧ flightOf s 0 lateLanding.index = some lateLanding ∧ s.errs = [] ∧
      getStream s (streamOf p).1 (streamOf p).2 = some wholeStream ∧ p.dstKind = 0 ∧ isLocal s (gChip p.dst) = true ∧ p.memOp = 0 ∧
      p.gradKind = 0 ∧ p.listEn = false ∧ refusedBy s 0 p lateLanding.srcF lateLanding.dstF = none ∧
      stagedPart s 0 0 lateLanding.index = false := by
  decide +kernel

theorem countedAfter_lateStream : countedAfter (.quantStream 0) lateStream = some 5 := by decide +kernel

/-- Refutes O29: a hand-off command with stores still to be made makes those, and takes nothing of a stream. -/
theorem not_streamLands : ¬ Obligations.StreamLands := by
  unfold Obligations.StreamLands
  intro claim
  obtain ⟨runs, found, sound, stream, dst, here, op, grad, list, free, staged⟩ := lateLanding_runs
  obtain ⟨t, b, ran, ended, -⟩ := claim lateStream 0 0 lateLanding lateLandingPar wholeStream runs found rfl sound stream rfl rfl
    (.inl (by decide)) dst here op grad list rfl rfl rfl free staged
  have counts := countedAfter_of_ended ran ended
  rw [countedAfter_lateStream] at counts
  exact absurd counts (by decide)

end Sys2Proof.Machine
end

section
/-! SUPPORT. Elements of a core buffer's regions (R60, R67): where they lie, what is read after a write, and what a list of writes
leaves. -/

namespace Sys2Proof.Machine

/-! ## Bits of a byte -/

/-- A half byte that is written is read again. -/
theorem bitsOf_putBits_half {old v lo : Nat} (small : old < 256) (half : lo = 0 ∨ lo = 4) :
    bitsOf (putBits old (lo + 3) lo v % 256) (lo + 3) lo = v % 16 := by
  rcases half with rfl | rfl <;> simp only [bitsOf, putBits, Nat.shiftRight_eq_div_pow] <;> omega

/-! ## Where an element lies -/

/-- The widths that the array drains and the diagonal mode writes. -/
def drainWidth (w : Nat) : Prop := w = 4 ∨ w = 8 ∨ w = 32

/-- The bytes that hold an element of a width. -/
def elemBytes (w : Nat) : Nat := if w < 8 then 1 else w / 8

section
variable {r : Region} {w b p : Nat} (wide : drainWidth w)
include wide

/-- Where in its byte an element starts. -/
theorem posBit_mod : posBit r w b p % 8 = 0 ∨ w = 4 ∧ posBit r w b p % 8 = 4 := by
  unfold posBit
  rcases wide with rfl | rfl | rfl <;> omega

/-- An element's bytes lie within its line. -/
theorem posBit_inLine : posLine r w p * 512 + b * 4 ≤ posBit r w b p / 8 ∧
    posBit r w b p / 8 + elemBytes w ≤ posLine r w p * 512 + b * 4 + 4 := by
  unfold posBit elemBytes
  rcases wide with rfl | rfl | rfl <;> simp only [Nat.reduceLT, if_true, if_false, Nat.lt_irrefl] <;> omega

theorem posBit_inRegion (bank : b < 128) (some : 0 < r.len) : r.line * 512 ≤ posBit r w b p / 8 ∧
    posBit r w b p / 8 + elemBytes w ≤ (r.line + r.len) * 512 := by
  have line := posBit_inLine (r := r) (b := b) (p := p) wide
  have ring := Nat.mod_lt (p * w / 32) some
  have place : posLine r w p = r.line + p * w / 32 % r.len := rfl
  generalize p * w / 32 % r.len = i at ring place
  generalize posLine r w p = x at line place
  generalize posBit r w b p / 8 = y at line ⊢
  generalize elemBytes w = n at line ⊢
  constructor <;> omega

end

/-! ## One element -/

section
variable (s : State) (k : Nat) (r : Region) (b p v : Nat)

theorem putElem_frame (w : Nat) : putElem s k r w b p v = { s with mem := (putElem s k r w b p v).mem } := by
  unfold putElem
  split
  · rfl
  · exact writeNat_frame _ _ _ _

variable {w : Nat}

theorem getByte_putElem_out {a : Nat} (out : a < cbAddr k (posBit r w b p / 8) ∨
    cbAddr k (posBit r w b p / 8) + elemBytes w ≤ a) : getByte (putElem s k r w b p v) a = getByte s a := by
  unfold elemBytes at out
  by_cases narrow : w < 8
  · rw [if_pos narrow] at out
    simp only [putElem, if_pos narrow]
    rw [getByte_putByte, if_neg (by omega)]
  · rw [if_neg narrow] at out
    simp only [putElem, if_neg narrow]
    exact getByte_writeNat_out _ _ out

theorem getElem_putElem_same (wide : drainWidth w) : getElem (putElem s k r w b p v) k r w b p = v % 2 ^ w := by
  have starts := posBit_mod (r := r) (b := b) (p := p) wide
  generalize bit : posBit r w b p = x at starts
  by_cases narrow : w < 8
  · obtain rfl : w = 4 := by
      rcases wide with rfl | rfl | rfl
      · rfl
      · omega
      · omega
    have old : (getByte s (cbAddr k (x / 8))).toNat < 256 := (getByte s (cbAddr k (x / 8))).isLt
    have ends : x % 8 + 4 - 1 = x % 8 + 3 := rfl
    simp only [getElem, putElem, bit, narrow, if_true, readNat, readBytes, List.range_one, List.map_cons, List.map_nil, natOfBytes,
      Nat.add_zero, getByte_putByte, byte, BitVec.toNat_ofNat, Nat.mul_zero, ends, Nat.reducePow]
    exact bitsOf_putBits_half old (by omega)
  · have starts : x % 8 = 0 := by omega
    have whole : 256 ^ (w / 8) = 2 ^ w := by
      rcases wide with rfl | rfl | rfl
      · omega
      · rfl
      · rfl
    simp only [getElem, putElem, bit, if_neg narrow, starts]
    rw [readNat_writeNat_same, whole, bitsOf, Nat.shiftRight_zero, show 0 + w - 1 + 1 - 0 = w by omega, Nat.mod_mod]

theorem getElem_congr {s t : State} (same : ∀ i, i < elemBytes w →
    getByte t (cbAddr k (posBit r w b p / 8) + i) = getByte s (cbAddr k (posBit r w b p / 8) + i)) :
    getElem t k r w b p = getElem s k r w b p := by
  have read := readNat_congr same
  unfold elemBytes at read
  simp only [getElem, read]

end

/-! ## A list of elements -/

/-- Elements of a region written one after another: bank, position and value. -/
def putList (k : Nat) (r : Region) (w : Nat) (l : List (Nat × Nat × Nat)) (s : State) : State :=
  l.foldl (fun s x => putElem s k r w x.1 x.2.1 x.2.2) s

section
variable {k w : Nat} {r : Region} {l : List (Nat × Nat × Nat)} 
theorem putList_cons (k : Nat) (r : Region) (w : Nat) (x : Nat × Nat × Nat) (l : List (Nat × Nat × Nat)) (s : State) :
    putList k r w (x :: l) s = putList k r w l (putElem s k r w x.1 x.2.1 x.2.2) := rfl

theorem putList_frame (l : List (Nat × Nat × Nat)) (s : State) : putList k r w l s = { s with mem := (putList k r w l s).mem } := by
  induction l generalizing s with
  | nil => rfl
  | cons x l ih =>
    rw [putList_cons, ih, putElem_frame]

theorem getByte_putList_out {a : Nat} (out : ∀ x ∈ l, a < cbAddr k (posBit r w x.1 x.2.1 / 8) ∨
    cbAddr k (posBit r w x.1 x.2.1 / 8) + elemBytes w ≤ a) (s : State) : getByte (putList k r w l s) a = getByte s a := by
  induction l generalizing s with
  | nil => rfl
  | cons x l ih =>
    rw [putList_cons, ih fun y later => out y (List.mem_cons_of_mem x later)]
    exact getByte_putElem_out s k r _ _ _ (out x List.mem_cons_self)

/-- Elements of banks of a region leave every byte outside the region. -/
theorem getByte_putList_outside (wide : drainWidth w) (banks : ∀ x ∈ l, x.1 < 128) (some : 0 < r.len) {a : Nat}
    (out : a < cbAddr k (r.line * 512) ∨ cbAddr k ((r.line + r.len) * 512) ≤ a) (s : State) :
    getByte (putList k r w l s) a = getByte s a := by
  refine getByte_putList_out (fun x listed => ?_) s
  have inside := posBit_inRegion (r := r) (p := x.2.1) wide (banks x listed) some
  unfold cbAddr at out ⊢
  omega

end

end Sys2Proof.Machine
end

section
/-! SUPPORT. A pass of the array (R66, R67, R120 to R122): what it writes into the core buffer, and what follows one whose counters
cross nothing. -/

namespace Sys2Proof.Machine

/-! ## A pass whose counters cross nothing -/

/-- A tile after a pass whose counters cross nothing: its drain events, and no repeat decided. -/
def TileRun.settled (t : TileRun) (o : PassOut) : TileRun :=
  { t with
    trigA := if t.repeats = 0 then 0 else t.trigA
    trigB := if t.repeats = 0 then 0 else t.trigB
    drainSat := o.drainSat
    drainFlush := o.drainFlush
    widenA := false
    widenB := false
    again := false }

theorem evaluatePass_of_crossesNothing {t : TileRun} {o : PassOut} (quiet : crossesNothing t.policy o = true) (s : State) (h q k : Nat)
    (f : Flight) (g : GemmPar) :
    evaluatePass s h q k f g t o = finishTile s q f.index (isIntFmt g.fA) (t.settled o) := by
  simp only [crossesNothing, Bool.and_eq_true, beq_iff_eq, Bool.not_eq_true'] at quiet
  obtain ⟨⟨⟨⟨trigA, trigB⟩, nanbA⟩, nanbB⟩, wloss⟩ := quiet
  simp [evaluatePass, trigA, trigB, nanbA, nanbB, wloss, TileRun.settled]

theorem afterPass_of_crossesNothing {t : TileRun} {o : PassOut} (sound : o.bad = []) (quiet : crossesNothing t.policy o = true)
    (s : State) (h q k : Nat) (f : Flight) (g : GemmPar) :
    afterPass s h q k f g t o = finishTile s q f.index (isIntFmt g.fA) (t.settled o) := by
  rw [afterPass, sound, List.isEmpty_nil, if_pos rfl, evaluatePass_of_crossesNothing quiet]

/-! ## What a pass writes -/

/-- The outputs of a pass as elements of the output region: column, row and code. -/
def outElems (l : List (Nat × Nat × Nat)) : List (Nat × Nat × Nat) := l.map fun x => (x.2.1, x.1, x.2.2)

theorem drainWidth_fD (g : GemmPar) : drainWidth g.fD.elemBits := by
  unfold GemmPar.fD drainFmt
  split <;> simp [drainWidth, Fmt.elemBits]

theorem writeOuts_eq (s : State) (k : Nat) (g : GemmPar) (l : List (Nat × Nat × Nat)) :
    writeOuts s k g l = noteBufWrite (putList k g.out g.fD.elemBits (outElems l) s) k
      (l.map fun x => (posBit g.out g.fD.elemBits x.2.1 x.1 / 8, if g.fD.elemBits < 8 then 1 else g.fD.elemBits / 8)) := by
  rw [writeOuts, putList, outElems, List.foldl_map]

/-- Every output of a pass lies in a bank of its operand B. -/
theorem bank_of_outs (s : State) (k : Nat) (g : GemmPar) (a b : Operand) (cls : Cls) (n : Nature) {x : Nat × Nat × Nat}
    (out : x ∈ (runPass s k g a b cls n).outs) : x.2.1 ∈ b.banks := by
  unfold runPass at out
  split at out
  · simp only [intPass, List.mem_map, List.mem_flatMap] at out
    obtain ⟨cell, ⟨y, -, z, listed, rfl⟩, rfl⟩ := out
    exact (List.of_mem_zip listed).1
  · simp only [floatPass, List.mem_map, List.mem_flatMap] at out
    obtain ⟨cell, ⟨y, -, z, listed, rfl⟩, rfl⟩ := out
    exact (List.of_mem_zip listed).1

theorem cols_le (d : Slot) : (GemmPar.ofDesc d).cols ≤ 128 := by
  have small : fld d 247 241 < 2 ^ 7 := Nat.mod_lt _ (by decide)
  change fld d 247 241 + 1 ≤ 128
  omega

theorem len_pos_regionAt (d : Slot) (lo : Nat) : 0 < (regionAt d lo).len := Nat.succ_pos _

/-! ## What changes beside the buffer -/

/-- Nothing but memory, cores, queues and the dictionary changes. -/
def ArrayFrame (s t : State) : Prop := t = { s with mem := t.mem, cores := t.cores, queues := t.queues, dict := t.dict }

theorem ArrayFrame.trans {s u t : State} (a : ArrayFrame s u) (b : ArrayFrame u t) : ArrayFrame s t := by
  unfold ArrayFrame at a b ⊢
  rw [b, a]

theorem arrayFrame_modCore (s : State) (k : Nat) (f : Core → Core) : ArrayFrame s (modCore s k f) := rfl
theorem arrayFrame_modFlight (s : State) (q i : Nat) (f : Flight → Flight) : ArrayFrame s (modFlight s q i f) := rfl
theorem arrayFrame_addFlush (s : State) (h n : Nat) : ArrayFrame s (addFlush s h n) := by
  unfold addFlush
  split <;> rfl

theorem arrayFrame_noteBufWrite (s : State) (k : Nat) (l : List (Nat × Nat)) : ArrayFrame s (noteBufWrite s k l) := by
  unfold noteBufWrite
  split <;> rfl

theorem arrayFrame_putList (k : Nat) (r : Region) (w : Nat) (l : List (Nat × Nat × Nat)) (s : State) :
    ArrayFrame s (putList k r w l s) := by
  rw [ArrayFrame, putList_frame]

theorem ArrayFrame.blank {s t : State} (a : ArrayFrame s t) : t.blank = s.blank := by rw [a]

/-! ## What the array takes -/

section
variable (s : State) (k : Nat)

/-- Nothing waits for the array at a core. -/
def idleArray (s : State) (k : Nat) : Prop := (getCore s k).waiting = []

variable {s k}

theorem idleArray_modCore (idle : idleArray s k) {f : Core → Core} (keeps : ∀ c : Core, c.waiting = [] → (f c).waiting = []) :
    idleArray (modCore s k f) k := by
  rw [idleArray, modCore_eq, getCore_setCore_same]
  exact keeps _ idle

theorem idleArray_congr {t : State} (idle : idleArray s k) (same : t.cores = s.cores) : idleArray t k := by
  rwa [idleArray, getCore, same]

theorem idleArray_noteBufWrite (idle : idleArray s k) (l : List (Nat × Nat)) : idleArray (noteBufWrite s k l) k := by
  unfold noteBufWrite
  split
  · exact idle
  · exact idleArray_modCore idle fun _ none => none

theorem idleArray_consume (idle : idleArray s k) (r : Region) (p0 p1 : Nat) (skew : Bool) : idleArray (consume s k r p0 p1 skew) k :=
  idleArray_modCore idle fun c none => by simp [none]

/-- With nothing waiting, what the array has taken lets no fill move. -/
theorem moveFills_of_idle (idle : idleArray s k) : moveFills s k = modCore s k fun c => { c with waiting := [] } := by
  have nothing : (getCore s k).waiting = [] := idle
  simp only [moveFills, advanceWaiting, nothing, List.filter_nil, List.foldl_nil]

end

end Sys2Proof.Machine
end

section
/-! SUPPORT. GEMM_TILE's first pass (R72 to R92), where no check finds it wrong and its counters cross nothing. -/

namespace Sys2Proof.Machine

section
variable (s : State) (h k : Nat) (g : GemmPar) (t : TileRun) (o : PassOut)

/-- The outputs of a pass written, the tile's reference left at its core. -/
def outWritten : State := putList k g.out g.fD.elemBits (outElems o.outs) (leaveRef s k (tileRefOf g t))

/-- The state at the end of a pass: its outputs written, its operands consumed, its events counted. -/
def passed : State :=
  let u := writeOuts (leaveRef s k (tileRefOf g t)) k g o.outs
  addFlush (consume (consume u k g.aElem t.pos0 (t.pos0 + 32 * g.kBlocks) true) k g.bElem t.pos0 (t.pos0 + 32 * g.kBlocks) true)
    h o.drainFlush

variable {s h k g t o}

theorem noteBufWrite_mem (u : State) (l : List (Nat × Nat)) : (noteBufWrite u k l).mem = u.mem := by
  unfold noteBufWrite
  split <;> rfl

theorem passed_mem : (passed s h k g t o).mem = (outWritten s k g t o).mem := by
  rw [passed, addFlush_mem]
  change (writeOuts _ k g o.outs).mem = _
  rw [writeOuts_eq, noteBufWrite_mem]
  rfl

theorem arrayFrame_outWritten : ArrayFrame s (outWritten s k g t o) := 
  (show ArrayFrame s (leaveRef s k (tileRefOf g t)) from rfl).trans (arrayFrame_putList _ _ _ _ _)

theorem arrayFrame_passed : ArrayFrame s (passed s h k g t o) := by
  have wrote : ArrayFrame s (writeOuts (leaveRef s k (tileRefOf g t)) k g o.outs) := by
    rw [writeOuts_eq]
    exact arrayFrame_outWritten.trans (arrayFrame_noteBufWrite _ _ _)
  exact ((wrote.trans (arrayFrame_modCore _ _ _)).trans (arrayFrame_modCore _ _ _)).trans (arrayFrame_addFlush _ _ _)

theorem queues_passed : (passed s h k g t o).queues = s.queues := by
  rw [passed, queues_addFlush]
  change (writeOuts _ k g o.outs).queues = _
  rw [writeOuts_eq, queues_noteBufWrite, putList_frame]
  rfl

theorem idleArray_passed (idle : idleArray s k) : idleArray (passed s h k g t o) k := by
  have left : idleArray (leaveRef s k (tileRefOf g t)) k := idleArray_modCore (f := fun c => { c with prev := some (tileRefOf g t) })
      idle fun _ none => none
  have wrote : idleArray (writeOuts (leaveRef s k (tileRefOf g t)) k g o.outs) k := by
    rw [writeOuts_eq]
    exact idleArray_noteBufWrite (idleArray_congr left (by rw [putList_frame])) _
  exact idleArray_congr (idleArray_consume (idleArray_consume wrote _ _ _ _) _ _ _ _) (addFlush_cores _ _ _)

theorem getByte_outWritten_outside (banks : ∀ x ∈ o.outs, x.2.1 < 128) (some : 0 < g.out.len) {a : Nat}
    (out : a < cbAddr k (g.out.line * 512) ∨ cbAddr k ((g.out.line + g.out.len) * 512) ≤ a) :
    getByte (outWritten s k g t o) a = getByte s a := by
  refine (getByte_putList_outside (drainWidth_fD g) (fun x listed => ?_) some out _).trans rfl
  obtain ⟨y, there, rfl⟩ := List.mem_map.mp listed
  exact banks y there

theorem getElem_outWritten_single {i j v : Nat} (single : o.outs = [(i, j, v)]) :
    getElem (outWritten s k g t o) k g.out g.fD.elemBits j i = v % 2 ^ g.fD.elemBits := by
  rw [outWritten, single]
  exact getElem_putElem_same _ k g.out j i v (drainWidth_fD g)

end

/-- A tile as its first pass leaves it to be looked at: the stall of its operands, and what its core held. -/
def TileRun.entered (t : TileRun) (n : Nature) (c : Core) : TileRun := { t with feedStall := n.feedStall, log := c.log, waiting :=
    c.waiting }

/-- What GEMM_TILE leaves after a pass that no check finds wrong and whose counters cross nothing. -/
def tilePassed (s : State) (h q k : Nat) (f : Flight) (t : TileRun) (n : Nature) (o : PassOut) : State :=
  let g := GemmPar.ofDesc f.desc
  finishTile (modCore (passed s h k g t o) k fun c => { c with waiting := [] }) q f.index (isIntFmt g.fA)
    ((t.entered n (getCore (leaveRef s k (tileRefOf g t)) k)).settled o)

section
variable {s : State} {q h : Nat} {f : Flight} {t : TileRun} {n : Nature}

/-- The pass that GEMM_TILE makes. -/
def firstPass (s : State) (q h : Nat) (f : Flight) (t : TileRun) (n : Nature) : PassOut :=
  let g := GemmPar.ofDesc f.desc
  let k := (getQueue s q).slot
  runPass s k g (bufferOperand s k (heatCls s h) g.fA g.aElem g.aScale (activeRows g) g.kBlocks t.pos0 t.kblk0)
    (bufferOperand s k (heatCls s h) g.fB g.bElem g.bScale (List.range g.cols) g.kBlocks t.pos0 t.kblk0) (heatCls s h) n

/-- A pass entered in the buffer, before it is looked at. -/
def passedOver (s : State) (h k : Nat) (g : GemmPar) (t : TileRun) (o : PassOut) : State :=
  let u := writeOver (writeOver (leaveRef s k (tileRefOf g t)) k g.aElem g.fA.elemBits t.pos0 o.excess) k g.bElem g.fB.elemBits t.pos0
    o.overB
  addFlush (consume (consume (writeOuts u k g o.outs) k g.aElem t.pos0 (t.pos0 + 32 * g.kBlocks) true) k g.bElem t.pos0
    (t.pos0 + 32 * g.kBlocks) true) h o.drainFlush

theorem passedOver_of_none {k : Nat} {g : GemmPar} {o : PassOut} (excess : o.excess = []) (none : o.overB = []) :
    passedOver s h k g t o = passed s h k g t o := by
  rw [passedOver, excess, none]
  rfl

/-- Both operands of a tile are in place. -/
def fed (s : State) (k : Nat) (g : GemmPar) (t : TileRun) : Prop :=
  feedMissing s k g.fA g.aElem (activeRows g) g.kBlocks t.pos0 = false ∧
    feedMissing s k g.fB g.bElem (List.range g.cols) g.kBlocks t.pos0 = false

theorem gemmStep_of_fed (tile : f.tile = some t) (mask : (GemmPar.ofDesc f.desc).rowMask ≠ 0)
    (inPlace : fed s (getQueue s q).slot (GemmPar.ofDesc f.desc) t) :
    gemmStep q n h f s =
      let k := (getQueue s q).slot
      let g := GemmPar.ofDesc f.desc
      afterPass (moveFills (passedOver s h k g t (firstPass s q h f t n)) k) h q k f g
        (t.entered n (getCore (leaveRef s k (tileRefOf g t)) k)) (firstPass s q h f t n) := by
  obtain ⟨fedA, fedB⟩ := inPlace
  simp only [gemmStep, tile, if_neg mask, fedA, fedB, Bool.or_false, Bool.false_eq_true, if_false]
  rfl

theorem gemmStep_of_quiet (tile : f.tile = some t) (mask : (GemmPar.ofDesc f.desc).rowMask ≠ 0)
    (inPlace : fed s (getQueue s q).slot (GemmPar.ofDesc f.desc) t)
    (idle : idleArray s (getQueue s q).slot) (sound : (firstPass s q h f t n).bad = [])
    (quiet : crossesNothing t.policy (firstPass s q h f t n) = true) (excess : (firstPass s q h f t n).excess = [])
    (none : (firstPass s q h f t n).overB = []) :
    gemmStep q n h f s = tilePassed s h q (getQueue s q).slot f t n (firstPass s q h f t n) := by
  rw [gemmStep_of_fed tile mask inPlace]
  generalize firstPass s q h f t n = o at sound quiet excess none ⊢
  have moved := moveFills_of_idle (idleArray_passed (h := h) (g := GemmPar.ofDesc f.desc) (t := t) (o := o) idle)
  simp only [passedOver_of_none excess none, moved]
  exact afterPass_of_crossesNothing (t := t.entered n _) sound quiet _ _ _ _ _ _

end

/-! ## What the tile leaves -/

section
variable {s : State} {h q k : Nat} {f : Flight} {t : TileRun} {n : Nature} {o : PassOut}

theorem getByte_tilePassed (a : Nat) :
    getByte (tilePassed s h q k f t n o) a = getByte (outWritten s k (GemmPar.ofDesc f.desc) t o) a := by
  refine getByte_congr (passed_mem (h := h)) ?_ a
  exact (arrayFrame_passed (h := h) (o := o)).blank.trans arrayFrame_outWritten.blank.symm

theorem getElem_tilePassed (r : Region) (w b p : Nat) :
    getElem (tilePassed s h q k f t n o) k r w b p = getElem (outWritten s k (GemmPar.ofDesc f.desc) t o) k r w b p :=
  getElem_congr k r b p fun _ _ => getByte_tilePassed _

theorem arrayFrame_tilePassed : ArrayFrame s (tilePassed s h q k f t n o) :=
  (arrayFrame_passed (h := h) (g := GemmPar.ofDesc f.desc) (t := t) (o := o)).trans rfl

theorem tilePassed_ended {f' : Flight} (there : flightOf s q f.index = some f') :
    let z := (t.entered n (getCore (leaveRef s k (tileRefOf (GemmPar.ofDesc f.desc) t)) k)).settled o
    let int := isIntFmt (GemmPar.ofDesc f.desc).fA
    Ended (tilePassed s h q k f t n o) q f.index (tileFinal int z) (tileSummary int z)
      (satNat 32 n.feedStall * 2 ^ 32 + satNat 16 o.drainSat * 2 ^ 16 + satNat 16 o.drainFlush) := by
  refine finishTile_ended (f := f') ?_ _ _
  exact (flightOf_congr queues_passed q f.index).trans there

end

/-- A tile that has met no event ends with success. -/
theorem tileFinal_settled {t : TileRun} (new : t = { rungA := t.rungA, rungB := t.rungB, pos0 := t.pos0, kblk0 := t.kblk0, policy :=
    t.policy })
    (int : Bool) (n : Nature) (c : Core) (o : PassOut) :
    tileFinal int ((t.entered n c).settled o) = 0 ∧ tileSummary int ((t.entered n c).settled o) = tileSummary int t := by
  rw [new]
  cases int
  · exact ⟨rfl, rfl⟩
  · exact ⟨rfl, rfl⟩

/-- Settles O24: the outputs are the only bytes written, and the tile ends as its new run does. -/
theorem tilePass : Obligations.TilePass := by
  unfold Obligations.TilePass
  intro s q h f n ra rb p b pol run r k g c w o tile mask fedA fedB idle sound quiet excess none
  have passes := gemmStep_of_quiet tile mask ⟨fedA, fedB⟩ idle sound quiet excess none
  refine ⟨_, (exec_gemmTile_of_runningIn run n).trans (congrArg _ passes), ?_, arrayFrame_tilePassed, fun i j v single => ?_,
      fun a out => ?_⟩
  · obtain ⟨f', there⟩ := flightOf_of_runningIn run
    have ended := tilePassed_ended (h := h) (k := k) (t := r) (n := n) (o := o) there
    obtain ⟨final, summary⟩ := tileFinal_settled (t := r) rfl (isIntFmt g.fA) n (getCore (leaveRef s k (tileRefOf g r)) k) o
    simp only at ended
    rwa [final, summary] at ended
  · rw [getElem_tilePassed]
    exact getElem_outWritten_single single
  · rw [getByte_tilePassed]
    refine getByte_outWritten_outside (fun x listed => ?_) (len_pos_regionAt f.desc 264) out
    have bank := List.mem_range.mp (bank_of_outs _ _ _ _ _ _ _ listed)
    exact lt_of_lt_of_le bank (cols_le f.desc)

end Sys2Proof.Machine
end

section
/-! SUPPORT. DIAG_EW (R94 to R97, R433 to R436): the places of its results, what a pass writes, and its photo finish. -/

namespace Sys2Proof.Machine

/-! ## Places of 32-bit elements -/

section
variable {k : Nat} {r : Region}

/-- Where a 32-bit element of a region that holds its position lies. -/
theorem posBit_wide {p : Nat} (b : Nat) (inside : p < r.len) : posBit r 32 b p / 8 = (r.line + p) * 512 + b * 4 := by
  have line : p * 32 / 32 % r.len = p := by rw [Nat.mul_div_cancel _ (by decide), Nat.mod_eq_of_lt inside]
  unfold posBit posLine
  rw [line]
  omega

/-- Elements at different places of a region share no byte. -/
theorem posBit_apart {b c p p' : Nat} (bankB : b < 128) (bankC : c < 128) (inP : p < r.len) (inP' : p' < r.len) (other : (b, p) ≠ (c, p')) :
    posBit r 32 b p / 8 + 4 ≤ posBit r 32 c p' / 8 ∨ posBit r 32 c p' / 8 + 4 ≤ posBit r 32 b p / 8 := by
  rw [posBit_wide b inP, posBit_wide c inP']
  simp only [ne_eq, Prod.mk.injEq, not_and] at other
  omega

/-- Where the places of a list differ, each holds what was written there. -/
theorem getElem_putList_of_apart {l : List (Nat × Nat × Nat)} (inside : ∀ x ∈ l, x.1 < 128 ∧ x.2.1 < r.len)
    (apart : l.Pairwise fun x y => (x.1, x.2.1) ≠ (y.1, y.2.1)) {x : Nat × Nat × Nat} (listed : x ∈ l) (s : State) :
    getElem (putList k r 32 l s) k r 32 x.1 x.2.1 = x.2.2 % 2 ^ 32 := by
  induction l generalizing s with
  | nil => cases listed
  | cons y l ih =>
    obtain ⟨here, later⟩ := List.pairwise_cons.mp apart
    rw [putList_cons]
    rcases List.mem_cons.mp listed with rfl | tail
    · refine Eq.trans ?_ (getElem_putElem_same s k r x.1 x.2.1 x.2.2 (.inr (.inr rfl)))
      refine getElem_congr k r _ _ fun i four => getByte_putList_out (fun z there => ?_) _
      have places := posBit_apart (inside x listed).1 (inside z (List.mem_cons_of_mem _ there)).1 (inside x listed).2
        (inside z (List.mem_cons_of_mem _ there)).2 (here z there)
      change i < 4 at four
      change _ ∨ _ + 4 ≤ _
      unfold cbAddr
      omega
    · exact ih (fun z there => inside z (List.mem_cons_of_mem _ there)) later tail _

end

/-! ## The results of a DIAG_EW -/

/-- Results of a DIAG_EW as elements of its result region: bank, position and code. -/
def diagElems (l : List (Nat × Nat)) : List (Nat × Nat × Nat) := l.map fun x => (diagBank x.1, diagPos x.1, x.2)

theorem writeDiag_eq (s : State) (k : Nat) (d : DiagPar) (l : List (Nat × Nat)) :
    writeDiag s k d l = modCore (noteBufWrite (putList k d.r 32 (diagElems l) s) k
      (l.map fun x => (posBit d.r 32 (diagBank x.1) (diagPos x.1) / 8, 4))) k fun c => { c with prev := none } := by
  rw [writeDiag, putList, diagElems, List.foldl_map]

theorem diagBank_lt (e : Nat) : diagBank e < 128 := Nat.mod_lt _ (by decide)

theorem diagPos_lt {e n : Nat} (inside : e < n) : diagPos e < 32 * ((n + 4095) / 4096) := by
  unfold diagPos
  omega

theorem diagPlace_inj {e e' : Nat} (same : (diagBank e, diagPos e) = (diagBank e', diagPos e')) : e = e' := by
  simp only [diagBank, diagPos, Prod.mk.injEq] at same
  omega

/-- The elements of a DIAG_EW, in their order. -/
theorem diagRun_elements (s : State) (k : Nat) (cls : Cls) (d : DiagPar) (errs : List Residue) :
    (diagRun s k cls d errs).outs.map (·.1) = (List.range (d.n / 32)).flatMap fun m => (List.range 32).map fun j => 32 * m + j := by
  simp only [diagRun, List.map_map, List.map_flatMap]
  rfl

theorem range_by_32 (m : Nat) : ((List.range m).flatMap fun i => (List.range 32).map fun j => 32 * i + j) = List.range (m * 32) := by
  induction m with
  | zero => rfl
  | succ m ih =>
    have more : List.range ((m + 1) * 32) = List.range (m * 32) ++ (List.range 32).map fun j => 32 * m + j := by
      rw [Nat.succ_mul, List.range_add, Nat.mul_comm m]
    rw [List.range_succ (n := m), List.flatMap_append, ih, List.flatMap_singleton, more]

/-- A DIAG_EW gives one result for each of its elements. -/
theorem diagRun_range (s : State) (k : Nat) (cls : Cls) (desc : Slot) (errs : List Residue) :
    let d := DiagPar.ofDesc desc
    (diagRun s k cls d errs).outs.map (·.1) = List.range d.n := by
  intro d
  have whole : d.n / 32 * 32 = d.n := by
    change (fld desc 367 354 + 1) * 32 / 32 * 32 = (fld desc 367 354 + 1) * 32
    omega
  rw [diagRun_elements, range_by_32, whole]

section
variable {s : State} {k : Nat} {cls : Cls} {desc : Slot} {errs : List Residue}
  (holds : 32 * (((DiagPar.ofDesc desc).n + 4095) / 4096) ≤ (DiagPar.ofDesc desc).r.len)
include holds

theorem diagElems_inside {x : Nat × Nat × Nat} (listed : x ∈ diagElems (diagRun s k cls (DiagPar.ofDesc desc) errs).outs) :
    x.1 < 128 ∧ x.2.1 < (DiagPar.ofDesc desc).r.len := by
  obtain ⟨y, there, rfl⟩ := List.mem_map.mp listed
  have element : y.1 ∈ (diagRun s k cls (DiagPar.ofDesc desc) errs).outs.map (·.1) := List.mem_map_of_mem there
  rw [diagRun_range] at element
  exact ⟨diagBank_lt _, lt_of_lt_of_le (diagPos_lt (List.mem_range.mp element)) holds⟩

omit holds in
theorem diagElems_apart :
    (diagElems (diagRun s k cls (DiagPar.ofDesc desc) errs).outs).Pairwise fun x y => (x.1, x.2.1) ≠ (y.1, y.2.1) := by
  have once : ((diagRun s k cls (DiagPar.ofDesc desc) errs).outs.map (·.1)).Pairwise (· ≠ ·) := by
    rw [diagRun_range]
    exact List.nodup_range
  rw [List.pairwise_map] at once
  rw [diagElems, List.pairwise_map]
  exact once.imp fun other same => other (diagPlace_inj same)

/-- What the results leave in memory: each in its place, and no other byte of the buffer changed. -/
theorem diagWrites (u : State) :
    let d := DiagPar.ofDesc desc
    let l := (diagRun s k cls d errs).outs
    (∀ x ∈ l, getElem (putList k d.r 32 (diagElems l) u) k d.r 32 (diagBank x.1) (diagPos x.1) = x.2 % 2 ^ 32) ∧
      ∀ a, (a < cbAddr k (d.r.line * 512) ∨ cbAddr k ((d.r.line + d.r.len) * 512) ≤ a) →
        getByte (putList k d.r 32 (diagElems l) u) a = getByte u a := by
  intro d l
  refine ⟨fun x listed => ?_, fun a out => ?_⟩
  · exact getElem_putList_of_apart (fun _ => diagElems_inside holds) diagElems_apart
      (List.mem_map_of_mem (f := fun x : Nat × Nat => (diagBank x.1, diagPos x.1, x.2)) listed) u
  · exact getByte_putList_outside (.inr (.inr rfl)) (fun x listed => (diagElems_inside holds listed).1)
      (len_pos_regionAt desc 368) out u

end

/-! ## The rows -/

/-- Memory, its blank ranges and the cores are those of another state, and the flights too. -/
structure SameWork (s t : State) : Prop where
  mem : t.mem = s.mem
  blank : t.blank = s.blank
  cores : t.cores = s.cores
  queues : t.queues = s.queues

theorem SlotFrame.sameWork {s t : State} (a : SlotFrame s t) : SameWork s t := by
  have whole := a.whole
  exact ⟨by rw [whole], by rw [whole], by rw [whole], by rw [whole]⟩

section
variable {s : State} {k : Nat}

theorem writeDiag_mem (d : DiagPar) (l : List (Nat × Nat)) : (writeDiag s k d l).mem = (putList k d.r 32 (diagElems l) s).mem := by
  rw [writeDiag_eq]
  exact noteBufWrite_mem _ _

theorem arrayFrame_writeDiag (d : DiagPar) (l : List (Nat × Nat)) : ArrayFrame s (writeDiag s k d l) := by
  rw [writeDiag_eq]
  exact ((arrayFrame_putList _ _ _ _ _).trans (arrayFrame_noteBufWrite _ _ _)).trans (arrayFrame_modCore _ _ _)

theorem queues_writeDiag (d : DiagPar) (l : List (Nat × Nat)) : (writeDiag s k d l).queues = s.queues := by
  rw [writeDiag_eq]
  change (noteBufWrite _ _ _).queues = _
  rw [queues_noteBufWrite, putList_frame]

theorem idleArray_writeDiag (idle : idleArray s k) (d : DiagPar) (l : List (Nat × Nat)) : idleArray (writeDiag s k d l) k := by
  rw [writeDiag_eq]
  refine idleArray_modCore (idleArray_noteBufWrite (idleArray_congr idle ?_) _) fun _ none => none
  rw [putList_frame]

/-- What the results leave, in a state whose memory is that after they were written. -/
theorem diagWrites_of_mem {cls : Cls} {desc : Slot} {errs : List Residue} {t u : State}
    (holds : 32 * (((DiagPar.ofDesc desc).n + 4095) / 4096) ≤ (DiagPar.ofDesc desc).r.len)
    (bytes : ∀ a, getByte u a = getByte s a)
    (after : ∀ a, getByte t a = getByte (writeDiag u k (DiagPar.ofDesc desc) (diagRun s k cls (DiagPar.ofDesc desc) errs).outs) a) :
    let d := DiagPar.ofDesc desc
    (∀ x ∈ (diagRun s k cls d errs).outs, getElem t k d.r 32 (diagBank x.1) (diagPos x.1) = x.2 % 2 ^ 32) ∧
      ∀ a, (a < cbAddr k (d.r.line * 512) ∨ cbAddr k ((d.r.line + d.r.len) * 512) ≤ a) → getByte t a = getByte s a := by
  intro d
  obtain ⟨each, rest⟩ := diagWrites (s := s) (k := k) (cls := cls) (errs := errs) holds u
  have wrote (a : Nat) : getByte t a = getByte (putList k d.r 32 (diagElems (diagRun s k cls d errs).outs) u) a := by
    rw [after]
    refine getByte_congr (writeDiag_mem _ _) ?_ a
    rw [(arrayFrame_writeDiag _ _).blank, putList_frame]
  refine ⟨fun x listed => ?_, fun a out => (wrote a).trans ((rest a out).trans (bytes a))⟩
  rw [getElem_congr k d.r _ _ fun _ _ => wrote _, each x listed]

/-- The inputs of a DIAG_EW taken. -/
def diagTaken (s : State) (k : Nat) (d : DiagPar) : State :=
  let p := 32 * ceilDiv d.n 4096
  let u := consume (consume s k d.a 0 p false) k d.b 0 p false
  if d.fma then consume u k d.c 0 p false else u

theorem endDiag_of_idle (idle : idleArray s k) (h q : Nat) (f : Flight) (d : DiagPar) (st : Nat) (e : Ev) :
    endDiag s h q k f d st e = finish (addFlush (modCore (diagTaken s k d) k fun c => { c with waiting := [] }) h e.flush) q f.index st d.n
      (satNat 16 e.sat * 2 ^ 16 + satNat 16 e.flush) := by
  have taken : idleArray (diagTaken s k d) k := by
    have both := idleArray_consume (idleArray_consume idle d.a 0 (32 * ceilDiv d.n 4096) false) d.b 0 (32 * ceilDiv d.n 4096) false
    unfold diagTaken
    dsimp only
    split
    · exact idleArray_consume both _ _ _ _
    · exact both
  rw [← moveFills_of_idle taken]
  rfl

/-- What the end of a DIAG_EW leaves of the state before it. -/
theorem endDiag_frame (idle : idleArray s k) (h q : Nat) (f : Flight) (d : DiagPar) (st : Nat) (e : Ev) :
    ArrayFrame s (endDiag s h q k f d st e) ∧ (∀ a, getByte (endDiag s h q k f d st e) a = getByte s a) := by
  rw [endDiag_of_idle idle]
  have frame : ArrayFrame s (diagTaken s k d) ∧ (diagTaken s k d).mem = s.mem ∧ (diagTaken s k d).blank = s.blank := by
    unfold diagTaken
    dsimp only
    split
    · exact ⟨rfl, rfl, rfl⟩
    · exact ⟨rfl, rfl, rfl⟩
  obtain ⟨whole, mem, blank⟩ := frame
  generalize diagTaken s k d = u at whole mem blank
  have counted : ArrayFrame u (addFlush (modCore u k fun c => { c with waiting := [] }) h e.flush) :=
    (arrayFrame_modCore u k _).trans (arrayFrame_addFlush _ _ _)
  refine ⟨(whole.trans counted).trans (arrayFrame_modFlight _ _ _ _), fun a => getByte_congr ?_ ?_ a⟩
  · exact (addFlush_mem _ _ _).trans mem
  · exact counted.blank.trans blank

theorem flightOf_endDiag (idle : idleArray s k) (h q : Nat) (f : Flight) (d : DiagPar) (st : Nat) (e : Ev) :
    flightOf (endDiag s h q k f d st e) q f.index = (flightOf s q f.index).map fun g =>
      { g with done := true, status := pickStatus st g.status, wordA := d.n, wordB := satNat 16 e.sat * 2 ^ 16 + satNat 16 e.flush } := by
  rw [endDiag_of_idle idle, ← flightOf_congr (s := s) ?_ q f.index]
  · exact flightOf_modFlight_same _ q f.index fun _ => rfl
  rw [queues_addFlush]
  change (diagTaken s k d).queues = s.queues
  unfold diagTaken
  dsimp only
  split
  · rfl
  · rfl

end

/-! ## What the rows do -/

section
variable {s : State} {q h : Nat} {f : Flight} {n : Nature}

theorem exec_diagEw_of_sound (run : runningIn s q opDiag = some (h, f))
    (inPlace : diagMissing s (getQueue s q).slot (DiagPar.ofDesc f.desc) = false)
    (sound : (diagRun s (getQueue s q).slot (heatCls s h) (DiagPar.ofDesc f.desc) n.errors).bad = []) :
    let k := (getQueue s q).slot
    let d := DiagPar.ofDesc f.desc
    let o := diagRun s k (heatCls s h) d n.errors
    exec (.diagEw q n) s = .next (endDiag (writeDiag s k d o.outs) h q k f d stSuccess o.ev) := by
  refine (withRunning_of_runningIn run _).trans (congrArg _ ?_)
  simp only [inPlace, sound, Bool.false_eq_true, if_false, List.isEmpty_nil, if_true]

theorem exec_diagEw_of_marked (run : runningIn s q opDiag = some (h, f))
    (inPlace : diagMissing s (getQueue s q).slot (DiagPar.ofDesc f.desc) = false)
    (bad : (diagRun s (getQueue s q).slot (heatCls s h) (DiagPar.ofDesc f.desc) n.errors).bad ≠ [])
    (again : canRerun (writeDiag s (getQueue s q).slot (DiagPar.ofDesc f.desc)
      (diagRun s (getQueue s q).slot (heatCls s h) (DiagPar.ofDesc f.desc) n.errors).outs) h (getQueue s q).slot
      (diagOwners s (getQueue s q).slot (DiagPar.ofDesc f.desc)) = true) :
    let k := (getQueue s q).slot
    let d := DiagPar.ofDesc f.desc
    let o := diagRun s k (heatCls s h) d n.errors
    exec (.diagEw q n) s = .next (modFlight (writeDiag s k d o.outs) q f.index fun f =>
      { f with acted := true, diag := some ⟨o.bad, o.outs⟩ }) := by
  have found : (diagRun s (getQueue s q).slot (heatCls s h) (DiagPar.ofDesc f.desc) n.errors).bad.isEmpty = false :=
    List.isEmpty_eq_false_iff.mpr bad
  refine (withRunning_of_runningIn run _).trans (congrArg _ ?_)
  simp only [inPlace, found, again, Bool.false_eq_true, if_false, if_true]

/-- The state in which a DIAG_EW is run again: its mark gone, the photo finish counted. -/
def unmarked (s : State) (q i : Nat) : State := modFlight (dadd s 0x2D60 2 1) q i fun f => { f with diag := none }

theorem exec_photoFinish_of_diag {m : DiagMark} (none : tileFlight s q (fun x => !x.marked.isEmpty) = none)
    (marked : diagFlight s q = some (h, f, m))
    (sound : (diagRun s (getQueue s q).slot (heatCls s h) (DiagPar.ofDesc f.desc) n.errors).bad = [])
    (agree : diagAgree m (diagRun s (getQueue s q).slot (heatCls s h) (DiagPar.ofDesc f.desc) n.errors).outs = true) :
    let k := (getQueue s q).slot
    let d := DiagPar.ofDesc f.desc
    let o := diagRun s k (heatCls s h) d n.errors
    exec (.photoFinish q n) s = .next (endDiag (recordTransient (writeDiag (unmarked s q f.index) k d o.outs) (physSlot s k) 0 (some h))
      h q k f d stCorrArray o.ev) := by
  have ran : exec (.photoFinish q n) s = execPhotoFinish q n s := rfl
  rw [ran, execPhotoFinish]
  simp only [none, marked, diagFinish, sound, agree, List.isEmpty_nil, Bool.not_true, Bool.false_eq_true, if_false]
  rfl

end

theorem flightOf_unmarked {s : State} {q i : Nat} {f : Flight} (there : flightOf s q i = some f) :
    flightOf (unmarked s q i) q i = some { f with diag := none } := by
  have marked : flightOf (dadd s 0x2D60 2 1) q i = some f := there
  exact flightOf_modFlight_of_some marked (g := fun f => { f with diag := none }) fun _ => rfl

/-- Settles O26: what the results write, and how the command ends or is marked. -/
theorem diagonalPass : Obligations.DiagonalPass := by
  unfold Obligations.DiagonalPass
  intro s q h f n clean there k d o holds idle writes
  have idle : idleArray s k := idle
  have wrote : idleArray (writeDiag s k d o.outs) k := idleArray_writeDiag idle d o.outs
  have still : flightOf (writeDiag s k d o.outs) q f.index = some f := (flightOf_congr (queues_writeDiag d o.outs) q f.index).trans there
  refine ⟨fun run inPlace sound => ?_, fun run inPlace bad again => ?_, fun m none marked sound agree => ?_⟩
  · obtain ⟨frame, bytes⟩ := endDiag_frame wrote h q f d stSuccess o.ev
    refine ⟨_, exec_diagEw_of_sound run inPlace sound, ?_, (arrayFrame_writeDiag d o.outs).trans frame,
      diagWrites_of_mem holds (fun _ => rfl) bytes⟩
    have ended := flightOf_endDiag wrote h q f d stSuccess o.ev
    rw [still] at ended
    exact ⟨_, ended, rfl, congrArg (pickStatus stSuccess) clean, rfl, rfl⟩
  · refine ⟨_, _, exec_diagEw_of_marked run inPlace bad again, diagWrites_of_mem holds (fun _ => rfl) (fun _ => rfl),
      flightOf_modFlight_of_some still (g := fun f => { f with acted := true, diag := some ⟨o.bad, o.outs⟩ }) fun _ => rfl, rfl, rfl⟩
  · let u := writeDiag (unmarked s q f.index) k d o.outs
    have same : SameWork u (recordTransient u (physSlot s k) 0 (some h)) := (slotFrame_recordTransient u _ _ _).sameWork
    have unmarkedIdle : idleArray u k := idleArray_writeDiag (s := unmarked s q f.index) idle d o.outs
    have left : idleArray (recordTransient u (physSlot s k) 0 (some h)) k := idleArray_congr unmarkedIdle same.cores
    obtain ⟨frame, bytes⟩ := endDiag_frame left h q f d stCorrArray o.ev
    have ended := flightOf_endDiag left h q f d stCorrArray o.ev
    rw [flightOf_congr same.queues, flightOf_congr (queues_writeDiag d o.outs), flightOf_unmarked there] at ended
    refine ⟨_, _, exec_photoFinish_of_diag none marked sound agree,
      diagWrites_of_mem (u := unmarked s q f.index) holds (fun _ => rfl)
        (fun a => (bytes a).trans (getByte_congr same.mem same.blank a)),
      ended, rfl, ?_, rfl, rfl⟩
    exact congrArg (pickStatus stCorrArray) clean

end Sys2Proof.Machine
end

section
/-! SUPPORT. TILE_REPEAT and PHOTO_FINISH (R122, R434, R436): a pass over operands filled again. -/

namespace Sys2Proof.Machine

/-! ## Reading again -/

/-- Nothing but the clusters' caches changes. -/
def Cached (s t : State) : Prop := t = { s with clusters := t.clusters }

theorem Cached.refl (s : State) : Cached s s := rfl

theorem Cached.trans {s t u : State} (a : Cached s t) (b : Cached t u) : Cached s u := by
  unfold Cached at a b ⊢
  rw [b, a]

theorem Cached.sound {s t : State} (a : Cached s t) (sound : s.errs = []) : t.errs = [] := by rw [a]; exact sound

theorem cached_foldl_fst {α β : Type} {f : State × β → α → State × β} (step : ∀ x a, x.1.errs = [] → Cached x.1 (f x a).1) (l : List α)
    {x : State × β} (sound : x.1.errs = []) : Cached x.1 (l.foldl f x).1 := by
  induction l generalizing x with
  | nil => exact .refl _
  | cons a l ih => exact (step x a sound).trans (ih ((step x a sound).sound sound))

section
variable {s : State} (sound : s.errs = [])
include sound

theorem cached_checkRead (a n : Nat) : Cached s (checkRead s a n).1 := by rw [checkRead_of_sound sound]; rfl

theorem cached_cacheFetch (h c g : Nat) : Cached s (cacheFetch s h c g).1 := by
  unfold cacheFetch
  dsimp only
  split
  · rfl
  · rw [checkRead_of_sound sound]
    rfl

theorem cached_cachedRead (h c a n : Nat) : Cached s (cachedRead s h c a n).1 := by
  unfold cachedRead
  split
  · exact cached_checkRead sound a n
  · refine cached_foldl_fst (fun x i fine => ?_) _ sound
    split
    · rfl
    · dsimp only
      split
      · exact cached_cacheFetch fine _ _ _
      · exact cached_cacheFetch fine _ _ _

theorem cached_loadLocal (h c : Nat) (cache : Bool) (a n : Nat) : Cached s (loadLocal s h c cache a n).1 := by
  unfold loadLocal
  split
  · split
    · exact cached_cachedRead sound h c a n
    · exact cached_checkRead sound a n
  · rfl
  · rfl
  · rfl

theorem cached_reread (h : Nat) (f : FillRec) (p : DmaPar) (again here : Bool) (a n : Nat) (old : List Byte) :
    Cached s (reread s h f p again here a n old).1 := by
  unfold reread
  split
  · exact cached_loadLocal sound _ _ _ _ _
  · rfl

theorem cached_refillEnts (h : Nat) (f : FillRec) (x : FillRow) (p : DmaPar) (again : Bool) (far : Option Reread) :
    Cached s (refillEnts s h f x p again far).1 := by
  unfold refillEnts
  extract_lets
  split
  · rfl
  · split
    · have first := cached_loadLocal sound h (queueCluster f.queue) p.cache (gOff p.listAddr) 32
      split
      · exact first
      · exact first.trans (cached_loadLocal (first.sound sound) _ _ _ _ _)
    · rfl

theorem cached_refillRow (h : Nat) (f : FillRec) (x : FillRow) (t : Option Fmt) (n : Nature) :
    Cached s (refillRow s h f x t n).1 := by
  unfold refillRow
  extract_lets p r again mx at' far old y z e
  have first : Cached s y.1 := cached_reread sound _ _ _ _ _ _ _ _
  have second : Cached s z.1 := by
    unfold z
    split
    · exact first.trans (cached_reread (first.sound sound) _ _ _ _ _ _ _ _)
    · exact first
  have third : Cached s e.1 := by
    unfold e
    split
    · exact second.trans (cached_refillEnts (second.sound sound) _ _ _ _ _ _)
    · exact second
  split
  · exact third
  · exact third

theorem cached_refillAll (h : Nat) (t : Fmt) (n : Nature) (own : List (Option (FillRec × FillRow))) :
    Cached s (refillAll s h t n own).1 := by
  refine cached_foldl_fst (fun x o fine => ?_) _ sound
  split
  · split
    · rfl
    · exact cached_refillRow fine _ _ _ _ _
  · rfl

theorem cached_repeatPart (h k : Nat) (g : GemmPar) (t : TileRun) (n : Nature) (f f' : Fmt) (el sc : Region) (banks : List Nat)
    (own : List (Option (FillRec × FillRow))) : Cached s (repeatPart s h k g t n f f' el sc banks own).1 := by
  unfold repeatPart
  dsimp only
  split
  · exact cached_refillAll sound _ _ _ _
  · rfl

theorem cached_repeatPass (h k : Nat) (g : GemmPar) (t : TileRun) (n : Nature) : Cached s (repeatPass s h k g t n).1 := by
  have first := cached_repeatPart sound h k g t n g.fA (runFmtA g t) g.aElem g.aScale (activeRows g) (ownersA s k g t)
  unfold repeatPass
  dsimp only
  split
  · exact first
  · exact first.trans (cached_repeatPart (first.sound sound) _ _ _ _ _ _ _ _ _ _ _)

end

/-! ## The pass entered -/

section
variable (s : State) (h k : Nat) (g : GemmPar)

theorem putElems_frame (r : Region) (w b p : Nat) (l : List Nat) :
    putElems s k r w b p l = { s with mem := (putElems s k r w b p l).mem } := by
  induction l generalizing s p with
  | nil => rfl
  | cons v l ih =>
    rw [putElems, ih, putElem_frame]

theorem queues_putElems (r : Region) (w b p : Nat) (l : List Nat) : (putElems s k r w b p l).queues = s.queues := by rw [putElems_frame]

theorem queues_feedRepeat (sideB : Bool) (o : Operand) : (feedRepeat s k sideB o).queues = s.queues := by
  unfold feedRepeat
  dsimp only
  rw [queues_noteBufWrite]
  refine queues_foldl _ (fun u x => ?_) _
  split
  · exact queues_putElems _ _ _ _ _ _ _
  · exact (queues_putElems _ _ _ _ _ _ _).trans (queues_putElems _ _ _ _ _ _ _)

/-- The outputs of a repeat written over the earlier ones, its operands in the repeat area. -/
def repeatWritten (z : RepeatOut) : State :=
  putList k g.out g.fD.elemBits (outElems z.out.outs) (feedRepeat (feedRepeat s k false z.a) k true z.b)

theorem enterRepeat_gives (z : RepeatOut) : (enterRepeat s h k g z).mem = (repeatWritten s k g z).mem ∧
    (enterRepeat s h k g z).blank = (repeatWritten s k g z).blank ∧ (enterRepeat s h k g z).queues = s.queues := by
  unfold enterRepeat
  dsimp only
  rw [writeOuts_eq]
  have frame := (arrayFrame_noteBufWrite (repeatWritten s k g z) k (z.out.outs.map fun x =>
    (posBit g.out g.fD.elemBits x.2.1 x.1 / 8, if g.fD.elemBits < 8 then 1 else g.fD.elemBits / 8))).trans
    (arrayFrame_addFlush _ h (z.out.drainFlush + z.flush))
  refine ⟨(addFlush_mem _ _ _).trans (noteBufWrite_mem _ _), frame.blank, ?_⟩
  rw [queues_addFlush, queues_noteBufWrite, putList_frame]
  exact (queues_feedRepeat _ _ _ _).trans (queues_feedRepeat _ _ _ _)

end

/-! ## What follows a pass -/

/-- A run keeps what a pass does not decide, and takes the drain events of its last one. -/
structure Evaluated (t r : TileRun) (o : PassOut) : Prop where
  repeats : r.repeats = t.repeats
  rungA : r.rungA = t.rungA
  rungB : r.rungB = t.rungB
  beats : r.repeatBeats = t.repeatBeats
  marked : r.marked = t.marked
  corrected : r.corrected = t.corrected
  sat : r.drainSat = o.drainSat
  flush : r.drainFlush = o.drainFlush

theorem queues_logTrouble (s : State) (h w : Nat) : (logTrouble s h w).1.queues = s.queues := by
  unfold logTrouble
  dsimp only
  split
  · rfl
  · change (storeStack _ _ _).1.queues = _
    rw [queues_storeStack]
    split
    · rfl
    · rfl

theorem queues_lockHolds (s : State) (k : Nat) (ids : List Nat) (b : Bool) : (lockHolds s k ids b).queues = s.queues := rfl

theorem queues_ite {s u v : State} {c : Prop} [Decidable c] (a : u.queues = s.queues) (b : v.queues = s.queues) :
    (if c then u else v).queues = s.queues := by
  split
  · exact a
  · exact b

/-- The counters of a pass decide a repeat or end the tile. -/
theorem evaluatePass_eq (s : State) (h q k : Nat) (f : Flight) (g : GemmPar) (t : TileRun) (o : PassOut) :
    ∃ v r, v.queues = s.queues ∧ Evaluated t r o ∧
      evaluatePass s h q k f g t o = if r.again then keepTile v q f.index r else finishTile v q f.index (isIntFmt g.fA) r := by
  unfold evaluatePass
  extract_lets int p ta tb nx wx oa ob ceilA ceilB wa wb pin t1 crossed seq has t2 s1 s2 s3
  have logged : s1.queues = s.queues := by
    unfold s1
    split
    · exact queues_logTrouble _ _ _
    · rfl
  have run : Evaluated t t2 o := by
    unfold t2
    split
    · exact ⟨rfl, rfl, rfl, rfl, rfl, rfl, rfl, rfl⟩
    · exact ⟨rfl, rfl, rfl, rfl, rfl, rfl, rfl, rfl⟩
  have locked (b : Bool) (u : State) (ids : List Nat) (same : u.queues = s.queues) :
      (if b then lockHolds u k ids true else u).queues = s.queues := queues_ite same same
  by_cases again : t2.again = true
  · exact ⟨s3, t2, locked wb s2 _ (locked wa s1 _ logged), run, by rw [if_pos again, if_pos again]⟩
  · exact ⟨s1, t2, logged, run, by rw [if_neg again, if_neg again]⟩

/-- The flight of a finished tile. -/
theorem finishTile_flight {s : State} {q i : Nat} {f : Flight} (there : flightOf s q i = some f) (int : Bool) (t : TileRun) :
    ∃ f', flightOf (finishTile s q i int t) q i = some f' ∧ f'.done = true ∧ f'.tile = some t := by
  have found : flightOf (finishTile s q i int t) q i = _ := flightOf_modFlight_same s q i fun _ => rfl
  rw [there] at found
  exact ⟨_, found, rfl, rfl⟩

/-- What is found of a tile after its pass was looked at. -/
theorem evaluatePass_gives {s : State} {q : Nat} {f f0 : Flight} (there : flightOf s q f.index = some f0) (h k : Nat) (g : GemmPar)
    (t : TileRun) (o : PassOut) : ∃ f' r, flightOf (evaluatePass s h q k f g t o) q f.index = some f' ∧ f'.tile = some r ∧
      Evaluated t r o ∧ (f'.done = true ∨ r.again = true) := by
  obtain ⟨v, r, queues, run, gives⟩ := evaluatePass_eq s h q k f g t o
  have found : flightOf v q f.index = some f0 := (flightOf_congr queues q f.index).trans there
  rw [gives]
  by_cases again : r.again = true
  · rw [if_pos again]
    exact ⟨_, r, flightOf_modFlight_of_some found (g := fun f => { f with acted := true, tile := some r }) fun _ => rfl, rfl, run,
        .inr again⟩
  · rw [if_neg again]
    obtain ⟨f', ended, done, tile⟩ := finishTile_flight found (isIntFmt g.fA) r
    exact ⟨f', r, ended, tile, run, .inl done⟩

/-! ## The rows -/

/-- The tile with a repeat or a photo finish due stands among its queue's flights. -/
theorem flightOf_of_tileFlight {s : State} {q h : Nat} {f : Flight} {r : TileRun} {p : TileRun → Bool}
    (due : tileFlight s q p = some (h, f, r)) : ∃ f0, flightOf s q f.index = some f0 := by
  unfold tileFlight at due
  split at due
  · next f' _ found =>
    obtain ⟨_, -, same⟩ := Option.map_eq_some_iff.mp due
    obtain rfl : f' = f := congrArg (fun x : Nat × Flight × TileRun => x.2.1) same
    exact Option.isSome_iff_exists.mp (List.find?_isSome.mpr ⟨f', List.mem_of_find?_eq_some found, beq_self_eq_true f'.index⟩)
  · cases due

section
variable {s u : State} {q h : Nat} {f : Flight} {r : TileRun} {n : Nature} {z : RepeatOut}

/-- The tile of a repeat, its beats counted (R130). -/
def repeated (r : TileRun) (g : GemmPar) (o : PassOut) : TileRun :=
  { r.raised with repeatBeats := r.repeatBeats + 32 * g.kBlocks + 253 + o.stall }

theorem afterPass_of_sound {s : State} {h q k : Nat} {f : Flight} {g : GemmPar} {t : TileRun} {o : PassOut} (sound : o.bad = []) :
    afterPass s h q k f g t o = evaluatePass s h q k f g t o := by
  rw [afterPass, sound, List.isEmpty_nil, if_pos rfl]

theorem exec_tileRepeat_of_pass (due : tileFlight s q (fun x => x.again && x.marked.isEmpty) = some (h, f, r))
    (pass : repeatPass s h (getQueue s q).slot (GemmPar.ofDesc f.desc) r.raised n = (u, some z)) (sound : z.out.bad = []) :
    let k := (getQueue s q).slot
    let g := GemmPar.ofDesc f.desc
    let v := enterRepeat u h k g z
    let t := repeated r g z.out
    exec (.tileRepeat q n) s = .next (evaluatePass (lockHolds v k (holdIds (ownersA v k g t ++ ownersB v k g t)) false)
        h q k f g t z.out) := by
  intro k g v t
  have ran : exec (.tileRepeat q n) s = execTileRepeat q n s := rfl
  unfold TileRun.raised at pass
  rw [ran, execTileRepeat]
  simp only [due, pass]
  exact congrArg _ (afterPass_of_sound (t := repeated r g z.out) sound)

/-- The tile of a photo finish that no check finds wrong. -/
def TileRun.finished (r : TileRun) : TileRun :=
  { r with marked := [], outs := [], corrected := if onlyOutlier r.marked then stCorrOutlier else stCorrArray }

theorem exec_photoFinish_of_sound (due : tileFlight s q (fun x => !x.marked.isEmpty) = some (h, f, r))
    (pass : repeatPass s h (getQueue s q).slot (GemmPar.ofDesc f.desc) r n = (u, some z)) (sound : z.out.bad = [])
    (agree : outsAgree r.marked r.outs z.out.outs = true) :
    let k := (getQueue s q).slot
    let g := GemmPar.ofDesc f.desc
    let v := dadd u 0x2D60 2 1
    exec (.photoFinish q n) s = .next (evaluatePass (recordTransient (enterRepeat v h k g z) (physSlot v k) (b2n (onlyOutlier r.marked))
        (some h))
      h q k f g r.finished z.out) := by
  have ran : exec (.photoFinish q n) s = execPhotoFinish q n s := rfl
  rw [ran, execPhotoFinish]
  simp only [due, pass, sound, agree, List.isEmpty_nil, Bool.not_true, Bool.false_eq_true, if_false]
  rfl

theorem exec_photoFinish_of_bad (due : tileFlight s q (fun x => !x.marked.isEmpty) = some (h, f, r))
    (pass : repeatPass s h (getQueue s q).slot (GemmPar.ofDesc f.desc) r n = (u, some z)) (bad : z.out.bad ≠ []) :
    ∃ v, exec (.photoFinish q n) s = .next (retirePermanent v (physSlot u (getQueue s q).slot) 1 (some h)) := by
  have ran : exec (.photoFinish q n) s = execPhotoFinish q n s := rfl
  have found : z.out.bad.isEmpty = false := List.isEmpty_eq_false_iff.mpr bad
  rw [ran, execPhotoFinish]
  simp only [due, pass, found, Bool.not_false, if_true]
  exact ⟨_, rfl⟩

end

/-! ## A slot retired for good -/

/-- The cluster of a slot that a photo finish has retired (R436, R440). -/
def slotLost (s : State) (c : Cluster) (p : Nat) : Cluster :=
  let c := if c.movePending = some p then { c with movePending := none, moveCause := 0 } else c
  let c := { c with calledLap := some s.lapStarts }
  if c.takeover.isSome then { c with lost := c.lost ++ [p] } else { c with takeover := some p }

theorem mem_lostSlots_slotLost (s : State) (c : Cluster) (p : Nat) : p ∈ lostSlots (slotLost s c p) := by
  unfold slotLost
  extract_lets a b
  split
  · exact List.mem_append_right _ (List.mem_append_right _ (List.mem_singleton_self p))
  · exact List.mem_append_left _ (List.mem_singleton_self p)

theorem getCluster_retirePermanent (s : State) (p cause : Nat) (h : Option Nat) :
    ∃ v c, getCluster (retirePermanent s p cause h) (p / 9) = slotLost v c p := by
  unfold retirePermanent
  extract_lets a b core c d
  refine ⟨c, getCluster c (p / 9), ?_⟩
  rw [raise_frame]
  exact getCluster_setCluster_same _ _ _

theorem mem_lostSlots_retirePermanent (s : State) (p cause : Nat) (h : Option Nat) :
    p ∈ lostSlots (getCluster (retirePermanent s p cause h) (p / 9)) := by
  obtain ⟨v, c, cluster⟩ := getCluster_retirePermanent s p cause h
  rw [cluster]
  exact mem_lostSlots_slotLost v c p

theorem physSlot_congr {s t : State} (same : t.dom = s.dom) (k : Nat) : physSlot t k = physSlot s k := by
  have bytes : slotByte t = slotByte s := funext fun p => by rw [slotByte, slotByte, domGet, domGet, same]
  unfold physSlot slotState slotCore
  rw [bytes]

/-- Settles O25: what a repeat leaves of its tile, and how a photo finish decides a mark. -/
theorem tileRepeats : Obligations.TileRepeats := by
  unfold Obligations.TileRepeats
  refine ⟨fun s q h f r n due sound => ?_, fun s q h f r n due sound => ?_⟩
  · intro k g u z pass o fine
    obtain ⟨f0, there⟩ := flightOf_of_tileFlight due
    have cached : Cached s u := by
      have again := cached_repeatPass sound h k g r.raised n
      rwa [pass] at again
    obtain ⟨mem, blank, queues⟩ := enterRepeat_gives u h k g z
    let v := enterRepeat u h k g z
    let t := repeated r g o
    let w := lockHolds v k (holdIds (ownersA v k g t ++ ownersB v k g t)) false
    have found : flightOf w q f.index = some f0 := by
      have same : w.queues = s.queues := (queues_lockHolds _ _ _ _).trans (queues.trans (by rw [cached]))
      exact (flightOf_congr same q f.index).trans there
    have ran := exec_tileRepeat_of_pass due pass fine
    by_cases quiet : crossesNothing r.policy o = true
    · have ends := evaluatePass_of_crossesNothing (t := t) quiet w h q k f g
      obtain ⟨f', ended, done, tile⟩ := finishTile_flight found (isIntFmt g.fA) (t.settled o)
      refine ⟨_, f', _, ran.trans (congrArg _ ends), ended, tile, rfl, rfl, rfl, rfl, rfl, rfl, .inl done, fun _ => ⟨done,
          fun i j x single => ?_⟩⟩
      have bytes (a : Nat) : getByte (finishTile w q f.index (isIntFmt g.fA) (t.settled o)) a = getByte (repeatWritten u k g z) a :=
        getByte_congr mem blank a
      rw [getElem_congr k g.out j i fun _ _ => bytes _, repeatWritten, show z.out.outs = _ from single]
      exact getElem_putElem_same _ k g.out j i x (drainWidth_fD g)
    · obtain ⟨f', r', after, tile, run, last⟩ := evaluatePass_gives found h k g t o
      exact ⟨_, f', r', ran, after, tile, run.repeats, run.rungA, run.rungB, run.beats, run.sat, run.flush, last,
        fun crosses => absurd crosses quiet⟩
  · intro k u z pass o
    obtain ⟨f0, there⟩ := flightOf_of_tileFlight due
    have cached : Cached s u := by
      have again := cached_repeatPass sound h k (GemmPar.ofDesc f.desc) r n
      rwa [pass] at again
    refine ⟨fun fine agree => ?_, fun bad => ?_⟩
    · let v := dadd u 0x2D60 2 1
      let w := recordTransient (enterRepeat v h k (GemmPar.ofDesc f.desc) z) (physSlot v k) (b2n (onlyOutlier r.marked)) (some h)
      obtain ⟨-, -, queues⟩ := enterRepeat_gives v h k (GemmPar.ofDesc f.desc) z
      have found : flightOf w q f.index = some f0 := by
        have same : w.queues = s.queues := (slotFrame_recordTransient _ _ _ _).sameWork.queues.trans (queues.trans (by
          change u.queues = s.queues
          rw [cached]))
        exact (flightOf_congr same q f.index).trans there
      obtain ⟨f', r', after, tile, run, -⟩ := evaluatePass_gives found h k (GemmPar.ofDesc f.desc) r.finished o
      exact ⟨_, f', r', exec_photoFinish_of_sound due pass fine agree, after, tile, run.marked, run.corrected⟩
    · obtain ⟨v, ran⟩ := exec_photoFinish_of_bad due pass bad
      have slot : physSlot u k = physSlot s k := physSlot_congr (by rw [cached]) k
      rw [← slot]
      exact ⟨_, ran, mem_retiredSlots_retirePermanent v _ 1 (some h), mem_lostSlots_retirePermanent v _ 1 (some h)⟩

end Sys2Proof.Machine
end

section
/-! SUPPORT. Collectives (R344 to R366): one of them found and changed, its packets sent, and what the sending leaves. -/

namespace Sys2Proof.Machine

/-! ## One collective -/

/-- The collective of a heat with a number. -/
def collIs (h id : Nat) (c : Coll) : Bool := c.heat = h && c.id = id

theorem findColl_eq (s : State) (h id : Nat) : findColl s h id = s.colls.find? (collIs h id) := rfl

theorem collIs_iff {h id : Nat} {c : Coll} : collIs h id c = true ↔ c.heat = h ∧ c.id = id := by simp [collIs]

theorem collIs_of_findColl {s : State} {h id : Nat} {c : Coll} (found : findColl s h id = some c) : c.heat = h ∧ c.id = id :=
  collIs_iff.mp (List.find?_some found)

/-- The one collective of its number is found. -/
theorem findColl_of_only {s : State} {h id : Nat} {c : Coll} (only : s.colls.filter (collIs h id) = [c]) : findColl s h id = some c := by
  rw [findColl_eq, ← List.head?_filter, only]
  rfl

theorem findColl_congr {s t : State} (same : t.colls = s.colls) (h id : Nat) : findColl t h id = findColl s h id := by
  rw [findColl, findColl, same]

theorem findColl_modColl_same {s : State} {h id : Nat} {f : Coll → Coll} (keeps : ∀ c, collIs h id (f c) = collIs h id c) :
    findColl (modColl s h id f) h id = (findColl s h id).map f := find?_modFirst keeps s.colls

theorem findColl_modColl_of_some {s : State} {h id : Nat} {c : Coll} (found : findColl s h id = some c) {f : Coll → Coll}
    (keeps : ∀ c, collIs h id (f c) = collIs h id c) : findColl (modColl s h id f) h id = some (f c) := by
  rw [findColl_modColl_same keeps, found]
  rfl

/-! ## What the sending leaves -/

/-- What a peer has said, and what has come of its data. -/
def SaidSame (p p' : Peer) : Prop :=
  p'.ready = p.ready ∧ p'.counts = p.counts ∧ p'.grant = p.grant ∧ p'.ended = p.ended ∧ p'.got = p.got

/-- A collective that has gone on sending. -/
structure Goes (a b : Coll) : Prop where
  heat : b.heat = a.heat
  id : b.id = a.id
  queue : b.queue = a.queue
  index : b.index = a.index
  form : b.form = a.form
  said : ∀ j, SaidSame (a.peer j) (b.peer j)

theorem SaidSame.refl (p : Peer) : SaidSame p p := ⟨rfl, rfl, rfl, rfl, rfl⟩

theorem SaidSame.trans {p q r : Peer} (a : SaidSame p q) (b : SaidSame q r) : SaidSame p r := by
  obtain ⟨a1, a2, a3, a4, a5⟩ := a
  obtain ⟨b1, b2, b3, b4, b5⟩ := b
  exact ⟨b1.trans a1, b2.trans a2, b3.trans a3, b4.trans a4, b5.trans a5⟩

theorem Goes.refl (c : Coll) : Goes c c := ⟨rfl, rfl, rfl, rfl, rfl, fun _ => .refl _⟩

theorem Goes.trans {a b c : Coll} (x : Goes a b) (y : Goes b c) : Goes a c :=
  ⟨y.heat.trans x.heat, y.id.trans x.id, y.queue.trans x.queue, y.index.trans x.index, y.form.trans x.form,
    fun j => (x.said j).trans (y.said j)⟩

theorem Goes.collIs {a b : Coll} (x : Goes a b) (h id : Nat) : Machine.collIs h id b = Machine.collIs h id a := by
  rw [Machine.collIs, Machine.collIs, x.heat, x.id]

/-- Sending: no transaction taken away, the flights as they were, every collective gone on. -/
structure Sending (s t : State) : Prop where
  txns : ∃ l, t.txns = s.txns ++ l
  queues : t.queues = s.queues
  colls : List.Forall₂ Goes s.colls t.colls

theorem forall₂_refl {α : Type} {r : α → α → Prop} (refl : ∀ a, r a a) (l : List α) : List.Forall₂ r l l :=
  List.forall₂_same.mpr fun a _ => refl a

theorem forall₂_modFirst {α : Type} {r : α → α → Prop} (refl : ∀ a, r a a) {p : α → Bool} {f : α → α} (step : ∀ a, r a (f a)) (l : List α) :
    List.Forall₂ r l (modFirst p f l) := by
  induction l with
  | nil => exact .nil
  | cons a l ih =>
    rw [modFirst]
    split
    · exact .cons (step a) (forall₂_refl refl l)
    · exact .cons (refl a) ih

theorem goes_trans {l m n : List Coll} (x : List.Forall₂ Goes l m) (y : List.Forall₂ Goes m n) : List.Forall₂ Goes l n := by
  induction x generalizing n with
  | nil => cases y; exact .nil
  | cons first _ ih =>
    cases y with
    | cons second rest => exact .cons (first.trans second) (ih rest)

theorem Sending.of_fields {s t : State} (txns : t.txns = s.txns) (queues : t.queues = s.queues) (colls : t.colls = s.colls) :
    Sending s t := ⟨⟨[], by rw [txns, List.append_nil]⟩, queues, by rw [colls]; exact forall₂_refl Goes.refl _⟩

theorem Sending.refl (s : State) : Sending s s := .of_fields rfl rfl rfl

theorem Sending.trans {s t u : State} (a : Sending s t) (b : Sending t u) : Sending s u := by
  obtain ⟨l, first⟩ := a.txns
  obtain ⟨m, second⟩ := b.txns
  exact ⟨⟨l ++ m, by rw [second, first, List.append_assoc]⟩, b.queues.trans a.queues, goes_trans a.colls b.colls⟩

theorem sending_foldl {α : Type} {f : State → α → State} (step : ∀ s a, Sending s (f s a)) (l : List α) (s : State) :
    Sending s (l.foldl f s) := by
  induction l generalizing s with
  | nil => exact .refl s
  | cons a l ih => exact (step s a).trans (ih _)

theorem sending_modColl (s : State) (h id : Nat) {f : Coll → Coll} (goes : ∀ c, Goes c (f c)) : Sending s (modColl s h id f) :=
  ⟨⟨[], (List.append_nil _).symm⟩, rfl, forall₂_modFirst Goes.refl goes s.colls⟩

theorem ReadFrame.sending {s t : State} (frame : ReadFrame s t) : Sending s t := by
  have whole := frame.whole
  exact .of_fields (by rw [whole]) (by rw [whole]) (by rw [whole])

section
variable (s : State)

theorem nth_modNth {α : Type} (d : α) (f : α → α) (l : List α) (n m : Nat) :
    nth d (modNth l n f) m = if m = n ∧ n < l.length then f (nth d l m) else nth d l m := by
  induction l generalizing n m with
  | nil => simp [modNth, nth]
  | cons a l ih =>
    cases n with
    | zero => cases m <;> simp [modNth, nth]
    | succ n =>
      cases m with
      | zero => simp [modNth, nth]
      | succ m => simpa [modNth, nth] using ih n m

theorem sending_modPeer (h id j : Nat) {f : Peer → Peer} (said : ∀ p, SaidSame p (f p)) : Sending s (modPeer s h id j f) := by
  refine sending_modColl s h id fun c => ⟨rfl, rfl, rfl, rfl, rfl, fun i => ?_⟩
  change SaidSame (nth {} c.peers i) (nth {} (modNth c.peers j f) i)
  rw [nth_modNth]
  split
  · exact said _
  · exact .refl _

/-- Data put on its way to a peer. -/
theorem sending_sentTo (h id j : Nat) : Sending s (modPeer s h id j fun p => { p with sentTo := true }) :=
  sending_modPeer s h id j fun _ => ⟨rfl, rfl, rfl, rfl, rfl⟩

theorem sending_sendTxn (o : TxnOwner) (k : Packet) : Sending s (sendTxn s o k) := by
  obtain ⟨l, sent⟩ := sendTxn_frame s o k
  exact ⟨⟨l, by rw [sent]⟩, by rw [sent], by rw [sent]; exact forall₂_refl Goes.refl _⟩

theorem sending_sendColl (c : Coll) (j : Nat) (k : Packet) : Sending s (sendColl s c j k) := by
  unfold sendColl
  split
  · split
    · exact .refl s
    · split
      · exact sending_modColl s _ _ fun x => ⟨rfl, rfl, rfl, rfl, rfl, fun _ => .refl _⟩
      · exact sending_sendTxn s _ _
  · exact .refl s

theorem sending_sendRun (c : Coll) (j src n dst op : Nat) (order : Option Nat) (layer kind : Nat) :
    Sending s (sendRun s c j src n dst op order layer kind) := by
  have read := (readFrame_checkRead s src n).sending
  unfold sendRun
  dsimp only
  split
  · exact read
  · exact (read.trans (sending_sentTo _ _ _ _)).trans
      (sending_foldl (fun u k => sending_sendColl u c j k) _ _)

theorem sending_rsSend (p : CollPar) (c : Coll) (j : Nat) : Sending s (rsSend s p c j) := by
  unfold rsSend
  dsimp only
  split
  · exact .refl s
  · exact (sending_sendRun _ _ _ _ _ _ _ _ _ _).trans (sending_modColl _ _ _ fun x => ⟨rfl, rfl, rfl, rfl, rfl, fun _ => .refl _⟩)

theorem sending_agSend (p : CollPar) (c : Coll) (j : Nat) : Sending s (agSend s p c j) := by
  unfold agSend
  split
  · exact .refl s
  · exact sending_sendRun _ _ _ _ _ _ _ _ _ _

theorem sending_bxSend (p : CollPar) (c : Coll) (j dst : Nat) : Sending s (bxSend s p c j dst) := by
  unfold bxSend
  split
  · split
    · exact .refl s
    · exact sending_sendRun _ _ _ _ _ _ _ _ _ _
  · exact .refl s

theorem sending_bxGrant (p : CollPar) (c : Coll) : Sending s (bxGrant s p c) := by
  unfold bxGrant
  split
  · exact .refl s
  · extract_lets offered tb head g n base u v c' w own r
    have pool : Sending s u := by
      unfold u
      split
      · exact .refl s
      · exact .of_fields rfl rfl rfl
    have granted : Sending u v := sending_modColl u _ _ fun x => ⟨rfl, rfl, rfl, rfl, rfl, fun _ => .refl _⟩
    have told : Sending v w := sending_foldl (fun x j => sending_sendColl x c j _) _ v
    have read : Sending w r.1 := (readFrame_checkRead w _ _).sending
    have all := ((pool.trans granted).trans told).trans read
    split
    · exact all.trans (readFrame_storeStack r.1 _ _).sending
    · exact all

theorem sending_noteBufWrite (k : Nat) (l : List (Nat × Nat)) : Sending s (noteBufWrite s k l) := by
  unfold noteBufWrite
  split
  · exact .refl s
  · exact .of_fields rfl rfl rfl

theorem sending_cacheUpdate (c a : Nat) (l : List Byte) : Sending s (cacheUpdate s c a l) := by
  unfold cacheUpdate
  split
  · exact .refl s
  · exact .of_fields rfl rfl rfl

theorem sending_storeLocal (c : Option Nat) (a : Nat) (l : List Byte) : Sending s (storeLocal s c a l).1 := by
  have stored := (readFrame_storeStack s a l).sending
  have wrote := (readFrame_writeBytes s a l).sending
  unfold storeLocal
  cases place s a with
  | stack =>
    cases c with
    | none => exact stored
    | some c => exact stored.trans (sending_cacheUpdate _ _ _ _)
  | coreBuf k o => exact wrote.trans (sending_foldl (fun u (x : Nat × Nat × Nat) => sending_noteBufWrite u x.1 _) _ _)
  | scratch c o => exact wrote
  | queueReg q o => exact .refl s
  | mirror o => exact .refl s
  | illegal => exact .refl s

theorem sending_refuseColl (c : Coll) (reason : Nat) : Sending s (refuseColl s c reason) :=
  sending_modColl s _ _ fun _ => ⟨rfl, rfl, rfl, rfl, rfl, fun _ => .refl _⟩

theorem sending_rlSend (p : CollPar) (c : Coll) : Sending s (rlSend s p c) := by
  unfold rlSend
  split
  · exact .refl s
  · extract_lets l u v
    have staged : Sending s u := sending_sentTo s _ _ _
    have pieces : Sending u v := by
      refine sending_foldl (fun w x => ?_) _ u
      split
      · split
        · exact sending_refuseColl w c _
        · have read := (readFrame_checkRead w x.1 x.2.bytes).sending
          dsimp only
          split
          · exact read.trans (sending_storeLocal _ _ _ _)
          · exact read
      · exact sending_sendRun _ _ _ _ _ _ _ _ _ _
    refine (staged.trans pieces).trans (sending_foldl (fun w j => ?_) _ v)
    exact (sending_sentTo w c.heat c.id j).trans (sending_sendColl _ c j _)

theorem sending_pumpColl (h id : Nat) : Sending s (pumpColl s h id) := by
  unfold pumpColl
  split
  · exact .refl s
  · split
    · exact .refl s
    · dsimp only
      split
      · exact sending_foldl (fun u j => sending_rsSend u _ _ j) _ s
      · exact sending_foldl (fun u j => sending_agSend u _ _ j) _ s
      · exact sending_bxGrant s _ _
      · exact sending_rlSend s _ _

end

end Sys2Proof.Machine
end

section
/-! SUPPORT. How a collective is looked at for its end (R345, R346): it stays as it is, or it ends and its command is done. -/

namespace Sys2Proof.Machine

/-! ## Its transactions -/

/-- A transaction of a collective. -/
theorem mem_collTxns {s : State} {c : Coll} {y : Txn} {j : Nat} (listed : y ∈ s.txns) (owner : y.owner = .coll c.heat c.id j) :
    y ∈ collTxns s c := by
  refine List.mem_filter.mpr ⟨listed, ?_⟩
  simp [owner]

/-- What a collective has sent is what it owns. -/
theorem collTxns_eq (s : State) (c : Coll) : collTxns s c = s.txns.filter fun t => ownedByColl c.heat c.id t.owner := by
  refine List.filter_congr fun t _ => ?_
  cases t.owner <;> rfl

/-! ## What is left alone -/

/-- Collectives, flights and transactions are those of another state. -/
structure SameColls (s t : State) : Prop where
  txns : t.txns = s.txns
  queues : t.queues = s.queues
  colls : t.colls = s.colls

theorem SameColls.refl (s : State) : SameColls s s := ⟨rfl, rfl, rfl⟩

theorem SameColls.trans {s t u : State} (a : SameColls s t) (b : SameColls t u) : SameColls s u :=
  ⟨b.txns.trans a.txns, b.queues.trans a.queues, b.colls.trans a.colls⟩

theorem sameColls_foldl {α : Type} {f : State → α → State} (step : ∀ s a, SameColls s (f s a)) (l : List α) (s : State) :
    SameColls s (l.foldl f s) := by
  induction l generalizing s with
  | nil => exact .refl s
  | cons a l ih => exact (step s a).trans (ih _)

theorem ReadFrame.sameColls {s t : State} (frame : ReadFrame s t) : SameColls s t := by
  have whole := frame.whole
  exact ⟨by rw [whole], by rw [whole], by rw [whole]⟩

theorem SameColls.collTxns {s t : State} (same : SameColls s t) (c : Coll) : Machine.collTxns t c = Machine.collTxns s c := by
  rw [Machine.collTxns, Machine.collTxns, same.txns]

theorem SameColls.collPar {s t : State} (same : SameColls s t) (c : Coll) : Machine.collPar t c = Machine.collPar s c := by
  rw [Machine.collPar, Machine.collPar, getQueue, getQueue, same.queues]

/-! ## The end -/

theorem releaseAlloc_frame (s : State) (h : Nat) (p : CollPar) :
    releaseAlloc s h p = { s with allocs := (releaseAlloc s h p).allocs, dict := (releaseAlloc s h p).dict } := by
  unfold releaseAlloc
  split
  · rfl
  · rfl

section
variable (s : State) (c : Coll) (st a b : Nat)

theorem endColl_txns : (endColl s c st a b).txns = s.txns.filter fun t => !ownedByColl c.heat c.id t.owner := by
  unfold endColl
  rw [releaseAlloc_frame]
  rfl

theorem endColl_colls : (endColl s c st a b).colls = dropFirst (fun x => x.heat = c.heat && x.id = c.id) s.colls := by
  unfold endColl
  rw [releaseAlloc_frame]
  rfl

theorem endColl_queues : (endColl s c st a b).queues = (finish s c.queue c.index st a b).queues := by
  unfold endColl
  rw [releaseAlloc_frame]
  rfl

theorem endColl_bytes : (endColl s c st a b).mem = s.mem ∧ (endColl s c st a b).blank = s.blank := by
  unfold endColl
  rw [releaseAlloc_frame]
  exact ⟨rfl, rfl⟩

variable {s c st a b}

theorem flightOf_endColl {f : Flight} (there : flightOf s c.queue c.index = some f) :
    flightOf (endColl s c st a b) c.queue c.index =
      some { f with done := true, status := pickStatus st f.status, wordA := a, wordB := b } := by
  rw [flightOf_congr (endColl_queues s c st a b)]
  exact flightOf_modFlight_of_some there (g := fun f => { f with done := true, status := pickStatus st f.status, wordA := a, wordB := b })
    fun _ => rfl

/-- With no packet of it outstanding, the end takes no transaction away. -/
theorem endColl_txns_of_none (answered : collTxns s c = []) : (endColl s c st a b).txns = s.txns := by
  rw [collTxns_eq] at answered
  rw [endColl_txns, List.filter_eq_self]
  intro t listed
  have other := List.filter_eq_nil_iff.mp answered t listed
  simpa using other

/-- The one collective of its number is gone once it has ended. -/
theorem findColl_endColl (only : s.colls.filter (collIs c.heat c.id) = [c]) : findColl (endColl s c st a b) c.heat c.id = none := by
  have gone : ∀ l : List Coll, l.filter (collIs c.heat c.id) = [c] → (dropFirst (collIs c.heat c.id)
      l).find? (collIs c.heat c.id) = none := by
    intro l
    induction l with
    | nil => intro; rfl
    | cons x l ih =>
      intro only
      rw [dropFirst]
      rw [List.filter_cons] at only
      by_cases is : collIs c.heat c.id x = true
      · rw [if_pos is] at only ⊢
        have rest : l.filter (collIs c.heat c.id) = [] := (List.cons.inj only).2
        exact List.find?_eq_none.mpr fun y listed => List.filter_eq_nil_iff.mp rest y listed
      · rw [if_neg is] at only ⊢
        rw [List.find?_cons_of_neg is]
        exact ih only
  rw [findColl_eq, endColl_colls]
  exact gone s.colls only

end

/-! ## Looking at it -/

/-- A collective is looked at for its end. -/
inductive Settled (s : State) (c : Coll) : State → Prop where
  /-- It goes on. -/
  | on : Settled s c s
  /-- It has ended, with every packet of it answered: with COLL_BUSY only where it was refused. -/
  | ended (w : State) (st a b : Nat) (same : SameColls s w) (answered : ∀ y ∈ collTxns s c, y.parked = true)
      (open_ : c.refused = none → collTxns s c = [])
      (bytes : c.form ≤ 1 → w.mem = s.mem ∧ w.blank = s.blank) : Settled s c (endColl w c st a b)

theorem keepRange_frame (s : State) (h key base n : Nat) : SameColls s (keepRange s h key base n).1 ∧
    (keepRange s h key base n).1.mem = s.mem ∧ (keepRange s h key base n).1.blank = s.blank := by
  unfold keepRange
  dsimp only
  split
  · exact ⟨⟨rfl, rfl, rfl⟩, rfl, rfl⟩
  · exact ⟨⟨rfl, rfl, rfl⟩, rfl, rfl⟩

section
variable {s : State} {c : Coll} (answered : ∀ y ∈ collTxns s c, y.parked = true) (open_ : c.refused = none → collTxns s c = [])
include answered open_

theorem settled_agEnd (p : CollPar) : Settled s c (agEnd s p c) := by
  unfold agEnd
  extract_lets n k w
  have kept : SameColls s k.1 ∧ k.1.mem = s.mem ∧ k.1.blank = s.blank := by
    unfold k
    split
    · exact keepRange_frame _ _ _ _ _
    · exact ⟨.refl s, rfl, rfl⟩
  exact .ended k.1 _ _ _ kept.1 answered open_ fun _ => kept.2

theorem settled_bxEnd (p : CollPar) (late : ¬c.form ≤ 1) : Settled s c (bxEnd s p c) := by
  unfold bxEnd
  extract_lets u w
  have told : SameColls s u := sameColls_foldl (fun v j => (readFrame_storeStack v _ _).sameColls) _ s
  split
  · exact .ended _ _ _ _ (told.trans ⟨rfl, rfl, rfl⟩) answered open_ fun early => absurd early late
  · exact .ended _ _ _ _ told answered open_ fun early => absurd early late

theorem settled_rlFail (p : CollPar) (late : ¬c.form ≤ 1) : Settled s c (rlFail s p c) := by
  have filled : SameColls s (freeBytes s p.stageLen).2 := ⟨rfl, rfl, rfl⟩
  exact .ended _ _ _ _ (filled.trans (readFrame_storeStack _ _ _).sameColls) answered open_ fun early => absurd early late

end

theorem settled_settleColl {s : State} {h id : Nat} {c : Coll} (found : findColl s h id = some c) : Settled s c (settleColl s h id) := by
  unfold settleColl
  simp only [found]
  split
  · exact .on
  · next parked =>
    have answered : ∀ y ∈ collTxns s c, y.parked = true := by
      intro y listed
      by_contra waits
      exact parked (List.any_eq_true.mpr ⟨y, listed, by simpa using waits⟩)
    split
    · next r refused => exact .ended s _ _ _ (.refl s) answered (fun none_ => by rw [none_] at refused; cases refused) fun _ => ⟨rfl, rfl⟩
    · next none_ =>
      split
      · exact .on
      · next idle =>
        have empty : c.refused = none → collTxns s c = [] := by
          intro
          by_contra more
          exact idle (by simp [List.isEmpty_eq_false_iff.mpr more])
        split
        · split
          · exact .ended s _ _ _ (.refl s) answered empty fun _ => ⟨rfl, rfl⟩
          · exact .on
        · split
          · exact settled_agEnd answered empty _
          · exact .on
        · next form =>
          split
          · exact settled_bxEnd answered empty _ (by rw [form]; decide)
          · exact .on
        · next zero one two =>
          have late : ¬c.form ≤ 1 := fun small => (Nat.le_one_iff_eq_zero_or_eq_one.mp small).elim zero one
          split
          · exact settled_rlFail answered empty _ late
          · split
            · exact .ended s _ _ _ (.refl s) answered empty fun early => absurd early late
            · exact .on

/-- An unrefused collective takes no transaction away as it is looked at. -/
theorem settleColl_txns {s : State} {h id : Nat} {c : Coll} (found : findColl s h id = some c) (unrefused : c.refused = none) :
    (settleColl s h id).txns = s.txns := by
  have settled := settled_settleColl found
  generalize settleColl s h id = t at settled ⊢
  cases settled with
  | on => rfl
  | ended w st a b same answered open_ bytes =>
    rw [endColl_txns_of_none, same.txns]
    rw [same.collTxns]
    exact open_ unrefused

/-- With a packet of it outstanding, a collective goes on. -/
theorem settleColl_of_waits {s : State} {h id : Nat} {c : Coll} (found : findColl s h id = some c) {y : Txn} (listed : y ∈ collTxns s c)
    (waits : y.parked = false) : settleColl s h id = s := by
  have settled := settled_settleColl found
  generalize settleColl s h id = t at settled ⊢
  cases settled with
  | on => rfl
  | ended w st a b same answered open_ bytes => rw [answered y listed] at waits; cases waits

/-! ## The one collective of its number -/

/-- Changed, it is still the one collective of its number. -/
theorem only_modColl {s : State} {h id : Nat} {c : Coll} (only : s.colls.filter (collIs h id) = [c]) {f : Coll → Coll}
    (keeps : ∀ c, collIs h id (f c) = collIs h id c) : (modColl s h id f).colls.filter (collIs h id) = [f c] := by
  have first : ∀ l : List Coll, l.filter (collIs h id) = [c] → (modFirst (collIs h id) f l).filter (collIs h id) = [f c] := by
    intro l
    induction l with
    | nil => intro only; cases only
    | cons x l ih =>
      intro only
      rw [modFirst]
      rw [List.filter_cons] at only
      by_cases is : collIs h id x = true
      · rw [if_pos is] at only ⊢
        obtain ⟨rfl, rest⟩ := List.cons.inj only
        rw [List.filter_cons, keeps, if_pos is, rest]
      · rw [if_neg is] at only ⊢
        rw [List.filter_cons, if_neg is]
        exact ih only
  exact first s.colls only

theorem goes_filter {l m : List Coll} (goes : List.Forall₂ Goes l m) (h id : Nat) :
    List.Forall₂ Goes (l.filter (collIs h id)) (m.filter (collIs h id)) := by
  induction goes with
  | nil => exact .nil
  | cons first _ ih =>
    rw [List.filter_cons, List.filter_cons, first.collIs]
    split
    · exact .cons first ih
    · exact ih

/-- Sending, it is still the one collective of its number. -/
theorem Sending.only {s t : State} (sends : Sending s t) {h id : Nat} {c : Coll} (only : s.colls.filter (collIs h id) = [c]) :
    ∃ c', t.colls.filter (collIs h id) = [c'] ∧ Goes c c' := by
  have kept := goes_filter sends.colls h id
  rw [only] at kept
  obtain ⟨c', rest, goes, none, filtered⟩ := List.forall₂_cons_left_iff.mp kept
  cases none
  exact ⟨c', filtered, goes⟩

/-- Looked at for its end, a collective that is as said stays so, or is over with its command done. -/
theorem collHas_settleColl {v : State} {c c' : Coll} {waits : Prop} {P : Coll → Prop} {f : Flight}
    (only : v.colls.filter (collIs c.heat c.id) = [c']) (goes : c'.queue = c.queue ∧ c'.index = c.index)
    (there : flightOf v c.queue c.index = some f) (holds : P c')
    (waiting : waits → ∃ y ∈ v.txns, y.parked = false ∧ ∃ j, y.owner = .coll c.heat c.id j) :
    CollHas (settleColl v c.heat c.id) c waits P := by
  have found := findColl_of_only only
  obtain ⟨heat, number⟩ := collIs_of_findColl found
  obtain ⟨queue, index⟩ := goes
  refine ⟨fun has => ?_, ?_⟩
  · obtain ⟨y, listed, open_, j, owner⟩ := waiting has
    rw [settleColl_of_waits found (mem_collTxns listed (owner.trans (by rw [heat, number]))) open_]
    exact ⟨c', found, holds⟩
  · have settled := settled_settleColl found
    generalize settleColl v c.heat c.id = t at settled ⊢
    cases settled with
    | on => exact .inl ⟨c', found, holds⟩
    | ended w st a b same answered open_ bytes =>
      refine .inr ⟨?_, ?_⟩
      · rw [← heat, ← number]
        exact findColl_endColl (by rw [heat, number, same.colls]; exact only)
      · rw [← queue, ← index] at there ⊢
        exact ⟨_, flightOf_endColl ((flightOf_congr same.queues _ _).trans there), rfl⟩

end Sys2Proof.Machine
end

section
/-! SUPPORT. The answers of a collective's packets and its wait (R344 to R346, R348, R352). -/

namespace Sys2Proof.Machine

/-! ## An answer that has come -/

section
variable {s : State} {port h id j : Nat} {k : Packet} {x : Txn} {c : Coll}

/-- An answer to a packet of this device, on a port that carries packets, in a tag that a heat holds. -/
def answerComes (s : State) (port : Nat) (k : Packet) (h : Nat) : Prop :=
  admitted s port = true ∧ packetBad k = false ∧ k.dst = ownChip s ∧ tagHeat s k.tag = some h

theorem answerIn_of_comes (comes : answerComes s port k h) : answerIn s port k = (taken s port k, true) := by
  obtain ⟨admits, sound, here, heat⟩ := comes
  have heat : tagHeat (taken s port k) k.tag = some h := heat
  simp only [answerIn, arrive_of_admitted admits sound, here, decide_true, Bool.not_true, Bool.false_eq_true, if_false, heat,
    Option.isNone_some]

/-- A packet to this device of a kind for a collective has no reserved code. -/
theorem packetBad_of_coll {p : Packet} (other : p.dst ≠ 0xFFFF) (some : p.dst ≠ 0) {kind : Nat} (coll : 0x10 ≤ kind ∧ kind ≤ 0x19) :
    packetBad { p with kind := kind } = false := by
  obtain ⟨low, high⟩ := coll
  have known : kindKnown kind = true := by simp [kindKnown, low, high]
  have apart : kind ≠ ctrlKind ∧ kind ≠ kNak := by unfold ctrlKind kNak; omega
  simp [packetBad, known, some, other, apart.1, apart.2]

/-- The collective whose packet an answer answers. -/
theorem answeredColl_of_txn (there : s.txns.find? (fun y => y.id = k.txn) = some x) (owner : x.owner = .coll h id j)
    (found : findColl s h id = some c) : answeredColl s k = some (c, j, x.pkt) := by
  obtain ⟨i, o, p, since, parked⟩ := x
  obtain rfl : o = .coll h id j := owner
  simp only [answeredColl, there, found, Option.map_some]

/-- A collective that holds nothing back for its peers has nothing to send once one is heard. -/
theorem collHeard_of_free (found : findColl s c.heat c.id = some x') (free : x'.holdTo = []) : collHeard s c j = s := by
  simp [collHeard, found, free]

end

/-- The state with an answer's transaction gone, its collective no longer quiet. -/
def answerTaken (s : State) (port : Nat) (k : Packet) (h id : Nat) : State :=
  modColl (takeTxn (taken s port k) k.txn).1 h id fun c => { c with quiet := 0 }

section
variable {s : State} {port h id j : Nat} {k : Packet} {x : Txn} {c : Coll}
  (comes : answerComes s port k h) (there : s.txns.find? (fun y => y.id = k.txn) = some x) (owner : x.owner = .coll h id j)
  (found : findColl s h id = some c) (free : c.holdTo = [])
include found

theorem findColl_answerTaken : findColl (answerTaken s port k h id) h id = some { c with quiet := 0 } := by
  have kept : findColl (takeTxn (taken s port k) k.txn).1 h id = some c := found
  exact findColl_modColl_of_some kept fun _ => rfl

include comes there owner free

theorem collAnswered_of_comes (f : State → Coll → Nat → Packet → State) :
    collAnswered port k s f = f (answerTaken s port k h id) c j x.pkt := by
  obtain ⟨heat, number⟩ := collIs_of_findColl found
  have kept : findColl (taken s port k) h id = some c := found
  have after := findColl_answerTaken (port := port) (k := k) found
  have own : answeredColl (taken s port k) k = some (c, j, x.pkt) := answeredColl_of_txn there owner kept
  have still : collHeard (answerTaken s port k h id) c j = answerTaken s port k h id := by
    rw [← heat, ← number] at after ⊢
    exact collHeard_of_free after free
  unfold collAnswered
  simp only [answerIn_of_comes comes, own, Bool.not_true, Bool.false_eq_true, if_false]
  change f (collHeard (answerTaken s port k c.heat c.id) c j) c j x.pkt = _
  rw [heat, number, still]

end

/-- A state with a packet parked after COLL_BUSY. -/
def busied (u : State) (txn h id : Nat) : State :=
  { modColl u h id fun c => { c with quiet := 0 } with
    txns := u.txns.map fun t => if t.id = txn then { t with parked := true, since := u.now } else t }

theorem exec_collBusy_of_answered {s u : State} {port j : Nat} {p x : Packet} {c : Coll}
    (comes : answerIn s port { p with kind := kBusy } = (u, true)) (own : answeredColl u { p with kind := kBusy } = some (c, j, x)) :
    exec (.collBusy port p) s = .next (settleColl (collHeard (busied u p.txn c.heat c.id) c j) c.heat c.id) := by
  have row : exec (.collBusy port p) s = execCollBusy port p s := rfl
  rw [row, execCollBusy]
  simp only [comes, own, Bool.not_true, Bool.false_eq_true, if_false]
  rfl

/-- A state in which a collective is refused by the other side. -/
def refusedBy_ (u : State) (k : Packet) (h id : Nat) (c : Coll) : State :=
  refuseColl (modColl (keepRefusal u k.src (16 + (TagIn.ofPacket k).value) h k.tag) h id fun c => { c with quiet := 0 }) c
    (16 + (TagIn.ofPacket k).value)

/-- A collective that the other side has refused. -/
def Coll.refusedWith (c : Coll) (reason : Nat) : Coll :=
  { c with quiet := 0, refused := some (c.refused.getD reason), unsent := [], again := [], retryAt := none, heldPk := [] }

theorem refusedBy_only {u : State} {h id : Nat} {c : Coll} (only : u.colls.filter (collIs h id) = [c]) (k : Packet) :
    (refusedBy_ u k h id c).colls.filter (collIs h id) = [c.refusedWith (16 + (TagIn.ofPacket k).value)] := by
  obtain ⟨heat, number⟩ := collIs_of_findColl (findColl_of_only only)
  have quiet := only_modColl (s := keepRefusal u k.src (16 + (TagIn.ofPacket k).value) h k.tag) only
    (f := fun c => { c with quiet := 0 }) fun _ => rfl
  have refused := only_modColl quiet (f := fun x =>
    { x with refused := some (x.refused.getD (16 + (TagIn.ofPacket k).value)), unsent := [], again := [], retryAt := none, heldPk := [] })
    fun _ => rfl
  rw [refusedBy_, refuseColl, heat, number]
  exact refused

theorem refusedBy_frame (u : State) (k : Packet) (h id : Nat) (c : Coll) :
    (refusedBy_ u k h id c).txns = u.txns ∧ (refusedBy_ u k h id c).queues = u.queues := ⟨rfl, rfl⟩

theorem exec_collRefuse_of_answered {s u : State} {port h : Nat} {p : Packet} {c : Coll}
    (comes : answerIn s port { p with kind := kRefuse } = (u, true)) (own : (answeredColl u { p with kind := kRefuse }).isSome = true)
    (tag : tagHeat u p.tag = some h) (found : findColl u h (TagIn.ofPacket p).id = some c) :
    exec (.collRefuse port p) s =
      .next (settleColl (refusedBy_ (takeTxn u p.txn).1 p h (TagIn.ofPacket p).id c) h (TagIn.ofPacket p).id) := by
  have row : exec (.collRefuse port p) s = execCollRefuse port p s := rfl
  have tag : tagHeat (takeTxn u p.txn).1 p.tag = some h := tag
  have found : findColl (takeTxn u p.txn).1 h (TagIn.ofPacket { p with kind := kRefuse }).id = some c := found
  rw [row, execCollRefuse]
  simp only [comes, own, Bool.not_true, Bool.false_eq_true, if_false, if_true, tag, found]
  rfl

/-! ## The rows of an answer -/

section
variable {s : State} {port h id j : Nat} {p : Packet} {x : Txn} {c : Coll}
  (comes : ∀ kind, 0x10 ≤ kind → kind ≤ 0x19 → answerComes s port { p with kind := kind } h)
  (there : s.txns.find? (fun y => y.id = p.txn) = some x) (owner : x.owner = .coll h id j)
  (found : findColl s h id = some c) (free : c.holdTo = [])
include comes there owner found free

/-- COLL_ACK ends its packet. -/
theorem collAck_gives (unrefused : c.refused = none) :
    ∃ t, exec (.collAck port p) s = .next t ∧ t.txns = dropFirst (fun y => y.id = p.txn) s.txns := by
  have ran := collAnswered_of_comes (comes kCollAck (by decide) (by decide)) there owner found free
    (fun s c _ _ => settleColl s c.heat c.id)
  obtain ⟨heat, number⟩ := collIs_of_findColl found
  refine ⟨_, congrArg Host.Outcome.next ran, ?_⟩
  rw [heat, number]
  exact settleColl_txns (findColl_answerTaken found) unrefused

/-- COLL_HELD keeps its packet for COLL_RESUME. -/
theorem collHeld_gives (waits : (c.peer j).resumed = false) (unrefused : c.refused = none) :
    ∃ t, exec (.collHeld port p) s = .next t ∧ t.txns = dropFirst (fun y => y.id = p.txn) s.txns ∧
      findColl t h id = some { c with quiet := 0, heldPk := c.heldPk ++ [(j, x.pkt)] } := by
  let k := { p with kind := kHeld }
  have after : exec (.collHeld port p) s =
      .next (modColl (answerTaken s port k h id) h id fun c => { c with heldPk := c.heldPk ++ [(j, x.pkt)] }) := by
    refine congrArg Host.Outcome.next ((collAnswered_of_comes (comes kHeld (by decide) (by decide)) there owner found free _).trans ?_)
    obtain ⟨heat, number⟩ := collIs_of_findColl found
    simp only [unrefused, waits, Option.isSome_none, Bool.false_eq_true, if_false, heat, number]
    rfl
  refine ⟨_, after, rfl, ?_⟩
  exact findColl_modColl_of_some (findColl_answerTaken found) fun _ => rfl

/-- COLL_BUSY parks its packet. -/
theorem collBusy_gives (unrefused : c.refused = none) : ∃ t, exec (.collBusy port p) s = .next t ∧
    t = { s with ports := t.ports, txns := t.txns, colls := t.colls } ∧ findColl t h id = some { c with quiet := 0 } ∧
    t.txns = s.txns.map fun y => if y.id = p.txn then { y with parked := true, since := s.now } else y := by
  let k := { p with kind := kBusy }
  obtain ⟨heat, number⟩ := collIs_of_findColl found
  have kept : findColl (taken s port k) h id = some c := found
  have after : findColl (busied (taken s port k) p.txn h id) h id = some { c with quiet := 0 } := findColl_modColl_of_some kept fun _ => rfl
  have still : collHeard (busied (taken s port k) p.txn h id) c j = busied (taken s port k) p.txn h id := by
    rw [← heat, ← number] at after ⊢
    exact collHeard_of_free after free
  have parked : { x with parked := true, since := s.now } ∈ collTxns (busied (taken s port k) p.txn h id) { c with quiet := 0 } := by
    refine mem_collTxns (List.mem_map.mpr ⟨x, List.mem_of_find?_eq_some there, if_pos ?_⟩) (owner.trans (by rw [heat, number]))
    simpa using List.find?_some there
  have settled := settled_settleColl after
  have on_ : settleColl (busied (taken s port k) p.txn h id) h id = busied (taken s port k) p.txn h id := by
    generalize settleColl (busied (taken s port k) p.txn h id) h id = t at settled ⊢
    cases settled with
    | on => rfl
    | ended w st a b same answered open_ bytes => rw [open_ unrefused] at parked; cases parked
  have ran := exec_collBusy_of_answered (answerIn_of_comes (comes kBusy (by decide) (by decide)))
    (answeredColl_of_txn (k := { p with kind := kBusy }) there owner kept)
  rw [heat, number, still, on_] at ran
  exact ⟨_, ran, rfl, after, rfl⟩

omit free in
/-- COLL_REFUSE ends the sending of its collective, which is over once its packets are answered. -/
theorem collRefuse_gives (only : s.colls.filter (collIs h id) = [c]) (names : (TagIn.ofPacket p).id = id) {f : Flight}
    (flight : flightOf s c.queue c.index = some f) : ∃ t, exec (.collRefuse port p) s = .next t ∧
    CollHas t c (collWaits { s with txns := dropFirst (fun y => y.id = p.txn) s.txns } h id) fun c' =>
      c'.refused = some (c.refused.getD (16 + (TagIn.ofPacket p).value)) ∧ c'.heldPk = [] ∧ c'.unsent = [] ∧ c'.again = [] ∧
          c'.quiet = 0 := by
  let k := { p with kind := kRefuse }
  have answers := comes kRefuse (by decide) (by decide)
  have kept : findColl (taken s port k) h id = some c := found
  have own : answeredColl (taken s port k) k = some (c, j, x.pkt) := answeredColl_of_txn there owner kept
  have ran := exec_collRefuse_of_answered (answerIn_of_comes answers) (Option.isSome_iff_exists.mpr ⟨_, own⟩) answers.2.2.2
    (by rw [names]; exact kept)
  rw [names] at ran
  have one := refusedBy_only (u := (takeTxn (taken s port k) p.txn).1) only p
  obtain ⟨txns, queues⟩ := refusedBy_frame (takeTxn (taken s port k) p.txn).1 p h id c
  refine ⟨_, ran, ?_⟩
  generalize refusedBy_ (takeTxn (taken s port k) p.txn).1 p h id c = v at one txns queues
  obtain ⟨heat, number⟩ := collIs_of_findColl found
  subst heat number
  refine collHas_settleColl one ⟨rfl, rfl⟩ (f := f) ((flightOf_congr queues _ _).trans flight) ⟨rfl, rfl, rfl, rfl, rfl⟩ fun waits => ?_
  rw [txns]
  exact waits

end

/-! ## Packets sent -/

/-- A collective that is not refused and holds nothing back: what it sends goes out. -/
def canSend (s : State) (h id : Nat) : Prop := ∃ x, findColl s h id = some x ∧ x.refused = none ∧ x.holdTo = []

theorem canSend_congr {s t : State} {h id : Nat} (may : canSend s h id) (same : t.colls = s.colls) : canSend t h id := by
  rwa [canSend, findColl_congr same]

theorem sendColl_of_canSend {s : State} {c : Coll} (may : canSend s c.heat c.id) (j : Nat) (k : Packet) :
    sendColl s c j k = sendTxn s (.coll c.heat c.id j) k := by
  obtain ⟨x, found, unrefused, free⟩ := may
  simp [sendColl, found, unrefused, free]

theorem sendTxn_txns (s : State) (o : TxnOwner) (k : Packet) : (sendTxn s o k).txns =
    s.txns ++ [{ id := s.nextTxn % 2 ^ 24, owner := o, pkt := { k with txn := s.nextTxn % 2 ^ 24 }, since := s.now }] := by
  unfold sendTxn
  dsimp only
  rw [sendPacket_frame]
  rfl

theorem sendTxn_colls (s : State) (o : TxnOwner) (k : Packet) : (sendTxn s o k).colls = s.colls := by
  obtain ⟨l, sent⟩ := sendTxn_frame s o k
  rw [sent]

/-- Packets of a collective sent to its peers: each awaits its answer. -/
theorem awaited_sends {α : Type} {c : Coll} {peer : α → Nat} {k : State → α → Packet} {P : α → Packet → Prop}
    (sent_ : ∀ s a txn, P a { k s a with txn := txn }) (l : List α) {s : State} (may : canSend s c.heat c.id) {a : α} (listed : a ∈ l) :
    ∃ x ∈ (l.foldl (fun s a => sendColl s c (peer a) (k s a)) s).txns, x.parked = false ∧ x.owner = .coll c.heat c.id (peer a) ∧
      P a x.pkt := by
  induction l generalizing s with
  | nil => cases listed
  | cons b l ih =>
    rw [List.foldl_cons]
    rcases List.mem_cons.mp listed with rfl | later
    · obtain ⟨more, txns⟩ := (sending_foldl (fun u b => sending_sendColl u c (peer b) (k u b)) l (sendColl s c (peer a) (k s a))).txns
      refine ⟨{ id := s.nextTxn % 2 ^ 24, owner := .coll c.heat c.id (peer a), pkt := { k s a with txn := s.nextTxn % 2 ^ 24 }, since :=
          s.now },
        ?_, rfl, rfl, sent_ s a _⟩
      rw [txns, sendColl_of_canSend may, sendTxn_txns]
      exact List.mem_append_left _ (List.mem_append_right _ (List.mem_singleton_self _))
    · refine ih (canSend_congr may ?_) later
      rw [sendColl_of_canSend may, sendTxn_colls]

/-! ## Sending again -/

/-- COLL_BUSY_RESEND sends a parked packet again once its back-off has passed. -/
theorem collBusyResend_gives {s : State} {n h id j : Nat} {x : Txn} {c : Coll}
    (there : s.txns.find? (fun y => y.id = n && y.parked) = some x)
    (owner : x.owner = .coll h id j) (past : x.since + usec (dget s 0x2320 4) ≤ s.now) (found : findColl s h id = some c)
    (free : c.holdTo = []) (unrefused : c.refused = none) :
    ∃ t, exec (.collBusyResend n) s = .next t ∧ t.txns = dropFirst (fun y => y.id = n) s.txns ++
      [{ id := s.nextTxn % 2 ^ 24, owner := .coll h id j, pkt := { x.pkt with txn := s.nextTxn % 2 ^ 24 }, since := s.now }] := by
  obtain ⟨i, o, p, since, parked⟩ := x
  obtain rfl : o = .coll h id j := owner
  obtain ⟨heat, number⟩ := collIs_of_findColl found
  subst heat number
  let u := (takeTxn s n).1
  have kept : findColl u c.heat c.id = some c := found
  have ran : exec (.collBusyResend n) s = .next (sendColl u c j p) := by
    have row : exec (.collBusyResend n) s = execCollBusyResend n s := rfl
    rw [row, execCollBusyResend]
    simp only [there, if_neg (Nat.not_lt.mpr past)]
    change (match findColl u c.heat c.id with | some c => _ | none => _) = _
    rw [kept]
    simp only [unrefused, Option.isSome_none, Bool.false_eq_true, if_false]
    rfl
  refine ⟨_, ran, ?_⟩
  rw [sendColl_of_canSend ⟨c, kept, unrefused, free⟩, sendTxn_txns]
  rfl

/-! ## A packet of a member -/

/-- The state in which a packet of a member of a collective has come. -/
def memberHeard (s : State) (port : Nat) (k : Packet) (h id : Nat) : State :=
  modColl (taken s port k) h id fun c => { c with quiet := 0 }

theorem collIn_of_known {s : State} {port h : Nat} {k : Packet} {c : Coll} (known : collKnown s port k h c) (f : State → Coll → State) :
    collIn port k s f = f (memberHeard s port k h (TagIn.ofPacket k).id) c := by
  obtain ⟨comes, only, unrefused, fits, -⟩ := known
  have found : findColl (taken s port k) h (TagIn.ofPacket k).id = some c := findColl_of_only only
  unfold collIn
  simp only [arrive_of_comesTo comes, targetHeat_of_comesTo comes, found, unrefused, fits, Bool.not_true, Bool.false_eq_true, if_false,
    Option.isSome_none]
  rfl

theorem collAnswer_frame (s : State) (c : Option Coll) (k : Packet) (kind v : Nat) :
    collAnswer s c k kind v = { s with ports := (collAnswer s c k kind v).ports } := by
  unfold collAnswer
  exact sendPacket_frame s _

/-- A collective whose kept packets for a peer go out again. -/
def resumed (u : State) (k : Packet) (c : Coll) (j : Nat) : State :=
  collAnswer (modPeer (modColl u c.heat c.id fun c => { c with heldPk := c.heldPk.filter (·.1 != j) }) c.heat c.id j fun x =>
    { x with resumed := true }) (some c) k kCollAck 0

theorem canSend_resumed {u : State} {c x : Coll} (found : findColl u c.heat c.id = some x) (unrefused : x.refused = none)
    (free : x.holdTo = [])
    (k : Packet) (j : Nat) : canSend (resumed u k c j) c.heat c.id := by
  have first := findColl_modColl_of_some found (f := fun c => { c with heldPk := c.heldPk.filter (·.1 != j) }) fun _ => rfl
  have second := findColl_modColl_of_some first (f := fun c => { c with peers := modNth c.peers j fun x => { x with resumed := true } })
      fun _ => rfl
  refine ⟨_, (findColl_congr ?_ _ _).trans second, unrefused, free⟩
  rw [resumed, collAnswer_frame]
  rfl

theorem exec_collResume_of_known {s : State} {port h : Nat} {p : Packet} {c : Coll} (known : collKnown s port { p with kind := kResume }
    h c) :
    let j := (TagIn.ofPacket p).sender
    exec (.collResume port p) s = .next ((c.heldPk.filter (·.1 = j)).foldl (fun s x => sendColl s c j x.2)
      (resumed (memberHeard s port { p with kind := kResume } h (TagIn.ofPacket p).id) { p with kind := kResume } c j)) :=
  congrArg Host.Outcome.next (collIn_of_known known _)

/-- COLL_RESUME sends what was kept for its sender. -/
theorem collResume_gives {s : State} {port h : Nat} {p : Packet} {c : Coll} (known : collKnown s port { p with kind := kResume } h c)
    (free : c.holdTo = []) : ∃ t, exec (.collResume port p) s = .next t ∧
      ∀ y ∈ c.heldPk, y.1 = (TagIn.ofPacket p).sender →
        Awaited t h (TagIn.ofPacket p).id y.1 fun k => k.data = y.2.data ∧ k.kind = y.2.kind ∧ k.dst = y.2.dst := by
  have only := known.2.1
  have unrefused := known.2.2.1
  obtain ⟨heat, number⟩ := collIs_of_findColl (findColl_of_only only)
  have came : findColl (memberHeard s port { p with kind := kResume } h (TagIn.ofPacket p).id) h (TagIn.ofPacket p).id =
      some { c with quiet := 0 } :=
    findColl_modColl_of_some (s := taken s port { p with kind := kResume }) (findColl_of_only only) fun _ => rfl
  refine ⟨_, exec_collResume_of_known known, fun y kept is => ?_⟩
  have number : c.id = (TagIn.ofPacket p).id := number
  subst heat
  rw [← number] at came ⊢
  rw [is]
  have held : y ∈ c.heldPk.filter fun x => x.1 = (TagIn.ofPacket p).sender := List.mem_filter.mpr ⟨kept, decide_eq_true is⟩
  obtain ⟨x, listed, -, owner, is_⟩ := awaited_sends (peer := fun _ => (TagIn.ofPacket p).sender) (k := fun _ (y : Nat × Packet) => y.2)
    (P := fun y k => k.data = y.2.data ∧ k.kind = y.2.kind ∧ k.dst = y.2.dst) (fun _ _ _ => ⟨rfl, rfl, rfl⟩) _
    (canSend_resumed came unrefused free _ _) held
  exact ⟨x, listed, owner, is_⟩

/-! ## The wait -/

/-- A silent peer contains the heat of its collective. -/
theorem collectiveWaitExpiry_gives {s : State} {h id : Nat} {c : Coll} (found : findColl s h id = some c) (timed : (collPar s c).wait ≠ 0)
    (silent : (collPar s c).wait ≤ c.quiet) (unrefused : c.refused = none) (waits : waitsForPeer c = true)
    (runs : (getHeat s h).st = .running) :
    ∃ t, exec (.collectiveWaitExpiry h id) s = .next t ∧ findColl t h id = some { c with quiet := 0 } ∧ (getHeat t h).contained = true := by
  let u := modColl s h id fun c => { c with quiet := 0 }
  have ran : exec (.collectiveWaitExpiry h id) s = .next (raise u { code := 0x010D, cls := 2, cause := 8, heat := some h }) := by
    have row : exec (.collectiveWaitExpiry h id) s = execCollectiveWaitExpiry h id s := rfl
    rw [row, execCollectiveWaitExpiry]
    simp only [found]
    refine if_neg ?_
    simp [timed, Nat.not_lt.mpr silent, unrefused, waits]
  refine ⟨_, ran, ?_, contained_raise (s := u) rfl rfl runs⟩
  rw [findColl_congr (s := u) (by rw [raise_frame])]
  exact findColl_modColl_of_some found fun _ => rfl

/-- Settles O45: what each answer does to its packet and its collective, and what a peer's silence does. -/
theorem collectiveAnswers : Obligations.CollectiveAnswers := by
  unfold Obligations.CollectiveAnswers
  intro s port h id j p x c owner heat number only free
  have found : findColl s h id = some c := findColl_of_only only
  refine ⟨fun admits here other some_ tag there => ?_, fun n parked past unrefused => ?_, fun known names => ?_,
    fun timed silent unrefused waits runs => collectiveWaitExpiry_gives found timed silent unrefused waits runs⟩
  · have comes (kind : Nat) (low : 0x10 ≤ kind) (high : kind ≤ 0x19) : answerComes s port { p with kind := kind } h :=
      ⟨admits, packetBad_of_coll other some_ ⟨low, high⟩, here, tag⟩
    exact ⟨fun unrefused => collAck_gives comes there owner found free unrefused,
      fun waits unrefused => collHeld_gives comes there owner found free waits unrefused,
      fun unrefused => collBusy_gives comes there owner found free unrefused,
      fun names flight => by
        obtain ⟨f, flight⟩ := Option.isSome_iff_exists.mp flight
        exact collRefuse_gives comes there owner found only names flight⟩
  · exact collBusyResend_gives parked owner past found free unrefused
  · obtain ⟨t, ran, waits⟩ := collResume_gives known free
    exact ⟨t, ran, by rwa [names] at waits⟩

end Sys2Proof.Machine
end

section
/-! SUPPORT. How a collective opens (R349, R354, R356, R359, R366): its first message to every other member. -/

namespace Sys2Proof.Machine

/-! ## What may still be sent -/

/-- A change that leaves a collective's refusal and what it holds back leaves it free to send. -/
theorem canSend_modColl {s : State} {h id : Nat} (may : canSend s h id) (h' id' : Nat) {f : Coll → Coll}
    (keeps : ∀ c, (f c).heat = c.heat ∧ (f c).id = c.id ∧ (f c).refused = c.refused ∧ (f c).holdTo = c.holdTo) :
    canSend (modColl s h' id' f) h id := by
  obtain ⟨x, found, unrefused, free⟩ := may
  have same (h id : Nat) (c : Coll) : collIs h id (f c) = collIs h id c := by
    obtain ⟨heat, number, -⟩ := keeps c
    rw [collIs, collIs, heat, number]
  by_cases key : h' = h ∧ id' = id
  · obtain ⟨rfl, rfl⟩ := key
    obtain ⟨-, -, refused, hold⟩ := keeps x
    exact ⟨f x, findColl_modColl_of_some found (same h' id'), refused.trans unrefused, hold.trans free⟩
  · refine ⟨x, (find?_modFirst_ne (p := collIs h' id') (p' := collIs h id) (fun c here => ?_) s.colls).trans found, unrefused, free⟩
    have apart : collIs h id c = false := by
      obtain ⟨heat, number⟩ := collIs_iff.mp here
      by_contra both
      obtain ⟨heat', number'⟩ := collIs_iff.mp (Bool.not_eq_false _ ▸ both)
      exact key ⟨heat.symm.trans heat', number.symm.trans number'⟩
    exact ⟨apart, (same h id c).trans apart⟩

/-! ## Looking at a collective that waits -/

theorem settleColl_of_open {v : State} {h id j : Nat} {y : Txn} (listed : y ∈ v.txns) (waits : y.parked = false)
    (owner : y.owner = .coll h id j) : settleColl v h id = v := by
  cases found : findColl v h id with
  | none => rw [settleColl, found]
  | some c =>
    obtain ⟨heat, number⟩ := collIs_of_findColl found
    exact settleColl_of_waits found (mem_collTxns listed (owner.trans (by rw [heat, number]))) waits

/-- Whether a collective goes on or ends, its command stays acted on. -/
theorem eachFlight_settleColl (v : State) (h id : Nat) : EachFlight (fun f g => g.acted = f.acted) v (settleColl v h id) := by
  cases found : findColl v h id with
  | none =>
    rw [settleColl, found]
    exact .of_same (fun _ => rfl) (.refl v)
  | some c =>
    have settled := settled_settleColl found
    generalize settleColl v h id = t at settled ⊢
    cases settled with
    | on => exact .of_same (fun _ => rfl) (.refl v)
    | ended w st a b same answered open_ bytes =>
      have ends := eachFlight_modFlight (r := fun f g => g.acted = f.acted) (fun _ => rfl) w c.queue c.index
        (g := fun f => { f with done := true, status := pickStatus st f.status, wordA := a, wordB := b }) (fun _ => rfl) fun _ => rfl
      intro q i f there
      obtain ⟨g, after, acted⟩ := ends q i f ((flightOf_congr same.queues q i).trans there)
      exact ⟨g, (flightOf_congr (endColl_queues w c st a b) q i).trans after, acted⟩

/-! ## The first messages -/

section
variable {s : State} {c : Coll} {f : Flight} (there : flightOf s c.queue c.index = some f) (may : canSend s c.heat c.id)
include there may

/-- A collective that opens has acted on its command, and its first message awaits an answer of every other member. -/
theorem openColl_gives (kind : Nat) (v : Nat → Nat) : ∃ g, flightOf (openColl s c kind v) c.queue c.index = some g ∧ g.acted = true ∧
    ∀ j ∈ c.others, Awaited (openColl s c kind v) c.heat c.id j fun k =>
      k.kind = kind ∧ k.dst = (c.member j).chip ∧ k.data = collTagOf c (v j) := by
  let acted := modFlight s c.queue c.index fun f => { f with acted := true }
  let told := c.others.foldl (fun s j => sendColl s c j (collMsg s c j kind (v j))) acted
  let pumped := pumpColl told c.heat c.id
  have began : flightOf acted c.queue c.index = some { f with acted := true } :=
    flightOf_modFlight_of_some there (g := fun f => { f with acted := true }) fun _ => rfl
  have sends : Sending acted pumped :=
    (sending_foldl (fun u j => sending_sendColl u c j _) c.others acted).trans (sending_pumpColl told c.heat c.id)
  obtain ⟨g, ends, same⟩ := eachFlight_settleColl pumped c.heat c.id c.queue c.index _ ((flightOf_congr sends.queues _ _).trans began)
  refine ⟨g, ends, same, fun j member => ?_⟩
  obtain ⟨x, listed, waits, owner, is⟩ := awaited_sends (c := c) (s := acted) (peer := fun j => j) (k :=
      fun s j => collMsg s c j kind (v j))
    (P := fun j k => k.kind = kind ∧ k.dst = (c.member j).chip ∧ k.data = collTagOf c (v j)) (fun _ _ _ => ⟨rfl, rfl, rfl⟩)
        c.others may member
  obtain ⟨more, txns⟩ := (sending_pumpColl told c.heat c.id).txns
  have kept : x ∈ pumped.txns := by
    rw [txns]
    exact List.mem_append_left more listed
  refine ⟨x, ?_, owner, is⟩
  change x ∈ (settleColl pumped c.heat c.id).txns
  rwa [settleColl_of_open kept waits owner]

end

/-! ## The rows -/

theorem withColl_of_running {s : State} {q o h : Nat} {f : Flight} {c : Coll} (run : runningIn s q o = some (h, f))
    (coll : s.colls.find? (fun c => c.queue = q && c.index = f.index) = some c) (m : Nat → Flight → Coll → State) :
    withColl q o s m = .next (m h f c) := by
  simp only [withColl, run, coll]

/-- A store into memory without errors holds, and leaves memory without errors. -/
theorem storeLocal_of_sound {s : State} (sound : s.errs = []) (a : Nat) (l : List Byte) :
    (storeLocal s none a l).2 = true ∧ (storeLocal s none a l).1.errs = [] ∧ SameColls s (storeLocal s none a l).1 := by
  have wrote : (writeBytes s a l).errs = [] ∧ SameColls s (writeBytes s a l) := by
    rw [writeBytes_frame]
    exact ⟨sound, rfl, rfl, rfl⟩
  have noted (u : State) (k : Nat) (l : List (Nat × Nat)) : SameColls u (noteBufWrite u k l) ∧ (noteBufWrite u k l).errs = u.errs := by
    unfold noteBufWrite
    split
    · exact ⟨.refl u, rfl⟩
    · exact ⟨⟨rfl, rfl, rfl⟩, rfl⟩
  have pieces (p : List (Nat × Nat × Nat)) (u : State) : SameColls u (p.foldl (fun s x => noteBufWrite s x.1 [(x.2.1, x.2.2)]) u) ∧
      (p.foldl (fun s x => noteBufWrite s x.1 [(x.2.1, x.2.2)]) u).errs = u.errs := by
    induction p generalizing u with
    | nil => exact ⟨.refl u, rfl⟩
    | cons x p ih =>
      obtain ⟨first, errs⟩ := noted u x.1 [(x.2.1, x.2.2)]
      obtain ⟨rest, clean⟩ := ih (noteBufWrite u x.1 [(x.2.1, x.2.2)])
      exact ⟨first.trans rest, clean.trans errs⟩
  unfold storeLocal
  cases place s a with
  | stack =>
    rw [storeStack_of_sound sound]
    exact ⟨rfl, wrote⟩
  | coreBuf k o =>
    obtain ⟨same, errs⟩ := pieces (windowPieces k o l.length) (writeBytes s a l)
    exact ⟨rfl, errs.trans wrote.1, wrote.2.trans same⟩
  | scratch c o => exact ⟨rfl, wrote⟩
  | queueReg q o => exact ⟨rfl, sound, .refl s⟩
  | mirror o => exact ⟨rfl, sound, .refl s⟩
  | illegal => exact ⟨rfl, sound, .refl s⟩

/-- The pieces of a relay moved into its staging area. -/
def stagePiece (acc : State × Bool) (e : Nat × PermEntry) : State × Bool :=
  if !acc.2 then acc
  else
    let r := checkRead acc.1 e.2.srcOff e.2.bytes
    if !r.2 then r else storeLocal r.1 none e.1 (readBytes r.1 e.2.srcOff e.2.bytes)

theorem staged_of_sound (l : List (Nat × PermEntry)) {s : State} (sound : s.errs = []) :
    (l.foldl stagePiece (s, true)).2 = true ∧ SameColls s (l.foldl stagePiece (s, true)).1 := by
  induction l generalizing s with
  | nil => exact ⟨rfl, .refl s⟩
  | cons e l ih =>
    obtain ⟨fine, errs, same⟩ := storeLocal_of_sound sound e.1 (readBytes s e.2.srcOff e.2.bytes)
    have step : stagePiece (s, true) e = storeLocal s none e.1 (readBytes s e.2.srcOff e.2.bytes) := by
      simp only [stagePiece, checkRead_of_sound sound, Bool.not_true, Bool.false_eq_true, if_false]
    rw [List.foldl_cons, step, show storeLocal s none e.1 (readBytes s e.2.srcOff e.2.bytes) = (_, true) from Prod.ext rfl fine]
    obtain ⟨whole, rest⟩ := ih errs
    exact ⟨whole, same.trans rest⟩

/-- What a collective's command says to the others as it opens. -/
def Tells (t : State) (q : Nat) (f : Flight) (c : Coll) (kind : Nat) (v : Nat → Nat) : Prop :=
  ∃ g, flightOf t q f.index = some g ∧ g.acted = true ∧
    ∀ j ∈ c.others, Awaited t c.heat c.id j fun k => k.kind = kind ∧ k.dst = (c.member j).chip ∧ k.data = collTagOf c (v j)

section
variable {s : State} {q h o : Nat} {f : Flight} {c : Coll}
  (coll : s.colls.find? (fun c => c.queue = q && c.index = f.index) = some c) (may : canSend s c.heat c.id)
include coll

/-- A collective opened in a state with the same flights tells the others. -/
theorem tells_openColl (run : runningIn s q o = some (h, f)) {u : State} (queues : u.queues = s.queues) {c' : Coll}
    (same : c' = { c with hit := c'.hit, sends := c'.sends, staged := c'.staged }) (may : canSend u c.heat c.id) (kind : Nat) (v : Nat →
        Nat) :
    Tells (openColl u c' kind v) q f c kind v := by
  obtain ⟨f0, there⟩ := flightOf_of_runningIn run
  have keys : c.queue = q ∧ c.index = f.index := by simpa using List.find?_some coll
  rw [← flightOf_congr queues, ← keys.1, ← keys.2] at there
  have opens := openColl_gives (c := c') (f := f0) (by rw [same]; exact there) (by rw [same]; exact may) kind v
  rw [same] at opens ⊢
  unfold Tells
  rw [← keys.1, ← keys.2]
  exact opens

include may

theorem reduceScatter_tells (run : runningIn s q opRs = some (h, f)) :
    ∃ t, exec (.reduceScatter q) s = .next t ∧ Tells t q f c kReady fun _ => c.me.count :=
  ⟨_, withColl_of_running run coll _, tells_openColl coll run rfl rfl may _ _⟩

/-- Whether an all-gather finds its range kept (R355). -/
def gatherHit (s : State) (h : Nat) (c : Coll) : Bool :=
  let p := collPar s c
  p.retain == 2 && (getHeat s h).retained.any fun r => r.key == p.key && r.base == c.me.base && r.bytes == totalCount c.members * p.unit

theorem allGather_tells (run : runningIn s q opAg = some (h, f)) :
    ∃ t, exec (.allGather q) s = .next t ∧ Tells t q f c kReady fun _ => if gatherHit s h c then 0 else 1 := by
  refine ⟨_, withColl_of_running run coll _, ?_⟩
  extract_lets p n hit l s1 own m r s2 s3
  have kept : SameColls s s1 := by
    unfold s1
    split
    · exact ⟨rfl, rfl, rfl⟩
    · exact .refl s
  have read : SameColls s1 r.1 := by
    unfold r
    split
    · exact .refl s1
    · exact (readFrame_checkRead _ _ _).sameColls
  have stored : SameColls r.1 s2 := by
    unfold s2
    split
    · exact .refl r.1
    · exact (readFrame_storeStack _ _ _).sameColls
  have all := (kept.trans read).trans stored
  exact tells_openColl coll run (u := s3) all.queues (c' := { c with hit := hit }) rfl
    (canSend_modColl (canSend_congr may all.colls) h c.id fun _ => ⟨rfl, rfl, rfl, rfl⟩) kReady fun _ => if hit then 0 else 1

theorem batonExchange_tells (run : runningIn s q opBx = some (h, f)) (sound : s.errs = []) :
    ∃ t, exec (.batonExchange q) s = .next t ∧ Tells t q f c kCounts fun j => sendCount { c with sends := readSends s (collPar s c) }
        j := by
  refine ⟨_, withColl_of_running run coll _, ?_⟩
  extract_lets p r c' u v
  have read : r = (s, true) := checkRead_of_sound sound _ _
  have queues : v.queues = s.queues := congrArg (fun x : State × Bool => x.1.queues) read
  have first : canSend r.1 c.heat c.id := by rwa [read]
  have entered : canSend u c.heat c.id := canSend_modColl first h c.id fun _ => ⟨rfl, rfl, rfl, rfl⟩
  have asked : canSend v c.heat c.id := canSend_modColl entered h c.id fun _ => ⟨rfl, rfl, rfl, rfl⟩
  have same : c' = { c with sends := readSends s (collPar s c) } := by
    unfold c'
    rw [read]
  rw [if_neg (by simp [read]), ← same]
  exact tells_openColl coll run queues (c' := c') rfl asked _ _

theorem relay_tells (run : runningIn s q opRl = some (h, f)) (sound : s.errs = []) :
    ∃ t, exec (.relay q) s = .next t ∧ Tells t q f c kReady fun _ => b2n (decide (stagingNeed c.perms ≤ (collPar s c).stageLen)) := by
  refine ⟨_, withColl_of_running run coll _, ?_⟩
  extract_lets p ok x s1
  have staged : x.2 = true ∧ SameColls s x.1 := by
    unfold x
    split
    · exact staged_of_sound _ sound
    · exact ⟨rfl, .refl s⟩
  rw [if_neg (by simp [staged.1])]
  refine tells_openColl coll run (u := s1) staged.2.queues (c' := { c with staged := some ok }) rfl ?_ _ _
  exact canSend_modColl (canSend_congr may staged.2.colls) h c.id fun _ => ⟨rfl, rfl, rfl, rfl⟩

end

/-- Settles O43: each row says its first message to every other member, and has acted on its command. -/
theorem collectivesOpen : Obligations.CollectivesOpen := by
  unfold Obligations.CollectivesOpen
  intro s q h f c coll found unrefused free sound p tells hit
  have may : canSend s c.heat c.id := ⟨c, found, unrefused, free⟩
  have told {i : Instr} {kind : Nat} {v : Nat → Nat} (x : ∃ t, exec i s = .next t ∧ Tells t q f c kind v) : tells i kind v := by
    obtain ⟨t, ran, g, after, acted, waits⟩ := x
    exact ⟨t, g, ran, after, acted, waits⟩
  exact ⟨fun run => told (reduceScatter_tells coll may run), fun run => told (allGather_tells coll may run),
    fun run => told (batonExchange_tells coll may run sound), fun run => told (relay_tells coll may run sound)⟩

end Sys2Proof.Machine
end

section
/-! SUPPORT. What a member of a collective says, and its data (R342 to R346, R349, R354). -/

namespace Sys2Proof.Machine

/-! ## A member's packet entered -/

/-- The one collective of its number, entered in a state in which nothing else that matters has changed. -/
structure Enters (s v : State) (c c1 : Coll) : Prop where
  only : v.colls.filter (collIs c.heat c.id) = [c1]
  queue : c1.queue = c.queue
  index : c1.index = c.index
  txns : v.txns = s.txns
  queues : v.queues = s.queues

section
variable {s : State} {port : Nat} {k : Packet} {c c1 : Coll} {v : State}

/-- A packet of a member has come: its collective is no longer quiet. -/
theorem enters_memberHeard (known : collKnown s port k c.heat c) :
    Enters s (memberHeard s port k c.heat (TagIn.ofPacket k).id) c { c with quiet := 0 } := by
  obtain ⟨comes, only, -⟩ := known
  obtain ⟨-, number⟩ := collIs_of_findColl (findColl_of_only only)
  rw [← number] at only ⊢
  exact ⟨only_modColl (s := taken s port k) only fun _ => rfl, rfl, rfl, rfl, rfl⟩

theorem Enters.modColl (enters : Enters s v c c1) {f : Coll → Coll}
    (keeps : ∀ c, (f c).heat = c.heat ∧ (f c).id = c.id ∧ (f c).queue = c.queue ∧ (f c).index = c.index) :
    Enters s (Machine.modColl v c.heat c.id f) c (f c1) := by
  obtain ⟨only, queue, index, txns, queues⟩ := enters
  obtain ⟨-, -, sameQueue, sameIndex⟩ := keeps c1
  refine ⟨only_modColl only fun x => ?_, sameQueue.trans queue, sameIndex.trans index, txns, queues⟩
  obtain ⟨heat, number, -⟩ := keeps x
  rw [collIs, collIs, heat, number]

theorem Enters.modPeer (enters : Enters s v c c1) (j : Nat) (f : Peer → Peer) :
    Enters s (Machine.modPeer v c.heat c.id j f) c { c1 with peers := modNth c1.peers j f } :=
  enters.modColl fun _ => ⟨rfl, rfl, rfl, rfl⟩

theorem Enters.congr (enters : Enters s v c c1) {w : State} (same : SameColls v w) : Enters s w c c1 := by
  obtain ⟨only, queue, index, txns, queues⟩ := enters
  exact ⟨by rw [same.colls]; exact only, queue, index, same.txns.trans txns, same.queues.trans queues⟩

theorem sameColls_collAnswer (v : State) (c : Option Coll) (k : Packet) (kind x : Nat) : SameColls v (collAnswer v c k kind x) := by
  rw [collAnswer_frame]
  exact ⟨rfl, rfl, rfl⟩

/-- Looked at for its end after it was entered, a collective is as said or over. -/
theorem Enters.collHas (enters : Enters s v c c1) {f : Flight} (there : flightOf s c.queue c.index = some f) {P : Coll → Prop}
    (holds : P c1) :
    CollHas (settleColl v c.heat c.id) c (collWaits s c.heat c.id) P := by
  obtain ⟨only, queue, index, txns, queues⟩ := enters
  refine collHas_settleColl only ⟨queue, index⟩ ((flightOf_congr queues _ _).trans there) holds fun waits => ?_
  rw [txns]
  exact waits

/-- The same after it has sent what is due. -/
theorem Enters.collHas_sending (enters : Enters s v c c1) {f : Flight} (there : flightOf s c.queue c.index = some f) {P : Coll → Prop}
    {w : State} (sends : Sending v w) (holds : ∀ c', Goes c1 c' → P c') :
    CollHas (settleColl w c.heat c.id) c (collWaits s c.heat c.id) P := by
  obtain ⟨only, queue, index, txns, queues⟩ := enters
  obtain ⟨c', after, goes⟩ := sends.only only
  refine collHas_settleColl after ⟨goes.queue.trans queue, goes.index.trans index⟩
    ((flightOf_congr (sends.queues.trans queues) _ _).trans there) (holds c' goes) fun waits => ?_
  obtain ⟨y, listed, waits, owner⟩ := waits
  obtain ⟨l, more⟩ := sends.txns
  refine ⟨y, ?_, waits, owner⟩
  rw [more, txns]
  exact List.mem_append_left l listed

/-- A member's entry, changed. -/
theorem peer_modNth {c : Coll} {j : Nat} (inside : j < c.peers.length) (f : Peer → Peer) :
    ({ c with peers := modNth c.peers j f } : Coll).peer j = f (c.peer j) := by
  change nth {} (modNth c.peers j f) j = _
  rw [nth_modNth, if_pos ⟨rfl, inside⟩]
  rfl

theorem sender_inside (known : collKnown s port k c.heat c) : (TagIn.ofPacket k).sender < c.peers.length := by
  obtain ⟨-, -, -, fits, members⟩ := known
  simp only [tagFits, Bool.and_eq_true, decide_eq_true_eq] at fits
  omega

end

/-! ## What it says -/

section
variable {s : State} {port : Nat} {p : Packet} {c : Coll} {f : Flight} (there : flightOf s c.queue c.index = some f)

/-- A message that is taken is acknowledged, and what follows from it is sent. -/
theorem collMsgIn_of_taken {k : Packet} (known : collKnown s port k c.heat c) {g : Peer → Peer}
    (takes : ∀ u, takeMsg u c k = (modPeer u c.heat c.id (TagIn.ofPacket k).sender g, none)) :
    collMsgIn port k s = settleColl (pumpColl (collAnswer (modPeer (memberHeard s port k c.heat (TagIn.ofPacket k).id) c.heat c.id
      (TagIn.ofPacket k).sender g) (some c) k kCollAck 0) c.heat c.id) c.heat c.id := by
  unfold collMsgIn
  rw [collIn_of_known known]
  simp only [takes]

include there

theorem has_of_taken {k : Packet} (known : collKnown s port k c.heat c) {g : Peer → Peer}
    (takes : ∀ u, takeMsg u c k = (modPeer u c.heat c.id (TagIn.ofPacket k).sender g, none)) {P : Peer → Prop}
    (holds : ∀ x y, SaidSame (g x) y → P y) :
    CollHas (collMsgIn port k s) c (collWaits s c.heat c.id) fun c' => P (c'.peer (TagIn.ofPacket k).sender) := by
  rw [collMsgIn_of_taken known takes]
  have entered := ((enters_memberHeard known).modPeer (TagIn.ofPacket k).sender g).congr (sameColls_collAnswer _ (some c) k kCollAck 0)
  refine entered.collHas_sending there (sending_pumpColl _ _ _) fun c' goes => ?_
  have said := goes.said (TagIn.ofPacket k).sender
  have inside : (TagIn.ofPacket k).sender < c.peers.length := sender_inside known
  rw [peer_modNth (c := { c with quiet := 0 }) inside] at said
  exact holds _ _ said

/-- A message that is refused ends the collective's sending with its reason. -/
theorem has_of_refused {k : Packet} (known : collKnown s port k c.heat c) (reason : Nat) (takes : ∀ u, takeMsg u c k = (u, some reason)) :
    CollHas (collMsgIn port k s) c (collWaits s c.heat c.id) fun c' => c'.refused = some (16 + reason) := by
  have unrefused := known.2.2.1
  unfold collMsgIn
  rw [collIn_of_known known]
  simp only [takes]
  unfold answerRefuse
  dsimp only
  let u := memberHeard s port k c.heat (TagIn.ofPacket k).id
  have kept : SameColls u (keepRefusal (collAnswer u (some c) k kRefuse reason) (ownChip u) (16 + reason) c.heat k.tag) :=
    (sameColls_collAnswer u (some c) k kRefuse reason).trans ⟨rfl, rfl, rfl⟩
  have entered := ((enters_memberHeard known).congr kept).modColl (f := fun x =>
    { x with refused := some (x.refused.getD (16 + reason)), unsent := [], again := [], retryAt := none, heldPk := [] })
    fun _ => ⟨rfl, rfl, rfl, rfl⟩
  refine entered.collHas there ?_
  change some (c.refused.getD (16 + reason)) = _
  rw [unrefused]
  rfl

end

/-! ## The messages -/

section
variable {s : State} {port : Nat} {p : Packet} {c : Coll} {f : Flight} (there : flightOf s c.queue c.index = some f)
include there

theorem collReady_has (known : collKnown s port { p with kind := kReady } c.heat c)
    (counts : c.form = 0 → (TagIn.ofPacket p).value = (c.member (TagIn.ofPacket p).sender).count) :
    ∃ t, exec (.collReady port p) s = .next t ∧ CollHas t c (collWaits s c.heat c.id) fun c' =>
      (c'.peer (TagIn.ofPacket p).sender).ready = some (TagIn.ofPacket p).value := by
  refine ⟨_, rfl, has_of_taken (k := { p with kind := kReady }) there known
    (g := fun x => { x with ready := some (TagIn.ofPacket p).value }) (fun u => ?_)
    (P := fun x => x.ready = some (TagIn.ofPacket p).value) fun _ _ same => same.1⟩
  have fits : ¬(c.form = 0 && (TagIn.ofPacket { p with kind := kReady }).value !=
      (c.member (TagIn.ofPacket { p with kind := kReady }).sender).count) = true := by
    simp only [Bool.and_eq_true, decide_eq_true_eq, bne_iff_ne, ne_eq, not_and, not_not]
    exact counts
  rw [takeMsg]
  simp only [if_true, if_neg fits]
  rfl

theorem collReady_refuses (known : collKnown s port { p with kind := kReady } c.heat c) (form : c.form = 0)
    (other : (TagIn.ofPacket p).value ≠ (c.member (TagIn.ofPacket p).sender).count) :
    ∃ t, exec (.collReady port p) s = .next t ∧ CollHas t c (collWaits s c.heat c.id) fun c' => c'.refused = some 17 := by
  refine ⟨_, rfl, has_of_refused (k := { p with kind := kReady }) there known 1 fun u => ?_⟩
  have wrong : (c.form = 0 && (TagIn.ofPacket { p with kind := kReady }).value !=
      (c.member (TagIn.ofPacket { p with kind := kReady }).sender).count) = true := by
    simp only [form, decide_true, Bool.true_and, bne_iff_ne, ne_eq]
    exact other
  rw [takeMsg]
  simp only [if_true, wrong]

theorem collCounts_has (known : collKnown s port { p with kind := kCounts } c.heat c) :
    ∃ t, exec (.collCounts port p) s = .next t ∧ CollHas t c (collWaits s c.heat c.id) fun c' =>
      (c'.peer (TagIn.ofPacket p).sender).counts = some (TagIn.ofPacket p).value :=
  ⟨_, rfl, has_of_taken (k := { p with kind := kCounts }) there known (g := fun x => { x with counts := some (TagIn.ofPacket p).value })
    (fun _ => rfl) (P := fun x => x.counts = some (TagIn.ofPacket p).value) fun _ _ same => same.2.1⟩

theorem collEnd_has (known : collKnown s port { p with kind := kEnd } c.heat c) :
    ∃ t, exec (.collEnd port p) s = .next t ∧ CollHas t c (collWaits s c.heat c.id) fun c' =>
      (c'.peer (TagIn.ofPacket p).sender).ended = some (TagIn.ofPacket p).value :=
  ⟨_, rfl, has_of_taken (k := { p with kind := kEnd }) there known (g := fun x => { x with ended := some (TagIn.ofPacket p).value })
    (fun _ => rfl) (P := fun x => x.ended = some (TagIn.ofPacket p).value) fun _ _ same => same.2.2.2.1⟩

theorem collGrant_has (known : collKnown s port { p with kind := kGrant } c.heat c) :
    ∃ t, exec (.collGrant port p) s = .next t ∧ CollHas t c (collWaits s c.heat c.id) fun c' =>
      (c'.peer (TagIn.ofPacket p).sender).grant = some (TagIn.ofPacket p).value := by
  let j := (TagIn.ofPacket p).sender
  let k := { p with kind := kGrant }
  let u := collAnswer (modPeer (memberHeard s port k c.heat (TagIn.ofPacket k).id) c.heat c.id j fun x =>
    { x with grant := some (TagIn.ofPacket p).value }) (some c) k kCollAck 0
  let c1 : Coll := { c with quiet := 0, peers := modNth c.peers j fun x => { x with grant := some (TagIn.ofPacket p).value } }
  have entered : Enters s u c c1 := ((enters_memberHeard known).modPeer j _).congr (sameColls_collAnswer _ (some c) k kCollAck 0)
  have found : findColl u c.heat c.id = some c1 := findColl_of_only entered.only
  have ran : exec (.collGrant port p) s = .next (settleColl (bxSend u (collPar u c1) c1 j (TagIn.ofPacket k).value2) c.heat c.id) := by
    refine (congrArg Host.Outcome.next (collIn_of_known known _)).trans ?_
    change Host.Outcome.next (match findColl u c.heat c.id with | some c => _ | none => _) = _
    rw [found]
    rfl
  refine ⟨_, ran, entered.collHas_sending there (sending_bxSend u _ _ _ _) fun c' goes => ?_⟩
  have said := goes.said j
  have inside : j < c.peers.length := sender_inside (k := k) known
  have own : c1.peer j = _ := peer_modNth (c := { c with quiet := 0 }) inside fun x => { x with grant := some (TagIn.ofPacket p).value }
  rw [own] at said
  exact said.2.2.1

end

end Sys2Proof.Machine
end

section
/-! SUPPORT. COLL_DATA (R342, R346, R349, R354): bytes stored or added, counted for their sender, and what is sent after them. -/

namespace Sys2Proof.Machine

/-! ## Sending leaves memory -/

/-- Memory is as it was, and still without errors. -/
structure SameBytes (s t : State) : Prop where
  mem : t.mem = s.mem
  blank : t.blank = s.blank
  errs : t.errs = s.errs

theorem SameBytes.refl (s : State) : SameBytes s s := ⟨rfl, rfl, rfl⟩

theorem SameBytes.trans {s t u : State} (a : SameBytes s t) (b : SameBytes t u) : SameBytes s u :=
  ⟨b.mem.trans a.mem, b.blank.trans a.blank, b.errs.trans a.errs⟩

theorem SameBytes.getByte {s t : State} (same : SameBytes s t) (a : Nat) : Machine.getByte t a = Machine.getByte s a :=
  getByte_congr same.mem same.blank a

theorem sameBytes_foldl {α : Type} {f : State → α → State} (step : ∀ s a, s.errs = [] → SameBytes s (f s a)) (l : List α) {s : State}
    (sound : s.errs = []) : SameBytes s (l.foldl f s) := by
  induction l generalizing s with
  | nil => exact .refl s
  | cons a l ih => exact (step s a sound).trans (ih ((step s a sound).errs.trans sound))

section
variable {s : State}

theorem sameBytes_sendColl (c : Coll) (j : Nat) (k : Packet) : SameBytes s (sendColl s c j k) := by
  unfold sendColl
  split
  · split
    · exact .refl s
    · split
      · exact ⟨rfl, rfl, rfl⟩
      · obtain ⟨l, sent⟩ := sendTxn_frame s (.coll c.heat c.id j) k
        rw [sent]
        exact ⟨rfl, rfl, rfl⟩
  · exact .refl s

variable (sound : s.errs = [])
include sound

theorem sameBytes_sendRun (c : Coll) (j src n dst op : Nat) (order : Option Nat) (layer kind : Nat) :
    SameBytes s (sendRun s c j src n dst op order layer kind) := by
  unfold sendRun
  simp only [checkRead_of_sound sound, Bool.not_true, Bool.false_eq_true, if_false]
  have marked : SameBytes s (modPeer s c.heat c.id j fun p => { p with sentTo := true }) := ⟨rfl, rfl, rfl⟩
  exact marked.trans (sameBytes_foldl (fun u k _ => sameBytes_sendColl c j k) _ sound)

/-- A reduce-scatter or an all-gather reads what it sends, and writes nothing. -/
theorem sameBytes_pumpColl {h id : Nat} {c : Coll} (found : findColl s h id = some c) (early : c.form ≤ 1) :
    SameBytes s (pumpColl s h id) := by
  unfold pumpColl
  simp only [found]
  split
  · exact .refl s
  · rcases Nat.le_one_iff_eq_zero_or_eq_one.mp early with form | form
    · rw [form]
      refine sameBytes_foldl (fun u j fine => ?_) _ sound
      unfold rsSend
      dsimp only
      split
      · exact .refl u
      · exact (sameBytes_sendRun fine _ _ _ _ _ _ _ _ _).trans ⟨rfl, rfl, rfl⟩
    · rw [form]
      refine sameBytes_foldl (fun u j fine => ?_) _ sound
      unfold agSend
      split
      · exact .refl u
      · exact sameBytes_sendRun fine _ _ _ _ _ _ _ _ _

end

/-- Nor does its end. -/
theorem getByte_settleColl {s : State} {h id : Nat} {c : Coll} (found : findColl s h id = some c) (early : c.form ≤ 1) (a : Nat) :
    getByte (settleColl s h id) a = getByte s a := by
  have settled := settled_settleColl found
  generalize settleColl s h id = t at settled ⊢
  cases settled with
  | on => rfl
  | ended w st x y same answered open_ bytes =>
    obtain ⟨mem, blank⟩ := endColl_bytes w c st x y
    obtain ⟨memW, blankW⟩ := bytes early
    exact getByte_congr (mem.trans memW) (blank.trans blankW) a

/-! ## Data counted -/

section
variable {s v : State} {port : Nat} {p : Packet} {c c1 : Coll} {f : Flight} (there : flightOf s c.queue c.index = some f)
include there

/-- What follows data that was counted: it stays counted, and memory stays as the data left it. -/
theorem counted_of_enters (enters : Enters s v c c1) (early : c1.form ≤ 1) (sound : v.errs = []) (j got : Nat)
    (counts : (c1.peer j).got = got) :
    let t := settleColl (pumpColl v c.heat c.id) c.heat c.id
    CollHas t c (collWaits s c.heat c.id) (fun c' => (c'.peer j).got = got) ∧ ∀ a, getByte t a = getByte v a := by
  intro t
  have sends := sending_pumpColl v c.heat c.id
  refine ⟨enters.collHas_sending there sends fun c' goes => (goes.said j).2.2.2.2.trans counts, fun a => ?_⟩
  obtain ⟨c', only, goes⟩ := sends.only enters.only
  have pumped := sameBytes_pumpColl sound (findColl_of_only enters.only) early
  exact (getByte_settleColl (findColl_of_only only) (by rw [goes.form]; exact early) a).trans (pumped.getByte a)

end

/-! ## The data of a packet -/

theorem length_modNth {α : Type} (l : List α) (n : Nat) (f : α → α) : (modNth l n f).length = l.length := by
  induction l generalizing n with
  | nil => rfl
  | cons a l ih =>
    cases n with
    | zero => rfl
    | succ n => rw [modNth, List.length_cons, ih, List.length_cons]

section
variable {s : State} {port : Nat} {p : Packet} {c : Coll}

/-- The data of a packet, after its tag. -/
def collBytes (p : Packet) : List Byte := p.data.drop 32

theorem exec_collData_of_known (known : collKnown s port { p with kind := kData } c.heat c) {b n : Nat}
    (range : expectRange (collPar s c) c (TagIn.ofPacket p).sender = some (b, n)) (low : b ≤ p.offset)
    (high : p.offset + (collBytes p).length ≤ b + n) (whole : dataFits { p with kind := kData } = true) :
    let k := { p with kind := kData }
    let j := (TagIn.ofPacket p).sender
    let u := memberHeard s port k c.heat (TagIn.ofPacket k).id
    exec (.collData port p) s = .next (settleColl (pumpColl (if c.form = 0 then rsData u (collPar s c) c k j (collBytes p)
      else storeData u c k j (collBytes p)) c.heat c.id) c.heat c.id) := by
  intro k j u
  have par : collPar (memberHeard s port { p with kind := kData } c.heat (TagIn.ofPacket { p with kind := kData }).id) c = collPar s c := by
    rw [collPar, collPar, getQueue, getQueue, (enters_memberHeard known).queues]
  have range : expectRange (collPar s c) c (TagIn.ofPacket { p with kind := kData }).sender = some (b, n) := range
  have inside : (decide (b ≤ p.offset) && decide (p.offset + (p.data.drop 32).length ≤ b + n)) = true := by
    have high : p.offset + (p.data.drop 32).length ≤ b + n := high
    rw [decide_eq_true low, decide_eq_true high]
    rfl
  refine (congrArg Host.Outcome.next (collIn_of_known known _)).trans ?_
  simp only [par, range, inside, whole, Bool.not_true, Bool.false_eq_true, if_false]
  rfl

/-- Data applied to a collective that was entered: acknowledged, and counted for its sender. -/
theorem dataApplied_gives {v w : State} {c1 : Coll} {j n : Nat} (enters : Enters s v c c1) (inside : j < c1.peers.length)
    (same : SameColls v w) (k : Packet) : ∃ c2, Enters s (dataApplied w c k j n) c c2 ∧ c2.form = c1.form ∧
      (c2.peer j).got = (c1.peer j).got + n ∧ SameBytes w (dataApplied w c k j n) := by
  have counted := ((enters.congr same).modPeer j fun x => { x with got := x.got + n }).congr
    (sameColls_collAnswer _ (some c) k kCollAck 0)
  refine ⟨_, counted, rfl, ?_, ?_⟩
  · rw [peer_modNth inside]
  · rw [dataApplied, collAnswer_frame]
    exact ⟨rfl, rfl, rfl⟩

section
variable (sound : s.errs = [])
include sound

/-- An all-gather stores the data. -/
theorem storeData_of_plain (form : c.form = 1) {k : Packet} (op : k.memOp = 0) (stack : place s k.offset = .stack) {j : Nat} {d : List Byte}
    (free : ordViolates s c.heat k.offset d.length 0 false 0 (.coll c.id j) = false) :
    storeData s c k j d = dataApplied (writeBytes s k.offset d) c k j d.length := by
  have takes : takeData s k d = (writeBytes s k.offset d, true) := by
    rw [takeData, if_pos op, storeLocal, stack]
    simp only [storeStack_of_sound sound]
  have other : ¬(c.form = 3) := by omega
  simp only [storeData, op, free, takes, other, decide_false, Bool.false_and, Bool.false_eq_true, if_false, if_true]

/-- A plain INT32 reduce-scatter adds the data. -/
theorem rsData_of_plain {par : CollPar} (ordered : par.ordered = false) (ledger : par.ledgerEn = false) {k : Packet} (op : k.memOp = 3)
    {j : Nat}
    {d : List Byte} (free : regionsAt s c.heat k.offset d.length = []) :
    let u := modPeer s c.heat c.id j fun x => { x with admitted := true, held := false }
    rsData s par c k j d = dataApplied (addInts u k.offset d (d.length / 4)) c k j d.length := by
  intro u
  have allows : ledgerRefuses s par c j = false := by rw [ledgerRefuses, ledger, Bool.false_and]
  have takes : takeData u k d = (addInts u k.offset d (d.length / 4), true) := by
    have other : ¬k.memOp = 0 := by omega
    rw [takeData, if_neg other, op, applyMemOp_int32 (s := u) sound]
  have fits := ordViolates_of_free free k.memOp false 0 (.coll c.id j)
  have applied : rsApply u par c none k j d = dataApplied (addInts u k.offset d (d.length / 4)) c k j d.length := by
    simp only [rsApply, takes, ledger, Bool.not_true, Bool.false_eq_true, if_false, ite_self]
  rw [← applied]
  simp only [rsData, allows, ordered, fits, Bool.not_false, Bool.false_eq_true, if_false, if_true]
  rfl

end

/-- A state in which a member's packet has come differs in its ports and collectives alone. -/
theorem memberHeard_frame (s : State) (port : Nat) (k : Packet) (h id : Nat) : SameMap s (memberHeard s port k h id) ∧
    SameBytes s (memberHeard s port k h id) ∧ (memberHeard s port k h id).heats = s.heats :=
  ⟨.of_fields rfl rfl rfl, ⟨rfl, rfl, rfl⟩, rfl⟩

theorem ordViolates_congr {s t : State} (same : t.heats = s.heats) (h a n op : Nat) (en : Bool) (order : Nat) (who : Sender) :
    ordViolates t h a n op en order who = ordViolates s h a n op en order who := by
  rw [ordViolates, ordViolates, regionsAt_congr same]

section
variable {f : Flight} (there : flightOf s c.queue c.index = some f) (known : collKnown s port { p with kind := kData } c.heat c)
  {b n : Nat} (range : expectRange (collPar s c) c (TagIn.ofPacket p).sender = some (b, n)) (low : b ≤ p.offset)
  (high : p.offset + (collBytes p).length ≤ b + n) (whole : dataFits { p with kind := kData } = true) (sound : s.errs = [])
include there known range low high whole sound

/-- What the sender's data counts after a packet of it. -/
def Counts (s t : State) (c : Coll) (j n : Nat) : Prop :=
  CollHas t c (collWaits s c.heat c.id) fun c' => (c'.peer j).got = (c.peer j).got + n

theorem collData_stores (form : c.form = 1) (op : p.memOp = 0) (stack : place s p.offset = .stack)
    (free : ordViolates s c.heat p.offset (collBytes p).length 0 false 0 (.coll c.id (TagIn.ofPacket p).sender) = false) :
    ∃ t, exec (.collData port p) s = .next t ∧ Stored s t p.offset (collBytes p) ∧
      Counts s t c (TagIn.ofPacket p).sender (collBytes p).length := by
  have ran := exec_collData_of_known known range low high whole
  have entered := enters_memberHeard known
  obtain ⟨map, bytes, heats⟩ := memberHeard_frame s port { p with kind := kData } c.heat (TagIn.ofPacket { p with kind := kData }).id
  have other : ¬c.form = 0 := by omega
  simp only [if_neg other] at ran
  generalize memberHeard s port { p with kind := kData } c.heat (TagIn.ofPacket { p with kind :=
      kData }).id = u at ran entered map bytes heats
  rw [storeData_of_plain (s := u) (k := { p with kind := kData }) (bytes.errs.trans sound) form op ((map.place _).trans stack)
    ((ordViolates_congr heats _ _ _ _ _ _ _).trans free)] at ran
  have wrote : SameColls u (writeBytes u p.offset (collBytes p)) := (readFrame_writeBytes u _ _).sameColls
  have inside : (TagIn.ofPacket p).sender < c.peers.length := sender_inside (k := { p with kind := kData }) known
  obtain ⟨c2, applied, same, got, left⟩ := dataApplied_gives (n := (collBytes p).length) entered inside wrote { p with kind := kData }
  obtain ⟨counts, after⟩ := counted_of_enters there applied (by rw [same]; exact form.le) (left.errs.trans (by
    rw [writeBytes_frame]
    exact bytes.errs.trans sound)) _ _ got
  refine ⟨_, ran, ?_, counts⟩
  obtain ⟨holds, out⟩ := stored_writeBytes u p.offset (collBytes p)
  have reads (a : Nat) := (after a).trans (left.getByte a)
  exact ⟨(readBytes_congr fun i _ => reads _).trans holds, fun a apart => (reads a).trans ((out a apart).trans (bytes.getByte a))⟩

theorem collData_adds (form : c.form = 0) (ordered : (collPar s c).ordered = false) (ledger : (collPar s c).ledgerEn = false)
    (op : p.memOp = 3)
    (free : regionsAt s c.heat p.offset (collBytes p).length = []) :
    ∃ t, exec (.collData port p) s = .next t ∧ Counts s t c (TagIn.ofPacket p).sender (collBytes p).length ∧
      (∀ i, i < (collBytes p).length / 4 → readNat t (p.offset + i * 4) 4 =
        (readNat s (p.offset + i * 4) 4 + natAt (collBytes p) (i * 4) 4) % 2 ^ 32) ∧
      ∀ a, (a < p.offset ∨ p.offset + (collBytes p).length ≤ a) → getByte t a = getByte s a := by
  have ran := exec_collData_of_known known range low high whole
  have entered := enters_memberHeard known
  obtain ⟨-, bytes, heats⟩ := memberHeard_frame s port { p with kind := kData } c.heat (TagIn.ofPacket { p with kind := kData }).id
  simp only [if_pos form] at ran
  generalize memberHeard s port { p with kind := kData } c.heat (TagIn.ofPacket { p with kind := kData }).id = u at ran entered bytes heats
  rw [rsData_of_plain (s := u) (k := { p with kind := kData }) (bytes.errs.trans sound)
      ordered ledger op ((regionsAt_congr heats _ _ _).trans free)] at ran
  let v := modPeer u c.heat c.id (TagIn.ofPacket p).sender fun x => { x with admitted := true, held := false }
  let w := addInts v p.offset (collBytes p) ((collBytes p).length / 4)
  have admitted := entered.modPeer (TagIn.ofPacket p).sender fun x => { x with admitted := true, held := false }
  have added : SameColls v w := by
    unfold w
    rw [addInts_frame]
    exact ⟨rfl, rfl, rfl⟩
  have inside : (TagIn.ofPacket p).sender < c.peers.length := sender_inside (k := { p with kind := kData }) known
  have still : (TagIn.ofPacket p).sender < (modNth c.peers (TagIn.ofPacket p).sender fun x => { x with admitted := true, held :=
      false }).length := by
    rw [length_modNth]
    exact inside
  obtain ⟨c2, applied, same, got, left⟩ := dataApplied_gives (n := (collBytes p).length) admitted still added { p with kind := kData }
  rw [peer_modNth (c := { c with quiet := 0 }) inside] at got
  have clean : w.errs = [] := by
    unfold w
    rw [addInts_frame]
    exact bytes.errs.trans sound
  obtain ⟨counts, after⟩ := counted_of_enters there applied (by rw [same]; exact form.le.trans (by decide)) (left.errs.trans clean) _ _ got
  have reads (a : Nat) := (after a).trans (left.getByte a)
  have before (a : Nat) : getByte v a = getByte s a := bytes.getByte a
  refine ⟨_, ran, counts, fun i here => ?_, fun a out => ?_⟩
  · rw [readNat_congr fun _ _ => reads _, readNat_addInts _ _ _ _ here, readNat_congr fun _ _ => before _]
  · have whole : (collBytes p).length / 4 * 4 ≤ (collBytes p).length := Nat.div_mul_le_self _ _
    exact (reads a).trans ((getByte_addInts_out v p.offset (collBytes p) _ (by omega)).trans (before a))

end

end

/-- Settles O44: what each message enters, and what data does to memory and to its count. -/
theorem collectiveMessages : Obligations.CollectiveMessages := by
  unfold Obligations.CollectiveMessages
  intro s port h p c flight heat number t0 has
  subst heat
  obtain ⟨f, there⟩ := Option.isSome_iff_exists.mp flight
  refine ⟨⟨fun known counts => collReady_has there known counts, fun known form other => collReady_refuses there known form other,
    fun known => collCounts_has there known, fun known => collEnd_has there known, fun known => collGrant_has there known⟩, ?_⟩
  intro b n known d par counted range low high sound whole stack
  exact ⟨fun form op free => collData_stores there known range low high whole sound form op stack free,
    fun form ordered ledger op free => collData_adds there known range low high whole sound form ordered ledger op free⟩

end Sys2Proof.Machine
end

section
/-! SUPPORT. Ordered contributions: what an addition does to memory, and what it leaves (R218, R225 to R227). -/

namespace Sys2Proof.Machine

/-! ## Element by element (R218) -/

/-- The first `n` elements of a memory-side operation: the state, and the FLUSH events. -/
def memOpLoop (op : Nat) (cls : Cls) (s : State) (a : Nat) (l : List Byte) (n : Nat) : State × Nat :=
  (List.range n).foldl (fun (acc : State × Nat) i =>
    (writeNat acc.1 (a + i * memOpBytes op) (memOpBytes op)
      (memOpElem op cls (readNat acc.1 (a + i * memOpBytes op) (memOpBytes op)) (natAt l (i * memOpBytes op) (memOpBytes op))).1,
      acc.2 + (memOpElem op cls (readNat acc.1 (a + i * memOpBytes op) (memOpBytes op))
        (natAt l (i * memOpBytes op) (memOpBytes op))).2)) (s, 0)

section
variable (op : Nat) (cls : Cls) (s : State) (a : Nat) (l : List Byte) (n : Nat)

theorem memOpLoop_succ : (memOpLoop op cls s a l (n + 1)).1 =
    writeNat (memOpLoop op cls s a l n).1 (a + n * memOpBytes op) (memOpBytes op)
      (memOpElem op cls (readNat (memOpLoop op cls s a l n).1 (a + n * memOpBytes op) (memOpBytes op))
        (natAt l (n * memOpBytes op) (memOpBytes op))).1 := by
  rw [memOpLoop, List.range_succ, List.foldl_concat]
  rfl

theorem memOpLoop_frame : (memOpLoop op cls s a l n).1 = { s with mem := (memOpLoop op cls s a l n).1.mem } := by
  induction n with
  | zero => rfl
  | succ n ih => rw [memOpLoop_succ, writeNat_frame, ih]

theorem getByte_memOpLoop_out {i : Nat} (out : i < a ∨ a + n * memOpBytes op ≤ i) :
    getByte (memOpLoop op cls s a l n).1 i = getByte s i := by
  induction n with
  | zero => rfl
  | succ n ih =>
    rw [Nat.succ_mul] at out
    rw [memOpLoop_succ, getByte_writeNat_out _ _ (by omega), ih (by omega)]

theorem readNat_memOpLoop {i : Nat} (inside : i < n) :
    readNat (memOpLoop op cls s a l n).1 (a + i * memOpBytes op) (memOpBytes op) =
      (memOpElem op cls (readNat s (a + i * memOpBytes op) (memOpBytes op)) (natAt l (i * memOpBytes op) (memOpBytes op))).1 %
        256 ^ memOpBytes op := by
  induction n with
  | zero => exact absurd inside (Nat.not_lt_zero i)
  | succ n ih =>
    rw [memOpLoop_succ]
    by_cases last : i = n
    · have before : readNat (memOpLoop op cls s a l n).1 (a + n * memOpBytes op) (memOpBytes op) =
          readNat s (a + n * memOpBytes op) (memOpBytes op) :=
        readNat_congr fun j _ => getByte_memOpLoop_out op cls s a l n (.inr (by omega))
      rw [last, readNat_writeNat_same, before]
    · have earlier : i < n := by omega
      have apart : i * memOpBytes op + memOpBytes op ≤ n * memOpBytes op := by
        rw [← Nat.succ_mul]
        exact Nat.mul_le_mul_right _ earlier
      rw [readNat_writeNat_out _ (by omega), ih earlier]

end

/-- The numeric class of the heat that owns an address (R213). -/
def clsAt (s : State) (a : Nat) : Cls := match heatOfAddr s a with | some h => heatCls s h | none => .train

/-- A loop's state with its FLUSH events counted for the heat that owns the range. -/
def flushAt (s : State) (a : Nat) (x : State × Nat) : State := match heatOfAddr s a with | some h => addFlush x.1 h x.2 | none => x.1

theorem applyMemOp_eq (s : State) (op a : Nat) (l : List Byte) : applyMemOp s op a l =
    if !(checkRead s a l.length).2 then checkRead s a l.length
    else (flushAt (checkRead s a l.length).1 a (memOpLoop op (clsAt (checkRead s a l.length).1 a) (checkRead s a l.length).1 a l
      (l.length / memOpBytes op)), true) := rfl

theorem applyMemOp_of_sound {s : State} (sound : s.errs = []) (op a : Nat) (l : List Byte) :
    applyMemOp s op a l = (flushAt s a (memOpLoop op (clsAt s a) s a l (l.length / memOpBytes op)), true) := by
  rw [applyMemOp_eq, checkRead_of_sound sound]
  exact if_neg Bool.false_ne_true

theorem addFlush_frame (s : State) (h n : Nat) : addFlush s h n = { s with dict := (addFlush s h n).dict } := by
  unfold addFlush
  split <;> rfl

theorem flushAt_frame (s : State) (a : Nat) (x : State × Nat) : flushAt s a x = { x.1 with dict := (flushAt s a x).dict } := by
  unfold flushAt
  split
  · exact addFlush_frame _ _ _
  · rfl

theorem readFrame_flushAt (s : State) (a : Nat) (x : State × Nat) : ReadFrame x.1 (flushAt s a x) := by
  have frame := flushAt_frame s a x
  generalize flushAt s a x = t at frame
  rw [frame]
  exact ⟨rfl⟩

/-! ## What additions leave -/

section
variable (s : State)

theorem readFrame_applyMemOp (op a : Nat) (l : List Byte) : ReadFrame s (applyMemOp s op a l).1 := by
  have read := readFrame_checkRead s a l.length
  rw [applyMemOp_eq]
  generalize checkRead s a l.length = r at read
  split
  · exact read
  · have wrote : ReadFrame s (memOpLoop op (clsAt r.1 a) r.1 a l (l.length / memOpBytes op)).1 := read.trans ⟨by rw [memOpLoop_frame]⟩
    exact wrote.trans (readFrame_flushAt _ _ _)

theorem readFrame_squaresOf (h op : Nat) (p : ContribSpan) (l : List Byte) : ReadFrame s (squaresOf s h op p l) := by
  unfold squaresOf
  split
  · exact ⟨rfl⟩
  · exact .refl s

theorem readFrame_contribute (h l kind : Nat) : ReadFrame s (contribute s h l kind) := by
  unfold contribute
  dsimp only
  split <;> exact ⟨rfl⟩

theorem readFrame_ordApply (h r op order : Nat) (who : Sender) (p : ContribSpan) (l : List Byte) :
    ReadFrame s (ordApply s h r op order who p l).1 := by
  unfold ordApply
  dsimp only
  have entered : ReadFrame s (modRegion s h r fun x => x.enter order who ((ordPlace (getRegion s h r) order).getD false) p) := ⟨rfl⟩
  split
  · exact entered.trans (readFrame_storeStack _ _ _)
  · exact (entered.trans (readFrame_squaresOf _ _ _ _ _)).trans (readFrame_applyMemOp _ _ _ _)

theorem readFrame_foldl {α : Type} {f : State → α → State} (step : ∀ s a, ReadFrame s (f s a))
    (l : List α) : ReadFrame s (l.foldl f s) := by
  induction l generalizing s with
  | nil => exact .refl s
  | cons a l ih => exact (step s a).trans (ih _)

theorem readFrame_addInto (h op order : Nat) (who : Sender) (p : ContribSpan) (l : List Byte) :
    ReadFrame s (addInto s h op order who p l).1 := by
  unfold addInto
  have all (cuts : List (Nat × Nat × Option (Nat × OrdRegion))) (x : State × Bool) (before : ReadFrame s x.1) :
      ReadFrame s (cuts.foldl (fun (acc : State × Bool) c =>
        let d := sliceBytes l (c.1 - p.addr) c.2.1
        let q := { p with addr := c.1, len := c.2.1 }
        if !acc.2 then acc
        else match c.2.2 with
          | none => applyMemOp (squaresOf acc.1 h op q d) op c.1 d
          | some r => if r.2.closed then acc else ordApply acc.1 h r.1 op order who q d) x).1 := by
    induction cuts generalizing x with
    | nil => exact before
    | cons c cuts ih =>
      rw [List.foldl_cons]
      refine ih _ ?_
      dsimp only
      split
      · exact before
      · split
        · exact (before.trans (readFrame_squaresOf _ _ _ _ _)).trans (readFrame_applyMemOp _ _ _ _)
        · split
          · exact before
          · exact before.trans (readFrame_ordApply _ _ _ _ _ _ _ _)
  exact all _ _ (.refl s)

theorem readFrame_ordWhole (h r : Nat) (c : Contrib) : ReadFrame s (ordWhole s h r c) := by
  have risen : ReadFrame s (modRegion s h r fun x => riseNext x c.order) := ⟨rfl⟩
  unfold ordWhole
  dsimp only
  split
  · split
    · exact risen.trans (readFrame_contribute _ _ _ _)
    · exact risen
  · exact risen

theorem readFrame_ordEnd (h r order : Nat) : ReadFrame s (ordEnd s h r order) := by
  unfold ordEnd
  split
  · exact .refl s
  · split
    · exact ⟨rfl⟩
    · exact readFrame_ordWhole _ _ _ _

theorem readFrame_ordEndAll (h order : Nat) (l : List (Nat × Nat)) : ReadFrame s (ordEndAll s h order l) :=
  readFrame_foldl s (fun u r => readFrame_ordEnd u h r order) _

end

/-! ## Packets held back, taken (R225) -/

section
variable (s : State) (h : Nat)

theorem remoteApply_heldMem (k : Packet) : (remoteApply s h k).heldMem = s.heldMem := by
  unfold remoteApply
  dsimp only
  have added := readFrame_addInto s h k.memOp k.orderNo (.remote k.src k.tag) { addr := k.offset, len := k.data.length } k.data
  generalize addInto s h k.memOp k.orderNo (.remote k.src k.tag) { addr := k.offset, len := k.data.length } k.data = r at added
  have same : r.1.heldMem = s.heldMem := by rw [added.whole]
  split
  · rw [sendNak, sendPacket_frame]
    exact same
  · rw [sendAck, sendPacket_frame]
    split
    · rw [(readFrame_ordEndAll r.1 h k.orderNo [(k.offset, k.data.length)]).whole]
      exact same
    · exact same

theorem takeHeld_heldMem (k : Packet) : (takeHeld s h k).heldMem = s.heldMem := by
  unfold takeHeld
  split
  · rw [sendNak, sendPacket_frame]
  · exact remoteApply_heldMem s h k

theorem takeHeld_foldl_heldMem (l : List (Nat × Packet)) : (l.foldl (fun s x => takeHeld s h x.2) s).heldMem = s.heldMem := by
  induction l generalizing s with
  | nil => rfl
  | cons x l ih => exact (ih _).trans (takeHeld_heldMem s h x.2)

end

end Sys2Proof.Machine
end

section
/-! SUPPORT. STAGED_CONTRIBUTION_ADD and HELD_CONTRIBUTION_TAKEN (R225, R352). -/

namespace Sys2Proof.Machine

/-! ## Ordered regions are left alone -/

/-- Every heat's ordered regions are as they were. -/
def RegionsKept (s t : State) : Prop := ∀ h, (getHeat t h).regions = (getHeat s h).regions

theorem RegionsKept.trans {s t u : State} (a : RegionsKept s t) (b : RegionsKept t u) : RegionsKept s u := fun h => (b h).trans (a h)

theorem RegionsKept.of_heats {s t : State} (same : t.heats = s.heats) : RegionsKept s t := fun h => by rw [getHeat_congr same]

theorem regionsKept_modHeat (s : State) (h : Nat) (f : Heat → Heat) (keeps : ∀ x, (f x).regions = x.regions) :
    RegionsKept s (modHeat s h f) := by
  intro k
  rw [modHeat, getHeat_setHeat]
  split
  · next same =>
    subst same
    exact keeps _
  · rfl

theorem regionsKept_setLedger (s : State) (h l : Nat) (e : Ledger) : RegionsKept s (setLedger s h l e) :=
  regionsKept_modHeat s h _ fun _ => rfl

/-- Memory, what it holds, and every heat's ordered regions are as they were. -/
structure Untouched (s t : State) : Prop where
  bytes : SameBytes s t
  regions : RegionsKept s t

theorem Untouched.refl (s : State) : Untouched s s := ⟨.refl s, fun _ => rfl⟩

theorem Untouched.trans {s t u : State} (a : Untouched s t) (b : Untouched t u) : Untouched s u :=
  ⟨a.bytes.trans b.bytes, a.regions.trans b.regions⟩

theorem Untouched.of_heats {s t : State} (mem : t.mem = s.mem) (blank : t.blank = s.blank) (errs : t.errs = s.errs)
    (heats : t.heats = s.heats) : Untouched s t := ⟨⟨mem, blank, errs⟩, .of_heats heats⟩

theorem untouched_foldl {α : Type} {f : State → α → State} (step : ∀ s a, Untouched s (f s a)) (l : List α) (s : State) :
    Untouched s (l.foldl f s) := by
  induction l generalizing s with
  | nil => exact .refl s
  | cons a l ih => exact (step s a).trans (ih _)

theorem untouched_setLedger (s : State) (h l : Nat) (e : Ledger) : Untouched s (setLedger s h l e) :=
  ⟨⟨rfl, rfl, rfl⟩, regionsKept_setLedger s h l e⟩

section
variable (s : State)

theorem untouched_modFlight (q i : Nat) (f : Flight → Flight) : Untouched s (modFlight s q i f) := .of_heats rfl rfl rfl rfl

theorem untouched_contribute (h l kind : Nat) : Untouched s (contribute s h l kind) := by
  unfold contribute
  dsimp only
  split
  · exact .of_heats rfl rfl rfl rfl
  · exact untouched_setLedger _ _ _ _

theorem untouched_countContribution (q : Nat) (p : DmaPar) : Untouched s (countContribution s q p) := by
  unfold countContribution
  split
  · split
    · exact untouched_contribute _ _ _ _
    · exact .refl s
  · exact .refl s

theorem untouched_settleDma (q i : Nat) : Untouched s (settleDma s q i) := by
  unfold settleDma
  split
  · exact .refl s
  · split
    · exact .refl s
    · dsimp only
      split
      · split
        · exact untouched_modFlight s _ _ _
        · exact (untouched_modFlight s _ _ _).trans (untouched_countContribution _ _ _)
      · exact untouched_modFlight s _ _ _

theorem untouched_settleStaged (h : Nat) (c : Contrib) (refused : List ContribSpan) : Untouched s (settleStaged s h c refused) := by
  refine untouched_foldl (fun u x => ?_) _ s
  split
  · exact .of_heats rfl rfl rfl rfl
  · split
    · exact .refl u
    · exact (untouched_modFlight u _ _ _).trans (untouched_settleDma _ _ _)

theorem untouched_endColl (c : Coll) (st a b : Nat) : Untouched s (endColl s c st a b) := by
  unfold endColl
  rw [releaseAlloc_frame]
  exact .of_heats rfl rfl rfl rfl

/-- A reduce-scatter, or a collective that was refused, changes neither memory nor a region as it is looked at. -/
theorem untouched_settleColl {h id : Nat} (plain : ∀ c, findColl s h id = some c → c.form = 0 ∨ c.refused ≠ none) :
    Untouched s (settleColl s h id) := by
  unfold settleColl
  cases found : findColl s h id with
  | none => exact .refl s
  | some c =>
    have kind := plain c found
    dsimp only
    split
    · exact .refl s
    · cases refused : c.refused with
      | some r => exact untouched_endColl _ _ _ _ _
      | none =>
        have form : c.form = 0 := kind.resolve_right fun is => is refused
        simp only [form]
        split
        · exact .refl s
        · split
          · exact untouched_endColl _ _ _ _ _
          · exact .refl s

theorem untouched_settleReduces (h : Nat) : Untouched s (settleReduces s h) := by
  refine untouched_foldl (fun u c => ?_) _ s
  split
  · next reduce =>
    refine untouched_settleColl u fun x found => .inl ?_
    rw [found] at reduce
    exact of_decide_eq_true reduce
  · exact .refl u

theorem untouched_sendPacket (k : Packet) : Untouched s (sendPacket s k) := by
  rw [sendPacket_frame]
  exact .of_heats rfl rfl rfl rfl

/-- A refused collective is found refused. -/
theorem findColl_refuseColl {u : State} {h id : Nat} {x y : Coll} (reason : Nat) (found : findColl u h id = some x)
    (after : findColl (refuseColl u x reason) h id = some y) : y.refused ≠ none := by
  obtain ⟨heat, number⟩ := collIs_of_findColl found
  subst heat number
  have marked := findColl_modColl_of_some found (f := fun x : Coll =>
    { x with refused := some (x.refused.getD reason), unsent := [], again := [], retryAt := none, heldPk := [] }) fun _ => rfl
  cases marked.symm.trans after
  exact Option.some_ne_none _

theorem untouched_refuseStaged (h : Nat) (c : Contrib) (refused : List ContribSpan) : Untouched s (refuseStaged s h c refused) := by
  unfold refuseStaged
  split
  · split
    · next x found =>
      extract_lets _ u
      have sent : Untouched s u := untouched_sendPacket s _
      have still : u.colls = s.colls := by
        unfold u
        rw [sendPacket_frame]
      have told : Untouched u (refuseColl (keepRefusal u (ownChip u) 18 h (heatTag u h)) x 18) := .of_heats rfl rfl rfl rfl
      refine sent.trans (told.trans (untouched_settleColl _ fun y after => .inr ?_))
      exact findColl_refuseColl 18 ((findColl_congr still h _).trans found) after
    · exact .refl s
  · exact .refl s

end

/-! ## A contribution added from its half -/

/-- What an addition into sound memory leaves: its errors, and every heat's regions. -/
structure Adds (s t : State) : Prop where
  errs : t.errs = s.errs
  regions : RegionsKept s t

theorem Adds.trans {s t u : State} (a : Adds s t) (b : Adds t u) : Adds s u := ⟨b.errs.trans a.errs, a.regions.trans b.regions⟩

theorem adds_flushAt (s u : State) (a op : Nat) (cls : Cls) (l : List Byte) (n : Nat) :
    Adds s (flushAt u a (memOpLoop op cls s a l n)) := by
  have flushed := flushAt_frame u a (memOpLoop op cls s a l n)
  generalize flushAt u a (memOpLoop op cls s a l n) = t at flushed
  rw [memOpLoop_frame] at flushed
  rw [flushed]
  exact ⟨rfl, .of_heats rfl⟩

theorem adds_squaresOf (s : State) (h op : Nat) (p : ContribSpan) (l : List Byte) : Adds s (squaresOf s h op p l) := by
  unfold squaresOf
  split
  · exact ⟨rfl, regionsKept_setLedger s h _ _⟩
  · exact ⟨rfl, fun _ => rfl⟩

section
variable {s : State} (sound : s.errs = []) (h : Nat) (g : OrdRegion) (c : Contrib)
include sound

/-- A span added from sound memory: no sector fails. -/
theorem addStaged_of_opened {refused : List ContribSpan} {p : ContribSpan} (open_ : p.kind = 0 ∨ (getLedger s h p.layer).st = .opened) :
    let op := if g.bf16 then 2 else 1
    let l := readBytes s (g.stagedAt c.order p.addr) p.len
    let u := squaresOf s h op p l
    addStaged h g c (s, true, refused) p =
      (flushAt u p.addr (memOpLoop op (clsAt u p.addr) u p.addr l (l.length / memOpBytes op)), true, refused) := by
  intro op l u
  have enters : (p.kind != 0 && (getLedger s h p.layer).st != .opened) = false := by
    rcases open_ with kind | opened
    · rw [kind]; rfl
    · rw [opened]; exact Bool.and_false _
  have clean : u.errs = [] := (adds_squaresOf s h op p l).errs.trans sound
  unfold addStaged
  simp only [Bool.not_true, Bool.false_eq_true, if_false, enters, checkRead_of_sound sound]
  rw [show applyMemOp (squaresOf s h (if g.bf16 then 2 else 1) p (readBytes s (g.stagedAt c.order p.addr) p.len))
    (if g.bf16 then 2 else 1) p.addr (readBytes s (g.stagedAt c.order p.addr) p.len) = _ from applyMemOp_of_sound clean op p.addr l]

theorem adds_addStaged (refused : List ContribSpan) (p : ContribSpan) :
    ∃ t more, addStaged h g c (s, true, refused) p = (t, true, more) ∧ Adds s t := by
  by_cases open_ : p.kind = 0 ∨ (getLedger s h p.layer).st = .opened
  · exact ⟨_, _, addStaged_of_opened sound h g c open_, (adds_squaresOf s h _ p _).trans (adds_flushAt _ _ _ _ _ _ _)⟩
  · obtain ⟨kind, closed⟩ := not_or.mp open_
    refine ⟨s, p :: refused, ?_, rfl, fun _ => rfl⟩
    unfold addStaged
    simp [kind, closed]

theorem adds_foldl_addStaged (l : List ContribSpan) (refused : List ContribSpan) :
    ∃ t more, l.foldl (addStaged h g c) (s, true, refused) = (t, true, more) ∧ Adds s t := by
  induction l generalizing s refused with
  | nil => exact ⟨s, refused, rfl, rfl, fun _ => rfl⟩
  | cons p l ih =>
    obtain ⟨u, some_, one, first⟩ := adds_addStaged sound h g c refused p
    obtain ⟨t, more, rest, then_⟩ := ih (first.errs.trans sound) some_
    exact ⟨t, more, by rw [List.foldl_cons, one, rest], first.trans then_⟩

end

/-! ## The region after it -/

theorem getElem?_modNth_same {α : Type} (l : List α) (n : Nat) (f : α → α) : (modNth l n f)[n]? = (l[n]?).map f := by
  induction l generalizing n with
  | nil => rfl
  | cons a l ih =>
    cases n with
    | zero => rfl
    | succ n => rw [modNth, List.getElem?_cons_succ, List.getElem?_cons_succ, ih]

/-- What counts a whole contribution leaves regions but the one that rises past it. -/
theorem untouched_ordWhole (s : State) (h r : Nat) (c : Contrib) :
    Untouched (modRegion s h r fun x => riseNext x c.order) (ordWhole s h r c) := by
  unfold ordWhole
  dsimp only
  split
  · split
    · exact untouched_contribute _ _ _ _
    · exact .refl _
  · exact .refl _

theorem regions_modRegion {s : State} {h r : Nat} {g : OrdRegion} (is : (getHeat s h).regions[r]? = some g) (f : OrdRegion → OrdRegion) :
    (getHeat (modRegion s h r f) h).regions[r]? = some (f g) := by
  rw [modRegion, getHeat_modHeat]
  change (modNth (getHeat s h).regions r f)[r]? = _
  rw [getElem?_modNth_same, is]
  rfl

/-- The contribution whose turn has come has the region's next number. -/
theorem order_of_next {g : OrdRegion} {c : Contrib}
    (next_ : g.contribs.find? (fun c => c.order = g.next && c.staged && c.whole) = some c) : c.order = g.next := by
  have all := List.find?_some next_
  simp only [Bool.and_eq_true, decide_eq_true_eq] at all
  exact all.1.1

/-- What follows an addition: the region risen past the contribution, memory as the addition left it. -/
theorem exec_stagedContributionAdd {s : State} {h r : Nat} {g : OrdRegion} {c : Contrib} (is : (getHeat s h).regions[r]? = some g)
    (next_ : g.contribs.find? (fun c => c.order = g.next && c.staged && c.whole) = some c) (open_ : g.closed = false) {u : State}
    {more : List ContribSpan} (added : c.spans.reverse.foldl (addStaged h g c) (s, true, []) = (u, true, more)) (kept : RegionsKept s u) :
    ∃ t, exec (.stagedContributionAdd h r) s = .next t ∧ (getHeat t h).regions[r]? = some (riseNext g g.next) ∧
      ∀ a, getByte t a = getByte u a := by
  have order := order_of_next next_
  have row : exec (.stagedContributionAdd h r) s =
      .next (settleReduces (refuseStaged (settleStaged (ordWhole u h r c) h c more) h c more) h) := by
    have run : exec (.stagedContributionAdd h r) s = execStagedContributionAdd h r s := rfl
    rw [run, execStagedContributionAdd]
    simp only [is, next_, open_, Bool.false_eq_true, if_false, added, if_true]
  have left := ((untouched_ordWhole u h r c).trans (untouched_settleStaged _ h c more)).trans
    ((untouched_refuseStaged _ h c more).trans (untouched_settleReduces _ h))
  refine ⟨_, row, ?_, fun a => left.bytes.getByte a⟩
  rw [left.regions h, regions_modRegion (by rw [kept h]; exact is), order]

/-! ## An FP32 contribution of one piece -/

/-- The squares of a payload change neither what the address map reads nor a byte. -/
theorem sameMap_squaresOf (s : State) (h op : Nat) (p : ContribSpan) (l : List Byte) : SameMap s (squaresOf s h op p l) := by
  unfold squaresOf
  split
  · refine ⟨rfl, rfl, ?_⟩
    rw [liveHeats, liveHeats, rangeWhere, rangeWhere]
    refine List.filter_congr fun k _ => ?_
    rw [addSquares, setLedger, modHeat, getHeat_setHeat]
    split
    · next same =>
      subst same
      rfl
    · rfl
  · exact .of_fields rfl rfl rfl

theorem sameBytes_squaresOf (s : State) (h op : Nat) (p : ContribSpan) (l : List Byte) : SameBytes s (squaresOf s h op p l) := by
  unfold squaresOf
  split <;> exact ⟨rfl, rfl, rfl⟩

theorem clsAt_congr {s t : State} (same : SameMap s t) (a : Nat) : clsAt t a = clsAt s a := by
  unfold clsAt
  rw [same.heatOfAddr]
  split
  · next h _ => rw [heatCls, heatCls, same.dget]
  · rfl

/-- A number read from bytes of memory. -/
theorem natAt_readBytes (s : State) (a n : Nat) {o k : Nat} (inside : o + k ≤ n) : natAt (readBytes s a n) o k = readNat s (a + o) k := by
  refine congrArg natOfBytes (List.ext_getElem (by simp [sliceBytes, length_fitBytes]) fun i here there => ?_)
  rw [length_readBytes] at there
  have far : i < ((readBytes s a n).drop o).length := by rw [List.length_drop, length_readBytes]; omega
  simp only [sliceBytes, fitBytes, List.getElem_take]
  rw [List.getElem_append_left far, List.getElem_drop, getElem_readBytes, getElem_readBytes, Nat.add_assoc]

/-- An FP32 contribution of one piece adds element by element, and changes no other byte. -/
theorem stagedAdd_adds {s : State} (sound : s.errs = []) (h : Nat) {g : OrdRegion} {c : Contrib} {p : ContribSpan} (one : c.spans = [p])
    (order : c.order = g.next) (wide : g.bf16 = false) (open_ : p.kind = 0 ∨ (getLedger s h p.layer).st = .opened) {u : State}
    {more : List ContribSpan} (added : c.spans.reverse.foldl (addStaged h g c) (s, true, []) = (u, true, more)) :
    (∀ i, i < p.len / 4 → readNat u (p.addr + i * 4) 4 =
      (vop2 fmtF32 (clsAt s p.addr) fvAdd (readNat s (p.addr + i * 4) 4)
        (readNat s (g.stage + g.next % 2 * g.bytes + (p.addr - g.base) + i * 4) 4)).1 % 2 ^ 32) ∧
    ∀ b, (b < p.addr ∨ p.addr + p.len ≤ b) → getByte u b = getByte s b := by
  rw [one, List.reverse_singleton, List.foldl_cons, List.foldl_nil, addStaged_of_opened sound h g c open_] at added
  simp only [wide, Bool.false_eq_true, if_false, OrdRegion.stagedAt, order] at added
  have result := congrArg Prod.fst added
  dsimp only at result
  let l := readBytes s (g.stage + g.next % 2 * g.bytes + (p.addr - g.base)) p.len
  have length : l.length = p.len := length_readBytes _ _ _
  have map := sameMap_squaresOf s h 1 p l
  have bytes := sameBytes_squaresOf s h 1 p l
  change flushAt (squaresOf s h 1 p l) p.addr (memOpLoop 1 (clsAt (squaresOf s h 1 p l) p.addr) (squaresOf s h 1 p l) p.addr l
    (l.length / 4)) = u at result
  rw [clsAt_congr map, length] at result
  generalize squaresOf s h 1 p l = v at result bytes
  have flushed := flushAt_frame v p.addr (memOpLoop 1 (clsAt s p.addr) v p.addr l (p.len / 4))
  rw [result] at flushed
  have reads (a : Nat) : getByte u a = getByte (memOpLoop 1 (clsAt s p.addr) v p.addr l (p.len / 4)).1 a := by rw [flushed]; rfl
  refine ⟨fun i inside => ?_, fun b out => ?_⟩
  · have here : i * 4 + 4 ≤ p.len := by omega
    rw [readNat_congr fun _ _ => reads _]
    refine (readNat_memOpLoop 1 (clsAt s p.addr) v p.addr l (p.len / 4) inside).trans ?_
    change (memOpElem 1 _ (readNat v (p.addr + i * 4) 4) (natAt l (i * 4) 4)).1 % 256 ^ 4 = _
    rw [natAt_readBytes _ _ _ here, readNat_congr fun _ _ => bytes.getByte _]
    rfl
  · rw [reads, getByte_memOpLoop_out 1 _ _ _ _ _ (by change b < p.addr ∨ p.addr + p.len / 4 * 4 ≤ b; omega)]
    exact bytes.getByte b

/-! ## HELD_CONTRIBUTION_TAKEN -/

section
variable {s : State} {h r order : Nat} {g : OrdRegion} (is : (getHeat s h).regions[r]? = some g)
  (takes : (ordPlace g order).isSome = true ∨ ordPast g order = true)
include is takes

theorem exec_heldContributionTaken : exec (.heldContributionTaken h r order) s = match heldQueue s h r order with
    | some q => .next (startHead s q)
    | none =>
      if s.heldMem.any (heldFor s h r order) then
        .next ((s.heldMem.filter (heldFor s h r order)).foldl (fun s x => takeHeld s h x.2)
          { s with heldMem := s.heldMem.filter fun x => !heldFor s h r order x })
      else
        match s.colls.find? fun c => c.heat = h && c.form = 0 && c.me.base = g.base && c.refused.isNone &&
            (c.others.any fun j => (c.peer j).held && (if j < c.self then j else j - 1) = order) with
        | none => .next s
        | some c =>
          let j := if order < c.self then order else order + 1
          let s := modPeer s h c.id j fun x => { x with held := false }
          .next (sendColl s c j (collMsg s c j kResume 0)) := by
  have goes : ((ordPlace g order).isNone && !ordPast g order) = false := by
    rcases takes with place | past
    · rw [Option.isNone_eq_false_iff.mpr place]; rfl
    · rw [past]; exact Bool.and_false _
  have run : exec (.heldContributionTaken h r order) s = execHeldContributionTaken h r order s := rfl
  rw [run, execHeldContributionTaken]
  simp only [is, goes, Bool.false_eq_true, if_false] <;> rfl

end

/-- Settles O32: a contribution added from its half as its turn has come, and one that was held back taken. -/
theorem orderedContributions : Obligations.OrderedContributions := by
  unfold Obligations.OrderedContributions
  refine ⟨fun s h r g c is next_ open_ sound => ?_, fun s h r order g is takes => ⟨fun none_ held => ?_, fun q some_ => ?_⟩⟩
  · obtain ⟨u, more, added, adds⟩ := adds_foldl_addStaged sound h g c c.spans.reverse []
    have order := order_of_next next_
    obtain ⟨t, ran, region, reads⟩ := exec_stagedContributionAdd is next_ open_ added adds.regions
    refine ⟨t, ran, region, fun p one wide ledger => ?_⟩
    obtain ⟨elements, rest⟩ := stagedAdd_adds sound h one order wide ledger added
    exact ⟨fun i inside => (readNat_congr fun _ _ => reads _).trans (elements i inside), fun b out => (reads b).trans (rest b out)⟩
  · have ran := exec_heldContributionTaken is takes
    simp only [none_, held, if_true] at ran
    exact ⟨_, ran, takeHeld_foldl_heldMem _ _ _⟩
  · have ran := exec_heldContributionTaken is takes
    rw [some_] at ran
    exact ran

end Sys2Proof.Machine
end

section
/-! SUPPORT. Rings read and written (R378, R379, R391, R393), and what the end of a session leaves (R385). -/

namespace Sys2Proof.Machine

/-- What a ring read or written may change: what a read may change, and the queues that are rung. -/
structure RingFrame (s t : State) : Prop where
  whole : t = { s with
    mem := t.mem, errs := t.errs, dict := t.dict, dom := t.dom, corrs := t.corrs, heats := t.heats, events := t.events
    lostEvents := t.lostEvents, failedChannels := t.failedChannels, sinceTest := t.sinceTest, queues := t.queues }

namespace RingFrame

theorem refl (s : State) : RingFrame s s := ⟨rfl⟩

theorem trans {s t u : State} (a : RingFrame s t) (b : RingFrame t u) : RingFrame s u := by
  have first := a.whole
  have second := b.whole
  rw [first] at second
  exact ⟨second⟩

theorem of_read {s t : State} (frame : ReadFrame s t) : RingFrame s t := by
  have whole := frame.whole
  rw [whole]
  exact ⟨rfl⟩

section
variable {s t : State} (frame : RingFrame s t)
include frame

theorem sessions : t.sessions = s.sessions := by rw [frame.whole]

theorem serves : t.serves = s.serves := by rw [frame.whole]

end

end RingFrame

section
variable (s : State)

theorem ringFrame_refuseDoorbell (q : Nat) : RingFrame s (refuseDoorbell s q) := by
  unfold refuseDoorbell
  dsimp only
  split <;> exact ⟨rfl⟩

theorem ringFrame_ringDoorbell (a : Agent) (q t : Nat) : RingFrame s (ringDoorbell s a q t).1 := by
  simp only [ringDoorbell]
  split
  · exact ringFrame_refuseDoorbell s q
  · split
    · split
      · exact .refl s
      · split
        · exact ⟨rfl⟩
        · exact ringFrame_refuseDoorbell s q
    · exact ringFrame_refuseDoorbell s q

theorem ringFrame_noteRing (h which : Nat) (bad : Bool) : RingFrame s (noteRing s h which bad) := by
  unfold noteRing
  dsimp only
  split
  · refine .trans (t := dadd (modHeat s h fun x => { x with ringBad := setNth x.ringBad which bad }) 0x2D40 8 1) ⟨rfl⟩ ?_
    exact .of_read (readFrame_raise _ _)
  · exact ⟨rfl⟩

theorem ringFrame_ringNotify (h sub : Nat) : RingFrame s (ringNotify s h sub) := by
  unfold ringNotify
  dsimp only
  split
  · exact .refl s
  · split
    · exact ringFrame_ringDoorbell _ _ _ _
    · exact (ringFrame_ringDoorbell _ _ _ _).trans ⟨rfl⟩

theorem ringFrame_ringHeader (h base bytes : Nat) : RingFrame s (ringHeader s h base bytes).1 := by
  unfold ringHeader
  split
  · exact .refl s
  · exact .of_read (readFrame_checkRead s base 8)

theorem ringFrame_inboxFree (h : Nat) : RingFrame s (inboxFree s h).1 := by
  unfold inboxFree
  dsimp only
  split
  · exact .refl s
  · have read := ringFrame_ringHeader s h (inboxBase s h) (64 + 64 * 2 ^ inboxLog s h)
    generalize ringHeader s h (inboxBase s h) (64 + 64 * 2 ^ inboxLog s h) = r at *
    obtain ⟨u, _ | x⟩ := r
    · exact read
    · exact read.trans (ringFrame_noteRing _ _ _ _)

theorem ringFrame_inboxPut (h prod entry : Nat) : RingFrame s (inboxPut s h prod entry) := by
  unfold inboxPut
  extract_lets b u v
  have first : RingFrame s u := .of_read (readFrame_storeStack s _ _)
  have second : RingFrame u v := .of_read (readFrame_storeStack u _ _)
  exact (first.trans second).trans (ringFrame_ringNotify v h 9)

/-! ## A session's end -/

theorem cancelServe_sessions (x : Serve) : (cancelServe s x).sessions = s.sessions := by
  unfold cancelServe
  dsimp only
  split
  · rfl
  · have free := ringFrame_inboxFree s x.heat
    generalize inboxFree s x.heat = r at *
    obtain ⟨u, _ | p⟩ := r
    · exact free.sessions
    · exact (ringFrame_inboxPut _ _ _ _).sessions.trans free.sessions

theorem withdrawPlan_sessions (h : Nat) : (withdrawPlan s h).sessions = s.sessions := by
  unfold withdrawPlan
  have removed := (removalFrame_removeHeatPlan (modHeat s h fun x => { x with claim := none }) h).whole
  generalize removeHeatPlan (modHeat s h fun x => { x with claim := none }) h = u at removed
  change u.sessions = s.sessions
  rw [removed]
  rfl

theorem foldl_sessions {α : Type} {f : State → α → State} (step : ∀ s a, (f s a).sessions = s.sessions) (l : List α) (s : State) :
    (l.foldl f s).sessions = s.sessions := by
  induction l generalizing s with
  | nil => rfl
  | cons a l ih => exact (ih _).trans (step s a)

/-- A closed session is gone. -/
theorem getSession_closeSession (n : Nat) : getSession (closeSession s n) n = none := by
  unfold closeSession
  split
  · next none_ => exact none_
  · dsimp only
    rw [getSession_congr (foldl_sessions cancelServe_sessions _ _), getSession_congr (foldl_sessions withdrawPlan_sessions _ _),
      getSession_emit, getSession]
    simp [List.find?_filter]

end

end Sys2Proof.Machine
end

section
/-! SUPPORT. Ethernet frames and links, and how sessions begin and end (R374, R384, R385). -/

namespace Sys2Proof.Machine

/-! ## A message answered (R386) -/

/-- A session that takes messages: set up, its link up and its records not used up (R384, R385). -/
structure Speaks (s : State) (n : Nat) (x : Session) : Prop where
  found : getSession s n = some x
  setUp : x.stage = 2
  link : ethLinkUp s x.eth = true
  inLeft : x.recsIn + 1 < 2 ^ 32
  outLeft : x.recsOut + 1 < 2 ^ 32

section
variable {s : State} {n : Nat} {x : Session} (speaks : Speaks s n x)
include speaks

theorem Speaks.touched : getSession (touchSession s n) n = some (tookRecord s.now x) := by
  rw [touchSession_of_found speaks.found, getSession_setSession_same]
  simp [tookRecord, speaks.setUp]

/-- A message whose handling ends in an answer is answered so, and its session stays open. -/
theorem Speaks.onMessage {req kind : Nat} {right : Nat → Bool} {f : State → State} {u : State} {body : List Byte}
    (answers : (if right x.rights then f (touchSession s n) else sendResult (touchSession s n)
        n req resRights 0) = sendStarter u n kind req body)
    (same : getSession u n = getSession (touchSession s n) n) :
    Machine.onMessage s n req right f = sendStarter u n kind req body ∧
      ∃ wire, LastSent (sendStarter u n kind req body) (.starter n kind req body wire) := by
  obtain ⟨wire, sent⟩ := sendStarter_of_left (same.trans speaks.touched) (Nat.lt_of_succ_lt speaks.outLeft) kind req body
  have after : getSession (sendStarter u n kind req body) n = some (sentRecord (tookRecord s.now x)) := by
    rw [sent, getSession_emit, getSession_setSession_same]
    simp [sentRecord, tookRecord, speaks.setUp]
  refine ⟨?_, wire, sent ▸ lastSent_emit _ _⟩
  calc Machine.onMessage s n req right f
      = closeSpent (if right x.rights then f (touchSession s n) else sendResult (touchSession s n) n req resRights 0) n := by
        simp [Machine.onMessage, speaks.found, speaks.setUp, speaks.link]
    _ = closeSpent (sendStarter u n kind req body) n := by rw [answers]
    _ = sendStarter u n kind req body := closeSpent_of_left after speaks.inLeft speaks.outLeft

/-- A message that is only answered changes the sessions and what leaves the device alone. -/
theorem Speaks.onMessage_kept {req kind : Nat} {right : Nat → Bool} {f : State → State} {body : List Byte}
    (answers : (if right x.rights then f (touchSession s n) else sendResult (touchSession s n) n req resRights 0) =
      sendStarter (touchSession s n) n kind req body) :
    let t := Machine.onMessage s n req right f
    t = { s with sessions := t.sessions, out := t.out, pausedOut := t.pausedOut } ∧
      ∃ wire, LastSent t (.starter n kind req body wire) := by
  obtain ⟨ran, sent⟩ := speaks.onMessage answers rfl
  dsimp only
  rw [ran]
  exact ⟨sendStarter_touchSession_frame s n kind req body, sent⟩

end

/-! ## Frames (R374) -/

section
variable {s : State} {e : Nat} {f : List Byte} (port : e < 2) (up : ethLinkUp s e = true)
include port up

theorem exec_ethernetFrame_of_pause {x : Nat} (pause : pauseOf f = some x) :
    exec (.ethernetFrame e f) s = .next (releasePaused { s with paused := setNth s.paused e (s.now + x) }) := by
  have run : exec (.ethernetFrame e f) s = execEthernetFrame e f s := rfl
  rw [run, execEthernetFrame]
  simp [port, up, pause]

theorem exec_ethernetFrame_of_other (plain : pauseOf f = none) (dropped : frameForPort s e f = false ∨ admitFrame s e f = none) :
    exec (.ethernetFrame e f) s = .next s := by
  have run : exec (.ethernetFrame e f) s = execEthernetFrame e f s := rfl
  have none_ : (if frameForPort s e f then admitFrame s e f else none) = none := by
    rcases dropped with other | bad
    · rw [other]; rfl
    · rw [bad, ite_self]
  rw [run, execEthernetFrame]
  simp [port, up, plain, none_]

theorem exec_ethernetFrame_of_arp {b : List Byte} (plain : pauseOf f = none) (mine : frameForPort s e f = true)
    (admitted : admitFrame s e f = some (0x0806, b)) (asks : typeAt b 6 = 1) (own : some (sliceBytes b 24 4) = ipv4Of s e) :
    exec (.ethernetFrame e f) s = .next (sendFrame s e (sliceBytes b 8 6) 0x0806
      (hexBytes [0, 1, 8, 0, 6, 4, 0, 2] ++ macOf s e ++ sliceBytes b 24 4 ++ sliceBytes b 8 10)) := by
  have run : exec (.ethernetFrame e f) s = execEthernetFrame e f s := rfl
  rw [run, execEthernetFrame]
  simp [port, up, plain, mine, admitted, takeArp, asks, own]

end

/-- A frame to a port that obeys a PAUSE does not leave yet. -/
theorem emit_net_of_paused {s : State} {e : Nat} (paused : portPaused s e = true) (kind : String) (l : List Byte) :
    (emit s (.net e kind l)).out = s.out := by
  have behind : outEth s (.net e kind l) = some e := rfl
  rw [emit, behind]
  simp [paused]

/-- A PAUSE lets what waits on the other port leave, and holds what waits on its own. -/
theorem releasePaused_frame (s : State) : let t := releasePaused s
    t.out = s.out ++ (s.pausedOut.filter fun y => !portPaused t y.1).map (·.2) ∧
      t.pausedOut = s.pausedOut.filter (fun y => portPaused t y.1) ∧ t = { s with out := t.out, pausedOut := t.pausedOut } := by
  refine ⟨rfl, List.filter_congr fun y _ => Bool.not_not _, rfl⟩

/-! ## Links (R374, R381, R420) -/

/-- The addresses asked for are what a port's link brings with it. -/
theorem askAddresses_frame (s : State) (e : Nat) : ∃ a b c d x y, askAddresses s e = { s with
    leases := a, prefixes := b, dhcpIds := c, freeCtr := d, out := x, pausedOut := y } := by
  have asked : ∀ u : State, (∃ a b c d x y, u = { s with leases := a, prefixes := b, dhcpIds := c, freeCtr := d, out := x, pausedOut :=
      y }) →
      ∀ o, ∃ a b c d x y, emit u o = { s with leases := a, prefixes := b, dhcpIds := c, freeCtr := d, out := x, pausedOut := y } := by
    intro u is o
    obtain ⟨a, b, c, d, x, y, is⟩ := is
    obtain ⟨x', y', sent⟩ := emit_frame u o
    rw [sent, is]
    exact ⟨a, b, c, d, x', y', rfl⟩
  unfold askAddresses
  extract_lets v r _ w
  have first : ∃ a b c d x y, w = { s with leases := a, prefixes := b, dhcpIds := c, freeCtr := d, out := x, pausedOut := y } := by
    unfold w
    split
    · exact ⟨_, _, _, _, _, _, rfl⟩
    · rw [sendDhcp, sendFrame]
      exact asked { r.2 with dhcpIds := setNth r.2.dhcpIds e r.1 } ⟨_, _, _, _, _, _, rfl⟩ _
  clear_value w
  split
  · exact first
  · rw [sendFrame]
    exact asked _ first _

theorem exec_ethernetLinkState_up {s : State} {e : Nat} (port : e < 2) (links : linksUp s = true) (laser : laserReady s (32 + e) = true)
    (enabled : dget s (0x2400 + e) 4 = 1) : ∃ t, exec (.ethernetLinkState e true) s = .next t ∧ ethLinkUp t e = true ∧
      t = { s with dict := t.dict, leases := t.leases, prefixes := t.prefixes, dhcpIds := t.dhcpIds, freeCtr := t.freeCtr,
                   out := t.out, pausedOut := t.pausedOut } := by
  have run : exec (.ethernetLinkState e true) s = execEthernetLinkState e true s := rfl
  rw [run, execEthernetLinkState, if_pos (by simp [port, links, laser, enabled])]
  let u := dset s (0x2400 + e) 2 1
  have shown : dget u (0x2400 + e) 2 = 1 := dget_dset_same _ _ _ _
  refine ⟨_, rfl, ?_⟩
  by_cases was : dget s (0x2400 + e) 2 = 1
  · have stays : setEthernet s e true = u := if_pos was
    rw [stays]
    exact ⟨decide_eq_true shown, rfl⟩
  · have comes : setEthernet s e true = askAddresses u e := if_neg was
    obtain ⟨a, b, c, d, x, y, asked⟩ := askAddresses_frame u e
    rw [comes, asked]
    exact ⟨decide_eq_true shown, rfl⟩

theorem exec_ethernetLinkState_down {s : State} {e : Nat} (port : e < 2) :
    ∃ t, exec (.ethernetLinkState e false) s = .next t ∧ ethLinkUp t e = false ∧
      t = { s with dict := t.dict, conns := t.conns } ∧ ∀ c ∈ t.conns, connEth s c = some e → c.up = false := by
  have run : exec (.ethernetLinkState e false) s = execEthernetLinkState e false s := rfl
  rw [run, execEthernetLinkState, if_pos (by simp [port])]
  have shown : dget (dset s (0x2400 + e) 2 0) (0x2400 + e) 2 = 0 := dget_dset_same _ _ _ _
  refine ⟨_, rfl, ?_, rfl, fun c listed behind => ?_⟩
  · exact decide_eq_false fun up => absurd (shown.symm.trans up) (by decide)
  · obtain ⟨d, -, is⟩ := List.mem_map.mp (show c ∈ s.conns.map fun c =>
      if c.up && connEth (dset s (0x2400 + e) 2 0) c = some e then { c with up := false, down := s.now } else c from listed)
    by_cases reach : (d.up && decide (connEth (dset s (0x2400 + e) 2 0) d = some e)) = true
    · rw [if_pos reach] at is
      rw [← is]
    · rw [if_neg reach] at is
      subst is
      have same : connEth (dset s (0x2400 + e) 2 0) d = some e := behind
      simpa [same] using reach

/-! ## Sessions (R384, R385) -/

theorem exec_tcpConnection_of_starter {s : State} {e : Nat} (port : e < 2) (up : ethLinkUp s e = true) (ready : bootStage s = bsReady)
    (enabled : dget s 0x2402 1 ≠ 0) (room : s.sessions.length < 64) :
    ∃ t, exec (.tcpConnection e 7340) s = .next t ∧
      getSession t s.nextSession = some { eth := e, since := s.now, last := s.now } ∧ t.nextSession = s.nextSession + 1 := by
  have run : exec (.tcpConnection e 7340) s = execTcpConnection e 7340 s := rfl
  have few : ¬ s.sessions.length ≥ maxSessions := Nat.not_le.mpr room
  rw [run, execTcpConnection, if_neg (by simp [port, up]), if_neg (by simp [ready, enabled, few, starterPort])]
  dsimp only
  refine ⟨_, rfl, ?_, emit_nextSession _ _⟩
  rw [getSession_emit, getSession]
  dsimp only
  have listed : ({ eth := e, since := s.now, last := s.now } : Session) ≠ { eth := 2 } := fun is =>
    absurd (congrArg Session.eth is) (Nat.ne_of_lt port)
  rw [find?_tabSet_same listed, Option.map_some]

theorem exec_tcpConnection_of_other {s : State} {e p : Nat} (port : e < 2) (up : ethLinkUp s e = true) (other : p ≠ 7340) :
    exec (.tcpConnection e p) s = .next (emit s (.tcp e "rst" (segment s e (bytesOf 2 p)))) := by
  have run : exec (.tcpConnection e p) s = execTcpConnection e p s := rfl
  rw [run, execTcpConnection, if_neg (by simp [port, up]), if_pos (by simp [other, starterPort])]

section
variable {s : State} {n : Nat} {x : Session} (found : getSession s n = some x)
include found

theorem exec_hello_of_good {v : Nat} {nonce kem : List Byte} {rcd : RecordIn} (short : rcd.len ≤ maxRecord) (new : x.stage = 0)
    (one : v = 1)
    (nonceLen : nonce.length = 32) (kemLen : kem.length = 1568) (left : x.recsOut < maxRecords) :
    ∃ t, exec (.hello n v nonce kem rcd) s = .next t ∧ (∃ b wire, LastSent t (.starter n 2 rcd.req b wire)) ∧
      ∃ y, getSession t n = some y ∧ y.stage = 1 ∧ y.eth = x.eth ∧ y.recsOut = x.recsOut + 1 := by
  have run : exec (.hello n v nonce kem rcd) s = execHello n v nonce kem rcd s := rfl
  rw [run, execHello, found]
  dsimp only
  rw [if_neg (Nat.not_lt.mpr short), if_neg (by simp [new, one, nonceLen, kemLen])]
  generalize transcriptOf rcd.req v nonce kem _ = transcript
  generalize Config.shake256 _ 88 = secrets
  generalize helloReply s _ _ ++ Config.falconSign transcript = body
  generalize (takeFree (freeBytes s 32).2 256).2 = u
  let y : Session := { x with stage := 1, last := s.now, recsIn := 1, transcript := transcript, secrets := secrets }
  have greeted : getSession (setSession u n y) n = some y := getSession_setSession_same _ _ Nat.one_ne_zero
  obtain ⟨wire, sent⟩ := sendStarter_of_left greeted left 2 rcd.req body
  refine ⟨_, rfl, ⟨body, wire, ?_⟩, sentRecord y, ?_, rfl, rfl, rfl⟩
  · exact sent ▸ lastSent_emit _ _
  · rw [sent, getSession_emit]
    exact getSession_setSession_same _ _ Nat.one_ne_zero

theorem exec_hello_of_bad {v : Nat} {nonce kem : List Byte} {rcd : RecordIn} (bad : x.stage ≠ 0 ∨ v ≠ 1) :
    ∃ t, exec (.hello n v nonce kem rcd) s = .next t ∧ getSession t n = none := by
  have run : exec (.hello n v nonce kem rcd) s = execHello n v nonce kem rcd s := rfl
  have wrong : (x.stage != 0 || v != 1 || nonce.length != 32 || kem.length != 1568) = true := by
    rcases bad with stage | version
    · simp [stage]
    · simp [version]
  rw [run, execHello, found]
  dsimp only
  split
  · exact ⟨_, rfl, getSession_closeSession _ n⟩
  · exact ⟨_, rfl, getSession_closeSession _ n⟩

theorem exec_auth_of_good {key sig : List Byte} {rcd : RecordIn} (short : rcd.len ≤ maxRecord) (greeted : x.stage = 1)
    (left : x.recsOut < maxRecords) : ∃ t, exec (.auth n true rcd key sig) s = .next t ∧
      getSession t n = match keyRights s key with
        | some r => if Config.falconVerify key x.transcript sig = true
          then some { x with stage := 2, rights := r, last := s.now, recsIn := x.recsIn + 1, recsOut := x.recsOut + 1 } else none
        | none => none := by
  have run : exec (.auth n true rcd key sig) s = execAuth n true rcd key sig s := rfl
  rw [run, execAuth, found]
  dsimp only
  rw [if_neg (by simpa using short), if_neg (by simp [greeted])]
  cases keyRights s key with
  | none => exact ⟨_, rfl, getSession_closeSession _ n⟩
  | some r =>
    dsimp only
    cases Config.falconVerify key x.transcript sig
    · exact ⟨_, rfl, getSession_closeSession _ n⟩
    · let y : Session := { x with stage := 2, rights := r, last := s.now, recsIn := x.recsIn + 1 }
      have open_ : getSession (dadd (setSession s n y) 0x2D40 1 1) n = some y :=
        (getSession_congr (dset_sessions _ _ _ _) n).trans (getSession_setSession_same _ _ (OfNat.ofNat_ne_zero 2))
      obtain ⟨wire, sent⟩ := sendStarter_of_left open_ left 4 rcd.req [byte r]
      refine ⟨_, rfl, ?_⟩
      change getSession (sendStarter (dadd (setSession s n y) 0x2D40 1 1) n 4 rcd.req [byte r]) n = _
      rw [sent, getSession_emit]
      exact getSession_setSession_same _ _ (OfNat.ofNat_ne_zero 2)

theorem exec_auth_of_badTag (key sig : List Byte) (rcd : RecordIn) :
    ∃ t, exec (.auth n false rcd key sig) s = .next t ∧ getSession t n = none := by
  have run : exec (.auth n false rcd key sig) s = execAuth n false rcd key sig s := rfl
  rw [run, execAuth, found]
  exact ⟨_, rfl, getSession_closeSession _ n⟩

theorem exec_sessionSetupTimeout_of_due (waiting : x.stage < 2) (due : x.since + ms 5000 ≤ s.now) :
    ∃ t, exec (.sessionSetupTimeout n) s = .next t ∧ getSession t n = none := by
  have run : exec (.sessionSetupTimeout n) s = execSessionSetupTimeout n s := rfl
  rw [run, execSessionSetupTimeout, found]
  exact ⟨_, if_pos (by simp [waiting, due]), getSession_closeSession _ n⟩

theorem exec_sessionIdleTimeout_of_due (setUp : x.stage = 2) (due : x.last + ms (1000 * dget s 0x2402 4) < s.now) :
    ∃ t, exec (.sessionIdleTimeout n) s = .next t ∧ getSession t n = none := by
  have run : exec (.sessionIdleTimeout n) s = execSessionIdleTimeout n s := rfl
  rw [run, execSessionIdleTimeout, found]
  exact ⟨_, if_pos (by simp [setUp, due]), getSession_closeSession _ n⟩

end

/-- Settles O57: frames and links of an Ethernet port, and how a session begins, is answered and ends. -/
theorem sessionsBeginAndEnd : Obligations.SessionsBeginAndEnd := by
  unfold Obligations.SessionsBeginAndEnd
  intro s e port
  refine ⟨fun up f => ⟨fun x pause => ?_, fun b plain mine admitted asks own => ?_, fun plain dropped => ?_⟩,
    fun links laser enabled => exec_ethernetLinkState_up port links laser enabled, exec_ethernetLinkState_down port,
    fun up => ⟨fun ready enabled room => exec_tcpConnection_of_starter port up ready enabled room,
      fun p other => exec_tcpConnection_of_other port up other⟩, fun n x found => ⟨fun v nonce kem rcd short => ⟨?_, ?_⟩, ?_⟩⟩
  · obtain ⟨out, held, frame⟩ := releasePaused_frame { s with paused := setNth s.paused e (s.now + x) }
    exact ⟨_, exec_ethernetFrame_of_pause port up pause, rfl, out, held, frame⟩
  · refine ⟨_, exec_ethernetFrame_of_arp port up plain mine admitted asks own, ?_, fun paused => emit_net_of_paused paused _ _,
      lastSent_emit _ _⟩
    obtain ⟨x, y, sent⟩ := emit_frame s (.net e "frame" (ethFrame s e (sliceBytes b 8 6) 0x0806
      (hexBytes [0, 1, 8, 0, 6, 4, 0, 2] ++ macOf s e ++ sliceBytes b 24 4 ++ sliceBytes b 8 10)))
    rw [sendFrame, sent]
  · exact exec_ethernetFrame_of_other port up plain dropped
  · exact fun new one nonceLen kemLen left => exec_hello_of_good found short new one nonceLen kemLen left
  · exact exec_hello_of_bad found
  · refine ⟨fun key sig rcd short greeted left => exec_auth_of_good found short greeted left, exec_auth_of_badTag found,
      ⟨_, rfl, getSession_closeSession s n⟩, exec_sessionSetupTimeout_of_due found, exec_sessionIdleTimeout_of_due found,
      fun req setUp link inLeft outLeft => ?_⟩
    obtain ⟨kept, told⟩ := Speaks.onMessage_kept ⟨found, setUp, link, inLeft, outLeft⟩ (req := req) (right := fun _ => true)
      (f := fun s => sendResult s n req resOk 0) (if_pos rfl)
    exact ⟨_, rfl, told, kept⟩

end Sys2Proof.Machine
end

section
/-! SUPPORT. A heat set up at START and at ABANDON: what stays of sessions and of the heat's seed (R240, R390, R461). -/

namespace Sys2Proof.Machine

/-! ## A session among the others -/

theorem find?_tabSet_ne {α : Type} [DecidableEq α] (d v : α) (t : Tab α) {k j : Nat} (other : j ≠ k) :
    (tabSet d t k v).find? (·.1 = j) = t.find? (·.1 = j) := by
  have skip (l : Tab α) (u : α) : ((k, u) :: l).find? (·.1 = j) = l.find? (·.1 = j) :=
    List.find?_cons_of_neg (by simpa using other.symm)
  have dropped (l : Tab α) : (tabDrop (· == k) l).find? (·.1 = j) = l.find? (·.1 = j) := by
    rw [tabDrop, List.find?_filter]
    refine List.find?_congr fun x _ => ?_
    by_cases here : x.1 = j
    · simp [here, other]
    · simp [here]
  induction t with
  | nil =>
    unfold tabSet
    split
    · rfl
    · exact skip _ _
  | cons e t ih =>
    obtain ⟨i, w⟩ := e
    rw [tabSet]
    split
    · split
      · rw [List.find?_cons, List.find?_cons, dropped]
      · exact skip _ _
    · split
      · next here =>
        subst here
        rw [skip]
        split
        · exact dropped t
        · exact skip _ _
      · rw [List.find?_cons, List.find?_cons, ih]

/-- What a message to any session leaves of one that is set up: its records, one more sent at most. -/
theorem getSession_sendStarter {s : State} {n : Nat} {x : Session} (found : getSession s n = some x) (setUp : x.stage = 2)
    (m kind req : Nat)
    (body : List Byte) : ∃ y, getSession (sendStarter s m kind req body) n = some y ∧ y.recsIn = x.recsIn ∧ y.recsOut ≤ x.recsOut + 1 := by
  unfold sendStarter
  split
  · exact ⟨x, found, rfl, Nat.le_succ _⟩
  · next z known =>
    split
    · exact ⟨x, found, rfl, Nat.le_succ _⟩
    · rw [getSession_emit]
      by_cases same : m = n
      · subst same
        obtain rfl : z = x := Option.some.inj (known.symm.trans found)
        exact ⟨sentRecord z, getSession_setSession_same s m (x := sentRecord z) (setUp.trans_ne (OfNat.ofNat_ne_zero 2)), rfl,
            Nat.le_refl _⟩
      · refine ⟨x, ?_, rfl, Nat.le_succ _⟩
        rw [getSession]
        dsimp only
        rw [find?_tabSet_ne _ _ _ (Ne.symm same)]
        exact found

/-! ## What the set-up leaves -/

/-- Sessions, and every entry's sub-index 0x0E, are as they were. -/
structure SetsUp (s t : State) : Prop where
  sessions : t.sessions = s.sessions
  seeds : ∀ i, dget t i 0x0E = dget s i 0x0E

namespace SetsUp

theorem refl (s : State) : SetsUp s s := ⟨rfl, fun _ => rfl⟩

theorem trans {s t u : State} (a : SetsUp s t) (b : SetsUp t u) : SetsUp s u :=
  ⟨b.sessions.trans a.sessions, fun i => (b.seeds i).trans (a.seeds i)⟩

theorem of_fields {s t : State} (sessions : t.sessions = s.sessions) (dict : t.dict = s.dict) : SetsUp s t :=
  ⟨sessions, fun i => by rw [dget, dict, dget]⟩

theorem foldl {α : Type} {f : State → α → State} (step : ∀ s a, SetsUp s (f s a)) (l : List α) (s : State) : SetsUp s (l.foldl f s) := by
  induction l generalizing s with
  | nil => exact .refl s
  | cons a l ih => exact (step s a).trans (ih _)

end SetsUp

section
variable {s t : State} (kept : SetsUp s t)
include kept

theorem SetsUp.dset (i v : Nat) {sub : Nat} (small : sub < 256) (other : 0x0E ≠ sub) : SetsUp s (Machine.dset t i sub v) :=
  kept.trans ⟨rfl, fun _ => dget_dset_ne t small (by decide) (.inr other) v⟩

theorem SetsUp.modHeat (h : Nat) (f : Heat → Heat) : SetsUp s (Machine.modHeat t h f) := kept.trans (.of_fields rfl rfl)

end

section
variable (s : State) (h : Nat)

theorem setsUp_freshUnits : SetsUp s (freshUnits s h) := by
  have cores : SetsUp s ((heatCores s h).foldl (fun s k => modCore s k freshCore) s) := SetsUp.foldl (f :=
      fun s k => modCore s k freshCore) (fun u k => .of_fields rfl rfl) _ s
  exact cores.trans (SetsUp.foldl (f := fun s c => freshCluster s h c) (fun u c => .of_fields rfl rfl) _ _)

theorem setsUp_freshCollective : SetsUp s (freshCollective s h) := by
  unfold freshCollective
  extract_lets a
  have first : SetsUp s a := .of_fields rfl rfl
  exact ((first.modHeat h _).dset (hColl h) 0 (sub := 4) (by decide) (by decide)).dset (hColl h) 0 (sub := 5) (by decide) (by decide)

theorem setsUp_freshStats : SetsUp s (freshStats s h) := by
  unfold freshStats
  extract_lets a b
  have counts : SetsUp s a := by
    have all : ∀ l : List Nat, (∀ i ∈ l, i < 8) → ∀ u, SetsUp s u → SetsUp s (l.foldl (fun s i => dset s (hStat h) (i + 1) 0) u) := by
      intro l
      induction l with
      | nil => exact fun _ _ before => before
      | cons i l ih =>
        intro few u before
        have small : i < 8 := few i List.mem_cons_self
        exact ih (fun j listed => few j (List.mem_cons_of_mem _ listed)) _ (before.dset _ 0 (by omega) (by omega))
    exact all _ (fun i listed => List.mem_range.mp listed) s (.refl s)
  clear_value a
  have shown : SetsUp s b := ((counts.dset (hColl h) 0 (sub := 6) (by decide) (by decide)).dset (hColl h) 0 (sub := 7) (by decide)
    (by decide)).dset (hCfg h) 0 (sub := 0x13) (by decide) (by decide)
  clear_value b
  have listed : SetsUp s (domSet b (hSnap h) 0x0F (List.replicate 24 0xFF#8)) := shown.trans (.of_fields (domSet_sessions ..)
      (domSet_dict ..))
  exact listed.dset (hSnap h) 0 (sub := 0x10) (by decide) (by decide)

theorem setsUp_dropQueues : SetsUp s (dropQueues s h) := .of_fields rfl rfl

theorem setsUp_freshLayers : SetsUp s (freshLayers s h) := .of_fields rfl rfl

theorem setsUp_setUpHeat : SetsUp s (setUpHeat s h) := by
  unfold setUpHeat
  extract_lets a
  have fresh : SetsUp s a := (SetsUp.refl s).modHeat h _
  clear_value a
  have units := fresh.trans (setsUp_freshUnits a h)
  generalize freshUnits a h = b at units
  have queues : SetsUp s (dropQueues b h) := units.trans (setsUp_dropQueues b h)
  generalize dropQueues b h = c at queues
  have work := queues.trans (setsUp_freshCollective c h)
  generalize freshCollective c h = d at work
  have counts := work.trans (setsUp_freshStats d h)
  generalize freshStats d h = e at counts
  exact counts.trans (setsUp_freshLayers e h)

theorem setsUp_setHState (st : HState) : SetsUp s (setHState s h st) := by
  obtain ⟨_, _, _, frame⟩ := setHState_frame s h st
  rw [frame]
  exact .of_fields rfl rfl

theorem setsUp_measureHeat : SetsUp s (measureHeat s h) := by
  unfold measureHeat
  extract_lets r u
  have drawn : SetsUp s r.2 := .of_fields rfl rfl
  have salted : SetsUp s u := drawn.modHeat h _
  clear_value u
  rw [measure, putMeasure]
  have counted := salted.dset 0x2A00 ((dget u 0x2A00 7 + 1) % 2 ^ 32) (sub := 7) (by decide) (by decide)
  exact counted.trans (.of_fields rfl rfl)

theorem measureHeat_st (j : Nat) : (getHeat (measureHeat s h) j).st = (getHeat s j).st := by
  unfold measureHeat
  extract_lets r u
  have same : (getHeat u j).st = (getHeat s j).st := by
    rw [show u = modHeat r.2 h fun x => { x with salt := r.1 } from rfl, modHeat_eq, getHeat_setHeat]
    split
    · next here => rw [here]; rfl
    · rfl
  exact same

end

/-! ## START (R240, R390) -/

/-- What a start may do to sessions: one of them is answered. -/
structure Starts (s t : State) : Prop where
  seeds : ∀ i, dget t i 0x0E = dget s i 0x0E
  answers : ∀ n x, getSession s n = some x → x.stage = 2 →
    ∃ y, getSession t n = some y ∧ y.recsIn = x.recsIn ∧ y.recsOut ≤ x.recsOut + 1

theorem SetsUp.starts {s t : State} (same : SetsUp s t) : Starts s t :=
  ⟨same.seeds, fun n x found _ => ⟨x, (getSession_congr same.sessions n).trans found, rfl, Nat.le_succ _⟩⟩

theorem SetsUp.then {s t u : State} (a : SetsUp s t) (b : Starts t u) : Starts s u :=
  ⟨fun i => (b.seeds i).trans (a.seeds i), fun n x found setUp => b.answers n x ((getSession_congr a.sessions n).trans found) setUp⟩

theorem starts_sendResult (s : State) (n req result detail : Nat) : Starts s (sendResult s n req result detail) := by
  refine ⟨fun i => ?_, fun m x found setUp => getSession_sendStarter found setUp n _ _ _⟩
  obtain ⟨a, b, c, sent⟩ := sendStarter_frame s n msgResult req (bytesOf 1 result ++ bytesOf 4 detail)
  rw [sendResult, sent]
  rfl

theorem starts_afterStart (s : State) (h : Nat) : Starts s (afterStart s h) := by
  unfold afterStart
  split
  · exact (SetsUp.refl s).starts
  · dsimp only
    have rung (q t : Nat) : SetsUp s (ringDoorbell s .mgmt q t).1 :=
      ⟨(ringFrame_ringDoorbell s .mgmt q t).sessions, fun i => dget_ringDoorbell s .mgmt q t (by decide) (by decide)⟩
    exact ((rung _ _).modHeat h _).then (starts_sendResult _ _ _ _ _)

theorem starts_createHeat (s : State) (h : Nat) : Starts s (createHeat s h) := by
  have fresh := setsUp_setUpHeat s h
  unfold createHeat
  generalize setUpHeat s h = a at fresh
  have queue : SetsUp s (setInitialQueue a h) := fresh.trans (.of_fields (setQueue_sessions ..) (setQueue_dict ..))
  exact (queue.trans (setsUp_setHState _ h .running)).then (starts_afterStart _ h)

/-- A heat that a start has begun: STARTING, measured, its plan begun. -/
def begun (s : State) (h : Nat) : State :=
  let b := measureHeat (setHState (modHeat { s with extest := none } h fun x => { x with claim := none }) h .starting) h
  { b with plans := b.plans.map fun x => if !x.plan.transit && x.plan.heat = h then { x with started := true } else x }

theorem begun_st (s : State) (h : Nat) : (getHeat (begun s h) h).st = .starting := by
  unfold begun
  generalize modHeat { s with extest := none } h (fun x => { x with claim := none }) = a
  exact (measureHeat_st (setHState a h .starting) h h).trans (setHState_st a h .starting)

theorem setsUp_begun (s : State) (h : Nat) : SetsUp s (begun s h) := by
  have closed : SetsUp s { s with extest := none } := .of_fields rfl rfl
  have first := closed.modHeat h fun x => { x with claim := none }
  unfold begun
  generalize modHeat { s with extest := none } h (fun x => { x with claim := none }) = a at first
  have second := first.trans (setsUp_setHState a h .starting)
  generalize setHState a h .starting = b at second
  exact (second.trans (setsUp_measureHeat b h)).trans (.of_fields rfl rfl)

/-- A start whose checks pass. -/
theorem startHeat_of_passed {s : State} {h : Nat} (free : (getHeat s h).st = .free) (ready : bootStage s = bsReady)
    (passed : creationFault s h true = 0) : ∃ t, startHeat s h = (t, 0) ∧ ((getHeat t h).st = .starting ∨ (getHeat t h).st = .running) ∧
      Starts s t := by
  have run : startHeat s h = (if discoveryOk (begun s h) h then createHeat (begun s h) h else begun s h, 0) := by
    rw [startHeat, if_neg (by simp [free, ready])]
    simp only [passed, bne_self_eq_false, Bool.false_eq_true, if_false]
    rfl
  have starting := begun_st s h
  have kept := setsUp_begun s h
  generalize begun s h = c at run starting kept
  refine ⟨_, run, ?_, ?_⟩
  · split
    · exact .inr (createHeat_st c h)
    · exact .inl starting
  · split
    · exact kept.then (starts_createHeat c h)
    · exact kept.starts

/-! ## ABANDON (R461) -/

/-- A restart given up: the heat runs, and sessions are as they were. -/
theorem abandonRestart_of_passed {s : State} {h : Nat} (restarting : (getHeat s h).st = .restarting) (passed : creationFault s h false = 0)
    (found : discoveryOk s h = true) : ∃ t, abandonRestart s h = (t, 0) ∧ (getHeat t h).st = .running ∧ t.sessions = s.sessions := by
  have run : abandonRestart s h = (endFence (setHState (setUpHeat (dropTxns s (ownedByHeat h)) h) h .running), 0) := by
    rw [abandonRestart, if_neg (by simp [restarting])]
    simp only [passed, found, bne_self_eq_false, Bool.false_eq_true, if_false, Bool.not_true]
  have fence (b : State) : (endFence b).heats = b.heats ∧ (endFence b).sessions = b.sessions := by
    unfold endFence
    split <;> exact ⟨rfl, rfl⟩
  have dropped : SetsUp s (dropTxns s (ownedByHeat h)) := .of_fields rfl rfl
  generalize dropTxns s (ownedByHeat h) = a at run dropped
  have fresh := dropped.trans (setsUp_setUpHeat a h)
  generalize setUpHeat a h = b at run fresh
  refine ⟨_, run, ?_, (fence _).2.trans (fresh.trans (setsUp_setHState b h .running)).sessions⟩
  rw [getHeat_congr (fence _).1]
  exact setHState_st b h .running

end Sys2Proof.Machine
end

section
/-! SUPPORT. PLAN_SUBMIT (R316, R387 to R389): what a plan's installation leaves, and how a plan is answered. -/

namespace Sys2Proof.Machine

/-! ## Entries by any sub-index -/

/-- Every entry but the ports' plan states is as it was, whatever its sub-index. -/
def EntriesKept (s t : State) : Prop := ∀ i j, (∀ p, p < portCount → dkey i j ≠ dkey (pIdx p) 3) → dget t i j = dget s i j

theorem portEvent_dict (s : State) (p code cls cause : Nat) (h : Option Nat) : (portEvent s p code cls cause h).dict = s.dict := by
  rw [portEvent, raise_frame]

theorem heatLoses_dict (s : State) (p h : Nat) : (heatLoses s p h).dict = s.dict := by
  rcases heatLoses_eq s p h with stays | ⟨cls, cause, told⟩
  · rw [stays]
  · rw [told]
    exact portEvent_dict s _ _ _ _ _

theorem foldl_dict {α : Type} {f : State → α → State} (step : ∀ s a, (f s a).dict = s.dict) (l : List α) (s : State) :
    (l.foldl f s).dict = s.dict := by
  induction l generalizing s with
  | nil => rfl
  | cons a l ih => exact (ih _).trans (step s a)

theorem reroute_dict (s : State) (p : Nat) : (reroute s p).dict = s.dict := by
  refine (foldl_dict (fun u k => ?_) _ _).trans rfl
  split
  · split <;> rfl
  · rfl

theorem entriesKept_updatePlan {s : State} {p : Nat} (port : p < portCount) : EntriesKept s (updatePlan s p) := by
  intro i j other
  have shown : dget (dset s (pIdx p) 3 (planStateOf s p)) i j = dget s i j := dget_dset_key s (other p port) _
  have read {u : State} (same : u.dict = (dset s (pIdx p) 3 (planStateOf s p)).dict) : dget u i j = dget s i j := by
    rw [dget, same, ← shown, dget]
  simp only [updatePlan]
  split
  · rfl
  · split
    · exact read (portEvent_dict _ _ _ _ _ _)
    · exact read ((reroute_dict _ _).trans ((foldl_dict (fun v h => heatLoses_dict v p h) _ _).trans (portEvent_dict _ _ _ _ _ _)))

/-- Plan states brought up to date change the ports' own entries alone. -/
theorem entriesKept_updatePlans (s : State) : EntriesKept s (updatePlans s) := by
  have all : ∀ (l : List Nat), (∀ p ∈ l, p < portCount) → ∀ u, EntriesKept s u → EntriesKept s (l.foldl updatePlan u) := by
    intro l
    induction l with
    | nil => exact fun _ _ before => before
    | cons p l ih =>
      intro ports u before
      refine ih (fun q listed => ports q (List.mem_cons_of_mem _ listed)) _ fun i j other => ?_
      exact (entriesKept_updatePlan (ports p List.mem_cons_self) i j other).trans (before i j other)
  exact all _ (fun p listed => List.mem_range.mp listed) s fun _ _ _ => rfl

/-- The entries of a heat stay as plan states follow. -/
theorem dget_updatePlans (s : State) (g j : Nat) : dget (updatePlans s) (hCfg g) j = dget s (hCfg g) j := by
  refine entriesKept_updatePlans s _ _ fun p few same => ?_
  have small : p < 32 := few
  unfold dkey hCfg pIdx at same
  omega

theorem modPorts_gives (l : List PlanPort) (s : State) :
    (l.foldl (fun s x => modPort s x.port fun y => { y with owes := true }) s).dict = s.dict ∧
    (l.foldl (fun s x => modPort s x.port fun y => { y with owes := true }) s).plans = s.plans := by
  induction l generalizing s with
  | nil => exact ⟨rfl, rfl⟩
  | cons x l ih => exact ih _

theorem plansChanged_plans (s : State) (l : List PlanPort) : (plansChanged s l).plans = s.plans := by
  unfold plansChanged
  rw [(planFrame_updatePlans _).whole]
  exact (modPorts_gives l s).2

theorem dget_plansChanged (s : State) (l : List PlanPort) (g j : Nat) : dget (plansChanged s l) (hCfg g) j = dget s (hCfg g) j := by
  unfold plansChanged
  rw [dget_updatePlans, dget, (modPorts_gives l s).1, dget]

/-! ## A plan installed -/

theorem dropTargets_gives (s : State) (l : List Installed) : RemovalFrame s (dropTargets s l) ∧ (dropTargets s l).dict = s.dict := by
  unfold dropTargets
  generalize l.filter (fun x => !x.plan.transit) = r
  induction r generalizing s with
  | nil => exact ⟨.refl s, rfl⟩
  | cons x r ih => exact ⟨(removalFrame_dropStorage s x.plan.heat).trans (ih _).1, (ih _).2⟩

section
variable (s : State) (p : Plan)

/-- A plan as it stands installed, with nothing of its images here. -/
def installed (p : Plan) : Installed :=
  { plan := p, spans := p.images.map fun _ => [], matched := p.images.map fun i => decide (i.bytes = 0) }

theorem installPlan_gives : RemovalFrame s (installPlan s p) ∧
    (installPlan s p).plans = (s.plans.filter fun x => !replaces p x) ++ [installed p] ∧
    ∀ g j, dget (installPlan s p) (hCfg g) j = dget s (hCfg g) j := by
  unfold installPlan
  extract_lets gone new a b
  obtain ⟨dropped, dict⟩ := dropTargets_gives s (gone.filter fun x => p.transit || x.plan.heat != p.heat)
  have plans : a.plans = s.plans := by
    unfold a
    generalize gone.filter (fun x => p.transit || x.plan.heat != p.heat) = l
    unfold dropTargets
    generalize l.filter (fun x => !x.plan.transit) = r
    clear * -
    induction r generalizing s with
    | nil => rfl
    | cons x r ih => exact ih _
  have named : RemovalFrame s b := dropped.trans ⟨rfl, .of_heats rfl⟩
  have listed : b.plans = (s.plans.filter fun x => !replaces p x) ++ [installed p] := by
    rw [← plans]
    rfl
  have entries : b.dict = s.dict := dict
  clear_value b
  refine ⟨named.trans (removalFrame_plansChanged b _), (plansChanged_plans b _).trans listed, fun g j => ?_⟩
  rw [dget_plansChanged, dget, entries, dget]

variable (n : Nat)

/-- A HEAT plan installed: the last of the plans, its heat's entries as they were, and the heat claimed where it is FREE. -/
theorem installHeatPlan_gives : (installHeatPlan s p n).sessions = s.sessions ∧
    ((installHeatPlan s p n).plans.getLast?).map (·.plan) = some p ∧
    (∀ j, dget (installHeatPlan s p n) (hCfg p.heat) j = dget s (hCfg p.heat) j) ∧
    ((getHeat s p.heat).st = .free → (getHeat (installHeatPlan s p n) p.heat).claim = some n) := by
  obtain ⟨frame, plans, entries⟩ := installPlan_gives s p
  unfold installHeatPlan
  generalize installPlan s p = i at frame plans entries
  extract_lets a b
  have heats : b.heats = i.heats := rfl
  have names : b.sessions = i.sessions := rfl
  have dict : b.dict = i.dict := rfl
  have listed : b.plans = (s.plans.filter fun x => !replaces p x) ++ [installed p] := plans
  have st : (getHeat b p.heat).st = (getHeat s p.heat).st := by rw [getHeat_congr heats, frame.st]
  have sessions : b.sessions = s.sessions := by rw [names, frame.whole]
  have kept (j : Nat) : dget b (hCfg p.heat) j = dget s (hCfg p.heat) j := by rw [dget, dict, ← entries p.heat j, dget]
  clear_value b
  have last : (b.plans.getLast?).map (·.plan) = some p := by
    rw [listed, List.getLast?_concat]
    rfl
  split
  · exact ⟨sessions, last, kept, fun _ => by rw [modHeat_eq, getHeat_setHeat_same]⟩
  · next busy => exact ⟨sessions, last, kept, fun free => absurd (st.trans free) busy⟩

end

/-! ## How a plan is answered -/

section
variable {s : State} {n req : Nat} {r : RawPlan}

theorem submitPlan_of_claimed (heat : r.plan.transit = false) (claimed : claimedElse s r.plan.heat n = true) :
    submitPlan s n req r = sendResult s n req resBusy 1 := by
  simp [submitPlan, heat, claimed]

section
variable (fabric : fabricFault s r = none) (whole : wholeFault s r.plan = false)
include fabric whole

theorem submitPlan_of_transit (transit : r.plan.transit = true) :
    submitPlan s n req r = sendResult (installPlan s r.plan) n req resOk 0 := by
  simp [submitPlan, transit, fabric, whole]

variable (heat : r.plan.transit = false) (mine : claimedElse s r.plan.heat n = false)
include heat mine

theorem submitPlan_of_badWrite {e : Nat} (bad : tryWrites s (.starter n req) r.plan.writes = .error e) :
    submitPlan s n req r = sendResult s n req resDictAbort e := by
  simp [submitPlan, heat, mine, fabric, whole, bad]

theorem submitPlan_of_badRange {u : State} (wrote : tryWrites s (.starter n req) r.plan.writes = .ok u) {e : Nat}
    (bad : rangeFault s r n = some e) : submitPlan s n req r = sendResult s n req resPlanRejected e := by
  simp [submitPlan, heat, mine, fabric, whole, wrote, bad, rejectPlan]

theorem submitPlan_of_good {u : State} (wrote : tryWrites s (.starter n req) r.plan.writes = .ok u) (fits : rangeFault s r n = none) :
    submitPlan s n req r = sendResult (installHeatPlan u r.plan n) n req resOk 0 := by
  simp [submitPlan, heat, mine, fabric, whole, wrote, fits]

end

end

end Sys2Proof.Machine
end

section
/-! SUPPORT. Requests of a session: images, the start of a job, the dictionary read, and the snapshot controls (R386, R390, R461). -/

namespace Sys2Proof.Machine

/-! ## Who may ask -/

/-- A session that is open with a right takes messages. -/
theorem speaks_of_sessionOpen {s : State} {n right : Nat} (may : sessionOpen s n right) :
    ∃ x, Speaks s n x ∧ needs right x.rights = true := by
  obtain ⟨x, found, setUp, link, allowed, inLeft, outLeft⟩ := may
  exact ⟨x, ⟨found, setUp, link, inLeft, outLeft⟩, allowed⟩

section
variable {s : State} {n : Nat} {x : Session} (speaks : Speaks s n x)
include speaks

/-- A message whose handling leaves its session with records, whatever else it does. -/
theorem Speaks.onMessage_open {req : Nat} {right : Nat → Bool} {f : State → State} {u : State} (allowed : right x.rights = true)
    (does : f (touchSession s n) = u) {y : Session} (open_ : getSession u n = some y) (inLeft : y.recsIn = x.recsIn + 1)
    (outLeft : y.recsOut ≤ x.recsOut + 1) : Machine.onMessage s n req right f = u := by
  calc Machine.onMessage s n req right f
      = closeSpent (f (touchSession s n)) n := by simp [Machine.onMessage, speaks.found, speaks.setUp, speaks.link, allowed]
    _ = closeSpent u n := by rw [does]
    _ = u := closeSpent_of_left open_ (by rw [inLeft]; exact speaks.inLeft) (Nat.lt_of_le_of_lt outLeft speaks.outLeft)

/-- Without the right, a message is answered RIGHTS, and changes nothing. -/
theorem Speaks.onMessage_refused {req : Nat} {right : Nat → Bool} (f : State → State) (lacks : right x.rights = false) :
    let t := Machine.onMessage s n req right f
    t = { s with sessions := t.sessions, out := t.out, pausedOut := t.pausedOut } ∧ Told t n req resRights 0 :=
  speaks.onMessage_kept (if_neg (by simp [lacks]))

/-- A message that is answered alone. -/
theorem Speaks.onMessage_told {req result detail : Nat} {right : Nat → Bool} {f : State → State} (allowed : right x.rights = true)
    (does : f (touchSession s n) = sendResult (touchSession s n) n req result detail) :
    let t := Machine.onMessage s n req right f
    t = { s with sessions := t.sessions, out := t.out, pausedOut := t.pausedOut } ∧ Told t n req result detail :=
  speaks.onMessage_kept ((if_pos allowed).trans does)

/-- A message that has its effect, and is answered after it. -/
theorem Speaks.onMessage_acts {req result detail : Nat} {right : Nat → Bool} {f : State → State} {u : State}
    (allowed : right x.rights = true)
    (does : f (touchSession s n) = sendResult u n req result detail) (same : getSession u n = getSession (touchSession s n) n) :
    Machine.onMessage s n req right f = sendResult u n req result detail ∧ Told (sendResult u n req result detail) n req result detail :=
  speaks.onMessage ((if_pos allowed).trans does) same

end

/-- An answer changes the sessions and what leaves the device alone. -/
theorem sendResult_frame (s : State) (n req result detail : Nat) :
    ∃ a b c, sendResult s n req result detail = { s with sessions := a, out := b, pausedOut := c } := sendStarter_frame s n _ _ _

theorem touchSession_heats (s : State) (n : Nat) : (touchSession s n).heats = s.heats := by
  obtain ⟨a, taken⟩ := touchSession_frame s n
  rw [taken]

/-! ## Images (R390) -/

section
variable {s : State} {n req i o : Nat} {l : List Byte}

/-- Image bytes that do not make their image whole lie in memory. -/
theorem takeImage_stores {x : Installed} {m : PlanImage} (image : x.plan.images[i]? = some m) (inside : o + l.length ≤ m.bytes)
    (sound : s.errs = []) (part : imageWhole ((o, l.length) :: nth [] x.spans i) m.bytes = false) :
    ∃ u, takeImage s n req x i o l = sendResult u n req resOk 0 ∧ u.sessions = s.sessions ∧ Stored s u (m.dst + o) l := by
  let u := modPlan (writeBytes s (m.dst + o) l) x.plan.tag fun y =>
    { y with spans := setNth y.spans i ((o, l.length) :: nth [] x.spans i), matched := setNth y.matched i false }
  have wrote : (writeBytes s (m.dst + o) l).sessions = s.sessions := by rw [(readFrame_writeBytes s _ _).whole]
  refine ⟨u, ?_, wrote, ?_⟩
  · unfold takeImage
    simp only [image, storeStack_of_sound sound, if_neg (Nat.not_lt.mpr inside), part, Bool.not_true, Bool.false_eq_true, if_false]
    rfl
  · exact stored_writeBytes s (m.dst + o) l

end

/-! ## SNAPSHOT_CTL (R461) -/

/-- An action that its heat's state allows. -/
theorem snapAction_acts {s : State} {n req h : Nat} {x : Session} (speaks : Speaks s n x) (allowed : needs rightSnapshot x.rights = true)
    (heat : h < 16) {ok : HState → Bool} (may : ok (getHeat s h).st = true) {f : State → State × Nat} {u : State}
    (does : f (touchSession s n) = (u, 0)) (same : u.sessions = (touchSession s n).sessions) :
    snapAction n req h ok f s = sendResult u n req resOk 0 ∧ Told (sendResult u n req resOk 0) n req resOk 0 := by
  refine speaks.onMessage_acts allowed ?_ (getSession_congr same n)
  have few : ¬ heatCount ≤ h := Nat.not_le.mpr heat
  have still : ok (getHeat (touchSession s n) h).st = true := by rw [getHeat_congr (touchSession_heats s n)]; exact may
  simp [few, still, does]

end Sys2Proof.Machine
end

section
/-! SUPPORT. SERVE_REQ and CANCEL (R391 to R393): an inbox entry written, a prompt stored, a request cancelled. -/

namespace Sys2Proof.Machine

/-! ## Ringing leaves memory -/

section
variable (s : State)

theorem refuseDoorbell_mem (q : Nat) : (refuseDoorbell s q).mem = s.mem := by
  unfold refuseDoorbell
  dsimp only
  split <;> rfl

theorem ringDoorbell_mem (a : Agent) (q t : Nat) : (ringDoorbell s a q t).1.mem = s.mem := by
  simp only [ringDoorbell]
  split
  · exact refuseDoorbell_mem s q
  · split
    · split
      · rfl
      · split
        · rfl
        · exact refuseDoorbell_mem s q
    · exact refuseDoorbell_mem s q

theorem ringNotify_mem (h sub : Nat) : (ringNotify s h sub).mem = s.mem := by
  unfold ringNotify
  dsimp only
  split
  · rfl
  · split
    · exact ringDoorbell_mem _ _ _ _
    · exact ringDoorbell_mem _ _ _ _

theorem getByte_ringNotify (h sub a : Nat) : getByte (ringNotify s h sub) a = getByte s a :=
  getByte_congr (ringNotify_mem s h sub) (by rw [(ringFrame_ringNotify s h sub).whole]) a

end

/-! ## An entry of the inbox (R391) -/

section
variable {s : State} (sound : s.errs = []) (h prod entry : Nat)
include sound

/-- Where an entry goes. -/
def inboxSlot (s : State) (h prod : Nat) : Nat := inboxBase s h + 64 + 64 * (prod % 2 ^ inboxLog s h)

theorem inboxPut_of_sound : inboxPut s h prod entry = ringNotify
    (writeNat (writeBytes s (inboxSlot s h prod) (bytesOf 64 entry)) (inboxBase s h) 4 ((prod + 1) % 2 ^ 32)) h 9 := by
  unfold inboxPut
  extract_lets b u v
  have first : u = writeBytes s (inboxSlot s h prod) (bytesOf 64 entry) := by
    unfold u
    rw [storeStack_of_sound sound]
    rfl
  have clean : u.errs = [] := by
    rw [first, writeBytes_frame]
    exact sound
  have second : v = writeNat u (inboxBase s h) 4 ((prod + 1) % 2 ^ 32) := by
    unfold v
    rw [storeStack_of_sound clean]
    rfl
  rw [second, first]

/-- The entry lies in its slot, the index is one more, and what lies before the inbox is as it was. -/
theorem inboxPut_gives : readNat (inboxPut s h prod entry) (inboxBase s h) 4 = (prod + 1) % 2 ^ 32 ∧
    readBytes (inboxPut s h prod entry) (inboxSlot s h prod) 64 = bytesOf 64 entry ∧
    ∀ a, a < inboxBase s h → getByte (inboxPut s h prod entry) a = getByte s a := by
  rw [inboxPut_of_sound sound]
  have wide : (bytesOf 64 entry).length = 64 := length_bytesOf _ _
  have four : (bytesOf 4 ((prod + 1) % 2 ^ 32)).length = 4 := length_bytesOf _ _
  have after : inboxBase s h + 4 ≤ inboxSlot s h prod := by
    unfold inboxSlot
    omega
  refine ⟨?_, ?_, fun a low => ?_⟩
  · rw [readNat_congr fun _ _ => getByte_ringNotify _ _ _ _, readNat_writeNat_same]
    exact Nat.mod_mod _ _
  · rw [readBytes_congr fun _ _ => getByte_ringNotify _ _ _ _, writeNat, readBytes_writeBytes_out _ (.inr (by rw [four]; exact after))]
    have put := readBytes_writeBytes_same s (inboxSlot s h prod) (bytesOf 64 entry)
    rwa [wide] at put
  · rw [getByte_ringNotify, writeNat, getByte_writeBytes_out _ _ _ _ (.inl low), getByte_writeBytes_out _ _ _ _ (.inl (by omega))]

end

/-! ## Room in the inbox (R393) -/

/-- The inbox has a free slot, with its index. -/
structure InboxRoom (s : State) (h prod : Nat) : Prop where
  log : inboxLog s h ≠ 0
  inside : inHeat s h (inboxBase s h) (64 + 64 * 2 ^ inboxLog s h) = true
  prod : readNat s (inboxBase s h) 4 = prod
  depth : ringDepth (readNat s (inboxBase s h) 4, readNat s (inboxBase s h + 4) 4) < 2 ^ inboxLog s h

/-- A heat whose inbox was read with no more entries than slots. -/
def inboxSeen (s : State) (h : Nat) : State := modHeat s h fun x => { x with ringBad := setNth x.ringBad ringInbox false }

theorem ringHeader_of_sound {s : State} (sound : s.errs = []) (h base bytes : Nat) : ringHeader s h base bytes =
    (s, if inHeat s h base bytes then some (readNat s base 4, readNat s (base + 4) 4) else none) := by
  unfold ringHeader
  cases inHeat s h base bytes
  · rfl
  · simp [checkRead_of_sound sound]

theorem inboxFree_of_room {s : State} (sound : s.errs = []) {h prod : Nat} (room : InboxRoom s h prod) :
    inboxFree s h = (inboxSeen s h, some prod) := by
  obtain ⟨log, inside, rfl, depth⟩ := room
  have good : ¬ ringDepth (readNat s (inboxBase s h) 4, readNat s (inboxBase s h + 4) 4) > 2 ^ inboxLog s h := Nat.lt_asymm depth
  unfold inboxFree
  simp only [if_neg log, ringHeader_of_sound sound, inside, if_true, depth, decide_eq_false good]
  rfl

theorem inboxRoom_of_free {s : State} (sound : s.errs = []) {h prod : Nat} (free : (inboxFree s h).2 = some prod) : InboxRoom s h prod := by
  unfold inboxFree at free
  simp only [ringHeader_of_sound sound] at free
  by_cases log : inboxLog s h = 0
  · simp [log] at free
  · cases inside : inHeat s h (inboxBase s h) (64 + 64 * 2 ^ inboxLog s h)
    · simp [log, inside] at free
    · simp only [if_neg log, inside, if_true] at free
      split at free
      · next deep => exact ⟨log, inside, Option.some.inj free, deep⟩
      · cases free

theorem touchSession_map (s : State) (n : Nat) : SameMap s (touchSession s n) := by
  obtain ⟨a, taken⟩ := touchSession_frame s n
  rw [taken]
  exact .of_fields rfl rfl rfl

theorem touchSession_bytes (s : State) (n : Nat) : SameBytes s (touchSession s n) := by
  obtain ⟨a, taken⟩ := touchSession_frame s n
  rw [taken]
  exact ⟨rfl, rfl, rfl⟩

theorem inboxBase_congr {s t : State} (map : SameMap s t) (h : Nat) : inboxBase t h = inboxBase s h := map.dget _ _

theorem inboxLog_congr {s t : State} (map : SameMap s t) (h : Nat) : inboxLog t h = inboxLog s h := map.dget _ _

theorem InboxRoom.congr {s t : State} (map : SameMap s t) (bytes : SameBytes s t) {h prod : Nat} (room : InboxRoom s h prod) :
    InboxRoom t h prod := by
  have reads (a : Nat) : readNat t a 4 = readNat s a 4 := readNat_congr fun _ _ => bytes.getByte _
  obtain ⟨log, inside, index, depth⟩ := room
  refine ⟨?_, ?_, ?_, ?_⟩
  · rwa [inboxLog_congr map]
  · rwa [inboxLog_congr map, inboxBase_congr map, map.inHeat]
  · rwa [inboxBase_congr map, reads]
  · rwa [inboxLog_congr map, inboxBase_congr map, reads, reads]

/-! ## SERVE_REQ (R391, R393) -/

theorem length_prompt (tokens : List W32) : (tokens.flatMap fun x => bytesOf 4 x.toNat).length = 4 * tokens.length := by
  induction tokens with
  | nil => rfl
  | cons x tokens ih => rw [List.flatMap_cons, List.length_append, ih, length_bytesOf, List.length_cons]; omega

/-- A request listed with the place of its prompt. -/
def promptListed (s : State) (n req h o len : Nat) : State := { inboxSeen s h with
  serves := s.serves ++ [{ heat := h, session := n, req := req, base := o, bytes := 4 * len }]
  serveHead := tabSet 0 s.serveHead h (o + 4 * len) }

/-- A prompt admitted: listed with its place, and its bytes there. -/
def promptStored (s : State) (n req h o : Nat) (tokens : List W32) : State :=
  writeBytes (promptListed s n req h o tokens.length) (dget s (netIdx h) 7 + o) (tokens.flatMap fun t => bytesOf 4 t.toNat)

section
variable {s : State} {n req h maxTokens params prod o : Nat} {tokens : List W32}

theorem admitServe_of_room (sound : s.errs = []) (heat : h < 16) (runs : (getHeat s h).st = .running) (room : InboxRoom s h prod)
    (place : promptPlace (inboxSeen s h) h (4 * tokens.length) = some o) (few : openRequests s n < 256) :
    admitServe s n req h maxTokens params tokens = inboxPut (promptStored s n req h o tokens) h prod
      (inboxEntry (serveId n req) (dget s (netIdx h) 7 + o) tokens.length maxTokens inboxRequest params) := by
  have bound : ¬ heatCount ≤ h := Nat.not_le.mpr heat
  have open_ : ¬ openRequests (inboxSeen s h) n ≥ 256 := Nat.not_le.mpr few
  unfold admitServe
  rw [if_neg (by simp [bound, runs]), inboxFree_of_room sound room]
  simp only [place, if_neg open_]
  change inboxPut (storeStack (promptListed s n req h o tokens.length) (dget s (netIdx h) 7 + o)
    (tokens.flatMap fun t => bytesOf 4 t.toNat)).1 h prod _ = _
  rw [storeStack_of_sound (s := promptListed s n req h o tokens.length) sound]
  rfl

/-- What an admitted prompt leaves of what the inbox and the address map read. -/
theorem promptStored_frame : let t := promptStored s n req h o tokens
    t.sessions = s.sessions ∧ t.errs = s.errs ∧ t.dict = s.dict ∧
      t.serves = s.serves ++ [{ heat := h, session := n, req := req, base := o, bytes := 4 * tokens.length }] := by
  unfold promptStored
  rw [writeBytes_frame]
  exact ⟨rfl, rfl, rfl, rfl⟩

end

end Sys2Proof.Machine
end

section
/-! SUPPORT. The requests of a session, row by row (R386, R388 to R393, R461). -/

namespace Sys2Proof.Machine

/-! ## The creation checks (R240) -/

/-- The creation checks read no entry of sub-index 0x0E: the heat's seed is free of them. -/
theorem creationFault_congr {s t : State} (dict : ∀ i sub, sub < 256 → sub ≠ 0x0E → dget t i sub = dget s i sub) (dom : t.dom = s.dom)
    (live : liveHeats t = liveHeats s) (h : Nat) (first : Bool) : creationFault t h first = creationFault s h first := by
  have doms (i sub : Nat) : domGet t i sub = domGet s i sub := by rw [domGet, dom, domGet]
  have entry (i sub : Nat) (small : sub < 256) (other : sub ≠ 0x0E) := dict i sub small other
  have clusters : clustersFree t h = clustersFree s h := by
    simp only [clustersFree, heatClusters, clusterActive, physCluster, clusterHeat, live, doms, entry _ 3 (by decide) (by decide),
      entry _ 5 (by decide) (by decide)]
  have ranges (k : Nat) : heatRanges t k = heatRanges s k := by simp only [heatRanges, domNum, doms]
  have fit : rangesFit t h (heatRanges t h) (fun _ => true) = rangesFit s h (heatRanges s h) fun _ => true := by
    simp only [rangesFit, ranges, stackTop, entry _ 4 (by decide) (by decide)] <;> rfl
  have hold : holdFits t h = holdFits s h := by
    simp only [holdFits, entry _ 7 (by decide) (by decide), entry _ 8 (by decide) (by decide)]
  have inside (a n : Nat) : inHeat t h a n = inHeat s h a n := by rw [inHeat, ranges, inHeat]
  have areas : areasFit t h = areasFit s h := by
    simp only [areasFit, inside, tagHeat, heatTag, live, entry _ 3 (by decide) (by decide), entry _ 0x0A (by decide) (by decide),
      entry _ 0x0B (by decide) (by decide), entry _ 0x0C (by decide) (by decide), entry _ 0x0D (by decide) (by decide),
      entry _ 0x0F (by decide) (by decide), entry _ 0x10 (by decide) (by decide), entry _ 0x11 (by decide) (by decide),
      entry _ 0x12 (by decide) (by decide)] <;> rfl
  rw [creationFault, clusters, fit, hold, areas, creationFault]

section
variable {s : State} {n : Nat} {x : Session} (speaks : Speaks s n x)
include speaks

/-! ## Rights (R386) -/

/-- Each message that needs a right is refused without it. -/
theorem rightRow_refused {req h a : Nat} {d : List Byte} {l : List (Nat × Nat)} {p : BitVec 256} {w : W64} {r : Instr × Nat}
    (row : r ∈ rightRows n req h a d l p w) (lacks : bitOf x.rights r.2 = false) : ∃ t, exec r.1 s = .next t ∧
      t = { s with sessions := t.sessions, out := t.out, pausedOut := t.pausedOut } ∧ Told t n req resRights 0 := by
  have refused (right : Nat) (lack : bitOf x.rights right = false) (f : State → State) := speaks.onMessage_refused
    (req := req) (right := needs right) f lack
  simp only [rightRows, List.mem_cons, List.not_mem_nil, or_false] at row
  rcases row with rfl | rfl | rfl | rfl | rfl | rfl | rfl | rfl | rfl | rfl | rfl
  all_goals exact ⟨_, rfl, refused _ lacks _⟩

/-! ## STATUS_REQ -/

theorem exec_statusReq_of_short (allowed : needs rightStatus x.rights = true) (req : Nat) {l : List (Nat × Nat)} (short : l.length ≤ 256) :
    ∃ t b wire, exec (.statusReq n req l) s = .next t ∧ t = { s with sessions := t.sessions, out := t.out, pausedOut := t.pausedOut } ∧
      LastSent t (.starter n msgStatus req b wire) := by
  obtain ⟨kept, wire, sent⟩ := speaks.onMessage_kept (req := req) (right := needs rightStatus)
    (f := fun s => if l.length > 256 then sendResult s n req resBadMessage (8 + 3 * 256)
      else sendStarter s n msgStatus req (l.flatMap fun e =>
        let r := dictRead s (.starter n req) e.1 e.2
        bytesOf 4 r.1 ++ bytesOf 4 r.2.length ++ r.2))
    ((if_pos allowed).trans (if_neg (Nat.not_lt.mpr short)))
  exact ⟨_, _, wire, rfl, kept, sent⟩

/-! ## IMAGE_DATA and JOB_START (R390) -/

/-- What IMAGE_DATA does where the session may send it. -/
def imageTaken (n req i o : Nat) (l : List Byte) (s : State) : State :=
  match claimedPlan s n with
  | none => sendResult s n req resDictAbort abState
  | some x => takeImage s n req x i o l

section
variable (allowed : needs rightSubmit x.rights = true) (req : Nat)
include allowed

theorem exec_imageData_of_unclaimed (i o : Nat) (l : List Byte) (none_ : claimedPlan s n = none) :
    ∃ t, exec (.imageData n req i o l) s = .next t ∧ t = { s with sessions := t.sessions, out := t.out, pausedOut := t.pausedOut } ∧
      Told t n req resDictAbort abState := by
  have unclaimed : claimedPlan (touchSession s n) n = none := by
    obtain ⟨a, taken⟩ := touchSession_frame s n
    rw [taken]
    exact none_
  have told := speaks.onMessage_told (req := req) (result := resDictAbort) (detail := abState) allowed
    (f := imageTaken n req i o l) (by simp only [imageTaken, unclaimed])
  exact ⟨_, rfl, told⟩

theorem exec_imageData_of_part {i o : Nat} {l : List Byte} {y : Installed} {m : PlanImage} (claimed : claimedPlan s n = some y)
    (image : y.plan.images[i]? = some m) (inside : o + l.length ≤ m.bytes) (sound : s.errs = [])
    (part : imageWhole ((o, l.length) :: nth [] y.spans i) m.bytes = false) :
    ∃ t, exec (.imageData n req i o l) s = .next t ∧ Told t n req resOk 0 ∧ Stored s t (m.dst + o) l := by
  have bytes := touchSession_bytes s n
  have mine : claimedPlan (touchSession s n) n = some y := by
    obtain ⟨a, taken⟩ := touchSession_frame s n
    rw [taken]
    exact claimed
  obtain ⟨u, takes, same, stored⟩ := takeImage_stores (n := n) (req := req) image inside (bytes.errs.trans sound) part
  obtain ⟨ran, told⟩ := speaks.onMessage_acts (req := req) allowed
    (f := imageTaken n req i o l) (by simp only [imageTaken, mine]; exact takes) (getSession_congr same n)
  have after (a : Nat) : getByte (sendResult u n req resOk 0) a = getByte u a := by
    obtain ⟨_, _, _, sent⟩ := sendResult_frame u n req resOk 0
    rw [sent]
    rfl
  refine ⟨_, congrArg Host.Outcome.next ran, told, ?_, fun b out => ?_⟩
  · exact (readBytes_congr fun _ _ => after _).trans stored.1
  · exact (after b).trans ((stored.2 b out).trans (bytes.getByte b))

theorem exec_jobStart_of_unclaimed {h : Nat} (heat : h < 16) (w : W64) (none_ : (getHeat s h).claim = none) :
    ∃ t, exec (.jobStart n req h w) s = .next t ∧ t = { s with sessions := t.sessions, out := t.out, pausedOut := t.pausedOut } ∧
      Told t n req resDictAbort abState := by
  have few : ¬ heatCount ≤ h := Nat.not_le.mpr heat
  have free : (getHeat (touchSession s n) h).claim = none := by rw [getHeat_congr (touchSession_heats s n)]; exact none_
  exact ⟨_, rfl, speaks.onMessage_told (f := fun s => startJob s n req h w.toNat) allowed (by
    simp [startJob, few, claimedElse, free])⟩

theorem exec_jobStart_of_ready {h : Nat} (heat : h < 16) (w : W64) (claimed : (getHeat s h).claim = some n)
    (loaded : (s.plans.any fun x => !x.plan.transit && x.plan.heat = h && x.matched.all id) = true) (free : (getHeat s h).st = .free)
    (ready : bootStage s = bsReady) (passed : creationFault s h true = 0) :
    ∃ t, exec (.jobStart n req h w) s = .next t ∧ ((getHeat t h).st = .starting ∨ (getHeat t h).st = .running) ∧
      dget t (hCfg h) 0x0E = w.toNat := by
  obtain ⟨a, taken⟩ := touchSession_frame s n
  let v := dset (touchSession s n) (hCfg h) 0x0E w.toNat
  let u := modHeat v h fun x => { x with starter := some (n, req) }
  have heats : v.heats = s.heats := touchSession_heats s n
  have st (k : Nat) : (getHeat u k).st = (getHeat s k).st := by
    rw [show u = modHeat v h _ from rfl, modHeat_eq, getHeat_setHeat]
    split
    · next here =>
      subst here
      change (getHeat v k).st = _
      rw [getHeat_congr heats]
    · exact congrArg Heat.st (getHeat_congr heats k)
  have dict : ∀ i sub, sub < 256 → sub ≠ 0x0E → dget u i sub = dget s i sub := fun i sub small other =>
    (dget_dset_ne (touchSession s n) (by decide) small (.inr other) w.toNat).trans ((touchSession_map s n).dget i sub)
  have same : creationFault u h true = creationFault s h true :=
    creationFault_congr dict (touchSession_map s n).dom (by simp only [liveHeats, st]) h true
  have stage : bootStage u = bootStage s := dict _ _ (by decide) (by decide)
  obtain ⟨t, begins, running, starts⟩ := startHeat_of_passed ((st h).trans free) (stage.trans ready) (same.trans passed)
  have speaking : getSession u n = some (tookRecord s.now x) := (getSession_congr (s := touchSession s n) rfl n).trans speaks.touched
  obtain ⟨y, open_, inLeft, outLeft⟩ := starts.answers n _ speaking speaks.setUp
  have few : ¬ heatCount ≤ h := Nat.not_le.mpr heat
  have does : startJob (touchSession s n) n req h w.toNat = t := by
    have mine : (getHeat (touchSession s n) h).claim = some n := by rw [getHeat_congr (touchSession_heats s n)]; exact claimed
    have rest : (getHeat (touchSession s n) h).st = .free := by rw [getHeat_congr (touchSession_heats s n)]; exact free
    have plans : ((touchSession s n).plans.any fun x => !x.plan.transit && x.plan.heat = h && x.matched.all id) = true := by
      rw [touchSession_plans]
      exact loaded
    have up : bootStage (touchSession s n) = bsReady := ((touchSession_map s n).dget _ _).trans ready
    unfold startJob
    rw [if_neg few, if_neg (by simp [claimedElse, mine])]
    simp only [mine, plans, rest, up, decide_true, Bool.and_self, Bool.not_true, bne_self_eq_false, Bool.or_self, Bool.false_eq_true,
      if_false]
    change (if (startHeat u h).2 = 0 then _ else _) = _
    rw [begins]
    rfl
  refine ⟨t, congrArg Host.Outcome.next (speaks.onMessage_open (f := fun s => startJob s n req h w.toNat)
      allowed does open_ inLeft outLeft),
    running, (starts.seeds _).trans (dget_dset_same ..)⟩

end

/-! ## SNAPSHOT_CTL (R461) -/

section
variable (allowed : needs rightSnapshot x.rights = true) (req : Nat) {h : Nat} (heat : h < 16)
include allowed heat

theorem exec_take_of_later {lap : Nat} (runs : (getHeat s h).st = .running) (later : s.lap < lap) :
    ∃ t, exec (.take n req h lap) s = .next t ∧ (getHeat t h).take = some lap ∧ Told t n req resOk 0 := by
  have ahead : ¬ lap ≤ (touchSession s n).lap := by
    obtain ⟨a, taken⟩ := touchSession_frame s n
    rw [taken]
    exact Nat.not_le.mpr later
  obtain ⟨ran, told⟩ := snapAction_acts speaks (req := req) allowed heat (ok := fun st => st = .running || st = .stopping || st = .stopped)
    (by rw [runs]; rfl) (f := fun s => if lap ≤ s.lap then (s, abRange) else (modHeat s h fun x => { x with take := some lap }, 0))
    (if_neg ahead) rfl
  refine ⟨_, congrArg Host.Outcome.next ran, ?_, told⟩
  rw [getHeat_congr (sendResult_heats ..), modHeat_eq, getHeat_setHeat_same]

theorem exec_snapshotCancel_of_live (live : (getHeat s h).st ≠ .free) :
    ∃ t, exec (.snapshotCancel n req h) s = .next t ∧ (getHeat t h).take = none ∧ Told t n req resOk 0 := by
  obtain ⟨ran, told⟩ := snapAction_acts speaks (req := req) allowed heat (ok := (· != .free)) (by simpa using live)
    (f := fun s => (modHeat s h fun x => { x with take := none }, 0)) rfl rfl
  refine ⟨_, congrArg Host.Outcome.next ran, ?_, told⟩
  rw [getHeat_congr (sendResult_heats ..), modHeat_eq, getHeat_setHeat_same]

theorem exec_restart_of_running (runs : (getHeat s h).st = .running) :
    ∃ t, exec (.restart n req h) s = .next t ∧ (getHeat t h).contained = true ∧ Told t n req resOk 0 := by
  obtain ⟨ran, told⟩ := snapAction_acts speaks (req := req) allowed heat (ok := fun st => st = .running || st = .stopped)
    (by rw [runs]; rfl) (f := fun s => (raise s { code := 0x010D, cls := 2, cause := 10, heat := some h }, 0)) rfl
    (by rw [raise_frame])
  refine ⟨_, congrArg Host.Outcome.next ran, ?_, told⟩
  rw [getHeat_congr (sendResult_heats ..)]
  exact contained_raise rfl rfl ((congrArg Heat.st (getHeat_congr (touchSession_heats s n) h)).trans runs)

theorem exec_abandon_of_restarting (restarting : (getHeat s h).st = .restarting) (passed : creationFault s h false = 0)
    (found : discoveryOk s h = true) :
    ∃ t, exec (.abandon n req h) s = .next t ∧ (getHeat t h).st = .running ∧ Told t n req resOk 0 := by
  have same : (getHeat (touchSession s n) h).st = (getHeat s h).st := by rw [getHeat_congr (touchSession_heats s n)]
  have map := touchSession_map s n
  have fault : creationFault (touchSession s n) h false = 0 :=
    (creationFault_congr (fun i sub _ _ => map.dget i sub) map.dom map.heats h false).trans passed
  have discovered : discoveryOk (touchSession s n) h = true := by
    obtain ⟨a, taken⟩ := touchSession_frame s n
    rw [taken]
    exact found
  obtain ⟨u, abandons, runs, sessions⟩ := abandonRestart_of_passed (same.trans restarting) fault discovered
  obtain ⟨ran, told⟩ := snapAction_acts speaks (req := req) allowed heat (ok := (· = .restarting)) (decide_eq_true restarting)
    (f := fun s => abandonRestart s h) abandons sessions
  refine ⟨_, congrArg Host.Outcome.next ran, ?_, told⟩
  rw [getHeat_congr (sendResult_heats ..)]
  exact runs

theorem exec_period_of_live {period : Nat} (live : (getHeat s h).st ≠ .free) (small : period < 2 ^ 32) :
    ∃ t, exec (.period n req h period) s = .next t ∧ dget t (hSnap h) 1 = period ∧ Told t n req resOk 0 := by
  obtain ⟨ran, told⟩ := snapAction_acts speaks (req := req) allowed heat (ok := (· != .free)) (by simpa using live)
    (f := fun s => if period < 2 ^ 32 then (dset s (hSnap h) 1 period, 0) else (s, abRange)) (if_pos small) rfl
  refine ⟨_, congrArg Host.Outcome.next ran, ?_, told⟩
  obtain ⟨_, _, _, sent⟩ := sendResult_frame (dset (touchSession s n) (hSnap h) 1 period) n req resOk 0
  rw [sent]
  exact dget_dset_same ..

end

/-! ## SERVE_REQ and CANCEL (R391, R393) -/

/-- What CANCEL does where the session may send it. -/
def cancelTaken (n req target : Nat) (s : State) : State :=
  match s.serves.find? fun x => x.session = n && x.req = target && !x.ended && !x.cancelled with
  | none => sendResult s n req resBadMessage 8
  | some x =>
    let r := inboxFree s x.heat
    if (getHeat s x.heat).st = .running && r.2.isNone then sendResult r.1 n req resBusy 4
    else sendResult (cancelServe s x) n req resOk 0

section
variable (allowed : needs rightServe x.rights = true) (req : Nat)
include allowed

theorem exec_serveReq_of_room {h maxTokens : Nat} {p : BitVec 256} {tokens : List W32} {prod o : Nat} (heat : h < 16)
    (runs : (getHeat s h).st = .running) (sound : s.errs = []) (free : (inboxFree s h).2 = some prod)
    (place : promptPlace (inboxFree s h).1 h (4 * tokens.length) = some o) (few : openRequests s n < 256) :
    ∃ t, exec (.serveReq n req h maxTokens p tokens) s = .next t ∧
      t.serves = s.serves ++ [{ heat := h, session := n, req := req, base := o, bytes := 4 * tokens.length }] ∧
      readNat t (inboxBase s h) 4 = (prod + 1) % 2 ^ 32 ∧
      readBytes t (inboxBase s h + 64 + 64 * (prod % 2 ^ inboxLog s h)) 64 =
        bytesOf 64 (inboxEntry (serveId n req) (dget s (netIdx h) 7 + o) tokens.length maxTokens inboxRequest p.toNat) ∧
      (dget s (netIdx h) 7 + o + 4 * tokens.length ≤ inboxBase s h →
        readBytes t (dget s (netIdx h) 7 + o) (4 * tokens.length) = tokens.flatMap fun x => bytesOf 4 x.toNat) := by
  have room := inboxRoom_of_free sound free
  have map := touchSession_map s n
  have bytes := touchSession_bytes s n
  have placed : promptPlace (inboxSeen (touchSession s n) h) h (4 * tokens.length) = some o := by
    rw [inboxFree_of_room sound room] at place
    obtain ⟨a, taken⟩ := touchSession_frame s n
    rw [taken]
    exact place
  have open_ : openRequests (touchSession s n) n < 256 := by
    obtain ⟨a, taken⟩ := touchSession_frame s n
    rw [taken]
    exact few
  have serves : (touchSession s n).serves = s.serves := by
    obtain ⟨a, taken⟩ := touchSession_frame s n
    rw [taken]
  have touched := speaks.touched
  have does := admitServe_of_room (req := req) (maxTokens := maxTokens) (params := p.toNat) (bytes.errs.trans sound) heat
    ((congrArg Heat.st (getHeat_congr (touchSession_heats s n) h)).trans runs) (room.congr map bytes) placed open_
  obtain ⟨sessions, errs, dict, listed⟩ := promptStored_frame (s := touchSession s n) (n := n) (req := req) (h := h) (o := o) (tokens :=
      tokens)
  have stored : Stored (promptListed (touchSession s n) n req h o tokens.length) (promptStored (touchSession s n) n req h o tokens)
      (dget (touchSession s n) (netIdx h) 7 + o) (tokens.flatMap fun x => bytesOf 4 x.toNat) := stored_writeBytes _ _ _
  rw [map.dget] at does stored
  generalize promptStored (touchSession s n) n req h o tokens = u at does sessions errs dict listed stored
  have reads (i sub : Nat) : dget u i sub = dget s i sub := by rw [dget, dict, ← map.dget, dget]
  have base : inboxBase u h = inboxBase s h := reads _ _
  have log : inboxLog u h = inboxLog s h := reads _ _
  have put := inboxPut_gives (s := u) (errs.trans (bytes.errs.trans sound)) h prod
    (inboxEntry (serveId n req) (dget s (netIdx h) 7 + o) tokens.length maxTokens inboxRequest p.toNat)
  have frame := ringFrame_inboxPut u h prod
    (inboxEntry (serveId n req) (dget s (netIdx h) 7 + o) tokens.length maxTokens inboxRequest p.toNat)
  generalize inboxPut u h prod
    (inboxEntry (serveId n req) (dget s (netIdx h) 7 + o) tokens.length maxTokens inboxRequest p.toNat) = t at does put frame
  rw [inboxSlot, base, log] at put
  obtain ⟨index, entry, low⟩ := put
  refine ⟨t, congrArg Host.Outcome.next (speaks.onMessage_open (f := fun s => admitServe s n req h maxTokens p.toNat tokens) allowed does
    ((getSession_congr (frame.sessions.trans sessions) n).trans touched) rfl (Nat.le_succ _)), ?_, index, entry, fun before => ?_⟩
  · rw [frame.serves, listed, serves]
  · have length := length_prompt tokens
    have held := stored.1
    rw [length] at held
    rw [readBytes_congr fun i inside => low _ (by omega)]
    exact held

theorem exec_cancel_of_unknown {target : Nat}
    (none_ : (s.serves.find? fun x => x.session = n && x.req = target && !x.ended && !x.cancelled) = none) :
    ∃ t, exec (.cancel n req target) s = .next t ∧ t = { s with sessions := t.sessions, out := t.out, pausedOut := t.pausedOut } ∧
      Told t n req resBadMessage 8 := by
  have unknown : ((touchSession s n).serves.find? fun x => x.session = n && x.req = target && !x.ended && !x.cancelled) = none := by
    obtain ⟨a, taken⟩ := touchSession_frame s n
    rw [taken]
    exact none_
  have told := speaks.onMessage_told (req := req) (result := resBadMessage) (detail := 8) allowed
    (f := cancelTaken n req target) (by simp only [cancelTaken, unknown])
  exact ⟨_, rfl, told⟩

theorem exec_cancel_of_waiting {target : Nat} {y : Serve}
    (found : (s.serves.find? fun x => x.session = n && x.req = target && !x.ended && !x.cancelled) = some y)
    (still : (getHeat s y.heat).st ≠ .running) : ∃ t, exec (.cancel n req target) s = .next t ∧ Told t n req resOk 0 ∧
      ∀ z ∈ t.serves, z.heat = y.heat → z.session = n → z.req = target → z.cancelled = true ∧ z.owed = true := by
  have serves : (touchSession s n).serves = s.serves := by
    obtain ⟨a, taken⟩ := touchSession_frame s n
    rw [taken]
  have idle : (getHeat (touchSession s n) y.heat).st ≠ .running := by
    rw [getHeat_congr (touchSession_heats s n)]
    exact still
  let u : State := { touchSession s n with serves := s.serves.map fun z =>
    if z.heat = y.heat && z.session = y.session && z.req = y.req then { z with cancelled := true, owed := true } else z }
  have marks : cancelServe (touchSession s n) y = u := by
    unfold cancelServe
    simp only [bne_iff_ne, ne_eq, idle, not_false_eq_true, if_true, serves]
    rfl
  have does : cancelTaken n req target (touchSession s n) = sendResult u n req resOk 0 := by
    simp only [cancelTaken, serves, found, idle, decide_false, Bool.false_and, Bool.false_eq_true, if_false, marks]
  obtain ⟨ran, told⟩ := speaks.onMessage_acts (req := req) allowed
    (f := cancelTaken n req target) does rfl
  refine ⟨_, congrArg Host.Outcome.next ran, told, ?_⟩
  obtain ⟨_, _, _, sent⟩ := sendResult_frame u n req resOk 0
  rw [sent]
  have names := List.find?_some found
  simp only [Bool.and_eq_true, decide_eq_true_eq] at names
  obtain ⟨⟨⟨session, number⟩, -⟩, -⟩ := names
  intro z listed heat mine this
  obtain ⟨w, -, is⟩ := List.mem_map.mp (show z ∈ s.serves.map _ from listed)
  by_cases same : (decide (w.heat = y.heat) && decide (w.session = y.session) && decide (w.req = y.req)) = true
  · rw [if_pos same] at is
    rw [← is]
    exact ⟨rfl, rfl⟩
  · rw [if_neg same] at is
    subst is
    exact absurd (by simp [heat, mine, this, session, number]) same

end

end

end Sys2Proof.Machine
end

section
/-! SUPPORT. PLAN_SUBMIT as a message (R388, R389), and the requests of a session together (R386, R388 to R393, R461). -/

namespace Sys2Proof.Machine

/-! ## PLAN_SUBMIT -/

/-- What PLAN_SUBMIT does where the session may send it. -/
def planTaken (n req : Nat) (d : List Byte) (s : State) : State :=
  match decodePlan d with
  | .error e => rejectPlan s n req e (if e = planHeadAt then some [] else none)
  | .ok r => submitPlan s n req r

/-- Either right lets a session submit a plan; which plans, the heat's claim says. -/
def mayPlan (r : Nat) : Bool := needs rightSubmit r || needs rightPlan r

theorem exec_planSubmit (s : State) (n req : Nat) (d : List Byte) :
    exec (.planSubmit n req d) s = .next (onMessage s n req mayPlan (planTaken n req d)) := rfl

theorem speaks_of_mayPlan {s : State} {n : Nat} (may : sessionOpen s n rightSubmit ∨ sessionOpen s n rightPlan) :
    ∃ x, Speaks s n x ∧ mayPlan x.rights = true := by
  rcases may with submit | plan
  · obtain ⟨x, speaks, allowed⟩ := speaks_of_sessionOpen submit
    exact ⟨x, speaks, by rw [mayPlan, allowed, Bool.true_or]⟩
  · obtain ⟨x, speaks, allowed⟩ := speaks_of_sessionOpen plan
    exact ⟨x, speaks, by rw [mayPlan, allowed, Bool.or_true]⟩

section
variable {s : State} {n req : Nat} {d : List Byte} {x : Session} (speaks : Speaks s n x) (allowed : mayPlan x.rights = true)
include speaks allowed

/-- A plan that cannot be read is rejected where it breaks; one whose header is out of range is logged as well. -/
theorem exec_planSubmit_of_error {e : Nat} (broken : decodePlan d = .error e) : ∃ t, exec (.planSubmit n req d) s = .next t ∧
    (e ≠ planHeadAt → t = { s with sessions := t.sessions, out := t.out, pausedOut := t.pausedOut }) ∧
    t.plans = s.plans ∧ t.mem = s.mem ∧ t.dict = s.dict ∧ t.conns = s.conns ∧ Told t n req resPlanRejected e := by
  obtain ⟨a, taken⟩ := touchSession_frame s n
  by_cases head : e = planHeadAt
  · have does : planTaken n req d (touchSession s n) =
        sendResult (raise (touchSession s n) { code := 0x0303, cls := 0, detail := zeros 32 ++ [] }) n req resPlanRejected e := by
      simp only [planTaken, broken, rejectPlan, if_pos head]
    obtain ⟨ran, told⟩ := speaks.onMessage_acts (f := planTaken n req d) allowed does (getSession_congr (by rw [raise_frame]) n)
    obtain ⟨_, _, _, sent⟩ := sendResult_frame (raise (touchSession s n) { code := 0x0303, cls := 0, detail := zeros 32 ++ [] }) n req
      resPlanRejected e
    refine ⟨_, (exec_planSubmit s n req d).trans (congrArg _ ran), fun other => absurd head other, ?_, ?_, ?_, ?_, told⟩
    all_goals rw [sent, raise_frame, taken]
  · have does : planTaken n req d (touchSession s n) = sendResult (touchSession s n) n req resPlanRejected e := by
      simp only [planTaken, broken, rejectPlan, if_neg head]
    obtain ⟨kept, told⟩ := speaks.onMessage_told (f := planTaken n req d) allowed does
    refine ⟨_, exec_planSubmit s n req d, fun _ => kept, ?_, ?_, ?_, ?_, told⟩
    all_goals rw [kept]

/-- A plan that is only answered. -/
theorem exec_planSubmit_told {r : RawPlan} (read : decodePlan d = .ok r) {result detail : Nat}
    (does : submitPlan (touchSession s n) n req r = sendResult (touchSession s n) n req result detail) :
    ∃ t, exec (.planSubmit n req d) s = .next t ∧ t = { s with sessions := t.sessions, out := t.out, pausedOut := t.pausedOut } ∧
      Told t n req result detail :=
  ⟨_, exec_planSubmit s n req d, speaks.onMessage_told (f := planTaken n req d) allowed (by simp only [planTaken, read]; exact does)⟩

/-- A plan that is installed, and answered after it. -/
theorem exec_planSubmit_acts {r : RawPlan} (read : decodePlan d = .ok r) {u : State}
    (does : submitPlan (touchSession s n) n req r = sendResult u n req resOk 0) (same : getSession u n = getSession (touchSession s n) n) :
    exec (.planSubmit n req d) s = .next (sendResult u n req resOk 0) ∧ Told (sendResult u n req resOk 0) n req resOk 0 := by
  obtain ⟨ran, told⟩ := speaks.onMessage_acts (f := planTaken n req d) allowed (by simp only [planTaken, read]; exact does) same
  exact ⟨(exec_planSubmit s n req d).trans (congrArg _ ran), told⟩

/-- A HEAT plan that passes is installed, and its heat claimed (R388, R389). -/
theorem exec_planSubmit_of_good {r : RawPlan} (read : decodePlan d = .ok r) (heat : r.plan.transit = false)
    (mine : claimedElse s r.plan.heat n = false) (fabric : fabricFault (touchSession s n) r = none)
    (whole : wholeFault (touchSession s n) r.plan = false) {u : State}
    (wrote : tryWrites (touchSession s n) (.starter n req) r.plan.writes = .ok u) (fits : rangeFault (touchSession s n) r n = none)
    (same : getSession u n = getSession (touchSession s n) n) : ∃ t, exec (.planSubmit n req d) s = .next t ∧ Told t n req resOk 0 ∧
      (t.plans.getLast?).map (·.plan) = some r.plan ∧ (∀ j, dget t (hCfg r.plan.heat) j = dget u (hCfg r.plan.heat) j) ∧
      ((getHeat u r.plan.heat).st = .free → (getHeat t r.plan.heat).claim = some n) := by
  have own : claimedElse (touchSession s n) r.plan.heat n = false := by
    rw [claimedElse, getHeat_congr (touchSession_heats s n)]
    exact mine
  obtain ⟨sessions, last, entries, claims⟩ := installHeatPlan_gives u r.plan n
  obtain ⟨ran, told⟩ := exec_planSubmit_acts speaks allowed read (submitPlan_of_good fabric whole heat own wrote fits)
    ((getSession_congr sessions n).trans same)
  generalize installHeatPlan u r.plan n = v at last entries claims ran told
  obtain ⟨_, _, _, sent⟩ := sendResult_frame v n req resOk 0
  refine ⟨_, ran, told, ?_⟩
  rw [sent]
  exact ⟨last, entries, claims⟩

/-- A TRANSIT plan that passes is installed. -/
theorem exec_planSubmit_of_transit {r : RawPlan} (read : decodePlan d = .ok r) (transit : r.plan.transit = true)
    (fabric : fabricFault s r = none) (whole : wholeFault s r.plan = false) : ∃ t, exec (.planSubmit n req d) s = .next t ∧
      Told t n req resOk 0 ∧ (t.plans.getLast?).map (·.plan) = some r.plan := by
  have faults : fabricFault (touchSession s n) r = none ∧ wholeFault (touchSession s n) r.plan = false := by
    obtain ⟨a, taken⟩ := touchSession_frame s n
    rw [taken]
    exact ⟨fabric, whole⟩
  have given := installPlan_gives (touchSession s n) r.plan
  have does := submitPlan_of_transit (n := n) (req := req) faults.1 faults.2 transit
  generalize installPlan (touchSession s n) r.plan = u at given does
  obtain ⟨frame, plans, -⟩ := given
  obtain ⟨ran, told⟩ := exec_planSubmit_acts speaks allowed read does (getSession_congr (by rw [frame.whole]) n)
  obtain ⟨_, _, _, sent⟩ := sendResult_frame u n req resOk 0
  have last : (u.plans.getLast?).map (·.plan) = some r.plan := by
    rw [plans, List.getLast?_concat]
    rfl
  refine ⟨_, ran, told, ?_⟩
  rw [sent]
  exact last

end

/-! ## All of them -/

/-- Settles O59: each request of a session needs its right, does what it asks and is answered. -/
theorem starterRequests : Obligations.StarterRequests := by
  unfold Obligations.StarterRequests
  intro s n req h a d l p w kept
  refine ⟨fun r row x found setUp link inLeft outLeft lacks => rightRow_refused ⟨found, setUp, link, inLeft, outLeft⟩ row lacks,
    fun may => ?_, fun may => ?_, fun may short => ?_, fun may heat => ?_, fun may => ?_⟩
  · obtain ⟨x, speaks, allowed⟩ := speaks_of_mayPlan may
    refine ⟨fun e broken => exec_planSubmit_of_error speaks allowed broken, ?_,
      fun r read transit fabric whole => exec_planSubmit_of_transit speaks allowed read transit fabric whole⟩
    intro r read heat g v
    have claim : claimedElse v g n = claimedElse s g n := by
      rw [claimedElse, getHeat_congr (touchSession_heats s n), claimedElse]
    refine ⟨fun claimed => exec_planSubmit_told speaks allowed read (submitPlan_of_claimed heat (claim.trans claimed)),
      fun mine fabric whole => ⟨fun e bad => ?_, fun u wrote => ⟨fun e bad => ?_, fun fits same => ?_⟩⟩⟩
    · exact exec_planSubmit_told speaks allowed read (submitPlan_of_badWrite fabric whole heat (claim.trans mine) bad)
    · exact exec_planSubmit_told speaks allowed read (submitPlan_of_badRange fabric whole heat (claim.trans mine) wrote bad)
    · exact exec_planSubmit_of_good speaks allowed read heat mine fabric whole wrote fits same
  · obtain ⟨x, speaks, allowed⟩ := speaks_of_sessionOpen may
    exact ⟨exec_imageData_of_unclaimed speaks allowed req h a d,
      fun y m claimed image inside sound part => exec_imageData_of_part speaks allowed req claimed image inside sound part,
      fun heat none_ => exec_jobStart_of_unclaimed speaks allowed req heat w none_,
      fun heat claimed loaded free ready passed => exec_jobStart_of_ready speaks allowed req heat w claimed loaded free ready passed⟩
  · obtain ⟨x, speaks, allowed⟩ := speaks_of_sessionOpen may
    exact exec_statusReq_of_short speaks allowed req short
  · obtain ⟨x, speaks, allowed⟩ := speaks_of_sessionOpen may
    exact ⟨exec_take_of_later speaks allowed req heat, exec_snapshotCancel_of_live speaks allowed req heat,
      exec_restart_of_running speaks allowed req heat, exec_abandon_of_restarting speaks allowed req heat,
      exec_period_of_live speaks allowed req heat⟩
  · obtain ⟨x, speaks, allowed⟩ := speaks_of_sessionOpen may
    exact ⟨fun prod o tokens heat runs sound free place few => exec_serveReq_of_room speaks allowed req heat runs sound free place few,
      fun y found still => exec_cancel_of_waiting speaks allowed req found still, exec_cancel_of_unknown speaks allowed req⟩

end Sys2Proof.Machine
end
